-- ==== Sys2Proof/Word.lean ====
section
/-! DEFINITION. Word.lean: the widths the spec names most often (R14 registers of 64 bits, bytes of memory,
48-bit device physical addresses held as naturals). Nothing here computes anything a test could show wrong. -/
namespace Sys2Proof

/-- A 64-bit register or parameter word (R14, R469). -/
abbrev Word := BitVec 64

/-- One byte of memory. -/
abbrev Byte := BitVec 8

/-- A 32-bit lane of a vector register or a sequencer register (R109, R112). -/
abbrev Lane := BitVec 32

end Sys2Proof
end

