-- ==== Sys2Proof/Syntax.lean ====
section
/-! DEFINITION. Syntax.lean: the commands the hub takes, one constructor for each row of the spec's table of
operations and events, with the operands that come with the command from outside the block. -/
namespace Sys2Proof

/-- An upset that the environment inflicts on the unit an instruction uses (R59, R60, R98, R99, R101, R136). In the matrix unit: an
integer of a residue-checked stage, or the internal sum (stage 5), that is off by `delta` at one element; a mismatch of
duplicated logic (stages 1 and 8); a row whose parity bit no longer agrees (stage 7). Elsewhere: a mismatch the vector
engine finds, an uncorrectable or a corrected tile-store read, a sequencer parity error. -/
inductive Upset where
  | matSum (stage row col : Nat) (delta : Int)
  | matDup (stage : Nat)
  | matParity (row : Nat)
  | vector
  | storeUncorrectable
  | storeCorrected
  | seqParity
  deriving DecidableEq, Repr

/-- A tile instruction issued by a tile's sequencer: the tile (field × 512 + bay × 8 + tile), bits [47:0] of the
instruction word (R73; the mnemonic fixes the major opcode and the function), and an upset, if one strikes it. A word whose bits
[63:48] name no listed instruction has no row: it goes as NOP with those bits in `reserved` (R74). -/
structure TileOp where
  tile : Nat
  w : BitVec 48
  upset : Option Upset := none
  reserved : Option (BitVec 16) := none
  deriving DecidableEq, Repr

/-- An Idoon packet (R230): its header fields and its data blocks; no part of the packet, `upset` is what the code of a tile store finds
as a read of it is served (R99, R101). `ecrc` is the ECRC of a packet in transit whose end-to-end check fails; without it a packet
carries the right one (R230). -/
structure IdnPkt where
  ty : Nat
  hops : Nat := 0
  urgent : Bool := false
  cls : Nat := 0
  dst : Nat
  src : Nat
  epoch : Nat := 0
  part : Nat := 0
  rlen : Nat := 0
  tag : Nat := 0
  srcTile : Nat := 0
  addr : Nat := 0
  data : List Byte := []
  upset : Option Upset := none
  ecrc : Option Nat := none
  deriving DecidableEq, Repr

/-- A codeword of the coding layer as it arrives (R225): the places of its 544 symbols that come wrong. Up to 15 are corrected. -/
abbrev Codeword := List Nat

/-- A control block as it arrives on a port (R225, R227): its CRC, whether it lies in an uncorrectable codeword, and the codewords that end
with it. -/
structure BlkArr where
  crcOk : Bool
  uncorr : Bool := false
  words : List Codeword := []
  deriving DecidableEq, Repr

/-- A packet as it arrives on a port: the lane group, its link sequence number, and how its checks came out: the link
CRC, whether an uncorrectable codeword overlaps it, the end-to-end CRC (R228, R232); and the codewords that end within it (R225). -/
structure IdnArr where
  port : Nat
  seq : Nat
  lcrcOk : Bool
  uncorr : Bool
  ecrcOk : Bool
  pkt : IdnPkt
  words : List Codeword := []
  deriving DecidableEq, Repr


/-- One line of a REPORT packet (R231): the partition, the status code (0 CLEAN, 1 SPOIL, 2 OVERRUN, 3 SPOIL with REPEAT,
4 foreign spoil), the fit plan, and the decision the hub repeats, 0xFF for none. -/
structure RepLine where
  part : Nat
  code : Nat
  fit : Nat
  told : Nat
  deriving DecidableEq, Repr

/-- One line of a DECISION packet (R231): the partition, the decision (0 COMMIT, 1 REPLAY, 2 FALLBACK, 3 FAULT), the next
plan and the fault cause. -/
structure DecLine where
  part : Nat
  dec : Nat
  plan : Nat
  cause : Nat
  deriving DecidableEq, Repr

/-- An EDGE control block as it arrives (R227, R250): `remain` in picoseconds. -/
structure EdgeBlock where
  hops : Nat
  master : Nat
  epoch : Nat
  tick : Nat
  remain : Int
  period : Nat
  fromTick : Nat
  deriving DecidableEq, Repr

/-- The neighbours of each hub, as the HELLO, FORM and MEMBERSHIP packets carry them (R231, R244). -/
abbrev Adjacency := List (Nat × List Nat)

/-- A HELLO flood (R246): who sent it, the epoch it holds, RUN, its licensed member count, its neighbours, and whether
its domain section is valid (R248). -/
structure HelloMsg where
  hub : Nat
  epoch : Nat
  run : Bool
  limit : Nat
  near : List Nat
  deriving DecidableEq, Repr

/-- A FORM (R246 step 4); `t0` is the time in nanoseconds of edge 0. -/
structure FormMsg where
  epoch : Nat
  members : List Nat
  adj : Adjacency
  master : Nat
  t0 : Nat := 0
  deriving DecidableEq, Repr

/-- A MEMBERSHIP (R231, R262, R263): the new epoch, members and adjacency, and the edge at which they apply. -/
structure MemberMsg where
  epoch : Nat
  members : List Nat
  adj : Adjacency
  edge : Nat
  deriving DecidableEq, Repr


/-- What a controller meets as it reads or writes a sector (R282 to R284, R296): interface errors in a row on the read access and on the
write access to the part; the bytes of the 576 stored (512 of data, then 64 of check bytes) that come wrong; the sector that the
part gave instead, if it gave another; and the refresh need it reports, if it reports one: is it 2×. -/
structure MemUpset where
  errors : Nat := 0
  writeErrors : Nat := 0
  flips : List Nat := []
  wrong : Option Nat := none
  refreshX2 : Option Bool := none
  deriving DecidableEq, Repr

/-- Who asks a controller for a sector (R286): a tile or mover of a partition; the walker that serves a tile, for a page sector or a table
sector of a batch entry (R161); the commit drain of a partition, for the item of its oldest drain at an index; or a requester
outside ticks. -/
inductive MemReq where
  | unit (part : Nat)
  | walker (tile entry : Nat) (page : Bool)
  | drain (part item : Nat)
  | outside
  deriving DecidableEq, Repr

/-- Who writes to a controller (R328): the class of the request and who asks. -/
structure MemWriter where
  cls : Nat
  who : MemReq
  deriving DecidableEq, Repr

/-- A write-back of a corrected sector (R285): the sector, and what the accesses of its part meet. -/
structure WriteBack where
  sector : Nat
  u : MemUpset := {}
  deriving DecidableEq, Repr

/-- A channel of a memory controller (R270, R271, R287). -/
structure MemChan where
  ctl : Nat
  chan : Nat
  deriving DecidableEq, Repr

/-- A bridge of a crossing (R321): the crossing within its field, and the direction: `back` is inbound to the field. -/
structure Bridge where
  crossing : Nat
  back : Bool
  deriving DecidableEq, Repr

/-- The bytes that a request of a tenon names. -/
structure IoSpan where
  addr : Nat
  n : Nat
  deriving DecidableEq, Repr

/-- A walker takes a request of a tile: the tile, and what strikes the read of the request's slot, if anything does (R99, R101). -/
structure WalkTake where
  tile : Nat
  upset : Option Upset := none
  deriving DecidableEq, Repr

/-- The terms of a HANDOVER (R204, R254): the successor's first tick, and the hubs that hold each partition as a mask. -/
structure HandTerms where
  tick : Nat
  held : List (Nat × Nat) := []
  deriving DecidableEq, Repr

/-- A hub-network packet (R313), without its TYPE, which the command gives, except where it is one that R314 does not
define; `lines` is LEN; no part of the packet, `upset` is what the code of a tile store finds as a read of it is served (R99, R101). -/
structure NetPkt where
  badType : Option Nat := none
  urgent : Bool := false
  cls : Nat := 0
  alloc : Bool := false
  coh : Bool := false
  hubu : Bool := false
  lines : Nat := 0
  part : Nat := 0
  dst : Nat := 0
  src : Nat := 0
  tag : Nat := 0
  dstHub : Nat := 0
  status : Nat := 0
  addr : Nat := 0
  agent : Nat := 0xFF
  mask : Nat := 0xFFFFFFFFFFFFFFFF
  data : List Byte := []
  upset : Option Upset := none
  deriving DecidableEq, Repr

/-- A packet's journey, over the routers that R316 gives: at which of them, by number on the way, four records of that cycle had
been traced (R344); a word that the check of a router finds uncorrectable, in the header or in the data (R318); whether the
destination's CRC check holds (R319). -/
structure NetArr where
  crowded : List Nat := []
  badWord : Option (Nat × Bool) := none
  crcOk : Bool := true
  pkt : NetPkt
  deriving DecidableEq, Repr

/-- A request that has waited 16 µs (R330): a packet of an Idoon port's queue, a request that waits at a mortise site, or a request
of the hub network. -/
inductive AgedReq where
  | idoon (port idx : Nat)
  | site (site idx : Nat)
  | net (src tag : Nat)
  deriving DecidableEq, Repr


/-- What a bring-up step meets in the parts around it (R545): a privileged unit's segment that fails four times (step 7); the
crossings that fail to train (step 6); the rate codes and data capacities in MiB of the stacks and of the fen-tier packages, none
where there are no packages (step 8); the sites with a tenon, by MTn_PRSNT_N low (step 9); the physical units that fail their
known-answer run, as field, bay, tile and whether the bay's own units failed, and a failure without a spare (step 10); the fused core
voltages in mV (step 5); the memory ranges firmware gives partition 0, as tier, first and last GiB (step 11). -/
structure BootEnv where
  segBad : Bool := false
  crossings : List (Nat × Nat) := []
  stackRates : List Nat := []
  stackCaps : List Nat := []
  fenRates : List Nat := []
  fenCaps : List Nat := []
  present : Nat := 0
  katBad : List (Nat × Nat × Nat × Bool) := []
  katHub : Bool := false
  targets : List Nat := []
  mem : List (Nat × Nat × Nat) := []
  deriving DecidableEq, Repr


/-- How a register access comes (R402, R409, R515): through BAR0 of the PF or of a VF on a host port, in the function's selective
IDE stream or not, or through the management port. -/
inductive RegPath where
  | pf (port : Nat) (ide : Bool)
  | vf (port fn : Nat) (ide : Bool)
  | mgmt
  deriving DecidableEq, Repr

/-- A register write (R11, R14): its path, the window by the ID and INSTANCE of the capability directory (R408), the offset in it,
and the bytes written from there on. -/
structure RegWr where
  path : RegPath
  win : Nat
  inst : Nat
  off : Nat
  bytes : List Byte
  deriving DecidableEq, Repr


/-- The commands of the hub. -/
inductive Instr where
  /-- NOP (R75). -/
  | nop (o : TileOp)
  /-- END (R71). -/
  | endTick (o : TileOp)
  /-- BR (R75). -/
  | br (o : TileOp)
  /-- BRZ (R75). -/
  | brz (o : TileOp)
  /-- BRNZ (R75). -/
  | brnz (o : TileOp)
  /-- LOOP (R75). -/
  | loopTo (o : TileOp)
  /-- SLI (R75). -/
  | sli (o : TileOp)
  /-- SLIH (R75). -/
  | slih (o : TileOp)
  /-- SLD (R75). -/
  | sld (o : TileOp)
  /-- SST (R75). -/
  | sst (o : TileOp)
  /-- WAITC (R92). -/
  | waitc (o : TileOp)
  /-- WAIT_SATISFIED (R69). -/
  | waitSatisfied (tile : Nat)
  /-- BSYNC (R93). -/
  | bsync (o : TileOp)
  /-- BARRIER_RELEASE (R93). -/
  | barrierRelease (bay : Nat) (barrier : Nat)
  /-- SIG (R94). -/
  | sig (o : TileOp)
  /-- WAITS (R75). -/
  | waits (o : TileOp)
  /-- MMA (R83). -/
  | mma (o : TileOp)
  /-- MMB (R44). -/
  | mmb (o : TileOp)
  /-- MSCAN (R48). -/
  | mscan (o : TileOp)
  /-- MOUT_RECORDS (R81). -/
  | moutRecords (o : TileOp)
  /-- MOUT_FP32 (R54). -/
  | moutFp32 (o : TileOp)
  /-- MOUT_BF16 (R55). -/
  | moutBf16 (o : TileOp)
  /-- MOUT_MX (R56). -/
  | moutMx (o : TileOp)
  /-- MATRIX_COMPLETE (R92). -/
  | matrixComplete (tile : Nat)
  /-- TLD (R88). -/
  | tld (o : TileOp)
  /-- TLD_COMPLETE (R92). -/
  | tldComplete (tile : Nat) (host : List Byte)
  /-- TST (R89). -/
  | tst (o : TileOp)
  /-- TST_ACK (R92). -/
  | tstAck (tile : Nat)
  /-- TST_S (R90). -/
  | tstS (o : TileOp)
  /-- TILE_TRANSLATION_FILL (R87). -/
  | tileTranslationFill (tile : Nat) (store : Bool)
  /-- PATROL_SCRUB (R100). -/
  | patrolScrub (tile : Nat) (line : Nat) (found : Option Upset)
  /-- XADD (R116). -/
  | xadd (o : TileOp)
  /-- XSUB (R116). -/
  | xsub (o : TileOp)
  /-- XMUL (R116). -/
  | xmul (o : TileOp)
  /-- XAND (R116). -/
  | xand (o : TileOp)
  /-- XOR (R116). -/
  | xor (o : TileOp)
  /-- XXOR (R116). -/
  | xxor (o : TileOp)
  /-- XSHL (R116). -/
  | xshl (o : TileOp)
  /-- XSHR (R116). -/
  | xshr (o : TileOp)
  /-- XSRA (R116). -/
  | xsra (o : TileOp)
  /-- XSLT (R116). -/
  | xslt (o : TileOp)
  /-- XSLTU (R116). -/
  | xsltu (o : TileOp)
  /-- XSEQ (R116). -/
  | xseq (o : TileOp)
  /-- XMIN (R116). -/
  | xmin (o : TileOp)
  /-- XMAX (R116). -/
  | xmax (o : TileOp)
  /-- XMINU (R116). -/
  | xminu (o : TileOp)
  /-- XMAXU (R116). -/
  | xmaxu (o : TileOp)
  /-- VLD (R113). -/
  | vld (o : TileOp)
  /-- VST (R113). -/
  | vst (o : TileOp)
  /-- VLDS (R116). -/
  | vlds (o : TileOp)
  /-- VSTS (R116). -/
  | vsts (o : TileOp)
  /-- VSTMX (R123). -/
  | vstmx (o : TileOp)
  /-- VLDMX (R123). -/
  | vldmx (o : TileOp)
  /-- VECTOR_STORE_COMPLETE (R113). -/
  | vectorStoreComplete (tile : Nat)
  /-- VFADD (R118). -/
  | vfadd (o : TileOp)
  /-- VFSUB (R118). -/
  | vfsub (o : TileOp)
  /-- VFMUL (R118). -/
  | vfmul (o : TileOp)
  /-- VFMIN (R120). -/
  | vfmin (o : TileOp)
  /-- VFMAX (R120). -/
  | vfmax (o : TileOp)
  /-- VFABS (R120). -/
  | vfabs (o : TileOp)
  /-- VFNEG (R120). -/
  | vfneg (o : TileOp)
  /-- VFSCALE (R118). -/
  | vfscale (o : TileOp)
  /-- VFMA (R118). -/
  | vfma (o : TileOp)
  /-- VFMS (R118). -/
  | vfms (o : TileOp)
  /-- VFNMA (R118). -/
  | vfnma (o : TileOp)
  /-- VADD (R121). -/
  | vadd (o : TileOp)
  /-- VSUB (R121). -/
  | vsub (o : TileOp)
  /-- VMUL (R121). -/
  | vmul (o : TileOp)
  /-- VMIN (R116). -/
  | vmin (o : TileOp)
  /-- VMAX (R116). -/
  | vmax (o : TileOp)
  /-- VADDS (R121). -/
  | vadds (o : TileOp)
  /-- VSUBS (R121). -/
  | vsubs (o : TileOp)
  /-- VAND (R116). -/
  | vand (o : TileOp)
  /-- VOR (R116). -/
  | vor (o : TileOp)
  /-- VXOR (R116). -/
  | vxor (o : TileOp)
  /-- VNOT (R116). -/
  | vnot (o : TileOp)
  /-- VSHL (R121). -/
  | vshl (o : TileOp)
  /-- VSHR (R121). -/
  | vshr (o : TileOp)
  /-- VSRA (R121). -/
  | vsra (o : TileOp)
  /-- VCMPEQ (R120). -/
  | vcmpeq (o : TileOp)
  /-- VCMPNE (R120). -/
  | vcmpne (o : TileOp)
  /-- VCMPLT (R120). -/
  | vcmplt (o : TileOp)
  /-- VCMPLE (R120). -/
  | vcmple (o : TileOp)
  /-- VCMPGT (R120). -/
  | vcmpgt (o : TileOp)
  /-- VCMPGE (R120). -/
  | vcmpge (o : TileOp)
  /-- VCMPSPC (R116). -/
  | vcmpspc (o : TileOp)
  /-- PAND (R116). -/
  | pand (o : TileOp)
  /-- POR (R116). -/
  | por (o : TileOp)
  /-- PXOR (R116). -/
  | pxor (o : TileOp)
  /-- PNOT (R116). -/
  | pnot (o : TileOp)
  /-- PSET (R116). -/
  | pset (o : TileOp)
  /-- PCNT (R116). -/
  | pcnt (o : TileOp)
  /-- PFIRST (R116). -/
  | pfirst (o : TileOp)
  /-- VMOV (R116). -/
  | vmov (o : TileOp)
  /-- VBCAST (R116). -/
  | vbcast (o : TileOp)
  /-- VIOTA (R116). -/
  | viota (o : TileOp)
  /-- VSEL (R116). -/
  | vsel (o : TileOp)
  /-- VEXT (R116). -/
  | vext (o : TileOp)
  /-- VINS (R116). -/
  | vins (o : TileOp)
  /-- VPERM (R116). -/
  | vperm (o : TileOp)
  /-- VRDFL (R132). -/
  | vrdfl (o : TileOp)
  /-- VCOMP (R129). -/
  | vcomp (o : TileOp)
  /-- VEXPD (R130). -/
  | vexpd (o : TileOp)
  /-- VCOMPI (R129). -/
  | vcompi (o : TileOp)
  /-- VRSUMF (R126). -/
  | vrsumf (o : TileOp)
  /-- VRMAXF (R127). -/
  | vrmaxf (o : TileOp)
  /-- VRMINF (R127). -/
  | vrminf (o : TileOp)
  /-- VRSUMI (R127). -/
  | vrsumi (o : TileOp)
  /-- VRMAXI (R127). -/
  | vrmaxi (o : TileOp)
  /-- VRMINI (R127). -/
  | vrmini (o : TileOp)
  /-- VRAMAXF (R127). -/
  | vramaxf (o : TileOp)
  /-- VRRMAXF (R621). -/
  | vrrmaxf (o : TileOp)
  /-- VRRSUMF (R621). -/
  | vrrsumf (o : TileOp)
  /-- VRRAMAXF (R621). -/
  | vrramaxf (o : TileOp)
  /-- VEXP2 (R124). -/
  | vexp2 (o : TileOp)
  /-- VLOG2 (R124). -/
  | vlog2 (o : TileOp)
  /-- VRCP (R124). -/
  | vrcp (o : TileOp)
  /-- VRSQRT (R124). -/
  | vrsqrt (o : TileOp)
  /-- VTANH (R125). -/
  | vtanh (o : TileOp)
  /-- VSIGM (R125). -/
  | vsigm (o : TileOp)
  /-- VCVT (R122). -/
  | vcvt (o : TileOp)
  /-- VRADD (R131). -/
  | vradd (o : TileOp)
  /-- VRCVT (R131). -/
  | vrcvt (o : TileOp)
  /-- VRMK (R131). -/
  | vrmk (o : TileOp)
  /-- VEXPQ (R128). -/
  | vexpq (o : TileOp)
  /-- GATHER (R150). -/
  | gather (w : WalkTake)
  /-- APPEND (R157). -/
  | append (w : WalkTake) (mismatch : Bool)
  /-- MASK (R169). -/
  | mask (w : WalkTake)
  /-- KV_DELIVERY_COMPLETE (R150). -/
  | kvDeliveryComplete (tile : Nat)
  /-- DOORBELL (R463). -/
  | doorbell (port : Nat) (fn : Nat) (off : Nat) (size : Nat) (ide : Bool) (v : Word)
  /-- COMMAND_FETCH (R473). -/
  | commandFetch (queue : Nat)
  /-- TICK_EDGE_EMIT (R250). -/
  | tickEdgeEmit
  /-- EDGE (R251). -/
  | edge (port : Nat) (k : BlkArr) (b : EdgeBlock)
  /-- TICK_EDGE_APPLY (R177). -/
  | tickEdgeApply
  /-- REPORT (R204). -/
  | report (a : IdnArr) (lines : List RepLine)
  /-- REPORT_TIMEOUT (R203). -/
  | reportTimeout
  /-- DECISION (R204). -/
  | decision (a : IdnArr) (lines : List DecLine)
  /-- TICK_RELEASE (R31). -/
  | tickRelease (part : Nat)
  /-- DRAIN_LAYER_DONE (R205). -/
  | drainLayerDone (part : Nat)
  /-- COMMIT_DRAIN_END (R205). -/
  | commitDrainEnd (part : Nat)
  /-- EGRESS_WRITE (R205). -/
  | egressWrite (part : Nat)
  /-- FENCE_WRITE_APPLY (R205). -/
  | fenceWriteApply (part : Nat)
  /-- HOST_STORE_ACK (R417). -/
  | hostStoreAck (port : Nat)
  /-- KV_PAGE_COPY_DONE (R166). -/
  | kvPageCopyDone (cmd : Nat) (idx : Nat)
  /-- TICK_CTRL_WRITE (R182). -/
  | tickCtrlWrite (v : Word)
  /-- TICK_PERIOD_SET_WRITE (R181). -/
  | tickPeriodSetWrite (v : Word)
  /-- PART_CFG_ENABLE (R215). -/
  | partCfgEnable (part : Nat) (v : Word)
  /-- PART_CFG_DISABLE (R622). -/
  | partCfgDisable (part : Nat) (v : Word)
  /-- PART_IDOON_WRITE (R218). -/
  | partIdoonWrite (part : Nat) (v : Word)
  /-- GCTL_TILE_QUERY_WRITE (R29). -/
  | gctlTileQueryWrite (v : Word)
  /-- TILE_QUERY_RESOLVED (R29). -/
  | tileQueryResolved
  /-- DOM_CTRL_LEAVE (R262). -/
  | domCtrlLeave (v : Word)
  /-- DOM_CTRL_JOIN (R263). -/
  | domCtrlJoin (v : Word)
  /-- DOM_CTRL_HANDOVER (R254). -/
  | domCtrlHandover (v : Word)
  /-- LS_CFG_WRITE (R266). -/
  | lsCfgWrite (v : Word)
  /-- IDN_CTRL_RETRAIN (R236). -/
  | idnCtrlRetrain (port : Nat) (v : Word)
  /-- IDN_CTRL_RELEASE (R237). -/
  | idnCtrlRelease (port : Nat) (v : Word)
  /-- IDN_CTRL_DISABLE (R268). -/
  | idnCtrlDisable (port : Nat) (v : Word)
  /-- MEM_CLEAR_START (R304). -/
  | memClearStart (v : Word)
  /-- COH_RANGE_DISABLE (R353). -/
  | cohRangeDisable (range : Nat) (v : Word)
  /-- HOSTP_BIAS_FLIP_START (R422). -/
  | hostpBiasFlipStart (v : Word)
  /-- HOSTP_HOTPLUG_REMOVE (R429). -/
  | hostpHotplugRemove (v : Word)
  /-- HOSTP_HOTPLUG_WAKE_REQ (R435). -/
  | hostpHotplugWakeReq (v : Word)
  /-- HOSTP_PORT_RELEASE (R432). -/
  | hostpPortRelease (port : Nat) (via : Option Nat)
  /-- HOSTP_PORT_RETRAIN (R443). -/
  | hostpPortRetrain (port : Nat)
  /-- HOSTF_BAR4_ENABLE (R411). -/
  | hostfBar4Enable (fn : Nat) (dec : Nat) (v : Word)
  /-- MT_CTRL_RESET (R360). -/
  | mtCtrlReset (site : Nat)
  /-- MT_CTRL_RELEASE (R377). -/
  | mtCtrlRelease (site : Nat)
  /-- MT_CTRL_QUIESCE (R392). -/
  | mtCtrlQuiesce (site : Nat)
  /-- MT_CTRL_RESUME (R392). -/
  | mtCtrlResume (site : Nat)
  /-- MT_ASSIGN_WRITE (R389). -/
  | mtAssignWrite (site : Nat) (v : Word)
  /-- OBJ_ADMIN_ENABLE (R493). -/
  | objAdminEnable (queue : Nat) (v : Word)
  /-- DEF_MAPOUT_QUEUE (R552). -/
  | defMapoutQueue (v : Word)
  /-- ERRQ_CIDX_WRITE (R579). -/
  | errqCidxWrite (v : Word)
  /-- PERF_SEL_WRITE (R589). -/
  | perfSelWrite (i : Nat) (v : Word)
  /-- PERF_CTRL_SNAP (R589). -/
  | perfCtrlSnap (v : Word)
  /-- TRC_CTRL_ARM (R348). -/
  | trcCtrlArm (field : Nat) (v : Word)
  /-- PRB_FILTER_ENABLE (R343). -/
  | prbFilterEnable (b : Bool) (router : Nat) (v : Word)
  /-- TP_WRITE (R591). -/
  | tpWrite (k : Nat) (v : Word)
  /-- TP_LINK_RETRAIN (R597). -/
  | tpLinkRetrain
  /-- PART_BAYS_WRITE (R499). -/
  | partBaysWrite (part : Nat) (field : Nat) (v : Word)
  /-- PART_MEM_WRITE (R498). -/
  | partMemWrite (part : Nat) (k : Nat) (v : Word)
  /-- REGISTER_WRITE (R11). -/
  | registerWrite (w : RegWr)
  /-- CTX_CREATE (R449). -/
  | ctxCreate (cmd : Nat)
  /-- CTX_DESTROY (R488). -/
  | ctxDestroy (cmd : Nat)
  /-- CTX_TEARDOWN_END (R488). -/
  | ctxTeardownEnd (ctx : Nat)
  /-- CTX_QUERY (R476). -/
  | ctxQuery (cmd : Nat)
  /-- CTX_RESUME (R449). -/
  | ctxResume (cmd : Nat)
  /-- FAULT_REPLY (R480). -/
  | faultReply (cmd : Nat)
  /-- QUEUE_CREATE (R462). -/
  | queueCreate (cmd : Nat)
  /-- QUEUE_DESTROY (R476). -/
  | queueDestroy (cmd : Nat)
  /-- QUEUE_QUERY (R461). -/
  | queueQuery (cmd : Nat)
  /-- OBJ_TABLE (R456). -/
  | objTable (cmd : Nat)
  /-- OBJ_CREATE (R456). -/
  | objCreate (cmd : Nat)
  /-- OBJ_RELEASE (R459). -/
  | objRelease (cmd : Nat)
  /-- OBJ_QUERY (R476). -/
  | objQuery (cmd : Nat)
  /-- FENCE_CREATE (R465). -/
  | fenceCreate (cmd : Nat)
  /-- FENCE_DESTROY (R476). -/
  | fenceDestroy (cmd : Nat)
  /-- FENCE_QUERY (R476). -/
  | fenceQuery (cmd : Nat)
  /-- MEM_COPY (R478). -/
  | memCopy (cmd : Nat)
  /-- MEM_FILL (R478). -/
  | memFill (cmd : Nat)
  /-- MOVER_COMPLETE (R482). -/
  | moverComplete (cmd : Nat) (host : List Byte)
  /-- INVALIDATE (R484). -/
  | invalidate (cmd : Nat)
  /-- INVALIDATE_DRAINED (R484). -/
  | invalidateDrained (cmd : Nat)
  /-- PIN_HOST (R413). -/
  | pinHost (cmd : Nat)
  /-- UNPIN_HOST (R476). -/
  | unpinHost (cmd : Nat)
  /-- MEM_CLEAR (R300). -/
  | memClear (cmd : Nat)
  /-- TENANT_CLEAR_DONE (R300). -/
  | tenantClearDone
  /-- RETIRED_PAGES (R292). -/
  | retiredPages (cmd : Nat)
  /-- PART_TICK (R186). -/
  | partTick (cmd : Nat)
  /-- PROG_LOAD (R63). -/
  | progLoad (cmd : Nat) (host : List Byte)
  /-- SESS_SET (R188). -/
  | sessSet (cmd : Nat)
  /-- SESS_RESERVE (R162). -/
  | sessReserve (cmd : Nat)
  /-- SESS_RESET (R476). -/
  | sessReset (cmd : Nat)
  /-- SESS_QUERY (R476). -/
  | sessQuery (cmd : Nat)
  /-- KV_MAP (R476). -/
  | kvMap (cmd : Nat) (host : List Byte)
  /-- KV_UNMAP (R476). -/
  | kvUnmap (cmd : Nat)
  /-- KV_PREFETCH (R164). -/
  | kvPrefetch (cmd : Nat) (host : List Byte)
  /-- KV_ADVISE (R164). -/
  | kvAdvise (cmd : Nat) (host : List Byte)
  /-- FENCE_SIGNAL (R467). -/
  | fenceSignal (cmd : Nat)
  /-- FENCE_WAIT (R468). -/
  | fenceWait (cmd : Nat)
  /-- FENCE_WAIT_TIMEOUT (R468). -/
  | fenceWaitTimeout (cmd : Nat)
  /-- DOM_JOIN (R263). -/
  | domJoin (cmd : Nat)
  /-- DOM_LEAVE (R262). -/
  | domLeave (cmd : Nat)
  /-- DOM_HANDOVER (R254). -/
  | domHandover (cmd : Nat)
  /-- DOM_QUERY (R476). -/
  | domQuery (cmd : Nat)
  /-- LS_CONFIG (R266). -/
  | lsConfig (cmd : Nat)
  /-- TICK_PERIOD (R181). -/
  | tickPeriod (cmd : Nat)
  /-- SPDM (R502). -/
  | spdm (cmd : Nat) (part : Option Nat) (host : List Byte)
  /-- LICENCE_INSTALL (R530). -/
  | licenceInstall (cmd : Nat) (host : List Byte)
  /-- CONFIG_INSTALL (R544). -/
  | configInstall (cmd : Nat) (host : List Byte)
  /-- OWNER_ENROL (R528). -/
  | ownerEnrol (cmd : Nat) (host : List Byte)
  /-- DEBUG_AUTH (R532). -/
  | debugAuth (cmd : Nat) (host : List Byte)
  /-- LIFECYCLE_SET (R524). -/
  | lifecycleSet (cmd : Nat)
  /-- PART_SECURE (R512). -/
  | partSecure (cmd : Nat)
  /-- PART_SECURE_CLEAR (R513). -/
  | partSecureClear (cmd : Nat)
  /-- ATTEST_REPORT (R509). -/
  | attestReport (cmd : Nat) (host : List Byte)
  /-- FW_IMAGE (R542). -/
  | fwImage (cmd : Nat)
  /-- FW_COMMIT (R542). -/
  | fwCommit (cmd : Nat)
  /-- FW_COMMIT_RESET (R542). -/
  | fwCommitReset
  /-- RESET_PARTITION (R556). -/
  | resetPartition (cmd : Nat)
  /-- RESET_FIELD (R556). -/
  | resetField (cmd : Nat)
  /-- RESET_HUB (R557). -/
  | resetHub (cmd : Nat)
  /-- RESET_STANDBY (R557). -/
  | resetStandby (cmd : Nat)
  /-- RESET_DEFERRED_TIMEOUT (R557). -/
  | resetDeferredTimeout
  /-- NET_INTERFACE_READY (R324). -/
  | netInterfaceReady (bay : Nat)
  /-- SENSOR_READ (R564). -/
  | sensorRead (cmd : Nat)
  /-- ERRQ_READ (R583). -/
  | errqRead (cmd : Nat)
  /-- LEDGER_ACCEPT (R566). -/
  | ledgerAccept (cmd : Nat) (host : List Byte)
  /-- WAKE (R435). -/
  | wake (cmd : Nat)
  /-- STRICT (R486). -/
  | strict (cmd : Nat)
  /-- PERTURB_SET (R591). -/
  | perturbSet (cmd : Nat)
  /-- PERTURB_CLEAR (R591). -/
  | perturbClear (cmd : Nat)
  /-- KAT_RUN (R554). -/
  | katRun (cmd : Nat)
  /-- TRACE_READ (R476). -/
  | traceRead (cmd : Nat)
  /-- IDLE_BLOCK (R227). -/
  | idleBlock (port : Nat) (k : BlkArr)
  /-- ACK (R228). -/
  | ack (port : Nat) (k : BlkArr) (seq : Nat)
  /-- NAK (R228). -/
  | nak (port : Nat) (k : BlkArr) (seq : Nat)
  /-- CREDIT (R235). -/
  | credit (port : Nat) (k : BlkArr) (vc : Nat) (blocks : Nat)
  /-- TSYNC (R252). -/
  | tsync (port : Nat) (k : BlkArr) (departure : Nat) (echoed : Nat) (hold : Nat) (now : Nat)
  /-- TRAIN (R239). -/
  | train (port : Nat) (k : BlkArr) (role : Nat) (hub : Nat) (group : Nat) (lanes : Nat) (width : Nat)
  /-- ACK_TIMER (R228). -/
  | ackTimer (port : Nat)
  /-- IDOON_RD_REQ (R231). -/
  | idoonRdReq (a : IdnArr)
  /-- IDOON_RD_RSP (R231). -/
  | idoonRdRsp (a : IdnArr)
  /-- IDOON_WR (R231). -/
  | idoonWr (a : IdnArr)
  /-- IDOON_WR_ACK (R231). -/
  | idoonWrAck (a : IdnArr)
  /-- IDOON_SIG (R231). -/
  | idoonSig (a : IdnArr)
  /-- IDOON_ERR_RSP (R231). -/
  | idoonErrRsp (a : IdnArr)
  /-- MEMBERSHIP (R262). -/
  | membership (a : IdnArr) (m : MemberMsg)
  /-- HELLO (R246). -/
  | hello (a : IdnArr) (h : HelloMsg)
  /-- HELLO_TIMER (R246). -/
  | helloTimer
  /-- FORM (R248). -/
  | form (a : IdnArr) (f : FormMsg)
  /-- FORM_ACK (R246). -/
  | formAck (a : IdnArr) (epoch : Nat)
  /-- FORM_TIMEOUT (R248). -/
  | formTimeout
  /-- JOIN (R263). -/
  | join (a : IdnArr) (h : HelloMsg)
  /-- HANDOVER (R254): the successor and the terms. -/
  | handover (a : IdnArr) (hub : Nat) (terms : HandTerms)
  /-- LS_BDT (R259). -/
  | lsBdt (a : IdnArr)
  /-- LS_SIG (R261). -/
  | lsSig (a : IdnArr)
  /-- EDGE_MISSED (R253). -/
  | edgeMissed
  /-- MASTER_LOSS (R255). -/
  | masterLoss (top : Nat) (held : List Nat)
  /-- PEER_PATTERN_SEEN (R236). -/
  | peerPatternSeen (port : Nat) (lanes : Nat) (fast : Bool)
  /-- DETECT_TIMEOUT (R236). -/
  | detectTimeout (port : Nat)
  /-- TRAIN_RETRY_WAIT (R236). -/
  | trainRetryWait (port : Nat)
  /-- EQUALISATION_END (R236). -/
  | equalisationEnd (port : Nat) (bad : Nat)
  /-- EQUALISE_TIMEOUT (R236). -/
  | equaliseTimeout (port : Nat)
  /-- IDOON_LANE_TEST_DONE (R236). -/
  | idoonLaneTestDone (port : Nat) (bad : Nat)
  /-- CODEWORD_LOCK (R225). -/
  | codewordLock (port : Nat) (good : Nat)
  /-- LOCK_TIMEOUT (R236). -/
  | lockTimeout (port : Nat)
  /-- MEASURE_DONE (R236). -/
  | measureDone (port : Nat)
  /-- LANE_FAULT (R238). -/
  | laneFault (port : Nat) (lane : Nat)
  /-- LOSS_OF_SIGNAL (R236). -/
  | lossOfSignal (port : Nat)
  /-- QRETRAIN_DONE (R236). -/
  | qretrainDone (port : Nat)
  /-- QRETRAIN_TIMEOUT (R236). -/
  | qretrainTimeout (port : Nat)
  /-- RD (R314). -/
  | rd (a : NetArr)
  /-- RD_RSP (R314). -/
  | rdRsp (a : NetArr)
  /-- WR (R314). -/
  | wr (a : NetArr)
  /-- WR_ACK (R314). -/
  | wrAck (a : NetArr)
  /-- NET_SIG (R94). -/
  | netSig (a : NetArr)
  /-- ERR_RSP (R320). -/
  | errRsp (a : NetArr)
  /-- CTRL (R314). -/
  | ctrl (a : NetArr)
  /-- REQUEST_TIMEOUT (R319). -/
  | requestTimeout (src : Nat) (tag : Nat)
  /-- TARGET_DEADLINE (R319). -/
  | targetDeadline (src : Nat) (tag : Nat)
  /-- NET_CREDIT_RETURN (R326): over crossing 0 or 1 of an edge router where `crossing` names one, which stands in for `port`. -/
  | netCreditReturn (field : Nat) (node : Nat) (port : Nat) (vc : Nat) (flits : Nat) (crossing : Option Nat)
  /-- SCARF_QUICK_RETRAIN (R322). -/
  | scarfQuickRetrain (field : Nat) (crossing : Nat) (corrected : Nat)
  /-- SCARF_RETRAIN_DONE (R322). -/
  | scarfRetrainDone (field : Nat) (bridge : Bridge) (ok : Bool) (lost : List (Nat × NetPkt))
  /-- RDCUR (R338). -/
  | rdcur (a : NetArr) (upset : Nat)
  /-- RDSHR (R338). -/
  | rdshr (a : NetArr) (upset : Nat)
  /-- RDOWN (R338). -/
  | rdown (a : NetArr) (upset : Nat)
  /-- WRINV (R338). -/
  | wrinv (a : NetArr) (upset : Nat)
  /-- WRHINT (R340). -/
  | wrhint (a : NetArr) (upset : Nat)
  /-- EVICT (R341). -/
  | evict (a : NetArr)
  /-- WBDATA (R341). -/
  | wbdata (a : NetArr)
  /-- SNPINV (R337). -/
  | snpinv (a : NetArr)
  /-- SNPSHR (R337). -/
  | snpshr (a : NetArr)
  /-- PUSH (R340). -/
  | push (a : NetArr) (accept : Bool)
  /-- DATA_S (R337). -/
  | dataS (a : NetArr)
  /-- DATA_E (R337). -/
  | dataE (a : NetArr)
  /-- GNT_E (R337). -/
  | gntE (a : NetArr)
  /-- SNPRSP (R337). -/
  | snprsp (a : NetArr)
  /-- CMPACK (R338). -/
  | cmpack (a : NetArr)
  /-- WBACK (R341). -/
  | wback (a : NetArr)
  /-- PUSHRSP (R340). -/
  | pushrsp (a : NetArr) (ok : Bool)
  /-- SNOOP_HOLD_END (R339). -/
  | snoopHoldEnd (agent : Nat) (line : Nat)
  /-- SNOOP_TIMEOUT (R339). -/
  | snoopTimeout (line : Nat) (agent : Nat)
  /-- COH_RANGE_FLUSH_DONE (R353). -/
  | cohRangeFlushDone (range : Nat)
  /-- SLUICE_WINDOW (R329). -/
  | sluiceWindow
  /-- SLUICE_AGE_PROMOTE (R330). -/
  | sluiceAgePromote (r : AgedReq)
  /-- MEMORY_READ (R278). -/
  | memoryRead (addr : Nat) (n : Nat) (cls : Nat) (who : MemReq) (u : MemUpset)
  /-- MEMORY_WRITE (R279). -/
  | memoryWrite (addr : Nat) (writer : MemWriter) (data : List Byte) (u : MemUpset)
  /-- WC_EVICT_TIMEOUT (R280). -/
  | wcEvictTimeout (ctl : Nat) (u : MemUpset)
  /-- CORRECTED_WRITEBACK (R285). -/
  | correctedWriteback (w : WriteBack)
  /-- MEMC_RETRAIN (R287). -/
  | memcRetrain (c : MemChan)
  /-- MEMC_RETRAIN_DONE (R287). -/
  | memcRetrainDone (c : MemChan) (rate : Nat)
  /-- SCRUB_READ (R288). -/
  | scrubRead (sector : Nat) (u : MemUpset)
  /-- ROW_REPAIR (R291). -/
  | rowRepair (ctl : Nat)
  /-- MTN_PWRGD_HIGH (R377). -/
  | mtnPwrgdHigh (site : Nat)
  /-- SITE_POWER_TIMEOUT (R377). -/
  | sitePowerTimeout (site : Nat)
  /-- SITE_RESET_TIMER (R377). -/
  | siteResetTimer (site : Nat)
  /-- SIDEBAND_READY (R377). -/
  | sidebandReady (site : Nat) (ms : Nat)
  /-- SITE_BOOT_TIMEOUT (R377). -/
  | siteBootTimeout (site : Nat)
  /-- DESC_READ_REPLY (R366). -/
  | descReadReply (site : Nat) (tag : Nat) (status : Nat) (bytes : List Byte)
  /-- SPDM_REPLY (R367). -/
  | spdmReply (site : Nat) (tag : Nat) (status : Nat) (bytes : List Byte)
  /-- ATTESTATION_END (R367). -/
  | attestationEnd (site : Nat) (signed : Bool) (root : List Byte) (measured : List Byte)
  /-- ASSIGN_REPLY (R377). -/
  | assignReply (site : Nat) (tag : Nat) (status : Nat)
  /-- MODULE_SBINIT_DONE (R378). -/
  | moduleSbinitDone (site : Nat) (module : Nat)
  /-- MODULE_LANE_TEST_DONE (R378). -/
  | moduleLaneTestDone (site : Nat) (module : Nat) (good : Nat) (repaired : Nat)
  /-- MODULE_MBTRAIN_DONE (R378). -/
  | moduleMbtrainDone (site : Nat) (module : Nat)
  /-- MODULE_LINKINIT_DONE (R378). -/
  | moduleLinkinitDone (site : Nat) (module : Nat)
  /-- WIDTH_REPLY (R380). -/
  | widthReply (site : Nat) (tag : Nat) (status : Nat) (widths : List Nat)
  /-- MODULE_TRAIN_TIMEOUT (R378). -/
  | moduleTrainTimeout (site : Nat) (module : Nat)
  /-- MODULE_RETRY_LIMIT (R378). -/
  | moduleRetryLimit (site : Nat) (module : Nat) (retries : Nat)
  /-- PHYRETRAIN_DONE (R378). -/
  | phyretrainDone (site : Nat) (module : Nat) (good : Nat) (repaired : Nat)
  /-- PHYRETRAIN_TIMEOUT (R378). -/
  | phyretrainTimeout (site : Nat) (module : Nat)
  /-- THROTTLE_REPLY (R361). -/
  | throttleReply (site : Nat) (tag : Nat) (status : Nat)
  /-- THROTTLE_DEADLINE (R361). -/
  | throttleDeadline (site : Nat)
  /-- QUIESCED (R363). -/
  | quiesced (site : Nat) (tag : Nat) (status : Nat)
  /-- RESUME_REPLY (R363). -/
  | resumeReply (site : Nat) (tag : Nat) (status : Nat)
  /-- CLEARED (R390). -/
  | cleared (site : Nat) (tag : Nat) (status : Nat)
  /-- SHUTDOWN_REPLY (R360). -/
  | shutdownReply (site : Nat) (tag : Nat) (status : Nat)
  /-- SITE_MESSAGE_TIMEOUT (R364). -/
  | siteMessageTimeout (site : Nat) (op : Nat)
  /-- TELEMETRY (R361). -/
  | telemetry (site : Nat) (mw : Nat) (temp : Nat)
  /-- TELEMETRY_TIMEOUT (R361). -/
  | telemetryTimeout (site : Nat)
  /-- EVENT (R363). -/
  | event (site : Nat) (code : Nat)
  /-- FATAL (R363). -/
  | fatal (site : Nat) (code : Nat)
  /-- THERM_ALERT (R361). -/
  | thermAlert (site : Nat)
  /-- RAW_PACKET (R372). -/
  | rawPacket (site : Nat) (module : Nat) (ty : Nat) (vc : Nat) (crcOk : Bool) (ovr : Bool) (p : NetPkt)
  /-- RAW_CREDIT (R376). -/
  | rawCredit (site : Nat) (module : Nat) (vc1 : Nat) (vc3 : Nat)
  /-- CXL_IO_REQUEST (R370). -/
  | cxlIoRequest (site : Nat) (tag : Nat) (write : Bool) (span : IoSpan) (data : List Byte) (msi : Bool) (upset : Option Upset)
  /-- RDCURR (R386). -/
  | rdcurr (site : Nat) (tag : Nat) (addr : Nat) (upset : Nat)
  /-- RDSHARED (R386). -/
  | rdshared (site : Nat) (tag : Nat) (addr : Nat) (upset : Nat)
  /-- RDOWN_D2H (R386). -/
  | rdownD2h (site : Nat) (tag : Nat) (addr : Nat) (noData : Bool) (upset : Nat)
  /-- CLEANEVICT (R386). -/
  | cleanevict (site : Nat) (tag : Nat) (addr : Nat)
  /-- DIRTYEVICT (R386). -/
  | dirtyevict (site : Nat) (tag : Nat) (addr : Nat) (data : List Byte)
  /-- ITOMWR (R386). -/
  | itomwr (site : Nat) (tag : Nat) (addr : Nat) (data : List Byte) (upset : Nat)
  /-- CXL_SNOOP_RESPONSE (R386). -/
  | cxlSnoopResponse (site : Nat) (line : Nat) (data : List Byte) (poison : Bool)
  /-- GO_FLIT_ACK (R387). -/
  | goFlitAck (agent : Nat) (line : Nat)
  /-- CONFIG_REQUEST (R410). -/
  | configRequest (port : Nat) (fn : Nat) (off : Nat) (tag : Nat) (write : Bool) (n : Nat) (data : List Byte)
  /-- BAR4_ACCESS (R411). -/
  | bar4Access (port : Nat) (fn : Nat) (off : Nat) (tag : Nat) (write : Bool) (ide : Bool) (n : Nat) (data : List Byte)
  /-- MEMRD (R421). -/
  | memrd (port : Nat) (tag : Nat) (addr : Nat) (kind : Nat) (upset : Nat)
  /-- MEMINV (R421). -/
  | meminv (port : Nat) (tag : Nat) (addr : Nat) (upset : Nat)
  /-- MEMWR (R421). -/
  | memwr (port : Nat) (tag : Nat) (addr : Nat) (data : List Byte) (upset : Nat)
  /-- MEMWRPTL (R421). -/
  | memwrptl (port : Nat) (tag : Nat) (addr : Nat) (data : List Byte) (mask : Nat) (upset : Nat)
  /-- BIRSP (R421). -/
  | birsp (port : Nat) (line : Nat) (data : List Byte)
  /-- HOST_SNOOP (R424). -/
  | hostSnoop (port : Nat) (addr : Nat) (inval : Bool)
  /-- ATS_TRANSLATION_COMPLETION (R413). -/
  | atsTranslationCompletion (part : Nat) (page : Nat) (log2 : Nat) (dest : Option Nat) (write : Bool)
  /-- ATS_INVALIDATE_REQUEST (R416). -/
  | atsInvalidateRequest (port : Nat) (fn : Nat) (page : Nat) (log2 : Nat) (itag : Nat)
  /-- ATS_INVALIDATE_DRAINED (R416). -/
  | atsInvalidateDrained (port : Nat) (itag : Nat)
  /-- HUB_READ_COMPLETION (R426). -/
  | hubReadCompletion (port : Nat) (part : Nat) (n : Nat) (ep : Bool)
  /-- COMPLETION_TIMEOUT (R430). -/
  | completionTimeout (port : Nat) (part : Nat)
  /-- DL_ACTIVE_LOSS (R405). -/
  | dlActiveLoss (port : Nat) (surprise : Bool)
  /-- DL_ACTIVE_UP (R417). -/
  | dlActiveUp (port : Nat) (rate : Nat) (width : Nat) (flit : Bool) (cxl : Nat)
  /-- L0S_ENTRY (R433). -/
  | l0sEntry (port : Nat)
  /-- L1_ENTRY (R433). -/
  | l1Entry (port : Nat)
  /-- L1_EARLY_EXIT (R433). -/
  | l1EarlyExit (port : Nat)
  /-- PERST_DEASSERT (R546). -/
  | perstDeassert (port : Nat)
  /-- FUNDAMENTAL_RESET (R436). -/
  | fundamentalReset (port : Nat) (kind : Nat)
  /-- FUNCTION_LEVEL_RESET (R436). -/
  | functionLevelReset (port : Nat) (fn : Nat)
  /-- D3HOT_ENTRY (R434). -/
  | d3hotEntry (port : Nat) (fn : Nat)
  /-- D0_RETURN (R434). -/
  | d0Return (port : Nat) (fn : Nat)
  /-- D3COLD_ENTRY (R434). -/
  | d3coldEntry
  /-- HPA_BUTTON_PRESS (R428). -/
  | hpaButtonPress
  /-- HOST_LINK_LOST (R437). -/
  | hostLinkLost
  /-- IRQ_COALESCE_TIMER (R464). -/
  | irqCoalesceTimer (queue : Option Nat)
  /-- GET_VERSION (R502). -/
  | getVersion (ch : Nat) (part : Option Nat) (msg : List Byte)
  /-- GET_CAPABILITIES (R502). -/
  | getCapabilities (ch : Nat) (part : Option Nat) (msg : List Byte)
  /-- NEGOTIATE_ALGORITHMS (R502). -/
  | negotiateAlgorithms (ch : Nat) (part : Option Nat) (msg : List Byte)
  /-- GET_DIGESTS (R502). -/
  | getDigests (ch : Nat) (part : Option Nat) (msg : List Byte)
  /-- GET_CERTIFICATE (R502). -/
  | getCertificate (ch : Nat) (part : Option Nat) (msg : List Byte)
  /-- CHALLENGE (R502). -/
  | challenge (ch : Nat) (part : Option Nat) (msg : List Byte)
  /-- GET_MEASUREMENTS (R505). -/
  | getMeasurements (ch : Nat) (part : Option Nat) (msg : List Byte)
  /-- KEY_EXCHANGE (R502). -/
  | keyExchange (ch : Nat) (part : Option Nat) (msg : List Byte)
  /-- FINISH (R502). -/
  | finish (ch : Nat) (part : Option Nat) (msg : List Byte)
  /-- HEARTBEAT (R502). -/
  | heartbeat (ch : Nat) (part : Option Nat) (msg : List Byte)
  /-- KEY_UPDATE (R502). -/
  | keyUpdate (ch : Nat) (part : Option Nat) (msg : List Byte)
  /-- END_SESSION (R502). -/
  | endSession (ch : Nat) (part : Option Nat) (msg : List Byte)
  /-- MEASURE_OBJECT (R507). -/
  | measureObject (ch : Nat) (part : Option Nat) (ctx : Nat) (obj : Nat) (off : Nat) (len : Nat) (host : List Byte)
  /-- IDE_KM (R518). -/
  | ideKm (fn : Nat) (kind : Nat) (sub : Nat)
  /-- LOCK_INTERFACE_REQUEST (R514). -/
  | lockInterfaceRequest (fn : Nat)
  /-- START_INTERFACE_REQUEST (R514). -/
  | startInterfaceRequest (fn : Nat)
  /-- STOP_INTERFACE_REQUEST (R514). -/
  | stopInterfaceRequest (fn : Nat)
  /-- NONCE_EXPIRY (R531). -/
  | nonceExpiry
  /-- DEBUG_AUTH_EXPIRY (R532). -/
  | debugAuthExpiry
  /-- STBY_PWRGD_RISE (R545). -/
  | stbyPwrgdRise (strap : Nat)
  /-- STBY_PWRGD_FALL (R608). -/
  | stbyPwrgdFall
  /-- BRINGUP_STEP_COMPLETE (R545). -/
  | bringupStepComplete (env : BootEnv)
  /-- MAIN_PWRGD_RISE (R606). -/
  | mainPwrgdRise (strap : Nat)
  /-- MAIN_PWRGD_FALL (R608). -/
  | mainPwrgdFall
  /-- MAIN_FAIL_RESTART (R608). -/
  | mainFailRestart
  /-- SYS_RST_N (R610). -/
  | sysRstN
  /-- REPAIR_ROUND_END (R549). -/
  | repairRoundEnd (reports : List ((Nat × Nat × Nat × Bool) × Nat))
  /-- ENTDAA (R560). -/
  | entdaa (da : Nat)
  /-- SET_ENDPOINT_ID (R561). -/
  | setEndpointId (eid : Nat)
  /-- GET_ENDPOINT_ID (R561). -/
  | getEndpointId
  /-- GET_MCTP_VERSION_SUPPORT (R561). -/
  | getMctpVersionSupport (ty : Nat)
  /-- GET_MESSAGE_TYPE_SUPPORT (R561). -/
  | getMessageTypeSupport
  /-- GET_VENDOR_DEFINED_MESSAGE_SUPPORT (R561). -/
  | getVendorDefinedMessageSupport (sel : Nat)
  /-- GRISET_MCTP_REQUEST (R562). -/
  | grisetMctpRequest (tag : Nat) (bytes : List Byte)
  /-- GETTID (R563). -/
  | gettid
  /-- GETPLDMVERSION (R563). -/
  | getpldmversion (ty : Nat)
  /-- GETPLDMTYPES (R563). -/
  | getpldmtypes
  /-- GETPLDMCOMMANDS (R563). -/
  | getpldmcommands (ty : Nat)
  /-- GETPDRREPOSITORYINFO (R563). -/
  | getpdrrepositoryinfo
  /-- GETPDR (R563). -/
  | getpdr (handle : Nat)
  /-- GETSENSORREADING (R563). -/
  | getsensorreading (sensor : Nat)
  /-- GETSTATESENSORREADINGS (R563). -/
  | getstatesensorreadings
  /-- SETEVENTRECEIVER (R563). -/
  | seteventreceiver (eid : Nat)
  /-- ERROR_LOG_APPEND (R581). -/
  | errorLogAppend
  /-- THERMAL_SAMPLE (R612). -/
  | thermalSample (temps : List Int)
  /-- VCORE_ADJUST (R605). -/
  | vcoreAdjust (field : Nat) (up : Bool)
  /-- VCORE_SETTLED (R620). -/
  | vcoreSettled (field : Nat)
  /-- SYS_RST_N_RELEASE (R610). -/
  | sysRstNRelease
  /-- OTP_PROGRAM_DONE (R524). -/
  | otpProgramDone (ok : Bool)
  /-- FLASH_WRITE_DONE (R542). -/
  | flashWriteDone (area : Nat)
  /-- CXL_MEM_RESPONSE (R385). -/
  | cxlMemResponse (site : Nat) (tag : Nat) (status : Nat) (data : List Byte) (poison : Bool)
  deriving DecidableEq, Repr

end Sys2Proof
end

