-- ==== Sys2Proof/Decode.lean ====
section
/-! DEFINITION. Decode.lean: the tile instructions' encoding (R73 to R75, R116), and the rows of the table that give bits: none
does, since every row is an operation or an event with operands from outside (log entry 5). -/
namespace Sys2Proof

/-- A row of the tables of R75 and R116: major opcode, function, and the command it spells. -/
structure TileRow where
  major : Nat
  fn : Nat
  op : TileOp → Instr

/-- Sequencer control, scalar access and synchronisation: majors 0x00 to 0x03, format C (R75). -/
def tileControl : List TileRow := [
  ⟨0x00, 0x00, .nop⟩, ⟨0x00, 0x01, .endTick⟩,
  ⟨0x01, 0x00, .br⟩, ⟨0x01, 0x01, .brz⟩, ⟨0x01, 0x02, .brnz⟩, ⟨0x01, 0x03, .loopTo⟩,
  ⟨0x02, 0x00, .sli⟩, ⟨0x02, 0x01, .slih⟩, ⟨0x02, 0x02, .sld⟩, ⟨0x02, 0x03, .sst⟩,
  ⟨0x03, 0x00, .waitc⟩, ⟨0x03, 0x01, .bsync⟩, ⟨0x03, 0x02, .sig⟩, ⟨0x03, 0x03, .waits⟩]

/-- The matrix unit, tensor load and store: majors 0x10 to 0x12 and 0x20 to 0x21, formats M, O and D (R75). -/
def tileMatrix : List TileRow := [
  ⟨0x10, 0x00, .mma⟩, ⟨0x10, 0x01, .mmb⟩,
  ⟨0x11, 0x00, .mscan⟩,
  ⟨0x12, 0x00, .moutRecords⟩, ⟨0x12, 0x01, .moutFp32⟩, ⟨0x12, 0x02, .moutBf16⟩, ⟨0x12, 0x03, .moutMx⟩,
  ⟨0x20, 0x00, .tld⟩,
  ⟨0x21, 0x00, .tst⟩, ⟨0x21, 0x01, .tstS⟩]

/-- The vector engine's scalar and memory instructions (R116). -/
def tileScalar : List TileRow := [
  ⟨0x40, 0x00, .xadd⟩, ⟨0x40, 0x01, .xsub⟩, ⟨0x40, 0x02, .xmul⟩, ⟨0x40, 0x03, .xand⟩, ⟨0x40, 0x04, .xor⟩,
  ⟨0x40, 0x05, .xxor⟩, ⟨0x40, 0x06, .xshl⟩, ⟨0x40, 0x07, .xshr⟩, ⟨0x40, 0x08, .xsra⟩, ⟨0x40, 0x09, .xslt⟩,
  ⟨0x40, 0x0A, .xsltu⟩, ⟨0x40, 0x0B, .xseq⟩, ⟨0x40, 0x0C, .xmin⟩, ⟨0x40, 0x0D, .xmax⟩, ⟨0x40, 0x0E, .xminu⟩,
  ⟨0x40, 0x0F, .xmaxu⟩,
  ⟨0x44, 0x00, .vld⟩, ⟨0x44, 0x01, .vst⟩, ⟨0x44, 0x02, .vlds⟩, ⟨0x44, 0x03, .vsts⟩, ⟨0x44, 0x04, .vstmx⟩, ⟨0x44, 0x05, .vldmx⟩]

/-- Its floating-point instructions (R116). -/
def tileFloat : List TileRow := [
  ⟨0x48, 0x00, .vfadd⟩, ⟨0x48, 0x01, .vfsub⟩, ⟨0x48, 0x02, .vfmul⟩, ⟨0x48, 0x03, .vfmin⟩, ⟨0x48, 0x04, .vfmax⟩,
  ⟨0x48, 0x05, .vfabs⟩, ⟨0x48, 0x06, .vfneg⟩, ⟨0x48, 0x07, .vfscale⟩,
  ⟨0x49, 0x00, .vfma⟩, ⟨0x49, 0x01, .vfms⟩, ⟨0x49, 0x02, .vfnma⟩,
  ⟨0x5C, 0x00, .vexp2⟩, ⟨0x5C, 0x01, .vlog2⟩, ⟨0x5C, 0x02, .vrcp⟩, ⟨0x5C, 0x03, .vrsqrt⟩, ⟨0x5C, 0x04, .vtanh⟩,
  ⟨0x5C, 0x05, .vsigm⟩]

/-- Its integer, bitwise, compare and predicate instructions (R116). -/
def tileInteger : List TileRow := [
  ⟨0x4A, 0x00, .vadd⟩, ⟨0x4A, 0x01, .vsub⟩, ⟨0x4A, 0x02, .vmul⟩, ⟨0x4A, 0x03, .vmin⟩, ⟨0x4A, 0x04, .vmax⟩,
  ⟨0x4A, 0x05, .vadds⟩, ⟨0x4A, 0x06, .vsubs⟩,
  ⟨0x4B, 0x00, .vand⟩, ⟨0x4B, 0x01, .vor⟩, ⟨0x4B, 0x02, .vxor⟩, ⟨0x4B, 0x03, .vnot⟩, ⟨0x4B, 0x04, .vshl⟩,
  ⟨0x4B, 0x05, .vshr⟩, ⟨0x4B, 0x06, .vsra⟩,
  ⟨0x4C, 0x00, .vcmpeq⟩, ⟨0x4C, 0x01, .vcmpne⟩, ⟨0x4C, 0x02, .vcmplt⟩, ⟨0x4C, 0x03, .vcmple⟩, ⟨0x4C, 0x04, .vcmpgt⟩,
  ⟨0x4C, 0x05, .vcmpge⟩, ⟨0x4C, 0x06, .vcmpspc⟩,
  ⟨0x4D, 0x00, .pand⟩, ⟨0x4D, 0x01, .por⟩, ⟨0x4D, 0x02, .pxor⟩, ⟨0x4D, 0x03, .pnot⟩, ⟨0x4D, 0x04, .pset⟩,
  ⟨0x4D, 0x05, .pcnt⟩, ⟨0x4D, 0x06, .pfirst⟩]

/-- Its moves, compressions and reductions (R116). -/
def tileMove : List TileRow := [
  ⟨0x50, 0x00, .vmov⟩, ⟨0x50, 0x01, .vbcast⟩, ⟨0x50, 0x02, .viota⟩, ⟨0x50, 0x03, .vsel⟩, ⟨0x50, 0x04, .vext⟩,
  ⟨0x50, 0x05, .vins⟩, ⟨0x50, 0x06, .vperm⟩, ⟨0x50, 0x07, .vrdfl⟩,
  ⟨0x54, 0x00, .vcomp⟩, ⟨0x54, 0x01, .vexpd⟩, ⟨0x54, 0x02, .vcompi⟩,
  ⟨0x58, 0x00, .vrsumf⟩, ⟨0x58, 0x01, .vrmaxf⟩, ⟨0x58, 0x02, .vrminf⟩, ⟨0x58, 0x03, .vrsumi⟩, ⟨0x58, 0x04, .vrmaxi⟩,
  ⟨0x58, 0x05, .vrmini⟩, ⟨0x58, 0x06, .vramaxf⟩, ⟨0x58, 0x08, .vrrmaxf⟩, ⟨0x58, 0x09, .vrrsumf⟩, ⟨0x58, 0x0A, .vrramaxf⟩]

/-- Its conversions and records, and VEXPQ (R116). -/
def tileConvert : List TileRow := [
  ⟨0x60, 0x00, .vcvt⟩,
  ⟨0x64, 0x00, .vradd⟩, ⟨0x64, 0x01, .vrcvt⟩, ⟨0x64, 0x02, .vrmk⟩,
  ⟨0x68, 0x00, .vexpq⟩]

/-- The rows of R75 and R116. -/
def tileRows : List TileRow := tileControl ++ tileMatrix ++ tileScalar ++ tileFloat ++ tileInteger ++ tileMove ++ tileConvert

/-- The instruction that a tile's sequencer reads from a 64-bit word: bits [63:56] are the major opcode and [55:48] the function. A
word of a reserved major opcode or an unlisted function is no instruction: it goes as NOP with those bits in `reserved`, and is a
program error (R73, R74). -/
def decodeTile (tile : Nat) (w : BitVec 64) : Instr :=
  let top := w.toNat / 2 ^ 48
  match tileRows.find? (fun r => r.major * 256 + r.fn == top) with
  | some r => r.op { tile := tile, w := w.setWidth 48 }
  | none => .nop { tile := tile, w := w.setWidth 48, reserved := some (BitVec.ofNat 16 top) }

/-- The command that a word spells by the table's bits: none, since no row of the table gives bits. -/
def decodeTableWord (_nbits _w : Nat) : Option Instr := none

end Sys2Proof
end

