-- ==== Sys2Proof/Config.lean ====
section
/-! DEFINITION. Config.lean: what the spec leaves open or gives only by reference to a published standard: opaque
constants nothing can evaluate, so a claim about them holds whatever they are (log entries 2 and 3). -/
namespace Sys2Proof

/-- Nanoseconds since standby power-on at the n-th moment the model asks (TIME_NS of R573): time is not modelled. -/
opaque Config.timeNs : Nat → Word

/-- A value the spec leaves unstated, fresh at each use. -/
opaque Config.freeWord : Nat → Word

/-- SHA-512 of FIPS 180-4, as 64 bytes. -/
opaque Config.sha512 : List Byte → List Byte

/-- An ECDSA P-521 signature by the hub's alias key (R501, R502): the key's identity, then the bytes signed. -/
opaque Config.sign : List Byte → List Byte → List Byte

/-- Does a signature over a message verify under the public key with this SHA-512 digest (R500): digest, message, signature. -/
opaque Config.verify : List Byte → List Byte → List Byte → Bool

/-- The digests of Hjelilair's public keys in the boot ROM (R500): 1 firmware, 2 licence, 3 configuration, 4 debug. -/
opaque Config.rootKey : Nat → List Byte

/-- The SHA-512 digest of the DeviceID public key (R501). -/
opaque Config.deviceId : List Byte

/-- The SHA-512 digest of the security controller's boot ROM (R505). -/
opaque Config.bootRom : List Byte

/-- What measurement index 0x04 holds under the default record (R505, R544): the spec does not say. -/
opaque Config.defaultRecord : List Byte

/-- The PLDM terminus identifier (R563): assigned on the bus, and the spec gives no value. -/
opaque Config.tid : Nat

/-- The bodies of SPDM responses that DSP0274 lays out from what R502 supports: 0x61 CAPABILITIES, 0x63 ALGORITHMS. -/
opaque Config.spdmBody : Nat → List Byte

/-- The key-exchange curve of R502 that a NEGOTIATE_ALGORITHMS request settles on, 0 where it names nothing supported. -/
opaque Config.spdmCurve : List Byte → Nat

/-- Does an SPDM message of a handshake or session verify: the transcript before it, then the message. -/
opaque Config.spdmProof : List Byte → List Byte → Bool

/-- A random value of the hub's generator: the n-th draw. -/
opaque Config.random : Nat → List Byte

/-- The certificate chain of slot 0 (R501, R502) that goes with an identity. -/
opaque Config.certificate : List Byte → List Byte

/-- A reading of a sensor the spec names but does not compute (R564): sensor number, n-th reading. -/
opaque Config.sensor : Nat → Nat → Nat

/-- The edge router and the port, within its field, at which a memory controller attaches (R310, R311): the spec gives its field only. -/
opaque Config.memPort : Nat → Nat

/-- The 16 check symbols of a Reed-Solomon codeword over GF(2^8) (R282), from its 128 data symbols and 5 address symbols: the spec names
neither the field polynomial nor the generator. -/
opaque Config.rsCheck : List Byte → List Byte

/-- AES-256-XTS of IEEE 1619 (R298): key pair, tweak, data unit. -/
opaque Config.aesXts : List Byte → List Byte → List Byte → List Byte

/-- HMAC-SHA-512 under the device-unique ledger key (R293). -/
opaque Config.ledgerMac : List Byte → List Byte

/-- Banks of a controller's part (R276): the part reports it. -/
opaque Config.banks : Nat → Nat

/-- Sectors of one row of a bank of a controller's part. -/
opaque Config.rowSectors : Nat → Nat

/-- Spare rows of each bank of a controller's part. -/
opaque Config.spareRows : Nat → Nat

/-- The device serial number (R509): fixed at manufacture. -/
opaque Config.serial : Nat

/-- The PCI-SIG vendor identifier of the site data file, in measure requests and in Griset over MCTP (R507, R562). -/
opaque Config.vendorId : Nat

/-- The flash user key: the AES-256 key pair in OTP (R500). -/
opaque Config.flashKey : List Byte

/-- The MIPI manufacturer identifier of the site data file (R560). -/
opaque Config.mipiId : Nat

/-- The edge router and the port, within their field, at which module pair `j` of site `n` attaches (R310, R383), argument
n × 4 + j; from 48 on, those of the control complex and of host ports 0 to 3. -/
opaque Config.attachPort : Nat → Nat

/-- The field of host port `n`'s attachment: R20 names none. -/
opaque Config.hostField : Nat → Nat

/-- The BAR0 offset, size and VERSION of a window, by directory ID × 16 + INSTANCE: the capability directory reports the layout
(R408), and the spec fixes none. -/
opaque Config.windowAt : Nat → Nat × Nat × Nat

/-- A byte of a function's configuration space at reset (R400): the published standards lay it out. -/
opaque Config.cfgReset : Nat → Byte

/-- The bits of a byte of configuration space that software may write. -/
opaque Config.cfgMask : Nat → Byte

end Sys2Proof
end

