-- ==== Sys2Proof/Machine/Maps.lean ====
section
/-! DEFINITION. Machine/Maps.lean: sparse tables keyed by a natural, and byte memory in one canonical form.
A table is a list of pairs in rising key order; looking up a key that is not listed gives the table's default.
Memory lists only the bytes that differ from what an unlisted address reads as (zero, log entry 1). -/
namespace Sys2Proof.Machine

/-- A sparse table: pairs in rising key order. -/
abbrev Map (α : Type) := List (Nat × α)

/-- What the table holds under `k`, if it lists it. -/
def Map.get? {α : Type} : Map α → Nat → Option α
  | [], _ => none
  | (j, v) :: m, k => if j = k then some v else Map.get? m k

/-- What the table holds under `k`, or `d` where it lists nothing. -/
def Map.get {α : Type} (m : Map α) (d : α) (k : Nat) : α := (Map.get? m k).getD d

/-- Put `v` under `k`. -/
def Map.set {α : Type} : Map α → Nat → α → Map α
  | [], k, v => [(k, v)]
  | (j, w) :: m, k, v =>
    if k < j then (k, v) :: (j, w) :: m
    else if j = k then (k, v) :: m
    else (j, w) :: Map.set m k v

/-- List nothing under `k`. -/
def Map.erase {α : Type} (m : Map α) (k : Nat) : Map α := m.filter (fun p => !decide (p.1 = k))

/-- Keep only the keys that satisfy `f`. -/
def Map.keep {α : Type} (m : Map α) (f : Nat → Bool) : Map α := m.filter (fun p => f p.1)

/-- Change every value. -/
def Map.map {α : Type} (m : Map α) (f : Nat → α → α) : Map α := List.map (fun p => (p.1, f p.1 p.2)) m

/-- Byte memory: the listed bytes, keys strictly rising, none of them the unlisted value. -/
abbrev Mem := List Host.Cell

/-- What an address that nothing lists reads as (DESIGN CHOICE, log entry 1: the spec gives no power-on contents). -/
def Mem.blank : Byte := 0

/-- One byte. -/
def Mem.read : Mem → Nat → Byte
  | [], _ => Mem.blank
  | (j, v) :: m, a => if a < j then Mem.blank else if j = a then v else Mem.read m a

/-- Store one byte, keeping the canonical form. -/
def Mem.write : Mem → Nat → Byte → Mem
  | [], a, b => if b = Mem.blank then [] else [(a, b)]
  | (j, v) :: m, a, b =>
    if a < j then (if b = Mem.blank then (j, v) :: m else (a, b) :: (j, v) :: m)
    else if j = a then (if b = Mem.blank then m else (a, b) :: m)
    else (j, v) :: Mem.write m a b

/-- `n` bytes from address `a` upward. -/
def Mem.readN (m : Mem) : Nat → Nat → List Byte
  | _, 0 => []
  | a, n + 1 => Mem.read m a :: Mem.readN m (a + 1) n

/-- Store bytes at rising addresses from `a`. -/
def Mem.writeN : Mem → Nat → List Byte → Mem
  | m, _, [] => m
  | m, a, b :: bs => Mem.writeN (Mem.write m a b) (a + 1) bs

/-- Every byte of `[a, a + n)` reads as the unlisted value afterwards. -/
def Mem.clear (m : Mem) (a n : Nat) : Mem := m.filter (fun c => !(decide (a ≤ c.1) && decide (c.1 < a + n)))

/-- Keys strictly rising from `lo`, and no byte listed with the unlisted value. -/
def Mem.wfFrom : Nat → Mem → Bool
  | _, [] => true
  | lo, (j, v) :: m => decide (lo ≤ j) && decide (v ≠ Mem.blank) && Mem.wfFrom (j + 1) m

/-- The canonical form of memory. -/
def Mem.wf (m : Mem) : Bool := Mem.wfFrom 0 m

end Sys2Proof.Machine
end

