-- ==== Sys2Proof/Machine/Bits.lean ====
section
/-! DEFINITION. Machine/Bits.lean: bit fields of naturals and words, byte order (little-endian throughout the spec:
R469, R470, R573), and modular 32-bit index arithmetic (R587). -/
namespace Sys2Proof.Machine

/-- Bits `[lo + w - 1 : lo]` of `n`. -/
def bitsAt (n lo w : Nat) : Nat := n / 2 ^ lo % 2 ^ w

/-- Bit `i` of `n` as a truth value. -/
def bitOn (n i : Nat) : Bool := bitsAt n i 1 == 1

/-- `n` with bits `[lo + w - 1 : lo]` replaced by the low `w` bits of `v`. -/
def putBits (n lo w v : Nat) : Nat :=
  n - bitsAt n lo w * 2 ^ lo + v % 2 ^ w * 2 ^ lo

/-- A word whose bits `[lo + w - 1 : lo]` are the low `w` bits of `v`, the others zero. -/
def placed (lo w v : Nat) : Nat := v % 2 ^ w * 2 ^ lo

/-- A truth value as a bit. -/
def bit01 (b : Bool) : Nat := if b then 1 else 0

/-- The `k` bytes of `n`, least significant first. -/
def leBytes : Nat → Nat → List Byte
  | 0, _ => []
  | k + 1, n => BitVec.ofNat 8 n :: leBytes k (n / 256)

/-- The natural whose little-endian bytes are given. -/
def ofLe : List Byte → Nat
  | [] => 0
  | b :: bs => b.toNat + 256 * ofLe bs

/-- `k` bytes of a record starting at byte `i`, as a natural (short records read zero beyond their end). -/
def recAt (bs : List Byte) (i k : Nat) : Nat := ofLe ((bs.drop i).take k)

/-- Split a list into pieces of `k` (the last may be shorter); `fuel` bounds the number of pieces. -/
def chunks {α : Type} (k : Nat) : Nat → List α → List (List α)
  | 0, _ => []
  | fuel + 1, l => if l.isEmpty then [] else l.take k :: chunks k fuel (l.drop k)

/-- `l` cut or padded with `d` to length `k`. -/
def padTo {α : Type} (k : Nat) (d : α) (l : List α) : List α :=
  l.take k ++ List.replicate (k - l.length) d

/-- Difference of two 32-bit free-running indices, modulo 2^32 (R463, R587). -/
def diff32 (a b : Nat) : Nat := (a + 2 ^ 32 - b % 2 ^ 32) % 2 ^ 32

/-- A 32-bit index advanced by `k`. -/
def add32 (a k : Nat) : Nat := (a + k) % 2 ^ 32

/-- The signed value of the low `w` bits of `n` in two's complement. -/
def sx (w n : Nat) : Int :=
  let m := n % 2 ^ w
  if m < 2 ^ (w - 1) then (m : Int) else (m : Int) - (2 ^ w : Nat)

/-- The low `w` bits of an integer, two's complement. -/
def wrapTo (w : Nat) (i : Int) : Nat := (i % ((2 ^ w : Nat) : Int)).toNat

/-- Indices of the one bits among the low `w` bits of `n`, ascending. -/
def bitList (w n : Nat) : List Nat := (List.range w).filter (fun i => bitOn n i)

/-- The natural with exactly the listed bits set. -/
def maskOf (l : List Nat) : Nat := l.foldl (fun a i => if bitOn a i then a else a + 2 ^ i) 0

/-- Number of one bits among the low `w` bits. -/
def popCount (w n : Nat) : Nat := (bitList w n).length

end Sys2Proof.Machine
end

