-- ==== Sys2Proof/Machine/Regs.lean ====
section
/-! DEFINITION. Machine/Regs.lean: every register of the spec's register tables, with its window, offset, fields,
access codes, reset values and reset scope, set down from the tables of R28 to R620 (one row here for each table row).
Registers of one name that the spec repeats (a tile, a partition, a port ...) are instances 0, 1, 2 ... of it. -/
namespace Sys2Proof.Machine

/-- The windows of BAR0 that hold registers; `field` and `mortise` windows come once for each field and site. -/
inductive Window where
  | gctl | tick | sluice | err | probes | host | sec | tp | field | mortise
  deriving DecidableEq, Repr

/-- What resets a register (the scope each chapter names). -/
inductive Scope where
  | hub | standby | partition | bay
  deriving DecidableEq, Repr

/-- Access codes of R11. -/
inductive Acc where
  | ro | rw | w1c | w1s | rwo | wo
  deriving DecidableEq, Repr

/-- The registers the spec names. -/
inductive RegName where
  | gctlHubIdent | gctlTileQuery | gctlTileWhere | domStatus | domMembers | domCtrl
  | lsCfg | lsDiverge | memStatus | memClear | memDirty | cohRange
  | cohRangeAddr | objCtrl | objAdminCmd | objAdminCpl | objAdminPidx | objDbDrops
  | bootStatus | bootCtrl | defStatus | defMapout | defLost | mgmtStatus
  | pwrStatus | thermCtrl | vcoreTarget | tickCtrl | tickPeriodSet | tickCounter
  | tickTiming | tickPeriodNow | partCfg | partStatus | partCommits | partSpoils
  | partOverruns | partLastTick | partIdoon | slcShare | slcBytes | slcOvf
  | slcDemoteCount | partSluice | errqPidx | errqCidx | errqLidx | errqStatus
  | errqDropped | errqCtrl | perfSel | perfCnt | perfCtrl | perfSnap
  | hostpHubStatus | hostpWait | hostpHotplug | hostpBiasFlip | hostpDbpt | hostpPortStatus
  | hostpPortCtrl | hostpContain | hostpAts | hostpTxbytes | hostpRxbytes | hostpCeCount
  | hostpInvCount | hostfBind | hostfBar4 | hostfBar4Dpa | hostpBias | secStatus
  | secDebug | secOtpUse | secAuthFails | partBays | partMem | partSec
  | partProv | tpNet | tpCredit | tpMem | tpLink | tpInject
  | tpInjectTick | tpStatus | tileStatus | tileErr | tileCeCount | tileSpoilCount
  | tileVflags | kvwRing | kvwStatus | kvwErr | kvwBytes | kvwFaults
  | idnStatus | idnLanes | idnCtrl | idnReplays | idnUncorr | idnCorr
  | idnTxbytes | idnRxbytes | memcStatus | memcErr | memcCeCount | memcUeCount
  | memcRetryCount | memcRepair | memcRdbytes | memcWrbytes | memcRmw | prbFiltA
  | prbAddrA | prbFiltB | prbAddrB | prbPktsA | prbFlitsA | prbPktsB
  | prbFlitsB | trcCtrl | scarfStatus | scarfCeCount | sliceErr | sliceCeCount
  | mtStatus | mtCtrl | mtAssign | mtTelem | mtErr | mtEvent
  | mtModule | mtRegion | mtRetryCount | mtDropCount | mtTxbytes | mtRxbytes
  | mtDesc
  deriving DecidableEq, Repr

/-- A field of a register: the bits `[lo + w - 1 : lo]`, its access code and its reset value. -/
structure Fld where
  reg : RegName
  lo : Nat
  w : Nat
  acc : Acc
  rst : Nat
  deriving DecidableEq, Repr

namespace F
/-- GCTL_HUB_IDENT.HUB_ID (R28): reset Strap. -/
def gctlHubIdent_hubId : Fld := ⟨.gctlHubIdent, 0, 6, .ro, 0⟩
/-- GCTL_HUB_IDENT.FIELDS (R28): reset 0x9. -/
def gctlHubIdent_fields : Fld := ⟨.gctlHubIdent, 8, 4, .ro, 9⟩
/-- GCTL_HUB_IDENT.BAYS_PER_FIELD (R28): reset 0x40. -/
def gctlHubIdent_baysPerField : Fld := ⟨.gctlHubIdent, 12, 7, .ro, 64⟩
/-- GCTL_HUB_IDENT.TILES_PER_BAY (R28): reset 0x8. -/
def gctlHubIdent_tilesPerBay : Fld := ⟨.gctlHubIdent, 19, 4, .ro, 8⟩
/-- GCTL_HUB_IDENT.STEPPING (R28): reset 0xB0. -/
def gctlHubIdent_stepping : Fld := ⟨.gctlHubIdent, 24, 8, .ro, 176⟩
/-- GCTL_TILE_QUERY.TILE (R29): reset 0. -/
def gctlTileQuery_tile : Fld := ⟨.gctlTileQuery, 0, 3, .rw, 0⟩
/-- GCTL_TILE_QUERY.BAY (R29): reset 0. -/
def gctlTileQuery_bay : Fld := ⟨.gctlTileQuery, 3, 6, .rw, 0⟩
/-- GCTL_TILE_QUERY.FIELD (R29): reset 0. -/
def gctlTileQuery_field : Fld := ⟨.gctlTileQuery, 9, 4, .rw, 0⟩
/-- GCTL_TILE_QUERY.HUB (R29): reset 0. -/
def gctlTileQuery_hub : Fld := ⟨.gctlTileQuery, 13, 6, .rw, 0⟩
/-- GCTL_TILE_WHERE.PHYS_FIELD (R29): reset 0. -/
def gctlTileWhere_physField : Fld := ⟨.gctlTileWhere, 0, 4, .ro, 0⟩
/-- GCTL_TILE_WHERE.PHYS_BAY (R29): reset 0. -/
def gctlTileWhere_physBay : Fld := ⟨.gctlTileWhere, 4, 7, .ro, 0⟩
/-- GCTL_TILE_WHERE.PHYS_TILE (R29): reset 0. -/
def gctlTileWhere_physTile : Fld := ⟨.gctlTileWhere, 11, 4, .ro, 0⟩
/-- GCTL_TILE_WHERE.VALID (R29): reset 0. -/
def gctlTileWhere_valid : Fld := ⟨.gctlTileWhere, 15, 1, .ro, 0⟩
/-- GCTL_TILE_WHERE.REMOTE (R29): reset 0. -/
def gctlTileWhere_remote : Fld := ⟨.gctlTileWhere, 16, 1, .ro, 0⟩
/-- GCTL_TILE_WHERE.PENDING (R29): reset 0. -/
def gctlTileWhere_pending : Fld := ⟨.gctlTileWhere, 17, 1, .ro, 0⟩
/-- DOM_STATUS.MEMBER (R264): reset 0. -/
def domStatus_member : Fld := ⟨.domStatus, 0, 1, .ro, 0⟩
/-- DOM_STATUS.FORMING (R264): reset 0. -/
def domStatus_forming : Fld := ⟨.domStatus, 1, 1, .ro, 0⟩
/-- DOM_STATUS.REFUSED (R264): reset 0. -/
def domStatus_refused : Fld := ⟨.domStatus, 2, 1, .ro, 0⟩
/-- DOM_STATUS.CAUSE (R264): reset 0. -/
def domStatus_cause : Fld := ⟨.domStatus, 3, 3, .ro, 0⟩
/-- DOM_STATUS.MASTER_ID (R264): reset 0. -/
def domStatus_masterId : Fld := ⟨.domStatus, 8, 6, .ro, 0⟩
/-- DOM_STATUS.EPOCH (R264): reset 0. -/
def domStatus_epoch : Fld := ⟨.domStatus, 32, 32, .ro, 0⟩
/-- DOM_MEMBERS.MEMBERS (R265): reset 0. -/
def domMembers_members : Fld := ⟨.domMembers, 0, 64, .ro, 0⟩
/-- DOM_CTRL.LEAVE (R265): reset 0. -/
def domCtrl_leave : Fld := ⟨.domCtrl, 0, 1, .wo, 0⟩
/-- DOM_CTRL.JOIN (R265): reset 0. -/
def domCtrl_join : Fld := ⟨.domCtrl, 1, 1, .wo, 0⟩
/-- DOM_CTRL.HANDOVER (R265): reset 0. -/
def domCtrl_handover : Fld := ⟨.domCtrl, 2, 1, .wo, 0⟩
/-- DOM_CTRL.HANDOVER_TO (R265): reset 0. -/
def domCtrl_handoverTo : Fld := ⟨.domCtrl, 8, 6, .rw, 0⟩
/-- LS_CFG.ENABLE (R266): reset 0. -/
def lsCfg_enable : Fld := ⟨.lsCfg, 0, 1, .rw, 0⟩
/-- LS_CFG.PRIMARY (R266): reset 0. -/
def lsCfg_primary : Fld := ⟨.lsCfg, 1, 1, .rw, 0⟩
/-- LS_CFG.PARTNER (R266): reset 0. -/
def lsCfg_partner : Fld := ⟨.lsCfg, 2, 6, .rw, 0⟩
/-- LS_CFG.PARTITION (R266): reset 0. -/
def lsCfg_partition : Fld := ⟨.lsCfg, 8, 8, .rw, 0⟩
/-- LS_DIVERGE.VALID (R266): reset 0. -/
def lsDiverge_valid : Fld := ⟨.lsDiverge, 0, 1, .w1c, 0⟩
/-- LS_DIVERGE.MORE (R266): reset 0. -/
def lsDiverge_more : Fld := ⟨.lsDiverge, 1, 1, .w1c, 0⟩
/-- LS_DIVERGE.DIGEST (R266): reset 0. -/
def lsDiverge_digest : Fld := ⟨.lsDiverge, 2, 1, .ro, 0⟩
/-- LS_DIVERGE.FIELD (R266): reset 0. -/
def lsDiverge_field : Fld := ⟨.lsDiverge, 3, 4, .ro, 0⟩
/-- LS_DIVERGE.BAY (R266): reset 0. -/
def lsDiverge_bay : Fld := ⟨.lsDiverge, 7, 6, .ro, 0⟩
/-- LS_DIVERGE.TICK (R266): reset 0. -/
def lsDiverge_tick : Fld := ⟨.lsDiverge, 32, 32, .ro, 0⟩
/-- MEM_STATUS.STACKED_READY (R303): reset 0. -/
def memStatus_stackedReady : Fld := ⟨.memStatus, 0, 1, .ro, 0⟩
/-- MEM_STATUS.FEN_PRESENT (R303): reset 0. -/
def memStatus_fenPresent : Fld := ⟨.memStatus, 1, 1, .ro, 0⟩
/-- MEM_STATUS.FEN_READY (R303): reset 0. -/
def memStatus_fenReady : Fld := ⟨.memStatus, 2, 1, .ro, 0⟩
/-- MEM_STATUS.LEDGER_OK (R303): reset 0. -/
def memStatus_ledgerOk : Fld := ⟨.memStatus, 3, 1, .ro, 0⟩
/-- MEM_STATUS.LEDGER_FULL (R303): reset 0. -/
def memStatus_ledgerFull : Fld := ⟨.memStatus, 4, 1, .ro, 0⟩
/-- MEM_STATUS.ALL_DIRTY (R303): reset 1 at standby power-on; kept otherwise. -/
def memStatus_allDirty : Fld := ⟨.memStatus, 5, 1, .ro, 1⟩
/-- MEM_STATUS.CLEARING (R303): reset 0. -/
def memStatus_clearing : Fld := ⟨.memStatus, 6, 1, .ro, 0⟩
/-- MEM_STATUS.MIN_MEM (R303): reset 0. -/
def memStatus_minMem : Fld := ⟨.memStatus, 8, 7, .ro, 0⟩
/-- MEM_STATUS.CLEAR_PART (R303): reset 0. -/
def memStatus_clearPart : Fld := ⟨.memStatus, 16, 8, .ro, 0⟩
/-- MEM_CLEAR.PARTITION (R304): reset 0. -/
def memClear_partition : Fld := ⟨.memClear, 0, 8, .rw, 0⟩
/-- MEM_CLEAR.START (R304): reset 0. -/
def memClear_start : Fld := ⟨.memClear, 8, 1, .wo, 0⟩
/-- MEM_DIRTY.DIRTY (R304): reset 0. -/
def memDirty_dirty : Fld := ⟨.memDirty, 0, 64, .ro, 0⟩
/-- COH_RANGE.ENABLE (R353): reset 0. -/
def cohRange_enable : Fld := ⟨.cohRange, 0, 1, .rw, 0⟩
/-- COH_RANGE.CONFIDENTIAL (R353): reset 0. -/
def cohRange_confidential : Fld := ⟨.cohRange, 1, 1, .rw, 0⟩
/-- COH_RANGE.PARTITION (R353): reset 0. -/
def cohRange_partition : Fld := ⟨.cohRange, 2, 8, .rw, 0⟩
/-- COH_RANGE.AGENTS (R353): reset 0. -/
def cohRange_agents : Fld := ⟨.cohRange, 10, 17, .rw, 0⟩
/-- COH_RANGE.FLUSHING (R353): reset 0. -/
def cohRange_flushing : Fld := ⟨.cohRange, 27, 1, .ro, 0⟩
/-- COH_RANGE_ADDR.BASE (R353): reset 0. -/
def cohRangeAddr_base : Fld := ⟨.cohRangeAddr, 0, 27, .rw, 0⟩
/-- COH_RANGE_ADDR.LIMIT (R353): reset 0. -/
def cohRangeAddr_limit : Fld := ⟨.cohRangeAddr, 27, 27, .rw, 0⟩
/-- OBJ_CTRL.STRICT_REQ (R492): reset 0. -/
def objCtrl_strictReq : Fld := ⟨.objCtrl, 0, 1, .rw, 0⟩
/-- OBJ_CTRL.STRICT (R492): reset 1. -/
def objCtrl_strict : Fld := ⟨.objCtrl, 1, 1, .ro, 1⟩
/-- OBJ_CTRL.CAUSES (R492): reset 0x1. -/
def objCtrl_causes : Fld := ⟨.objCtrl, 2, 4, .ro, 1⟩
/-- OBJ_ADMIN_CMD.ENABLE (R493): reset 0. -/
def objAdminCmd_enable : Fld := ⟨.objAdminCmd, 0, 1, .rw, 0⟩
/-- OBJ_ADMIN_CMD.LOG2 (R493): reset 0. -/
def objAdminCmd_log2 : Fld := ⟨.objAdminCmd, 1, 5, .rw, 0⟩
/-- OBJ_ADMIN_CMD.BASE (R493): reset 0. -/
def objAdminCmd_base : Fld := ⟨.objAdminCmd, 12, 36, .rw, 0⟩
/-- OBJ_ADMIN_CPL.ENABLE (R493): reset 0. -/
def objAdminCpl_enable : Fld := ⟨.objAdminCpl, 0, 1, .rw, 0⟩
/-- OBJ_ADMIN_CPL.LOG2 (R493): reset 0. -/
def objAdminCpl_log2 : Fld := ⟨.objAdminCpl, 1, 5, .rw, 0⟩
/-- OBJ_ADMIN_CPL.BASE (R493): reset 0. -/
def objAdminCpl_base : Fld := ⟨.objAdminCpl, 12, 36, .rw, 0⟩
/-- OBJ_ADMIN_CPL.VECTOR (R493): reset 0. -/
def objAdminCpl_vector : Fld := ⟨.objAdminCpl, 48, 11, .rw, 0⟩
/-- OBJ_ADMIN_CPL.IRQ_EN (R493): reset 0. -/
def objAdminCpl_irqEn : Fld := ⟨.objAdminCpl, 59, 1, .rw, 0⟩
/-- OBJ_ADMIN_PIDX.INDEX (R494): reset 0. -/
def objAdminPidx_index : Fld := ⟨.objAdminPidx, 0, 32, .ro, 0⟩
/-- OBJ_DB_DROPS.COUNT (R494): reset 0. -/
def objDbDrops_count : Fld := ⟨.objDbDrops, 0, 32, .rw, 0⟩
/-- BOOT_STATUS.HUB_STATE (R567): reset 0. -/
def bootStatus_hubState : Fld := ⟨.bootStatus, 0, 4, .ro, 0⟩
/-- BOOT_STATUS.STEP (R567): reset 0x02. -/
def bootStatus_step : Fld := ⟨.bootStatus, 4, 8, .ro, 2⟩
/-- BOOT_STATUS.CFG_DEFAULT (R567): reset 0. -/
def bootStatus_cfgDefault : Fld := ⟨.bootStatus, 12, 1, .ro, 0⟩
/-- BOOT_STATUS.LEDGER_WAIT (R567): reset 0. -/
def bootStatus_ledgerWait : Fld := ⟨.bootStatus, 13, 1, .ro, 0⟩
/-- BOOT_STATUS.KAT_FAIL (R567): reset 0. -/
def bootStatus_katFail : Fld := ⟨.bootStatus, 14, 1, .ro, 0⟩
/-- BOOT_STATUS.READY_MS (R567): reset 0. -/
def bootStatus_readyMs : Fld := ⟨.bootStatus, 16, 16, .ro, 0⟩
/-- BOOT_STATUS.FW_VERSION (R567): reset 0. -/
def bootStatus_fwVersion : Fld := ⟨.bootStatus, 32, 32, .ro, 0⟩
/-- BOOT_CTRL.RECOVERY_NEXT (R568): reset 0. -/
def bootCtrl_recoveryNext : Fld := ⟨.bootCtrl, 0, 1, .rw, 0⟩
/-- DEF_STATUS.FACTORY_ROWS (R569): reset 0. -/
def defStatus_factoryRows : Fld := ⟨.defStatus, 0, 12, .ro, 0⟩
/-- DEF_STATUS.FIELD_ROWS (R569): reset 0. -/
def defStatus_fieldRows : Fld := ⟨.defStatus, 12, 7, .ro, 0⟩
/-- DEF_STATUS.SPENT_BAD (R569): reset 0. -/
def defStatus_spentBad : Fld := ⟨.defStatus, 19, 12, .ro, 0⟩
/-- DEF_STATUS.FULL (R569): reset 0. -/
def defStatus_full : Fld := ⟨.defStatus, 31, 1, .ro, 0⟩
/-- DEF_STATUS.TILES_SPARED (R569): reset 0. -/
def defStatus_tilesSpared : Fld := ⟨.defStatus, 32, 10, .ro, 0⟩
/-- DEF_STATUS.BAYS_SPARED (R569): reset 0. -/
def defStatus_baysSpared : Fld := ⟨.defStatus, 42, 5, .ro, 0⟩
/-- DEF_STATUS.LOST_BAYS (R569): reset 0. -/
def defStatus_lostBays : Fld := ⟨.defStatus, 47, 10, .ro, 0⟩
/-- DEF_MAPOUT.TILE (R570): reset 0. -/
def defMapout_tile : Fld := ⟨.defMapout, 0, 19, .rw, 0⟩
/-- DEF_MAPOUT.WHOLE_BAY (R570): reset 0. -/
def defMapout_wholeBay : Fld := ⟨.defMapout, 19, 1, .rw, 0⟩
/-- DEF_MAPOUT.QUEUE (R570): reset 0. -/
def defMapout_queue : Fld := ⟨.defMapout, 20, 1, .wo, 0⟩
/-- DEF_MAPOUT.RESULT (R570): reset 0. -/
def defMapout_result : Fld := ⟨.defMapout, 22, 2, .ro, 0⟩
/-- DEF_MAPOUT.PENDING (R570): reset 0. -/
def defMapout_pending : Fld := ⟨.defMapout, 24, 7, .ro, 0⟩
/-- DEF_LOST.LOST (R570): reset 0. -/
def defLost_lost : Fld := ⟨.defLost, 0, 64, .ro, 0⟩
/-- MGMT_STATUS.DA (R571): reset 0 at standby power-on; kept otherwise. -/
def mgmtStatus_da : Fld := ⟨.mgmtStatus, 0, 7, .ro, 0⟩
/-- MGMT_STATUS.DA_VALID (R571): reset 0 at standby power-on; kept otherwise. -/
def mgmtStatus_daValid : Fld := ⟨.mgmtStatus, 7, 1, .ro, 0⟩
/-- MGMT_STATUS.EID (R571): reset 0 at standby power-on; kept otherwise. -/
def mgmtStatus_eid : Fld := ⟨.mgmtStatus, 8, 8, .ro, 0⟩
/-- MGMT_STATUS.QUEUED (R571): reset 0. -/
def mgmtStatus_queued : Fld := ⟨.mgmtStatus, 16, 4, .ro, 0⟩
/-- MGMT_STATUS.DROPS (R571): reset 0 at standby power-on; kept otherwise. -/
def mgmtStatus_drops : Fld := ⟨.mgmtStatus, 32, 16, .ro, 0⟩
/-- PWR_STATUS.MAIN_ON (R618): reset 0. -/
def pwrStatus_mainOn : Fld := ⟨.pwrStatus, 0, 1, .ro, 0⟩
/-- PWR_STATUS.MAIN_FAIL (R618): reset 0. -/
def pwrStatus_mainFail : Fld := ⟨.pwrStatus, 1, 1, .w1c, 0⟩
/-- PWR_STATUS.THERM_TRIP (R618): reset 0. -/
def pwrStatus_thermTrip : Fld := ⟨.pwrStatus, 2, 1, .w1c, 0⟩
/-- PWR_STATUS.THERM_WARN (R618): reset 0. -/
def pwrStatus_thermWarn : Fld := ⟨.pwrStatus, 3, 1, .ro, 0⟩
/-- PWR_STATUS.STRAP_STBY (R618): reset Strap. -/
def pwrStatus_strapStby : Fld := ⟨.pwrStatus, 4, 6, .ro, 0⟩
/-- PWR_STATUS.HOT_TEMP (R618): reset 0. -/
def pwrStatus_hotTemp : Fld := ⟨.pwrStatus, 16, 12, .ro, 0⟩
/-- PWR_STATUS.HOT_BAY (R618): reset 0. -/
def pwrStatus_hotBay : Fld := ⟨.pwrStatus, 28, 10, .ro, 0⟩
/-- THERM_CTRL.WARN (R619): reset 0x320. -/
def thermCtrl_warn : Fld := ⟨.thermCtrl, 0, 12, .rw, 800⟩
/-- THERM_CTRL.TRIP (R619): reset 0x398. -/
def thermCtrl_trip : Fld := ⟨.thermCtrl, 12, 12, .rw, 920⟩
/-- VCORE_TARGET.TARGET_MV (R620): reset 0x2EE. -/
def vcoreTarget_targetMv : Fld := ⟨.vcoreTarget, 0, 10, .ro, 750⟩
/-- VCORE_TARGET.SETTLING (R620): reset 0. -/
def vcoreTarget_settling : Fld := ⟨.vcoreTarget, 10, 1, .ro, 0⟩
/-- TICK_CTRL.RUN (R182): reset 0. -/
def tickCtrl_run : Fld := ⟨.tickCtrl, 0, 1, .rw, 0⟩
/-- TICK_CTRL.MASTER (R182): reset 0. -/
def tickCtrl_master : Fld := ⟨.tickCtrl, 1, 1, .ro, 0⟩
/-- TICK_CTRL.EXHAUSTED (R182): reset 0. -/
def tickCtrl_exhausted : Fld := ⟨.tickCtrl, 2, 1, .ro, 0⟩
/-- TICK_PERIOD_SET.PERIOD_NS (R183): reset 0x007A_1200. -/
def tickPeriodSet_periodNs : Fld := ⟨.tickPeriodSet, 0, 30, .rw, 8000000⟩
/-- TICK_PERIOD_SET.ACCEPTED (R183): reset 0. -/
def tickPeriodSet_accepted : Fld := ⟨.tickPeriodSet, 30, 1, .ro, 0⟩
/-- TICK_PERIOD_SET.AT_TICK (R183): reset 0. -/
def tickPeriodSet_atTick : Fld := ⟨.tickPeriodSet, 32, 32, .rw, 0⟩
/-- TICK_COUNTER.COUNT (R183): reset 0. -/
def tickCounter_count : Fld := ⟨.tickCounter, 0, 64, .ro, 0⟩
/-- TICK_TIMING.DECISION_NS (R184): reset 0. -/
def tickTiming_decisionNs : Fld := ⟨.tickTiming, 0, 16, .ro, 0⟩
/-- TICK_TIMING.RELEASE_10NS (R184): reset 0. -/
def tickTiming_release10ns : Fld := ⟨.tickTiming, 16, 16, .ro, 0⟩
/-- TICK_TIMING.SLACK_NS (R184): reset 0. -/
def tickTiming_slackNs : Fld := ⟨.tickTiming, 32, 32, .ro, 0⟩
/-- TICK_PERIOD_NOW.PERIOD_NS (R184): reset 0x007A_1200. -/
def tickPeriodNow_periodNs : Fld := ⟨.tickPeriodNow, 0, 30, .ro, 8000000⟩
/-- PART_CFG.ENABLE (R215): reset 0. -/
def partCfg_enable : Fld := ⟨.partCfg, 0, 1, .rw, 0⟩
/-- PART_CFG.CEILING (R215): reset 0. -/
def partCfg_ceiling : Fld := ⟨.partCfg, 1, 6, .rw, 0⟩
/-- PART_CFG.RECOVER_LOG2 (R215): reset 0. -/
def partCfg_recoverLog2 : Fld := ⟨.partCfg, 8, 4, .rw, 0⟩
/-- PART_STATUS.PLAN (R216): reset 0. -/
def partStatus_plan : Fld := ⟨.partStatus, 0, 6, .ro, 0⟩
/-- PART_STATUS.CEIL_NOW (R216): reset 0. -/
def partStatus_ceilNow : Fld := ⟨.partStatus, 6, 6, .ro, 0⟩
/-- PART_STATUS.ATTEMPT (R216): reset 0. -/
def partStatus_attempt : Fld := ⟨.partStatus, 12, 3, .ro, 0⟩
/-- PART_STATUS.NOFIT (R216): reset 0. -/
def partStatus_nofit : Fld := ⟨.partStatus, 15, 1, .ro, 0⟩
/-- PART_STATUS.FAULTED (R216): reset 0. -/
def partStatus_faulted : Fld := ⟨.partStatus, 16, 1, .ro, 0⟩
/-- PART_STATUS.CAUSE (R216): reset 0. -/
def partStatus_cause : Fld := ⟨.partStatus, 17, 4, .ro, 0⟩
/-- PART_COMMITS.COUNT (R217): reset 0. -/
def partCommits_count : Fld := ⟨.partCommits, 0, 48, .ro, 0⟩
/-- PART_COMMITS.OVF (R217): reset 0. -/
def partCommits_ovf : Fld := ⟨.partCommits, 48, 1, .w1c, 0⟩
/-- PART_SPOILS.COUNT (R217): reset 0. -/
def partSpoils_count : Fld := ⟨.partSpoils, 0, 32, .rw, 0⟩
/-- PART_OVERRUNS.COUNT (R217): reset 0. -/
def partOverruns_count : Fld := ⟨.partOverruns, 0, 32, .rw, 0⟩
/-- PART_LAST_TICK.TICK (R217): reset 0. -/
def partLastTick_tick : Fld := ⟨.partLastTick, 0, 64, .ro, 0⟩
/-- PART_IDOON.PORTS (R218): reset 0. -/
def partIdoon_ports : Fld := ⟨.partIdoon, 0, 32, .rw, 0⟩
/-- SLC_SHARE.SHARE (R350): reset 0x400. -/
def slcShare_share : Fld := ⟨.slcShare, 0, 11, .rw, 1024⟩
/-- SLC_BYTES.BYTES (R351): reset 0. -/
def slcBytes_bytes : Fld := ⟨.slcBytes, 0, 64, .ro, 0⟩
/-- SLC_OVF.OVF (R351): reset 0. -/
def slcOvf_ovf : Fld := ⟨.slcOvf, 0, 8, .w1c, 0⟩
/-- SLC_DEMOTE_COUNT.COUNT (R351): reset 0. -/
def slcDemoteCount_count : Fld := ⟨.slcDemoteCount, 0, 32, .rw, 0⟩
/-- PART_SLUICE.ALLOWED (R352): reset 0xFF. -/
def partSluice_allowed : Fld := ⟨.partSluice, 0, 8, .rw, 255⟩
/-- PART_SLUICE.HOST_CLASS (R352): reset 0. -/
def partSluice_hostClass : Fld := ⟨.partSluice, 8, 3, .rw, 0⟩
/-- ERRQ_PIDX.INDEX (R584): reset 0. -/
def errqPidx_index : Fld := ⟨.errqPidx, 0, 32, .ro, 0⟩
/-- ERRQ_CIDX.INDEX (R584): reset 0. -/
def errqCidx_index : Fld := ⟨.errqCidx, 0, 32, .rw, 0⟩
/-- ERRQ_LIDX.INDEX (R584): reset 0. -/
def errqLidx_index : Fld := ⟨.errqLidx, 0, 32, .ro, 0⟩
/-- ERRQ_STATUS.OVF (R585): reset 0. -/
def errqStatus_ovf : Fld := ⟨.errqStatus, 0, 1, .w1c, 0⟩
/-- ERRQ_STATUS.LOG_OK (R585): reset 0. -/
def errqStatus_logOk : Fld := ⟨.errqStatus, 1, 1, .ro, 0⟩
/-- ERRQ_STATUS.HELD (R585): reset 0. -/
def errqStatus_held : Fld := ⟨.errqStatus, 2, 13, .ro, 0⟩
/-- ERRQ_DROPPED.COUNT (R585): reset 0. -/
def errqDropped_count : Fld := ⟨.errqDropped, 0, 32, .rw, 0⟩
/-- ERRQ_CTRL.HOST_CONSUMER (R586): reset 0. -/
def errqCtrl_hostConsumer : Fld := ⟨.errqCtrl, 0, 1, .rw, 0⟩
/-- ERRQ_CTRL.PORT (R586): reset 0. -/
def errqCtrl_port : Fld := ⟨.errqCtrl, 1, 2, .rw, 0⟩
/-- ERRQ_CTRL.VECTOR (R586): reset 0. -/
def errqCtrl_vector : Fld := ⟨.errqCtrl, 3, 11, .rw, 0⟩
/-- ERRQ_CTRL.CLASS_MASK (R586): reset 0. -/
def errqCtrl_classMask : Fld := ⟨.errqCtrl, 14, 8, .rw, 0⟩
/-- ERRQ_CTRL.PLDM_EN (R586): reset 0. -/
def errqCtrl_pldmEn : Fld := ⟨.errqCtrl, 22, 1, .rw, 0⟩
/-- PERF_SEL.EVENT (R590): reset 0. -/
def perfSel_event : Fld := ⟨.perfSel, 0, 8, .rw, 0⟩
/-- PERF_SEL.FIELD_MASK (R590): reset 0x1FF. -/
def perfSel_fieldMask : Fld := ⟨.perfSel, 8, 9, .rw, 511⟩
/-- PERF_SEL.PARTITION (R590): reset 0. -/
def perfSel_partition : Fld := ⟨.perfSel, 17, 8, .rw, 0⟩
/-- PERF_SEL.PART_EN (R590): reset 0. -/
def perfSel_partEn : Fld := ⟨.perfSel, 25, 1, .rw, 0⟩
/-- PERF_CNT.COUNT (R590): reset 0. -/
def perfCnt_count : Fld := ⟨.perfCnt, 0, 48, .ro, 0⟩
/-- PERF_CNT.OVF (R590): reset 0. -/
def perfCnt_ovf : Fld := ⟨.perfCnt, 48, 1, .w1c, 0⟩
/-- PERF_CTRL.FREEZE (R590): reset 0. -/
def perfCtrl_freeze : Fld := ⟨.perfCtrl, 0, 1, .rw, 0⟩
/-- PERF_CTRL.SNAP (R590): reset 0. -/
def perfCtrl_snap : Fld := ⟨.perfCtrl, 1, 1, .wo, 0⟩
/-- PERF_CTRL.SNAP_VALID (R590): reset 0. -/
def perfCtrl_snapValid : Fld := ⟨.perfCtrl, 2, 1, .ro, 0⟩
/-- PERF_CTRL.SNAP_TICK (R590): reset 0. -/
def perfCtrl_snapTick : Fld := ⟨.perfCtrl, 32, 32, .ro, 0⟩
/-- PERF_SNAP.COUNT (R590): reset 0. -/
def perfSnap_count : Fld := ⟨.perfSnap, 0, 48, .ro, 0⟩
/-- PERF_SNAP.OVF (R590): reset 0. -/
def perfSnap_ovf : Fld := ⟨.perfSnap, 48, 1, .ro, 0⟩
/-- HOSTP_HUB_STATUS.ENABLED (R439): reset config. -/
def hostpHubStatus_enabled : Fld := ⟨.hostpHubStatus, 0, 4, .ro, 0⟩
/-- HOSTP_HUB_STATUS.UP (R439): reset 0. -/
def hostpHubStatus_up : Fld := ⟨.hostpHubStatus, 4, 4, .ro, 0⟩
/-- HOSTP_HUB_STATUS.LOST (R439): reset 0. -/
def hostpHubStatus_lost : Fld := ⟨.hostpHubStatus, 8, 1, .ro, 0⟩
/-- HOSTP_HUB_STATUS.RECOVERING (R439): reset 0. -/
def hostpHubStatus_recovering : Fld := ⟨.hostpHubStatus, 9, 1, .ro, 0⟩
/-- HOSTP_HUB_STATUS.DOWN_MS (R439): reset 0. -/
def hostpHubStatus_downMs : Fld := ⟨.hostpHubStatus, 10, 17, .ro, 0⟩
/-- HOSTP_WAIT.WAIT (R439): reset 0. -/
def hostpWait_wait : Fld := ⟨.hostpWait, 0, 64, .ro, 0⟩
/-- HOSTP_HOTPLUG.ASSIST_EN (R440): reset config. -/
def hostpHotplug_assistEn : Fld := ⟨.hostpHotplug, 0, 1, .ro, 0⟩
/-- HOSTP_HOTPLUG.BTN_EVENT (R440): reset 0. -/
def hostpHotplug_btnEvent : Fld := ⟨.hostpHotplug, 1, 1, .w1c, 0⟩
/-- HOSTP_HOTPLUG.ATTN_IND (R440): reset 0b00. -/
def hostpHotplug_attnInd : Fld := ⟨.hostpHotplug, 2, 2, .rw, 0⟩
/-- HOSTP_HOTPLUG.PWR_IND (R440): reset 0b01. -/
def hostpHotplug_pwrInd : Fld := ⟨.hostpHotplug, 4, 2, .rw, 1⟩
/-- HOSTP_HOTPLUG.REMOVE (R440): reset 0. -/
def hostpHotplug_remove : Fld := ⟨.hostpHotplug, 6, 1, .wo, 0⟩
/-- HOSTP_HOTPLUG.PRSNT (R440): reset 1. -/
def hostpHotplug_prsnt : Fld := ⟨.hostpHotplug, 7, 1, .ro, 1⟩
/-- HOSTP_HOTPLUG.PWR_REQ (R440): reset 0. -/
def hostpHotplug_pwrReq : Fld := ⟨.hostpHotplug, 8, 1, .ro, 0⟩
/-- HOSTP_HOTPLUG.WAKE_REQ (R440): reset 0. -/
def hostpHotplug_wakeReq : Fld := ⟨.hostpHotplug, 9, 1, .wo, 0⟩
/-- HOSTP_BIAS_FLIP.RANGE (R441): reset 0. -/
def hostpBiasFlip_range : Fld := ⟨.hostpBiasFlip, 0, 4, .rw, 0⟩
/-- HOSTP_BIAS_FLIP.PAGE (R441): reset 0. -/
def hostpBiasFlip_page : Fld := ⟨.hostpBiasFlip, 4, 12, .rw, 0⟩
/-- HOSTP_BIAS_FLIP.TO (R441): reset 0. -/
def hostpBiasFlip_to : Fld := ⟨.hostpBiasFlip, 16, 1, .rw, 0⟩
/-- HOSTP_BIAS_FLIP.START (R441): reset 0. -/
def hostpBiasFlip_start : Fld := ⟨.hostpBiasFlip, 17, 1, .wo, 0⟩
/-- HOSTP_BIAS_FLIP.BUSY (R441): reset 0. -/
def hostpBiasFlip_busy : Fld := ⟨.hostpBiasFlip, 18, 1, .ro, 0⟩
/-- HOSTP_BIAS_FLIP.REFUSED (R441): reset 0. -/
def hostpBiasFlip_refused : Fld := ⟨.hostpBiasFlip, 19, 1, .ro, 0⟩
/-- HOSTP_DBPT.ENABLE (R441): reset 0. -/
def hostpDbpt_enable : Fld := ⟨.hostpDbpt, 0, 1, .rw, 0⟩
/-- HOSTP_DBPT.BASE (R441): reset 0. -/
def hostpDbpt_base : Fld := ⟨.hostpDbpt, 16, 32, .rw, 0⟩
/-- HOSTP_PORT_STATUS.LSTATE (R442): reset 0. -/
def hostpPortStatus_lstate : Fld := ⟨.hostpPortStatus, 0, 3, .ro, 0⟩
/-- HOSTP_PORT_STATUS.RATE (R442): reset 0. -/
def hostpPortStatus_rate : Fld := ⟨.hostpPortStatus, 3, 3, .ro, 0⟩
/-- HOSTP_PORT_STATUS.WIDTH (R442): reset 0. -/
def hostpPortStatus_width : Fld := ⟨.hostpPortStatus, 6, 5, .ro, 0⟩
/-- HOSTP_PORT_STATUS.FLIT (R442): reset 0. -/
def hostpPortStatus_flit : Fld := ⟨.hostpPortStatus, 11, 1, .ro, 0⟩
/-- HOSTP_PORT_STATUS.CXL (R442): reset 0. -/
def hostpPortStatus_cxl : Fld := ⟨.hostpPortStatus, 12, 3, .ro, 0⟩
/-- HOSTP_PORT_STATUS.CONTAINED (R442): reset 0. -/
def hostpPortStatus_contained : Fld := ⟨.hostpPortStatus, 15, 1, .ro, 0⟩
/-- HOSTP_PORT_STATUS.PF_DSTATE (R442): reset 0. -/
def hostpPortStatus_pfDstate : Fld := ⟨.hostpPortStatus, 16, 2, .ro, 0⟩
/-- HOSTP_PORT_STATUS.IDE_LINK (R442): reset 0. -/
def hostpPortStatus_ideLink : Fld := ⟨.hostpPortStatus, 18, 1, .ro, 0⟩
/-- HOSTP_PORT_CTRL.CONTAIN_EN (R443): reset 0. -/
def hostpPortCtrl_containEn : Fld := ⟨.hostpPortCtrl, 0, 1, .rw, 0⟩
/-- HOSTP_PORT_CTRL.RELEASE (R443): reset 0. -/
def hostpPortCtrl_release : Fld := ⟨.hostpPortCtrl, 1, 1, .wo, 0⟩
/-- HOSTP_PORT_CTRL.RETRAIN (R443): reset 0. -/
def hostpPortCtrl_retrain : Fld := ⟨.hostpPortCtrl, 2, 1, .wo, 0⟩
/-- HOSTP_PORT_CTRL.L1_EARLY_EXIT (R443): reset 1. -/
def hostpPortCtrl_l1EarlyExit : Fld := ⟨.hostpPortCtrl, 3, 1, .rw, 1⟩
/-- HOSTP_CONTAIN.VALID (R443): reset 0. -/
def hostpContain_valid : Fld := ⟨.hostpContain, 0, 1, .w1c, 0⟩
/-- HOSTP_CONTAIN.MORE (R443): reset 0. -/
def hostpContain_more : Fld := ⟨.hostpContain, 1, 1, .w1c, 0⟩
/-- HOSTP_CONTAIN.CAUSE (R443): reset 0. -/
def hostpContain_cause : Fld := ⟨.hostpContain, 2, 4, .ro, 0⟩
/-- HOSTP_CONTAIN.TICK (R443): reset 0. -/
def hostpContain_tick : Fld := ⟨.hostpContain, 32, 32, .ro, 0⟩
/-- HOSTP_ATS.PINNED (R444): reset 0. -/
def hostpAts_pinned : Fld := ⟨.hostpAts, 0, 17, .ro, 0⟩
/-- HOSTP_ATS.CACHED (R444): reset 0. -/
def hostpAts_cached : Fld := ⟨.hostpAts, 17, 17, .ro, 0⟩
/-- HOSTP_ATS.INV_PENDING (R444): reset 0. -/
def hostpAts_invPending : Fld := ⟨.hostpAts, 34, 6, .ro, 0⟩
/-- HOSTP_TXBYTES.COUNT (R445): reset 0. -/
def hostpTxbytes_count : Fld := ⟨.hostpTxbytes, 0, 48, .ro, 0⟩
/-- HOSTP_TXBYTES.OVF (R445): reset 0. -/
def hostpTxbytes_ovf : Fld := ⟨.hostpTxbytes, 48, 1, .w1c, 0⟩
/-- HOSTP_RXBYTES.COUNT (R445): reset 0. -/
def hostpRxbytes_count : Fld := ⟨.hostpRxbytes, 0, 48, .ro, 0⟩
/-- HOSTP_RXBYTES.OVF (R445): reset 0. -/
def hostpRxbytes_ovf : Fld := ⟨.hostpRxbytes, 48, 1, .w1c, 0⟩
/-- HOSTP_CE_COUNT.COUNT (R445): reset 0. -/
def hostpCeCount_count : Fld := ⟨.hostpCeCount, 0, 32, .rw, 0⟩
/-- HOSTP_INV_COUNT.COUNT (R445): reset 0. -/
def hostpInvCount_count : Fld := ⟨.hostpInvCount, 0, 32, .rw, 0⟩
/-- HOSTF_BIND.PORT (R446): reset 0. -/
def hostfBind_port : Fld := ⟨.hostfBind, 0, 2, .rw, 0⟩
/-- HOSTF_BIND.DB_COUNT (R446): reset 0. -/
def hostfBind_dbCount : Fld := ⟨.hostfBind, 8, 13, .rw, 0⟩
/-- HOSTF_BIND.DB_FIRST (R446): reset 0. -/
def hostfBind_dbFirst : Fld := ⟨.hostfBind, 21, 20, .rw, 0⟩
/-- HOSTF_BAR4.ENABLE (R447): reset 0. -/
def hostfBar4_enable : Fld := ⟨.hostfBar4, 0, 1, .rw, 0⟩
/-- HOSTF_BAR4.SIZE_LOG2 (R447): reset 0. -/
def hostfBar4_sizeLog2 : Fld := ⟨.hostfBar4, 8, 6, .rw, 0⟩
/-- HOSTF_BAR4.OFFSET (R447): reset 0. -/
def hostfBar4_offset : Fld := ⟨.hostfBar4, 16, 24, .rw, 0⟩
/-- HOSTF_BAR4_DPA.DPA (R447): reset 0. -/
def hostfBar4Dpa_dpa : Fld := ⟨.hostfBar4Dpa, 0, 32, .rw, 0⟩
/-- HOSTP_BIAS.BIAS (R441): reset 0. -/
def hostpBias_bias : Fld := ⟨.hostpBias, 0, 64, .ro, 0⟩
/-- SEC_STATUS.LC_STATE (R533): reset OTP. -/
def secStatus_lcState : Fld := ⟨.secStatus, 0, 3, .ro, 0⟩
/-- SEC_STATUS.PENDING (R533): reset 0. -/
def secStatus_pending : Fld := ⟨.secStatus, 3, 1, .ro, 0⟩
/-- SEC_STATUS.PENDING_TARGET (R533): reset 0. -/
def secStatus_pendingTarget : Fld := ⟨.secStatus, 4, 2, .ro, 0⟩
/-- SEC_STATUS.WIPE_DONE (R533): reset OTP. -/
def secStatus_wipeDone : Fld := ⟨.secStatus, 6, 1, .ro, 0⟩
/-- SEC_STATUS.UDS_OK (R533): reset OTP. -/
def secStatus_udsOk : Fld := ⟨.secStatus, 7, 1, .ro, 0⟩
/-- SEC_STATUS.OWNER_SLOT (R533): reset OTP. -/
def secStatus_ownerSlot : Fld := ⟨.secStatus, 8, 5, .ro, 0⟩
/-- SEC_STATUS.LIC_EPOCH (R533): reset OTP. -/
def secStatus_licEpoch : Fld := ⟨.secStatus, 13, 7, .ro, 0⟩
/-- SEC_STATUS.LIC_VALID (R533): reset 0. -/
def secStatus_licValid : Fld := ⟨.secStatus, 20, 1, .ro, 0⟩
/-- SEC_STATUS.LIC_PENDING (R533): reset 0. -/
def secStatus_licPending : Fld := ⟨.secStatus, 21, 1, .ro, 0⟩
/-- SEC_DEBUG.ACTIVE (R534): reset 0. -/
def secDebug_active : Fld := ⟨.secDebug, 0, 1, .ro, 0⟩
/-- SEC_DEBUG.CAPS (R534): reset 0. -/
def secDebug_caps : Fld := ⟨.secDebug, 1, 4, .ro, 0⟩
/-- SEC_DEBUG.BY_OWNER (R534): reset 0. -/
def secDebug_byOwner : Fld := ⟨.secDebug, 5, 1, .ro, 0⟩
/-- SEC_DEBUG.REMAIN_S (R534): reset 0. -/
def secDebug_remainS : Fld := ⟨.secDebug, 32, 32, .ro, 0⟩
/-- SEC_OTP_USE.OWNER_USED (R534): reset OTP. -/
def secOtpUse_ownerUsed : Fld := ⟨.secOtpUse, 0, 5, .ro, 0⟩
/-- SEC_OTP_USE.EPOCH_USED (R534): reset OTP. -/
def secOtpUse_epochUsed : Fld := ⟨.secOtpUse, 5, 7, .ro, 0⟩
/-- SEC_OTP_USE.DEFECT_ROWS (R534): reset OTP. -/
def secOtpUse_defectRows : Fld := ⟨.secOtpUse, 12, 7, .ro, 0⟩
/-- SEC_AUTH_FAILS.COUNT (R534): reset 0. -/
def secAuthFails_count : Fld := ⟨.secAuthFails, 0, 32, .rw, 0⟩
/-- PART_BAYS.BAYS (R535): reset 0. -/
def partBays_bays : Fld := ⟨.partBays, 0, 64, .rw, 0⟩
/-- PART_MEM.VALID (R536): reset 0. -/
def partMem_valid : Fld := ⟨.partMem, 0, 1, .rw, 0⟩
/-- PART_MEM.TIER (R536): reset 0. -/
def partMem_tier : Fld := ⟨.partMem, 1, 1, .rw, 0⟩
/-- PART_MEM.BASE_GIB (R536): reset 0. -/
def partMem_baseGib : Fld := ⟨.partMem, 8, 14, .rw, 0⟩
/-- PART_MEM.LIMIT_GIB (R536): reset 0. -/
def partMem_limitGib : Fld := ⟨.partMem, 22, 14, .rw, 0⟩
/-- PART_SEC.CONFIDENTIAL (R537): reset 0. -/
def partSec_confidential : Fld := ⟨.partSec, 0, 1, .ro, 0⟩
/-- PART_SEC.ADMIT_UNATTESTED (R537): reset 0. -/
def partSec_admitUnattested : Fld := ⟨.partSec, 1, 1, .ro, 0⟩
/-- PART_SEC.TDISP (R537): reset 0. -/
def partSec_tdisp : Fld := ⟨.partSec, 2, 2, .ro, 0⟩
/-- PART_SEC.CLEAN (R537): reset 1. -/
def partSec_clean : Fld := ⟨.partSec, 4, 1, .ro, 1⟩
/-- PART_PROV.VALID (R537): reset 0. -/
def partProv_valid : Fld := ⟨.partProv, 0, 1, .rw, 0⟩
/-- PART_PROV.BASE (R537): reset 0. -/
def partProv_base : Fld := ⟨.partProv, 16, 32, .rw, 0⟩
/-- TP_NET.EN (R595): reset 0. -/
def tpNet_en : Fld := ⟨.tpNet, 0, 1, .rw, 0⟩
/-- TP_NET.FIELD (R595): reset 0. -/
def tpNet_field : Fld := ⟨.tpNet, 1, 4, .rw, 0⟩
/-- TP_NET.NODE (R595): reset 0. -/
def tpNet_node : Fld := ⟨.tpNet, 5, 7, .rw, 0⟩
/-- TP_NET.DELAY (R595): reset 0. -/
def tpNet_delay : Fld := ⟨.tpNet, 12, 8, .rw, 0⟩
/-- TP_NET.PARTITION (R595): reset 0. -/
def tpNet_partition : Fld := ⟨.tpNet, 20, 8, .rw, 0⟩
/-- TP_NET.PART_EN (R595): reset 0. -/
def tpNet_partEn : Fld := ⟨.tpNet, 28, 1, .rw, 0⟩
/-- TP_CREDIT.EN (R595): reset 0. -/
def tpCredit_en : Fld := ⟨.tpCredit, 0, 1, .rw, 0⟩
/-- TP_CREDIT.FIELD (R595): reset 0. -/
def tpCredit_field : Fld := ⟨.tpCredit, 1, 4, .rw, 0⟩
/-- TP_CREDIT.NODE (R595): reset 0. -/
def tpCredit_node : Fld := ⟨.tpCredit, 5, 7, .rw, 0⟩
/-- TP_CREDIT.PORT (R595): reset 0. -/
def tpCredit_port : Fld := ⟨.tpCredit, 12, 3, .rw, 0⟩
/-- TP_CREDIT.LIMIT (R595): reset 0. -/
def tpCredit_limit : Fld := ⟨.tpCredit, 15, 6, .rw, 0⟩
/-- TP_CREDIT.RETURN_DELAY (R595): reset 0. -/
def tpCredit_returnDelay : Fld := ⟨.tpCredit, 21, 8, .rw, 0⟩
/-- TP_MEM.EN (R596): reset 0. -/
def tpMem_en : Fld := ⟨.tpMem, 0, 1, .rw, 0⟩
/-- TP_MEM.CTRL (R596): reset 0. -/
def tpMem_ctrl : Fld := ⟨.tpMem, 1, 6, .rw, 0⟩
/-- TP_MEM.STALL_NS (R596): reset 0. -/
def tpMem_stallNs : Fld := ⟨.tpMem, 7, 16, .rw, 0⟩
/-- TP_MEM.EVERY_US (R596): reset 0. -/
def tpMem_everyUs : Fld := ⟨.tpMem, 23, 16, .rw, 0⟩
/-- TP_LINK.EN (R597): reset 0. -/
def tpLink_en : Fld := ⟨.tpLink, 0, 1, .rw, 0⟩
/-- TP_LINK.KIND (R597): reset 0. -/
def tpLink_kind : Fld := ⟨.tpLink, 1, 2, .rw, 0⟩
/-- TP_LINK.TARGET (R597): reset 0. -/
def tpLink_target : Fld := ⟨.tpLink, 3, 9, .rw, 0⟩
/-- TP_LINK.EVERY (R597): reset 0. -/
def tpLink_every : Fld := ⟨.tpLink, 12, 16, .rw, 0⟩
/-- TP_LINK.RETRAIN (R597): reset 0. -/
def tpLink_retrain : Fld := ⟨.tpLink, 28, 1, .wo, 0⟩
/-- TP_INJECT.EN (R598): reset 0. -/
def tpInject_en : Fld := ⟨.tpInject, 0, 1, .rw, 0⟩
/-- TP_INJECT.KIND (R598): reset 0. -/
def tpInject_kind : Fld := ⟨.tpInject, 1, 3, .rw, 0⟩
/-- TP_INJECT.TARGET (R598): reset 0. -/
def tpInject_target : Fld := ⟨.tpInject, 4, 19, .rw, 0⟩
/-- TP_INJECT.STAGE (R598): reset 0. -/
def tpInject_stage : Fld := ⟨.tpInject, 23, 4, .rw, 0⟩
/-- TP_INJECT.UE (R598): reset 0. -/
def tpInject_ue : Fld := ⟨.tpInject, 27, 1, .rw, 0⟩
/-- TP_INJECT.COUNT (R598): reset 0. -/
def tpInject_count : Fld := ⟨.tpInject, 28, 3, .rw, 0⟩
/-- TP_INJECT.PER_ATTEMPT (R598): reset 0. -/
def tpInject_perAttempt : Fld := ⟨.tpInject, 31, 1, .rw, 0⟩
/-- TP_INJECT_TICK.AT_TICK (R598): reset 0. -/
def tpInjectTick_atTick : Fld := ⟨.tpInjectTick, 0, 32, .rw, 0⟩
/-- TP_INJECT_TICK.AT_EN (R598): reset 0. -/
def tpInjectTick_atEn : Fld := ⟨.tpInjectTick, 32, 1, .rw, 0⟩
/-- TP_STATUS.ACTIVE (R599): reset 0. -/
def tpStatus_active : Fld := ⟨.tpStatus, 0, 1, .ro, 0⟩
/-- TP_STATUS.REFUSED (R599): reset 0. -/
def tpStatus_refused : Fld := ⟨.tpStatus, 1, 1, .w1c, 0⟩
/-- TP_STATUS.LAST_INJ_TICK (R599): reset 0. -/
def tpStatus_lastInjTick : Fld := ⟨.tpStatus, 32, 32, .ro, 0⟩
/-- TILE_STATUS.RUNNING (R104): reset 0. -/
def tileStatus_running : Fld := ⟨.tileStatus, 0, 1, .ro, 0⟩
/-- TILE_STATUS.WAITING (R104): reset 0. -/
def tileStatus_waiting : Fld := ⟨.tileStatus, 1, 1, .ro, 0⟩
/-- TILE_STATUS.ENDED (R104): reset 0. -/
def tileStatus_ended : Fld := ⟨.tileStatus, 2, 1, .ro, 0⟩
/-- TILE_STATUS.STOPPED (R104): reset 0. -/
def tileStatus_stopped : Fld := ⟨.tileStatus, 3, 1, .ro, 0⟩
/-- TILE_STATUS.PC (R104): reset 0. -/
def tileStatus_pc : Fld := ⟨.tileStatus, 8, 17, .ro, 0⟩
/-- TILE_STATUS.TICK (R104): reset 0. -/
def tileStatus_tick : Fld := ⟨.tileStatus, 32, 32, .ro, 0⟩
/-- TILE_ERR.VALID (R105): reset 0. -/
def tileErr_valid : Fld := ⟨.tileErr, 0, 1, .w1c, 0⟩
/-- TILE_ERR.MORE (R105): reset 0. -/
def tileErr_more : Fld := ⟨.tileErr, 1, 1, .w1c, 0⟩
/-- TILE_ERR.CAUSE (R105): reset 0. -/
def tileErr_cause : Fld := ⟨.tileErr, 2, 4, .ro, 0⟩
/-- TILE_ERR.STAGE (R105): reset 0. -/
def tileErr_stage : Fld := ⟨.tileErr, 6, 4, .ro, 0⟩
/-- TILE_ERR.PC (R105): reset 0. -/
def tileErr_pc : Fld := ⟨.tileErr, 10, 17, .ro, 0⟩
/-- TILE_ERR.TICK (R105): reset 0. -/
def tileErr_tick : Fld := ⟨.tileErr, 32, 32, .ro, 0⟩
/-- TILE_CE_COUNT.COUNT (R106): reset 0. -/
def tileCeCount_count : Fld := ⟨.tileCeCount, 0, 32, .rw, 0⟩
/-- TILE_SPOIL_COUNT.COUNT (R106): reset 0. -/
def tileSpoilCount_count : Fld := ⟨.tileSpoilCount, 0, 32, .rw, 0⟩
/-- TILE_VFLAGS.FLAGS (R133): reset 0. -/
def tileVflags_flags : Fld := ⟨.tileVflags, 0, 5, .ro, 0⟩
/-- TILE_VFLAGS.TICK (R133): reset 0. -/
def tileVflags_tick : Fld := ⟨.tileVflags, 32, 32, .ro, 0⟩
/-- KVW_RING.ENABLE (R173): reset 0. -/
def kvwRing_enable : Fld := ⟨.kvwRing, 0, 1, .rw, 0⟩
/-- KVW_RING.REQ_LOG2 (R173): reset 0. -/
def kvwRing_reqLog2 : Fld := ⟨.kvwRing, 1, 3, .rw, 0⟩
/-- KVW_RING.REQ_BASE (R173): reset 0. -/
def kvwRing_reqBase : Fld := ⟨.kvwRing, 8, 8, .rw, 0⟩
/-- KVW_RING.LAND_BASE (R173): reset 0. -/
def kvwRing_landBase : Fld := ⟨.kvwRing, 16, 4, .rw, 0⟩
/-- KVW_RING.LAND_SLOTS_M1 (R173): reset 0. -/
def kvwRing_landSlotsM1 : Fld := ⟨.kvwRing, 20, 3, .rw, 0⟩
/-- KVW_STATUS.ACTIVE (R174): reset 0. -/
def kvwStatus_active : Fld := ⟨.kvwStatus, 0, 8, .ro, 0⟩
/-- KVW_STATUS.HALTED (R174): reset 0. -/
def kvwStatus_halted : Fld := ⟨.kvwStatus, 8, 8, .ro, 0⟩
/-- KVW_STATUS.INFLIGHT (R174): reset 0. -/
def kvwStatus_inflight : Fld := ⟨.kvwStatus, 16, 9, .ro, 0⟩
/-- KVW_ERR.VALID (R175): reset 0. -/
def kvwErr_valid : Fld := ⟨.kvwErr, 0, 1, .w1c, 0⟩
/-- KVW_ERR.MORE (R175): reset 0. -/
def kvwErr_more : Fld := ⟨.kvwErr, 1, 1, .w1c, 0⟩
/-- KVW_ERR.CAUSE (R175): reset 0. -/
def kvwErr_cause : Fld := ⟨.kvwErr, 2, 4, .ro, 0⟩
/-- KVW_ERR.TILE (R175): reset 0. -/
def kvwErr_tile : Fld := ⟨.kvwErr, 6, 3, .ro, 0⟩
/-- KVW_ERR.ENTRY (R175): reset 0. -/
def kvwErr_entry : Fld := ⟨.kvwErr, 9, 20, .ro, 0⟩
/-- KVW_ERR.TICK (R175): reset 0. -/
def kvwErr_tick : Fld := ⟨.kvwErr, 32, 32, .ro, 0⟩
/-- KVW_BYTES.COUNT (R176): reset 0. -/
def kvwBytes_count : Fld := ⟨.kvwBytes, 0, 48, .ro, 0⟩
/-- KVW_BYTES.OVF (R176): reset 0. -/
def kvwBytes_ovf : Fld := ⟨.kvwBytes, 48, 1, .w1c, 0⟩
/-- KVW_FAULTS.COUNT (R176): reset 0. -/
def kvwFaults_count : Fld := ⟨.kvwFaults, 0, 32, .rw, 0⟩
/-- IDN_STATUS.STATE (R267): reset 0. -/
def idnStatus_state : Fld := ⟨.idnStatus, 0, 4, .ro, 0⟩
/-- IDN_STATUS.WIDTH (R267): reset 0. -/
def idnStatus_width : Fld := ⟨.idnStatus, 4, 2, .ro, 0⟩
/-- IDN_STATUS.RATE (R267): reset 0. -/
def idnStatus_rate : Fld := ⟨.idnStatus, 6, 1, .ro, 0⟩
/-- IDN_STATUS.SPARES_USED (R267): reset 0. -/
def idnStatus_sparesUsed : Fld := ⟨.idnStatus, 7, 2, .ro, 0⟩
/-- IDN_STATUS.PEER_HUB (R267): reset 0. -/
def idnStatus_peerHub : Fld := ⟨.idnStatus, 9, 6, .ro, 0⟩
/-- IDN_STATUS.PEER_GROUP (R267): reset 0. -/
def idnStatus_peerGroup : Fld := ⟨.idnStatus, 15, 6, .ro, 0⟩
/-- IDN_STATUS.AUTHORITY (R267): reset 0. -/
def idnStatus_authority : Fld := ⟨.idnStatus, 21, 1, .ro, 0⟩
/-- IDN_STATUS.FAILS (R267): reset 0. -/
def idnStatus_fails : Fld := ⟨.idnStatus, 22, 2, .ro, 0⟩
/-- IDN_STATUS.LAT_PS (R267): reset 0. -/
def idnStatus_latPs : Fld := ⟨.idnStatus, 24, 32, .ro, 0⟩
/-- IDN_LANES.BAD (R268): reset 0. -/
def idnLanes_bad : Fld := ⟨.idnLanes, 0, 18, .ro, 0⟩
/-- IDN_CTRL.RETRAIN (R268): reset 0. -/
def idnCtrl_retrain : Fld := ⟨.idnCtrl, 0, 1, .wo, 0⟩
/-- IDN_CTRL.RELEASE (R268): reset 0. -/
def idnCtrl_release : Fld := ⟨.idnCtrl, 1, 1, .wo, 0⟩
/-- IDN_CTRL.DISABLE (R268): reset 0. -/
def idnCtrl_disable : Fld := ⟨.idnCtrl, 2, 1, .rw, 0⟩
/-- IDN_REPLAYS.COUNT (R269): reset 0. -/
def idnReplays_count : Fld := ⟨.idnReplays, 0, 32, .rw, 0⟩
/-- IDN_UNCORR.COUNT (R269): reset 0. -/
def idnUncorr_count : Fld := ⟨.idnUncorr, 0, 32, .rw, 0⟩
/-- IDN_CORR.COUNT (R269): reset 0. -/
def idnCorr_count : Fld := ⟨.idnCorr, 0, 48, .ro, 0⟩
/-- IDN_CORR.OVF (R269): reset 0. -/
def idnCorr_ovf : Fld := ⟨.idnCorr, 48, 1, .w1c, 0⟩
/-- IDN_TXBYTES.COUNT (R269): reset 0. -/
def idnTxbytes_count : Fld := ⟨.idnTxbytes, 0, 48, .ro, 0⟩
/-- IDN_TXBYTES.OVF (R269): reset 0. -/
def idnTxbytes_ovf : Fld := ⟨.idnTxbytes, 48, 1, .w1c, 0⟩
/-- IDN_RXBYTES.COUNT (R269): reset 0. -/
def idnRxbytes_count : Fld := ⟨.idnRxbytes, 0, 48, .ro, 0⟩
/-- IDN_RXBYTES.OVF (R269): reset 0. -/
def idnRxbytes_ovf : Fld := ⟨.idnRxbytes, 48, 1, .w1c, 0⟩
/-- MEMC_STATUS.STATE (R305): reset 0. -/
def memcStatus_state : Fld := ⟨.memcStatus, 0, 2, .ro, 0⟩
/-- MEMC_STATUS.RATE (R305): reset 0. -/
def memcStatus_rate : Fld := ⟨.memcStatus, 2, 2, .ro, 0⟩
/-- MEMC_STATUS.REFRESH_X2 (R305): reset 0. -/
def memcStatus_refreshX2 : Fld := ⟨.memcStatus, 4, 1, .ro, 0⟩
/-- MEMC_STATUS.CAP_MIB (R305): reset 0. -/
def memcStatus_capMib : Fld := ⟨.memcStatus, 16, 24, .ro, 0⟩
/-- MEMC_ERR.VALID (R306): reset 0. -/
def memcErr_valid : Fld := ⟨.memcErr, 0, 1, .w1c, 0⟩
/-- MEMC_ERR.MORE (R306): reset 0. -/
def memcErr_more : Fld := ⟨.memcErr, 1, 1, .w1c, 0⟩
/-- MEMC_ERR.CAUSE (R306): reset 0. -/
def memcErr_cause : Fld := ⟨.memcErr, 2, 4, .ro, 0⟩
/-- MEMC_ERR.CHANNEL (R306): reset 0. -/
def memcErr_channel : Fld := ⟨.memcErr, 6, 6, .ro, 0⟩
/-- MEMC_ERR.SECTOR (R306): reset 0. -/
def memcErr_sector : Fld := ⟨.memcErr, 13, 39, .ro, 0⟩
/-- MEMC_CE_COUNT.COUNT (R307): reset 0. -/
def memcCeCount_count : Fld := ⟨.memcCeCount, 0, 32, .rw, 0⟩
/-- MEMC_UE_COUNT.COUNT (R307): reset 0. -/
def memcUeCount_count : Fld := ⟨.memcUeCount, 0, 32, .rw, 0⟩
/-- MEMC_RETRY_COUNT.COUNT (R307): reset 0. -/
def memcRetryCount_count : Fld := ⟨.memcRetryCount, 0, 32, .rw, 0⟩
/-- MEMC_REPAIR.ENTRIES (R308): reset 0. -/
def memcRepair_entries : Fld := ⟨.memcRepair, 0, 10, .ro, 0⟩
/-- MEMC_REPAIR.SPARES_RETIRED (R308): reset 0. -/
def memcRepair_sparesRetired : Fld := ⟨.memcRepair, 10, 10, .ro, 0⟩
/-- MEMC_REPAIR.PAGES_RETIRED (R308): reset 0. -/
def memcRepair_pagesRetired : Fld := ⟨.memcRepair, 20, 12, .ro, 0⟩
/-- MEMC_REPAIR.LOST (R308): reset 0. -/
def memcRepair_lost : Fld := ⟨.memcRepair, 32, 7, .ro, 0⟩
/-- MEMC_REPAIR.QUEUED (R308): reset 0. -/
def memcRepair_queued : Fld := ⟨.memcRepair, 39, 5, .ro, 0⟩
/-- MEMC_RDBYTES.COUNT (R309): reset 0. -/
def memcRdbytes_count : Fld := ⟨.memcRdbytes, 0, 48, .ro, 0⟩
/-- MEMC_RDBYTES.OVF (R309): reset 0. -/
def memcRdbytes_ovf : Fld := ⟨.memcRdbytes, 48, 1, .w1c, 0⟩
/-- MEMC_WRBYTES.COUNT (R309): reset 0. -/
def memcWrbytes_count : Fld := ⟨.memcWrbytes, 0, 48, .ro, 0⟩
/-- MEMC_WRBYTES.OVF (R309): reset 0. -/
def memcWrbytes_ovf : Fld := ⟨.memcWrbytes, 48, 1, .w1c, 0⟩
/-- MEMC_RMW.COUNT (R309): reset 0. -/
def memcRmw_count : Fld := ⟨.memcRmw, 0, 48, .ro, 0⟩
/-- MEMC_RMW.OVF (R309): reset 0. -/
def memcRmw_ovf : Fld := ⟨.memcRmw, 48, 1, .w1c, 0⟩
/-- PRB_FILT_A.ENABLE (R346): reset 0. -/
def prbFiltA_enable : Fld := ⟨.prbFiltA, 0, 1, .rw, 0⟩
/-- PRB_FILT_A.TRACE (R346): reset 0. -/
def prbFiltA_trace : Fld := ⟨.prbFiltA, 1, 1, .rw, 0⟩
/-- PRB_FILT_A.PARTITION (R346): reset 0. -/
def prbFiltA_partition : Fld := ⟨.prbFiltA, 2, 8, .rw, 0⟩
/-- PRB_FILT_A.PART_EN (R346): reset 0. -/
def prbFiltA_partEn : Fld := ⟨.prbFiltA, 10, 1, .rw, 0⟩
/-- PRB_FILT_A.PORT (R346): reset 0. -/
def prbFiltA_port : Fld := ⟨.prbFiltA, 11, 3, .rw, 0⟩
/-- PRB_FILT_A.PORT_EN (R346): reset 0. -/
def prbFiltA_portEn : Fld := ⟨.prbFiltA, 14, 1, .rw, 0⟩
/-- PRB_FILT_A.CLASSES (R346): reset 0xFF. -/
def prbFiltA_classes : Fld := ⟨.prbFiltA, 15, 8, .rw, 255⟩
/-- PRB_FILT_A.URGENT_ONLY (R346): reset 0. -/
def prbFiltA_urgentOnly : Fld := ⟨.prbFiltA, 23, 1, .rw, 0⟩
/-- PRB_FILT_A.TYPE (R346): reset 0. -/
def prbFiltA_type : Fld := ⟨.prbFiltA, 24, 8, .rw, 0⟩
/-- PRB_FILT_A.TYPE_MASK (R346): reset 0. -/
def prbFiltA_typeMask : Fld := ⟨.prbFiltA, 32, 8, .rw, 0⟩
/-- PRB_ADDR_A.BASE (R346): reset 0. -/
def prbAddrA_base : Fld := ⟨.prbAddrA, 0, 27, .rw, 0⟩
/-- PRB_ADDR_A.LIMIT (R346): reset 0. -/
def prbAddrA_limit : Fld := ⟨.prbAddrA, 27, 27, .rw, 0⟩
/-- PRB_ADDR_A.ADDR_EN (R346): reset 0. -/
def prbAddrA_addrEn : Fld := ⟨.prbAddrA, 54, 1, .rw, 0⟩
/-- PRB_FILT_B.ENABLE (R346): reset 0. -/
def prbFiltB_enable : Fld := ⟨.prbFiltB, 0, 1, .rw, 0⟩
/-- PRB_FILT_B.TRACE (R346): reset 0. -/
def prbFiltB_trace : Fld := ⟨.prbFiltB, 1, 1, .rw, 0⟩
/-- PRB_FILT_B.PARTITION (R346): reset 0. -/
def prbFiltB_partition : Fld := ⟨.prbFiltB, 2, 8, .rw, 0⟩
/-- PRB_FILT_B.PART_EN (R346): reset 0. -/
def prbFiltB_partEn : Fld := ⟨.prbFiltB, 10, 1, .rw, 0⟩
/-- PRB_FILT_B.PORT (R346): reset 0. -/
def prbFiltB_port : Fld := ⟨.prbFiltB, 11, 3, .rw, 0⟩
/-- PRB_FILT_B.PORT_EN (R346): reset 0. -/
def prbFiltB_portEn : Fld := ⟨.prbFiltB, 14, 1, .rw, 0⟩
/-- PRB_FILT_B.CLASSES (R346): reset 0xFF. -/
def prbFiltB_classes : Fld := ⟨.prbFiltB, 15, 8, .rw, 255⟩
/-- PRB_FILT_B.URGENT_ONLY (R346): reset 0. -/
def prbFiltB_urgentOnly : Fld := ⟨.prbFiltB, 23, 1, .rw, 0⟩
/-- PRB_FILT_B.TYPE (R346): reset 0. -/
def prbFiltB_type : Fld := ⟨.prbFiltB, 24, 8, .rw, 0⟩
/-- PRB_FILT_B.TYPE_MASK (R346): reset 0. -/
def prbFiltB_typeMask : Fld := ⟨.prbFiltB, 32, 8, .rw, 0⟩
/-- PRB_ADDR_B.BASE (R346): reset 0. -/
def prbAddrB_base : Fld := ⟨.prbAddrB, 0, 27, .rw, 0⟩
/-- PRB_ADDR_B.LIMIT (R346): reset 0. -/
def prbAddrB_limit : Fld := ⟨.prbAddrB, 27, 27, .rw, 0⟩
/-- PRB_ADDR_B.ADDR_EN (R346): reset 0. -/
def prbAddrB_addrEn : Fld := ⟨.prbAddrB, 54, 1, .rw, 0⟩
/-- PRB_PKTS_A.COUNT (R347): reset 0. -/
def prbPktsA_count : Fld := ⟨.prbPktsA, 0, 48, .ro, 0⟩
/-- PRB_PKTS_A.OVF (R347): reset 0. -/
def prbPktsA_ovf : Fld := ⟨.prbPktsA, 48, 1, .w1c, 0⟩
/-- PRB_FLITS_A.COUNT (R347): reset 0. -/
def prbFlitsA_count : Fld := ⟨.prbFlitsA, 0, 48, .ro, 0⟩
/-- PRB_FLITS_A.OVF (R347): reset 0. -/
def prbFlitsA_ovf : Fld := ⟨.prbFlitsA, 48, 1, .w1c, 0⟩
/-- PRB_PKTS_B.COUNT (R347): reset 0. -/
def prbPktsB_count : Fld := ⟨.prbPktsB, 0, 48, .ro, 0⟩
/-- PRB_PKTS_B.OVF (R347): reset 0. -/
def prbPktsB_ovf : Fld := ⟨.prbPktsB, 48, 1, .w1c, 0⟩
/-- PRB_FLITS_B.COUNT (R347): reset 0. -/
def prbFlitsB_count : Fld := ⟨.prbFlitsB, 0, 48, .ro, 0⟩
/-- PRB_FLITS_B.OVF (R347): reset 0. -/
def prbFlitsB_ovf : Fld := ⟨.prbFlitsB, 48, 1, .w1c, 0⟩
/-- TRC_CTRL.ARM (R348): reset 0. -/
def trcCtrl_arm : Fld := ⟨.trcCtrl, 0, 1, .rw, 0⟩
/-- TRC_CTRL.WRAP (R348): reset 0. -/
def trcCtrl_wrap : Fld := ⟨.trcCtrl, 1, 1, .rw, 0⟩
/-- TRC_CTRL.FULL (R348): reset 0. -/
def trcCtrl_full : Fld := ⟨.trcCtrl, 2, 1, .ro, 0⟩
/-- TRC_CTRL.WRPTR (R348): reset 0. -/
def trcCtrl_wrptr : Fld := ⟨.trcCtrl, 3, 11, .ro, 0⟩
/-- TRC_CTRL.DROPPED (R348): reset 0. -/
def trcCtrl_dropped : Fld := ⟨.trcCtrl, 16, 16, .ro, 0⟩
/-- SCARF_STATUS.STATE (R349): reset 0. -/
def scarfStatus_state : Fld := ⟨.scarfStatus, 0, 2, .ro, 0⟩
/-- SCARF_STATUS.SPARES_USED (R349): reset 0. -/
def scarfStatus_sparesUsed : Fld := ⟨.scarfStatus, 2, 7, .ro, 0⟩
/-- SCARF_STATUS.RETRAINS (R349): reset 0. -/
def scarfStatus_retrains : Fld := ⟨.scarfStatus, 9, 16, .ro, 0⟩
/-- SCARF_CE_COUNT.COUNT (R349): reset 0. -/
def scarfCeCount_count : Fld := ⟨.scarfCeCount, 0, 32, .rw, 0⟩
/-- SLICE_ERR.VALID (R354): reset 0. -/
def sliceErr_valid : Fld := ⟨.sliceErr, 0, 1, .w1c, 0⟩
/-- SLICE_ERR.MORE (R354): reset 0. -/
def sliceErr_more : Fld := ⟨.sliceErr, 1, 1, .w1c, 0⟩
/-- SLICE_ERR.CAUSE (R354): reset 0. -/
def sliceErr_cause : Fld := ⟨.sliceErr, 2, 3, .ro, 0⟩
/-- SLICE_ERR.LINE (R354): reset 0. -/
def sliceErr_line : Fld := ⟨.sliceErr, 5, 42, .ro, 0⟩
/-- SLICE_CE_COUNT.COUNT (R354): reset 0. -/
def sliceCeCount_count : Fld := ⟨.sliceCeCount, 0, 32, .rw, 0⟩
/-- MT_STATUS.STATE (R391): reset 0. -/
def mtStatus_state : Fld := ⟨.mtStatus, 0, 4, .ro, 0⟩
/-- MT_STATUS.DESC_VALID (R391): reset 0. -/
def mtStatus_descValid : Fld := ⟨.mtStatus, 4, 1, .ro, 0⟩
/-- MT_STATUS.ATTESTED (R391): reset 0. -/
def mtStatus_attested : Fld := ⟨.mtStatus, 5, 1, .ro, 0⟩
/-- MT_STATUS.QUIESCED (R391): reset 0. -/
def mtStatus_quiesced : Fld := ⟨.mtStatus, 6, 1, .ro, 0⟩
/-- MT_STATUS.AGENT_FAILED (R391): reset 0. -/
def mtStatus_agentFailed : Fld := ⟨.mtStatus, 7, 1, .ro, 0⟩
/-- MT_STATUS.DIRTY (R391): reset kept. -/
def mtStatus_dirty : Fld := ⟨.mtStatus, 8, 1, .ro, 0⟩
/-- MT_STATUS.FAILS (R391): reset 0. -/
def mtStatus_fails : Fld := ⟨.mtStatus, 9, 2, .ro, 0⟩
/-- MT_STATUS.MIN_WIDTH (R391): reset 0. -/
def mtStatus_minWidth : Fld := ⟨.mtStatus, 11, 2, .ro, 0⟩
/-- MT_STATUS.CAUSE (R391): reset 0. -/
def mtStatus_cause : Fld := ⟨.mtStatus, 13, 4, .ro, 0⟩
/-- MT_CTRL.ENABLE (R392): reset 1. -/
def mtCtrl_enable : Fld := ⟨.mtCtrl, 0, 1, .rw, 1⟩
/-- MT_CTRL.RESET (R392): reset 0. -/
def mtCtrl_reset : Fld := ⟨.mtCtrl, 1, 1, .wo, 0⟩
/-- MT_CTRL.RELEASE (R392): reset 0. -/
def mtCtrl_release : Fld := ⟨.mtCtrl, 2, 1, .wo, 0⟩
/-- MT_CTRL.QUIESCE (R392): reset 0. -/
def mtCtrl_quiesce : Fld := ⟨.mtCtrl, 3, 1, .wo, 0⟩
/-- MT_CTRL.RESUME (R392): reset 0. -/
def mtCtrl_resume : Fld := ⟨.mtCtrl, 4, 1, .wo, 0⟩
/-- MT_ASSIGN.PARTITION (R393): reset 0. -/
def mtAssign_partition : Fld := ⟨.mtAssign, 0, 8, .rw, 0⟩
/-- MT_ASSIGN.ASSIGNED (R393): reset 0. -/
def mtAssign_assigned : Fld := ⟨.mtAssign, 8, 1, .rw, 0⟩
/-- MT_ASSIGN.CLASS (R393): reset 0. -/
def mtAssign_class : Fld := ⟨.mtAssign, 9, 3, .rw, 0⟩
/-- MT_TELEM.POWER_MW (R394): reset 0. -/
def mtTelem_powerMw : Fld := ⟨.mtTelem, 0, 18, .ro, 0⟩
/-- MT_TELEM.TEMP (R394): reset 0. -/
def mtTelem_temp : Fld := ⟨.mtTelem, 18, 12, .ro, 0⟩
/-- MT_TELEM.CAP_W (R394): reset 0. -/
def mtTelem_capW : Fld := ⟨.mtTelem, 30, 8, .ro, 0⟩
/-- MT_ERR.VALID (R395): reset 0. -/
def mtErr_valid : Fld := ⟨.mtErr, 0, 1, .w1c, 0⟩
/-- MT_ERR.MORE (R395): reset 0. -/
def mtErr_more : Fld := ⟨.mtErr, 1, 1, .w1c, 0⟩
/-- MT_ERR.CAUSE (R395): reset 0. -/
def mtErr_cause : Fld := ⟨.mtErr, 2, 4, .ro, 0⟩
/-- MT_ERR.MODULE (R395): reset 0. -/
def mtErr_module : Fld := ⟨.mtErr, 6, 3, .ro, 0⟩
/-- MT_ERR.TICK (R395): reset 0. -/
def mtErr_tick : Fld := ⟨.mtErr, 32, 32, .ro, 0⟩
/-- MT_EVENT.CODE (R395): reset 0. -/
def mtEvent_code : Fld := ⟨.mtEvent, 0, 64, .ro, 0⟩
/-- MT_MODULE.PROTO (R396): reset 0. -/
def mtModule_proto : Fld := ⟨.mtModule, 0, 2, .ro, 0⟩
/-- MT_MODULE.STATE (R396): reset 0. -/
def mtModule_state : Fld := ⟨.mtModule, 2, 4, .ro, 0⟩
/-- MT_MODULE.WIDTH (R396): reset 0. -/
def mtModule_width : Fld := ⟨.mtModule, 6, 2, .ro, 0⟩
/-- MT_MODULE.REPAIRED (R396): reset 0. -/
def mtModule_repaired : Fld := ⟨.mtModule, 8, 4, .ro, 0⟩
/-- MT_MODULE.ATTACH_NODE (R396): reset 0. -/
def mtModule_attachNode : Fld := ⟨.mtModule, 12, 16, .ro, 0⟩
/-- MT_REGION.VALID (R397): reset 0. -/
def mtRegion_valid : Fld := ⟨.mtRegion, 0, 1, .ro, 0⟩
/-- MT_REGION.TYPE (R397): reset 0. -/
def mtRegion_type : Fld := ⟨.mtRegion, 1, 3, .ro, 0⟩
/-- MT_REGION.SIZE_LOG2 (R397): reset 0. -/
def mtRegion_sizeLog2 : Fld := ⟨.mtRegion, 4, 6, .ro, 0⟩
/-- MT_REGION.OFFSET (R397): reset 0. -/
def mtRegion_offset : Fld := ⟨.mtRegion, 10, 24, .ro, 0⟩
/-- MT_REGION.MODULES (R397): reset 0. -/
def mtRegion_modules : Fld := ⟨.mtRegion, 34, 8, .ro, 0⟩
/-- MT_RETRY_COUNT.COUNT (R398): reset 0. -/
def mtRetryCount_count : Fld := ⟨.mtRetryCount, 0, 32, .rw, 0⟩
/-- MT_DROP_COUNT.COUNT (R398): reset 0. -/
def mtDropCount_count : Fld := ⟨.mtDropCount, 0, 32, .rw, 0⟩
/-- MT_TXBYTES.COUNT (R398): reset 0. -/
def mtTxbytes_count : Fld := ⟨.mtTxbytes, 0, 48, .ro, 0⟩
/-- MT_TXBYTES.OVF (R398): reset 0. -/
def mtTxbytes_ovf : Fld := ⟨.mtTxbytes, 48, 1, .w1c, 0⟩
/-- MT_RXBYTES.COUNT (R398): reset 0. -/
def mtRxbytes_count : Fld := ⟨.mtRxbytes, 0, 48, .ro, 0⟩
/-- MT_RXBYTES.OVF (R398): reset 0. -/
def mtRxbytes_ovf : Fld := ⟨.mtRxbytes, 48, 1, .w1c, 0⟩
/-- MT_DESC.BYTES (R399): reset 0. -/
def mtDesc_bytes : Fld := ⟨.mtDesc, 0, 64, .ro, 0⟩
end F

/-- The fields of a register, in bit order; every other bit is RSV. -/
def RegName.fields : RegName → List Fld
  | .gctlHubIdent => [F.gctlHubIdent_hubId, F.gctlHubIdent_fields, F.gctlHubIdent_baysPerField, F.gctlHubIdent_tilesPerBay, F.gctlHubIdent_stepping]
  | .gctlTileQuery => [F.gctlTileQuery_tile, F.gctlTileQuery_bay, F.gctlTileQuery_field, F.gctlTileQuery_hub]
  | .gctlTileWhere => [F.gctlTileWhere_physField, F.gctlTileWhere_physBay, F.gctlTileWhere_physTile, F.gctlTileWhere_valid, F.gctlTileWhere_remote, F.gctlTileWhere_pending]
  | .domStatus => [F.domStatus_member, F.domStatus_forming, F.domStatus_refused, F.domStatus_cause, F.domStatus_masterId, F.domStatus_epoch]
  | .domMembers => [F.domMembers_members]
  | .domCtrl => [F.domCtrl_leave, F.domCtrl_join, F.domCtrl_handover, F.domCtrl_handoverTo]
  | .lsCfg => [F.lsCfg_enable, F.lsCfg_primary, F.lsCfg_partner, F.lsCfg_partition]
  | .lsDiverge => [F.lsDiverge_valid, F.lsDiverge_more, F.lsDiverge_digest, F.lsDiverge_field, F.lsDiverge_bay, F.lsDiverge_tick]
  | .memStatus => [F.memStatus_stackedReady, F.memStatus_fenPresent, F.memStatus_fenReady, F.memStatus_ledgerOk, F.memStatus_ledgerFull, F.memStatus_allDirty, F.memStatus_clearing, F.memStatus_minMem, F.memStatus_clearPart]
  | .memClear => [F.memClear_partition, F.memClear_start]
  | .memDirty => [F.memDirty_dirty]
  | .cohRange => [F.cohRange_enable, F.cohRange_confidential, F.cohRange_partition, F.cohRange_agents, F.cohRange_flushing]
  | .cohRangeAddr => [F.cohRangeAddr_base, F.cohRangeAddr_limit]
  | .objCtrl => [F.objCtrl_strictReq, F.objCtrl_strict, F.objCtrl_causes]
  | .objAdminCmd => [F.objAdminCmd_enable, F.objAdminCmd_log2, F.objAdminCmd_base]
  | .objAdminCpl => [F.objAdminCpl_enable, F.objAdminCpl_log2, F.objAdminCpl_base, F.objAdminCpl_vector, F.objAdminCpl_irqEn]
  | .objAdminPidx => [F.objAdminPidx_index]
  | .objDbDrops => [F.objDbDrops_count]
  | .bootStatus => [F.bootStatus_hubState, F.bootStatus_step, F.bootStatus_cfgDefault, F.bootStatus_ledgerWait, F.bootStatus_katFail, F.bootStatus_readyMs, F.bootStatus_fwVersion]
  | .bootCtrl => [F.bootCtrl_recoveryNext]
  | .defStatus => [F.defStatus_factoryRows, F.defStatus_fieldRows, F.defStatus_spentBad, F.defStatus_full, F.defStatus_tilesSpared, F.defStatus_baysSpared, F.defStatus_lostBays]
  | .defMapout => [F.defMapout_tile, F.defMapout_wholeBay, F.defMapout_queue, F.defMapout_result, F.defMapout_pending]
  | .defLost => [F.defLost_lost]
  | .mgmtStatus => [F.mgmtStatus_da, F.mgmtStatus_daValid, F.mgmtStatus_eid, F.mgmtStatus_queued, F.mgmtStatus_drops]
  | .pwrStatus => [F.pwrStatus_mainOn, F.pwrStatus_mainFail, F.pwrStatus_thermTrip, F.pwrStatus_thermWarn, F.pwrStatus_strapStby, F.pwrStatus_hotTemp, F.pwrStatus_hotBay]
  | .thermCtrl => [F.thermCtrl_warn, F.thermCtrl_trip]
  | .vcoreTarget => [F.vcoreTarget_targetMv, F.vcoreTarget_settling]
  | .tickCtrl => [F.tickCtrl_run, F.tickCtrl_master, F.tickCtrl_exhausted]
  | .tickPeriodSet => [F.tickPeriodSet_periodNs, F.tickPeriodSet_accepted, F.tickPeriodSet_atTick]
  | .tickCounter => [F.tickCounter_count]
  | .tickTiming => [F.tickTiming_decisionNs, F.tickTiming_release10ns, F.tickTiming_slackNs]
  | .tickPeriodNow => [F.tickPeriodNow_periodNs]
  | .partCfg => [F.partCfg_enable, F.partCfg_ceiling, F.partCfg_recoverLog2]
  | .partStatus => [F.partStatus_plan, F.partStatus_ceilNow, F.partStatus_attempt, F.partStatus_nofit, F.partStatus_faulted, F.partStatus_cause]
  | .partCommits => [F.partCommits_count, F.partCommits_ovf]
  | .partSpoils => [F.partSpoils_count]
  | .partOverruns => [F.partOverruns_count]
  | .partLastTick => [F.partLastTick_tick]
  | .partIdoon => [F.partIdoon_ports]
  | .slcShare => [F.slcShare_share]
  | .slcBytes => [F.slcBytes_bytes]
  | .slcOvf => [F.slcOvf_ovf]
  | .slcDemoteCount => [F.slcDemoteCount_count]
  | .partSluice => [F.partSluice_allowed, F.partSluice_hostClass]
  | .errqPidx => [F.errqPidx_index]
  | .errqCidx => [F.errqCidx_index]
  | .errqLidx => [F.errqLidx_index]
  | .errqStatus => [F.errqStatus_ovf, F.errqStatus_logOk, F.errqStatus_held]
  | .errqDropped => [F.errqDropped_count]
  | .errqCtrl => [F.errqCtrl_hostConsumer, F.errqCtrl_port, F.errqCtrl_vector, F.errqCtrl_classMask, F.errqCtrl_pldmEn]
  | .perfSel => [F.perfSel_event, F.perfSel_fieldMask, F.perfSel_partition, F.perfSel_partEn]
  | .perfCnt => [F.perfCnt_count, F.perfCnt_ovf]
  | .perfCtrl => [F.perfCtrl_freeze, F.perfCtrl_snap, F.perfCtrl_snapValid, F.perfCtrl_snapTick]
  | .perfSnap => [F.perfSnap_count, F.perfSnap_ovf]
  | .hostpHubStatus => [F.hostpHubStatus_enabled, F.hostpHubStatus_up, F.hostpHubStatus_lost, F.hostpHubStatus_recovering, F.hostpHubStatus_downMs]
  | .hostpWait => [F.hostpWait_wait]
  | .hostpHotplug => [F.hostpHotplug_assistEn, F.hostpHotplug_btnEvent, F.hostpHotplug_attnInd, F.hostpHotplug_pwrInd, F.hostpHotplug_remove, F.hostpHotplug_prsnt, F.hostpHotplug_pwrReq, F.hostpHotplug_wakeReq]
  | .hostpBiasFlip => [F.hostpBiasFlip_range, F.hostpBiasFlip_page, F.hostpBiasFlip_to, F.hostpBiasFlip_start, F.hostpBiasFlip_busy, F.hostpBiasFlip_refused]
  | .hostpDbpt => [F.hostpDbpt_enable, F.hostpDbpt_base]
  | .hostpPortStatus => [F.hostpPortStatus_lstate, F.hostpPortStatus_rate, F.hostpPortStatus_width, F.hostpPortStatus_flit, F.hostpPortStatus_cxl, F.hostpPortStatus_contained, F.hostpPortStatus_pfDstate, F.hostpPortStatus_ideLink]
  | .hostpPortCtrl => [F.hostpPortCtrl_containEn, F.hostpPortCtrl_release, F.hostpPortCtrl_retrain, F.hostpPortCtrl_l1EarlyExit]
  | .hostpContain => [F.hostpContain_valid, F.hostpContain_more, F.hostpContain_cause, F.hostpContain_tick]
  | .hostpAts => [F.hostpAts_pinned, F.hostpAts_cached, F.hostpAts_invPending]
  | .hostpTxbytes => [F.hostpTxbytes_count, F.hostpTxbytes_ovf]
  | .hostpRxbytes => [F.hostpRxbytes_count, F.hostpRxbytes_ovf]
  | .hostpCeCount => [F.hostpCeCount_count]
  | .hostpInvCount => [F.hostpInvCount_count]
  | .hostfBind => [F.hostfBind_port, F.hostfBind_dbCount, F.hostfBind_dbFirst]
  | .hostfBar4 => [F.hostfBar4_enable, F.hostfBar4_sizeLog2, F.hostfBar4_offset]
  | .hostfBar4Dpa => [F.hostfBar4Dpa_dpa]
  | .hostpBias => [F.hostpBias_bias]
  | .secStatus => [F.secStatus_lcState, F.secStatus_pending, F.secStatus_pendingTarget, F.secStatus_wipeDone, F.secStatus_udsOk, F.secStatus_ownerSlot, F.secStatus_licEpoch, F.secStatus_licValid, F.secStatus_licPending]
  | .secDebug => [F.secDebug_active, F.secDebug_caps, F.secDebug_byOwner, F.secDebug_remainS]
  | .secOtpUse => [F.secOtpUse_ownerUsed, F.secOtpUse_epochUsed, F.secOtpUse_defectRows]
  | .secAuthFails => [F.secAuthFails_count]
  | .partBays => [F.partBays_bays]
  | .partMem => [F.partMem_valid, F.partMem_tier, F.partMem_baseGib, F.partMem_limitGib]
  | .partSec => [F.partSec_confidential, F.partSec_admitUnattested, F.partSec_tdisp, F.partSec_clean]
  | .partProv => [F.partProv_valid, F.partProv_base]
  | .tpNet => [F.tpNet_en, F.tpNet_field, F.tpNet_node, F.tpNet_delay, F.tpNet_partition, F.tpNet_partEn]
  | .tpCredit => [F.tpCredit_en, F.tpCredit_field, F.tpCredit_node, F.tpCredit_port, F.tpCredit_limit, F.tpCredit_returnDelay]
  | .tpMem => [F.tpMem_en, F.tpMem_ctrl, F.tpMem_stallNs, F.tpMem_everyUs]
  | .tpLink => [F.tpLink_en, F.tpLink_kind, F.tpLink_target, F.tpLink_every, F.tpLink_retrain]
  | .tpInject => [F.tpInject_en, F.tpInject_kind, F.tpInject_target, F.tpInject_stage, F.tpInject_ue, F.tpInject_count, F.tpInject_perAttempt]
  | .tpInjectTick => [F.tpInjectTick_atTick, F.tpInjectTick_atEn]
  | .tpStatus => [F.tpStatus_active, F.tpStatus_refused, F.tpStatus_lastInjTick]
  | .tileStatus => [F.tileStatus_running, F.tileStatus_waiting, F.tileStatus_ended, F.tileStatus_stopped, F.tileStatus_pc, F.tileStatus_tick]
  | .tileErr => [F.tileErr_valid, F.tileErr_more, F.tileErr_cause, F.tileErr_stage, F.tileErr_pc, F.tileErr_tick]
  | .tileCeCount => [F.tileCeCount_count]
  | .tileSpoilCount => [F.tileSpoilCount_count]
  | .tileVflags => [F.tileVflags_flags, F.tileVflags_tick]
  | .kvwRing => [F.kvwRing_enable, F.kvwRing_reqLog2, F.kvwRing_reqBase, F.kvwRing_landBase, F.kvwRing_landSlotsM1]
  | .kvwStatus => [F.kvwStatus_active, F.kvwStatus_halted, F.kvwStatus_inflight]
  | .kvwErr => [F.kvwErr_valid, F.kvwErr_more, F.kvwErr_cause, F.kvwErr_tile, F.kvwErr_entry, F.kvwErr_tick]
  | .kvwBytes => [F.kvwBytes_count, F.kvwBytes_ovf]
  | .kvwFaults => [F.kvwFaults_count]
  | .idnStatus => [F.idnStatus_state, F.idnStatus_width, F.idnStatus_rate, F.idnStatus_sparesUsed, F.idnStatus_peerHub, F.idnStatus_peerGroup, F.idnStatus_authority, F.idnStatus_fails, F.idnStatus_latPs]
  | .idnLanes => [F.idnLanes_bad]
  | .idnCtrl => [F.idnCtrl_retrain, F.idnCtrl_release, F.idnCtrl_disable]
  | .idnReplays => [F.idnReplays_count]
  | .idnUncorr => [F.idnUncorr_count]
  | .idnCorr => [F.idnCorr_count, F.idnCorr_ovf]
  | .idnTxbytes => [F.idnTxbytes_count, F.idnTxbytes_ovf]
  | .idnRxbytes => [F.idnRxbytes_count, F.idnRxbytes_ovf]
  | .memcStatus => [F.memcStatus_state, F.memcStatus_rate, F.memcStatus_refreshX2, F.memcStatus_capMib]
  | .memcErr => [F.memcErr_valid, F.memcErr_more, F.memcErr_cause, F.memcErr_channel, F.memcErr_sector]
  | .memcCeCount => [F.memcCeCount_count]
  | .memcUeCount => [F.memcUeCount_count]
  | .memcRetryCount => [F.memcRetryCount_count]
  | .memcRepair => [F.memcRepair_entries, F.memcRepair_sparesRetired, F.memcRepair_pagesRetired, F.memcRepair_lost, F.memcRepair_queued]
  | .memcRdbytes => [F.memcRdbytes_count, F.memcRdbytes_ovf]
  | .memcWrbytes => [F.memcWrbytes_count, F.memcWrbytes_ovf]
  | .memcRmw => [F.memcRmw_count, F.memcRmw_ovf]
  | .prbFiltA => [F.prbFiltA_enable, F.prbFiltA_trace, F.prbFiltA_partition, F.prbFiltA_partEn, F.prbFiltA_port, F.prbFiltA_portEn, F.prbFiltA_classes, F.prbFiltA_urgentOnly, F.prbFiltA_type, F.prbFiltA_typeMask]
  | .prbAddrA => [F.prbAddrA_base, F.prbAddrA_limit, F.prbAddrA_addrEn]
  | .prbFiltB => [F.prbFiltB_enable, F.prbFiltB_trace, F.prbFiltB_partition, F.prbFiltB_partEn, F.prbFiltB_port, F.prbFiltB_portEn, F.prbFiltB_classes, F.prbFiltB_urgentOnly, F.prbFiltB_type, F.prbFiltB_typeMask]
  | .prbAddrB => [F.prbAddrB_base, F.prbAddrB_limit, F.prbAddrB_addrEn]
  | .prbPktsA => [F.prbPktsA_count, F.prbPktsA_ovf]
  | .prbFlitsA => [F.prbFlitsA_count, F.prbFlitsA_ovf]
  | .prbPktsB => [F.prbPktsB_count, F.prbPktsB_ovf]
  | .prbFlitsB => [F.prbFlitsB_count, F.prbFlitsB_ovf]
  | .trcCtrl => [F.trcCtrl_arm, F.trcCtrl_wrap, F.trcCtrl_full, F.trcCtrl_wrptr, F.trcCtrl_dropped]
  | .scarfStatus => [F.scarfStatus_state, F.scarfStatus_sparesUsed, F.scarfStatus_retrains]
  | .scarfCeCount => [F.scarfCeCount_count]
  | .sliceErr => [F.sliceErr_valid, F.sliceErr_more, F.sliceErr_cause, F.sliceErr_line]
  | .sliceCeCount => [F.sliceCeCount_count]
  | .mtStatus => [F.mtStatus_state, F.mtStatus_descValid, F.mtStatus_attested, F.mtStatus_quiesced, F.mtStatus_agentFailed, F.mtStatus_dirty, F.mtStatus_fails, F.mtStatus_minWidth, F.mtStatus_cause]
  | .mtCtrl => [F.mtCtrl_enable, F.mtCtrl_reset, F.mtCtrl_release, F.mtCtrl_quiesce, F.mtCtrl_resume]
  | .mtAssign => [F.mtAssign_partition, F.mtAssign_assigned, F.mtAssign_class]
  | .mtTelem => [F.mtTelem_powerMw, F.mtTelem_temp, F.mtTelem_capW]
  | .mtErr => [F.mtErr_valid, F.mtErr_more, F.mtErr_cause, F.mtErr_module, F.mtErr_tick]
  | .mtEvent => [F.mtEvent_code]
  | .mtModule => [F.mtModule_proto, F.mtModule_state, F.mtModule_width, F.mtModule_repaired, F.mtModule_attachNode]
  | .mtRegion => [F.mtRegion_valid, F.mtRegion_type, F.mtRegion_sizeLog2, F.mtRegion_offset, F.mtRegion_modules]
  | .mtRetryCount => [F.mtRetryCount_count]
  | .mtDropCount => [F.mtDropCount_count]
  | .mtTxbytes => [F.mtTxbytes_count, F.mtTxbytes_ovf]
  | .mtRxbytes => [F.mtRxbytes_count, F.mtRxbytes_ovf]
  | .mtDesc => [F.mtDesc_bytes]

/-- The reset scope the chapter gives a register. -/
def RegName.scope : RegName → Scope
  | .gctlHubIdent => .hub
  | .gctlTileQuery => .hub
  | .gctlTileWhere => .hub
  | .domStatus => .hub
  | .domMembers => .hub
  | .domCtrl => .hub
  | .lsCfg => .hub
  | .lsDiverge => .hub
  | .memStatus => .hub
  | .memClear => .hub
  | .memDirty => .standby
  | .cohRange => .hub
  | .cohRangeAddr => .hub
  | .objCtrl => .hub
  | .objAdminCmd => .hub
  | .objAdminCpl => .hub
  | .objAdminPidx => .hub
  | .objDbDrops => .hub
  | .bootStatus => .hub
  | .bootCtrl => .standby
  | .defStatus => .hub
  | .defMapout => .hub
  | .defLost => .hub
  | .mgmtStatus => .standby
  | .pwrStatus => .standby
  | .thermCtrl => .standby
  | .vcoreTarget => .hub
  | .tickCtrl => .hub
  | .tickPeriodSet => .hub
  | .tickCounter => .hub
  | .tickTiming => .hub
  | .tickPeriodNow => .hub
  | .partCfg => .partition
  | .partStatus => .partition
  | .partCommits => .partition
  | .partSpoils => .partition
  | .partOverruns => .partition
  | .partLastTick => .partition
  | .partIdoon => .partition
  | .slcShare => .hub
  | .slcBytes => .hub
  | .slcOvf => .hub
  | .slcDemoteCount => .hub
  | .partSluice => .hub
  | .errqPidx => .standby
  | .errqCidx => .standby
  | .errqLidx => .standby
  | .errqStatus => .standby
  | .errqDropped => .standby
  | .errqCtrl => .standby
  | .perfSel => .hub
  | .perfCnt => .hub
  | .perfCtrl => .hub
  | .perfSnap => .hub
  | .hostpHubStatus => .hub
  | .hostpWait => .hub
  | .hostpHotplug => .hub
  | .hostpBiasFlip => .hub
  | .hostpDbpt => .hub
  | .hostpPortStatus => .hub
  | .hostpPortCtrl => .hub
  | .hostpContain => .hub
  | .hostpAts => .hub
  | .hostpTxbytes => .hub
  | .hostpRxbytes => .hub
  | .hostpCeCount => .hub
  | .hostpInvCount => .hub
  | .hostfBind => .hub
  | .hostfBar4 => .hub
  | .hostfBar4Dpa => .hub
  | .hostpBias => .hub
  | .secStatus => .standby
  | .secDebug => .standby
  | .secOtpUse => .standby
  | .secAuthFails => .standby
  | .partBays => .hub
  | .partMem => .hub
  | .partSec => .hub
  | .partProv => .hub
  | .tpNet => .hub
  | .tpCredit => .hub
  | .tpMem => .hub
  | .tpLink => .hub
  | .tpInject => .hub
  | .tpInjectTick => .hub
  | .tpStatus => .hub
  | .tileStatus => .bay
  | .tileErr => .bay
  | .tileCeCount => .bay
  | .tileSpoilCount => .bay
  | .tileVflags => .bay
  | .kvwRing => .bay
  | .kvwStatus => .bay
  | .kvwErr => .bay
  | .kvwBytes => .bay
  | .kvwFaults => .bay
  | .idnStatus => .hub
  | .idnLanes => .hub
  | .idnCtrl => .hub
  | .idnReplays => .hub
  | .idnUncorr => .hub
  | .idnCorr => .hub
  | .idnTxbytes => .hub
  | .idnRxbytes => .hub
  | .memcStatus => .hub
  | .memcErr => .hub
  | .memcCeCount => .hub
  | .memcUeCount => .hub
  | .memcRetryCount => .hub
  | .memcRepair => .hub
  | .memcRdbytes => .hub
  | .memcWrbytes => .hub
  | .memcRmw => .hub
  | .prbFiltA => .hub
  | .prbAddrA => .hub
  | .prbFiltB => .hub
  | .prbAddrB => .hub
  | .prbPktsA => .hub
  | .prbFlitsA => .hub
  | .prbPktsB => .hub
  | .prbFlitsB => .hub
  | .trcCtrl => .hub
  | .scarfStatus => .hub
  | .scarfCeCount => .hub
  | .sliceErr => .hub
  | .sliceCeCount => .hub
  | .mtStatus => .hub
  | .mtCtrl => .hub
  | .mtAssign => .hub
  | .mtTelem => .hub
  | .mtErr => .hub
  | .mtEvent => .hub
  | .mtModule => .hub
  | .mtRegion => .hub
  | .mtRetryCount => .hub
  | .mtDropCount => .hub
  | .mtTxbytes => .hub
  | .mtRxbytes => .hub
  | .mtDesc => .hub

/-- The value of a register after its reset scope (R12). -/
def RegName.resetVal (r : RegName) : Nat := (r.fields).foldl (fun a f => a + placed f.lo f.w f.rst) 0

/-- Where a register stands: its window, the offset of its first instance, and the strides of its repetitions
(count, stride), outermost first; a stride of 0 marks the window's own repetition (field or site). -/
structure RegPlace where
  reg : RegName
  win : Window
  base : Nat
  dims : List (Nat × Nat)
  deriving DecidableEq, Repr

/-- Where every register stands. -/
def regPlaces0 : List RegPlace := [
  ⟨.gctlHubIdent, .gctl, 0x8, []⟩,
  ⟨.gctlTileQuery, .gctl, 0x100, []⟩,
  ⟨.gctlTileWhere, .gctl, 0x108, []⟩,
  ⟨.domStatus, .gctl, 0x1000, []⟩,
  ⟨.domMembers, .gctl, 0x1008, []⟩,
  ⟨.domCtrl, .gctl, 0x1010, []⟩,
  ⟨.lsCfg, .gctl, 0x2000, []⟩,
  ⟨.lsDiverge, .gctl, 0x2008, []⟩,
  ⟨.memStatus, .gctl, 0x3000, []⟩,
  ⟨.memClear, .gctl, 0x3008, []⟩,
  ⟨.memDirty, .gctl, 0x3010, [(4, 0x8)]⟩,
  ⟨.cohRange, .gctl, 0x4000, [(16, 0x10)]⟩,
  ⟨.cohRangeAddr, .gctl, 0x4008, [(16, 0x10)]⟩,
  ⟨.objCtrl, .gctl, 0x5000, []⟩,
  ⟨.objAdminCmd, .gctl, 0x5008, []⟩,
  ⟨.objAdminCpl, .gctl, 0x5010, []⟩,
  ⟨.objAdminPidx, .gctl, 0x5018, []⟩,
  ⟨.objDbDrops, .gctl, 0x5020, []⟩,
  ⟨.bootStatus, .gctl, 0x6000, []⟩,
  ⟨.bootCtrl, .gctl, 0x6008, []⟩,
  ⟨.defStatus, .gctl, 0x6010, []⟩,
  ⟨.defMapout, .gctl, 0x6018, []⟩,
  ⟨.defLost, .gctl, 0x6020, [(9, 0x8)]⟩,
  ⟨.mgmtStatus, .gctl, 0x7000, []⟩,
  ⟨.pwrStatus, .gctl, 0x8000, []⟩,
  ⟨.thermCtrl, .gctl, 0x8008, []⟩,
  ⟨.vcoreTarget, .gctl, 0x8040, [(9, 0x8)]⟩,
  ⟨.tickCtrl, .tick, 0x0, []⟩,
  ⟨.tickPeriodSet, .tick, 0x8, []⟩,
  ⟨.tickCounter, .tick, 0x10, []⟩,
  ⟨.tickTiming, .tick, 0x18, []⟩,
  ⟨.tickPeriodNow, .tick, 0x20, []⟩,
  ⟨.partCfg, .tick, 0x10000, [(256, 0x100)]⟩,
  ⟨.partStatus, .tick, 0x10008, [(256, 0x100)]⟩,
  ⟨.partCommits, .tick, 0x10010, [(256, 0x100)]⟩]

def regPlaces1 : List RegPlace := [
  ⟨.partSpoils, .tick, 0x10018, [(256, 0x100)]⟩,
  ⟨.partOverruns, .tick, 0x10020, [(256, 0x100)]⟩,
  ⟨.partLastTick, .tick, 0x10028, [(256, 0x100)]⟩,
  ⟨.partIdoon, .tick, 0x10030, [(256, 0x100)]⟩,
  ⟨.slcShare, .sluice, 0x0, [(40, 0x8)]⟩,
  ⟨.slcBytes, .sluice, 0x400, [(8, 0x8)]⟩,
  ⟨.slcOvf, .sluice, 0x440, []⟩,
  ⟨.slcDemoteCount, .sluice, 0x480, [(8, 0x8)]⟩,
  ⟨.partSluice, .sluice, 0x1000, [(256, 0x8)]⟩,
  ⟨.errqPidx, .err, 0x0, []⟩,
  ⟨.errqCidx, .err, 0x8, []⟩,
  ⟨.errqLidx, .err, 0x10, []⟩,
  ⟨.errqStatus, .err, 0x18, []⟩,
  ⟨.errqDropped, .err, 0x20, []⟩,
  ⟨.errqCtrl, .err, 0x28, []⟩,
  ⟨.perfSel, .probes, 0x0, [(16, 0x10)]⟩,
  ⟨.perfCnt, .probes, 0x8, [(16, 0x10)]⟩,
  ⟨.perfCtrl, .probes, 0x100, []⟩,
  ⟨.perfSnap, .probes, 0x200, [(16, 0x8)]⟩,
  ⟨.hostpHubStatus, .host, 0x0, []⟩,
  ⟨.hostpWait, .host, 0x8, [(4, 0x8)]⟩,
  ⟨.hostpHotplug, .host, 0x28, []⟩,
  ⟨.hostpBiasFlip, .host, 0x30, []⟩,
  ⟨.hostpDbpt, .host, 0x38, []⟩,
  ⟨.hostpPortStatus, .host, 0x10000, [(4, 0x1000)]⟩,
  ⟨.hostpPortCtrl, .host, 0x10008, [(4, 0x1000)]⟩,
  ⟨.hostpContain, .host, 0x10010, [(4, 0x1000)]⟩,
  ⟨.hostpAts, .host, 0x10018, [(4, 0x1000)]⟩,
  ⟨.hostpTxbytes, .host, 0x10020, [(4, 0x1000)]⟩,
  ⟨.hostpRxbytes, .host, 0x10028, [(4, 0x1000)]⟩,
  ⟨.hostpCeCount, .host, 0x10030, [(4, 0x1000)]⟩,
  ⟨.hostpInvCount, .host, 0x10038, [(4, 0x1000)]⟩,
  ⟨.hostfBind, .host, 0x20000, [(256, 0x80)]⟩,
  ⟨.hostfBar4, .host, 0x20010, [(256, 0x80), (4, 0x10)]⟩,
  ⟨.hostfBar4Dpa, .host, 0x20018, [(256, 0x80), (4, 0x10)]⟩]

def regPlaces2 : List RegPlace := [
  ⟨.hostpBias, .host, 0x30000, [(16, 0x200), (64, 0x8)]⟩,
  ⟨.secStatus, .sec, 0x0, []⟩,
  ⟨.secDebug, .sec, 0x8, []⟩,
  ⟨.secOtpUse, .sec, 0x10, []⟩,
  ⟨.secAuthFails, .sec, 0x18, []⟩,
  ⟨.partBays, .sec, 0x10000, [(256, 0x100), (9, 0x8)]⟩,
  ⟨.partMem, .sec, 0x10048, [(256, 0x100), (8, 0x8)]⟩,
  ⟨.partSec, .sec, 0x10088, [(256, 0x100)]⟩,
  ⟨.partProv, .sec, 0x10090, [(256, 0x100)]⟩,
  ⟨.tpNet, .tp, 0x0, []⟩,
  ⟨.tpCredit, .tp, 0x8, []⟩,
  ⟨.tpMem, .tp, 0x10, []⟩,
  ⟨.tpLink, .tp, 0x18, []⟩,
  ⟨.tpInject, .tp, 0x20, []⟩,
  ⟨.tpInjectTick, .tp, 0x28, []⟩,
  ⟨.tpStatus, .tp, 0x30, []⟩,
  ⟨.tileStatus, .field, 0x80000, [(9, 0x0), (512, 0x100)]⟩,
  ⟨.tileErr, .field, 0x80008, [(9, 0x0), (512, 0x100)]⟩,
  ⟨.tileCeCount, .field, 0x80010, [(9, 0x0), (512, 0x100)]⟩,
  ⟨.tileSpoilCount, .field, 0x80018, [(9, 0x0), (512, 0x100)]⟩,
  ⟨.tileVflags, .field, 0x80020, [(9, 0x0), (512, 0x100)]⟩,
  ⟨.kvwRing, .field, 0xa0000, [(9, 0x0), (64, 0x80), (8, 0x8)]⟩,
  ⟨.kvwStatus, .field, 0xa0040, [(9, 0x0), (64, 0x80)]⟩,
  ⟨.kvwErr, .field, 0xa0048, [(9, 0x0), (64, 0x80)]⟩,
  ⟨.kvwBytes, .field, 0xa0050, [(9, 0x0), (64, 0x80)]⟩,
  ⟨.kvwFaults, .field, 0xa0058, [(9, 0x0), (64, 0x80)]⟩,
  ⟨.idnStatus, .field, 0xb0000, [(9, 0x0), (4, 0x100)]⟩,
  ⟨.idnLanes, .field, 0xb0008, [(9, 0x0), (4, 0x100)]⟩,
  ⟨.idnCtrl, .field, 0xb0010, [(9, 0x0), (4, 0x100)]⟩,
  ⟨.idnReplays, .field, 0xb0018, [(9, 0x0), (4, 0x100)]⟩,
  ⟨.idnUncorr, .field, 0xb0020, [(9, 0x0), (4, 0x100)]⟩,
  ⟨.idnCorr, .field, 0xb0028, [(9, 0x0), (4, 0x100)]⟩,
  ⟨.idnTxbytes, .field, 0xb0030, [(9, 0x0), (4, 0x100)]⟩,
  ⟨.idnRxbytes, .field, 0xb0038, [(9, 0x0), (4, 0x100)]⟩,
  ⟨.memcStatus, .field, 0xc0000, [(9, 0x0), (19, 0x100)]⟩]

def regPlaces3 : List RegPlace := [
  ⟨.memcErr, .field, 0xc0008, [(9, 0x0), (19, 0x100)]⟩,
  ⟨.memcCeCount, .field, 0xc0010, [(9, 0x0), (19, 0x100)]⟩,
  ⟨.memcUeCount, .field, 0xc0018, [(9, 0x0), (19, 0x100)]⟩,
  ⟨.memcRetryCount, .field, 0xc0020, [(9, 0x0), (19, 0x100)]⟩,
  ⟨.memcRepair, .field, 0xc0028, [(9, 0x0), (19, 0x100)]⟩,
  ⟨.memcRdbytes, .field, 0xc0030, [(9, 0x0), (19, 0x100)]⟩,
  ⟨.memcWrbytes, .field, 0xc0038, [(9, 0x0), (19, 0x100)]⟩,
  ⟨.memcRmw, .field, 0xc0040, [(9, 0x0), (19, 0x100)]⟩,
  ⟨.prbFiltA, .field, 0xd0000, [(9, 0x0), (98, 0x80)]⟩,
  ⟨.prbAddrA, .field, 0xd0008, [(9, 0x0), (98, 0x80)]⟩,
  ⟨.prbFiltB, .field, 0xd0010, [(9, 0x0), (98, 0x80)]⟩,
  ⟨.prbAddrB, .field, 0xd0018, [(9, 0x0), (98, 0x80)]⟩,
  ⟨.prbPktsA, .field, 0xd0020, [(9, 0x0), (98, 0x80)]⟩,
  ⟨.prbFlitsA, .field, 0xd0028, [(9, 0x0), (98, 0x80)]⟩,
  ⟨.prbPktsB, .field, 0xd0030, [(9, 0x0), (98, 0x80)]⟩,
  ⟨.prbFlitsB, .field, 0xd0038, [(9, 0x0), (98, 0x80)]⟩,
  ⟨.trcCtrl, .field, 0xd4000, [(9, 0x0)]⟩,
  ⟨.scarfStatus, .field, 0xe0000, [(9, 0x0), (32, 0x40)]⟩,
  ⟨.scarfCeCount, .field, 0xe0008, [(9, 0x0), (32, 0x40)]⟩,
  ⟨.sliceErr, .field, 0xf0000, [(9, 0x0), (256, 0x40)]⟩,
  ⟨.sliceCeCount, .field, 0xf0008, [(9, 0x0), (256, 0x40)]⟩,
  ⟨.mtStatus, .mortise, 0x0, [(12, 0x0)]⟩,
  ⟨.mtCtrl, .mortise, 0x8, [(12, 0x0)]⟩,
  ⟨.mtAssign, .mortise, 0x10, [(12, 0x0)]⟩,
  ⟨.mtTelem, .mortise, 0x18, [(12, 0x0)]⟩,
  ⟨.mtErr, .mortise, 0x20, [(12, 0x0)]⟩,
  ⟨.mtEvent, .mortise, 0x28, [(12, 0x0)]⟩,
  ⟨.mtModule, .mortise, 0x40, [(12, 0x0), (8, 0x8)]⟩,
  ⟨.mtRegion, .mortise, 0x80, [(12, 0x0), (4, 0x8)]⟩,
  ⟨.mtRetryCount, .mortise, 0xa0, [(12, 0x0)]⟩,
  ⟨.mtDropCount, .mortise, 0xa8, [(12, 0x0)]⟩,
  ⟨.mtTxbytes, .mortise, 0xb0, [(12, 0x0)]⟩,
  ⟨.mtRxbytes, .mortise, 0xb8, [(12, 0x0)]⟩,
  ⟨.mtDesc, .mortise, 0x100, [(12, 0x0), (32, 0x8)]⟩]

/-- All placements. -/
def regPlaces : List RegPlace := regPlaces0 ++ regPlaces1 ++ regPlaces2 ++ regPlaces3

/-- Split an offset over repetitions: the flat instance number, if the offset falls on an instance. -/
def placeIndex : List (Nat × Nat) → Nat → Nat → Nat → Option Nat
  | [], _, off, acc => if off = 0 then some acc else none
  | (n, stride) :: ds, inst, off, acc =>
    if stride = 0 then (if inst < n then placeIndex ds inst off (acc * n + inst) else none)
    else
      let k := off / stride
      if k < n then placeIndex ds inst (off - k * stride) (acc * n + k) else none

/-- The register and instance at an offset of a window (`inst` is the field or the site of the window). -/
def regAt (win : Window) (inst off : Nat) : Option (RegName × Nat) :=
  (regPlaces.findSome? fun p =>
    if p.win = win ∧ p.base ≤ off then
      (placeIndex p.dims inst (off - p.base) 0).map fun i => (p.reg, i)
    else none)

end Sys2Proof.Machine
end

