-- ==== Sys2Proof/Machine/Types.lean ====
section
/-! DEFINITION. Machine/Types.lean: the state the spec gives the hub beside its registers, part by part: tiles and
bays, the tick and its staged effects, contexts, queues, objects, fences and commands, and the error queue. -/
namespace Sys2Proof.Machine

/-! ### Tiles and bays (R62 to R137) -/

/-- What a tile's issue waits for (R92 to R94). -/
inductive WaitCond where
  | none
  | counter (k n : Nat)
  | barrier (b : Nat)
  | sync (k n : Nat)
  deriving DecidableEq, Repr

/-- A translation a tile holds (R87, R452): the 64 KiB page of the virtual address, where it leads, and its flags;
`pages` is 1, 32 for a 2 MiB run or 16384 for a 1 GiB leaf (R454). -/
structure Trans where
  page : Nat
  pages : Nat
  base : Nat
  host : Bool
  write : Bool
  marked : Bool := false
  deriving DecidableEq, Repr

/-- A tensor transfer in a tile's load or store queue (R86, R92). `todo` lists pages still without translation,
`done` says that a store has been acknowledged or accepted, `refused` that its destination refused part of it (R289). -/
structure Xfer where
  va : Nat
  ts : Nat
  rowBytes : Nat
  rows : Nat
  stride : Nat
  trans : List Trans := []
  todo : List Nat := []
  data : List Byte := []
  done : Bool := false
  refused : Bool := false
  deriving DecidableEq, Repr

/-- A write that a queued instruction owes the tile store: where, and the bytes. -/
structure Owed where
  addr : Nat
  bytes : List Byte
  deriving DecidableEq, Repr

/-- A SIG that waits (R95): target tile, counter and increment, the stores still to be acknowledged before it, and the tags of the
tile's writes through the tile store window that were outstanding; `stuck` that a store before it was refused (R289). -/
structure SigWait where
  target : Nat
  ctr : Nat
  inc : Nat
  stores : Nat
  writes : List Nat
  stuck : Bool := false
  deriving DecidableEq, Repr

/-- One tile beside its registers and its store (R68, R92, R94, R107). `accRes` is the running residue of each accumulator
element and `rowPar` the parity bit of each row's datum and flags (R59); `matQ` and `vecQ` hold, for each queued matrix instruction
and vector store, what it has still to write (R69, R72, R112); `sigQ` the signals that wait, with the count of stores and the window
writes they wait for (R95). -/
structure Tile where
  x : Map Word := []
  t : Mem := []
  p : Map (BitVec 8192) := []
  acc : Map (BitVec 136) := []
  datum : Map (BitVec 10) := []
  rowFlags : Map (BitVec 3) := []
  accRes : Map Nat := []
  rowPar : Map Bool := []
  done : Map (BitVec 32) := []
  sync : Map (BitVec 32) := []
  matQ : List (List Owed) := []
  ldQ : List Xfer := []
  stQ : List Xfer := []
  vecQ : List (List Owed) := []
  wait : WaitCond := .none
  cache : List Trans := []
  ctx : Nat := 0
  cls : Nat := 0
  written : List Nat := []
  badLines : List Nat := []
  spoiledTick : Bool := false
  invHost : Bool := false
  sigQ : List SigWait := []
  ring : Nat := 0
  requests : Nat := 0
  deliveries : Nat := 0
  residues : List Byte := []
  deriving DecidableEq, Repr

/-- A delivery a walker still owes a tile (R150): the request it is of, the page, its plane's geometry and the records asked for. -/
structure Delivery where
  tile : Nat
  req : Nat
  slot : Nat
  page : Nat
  layout : Nat
  plane : Nat
  layer : Nat
  first : Nat
  count : Nat
  ctx : Nat
  entry : Nat
  root : Nat
  last : Bool
  deriving DecidableEq, Repr

/-- A barrier of a bay (R93): the mask of the generation's first arrival and who has arrived. -/
structure Barrier where
  mask : Nat := 0
  arrived : Nat := 0
  generation : Nat := 0
  deriving DecidableEq, Repr

/-- One bay: its barriers, the walker's deliveries in order, and the contexts whose requests it refuses this tick
(R160), and the walker's cache of the last 64 table sectors it read in the tick, newest first (R143, R154). -/
structure Bay where
  bars : Map Barrier := []
  owed : List Delivery := []
  halted : List Nat := []
  sectors : List (Nat × List Byte) := []
  deriving DecidableEq, Repr

/-! ### The tick (R177 to R218) -/

/-- A partition tick record (R186). -/
structure TickRec where
  planPA : Nat
  sessionPA : Nat
  draftPA : Nat
  bdtPA : Nat
  bdtVA : Nat
  stagePA : Nat
  stage64K : Nat
  queueFirst : Nat
  queueCount : Nat
  deriving DecidableEq, Repr

/-- What a staged effect is (R201). -/
inductive StagedKind where
  | store
  | append (layer : Nat)
  | switch (layer : Nat) (cmd : Nat)
  | hostStore
  deriving DecidableEq, Repr

/-- A staged effect: who staged it, for which context, where it goes, and its bytes. -/
structure Staged where
  kind : StagedKind
  tile : Nat
  ctx : Nat
  va : Nat
  addr : Nat
  data : List Byte
  marked : Bool := false
  deriving DecidableEq, Repr

/-- An admitted batch entry (R197). -/
structure BatchEntry where
  queue : Nat
  ctx : Nat
  kind : Nat
  drafts : Nat
  c : Nat
  a : Nat
  tokenOffset : Nat
  lastToken : Nat
  tokenVA : Nat
  kvRoot : Nat
  outVA : Nat
  outSlots : Nat
  outIndex : Nat
  outRing : Nat
  lastChunk : Bool
  generate : Bool
  cls : Nat
  urg : Nat
  user : Nat
  parents : List Nat
  pages : Nat
  deriving DecidableEq, Repr

/-- Where a checked error came from (R203). -/
inductive SpoilSrc where
  | tile (g : Nat)
  | sector (s : Nat)
  | link (l : Nat)
  | lockstep
  deriving DecidableEq, Repr

/-- A spoil met by the attempt in progress: its source and whether it was injected (R594). -/
structure Spoil where
  src : SpoilSrc
  injected : Bool
  deriving DecidableEq, Repr

/-- What the tick master decides for a partition (R204). -/
inductive Decision where
  | commit
  | replay
  | fallback
  | fault (cause : Nat)
  deriving DecidableEq, Repr

/-- A line of a hub's report as the tick master holds it (R203, R204). -/
structure Report where
  hub : Nat
  line : RepLine
  deriving DecidableEq, Repr

/-- An output record the egress streamer owes a ring (R200, R205 step 4): the ring, the context and its bytes. -/
structure RingRec where
  ring : Nat
  ctx : Nat
  pad : Bool
  data : List Byte
  deriving DecidableEq, Repr

/-- A provenance extension of a committed entry (R511): the queue, the tick, C and A, C after it, and the bytes that
follow C and A in the hash. -/
structure Extension where
  queue : Nat
  tick : Nat
  c : Nat
  a : Nat
  after : Nat
  tail : List Byte
  deriving DecidableEq, Repr

/-- The drain of a committed tick (R205 steps 3 to 6): KV appends and page switches still to apply, host stores and ring
records still to write, fence signals (context, fence, value), provenance extensions, and the queues it admitted. -/
structure Drain where
  tick : Nat
  half : Nat
  todo : List Staged
  egress : List Staged
  rings : List RingRec
  sent : Bool
  fences : List (Nat × Nat × Nat)
  fenced : Bool
  exts : List Extension
  chains : List Nat
  deriving DecidableEq, Repr

/-- One partition beside its registers. `offered` is the record of the last PART_TICK, `taken` the copy that a write of PART_CFG.ENABLE
took, `inForce` the one in use (R186). `live` says that it has a tick, `undecided` that the edge has closed it and its decision (for
tick `closing`) is awaited, `behind` that a further edge has passed meanwhile (R204); `enabling` and `stopping` are writes of
PART_CFG.ENABLE that wait for the edge (R215, R622), `stopNow` that the edge of a disable has passed, `cut` that a partition reset has
come before the decision (R212); `genDone` holds FLAGS and USER of the entry of each queue whose PREFILL has been consumed while its
decode goes on (R206); `ages` are the batcher's lists (R190); `lock` that its tick runs in lock-step, as the primary or not and with
which partner (R259), `lsReady` that the table has arrived, `lsGot` and `sigGot` which pieces of the table and of the peer's signatures
have, `lsEarly` pieces of the next table, `diverged` that an attempt of its tick has diverged (R261). -/
structure Part where
  offered : Option TickRec := none
  taken : Option TickRec := none
  inForce : Option TickRec := none
  enabled : Bool := false
  enabling : Bool := false
  stopping : Bool := false
  stopNow : Bool := false
  cut : Bool := false
  table : Option (Nat × Nat) := none
  live : Bool := false
  released : Bool := false
  undecided : Bool := false
  closing : Nat := 0
  behind : Bool := false
  workTick : Nat := 0
  entries : List BatchEntry := []
  staged : List Staged := []
  half : Nat := 0
  overflow : Bool := false
  spoils : List Spoil := []
  lastSpoils : List Spoil := []
  repeated : List Spoil := []
  injAll : Bool := true
  faulted : List Nat := []
  replayOwed : Bool := false
  streak : Nat := 0
  ages : Map Nat := []
  genDone : Map (Nat × Nat) := []
  drains : List Drain := []
  told : Nat := 0xFF
  prog : List Byte := []
  weights : List Byte := []
  progAt : List Byte := []
  weightsAt : List Byte := []
  lock : Option (Bool × Nat) := none
  diverged : Bool := false
  lsEarly : List (Nat × List Byte) := []
  lsReady : Bool := false
  lsMine : List Byte := []
  lsPeer : List Byte := []
  lsGot : List Nat := []
  sigGot : List Nat := []
  locked20 : List Byte := []
  deriving DecidableEq, Repr

/-- The hub's part in the domain (R241 to R265). `edge` is the copy of the next edge in use, `reports` and `heard` what
the tick master has for tick `repTick`, `attempts` the attempt that each partition's last
decision leads to and that decision's tick, `holders` the hubs that hold each partition, `unsure` members a new master has not yet heard
(R204), `lastDec` the last decision it made, `lostParts` the
partitions whose hub has left, `adopt` that it has just become master (R204), `period` a period change and its tick,
`held` a report that waits for the lock-step comparison of a partition (R261), `lsCfg` the
lock-step configuration in force since the edge (R266); `silent` the HELLO rounds since a hub
was heard, `dups` hub numbers stated twice in a round, `burnt` the epoch of the last abandoned FORM, `timedOut` that
FORM_TIMEOUT_S has passed (R246 to R249), `gone` that the hub has departed, so that it comes back only by JOIN (R263),
`tried` that formation with the hubs now seen was refused. -/
structure Dom where
  hellos : Map HelloMsg := []
  stable : Nat := 0
  adj : Adjacency := []
  form : Option FormMsg := none
  acks : List Nat := []
  changes : List MemberMsg := []
  leave : Bool := false
  handover : Option (Nat × Nat) := none
  edge : Option EdgeBlock := none
  missed : Nat := 0
  period : Option (Nat × Nat) := none
  repTick : Nat := 0
  reports : List Report := []
  heard : List Nat := []
  decided : Bool := true
  attempts : Map (Nat × Nat) := []
  unsure : List Nat := []
  lastDec : Option (Nat × List DecLine) := none
  holders : Map (List Nat) := []
  lostParts : List Nat := []
  adopt : Bool := false
  held : Option (Nat × List RepLine) := none
  edgeNs : Nat := 0
  lsCfg : Nat := 0
  foreign : List Nat := []
  silent : Map Nat := []
  dups : List Nat := []
  burnt : Nat := 0
  timedOut : Bool := false
  gone : Bool := false
  tried : Bool := false
  deriving DecidableEq, Repr

/-- What the configuration record fixes for the hub (R223, R439, R440, R529, R544): the role byte of each lane group, the
expected members, partial formation and its timeout, and which host ports are enabled. -/
structure Config where
  groups : List Nat := []
  expected : Nat := 0
  partialOk : Bool := false
  formTimeout : Nat := 0
  domainOk : Bool := false
  sites : Nat := 0
  trust : List (List Byte) := []
  assist : Bool := false
  bar4Pf : Nat := 0
  bar4Vf : Nat := 0
  stackMax : Nat := 3
  fenMax : Nat := 3
  minFw : Nat := 0
  limPorts : Nat := 8
  limHubs : Nat := 8
  limSites : Nat := 4
  features : Nat := 0
  deriving DecidableEq, Repr

/-- An entry of a host port's translation cache (R414): the function it belongs to, the untranslated page, the size and
the translated page; marked by an invalidation so that no new use takes it (R416). An entry is pinned while a pin of
its page stands. -/
structure Atc where
  port : Nat
  part : Nat
  page : Nat
  log2 : Nat
  dest : Nat
  write : Bool
  marked : Bool := false
  deriving DecidableEq, Repr

/-- A page that PIN_HOST holds pinned (R413): the context, the 64 KiB page of the virtual address, the partition and
the untranslated host address it maps to; `hit` that the host invalidated it while pinned (R416). -/
structure Pin where
  ctx : Nat
  page : Nat
  part : Nat
  host : Nat
  hit : Bool := false
  deriving DecidableEq, Repr

/-- A host store that the link partner has not acknowledged (R417): `ordered` where Relaxed Ordering is clear, `sent`
once it has left the port. -/
structure HostStore where
  port : Nat
  part : Nat
  ctx : Nat
  addr : Nat
  data : List Byte
  ordered : Bool
  sent : Bool
  deriving DecidableEq, Repr

/-- An ATS invalidation a host has asked for and not yet been answered (R416): the port, its tag, the function, the range as a page
number of size 2 ^ log2, and the edges applied when it came. -/
structure Inval where
  port : Nat
  itag : Nat
  part : Nat
  page : Nat
  log2 : Nat
  edges : Nat
  deriving DecidableEq, Repr

/-- An SPDM connection (R502): how far the negotiation has come (0 none, 1 version, 2 capabilities, 3 algorithms), the curve and
hash it settled on as the request named them, and the session: none, in its handshake, or established, with its number and
the count of key updates. -/
structure Spdm where
  stage : Nat := 0
  curve : Nat := 0
  session : Option Nat := none
  secured : Bool := false
  updates : Nat := 0
  transcript : List Byte := []
  deriving DecidableEq, Repr

/-! ### Idoon ports (R227 to R240) -/

/-- A port's link state beside its registers: the sequence numbers, the replay buffer (SEQ and packet, oldest first), packets that wait
for credits, buffer room or training (`aged` those that have waited 16 µs, R330), the credits spent on each virtual channel, the SEQ of
the last NAK and how many in a row named it, whether an ACK is owed, TSYNC samples taken, whether training restarted because the two
ends measured different widths (R239), and what the peer's TRAIN block stated (`heard`): its role, hub, group, bad lanes and width;
`cap` the width that training may not exceed (R238). -/
structure IdnPort where
  txSeq : Nat := 0
  rxSeq : Nat := 0
  replay : List (Nat × IdnPkt) := []
  waiting : List IdnPkt := []
  aged : List IdnPkt := []
  used : Map Nat := []
  nakSeq : Nat := 0
  naks : Nat := 0
  ackOwed : Bool := false
  samples : Nat := 0
  agreed : Bool := false
  role : Nat := 0
  peerHub : Nat := 0
  peerGroup : Nat := 0
  peerWidth : Nat := 0
  peerBad : Nat := 0
  cap : Nat := 3
  heard : Bool := false
  deriving DecidableEq, Repr

/-- Who waits for the answer to a request that leaves the hub network (R319, R374, R411): a unit of the hub network with its node and
tag, another hub with its packet, a tenon's raw module with its tag, a tenon's CXL link, a host through BAR4 or CXL.mem, a
host whose posted write has no answer; or a longer access of which this is one piece. -/
inductive Asker where
  | unit (src tag : Nat)
  | hub (p : IdnPkt)
  | raw (site module tag : Nat)
  | cxl (site tag : Nat)
  | host (port tag : Nat)
  | posted (port : Nat)
  | piece (join k : Nat)
  deriving DecidableEq, Repr

/-- An access that is served in pieces, line by line (R231, R337): its number, what it asks, and what each piece has answered:
the piece's number, its status and its data. -/
structure Join where
  id : Nat
  write : Bool
  part : Option Nat
  cls : Nat
  pieces : Nat
  got : List (Nat × Nat × List Byte) := []
  who : Asker
  deriving DecidableEq, Repr

/-- A request this hub has sent to another over Idoon: its tag and target, its class, and who asked. -/
structure IdnReq where
  tag : Nat
  dst : Nat
  write : Bool
  part : Nat
  cls : Nat
  who : Asker
  deriving DecidableEq, Repr

/-! ### Mortise sites (R360 to R390) -/

/-- A site message without a reply (R364): its opcode, tag and payload, and whether it has been sent twice. -/
structure SiteMsg where
  op : Nat
  tag : Nat
  payload : List Byte
  again : Bool := false
  deriving DecidableEq, Repr

/-- A request of the hub outstanding at a tenon (R375, R383): its tag, the module it went out on (8 for the CXL link), its
partition and class, and who asked. -/
structure SiteAsk where
  tag : Nat
  module : Nat
  write : Bool
  part : Option Nat
  cls : Nat
  who : Asker
  deriving DecidableEq, Repr

/-- A request of the hub that waits at a site's transmitter (R330, R383): its region, what it asks, and whether it has waited
16 µs. -/
structure SiteWait where
  region : Nat
  a : Nat
  len : Nat
  write : Bool
  data : List Byte
  part : Option Nat
  cls : Nat
  urgent : Bool
  aged : Bool := false
  who : Asker
  deriving DecidableEq, Repr

/-- What a site's power-down in progress ends in (R360): reset from READY, or a power cycle. -/
inductive SiteDown where
  | reset
  | cycle
  deriving DecidableEq, Repr

/-- A mortise site beside its registers: descriptor chunks, messages without reply, the measured boot time, the power-down in progress,
the partition in force since the last ASSIGN, the tenant whose data the tenon may hold and the assignment that waits for its clear
(R389, R390), requests outstanding, credits spent toward the tenon (module × 2 + 1 for VC3), requests that wait for the transmitter,
SPDM fragments, the measurements attestation gave, the effective width last reported (R381). -/
structure Site where
  chunks : List (List Byte) := []
  msgs : List SiteMsg := []
  nextTag : Nat := 0
  bootMs : Nat := 0
  down : Option SiteDown := none
  serves : Option Nat := none
  tenant : Option Nat := none
  owed : Option Word := none
  asks : List SiteAsk := []
  used : Map Nat := []
  waiting : List SiteWait := []
  spdm : List (List Byte) := []
  measured : List Byte := []
  throttled : Bool := false
  widthTold : Nat := 0
  deriving DecidableEq, Repr

/-! ### Memory controllers (R279, R290 to R295) -/

/-- An entry of a write-combining buffer: the sector and which of its 512 bytes have been written. The bytes themselves
stand in `mem`, where every later read sees them (R281). -/
structure WcEntry where
  sector : Nat
  bytes : List Nat
  deriving DecidableEq, Repr

/-- A row entry of the repair ledger (R293): the controller whose table it stands in, and its fields. -/
structure RowEntry where
  ctl : Nat
  state : Nat
  fails : Nat
  channel : Nat
  bank : Nat
  row : Nat
  spare : Nat
  retiredSpare : Nat
  deriving DecidableEq, Repr

/-- The repair ledger (R293): sequence number, row entries and retired pages (address bits [47:16]). -/
structure Ledger where
  seq : Nat := 0
  rows : List RowEntry := []
  pages : List Nat := []
  deriving DecidableEq, Repr

/-- A copy of the ledger in flash (R293): the serial number its header names, and its tag. -/
structure LedgerCopy where
  ledger : Ledger := {}
  serial : Nat := 0
  tag : List Byte := []
  deriving DecidableEq, Repr

/-- An error record (R573). -/
structure ErrRec where
  seq : Nat
  code : Nat
  cls : Nat
  flags : Nat
  part : Nat
  attempt : Nat
  ctx : Nat
  source : Nat
  tick : Nat
  time : Word
  addr : Nat
  unitReg : Nat
  detail : Nat
  deriving DecidableEq, Repr

/-! ### One-time-programmable rows and the flash (R523 to R554) -/

/-- The OTP (R500, R523, R527, R550): defect rows, the three life-cycle rows, WIPE_DONE, whether the UDS and the flash user
key have been destroyed, the owner slots (key digest and commit word), and the licence epoch's thermometer. -/
structure Otp where
  rows : Map Nat := []
  life : List Nat := [0x5A5AA5A53C3CC3C3, 0, 0]
  wiped : Bool := false
  udsGone : Bool := false
  keyGone : Bool := false
  owners : Map (List Byte × Nat) := []
  epoch : Nat := 0
  deriving DecidableEq, Repr

/-- An OTP row being programmed, and the command that waits for it, if one does: a defect row (its value, and whether the COMMIT
phase has begun), a life-cycle row on the way to a target, an owner slot, thermometer bits up to an epoch for a licence. -/
inductive OtpJob where
  | defect (row value : Nat) (commit : Bool)
  | life (row target : Nat) (cmd : Nat)
  | owner (slot : Nat) (digest : List Byte) (cmd : Nat)
  | epoch (dest : Nat) (licence : List Byte) (cmd : Nat)
  deriving DecidableEq, Repr

/-- The external flash (R538): the image area as written, the configuration record and licence areas, the error log with
the oldest record first, and the count of starts. -/
structure Flash where
  image : List Byte := []
  config : List Byte := []
  licence : List Byte := []
  log : List ErrRec := []
  starts : Nat := 0
  deriving DecidableEq, Repr

/-- A flash operation in progress and the command that waits for it (R542, R530, R544). -/
inductive FlashJob where
  | image (off : Nat) (bytes : List Byte) (cmd : Nat)
  | config (bytes : List Byte) (cmd : Nat)
  | licence (bytes : List Byte) (cmd : Nat)
  deriving DecidableEq, Repr

/-! ### The hub network and the cache slices (R310 to R342) -/

/-- A request a unit of the hub has outstanding on the hub network (R319): its unit and tag, its partition (none for hub-level traffic),
address, target node, class and URGENT; answered or dropped by its target; aged (R330); `noData` that a grant is passed on without its
data (R386 RdOwnNoData, R421 MemInv). -/
structure NetReq where
  src : Nat
  tag : Nat
  part : Option Nat
  addr : Nat
  write : Bool
  answered : Bool := false
  dropped : Bool := false
  aged : Bool := false
  noData : Bool := false
  dst : Nat := 0
  cls : Nat := 0
  urgent : Bool := false
  deriving DecidableEq, Repr

/-- A line that a cache slice holds (R336). -/
structure CohLine where
  line : Nat
  data : List Byte
  dirty : Bool
  deriving DecidableEq, Repr

/-- A directory entry (R337): E with an owner, or S with sharers. -/
structure DirEntry where
  line : Nat
  owner : Option Nat := none
  sharers : List Nat := []
  deriving DecidableEq, Repr

/-- A request at its home (R337): its TYPE, line, requester and agent, placement, data and class; `who` answers for a requester outside
the hub network (a remote hub, a tenon, a host). -/
structure CohReq where
  ty : Nat
  line : Nat
  src : Nat
  tag : Nat
  part : Option Nat
  agent : Nat
  alloc : Bool
  mask : List Bool
  data : List Byte
  upset : Nat := 0
  cls : Nat := 0
  who : Option Asker := none
  deriving DecidableEq, Repr

/-- What makes a line busy (R338): a request, or the removal of its directory entry (R336, R353). -/
inductive CohGoal where
  | serve (q : CohReq)
  | drop
  deriving DecidableEq, Repr

/-- A busy line: its goal, whether its snoops invalidate, the agents whose answers are awaited, and the agent whose CMPACK is. -/
structure CohTxn where
  line : Nat
  goal : CohGoal
  inval : Bool
  waiting : List Nat
  ack : Option Nat := none
  deriving DecidableEq, Repr

/-- A cache slice and home (R336 to R340): its lines and directory entries, least recently used first, its busy lines, its
queue of requests in arrival order, and its pushes without an answer (line, agent). -/
structure Slice where
  lines : List CohLine := []
  dir : List DirEntry := []
  txns : List CohTxn := []
  queue : List CohReq := []
  pushes : List (Nat × Nat) := []
  deriving DecidableEq, Repr

/-- A snoop that waits at an agent (R339): the agent, the line, and whether it invalidates. -/
structure HeldSnoop where
  agent : Nat
  line : Nat
  inval : Bool
  deriving DecidableEq, Repr

/-! ### Contexts, queues, objects, fences and commands (R448 to R494) -/

/-- The state of a context (R449). -/
inductive CtxState where
  | free | active | faulted | dying
  deriving DecidableEq, Repr

/-- A fault record awaiting its answer (R479, R480). -/
structure FaultRec where
  seq : Nat
  mover : Bool
  cmd : Nat
  answered : Bool := false
  deriving DecidableEq, Repr

/-- A context (R448, R449, R476 CTX_QUERY). -/
structure Ctx where
  state : CtxState := .free
  part : Nat := 0
  root : Nat := 0
  faultQ : Nat := 0
  vector : Nat := 0
  lastReason : Nat := 0
  lastTick : Nat := 0
  ovf : Bool := false
  ovfCount : Nat := 0
  seq : Nat := 0
  awaiting : List FaultRec := []
  teardown : Nat := 0
  silent : Bool := false
  deriving DecidableEq, Repr

/-- A queue descriptor (R461); `obj` is the object its base lies in (partition, number), `irqWait` says that its
interrupt was raised less than 2 µs ago and `irqOwed` that records have been written since (R464). For queues 0 and 1
`baseVA` is a device physical address (R493). -/
structure QDesc where
  kind : Nat := 0
  log2 : Nat := 0
  state : Nat := 0
  irqEn : Bool := false
  inHost : Bool := false
  ctx : Nat := 0
  vector : Nat := 0
  cplRing : Nat := 0
  pidx : Nat := 0
  cidx : Nat := 0
  reserved : Nat := 0
  baseVA : Nat := 0
  pidxVA : Nat := 0
  cls : Nat := 0
  obj : Option (Nat × Nat) := none
  irqWait : Bool := false
  irqOwed : Bool := false
  deriving DecidableEq, Repr

/-- A registered fence (R465). -/
structure Fence where
  addr : Nat
  host : Bool
  ctx : Nat
  value : Nat
  abandoned : Bool
  obj : Nat × Nat
  deriving DecidableEq, Repr

/-- Where a command came from (R472). -/
inductive CmdSrc where
  | queue (q : Nat)
  | mgmt
  deriving DecidableEq, Repr

/-- A Griset command packet (R469). -/
structure Packet where
  opcode : Nat
  flags : Nat
  length : Nat
  ctx : Nat
  tag : Nat
  w1 : Nat
  w2 : Nat
  w3 : Nat
  w4 : Nat
  w5 : Nat
  w6 : Nat
  w7 : Nat
  deriving DecidableEq, Repr

/-- A page that KV_PREFETCH or KV_ADVISE names (R164 to R167): its table entry's address, its layer, the place of its
list entry, the destination page, and how far it is: 0 to copy, 1 copied and its switch staged, 2 its switch is being
applied, 3 switched (`old` is the page it left), 4 returned unused. -/
structure KvPage where
  entry : Nat
  layer : Nat
  idx : Nat
  dest : Nat
  stage : Nat
  old : Nat
  deriving DecidableEq, Repr

/-- What a command that has been fetched waits for: its start; the end of its mover transfer or of a clear it started;
a host translation; the answer to a fault record (R480); a free slot of a fault queue (R481); a fence value; an apply
(R474); the drains of R484 (the edges applied, the work tick and whether one was in progress when it began); the end of
a teardown or of a queue's use; the fetches and the last reference OBJ_RELEASE waits for (R459);
OTP rows, flash writes, or the end of a reset of bays, and for a field of its slices (R557). -/
inductive CmdStep where
  | waiting
  | running
  | ats
  | parked (ctx seq : Nat)
  | stalled (ctx reason va : Nat) (write : Bool)
  | fence (deadline : Bool)
  | edge
  | kvMove (cold : Bool) (pages : List KvPage)
  | drain (edges tick part : Nat) (live : Bool)
  | clear (part : Nat)
  | teardown (ctx : Nat)
  | queueEnd (q : Nat)
  | release (part obj : Nat) (marks : List (Nat × Nat))
  | releasing (part obj : Nat)
  | otp
  | flash
  | reset (bays slices : List Nat)
  deriving DecidableEq, Repr

/-- A command that has been fetched or delivered and has not completed (R458, R473): its queue's context and
completion ring, the object references it holds (partition, number), the mode in force at its fetch (R486), and a
status its fetch already fixed. `aux` holds what a running command has gathered. -/
structure Cmd where
  id : Nat
  src : CmdSrc
  index : Nat
  pkt : Packet
  payload : List Byte := []
  refs : List (Nat × Nat) := []
  strict : Bool := false
  fail : Option Nat := none
  step : CmdStep := .waiting
  aux : List Nat := []
  deriving DecidableEq, Repr


end Sys2Proof.Machine
end

