-- ==== Sys2Proof/Machine/State.lean ====
section
/-! DEFINITION. Machine/State.lean: the whole state of the hub, its reset, and the reasons a step can stop. -/
namespace Sys2Proof.Machine

/-- A fault stops the model. No meaning raises one: the spec gives every command of the table an effect, and an error
the hub detects is itself an effect on state. -/
inductive Fault where
  /-- Never raised; kept so that the type is not empty. Safe. -/
  | never
  deriving DecidableEq, Repr

/-- A refusal: the model has no meaning for a command. -/
inductive Refusal where
  /-- Raised by the dispatch of a command that has no meaning yet. Safe. -/
  | notModelled (mnemonic : String)
  deriving DecidableEq, Repr

/-- The paths on which the hub drives something outwards. -/
inductive Chan where
  | msix | host | mgmt | idoon | domain | site | net | coh | pldm | pin | cxl | spdm | link | part
  deriving DecidableEq, Repr

/-- Something the hub drove outwards: the path, a code on that path, numbers and bytes. -/
structure Out where
  chan : Chan
  code : Nat
  args : List Nat
  data : List Byte := []
  deriving DecidableEq, Repr

/-- The state of the hub. -/
structure State where
  /-- The commands that wait, first in, first out: the model's own, since the block takes its commands from outside. -/
  pending : List Instr := []
  /-- Every register of Machine/Regs.lean by name and instance; an unlisted one holds its reset value (R11, R12). -/
  regs : Map Word := []
  /-- Device memory of both tiers and the tenons' regions by device address, as requesters see it (R23, R276, R277, R383). -/
  mem : Mem := []
  /-- The tile stores: 1 MiB for each tile (R62). -/
  store : Mem := []
  /-- Each tile beside its registers: X, T, P, ACC, SYNC, queues, translation cache (R62, R68, R87, R94, R107). -/
  tiles : Map Tile := []
  /-- Each bay: barriers, the walker's deliveries, refused contexts (R93, R150, R160). -/
  bays : Map Bay := []
  /-- Each partition beside its registers: tick record, admitted entries, staged effects, drains (R186 to R215). -/
  parts : Map Part := []
  /-- The ready bitmap: the session queues whose bit is set (R189). -/
  ready : List Nat := []
  /-- The ready bitmap as the edge copied it (R30). -/
  snap : List Nat := []
  /-- The contexts (R448 to R450). -/
  ctxs : Map Ctx := []
  /-- The queues' descriptors (R460, R461). -/
  queues : Map QDesc := []
  /-- The registered fences (R465, R466). -/
  fences : Map Fence := []
  /-- Griset commands fetched and not yet complete, with what each waits for (R469, R473). -/
  cmds : List Cmd := []
  /-- The number the model gives the next command: its own, not the spec's. -/
  nextCmd : Nat := 0
  /-- The records of the hub error queue by slot (R573, R578). -/
  errq : Map ErrRec := []
  /-- The codes and sources recorded in this tick (R574). -/
  errSeen : List (Nat × Nat) := []
  /-- The records dropped since the last one entered (R579). -/
  errLost : Nat := 0
  /-- The record that waits behind a SUMMARY (R580). -/
  errNext : Option ErrRec := none
  /-- An error interrupt has been sent and CIDX not yet moved (R582). -/
  errIrqWait : Bool := false
  /-- A further interrupt is owed when it moves (R582). -/
  errIrqOwed : Bool := false
  /-- What the hub has driven outwards, oldest first: stores, answers, packets, messages, pins. -/
  out : List Out := []
  /-- The sectors known lost (R289). -/
  lost : List Nat := []
  /-- The host ports' translation caches (R414). -/
  atc : List Atc := []
  /-- The host pages that PIN_HOST holds (R413). -/
  pins : List Pin := []
  /-- Host stores that the link partner has not acknowledged (R417, R437). -/
  unacked : List HostStore := []
  /-- The functions in D3hot (R434). -/
  d3 : List Nat := []
  /-- The Idoon ports beside their registers (R228 to R240). -/
  idn : Map IdnPort := []
  /-- Requests over Idoon that await their answers (R231, R319). -/
  idnReqs : List IdnReq := []
  /-- The fields written once since their reset, by register key × 64 + low bit, of registers whose access code is RWO (R11). -/
  rwo : List Nat := []
  /-- Accesses served in pieces that have not all been answered (R231, R337). -/
  joins : List Join := []
  /-- Tick edges applied since reset: the model's own measure of what waits for an edge (R287, R291, R416, R484). -/
  edges : Nat := 0
  /-- The hub's part in the domain (R241 to R263). -/
  dom : Dom := {}
  /-- What the configuration record fixes (R223, R543, R544). -/
  cfg : Config := {}
  /-- Units whose mapping-out is under way (R552, R570). -/
  mapouts : List (Nat × Bool) := []
  /-- Sectors whose row repair is queued, with the edge count when it was queued (R290, R291). -/
  repairs : List (Nat × Nat) := []
  /-- The write-combining buffer of each controller (R279). -/
  wcb : Map (List WcEntry) := []
  /-- Sectors that a corrected read owes a write back (R285). -/
  wback : List Nat := []
  /-- When each row showed its last corrected errors (R290). -/
  ceRows : Map (List Nat) := []
  /-- Channels whose retraining begins at the next edge: controller, channel, and the edge count when it was owed (R284, R287). -/
  retrains : List (Nat × Nat × Nat) := []
  /-- Channels that retrain: controller and channel, whose requests are held (R287). -/
  training : List (Nat × Nat) := []
  /-- The edge count at each controller's last row repair (R291). -/
  repairedAt : Map Nat := []
  /-- The repair ledger in force (R293). -/
  ledger : Ledger := {}
  /-- The ledger's first copy in flash (R293, R294). -/
  ledgerA : Option LedgerCopy := none
  /-- The ledger's second copy in flash (R293, R294). -/
  ledgerB : Option LedgerCopy := none
  /-- The copy under writing (R294). -/
  ledgerBusy : Option Ledger := none
  /-- The ledger changed while a copy was under writing (R294). -/
  ledgerDirty : Bool := false
  /-- Retired pages not yet reported, because the ledger write comes first, each with the sector that failed (R292). -/
  pageReports : List (Nat × Nat) := []
  /-- Pages reported in this run that a full list could not take (R295). -/
  pagesTold : List Nat := []
  /-- The key slots of the fen-tier controllers, by controller × 256 + partition: the draw of the generator that gave the pair (R299). -/
  fenKeys : Map Nat := []
  /-- The key map, by gigabyte of the fen region: partition number and encrypt bit (R298, R299). -/
  keyMap : Map (Nat × Bool) := []
  /-- Partitions whose clear waits or is under way (R300, R304). -/
  clearQ : List Nat := []
  /-- Bytes each class has been served in the window (R329, R332). -/
  slcCount : Map Nat := []
  /-- The shares in force in the window (R329, R350). -/
  slcShares : Map Nat := []
  /-- PART_SLUICE writes that wait for the edge (R352). -/
  slcOwed : Map Word := []
  /-- The one-time-programmable rows (R523, R527, R550). -/
  otp : Otp := {}
  /-- OTP rows under programming (R525, R553). -/
  otpJobs : List OtpJob := []
  /-- The boot flash: image, configuration record, licence, error log (R538, R539, R581). -/
  flash : Flash := {}
  /-- Flash writes under way (R529, R541). -/
  flashJobs : List FlashJob := []
  /-- Tiles that the defect map takes out (R550, R551). -/
  badTiles : List Nat := []
  /-- Bays that the defect map takes out (R550, R551). -/
  badBays : List Nat := []
  /-- The spare that stands in for a logical bay (R19, R551). -/
  bayMap : Map Nat := []
  /-- Spare wires in use at each bridge, by crossing × 2 + direction: 0 outbound from the field, 1 inbound (R321, R322, R551). -/
  bridgeSpares : Map Nat := []
  /-- The mortise sites beside their registers (R355 to R399). -/
  sites : Map Site := []
  /-- Requests on the hub network that await their answers (R315, R319). -/
  netReqs : List NetReq := []
  /-- Buffer flits in use at each router port and channel (R325, R326). -/
  netUsed : Map Nat := []
  /-- Bays in reset, whose packets are discarded (R324). -/
  netReset : List Nat := []
  /-- The trace buffer of each field (R344). -/
  traces : Map (List Byte) := []
  /-- The cache slices: directory, data, transactions (R336 to R341). -/
  slices : Map Slice := []
  /-- Lines an agent holds for the minimum time of R339. -/
  cohHold : List (Nat × Nat) := []
  /-- Snoops that wait for such a line (R339). -/
  cohWait : List HeldSnoop := []
  /-- The control complex's own copies of lines: dirty, and the bytes (R333, R424). -/
  ccLines : Map (Bool × List Byte) := []
  /-- The host link has been lost, and its sequence waits for the edge (R437). -/
  lossOwed : Bool := false
  /-- An orderly removal runs: presence and power follow the clears (R429). -/
  removing : Bool := false
  /-- The scope of a RESET accepted and not yet carried out (R557). -/
  resetOwed : Option Nat := none
  /-- The reset that FW_COMMIT ends in is owed (R541). -/
  fwOwed : Bool := false
  /-- A failed start, whose one restart is owed (R545, R608). -/
  failRestart : Bool := false
  /-- SYS_RST_N is low (R545, R556). -/
  rstLow : Bool := false
  /-- The offset that the next FW_IMAGE must name (R541). -/
  imgNext : Option Nat := none
  /-- The measurement of the firmware image (R505). -/
  imgHash : List Byte := []
  /-- The measurement of the licence (R505). -/
  licHash : List Byte := []
  /-- The measurement of the configuration record (R505). -/
  cfgHash : List Byte := []
  /-- The identity derived at standby power-on (R501). -/
  ident : List Byte := []
  /-- How many security nonces have been drawn (R531). -/
  nonce : Nat := 0
  /-- The SPDM connections (R502). -/
  spdm : Map Spdm := []
  /-- The IDE stream of each function (R514, R518). -/
  ide : Map Nat := []
  /-- The sensors at or above TRIP in the last sample (R614). -/
  hot : List Nat := []
  /-- The last sample of the 594 bay sensors (R612). -/
  temps : List Int := []
  /-- The management controller's own read index of the error queue (R583). -/
  errMgmt : Nat := 0
  /-- A retraining that TP_LINK asked for, at the edge (R597). -/
  retrainOwed : Option (Nat × Nat × Nat) := none
  /-- The PLDM event receiver (R563, R582). -/
  pldmTo : Option Nat := none
  /-- Configuration-space bytes that differ from reset (R400, R410). -/
  cfgSpace : Map Nat := []
  /-- The bias flip under way: region and page (R422). -/
  bias : Option (Nat × Nat) := none
  /-- Host ports whose PERST_N is low (R436, R546). -/
  perst : List Nat := []
  /-- THERMTRIP_N stands driven (R614). -/
  tripped : Bool := false
  /-- The hub stands in D3cold (R434). -/
  cold : Bool := false
  /-- HOST_WAKE_N stands driven (R435). -/
  wakeLow : Bool := false
  /-- Rounds of part repair done in bring-up step 7 (R549). -/
  rounds : Nat := 0
  /-- The parts that a unit's firmware store lacks, by unit, where it lacks any (R548, R549). -/
  fwMissing : Map Nat := []
  /-- Spare SRAM rows and columns in use, as the defect rows that name them (R550, R551). -/
  sramSpares : List Nat := []
  /-- Physical lanes of a module that defect rows mark bad, by site × 8 + module (R551). -/
  siteLanes : Map Nat := []
  /-- The clear of both tiers at bring-up is under way (R302). -/
  clearAll : Bool := false
  /-- Partitions whose PART_SECURE clear is under way (R513). -/
  unsecure : List Nat := []
  /-- The gigabytes that step 11 gives partition 0 (R497, R545). -/
  usable : List (Nat × Nat) := []
  /-- The HDM decoders' registers (R412). -/
  hdm : Map Nat := []
  /-- The MSI-X table entries (R401, R406). -/
  msix : Map Word := []
  /-- MSI-X vectors pending behind a mask (R401). -/
  pba : List Nat := []
  /-- Lines for which a tenon or host agent still owes the home CMPACK (R387, R421). -/
  ackOwed : List (Nat × Nat) := []
  /-- ATS invalidations not yet answered (R416). -/
  invs : List Inval := []
  /-- An injection has acted in this tick (R598). -/
  injDone : Bool := false
  /-- A snapshot of the counters is owed at the edge (R589). -/
  snapOwed : Bool := false
  /-- Test-window writes that wait for the edge (R592). -/
  tpOwed : List (Nat × Word) := []
  /-- PERTURB_CLEAR waits for the edge (R592). -/
  tpClear : Bool := false
  /-- The hub fails at the edge (R572). -/
  failOwed : Bool := false
  /-- How many free values have been taken: the model's own counter, not the spec's. -/
  fresh : Nat := 0
  deriving DecidableEq, Repr

/-- The hub right after standby power-on reset: every register at its reset value, memory with nothing listed. -/
def State.reset : State :=
  { regs := [(RegName.bootStatus.ctorIdx * 65536, 0x10), (RegName.secStatus.ctorIdx * 65536, 0x81)] }

end Sys2Proof.Machine
end

