-- ==== Sys2Proof/Machine/Ops.lean ====
section
/-! DEFINITION. Machine/Ops.lean: the named operations over registers, tables and memory that the meanings share:
register fields (R11 to R14), counters (R587), who owns what (R496, R535, R536), error records (R573 to R582) and
context faults (R449, R479, R481). -/
namespace Sys2Proof.Machine

/-- The three outcomes, at this machine's types. -/
abbrev Result := Host.Outcome State Fault Refusal

/-! ### Registers -/

/-- The key of an instance of a register. -/
def regKey (r : RegName) (i : Nat) : Nat := r.ctorIdx * 65536 + i

/-- The reset value of an instance: PART_BAYS of partition 0 are all ones (R535). -/
def regReset (r : RegName) (i : Nat) : Word :=
  if r = .partBays ∧ i < 9 then BitVec.allOnes 64 else BitVec.ofNat 64 r.resetVal

/-- Read a register. -/
def rget (s : State) (r : RegName) (i : Nat) : Word := Map.get s.regs (regReset r i) (regKey r i)

/-- Set a register. -/
def rset (s : State) (r : RegName) (i : Nat) (v : Word) : State := { s with regs := Map.set s.regs (regKey r i) v }

/-- Read a field of instance `i`. -/
def fget (s : State) (f : Fld) (i : Nat) : Nat := bitsAt (rget s f.reg i).toNat f.lo f.w

/-- Set a field of instance `i`; the register's other bits keep their values. -/
def fset (f : Fld) (i v : Nat) (s : State) : State :=
  rset s f.reg i (BitVec.ofNat 64 (putBits (rget s f.reg i).toNat f.lo f.w v))

/-- Is a one-bit field set. -/
def fon (s : State) (f : Fld) (i : Nat) : Bool := fget s f i == 1

/-- Add to a counter that saturates at its largest value (R587). -/
def fbump (f : Fld) (i k : Nat) (s : State) : State := fset f i (min (fget s f i + k) (2 ^ f.w - 1)) s

/-- Add to a counter that wraps and sets its sticky flag (R587). -/
def fwrap (f ovf : Fld) (i k : Nat) (s : State) : State :=
  let n := fget s f i + k
  let s := fset f i (n % 2 ^ f.w) s
  if n ≥ 2 ^ f.w then fset ovf i 1 s else s

/-- Return an instance of a register to its reset value. -/
def rreset (r : RegName) (i : Nat) (s : State) : State :=
  rset { s with rwo := s.rwo.filter fun k => k / 64 != regKey r i } r i (regReset r i)

/-! ### Numbers of hub units (R10, R18, R29) -/

/-- Tiles of the hub. -/
def numTiles : Nat := 4608
/-- Bays of the hub. -/
def numBays : Nat := 576
/-- The bay of a tile, as field × 64 + bay. -/
def bayOf (tile : Nat) : Nat := tile / 8
/-- The field of a tile. -/
def fieldOf (tile : Nat) : Nat := tile / 512
/-- This hub's number. -/
def hubId (s : State) : Nat := fget s F.gctlHubIdent_hubId 0
/-- The global tile identifier of a tile of this hub, packed as in GCTL_TILE_QUERY (R29). -/
def globalTile (s : State) (tile : Nat) : Nat :=
  tile % 8 + (tile / 8 % 64) * 8 + (tile / 512) * 512 + hubId s * 8192
/-- The tile of this hub that a packed identifier names, if its field is 0 to 8. -/
def localTile (g : Nat) : Option Nat :=
  let f := bitsAt g 9 4
  if f < 9 then some (f * 512 + bitsAt g 3 6 * 8 + bitsAt g 0 3) else none
/-- The hub a packed identifier names. -/
def hubOfTile (g : Nat) : Nat := bitsAt g 13 6
/-- The node identifier of a tile (R311): field, bay node, unit 0 to 7. -/
def tileNode (tile : Nat) : Nat := tile / 512 + (tile / 8 % 64) * 16 + (tile % 8) * 2048
/-- The node identifier of a bay's walker (unit 8) or mover (unit 9). -/
def bayNode (bay unit : Nat) : Nat := bay / 64 + (bay % 64) * 16 + unit * 2048

/-- The node identifier of an attachment in a field (R310, R311), of the edge router and the port that a number of the
configuration gives. -/
def edgeAttach (field k : Nat) : Nat := field + (64 + k % 32) * 16 + k / 32 % 3 * 2048
/-- The field of a mortise site (R20). -/
def siteField (n : Nat) : Nat := [1, 1, 3, 3, 4, 4, 4, 4, 5, 5, 7, 7].getD n 0
/-- The node at which module pair `j` of a site attaches (R20, R383). -/
def siteNode (n j : Nat) : Nat := edgeAttach (siteField n) (Config.attachPort (n * 4 + j))
/-- The node of a caching agent (R20, R333): the control complex in F4, a tenon by its first attachment, a host port. -/
def agentNode (a : Nat) : Nat :=
  if a = 0 then edgeAttach 4 (Config.attachPort 48)
  else if a ≤ 12 then siteNode (a - 1) 0
  else edgeAttach (Config.hostField (a - 13) % 9) (Config.attachPort (49 + (a - 13)))

/-! ### Sub-tables -/

/-- A tile's own state. -/
def tileGet (s : State) (t : Nat) : Tile := Map.get s.tiles {} t
/-- Set it. -/
def tileSet (t : Nat) (v : Tile) (s : State) : State := { s with tiles := Map.set s.tiles t v }
/-- Change it. -/
def tileMod (t : Nat) (f : Tile → Tile) (s : State) : State := tileSet t (f (tileGet s t)) s
/-- A bay's own state. -/
def bayGet (s : State) (b : Nat) : Bay := Map.get s.bays {} b
/-- Set it. -/
def baySet (b : Nat) (v : Bay) (s : State) : State := { s with bays := Map.set s.bays b v }
/-- Change it. -/
def bayMod (b : Nat) (f : Bay → Bay) (s : State) : State := baySet b (f (bayGet s b)) s
/-- A partition's own state. -/
def partGet (s : State) (p : Nat) : Part := Map.get s.parts {} p
/-- Set it. -/
def partSet (p : Nat) (v : Part) (s : State) : State := { s with parts := Map.set s.parts p v }
/-- Change it. -/
def partMod (p : Nat) (f : Part → Part) (s : State) : State := partSet p (f (partGet s p)) s
/-- A context; context 0 is the admin context of partition 0 and always active (R448). -/
def ctxGet (s : State) (c : Nat) : Ctx :=
  if c = 0 then { (Map.get s.ctxs {} 0) with state := .active, part := 0 } else Map.get s.ctxs {} c
/-- Set it. -/
def ctxSet (c : Nat) (v : Ctx) (s : State) : State := { s with ctxs := Map.set s.ctxs c v }
/-- Change it. -/
def ctxMod (c : Nat) (f : Ctx → Ctx) (s : State) : State := ctxSet c (f (ctxGet s c)) s
/-- A queue descriptor. -/
def queueGet (s : State) (q : Nat) : QDesc := Map.get s.queues {} q
/-- Set it. -/
def queueSet (q : Nat) (v : QDesc) (s : State) : State := { s with queues := Map.set s.queues q v }
/-- Change it. -/
def queueMod (q : Nat) (f : QDesc → QDesc) (s : State) : State := queueSet q (f (queueGet s q)) s

/-- A site beside its registers. -/
def siteGet (s : State) (n : Nat) : Site := Map.get s.sites {} n
/-- Set it. -/
def siteSet (n : Nat) (v : Site) (s : State) : State := { s with sites := Map.set s.sites n v }
/-- Change it. -/
def siteMod (n : Nat) (f : Site → Site) (s : State) : State := siteSet n (f (siteGet s n)) s

/-- Drive something outwards. -/
def emit (c : Chan) (code : Nat) (args : List Nat) (data : List Byte) (s : State) : State :=
  { s with out := ⟨c, code, args, data⟩ :: s.out }

/-- The next fresh index of the free values. -/
def tickFresh (s : State) : State := { s with fresh := s.fresh + 1 }

/-! ### Ownership (R496, R535, R536) -/

/-- The partition that owns a bay (field × 64 + bay), if one does (R498: at most one). -/
def partOfBay (s : State) (bay : Nat) : Option Nat :=
  (List.range 256).find? fun p => (rget s .partBays (p * 9 + bay / 64)).getLsbD (bay % 64)

/-- The bays of a partition. -/
def baysOfPart (s : State) (p : Nat) : List Nat :=
  (List.range numBays).filter fun b => (rget s .partBays (p * 9 + b / 64)).getLsbD (b % 64)

/-- The tiles of a partition. -/
def tilesOfPart (s : State) (p : Nat) : List Nat :=
  (baysOfPart s p).flatMap fun b => (List.range 8).map fun t => b * 8 + t

/-- The partition of a tile (0 where no partition holds its bay). -/
def partOfTile (s : State) (t : Nat) : Nat := (partOfBay s (bayOf t)).getD 0

/-- A memory range of a partition in bytes: first and last address. -/
def memRange (s : State) (p k : Nat) : Option (Nat × Nat) :=
  let i := p * 8 + k
  if fon s F.partMem_valid i then
    let base := if fon s F.partMem_tier i then 0x100000000000 else 0
    some (base + fget s F.partMem_baseGib i * 2 ^ 30, base + (fget s F.partMem_limitGib i + 1) * 2 ^ 30)
  else none

/-- Does `[a, a + n)` lie in memory of partition `p` (R455, R536). -/
def inPart (s : State) (p a n : Nat) : Bool :=
  (List.range 8).any fun k => match memRange s p k with
    | some (lo, hi) => decide (lo ≤ a) && decide (a + n ≤ hi)
    | none => false

/-- Is the partition confidential. -/
def confidential (s : State) (p : Nat) : Bool := fon s F.partSec_confidential p

/-- HUB_STATE READY (R408). -/
def hubReady (s : State) : Bool := fget s F.bootStatus_hubState 0 == 1

/-- Is a hub register state in strict mode (R486). -/
def strictMode (s : State) : Bool :=
  !hubReady s || fget s F.bootStatus_hubState 0 == 3 || fget s F.secStatus_lcState 0 == 1
    || fon s F.tpStatus_active 0 || fon s F.objCtrl_strictReq 0

/-- OBJ_CTRL.STRICT and CAUSES report the mode in force (R486, R492). -/
def setStrict (s : State) : State :=
  let c := bit01 (!hubReady s) + 2 * bit01 (fget s F.bootStatus_hubState 0 == 3)
    + 4 * bit01 (fget s F.secStatus_lcState 0 == 1) + 8 * bit01 (fon s F.tpStatus_active 0)
  fset F.objCtrl_causes 0 c (fset F.objCtrl_strict 0 (bit01 (strictMode s)) s)

/-- HUB_STATE changes, which the management port signals by an in-band interrupt (R560). -/
def setHubState (v : Nat) (s : State) : State :=
  let t := setStrict (fset F.bootStatus_hubState 0 v s)
  if fget s F.bootStatus_hubState 0 = v then t else emit .mgmt 0x10 [v] [] t

/-! ### The tick a unit's work belongs to (R179) -/

/-- Is a tick of the partition in progress. -/
def inTick (s : State) (p : Nat) : Bool := (partGet s p).live && !(partGet s p).undecided

/-- The tick number an event of the partition carries: the work's tick, or the counter outside a tick. -/
def tickOf (s : State) (p : Nat) : Nat :=
  let w := partGet s p
  if w.live && !w.undecided then w.workTick else fget s F.tickCounter_count 0

/-! ### Error records (R573 to R582) -/

/-- Error classes of R572. -/
def clsInfo : Nat := 0
def clsDegraded : Nat := 1
def clsSpoil : Nat := 2
def clsContext : Nat := 3
def clsPartition : Nat := 4
def clsDepart : Nat := 5
def clsHub : Nat := 6
def clsRefused : Nat := 7

/-- What an event says for its error record. -/
structure ErrIn where
  code : Nat
  cls : Nat
  part : Option Nat := none
  ctx : Option Nat := none
  addr : Option Nat := none
  source : Nat := 0xFFFF
  unitReg : Nat := 0
  detail : Nat := 0
  injected : Bool := false
  mapout : Bool := false
  deriving DecidableEq, Repr

/-- Records the queue holds (R579). -/
def errHeld (s : State) : Nat :=
  let p := fget s F.errqPidx_index 0
  let l := diff32 p (fget s F.errqLidx_index 0)
  if fon s F.errqCtrl_hostConsumer 0 then max (diff32 p (fget s F.errqCidx_index 0)) l else l

/-- ERRQ_STATUS.HELD follows the indices; the queue holds no more than its 4,096 slots. -/
def setHeld (s : State) : State := fset F.errqStatus_held 0 (min (errHeld s) 4096) s

/-- The record an event makes, with the sequence number that is next (R573 to R575). -/
def errRecord (s : State) (e : ErrIn) : ErrRec :=
  let p := e.part.getD 0
  let secret := (match e.part with | some q => confidential s q | none => false)
  let keepAddr := !secret || e.code / 256 == 3
  { seq := fget s F.errqPidx_index 0
    code := e.code
    cls := e.cls
    flags := bit01 e.injected + 2 * bit01 secret + 8 * bit01 e.part.isSome + 16 * bit01 e.ctx.isSome
      + 32 * bit01 e.addr.isSome + 64 * bit01 e.mapout
    part := p
    attempt := match e.part with
      | some q => if inTick s q then fget s F.partStatus_attempt q else 0
      | none => 0
    ctx := e.ctx.getD 0
    source := e.source + hubId s * 65536
    tick := tickOf s p
    time := Config.timeNs s.fresh
    addr := if keepAddr then e.addr.getD 0 else 0
    unitReg := if secret then 0 else e.unitReg
    detail := if secret then 0 else e.detail }

/-- The key of a function's MSI-X vector. -/
def msixKey (port fn vec : Nat) : Nat := (port * 256 + fn) * 4096 + vec
/-- A word of a vector's table entry, two words of 64 bits: address, then data and vector control; a vector is masked at reset, as
PCI Express says (PRESUMED, log entry 68). -/
def msixWord (s : State) (port fn vec k : Nat) : Word := Map.get s.msix (if k = 1 then 0x100000000 else 0) (msixKey port fn vec * 16 + k)

/-- Raise an MSI-X vector (R401): a masked one sets its pending bit. -/
def msixRaise (port fn vec : Nat) (s : State) : State :=
  let k := msixKey port fn vec
  if (msixWord s port fn vec 1).getLsbD 32 then { s with pba := if s.pba.contains k then s.pba else s.pba ++ [k] }
  else emit .msix 0 [port, fn, vec, (msixWord s port fn vec 0).toNat, (msixWord s port fn vec 1).toNat % 2 ^ 32] [] s

/-- Raise the error queue's vector, at most once in 2 µs (R582). -/
def errIrq (s : State) : State :=
  if s.errIrqWait then { s with errIrqOwed := true }
  else msixRaise (fget s F.errqCtrl_port 0) 0 (fget s F.errqCtrl_vector 0) { s with errIrqWait := true }

/-- Raise the queue's interrupt and PLDM event for a class (R582). -/
def errNotify (cls : Nat) (s : State) : State :=
  let s := if bitOn (fget s F.errqCtrl_classMask 0) cls then errIrq s else s
  if (cls = 4 ∨ cls = 5 ∨ cls = 6) ∧ fon s F.errqCtrl_pldmEn 0 ∧ s.pldmTo.isSome then
    emit .pldm 1 [s.pldmTo.getD 0, cls] [] s
  else s

/-- Place a record in the next slot and advance the producer index (R578, R579). -/
def errPlace (r : ErrRec) (s : State) : State :=
  let s := { s with errq := Map.set s.errq (r.seq % 4096) r, fresh := s.fresh + 1 }
  setHeld (fset F.errqPidx_index 0 (add32 r.seq 1) s)

/-- A record is dropped: its number is used, OVF is set and the drop counted (R579). -/
def errDrop (s : State) : State :=
  let s := { s with errLost := min (s.errLost + 1) 0xFFFFFFFF }
  let s := fset F.errqPidx_index 0 (add32 (fget s F.errqPidx_index 0) 1) s
  fbump F.errqDropped_count 0 1 (fset F.errqStatus_ovf 0 1 s)

/-- The record that waits behind a summary enters as soon as a slot is free (R580). -/
def errFreed (s : State) : State :=
  let s := setHeld s
  match s.errNext with
  | none => s
  | some r =>
    if errHeld s ≥ 4096 then s
    else errNotify r.cls (errPlace { r with seq := fget s F.errqPidx_index 0 } { s with errNext := none })

/-- Enter a record: a summary first where records were dropped; the record that freed the slot waits where the summary has taken the
last one (R579, R580). -/
def errEnter (e : ErrIn) (s : State) : State :=
  if errHeld s ≥ 4096 then errDrop s
  else
    let s := if s.errLost = 0 then s else
      let n := s.errLost
      errPlace { errRecord s { code := 0x0F01, cls := clsInfo, detail := n } with flags := 4 } { s with errLost := 0 }
    if errHeld s ≥ 4096 then { s with errNext := some (errRecord s e) }
    else errNotify e.cls (errPlace (errRecord s e) s)

/-- Write an error record; a source writes at most one record of each code in a tick attempt (R574). -/
def logErr (e : ErrIn) (s : State) : State :=
  let during := match e.part with | some p => inTick s p | none => false
  if during && e.source != 0xFFFF && s.errSeen.contains (e.source, e.code) then s
  else
    let s := if during && e.source != 0xFFFF then { s with errSeen := (e.source, e.code) :: s.errSeen } else s
    errEnter e s

/-- A refusal that only leaves a record. -/
def logRefused (code : Nat) (p : Option Nat) (s : State) : State := logErr { code := code, cls := clsRefused, part := p } s

/-- Put an error into a first-error register: the first since it was cleared is held, a further one sets MORE (R105,
R175, R306). `fields` are the record's fields. -/
def firstErr (valid more : Fld) (fields : List (Fld × Nat)) (i : Nat) (s : State) : State :=
  if fon s valid i then fset more i 1 s
  else fset valid i 1 (fields.foldl (fun s p => fset p.1 i p.2 s) s)

/-! ### Device memory (R23, R278 to R289) -/

/-- The copy of a line that the cache slices hold, if one does (R336). -/
def sliceCopy (s : State) (line : Nat) : Option (List Byte) :=
  s.slices.findSome? fun e => (e.2.lines.find? (·.line == line)).map (·.data)

/-- Bytes with what the slices hold of them in place of memory's: a read of a coherent line is served by its home (R334). -/
def overSlices (s : State) : Nat → List Byte → List Byte
  | _, [] => []
  | a, b :: bs => (match sliceCopy s (a / 64) with
      | some l => l.getD (a % 64) b
      | none => b) :: overSlices s (a + 1) bs

/-- Read `n` bytes of device memory. -/
def memRead (s : State) (a n : Nat) : List Byte :=
  if s.slices.isEmpty then Mem.readN s.mem a n else overSlices s a (Mem.readN s.mem a n)
/-- A little-endian number of `n` bytes. -/
def memNat (s : State) (a n : Nat) : Nat := ofLe (memRead s a n)
/-- Write bytes; a slice's copy of a line follows (R334). -/
def memWrite (a : Nat) (bs : List Byte) (s : State) : State :=
  let new := fun (l : CohLine) =>
    if a < (l.line + 1) * 64 ∧ l.line * 64 < a + bs.length then
      { l with data := (List.range 64).map fun k =>
          let i := l.line * 64 + k
          if a ≤ i ∧ i < a + bs.length then bs.getD (i - a) 0 else l.data.getD k (Mem.read s.mem i) }
    else l
  { s with mem := Mem.writeN s.mem a bs
           slices := List.map (fun e => (e.1, { e.2 with lines := e.2.lines.map new })) s.slices }

/-! ### Page tables (R451 to R455) -/

/-- How a translation fails: the reasons of R478. -/
inductive WalkErr where
  | noEntry | noWrite | denied | outside
  | unread (addr : Nat)
  deriving DecidableEq, Repr

/-- The reason code of R478. -/
def WalkErr.code : WalkErr → Nat
  | .noEntry => 1 | .noWrite => 2 | .denied => 3 | .outside => 4 | .unread _ => 5

/-- A leaf of the page tables: where the page leads and its flags. -/
structure Leaf where
  base : Nat
  pages : Nat
  first : Nat
  write : Bool
  pinned : Bool
  host : Bool
  deriving DecidableEq, Repr

/-- Is a pointer entry well formed (R452). -/
def ptrOk (e : Nat) (align : Nat) : Bool :=
  bitOn e 0 && !bitOn e 1 && !bitOn e 4 && bitsAt e 6 6 == 0 && bitsAt e 48 16 == 0 && (bitsAt e 12 52 * 4096) % align == 0

/-- Is a leaf entry well formed (R452): a device address has bits [63:48] zero, a leaf is aligned to its page. -/
def leafOk (e : Nat) (align : Nat) : Bool :=
  bitOn e 0 && bitOn e 1 && bitsAt e 6 6 == 0 && (bitOn e 4 || bitsAt e 48 16 == 0) && (bitsAt e 12 52 * 4096) % align == 0

/-- The address field of an entry. -/
def entryAddr (e : Nat) : Nat := bitsAt e 12 52 * 4096

/-- The first listed lost sector that `[a, a + n)` touches (R289). -/
def firstLost (s : State) (a n : Nat) : Option Nat :=
  s.lost.find? fun q => decide (q * 512 < a + n) && decide (a < (q + 1) * 512)

/-- Does `[a, a + n)` touch a sector whose data can no longer be recovered (R289). -/
def lostSector (s : State) (a n : Nat) : Bool := (firstLost s a n).isSome

/-- Read one table entry, checked against the partition and the lost sectors. -/
def tableEntry (s : State) (p a : Nat) : Except WalkErr Nat :=
  if !inPart s p a 8 then .error .outside
  else match firstLost s a 8 with
    | some q => .error (.unread (q * 512))
    | none => .ok (memNat s a 8)

/-- Do entries 32j to 32j + 31 of an L3 node form a 2 MiB run (R454). -/
def isRun (s : State) (node idx : Nat) : Bool :=
  let j := idx / 32 * 32
  let e0 := memNat s (node + j * 8) 8
  entryAddr e0 % 2097152 == 0 && (List.range 32).all fun i =>
    let e := memNat s (node + (j + i) * 8) 8
    leafOk e 65536 && bitOn e 5 && bitsAt e 0 12 == bitsAt e0 0 12 && entryAddr e == entryAddr e0 + i * 65536

/-- Check that a device leaf lies in the partition. -/
def leafInPart (s : State) (p : Nat) (l : Leaf) (size : Nat) : Except WalkErr Leaf :=
  if l.host || inPart s p l.base size then .ok l else .error .outside

/-- Walk the tables of context `c` for a virtual address (R451 to R455). -/
def walk (s : State) (c va : Nat) : Except WalkErr Leaf := do
  let x := ctxGet s c
  let p := x.part
  if c = 0 ∨ va ≥ 2 ^ 57 then throw .noEntry
  if !inPart s p x.root 4096 then throw .outside
  let e0 ← tableEntry s p (x.root + bitsAt va 48 9 * 8)
  if !ptrOk e0 4096 then throw .noEntry
  if !inPart s p (entryAddr e0) 4096 then throw .outside
  let e1 ← tableEntry s p (entryAddr e0 + bitsAt va 39 9 * 8)
  if !ptrOk e1 4096 then throw .noEntry
  if !inPart s p (entryAddr e1) 4096 then throw .outside
  let e2 ← tableEntry s p (entryAddr e1 + bitsAt va 30 9 * 8)
  if leafOk e2 1073741824 then
    leafInPart s p ⟨entryAddr e2, 16384, va / 2 ^ 30 * 16384, bitOn e2 2, bitOn e2 3, bitOn e2 4⟩ 1073741824
  else
    if !ptrOk e2 131072 then throw .noEntry
    let node := entryAddr e2
    if !inPart s p node 131072 then throw .outside
    let idx := bitsAt va 16 14
    let e3 ← tableEntry s p (node + idx * 8)
    if !leafOk e3 65536 then throw .noEntry
    if bitOn e3 5 && isRun s node idx then
      leafInPart s p ⟨entryAddr e3 - idx % 32 * 65536, 32, va / 65536 / 32 * 32, bitOn e3 2, bitOn e3 3, bitOn e3 4⟩ 2097152
    else
      leafInPart s p ⟨entryAddr e3, 1, va / 65536, bitOn e3 2, bitOn e3 3, bitOn e3 4⟩ 65536

/-- The address that a leaf gives a virtual address. -/
def Leaf.at (l : Leaf) (va : Nat) : Nat := l.base + (va - l.first * 65536)

/-! ### Context faults (R449, R479, R481) -/

/-- The 32 bytes of a fault record (R479). -/
def faultBytes (kind reason c seq addr queue index source ucause tick : Nat) : List Byte :=
  leBytes 1 kind ++ leBytes 1 reason ++ leBytes 2 c ++ leBytes 4 seq ++ leBytes 8 addr ++ leBytes 4 queue
    ++ leBytes 4 index ++ leBytes 3 source ++ leBytes 1 ucause ++ leBytes 4 tick

/-- Raise a vector of a partition's function: the PF for partition 0, a VF otherwise. -/
def raiseVector (p vec : Nat) (s : State) : State := msixRaise (fget s F.hostfBind_port p) p vec s

/-- The queue of context `c` is full and a fault finds it so: OVF, its count and one record (R481). -/
def faultOverflow (c : Nat) (s : State) : State :=
  let x := ctxGet s c
  let s := ctxSet c { x with ovf := true, ovfCount := min (x.ovfCount + 1) 0xFFFFFFFF } s
  if x.ovf then s else logErr { code := 0x0A01, cls := clsInfo, part := some x.part, ctx := some c } s

/-- Write a fault record into the next slot of the context's fault queue and raise its vector (R479). -/
def faultRecord (c kind reason addr queue index source ucause cmd : Nat) (s : State) : State :=
  let x := ctxGet s c
  let s := memWrite (x.faultQ + x.seq % 64 * 32)
    (faultBytes kind reason c x.seq addr queue index source ucause (fget s F.tickCounter_count 0)) s
  let s := ctxSet c { x with seq := add32 x.seq 1, awaiting := x.awaiting ++ [⟨x.seq, kind == 1, cmd, false⟩] } s
  raiseVector x.part x.vector s

/-- Is a fault queue full: 64 records await an answer (R481). -/
def faultFull (s : State) (c : Nat) : Bool := decide ((ctxGet s c).awaiting.length ≥ 64)

/-- Fault a context (R449): it goes to FAULTED, a record is written unless its queue is full, and its staged effects
for the tick will be discarded (R101). Context 0 never faults (R448). -/
def ctxFault (c reason source ucause : Nat) (s : State) : State :=
  let x := ctxGet s c
  if c = 0 ∨ x.state = .free ∨ x.state = .dying then s
  else
    let s := ctxSet c { x with state := .faulted, lastReason := reason, lastTick := fget s F.tickCounter_count 0 % 2 ^ 32 } s
    let w := partGet s x.part
    let s := partSet x.part { w with faulted := if w.faulted.contains c then w.faulted else c :: w.faulted } s
    if faultFull s c then faultOverflow c s else faultRecord c 2 reason 0 0 0 source ucause 0 s

/-- A spoil cause met by the attempt in progress of a partition (R203); outside a tick there is nothing to spoil. -/
def spoil (p : Nat) (src : SpoilSrc) (injected : Bool) (s : State) : State :=
  if inTick s p then partMod p (fun w => { w with spoils := w.spoils ++ [⟨src, injected⟩] }) s else s

/-- The lock-step role and partner of a partition for ticks admitted now, by the configuration in force since the edge (R259, R266): is this
hub the primary. -/
def lockOf (s : State) (p : Nat) : Option (Bool × Nat) :=
  let v := s.dom.lsCfg
  if bitOn v 0 && bitsAt v 8 8 == p then some (bitOn v 1, bitsAt v 2 6) else none

/-- Is this hub the secondary of a partition's tick. -/
def lsSecondary (s : State) (p : Nat) : Bool := match (partGet s p).lock with | some (prim, _) => !prim | none => false
/-- Is this hub the primary of a partition's tick. -/
def lsPrimary (s : State) (p : Nat) : Bool := match (partGet s p).lock with | some (prim, _) => prim | none => false
/-- The partner of a partition's tick. -/
def lsPartner (s : State) (p : Nat) : Nat := match (partGet s p).lock with | some (_, h) => h | none => 0

end Sys2Proof.Machine
end

