-- ==== Sys2Proof/Machine/Perf.lean ====
section
/-! DEFINITION. Machine/Perf.lean: the performance counters (R588 to R590) and when the perturbation registers change
(R591, R592). Events that count cycles are not counted: time is not modelled (log entry 2). -/
namespace Sys2Proof.Machine

/-- Does counter `i` count an event of a field and partition (R588, R590). -/
def perfSelects (s : State) (i ev field part : Nat) : Bool :=
  fget s F.perfSel_event i == ev && bitOn (fget s F.perfSel_fieldMask i) field
    && (!fon s F.perfSel_partEn i || fget s F.perfSel_partition i == part) && !confidential s part

/-- Count `n` of an event. -/
def perfCount (ev field part n : Nat) (s : State) : State :=
  if fon s F.perfCtrl_freeze 0 then s
  else (List.range 16).foldl (fun s i =>
    if perfSelects s i ev field part then fwrap F.perfCnt_count F.perfCnt_ovf i n s else s) s

/-- Count `n` of an event of hub-level traffic: no partition's selection takes it. -/
def perfCountHub (ev field n : Nat) (s : State) : State :=
  if fon s F.perfCtrl_freeze 0 then s
  else (List.range 16).foldl (fun s i =>
    if fget s F.perfSel_event i == ev && bitOn (fget s F.perfSel_fieldMask i) field && !fon s F.perfSel_partEn i then
      fwrap F.perfCnt_count F.perfCnt_ovf i n s else s) s

/-- Tick edges applied: event 0x0F, whatever the scope. -/
def perfEdgeCount (s : State) : State :=
  if fon s F.perfCtrl_freeze 0 then s
  else (List.range 16).foldl (fun s i =>
    if fget s F.perfSel_event i = 0x0F then fwrap F.perfCnt_count F.perfCnt_ovf i 1 s else s) s

/-- Copy every counter into its snapshot register (R589). -/
def perfSnapshot (s : State) : State :=
  let s := (List.range 16).foldl (fun s i => rset s .perfSnap i (rget s .perfCnt i)) s
  fset F.perfCtrl_snapTick 0 (fget s F.tickCounter_count 0 % 2 ^ 32) (fset F.perfCtrl_snapValid 0 1 { s with snapOwed := false })

/-- The perturbation registers that software writes. -/
def tpRegs : List RegName := [.tpNet, .tpCredit, .tpMem, .tpLink, .tpInject, .tpInjectTick]

/-- TP_STATUS.ACTIVE follows the registers, and with it the mode in force (R486, R591). -/
def tpActive (s : State) : State :=
  setStrict (fset F.tpStatus_active 0 (bit01 (tpRegs.any fun r => rget s r 0 != 0)) s)

/-- Every perturbation register becomes 0. -/
def tpClearAll (s : State) : State := tpActive (tpRegs.foldl (fun s r => rset s r 0 0) { s with tpOwed := [] })

/-- Writes that waited for the edge take effect, and a clear that is owed happens (R592). -/
def tpEdge (s : State) : State :=
  let s := s.tpOwed.foldl (fun s e => match tpRegs[e.1]? with
    | some r => rset s r 0 e.2
    | none => s) s
  let s := tpActive { s with tpOwed := [] }
  if s.tpClear then
    logErr { code := 0x0E01, cls := clsInfo } (tpClearAll { s with tpClear := false })
  else s

/-- Writes of PART_SLUICE of enabled partitions take effect (R352). -/
def sluiceEdge (s : State) : State :=
  s.slcOwed.foldl (fun s e => rset s .partSluice e.1 e.2) { s with slcOwed := [] }

/-- What the counters, sluice registers and perturbation registers do at a tick edge (R352, R589, R592). -/
def perfEdge (s : State) : State :=
  let s := perfEdgeCount (sluiceEdge s)
  let s := if s.snapOwed then perfSnapshot s else s
  tpEdge s

end Sys2Proof.Machine
end

