-- ==== Sys2Proof/Machine/Sluice.lean ====
section
/-! DEFINITION. Machine/Sluice.lean: the bandwidth regulator (R328 to R332, R350 to R352): the classes a partition may use,
the bytes each resource serves in a window, and budgets. A resource is a kind and a number within it. -/
namespace Sys2Proof.Machine

/-- The class a request of a partition goes out with (R328, R352): the highest-numbered allowed class replaces one that is not
allowed, and an empty mask acts as 0x80. -/
def classFor (s : State) (p cls : Nat) : Nat :=
  let m := fget s F.partSluice_allowed p
  let m := if m = 0 then 0x80 else m
  if bitOn m cls then cls else (bitList 8 m).getLastD 7

/-- The class of a partition's host-originated requests. -/
def hostClass (s : State) (p : Nat) : Nat := classFor s p (fget s F.partSluice_hostClass p)

/-- The key of a resource's count of one class. -/
def slcKey (kind res cls : Nat) : Nat := (kind * 256 + res) * 8 + cls

/-- A resource starts to serve `n` bytes of a class (R329, R332). -/
def slcServe (kind res cls n : Nat) (s : State) : State :=
  let k := slcKey kind res cls
  let total := fget s F.slcBytes_bytes cls + n
  let s := { s with slcCount := Map.set s.slcCount k (Map.get s.slcCount 0 k + n) }
  let s := fset F.slcBytes_bytes cls (total % 2 ^ 64) s
  if total ≥ 2 ^ 64 then rset s .slcOvf 0 (rget s .slcOvf 0 ||| BitVec.ofNat 64 (2 ^ cls)) else s

/-- Bytes in one microsecond at a resource's rate (R226, R305, R329): a memory controller by its register instance, an Idoon
port by its lane group, a host port, and a mortise module as site × 8 + module. -/
def slcRate (s : State) (kind res : Nat) : Nat :=
  match kind with
  | 0 => 256 * [0, 4800, 6400, 8000].getD (fget s F.memcStatus_rate res) 0
  | 1 => 8 * [0, 6400, 8533, 9600].getD (fget s F.memcStatus_rate res) 0
  | 2 => [0, 4, 8, 16].getD (fget s F.idnStatus_width res) 0 * (if fon s F.idnStatus_rate res then 28000 else 14000)
  | 3 => 128000
  | _ => 4000 * [0, 16, 32, 64].getD (fget s F.mtModule_width res) 0

/-- Length of a sluice window (R329). -/
def slcWindow (s : State) : Nat := fget s F.tickPeriodNow_periodNs 0 / 64

/-- The budget of a class at a resource in the window (R329, R350): the share in force since the window began. -/
def slcBudget (s : State) (kind res cls : Nat) : Nat :=
  let share := min (Map.get s.slcShares 1024 (kind * 8 + cls)) 1024
  share * slcRate s kind res * slcWindow s / 1024000

/-- Has a class reached its budget at a resource. -/
def overBudget (s : State) (kind res cls : Nat) : Bool :=
  decide (Map.get s.slcCount 0 (slcKey kind res cls) ≥ slcBudget s kind res cls)

/-- The level at which a resource ranks a request (R330): 0 URGENT, 1 aged, then in-budget classes and over-budget ones, each
ascending. -/
def slcLevel (s : State) (kind res : Nat) (urgent aged : Bool) (cls : Nat) : Nat :=
  if urgent then 0 else if aged then 1 else if overBudget s kind res cls then 10 + cls else 2 + cls

/-- The class of a KV walker's requests for a batch entry (R197, R328). -/
def kvWalkClass (s : State) (p e : Nat) : Nat := classFor s p (match (partGet s p).entries[e]? with | some b => b.cls | none => 0)

/-- SLUICE_WINDOW (R329, R332, R350): classes that some resource held over budget are counted, counts start at zero and new
shares apply. -/
def execSluiceWindow (s : State) : Result :=
  .next (
    let ovr := (List.range 8).filter fun c => s.slcCount.any fun e => e.1 % 8 == c && overBudget s (e.1 / 2048) (e.1 / 8 % 256) c
    let s := ovr.foldl (fun s c => fbump F.slcDemoteCount_count c 1 s) s
    { s with slcCount := [], slcShares := (List.range 40).filterMap fun i =>
        if fget s F.slcShare_share i = 1024 then none else some (i, fget s F.slcShare_share i) })

end Sys2Proof.Machine
end

