-- ==== Sys2Proof/Machine/MemOps.lean ====
section
/-! DEFINITION. Machine/MemOps.lean: reads and writes of device memory as its controllers serve them: which controller
an address falls on (R276, R277, R20), lost sectors (R286, R289), and the host pages the hub may reach (R413 to R416). -/
namespace Sys2Proof.Machine

/-- Base of the fen tier (R23). -/
def fenBase : Nat := 0x100000000000

/-- The controller of an address (R276, R277): 0 to 11 stacks H0 to H11, 12 to 35 packages L0 to L23. -/
def ctlOf (a : Nat) : Nat :=
  if a < fenBase then
    let b := a / 4096
    (b % 12 + b / 12) % 12
  else
    let b := (a - fenBase) / 4096
    12 + (b % 24 + b / 24) % 24

/-- The offset of an address within its stack or package (R276, R277). -/
def ctlOffset (a : Nat) : Nat :=
  if a < fenBase then a / 4096 / 12 * 4096 + a % 4096
  else (a - fenBase) / 4096 / 24 * 4096 + a % 4096

/-- The pseudo-channel of a stacked address; 0 for the fen tier (R276, R306). -/
def ctlChannel (a : Nat) : Nat :=
  if a < fenBase then
    let o := ctlOffset a
    bitsAt o 9 3 + 8 * (bitsAt o 12 3 ^^^ bitsAt o 18 3 ^^^ bitsAt o 24 3)
  else 0

/-- The register instance of a controller (R20, R305): field × 19 + slot, slots 0 and 1 stacks, 16 to 18 packages. -/
def ctlReg (c : Nat) : Nat :=
  if c < 12 then [0, 1, 19, 38, 39, 57, 95, 114, 115, 133, 152, 153].getD c 0
  else [0, 19, 38, 57, 95, 114, 133, 152].getD ((c - 12) / 3) 0 + 16 + (c - 12) % 3

/-- The node of a memory controller (R20, R310, R311): its field, and the edge router and port where it attaches, which the spec leaves
open. -/
def ctlNode (c : Nat) : Nat :=
  edgeAttach (ctlReg c / 19) (Config.memPort c)

/-- Put an error into a controller's MEMC_ERR (R306). -/
def memcErr (c cause addr : Nat) (s : State) : State :=
  firstErr F.memcErr_valid F.memcErr_more
    [(F.memcErr_cause, cause), (F.memcErr_channel, ctlChannel addr), (F.memcErr_sector, addr / 512)] (ctlReg c) s

/-- The error record of a controller event (R573, R576 group 0x03). -/
def memcRecord (c kind cls addr : Nat) (p : Option Nat) (injected : Bool) (s : State) : State :=
  logErr { code := 0x0300 + kind, cls := cls, part := p, addr := some (addr / 512 * 512),
           source := ctlNode c, unitReg := (rget s .memcErr (ctlReg c)).toNat,
           injected := injected } s

/-- Lost-sector entries of a controller. -/
def lostCount (s : State) (c : Nat) : Nat := (s.lost.filter fun q => ctlOf (q * 512) == c).length

/-- MEMC_REPAIR.LOST follows the list. -/
def setLost (c : Nat) (s : State) : State := fset F.memcRepair_lost (ctlReg c) (min (lostCount s c) 64) s

/-! ### Rows (R276, R277, R290) -/

/-- The sector's number within its pseudo-channel, or within its package. -/
def sectorIn (sector : Nat) : Nat :=
  let a := sector * 512
  if a < fenBase then ctlOffset a / 32768 else ctlOffset a / 512

/-- Pseudo-channel, bank and row of a sector, in the table of its controller. -/
def rowOf (sector : Nat) : Nat × Nat × Nat :=
  let c := ctlOf (sector * 512)
  let nb := max (Config.banks c) 1
  (ctlChannel (sector * 512), sectorIn sector % nb, sectorIn sector / nb / max (Config.rowSectors c) 1)

/-- Does a ledger entry stand for the row of a sector. -/
def RowEntry.isRow (e : RowEntry) (sector : Nat) : Bool :=
  e.ctl == ctlOf (sector * 512) && (e.channel, e.bank, e.row) == rowOf sector

/-! ### Queued repairs and retired pages (R289 to R295) -/

/-- Repairs a controller has queued. -/
def queuedRepairs (s : State) (c : Nat) : Nat := (s.repairs.filter fun q => ctlOf (q.1 * 512) == c).length

/-- MEMC_REPAIR.QUEUED follows. -/
def setQueued (c : Nat) (s : State) : State := fset F.memcRepair_queued (ctlReg c) (queuedRepairs s c) s

/-- Begin writing the ledger into the flash copy that does not hold the higher sequence, or note that it has changed while a
write is under way (R294). -/
def ledgerWrite (s : State) : State :=
  if s.ledgerBusy.isSome then { s with ledgerDirty := true }
  else
    let l : Ledger := { s.ledger with seq := s.ledger.seq + 1 }
    { s with ledger := l, ledgerBusy := some l, ledgerDirty := false }

/-- A page that a failing sector retired is reported by that sector's controller (R292, R306 cause 0x7). -/
def reportPage (sector : Nat) (s : State) : State :=
  let c := ctlOf (sector * 512)
  memcRecord c 7 clsDegraded (sector * 512) none false (memcErr c 7 (sector * 512) s)

/-- The entry of a row whose page is retired shows it (R293). -/
def markRetired (sector : Nat) (l : Ledger) : Ledger :=
  { l with rows := l.rows.map fun e => if e.isRow sector then { e with state := 2 } else e }

/-- Retire the 64 KiB page of a sector: the ledger is written first and the report follows; with a full list it is reported once, and
not kept (R292, R295). -/
def retirePage (sector : Nat) (s : State) : State :=
  let page := sector / 128
  let i := ctlReg (ctlOf (sector * 512))
  if s.ledger.pages.contains page then
    let l := markRetired sector s.ledger
    if l = s.ledger then s else ledgerWrite { s with ledger := l }
  else if s.pagesTold.contains page then s
  else
    let s := fset F.memcRepair_pagesRetired i (fget s F.memcRepair_pagesRetired i + 1) s
    if s.ledger.pages.length ≥ 4096 then
      reportPage sector (fset F.memStatus_ledgerFull 0 1 { s with pagesTold := s.pagesTold ++ [page] })
    else
      let l : Ledger := markRetired sector { s.ledger with pages := s.ledger.pages ++ [page] }
      let s := if l.pages.length ≥ 4096 then fset F.memStatus_ledgerFull 0 1 s else s
      ledgerWrite { s with ledger := l, pageReports := s.pageReports ++ [(page, sector)] }

/-- Queue a repair of a sector's row; beyond 16 queued its page is retired (R290, R291). -/
def queueRepair (sector : Nat) (s : State) : State :=
  let c := ctlOf (sector * 512)
  if s.repairs.any (·.1 == sector) then s
  else if queuedRepairs s c ≥ 16 then retirePage sector s
  else setQueued c { s with repairs := s.repairs ++ [(sector, s.edges)] }

/-- A sector's data can no longer be recovered: it enters its controller's list of 64, or its page is retired (R289). -/
def loseSector (sector : Nat) (s : State) : State :=
  let c := ctlOf (sector * 512)
  if s.lost.contains sector then s
  else if lostCount s c ≥ 64 then
    retirePage sector (memcRecord c 5 clsDegraded (sector * 512) none false (memcErr c 5 (sector * 512) s))
  else setLost c { s with lost := s.lost ++ [sector] }

/-- An uncorrectable read met by a requester: in a tick its partition spoils with the sector as source, otherwise the
requester gets an error; counted and recorded either way (R286). It is a failure of the sector's row, unless the interface
escalated or the error was injected (R290, R594). -/
def memUncorrectable (addr cause : Nat) (p : Option Nat) (injected : Bool) (s : State) : State :=
  let c := ctlOf addr
  let s := fbump F.memcUeCount_count (ctlReg c) 1 (memcErr c cause addr s)
  let live := match p with | some q => inTick s q | none => false
  let s := memcRecord c cause (if cause = 3 then clsDegraded else if live then clsSpoil else clsInfo) addr p injected s
  let s := if cause = 3 ∨ injected then s else queueRepair (addr / 512) s
  match p with
  | some q => if live then spoil q (.sector (addr / 512)) injected s else s
  | none => s

/-! ### The fen tier's keys and the stored form of a sector (R282, R298, R299) -/

/-- Is MEM_DIRTY set for a partition (R301). -/
def memDirty (s : State) (p : Nat) : Bool := (rget s .memDirty (p / 64)).getLsbD (p % 64)

/-- A partition is enabled (R299): a confidential one that has no key pair draws one, which goes into its slot in each fen-tier
controller; and the key map takes its fen ranges, where they are clear and not dirty. -/
def placeKeys (p : Nat) (s : State) : State :=
  let secret := confidential s p
  let s := if !secret || (Map.get? s.fenKeys (12 * 256 + p)).isSome then s
    else tickFresh { s with fenKeys := (List.range 24).foldl (fun m k => Map.set m ((12 + k) * 256 + p) s.fresh) s.fenKeys }
  if !fon s F.partSec_clean p || memDirty s p || fon s F.memStatus_allDirty 0 then s
  else
    let gibs := (List.range 8).flatMap fun k =>
      let i := p * 8 + k
      if fon s F.partMem_valid i && fon s F.partMem_tier i then
        (List.range (fget s F.partMem_limitGib i + 1 - fget s F.partMem_baseGib i)).map (· + fget s F.partMem_baseGib i)
      else []
    { s with keyMap := (gibs.filter (· < 2048)).foldl (fun m g => Map.set m g (p, secret)) s.keyMap }

/-- The 512 bytes of a sector as they stand in the part (R298): in the fen tier, where the key map says so, under the partition's key
pair, with the sector's number as a 128-bit tweak. -/
def cipherSector (s : State) (sector : Nat) (bs : List Byte) : List Byte :=
  if sector * 512 < fenBase then bs
  else match Map.get? s.keyMap ((sector * 512 - fenBase) / 2 ^ 30) with
    | some (p, true) => match Map.get? s.fenKeys (ctlOf (sector * 512) * 256 + p) with
      | some k => Config.aesXts (Config.random k) (leBytes 16 sector) bs
      | none => bs
    | _ => bs

/-- The symbols of codeword `j` of a sector (R282): the data bytes whose index is j mod 4, and the address bits [47:9] as 5 symbols. -/
def codeword (sector j : Nat) (bs : List Byte) : List Byte :=
  ((List.range 128).map fun i => bs.getD (i * 4 + j) 0) ++ leBytes 5 sector

/-- The 576 bytes that a sector's part stores: the data, which may be ciphertext, then check byte i of codeword i mod 4 (R282, R298; the
places of the check bytes are log entry 94's). -/
def storedSector (s : State) (sector : Nat) : List Byte :=
  let bs := cipherSector s sector (memRead s (sector * 512) 512)
  bs ++ (List.range 64).map fun i => (Config.rsCheck (codeword sector (i % 4) bs)).getD (i / 4) 0

/-! ### Accesses of the parts (R278, R284, R309, R329) -/

/-- Count 512 bytes read from a part. -/
def countRead (c : Nat) (s : State) : State := fwrap F.memcRdbytes_count F.memcRdbytes_ovf (ctlReg c) 512 s
/-- Count 512 bytes written to a part. -/
def countWrite (c : Nat) (s : State) : State := fwrap F.memcWrbytes_count F.memcWrbytes_ovf (ctlReg c) 512 s

/-- Count the bytes of a request in its sluice class (R329). -/
def slcMem (addr cls n : Nat) (s : State) : State :=
  slcServe (if addr < fenBase then 0 else 1) (ctlReg (ctlOf addr)) (cls % 8) n s

/-- The retries of an access whose interface shows `n` errors in a row (R284): does it escalate, and the state after the count. -/
def interfaceTries (sector n : Nat) (s : State) : Bool × State :=
  let c := ctlOf (sector * 512)
  let ch := ctlChannel (sector * 512)
  let s := if n = 0 then s else fbump F.memcRetryCount_count (ctlReg c) (min n 8) s
  if n > 8 then
    (true, { s with retrains := if s.retrains.any (fun e => e.1 == c && e.2.1 == ch) then s.retrains else s.retrains ++ [(c, ch, s.edges)] })
  else (false, s)

/-- The part's refresh-rate readout (R296, R305). -/
def refreshReport (c : Nat) (u : MemUpset) (s : State) : State := match u.refreshX2 with
  | some b => fset F.memcStatus_refreshX2 (ctlReg c) (bit01 b) s
  | none => s

/-- A sector goes to its part, as its data and check bytes. An interface that escalates ends the write as uncorrectable, and what it
carried is lost: it was acknowledged when the controller took it (R281, R284, R289). -/
def partWrite (sector : Nat) (u : MemUpset) (s : State) : State :=
  let c := ctlOf (sector * 512)
  let (stop, s) := interfaceTries sector u.writeErrors (refreshReport c u s)
  if stop then loseSector sector (memUncorrectable (sector * 512) 3 none false s)
  else emit .part 0 [c, sector] (storedSector s sector) (countWrite c s)

/-- Does an access touch a channel that retrains, so that it is held (R287). -/
def memHeld (s : State) (a n : Nat) : Bool :=
  !s.training.isEmpty && (List.range ((a + max n 1 - 1) / 512 - a / 512 + 1)).any fun k =>
    s.training.contains (ctlOf ((a / 512 + k) * 512), ctlChannel ((a / 512 + k) * 512))

/-- Sectors of `[a, a + n)` with the bytes of each. -/
def sectorBytes (a n : Nat) : List (Nat × Nat) :=
  if n = 0 then [] else (List.range ((a + n - 1) / 512 - a / 512 + 1)).map fun k =>
    let q := a / 512 + k
    (q, min (a + n) ((q + 1) * 512) - max a (q * 512))

/-- A read of device memory is counted: whole sectors at the parts, the bytes asked for in the class (R278, R309, R329). -/
def countReads (a n cls : Nat) (s : State) : State :=
  (sectorBytes a n).foldl (fun s e => slcMem (e.1 * 512) cls e.2 (countRead (ctlOf (e.1 * 512)) s)) s

/-- A hub-level unit has read `[a, a + n)`: a lost sector there leaves its record (R286, R289). -/
def lostMet (a n : Nat) (s : State) : State := match firstLost s a n with
  | some q => memUncorrectable (q * 512) 4 none false s
  | none => s

/-- Read device memory for a requester: none, with the consequences of R286 and R289, where a listed lost sector is
touched. -/
def devRead (a n : Nat) (p : Option Nat) (s : State) (cls : Nat := 0) : Option (List Byte) × State :=
  match firstLost s a n with
  | some q => (none, memUncorrectable (q * 512) 4 p false s)
  | none => (some (memRead s a n), countReads a n cls s)

/-! ### Write combining (R279, R280, R309) -/

/-- A controller's buffer, least recently written entry first. -/
def wcGet (s : State) (c : Nat) : List WcEntry := Map.get s.wcb [] c
/-- Set it. -/
def wcSet (c : Nat) (l : List WcEntry) (s : State) : State :=
  { s with wcb := if l.isEmpty then Map.erase s.wcb c else Map.set s.wcb c l }

/-- Bytes `[off, off + n)` of a sector join those written. -/
def wcBytes (l : List Nat) (off n : Nat) : List Nat := l.filter (fun i => i < off || off + n ≤ i) ++ (List.range n).map (· + off)

/-- An incomplete entry leaves by read-modify-write (R280). -/
def rmwPart (sector : Nat) (u : MemUpset) (s : State) : State :=
  let c := ctlOf (sector * 512)
  fwrap F.memcRmw_count F.memcRmw_ovf (ctlReg c) 1 (partWrite sector u s)

/-- A write of `n` bytes at offset `off` of a sector passes the buffer: a whole sector replaces its entry and goes to the
part; a part of one joins its entry, which leaves once complete; with 256 entries the least recently written one leaves by
read-modify-write. -/
def wcWrite (sector off n : Nat) (u : MemUpset) (s : State) : State :=
  let c := ctlOf (sector * 512)
  let l := wcGet s c
  let rest := l.filter (·.sector != sector)
  let s := { s with wback := s.wback.filter (· != sector) }
  if n ≥ 512 then partWrite sector u (wcSet c rest s)
  else
    let old := match l.find? (·.sector == sector) with | some e => e.bytes | none => []
    let bytes := wcBytes old off n
    if bytes.length ≥ 512 then partWrite sector u (wcSet c rest s)
    else
      let l : List WcEntry := rest ++ [⟨sector, bytes⟩]
      if l.length ≤ 256 then wcSet c l s
      else match l with
        | e :: l => rmwPart e.sector {} (countRead c (wcSet c l s))
        | [] => s

/-- Write one piece that lies within a sector: a whole-sector write takes the sector off the lost list, a partial
write to a listed sector is refused (R289). -/
def devWriteSector (a : Nat) (bs : List Byte) (cls : Nat) (u : MemUpset) (s : State) : State :=
  if bs.isEmpty then s
  else
    let put := fun (s : State) => wcWrite (a / 512) (a % 512) bs.length u (memWrite a bs (slcMem a cls bs.length s))
    if s.lost.contains (a / 512) then
      if a % 512 = 0 ∧ bs.length = 512 then
        put (setLost (ctlOf a) { s with lost := s.lost.filter (· != a / 512) })
      else s
    else put s

/-- Write device memory, sector by sector. -/
def devWrite (cls : Nat) : Nat → Nat → List Byte → State → State
  | 0, _, _, s => s
  | fuel + 1, a, bs, s =>
    if bs.isEmpty then s
    else
      let k := 512 - a % 512
      devWrite cls fuel (a + k) (bs.drop k) (devWriteSector a (bs.take k) cls {} s)

/-- Write device memory; hub-level units write with class 0 (R328). -/
def devStore (a : Nat) (bs : List Byte) (s : State) (cls : Nat := 0) : State := devWrite cls (bs.length / 512 + 2) a bs s

/-- Is a write refused in part: it touches a listed sector that it does not cover (R289). -/
def writeRefused (s : State) (a n : Nat) : Bool :=
  (sectorBytes a n).any fun e => decide (e.2 < 512) && s.lost.contains e.1

/-! ### Clearing between tenants (R300 to R304, R499) -/

/-- Bytes of the populated parts of the two tiers (R23, R272, R273). -/
def stackedBytes (s : State) : Nat := if fon s F.memStatus_stackedReady 0 then 12 * fget s F.memcStatus_capMib (ctlReg 0) * 2 ^ 20 else 0
def fenBytes (s : State) : Nat := if fon s F.memStatus_fenReady 0 then 24 * fget s F.memcStatus_capMib (ctlReg 12) * 2 ^ 20 else 0

/-- The memory ranges of a partition. -/
def rangesOf (s : State) (p : Nat) : List (Nat × Nat) := (List.range 8).filterMap fun k => memRange s p k

/-- Set or clear MEM_DIRTY bit p. -/
def setDirty (p v : Nat) (s : State) : State :=
  rset s .memDirty (p / 64) (BitVec.ofNat 64 (putBits (rget s .memDirty (p / 64)).toNat (p % 64) 1 v))

/-- A clear begins (R300 steps 1 and 2). -/
def clearBegin (p : Nat) (s : State) : State :=
  let s := fset F.memStatus_clearPart 0 p (fset F.memStatus_clearing 0 1 (setDirty p 1 s))
  let inside := fun q => (rangesOf s p).any fun r => decide (r.1 ≤ q * 512 ∧ q * 512 < r.2)
  { s with wcb := List.filter (fun e => !e.2.isEmpty) (Map.map s.wcb fun _ l => l.filter fun e => !inside e.sector)
           wback := s.wback.filter (!inside ·) }

/-- Ask for a clear: at once, or after the one in progress. -/
def clearAsk (p : Nat) (s : State) : State :=
  if fon s F.memStatus_clearing 0 then { setDirty p 1 s with clearQ := if s.clearQ.contains p then s.clearQ else s.clearQ ++ [p] }
  else clearBegin p s

/-- An orderly removal goes on (R429 steps 5 and 6): presence is released once the clears have ended, and the board's power controller
is asked to remove power once the departure is done too. -/
def removalStep (s : State) : State :=
  if !s.removing ∨ fon s F.memStatus_clearing 0 then s
  else
    let s := if fon s F.hostpHotplug_prsnt 0 then emit .pin 0x07 [0] [] (fset F.hostpHotplug_prsnt 0 0 s) else s
    if s.lossOwed then s
    else emit .pin 0x08 [1] [] (fset F.hostpHotplug_pwrInd 0 0 (fset F.hostpHotplug_pwrReq 0 1 { s with removing := false }))

/-- After the loss of the host link HUB_STATE is READY again once the clears have ended (R437 step 6). -/
def lossDone (s : State) : State :=
  let s := removalStep s
  if fget s F.bootStatus_hubState 0 = 3 ∧ !s.lossOwed ∧ !fon s F.memStatus_clearing 0 then
    setHubState 1 (fset F.hostpHubStatus_recovering 0 0 s)
  else s

/-- How many of the first `n` 4 KiB blocks of a tier of `k` parts lie on part `j` (R276, R277). -/
def blocksOn (k j n : Nat) : Nat := n / k + bit01 ((List.range (n % k)).any fun r => (r + n / k) % k == j)

/-- The bytes of a range that lie on a controller. -/
def bytesOn (c : Nat) (r : Nat × Nat) : Nat :=
  let base := if c < 12 then 0 else fenBase
  let (k, j) := if c < 12 then (12, c) else (24, c - 12)
  if (r.1 < fenBase) = (c < 12) then (blocksOn k j ((r.2 - base) / 4096) - blocksOn k j ((r.1 - base) / 4096)) * 4096 else 0

/-- Every sector of some ranges is written with zero data and a valid code: by a clear in class 7 (R300, R309, R328). -/
def clearRanges (rs : List (Nat × Nat)) (s : State) (cls : Nat := 7) : State :=
  let s := (List.range 36).foldl (fun s c =>
    let n := (rs.map (bytesOn c)).sum
    if n = 0 then s else
      slcServe (if c < 12 then 0 else 1) (ctlReg c) cls n (fwrap F.memcWrbytes_count F.memcWrbytes_ovf (ctlReg c) n s)) s
  rs.foldl (fun s r => emit .part 1 [r.1, r.2] [] s) s

/-- A range of whole sectors is written with zeros by a hub-level unit; none of them is lost any longer (R289, R456). -/
def zeroRange (a n : Nat) (s : State) : State :=
  let s := clearRanges [(a, a + n)] { s with mem := Mem.clear s.mem a n
                                             lost := s.lost.filter fun q => !decide (a ≤ q * 512 ∧ q * 512 < a + n) } 0
  (List.range 36).foldl (fun s c => setLost c s) s

/-- A clear ends (R300 steps 3 to 5, R289, R499): the ranges read zero, no sector of them is lost, the key slot is gone. -/
def clearEnd (p : Nat) (s : State) : State :=
  let rs := rangesOf s p
  let s := clearRanges rs s
  let inside := fun q => rs.any fun r => decide (r.1 ≤ q * 512 ∧ q * 512 < r.2)
  let s := { s with mem := rs.foldl (fun m r => Mem.clear m r.1 (r.2 - r.1)) s.mem, lost := s.lost.filter (!inside ·)
                    fenKeys := Map.keep s.fenKeys (fun k => k % 256 != p), keyMap := List.filter (fun e => e.2.1 != p) s.keyMap }
  let s := (List.range 36).foldl (fun s c => setLost c s) s
  let s := fset F.partSec_clean p 1 (setDirty p 0 (fset F.memStatus_clearing 0 0 s))
  match s.clearQ with
  | q :: qs => clearBegin q { s with clearQ := qs }
  | [] => lossDone s

/-! ### Host pages (R413 to R416) -/

/-- The port a partition's function is bound to (R446). -/
def boundPort (s : State) (p : Nat) : Nat := fget s F.hostfBind_port p

/-- The translation a port holds for a host page of a partition's function (R414). -/
def atcFind (s : State) (p addr : Nat) : Option Atc :=
  s.atc.find? fun e => e.part == p && e.page == addr / 2 ^ e.log2

/-- Is the host page pinned, with a translation the host has not withdrawn (R415). -/
def hostPinned (s : State) (p addr : Nat) : Bool :=
  (s.pins.any fun n => n.part == p && n.host / 65536 == addr / 65536)
    && match atcFind s p addr with
      | some e => !e.marked
      | none => false

/-- Was the page's pinned translation invalidated by the host (R416). -/
def hostMarked (s : State) (p addr : Nat) : Bool :=
  s.pins.any fun n => n.part == p && n.host / 65536 == addr / 65536 && n.hit

/-- The translated host address, or the address itself where the port holds no entry. -/
def hostAddr (s : State) (p addr : Nat) : Nat := match atcFind s p addr with
  | some e => e.dest * 2 ^ e.log2 + addr % 2 ^ e.log2
  | none => addr

/-! ### Stores to host memory (R404, R405, R417) -/

/-- Is the port in DL_Active and not contained (R439). -/
def portUp (s : State) (port : Nat) : Bool :=
  let l := fget s F.hostpPortStatus_lstate port
  decide (3 ≤ l ∧ l ≤ 5) && !fon s F.hostpPortStatus_contained port

/-- Traffic takes a port out of L0s or L1 (R433). -/
def linkWake (port : Nat) (s : State) : State :=
  let l := fget s F.hostpPortStatus_lstate port
  if l = 4 ∨ l = 5 then fset F.hostpPortStatus_lstate port 3 s else s

/-- Is the function of a partition, or the PF of its port, in D3hot (R434). -/
def inD3 (s : State) (port p : Nat) : Bool := s.d3.contains (port * 256 + p) || s.d3.contains (port * 256)

/-- Why a partition would be in host wait now (R405). -/
def waitCause (s : State) (p : Nat) : Bool := !portUp s (boundPort s p) || inD3 s (boundPort s p) p

/-- A partition is in host wait: a cause holds, or the wait has not yet ended at an edge (R405, R432). -/
def hostWait (s : State) (p : Nat) : Bool := waitCause s p || bitOn (rget s .hostpWait (p / 64)).toNat (p % 64)

/-- A store to host memory through the partition's bound port (R417): sent at once where the port can send, held
otherwise; the egress streamer keeps it until it is acknowledged. It counts in its sluice class (R329). -/
def hostStore (p c a : Nat) (bs : List Byte) (ordered : Bool) (s : State) (cls : Nat := 0) : State :=
  let port := boundPort s p
  let up := !waitCause s p
  let s := { s with unacked := s.unacked ++ [⟨port, p, c, a, bs, ordered, up⟩] }
  if up then emit .host 0x01 [port, p, hostAddr s p a, bit01 ordered] bs
    (slcServe 3 port cls bs.length (fwrap F.hostpTxbytes_count F.hostpTxbytes_ovf port bs.length (linkWake port s))) else s

/-! ### Reads and writes through a context's tables -/

/-- Pieces of `[va, va + n)` that lie in one 64 KiB page; `fuel` bounds their number. -/
def vaPieces : Nat → Nat → Nat → List (Nat × Nat)
  | 0, _, _ => []
  | fuel + 1, va, n =>
    if n = 0 then []
    else
      let k := min n (65536 - va % 65536)
      (va, k) :: vaPieces fuel (va + k) (n - k)

/-- The pieces of a range. -/
def piecesOf (va n : Nat) : List (Nat × Nat) := vaPieces (n / 65536 + 2) va n

/-- Read through a context's tables; `host` is what host memory answers for the host pieces, in order. The error is
the Griset status: BAD_PARAM where a page has no mapping, MEM_ERROR for an uncorrectable sector. -/
def vaRead (s : State) (c : Nat) : List (Nat × Nat) → List Byte → Except Nat (List Byte)
  | [], _ => .ok []
  | (va, k) :: rest, host =>
    match walk s c va with
    | .error (.unread _) => .error 0x0B
    | .error _ => .error 0x02
    | .ok l =>
      if l.host then
        match vaRead s c rest (host.drop k) with
        | .ok bs => .ok (padTo k 0 (host.take k) ++ bs)
        | .error e => .error e
      else if lostSector s (l.at va) k then .error 0x0B
      else match vaRead s c rest host with
        | .ok bs => .ok (memRead s (l.at va) k ++ bs)
        | .error e => .error e

/-- The lost sector's address at which a read through a context's tables ends, if one ends it: a table's or a page's (R286, R289). -/
def vaLost (s : State) (c : Nat) : List (Nat × Nat) → Option Nat
  | [] => none
  | (va, k) :: rest =>
    match walk s c va with
    | .error (.unread a) => some a
    | .error _ => none
    | .ok l => if l.host then vaLost s c rest
      else match firstLost s (l.at va) k with
        | some q => some (q * 512)
        | none => vaLost s c rest

/-- The device pieces of a mover's read through a context's tables are counted (R309, R329). -/
def countVaReads (c cls : Nat) (ps : List (Nat × Nat)) (s : State) : State :=
  ps.foldl (fun s q => match walk s c q.1 with
    | .ok l => if l.host then s else countReads (l.at q.1) q.2 cls s
    | .error _ => s) s

/-- What a read through a context's tables that failed leaves: the record of a lost sector, where it met one (R286, R289). -/
def vaFailed (c : Nat) (ps : List (Nat × Nat)) (s : State) (p : Option Nat := none) : State := match vaLost s c ps with
  | some a => memUncorrectable a 4 p false s
  | none => s

/-- Does an access through a context's tables touch a channel that retrains (R287). -/
def vaHeld (s : State) (c : Nat) (ps : List (Nat × Nat)) : Bool := ps.any fun q => match walk s c q.1 with
  | .ok l => !l.host && memHeld s (l.at q.1) q.2
  | .error _ => false

/-- Is every page of a range mapped and writable. -/
def vaWritable (s : State) (c va n : Nat) : Bool := (piecesOf va n).all fun q => match walk s c q.1 with
  | .ok l => l.write
  | .error _ => false

/-- Is every page of a range mapped. -/
def vaMapped (s : State) (c va n : Nat) : Bool := (piecesOf va n).all fun q => match walk s c q.1 with
  | .ok _ => true
  | .error _ => false

/-- Write pieces through a context's tables; a piece without a mapping is dropped. -/
def vaWriteAll (c cls : Nat) : List (Nat × Nat) → List Byte → State → State
  | [], _, s => s
  | (va, k) :: rest, bs, s =>
    let s := match walk s c va with
      | .ok l => if l.host then hostStore (ctxGet s c).part c (l.at va) (bs.take k) false s cls
                 else devStore (l.at va) (bs.take k) s cls
      | .error _ => s
    vaWriteAll c cls rest (bs.drop k) s

/-- Write bytes through a context's tables. -/
def vaWrite (c va : Nat) (bs : List Byte) (s : State) (cls : Nat := 0) : State := vaWriteAll c cls (piecesOf va bs.length) bs s

end Sys2Proof.Machine
end

