-- ==== Sys2Proof/Machine/Power.lean ====
section
/-! DEFINITION. Machine/Power.lean: power-on and what survives it (R22, R436, R490, R556 to R559): the OTP as it is read at a start
(R523, R526 to R528), operations a reset cuts off, and the state a hub power-on reset or a standby power-on begins with. -/
namespace Sys2Proof.Machine

/-! ### The OTP at a start -/

/-- The programmed values of the life-cycle rows (R523). -/
def lifeValues : List Nat := [0x5A5AA5A53C3CC3C3, 0x696996960FF0F00F, 0x3333CCCC5555AAAA]

/-- The state that life-cycle rows decode to: 0 BLANK, 1 TEST, 2 PRODUCTION, 3 END_OF_LIFE, 4 INVALID. -/
def lifeOf (rows : List Nat) : Nat :=
  let lead := ((rows.zip lifeValues).takeWhile fun e => e.1 == e.2).length
  if (rows.drop lead).all (· == 0) then lead else 4

/-- The commit word of an owner slot (R527). -/
def ownerCommit : Nat := 0xC3C33C3CA5A55A5A

/-- The highest-numbered valid owner slot, 0 for none (R528). -/
def ownerSlot (o : Otp) : Nat := ((o.owners.filter fun e => e.2.2 == ownerCommit).map (·.1)).foldl max 0

/-- At a start in END_OF_LIFE the keys are destroyed and the user partition erased (R526). -/
def lifeWipe (s : State) : State :=
  if lifeOf s.otp.life ≠ 3 then s
  else { s with otp := { s.otp with keyGone := true, udsGone := true, wiped := true }, flash := { s.flash with log := [] } }

/-- The OTP is read: SEC_STATUS and SEC_OTP_USE follow, no debug authorisation is in force, and the nonce is new (R531 to R534). -/
def otpLoad (s : State) : State :=
  let s := lifeWipe s
  let o := s.otp
  let st := lifeOf o.life + 64 * bit01 o.wiped + 128 * bit01 (!o.udsGone && lifeOf o.life != 0)
    + 256 * ownerSlot o + 2 ^ 13 * o.epoch
  let use := (o.owners.length) + 32 * o.epoch + 2 ^ 12 * (o.rows.filter fun r => decide (r.1 ≥ 2048) && r.2 != 0).length
  let s := rset s .secOtpUse 0 (BitVec.ofNat 64 use)
  let s := rset s .secDebug 0 0
  tickFresh { rset s .secStatus 0 (BitVec.ofNat 64 st) with nonce := s.fresh }

/-! ### Operations cut off (R294, R525, R527, R559) -/

/-- An OTP row whose programming is cut off: a defect row is spent, a life-cycle row partly programmed, which bits being free, an
owner slot spent and not valid; the thermometer stands somewhere between. -/
def cutOtp (s : State) (j : OtpJob) : State :=
  let o := s.otp
  match j with
  | .defect row value _ => { s with otp := { o with rows := Map.set o.rows row (value % 2 ^ 56) } }
  | .life row _ _ =>
    let v := lifeValues.getD row 0
    let part := v &&& (Config.freeWord s.fresh).toNat
    tickFresh { s with otp := { o with life := o.life.set row (if part = 0 ∨ part = v then v % 2 ^ 32 else part) } }
  | .owner slot digest _ => { s with otp := { o with owners := Map.set o.owners slot (digest, 0) } }
  | .epoch dest _ _ => tickFresh { s with otp := { o with epoch := o.epoch + (Config.freeWord s.fresh).toNat % (dest - o.epoch + 1) } }

/-- A flash operation that is cut off. -/
def cutFlash (s : State) (j : FlashJob) : State :=
  let f := s.flash
  match j with
  | .image off _ _ => { s with flash := { f with image := if off = 0 then [] else f.image } }
  | .config _ _ => { s with flash := { f with config := [] } }
  | .licence _ _ => { s with flash := { f with licence := [] } }

/-- A ledger write that is cut off leaves the other copy in use. -/
def cutLedger (s : State) : State :=
  let seqOf := fun (o : Option LedgerCopy) => match o with | some k => k.ledger.seq | none => 0
  if s.ledgerBusy.isNone then s
  else if seqOf s.ledgerA ≤ seqOf s.ledgerB then { s with ledgerA := none } else { s with ledgerB := none }

/-- Everything a reset cuts off. -/
def cutJobs (s : State) : State := s.flashJobs.foldl cutFlash (s.otpJobs.foldl cutOtp (cutLedger s))

/-! ### Power-on -/

/-- The registers of the standby domain. -/
def standbyRegs : List RegName :=
  [.memDirty, .bootCtrl, .mgmtStatus, .pwrStatus, .thermCtrl, .errqPidx, .errqCidx, .errqLidx, .errqStatus, .errqDropped,
   .errqCtrl, .secStatus, .secDebug, .secOtpUse, .secAuthFails]

/-- What a site keeps through a hub power-on reset (R390, R556): DIRTY, and HELD with its count and cause. -/
def keepSite (old : State) (s : State) (n : Nat) : State :=
  let s := fset F.mtStatus_dirty n (fget old F.mtStatus_dirty n) s
  if fget old F.mtStatus_state n = 0xB then
    fset F.mtStatus_cause n (fget old F.mtStatus_cause n) (fset F.mtStatus_fails n (fget old F.mtStatus_fails n)
      (fset F.mtStatus_state n 0xB s))
  else s

/-- What a hub power-on reset keeps beside the standby registers: the security controller's session over the management port stands in
the standby domain (R22, R502), and the program and weights digests go on (R504). -/
def keepHub (old s : State) : State :=
  let s := (List.range 12).foldl (keepSite old) s
  let s := fset F.memStatus_allDirty 0 (fget old F.memStatus_allDirty 0) s
  let s := fset F.domStatus_epoch 0 (fget old F.domStatus_epoch 0) s
  let s := fset F.pwrStatus_mainOn 0 0 (fset F.mgmtStatus_queued 0 0 s)
  { s with errq := old.errq, errLost := old.errLost, errNext := old.errNext, dom := { s.dom with burnt := old.dom.burnt }, pldmTo := old.pldmTo, errMgmt := old.errMgmt
           spdm := old.spdm.filter fun e => e.1 == 256
           parts := Map.map old.parts fun _ w => { prog := w.prog, weights := w.weights } }

/-- The state a start begins with: a standby power-on at step 1, a hub power-on reset at step 2. The main rails are off, memory
holds nothing, every context has ended. -/
def powerOn (standby : Bool) (s : State) : State :=
  let s := cutJobs s
  let keys := standbyRegs.map RegName.ctorIdx
  let base : State :=
    { pending := s.pending, regs := if standby then [] else s.regs.filter (fun e => keys.contains (e.1 / 65536)), otp := s.otp
      flash := { s.flash with starts := s.flash.starts + 1 }, ledgerA := s.ledgerA, ledgerB := s.ledgerB, out := s.out
      fresh := s.fresh, perst := s.perst, rstLow := s.rstLow }
  let n := if standby then fset F.pwrStatus_strapStby 0 (fget s F.pwrStatus_strapStby 0) base else keepHub s base
  let n := fset F.bootStatus_step 0 (if standby then 1 else 2) n
  let n := emit .pin 0x01 [0] [] (otpLoad n)
  let n := if s.tripped then emit .pin 0x02 [0] [] n else n
  let n := if !standby ∧ fget s F.bootStatus_hubState 0 ≠ 0 then emit .mgmt 0x10 [0] [] n else n
  setStrict n

end Sys2Proof.Machine
end

