-- ==== Sys2Proof/Machine/Objects.lean ====
section
/-! DEFINITION. Machine/Objects.lean: object tables (R456 to R459), queue slots, rings and their interrupts (R460 to
R464), and fences (R465 to R468). -/
namespace Sys2Proof.Machine

/-! ### Object tables -/

/-- An object table entry (R456). -/
structure ObjE where
  state : Nat
  href : Nat
  ctx : Nat
  dref : Nat
  base : Nat
  size : Nat
  deriving DecidableEq, Repr

/-- The address of entry `n` of a partition's table, where the partition has a table that reaches it. -/
def objAddr (s : State) (p n : Nat) : Option Nat :=
  match (partGet s p).table with
  | some (base, log2) => if n < 2 ^ log2 then some (base + n * 32) else none
  | none => none

/-- Decode an entry. -/
def objOf (b : List Byte) : ObjE := ⟨recAt b 0 1, recAt b 1 1, recAt b 2 2, recAt b 4 4, recAt b 8 8, recAt b 16 8⟩

/-- Encode an entry. -/
def objBytes (e : ObjE) : List Byte :=
  leBytes 1 e.state ++ leBytes 1 e.href ++ leBytes 2 e.ctx ++ leBytes 4 e.dref ++ leBytes 8 e.base ++ leBytes 8 e.size
    ++ leBytes 8 0

/-- Read an entry. -/
def objGet (s : State) (p n : Nat) : Option ObjE := (objAddr s p n).map fun a => objOf (memRead s a 32)

/-- Does an entry lie in a lost sector (R289). -/
def objLost (s : State) (p n : Nat) : Bool := match objAddr s p n with
  | some a => lostSector s a 32
  | none => false

/-- What a read of an entry in a lost sector leaves (R286). -/
def objMet (p n : Nat) (s : State) : State := match objAddr s p n with
  | some a => lostMet a 32 s
  | none => s

/-- Write an entry; a FREE entry is 32 zero bytes. -/
def objPut (p n : Nat) (e : ObjE) (s : State) : State :=
  match objAddr s p n with
  | some a => devStore a (if e.state = 0 then List.replicate 32 0 else objBytes e) s
  | none => s

/-- Take one device reference (R458). -/
def refTake (r : Nat × Nat) (s : State) : State :=
  match objGet s r.1 r.2 with
  | some e => objPut r.1 r.2 { e with dref := e.dref + 1 } s
  | none => s

/-- Drop one device reference; a RELEASING object without references becomes FREE (R458, R459). -/
def refDrop (r : Nat × Nat) (s : State) : State :=
  match objGet s r.1 r.2 with
  | some e =>
    let d := e.dref - 1
    objPut r.1 r.2 { e with dref := d, state := if e.state = 2 ∧ d = 0 then 0 else e.state } s
  | none => s

/-- The object number of an OREF (R457). -/
def orefNum (w : Nat) : Nat := bitsAt w 0 20
/-- Its byte offset. -/
def orefOffset (w : Nat) : Nat := bitsAt w 20 44

/-- The bytes an OREF names in the table of partition `p` (R457): the owning context and the virtual address, or a
status. -/
def orefRange (s : State) (p w n : Nat) : Except Nat (Nat × Nat) :=
  match objGet s p (orefNum w) with
  | none => .error 0x02
  | some e =>
    if objLost s p (orefNum w) then .error 0x0B
    else if e.state ≠ 1 then .error 0x08
    else if orefOffset w + n > e.size then .error 0x02
    else .ok (e.ctx, e.base + orefOffset w)

/-- Bytes from an OREF to the end of its object. -/
def orefRoom (s : State) (p w : Nat) : Nat :=
  match objGet s p (orefNum w) with
  | some e => if e.state = 1 then e.size - orefOffset w else 0
  | none => 0

/-! ### Queues and rings -/

/-- Entry bytes of a queue kind (R460). -/
def entryBytes (kind : Nat) : Nat := if kind = 3 then 32 else 64

/-- Where slot `i` of a queue stands: in host memory or not, and its address. -/
def queueSlot (s : State) (q i : Nat) : Option (Bool × Nat) :=
  let d := queueGet s q
  let a := d.baseVA + i % 2 ^ d.log2 * entryBytes d.kind
  if q < 2 then some (false, a)
  else match walk s d.ctx a with
    | .ok l => some (l.host, l.at a)
    | .error _ => none

/-- The partition of a queue. -/
def partOfQueue (s : State) (q : Nat) : Nat := (ctxGet s (queueGet s q).ctx).part

/-- Free slots of a ring (R464). -/
def ringFree (s : State) (q : Nat) : Nat :=
  let d := queueGet s q
  2 ^ d.log2 - diff32 d.pidx d.cidx - d.reserved

/-- Reserve ring slots. -/
def ringReserve (q n : Nat) (s : State) : State := queueMod q (fun d => { d with reserved := d.reserved + n }) s
/-- Give reserved slots back. -/
def ringReturn (q n : Nat) (s : State) : State := queueMod q (fun d => { d with reserved := d.reserved - n }) s

/-- Write bytes for a context where they belong: host memory takes nothing for a context that is torn down silently
(R489). -/
def putFor (c : Nat) (host : Bool) (a : Nat) (bs : List Byte) (ordered : Bool) (s : State) : State :=
  if host then (if (ctxGet s c).silent then s else hostStore (ctxGet s c).part c a bs ordered s) else devStore a bs s

/-- Write one record into the next slot of a ring, which was reserved for it. -/
def ringPut (q : Nat) (rec : List Byte) (s : State) : State :=
  let d := queueGet s q
  let s := match queueSlot s q d.pidx with
    | some (host, a) => putFor d.ctx host a rec false s
    | none => s
  queueMod q (fun d => { d with pidx := add32 d.pidx 1, reserved := d.reserved - 1 }) s

/-- Raise a ring's vector, at most once in 2 µs (R464). -/
def ringIrq (q : Nat) (s : State) : State :=
  let d := queueGet s q
  if !d.irqEn then s
  else if d.irqWait then queueMod q (fun d => { d with irqOwed := true }) s
  else raiseVector (partOfQueue s q) d.vector (queueMod q (fun d => { d with irqWait := true }) s)

/-- Publish a ring's producer index and raise its vector (R464, R494). -/
def ringPublish (q : Nat) (s : State) : State :=
  let d := queueGet s q
  let s :=
    if q = 1 then fset F.objAdminPidx_index 0 d.pidx s
    else match walk s d.ctx d.pidxVA with
      | .ok l => putFor d.ctx l.host (l.at d.pidxVA) (leBytes 8 d.pidx) true s
      | .error _ => s
  ringIrq q s

/-- A queue is destroyed: its descriptor becomes free and its object reference is dropped (R458). -/
def queueFree (q : Nat) (s : State) : State :=
  let d := queueGet s q
  let s := { s with queues := Map.erase s.queues q }
  match d.obj with
  | some r => refDrop r s
  | none => s

/-! ### Fences -/

/-- The fence's word in memory (R465). -/
def fenceWord (f : Fence) : Nat := f.value + (if f.abandoned then 2 ^ 63 else 0)

/-- Write a fence's word where it stands (R417, R465). -/
def fenceWrite (f : Fence) (s : State) : State := putFor f.ctx f.host f.addr (leBytes 8 (fenceWord f)) true s

/-- The largest fence value. -/
def fenceMax : Nat := 2 ^ 63 - 1

/-- Raise a fence (R467): the word is written only if VALUE changes; the signal that first reaches the maximum leaves a
record; a number not registered is dropped and logged. Waits are completed by the caller. -/
def fenceRaise (n v : Nat) (s : State) : State :=
  match Map.get? s.fences n with
  | none => logErr { code := 0x0A03, cls := clsInfo, detail := n } s
  | some f =>
    if v ≤ f.value then s
    else
      let f := { f with value := v }
      let s := fenceWrite f { s with fences := Map.set s.fences n f }
      if v = fenceMax then
        logErr { code := 0x0A02, cls := clsInfo, part := some (ctxGet s f.ctx).part, ctx := some f.ctx, detail := n } s
      else s

/-! ### Pins and host translations (R413 to R416, R484) -/

/-- The port's counts follow its cache (R444): entries whose page a pin holds, and the others. -/
def atcPinned (s : State) (e : Atc) : Bool :=
  s.pins.any fun n => n.part == e.part && n.host / 2 ^ e.log2 == e.page

/-- Set HOSTP_ATS of a port. -/
def setAts (port : Nat) (s : State) : State :=
  let mine := s.atc.filter fun e => e.port == port
  let k := (mine.filter (atcPinned s)).length
  fset F.hostpAts_pinned port k (fset F.hostpAts_cached port (mine.length - k) s)

/-- Entries no pin holds any longer are dropped from the cache (R484). -/
def dropUnpinned (p : Nat) (gone : List Pin) (s : State) : State :=
  let s := { s with atc := s.atc.filter fun e =>
    e.part != p || atcPinned s e || !(gone.any fun n => n.host / 2 ^ e.log2 == e.page) }
  setAts (boundPort s p) s

/-- Release the pins of a context's pages that satisfy `f`. -/
def unpinPages (c : Nat) (f : Nat → Bool) (s : State) : State :=
  let gone := s.pins.filter fun n => n.ctx == c && f n.page
  if gone.isEmpty then s
  else dropUnpinned (ctxGet s c).part gone { s with pins := s.pins.filter fun n => !(n.ctx == c && f n.page) }

/-- Mark every cached tile translation of a context's pages (R484). -/
def markTiles (c first last : Nat) (s : State) : State :=
  { s with tiles := Map.map s.tiles fun _ τ =>
      if τ.ctx = c then { τ with cache := τ.cache.map fun t =>
        if t.page ≤ last ∧ first < t.page + t.pages then { t with marked := true } else t } else τ }

end Sys2Proof.Machine
end

