-- ==== Sys2Proof/Machine/Griset.lean ====
section
/-! DEFINITION. Machine/Griset.lean: Griset commands from fetch to completion (R464, R469 to R475, R485): the opcode
table, the fetch, the checks every command meets, the completion record, and what lets waiting commands complete. -/
namespace Sys2Proof.Machine

/-! ### Packets and the opcode table (R469, R476) -/

/-- Read a packet. -/
def packetIn (b : List Byte) : Packet :=
  ⟨recAt b 0 2, recAt b 2 1, recAt b 3 1, recAt b 4 2, recAt b 6 2, recAt b 8 8, recAt b 16 8, recAt b 24 8, recAt b 32 8,
   recAt b 40 8, recAt b 48 8, recAt b 56 8⟩

/-- Parameter word k. -/
def Packet.word (p : Packet) : Nat → Nat
  | 1 => p.w1 | 2 => p.w2 | 3 => p.w3 | 4 => p.w4 | 5 => p.w5 | 6 => p.w6 | 7 => p.w7 | _ => 0

/-- BARRIER. -/
def Packet.barrierOn (p : Packet) : Bool := bitOn p.flags 0
/-- QUIET. -/
def Packet.quietOn (p : Packet) : Bool := bitOn p.flags 1

/-- What R476 says of an opcode: the sources it accepts (1 A, 2 F, 4 M, 8 T), its fields (word, lowest bit, width), and
whether it takes DATA. -/
structure OpInfo where
  srcs : Nat
  fields : List (Nat × Nat × Nat)
  data : Bool := false

/-- Sources F and M. -/
def srcFM : Nat := 6

/-- The opcode table of R476. -/
def opInfo : Nat → Option OpInfo
  | 0x0101 => some ⟨srcFM, [(1, 0, 16), (1, 16, 8), (1, 24, 11), (2, 0, 64), (3, 0, 64)], false⟩
  | 0x0102 => some ⟨srcFM, [(1, 0, 16)], false⟩
  | 0x0103 => some ⟨1, [(1, 0, 16)], false⟩
  | 0x0104 => some ⟨srcFM, [(1, 0, 16)], false⟩
  | 0x0105 => some ⟨srcFM, [(1, 0, 51)], false⟩
  | 0x0110 => some ⟨1, [(1, 0, 59), (2, 0, 64), (3, 0, 20), (4, 0, 64)], false⟩
  | 0x0111 => some ⟨1, [(1, 0, 20)], false⟩
  | 0x0112 => some ⟨1, [(1, 0, 20)], false⟩
  | 0x0120 => some ⟨srcFM, [(1, 0, 13), (2, 0, 64)], false⟩
  | 0x0121 => some ⟨1, [(1, 0, 36), (2, 0, 64), (3, 0, 64)], false⟩
  | 0x0122 => some ⟨1, [(1, 0, 20)], false⟩
  | 0x0123 => some ⟨1, [(1, 0, 20)], false⟩
  | 0x0130 => some ⟨1, [(1, 0, 64), (2, 0, 64)], false⟩
  | 0x0131 => some ⟨1, [(1, 0, 18)], false⟩
  | 0x0132 => some ⟨1, [(1, 0, 18)], false⟩
  | 0x0201 => some ⟨1, [(1, 0, 64), (2, 0, 64), (3, 0, 64), (4, 0, 4)], false⟩
  | 0x0202 => some ⟨1, [(1, 0, 64), (2, 0, 64), (3, 0, 64)], false⟩
  | 0x0203 => some ⟨1, [(1, 0, 16), (2, 0, 64), (3, 0, 64)], false⟩
  | 0x0204 => some ⟨1, [(1, 0, 64), (2, 0, 64)], false⟩
  | 0x0205 => some ⟨1, [(1, 0, 64), (2, 0, 64)], false⟩
  | 0x0206 => some ⟨srcFM, [(1, 0, 8)], false⟩
  | 0x0207 => some ⟨srcFM, [(1, 0, 64), (2, 0, 64)], false⟩
  | 0x0301 => some ⟨srcFM, [(1, 0, 8), (2, 0, 64)], false⟩
  | 0x0302 => some ⟨1, [(1, 0, 64), (2, 0, 27), (3, 0, 64)], false⟩
  | 0x0303 => some ⟨1, [(1, 0, 20), (2, 0, 36), (3, 0, 64), (4, 0, 64), (5, 0, 32)], false⟩
  | 0x0304 => some ⟨1, [(1, 0, 20), (2, 0, 32)], false⟩
  | 0x0305 => some ⟨1, [(1, 0, 20), (2, 0, 1)], false⟩
  | 0x0306 => some ⟨1, [(1, 0, 20)], false⟩
  | 0x0310 => some ⟨1, [(1, 0, 39), (2, 0, 64), (3, 0, 64)], false⟩
  | 0x0311 => some ⟨1, [(1, 0, 39), (2, 0, 64)], false⟩
  | 0x0312 => some ⟨1, [(1, 0, 40), (2, 0, 64), (3, 0, 64), (4, 0, 3)], false⟩
  | 0x0313 => some ⟨1, [(1, 0, 40), (2, 0, 64), (3, 0, 64), (4, 0, 4)], false⟩
  | 0x0320 => some ⟨9, [(1, 0, 18), (2, 0, 63)], false⟩
  | 0x0321 => some ⟨1, [(1, 0, 18), (2, 0, 63), (3, 0, 64)], false⟩
  | 0x0401 => some ⟨srcFM, [], false⟩
  | 0x0402 => some ⟨srcFM, [], false⟩
  | 0x0403 => some ⟨srcFM, [(1, 0, 6)], false⟩
  | 0x0404 => some ⟨srcFM, [], false⟩
  | 0x0405 => some ⟨srcFM, [(1, 0, 64)], false⟩
  | 0x0406 => some ⟨srcFM, [(1, 0, 64)], false⟩
  | 0x0501 => some ⟨srcFM, [], true⟩
  | 0x0502 => some ⟨srcFM, [], true⟩
  | 0x0503 => some ⟨4, [], true⟩
  | 0x0504 => some ⟨4, [], true⟩
  | 0x0505 => some ⟨4, [], true⟩
  | 0x0506 => some ⟨4, [(1, 0, 2)], false⟩
  | 0x0507 => some ⟨srcFM, [(1, 0, 10)], false⟩
  | 0x0508 => some ⟨srcFM, [(1, 0, 64)], true⟩
  | 0x0601 => some ⟨4, [(1, 0, 64)], true⟩
  | 0x0602 => some ⟨4, [], false⟩
  | 0x0603 => some ⟨srcFM, [(1, 0, 10)], false⟩
  | 0x0604 => some ⟨srcFM, [(1, 0, 16)], false⟩
  | 0x0605 => some ⟨srcFM, [(1, 0, 13)], true⟩
  | 0x0606 => some ⟨4, [], true⟩
  | 0x0607 => some ⟨4, [], false⟩
  | 0x0608 => some ⟨srcFM, [(1, 0, 1)], false⟩
  | 0x0701 => some ⟨srcFM, [(1, 0, 64), (2, 0, 64)], false⟩
  | 0x0702 => some ⟨srcFM, [], false⟩
  | 0x0703 => some ⟨srcFM, [(1, 0, 16)], false⟩
  | 0x0704 => some ⟨srcFM, [(1, 0, 4)], true⟩
  | _ => none

/-- Does the opcode take bytes by an OREF in W6 with a count in W7 from this source (R475). -/
def OpInfo.hostData (i : OpInfo) (src : CmdSrc) : Bool := i.data && src != .mgmt

/-- The parameter length: eight bytes for each word up to the last one the opcode uses from this source (log entry 40). -/
def OpInfo.length (i : OpInfo) (src : CmdSrc) : Nat :=
  if i.hostData src then 56 else 8 * ((i.fields.map fun f => f.1).foldl max 0)

/-- The words that hold an OREF (R476). -/
def orefWords (p : Packet) (hostData : Bool) : List Nat :=
  (match p.opcode with
    | 0x0110 => if bitsAt p.w1 20 3 ≥ 3 then [2, 4] else [2]
    | 0x0130 | 0x0202 | 0x0204 | 0x0205 | 0x0207 | 0x0302 | 0x0508 => [1]
    | 0x0201 => [1, 2]
    | 0x0310 | 0x0312 | 0x0313 => [3]
    | _ => []) ++ (if hostData then [6] else [])

/-- A word without the bits the opcode uses. -/
def stray (i : OpInfo) (p : Packet) (hostData : Bool) (k : Nat) : Nat :=
  if hostData && (k == 6 || k == 7) then 0
  else i.fields.foldl (fun w f => if f.1 = k then putBits w f.2.1 f.2.2 0 else w) (p.word k)

/-! ### Where a command comes from (R472, R485) -/

/-- The context of the queue a command came from; the management port acts as context 0. -/
def srcCtx (s : State) : CmdSrc → Nat
  | .queue q => (queueGet s q).ctx
  | .mgmt => 0

/-- The partition of the queue a command came from. -/
def srcPart (s : State) (c : Cmd) : Nat := (ctxGet s (srcCtx s c.src)).part

/-- Does the command come from source F: a queue of partition 0, in strict mode of context 0 only. -/
def fromF (s : State) (c : Cmd) : Bool := match c.src with
  | .queue _ => srcPart s c == 0 && (!c.strict || srcCtx s c.src == 0)
  | .mgmt => false

/-- Source F or M: the command may name items of any partition. -/
def wide (s : State) (c : Cmd) : Bool := c.src == .mgmt || fromF s c

/-- Does the opcode accept the command's source; CTX_QUERY of a FREE context is taken from any source (R476). -/
def srcOk (s : State) (c : Cmd) (i : OpInfo) : Bool := (c.pkt.opcode == 0x0103 && (ctxGet s (bitsAt c.pkt.w1 0 16)).state == .free)
  || match c.src with
  | .mgmt => bitOn i.srcs 2
  | .queue _ => bitOn i.srcs 0 || (bitOn i.srcs 1 && fromF s c)

/-- May the command act for its CONTEXT (R472, R485). -/
def ctxFieldOk (s : State) (c : Cmd) : Bool :=
  let q := srcCtx s c.src
  let x := ctxGet s c.pkt.ctx
  let samePart := x.state != .free && x.part == srcPart s c
  if c.src == .mgmt then true
  else if c.strict then q == 0 || c.pkt.ctx == q
  else wide s c || samePart

/-- May the command name an item that context `x` owns (R472, R485). -/
def mayName (s : State) (c : Cmd) (x : Nat) : Bool :=
  if c.strict then x == c.pkt.ctx
  else wide s c || (ctxGet s x).part == srcPart s c

/-- The opcodes that R521 keeps from sources F and M for a confidential partition. -/
def tenantOnly (op : Nat) : Bool :=
  [0x0201, 0x0202, 0x0204, 0x0302, 0x0303, 0x0304, 0x0305, 0x0310, 0x0311, 0x0312, 0x0313, 0x0130, 0x0320, 0x0131].contains op

/-- The contexts of what a command names beside its CONTEXT: a queue or a fence in W1. -/
def namedCtx (s : State) (p : Packet) : List Nat :=
  match p.opcode with
  | 0x0303 | 0x0304 | 0x0305 | 0x0310 | 0x0311 | 0x0312 | 0x0313 => [(queueGet s (bitsAt p.w1 0 20)).ctx]
  | 0x0320 | 0x0131 => match Map.get? s.fences (bitsAt p.w1 0 18) with
    | some f => [f.ctx]
    | none => []
  | _ => []

/-- Does R521 turn the command away. -/
def tenantRefused (s : State) (c : Cmd) : Bool :=
  wide s c && tenantOnly c.pkt.opcode
    && ((c.pkt.ctx :: namedCtx s c.pkt).any fun x => confidential s (ctxGet s x).part)

/-- The checks every command meets, in the order of the model's choice (log entry 42): opcode, source, readiness, packet form, what
its fetch fixed, its queue's context, its CONTEXT and R521. -/
def precheck (s : State) (c : Cmd) : Option Nat :=
  match opInfo c.pkt.opcode with
  | none => some 0x01
  | some i =>
    let hd := i.hostData c.src
    let st := (ctxGet s (srcCtx s c.src)).state
    if !srcOk s c i then some 0x04
    else if !hubReady s && (if c.src == .mgmt then [1, 2, 3, 4, 7].contains (c.pkt.opcode / 256) else c.pkt.opcode / 256 != 6) then some 0x0E
    else if c.pkt.length ≠ i.length c.src ∨ c.pkt.flags ≥ 4 ∨ (List.range 7).any (fun k => stray i c.pkt hd (k + 1) != 0) then
      some 0x02
    else if c.fail.isSome then c.fail
    else if c.src != .mgmt && (st == .faulted || st == .dying) then some 0x07
    else if !ctxFieldOk s c || tenantRefused s c then some 0x04
    else none

/-! ### Completion (R464, R470, R473, R475) -/

/-- The 32 bytes of a completion record. -/
def cplBytes (p : Packet) (st q idx d0 d1 : Nat) : List Byte :=
  leBytes 2 p.opcode ++ leBytes 2 st ++ leBytes 2 p.ctx ++ leBytes 2 p.tag ++ leBytes 4 q ++ leBytes 4 idx
    ++ leBytes 8 d0 ++ leBytes 8 d1

/-- Result data go to the OREF of W6 (R475). -/
def dataOut (c : Cmd) (data : List Byte) (s : State) : State :=
  match orefRange s (ctxGet s c.pkt.ctx).part c.pkt.w6 data.length with
  | .ok (x, va) => vaWrite x va data s
  | .error _ => s

/-- Complete a command: result data, its record (none for QUIET and OK), and its references dropped. -/
def completeRaw (c : Cmd) (st d0 d1 : Nat) (data : List Byte) (s : State) : State :=
  let s := { s with cmds := s.cmds.filter (·.id != c.id) }
  let s := if st = 0x0D then logRefused 0x0B01 none (fbump F.secAuthFails_count 0 1 s) else s
  let s := match c.src with
    | .mgmt =>
      let s := fset F.mgmtStatus_queued 0 (fget s F.mgmtStatus_queued 0 - 1) s
      emit .mgmt 0x01 [c.index, c.pkt.opcode, st, c.pkt.tag, d0, d1] (cplBytes c.pkt st 0 0 d0 d1 ++ data) s
    | .queue q =>
      let ring := (queueGet s q).cplRing
      let s := if data.isEmpty then s else dataOut c data s
      if (queueGet s ring).kind ≠ 3 then s
      else if st = 0 ∧ c.pkt.quietOn then ringReturn ring 1 s
      else ringPublish ring (ringPut ring (cplBytes c.pkt st q c.index d0 d1) s)
  c.refs.foldl (fun s r => refDrop r s) s

/-- Can a command start now (R468, R473, R562): it is the next of its queue, no wait of its queue is open, and with BARRIER, or on
the management port, every earlier one has completed. -/
def startable (s : State) (c : Cmd) : Bool :=
  let earlier := (s.cmds.filter (·.src == c.src)).takeWhile (·.id != c.id)
  earlier.all (fun e => e.step != .waiting && (match e.step with | .fence _ => false | _ => true))
    && ((!c.pkt.barrierOn && c.src != .mgmt) || earlier.isEmpty)

/-- Change what a command waits for. -/
def setStep (id : Nat) (st : CmdStep) (s : State) : State :=
  { s with cmds := s.cmds.map fun c => if c.id = id then { c with step := st } else c }

/-- Remember what a running command has gathered. -/
def setAux (id : Nat) (a : List Nat) (s : State) : State :=
  { s with cmds := s.cmds.map fun c => if c.id = id then { c with aux := a } else c }

/-- Has a tick that admitted session queue `q` still a decision, an owed replay or a drain to come (R476). -/
def queueInTick (s : State) (p q : Nat) : Bool :=
  let w := partGet s p
  ((w.live || w.undecided || w.replayOwed) && w.entries.any (·.queue == q)) || w.drains.any (·.chains.contains q)

/-- May QUEUE_DESTROY of `q` complete. -/
def queueDone (s : State) (me q : Nat) : Bool :=
  !(s.cmds.any fun c => c.src == .queue q && c.id != me) && !queueInTick s (partOfQueue s q) q

/-- Has a queue fetched up to a recorded index, or gone (R459). -/
def fetchedTo (s : State) (m : Nat × Nat) : Bool :=
  let d := queueGet s m.1
  d.kind != 2 || (let k := diff32 m.2 d.cidx
                  k == 0 || decide (k > 2 ^ d.log2))

/-- A command that can complete by itself now: the status, D0 and the state it leaves. -/
def autoDone (s : State) (c : Cmd) : Option (Nat × Nat × State) :=
  match c.step with
  | .waiting => if (opInfo c.pkt.opcode).isNone && startable s c then some (c.fail.getD 0x01, 0, s) else none
  | .fence _ => match Map.get? s.fences (bitsAt c.pkt.w1 0 18) with
    | some f =>
      if f.value ≥ bitsAt c.pkt.w2 0 63 then some (0, fenceWord f, s)
      else if f.abandoned then some (0x10, fenceWord f, s) else none
    | none => none
  | .queueEnd q => if queueDone s c.id q then some (0, 0, queueFree q s) else none
  | .release p o marks =>
    if marks.all (fetchedTo s) then
      match objGet s p o with
      | some e => if e.dref = 0 then some (0, 0, objPut p o { e with state := 0 } s) else none
      | none => some (0, 0, s)
    else none
  | .releasing p o => match objGet s p o with
    | some e => if e.state = 0 then some (0, 0, s) else none
    | none => some (0, 0, s)
  | .reset bays slices =>
    let held := fun i => match Map.get? s.slices i with
      | some v => !v.dir.isEmpty || !v.txns.isEmpty
      | none => false
    if bays.any s.netReset.contains || !s.otpJobs.isEmpty || slices.any held then none
    else some (0, 0, { s with slices := s.slices.filter fun e => !slices.contains e.1 })
  | _ => none

/-- OBJ_RELEASE drops the driver's reference once every queue has fetched up to its mark (R459). -/
def markReleasing (s : State) : State :=
  s.cmds.foldl (fun s c => match c.step with
    | .release p o marks =>
      if marks.all (fetchedTo s) then
        match objGet s p o with
        | some e =>
          if e.dref = 0 then s
          else setStep c.id (.releasing p o) (objPut p o { e with href := 0, state := 2 } s)
        | none => s
      else s
    | _ => s) s

/-- Complete, one after another, the commands that can complete by themselves. -/
def sweepN : Nat → State → State
  | 0, s => s
  | fuel + 1, s =>
    let s := markReleasing s
    match s.cmds.findSome? (fun c => (autoDone s c).map fun r => (c, r)) with
    | none => s
    | some (c, st, d0, s') => sweepN fuel (completeRaw c st d0 0 [] s')

/-- Let every waiting command that can complete now do so. -/
def sweep (s : State) : State := sweepN (s.cmds.length + 1) s

/-- Complete a command, and what its completion lets complete. -/
def finish (c : Cmd) (st d0 d1 : Nat) (data : List Byte) (s : State) : State := sweep (completeRaw c st d0 d1 data s)

/-! ### Fetch (R450, R458, R464, R473, R486) -/

/-- The bytes an OREF word of a command names. -/
def orefLen (s : State) (part : Nat) (p : Packet) (k : Nat) : Nat :=
  match p.opcode, k with
  | 0x0110, 2 => 2 ^ bitsAt p.w1 23 5 * entryBytes (bitsAt p.w1 20 3)
  | 0x0110, _ => 8
  | 0x0130, 1 => 8
  | 0x0201, _ => p.w3
  | 0x0202, 1 | 0x0204, 1 | 0x0205, 1 => p.w2
  | 0x0207, 1 => orefRoom s part p.w1
  | 0x0302, 1 => 64
  | 0x0508, 1 => 64
  | 0x0310, 3 => 8 * (bitsAt p.w1 28 8 + 1 - bitsAt p.w1 20 8) * bitsAt p.w2 32 32
  | 0x0312, 3 | 0x0313, 3 => 8
  | _, 6 => p.w7
  | _, _ => 1

/-- Why a fetched command's references cannot be taken, if so (R457, R458, R485): an object takes one for each OREF that names it.
FENCE_CREATE for context 0 is BAD_PARAM whatever it names (R476). -/
def refFail (s : State) (strict : Bool) (p : Packet) (words : List Nat) : Option Nat :=
  let part := (ctxGet s p.ctx).part
  if p.opcode = 0x0130 ∧ p.ctx = 0 then some 0x02
  else words.findSome? fun k =>
    let w := p.word k
    match objGet s part (orefNum w) with
    | none => some 0x02
    | some e =>
      if objLost s part (orefNum w) then some 0x0B
      else if e.state ≠ 1 then some 0x08
      else if e.dref + (words.filter fun j => orefNum (p.word j) == orefNum w).length > 0xFFFFFFFF then some 0x03
      else if strict && (e.ctx != p.ctx || decide (orefOffset w + orefLen s part p k > e.size)
          || !vaMapped s e.ctx (e.base + orefOffset w) (orefLen s part p k)) then some 0x04
      else none

/-- Enter a packet as a waiting command: the mode in force and the references are taken now (R458, R486). -/
def enterCmd (src : CmdSrc) (index : Nat) (p : Packet) (payload : List Byte) (fail : Option Nat) (s : State) : State :=
  let hd := match opInfo p.opcode with | some i => i.hostData src | none => false
  let strict := strictMode s
  let words := orefWords p hd
  let fail := if fail.isSome then fail else refFail s strict p words
  let s := if fail = some 0x0B then words.foldl (fun s k => objMet (ctxGet s p.ctx).part (orefNum (p.word k)) s) s else s
  let refs := if fail.isSome then [] else words.map fun k => ((ctxGet s p.ctx).part, orefNum (p.word k))
  let c : Cmd := { id := s.nextCmd, src := src, index := index, pkt := p, payload := payload, refs := refs, strict := strict, fail := fail }
  let s := refs.foldl (fun s r => refTake r s) s
  { s with cmds := s.cmds ++ [c], nextCmd := s.nextCmd + 1 }

/-- May queue `q` fetch a command: it is an active command queue with an entry, its context is ACTIVE, and its
completion ring has a free slot (R450, R464). -/
def canFetch (s : State) (q : Nat) : Bool :=
  let d := queueGet s q
  d.kind == 2 && d.state == 1 && d.pidx != d.cidx && (ctxGet s d.ctx).state == .active
    && (queueGet s d.cplRing).kind == 3 && decide (ringFree s d.cplRing ≥ 1)

/-- COMMAND_FETCH (R464, R473): one command leaves the queue, a completion slot is reserved, references are taken. A
command that cannot be read completes with MEM_ERROR. -/
def execCommandFetch (queue : Nat) (s : State) : Result :=
  .next (
    if !canFetch s queue then s
    else
      let d := queueGet s queue
      let (bs, fail) : List Byte × Option Nat := match queueSlot s queue d.cidx with
        | some (false, a) => if lostSector s a 64 then (List.replicate 64 0, some 0x0B) else (memRead s a 64, none)
        | _ => (List.replicate 64 0, some 0x0B)
      let s := match queueSlot s queue d.cidx with
        | some (false, a) => lostMet a 64 s
        | _ => s
      let s := queueMod queue (fun d => { d with cidx := add32 d.cidx 1 }) (ringReserve d.cplRing 1 s)
      sweep (enterCmd (.queue queue) d.cidx (packetIn bs) [] fail s))

/-! ### Running a command -/

/-- How a command's start ends: it completes with a status, results and data, or it goes on waiting. -/
inductive Done where
  | done (st d0 d1 : Nat) (data : List Byte)
  | wait (step : CmdStep)
  deriving DecidableEq, Repr

/-- Completed with a status and no result. -/
def Done.st (n : Nat) : Done := .done n 0 0 []

/-- Settle a command's start. -/
def settle (c : Cmd) (r : Done × State) : State :=
  match r.1 with
  | .done st d0 d1 data => finish c st d0 d1 data r.2
  | .wait step => sweep (setStep c.id step r.2)

/-- Start command `id` where it is a waiting command of the opcode that `sel` accepts and its turn has come: the checks
of every command first, then the opcode's own meaning. -/
def startCmd (op : Nat) (sel : Packet → Bool) (h : Cmd → State → Done × State) (id : Nat) (s : State) : State :=
  match s.cmds.find? (·.id == id) with
  | none => s
  | some c =>
    if c.pkt.opcode ≠ op ∨ !sel c.pkt ∨ c.step ≠ .waiting ∨ !startable s c then s
    else match precheck s c with
      | some st => finish c st 0 0 [] s
      | none => settle c (h c s)

/-- Start a command of an opcode. -/
def startOp (op : Nat) (h : Cmd → State → Done × State) (id : Nat) (s : State) : State := startCmd op (fun _ => true) h id s

/-- Carry on a running command of the opcodes listed. -/
def onRunning (f : Cmd → State → State) (id : Nat) (s : State) : State :=
  match s.cmds.find? (·.id == id) with
  | some c => f c s
  | none => s

/-- The DATA of a command (R475): its payload on the management port, the bytes of W6 and W7 on a host queue. -/
def dataIn (s : State) (c : Cmd) (host : List Byte) : Except Nat (List Byte) :=
  if c.src == .mgmt then .ok c.payload
  else match orefRange s (ctxGet s c.pkt.ctx).part c.pkt.w6 c.pkt.w7 with
    | .error e => .error e
    | .ok (x, va) => vaRead s x (piecesOf va c.pkt.w7) host

/-- What a failed read of a command's DATA leaves. -/
def dataFailed (c : Cmd) (s : State) : State := match orefRange s (ctxGet s c.pkt.ctx).part c.pkt.w6 c.pkt.w7 with
  | .error _ => s
  | .ok (x, va) => if c.src == .mgmt then s else vaFailed x (piecesOf va c.pkt.w7) s

/-- Bytes a command may return as DATA: 4,096 on the management port, the count of W7 on a host queue (R475). -/
def dataRoom (c : Cmd) : Nat := if c.src == .mgmt then 4096 else c.pkt.w7

end Sys2Proof.Machine
end

