-- ==== Sys2Proof/Machine/GrisetObj.lean ====
section
/-! DEFINITION. Machine/GrisetObj.lean: doorbells (R407, R463), the admin queues (R493), and the commands of group 0x01
that create, query and end contexts, queues, objects and fences (R449, R456 to R468, R476, R488), with the fence
commands of group 0x03. -/
namespace Sys2Proof.Machine

/-! ### Doorbells -/

/-- A dropped doorbell is counted and leaves a record (R463, R576). -/
def doorbellDrop (fn : Nat) (s : State) : State := logRefused 0x0810 (some fn) (fbump F.objDbDrops_count 0 1 s)

/-- A doorbell of value `v` on queue `q` (R463): the new producer index of a session or command queue, the new consumer
index of a ring; a valid one on a session queue sets its ready bit (R189). -/
def doorbellQueue (fn q v : Nat) (s : State) : State :=
  let d := queueGet s q
  if v ≥ 2 ^ 32 ∨ d.state ≠ 1 ∨ (ctxGet s d.ctx).state = .dying then doorbellDrop fn s
  else if d.kind ≤ 2 then
    if diff32 v d.cidx < diff32 d.pidx d.cidx ∨ 2 ^ d.log2 < diff32 v d.cidx then doorbellDrop fn s
    else
      let s := queueMod q (fun d => { d with pidx := v }) s
      if d.kind = 1 ∧ !s.ready.contains q then { s with ready := q :: s.ready } else s
  else if diff32 d.pidx d.cidx < diff32 v d.cidx then doorbellDrop fn s
  else queueMod q (fun d => { d with cidx := v }) s

/-- The doorbell page of a function's BAR2 page, as a PF page number (R407). -/
def doorbellPage (s : State) (fn page : Nat) : Option Nat :=
  if fn = 0 then (if page < 1048576 then some page else none)
  else if page < fget s F.hostfBind_dbCount fn then some (fget s F.hostfBind_dbFirst fn + page) else none

/-- DOORBELL (R407, R410, R418, R463, R485): a write of `size` bytes at byte `off` of BAR2 of function `fn`, received on
host port `port`; `ide` that it came in the function's selective stream (R515). -/
def execDoorbell (port fn off size : Nat) (ide : Bool) (v : Word) (s : State) : Result :=
  .next (
    if fon s F.hostpPortStatus_contained port || inD3 s port fn then s
    else if fget s F.partSec_tdisp fn = 2 ∧ !ide then logRefused 0x0B03 (some fn) s
    else if !hubReady s then fbump F.objDbDrops_count 0 1 s
    else if !fon s F.hostpDbpt_enable 0 ∨ size ≠ 8 ∨ off % 8 ≠ 0 then doorbellDrop fn s
    else match doorbellPage s fn (off / 4096) with
      | none => doorbellDrop fn s
      | some d =>
        let s := lostMet (fget s F.hostpDbpt_base 0 * 65536 + d * 8) 8 s
        let e := if lostSector s (fget s F.hostpDbpt_base 0 * 65536 + d * 8) 8 then 0 else memNat s (fget s F.hostpDbpt_base 0 * 65536 + d * 8) 8
        let q := bitsAt e 17 11 * 512 + off % 4096 / 8
        if !bitOn e 0 ∨ bitsAt e 28 8 ≠ fn ∨ (strictMode s ∧ (queueGet s q).ctx ≠ bitsAt e 1 16) then doorbellDrop fn s
        else doorbellQueue fn q v.toNat s)

/-! ### Admin queues (R493) -/

/-- The queue descriptor that an OBJ_ADMIN register describes. -/
def adminQueue (s : State) (q : Nat) : QDesc :=
  if q = 0 then { kind := 2, log2 := fget s F.objAdminCmd_log2 0, state := 1, cplRing := 1,
                  baseVA := fget s F.objAdminCmd_base 0 * 4096 }
  else { kind := 3, log2 := fget s F.objAdminCpl_log2 0, state := 1, irqEn := fon s F.objAdminCpl_irqEn 0,
         vector := fget s F.objAdminCpl_vector 0, baseVA := fget s F.objAdminCpl_base 0 * 4096 }

/-- Does an admin queue's placement obey R493: LOG2 from 4 to 16, in memory of partition 0. -/
def adminOk (s : State) (d : QDesc) : Bool :=
  decide (4 ≤ d.log2 ∧ d.log2 ≤ 16) && inPart s 0 d.baseVA (2 ^ d.log2 * entryBytes d.kind)

/-- A write of OBJ_ADMIN_CMD (`q` = 0) or OBJ_ADMIN_CPL (`q` = 1) (R493). -/
def adminWrite (q : Nat) (v : Word) (s : State) : State :=
  let r : RegName := if q = 0 then .objAdminCmd else .objAdminCpl
  let en : Fld := if q = 0 then F.objAdminCmd_enable else F.objAdminCpl_enable
  if fon s en 0 then
    if bitOn v.toNat 0 then s
    else { (fset en 0 0 s) with queues := Map.erase s.queues q }
  else
    let keep := if q = 0 then [F.objAdminCmd_log2, F.objAdminCmd_base]
      else [F.objAdminCpl_log2, F.objAdminCpl_base, F.objAdminCpl_vector, F.objAdminCpl_irqEn]
    let s := keep.foldl (fun s f => fset f 0 (bitsAt v.toNat f.lo f.w) s) (rset s r 0 (rget s r 0))
    if bitOn v.toNat 0 && adminOk s (adminQueue s q) then
      let s := fset en 0 1 s
      let s := if q = 1 then fset F.objAdminPidx_index 0 0 s else s
      queueSet q (adminQueue s q) s
    else s

/-- OBJ_ADMIN_ENABLE (R493). -/
def execObjAdminEnable (queue : Nat) (v : Word) (s : State) : Result := .next (if queue < 2 then adminWrite queue v s else s)

/-! ### Contexts -/

/-- Is a vector one of the function's: 2,048 on the PF, 64 on a VF (R461). -/
def vectorOk (p v : Nat) : Bool := decide (v < (if p = 0 then 2048 else 64))

/-- CTX_CREATE (R449, R476). -/
def doCtxCreate (c : Cmd) (s : State) : Done × State :=
  let x := bitsAt c.pkt.w1 0 16
  let p := bitsAt c.pkt.w1 16 8
  let vec := bitsAt c.pkt.w1 24 11
  let root := c.pkt.w2
  let fq := c.pkt.w3
  if !vectorOk p vec ∨ root % 4096 ≠ 0 ∨ fq % 2048 ≠ 0 then (.st 0x02, s)
  else if (ctxGet s x).state ≠ .free then (.st 0x03, s)
  else if !inPart s p root 4096 ∨ !inPart s p fq 2048 then (.st 0x04, s)
  else (.st 0, ctxSet x { state := .active, part := p, root := root, faultQ := fq, vector := vec } s)

/-- CTX_CREATE. -/
def execCtxCreate (cmd : Nat) (s : State) : Result := .next (startOp 0x0101 doCtxCreate cmd s)

/-- Does a command belong to a context's queues. -/
def ofContext (s : State) (x : Nat) (c : Cmd) : Bool := match c.src with
  | .queue q => (queueGet s q).ctx == x
  | .mgmt => false

/-- Does a started command end at once when its context begins to die: a parked or stalled mover transfer, one that
waits for a host translation, or a FENCE_WAIT (R488 step 2). -/
def endsAtTeardown : CmdStep → Bool
  | .parked _ _ | .stalled _ _ _ _ | .ats | .fence _ => true
  | _ => false

/-- Teardown begins (R488 steps 1 and 2). `silent` says that nothing is written to host memory (R489). -/
def teardownStart (x : Nat) (silent : Bool) (s : State) : State :=
  let s := ctxMod x (fun k => { k with state := .dying, teardown := s.edges, silent := silent }) s
  let dead := s.cmds.filter fun c => ofContext s x c && endsAtTeardown c.step
  dead.foldl (fun s c => completeRaw c 0x09 0 0 [] s) s

/-- CTX_DESTROY (R449, R476, R488). -/
def doCtxDestroy (c : Cmd) (s : State) : Done × State :=
  let x := bitsAt c.pkt.w1 0 16
  let st := (ctxGet s x).state
  if x = 0 then (.st 0x02, s)
  else if st = .free then (.st 0x08, s)
  else if st = .dying then (.st 0x0A, s)
  else (.wait (.teardown x), teardownStart x false s)

/-- CTX_DESTROY. -/
def execCtxDestroy (cmd : Nat) (s : State) : Result := .next (startOp 0x0102 doCtxDestroy cmd s)

/-- Does a partition still hold work of a context: an undecided tick begun before its teardown, or a commit drain of a tick
that has effects of it (R488 steps 3 to 5). -/
def contextBusy (s : State) (x : Nat) : Bool :=
  let k := ctxGet s x
  let w := partGet s k.part
  (w.live && decide (s.edges ≤ k.teardown)) || w.undecided
    || w.drains.any (fun d => d.todo.any (·.ctx == x) || d.egress.any (·.ctx == x) || d.rings.any (·.ctx == x)
        || d.fences.any (fun f => f.1 == x) || d.chains.any (fun q => (queueGet s q).ctx == x))
    || s.cmds.any fun c => ofContext s x c && (match c.step with
      | .running | .edge => true
      | .kvMove .. => w.enabled && !fon s F.partStatus_faulted k.part
      | _ => false)

/-- What is left of a context's commands when its queues go (R471, R488): those not started never will be, the others are aborted. -/
def abortLeft (x : Nat) (s : State) : State :=
  (s.cmds.filter fun c => ofContext s x c && c.step != .teardown x).foldl (fun s c =>
    completeRaw c (if c.step = .waiting then 0x07 else 0x09) 0 0 [] s) s

/-- Object numbers of a partition's table. -/
def tableSize (s : State) (p : Nat) : Nat := match (partGet s p).table with
  | some (_, log2) => 2 ^ log2
  | none => 0

/-- Drop the driver's reference of every object of a context (R488 step 8). -/
def dropObjects (x : Nat) (s : State) : State :=
  let p := (ctxGet s x).part
  (List.range (tableSize s p)).foldl (fun s n => match objGet s p n with
    | some e => if e.state ≠ 0 ∧ e.ctx = x then
        objPut p n { e with href := 0, state := if e.dref = 0 then 0 else 2 } s else s
    | none => s) s

/-- Objects of a context still RELEASING. -/
def leftReleasing (s : State) (x : Nat) : Nat :=
  let p := (ctxGet s x).part
  ((List.range (tableSize s p)).filter fun n => match objGet s p n with
    | some e => e.state == 2 && e.ctx == x
    | none => false).length

/-- Teardown steps 6 to 9 (R488). -/
def teardownEnd (x : Nat) (s : State) : State :=
  let mine := (s.fences.filter fun f => f.2.ctx == x).map (·.1)
  let s := mine.foldl (fun s n => match Map.get? s.fences n with
    | some f => fenceWrite { f with abandoned := true } { s with fences := Map.set s.fences n { f with abandoned := true } }
    | none => s) s
  let s := sweep s
  let s := mine.foldl (fun s n => match Map.get? s.fences n with
    | some f => refDrop f.obj { s with fences := Map.erase s.fences n }
    | none => s) s
  let s := abortLeft x (unpinPages x (fun _ => true) (markTiles x 0 (2 ^ 41) s))
  let s := (s.queues.filter fun q => q.2.ctx == x && decide (q.1 ≥ 2)).foldl (fun s q => queueFree q.1 s) s
  let s := dropObjects x s
  let left := leftReleasing s x
  let s := ctxSet x {} s
  match s.cmds.find? (·.step == .teardown x) with
  | some c => finish c 0 left 0 [] s
  | none => sweep s

/-- CTX_TEARDOWN_END (R488): the drains have ended and the context becomes FREE. -/
def execCtxTeardownEnd (ctx : Nat) (s : State) : Result :=
  .next (if (ctxGet s ctx).state = .dying ∧ ctx ≠ 0 ∧ !contextBusy s ctx then teardownEnd ctx s else s)

/-- The state code of R476. -/
def CtxState.code : CtxState → Nat
  | .free => 0 | .active => 1 | .faulted => 2 | .dying => 3

/-- CTX_QUERY (R476). -/
def doCtxQuery (c : Cmd) (s : State) : Done × State :=
  let k := ctxGet s (bitsAt c.pkt.w1 0 16)
  if k.state = .free then (.st 0, s)
  else
    let d0 := k.state.code + placed 2 8 k.part + placed 10 8 k.lastReason + placed 32 32 k.lastTick
    let d1 := k.ovfCount + placed 32 1 (bit01 k.ovf) + placed 33 7 (k.awaiting.filter fun r => !r.answered).length
    (.done 0 d0 d1 [], s)

/-- CTX_QUERY. -/
def execCtxQuery (cmd : Nat) (s : State) : Result := .next (startOp 0x0103 doCtxQuery cmd s)

/-! ### Queues -/

/-- Can an object's DREF take no further use (R456, R471). -/
def objFull (s : State) (p n : Nat) : Bool := match objGet s p n with
  | some e => decide (e.dref ≥ 0xFFFFFFFF)
  | none => false

/-- The tick record that places a partition's queues. -/
def queueRange (s : State) (p q : Nat) : Bool := match (partGet s p).offered with
  | some r => decide (r.queueFirst ≤ q ∧ q < r.queueFirst + r.queueCount)
  | none => false

/-- Is every page of a queue mapped and pinned, all of one kind (R462): `some true` in host memory with a pinned host
translation, `some false` in device memory. -/
def queuePages (s : State) (x va n : Nat) : Option Bool :=
  let kinds := (piecesOf va n).map fun q => match walk s x q.1 with
    | .ok l =>
      let a := l.at q.1
      if !l.pinned then none
      else if l.host then (if hostPinned s (ctxGet s x).part a then some true else none)
      else some false
    | .error _ => none
  match kinds with
  | [] => none
  | k :: ks => if k.isSome && ks.all (· == k) then k else none

/-- What QUEUE_CREATE asks of the ring that a command queue names: an ACTIVE completion ring of the partition; in strict
mode of the same context (R476). -/
def cplRingFail (s : State) (c : Cmd) (x ring : Nat) : Option Nat :=
  let d := queueGet s ring
  if d.kind ≠ 3 ∨ d.state ≠ 1 ∨ (ctxGet s d.ctx).part ≠ (ctxGet s x).part then some 0x02
  else if c.strict && d.ctx != x then some 0x04 else none

/-- QUEUE_CREATE (R460 to R462, R476). -/
def doQueueCreate (c : Cmd) (s : State) : Done × State :=
  let w := c.pkt.w1
  let q := bitsAt w 0 20
  let kind := bitsAt w 20 3
  let log2 := bitsAt w 23 5
  let x := bitsAt w 43 16
  let k := ctxGet s x
  let p := k.part
  let size := 2 ^ log2 * entryBytes kind
  let ring := c.pkt.w3
  if q < 2 ∨ x = 0 ∨ kind = 0 ∨ 4 < kind ∨ log2 < 4 ∨ 16 < log2 then (.st 0x02, s)
  else if k.state = .free then (.st 0x08, s)
  else if !mayName s c x then (.st 0x04, s)
  else if k.state = .dying then (.st 0x0A, s)
  else if (queueGet s q).kind ≠ 0 then (.st 0x03, s)
  else if !queueRange s p q ∨ !vectorOk p (bitsAt w 29 11) ∨ (kind ≠ 2 ∧ ring ≠ 0) ∨ (kind ≤ 2 ∧ c.pkt.w4 ≠ 0) then (.st 0x02, s)
  else
    let tp := (ctxGet s c.pkt.ctx).part
    match (if kind = 2 then cplRingFail s c x ring else none) with
    | some st => (.st st, s)
    | none =>
      match orefRange s tp c.pkt.w2 size, (if kind ≥ 3 then orefRange s tp c.pkt.w4 8 else .ok (x, 0)) with
      | .error e, _ => (.st e, s)
      | _, .error e => (.st e, s)
      | .ok (bx, base), .ok (wx, word) =>
        if bx ≠ x ∨ wx ≠ x ∨ base % min size 65536 ≠ 0 ∨ (kind ≥ 3 ∧ (word % 8 ≠ 0 ∨ !vaWritable s x word 8)) then (.st 0x02, s)
        else match queuePages s x base size with
          | none => (.st 0x02, s)
          | some host =>
            if host && decide (kind ≤ 2) then (.st 0x02, s)
            else
              let obj := (tp, orefNum c.pkt.w2)
              if objFull s tp (orefNum c.pkt.w2) then (.st 0x03, s) else
              let d : QDesc := { kind := kind, log2 := log2, state := 1, irqEn := bitOn w 28, inHost := host, ctx := x,
                                 vector := bitsAt w 29 11, cplRing := ring, baseVA := base, pidxVA := word,
                                 cls := bitsAt w 40 3, obj := some obj }
              (.st 0, refTake obj (queueSet q d s))

/-- QUEUE_CREATE. -/
def execQueueCreate (cmd : Nat) (s : State) : Result := .next (startOp 0x0110 doQueueCreate cmd s)

/-- QUEUE_DESTROY (R476): the queue stops at once and is destroyed when nothing uses it. -/
def doQueueDestroy (c : Cmd) (s : State) : Done × State :=
  let q := bitsAt c.pkt.w1 0 20
  let d := queueGet s q
  if q < 2 then (.st 0x02, s)
  else if d.kind = 0 then (.st 0x08, s)
  else if !mayName s c d.ctx then (.st 0x04, s)
  else if d.kind = 3 ∧ s.queues.any (fun e => e.2.kind == 2 && e.2.cplRing == q) then (.st 0x05, s)
  else (.wait (.queueEnd q), queueMod q (fun d => { d with state := 2 }) s)

/-- QUEUE_DESTROY. -/
def execQueueDestroy (cmd : Nat) (s : State) : Result := .next (startOp 0x0111 doQueueDestroy cmd s)

/-- The first eight bytes of a queue descriptor (R461). -/
def queueHead (d : QDesc) : Nat :=
  placed 0 8 d.kind + placed 8 8 d.log2 + placed 16 8 d.state + placed 24 1 (bit01 d.irqEn) + placed 25 1 (bit01 d.inHost)
    + placed 32 16 d.ctx + placed 48 16 d.vector

/-- QUEUE_QUERY (R461, R476). -/
def doQueueQuery (c : Cmd) (s : State) : Done × State :=
  let q := bitsAt c.pkt.w1 0 20
  let d := queueGet s q
  if d.kind = 0 then (.st 0x08, s)
  else if !mayName s c d.ctx then (.st 0x04, s)
  else (.done 0 (queueHead d) (d.pidx + d.cidx * 2 ^ 32) [], s)

/-- QUEUE_QUERY. -/
def execQueueQuery (cmd : Nat) (s : State) : Result := .next (startOp 0x0112 doQueueQuery cmd s)

/-! ### Objects -/

/-- OBJ_TABLE (R456, R476). -/
def doObjTable (c : Cmd) (s : State) : Done × State :=
  let p := bitsAt c.pkt.w1 0 8
  let log2 := bitsAt c.pkt.w1 8 5
  let a := c.pkt.w2
  if log2 < 10 ∨ 20 < log2 ∨ a % 65536 ≠ 0 then (.st 0x02, s)
  else if (partGet s p).enabled then (.st 0x0A, s)
  else if !inPart s p a (2 ^ log2 * 32) then (.st 0x04, s)
  else
    let s := zeroRange a (2 ^ log2 * 32) s
    (.st 0, partMod p (fun w => { w with table := some (a, log2) }) s)

/-- OBJ_TABLE. -/
def execObjTable (cmd : Nat) (s : State) : Result := .next (startOp 0x0120 doObjTable cmd s)

/-- The common refusals of OBJ_RELEASE and OBJ_QUERY: no table, or a number beyond it (R476). -/
def objFail (s : State) (p n : Nat) : Option Nat := match (partGet s p).table with
  | none => some 0x0A
  | some (_, log2) => if n ≥ 2 ^ log2 then some 0x02 else none

/-- OBJ_CREATE (R456, R476). -/
def doObjCreate (c : Cmd) (s : State) : Done × State :=
  let n := bitsAt c.pkt.w1 0 20
  let x := bitsAt c.pkt.w1 20 16
  let k := ctxGet s x
  let base := c.pkt.w2
  let size := c.pkt.w3
  if x = 0 ∨ base % 65536 ≠ 0 ∨ size % 65536 ≠ 0 ∨ size < 65536 ∨ 2 ^ 40 < size ∨ 2 ^ 57 < base + size then (.st 0x02, s)
  else if k.state = .free then (.st 0x08, s)
  else if !mayName s c x then (.st 0x04, s)
  else if k.state = .dying then (.st 0x0A, s)
  else match objFail s k.part n with
    | some st => (.st st, s)
    | none => match objGet s k.part n with
      | some e => if e.state ≠ 0 then (.st 0x03, s) else (.st 0, objPut k.part n ⟨1, 1, x, 0, base, size⟩ s)
      | none => (.st 0x02, s)

/-- OBJ_CREATE. -/
def execObjCreate (cmd : Nat) (s : State) : Result := .next (startOp 0x0121 doObjCreate cmd s)

/-- The command queues of a partition with their producer indices (R459). -/
def queueMarks (s : State) (p : Nat) : List (Nat × Nat) :=
  (s.queues.filter fun q => q.2.kind == 2 && partOfQueue s q.1 == p).map fun q => (q.1, q.2.pidx)

/-- OBJ_RELEASE (R459, R476). -/
def doObjRelease (c : Cmd) (s : State) : Done × State :=
  let n := bitsAt c.pkt.w1 0 20
  let p := (ctxGet s c.pkt.ctx).part
  match objFail s p n with
  | some st => (.st st, s)
  | none => match objGet s p n with
    | none => (.st 0x02, s)
    | some e =>
      if e.state ≠ 1 then (.st 0x08, s)
      else if c.strict && e.ctx != c.pkt.ctx then (.st 0x04, s)
      else (.wait (.release p n (queueMarks s p)), s)

/-- OBJ_RELEASE. -/
def execObjRelease (cmd : Nat) (s : State) : Result := .next (startOp 0x0122 doObjRelease cmd s)

/-- OBJ_QUERY (R476). -/
def doObjQuery (c : Cmd) (s : State) : Done × State :=
  let n := bitsAt c.pkt.w1 0 20
  let p := (ctxGet s c.pkt.ctx).part
  match objFail s p n with
  | some st => (.st st, s)
  | none => match objGet s p n with
    | none => (.st 0x02, s)
    | some e =>
      if c.strict && e.state != 0 && e.ctx != c.pkt.ctx then (.st 0x04, s)
      else (.done 0 (ofLe ((objBytes e).take 8)) e.size [], s)

/-- OBJ_QUERY. -/
def execObjQuery (cmd : Nat) (s : State) : Result := .next (startOp 0x0123 doObjQuery cmd s)

/-! ### Fences -/

/-- Entries of the fence registry (R465). -/
def fenceSlots : Nat := 262144

/-- A fence number that no fence holds: the lowest (DESIGN CHOICE, log entry 41: the spec does not say which). -/
def freeFence (s : State) : Option Nat :=
  if s.fences.length ≥ fenceSlots then none
  else (List.range (s.fences.length + 1)).find? fun n => (Map.get? s.fences n).isNone

/-- FENCE_CREATE (R465, R476): the word's page must be mapped with WRITE and PINNED, and a host page must hold a pinned
translation. -/
def doFenceCreate (c : Cmd) (s : State) : Done × State :=
  let p := (ctxGet s c.pkt.ctx).part
  match orefRange s p c.pkt.w1 8 with
  | .error e => (.st e, s)
  | .ok (x, va) =>
    if va % 8 ≠ 0 ∨ c.pkt.w2 > fenceMax then (.st 0x02, s)
    else match walk s x va with
      | .error _ => (.st 0x02, s)
      | .ok l =>
        if x = 0 ∨ !l.write ∨ !l.pinned ∨ (l.host ∧ !hostPinned s p (l.at va)) then (.st 0x02, s)
        else if objFull s p (orefNum c.pkt.w1) then (.st 0x03, s)
        else match freeFence s with
          | none => (.st 0x03, s)
          | some n =>
            let f : Fence := ⟨l.at va, l.host, x, c.pkt.w2, false, (p, orefNum c.pkt.w1)⟩
            (.done 0 n 0 [], refTake f.obj (fenceWrite f { s with fences := Map.set s.fences n f }))

/-- FENCE_CREATE. -/
def execFenceCreate (cmd : Nat) (s : State) : Result := .next (startOp 0x0130 doFenceCreate cmd s)

/-- The fence that a command names in W1, if it may name it. -/
def fenceNamed (s : State) (c : Cmd) : Except Nat (Nat × Fence) :=
  let n := bitsAt c.pkt.w1 0 18
  match Map.get? s.fences n with
  | none => .error 0x08
  | some f => if mayName s c f.ctx then .ok (n, f) else .error 0x04

/-- FENCE_DESTROY (R458, R476). -/
def doFenceDestroy (c : Cmd) (s : State) : Done × State :=
  match fenceNamed s c with
  | .error e => (.st e, s)
  | .ok (n, f) =>
    if s.cmds.any (fun d => bitsAt d.pkt.w1 0 18 == n && (match d.step with | .fence _ => true | _ => false)) then (.st 0x05, s)
    else (.st 0, refDrop f.obj { s with fences := Map.erase s.fences n })

/-- FENCE_DESTROY. -/
def execFenceDestroy (cmd : Nat) (s : State) : Result := .next (startOp 0x0131 doFenceDestroy cmd s)

/-- FENCE_QUERY (R476). -/
def doFenceQuery (c : Cmd) (s : State) : Done × State :=
  match fenceNamed s c with
  | .error e => (.st e, s)
  | .ok (_, f) => (.done 0 (fenceWord f) f.ctx [], s)

/-- FENCE_QUERY. -/
def execFenceQuery (cmd : Nat) (s : State) : Result := .next (startOp 0x0132 doFenceQuery cmd s)

/-- FENCE_SIGNAL (R467): a number not registered is dropped and logged, and the command is done. -/
def doFenceSignal (c : Cmd) (s : State) : Done × State :=
  match fenceNamed s c with
  | .error 0x04 => (.st 0x04, s)
  | _ => (.st 0, fenceRaise (bitsAt c.pkt.w1 0 18) (bitsAt c.pkt.w2 0 63) s)

/-- FENCE_SIGNAL. -/
def execFenceSignal (cmd : Nat) (s : State) : Result := .next (startOp 0x0320 doFenceSignal cmd s)

/-- FENCE_WAIT (R468): it completes at once where the value is reached or the fence abandoned, otherwise it waits. -/
def doFenceWait (c : Cmd) (s : State) : Done × State :=
  match fenceNamed s c with
  | .error e => (.st e, s)
  | .ok (_, f) =>
    if f.value ≥ bitsAt c.pkt.w2 0 63 then (.done 0 (fenceWord f) 0 [], s)
    else if f.abandoned then (.done 0x10 (fenceWord f) 0 [], s)
    else (.wait (.fence (c.pkt.w3 != 0)), s)

/-- FENCE_WAIT. -/
def execFenceWait (cmd : Nat) (s : State) : Result := .next (startOp 0x0321 doFenceWait cmd s)

/-- FENCE_WAIT_TIMEOUT (R468): the timeout the command names has passed. -/
def execFenceWaitTimeout (cmd : Nat) (s : State) : Result :=
  .next (onRunning (fun c s =>
    if c.step = .fence true then
      finish c 0x0F (match Map.get? s.fences (bitsAt c.pkt.w1 0 18) with | some f => fenceWord f | none => 0) 0 [] s
    else s) cmd s)

/-- IRQ_COALESCE_TIMER (R464, R582): 2 µs have passed since the interrupt of a ring, or of the hub error queue (none);
records written since then are covered by the next one. -/
def execIrqCoalesceTimer (queue : Option Nat) (s : State) : Result :=
  .next (match queue with
    | some q =>
      let d := queueGet s q
      if !d.irqWait then s
      else
        let s := queueMod q (fun d => { d with irqWait := false, irqOwed := false }) s
        if d.irqOwed then ringIrq q s else s
    | none =>
      if !s.errIrqWait then s
      else
        let owed := s.errIrqOwed
        let s := { s with errIrqWait := false, errIrqOwed := false }
        if owed then errIrq s else s)

end Sys2Proof.Machine
end

