-- ==== Sys2Proof/Machine/GrisetMem.lean ====
section
/-! DEFINITION. Machine/GrisetMem.lean: mover transfers and their faults (R478 to R483), pinned host translations (R413
to R416) and INVALIDATE (R484). -/
namespace Sys2Proof.Machine

/-! ### What a mover command moves -/

/-- A page a mover must translate: the context, the virtual address at which the transfer meets the page, and whether
it writes there. -/
structure MovePage where
  ctx : Nat
  va : Nat
  write : Bool
  deriving DecidableEq, Repr

/-- A transfer: the source, if it has one, and the destination, if it has one, each as context and virtual address. -/
structure Move where
  src : Option (Nat × Nat)
  dst : Option (Nat × Nat)
  bytes : Nat
  deriving DecidableEq, Repr

/-- Insert a page at its place: ascending offset, the source before the destination (R478). -/
def insertPage (k : Nat) (p : MovePage) : List (Nat × MovePage) → List (Nat × MovePage)
  | [] => [(k, p)]
  | (j, q) :: l => if k < j then (k, p) :: (j, q) :: l else (j, q) :: insertPage k p l

/-- The pages of one side with their sorting keys. -/
def sidePages (x va n : Nat) (write : Bool) : List (Nat × MovePage) :=
  (piecesOf va n).map fun q => ((q.1 - va) * 2 + bit01 write, ⟨x, q.1, write⟩)

/-- Every page of a transfer, in the order of R478. -/
def Move.pages (m : Move) : List MovePage :=
  let a := match m.src with | some (x, va) => sidePages x va m.bytes false | none => []
  let b := match m.dst with | some (x, va) => sidePages x va m.bytes true | none => []
  (a.foldl (fun l e => insertPage e.1 e.2 l) b).map (·.2)

/-- The transfer of a command (R476); the error is its status. -/
def moveOf (s : State) (c : Cmd) : Except Nat Move :=
  let p := (ctxGet s c.pkt.ctx).part
  match c.pkt.opcode with
  | 0x0201 => do
    let n := c.pkt.w3
    if n % 64 ≠ 0 ∨ n > 2 ^ 28 ∨ (c.pkt.w4 < 8 ∧ c.pkt.w4 ≠ 0) then throw 0x02
    let a ← orefRange s p c.pkt.w1 n
    let b ← orefRange s p c.pkt.w2 n
    return ⟨some a, some b, n⟩
  | 0x0202 => do
    let n := c.pkt.w2
    if n % 64 ≠ 0 ∨ n > 2 ^ 28 then throw 0x02
    let b ← orefRange s p c.pkt.w1 n
    return ⟨none, some b, n⟩
  | _ => do
    let a ← orefRange s p c.pkt.w1 c.pkt.w2
    return ⟨some a, none, c.pkt.w2⟩

/-- What one page's translation gives: usable, a fault with its reason, or a host translation to ask for (R415). -/
inductive TrRes where
  | ok
  | fault (reason : Nat)
  | ask (part page : Nat)
  deriving DecidableEq, Repr

/-- Translate a page for a mover (R478). -/
def trPage (s : State) (m : MovePage) : TrRes :=
  match walk s m.ctx m.va with
  | .error e => .fault e.code
  | .ok l =>
    if m.write && !l.write then .fault 2
    else if l.host then
      let p := (ctxGet s m.ctx).part
      match atcFind s p (l.at m.va) with
      | some e => if e.marked then .ask p (l.at m.va / 4096) else if m.write && !e.write then .fault 3 else .ok
      | none => .ask p (l.at m.va / 4096)
    else .ok

/-- The first page of a transfer that does not translate. -/
def firstBad (s : State) : List MovePage → Option (MovePage × TrRes)
  | [] => none
  | m :: l => match trPage s m with
    | .ok => firstBad s l
    | r => some (m, r)

/-- The queue of a command, zero for the management port. -/
def cmdQueue (c : Cmd) : Nat := match c.src with
  | .queue q => q
  | .mgmt => 0

/-- A mover fault (R479 to R481): a record and a parked transfer, or a stalled one where the fault queue is full. The
spec does not say which mover serves a command: SOURCE names a free one (log entry 44). -/
def moverFault (c : Cmd) (x reason va : Nat) (write : Bool) (s : State) : CmdStep × State :=
  if faultFull s x then (.stalled x reason va write, faultOverflow x s)
  else
    let mover := bayNode ((Config.freeWord s.fresh).toNat % numBays) 9
    let seq := (ctxGet s x).seq
    (.parked x seq, faultRecord x 1 reason va (cmdQueue c) c.index mover (bit01 write) c.id (tickFresh s))

/-- Translate every page of a transfer before it moves (R478): what the command waits for then. -/
def moverTranslate (c : Cmd) (m : Move) (s : State) : CmdStep × State :=
  match firstBad s m.pages with
  | none => (.running, s)
  | some (_, .ok) => (.running, s)
  | some (g, .fault r) => moverFault c g.ctx r g.va g.write (vaFailed g.ctx [(g.va, 1)] s (some (ctxGet s g.ctx).part))
  | some (_, .ask p page) => (.ats, emit .host 0x02 [boundPort s p, p, page] [] s)

/-- A mover command's start. -/
def doMove (c : Cmd) (s : State) : Done × State :=
  match moveOf s c with
  | .error e => (.st e, s)
  | .ok m => let r := moverTranslate c m s
             (.wait r.1, r.2)

/-- MEM_COPY (R478, R482). -/
def execMemCopy (cmd : Nat) (s : State) : Result := .next (startOp 0x0201 doMove cmd s)
/-- MEM_FILL. -/
def execMemFill (cmd : Nat) (s : State) : Result := .next (startOp 0x0202 doMove cmd s)

/-! ### Moving the bytes -/

/-- The sluice class of a command's transfers (R328): the one in W4, or its queue's CLASS. -/
def moverClass (s : State) (c : Cmd) : Nat :=
  let cls := if bitOn c.pkt.w4 3 then bitsAt c.pkt.w4 0 3 else (queueGet s (cmdQueue c)).cls
  classFor s (ctxGet s c.pkt.ctx).part cls

/-- Bytes of the next piece: both sides stay within a sector. -/
def movePiece (m : Move) (off : Nat) : Nat :=
  let room := fun (side : Option (Nat × Nat)) => match side with
    | some (_, va) => 512 - (va + off) % 512
    | none => 512
  min (m.bytes - off) (min (room m.src) (room m.dst))

/-- The bytes of one piece: from the source, or the pattern. -/
def pieceBytes (s : State) (c : Cmd) (m : Move) (off k : Nat) (host : List Byte) : Except Nat (List Byte × List Byte) :=
  match m.src with
  | none => .ok ((List.range k).map fun i => (leBytes 8 c.pkt.w3).getD ((off + i) % 8) 0, host)
  | some (x, va) => match walk s x (va + off) with
    | .error (.unread a) => .error a
    | .error _ => .error 0
    | .ok l =>
      if l.host then .ok (padTo k 0 (host.take k), host.drop k)
      else match firstLost s (l.at (va + off)) k with
        | some q => .error (q * 512)
        | none => .ok (memRead s (l.at (va + off)) k, host)

/-- Does a transfer touch a channel that retrains, which holds it (R287). -/
def moveHeld (s : State) (m : Move) : Bool :=
  [m.src, m.dst].any fun e => match e with
    | some (x, va) => vaHeld s x (piecesOf va m.bytes)
    | none => false

/-- Move piece after piece; the result is the number of bytes written and the failing sector, if one failed (R483). -/
def moveLoop (c : Cmd) (m : Move) : Nat → Nat → List Byte → State → Nat × Option Nat × State
  | 0, off, _, s => (off, none, s)
  | fuel + 1, off, host, s =>
    if off ≥ m.bytes then (off, none, s)
    else
      let k := movePiece m off
      match pieceBytes s c m off k host with
      | .error a => (off, some a, s)
      | .ok (bs, host) =>
        let s := match m.src with
          | some (x, va) => countVaReads x (moverClass s c) [(va + off, k)] s
          | none => s
        let s := match m.dst with
          | some (x, va) => vaWrite x (va + off) bs s (moverClass s c)
          | none => s
        moveLoop c m fuel (off + k) host s

/-- The installed translations that cover a PIN_HOST range. -/
def pinEntries (s : State) (x va n : Nat) : List Atc :=
  (piecesOf va n).foldl (fun l q => match walk s x q.1 with
    | .ok f => match atcFind s (ctxGet s x).part (f.at q.1) with
      | some e => if f.host && !l.contains e then l ++ [e] else l
      | none => l
    | .error _ => l) []

/-- Pins of a range (R413): one for each host page. -/
def pinsOf (s : State) (x va n : Nat) : List Pin :=
  (piecesOf va n).filterMap fun q => match walk s x q.1 with
    | .ok l => if l.host then some ⟨x, q.1 / 65536, (ctxGet s x).part, l.at (q.1 / 65536 * 65536), false⟩ else none
    | .error _ => none

/-- PIN_HOST with every translation present (R414): none is installed beyond 65,536 pinned entries. -/
def pinInstall (c : Cmd) (x va n : Nat) (s : State) : State :=
  let port := boundPort s (ctxGet s x).part
  let fresh := (pinsOf s x va n).filter fun k => !(s.pins.any fun j => j.ctx == k.ctx && j.page == k.page)
  let s' : State := { s with pins := s.pins ++ fresh }
  if (s'.atc.filter fun e => e.port == port && atcPinned s' e).length > 65536 then finish c 0x03 0 0 [] s
  else finish c 0 (pinEntries s' x va n).length 0 [] (setAts port s')

/-- Go on with a transfer whose pages may all translate now (R480): PIN_HOST completes at once, a copy or a fill runs
until MOVER_COMPLETE. -/
def moverRetry (c : Cmd) (s : State) : State :=
  match moveOf s c with
  | .error e => finish c e 0 0 [] s
  | .ok m =>
    let (st, s) := moverTranslate c m s
    match st, c.pkt.opcode, m.src with
    | .running, 0x0204, some (x, va) => pinInstall c x va m.bytes s
    | st, _, _ => setStep c.id st s

/-- MOVER_COMPLETE (R482, R483): a translated transfer moves its bytes, in ascending offset, and its record is written;
`host` is what host memory answers for host source pages. -/
def execMoverComplete (cmd : Nat) (host : List Byte) (s : State) : Result :=
  .next (onRunning (fun c s =>
    if c.step ≠ .running ∨ (c.pkt.opcode ≠ 0x0201 ∧ c.pkt.opcode ≠ 0x0202) then s
    else match moveOf s c with
      | .error e => finish c e 0 0 [] s
      | .ok m =>
        if moveHeld s m then s
        else match moveLoop c m (m.bytes / 64 + 1) 0 host s with
        | (n, none, s) => finish c 0 n 0 [] (perfCount 0x0A ((Config.freeWord s.fresh).toNat % 9) (ctxGet s c.pkt.ctx).part n (tickFresh s))
        | (n, some a, s) => finish c 0x0B n 0 [] (memUncorrectable a 4 (some (ctxGet s c.pkt.ctx).part) false s)) cmd s)

/-! ### Faults and their answers (R480, R481) -/

/-- A slot of a context's fault queue has freed: the transfers that stalled on it write their records in order. -/
def unstall (x : Nat) (s : State) : State :=
  s.cmds.foldl (fun s c => match c.step with
    | .stalled y reason va write =>
      if y = x ∧ !faultFull s x then
        let (st, s) := moverFault c x reason va write s
        setStep c.id st s
      else s
    | _ => s) s

/-- The consumer moves past the leading records that have been answered (R480). -/
def popAnswered (x : Nat) (s : State) : State :=
  ctxMod x (fun k => { k with awaiting := k.awaiting.dropWhile (·.answered) }) s

/-- Mark a record answered. -/
def answer (x seq : Nat) (s : State) : State :=
  unstall x (popAnswered x (ctxMod x (fun k =>
    { k with awaiting := k.awaiting.map fun r => if r.seq = seq then { r with answered := true } else r }) s))

/-- FAULT_REPLY (R480, R481). -/
def doFaultReply (c : Cmd) (s : State) : Done × State :=
  let x := bitsAt c.pkt.w1 0 16
  let seq := bitsAt c.pkt.w1 16 32
  let act := bitsAt c.pkt.w1 48 2
  if (ctxGet s x).state = .free then (.st 0x08, s)
  else if act = 3 then (.st 0x02, s)
  else
    let s := if bitOn c.pkt.w1 50 then ctxMod x (fun k => { k with ovf := false }) s else s
    match (ctxGet s x).awaiting.find? (fun r => r.seq == seq && !r.answered) with
    | none => (.st 0x08, s)
    | some r =>
      if r.mover ∧ act = 2 ∨ !r.mover ∧ act ≠ 2 then (.st 0x0A, s)
      else
        let s := answer x seq s
        match s.cmds.find? (fun d => d.step == .parked x seq) with
        | none => (.st 0, s)
        | some d => if act = 0 then (.st 0, moverRetry d s) else (.st 0, finish d 0x06 0 0 [] s)

/-- FAULT_REPLY. -/
def execFaultReply (cmd : Nat) (s : State) : Result := .next (startOp 0x0105 doFaultReply cmd s)

/-! ### Pinned host pages (R413 to R416) -/

/-- PIN_HOST (R413): translations that the port lacks are asked for; with all of them present it completes. -/
def doPinHost (c : Cmd) (s : State) : Done × State :=
  match moveOf s c with
  | .error e => (.st e, s)
  | .ok m =>
    let (st, s) := moverTranslate c m s
    match st, m.src with
    | .running, some (x, va) =>
      let port := boundPort s (ctxGet s x).part
      let fresh := (pinsOf s x va m.bytes).filter fun k => !(s.pins.any fun j => j.ctx == k.ctx && j.page == k.page)
      let s' : State := { s with pins := s.pins ++ fresh }
      if (s'.atc.filter fun e => e.port == port && atcPinned s' e).length > 65536 then (.st 0x03, s)
      else (.done 0 (pinEntries s' x va m.bytes).length 0 [], setAts port s')
    | st, _ => (.wait st, s)

/-- PIN_HOST. -/
def execPinHost (cmd : Nat) (s : State) : Result := .next (startOp 0x0204 doPinHost cmd s)

/-- UNPIN_HOST (R476): the pinned translations of the range are released. -/
def doUnpinHost (c : Cmd) (s : State) : Done × State :=
  match orefRange s (ctxGet s c.pkt.ctx).part c.pkt.w1 c.pkt.w2 with
  | .error e => (.st e, s)
  | .ok (x, va) =>
    if c.pkt.w2 = 0 then (.st 0, s)
    else (.st 0, unpinPages x (fun k => decide (va / 65536 ≤ k ∧ k ≤ (va + c.pkt.w2 - 1) / 65536)) s)

/-- UNPIN_HOST. -/
def execUnpinHost (cmd : Nat) (s : State) : Result := .next (startOp 0x0205 doUnpinHost cmd s)

/-- Replace the oldest entry no pin holds when the cache of 65,536 is full (R414). -/
def atcRoom (port : Nat) (s : State) : State :=
  if (s.atc.filter fun e => e.port == port).length < 65536 then s
  else match s.atc.find? (fun e => e.port == port && !atcPinned s e) with
    | some e => { s with atc := s.atc.erase e }
    | none => s

/-- ATS_TRANSLATION_COMPLETION (R413 to R415): the host answers a translation request for a 4 KiB page number of a
partition's function: `dest` is none where it denies the access, otherwise the translated 4 KiB page number; `log2` the
size it returns, from 4 KiB to 1 GiB. Transfers that wait for it go on; a denial faults those that ask for the page. -/
def execAtsTranslationCompletion (part page log2 : Nat) (dest : Option Nat) (write : Bool) (s : State) : Result :=
  .next (
    let port := boundPort s part
    if log2 < 12 ∨ 30 < log2 then s
    else
      let at_ := page * 4096
      let s : State := match dest with
        | some t =>
          let s : State := atcRoom port { s with atc := s.atc.filter fun e => !(e.part == part && e.page == at_ / 2 ^ e.log2) }
          setAts port ({ s with atc := s.atc ++ [(⟨port, part, at_ / 2 ^ log2, log2, t * 4096 / 2 ^ log2, write, false⟩ : Atc)] } : State)
        | none => s
      (s.cmds.filter (·.step == .ats)).foldl (fun s c =>
        match moveOf s c with
        | .error e => finish c e 0 0 [] s
        | .ok m => match firstBad s m.pages with
          | some (g, .ask p pg) =>
            if p = part ∧ pg = page ∧ dest.isNone then
              let (st, s) := moverFault c g.ctx 3 g.va g.write s
              setStep c.id st s
            else if dest.isSome then moverRetry c s else s
          | _ => moverRetry c s) s)

/-! ### Invalidation (R484) -/

/-- Mark the staged stores of a context whose address lies in a range of pages. -/
def markStaged (x first last : Nat) (s : State) : State :=
  partMod (ctxGet s x).part (fun w => { w with staged := w.staged.map fun e =>
    if e.ctx = x ∧ first ≤ e.va / 65536 ∧ e.va / 65536 ≤ last then { e with marked := true } else e }) s

/-- INVALIDATE (R484): every cached translation of the range is marked, pinned host translations of the range are
released, and the command waits for the uses in flight. -/
def doInvalidate (c : Cmd) (s : State) : Done × State :=
  let x := bitsAt c.pkt.w1 0 16
  let va := c.pkt.w2
  let n := c.pkt.w3
  let k := ctxGet s x
  if x = 0 ∨ va % 65536 ≠ 0 ∨ n % 65536 ≠ 0 ∨ va + n > 2 ^ 57 then (.st 0x02, s)
  else if k.state = .free then (.st 0, s)
  else if !mayName s c x then (.st 0x04, s)
  else if n = 0 then (.st 0, s)
  else
    let first := va / 65536
    let last := (va + n) / 65536 - 1
    let w := partGet s k.part
    let s := markStaged x first last (markTiles x first last s)
    let s := unpinPages x (fun g => decide (first ≤ g ∧ g ≤ last)) s
    (.wait (.drain s.edges w.workTick k.part (w.live || w.undecided)), s)

/-- INVALIDATE. -/
def execInvalidate (cmd : Nat) (s : State) : Result := .next (startOp 0x0203 doInvalidate cmd s)

/-- Have the uses in flight drained (R484): the edge that drains the tiles has passed, and the tick's staged effects are
sent or discarded. -/
def drained (s : State) (edges tick part : Nat) (live : Bool) : Bool :=
  let w := partGet s part
  !live || (decide (edges < s.edges) && !(w.undecided && w.workTick == tick)
    && w.drains.all fun d => d.tick != tick || (d.todo.isEmpty && d.egress.isEmpty))

/-- INVALIDATE_DRAINED (R484). -/
def execInvalidateDrained (cmd : Nat) (s : State) : Result :=
  .next (onRunning (fun c s => match c.step with
    | .drain e t p l => if drained s e t p l then finish c 0 0 0 [] s else s
    | _ => s) cmd s)

end Sys2Proof.Machine
end

