-- ==== Sys2Proof/Machine/Idoon.lean ====
section
/-! DEFINITION. Machine/Idoon.lean: the link and packet layers of the Idoon ports (R225 to R235, R244): CRC-32C, sequence
numbers, the replay buffer, credits, routing, and what a lost link discards (R229). A port is named by its lane group. -/
namespace Sys2Proof.Machine

/-! ### CRC-32C -/

/-- One bit of the reflected CRC-32C. -/
def crcBit (c : Nat) : Nat := if c % 2 = 1 then c / 2 ^^^ 0x82F63B78 else c / 2
/-- One byte. -/
def crcByte (c b : Nat) : Nat := (List.range 8).foldl (fun c _ => crcBit c) (c ^^^ b)
/-- CRC-32C of a byte string. -/
def crc32c (bs : List Byte) : Nat := (bs.foldl (fun c b => crcByte c b.toNat) 0xFFFFFFFF) ^^^ 0xFFFFFFFF

/-! ### Ports -/

/-- A port's link state. -/
def idnGet (s : State) (k : Nat) : IdnPort := Map.get s.idn {} k
/-- Set it. -/
def idnSet (k : Nat) (v : IdnPort) (s : State) : State := { s with idn := Map.set s.idn k v }
/-- Change it. -/
def idnMod (k : Nat) (f : IdnPort → IdnPort) (s : State) : State := idnSet k (f (idnGet s k)) s

/-- STATE of a port (R267). -/
def idnState (s : State) (k : Nat) : Nat := fget s F.idnStatus_state k
/-- Is a port ACTIVE. -/
def idnActive (s : State) (k : Nat) : Bool := decide (k < 36) && idnState s k == 7
/-- The ACTIVE ports, in ascending group order. -/
def activePorts (s : State) : List Nat := (List.range 36).filter (idnActive s)
/-- The Idoon ports 0 to 31 of R218: the groups whose role is Idoon, in ascending order. -/
def idoonPorts (s : State) : List Nat := (List.range 36).filter fun k => !([0, 10].contains (idnState s k))
/-- Trained width in lanes (R267). -/
def idnWidth (s : State) (k : Nat) : Nat := if idnActive s k then [0, 4, 8, 16].getD (fget s F.idnStatus_width k) 0 else 0
/-- The ports that are up: ACTIVE, or in quick retraining, which is no loss of the link (R229, R245). -/
def linkedPorts (s : State) : List Nat := (List.range 36).filter fun k => idnState s k == 7 || idnState s k == 8
/-- The hubs at the far ends of the ports that are up. -/
def neighbours (s : State) : List Nat := ((linkedPorts s).map fun k => fget s F.idnStatus_peerHub k).eraseDups

/-! ### The coding layer (R225, R269) -/

/-- Is a codeword beyond correction: more than 15 of its symbols are wrong. -/
def wordBad (w : Codeword) : Bool := decide (w.length > 15)

/-- The physical lane that carried symbol `k` of a codeword: active logical lane k mod W, which is a good lane of the map (R225, R238). -/
def symbolLane (s : State) (port k : Nat) : Nat :=
  let good := (List.range 18).filter fun i => !bitOn (fget s F.idnLanes_bad port) i
  good.getD (k % max 1 ([0, 4, 8, 16].getD (fget s F.idnStatus_width port) 0)) 0

/-- The codewords that end with a block or packet count their corrected symbols and, where one is uncorrectable, themselves. -/
def codewords (port : Nat) (ws : List Codeword) (s : State) : State :=
  let s := fwrap F.idnCorr_count F.idnCorr_ovf port ((ws.filter fun w => !wordBad w).map List.length).sum s
  fbump F.idnUncorr_count port (ws.filter wordBad).length s

/-- May a control block be taken: its CRC holds and it lies in no uncorrectable codeword. -/
def blkOk (b : BlkArr) : Bool := b.crcOk && !b.uncorr && !b.words.any wordBad

/-! ### Routing (R244) -/

/-- The listed neighbours of a hub. -/
def adjOf (a : Adjacency) (h : Nat) : List Nat := (a.filter fun e => e.1 == h).flatMap (·.2)

/-- Hubs within `k` hops of `t`. -/
def within (a : Adjacency) (t : Nat) : Nat → List Nat
  | 0 => [t]
  | k + 1 => let l := within a t k
             (l ++ l.flatMap (adjOf a)).eraseDups

/-- Hops from `h` to `t`, where it is at most three. -/
def hopsTo (a : Adjacency) (h t : Nat) : Option Nat := (List.range 4).find? fun k => (within a t k).contains h

/-- The next hop toward a hub: a neighbour on a shortest path for which (n − T) mod 64 is smallest, where the target is
within three hops. -/
def nextHop (s : State) (t : Nat) : Option Nat :=
  let near := (neighbours s).filterMap fun n => match hopsTo s.dom.adj n t with
    | some d => if d ≤ 2 then some (d * 64 + (n + 64 - t % 64) % 64, n) else none
    | none => if n = t then some (0, n) else none
  (near.foldl (fun b e => match b with
    | none => some e
    | some x => if e.1 < x.1 then some e else some x) (none : Option (Nat × Nat))).map (·.2)

/-- The port for a packet to a neighbour: CRC-32C of SRC_TILE and ADDR[47:9], modulo the number of ACTIVE ports. While all of them
retrain the packet waits at one (DESIGN CHOICE, log entry 99). -/
def portTo (s : State) (n : Nat) (p : IdnPkt) : Option Nat :=
  let up := (linkedPorts s).filter fun k => fget s F.idnStatus_peerHub k == n
  let ports := if (up.filter (idnActive s)).isEmpty then up else up.filter (idnActive s)
  if ports.isEmpty then none
  else ports[crc32c (leBytes 4 p.srcTile ++ leBytes 5 (p.addr / 512)) % ports.length]?

/-! ### Sending (R228, R230, R234) -/

/-- Blocks of a packet, header included. -/
def pktBlocks (p : IdnPkt) : Nat := 1 + (p.data.length + 31) / 32
/-- The virtual channel of a packet (R234). -/
def pktVc (p : IdnPkt) : Nat := if p.ty ≥ 0x10 then 0 else 1 + p.hops
/-- Receive buffer of a virtual channel in blocks. -/
def vcBlocks (vc : Nat) : Nat := if vc = 0 then 256 else 1024
/-- Blocks in the replay buffer. -/
def IdnPort.replayBlocks (q : IdnPort) : Nat := (q.replay.map fun e => pktBlocks e.2).sum

/-- A packet's header with given SEQ, HOPS and CRCs (R230). -/
def pktHeader (p : IdnPkt) (seq hops ecrc lcrc : Nat) : List Byte :=
  leBytes 1 p.ty ++ leBytes 1 (placed 0 2 hops + placed 2 1 (bit01 p.urgent) + placed 3 3 p.cls) ++ leBytes 1 (p.dst % 64)
    ++ leBytes 1 (p.src % 64) ++ leBytes 1 ((p.data.length + 31) / 32) ++ leBytes 1 p.epoch ++ leBytes 1 p.part ++ leBytes 1 p.rlen
    ++ leBytes 2 (seq % 4096) ++ leBytes 2 p.tag ++ leBytes 4 (p.srcTile % 2 ^ 19) ++ leBytes 6 p.addr ++ leBytes 2 0
    ++ leBytes 4 ecrc ++ leBytes 4 lcrc

/-- The ECRC that the source of a packet sets. -/
def ecrcOf (p : IdnPkt) : Nat := crc32c (pktHeader p 0 0 0 0 ++ p.data)
/-- The LCRC that each hop sets. -/
def lcrcOf (p : IdnPkt) (seq ecrc : Nat) : Nat := crc32c (pktHeader p seq p.hops ecrc 0 ++ p.data)

/-- The blocks of a packet on a link: its header and its data. -/
def pktBytes (p : IdnPkt) (seq : Nat) : List Byte :=
  let e := p.ecrc.getD (ecrcOf p)
  pktHeader p seq p.hops e (lcrcOf p seq e) ++ p.data

/-- Put a packet on the wire of a port under a sequence number. -/
def wire (k seq : Nat) (p : IdnPkt) (s : State) : State :=
  emit .link 0x01 [k, seq, p.ty, p.hops, bit01 p.urgent, p.cls, p.dst, p.src, p.epoch, p.part, p.rlen, p.tag, p.srcTile, p.addr]
    (pktBytes p seq) (slcServe 2 k p.cls p.data.length (fwrap F.idnTxbytes_count F.idnTxbytes_ovf k (32 * pktBlocks p) s))

/-- The fields of a control block at their places (R227); those of a TRAIN block are the model's choice (log entry 25). -/
def blockBits (ty : Nat) (args : List Nat) : Nat := match ty, args with
  | 0x01, [q] | 0x02, [q] => placed 8 12 q
  | 0x03, [vc, n] => placed 8 2 vc + placed 16 16 n
  | 0x10, [hops, master, epoch, tick, remain, period, first] =>
    placed 8 2 hops + placed 10 6 master + placed 16 8 epoch + placed 24 64 tick + placed 88 32 remain + placed 120 30 period
      + placed 150 32 first
  | 0x11, [dep, echo, hold] => placed 8 64 dep + placed 72 64 echo + placed 136 64 hold
  | 0x20, [role, hub, group, bad, width] => placed 8 2 role + placed 16 6 hub + placed 24 6 group + placed 32 18 bad + placed 56 2 width
  | _, _ => 0

/-- The 256 bits of a control block, the CRC-32C of the others in [255:224]. -/
def blockBytes (ty : Nat) (args : List Nat) : List Byte :=
  let b := leBytes 28 (ty + blockBits ty args)
  b ++ leBytes 4 (crc32c b)

/-- Send a control block (R227). -/
def sendBlock (k ty : Nat) (args : List Nat) (s : State) : State :=
  emit .link 0x02 (k :: ty :: args) (blockBytes ty args) (fwrap F.idnTxbytes_count F.idnTxbytes_ovf k 32 s)

/-- May the next waiting packet of a port leave: credits and replay buffer room; with 4,095 packets outstanding a further SEQ could not be
told from the oldest. -/
def maySend (q : IdnPort) (p : IdnPkt) : Bool :=
  decide (Map.get q.used 0 (pktVc p) + pktBlocks p ≤ vcBlocks (pktVc p)) && decide (q.replayBlocks + pktBlocks p ≤ 4096)
    && decide (q.replay.length < 4095)

/-- The level of a waiting packet (R234, R330): 0 on virtual channel 0 or URGENT, 1 aged, then in-budget classes and
over-budget ones, each ascending. -/
def sendLevel (s : State) (k : Nat) (aged : List IdnPkt) (p : IdnPkt) : Nat :=
  slcLevel s 2 k (decide (pktVc p = 0) || p.urgent) (aged.contains p) p.cls

/-- The packet of least level, the earliest of equals. -/
def firstToSend (s : State) (k : Nat) (aged : List IdnPkt) (ps : List IdnPkt) : Option IdnPkt :=
  ps.foldl (fun b p => match b with
    | none => some p
    | some x => if sendLevel s k aged p < sendLevel s k aged x then some p else some x) none

/-- Send what may leave, in the order of R234 and R330. -/
def drainPort (k : Nat) : Nat → State → State
  | 0, s => s
  | fuel + 1, s =>
    let q := idnGet s k
    match firstToSend s k q.aged (q.waiting.filter (maySend q)), idnActive s k with
    | some p, true =>
      let q' : IdnPort :=
        { q with waiting := q.waiting.erase p, aged := q.aged.erase p, replay := q.replay ++ [(q.txSeq, p)],
                 txSeq := (q.txSeq + 1) % 4096, used := Map.set q.used (pktVc p) (Map.get q.used 0 (pktVc p) + pktBlocks p) }
      drainPort k fuel (wire k q.txSeq p (idnSet k q' s))
    | _, _ => s

/-- Send everything a port can. -/
def pump (k : Nat) (s : State) : State := drainPort k ((idnGet s k).waiting.length) s

/-- Hand a packet to a port. -/
def onPort (k : Nat) (p : IdnPkt) (s : State) : State := pump k (idnMod k (fun q => { q with waiting := q.waiting ++ [p] }) s)

/-! ### Lost packets (R229) -/

/-- Does a packet's PARTITION field name a partition: the requests of a partition, their responses, and lock-step
packets. -/
def pktNamed (p : IdnPkt) : Bool := decide (p.ty < 0x10) || decide (p.ty ≥ 0x20)

/-- A lost packet spoils the current tick of its partition, or is a foreign spoil where the hub does not hold it. -/
def lostPacket (k : Nat) (s : State) (p : IdnPkt) : State :=
  if !pktNamed p then s
  else if (partGet s p.part).enabled then spoil p.part (.link k) false s
  else { s with dom := { s.dom with foreign := if s.dom.foreign.contains p.part then s.dom.foreign else p.part :: s.dom.foreign } }

/-- An unrecoverable link error of a port (R229): its replay buffer is discarded. -/
def linkLost (k : Nat) (s : State) : State :=
  let gone := (idnGet s k).replay.map (·.2)
  let s := idnMod k (fun q => { q with replay := [] }) s
  let s := gone.foldl (lostPacket k) s
  logErr { code := 0x0601, cls := clsSpoil, detail := k, unitReg := (rget s .idnStatus k).toNat } s

/-- The packet cannot be routed: it is lost (R245, R262). -/
def unroutable (p : IdnPkt) (s : State) : State := lostPacket 36 s p

/-- Send a packet toward its target. -/
def sendPkt (p : IdnPkt) (s : State) : State :=
  match nextHop s p.dst with
  | none => unroutable p s
  | some n => match portTo s n p with
    | none => unroutable p s
    | some k => onPort k p s

/-- The current epoch, low 8 bits (R230). -/
def epochByte (s : State) : Nat := fget s F.domStatus_epoch 0 % 256

/-- A packet of this hub. -/
def fromHub (s : State) (ty dst : Nat) : IdnPkt := { ty := ty, dst := dst, src := hubId s, epoch := epochByte s }

/-- Send a packet on every ACTIVE port but one. -/
def flood (but : Option Nat) (p : IdnPkt) (s : State) : State :=
  (activePorts s).foldl (fun s k => if some k = but then s else onPort k { p with dst := fget s F.idnStatus_peerHub k } s) s

/-- Packets that waited on a port that is no longer ACTIVE go on over other routes (R245). -/
def reroute (k : Nat) (s : State) : State :=
  let ps := (idnGet s k).waiting
  ps.foldl (fun s p => sendPkt p s) (idnMod k (fun q => { q with waiting := [] }) s)

/-! ### Receiving (R228, R232, R234) -/

/-- A response to a packet. -/
def reply (s : State) (p : IdnPkt) (ty : Nat) : IdnPkt :=
  { fromHub s ty p.src with part := p.part, tag := p.tag, srcTile := p.srcTile, addr := p.addr, cls := p.cls, urgent := p.urgent }

/-- An ERR_RSP to a request (R320). -/
def sendErr (p : IdnPkt) (status : Nat) (s : State) : State := sendPkt { reply s p 0x07 with rlen := status } s

/-- A packet for this hub: its end-to-end check and its epoch (R232). Packets of formation, joining and membership are
taken whatever their epoch (log entry 28). -/
def deliver (a : IdnArr) (f : IdnPkt → State → State) (s : State) : State :=
  let p := a.pkt
  if !a.ecrcOk ∨ p.ecrc.isSome then
    logErr { code := 0x0602, cls := clsSpoil, detail := a.port, part := if pktNamed p then some p.part else none } (lostPacket a.port s p)
  else if p.epoch ≠ epochByte s ∧ p.ty ≠ 0x12 ∧ !(decide (0x18 ≤ p.ty ∧ p.ty ≤ 0x1B)) then
    let s := logErr { code := 0x0606, cls := clsInfo, detail := a.port } s
    if [0x01, 0x03].contains p.ty then sendErr p 2 s else s
  else f p s

/-- A packet in transit: it goes on with HOPS raised, or is lost where it has crossed as many hubs as it may (R234); a request
for a hub that is no member is answered with status 0x3 (R262). A packet whose end-to-end check fails keeps its wrong ECRC. -/
def forward (a : IdnArr) (s : State) : State :=
  if [0x01, 0x03].contains a.pkt.ty ∧ !bitOn (fget s F.domMembers_members 0) a.pkt.dst then sendErr a.pkt 3 s
  else if a.pkt.hops ≥ 2 then (if a.pkt.ty < 0x10 then lostPacket a.port s a.pkt else s)
  else if a.ecrcOk then sendPkt { a.pkt with hops := a.pkt.hops + 1 } s
  else
    let off := 1 + (Config.freeWord s.fresh).toNat % (2 ^ 32 - 1)
    sendPkt { a.pkt with hops := a.pkt.hops + 1, ecrc := some ((ecrcOf a.pkt + off) % 2 ^ 32) } (tickFresh s)

/-- Accept a packet that arrives on a port, in SEQ order (R228): a failed check, an uncorrectable codeword or a skipped
SEQ is answered with a NAK, a repeat is dropped, and the buffer space of an accepted packet is returned. -/
def idnAccept (a : IdnArr) (f : IdnPkt → State → State) (s : State) : State :=
  if !idnActive s a.port then s
  else
    let k := a.port
    let q := idnGet s k
    let s := fwrap F.idnRxbytes_count F.idnRxbytes_ovf k (32 * pktBlocks a.pkt) s
    let s := codewords k a.words s
    let uncorr := a.uncorr || a.words.any wordBad
    let ahead := (a.seq + 4096 - q.rxSeq) % 4096
    if uncorr ∨ !a.lcrcOk ∨ (0 < ahead ∧ ahead < 2048) then sendBlock k 0x02 [q.rxSeq] s
    else if ahead ≠ 0 then s
    else
      let s := idnSet k { q with rxSeq := (q.rxSeq + 1) % 4096, ackOwed := true } s
      let s := sendBlock k 0x03 [pktVc a.pkt, pktBlocks a.pkt] s
      if a.pkt.dst = hubId s then deliver a f s else forward a s

end Sys2Proof.Machine
end

