-- ==== Sys2Proof/Machine/Numeric.lean ====
section
/-! DEFINITION. Machine/Numeric.lean: the number formats and their exact arithmetic (R32 to R36, R54 to R57, R118 to
R128). Every finite value is held exactly as `(-1)^neg * m * 2^e`; every result is rounded once, to nearest with ties
to even, at the end. -/
namespace Sys2Proof.Machine

/-! ### Exact values -/

/-- What an encoding stands for: a NaN, an infinity, or the exact value `(-1)^neg * m * 2^e`. -/
inductive FVal where
  | nan
  | inf (neg : Bool)
  | fin (neg : Bool) (m : Nat) (e : Int)
  deriving DecidableEq, Repr

/-- A binary floating format: `M` stored mantissa bits, `E` exponent bits, the bias. -/
structure FFmt where
  M : Nat
  E : Nat
  bias : Int
  deriving DecidableEq, Repr

/-- IEEE 754 binary32 (R32 code 0x9). -/
def fp32 : FFmt := ⟨23, 8, 127⟩
/-- BF16, the upper half of binary32 (R36). -/
def bf16 : FFmt := ⟨7, 8, 127⟩

/-- Exponent field of all ones. -/
def FFmt.emaxField (f : FFmt) : Nat := 2 ^ f.E - 1
/-- The encoding of +infinity. -/
def FFmt.infBits (f : FFmt) : Nat := f.emaxField * 2 ^ f.M
/-- The sign bit. -/
def FFmt.signBit (f : FFmt) : Nat := 2 ^ (f.M + f.E)
/-- The canonical quiet NaN (R36). -/
def FFmt.nanBits (f : FFmt) : Nat := f.infBits + 2 ^ (f.M - 1)

/-- The exact value of an encoding; subnormals are honoured (R36, R118). -/
def decodeF (f : FFmt) (b : Nat) : FVal :=
  let neg := bitOn b (f.M + f.E)
  let e := bitsAt b f.M f.E
  let m := bitsAt b 0 f.M
  if e = f.emaxField then (if m = 0 then .inf neg else .nan)
  else if e = 0 then .fin neg m (1 - f.bias - f.M)
  else .fin neg (2 ^ f.M + m) ((e : Int) - f.bias - f.M)

/-- Round the non-negative integer part of `m / 2^n` to nearest, ties to even; `sticky` says that the true value lies
strictly above `m`. -/
def roundShift (m n : Nat) (sticky : Bool) : Nat :=
  if n = 0 then m
  else
    let q := m / 2 ^ n
    let r := m % 2 ^ n
    let half := 2 ^ (n - 1)
    if r > half ∨ (r = half ∧ (sticky ∨ q % 2 = 1)) then q + 1 else q

/-- The magnitude code (exponent and mantissa fields together) of `m * 2^e` rounded once to `M` mantissa bits with
the given bias, subnormals included; not yet limited to the format's largest code. -/
def roundCode (M : Nat) (bias : Int) (m : Nat) (e : Int) (sticky : Bool) : Nat :=
  if m = 0 then 0
  else
    let top : Int := (Nat.log2 m : Int) + e
    let top' : Int := max top (1 - bias)
    let lsb : Int := top' - M
    let q := if lsb ≤ e then m * 2 ^ (e - lsb).toNat else roundShift m (lsb - e).toNat sticky
    ((top' + bias - 1) * (2 ^ M : Nat) + q).toNat

/-- A rounded result and the flags its own rounding raises (R132). -/
structure FRes where
  bits : Nat
  inv : Bool
  ovf : Bool
  dz : Bool
  sat : Bool
  deriving DecidableEq, Repr

/-- A result that raises nothing. -/
def FRes.plain (b : Nat) : FRes := ⟨b, false, false, false, false⟩
/-- The canonical NaN from an invalid operation. -/
def FRes.invalid (f : FFmt) : FRes := ⟨f.nanBits, true, false, false, false⟩
/-- A signed code. -/
def FFmt.signed (f : FFmt) (neg : Bool) (b : Nat) : Nat := if neg then f.signBit + b else b

/-- Round a signed exact value to the format; overflow gives infinity and raises OVF (R54, R118). -/
def roundF (f : FFmt) (neg : Bool) (m : Nat) (e : Int) (sticky : Bool := false) : FRes :=
  let c := roundCode f.M f.bias m e sticky
  if c ≥ f.infBits then ⟨f.signed neg f.infBits, false, true, false, false⟩
  else FRes.plain (f.signed neg c)

/-- Encode an already exact special or finite value. -/
def roundV (f : FFmt) : FVal → FRes
  | .nan => FRes.plain f.nanBits
  | .inf n => FRes.plain (f.signed n f.infBits)
  | .fin n m e => roundF f n m e

/-- The signed significand of a finite value at exponent `e0 ≤ e`. -/
def atExp (neg : Bool) (m : Nat) (e e0 : Int) : Int :=
  let v : Int := (m * 2 ^ (e - e0).toNat : Nat)
  if neg then -v else v

/-- The sum of two finite values, with the sign IEEE 754 gives an exact zero (R118). -/
def addFin (n1 : Bool) (m1 : Nat) (e1 : Int) (n2 : Bool) (m2 : Nat) (e2 : Int) : Bool × Nat × Int :=
  let e0 := min e1 e2
  let v := atExp n1 m1 e1 e0 + atExp n2 m2 e2 e0
  if v = 0 then ((m1 = 0 && m2 = 0 && n1 && n2), 0, e0)
  else (decide (v < 0), v.natAbs, e0)

/-- Invert a value's sign. -/
def FVal.neg : FVal → FVal
  | .nan => .nan
  | .inf n => .inf (!n)
  | .fin n m e => .fin (!n) m e

/-- A + B (R118). -/
def faddV (f : FFmt) (a b : FVal) : FRes :=
  match a, b with
  | .nan, _ => FRes.plain f.nanBits
  | _, .nan => FRes.plain f.nanBits
  | .inf n, .inf k => if n = k then FRes.plain (f.signed n f.infBits) else FRes.invalid f
  | .inf n, .fin _ _ _ => FRes.plain (f.signed n f.infBits)
  | .fin _ _ _, .inf n => FRes.plain (f.signed n f.infBits)
  | .fin n1 m1 e1, .fin n2 m2 e2 =>
    let r := addFin n1 m1 e1 n2 m2 e2
    roundF f r.1 r.2.1 r.2.2

/-- A × B (R118). -/
def fmulV (f : FFmt) (a b : FVal) : FRes :=
  match a, b with
  | .nan, _ => FRes.plain f.nanBits
  | _, .nan => FRes.plain f.nanBits
  | .inf n, .inf k => FRes.plain (f.signed (n != k) f.infBits)
  | .inf n, .fin k m _ => if m = 0 then FRes.invalid f else FRes.plain (f.signed (n != k) f.infBits)
  | .fin k m _, .inf n => if m = 0 then FRes.invalid f else FRes.plain (f.signed (n != k) f.infBits)
  | .fin n1 m1 e1, .fin n2 m2 e2 => roundF f (n1 != n2) (m1 * m2) (e1 + e2)

/-- The exact product as a value; `none` for 0 × ∞. -/
def prodV (a b : FVal) : Option FVal :=
  match a, b with
  | .inf _, .fin _ 0 _ => none
  | .fin _ 0 _, .inf _ => none
  | .nan, _ => some .nan
  | _, .nan => some .nan
  | .inf n, .inf k => some (.inf (n != k))
  | .inf n, .fin k _ _ => some (.inf (n != k))
  | .fin k _ _, .inf n => some (.inf (n != k))
  | .fin n1 m1 e1, .fin n2 m2 e2 => some (.fin (n1 != n2) (m1 * m2) (e1 + e2))

/-- A × B + C with one rounding; 0 × ∞ is invalid whatever the addend (R118). -/
def fmaV (f : FFmt) (a b c : FVal) : FRes :=
  match prodV a b with
  | none => FRes.invalid f
  | some p => faddV f p c

/-- An order key of non-NaN values: −∞ < negatives < −0 < +0 < positives < +∞. -/
def FVal.lt (a b : FVal) : Bool :=
  match a, b with
  | .nan, _ => false
  | _, .nan => false
  | .inf n, .inf k => n && !k
  | .inf n, .fin _ _ _ => n
  | .fin _ _ _, .inf n => !n
  | .fin n1 m1 e1, .fin n2 m2 e2 =>
    if m1 = 0 ∧ m2 = 0 then n1 && !n2
    else
      let e0 := min e1 e2
      decide (atExp n1 m1 e1 e0 < atExp n2 m2 e2 e0)

/-- Numeric comparison: −0 and +0 are equal (R120). -/
def FVal.ltNum (a b : FVal) : Bool :=
  match a, b with
  | .fin _ 0 _, .fin _ 0 _ => false
  | a, b => FVal.lt a b

/-- Is it a NaN. -/
def FVal.isNan : FVal → Bool
  | .nan => true
  | _ => false

/-- Is it a NaN or an infinity. -/
def FVal.isSpecial : FVal → Bool
  | .fin _ _ _ => false
  | _ => true

/-- Equality of non-NaN values, −0 equal to +0 (R120). -/
def FVal.eqNum (a b : FVal) : Bool :=
  !a.isNan && !b.isNan && !FVal.ltNum a b && !FVal.ltNum b a

/-- Minimum and maximum: NaN if either is NaN, −0 below +0 (R120). -/
def fminBits (f : FFmt) (a b : Nat) : Nat :=
  let va := decodeF f a
  let vb := decodeF f b
  if va.isNan || vb.isNan then f.nanBits else if FVal.lt vb va then b else a
/-- See `fminBits`. -/
def fmaxBits (f : FFmt) (a b : Nat) : Nat :=
  let va := decodeF f a
  let vb := decodeF f b
  if va.isNan || vb.isNan then f.nanBits else if FVal.lt va vb then b else a

/-! ### Integer conversions -/

/-- A finite value rounded to an integer, ties to even. -/
def toIntRte (neg : Bool) (m : Nat) (e : Int) : Int :=
  let q : Nat := if 0 ≤ e then m * 2 ^ e.toNat else roundShift m (-e).toNat false
  if neg then -(q : Int) else q

/-- Clamp to the two's-complement range of width `w`; says whether it clamped. -/
def satInt (w : Nat) (v : Int) : Int × Bool :=
  let hi : Int := (2 ^ (w - 1) : Nat) - 1
  let lo : Int := -(2 ^ (w - 1) : Nat)
  if v > hi then (hi, true) else if v < lo then (lo, true) else (v, false)

/-- A float to a `w`-bit integer (R122): NaN gives 0 and INV; saturation sets SATI. -/
def floatToInt (w : Nat) (v : FVal) : FRes :=
  match v with
  | .nan => ⟨0, true, false, false, false⟩
  | .inf n => ⟨wrapTo w (if n then -(2 ^ (w - 1) : Nat) else (2 ^ (w - 1) : Nat) - 1), false, false, false, true⟩
  | .fin n m e =>
    let r := satInt w (toIntRte n m e)
    ⟨wrapTo w r.1, false, false, false, r.2⟩

/-- An exact integer as a value. -/
def intVal (i : Int) : FVal := .fin (decide (i < 0)) i.natAbs 0

/-! ### Transcendental functions, correctly rounded (R124) -/

/-- Fractional bits of the fixed-point evaluations. -/
def fxBits : Nat := 320

/-- `sum over k < n of num^(2k+1) / ((2k+1) * den^(2k+1))` at `fxBits` fractional bits; `t` is the running power. -/
def atanhSum (num2 den2 : Nat) : Nat → Nat → Nat → Nat
  | 0, _, _ => 0
  | n + 1, k, t => t / (2 * k + 1) + atanhSum num2 den2 n (k + 1) (t * num2 / den2)

/-- Natural logarithm of `num / den` (at least 1, below 2) at `fxBits` fractional bits. -/
def lnFx (num den : Nat) : Nat :=
  let a := num - den
  let b := num + den
  2 * atanhSum (a * a) (b * b) 130 0 (a * 2 ^ fxBits / b)

/-- ln 2 at `fxBits` fractional bits. -/
def ln2Fx : Nat := lnFx 2 1

/-- Taylor sum of the exponential: `t` the running term, `x` the argument, both at `fxBits` fractional bits. -/
def expSum (x : Nat) : Nat → Nat → Nat → Nat
  | 0, _, _ => 0
  | n + 1, k, t => t + expSum x n (k + 1) (t * x / 2 ^ fxBits / (k + 1))

/-- `2^y` for `y` at `fxBits` fractional bits, below 1: a number at `fxBits` fractional bits. -/
def exp2Fx (y : Nat) : Nat := expSum (y * ln2Fx / 2 ^ fxBits) 90 0 (2 ^ fxBits)

/-- `2^x` for `x = ± m * 2^e`: a significand, an exponent and whether the true value lies strictly above. -/
def exp2Parts (neg : Bool) (m : Nat) (e : Int) : Nat × Int × Bool :=
  let scaled : Int := atExp neg m (e + fxBits) 0
  let n : Int := scaled / (2 ^ fxBits : Nat)
  let y : Nat := (scaled % (2 ^ fxBits : Nat)).toNat
  if y = 0 then (1, n, false) else (exp2Fx y, n - fxBits, true)

/-- Is `m * 2^e` at least `2^k`. -/
def magGe (m : Nat) (e k : Int) : Bool := m ≠ 0 && decide (k ≤ (Nat.log2 m : Int) + e)

/-- VEXP2 of a finite operand (R124). -/
def exp2Fin (f : FFmt) (neg : Bool) (m : Nat) (e : Int) : FRes :=
  if magGe m e 10 then (if neg then FRes.plain 0 else ⟨f.infBits, false, true, false, false⟩)
  else
    let p := exp2Parts neg m e
    roundF f false p.1 p.2.1 p.2.2

/-- VEXP2 (R124). -/
def exp2V (f : FFmt) : FVal → FRes
  | .nan => FRes.plain f.nanBits
  | .inf n => FRes.plain (if n then 0 else f.infBits)
  | .fin n m e => exp2Fin f n m e

/-- Integer square root by bits: the largest `r` below `2^n` above `acc` with `r * r ≤ v`. -/
def isqrtBits (v : Nat) : Nat → Nat → Nat
  | 0, acc => acc
  | n + 1, acc => let c := acc + 2 ^ n; if c * c ≤ v then isqrtBits v n c else isqrtBits v n acc

/-- Integer square root. -/
def isqrt (v : Nat) : Nat := isqrtBits v (Nat.log2 v / 2 + 1) 0

/-- VLOG2 of a positive finite operand: the exponent plus the logarithm of the significand. -/
def log2Pos (f : FFmt) (m : Nat) (e : Int) : FRes :=
  let k := Nat.log2 m
  let E : Int := (k : Int) + e
  if m = 2 ^ k then roundV f (intVal E)
  else
    let y := lnFx m (2 ^ k) * 2 ^ fxBits / ln2Fx
    let v : Int := E * (2 ^ fxBits : Nat) + y
    -- the true value differs from v by a fraction of a unit far below any rounding boundary
    roundF f (decide (v < 0)) v.natAbs (-(fxBits : Int)) true

/-- VLOG2 (R124). -/
def log2V (f : FFmt) : FVal → FRes
  | .nan => FRes.plain f.nanBits
  | .inf n => if n then FRes.invalid f else FRes.plain f.infBits
  | .fin n m e =>
    if m = 0 then ⟨f.signed true f.infBits, false, false, true, false⟩
    else if n then FRes.invalid f
    else log2Pos f m e

/-- VRCP (R124). -/
def rcpV (f : FFmt) : FVal → FRes
  | .nan => FRes.plain f.nanBits
  | .inf n => FRes.plain (f.signed n 0)
  | .fin n m e =>
    if m = 0 then ⟨f.signed n f.infBits, false, false, true, false⟩
    else
      let k := Nat.log2 m + 200
      let q := 2 ^ k / m
      roundF f n q (-(k : Int) - e) (decide (2 ^ k % m ≠ 0))

/-- VRSQRT (R124). -/
def rsqrtV (f : FFmt) : FVal → FRes
  | .nan => FRes.plain f.nanBits
  | .inf n => if n then FRes.invalid f else FRes.plain 0
  | .fin n m e =>
    if m = 0 then ⟨f.signed n f.infBits, false, false, true, false⟩
    else if n then FRes.invalid f
    else
      let m' := if e % 2 = 0 then m else 2 * m
      let e' := if e % 2 = 0 then e else e - 1
      let k := Nat.log2 m' + 200
      let r := isqrt (2 ^ (2 * k) / m')
      roundF f false r (-(k : Int) - e' / 2) (decide (r * r * m' ≠ 2 ^ (2 * k)))

/-- log₂ e rounded to FP32 (R125). -/
def log2eBits : Nat := 0x3FB8AA3B
/-- The FP32 encoding of 1. -/
def oneBits : Nat := 0x3F800000

/-- VSIGM in FP32 (R125): the fixed sequence of correctly rounded steps, no flag of its own. -/
def sigm32 (v : FVal) : Nat :=
  match v with
  | .nan => fp32.nanBits
  | v =>
    let p := (fmulV fp32 v.neg (decodeF fp32 log2eBits)).bits
    let t := (exp2V fp32 (decodeF fp32 p)).bits
    let u := (faddV fp32 (decodeF fp32 oneBits) (decodeF fp32 t)).bits
    (rcpV fp32 (decodeF fp32 u)).bits

/-- VTANH in FP32 (R125). -/
def tanh32 (v : FVal) : Nat :=
  match v with
  | .nan => fp32.nanBits
  | .inf n => fp32.signed n oneBits
  | .fin n m e =>
    if !magGe m e (-12) then (roundF fp32 n m e).bits
    else
      let p := (fmulV fp32 (.fin false m (e + 1)) (decodeF fp32 log2eBits)).bits
      let t := (exp2V fp32 (decodeF fp32 p)).bits
      let u := (faddV fp32 (decodeF fp32 oneBits) (decodeF fp32 t)).bits
      let r := decodeF fp32 (rcpV fp32 (decodeF fp32 u)).bits
      let r2 := match r with | .fin s k g => FVal.fin s k (g + 1) | x => x
      let d := (faddV fp32 (decodeF fp32 oneBits) r2.neg).bits
      fp32.signed n (d % fp32.signBit)

/-- VEXPQ of one element (R128): `x - M` in FP32, then `2^(d+24)` rounded to an integer. -/
def expqV (x anchor : FVal) : FRes :=
  match decodeF fp32 (faddV fp32 x anchor.neg).bits with
  | .nan => ⟨0, true, false, false, false⟩
  | .inf n => if n then FRes.plain 0 else ⟨2 ^ 24, false, false, false, true⟩
  | .fin n m e =>
    if m = 0 then FRes.plain (2 ^ 24)
    else if !n then ⟨2 ^ 24, false, false, false, true⟩
    else if magGe m e 6 then FRes.plain 0
    else
      let p := exp2Parts true m e
      let sh : Int := p.2.1 + 24
      FRes.plain (if 0 ≤ sh then p.1 * 2 ^ sh.toNat else roundShift p.1 (-sh).toNat p.2.2)

/-! ### Microscaled elements and blocks (R32 to R35, R56, R57) -/

/-- An MX element format: element width, mantissa bits, bias, fraction bits f, emax, p, and the code of the largest
finite magnitude. -/
structure MxFmt where
  w : Nat
  M : Nat
  bias : Int
  f : Nat
  emax : Int
  p : Int
  top : Nat
  deriving DecidableEq, Repr

/-- The MX formats of R32, codes 0x0 to 0x5 (0x5, MXINT8, is an integer format). -/
def mxFmt : Nat → Option MxFmt
  | 0 => some ⟨4, 1, 1, 1, 2, 3, 0x7⟩
  | 1 => some ⟨6, 3, 1, 3, 2, 3, 0x1F⟩
  | 2 => some ⟨6, 2, 3, 4, 4, 5, 0x1F⟩
  | 3 => some ⟨8, 3, 7, 9, 8, 9, 0x7E⟩
  | 4 => some ⟨8, 2, 15, 16, 15, 16, 0x7B⟩
  | 5 => some ⟨8, 7, 0, 6, 0, 1, 0x7F⟩
  | _ => none

/-- Bytes of a block of 32 elements (R35): four times the element width. -/
def mxBlockBytes (code : Nat) : Nat := match mxFmt code with
  | some f => 4 * f.w
  | none => 64

/-- What an element stands for: an integer q, a NaN or an infinity (R32, R33). -/
inductive MxElem where
  | q (v : Int)
  | nan
  | inf (neg : Bool)
  deriving DecidableEq, Repr

/-- Decode an element of format `code` (R33). -/
def mxDecode (code b : Nat) : MxElem :=
  match mxFmt code with
  | none => .q 0
  | some f =>
    if code = 5 then .q (sx 8 b)
    else
      let neg := bitOn b (f.w - 1)
      let m := bitsAt b 0 f.M
      let e := bitsAt b f.M (f.w - 1 - f.M)
      if code = 3 ∧ e = 15 ∧ m = 7 then .nan
      else if code = 4 ∧ e = 31 then (if m = 0 then .inf neg else .nan)
      else
        let a : Int := if e = 0 then (m : Int) else ((2 ^ f.M + m) * 2 ^ (e - 1) : Nat)
        .q (if neg then -a else a)

/-- Is the element stored with its sign bit set (only −0 cannot be told from +0 by q). -/
def mxNeg (code b : Nat) : Bool := match mxFmt code with
  | some f => bitOn b (f.w - 1)
  | none => false

/-- Element `i` of a block stored as a little-endian bit string (R35). -/
def mxElemBits (code : Nat) (block : Nat) (i : Nat) : Nat := match mxFmt code with
  | some f => bitsAt block (i * f.w) f.w
  | none => 0

/-- The block whose elements are given (R35). -/
def mxPack (code : Nat) (els : List Nat) : Nat := match mxFmt code with
  | some f => (els.zipIdx).foldl (fun a p => a + placed (p.2 * f.w) f.w p.1) 0
  | none => 0

/-- The value of an FP32 result of VLDMX for one element (R123): `q * 2^(-f) * 2^(X-127)`. DESIGN CHOICE (log entry 91): an element with
s = 1 and |q| = 0 becomes −0; R33 gives it q = 0 and no rule states the sign of the FP32 zero. -/
def mxToF32 (code x b : Nat) : FRes :=
  match mxFmt code with
  | none => FRes.plain 0
  | some f =>
    if x = 255 then FRes.plain fp32.nanBits
    else match mxDecode code b with
      | .nan => FRes.plain fp32.nanBits
      | .inf n => FRes.plain (fp32.signed n fp32.infBits)
      | .q v =>
        let neg := if code = 5 then decide (v < 0) else mxNeg code b
        roundF fp32 neg v.natAbs ((x : Int) - 127 - f.f)

/-- `floor(log2)` of a finite non-zero value. -/
def topBit (m : Nat) (e : Int) : Int := (Nat.log2 m : Int) + e

/-- The largest `floor(log2 |v|)` over the finite non-zero values of a block, if any (R56 steps 1 and 2). -/
def blockTop (vs : List FVal) : Option Int :=
  vs.foldl (fun acc v => match v with
    | .fin _ m e => if m = 0 then acc else
      match acc with
      | none => some (topBit m e)
      | some t => some (max t (topBit m e))
    | _ => acc) none

/-- The scale byte of a block (R56 steps 1 to 3, R57). -/
def blockScale (f : MxFmt) (vs : List FVal) : Nat :=
  match blockTop vs with
  | none => 0
  | some t => (max 0 (min 254 (t - f.emax + 127))).toNat

/-- Is the magnitude `m * 2^e` above the largest finite element, as it stands before rounding (R56 step 4). -/
def MxFmt.beyond (f : MxFmt) (m : Nat) (e : Int) : Bool :=
  let top : Nat := (2 ^ f.M + bitsAt f.top 0 f.M) * 2 ^ (bitsAt f.top f.M (f.w - 1 - f.M) - 1)
  if 0 ≤ e + f.f then decide (top < m * 2 ^ (e + f.f).toNat) else decide (top * 2 ^ (-(e + f.f)).toNat < m)

/-- One element of a block with scale X: the code, whether it saturated and whether it met a NaN or an infinity
(R56 step 4, R57, R123). -/
def mxEncodeElem (code : Nat) (f : MxFmt) (x : Nat) (v : FVal) : Nat × Bool × Bool :=
  match v with
  | .nan => (0, false, true)
  | .inf n => (if code = 5 then (if n then 0x81 else 0x7F) else (if n then 2 ^ (f.w - 1) + f.top else f.top), false, true)
  | .fin n m e =>
    let e' : Int := e + 127 - x
    if code = 5 then
      let q := toIntRte n m (e' + 6)
      if q > 127 then (0x7F, true, false) else if q < -127 then (0x81, true, false) else (wrapTo 8 q, false, false)
    else
      let c := roundCode f.M f.bias m e' false
      let c' := if c > f.top then f.top else c
      (if n then 2 ^ (f.w - 1) + c' else c', decide (c > f.top) || f.beyond m e', false)

/-- A block from at most 32 values; positions beyond them hold +0 (R56 step 5). Gives the scale, the block and the
saturation and special flags. -/
structure MxBlock where
  scale : Nat
  block : Nat
  sat : Bool
  special : Bool
  deriving DecidableEq, Repr

/-- Convert values to one MX block (R56, R57). -/
def mxBlock (code : Nat) (vs : List FVal) : MxBlock :=
  match mxFmt code with
  | none => ⟨0, 0, false, false⟩
  | some f =>
    let x := blockScale f vs
    let es := vs.map (mxEncodeElem code f x)
    ⟨x, mxPack code (es.map (·.1)), es.any (fun e => e.2.1), es.any (fun e => e.2.2)⟩

/-! ### Datum integers (R41, R42, R51 to R55) -/

/-- Align a block sum `S` of exponent `k` to the datum `d`: the integer and whether non-zero bits were discarded (R41).
-/
def alignTo (S : Int) (k d : Int) : Int × Bool :=
  if d ≤ k then (S * (2 ^ (k - d).toNat : Nat), false)
  else
    let n := (d - k).toNat
    let q := S / (2 ^ n : Nat)
    let r := S % (2 ^ n : Nat)
    let half : Int := (2 ^ (n - 1) : Nat)
    (if r > half ∨ (r = half ∧ q % 2 ≠ 0) then q + 1 else q, decide (r ≠ 0))

/-- Clamp a contribution to ±2^96 (R42). -/
def clampContribution (a : Int) : Int × Bool :=
  if a > (2 ^ 96 : Nat) then ((2 ^ 96 : Nat), true)
  else if a < -(2 ^ 96 : Nat) then (-(2 ^ 96 : Nat), true)
  else (a, false)

/-- Clamp a read-out to 96 bits (R42). -/
def readout (W : Int) : Int × Bool := satInt 96 W

/-- A datum-integer record (R52). -/
structure DRec where
  value : Int
  datum : Nat
  sat : Bool
  inv : Bool
  loss : Bool
  residue : Nat
  deriving DecidableEq, Repr

/-- The mod-7 residue of an integer, 0 to 6 (R59). -/
def mod7 (v : Int) : Nat := (v % 7).toNat

/-- The 128 bits of a record (R52). -/
def DRec.pack (r : DRec) : Nat :=
  wrapTo 96 r.value + placed 96 10 r.datum + placed 106 1 (bit01 r.sat) + placed 107 1 (bit01 r.inv)
    + placed 108 1 (bit01 r.loss) + placed 109 3 r.residue

/-- Read a record from 128 bits (R52). -/
def DRec.unpack (n : Nat) : DRec :=
  ⟨sx 96 n, bitsAt n 96 10, bitOn n 106, bitOn n 107, bitOn n 108, bitsAt n 109 3⟩

/-- Does the RESIDUE agree with VALUE (R53, R59). -/
def DRec.residueOk (r : DRec) : Bool := r.residue == mod7 r.value

/-- Add two records of equal datum (R53). -/
def DRec.add (a b : DRec) : DRec :=
  let c := readout (a.value + b.value)
  ⟨c.1, a.datum, a.sat || b.sat || c.2, a.inv || b.inv, a.loss || b.loss, mod7 c.1⟩

/-- A datum-integer as an exact value (R39): `A * 2^D`, D a 10-bit two's-complement exponent. -/
def datumVal (a : Int) (d : Nat) : FVal := .fin (decide (a < 0)) a.natAbs (sx 10 d)

end Sys2Proof.Machine
end

