-- ==== Sys2Proof/Machine/Operands.lean ====
section
/-! DEFINITION. Machine/Operands.lean: the operand forms: the instruction formats C, M, O, D, V, VX and VP (R74, R115),
the shape, base and geometry registers (R76, R86), and the words of a Griset packet (R457, R469). -/
namespace Sys2Proof.Machine

/-! ### Tile instruction words -/

/-- Format C (R74). -/
structure FmtC where
  xa : Nat
  xb : Nat
  sub : Nat
  imm : Nat
  deriving DecidableEq, Repr

/-- The signed immediate. -/
def FmtC.simm (f : FmtC) : Int := sx 32 f.imm

/-- Decode format C. -/
def fmtC (w : BitVec 48) : FmtC :=
  let n := w.toNat
  ⟨bitsAt n 43 5, bitsAt n 38 5, bitsAt n 32 6, bitsAt n 0 32⟩

/-- Format M (R74). -/
structure FmtM where
  fmtA : Nat
  fmtB : Nat
  xa : Nat
  xb : Nat
  xsh : Nat
  start : Bool
  dmode : Nat
  dimm : Nat
  xv : Nat
  zero : Nat
  deriving DecidableEq, Repr

/-- Decode format M. -/
def fmtM (w : BitVec 48) : FmtM :=
  let n := w.toNat
  ⟨bitsAt n 44 4, bitsAt n 40 4, bitsAt n 35 5, bitsAt n 30 5, bitsAt n 25 5, bitOn n 24, bitsAt n 22 2,
   bitsAt n 12 10, bitsAt n 7 5, bitsAt n 0 7⟩

/-- Format O (R74). -/
structure FmtO where
  fmtOut : Nat
  xdst : Nat
  xst : Nat
  xsh : Nat
  zero : Nat
  deriving DecidableEq, Repr

/-- Decode format O; `zero` gathers the fields marked zero. -/
def fmtO (w : BitVec 48) : FmtO :=
  let n := w.toNat
  ⟨bitsAt n 44 4, bitsAt n 35 5, bitsAt n 30 5, bitsAt n 25 5, bitsAt n 40 4 + bitsAt n 0 25⟩

/-- Format D (R74). -/
structure FmtD where
  xva : Nat
  xts : Nat
  xgeo : Nat
  zero : Nat
  deriving DecidableEq, Repr

/-- Decode format D. -/
def fmtD (w : BitVec 48) : FmtD :=
  let n := w.toNat
  ⟨bitsAt n 43 5, bitsAt n 38 5, bitsAt n 33 5, bitsAt n 0 33⟩

/-- Format V (R115). -/
structure FmtV where
  d : Nat
  a : Nat
  b : Nat
  c : Nat
  ety : Nat
  pred : Nat
  pen : Bool
  zm : Bool
  sb : Bool
  aux : Nat
  zero : Nat
  cnt : Nat
  deriving DecidableEq, Repr

/-- Decode format V; `cnt` is the field, one less than the element count. -/
def fmtV (w : BitVec 48) : FmtV :=
  let n := w.toNat
  ⟨bitsAt n 43 5, bitsAt n 38 5, bitsAt n 33 5, bitsAt n 28 5, bitsAt n 25 3, bitsAt n 22 3, bitOn n 21, bitOn n 20,
   bitOn n 19, bitsAt n 16 3, bitsAt n 13 3, bitsAt n 0 13⟩

/-- The number of elements or records an instruction covers (R109). -/
def FmtV.n (f : FmtV) : Nat := f.cnt + 1

/-- Format VX (R115). -/
structure FmtVX where
  xd : Nat
  xa : Nat
  xb : Nat
  i : Bool
  imm : Nat
  deriving DecidableEq, Repr

/-- Decode format VX. -/
def fmtVX (w : BitVec 48) : FmtVX :=
  let n := w.toNat
  ⟨bitsAt n 43 5, bitsAt n 38 5, bitsAt n 33 5, bitOn n 32, bitsAt n 0 32⟩

/-- Format VP (R115). -/
structure FmtVP where
  pd : Nat
  pa : Nat
  pb : Nat
  xr : Nat
  zero : Nat
  cnt : Nat
  deriving DecidableEq, Repr

/-- Decode format VP. -/
def fmtVP (w : BitVec 48) : FmtVP :=
  let n := w.toNat
  ⟨bitsAt n 45 3, bitsAt n 42 3, bitsAt n 39 3, bitsAt n 34 5, bitsAt n 13 21, bitsAt n 0 13⟩

/-! ### Matrix and tensor operand registers -/

/-- The shape register (R76). -/
structure Shape where
  k : Nat
  m : Nat
  n : Nat
  deriving DecidableEq, Repr

/-- Read a shape; `useK` is false where K is ignored (format O). -/
def shapeOf (v : Nat) (useK : Bool) : Option Shape :=
  let k := bitsAt v 0 17
  let m := bitsAt v 17 6
  let n := bitsAt v 23 6
  if bitsAt v 29 35 = 0 ∧ (!useK ∨ (1 ≤ k ∧ k ≤ 65536)) ∧ 1 ≤ m ∧ m ≤ 32 ∧ 1 ≤ n ∧ n ≤ 32 then some ⟨k, m, n⟩ else none

/-- Block columns of a reduction count (R77). -/
def Shape.nb (sh : Shape) : Nat := (sh.k + 31) / 32

/-- Element and scale bases of an operand address register (R76). -/
structure Bases where
  e : Nat
  s : Nat
  deriving DecidableEq, Repr

/-- Read the bases; the scale base is checked only where scales are used. -/
def basesOf (v : Nat) (scales : Bool) : Option Bases :=
  let e := bitsAt v 0 20
  let sc := bitsAt v 20 20
  if bitsAt v 40 24 = 0 ∧ e % 64 = 0 ∧ (!scales ∨ sc % 32 = 0) then some ⟨e, sc⟩ else none

/-- The size of a tile store. -/
def storeBytes : Nat := 1048576

/-- The tensor geometry register (R86). -/
structure Geo where
  rowBytes : Nat
  rows : Nat
  stride : Nat
  deriving DecidableEq, Repr

/-- Read a geometry. -/
def geoOf (v : Nat) : Option Geo :=
  let rb := bitsAt v 0 17
  let r := bitsAt v 17 13
  let st := bitsAt v 30 34
  if 64 ≤ rb ∧ rb ≤ 65536 ∧ rb % 64 = 0 ∧ 1 ≤ r ∧ r ≤ 4096 ∧ st % 64 = 0 ∧ (r = 1 ∨ rb ≤ st) then some ⟨rb, r, st⟩
  else none

/-! ### Vector element types (R108) -/

/-- Element types. -/
inductive EType where
  | f32 | b16 | i32 | i16 | i8
  deriving DecidableEq, Repr

/-- Decode ETYPE. -/
def etypeOf : Nat → Option EType
  | 0 => some .f32 | 1 => some .b16 | 2 => some .i32 | 3 => some .i16 | 4 => some .i8 | _ => none

/-- Width in bytes. -/
def EType.bytes : EType → Nat
  | .f32 => 4 | .b16 => 2 | .i32 => 4 | .i16 => 2 | .i8 => 1
/-- Width in bits. -/
def EType.bits (t : EType) : Nat := t.bytes * 8
/-- Is it a floating type. -/
def EType.isFloat : EType → Bool
  | .f32 => true | .b16 => true | _ => false
/-- The floating format (FP32 where the type is an integer; then not used). -/
def EType.fmt : EType → FFmt
  | .b16 => bf16 | _ => fp32

end Sys2Proof.Machine
end

