-- ==== Sys2Proof/Machine/TileOps.lean ====
section
/-! DEFINITION. Machine/TileOps.lean: what the tile instructions share: issue and stops (R69, R74, R101), the tile
store with its written bits and its correcting code (R62 to R65, R98, R99), the X registers, and injected and real
upsets (R59, R136, R598). -/
namespace Sys2Proof.Machine

/-! ### The tile store -/

/-- The key of a tile-store byte. -/
def storeKey (t a : Nat) : Nat := t * storeBytes + a

/-- The size of a tile's resident region, as its program header states it (R62, R66). -/
def residentBytes (s : State) (t : Nat) : Nat :=
  let k := ofLe (Mem.readN s.store (storeKey t 2) 2)
  if 1 ≤ k ∧ k ≤ 16 then k * 65536 else 0

/-- The 64-byte lines that `[a, a + n)` touches. -/
def linesOf (a n : Nat) : List Nat :=
  if n = 0 then [] else (List.range ((a + n - 1) / 64 - a / 64 + 1)).map (· + a / 64)

/-- One byte of the tile store as a reader sees it: a scratch line not written in this tick reads zero (R64). -/
def storeByte (s : State) (t a : Nat) : Byte :=
  if residentBytes s t ≤ a ∧ !(tileGet s t).written.contains (a / 64) then 0 else Mem.read s.store (storeKey t a)

/-- Writes a unit still owes the tile store, as a later instruction of that unit sees them (R77, R113). -/
def owedByte (ws : List Owed) (a : Nat) (b : Byte) : Byte :=
  ws.foldl (fun b w => if w.addr ≤ a then w.bytes.getD (a - w.addr) b else b) b

/-- `n` bytes of the tile store. -/
def storeRead (s : State) (t a n : Nat) : List Byte := (List.range n).map fun i => storeByte s t (a + i)

/-- A little-endian number of `n` bytes. -/
def storeNat (s : State) (t a n : Nat) : Nat := ofLe (storeRead s t a n)

/-- Open a scratch line for writing: the rest of a line whose written bit is clear becomes zero (R64); a write mends a
line whose code had failed. -/
def openLine (t : Nat) (s : State) (l : Nat) : State :=
  let τ := tileGet s t
  let τ := { τ with badLines := τ.badLines.filter (· != l) }
  if residentBytes s t ≤ l * 64 ∧ !τ.written.contains l then
    tileSet t { τ with written := l :: τ.written } { s with store := Mem.clear s.store (storeKey t (l * 64)) 64 }
  else tileSet t τ s

/-- Write bytes into the tile store, by any agent (R64). -/
def storeWrite (t a : Nat) (bs : List Byte) (s : State) : State :=
  let s := (linesOf a bs.length).foldl (openLine t) s
  { s with store := Mem.writeN s.store (storeKey t a) bs }

/-- The writes a queued instruction owed the store take place (R72, R92). -/
def payOwed (t : Nat) (ws : List Owed) (s : State) : State := ws.foldl (fun s w => storeWrite t w.addr w.bytes s) s

/-! ### X registers and completion counters -/

/-- Read an X register. -/
def xget (s : State) (t r : Nat) : Word := Map.get (tileGet s t).x 0 r
/-- Write an X register. -/
def xset (t r : Nat) (v : Word) (s : State) : State := tileMod t (fun τ => { τ with x := Map.set τ.x r v }) s
/-- Read an X register as a natural. -/
def xnat (s : State) (t r : Nat) : Nat := (xget s t r).toNat

/-- A completion counter (R92): 0 MAT, 1 LD, 2 ST, 3 KV, 4 VEC. -/
def doneGet (s : State) (t k : Nat) : Nat := (Map.get (tileGet s t).done 0 k).toNat
/-- Raise a completion counter by `n`. -/
def doneBump (t k n : Nat) (s : State) : State :=
  tileMod t (fun τ => { τ with done := Map.set τ.done k (Map.get τ.done 0 k + BitVec.ofNat 32 n) }) s
/-- Is every queued instruction of the tile complete (R71). -/
def tileIdle (s : State) (t : Nat) : Bool :=
  let τ := tileGet s t
  τ.matQ.isEmpty && τ.ldQ.isEmpty && τ.stQ.isEmpty && τ.vecQ.isEmpty && τ.sigQ.isEmpty
/-- Does the tile execute its tick, or has it issued END in the tick in progress (R104). -/
def tileInTick (s : State) (t : Nat) : Bool := fon s F.tileStatus_running t || fon s F.tileStatus_ended t
/-- A tile whose END has issued and whose queued instructions are complete executes no longer (R71, R104). -/
def tileRest (t : Nat) (s : State) : State :=
  if fon s F.tileStatus_ended t && tileIdle s t then fset F.tileStatus_running t 0 s else s
/-- A sync counter (R94). -/
def syncGet (s : State) (t k : Nat) : Nat := (Map.get (tileGet s t).sync 0 k).toNat
/-- Set a sync counter. -/
def syncSet (t k n : Nat) (s : State) : State :=
  tileMod t (fun τ => { τ with sync := Map.set τ.sync k (BitVec.ofNat 32 n) }) s

/-- Residues join the tile's residue stream, one byte each (R260). -/
def addResidues (t : Nat) (rs : List Nat) (s : State) : State :=
  tileMod t (fun τ => { τ with residues := τ.residues ++ rs.map (BitVec.ofNat 8) }) s

/-! ### Stops (R101) -/

/-- Why an instruction does not complete: a program error, unequal record datums (R51, with the DETAIL of R576), a translation fault, a
sync counter overflow, a decode error at an address, a use of an invalidated host page, a lost sector of its page tables at an address,
or a checked error with its CAUSE and STAGE (R105). -/
inductive TErr where
  | prog
  | datums (detail : Nat)
  | trans
  | overflow
  | decode (addr : Nat)
  | hostGone
  | lost (addr : Nat)
  | checked (cause stage : Nat) (injected : Bool)
  deriving DecidableEq, Repr

/-- CAUSE of TILE_ERR (R105). -/
def TErr.cause : TErr → Nat
  | .prog => 6 | .datums _ => 6 | .trans => 7 | .overflow => 8 | .decode _ => 6 | .hostGone => 7 | .lost _ => 0 | .checked c _ _ => c
/-- STAGE of TILE_ERR (R105). -/
def TErr.stage : TErr → Nat
  | .checked _ st _ => st | _ => 0

/-- Record the first error of a tile in TILE_ERR (R105). -/
def tileErr (t cause stage : Nat) (s : State) : State :=
  firstErr F.tileErr_valid F.tileErr_more
    [(F.tileErr_cause, cause), (F.tileErr_stage, stage), (F.tileErr_pc, fget s F.tileStatus_pc t),
     (F.tileErr_tick, tickOf s (partOfTile s t) % 2 ^ 32)] t s

/-- Stop a tile: no further issue, queued work cancelled with the writes it owed (R61, R101, R104). -/
def stopTile (t : Nat) (s : State) : State :=
  let s := fset F.tileStatus_running t 0 (fset F.tileStatus_waiting t 0 (fset F.tileStatus_stopped t 1 s))
  tileMod t (fun τ => { τ with matQ := [], ldQ := [], stQ := [], vecQ := [], wait := .none, sigQ := [] }) s

/-- The error record of a tile event (R573, R576): code 0x01 with the cause as its kind. -/
def tileRecord (t cause cls : Nat) (ctx : Option Nat) (injected : Bool) (detail : Nat) (s : State) : State :=
  logErr { code := 0x0100 + cause, cls := cls, part := some (partOfTile s t), ctx := ctx, source := tileNode t,
           unitReg := (rget s .tileErr t).toNat, detail := detail, injected := injected } s

/-- A checked error spoils the tick (R101, R103). -/
def checkedStop (t cause stage : Nat) (injected : Bool) (s : State) : State :=
  let s := stopTile t (tileErr t cause stage s)
  let τ := tileGet s t
  let s := if τ.spoiledTick || !inTick s (partOfTile s t) then s
    else tileSet t { τ with spoiledTick := true } (fbump F.tileSpoilCount_count t 1 s)
  let s := spoil (partOfTile s t) (.tile (globalTile s t)) injected s
  tileRecord t cause clsSpoil none injected 0 s

/-- A program error, a translation fault or a counter overflow faults the context and does not spoil (R101). -/
def contextStop (t : Nat) (e : TErr) (detail : Nat) (s : State) : State :=
  let c := (tileGet s t).ctx
  let s := stopTile t (tileErr t e.cause e.stage s)
  let s := match e with
    | .decode a => logErr { code := 0x0D01, cls := clsContext, part := some (partOfTile s t), ctx := some c,
                            source := tileNode t, addr := some a, unitReg := (rget s .tileErr t).toNat } s
    | _ => tileRecord t e.cause clsContext (some c) false detail s
  ctxFault c (if e = .hostGone then 0x14 else 0x10) (globalTile s t) e.cause s

/-- Stop a tile for a reason (R101). -/
def tileStop (t : Nat) (e : TErr) (s : State) : State :=
  match e with
  | .checked c st inj => checkedStop t c st inj s
  | .datums d => contextStop t .prog d s
  | .lost a => stopTile t (memUncorrectable a 4 (some (partOfTile s t)) false s)
  | e => contextStop t e 0 s

/-! ### Upsets and injections (R59, R101, R136, R598) -/

/-- Does an armed injection of `kind` fall on `target` now (R598). -/
def injectHit (s : State) (kind target tick : Nat) : Bool :=
  fon s F.tpInject_en 0 && fget s F.tpInject_kind 0 == kind && fget s F.tpInject_target 0 == target
    && decide (fget s F.tpInject_count 0 > 0) && !(fon s F.tpInject_perAttempt 0 && s.injDone)
    && (!fon s F.tpInjectTick_atEn 0 || decide (diff32 (tick % 2 ^ 32) (fget s F.tpInjectTick_atTick 0) < 2 ^ 31))

/-- An injection took place: COUNT falls, EN clears at 0, the tick is remembered (R598, R599). -/
def injectUse (tick : Nat) (s : State) : State :=
  let n := fget s F.tpInject_count 0 - 1
  let s := fset F.tpStatus_lastInjTick 0 (tick % 2 ^ 32) (fset F.tpInject_count 0 n s)
  let s := if n = 0 then fset F.tpInject_en 0 0 s else s
  { s with injDone := true }

/-- Which unit an instruction uses, for the checks that apply to it: the matrix unit's products, its scan, and its read-out, which may
convert. -/
inductive TUnit where
  | seq | product | scan | readout (converts : Bool) | load | store | vector | vecStore
  deriving DecidableEq, Repr

/-- The STAGE codes of R105 whose check an instruction of a unit meets (R59). An accumulation (stage 5) is checked by the read. -/
def TUnit.stages : TUnit → List Nat
  | .product => [0, 1, 2, 3, 4, 7]
  | .scan => [1]
  | .readout converts => if converts then [5, 6, 7, 8] else [5, 6, 7]
  | _ => []

/-- The upset an injection stands for at a tile's unit, if one falls on it. -/
def injectedUpset (s : State) (t : Nat) (u : TUnit) : Option Upset :=
  let g := globalTile s t
  let k := tickOf s (partOfTile s t)
  let stage := fget s F.tpInject_stage 0
  if u.stages.contains stage ∧ injectHit s 0 g k then
    some (if stage = 7 then .matParity 0 else if stage = 1 ∨ stage = 8 then .matDup stage else .matSum stage 0 0 1)
  else if (u = .vector ∨ u = .vecStore) ∧ injectHit s 1 g k then some .vector
  else if injectHit s 2 g k then some (if fon s F.tpInject_ue 0 then .storeUncorrectable else .storeCorrected)
  else none

/-- Does a residue comparison find an integer that is off by `d` (R60): every `d` but a multiple of 7, so every ±2^j. -/
def residueFinds (d : Int) : Bool := mod7 d != 0

/-- The error an upset is, where it stops the instruction (R60, R101, R105, R137). An upset of a stage the instruction does not pass
does not strike it; a row whose parity is upset is found where the row is used (R59). -/
def upsetErr (u : TUnit) (inj : Bool) : Upset → Option TErr
  | .matSum st _ _ d => if u.stages.contains st ∧ residueFinds d then some (.checked 1 st inj) else none
  | .matDup st => if u.stages.contains st ∧ (st = 1 ∨ st = 8) then some (.checked 2 st inj) else none
  | .matParity _ => if u.stages.contains 7 ∧ inj then some (.checked 2 7 inj) else none
  | .vector => if u = .vector ∨ u = .vecStore then some (.checked 3 0 inj) else none
  | .storeUncorrectable => some (.checked 4 0 inj)
  | .storeCorrected => none
  | .seqParity => some (.checked 5 0 inj)

/-- A corrected tile-store read is counted (R99). -/
def correctedCount (t : Nat) (u : Option Upset) (s : State) : State :=
  if u = some .storeCorrected then fbump F.tileCeCount_count t 1 s else s

/-! ### Issue (R69, R74) -/

/-- Does the unit's queue have room (R69, R112). The vector engine's 8 places are shared by all its instructions; the table has no
event for an instruction's start, so one that stores nothing gives its place back as it issues, and a store holds its place until
VECTOR_STORE_COMPLETE (log entry 89). -/
def roomFor (τ : Tile) : TUnit → Bool
  | .seq => true
  | .product | .scan | .readout _ => decide (τ.matQ.length < 4)
  | .load => decide (τ.ldQ.length < 16)
  | .store => decide (τ.stQ.length < 16)
  | .vector => decide (τ.vecQ.length < 8)
  | .vecStore => decide (τ.vecQ.length < 8)

/-- Can the tile issue an instruction to the unit now: it executes a tick, is not stalled, ended or stopped, and the
unit's queue has room (R69, R71, R101). -/
def canIssue (s : State) (t : Nat) (u : TUnit) : Bool :=
  decide (t < numTiles) && fon s F.tileStatus_running t && !fon s F.tileStatus_waiting t
    && !fon s F.tileStatus_ended t && !fon s F.tileStatus_stopped t && roomFor (tileGet s t) u

/-- The program counter moves to the next instruction word. -/
def pcNext (t : Nat) (s : State) : State := fset F.tileStatus_pc t (fget s F.tileStatus_pc t + 1) s

/-- The instruction that the tile's sequencer fetches: the word at the program counter, as R73 reads it (R69, R73, R75, R116). -/
def fetched (s : State) (t : Nat) : Instr := decodeTile t (BitVec.ofNat 64 (storeNat s t (fget s F.tileStatus_pc t * 8) 8))

/-- The line that the instruction word at the program counter lies in (R69). -/
def fetchLine (s : State) (t : Nat) : Nat := fget s F.tileStatus_pc t / 8

/-- What stops an instruction before its body: a line of its code that is known bad (R100), an upset that a check finds, a word that
names no listed instruction (R74). -/
def preStop (o : TileOp) (u : TUnit) (inj : Bool) (up : Option Upset) (s : State) : Option TErr :=
  if (tileGet s o.tile).badLines.contains (fetchLine s o.tile) then some (.checked 4 0 false)
  else match up.bind (upsetErr u inj) with
    | some e => some e
    | none => if o.reserved.isSome then some .prog else none

/-- Issue an instruction: where the tile can issue, an upset or an error in the body stops the tile, and otherwise the
body's effect stands and the program counter moves on unless the instruction waits or ends the tick. Where it cannot issue, nothing
happens (R69). -/
def issue (o : TileOp) (u : TUnit) (body : State → Except TErr State) (s : State) : State :=
  if !canIssue s o.tile u then s
  else
    let inj := injectedUpset s o.tile u
    let s := if inj.isSome then injectUse (tickOf s (partOfTile s o.tile)) s else s
    let up := if inj.isSome then inj else o.upset
    let s := correctedCount o.tile up s
    match preStop o u inj.isSome up s with
    | some e => tileStop o.tile e s
    | none =>
      match body s with
      | .error e => tileStop o.tile e s
      | .ok s =>
        if fon s F.tileStatus_waiting o.tile || fon s F.tileStatus_stopped o.tile || fon s F.tileStatus_ended o.tile then s
        else pcNext o.tile s

/-- An instruction's outcome: always a next state. -/
def issued (o : TileOp) (u : TUnit) (body : State → Except TErr State) (s : State) : Result := .next (issue o u body s)

/-- Fail with a program error unless the condition holds. -/
def need (b : Bool) : Except TErr Unit := if b then .ok () else .error .prog

/-- Read tile-store bytes for an instruction: past the end is a program error, a line known bad is an uncorrectable
read (R99, R100, R101). The reads of a unit see what its own earlier instructions still owe the store (R77, R113). -/
def loadBytes (s : State) (t a n : Nat) (owed : List (List Owed) := []) : Except TErr (List Byte) :=
  if a + n > storeBytes then .error .prog
  else if (linesOf a n).any (tileGet s t).badLines.contains then .error (.checked 4 0 false)
  else .ok ((storeRead s t a n).zipIdx.map fun e => owedByte owed.flatten (a + e.2) e.1)

/-- A read of `n` bytes by another requester than the tile's own units, a walker or a reader of the window, with the injection or upset
that it meets (R99, R101, R598): none where the bytes are delivered, a corrected error being counted; otherwise whether the error was
injected. -/
def storeMeets (t a n : Nat) (u : Option Upset) (s : State) : Option Bool × State :=
  let tick := tickOf s (partOfTile s t)
  let inj := injectHit s 2 (globalTile s t) tick
  let u := if inj then some (if fon s F.tpInject_ue 0 then .storeUncorrectable else .storeCorrected) else u
  let s := correctedCount t u (if inj then injectUse tick s else s)
  if u = some .storeUncorrectable then (some inj, s)
  else (if (linesOf a n).any (tileGet s t).badLines.contains then some false else none, s)

/-- A write by a tile instruction must lie in the scratch region and within the store (R63, R114). -/
def scratchOk (s : State) (t a n : Nat) : Bool := decide (residentBytes s t ≤ a) && decide (a + n ≤ storeBytes)

end Sys2Proof.Machine
end

