-- ==== Sys2Proof/Machine/TileSeq.lean ====
section
/-! DEFINITION. Machine/TileSeq.lean: the sequencer's own instructions (R75): control flow, scalar access,
synchronisation (R92 to R95). -/
namespace Sys2Proof.Machine

/-- Move the program counter by a signed number of words, counted from the branch itself (R75). DESIGN CHOICE (log entry 90): a target
below 0, or at or above 2^17, is taken modulo 2^17, the width of TILE_STATUS.PC; the spec says nothing of it. -/
def branchBy (t : Nat) (d : Int) (s : State) : State :=
  fset F.tileStatus_pc t (wrapTo 17 ((fget s F.tileStatus_pc t : Int) + d - 1)) s

/-- Is a wait condition satisfied now (R92, R94). -/
def waitOk (s : State) (t : Nat) : WaitCond → Bool
  | .none => true
  | .counter k n => decide (n ≤ doneGet s t k)
  | .barrier _ => false
  | .sync k n => decide (n ≤ syncGet s t k)

/-- Wait, or go on at once where the condition holds already. -/
def waitFor (t : Nat) (w : WaitCond) (s : State) : State :=
  if waitOk s t w then s else fset F.tileStatus_waiting t 1 (tileMod t (fun τ => { τ with wait := w }) s)

/-- NOP. -/
def execNop (o : TileOp) (s : State) : Result := issued o .seq (fun s => .ok s) s

/-- END (R71): the tile stops fetching. -/
def execEndTick (o : TileOp) (s : State) : Result :=
  issued o .seq (fun s => .ok (tileRest o.tile (fset F.tileStatus_ended o.tile 1 s))) s

/-- BR. -/
def execBr (o : TileOp) (s : State) : Result := issued o .seq (fun s => .ok (branchBy o.tile (fmtC o.w).simm s)) s

/-- BRZ. -/
def execBrz (o : TileOp) (s : State) : Result :=
  issued o .seq (fun s => .ok (if xget s o.tile (fmtC o.w).xa = 0 then branchBy o.tile (fmtC o.w).simm s else s)) s

/-- BRNZ. -/
def execBrnz (o : TileOp) (s : State) : Result :=
  issued o .seq (fun s => .ok (if xget s o.tile (fmtC o.w).xa = 0 then s else branchBy o.tile (fmtC o.w).simm s)) s

/-- LOOP. -/
def execLoopTo (o : TileOp) (s : State) : Result :=
  issued o .seq (fun s =>
    let f := fmtC o.w
    let v := xget s o.tile f.xa - 1
    let s := xset o.tile f.xa v s
    .ok (if v = 0 then s else branchBy o.tile f.simm s)) s

/-- SLI. -/
def execSli (o : TileOp) (s : State) : Result :=
  issued o .seq (fun s => .ok (xset o.tile (fmtC o.w).xa (BitVec.ofInt 64 (fmtC o.w).simm) s)) s

/-- SLIH. -/
def execSlih (o : TileOp) (s : State) : Result :=
  issued o .seq (fun s =>
    let f := fmtC o.w
    .ok (xset o.tile f.xa (BitVec.ofNat 64 (f.imm * 2 ^ 32 + xnat s o.tile f.xa % 2 ^ 32)) s)) s

/-- The address of SLD and SST: XB + IMM. -/
def scalarAddr (s : State) (o : TileOp) : Nat :=
  (xget s o.tile (fmtC o.w).xb + BitVec.ofInt 64 (fmtC o.w).simm).toNat

/-- SLD: an 8-byte aligned load into XA. -/
def execSld (o : TileOp) (s : State) : Result :=
  issued o .seq (fun s => do
    let a := scalarAddr s o
    need (a % 8 == 0)
    let bs ← loadBytes s o.tile a 8
    return xset o.tile (fmtC o.w).xa (BitVec.ofNat 64 (ofLe bs)) s) s

/-- SST: an 8-byte aligned store of XA, not into the resident region (R63). -/
def execSst (o : TileOp) (s : State) : Result :=
  issued o .seq (fun s => do
    let a := scalarAddr s o
    need (a % 8 == 0 && scratchOk s o.tile a 8)
    return storeWrite o.tile a (leBytes 8 (xnat s o.tile (fmtC o.w).xa)) s) s

/-- WAITC: counters 0 to 4; codes 5 to 7 are program errors (R92). -/
def execWaitc (o : TileOp) (s : State) : Result :=
  issued o .seq (fun s => do
    let f := fmtC o.w
    need (decide (f.sub % 8 ≤ 4))
    return waitFor o.tile (.counter (f.sub % 8) f.imm) s) s

/-- WAITS. -/
def execWaits (o : TileOp) (s : State) : Result :=
  issued o .seq (fun s => .ok (waitFor o.tile (.sync ((fmtC o.w).sub % 16) (fmtC o.w).imm) s)) s

/-- WAIT_SATISFIED: a stalled WAITC or WAITS whose counter has reached its value lets issue go on (R69). -/
def execWaitSatisfied (tile : Nat) (s : State) : Result :=
  .next (if fon s F.tileStatus_waiting tile && waitOk s tile (tileGet s tile).wait && (tileGet s tile).wait != .none then
    pcNext tile (fset F.tileStatus_waiting tile 0 (tileMod tile (fun τ => { τ with wait := .none }) s))
  else s)

/-- BSYNC (R93): arrive at a bay barrier and stall. -/
def execBsync (o : TileOp) (s : State) : Result :=
  issued o .seq (fun s => do
    let f := fmtC o.w
    let b := f.sub % 16
    let mask := f.imm % 256
    let me := o.tile % 8
    let bay := bayGet s (bayOf o.tile)
    let bar := Map.get bay.bars {} b
    need (bitOn mask me)
    need (bar.arrived == 0 || bar.mask == mask)
    need (!bitOn bar.arrived me)
    let bar := { bar with mask := mask, arrived := bar.arrived + 2 ^ me }
    let s := baySet (bayOf o.tile) { bay with bars := Map.set bay.bars b bar } s
    return fset F.tileStatus_waiting o.tile 1 (tileMod o.tile (fun τ => { τ with wait := .barrier b }) s)) s

/-- BARRIER_RELEASE (R93): every tile of the mask has arrived; they go on and the barrier starts a new generation. -/
def execBarrierRelease (bay barrier : Nat) (s : State) : Result :=
  .next (
    let y := bayGet s bay
    let bar := Map.get y.bars {} barrier
    if bar.arrived = 0 ∨ bar.arrived ≠ bar.mask ∨ numBays ≤ bay then s
    else
      let s := baySet bay { y with bars := Map.set y.bars barrier ⟨0, 0, bar.generation + 1⟩ } s
      (bitList 8 bar.mask).foldl (fun s k =>
        let t := bay * 8 + k
        if (tileGet s t).wait = .barrier barrier then
          pcNext t (fset F.tileStatus_waiting t 0 (tileMod t (fun τ => { τ with wait := .none }) s))
        else s) s)

/-- Add to a sync counter of this hub for a signal from tile `from` of a hub, or from outside it (R94, R146): the new
state, or the error of the signalling context. A tile in reset gets none: its router refuses the signal (R324). -/
def signalLocal (fromG target ctr inc : Nat) (s : State) : Except TErr State :=
  match localTile target with
  | none => .error (.decode (0xE00000000000 + target * 0x100000))
  | some t =>
    if s.netReset.contains (bayOf t) then .ok s
    else if ctr ≥ 13 ∧ fromG ≠ target ∧ bitOn (tileGet s t).ring 0 then .error .prog
    else
      let n := syncGet s t ctr + inc
      if n ≥ 2 ^ 32 then .ok (syncSet t ctr (2 ^ 32 - 1) s) else .ok (syncSet t ctr n s)

/-- Would the increment take the counter past its largest value (R94). -/
def signalOverflows (s : State) (target ctr inc : Nat) : Bool := match localTile target with
  | none => false
  | some t => !s.netReset.contains (bayOf t) && decide (syncGet s t ctr + inc ≥ 2 ^ 32)

/-- Is a signal's target a tile in reset (R324)? -/
def signalBarred (s : State) (target : Nat) : Bool := match localTile target with
  | none => false
  | some t => s.netReset.contains (bayOf t)

/-- The TAG that a SIG over Idoon carries, which no request uses, so that an ERR_RSP to it is known (log entry 86). -/
def sigTag : Nat := 0xFFFF

/-- A signal takes effect (R94, R95): on this hub, or over Idoon to another member of the domain. -/
def signalNow (t target ctr inc : Nat) (s : State) : Except TErr State :=
  let g := globalTile s t
  if hubOfTile target = hubId s then signalLocal g target ctr inc s
  else if bitOn (fget s F.domMembers_members 0) (hubOfTile target) then
    .ok (sendPkt { fromHub s 0x05 (hubOfTile target) with
      part := partOfTile s t, tag := sigTag, srcTile := g, data := padTo 32 0 (leBytes 3 target ++ leBytes 1 ctr ++ leBytes 2 inc) } s)
  else .error (.decode (0xE00000000000 + target * 0x100000))

/-- A signal and, where it overflows a counter of this hub, the error of the signaller (R94). -/
def signalDone (t target ctr inc : Nat) (s : State) : Except TErr State :=
  let ovr := hubOfTile target = hubId s ∧ signalOverflows s target ctr inc
  match signalNow t target ctr inc s with
  | .error e => .error e
  | .ok s => .ok (if ovr then tileStop t .overflow s else s)

/-- Stores of a tile not yet acknowledged. -/
def openStores (τ : Tile) : Nat := (τ.stQ.filter fun x => !x.done).length

/-- The tags of a tile's writes to tile stores that have not been acknowledged (R95): its requests on the hub network. -/
def openWrites (s : State) (t : Nat) : List Nat :=
  (s.netReqs.filter fun r => r.src == tileNode t && r.write).map (·.tag)

/-- SIG (R94, R95): at once, or after the tile's earlier stores and window writes have been acknowledged. -/
def execSig (o : TileOp) (s : State) : Result :=
  issued o .seq (fun s => do
    let f := fmtC o.w
    let inc := f.imm % 65536
    let target := xnat s o.tile f.xa
    need (inc != 0 && decide (target < 2 ^ 19))
    if openStores (tileGet s o.tile) = 0 ∧ openWrites s o.tile = [] then signalDone o.tile target (f.sub % 16) inc s
    else return tileMod o.tile (fun τ =>
      { τ with sigQ := τ.sigQ ++ [⟨target, f.sub % 16, inc, openStores τ, openWrites s o.tile, false⟩] }) s) s

/-- After an acknowledgement, signals that wait for no further store or window write take effect in order (R95). -/
def drainSignals (t : Nat) : Nat → State → State
  | 0, s => s
  | fuel + 1, s =>
    match (tileGet s t).sigQ with
    | g :: rest =>
      if g.stores ≠ 0 ∨ g.stuck = true ∨ (g.writes.any (openWrites s t).contains) = true then s
      else
        let s := tileMod t (fun τ => { τ with sigQ := rest }) s
        match signalDone t g.target g.ctr g.inc s with
        | .error e => tileStop t e s
        | .ok s => drainSignals t fuel s
    | [] => s

/-- The signals of a tile that wait for nothing more take effect (R95). -/
def releaseSignals (t : Nat) (s : State) : State := tileRest t (drainSignals t (tileGet s t).sigQ.length s)

end Sys2Proof.Machine
end

