-- ==== Sys2Proof/Machine/TileTensor.lean ====
section
/-! DEFINITION. Machine/TileTensor.lean: tensor loads and stores (R86 to R92): geometry, translation through the tile's
cache of 64 entries, the load's data, direct and staged stores and their acknowledgement. -/
namespace Sys2Proof.Machine

/-- A piece of a transfer that lies in one 64 KiB page: offset in the transfer, virtual address, length. -/
structure Piece where
  off : Nat
  va : Nat
  len : Nat
  deriving DecidableEq, Repr

/-- Pieces of one row. -/
def rowPieces (off va len : Nat) : List Piece :=
  let k := min len (65536 - va % 65536)
  if len ≤ k then [⟨off, va, len⟩] else [⟨off, va, k⟩, ⟨off + k, va + k, len - k⟩]

/-- The pieces of a transfer, in ascending offset (R86: a row is at most one page long, so it touches at most two). -/
def Xfer.pieces (x : Xfer) : List Piece :=
  (List.range x.rows).flatMap fun i => rowPieces (i * x.rowBytes) (x.va + i * x.stride) x.rowBytes

/-- Bytes a transfer moves. -/
def Xfer.bytes (x : Xfer) : Nat := x.rows * x.rowBytes

/-- Does a translation cover a page. -/
def Trans.covers (t : Trans) (page : Nat) : Bool := decide (t.page ≤ page) && decide (page < t.page + t.pages)

/-- The address a translation gives. -/
def Trans.at (t : Trans) (va : Nat) : Nat := t.base + (va - t.page * 65536)

/-- A usable translation among those held. -/
def transFind (l : List Trans) (page : Nat) : Option Trans := l.find? fun t => t.covers page && !t.marked

/-- Walk the tables for a tile (R87, R455): a valid pinned mapping, write permission for a store, and for a host page a
pinned host translation (R415). -/
def tileWalk (s : State) (c page : Nat) (store : Bool) : Except TErr Trans :=
  match walk s c (page * 65536) with
  | .error (.unread a) => .error (.lost a)
  | .error _ => .error .trans
  | .ok l =>
    let p := (ctxGet s c).part
    let a := l.at (page * 65536)
    if !l.pinned || (store && !l.write) then .error .trans
    else if l.host && hostMarked s p a then .error .hostGone
    else if l.host && !hostPinned s p a then .error .trans
    else .ok { page := l.first, pages := l.pages, base := l.base, host := l.host, write := l.write }

/-- Enter a translation in the tile's cache of 64, the oldest leaving (R87). -/
def cacheAdd (t : Trans) (τ : Tile) : Tile := { τ with cache := (t :: τ.cache).take 64 }

/-- Start a transfer: translations the cache holds are taken, the other pages wait for a fill (R87). -/
def Xfer.start (τ : Tile) (store : Bool) (x : Xfer) : Xfer :=
  (x.pieces.map fun q => q.va / 65536).eraseDups.foldl (fun x page =>
    match transFind τ.cache page with
    | some t => if store && !t.write then { x with todo := x.todo ++ [page] } else { x with trans := x.trans ++ [t] }
    | none => { x with todo := x.todo ++ [page] }) x

/-- The operands of a tensor instruction, checked (R74, R86). -/
def tensorOperands (s : State) (o : TileOp) (load : Bool) : Except TErr Xfer := do
  let f := fmtD o.w
  need (f.zero == 0)
  match geoOf (xnat s o.tile f.xgeo) with
  | none => .error .prog
  | some g =>
    let va := xnat s o.tile f.xva
    let ts := xnat s o.tile f.xts % 2 ^ 20
    need (decide (va < 2 ^ 57) && va % 64 == 0 && ts % 64 == 0 && decide (ts + g.rows * g.rowBytes ≤ storeBytes))
    need (!load || decide (residentBytes s o.tile ≤ ts))
    return { va := va, ts := ts, rowBytes := g.rowBytes, rows := g.rows, stride := g.stride }

/-- TLD (R88): the load enters the tensor load queue; its data lands at TLD_COMPLETE. -/
def execTld (o : TileOp) (s : State) : Result :=
  issued o .load (fun s => do
    let x ← tensorOperands s o true
    return tileMod o.tile (fun τ => { τ with ldQ := τ.ldQ ++ [x.start τ false] }) s) s

/-- Does a transfer's translation name host memory. -/
def Xfer.touchesHost (x : Xfer) : Bool := x.trans.any (·.host)

/-- TST (R89): the data is read from the tile store and waits for its destination; a translation that names host memory
is a program error. -/
def execTst (o : TileOp) (s : State) : Result :=
  issued o .store (fun s => do
    let x ← tensorOperands s o false
    let bs ← loadBytes s o.tile x.ts x.bytes
    let x := { x with data := bs }.start (tileGet s o.tile) true
    need (!x.touchesHost)
    return tileMod o.tile (fun τ => { τ with stQ := τ.stQ ++ [x] }) s) s

/-- Fill every missing translation of a transfer at once, entering each in the tile's cache. -/
def fillAll (t c : Nat) (store : Bool) : List Nat → Xfer → State → Except TErr (Xfer × State)
  | [], x, s => .ok ({ x with todo := [] }, s)
  | page :: rest, x, s => do
    if (transFind x.trans page).isSome then fillAll t c store rest x s
    else
      let tr ← tileWalk s c page store
      fillAll t c store rest { x with trans := x.trans ++ [tr] } (tileMod t (cacheAdd tr) (perfCount 8 (fieldOf t) (partOfTile s t) 1 s))

/-- The bytes of a transfer's piece. -/
def Xfer.pieceData (x : Xfer) (q : Piece) : List Byte := (x.data.drop q.off).take q.len

/-- Stage the pieces of a store (R90, R201). -/
def stagePieces (t c : Nat) (x : Xfer) : List Staged :=
  x.pieces.filterMap fun q => (transFind x.trans (q.va / 65536)).map fun tr =>
    { kind := if tr.host then .hostStore else .store, tile := t, ctx := c, va := q.va, addr := tr.at q.va,
      data := x.pieceData q }

/-- Bytes a partition's tick has staged. -/
def stagedBytes (l : List Staged) : Nat := (l.map fun e => e.data.length).sum

/-- Hand effects to the staging path; beyond the half's size the tick overflows and what it has staged is discarded
(R202). -/
def stageAll (p : Nat) (es : List Staged) (s : State) : State :=
  partMod p (fun w =>
    if w.overflow then w
    else
      let l := w.staged ++ es
      let cap := match w.inForce with | some r => r.stage64K * 65536 | none => 0
      if stagedBytes l > cap then { w with overflow := true, staged := [] } else { w with staged := l }) s

/-- STAGING_OVERFLOW leaves its record once (R202, R576). -/
def stageAllLogged (t p : Nat) (es : List Staged) (s : State) : State :=
  let was := (partGet s p).overflow
  let s := stageAll p es s
  if !was && (partGet s p).overflow then
    logErr { code := 0x0913, cls := clsInfo, part := some p, source := tileNode t } s
  else s

/-- Retire leading completed stores and raise ST by their number, in program order (R92). -/
def retireStores (t : Nat) (s : State) : State :=
  let τ := tileGet s t
  let n := (τ.stQ.takeWhile (·.done)).length
  if n = 0 then s else doneBump t 2 n (tileSet t { τ with stQ := τ.stQ.drop n } s)

/-- TST.S (R90): the data is handed to staging and accepted at once; the destination is untouched. -/
def execTstS (o : TileOp) (s : State) : Result :=
  issued o .store (fun s => do
    let x ← tensorOperands s o false
    let bs ← loadBytes s o.tile x.ts x.bytes
    let τ := tileGet s o.tile
    let x := { x with data := bs }.start τ true
    let (x, s) ← fillAll o.tile τ.ctx true x.todo x s
    let s := stageAllLogged o.tile (partOfTile s o.tile) (stagePieces o.tile τ.ctx x) s
    let s := perfCount 7 (fieldOf o.tile) (partOfTile s o.tile) x.bytes s
    return retireStores o.tile (tileMod o.tile (fun τ => { τ with stQ := τ.stQ ++ [{ x with done := true, data := [] }] }) s)) s

/-- Change the first transfer that still lacks a translation. -/
def fillFirst (f : Xfer → Xfer) : List Xfer → List Xfer
  | [] => []
  | x :: xs => if x.todo.isEmpty then x :: fillFirst f xs else f x :: xs

/-- TILE_TRANSLATION_FILL (R87): the mover walks the tables for the oldest missing page of the tile's loads or stores; a
walk that finds no valid pinned mapping faults the context; a direct store to host memory is a program error (R89). -/
def execTileTranslationFill (tile : Nat) (store : Bool) (s : State) : Result :=
  .next (
    let τ := tileGet s tile
    let q := if store then τ.stQ else τ.ldQ
    match q.find? (fun x => !x.todo.isEmpty) with
    | none => s
    | some x =>
      match x.todo with
      | [] => s
      | page :: rest =>
        match tileWalk s τ.ctx page store with
        | .error e => tileStop tile e s
        | .ok tr =>
          if store && tr.host then tileStop tile .prog s
          else
            let g := fun (x : Xfer) => { x with trans := x.trans ++ [tr], todo := rest.filter fun k => !tr.covers k }
            tileMod tile (fun τ =>
              let τ := cacheAdd tr τ
              if store then { τ with stQ := fillFirst g τ.stQ } else { τ with ldQ := fillFirst g τ.ldQ }) (perfCount 8 (fieldOf tile) (partOfTile s tile) 1 s))

/-- Gather a load's bytes: device pieces from memory, host pieces from what the host answered, in order. -/
def gatherLoad (p cls : Nat) (x : Xfer) : List Piece → List Byte → State → Option (List (Nat × List Byte)) × State
  | [], _, s => (some [], s)
  | q :: qs, host, s =>
    match transFind x.trans (q.va / 65536) with
    | none => (none, s)
    | some tr =>
      if tr.host then
        match gatherLoad p cls x qs (host.drop q.len) s with
        | (some r, s) => (some ((q.off, padTo q.len 0 (host.take q.len)) :: r), s)
        | (none, s) => (none, s)
      else
        match devRead (tr.at q.va) q.len (some p) s cls with
        | (none, s) => (none, s)
        | (some bs, s) =>
          match gatherLoad p cls x qs host s with
          | (some r, s) => (some ((q.off, bs) :: r), s)
          | (none, s) => (none, s)

/-- The sluice class of a tile's transfers (R91, R328). -/
def tileClass (s : State) (t : Nat) : Nat := classFor s (partOfTile s t) (tileGet s t).cls

/-- Does a transfer touch a channel that retrains, which holds it (R287). -/
def Xfer.held (s : State) (x : Xfer) : Bool := x.pieces.any fun q => match transFind x.trans (q.va / 65536) with
  | some tr => !tr.host && memHeld s (tr.at q.va) q.len
  | none => false

/-- TLD_COMPLETE (R88, R92): every byte of the oldest load is in the tile store and LD rises by 1; `host` is what host
memory answered for its host pieces. An uncorrectable read delivers nothing and spoils the tick (R286). -/
def execTldComplete (tile : Nat) (host : List Byte) (s : State) : Result :=
  .next (
    match (tileGet s tile).ldQ with
    | [] => s
    | x :: rest =>
      if !x.todo.isEmpty || x.held s then s
      else
        let drop := tileMod tile (fun τ => { τ with ldQ := rest })
        let p := partOfTile s tile
        if x.touchesHost && waitCause s p then drop (spoil p (.link (0x40000 + boundPort s p)) false s)
        else match gatherLoad (partOfTile s tile) (tileClass s tile) x x.pieces host s with
        | (none, s) => drop s
        | (some parts, s) =>
          let s := parts.foldl (fun s q => storeWrite tile (x.ts + q.1) q.2 s) s
          tileRest tile (doneBump tile 1 1 (drop (perfCount 6 (fieldOf tile) (partOfTile s tile) x.bytes s))))

/-- Change the oldest store that awaits its acknowledgement. -/
def storeMod (f : Xfer → Xfer) : List Xfer → List Xfer
  | [] => []
  | x :: xs => if x.done || x.refused then x :: storeMod f xs else f x :: xs

/-- A store's bytes are written, in the tile's class. -/
def storePieces (t : Nat) (x : Xfer) (s : State) : State :=
  (stagePieces t (tileGet s t).ctx x).foldl (fun s e => devStore e.addr e.data s (tileClass s t)) s

/-- A store part of which its destination refuses (R289): the rest is written, the tile gets the error response, and neither ST nor a
signal that waits for the store goes on (log entry 97). -/
def storeRefused (t : Nat) (x : Xfer) (s : State) : State :=
  let s := tileMod t (fun τ => { τ with
    stQ := storeMod (fun x => { x with refused := true, data := [] }) τ.stQ
    sigQ := τ.sigQ.map fun g => { g with stuck := g.stuck || g.stores != 0 } }) (storePieces t x s)
  emit .net 0x07 [tileNode t, 6] [] s

/-- TST_ACK (R89, R92, R95): the oldest direct store with all its translations is acknowledged: its bytes are written,
ST rises in program order, and signals that waited for it take effect. -/
def execTstAck (tile : Nat) (s : State) : Result :=
  .next (
    let τ := tileGet s tile
    match τ.stQ.find? (fun x => !x.done && !x.refused) with
    | none => s
    | some x =>
      if !x.todo.isEmpty || x.held s then s
      else if (stagePieces tile τ.ctx x).any (fun e => writeRefused s e.addr e.data.length) then storeRefused tile x s
      else
        let s := tileMod tile (fun τ => { τ with
          stQ := storeMod (fun x => { x with done := true, data := [] }) τ.stQ
          sigQ := τ.sigQ.map fun g => { g with stores := g.stores - 1 } }) (storePieces tile x s)
        let s := perfCount 7 (fieldOf tile) (partOfTile s tile) x.bytes (retireStores tile s)
        tileRest tile (drainSignals tile (tileGet s tile).sigQ.length s))

/-- PATROL_SCRUB (R100): one line of the resident region is read; a single-bit error is corrected and counted, an
uncorrectable one is recorded in TILE_ERR with STAGE 0xF and spoils nothing until the line is next read. -/
def execPatrolScrub (tile line : Nat) (found : Option Upset) (s : State) : Result :=
  .next (
    if numTiles ≤ tile ∨ residentBytes s tile ≤ line * 64 then s
    else match found with
      | some .storeCorrected => fbump F.tileCeCount_count tile 1 s
      | some .storeUncorrectable =>
        let s := tileErr tile 4 15 s
        let s := tileMod tile (fun τ => { τ with badLines := if τ.badLines.contains line then τ.badLines else line :: τ.badLines }) s
        tileRecord tile 4 clsInfo none false 0 s
      | _ => s)

/-- VECTOR_STORE_COMPLETE (R92, R113): the oldest vector store writes what it owes and VEC rises by 1. -/
def execVectorStoreComplete (tile : Nat) (s : State) : Result :=
  .next (
    match (tileGet s tile).vecQ with
    | [] => s
    | ws :: rest => tileRest tile (doneBump tile 4 1 (payOwed tile ws (tileMod tile (fun τ => { τ with vecQ := rest }) s))))

end Sys2Proof.Machine
end

