-- ==== Sys2Proof/Machine/KvWalker.lean ====
section
/-! DEFINITION. Machine/KvWalker.lean: the KV walker (R138 to R169): session tables, requests, deliveries, appends and
tree masks. -/
namespace Sys2Proof.Machine

/-! ### The page layout descriptor and the tables (R139 to R142) -/

/-- A page layout descriptor. -/
structure KvLayout where
  layers : Nat
  planes : Nat
  maxLog2 : Nat
  recLog2 : List Nat
  elem : List Nat
  deriving DecidableEq, Repr

/-- Read a descriptor; `none` where it breaks a line of R139. -/
def kvLayoutOf (d : List Byte) : Option KvLayout :=
  let planes := recAt d 3 1
  let ok := recAt d 0 2 == 1 && decide (1 ≤ planes ∧ planes ≤ 4) && decide (10 ≤ recAt d 4 1 ∧ recAt d 4 1 ≤ 20)
    && recAt d 5 3 == 0 && ((d.drop 24).take 40).all (· == 0)
    && (List.range 4).all fun p =>
      let r := recAt d (8 + 4 * p) 1
      let e := recAt d (9 + 4 * p) 1
      if p < planes then decide (6 ≤ r ∧ r ≤ 14) && [3, 4, 5, 8].contains e && recAt d (10 + 4 * p) 2 == 0
      else recAt d (8 + 4 * p) 4 == 0
  if ok then some { layers := recAt d 2 1 + 1, planes := planes, maxLog2 := recAt d 4 1
                    recLog2 := (List.range planes).map fun p => recAt d (8 + 4 * p) 1
                    elem := (List.range planes).map fun p => recAt d (9 + 4 * p) 1 }
  else none

/-- RECORD_BYTES of a plane. -/
def KvLayout.recBytes (k : KvLayout) (p : Nat) : Nat := 2 ^ (k.recLog2.getD p 6)
/-- TPP of a plane (R140). -/
def KvLayout.tpp (k : KvLayout) (p : Nat) : Nat := 65536 / k.recBytes p
/-- The element format of a plane. -/
def KvLayout.fmt (k : KvLayout) (p : Nat) : Nat := k.elem.getD p 3
/-- Bytes of an element: 2 for BF16, else 1. -/
def KvLayout.elemBytes (k : KvLayout) (p : Nat) : Nat := if k.fmt p = 8 then 2 else 1
/-- SPINE_LEN (R141): m is the smallest TPP_LOG2 over the planes. -/
def KvLayout.spineLen (k : KvLayout) : Nat :=
  let m := (k.recLog2.map fun r => 16 - r).foldl min 16
  2 ^ (k.maxLog2 - m - 6)
/-- The address of a spine entry (R141). -/
def KvLayout.spineAt (k : KvLayout) (root l p j : Nat) : Nat := root + 64 + ((l * k.planes + p) * k.spineLen + j) * 8

/-- An entry whose zero fields hold and which is VALID (R142, R160). -/
def kvEntryOk (e : Nat) (page : Bool) : Bool :=
  bitOn e 0 && bitsAt e 4 5 == 0 && bitsAt e 48 16 == 0 && (if page then bitsAt e 9 7 == 0 else bitsAt e 2 2 == 0)

/-- The address an entry names. -/
def kvEntryAddr (e : Nat) : Nat := bitsAt e 9 39 * 512

/-- What stops a walk: a KVW_ERR cause that faults the context, or an uncorrectable sector at an address with its
cause (R160, R161). -/
inductive KvErr where
  | fault (cause : Nat)
  | unread (cause addr : Nat)
  deriving DecidableEq, Repr

/-- The walker's cached table sectors (R154). -/
abbrev KvCache := List (Nat × List Byte)

/-- Bytes of a table sector: the walker's cached copy, or memory's unless the sector is lost (R154, R161). -/
def kvSector (s : State) (m : KvCache) (a n : Nat) : Except KvErr (List Byte) :=
  match m.find? (·.1 == a / 512) with
  | some e => .ok ((e.2.drop (a % 512)).take n)
  | none => match firstLost s a n with
    | some q => .error (.unread 9 (q * 512))
    | none => .ok (memRead s a n)

/-- Read a table sector's entry, checked against the partition and the lost sectors (R144, R161). -/
def kvTable (s : State) (m : KvCache) (p a : Nat) : Except KvErr Nat := do
  if !inPart s p a 8 then throw (.fault 5)
  return ofLe (← kvSector s m a 8)

/-- Read a session's layout descriptor (R139, R160). -/
def kvLayout (s : State) (m : KvCache) (p root : Nat) : Except KvErr KvLayout := do
  if root % 64 ≠ 0 then throw (.fault 1)
  if !inPart s p root 64 then throw (.fault 5)
  match kvLayoutOf (← kvSector s m root 64) with
  | some k => return k
  | none => throw (.fault 1)

/-- The address of page `n` of a layer and plane (R141, R144, R160): a leaf lies in stacked memory, as its spine entry's TIER says. -/
def kvPage (s : State) (m : KvCache) (p root : Nat) (k : KvLayout) (l pl n : Nat) : Except KvErr Nat := do
  if n / 64 ≥ k.spineLen then throw (.fault 1)
  let sp ← kvTable s m p (k.spineAt root l pl (n / 64))
  if !kvEntryOk sp false then throw (.fault 1)
  if kvEntryAddr sp ≥ fenBase then throw (.fault 4)
  let e ← kvTable s m p (kvEntryAddr sp + n % 64 * 8)
  if !kvEntryOk e true then throw (.fault 2)
  if !bitOn e 1 then throw (.fault 3)
  let a := kvEntryAddr e
  let tier := bitsAt e 2 2
  if tier ≥ 2 ∨ (tier = 0 ∧ a ≥ fenBase) ∨ (tier = 1 ∧ a < fenBase) then throw (.fault 4)
  if !inPart s p a 65536 then throw (.fault 5)
  return a

/-- The table sectors that finding a page reads, in order (R141): the descriptor's, the spine entry's and the leaf's. -/
def kvSectors (s : State) (m : KvCache) (p root : Nat) (k : KvLayout) (l pl n : Nat) : List Nat :=
  let sp := k.spineAt root l pl (n / 64)
  [root / 512, sp / 512] ++ (match kvTable s m p sp with
    | .ok e => if kvEntryOk e false then [(kvEntryAddr e + n % 64 * 8) / 512] else []
    | .error _ => [])

/-! ### Requests (R145 to R149) -/

/-- Fields of a tile's ring in force (R173). -/
def ringEntries (r : Nat) : Nat := 2 ^ (bitsAt r 1 3 + 3)
/-- Where request slot `i` stands. -/
def ringSlot (r i : Nat) : Nat := bitsAt r 8 8 * 4096 + i % ringEntries r * 32
/-- Landing slots. -/
def landSlots (r : Nat) : Nat := bitsAt r 20 3 + 1
/-- Where landing slot `k` stands. -/
def landSlot (r k : Nat) : Nat := bitsAt r 16 4 * 65536 + k % landSlots r * 65536

/-- A walk request (R148). -/
structure WalkReq where
  op : Nat
  layout : Nat
  plane : Nat
  layer : Nat
  entry : Nat
  first : Nat
  count : Nat
  scale : Nat
  addr : Nat
  zero : Nat
  deriving DecidableEq, Repr

/-- Read a request. -/
def walkReqOf (b : List Byte) : WalkReq :=
  { op := recAt b 0 1, layout := recAt b 1 1, plane := recAt b 2 1, layer := recAt b 3 1, entry := recAt b 4 4
    first := recAt b 8 4, count := recAt b 12 4, scale := recAt b 16 1, addr := recAt b 20 4
    zero := recAt b 17 3 + recAt b 24 8 }

/-- The next request of a tile, where the walker may take one: the ring is enabled, the request is posted (counter 14)
and the tile is neither stopped nor halted (R147, R149, R160). -/
def nextReq (s : State) (t : Nat) : Option WalkReq :=
  let τ := tileGet s t
  if decide (t < numTiles) && bitOn τ.ring 0 && decide (τ.requests < syncGet s t 14) && tileInTick s t
      && !fon s F.tileStatus_stopped t && !bitOn (fget s F.kvwStatus_halted (bayOf t)) (t % 8) then
    some (walkReqOf (storeRead s t (ringSlot τ.ring τ.requests) 32))
  else none

/-- Does `[a, a + n)` of the tile store touch a line whose code has failed (R99, R101: a read by any requester spoils). -/
def walkBad (s : State) (t a n : Nat) : Bool := (linesOf a n).any (tileGet s t).badLines.contains

/-- The walker meets a line whose code has failed where the next request stands (R101). -/
def slotBad (s : State) (t : Nat) : Bool :=
  walkBad s t (ringSlot (tileGet s t).ring (tileGet s t).requests) 32

/-- The walker reads the next request's slot, with what its read meets (R99, R101, R598). -/
def slotMeets (t : Nat) (u : Option Upset) (s : State) : Option Bool × State :=
  storeMeets t (ringSlot (tileGet s t).ring (tileGet s t).requests) 32 u s

/-- Put an error into KVW_ERR (R175). -/
def kvwErr (t cause entry : Nat) (s : State) : State :=
  firstErr F.kvwErr_valid F.kvwErr_more
    [(F.kvwErr_cause, cause), (F.kvwErr_tile, t % 8), (F.kvwErr_entry, entry),
     (F.kvwErr_tick, tickOf s (partOfTile s t) % 2 ^ 32)] (bayOf t) s

/-- The walker's error record (group 0x02, R576). -/
def kvwRecord (t cause : Nat) (injected : Bool) (s : State) : State :=
  logErr { code := 0x0200 + cause, cls := if cause < 9 then clsContext else clsSpoil, part := some (partOfTile s t),
           ctx := if cause < 9 then some (tileGet s t).ctx else none, source := bayNode (bayOf t) 8,
           unitReg := (rget s .kvwErr (bayOf t)).toNat, injected := injected } s

/-- Set a halted bit: no further requests of the tile are taken this tick (R174). -/
def haltTile (t : Nat) (s : State) : State :=
  fset F.kvwStatus_halted (bayOf t) (fget s F.kvwStatus_halted (bayOf t) ||| 2 ^ (t % 8)) s

/-- The walker's bytes are counted (R176). -/
def kvwCount (t n : Nat) (s : State) : State :=
  perfCount 9 (fieldOf t) (partOfTile s t) n (fwrap F.kvwBytes_count F.kvwBytes_ovf (bayOf t) n s)

/-- Stop the requesting tile with a TILE_ERR cause and fault its context for a walker cause (R149, R160). -/
def walkStop (t cause tcause : Nat) (s : State) : State :=
  let c := (tileGet s t).ctx
  let s := stopTile t (tileErr t tcause 0 s)
  let s := tileRecord t tcause clsContext (some c) false 0 (kvwRecord t cause false s)
  ctxFault c 0x11 (globalTile s t) cause s

/-- A request that is a program error (R149): CAUSE 0x6 or 0x7 of KVW_ERR. -/
def walkProgErr (t cause entry : Nat) (s : State) : State :=
  walkStop t cause 6 (haltTile t (kvwErr t cause entry s))

/-- A tile has no request in hand any more (R174). -/
def kvwIdle (t : Nat) (s : State) : State :=
  fset F.kvwStatus_active (bayOf t) (fget s F.kvwStatus_active (bayOf t) &&& (255 - 2 ^ (t % 8))) s

/-- Drop what the walker owes a tile: its request has ended. -/
def dropOwed (t : Nat) (s : State) : State :=
  kvwIdle t (bayMod (bayOf t) (fun b => { b with owed := b.owed.filter fun d => d.tile != t }) s)

/-- The request is taken: counter 13 and the walker's own index rise (R146). -/
def reqTaken (t : Nat) (s : State) : State :=
  let n := syncGet s t 13 + 1
  syncSet t 13 (min n (2 ^ 32 - 1)) (tileMod t (fun τ => { τ with requests := τ.requests + 1 }) s)

/-- A request of a tile ends: what the walker owes it for that request is dropped. -/
def dropReq (t req : Nat) (s : State) : State :=
  let s := bayMod (bayOf t) (fun b => { b with owed := b.owed.filter fun d => !(d.tile == t && d.req == req) }) s
  if (bayGet s (bayOf t)).owed.any (·.tile == t) then s else kvwIdle t s

/-- A missing page or a bad table (R160), met by a request when it is taken (`req` none) or by a delivery of one: the context faults and
no tile of it is served until the edge. An uncorrectable sector spoils the tick and ends the request, of which the walker delivers nothing
more (R161). -/
def walkErr (t entry : Nat) (req : Option Nat) (e : KvErr) (s : State) : State :=
  let s := fbump F.kvwFaults_count (bayOf t) 1 s
  match e with
  | .fault cause =>
    let c := (tileGet s t).ctx
    let s := kvwErr t cause entry (dropOwed t s)
    let s := (List.range 8).foldl (fun s k =>
      if (tileGet s (bayOf t * 8 + k)).ctx = c then haltTile (bayOf t * 8 + k) s else s) s
    walkStop t cause 7 s
  | .unread cause addr =>
    let s := memUncorrectable addr 4 (some (partOfTile s t)) false (kvwErr t cause entry s)
    let s := kvwRecord t cause false s
    match req with
    | some r => dropReq t r s
    | none => reqTaken t s

/-- The table sectors that the walker has read for a page enter its cache of 64, the oldest leaving; each was read from its controller,
in the class of the batch entry (R154, R309, R328). -/
def kvNote (b : Nat) (cls : Nat) (qs : List Nat) (s : State) : State :=
  qs.foldl (fun s q =>
    let y := bayGet s b
    if y.sectors.any (·.1 == q) then s
    else baySet b { y with sectors := ((q, memRead s (q * 512) 512) :: y.sectors).take 64 } (countReads (q * 512) 512 cls s)) s

/-- The cache of the walker that serves a tile. -/
def kvCache (s : State) (t : Nat) : KvCache := (bayGet s (bayOf t)).sectors

/-- The number of batch entries of a partition's tick. -/
def entryCount (s : State) (p : Nat) : Nat := (partGet s p).entries.length

/-- The batch entry a request names, read from the batch descriptor table (R148, R161, R197). -/
def batchEntry (s : State) (p e : Nat) : Except KvErr (List Byte) :=
  match (partGet s p).inForce with
  | none => .error (.fault 1)
  | some r =>
    let a := r.bdtPA + 64 + e * 128
    match firstLost s a 128 with
    | some q => .error (.unread 9 (q * 512))
    | none => .ok (memRead s a 128)

/-- Does `[a, a + n)` lie in the scratch region (R149). -/
def regionOk (s : State) (t a n : Nat) : Bool := scratchOk s t a n

/-- A layer is still ahead of a drain of the partition (R205 step 3). -/
def layerHeld (s : State) (p l : Nat) : Bool :=
  (partGet s p).drains.any fun d => d.todo.any fun e => match e.kind with
    | .append k => decide (k ≤ l)
    | .switch k _ => decide (k ≤ l)
    | _ => false

/-- GATHER (R149 to R152, R205 step 3: held while a drain has not passed its layer): the request is checked and one delivery for each
page it touches is owed. A request whose OP is reserved is also met here. -/
def execGather (w : WalkTake) (s : State) : Result :=
  .next (
    match nextReq s w.tile with
    | none => s
    | some r =>
      let p := partOfTile s w.tile
      if slotBad s w.tile then checkedStop w.tile 4 0 false s
      else if r.op = 2 ∨ r.op = 3 ∨ layerHeld s p r.layer then s
      else match slotMeets w.tile w.upset s with
      | (some inj, s) => checkedStop w.tile 4 0 inj s
      | (none, s) =>
        if r.op ≠ 1 ∨ r.layout > 2 ∨ r.count < 1 ∨ r.count > 1048576 ∨ r.scale ≠ 0 ∨ r.addr ≠ 0 ∨ r.zero ≠ 0
            ∨ r.entry ≥ entryCount s p then walkProgErr w.tile 7 r.entry s
        else match batchEntry s p r.entry with
          | .error e => walkErr w.tile r.entry none e s
          | .ok b =>
            let root := recAt b 32 8
            match kvLayout s (kvCache s w.tile) p root with
            | .error e => walkErr w.tile r.entry none e s
            | .ok k =>
              if r.plane ≥ k.planes ∨ r.layer ≥ k.layers ∨ (r.layout ≠ 0 ∧ k.tpp r.plane < 32) then
                walkProgErr w.tile 7 r.entry s
              else if r.first + r.count > recAt b 8 4 then walkProgErr w.tile 6 r.entry s
              else
                let tpp := k.tpp r.plane
                let p0 := r.first / tpp
                let p1 := (r.first + r.count - 1) / tpp
                let τ := tileGet s w.tile
                let ds := (List.range (p1 - p0 + 1)).map fun i =>
                  let lo := max r.first ((p0 + i) * tpp)
                  let hi := min (r.first + r.count) ((p0 + i + 1) * tpp)
                  { tile := w.tile, req := τ.requests, slot := τ.deliveries + i, page := p0 + i, layout := r.layout, plane := r.plane
                    layer := r.layer, first := lo % tpp, count := hi - lo, ctx := τ.ctx, entry := r.entry, root := root
                    last := p0 + i == p1 : Delivery }
                let s := bayMod (bayOf w.tile) (fun b => { b with owed := b.owed ++ ds }) s
                let s := tileSet w.tile { τ with deliveries := τ.deliveries + ds.length } s
                let s := fset F.kvwStatus_active (bayOf w.tile) (fget s F.kvwStatus_active (bayOf w.tile) ||| 2 ^ (w.tile % 8)) s
                reqTaken w.tile s)

/-- The byte offset in a landing slot of element `e` of record `i` (R151). -/
def landOffset (layout tpp recBytes eb i e : Nat) : Nat :=
  let bsz := 32 * eb
  match layout with
  | 0 => i * recBytes + e * eb
  | 1 => i / 32 * 32 * recBytes + (e / 32 * 32 + i % 32) * bsz + e % 32 * eb
  | _ => e / 32 * tpp * bsz + (i / 32 * 32 + e % 32) * bsz + i % 32 * eb

/-- The records a delivery writes: those of the request, or in a panel layout every group of 32 it touches; with
whether the record lies in the request (R152). -/
def landRecords (layout first count : Nat) : List (Nat × Bool) :=
  if layout = 0 then (List.range count).map fun i => (first + i, true)
  else
    let lo := first / 32 * 32
    let hi := ((first + count - 1) / 32 + 1) * 32
    (List.range (hi - lo)).map fun i => (lo + i, decide (first ≤ lo + i ∧ lo + i < first + count))

/-- Place the records of a page in a landing slot (R151, R152). -/
def landPage (s : State) (t base page : Nat) (k : KvLayout) (d : Delivery) : State :=
  let rb := k.recBytes d.plane
  let eb := k.elemBytes d.plane
  (landRecords d.layout d.first d.count).foldl (fun s r =>
    let data := if r.2 then memRead s (page + r.1 * rb) rb else List.replicate rb 0
    (List.range (rb / eb)).foldl (fun s e =>
      storeWrite t (base + landOffset d.layout (k.tpp d.plane) rb eb r.1 e) ((data.drop (e * eb)).take eb) s) s) s

/-- KV_DELIVERY_COMPLETE (R150 to R152): the oldest delivery owed to a tile is in its landing slot and KV rises by 1, while a slot is
free: a request taken before its context was halted is finished. Its page is found through the session's tables (R160, R161). -/
def execKvDeliveryComplete (tile : Nat) (s : State) : Result :=
  .next (
    let b := bayGet s (bayOf tile)
    match b.owed.find? (fun d => d.tile == tile) with
    | none => s
    | some d =>
      let τ := tileGet s tile
      if d.slot ≥ syncGet s tile 15 + landSlots τ.ring then s
      else
        let p := partOfTile s tile
        let found : Except KvErr (KvLayout × Nat) := do
          let k ← kvLayout s (kvCache s tile) p d.root
          let a ← kvPage s (kvCache s tile) p d.root k d.layer d.plane d.page
          match firstLost s (a + d.first * k.recBytes d.plane) (d.count * k.recBytes d.plane) with
          | some q => .error (.unread 10 (q * 512))
          | none => .ok (k, a)
        match found with
        | .error e => walkErr tile d.entry (some d.req) e s
        | .ok (k, a) =>
          let cls := kvWalkClass s p d.entry
          let s := kvNote (bayOf tile) cls (kvSectors s (kvCache s tile) p d.root k d.layer d.plane d.page) s
          let s := countReads (a + d.first * k.recBytes d.plane) (d.count * k.recBytes d.plane) cls s
          let s := landPage s tile (landSlot τ.ring d.slot) a k d
          let s := kvwCount tile (d.count * k.recBytes d.plane) s
          let s := bayMod (bayOf tile) (fun b => { b with owed := b.owed.erase d }) s
          let left := (b.owed.erase d).any (fun d => d.tile == tile)
          let s := if left then s else kvwIdle tile s
          doneBump tile 3 1 s)

/-- Encode one FP32 element for a plane (R158). -/
def appendElem (fmt scale v : Nat) : Nat := match mxFmt fmt with
  | some f => (mxEncodeElem fmt f scale (decodeF fp32 v)).1
  | none => 0

/-- The bytes of one appended record (R157, R158). -/
def appendRecord (k : KvLayout) (plane scale : Nat) (src : List Byte) : List Byte :=
  if k.fmt plane = 8 then src
  else (chunks 4 (k.recBytes plane) src).map fun e => BitVec.ofNat 8 (appendElem (k.fmt plane) scale (ofLe e))

/-- Bytes of a source record in the tile store (R157). -/
def appendSrcBytes (k : KvLayout) (plane : Nat) : Nat :=
  if k.fmt plane = 8 then k.recBytes plane else 4 * k.recBytes plane

/-- APPEND (R149, R157 to R159, R205 step 3): records are read, encoded, their pages resolved, and handed to staging. `mismatch`: the
duplicated encoder disagreed, which spoils the tick (R158). -/
def execAppend (w : WalkTake) (mismatch : Bool) (s : State) : Result :=
  .next (
    match nextReq s w.tile with
    | none => s
    | some r =>
      let p := partOfTile s w.tile
      if slotBad s w.tile then checkedStop w.tile 4 0 false s
      else if r.op ≠ 2 ∨ layerHeld s p r.layer then s
      else match slotMeets w.tile w.upset s with
      | (some inj, s) => checkedStop w.tile 4 0 inj s
      | (none, s) =>
        if r.layout ≠ 0 ∨ r.count < 1 ∨ r.count > 8192 ∨ r.scale = 255 ∨ r.zero ≠ 0 ∨ r.addr ≥ 2 ^ 20 ∨ r.addr % 64 ≠ 0
            ∨ r.entry ≥ entryCount s p then walkProgErr w.tile 7 r.entry s
        else match batchEntry s p r.entry with
          | .error e => walkErr w.tile r.entry none e s
          | .ok b =>
            let root := recAt b 32 8
            match kvLayout s (kvCache s w.tile) p root with
            | .error e => walkErr w.tile r.entry none e s
            | .ok k =>
              let sb := appendSrcBytes k r.plane
              let c := recAt b 8 4
              if r.plane ≥ k.planes ∨ r.layer ≥ k.layers ∨ !regionOk s w.tile r.addr (r.count * sb) then
                walkProgErr w.tile 7 r.entry s
              else if r.first < c ∨ r.first + r.count > c + recAt b 12 4 then walkProgErr w.tile 6 r.entry s
              else if walkBad s w.tile r.addr (r.count * sb) then checkedStop w.tile 4 0 false s
              else
                let τ := tileGet s w.tile
                let tpp := k.tpp r.plane
                let rb := k.recBytes r.plane
                let recs : Except KvErr (List Staged) := (List.range r.count).mapM fun i => do
                  let a ← kvPage s (kvCache s w.tile) p root k r.layer r.plane ((r.first + i) / tpp)
                  return { kind := .append r.layer, tile := w.tile, ctx := τ.ctx, va := 0
                           addr := a + (r.first + i) % tpp * rb
                           data := appendRecord k r.plane r.scale (storeRead s w.tile (r.addr + i * sb) sb) : Staged }
                match recs with
                | .error e => walkErr w.tile r.entry none e s
                | .ok es =>
                  if mismatch then
                    let s := kvwErr w.tile 11 r.entry s
                    kvwRecord w.tile 11 false (spoil p (.tile (globalTile s w.tile)) false s)
                  else reqTaken w.tile (kvwCount w.tile (r.count * rb) (stageAllLogged w.tile p es s)))

/-- The tree rule of the draft parents (R168). -/
def parentsOk (ps : List Nat) : Bool := ps.zipIdx.all fun p => p.1 == 255 || decide (p.1 < p.2)

/-- The mask rows of a draft tree: row i holds draft i and its ancestors (R169). -/
def maskRows (ps : List Nat) : List Nat :=
  ps.zipIdx.foldl (fun rows p => rows ++ [2 ^ p.2 + (if p.1 = 255 then 0 else rows.getD p.1 0)]) []

/-- MASK (R149, R160, R168, R169): 64 rows of 8 bytes; rows from COUNT on are zero. -/
def execMask (w : WalkTake) (s : State) : Result :=
  .next (
    match nextReq s w.tile with
    | none => s
    | some r =>
      if slotBad s w.tile then checkedStop w.tile 4 0 false s
      else if r.op ≠ 3 then s
      else match slotMeets w.tile w.upset s with
      | (some inj, s) => checkedStop w.tile 4 0 inj s
      | (none, s) =>
        let p := partOfTile s w.tile
        if r.layout ≠ 0 ∨ r.plane ≠ 0 ∨ r.layer ≠ 0 ∨ r.first ≠ 0 ∨ r.count < 1 ∨ r.count > 64 ∨ r.scale ≠ 0 ∨ r.zero ≠ 0
            ∨ r.addr ≥ 2 ^ 20 ∨ r.addr % 64 ≠ 0 ∨ r.entry ≥ entryCount s p ∨ !regionOk s w.tile r.addr 512 then
          walkProgErr w.tile 7 r.entry s
        else match batchEntry s p r.entry with
          | .error e => walkErr w.tile r.entry none e s
          | .ok b =>
            let ps := ((b.drop 64).take r.count).map (·.toNat)
            if !parentsOk ps then walkErr w.tile r.entry none (.fault 8) s
            else
              let rows := padTo 64 0 (maskRows ps)
              reqTaken w.tile (storeWrite w.tile r.addr (rows.flatMap (leBytes 8)) s))

end Sys2Proof.Machine
end

