-- ==== Sys2Proof/Machine/Batch.lean ====
section
/-! DEFINITION. Machine/Batch.lean: the batcher (R185 to R200): session state records, queue entries, plans and their
capacity checks, the ordered lists, admission, and the batch descriptor table. -/
namespace Sys2Proof.Machine

/-! ### Session state and queue entries (R187, R188) -/

/-- A session state record (R188). -/
structure Sess where
  mode : Nat
  prefillCls : Nat
  decodeCls : Nat
  urgency : Nat
  maxDrafts : Nat
  nextDrafts : Nat
  c : Nat
  reserve : Nat
  remaining : Nat
  lastToken : Nat
  outRing : Nat
  ctx : Nat
  age : Nat
  kvRoot : Nat
  nextVA : Nat
  deriving DecidableEq, Repr

/-- Decode a record. -/
def sessOf (b : List Byte) : Sess :=
  let cl := recAt b 1 1
  { mode := recAt b 0 1, prefillCls := bitsAt cl 0 3, decodeCls := bitsAt cl 3 3, urgency := bitsAt cl 6 2
    maxDrafts := recAt b 2 1, nextDrafts := recAt b 3 1, c := recAt b 4 4, reserve := recAt b 8 4, remaining := recAt b 12 4
    lastToken := recAt b 16 4, outRing := recAt b 20 4, ctx := recAt b 24 2, age := recAt b 32 8, kvRoot := recAt b 40 8
    nextVA := recAt b 48 8 }

/-- Encode a record. -/
def sessBytes (x : Sess) : List Byte :=
  leBytes 1 x.mode ++ leBytes 1 (placed 0 3 x.prefillCls + placed 3 3 x.decodeCls + placed 6 2 x.urgency)
    ++ leBytes 1 x.maxDrafts ++ leBytes 1 x.nextDrafts ++ leBytes 4 x.c ++ leBytes 4 x.reserve ++ leBytes 4 x.remaining
    ++ leBytes 4 x.lastToken ++ leBytes 4 x.outRing ++ leBytes 2 x.ctx ++ leBytes 6 0 ++ leBytes 8 x.age
    ++ leBytes 8 x.kvRoot ++ leBytes 8 x.nextVA ++ leBytes 8 0

/-- Where a queue's record stands. -/
def sessAt (r : TickRec) (q : Nat) : Nat := r.sessionPA + (q - r.queueFirst) * 64
/-- Where a queue's draft parent bytes stand. -/
def draftAt (r : TickRec) (q : Nat) : Nat := r.draftPA + (q - r.queueFirst) * 64
/-- Read a queue's session state. -/
def sessGet (s : State) (r : TickRec) (q : Nat) : Sess := sessOf (memRead s (sessAt r q) 64)
/-- Write a queue's session state. -/
def sessPut (r : TickRec) (q : Nat) (x : Sess) (s : State) : State := devStore (sessAt r q) (sessBytes x) s

/-- Is a queue one of a partition's session queues. -/
def inRange (r : TickRec) (q : Nat) : Bool := decide (r.queueFirst ≤ q ∧ q < r.queueFirst + r.queueCount)

/-- A session queue entry (R187). -/
structure QEntry where
  kind : Nat
  flags : Nat
  tokens : Nat
  maxNew : Nat
  user : Nat
  tokenVA : Nat
  zero : Nat
  deriving DecidableEq, Repr

/-- Decode an entry. -/
def qEntryOf (b : List Byte) : QEntry :=
  ⟨recAt b 0 1, recAt b 1 1, recAt b 4 4, recAt b 8 4, recAt b 12 4, recAt b 16 8, recAt b 2 2 + ofLe ((b.drop 24).take 40)⟩

/-- The entry at the head of a session queue, if it has one. -/
def qHead (s : State) (q : Nat) : Option QEntry :=
  let d := queueGet s q
  if d.kind ≠ 1 ∨ d.state ≠ 1 ∨ d.pidx = d.cidx then none
  else match queueSlot s q d.cidx with
    | some (false, a) => some (qEntryOf (memRead s a 64))
    | _ => none

/-- The queue head advances. -/
def qConsume (q : Nat) (s : State) : State := queueMod q (fun d => { d with cidx := add32 d.cidx 1 }) s

/-- A session's layout, where its root lies in the partition, is aligned and holds a valid descriptor (R187, R194). -/
def sessLayout (s : State) (p root : Nat) : Option KvLayout := match kvLayout s [] p root with
  | .ok k => some k
  | .error _ => none

/-- Does an entry break the table of R187 for its session. -/
def qEntryBad (s : State) (p : Nat) (x : Sess) (e : QEntry) : Bool :=
  decide (e.kind < 1 ∨ 3 < e.kind ∨ 3 < e.flags ∨ e.zero ≠ 0)
    || (e.kind == 1 && (decide (e.tokens < 1 ∨ e.tokenVA % 64 ≠ 0) || match sessLayout s p x.kvRoot with
        | some k => decide (2 ^ k.maxLog2 < x.c + e.tokens)
        | none => false))

/-- The session is faulted by a bad entry: MODE FAULTED, the entry consumed, a record (R187). -/
def sessFault (p : Nat) (r : TickRec) (q : Nat) (x : Sess) (s : State) : State :=
  let s := partMod p (fun w => { w with genDone := Map.erase w.genDone q }) s
  let s := sessPut r q { x with mode := 3 } (qConsume q s)
  logErr { code := 0x0911, cls := clsInfo, part := some p, ctx := some x.ctx, detail := q } s

/-- FLAGS and USER of the entry a session works on: of its consumed PREFILL while the decode it continues into goes on, and otherwise of
the entry at its queue's head (R187, R206). -/
def workFlags (s : State) (p q : Nat) (e : QEntry) : Nat × Nat := Map.get (partGet s p).genDone (e.flags, e.user) q

/-- Has the entry at a queue's head reached it while its session was at work on an entry consumed before, or is the session IDLE: the
batcher checks it then (R187). -/
def headNew (s : State) (p q : Nat) (x : Sess) : Bool := x.mode == 0 || (Map.get? (partGet s p).genDone q).isSome

/-! ### Plans (R191 to R193) -/

/-- A plan table entry (R191). -/
structure Plan where
  valid : Bool
  next : Nat
  period : Nat
  tokens : Nat
  prefill : Nat
  pages : Nat
  maxSessions : Nat
  maxScan : Nat
  maxChunk : Nat
  minChunk : Nat
  drafts : Nat
  minIdoon : Nat
  minMem : Nat
  minSite : Nat
  deriving DecidableEq, Repr

/-- Decode a plan entry. -/
def planOf (b : List Byte) : Plan :=
  { valid := bitOn (recAt b 0 1) 0, next := recAt b 1 1, period := recAt b 4 4, tokens := recAt b 8 4, prefill := recAt b 12 4
    pages := recAt b 16 4, maxSessions := recAt b 20 4, maxScan := recAt b 24 4, maxChunk := recAt b 28 2
    minChunk := recAt b 30 2, drafts := recAt b 32 1, minIdoon := recAt b 33 1, minMem := recAt b 34 1
    minSite := recAt b 35 1 }

/-- Does a VALID entry `n` break the table of R191. -/
def planBad (n : Nat) (b : List Byte) : Bool :=
  let f := planOf b
  f.valid && !(decide (recAt b 0 1 = 1 ∧ recAt b 2 2 = 0 ∧ ofLe ((b.drop 36).take 28) = 0)
    && (f.next == 255 || decide (n < f.next ∧ f.next < 64))
    && decide (f.prefill ≤ f.tokens ∧ 1 ≤ f.maxSessions ∧ f.maxSessions ≤ 1048576 ∧ f.maxSessions ≤ f.maxScan)
    && decide (32 ≤ f.maxChunk ∧ f.maxChunk ≤ 8192 ∧ f.maxChunk % 32 = 0)
    && decide (32 ≤ f.minChunk ∧ f.minChunk ≤ f.maxChunk ∧ f.minChunk % 32 = 0)
    && decide (f.drafts ≤ 64) && [0, 4, 8, 16].contains f.minIdoon && [0, 16, 32, 64].contains f.minSite)

/-- The bytes of a plan entry. -/
def planBytes (s : State) (r : TickRec) (n : Nat) : List Byte := memRead s (r.planPA + n * 64) 64

/-- Does the whole plan table pass the check made when the partition is enabled. -/
def planTableOk (s : State) (r : TickRec) : Bool :=
  (planOf (planBytes s r 0)).valid && (List.range 64).all fun n => !planBad n (planBytes s r n)

/-- The smallest trained width over the ports a partition uses, none where it names none (R218). -/
def idoonCapacity (s : State) (p : Nat) : Option Nat :=
  let m := fget s F.partIdoon_ports p
  let ws := ((idoonPorts s).zipIdx.filter fun e => bitOn m e.2).map fun e => idnWidth s e.1
  let ws := if 2 ^ (idoonPorts s).length ≤ m then 0 :: ws else ws
  ws.foldl (fun a w => match a with | none => some w | some v => some (min v w)) none

/-- The smallest width over the modules of a partition's sites, none where it has no site (R381). -/
def siteCapacity (s : State) (p : Nat) : Option Nat :=
  let ns := (List.range 12).filter fun n => fon s F.mtAssign_assigned n && fget s F.mtAssign_partition n == p
  let ws := ns.map fun n => if fget s F.mtStatus_state n = 9 then [0, 16, 32, 64].getD (fget s F.mtStatus_minWidth n) 0 else 0
  ws.foldl (fun a w => match a with | none => some w | some v => some (min v w)) none

/-- Is a capacity at least a plan's minimum. -/
def meets (need : Nat) : Option Nat → Bool
  | none => true
  | some w => decide (need ≤ w)

/-- Is a valid plan usable (R191): the period in force and every capacity meet it. -/
def planUsable (s : State) (p : Nat) (f : Plan) : Bool :=
  f.valid && decide (f.period ≤ fget s F.tickPeriodNow_periodNs 0) && meets f.minIdoon (idoonCapacity s p)
    && decide (f.minMem ≤ fget s F.memStatus_minMem 0) && meets f.minSite (siteCapacity s p)

/-- A fit plan: a plan, none usable, or an entry read that breaks the table (R191, R192). -/
inductive Fit where
  | plan (n : Nat)
  | none
  | bad
  deriving DecidableEq, Repr

/-- Follow NEXT from plan `n` to the first usable plan. -/
def fitFrom (s : State) (p : Nat) (r : TickRec) : Nat → Nat → Fit
  | 0, _ => .none
  | fuel + 1, n =>
    let b := planBytes s r n
    let f := planOf b
    if planBad n b then .bad
    else if planUsable s p f then .plan n
    else if n < f.next ∧ f.next < 64 then fitFrom s p r fuel f.next else .none

/-- The fit plan reached from a plan. -/
def fitPlan (s : State) (p : Nat) (r : TickRec) (n : Nat) : Fit := fitFrom s p r 64 n

/-- The plan byte of a report: 0xFF for none. -/
def Fit.byte : Fit → Nat
  | .plan n => n
  | _ => 0xFF

/-! ### The ordered lists (R190) -/

/-- The sluice class a session stands under. -/
def sessClass (s : State) (q : Nat) (x : Sess) : Nat :=
  let pre := x.mode == 1 || (x.mode == 0 && (match qHead s q with | some e => e.kind == 1 | none => false))
  if pre then x.prefillCls else x.decodeCls

/-- The place of a session in visiting order: class, then descending urgency, then age, then queue number. -/
def listKey (s : State) (r : TickRec) (q age : Nat) : Nat :=
  let x := sessGet s r q
  ((sessClass s q x * 4 + (3 - x.urgency)) * 2 ^ 64 + age) * 2 ^ 20 + q

/-- Insert by key. -/
def insertKey (k q : Nat) : List (Nat × Nat) → List (Nat × Nat)
  | [] => [(k, q)]
  | (j, v) :: l => if k < j then (k, q) :: (j, v) :: l else (j, v) :: insertKey k q l

/-- A partition's ready sessions in the order the batcher visits them. -/
def listOrder (s : State) (p : Nat) (r : TickRec) : List Nat :=
  (((partGet s p).ages.filter fun e => inRange r e.1).foldl (fun l e => insertKey (listKey s r e.1 e.2) e.1 l) []).map (·.2)

/-! ### Admission (R194 to R197, R200) -/

/-- The KV page count of a session with `n` positions (R194). -/
def kvPages (s : State) (p root n : Nat) : Nat := match sessLayout s p root with
  | some k => k.layers * ((List.range k.planes).map fun pl => (n + k.tpp pl - 1) / k.tpp pl).sum
  | none => 0

/-- Admission in progress. -/
structure Adm where
  s : State
  tokens : Nat := 0
  prefill : Nat := 0
  pages : Nat := 0
  scanned : Nat := 0
  entries : List BatchEntry := []

/-- Take a session off its list. -/
def unlist (p q : Nat) (s : State) : State := partMod p (fun w => { w with ages := Map.erase w.ages q }) s

/-- Tokens for a session under a plan, and its drafts (R195): none to skip it. -/
def admitTokens (pl : Plan) (a : Adm) (x : Sess) (flags : Nat) : Option (Nat × Nat) :=
  if x.mode = 1 then
    let t := min (min x.remaining pl.maxChunk) (min (pl.prefill - a.prefill) (pl.tokens - a.tokens))
    if t < x.remaining then
      let t := t - t % 32
      if t < pl.minChunk then none else some (t, 0)
    else if t = 0 then none else some (t, 0)
  else
    let d := if bitOn flags 1 then min (min x.nextDrafts x.maxDrafts) pl.drafts else 0
    if a.tokens + 1 + d > pl.tokens then none else some (1 + d, d)

/-- Start an IDLE session with an entry at its head (R196). -/
def sessStart (r : TickRec) (q : Nat) (x : Sess) (e : QEntry) (s : State) : Sess × State :=
  let y := if e.kind = 1 then { x with mode := 1, remaining := e.tokens, nextVA := e.tokenVA, nextDrafts := 0 }
           else { x with mode := 2, remaining := e.maxNew, nextDrafts := 0 }
  (y, sessPut r q y s)

/-- Examine a session that is counted in the scan (R195). -/
def admitSess (p : Nat) (r : TickRec) (pl : Plan) (a : Adm) (q : Nat) (x : Sess) (e : QEntry) : Adm :=
  let a := { a with scanned := a.scanned + 1 }
  let fu := workFlags a.s p q e
  if (ctxGet a.s x.ctx).state ≠ .active then a
  else match admitTokens pl a x fu.1 with
    | none => a
    | some (t, d) =>
      let k := kvPages a.s p x.kvRoot (x.c + t)
      let last := x.mode == 1 && t == x.remaining
      let gen := bitOn fu.1 0
      let slots := if x.mode = 1 then (if last && gen then 1 else 0) else (t + 10) / 11
      let ring := queueGet a.s x.outRing
      if x.c + t > x.reserve ∨ a.pages + k > pl.pages then a
      else if slots ≠ 0 ∧ (ring.kind ≠ 4 ∨ ring.state ≠ 1 ∨ ringFree a.s x.outRing < slots) then a
      else
        let first := ring.pidx + ring.reserved
        let be : BatchEntry :=
          { queue := q, ctx := x.ctx, kind := if x.mode = 1 then 1 else if d = 0 then 2 else 3, drafts := d, c := x.c, a := t
            tokenOffset := a.tokens, lastToken := x.lastToken, tokenVA := if x.mode = 1 then x.nextVA else 0, kvRoot := x.kvRoot
            outVA := if slots = 0 then 0 else ring.baseVA + first % 2 ^ ring.log2 * 64, outSlots := slots, outIndex := first
            outRing := x.outRing, lastChunk := last, generate := gen
            cls := if x.mode = 1 then x.prefillCls else x.decodeCls, urg := x.urgency, user := fu.2
            parents := padTo 64 255 (((memRead a.s (draftAt r q) 64).take d).map (·.toNat)), pages := k }
        { a with s := if slots = 0 then a.s else ringReserve x.outRing slots a.s
                 tokens := a.tokens + t, pages := a.pages + k, prefill := a.prefill + (if x.mode = 1 then t else 0)
                 entries := a.entries ++ [be] }

/-- Examine one listed session (R195, R196). -/
def admitOne (p : Nat) (r : TickRec) (pl : Plan) (a : Adm) (q : Nat) : Adm :=
  if a.entries.length = pl.maxSessions ∨ a.scanned = pl.maxScan then a
  else
    let x := sessGet a.s r q
    match qHead a.s q with
    | none => { a with s := unlist p q a.s }
    | some e =>
      if x.mode = 3 then { a with s := unlist p q a.s }
      else if headNew a.s p q x && qEntryBad a.s p x e then { a with s := unlist p q (sessFault p r q x a.s) }
      else if e.kind = 3 then a
      else if x.mode = 0 then
        let st := sessStart r q x e a.s
        admitSess p r pl { a with s := st.2 } q st.1 e
      else admitSess p r pl a q x e

/-- The 128 bytes of an entry of the batch descriptor table (R197). -/
def entryOut (e : BatchEntry) : List Byte :=
  leBytes 4 e.queue ++ leBytes 2 e.ctx ++ leBytes 1 e.kind ++ leBytes 1 e.drafts ++ leBytes 4 e.c ++ leBytes 4 e.a
    ++ leBytes 4 e.tokenOffset ++ leBytes 4 e.lastToken ++ leBytes 8 e.tokenVA ++ leBytes 8 e.kvRoot ++ leBytes 8 e.outVA
    ++ leBytes 1 e.outSlots ++ leBytes 1 (bit01 e.lastChunk + 2 * bit01 e.generate) ++ leBytes 1 e.cls ++ leBytes 1 e.urg
    ++ leBytes 4 e.user ++ leBytes 8 0 ++ e.parents.flatMap (leBytes 1)

/-- The 64-byte header of the table. -/
def tableHead (tick plan attempt tokens prefill pages n : Nat) : List Byte :=
  leBytes 8 tick ++ leBytes 1 plan ++ leBytes 1 attempt ++ leBytes 2 0 ++ leBytes 4 n ++ leBytes 4 tokens
    ++ leBytes 4 prefill ++ leBytes 4 pages ++ leBytes 36 0

/-- Write the table: header and entries. -/
def writeTable (r : TickRec) (tick plan : Nat) (a : Adm) : State :=
  devStore r.bdtPA (tableHead tick plan 1 a.tokens a.prefill a.pages a.entries.length ++ a.entries.flatMap entryOut) a.s

/-- Show NOFIT and record the event (R192). -/
def noFit (p : Nat) (s : State) : State :=
  if fon s F.partStatus_nofit p then s
  else logErr { code := 0x0910, cls := clsDegraded, part := some p } (fset F.partStatus_nofit p 1 s)

/-- Admit a batch for a new tick of a partition (R195, R197); the lock-step secondary takes the primary's table instead
(R259). -/
def admitBatch (p : Nat) (r : TickRec) (plan tick : Nat) (s : State) : State :=
  let pl := planOf (planBytes s r plan)
  let s := fset F.partStatus_attempt p 1 (fset F.partStatus_plan p plan (fset F.partStatus_nofit p 0 s))
  let s := partMod p (fun w => { w with lock := lockOf s p, diverged := false }) s
  let a : Adm := if lsSecondary s p then { s := s } else (listOrder s p r).foldl (admitOne p r pl) { s := s }
  let s := if lsSecondary s p then s else writeTable r tick plan a
  partMod p (fun w => { w with live := true, released := false, undecided := false, workTick := tick, half := 1 - w.half, entries := a.entries
                               staged := [], overflow := false, spoils := [], lastSpoils := [], injAll := true, faulted := []
                               progAt := w.prog, weightsAt := w.weights, lsReady := false, lsMine := [], lsPeer := [], lsGot := [], sigGot := [] }) s

/-- Give back the output slots a batch reserved (R207, R213). -/
def returnSlots (p : Nat) (s : State) : State :=
  (partGet s p).entries.foldl (fun s e => if e.outSlots = 0 then s else ringReturn e.outRing e.outSlots s) s

/-! ### Results and tick commands (R198, R199, R477) -/

/-- What a tick staged over `[a, a + n)`: for each byte the last staged value, if any. -/
def stagedOver (l : List Staged) (a n : Nat) : List (Option Byte) :=
  (List.range n).map fun i =>
    l.foldl (fun b e => if e.addr ≤ a + i ∧ a + i < e.addr + e.data.length then e.data[a + i - e.addr]? else b) none

/-- The device-memory stores of TST.S in a stage. -/
def stagedStores (w : Part) : List Staged := w.staged.filter fun e => match e.kind with
  | .store => true
  | _ => false

/-- Record numbers of `size` bytes, from `base`, that the stores touch, ascending, each with the context of a tile that
staged it. -/
def touched (l : List Staged) (base size count : Nat) : Map Nat :=
  l.foldl (fun m e =>
    if e.addr + e.data.length ≤ base ∨ base + size * count ≤ e.addr ∨ e.data.isEmpty then m
    else
      let lo := (e.addr - base) / size
      let hi := (e.addr + e.data.length - 1 - base) / size
      (List.range (hi - lo + 1)).foldl (fun m i => Map.set m (lo + i) e.ctx) m) []

/-- The results a tick staged: index, staging context and bytes. -/
def stagedResults (r : TickRec) (w : Part) : List (Nat × Nat × List Byte) :=
  let base := r.bdtPA + 0x09000000
  List.map (fun e => (e.1, e.2, (stagedOver (stagedStores w) (base + e.1 * 128) 128).map (·.getD 0)))
    (touched (stagedStores w) base 128 1048576)

/-- The fence packets a tick staged in the tick command area, in ascending slot. -/
def stagedPackets (r : TickRec) (w : Part) : List (Nat × Packet) :=
  let base := r.bdtPA + 0x12000000
  List.map (fun e => (e.2, packetIn ((stagedOver (stagedStores w) (base + e.1 * 64) 64).map (·.getD 0))))
    (touched (stagedStores w) base 64 65536)

/-- Does a result pass the check of R199. -/
def resultOk (s : State) (r : TickRec) (w : Part) (i : Nat) (b : List Byte) : Bool :=
  match w.entries[i]? with
  | none => false
  | some e =>
    let fl := recAt b 4 1
    let valid := bitOn fl 7
    let nd := recAt b 5 1
    let adv := recAt b 0 4
    bitsAt fl 1 6 == 0 && recAt b 6 2 == 0 && ofLe ((b.drop 12).take 52) == 0
      && (!valid || (decide (adv ≤ e.a) && (e.kind != 1 || adv == e.a) && decide (nd ≤ (sessGet s r e.queue).maxDrafts ∧ nd ≤ 64)
            && parentsOk (((b.drop 64).take nd).map (·.toNat))))

/-- Does a staged packet obey R477. -/
def packetOk (s : State) (p : Nat) (k : Packet) : Bool :=
  k.opcode == 0x0320 && decide (k.flags < 4 ∧ k.length = 16 ∧ k.w1 < 2 ^ 18 ∧ k.w2 < 2 ^ 63)
    && k.w3 == 0 && k.w4 == 0 && k.w5 == 0 && k.w6 == 0 && k.w7 == 0
    && match Map.get? s.fences k.w1 with
      | some f => (ctxGet s f.ctx).part == p
      | none => true

/-- The context a staged packet is performed for. -/
def packetCtx (s : State) (p staged : Nat) (k : Packet) : Nat :=
  let x := ctxGet s k.ctx
  if x.state ≠ .free ∧ x.part = p then k.ctx else staged

/-- Check every staged result and packet of a tick; those that fail fault their context (R199, R477). -/
def checkStaged (p : Nat) (r : TickRec) (s : State) : State :=
  let w := partGet s p
  let s := (stagedResults r w).foldl (fun s e =>
    if resultOk s r w e.1 e.2.2 then s
    else ctxFault (match w.entries[e.1]? with | some b => b.ctx | none => e.2.1) 0x12 0 0 s) s
  (stagedPackets r w).foldl (fun s e =>
    if packetOk s p e.2 then s
    else
      let c := packetCtx s p e.1 e.2
      logErr { code := 0x0A04, cls := clsContext, part := some p, ctx := some c } (ctxFault c 0x13 0 0 s)) s

/-- Are a context's staged effects of this tick discarded (R101). -/
def ctxDropped (s : State) (w : Part) (c : Nat) : Bool := w.faulted.contains c || (ctxGet s c).state == .faulted

end Sys2Proof.Machine
end

