-- ==== Sys2Proof/Machine/GrisetTick.lean ====
section
/-! DEFINITION. Machine/GrisetTick.lean: the commands of group 0x03 (R476) and CTX_RESUME: the tick record, program loads
(R63, R506), session commands, the KV tables (R142, R143) and page moves (R164 to R167). The edge-applied ones (R474)
start by reading what they need and wait for the partition's apply, or are applied at once on a disabled partition. -/
namespace Sys2Proof.Machine

/-! ### Tick records (R186) -/

/-- Decode a tick record; none where a field breaks R186. -/
def tickRecOf (b : List Byte) : Option TickRec :=
  let r : TickRec := ⟨recAt b 0 8, recAt b 8 8, recAt b 16 8, recAt b 24 8, recAt b 32 8, recAt b 40 8, recAt b 48 4,
                      recAt b 52 4, recAt b 56 4⟩
  if r.planPA % 64 = 0 ∧ r.sessionPA % 64 = 0 ∧ r.draftPA % 64 = 0 ∧ r.bdtPA % 65536 = 0 ∧ r.stagePA % 65536 = 0
      ∧ recAt b 60 4 = 0 then some r else none

/-- Does every table of a record lie in the partition. -/
def tickRecIn (s : State) (p : Nat) (r : TickRec) : Bool :=
  inPart s p r.planPA 4096 && inPart s p r.bdtPA (512 * 2 ^ 20)
    && (r.queueCount == 0 || (inPart s p r.sessionPA (r.queueCount * 64) && inPart s p r.draftPA (r.queueCount * 64)))
    && (r.stage64K == 0 || inPart s p r.stagePA (2 * r.stage64K * 65536))

/-- PART_TICK (R186, R476, R516, R521). -/
def doPartTick (c : Cmd) (s : State) : Done × State :=
  let p := bitsAt c.pkt.w1 0 8
  if (partGet s p).enabled then (.st 0x0A, s)
  else if [1, 2].contains (fget s F.partSec_tdisp p) then (.st 0x0A, logRefused 0x0B02 (some p) s)
  else if lostSector s c.pkt.w2 64 then (.st 0x0B, lostMet c.pkt.w2 64 s)
  else match tickRecOf (memRead s c.pkt.w2 64) with
    | none => (.st 0x02, s)
    | some r => if tickRecIn s p r then (.st 0, partMod p (fun w => { w with offered := some r }) s) else (.st 0x02, s)

/-- PART_TICK. -/
def execPartTick (cmd : Nat) (s : State) : Result := .next (startOp 0x0301 doPartTick cmd s)

/-! ### Which partition a command waits for -/

/-- Can a partition still reach an apply: it is enabled and not faulted. -/
def willApply (s : State) (p : Nat) : Bool := (partGet s p).enabled && !fon s F.partStatus_faulted p

/-- The session queue a command names in W1: its partition and tick record, or a status. -/
def sessQueue (s : State) (c : Cmd) : Except Nat (Nat × Nat × TickRec) :=
  let q := bitsAt c.pkt.w1 0 20
  let d := queueGet s q
  let p := (ctxGet s d.ctx).part
  let w := partGet s p
  if d.kind ≠ 1 then .error 0x08
  else if !mayName s c d.ctx then .error 0x04
  else match (if w.enabled then w.inForce else w.offered) with
    | some r => if inRange r q then .ok (q, p, r) else .error 0x08
    | none => .error 0x08

/-! ### Applying (R474) -/

/-- CTX_RESUME is applied (R449). -/
def applyResume (c : Cmd) (s : State) : Done × State :=
  let x := bitsAt c.pkt.w1 0 16
  if (ctxGet s x).state = .faulted then (.st 0, ctxMod x (fun k => { k with state := .active }) s) else (.st 0x0A, s)

/-- Where the provenance entry of a queue stands, if the partition has a table (R510). -/
def provAt (s : State) (p q : Nat) (r : TickRec) : Option Nat :=
  if fon s F.partProv_valid p then some (fget s F.partProv_base p * 65536 + (q - r.queueFirst) * 128) else none

/-- The ASCII bytes of a label. -/
def ascii (l : List Nat) : List Byte := l.map (BitVec.ofNat 8)

/-- The chain value that SESS_SET starts (R511). -/
def provStart (q p : Nat) : List Byte :=
  Config.sha512 (ascii [0x44, 0x58, 0x31, 0x50, 0x52, 0x4F, 0x56, 0] ++ leBytes 8 Config.serial ++ leBytes 4 q ++ leBytes 1 p)

/-- SESS_SET is applied: the record is written, and the provenance chain starts (R188, R476, R511). -/
def applySessSet (c : Cmd) (s : State) : Done × State :=
  match sessQueue s c with
  | .error e => (.st e, s)
  | .ok (q, p, r) =>
    if (sessGet s r q).mode ≠ 0 then (.st 0x0A, s)
    else
      let k := c.pkt
      let cl := bitsAt k.w2 0 8
      let x : Sess := { mode := 0, prefillCls := bitsAt cl 0 3, decodeCls := bitsAt cl 3 3, urgency := bitsAt cl 6 2
                        maxDrafts := bitsAt k.w2 8 8, nextDrafts := 0, c := bitsAt k.w4 0 32, reserve := bitsAt k.w4 32 32
                        remaining := 0, lastToken := bitsAt k.w5 0 32, outRing := bitsAt k.w2 16 20, ctx := (queueGet s q).ctx
                        age := 0, kvRoot := k.w3, nextVA := 0 }
      let s := sessPut r q x s
      (.st 0, match provAt s p q r with
        | some a => devStore (a + 72) (leBytes 8 0) (devStore a (padTo 64 0 (provStart q p)) s)
        | none => s)

/-- SESS_RESERVE is applied (R162, R476): the largest A is a prefill chunk of at most 8,192, or 1 plus MAX_DRAFTS. -/
def applySessReserve (c : Cmd) (s : State) : Done × State :=
  match sessQueue s c with
  | .error e => (.st e, s)
  | .ok (q, _, r) =>
    let x := sessGet s r q
    let a := if x.mode = 1 then min x.remaining 8192 else 1 + x.maxDrafts
    if bitsAt c.pkt.w2 0 32 < x.c + a then (.st 0x02, s)
    else (.st 0, sessPut r q { x with reserve := bitsAt c.pkt.w2 0 32 } s)

/-- SESS_RESET is applied (R476). -/
def applySessReset (c : Cmd) (s : State) : Done × State :=
  match sessQueue s c with
  | .error e => (.st e, s)
  | .ok (q, _, r) =>
    let x := sessGet s r q
    if x.mode ≠ 0 ∧ x.mode ≠ 3 then (.st 0x0A, s)
    else
      let s := sessPut r q { x with mode := 0 } s
      (.st 0, if bitOn c.pkt.w2 0 then queueMod q (fun d => { d with cidx := d.pidx }) s else s)

/-- Fields of KV_MAP and KV_UNMAP (R476). -/
structure KvCmd where
  lo : Nat
  hi : Nat
  plane : Nat
  spine : Bool
  first : Nat
  count : Nat
  deriving DecidableEq, Repr

/-- Read them. -/
def kvCmdOf (k : Packet) : KvCmd :=
  ⟨bitsAt k.w1 20 8, bitsAt k.w1 28 8, bitsAt k.w1 36 2, bitOn k.w1 38, bitsAt k.w2 0 32, bitsAt k.w2 32 32⟩

/-- The entries such a command names. -/
def KvCmd.entries (k : KvCmd) : Nat := k.count * (k.hi + 1 - k.lo)

/-- Where page entry `n` of a layer and plane stands (R141). -/
def kvEntryAt (s : State) (p root : Nat) (k : KvLayout) (l pl n : Nat) : Except Nat Nat :=
  match kvTable s [] p (k.spineAt root l pl (n / 64)) with
  | .error (.unread _ _) => .error 0x0B
  | .error _ => .error 0x04
  | .ok e =>
    let a := kvEntryAddr e + n % 64 * 8
    if !kvEntryOk e false then .error 0x02 else if inPart s p a 8 then .ok a else .error 0x04

/-- Where the entries stand, in ascending layer, then page. -/
def kvCmdAddrs (s : State) (p root : Nat) (k : KvLayout) (v : KvCmd) : Except Nat (List Nat) :=
  ((List.range (v.hi + 1 - v.lo)).flatMap fun i => (List.range v.count).map fun j => (v.lo + i, v.first + j)).mapM fun e =>
    if v.spine then
      let a := k.spineAt root e.1 v.plane e.2
      if inPart s p a 8 then .ok a else .error 0x04
    else kvEntryAt s p root k e.1 v.plane e.2

/-- KV_MAP or KV_UNMAP is applied: it writes the list, or zeros (R143, R476). -/
def applyKvMap (unmap : Bool) (c : Cmd) (s : State) : Done × State :=
  match sessQueue s c with
  | .error e => (.st e, s)
  | .ok (q, p, r) =>
    let x := sessGet s r q
    let v := kvCmdOf c.pkt
    match kvLayout s [] p x.kvRoot with
    | .error (.unread _ a) => (.st 0x0B, lostMet a 8 s)
    | .error _ => (.st 0x02, s)
    | .ok k =>
      let unit := k.tpp v.plane * (if v.spine then 64 else 1)
      if v.plane ≥ k.planes ∨ v.hi ≥ k.layers ∨ v.first + v.count > (if v.spine then k.spineLen else k.spineLen * 64)
          ∨ (unmap ∧ v.first * unit < x.reserve) then (.st 0x02, s)
      else match kvCmdAddrs s p x.kvRoot k v with
        | .error e => (.st e, s)
        | .ok as =>
          (.st 0, as.zipIdx.foldl (fun s a =>
            devStore a.1 (if unmap then leBytes 8 0 else (c.payload.drop (8 * a.2)).take 8) s) s)

/-- The bays a PROG_LOAD names. -/
def progBays (k : Packet) : List Nat :=
  (List.range (bitsAt k.w2 10 6 + 1 - bitsAt k.w2 4 6)).map fun i => bitsAt k.w2 0 4 * 64 + bitsAt k.w2 4 6 + i

/-- Load an image into a tile's resident region for a context. -/
def loadTile (c cls : Nat) (img : List Byte) (ring : Nat) (t : Nat) (s : State) : State :=
  let s := tileMod t (fun τ => { τ with ctx := c, cls := cls, badLines := τ.badLines.filter fun l => decide (img.length ≤ l * 64) })
    { s with store := Mem.writeN s.store (t * 1048576) img }
  rset s .kvwRing t (BitVec.ofNat 64 ring)

/-- PROG_LOAD is applied: the image is in every tile named, and PROG is extended (R63, R476, R506). -/
def applyProgLoad (c : Cmd) (s : State) : Done × State :=
  let k := c.pkt
  let g := padTo 64 0 (Config.sha512 c.payload)
  let tiles := (progBays k).flatMap fun b => (bitList 8 (bitsAt k.w2 16 8)).map fun t => b * 8 + t
  let s := tiles.foldl (fun s t => loadTile k.ctx (bitsAt k.w2 24 3) c.payload k.w3 t s) s
  let p := (ctxGet s k.ctx).part
  let tag := [bitsAt k.w2 0 4, bitsAt k.w2 4 6, bitsAt k.w2 10 6, bitsAt k.w2 16 8].map (BitVec.ofNat 8)
  let s := partMod p (fun w => { w with prog := Config.sha512 (padTo 64 0 w.prog ++ tag ++ g) }) s
  (.done 0 (recAt g 0 8) (recAt g 8 8) [], s)

/-- Apply an edge-applied command (R474). -/
def edgeApply (c : Cmd) (s : State) : Done × State :=
  match c.pkt.opcode with
  | 0x0104 => applyResume c s
  | 0x0302 => applyProgLoad c s
  | 0x0303 => applySessSet c s
  | 0x0304 => applySessReserve c s
  | 0x0305 => applySessReset c s
  | 0x0310 => applyKvMap false c s
  | _ => applyKvMap true c s

/-- The partition whose apply an edge-applied command waits for. -/
def edgePart (s : State) (c : Cmd) : Nat :=
  match c.pkt.opcode with
  | 0x0104 => (ctxGet s (bitsAt c.pkt.w1 0 16)).part
  | 0x0302 => (ctxGet s c.pkt.ctx).part
  | _ => (ctxGet s (queueGet s (bitsAt c.pkt.w1 0 20)).ctx).part

/-- Apply every command that waits for a partition's apply, in fetch order. -/
def applyEdges (p : Nat) (s : State) : State :=
  let mine := s.cmds.filter fun c => c.step == .edge && edgePart s c == p
  mine.foldl (fun s c => settle c (edgeApply c s)) s

/-- Wait for the partition's apply, or apply at once where there is none to come. -/
def edgeStart (c : Cmd) (s : State) : Done × State :=
  if willApply s (edgePart s c) then (.wait .edge, s) else edgeApply c s

/-- CTX_RESUME. -/
def execCtxResume (cmd : Nat) (s : State) : Result :=
  .next (startOp 0x0104 (fun c s => if (ctxGet s (bitsAt c.pkt.w1 0 16)).state = .free then (.st 0x0A, s) else edgeStart c s) cmd s)

/-- Check the queue a session command names, then `h`. -/
def onSession (h : Cmd → State → Done × State) (c : Cmd) (s : State) : Done × State :=
  match sessQueue s c with
  | .error e => (.st e, s)
  | .ok _ => h c s

/-- SESS_SET: MAX_DRAFTS is at most 64 (R188). -/
def execSessSet (cmd : Nat) (s : State) : Result :=
  .next (startOp 0x0303 (onSession fun c s => if bitsAt c.pkt.w2 8 8 > 64 then (.st 0x02, s) else edgeStart c s) cmd s)

/-- SESS_RESERVE. -/
def execSessReserve (cmd : Nat) (s : State) : Result := .next (startOp 0x0304 (onSession edgeStart) cmd s)

/-- SESS_RESET. -/
def execSessReset (cmd : Nat) (s : State) : Result := .next (startOp 0x0305 (onSession edgeStart) cmd s)

/-- SESS_QUERY (R476): the first sixteen bytes of the record. -/
def doSessQuery (c : Cmd) (s : State) : Done × State :=
  match sessQueue s c with
  | .error e => (.st e, s)
  | .ok (q, _, r) => (.done 0 (memNat s (sessAt r q) 8) (memNat s (sessAt r q + 8) 8) [], s)

/-- SESS_QUERY. -/
def execSessQuery (cmd : Nat) (s : State) : Result := .next (startOp 0x0306 doSessQuery cmd s)

/-- Keep the bytes a command has read. -/
def setPayload (id : Nat) (bs : List Byte) (s : State) : State :=
  { s with cmds := s.cmds.map fun c => if c.id = id then { c with payload := bs } else c }

/-- Read `n` bytes at an OREF of a command, then start it as an edge-applied command; `host` is what host memory
answers. -/
def edgeRead (c : Cmd) (w n : Nat) (host : List Byte) (s : State) : Done × State :=
  match orefRange s (ctxGet s c.pkt.ctx).part w n with
  | .error e => (.st e, s)
  | .ok (x, va) => match vaRead s x (piecesOf va n) host with
    | .error e => (.st e, vaFailed x (piecesOf va n) s)
    | .ok bs => edgeStart { c with payload := bs } (setPayload c.id bs s)

/-- KV_MAP reads its list when it starts (R476). -/
def doKvMap (host : List Byte) (c : Cmd) (s : State) : Done × State :=
  let v := kvCmdOf c.pkt
  if v.lo > v.hi ∨ v.count = 0 then (.st 0x02, s) else edgeRead c c.pkt.w3 (v.entries * 8) host s

/-- KV_MAP; `host` is what host memory answers for a list that lies there. -/
def execKvMap (cmd : Nat) (host : List Byte) (s : State) : Result := .next (startOp 0x0310 (onSession (doKvMap host)) cmd s)

/-- KV_UNMAP. -/
def execKvUnmap (cmd : Nat) (s : State) : Result :=
  .next (startOp 0x0311 (onSession fun c s =>
    let v := kvCmdOf c.pkt
    if v.lo > v.hi ∨ v.count = 0 then (.st 0x02, s) else edgeStart c s) cmd s)

/-- PROG_LOAD starts: the bays are the partition's and the image is read whole (R476). -/
def doProgLoad (host : List Byte) (c : Cmd) (s : State) : Done × State :=
  let k := c.pkt
  let p := (ctxGet s k.ctx).part
  if bitsAt k.w2 0 4 > 8 ∨ bitsAt k.w2 4 6 > bitsAt k.w2 10 6 ∨ bitsAt k.w3 4 4 ≠ 0 ∨ bitsAt k.w3 23 41 ≠ 0 then (.st 0x02, s)
  else if (progBays k).any (fun b => partOfBay s b != some p) then (.st 0x04, s)
  else match orefRange s p k.w1 64 with
    | .error e => (.st e, s)
    | .ok (x, va) => match vaRead s x (piecesOf va 64) host with
      | .error e => (.st e, vaFailed x (piecesOf va 64) s)
      | .ok h =>
        let n := recAt h 2 2
        if n < 1 ∨ 16 < n then (.st 0x02, s) else edgeRead c k.w1 (n * 65536) host s

/-- PROG_LOAD; `host` is what host memory answers for an image that lies there. -/
def execProgLoad (cmd : Nat) (host : List Byte) (s : State) : Result := .next (startOp 0x0302 (doProgLoad host) cmd s)

/-! ### Moving pages (R164 to R167) -/

/-- The tier of an address: 0 stacked memory, 1 the fen tier. -/
def tierOf (a : Nat) : Nat := if a < fenBase then 0 else 1

/-- Pages of a plane that a position range touches. -/
def kvMovePages (k : KvLayout) (pl first count : Nat) : List Nat :=
  if count = 0 then [] else
    let lo := first / k.tpp pl
    (List.range ((first + count - 1) / k.tpp pl - lo + 1)).map (· + lo)

/-- Every page a move names, in ascending layer, then plane, then page. -/
def kvMoveNames (k : KvLayout) (c : Packet) : List (Nat × Nat × Nat) :=
  let lo := bitsAt c.w1 20 8
  (List.range (bitsAt c.w1 28 8 + 1 - lo)).flatMap fun i => (bitList 4 (bitsAt c.w1 36 4)).flatMap fun pl =>
    (kvMovePages k pl (bitsAt c.w2 0 32) (bitsAt c.w2 32 32)).map fun n => (lo + i, pl, n)

/-- Set up one page of a move: its destination from the list, and whether it moves. -/
def kvMoveOne (s : State) (p root : Nat) (k : KvLayout) (cold : Bool) (idx entry : Nat) (l pl n : Nat) : Except Nat KvPage := do
  let ea ← kvEntryAt s p root k l pl n
  let e := memNat s ea 8
  if !kvEntryOk e true || !bitOn e 1 then throw 0x02
  let dest := bitsAt entry 16 32 * 65536
  let target := if cold then 1 else 0
  if tierOf (kvEntryAddr e) = target then return ⟨ea, l, idx, dest, 4, kvEntryAddr e⟩
  if !bitOn entry 0 || tierOf dest != target || !inPart s p dest 65536 then throw 0x02
  return ⟨ea, l, idx, dest, 0, kvEntryAddr e⟩

/-- The pages of a move, from its list. -/
def kvMoveAll (s : State) (p root : Nat) (k : KvLayout) (cold : Bool) (list : List Byte) :
    List ((Nat × Nat × Nat) × Nat) → Except Nat (List KvPage)
  | [] => .ok []
  | ((l, pl, n), i) :: rest => do
    let a ← kvMoveOne s p root k cold i (recAt list (8 * i) 8) l pl n
    let as ← kvMoveAll s p root k cold list rest
    return a :: as

/-- The list entry that a page of a finished move leaves (R167, R476). -/
def kvMoveResult (g : KvPage) : List Byte :=
  leBytes 8 (if g.stage = 3 then 1 + 2 + g.old / 65536 * 65536 else 1 + g.dest / 65536 * 65536)

/-- Complete a move once every page has switched or been returned (R167). -/
def kvMoveEnd (c : Cmd) (pages : List KvPage) (s : State) : Option (Done × State) :=
  if pages.all (fun g => decide (g.stage ≥ 3)) then
    let s := match orefRange s (ctxGet s c.pkt.ctx).part c.pkt.w3 (8 * pages.length) with
      | .ok (x, va) => vaWrite x va (pages.flatMap kvMoveResult) s
      | .error _ => s
    some (.done 0 (pages.filter (·.stage == 3)).length (pages.filter (·.stage == 4)).length [], s)
  else none

/-- KV_PREFETCH or KV_ADVISE starts (R164, R476). -/
def doKvMove (host : List Byte) (c : Cmd) (s : State) : Done × State :=
  match sessQueue s c with
  | .error e => (.st e, s)
  | .ok (q, p, r) =>
    let root := (sessGet s r q).kvRoot
    let cold := c.pkt.opcode == 0x0313 && !bitOn c.pkt.w4 3
    match kvLayout s [] p root with
    | .error (.unread _ a) => (.st 0x0B, lostMet a 8 s)
    | .error _ => (.st 0x02, s)
    | .ok k =>
      if bitsAt c.pkt.w1 20 8 > bitsAt c.pkt.w1 28 8 ∨ bitsAt c.pkt.w1 28 8 ≥ k.layers ∨ 2 ^ k.planes ≤ bitsAt c.pkt.w1 36 4
          ∨ bitsAt c.pkt.w2 0 32 + bitsAt c.pkt.w2 32 32 > 2 ^ k.maxLog2 then (.st 0x02, s)
      else
        let names := kvMoveNames k c.pkt
        match orefRange s (ctxGet s c.pkt.ctx).part c.pkt.w3 (8 * names.length) with
        | .error e => (.st e, s)
        | .ok (x, va) => match vaRead s x (piecesOf va (8 * names.length)) host with
          | .error e => (.st e, vaFailed x (piecesOf va (8 * names.length)) s)
          | .ok list => match kvMoveAll s p root k cold list names.zipIdx with
            | .error e => (.st e, s)
            | .ok pages => match kvMoveEnd c pages s with
              | some r => r
              | none => (.wait (.kvMove cold pages), s)

/-- KV_PREFETCH; `host` is what host memory answers for a list that lies there. -/
def execKvPrefetch (cmd : Nat) (host : List Byte) (s : State) : Result := .next (startOp 0x0312 (doKvMove host) cmd s)

/-- KV_ADVISE. -/
def execKvAdvise (cmd : Nat) (host : List Byte) (s : State) : Result := .next (startOp 0x0313 (doKvMove host) cmd s)

/-- The rewrite of a page entry by a switch (R142, R166). -/
def switchEntry (dest : Nat) : List Byte := leBytes 8 (1 + 2 + 4 * tierOf dest + dest)

/-- Change the pages of a move and complete it if that was the last. -/
def kvMoveSet (c : Cmd) (cold : Bool) (pages : List KvPage) (s : State) : State :=
  match kvMoveEnd c pages s with
  | some r => settle c r
  | none => setStep c.id (.kvMove cold pages) s

/-- The sluice class of a page's copy (R164, R328): the one the command names, and for SOON the partition's lowest, its highest-numbered
allowed class (log entry 93). -/
def kvClass (s : State) (c : Cmd) (p : Nat) : Nat :=
  if c.pkt.opcode == 0x0313 && bitOn c.pkt.w4 3 then (bitList 8 (fget s F.partSluice_allowed p)).getLastD 7
  else classFor s p (bitsAt c.pkt.w4 0 3)

/-- The staged switch of a page (R166, R201). -/
def stagedSwitch (c : Cmd) (g : KvPage) : Staged :=
  { kind := .switch g.layer c.id, tile := g.idx, ctx := c.pkt.ctx, va := g.dest, addr := g.entry, data := switchEntry g.dest }

/-- A page of a move changes its stage. -/
def pageStage (pages : List KvPage) (idx st : Nat) : List KvPage := pages.map fun g => if g.idx = idx then { g with stage := st } else g

/-- KV_PAGE_COPY_DONE (R165, R166): a mover has copied page `idx` of a move whole, within one tick; its switch is
staged. With no tick the partition could run, the switch is applied at once. -/
def execKvPageCopyDone (cmd idx : Nat) (s : State) : Result :=
  .next (onRunning (fun c s => match c.step with
    | .kvMove cold pages =>
      match pages.find? (fun g => g.idx == idx && g.stage == 0) with
      | none => s
      | some g =>
        let p := edgePart s c
        let cls := kvClass s c p
        if layerHeld s p g.layer || memHeld s g.old 65536 || memHeld s g.dest 65536 then s
        else match devRead g.old 65536 (some p) s cls with
          | (none, s) => finish c 0x0B 0 0 [] s
          | (some bs, s) =>
            let copied := devStore g.dest bs s cls
            if inTick s p then
              setStep c.id (.kvMove cold (pageStage pages idx 1)) (stageAll p [stagedSwitch c g] copied)
            else if willApply s p then s
            else kvMoveSet c cold (pageStage pages idx 3) (devStore g.entry (switchEntry g.dest) copied)
    | _ => s) cmd s)

/-- Stage again, in a new tick or a replay, the switches that a discarded tick took with it (R166). -/
def restage (p : Nat) (s : State) : State :=
  let new := (s.cmds.filter fun c => edgePart s c == p).flatMap fun c => match c.step with
    | .kvMove _ pages => (pages.filter (·.stage == 1)).map (stagedSwitch c)
    | _ => []
  if new.isEmpty then s else stageAll p new s

/-- Mark the pages whose switches a drain took: they are being applied, or are switched (R167). -/
def markSwitch (st : Nat) (e : Staged) (s : State) : State :=
  match e.kind with
  | .switch _ id => match s.cmds.find? (·.id == id) with
    | some c => match c.step with
      | .kvMove cold pages => if st = 3 then kvMoveSet c cold (pageStage pages e.tile 3) s
                              else setStep c.id (.kvMove cold (pageStage pages e.tile st)) s
      | _ => s
    | none => s
  | _ => s

end Sys2Proof.Machine
end

