-- ==== Sys2Proof/Machine/Tick.lean ====
section
/-! DEFINITION. Machine/Tick.lean: the tick at this hub (R72, R102, R177 to R217, R622): what closes a tick, the report, the
tick master's decision, and how COMMIT, REPLAY, FALLBACK and FAULT are applied; the drain of a committed tick. -/
namespace Sys2Proof.Machine

/-- Change the domain state. -/
def domMod (f : Dom → Dom) (s : State) : State := { s with dom := f s.dom }
/-- Is this hub a member of the domain. -/
def isMember (s : State) : Bool := fon s F.domStatus_member 0
/-- The tick master's hub number. -/
def masterId (s : State) : Nat := fget s F.domStatus_masterId 0
/-- Is this hub the tick master. -/
def isMaster (s : State) : Bool := isMember s && masterId s == hubId s
/-- The member hubs. -/
def members (s : State) : List Nat := bitList 64 (fget s F.domMembers_members 0)
/-- TICK_CTRL.MASTER follows DOM_STATUS (R182). -/
def setMasterBit (s : State) : State := fset F.tickCtrl_master 0 (bit01 (isMaster s)) s

/-! ### Mapping-out (R103, R552) -/

/-- Queue a tile (or, with `bay`, its bay) for mapping-out; at most 64 are pending (R552). -/
def queueMapout (tile : Nat) (bay : Bool) (s : State) : State :=
  if s.mapouts.contains (tile, bay) ∨ s.mapouts.length ≥ 64 then s
  else
    let s := { s with mapouts := s.mapouts ++ [(tile, bay)] }
    fset F.defMapout_pending 0 s.mapouts.length s

/-! ### Partition faults (R209, R216) -/

/-- The partition's batch is over. -/
def endBatch (p : Nat) (s : State) : State :=
  partMod p (fun w => { w with live := false, released := false, undecided := false, entries := [], staged := [], overflow := false
                               spoils := [], lastSpoils := [], repeated := [], injAll := true, replayOwed := false }) s

/-- Fault a partition (R209): it admits nothing more, reservations are returned, and commands that waited for its apply
are applied. -/
def faultPart (p cause : Nat) (injected mapout : Bool) (s : State) : State :=
  let s := endBatch p (returnSlots p s)
  let s := fset F.partStatus_cause p cause (fset F.partStatus_faulted p 1 s)
  let s := logErr { code := 0x0900 + cause, cls := clsPartition, part := some p, injected := injected, mapout := mapout
                    unitReg := (rget s .partStatus p).toNat } s
  sweep (applyEdges p s)

/-- What the partition's block counts and shows (R216, R217). -/
def partShown : List RegName := [.partStatus, .partCommits, .partSpoils, .partOverruns, .partLastTick]

/-- Disable a partition (R622): a replay that is owed is dropped and its reservations returned. Where a partition reset
waited for the decision, the registers of its block take their reset values once more. -/
def disablePart (p : Nat) (s : State) : State :=
  let s := endBatch p (returnSlots p s)
  let s := if (partGet s p).cut then partShown.foldl (fun s r => rreset r p s) s else s
  let s := partMod p (fun w => { w with enabled := false, stopping := false, stopNow := false, cut := false }) s
  sweep (applyEdges p s)

/-- Enable a partition at an edge (R191, R193, R215, R487): the taken record comes into force, the fault and its cause
clear, the ceiling is the driver's, and the whole plan table is checked. -/
def enablePart (p : Nat) (s : State) : State :=
  let w := partGet s p
  let s := partSet p { w with
    enabled := true, enabling := false, stopping := false, stopNow := false, lsEarly := [], inForce := w.taken, streak := 0, told := 0xFF } (endBatch p s)
  let s := rset s .partStatus p 0
  let s := fset F.partStatus_ceilNow p (fget s F.partCfg_ceiling p) s
  let s := fset F.partSec_clean p 0 (placeKeys p s)
  match w.taken with
  | some r => if planTableOk s r then s else faultPart p 7 false false s
  | none => s

/-! ### Committing (R189, R190, R205, R206) -/

/-- Has a session work (R189). -/
def sessWork (s : State) (r : TickRec) (q : Nat) : Bool :=
  let x := sessGet s r q
  ((x.mode == 1 || x.mode == 2) && decide (x.remaining > 0)) || (qHead s q).isSome

/-- Apply one VALID result of tick `tick` to its session (R188, R206). A decode that continues a PREFILL has no entry of its own left to
consume. -/
def applyResult (p tick : Nat) (r : TickRec) (e : BatchEntry) (b : List Byte) (s : State) : State :=
  let q := e.queue
  let x := sessGet s r q
  let adv := recAt b 0 4
  let eos := bitOn (recAt b 4 1) 0
  let h := qHead s q
  let x := { x with c := (x.c + adv) % 2 ^ 32, lastToken := recAt b 8 4, nextDrafts := recAt b 5 1, remaining := x.remaining - adv
                    age := tick }
  let (x, s) :=
    if x.mode = 1 then
      let x := { x with nextVA := x.nextVA + 4 * adv }
      if x.remaining ≠ 0 then (x, s)
      else match h with
        | some k => if bitOn k.flags 0 then
            ({ x with mode := 2, remaining := k.maxNew },
              partMod p (fun w => { w with genDone := Map.set w.genDone q (k.flags, k.user) }) (qConsume q s))
                    else ({ x with mode := 0 }, qConsume q s)
        | none => ({ x with mode := 0 }, s)
    else if x.mode = 2 ∧ (x.remaining = 0 ∨ eos) then
      ({ x with mode := 0 }, if (Map.get? (partGet s p).genDone q).isSome then partMod p (fun w => { w with genDone := Map.erase w.genDone q }) s
                             else match h with | some _ => qConsume q s | none => s)
    else (x, s)
  devStore (draftAt r q) ((b.drop 64).take 64) (sessPut r q x s)

/-- An output record with no tokens (R200): PAD or CLOSED. -/
def emptyRecord (q user tick flags : Nat) : List Byte :=
  leBytes 4 q ++ leBytes 4 user ++ leBytes 8 tick ++ leBytes 1 0 ++ leBytes 1 flags ++ leBytes 46 0

/-- Apply CLOSE entries at the heads of sessions' queues (R206): the record goes into the next ring slot, and the session is IDLE. -/
def applyCloses (p : Nat) (r : TickRec) (tick : Nat) (qs : List Nat) (s : State) : List RingRec × State :=
  qs.foldl (fun a q =>
    let (out, s) := a
    let x := sessGet s r q
    match qHead s q with
    | some e =>
      if x.mode = 3 ∨ e.kind ≠ 3 then a
      else if qEntryBad s p x e then (out, unlist p q (sessFault p r q x s))
      else
        let d := queueGet s x.outRing
        if d.kind ≠ 4 ∨ d.state ≠ 1 ∨ ringFree s x.outRing < 1 then a
        else
          let s := if x.mode = 0 then s
            else sessPut r q { x with mode := 0 } (partMod p (fun w => { w with genDone := Map.erase w.genDone q }) s)
          (out ++ [⟨x.outRing, x.ctx, false, emptyRecord q e.user tick 8⟩], ringReserve x.outRing 1 (qConsume q s))
    | none => a) ([], s)

/-- Step 1 of R205: sessions, queue heads, ready bits and ages. -/
def commitSessions (p : Nat) (r : TickRec) (w : Part) (s : State) : List RingRec × State :=
  let results := (stagedResults r w).filter fun e => bitOn (recAt e.2.2 4 1) 7
  let s := results.foldl (fun s e => match w.entries[e.1]? with
    | some b => if ctxDropped s w b.ctx then s else
        partMod p (fun w' => { w' with ages := Map.set w'.ages b.queue w.workTick }) (applyResult p w.workTick r b e.2.2 s)
    | none => s) s
  let listed := (List.map (·.1) (partGet s p).ages).filter (inRange r)
  let (out, s) := applyCloses p r w.workTick listed s
  let idle := (s.ready.filter (inRange r)).filter fun q => !sessWork s r q
  let s := { s with ready := s.ready.filter fun q => !idle.contains q }
  let s := partMod p (fun w => { w with ages := w.ages.filter fun e => s.ready.contains e.1 }) s
  let s := (partGet s p).ages.foldl (fun s e =>
    if inRange r e.1 then
      let x := sessGet s r e.1
      if x.age = e.2 then s else sessPut r e.1 { x with age := e.2 } s
    else s) s
  (out, s)

/-- The slots a batch entry reserved: their addresses, and whether they lie in host memory. -/
def entrySlots (s : State) (e : BatchEntry) : List (Bool × Nat) :=
  (List.range e.outSlots).map fun j => (queueSlot s e.outRing (e.outIndex + j)).getD (false, 0)

/-- Does a staged store begin in one of the reserved slots. -/
def inSlots (slots : List (Bool × Nat)) (e : Staged) : Bool :=
  let host := match e.kind with | .hostStore => true | _ => false
  slots.any fun k => k.1 == host && decide (k.2 ≤ e.addr ∧ e.addr < k.2 + 64)

/-- The records of a batch entry's slots: what the tick staged there, or PAD (R200). -/
def slotRecords (s : State) (w : Part) (e : BatchEntry) : List RingRec :=
  (entrySlots s e).map fun k =>
    let l := w.staged.filter fun g => match g.kind with
      | .hostStore => k.1
      | .store => !k.1
      | _ => false
    let bs := stagedOver l k.2 64
    if bs.all (·.isNone) then ⟨e.outRing, e.ctx, true, emptyRecord e.queue e.user w.workTick 4⟩
    else ⟨e.outRing, e.ctx, false, (bs.zip (memRead s k.2 64)).map fun b => b.1.getD (if k.1 then 0 else b.2)⟩

/-- The inputs of an entry for its provenance hash (R511). -/
def provInputs (s : State) (e : BatchEntry) : List Byte :=
  if e.kind = 1 then (match vaRead s e.ctx (piecesOf e.tokenVA (4 * e.a)) [] with | .ok b => b | .error _ => [])
  else leBytes 4 e.lastToken ++ e.parents.flatMap (leBytes 1)

/-- The provenance extensions a commit owes (R511). -/
def commitExts (s : State) (r : TickRec) (w : Part) : List Extension :=
  ((stagedResults r w).filter fun e => bitOn (recAt e.2.2 4 1) 7).filterMap fun e => match w.entries[e.1]? with
    | some b => if ctxDropped s w b.ctx then none else
        some ⟨b.queue, w.workTick, b.c, b.a, b.c + recAt e.2.2 0 4,
              padTo 64 0 w.progAt ++ padTo 64 0 w.weightsAt ++ padTo 64 0 (Config.sha512 (provInputs s b))
                ++ (slotRecords s w b).flatMap (·.data)⟩
    | none => none

/-- The layer of a drained item, and whether it is a switch. -/
def drainKey (e : Staged) : Nat := match e.kind with
  | .append l => 2 * l
  | .switch l _ => 2 * l + 1
  | _ => 0

/-- Insert by a key, after equal keys. -/
def insertStaged (k : Nat) (e : Staged) : List (Nat × Staged) → List (Nat × Staged)
  | [] => [(k, e)]
  | (j, f) :: l => if k < j then (k, e) :: (j, f) :: l else (j, f) :: insertStaged k e l

/-- KV appends and page switches in the order they drain (R159, R205 step 3). -/
def drainOrder (l : List Staged) : List Staged :=
  let kv := l.filter fun e => match e.kind with | .append _ => true | .switch _ _ => true | _ => false
  (kv.foldl (fun a e => insertStaged (drainKey e * 65536 + e.tile) e a) []).map (·.2)

/-- The fences a commit signals (R477), in ascending slot. -/
def commitFences (s : State) (p : Nat) (r : TickRec) (w : Part) : List (Nat × Nat × Nat) :=
  (stagedPackets r w).filterMap fun e =>
    let c := packetCtx s p e.1 e.2
    if !packetOk s p e.2 || ctxDropped s w c then none else some (c, e.2.w1, e.2.w2)

/-- The ceiling rises one step: the lowest-numbered valid plan whose NEXT is the ceiling, never above the driver's
(R193). An entry it reads that breaks the table faults the partition (R191). -/
def raiseCeiling (p : Nat) (r : TickRec) (s : State) : State :=
  let cur := fget s F.partStatus_ceilNow p
  match (List.range cur).find? (fun n => let f := planOf (planBytes s r n); planBad n (planBytes s r n) || (f.valid && f.next == cur)) with
  | some n => if planBad n (planBytes s r n) then faultPart p 7 false false s
    else if fget s F.partCfg_ceiling p ≤ n then fset F.partStatus_ceilNow p n s else s
  | none => s

/-- Count a committed tick towards the ceiling's recovery (R193). -/
def commitStreak (p : Nat) (r : TickRec) (s : State) : State :=
  let k := fget s F.partCfg_recoverLog2 p
  let n := (partGet s p).streak + 1
  if k ≠ 0 ∧ n ≥ 2 ^ k then raiseCeiling p r (partMod p (fun w => { w with streak := 0 }) s)
  else partMod p (fun w => { w with streak := n }) s

/-- Apply a committed tick (R205): steps 1 and 2 now, steps 3 to 6 as a drain. The lock-step secondary sends nothing to
hosts and signals no fence (R259). -/
def commitPart (p : Nat) (s : State) : State :=
  let w := partGet s p
  match w.inForce with
  | none => s
  | some r =>
    let keep := w.staged.filter fun e => !ctxDropped s w e.ctx
    let w := { w with staged := keep }
    let alive := w.entries.filter fun e => !ctxDropped s w e.ctx
    let slots := alive.flatMap (entrySlots s)
    let recs := alive.flatMap (slotRecords s w)
    let exts := commitExts s r w
    let fences := commitFences s p r w
    let dropped := w.entries.filter fun e => ctxDropped s w e.ctx
    let s := dropped.foldl (fun s e => if e.outSlots = 0 then s else ringReturn e.outRing e.outSlots s) s
    let (closes, s) := commitSessions p r w s
    let s := ((stagedStores w).filter fun e => !inSlots slots e).foldl (fun s e => devStore e.addr e.data s) s
    let host := keep.filter fun e => (match e.kind with | .hostStore => true | _ => false) && !inSlots slots e
    let quiet := lsSecondary s p
    let s := if quiet then (recs ++ closes).foldl (fun s k => ringReturn k.ring 1 s) s else s
    let d : Drain :=
      { tick := w.workTick, half := w.half, todo := drainOrder keep, egress := if quiet then [] else host
        rings := if quiet then [] else recs ++ closes, sent := quiet || (host.isEmpty && recs.isEmpty && closes.isEmpty)
        fences := if quiet then [] else fences, fenced := quiet || fences.isEmpty, exts := exts
        chains := w.entries.map (·.queue) }
    let s := d.todo.foldl (fun s e => markSwitch 2 e s) s
    let s := partMod p (fun w => { w with drains := w.drains ++ [d] }) s
    let s := fwrap F.partCommits_count F.partCommits_ovf p 1 s
    let s := rset s .partLastTick p (BitVec.ofNat 64 w.workTick)
    let s := fset F.tickTiming_slackNs 0 ((Config.freeWord s.fresh).toNat % 2 ^ 32) (tickFresh s)
    commitStreak p r (endBatch p s)

/-! ### Decisions (R204, R207, R210, R211) -/

/-- The lock-step primary sends a batch descriptor table to its partner (R259), in packets whose ADDR is the offset of
their bytes in the table. -/
def lsSendTable (p : Nat) (s : State) : State :=
  let w := partGet s p
  match w.inForce with
  | some r =>
    if !lsPrimary s p || !w.live then s
    else
      let bs := memRead s r.bdtPA (64 + 128 * w.entries.length)
      ((chunks 512 (bs.length / 512 + 1) bs).zipIdx).foldl (fun s e =>
        sendPkt { fromHub s 0x20 (lsPartner s p) with part := p, addr := e.2 * 512, data := padTo ((e.1.length + 31) / 32 * 32) 0 e.1 } s) s
  | none => s

/-- Read an entry of a batch descriptor table (R197). -/
def entryIn (s : State) (r : TickRec) (b : List Byte) : BatchEntry :=
  let q := recAt b 0 4
  let ring := (sessGet s r q).outRing
  let va := recAt b 40 8
  { queue := q, ctx := recAt b 4 2, kind := recAt b 6 1, drafts := recAt b 7 1, c := recAt b 8 4, a := recAt b 12 4
    tokenOffset := recAt b 16 4, lastToken := recAt b 20 4, tokenVA := recAt b 24 8, kvRoot := recAt b 32 8, outVA := va
    outSlots := recAt b 48 1, outIndex := (va - (queueGet s ring).baseVA) / 64, outRing := ring
    lastChunk := bitOn (recAt b 49 1) 0, generate := bitOn (recAt b 49 1) 1, cls := recAt b 50 1, urg := recAt b 51 1
    user := recAt b 52 4, parents := ((b.drop 64).take 64).map (·.toNat), pages := 0 }

/-- The secondary takes the primary's table: its sessions start as the primary's did, and its own rings reserve the same
slots. -/
def lsTakeTable (p : Nat) (r : TickRec) (s : State) : State :=
  let n := memNat s (r.bdtPA + 12) 4
  let es := (List.range n).map fun e => entryIn s r (memRead s (r.bdtPA + 64 + 128 * e) 128)
  let first := fget s F.partStatus_attempt p == 1
  let s := if !first then s else es.foldl (fun s e =>
    let x := sessGet s r e.queue
    let s := match x.mode, qHead s e.queue with
      | 0, some h => (sessStart r e.queue x h s).2
      | _, _ => s
    if e.outSlots = 0 then s else ringReserve e.outRing e.outSlots s) s
  partMod p (fun w => { w with entries := es, lsReady := true }) s

/-- A piece of the primary's table arrives: the last one gives this hub its batch. -/
def lsPiece (p addr : Nat) (data : List Byte) (s : State) : State :=
  let w := partGet s p
  match w.inForce with
  | none => s
  | some r =>
    let got := if w.lsGot.contains addr then w.lsGot else addr :: w.lsGot
    let s := partSet p { w with lsGot := got } (devStore (r.bdtPA + addr) data s)
    if got.contains 0 && got.length == (64 + 128 * memNat s (r.bdtPA + 12) 4 + 511) / 512 then lsTakeTable p r s else s

/-- The table of a tick that begins: the primary sends it, the secondary takes the pieces that have come before (R259). -/
def lsTable (p : Nat) (s : State) : State :=
  let early := (partGet s p).lsEarly
  let s := partMod p (fun w => { w with lsEarly := [] }) s
  if lsSecondary s p then early.foldl (fun s e => lsPiece p e.1 e.2 s) s else lsSendTable p s

/-- Admit for a new tick, unless the plan is none or the partition is in host wait (R192, R195, R405). -/
def admitNext (p plan : Nat) (s : State) : State :=
  let w := partGet s p
  if !w.enabled || fon s F.partStatus_faulted p || hostWait s p || fon s F.tickCtrl_exhausted 0 then s
  else match w.inForce with
    | none => s
    | some r =>
      if plan ≥ 64 then noFit p s
      else if planBad plan (planBytes s r plan) then faultPart p 7 false false s
      else lsTable p (restage p (admitBatch p r plan (fget s F.tickCounter_count 0 - bit01 w.behind) s))

/-- After a decision that owes no replay: commands that wait are applied, then the partition is disabled if that is owed,
or admits (R474, R622). -/
def afterDecision (p plan : Nat) (s : State) : State :=
  let s := sweep (applyEdges p s)
  if (partGet s p).stopNow then disablePart p s else admitNext p plan s

/-- Begin a replay: the same table, plan, tick and entries, with nothing staged (R207). -/
def startReplay (p : Nat) (s : State) : State :=
  lsTable p (restage p (partMod p (fun w => { w with
    live := true, released := false, undecided := false, replayOwed := false, staged := [], overflow := false, spoils := []
    repeated := [], faulted := [], lsReady := false, lsMine := [], lsPeer := [], lsGot := [], sigGot := [] }) s))

/-- A partition whose replay is owed takes a decision that leaves it owed (R405): the replay runs once the wait has ended. -/
def replayWaits (p : Nat) (s : State) : State :=
  if (partGet s p).stopNow then disablePart p s else if hostWait s p then s else startReplay p s

/-- A REPLAY at a hub that has no batch of the partition: nothing new is admitted in that tick (R207). -/
def replayNone (p plan : Nat) (s : State) : State :=
  let s := sweep (applyEdges p s)
  if (partGet s p).stopNow then disablePart p s else if plan ≥ 64 then noFit p s else s

/-- REPLAY (R207, R405, R622). -/
def decideReplay (p plan : Nat) (s : State) : State :=
  let w := partGet s p
  let s := fbump F.partSpoils_count p 1 s
  if w.replayOwed then replayWaits p s
  else if !w.live then replayNone p plan s
  else if w.stopNow then disablePart p s
  else
    let n := fget s F.partStatus_attempt p + 1
    let s := fset F.partStatus_attempt p n s
    let s := match w.inForce with
      | some r => devStore (r.bdtPA + 9) (leBytes 1 n) s
      | none => s
    let s := partSet p { w with lastSpoils := w.spoils, injAll := w.injAll && !w.spoils.isEmpty && w.spoils.all (·.injected) } s
    if hostWait s p then
      partMod p (fun w => { w with live := false, released := false, undecided := false, replayOwed := true, staged := []
                                   spoils := [], overflow := false }) s
    else startReplay p s

/-- FALLBACK (R210, R211): the ceiling becomes NEXT of the tick's plan, whose entry is checked as it is read (R191). -/
def decideFallback (p plan : Nat) (s : State) : State :=
  let w := partGet s p
  let cur := fget s F.partStatus_plan p
  let nx : Option Nat := match w.inForce with
    | some r => if w.live then (if planBad cur (planBytes s r cur) then none else some (planOf (planBytes s r cur)).next) else some 0xFF
    | none => some 0xFF
  match nx with
  | none => faultPart p 7 false false (fbump F.partOverruns_count p 1 s)
  | some nx =>
  let s := if nx < 64 then fset F.partStatus_ceilNow p nx s else s
  let s := fbump F.partOverruns_count p 1 s
  let s := logErr { code := 0x0912, cls := clsInfo, part := some p } s
  let s := partMod p (fun w => { w with streak := 0 }) (endBatch p (returnSlots p s))
  afterDecision p plan s

/-- The sectors and tiles that failed again are handed on, unless every failure was injected (R103, R208, R594). -/
def handOn (w : Part) (s : State) : Bool × State :=
  w.repeated.foldl (fun a e => if e.injected then a else match e.src with
    | .tile g => match localTile g with
      | some t => if hubOfTile g = hubId s then (true, queueMapout t false a.2) else a
      | none => a
    | .sector q => (a.1, queueRepair q a.2)
    | _ => a) (false, s)

/-- FAULT (R204, R209). -/
def decideFault (p cause : Nat) (s : State) : State :=
  let w := partGet s p
  let inj := if cause = 1 then !w.repeated.isEmpty && w.repeated.all (·.injected)
             else cause == 2 && w.injAll && !w.spoils.isEmpty && w.spoils.all (·.injected)
  let (mapout, s) := if cause = 1 then handOn w s else (false, s)
  let s := faultPart p cause inj mapout s
  if (partGet s p).stopNow then disablePart p s else s

/-- A tenon with TICK_NOTE hears of its partition's decision (R384). -/
def tickNotes (p dec tick : Nat) (s : State) : State :=
  (List.range 12).foldl (fun s n =>
    if fon s F.mtAssign_assigned n && fget s F.mtAssign_partition n == p && fget s F.mtStatus_state n == 9
        && (rget s .mtDesc (n * 32 + 3)).getLsbD 42 then
      emit .site 0x05 [n] (leBytes 8 tick ++ leBytes 1 p ++ leBytes 1 dec) s
    else s) s

/-- Does a partition take a decision line for tick `tick` (R204): it awaits that tick's decision, or one of an earlier tick that never came,
and the line is REPLAY or FAULT, by which no tick is applied (DESIGN CHOICE, log entry 98). -/
def takesLine (tick : Nat) (w : Part) (l : DecLine) : Bool :=
  w.enabled && w.undecided && (w.closing % 2 ^ 48 == tick % 2 ^ 48
    || (w.behind && (l.dec == 1 || decide (l.dec ≥ 3)) && decide ((tick + 2 ^ 48 - w.closing % 2 ^ 48) % 2 ^ 48 < 2 ^ 47)))

/-- Apply one line of a decision for tick `tick`. -/
def applyLine (tick : Nat) (s : State) (l : DecLine) : State :=
  let p := l.part
  let w := partGet s p
  if !takesLine tick w l then s
  else
    let note := w.workTick
    let s := partMod p (fun w => { w with undecided := false, told := l.dec }) s
    let s := if w.cut then
        disablePart p (if l.dec ≥ 3 then decideFault p l.cause s else if l.dec = 0 ∧ w.live then commitPart p s else s)
      else match l.dec with
      | 0 => if w.replayOwed then replayWaits p s else afterDecision p l.plan (if w.live then commitPart p s else s)
      | 1 => decideReplay p l.plan s
      | 2 => decideFallback p l.plan s
      | _ => decideFault p l.cause s
    let s := if !w.behind then s
      else if w.closing % 2 ^ 48 ≠ tick % 2 ^ 48 then partMod p (fun w => { w with behind := false }) s
      else if !(partGet s p).enabled then s
      else partMod p (fun w => { w with undecided := true, behind := false, closing := fget s F.tickCounter_count 0 - 1 }) s
    tickNotes p l.dec note s

/-- The attempt each partition is at after a decision of tick `tick` (R204): every hub counts, so that a successor of the master knows
it. A decision heard again counts once. -/
def countAttempt (tick : Nat) (d : Dom) (l : DecLine) : Dom :=
  match Map.get? d.attempts l.part with
  | some (n, t) => if t % 2 ^ 48 = tick % 2 ^ 48 then d
    else { d with attempts := Map.set d.attempts l.part (if l.dec = 1 then n + 1 else 1, tick) }
  | none => { d with attempts := Map.set d.attempts l.part (if l.dec = 1 then 2 else 1, tick) }

/-- A decision arrives (R184, R204). -/
def decisionApply (tick : Nat) (ls : List DecLine) (s : State) : State :=
  let s := domMod (fun d => ls.foldl (countAttempt tick) d) s
  let now := (Config.timeNs s.fresh).toNat
  let s := fset F.tickTiming_decisionNs 0 (min (now - s.dom.edgeNs) 0xFFFF) (tickFresh s)
  sweep (ls.foldl (applyLine tick) s)

/-! ### The tick master (R203, R204) -/

/-- The lines for one partition. -/
def reportsFor (s : State) (p : Nat) : List Report := s.dom.reports.filter (·.line.part == p)

/-- The attempt a partition is at. -/
def attemptOf (s : State) (p : Nat) : Nat := match Map.get? s.dom.attempts p with
  | some e => e.1
  | none => 1

/-- Hubs that may hold a partition: those whose reports have said so, and, for a partition of which a decision has been heard, members
from which a new master has had no report yet (DESIGN CHOICE, log entry 98). -/
def mayHold (s : State) (p : Nat) : List Nat :=
  let known := Map.get s.dom.holders [] p
  if (Map.get? s.dom.attempts p).isSome then (known ++ s.dom.unsure).eraseDups else known

/-- Hubs that hold a partition and have not reported. -/
def absentHubs (s : State) (p : Nat) : List Nat :=
  (mayHold s p).filter fun h => !s.dom.heard.contains h && (members s).contains h

/-- Decide one partition (R192, R204). -/
def decidePart (s : State) (p : Nat) : DecLine :=
  let ls := reportsFor s p
  let own := ls.filter (·.line.code != 4)
  let codes := ls.map (·.line.code)
  let last := attemptOf s p ≥ 4
  let fits := own.map (·.line.fit)
  let plan := if fits.isEmpty ∨ fits.any (· ≥ 0xFE) then 0xFF else fits.foldl max 0
  if s.dom.lostParts.contains p then ⟨p, 3, 0xFF, 4⟩
  else if codes.any fun c => c == 1 || c == 3 || c == 4 then
    if codes.contains 3 then ⟨p, 3, 0xFF, 1⟩ else if last then ⟨p, 3, 0xFF, 2⟩ else ⟨p, 1, plan, 0⟩
  else if !(absentHubs s p).isEmpty then (if last then ⟨p, 3, 0xFF, 2⟩ else ⟨p, 1, plan, 0⟩)
  else if codes.contains 2 then
    if (own.filter (·.line.code == 2)).any (·.line.fit == 0xFF) then ⟨p, 3, 0xFF, 3⟩ else ⟨p, 2, plan, 0⟩
  else ⟨p, 0, plan, 0⟩

/-- Every partition a decision covers. -/
def decidedParts (s : State) : List Nat :=
  (List.range 256).filter fun p => !(reportsFor s p).isEmpty || !(absentHubs s p).isEmpty || s.dom.lostParts.contains p

/-- The bytes of decision lines (R231). -/
def decBytes (ls : List DecLine) : List Byte :=
  ls.flatMap fun l => leBytes 1 l.part ++ leBytes 1 l.dec ++ leBytes 1 l.plan ++ leBytes 1 l.cause
/-- The bytes of report lines. -/
def repBytes (ls : List RepLine) : List Byte :=
  ls.flatMap fun l => leBytes 1 l.part ++ leBytes 1 l.code ++ leBytes 1 l.fit ++ leBytes 1 l.told

/-- Send lines to a hub in packets of at most 128 (R231). -/
def sendLines (ty dst tick : Nat) (bs : List Byte) (s : State) : State :=
  let cut := if bs.isEmpty then [[]] else chunks 512 (bs.length / 512 + 1) bs
  cut.foldl (fun s b => sendPkt { fromHub s ty dst with urgent := true, addr := tick % 2 ^ 48, data := padTo (max 32 b.length) 0 b } s) s

/-- Broadcast a decision to every other member. -/
def broadcastDecision (tick : Nat) (ls : List DecLine) (s : State) : State :=
  ((members s).filter (· != hubId s)).foldl (fun s h => sendLines 0x11 h tick (decBytes ls) s) s

/-- A new master adopts every decision reported to it (R204): it broadcasts it again for the tick before. -/
def adoptDecisions (s : State) : State :=
  if !s.dom.adopt then s
  else
    let ls := ((s.dom.reports.filter (·.line.told != 0xFF)).map fun r => (⟨r.line.part, r.line.told, r.line.fit, 0⟩ : DecLine)).eraseDups
    let s := domMod (fun d => { d with adopt := false }) s
    if ls.isEmpty then s else decisionApply (s.dom.repTick - 1) ls (broadcastDecision (s.dom.repTick - 1) ls s)

/-- The master decides every partition of the tick and broadcasts the decision (R204). -/
def masterDecide (s : State) : State :=
  if s.dom.decided then s
  else
    let s := adoptDecisions s
    let ls := (decidedParts s).map (decidePart s)
    let tick := s.dom.repTick
    let s := domMod (fun d => { d with decided := true, lostParts := [], lastDec := some (tick, ls) }) s
    decisionApply tick ls (broadcastDecision tick ls s)

/-- The lines of a hub's report after a further one from it: a partition reset after the report spoils its partition (R212). -/
def amendLines (hub : Nat) (ls : List RepLine) (rs : List Report) : List Report :=
  rs.map fun r => match ls.find? (fun l => l.part == r.line.part && l.code == 1) with
    | some l => if r.hub = hub ∧ r.line.code ≠ 3 then { r with line := { r.line with code := l.code } } else r
    | none => r

/-- A report reaches the master (R203, R204): the last one lets it decide. A further one of the same hub can only add spoils. -/
def takeReport (hub tick : Nat) (ls : List RepLine) (s : State) : State :=
  if !isMaster s || s.dom.decided || s.dom.repTick % 2 ^ 48 != tick % 2 ^ 48 then s
  else if s.dom.heard.contains hub then domMod (fun d => { d with reports := amendLines hub ls d.reports }) s
  else
    let keep := fun (m : Map (List Nat)) => Map.map m fun _ hs => hs.filter (· != hub)
    let own := (ls.filter (·.code != 4)).map (·.part)
    let s := domMod (fun d => { d with
      reports := d.reports ++ ls.map fun l => ⟨hub, l⟩
      heard := hub :: d.heard, unsure := d.unsure.filter (· != hub)
      holders := own.foldl (fun m p => Map.set m p (hub :: Map.get m [] p)) (keep d.holders) }) s
    if (members s).all s.dom.heard.contains then masterDecide s else s

/-- This hub's report goes to the master (R203), or is taken here where this hub is the master. -/
def sendReport (tick : Nat) (ls : List RepLine) (s : State) : State :=
  if isMaster s then takeReport (hubId s) tick ls s else sendLines 0x10 (masterId s) tick (repBytes ls) s

/-! ### Closing a tick (R72, R102, R199, R203) -/

/-- Has a tile that runs not completed its tick (R71). -/
def tileOpen (s : State) (t : Nat) : Bool :=
  fon s F.tileStatus_running t && !fon s F.tileStatus_stopped t && !(fon s F.tileStatus_ended t && tileIdle s t)

/-- Has the partition overrun (R102, R202, R203): staging overflowed, no program ran, or a tile of a context that has not
faulted has not completed. -/
def hasOverrun (s : State) (p : Nat) (w : Part) : Bool :=
  w.overflow || (!w.released && !(hostWait s p && w.drains.any (!·.sent)))
    || s.tiles.any fun e => tileOpen s e.1 && partOfTile s e.1 == p && !ctxDropped s w e.2.ctx

/-- The spoils that have the same source as in the attempt before (R203). -/
def repeats (w : Part) : List Spoil :=
  w.spoils.filterMap fun e => match w.lastSpoils.find? (fun f => f.src == e.src) with
    | some f => some ⟨e.src, e.injected && f.injected⟩
    | none => none

/-- The plan byte of a report: from the ceiling, or after an overrun from NEXT of the tick's plan, 0xFF where that is
0xFF and 0xFE where no plan from there is usable. An entry read that breaks the table is bad (R191). -/
def reportFit (s : State) (p : Nat) (r : TickRec) (ovr : Bool) : Fit × Nat :=
  if ovr then
    let cur := fget s F.partStatus_plan p
    let nx := (planOf (planBytes s r cur)).next
    if planBad cur (planBytes s r cur) then (.bad, 0xFF)
    else if nx ≥ 64 then (.none, 0xFF)
    else
      let f := fitPlan s p r nx
      (f, if f = .none then 0xFE else f.byte)
  else
    let f := fitPlan s p r (fget s F.partStatus_ceilNow p)
    (f, f.byte)

/-- The lock-step digest of a tick and its bay signatures (R260). -/
def lsRecord (s : State) (p : Nat) (r : TickRec) (w : Part) : List Byte :=
  padTo 64 0 (Config.sha512 ((stagedResults r w).flatMap (·.2.2) ++ w.entries.flatMap fun e =>
    ((slotRecords s w e).filter (!·.pad)).flatMap (·.data)))
    ++ (List.range numBays).flatMap fun b =>
      if partOfBay s b = some p then
        leBytes 4 (crc32c ((List.range 8).flatMap fun t => leBytes 4 (crc32c (tileGet s (b * 8 + t)).residues)))
      else leBytes 4 0

/-- Close the tick of a partition at an edge: its results are checked, and the line of its report is formed. -/
def closePart (tick p : Nat) (s : State) : List RepLine × State :=
  let w := partGet s p
  match w.inForce with
  | none => ([], s)
  | some r =>
    let s := if w.live then checkStaged p r s else s
    let w := partGet s p
    let ovr := w.live && w.spoils.isEmpty && hasOverrun s p w
    let rep := repeats w
    let code := if !w.spoils.isEmpty then (if rep.isEmpty then 1 else 3) else if ovr then 2 else 0
    let (fit, byte) := reportFit s p r ovr
    if fit = .bad then ([⟨p, code, 0xFF, w.told⟩], faultPart p 7 false false s)
    else
      let ls := w.live && w.lock.isSome
      let s := partSet p { w with undecided := true, closing := tick, repeated := rep, told := 0xFF
                                  lsMine := if ls then lsRecord s p r w else [] } s
      ([⟨p, code, byte, w.told⟩], s)

/-- Tiles stop issuing and their work is cancelled; walkers and tile translation caches empty (R72, R156, R453). -/
def cancelTiles (s : State) : State :=
  let s := s.tiles.foldl (fun s e =>
    let s := fset F.tileStatus_ended e.1 0 (fset F.tileStatus_stopped e.1 0
      (fset F.tileStatus_waiting e.1 0 (fset F.tileStatus_running e.1 0 s)))
    tileMod e.1 (fun τ => { τ with matQ := [], ldQ := [], stQ := [], vecQ := [], wait := .none, cache := [], sigQ := [] }) s) s
  s.bays.foldl (fun s e =>
    rreset .kvwStatus e.1 (bayMod e.1 (fun b => { b with owed := [], halted := [], bars := [], sectors := [] }) s)) s

/-- Newly ready sessions join their partition's lists with the number of the tick that begins (R30, R188, R190). -/
def snapshotReady (tick : Nat) (s : State) : State :=
  s.parts.foldl (fun s e => match e.2.inForce with
    | some r =>
      let new := s.ready.filter fun q => inRange r q && (Map.get? (partGet s e.1).ages q).isNone
      partMod e.1 (fun w => { w with ages := new.foldl (fun m q => Map.set m q tick) w.ages }) s
    | none => s) { s with snap := s.ready }

/-- HOSTP_WAIT is worked out anew at the edge (R405, R432). -/
def edgeHostWait (s : State) : State :=
  (List.range 4).foldl (fun s k =>
    rset s .hostpWait k (BitVec.ofNat 64 (maskOf ((List.range 64).filter fun i =>
      (partGet s (k * 64 + i)).enabled && waitCause s (k * 64 + i))))) s

/-- Enabling and disabling that waited for the edge (R215, R622): a partition with a tick to decide is disabled at that decision. -/
def edgeEnables (s : State) : State :=
  s.parts.foldl (fun s e =>
    let w := partGet s e.1
    let s := if !w.stopping || !w.enabled then s
      else if !w.live && !w.undecided then disablePart e.1 s
      else partMod e.1 (fun w => { w with stopNow := true }) s
    let w := partGet s e.1
    if w.enabling && !w.enabled then enablePart e.1 s else s) s

/-- Partitions whose tick an edge closes: enabled, not faulted, with no decision outstanding. One whose replay is owed is held as well
(R203, R405). -/
def closing (s : State) : List Nat :=
  (List.map (·.1) s.parts).filter fun p =>
    let w := partGet s p
    w.enabled && !fon s F.partStatus_faulted p && !w.undecided

end Sys2Proof.Machine
end

