-- ==== Sys2Proof/Machine/DomainOps.lean ====
section
/-! DEFINITION. Machine/DomainOps.lean: what the domain's commands share (R227 to R231, R244 to R266): the bytes of the
domain's packets, HELLO floods, the checks of a FORM or JOIN, departure, handover, and the lock-step comparison. -/
namespace Sys2Proof.Machine

/-! ### Epochs and who takes edges (R247, R251) -/

/-- The MEMBERSHIP that takes this hub, which is not a member, into the domain. -/
def joinMsg (s : State) : Option MemberMsg :=
  if isMember s then none else s.dom.changes.find? fun m => m.members.contains (hubId s)

/-- The epoch byte of the EDGE blocks this hub sends and takes: the one of a FORM in progress, for a joining hub the one
before its MEMBERSHIP, and otherwise the current epoch. -/
def edgeEpoch (s : State) : Nat :=
  match s.dom.form with
  | some f => f.epoch % 256
  | none => match joinMsg s with
    | some m => (m.epoch - 1) % 256
    | none => epochByte s

/-- Does this hub take edges: RUN is set, and it is a member, forming or joining. -/
def takesEdges (s : State) : Bool :=
  fon s F.tickCtrl_run 0 && (isMember s || s.dom.form.isSome || (joinMsg s).isSome)

/-! ### Bytes of domain packets (R231; the layout is the model's choice, log entry 25) -/

/-- Numbers as 8 bytes each. -/
def wordsOut (l : List Nat) : List Byte := l.flatMap (leBytes 8)
/-- An adjacency. -/
def adjOut (a : Adjacency) : List Nat := a.length :: a.flatMap fun e => [e.1, maskOf e.2]

/-- Cut bytes into packets of at most 512 and hand each to `send`. -/
def inPackets (bs : List Byte) (send : List Byte → State → State) (s : State) : State :=
  (chunks 512 (bs.length / 512 + 1) bs).foldl (fun s b => send (padTo ((b.length + 31) / 32 * 32) 0 b) s) s

/-- Send a domain packet to a hub. -/
def sendDomain (ty dst : Nat) (ws : List Nat) (s : State) : State :=
  inPackets (wordsOut ws) (fun b s => sendPkt { fromHub s ty dst with data := b } s) s

/-- Flood a domain packet on every ACTIVE port. -/
def floodDomain (ty : Nat) (ws : List Nat) (s : State) : State :=
  inPackets (wordsOut ws) (fun b s => flood none { fromHub s ty 0 with data := b } s) s

/-- Pass a flooded packet on, where it has crossed fewer than three hubs (R234). -/
def passOn (a : IdnArr) (s : State) : State :=
  if a.pkt.hops ≥ 2 then s else flood (some a.port) { a.pkt with hops := a.pkt.hops + 1 } s

/-- Take a flooded packet from a port, whatever its target, and pass it on. -/
def floodAccept (a : IdnArr) (f : IdnPkt → State → State) (s : State) : State :=
  idnAccept { a with pkt := { a.pkt with dst := hubId s } } (fun p s => passOn a (f p s)) s

/-! ### HELLO (R245, R246) -/

/-- This hub's HELLO. One that has departed says that it does not run, so that the others learn of it (R262). -/
def myHello (s : State) : HelloMsg :=
  ⟨hubId s, fget s F.domStatus_epoch 0, fon s F.tickCtrl_run 0 && !s.dom.leave && !s.dom.gone, s.cfg.limHubs, neighbours s⟩

/-- Flood it. -/
def sendHello (s : State) : State :=
  let h := myHello s
  floodDomain 0x18 [h.hub, h.epoch, bit01 h.run, h.limit, maskOf h.near] s

/-- Every hub heard of, this one included. -/
def seen (s : State) : Map HelloMsg := Map.set s.dom.hellos (hubId s) (myHello s)

/-- The adjacency of the hubs in a list, as their HELLOs state it. -/
def helloAdj (s : State) (hubs : List Nat) : Adjacency :=
  (seen s).filterMap fun e => if hubs.contains e.1 then some (e.1, e.2.near.filter hubs.contains) else none

/-- Outside the domain a hub routes by what HELLOs state (the spec gives the routing of members only). -/
def helloRoutes (s : State) : State :=
  if isMember s || s.dom.form.isSome then s else domMod (fun d => { d with adj := helloAdj s (List.map (·.1) (seen s)) }) s

/-! ### Checks of a FORM or JOIN (R243, R248) -/

/-- Is every member within three hops of every other. -/
def allNear (a : Adjacency) (ms : List Nat) : Bool := ms.all fun x => ms.all fun y => (hopsTo a x y).isSome

/-- The expected members of the configuration record. -/
def expectedHubs (s : State) : List Nat := bitList 64 s.cfg.expected

/-- Why this hub refuses a FORM or a JOIN with these members and this adjacency, if it does; `whole` asks for every
expected member. -/
def formCause (s : State) (ms : List Nat) (a : Adjacency) (whole : Bool) : Option Nat :=
  if !s.cfg.domainOk then some 5
  else if (a.map (·.1)).eraseDups.length < a.length ∨ ms.eraseDups.length < ms.length then some 1
  else if ms.length > s.cfg.limHubs then some 2
  else if !allNear a ms then some 3
  else if whole && !s.cfg.partialOk && !(expectedHubs s).all ms.contains then some 4
  else none

/-- A FORM or JOIN is refused: DOM_STATUS reports the cause (R248). -/
def domRefuse (cause : Nat) (s : State) : State :=
  let s := domMod (fun d => { d with form := none, acks := [] }) s
  let s := fset F.domStatus_cause 0 cause (fset F.domStatus_refused 0 1 (fset F.domStatus_forming 0 0 s))
  logErr { code := 0x0607, cls := clsRefused, detail := cause } s

/-- A FORM is abandoned: its epoch is never used (R249). -/
def abandonForm (s : State) : State :=
  match s.dom.form with
  | some f =>
    fset F.domStatus_forming 0 0 (domMod (fun d => { d with form := none, acks := [], stable := 0, edge := none
                                                            burnt := max d.burnt f.epoch }) s)
  | none => s

/-! ### Departure (R262) -/

/-- Change no partition's commits: every enabled partition that has not faulted is faulted with cause 0x4. -/
def faultAll (cause : Nat) (s : State) : State :=
  (List.map (·.1) s.parts).foldl (fun s p =>
    if (partGet s p).enabled && !fon s F.partStatus_faulted p then faultPart p cause false false s else s) s

/-! ### Teardown without host writes (R489) -/

/-- Tear down the contexts that `f` selects, with nothing written to host memory. -/
def tearSilent (f : Nat → Bool) (s : State) : State :=
  s.ctxs.foldl (fun s e =>
    let k := ctxGet s e.1
    if e.1 = 0 ∨ !f k.part ∨ k.state = .free then s
    else if k.state = .dying then ctxMod e.1 (fun k => { k with silent := true }) s
    else teardownStart e.1 true s) s

/-- What the loss of the host link does at the departure (R437 steps 4 to 6): contexts are torn down, host stores still held are
discarded, confidential partitions are cleared. -/
def lossDepart (s : State) : State :=
  if !s.lossOwed then s
  else
    let s := tearSilent (fun _ => true) { s with unacked := [], lossOwed := false }
    lossDone ((List.range 256).foldl (fun s p => if confidential s p && !(rget s .memDirty (p / 64)).getLsbD (p % 64) then clearAsk p s else s) s)

/-- A reset of hub or standby scope that waited for the departure (R557). -/
def resetDue (s : State) : State := match s.resetOwed with
  | some k => powerOn (decide (k = 3)) s
  | none => s

/-- The hub leaves the domain: partitions fault, edges stop, MEMBER reads 0. -/
def departNow (s : State) : State :=
  if !isMember s then s
  else
    let s := faultAll 4 (cancelTiles s)
    let s := fset F.domStatus_forming 0 0 (fset F.domStatus_member 0 0 s)
    let s := fset F.domMembers_members 0 (maskOf ((members s).filter (· != hubId s))) s
    let s := domMod (fun d => { d with form := none, acks := [], changes := [], leave := false, handover := none, edge := none
                                       missed := 0, period := none, reports := [], heard := [], decided := true
                                       attempts := [], unsure := [], lastDec := none, holders := [], lostParts := [], adopt := false, held := none
                                       lsCfg := 0, gone := true }) s
    resetDue (lossDepart (logErr { code := 0x0608, cls := clsDepart } (setMasterBit s)))

/-- HUB_STATE becomes FAILED (R555, R572). -/
def failNow (s : State) : State := setHubState 4 { s with failOwed := false }

/-- An event of class HUB (R287, R572): a member departs at the next edge, and HUB_STATE is then FAILED. -/
def hubFail (s : State) : State := if isMember s then { s with failOwed := true } else failNow (faultAll 4 s)

/-- Partitions that hubs of a list hold, as far as their reports have said. -/
def heldBy (s : State) (hubs : List Nat) : List Nat :=
  (s.dom.holders.filter fun e => e.2.any hubs.contains).map (·.1)

/-- A MEMBERSHIP takes effect at its edge (R247, R262, R263). -/
def applyMembers (m : MemberMsg) (s : State) : State :=
  let left := (members s).filter fun h => !m.members.contains h
  let lost := heldBy s left
  let s := domMod (fun d => { d with adj := m.adj, lostParts := d.lostParts ++ lost.filter (!d.lostParts.contains ·)
                                     holders := Map.map d.holders fun _ hs => hs.filter (!left.contains ·) }) s
  if m.members.contains (hubId s) then
    fset F.domStatus_epoch 0 m.epoch (fset F.domMembers_members 0 (maskOf m.members)
      (fset F.domStatus_forming 0 0 (fset F.domStatus_refused 0 0 (fset F.domStatus_member 0 1
        (domMod (fun d => { d with gone := false }) s)))))
  else departNow s

/-- Put a membership change among those that wait, in the order of their edges; one of the same edge is replaced. -/
def putChange (m : MemberMsg) (l : List MemberMsg) : List MemberMsg :=
  (l.filter fun c => decide (c.edge < m.edge)) ++ [m] ++ l.filter fun c => decide (m.edge < c.edge)

/-- The master announces a membership and keeps it (R262, R263). -/
def announce (m : MemberMsg) (s : State) : State :=
  let s := domMod (fun d => { d with changes := putChange m d.changes }) s
  let dest := ((members s) ++ m.members).eraseDups.filter (· != hubId s)
  dest.foldl (fun s h => sendDomain 0x12 h ([m.epoch, maskOf m.members, m.edge] ++ adjOut m.adj) s) s

/-- A membership without some hubs. -/
def memberLess (m : MemberMsg) (hubs : List Nat) : MemberMsg :=
  { m with members := m.members.filter (!hubs.contains ·)
           adj := (m.adj.filter fun e => !hubs.contains e.1).map fun e => (e.1, e.2.filter (!hubs.contains ·)) }

/-- The membership in force before edge `edge`, as the changes already announced make it. -/
def memberAt (edge : Nat) (s : State) : MemberMsg := match (s.dom.changes.filter fun c => decide (c.edge ≤ edge)).getLast? with
  | some m => m
  | none => ⟨fget s F.domStatus_epoch 0, members s, s.dom.adj, edge⟩

/-- The membership after the last change already announced. -/
def lastChange (s : State) : MemberMsg := match s.dom.changes.getLast? with
  | some m => m
  | none => memberAt 0 s

/-- Hubs leave the domain from edge `edge` on: that edge raises the epoch by 1, and later changes, announced again, follow it without those
hubs (R247, R262). -/
def dropFrom (edge : Nat) (hubs : List Nat) (s : State) : State :=
  let m := memberAt edge s
  let same := decide (m.edge = edge) && s.dom.changes.contains m
  let first : MemberMsg := { memberLess m hubs with epoch := if same then m.epoch else m.epoch + 1, edge := edge }
  let later := (s.dom.changes.filter fun c => decide (edge < c.edge)).map fun c =>
    { memberLess c hubs with epoch := if same then c.epoch else c.epoch + 1 }
  (first :: later).foldl (fun s m => announce m s) s

/-- The master takes hubs out of the domain at the next edge (R262). -/
def dropHubs (hubs : List Nat) (s : State) : State :=
  if !isMaster s || !((lastChange s).members ++ (memberAt (fget s F.tickCounter_count 0 + 1) s).members).any hubs.contains then s
  else dropFrom (fget s F.tickCounter_count 0 + 1) hubs s

/-- Members beyond three hops are treated as departed (R245, R262). -/
def dropUnreachable (s : State) : State :=
  dropHubs ((members s).filter fun h => h != hubId s && (nextHop s h).isNone) s

/-! ### Handover (R254) -/

/-- The successor of a handover: the hub asked for where it is another member, else the lowest-numbered other. -/
def successor (s : State) (want : Option Nat) : Option Nat :=
  let others := (members s).filter (· != hubId s)
  match want with
  | some h => if others.contains h then some h else others.head?
  | none => others.head?

/-- The hubs that hold each partition as masks. -/
def holderMasks (s : State) : List (Nat × Nat) := List.map (fun e => (e.1, maskOf e.2)) s.dom.holders

/-- The master hands over: the successor emits from two ticks on (DESIGN CHOICE, log entry 33: the spec leaves T to the master), and learns
which hubs hold each partition, so that it can decide by them (R204). -/
def handOver (want : Option Nat) (s : State) : State :=
  if !isMaster s || s.dom.handover.isSome then s
  else match successor s want with
    | none => s
    | some h =>
      let t := fget s F.tickCounter_count 0 + 2
      sendDomain 0x1C h ([h, t] ++ (holderMasks s).flatMap fun e => [e.1, e.2]) (domMod (fun d => { d with handover := some (h, t) }) s)

/-- The edge at which a hub that leaves departs: the next one, or for a master that hands over the first of its successor (R254, R262), so
that the decisions of the ticks it has closed are made. -/
def leaveEdge (s : State) : Nat := match s.dom.handover with
  | some (_, t) => if isMaster s then t else fget s F.tickCounter_count 0 + 1
  | none => fget s F.tickCounter_count 0 + 1

/-- A hub leaves (R262): a master hands over first, and the flood tells the others. -/
def leaveDomain (s : State) : State :=
  if !isMember s then s
  else
    let s := handOver none s
    let s := sendHello (domMod (fun d => { d with leave := true }) s)
    if isMaster s then dropFrom (leaveEdge s) [hubId s] s else s

/-! ### Lock-step (R259 to R261) -/

/-- Does the comparison of a tick wait: both records are there, or not yet. -/
def lsBoth (w : Part) : Bool := !w.lsMine.isEmpty && w.sigGot.length == 5

/-- The lowest differing bay signature: field and bay. -/
def lsDiffers (a b : List Byte) : Option Nat :=
  (List.range numBays).find? fun k => recAt a (64 + 4 * k) 4 != recAt b (64 + 4 * k) 4

/-- Compare, and spoil the partition where anything differs (R261, R266); a second divergence of the same tick is a repeat. -/
def lsCompare (p : Nat) (s : State) : State :=
  let w := partGet s p
  if w.lsMine == w.lsPeer.take 2368 then s
  else
    let dig := w.lsMine.take 64 != w.lsPeer.take 64
    let bay := lsDiffers w.lsMine w.lsPeer
    let s := firstErr F.lsDiverge_valid F.lsDiverge_more
      [(F.lsDiverge_digest, bit01 dig), (F.lsDiverge_field, match bay with | some b => b / 64 | none => 15),
       (F.lsDiverge_bay, match bay with | some b => b % 64 | none => 0), (F.lsDiverge_tick, w.workTick % 2 ^ 32)] 0 s
    let s := partSet p { w with spoils := w.spoils ++ [⟨.lockstep, false⟩]
                                diverged := true
                                repeated := if w.diverged then w.repeated ++ [⟨.lockstep, false⟩] else w.repeated } s
    logErr { code := 0x0609, cls := clsSpoil, part := some p, detail := w.workTick } s

/-- The report line of the lock-step partition after the comparison. -/
def lsLine (s : State) (p : Nat) (l : RepLine) : RepLine :=
  let w := partGet s p
  if l.part ≠ p ∨ w.spoils.isEmpty then l else { l with code := if w.repeated.isEmpty then 1 else 3 }

/-- Send the report that waited for the comparison, once both records are there. -/
def lsSettle (s : State) : State :=
  match s.dom.held with
  | some (p, ls) =>
    if lsBoth (partGet s p) then
      let s := lsCompare p s
      sendReport (partGet s p).closing (ls.map (lsLine s p)) (domMod (fun d => { d with held := none }) s)
    else s
  | none => s

/-- Send the digest and signatures to the partner (R260). -/
def lsSend (p : Nat) (s : State) : State :=
  ((chunks 512 5 (partGet s p).lsMine).zipIdx).foldl (fun s e =>
    sendPkt { fromHub s 0x21 (lsPartner s p) with urgent := true, part := p, addr := e.2 * 512, data := e.1 } s) s

end Sys2Proof.Machine
end

