-- ==== Sys2Proof/Machine/Ports.lean ====
section
/-! DEFINITION. Machine/Ports.lean: the Idoon ports' training (R236 to R240), their control blocks (R227, R228, R235, R252)
and the writes of IDN_CTRL (R268). A port is named by its lane group. -/
namespace Sys2Proof.Machine

/-! ### State changes -/

/-- Set STATE. -/
def setIdn (k st : Nat) (s : State) : State := fset F.idnStatus_state k st s

/-- The width code for a set of bad lanes (R238). -/
def widthOf (bad : Nat) : Nat :=
  let good := 18 - popCount 18 bad
  if good ≥ 16 then 3 else if good ≥ 8 then 2 else if good ≥ 4 then 1 else 0

/-- Lanes of a width code. -/
def widthLanes (w : Nat) : Nat := [0, 4, 8, 16].getD w 0

/-- Apply a lane map and width: logical lane k is the k-th good lane (R238). The width does not exceed the one the port has come down to
since its last RETRAIN. A change of a trained width is recorded (R240). -/
def setWidth (k bad w : Nat) (s : State) : State :=
  let old := fget s F.idnStatus_width k
  let w := min w (idnGet s k).cap
  let s := idnMod k (fun q => { q with cap := if w = 0 then q.cap else w }) s
  let used := (((List.range 18).filter fun i => !bitOn bad i).take (widthLanes w)).filter (16 ≤ ·)
  let s := fset F.idnStatus_sparesUsed k used.length (fset F.idnStatus_width k w (fset F.idnLanes_bad k bad s))
  if old ≠ 0 ∧ old ≠ w then
    logErr { code := 0x0603, cls := clsDegraded, detail := k, unitReg := (rget s .idnStatus k).toNat } s
  else s

/-- Begin training: the pattern goes out on every lane. -/
def trainPort (k : Nat) (s : State) : State :=
  emit .link 0x03 [k] [] (setIdn k 2 (idnMod k (fun q => { q with agreed := false, heard := false, peerBad := 0, samples := 0 }) s))

/-- A failed training (R236, R237): the third in a row takes the port to HELD. -/
def failTraining (k next : Nat) (s : State) : State :=
  let n := fget s F.idnStatus_fails k + 1
  let s := fset F.idnStatus_fails k (min n 3) s
  if n ≥ 3 then
    logErr { code := 0x0604, cls := clsDegraded, detail := k, unitReg := (rget s .idnStatus k).toNat } (setIdn k 9 s)
  else setIdn k next s

/-- The port has left ACTIVE for good (R229, R245): what waited on it takes other routes; when it was the last port to its
neighbour, the change is flooded and members out of reach are dropped. -/
def portLost (k : Nat) (s : State) : State :=
  let n := fget s F.idnStatus_peerHub k
  let s := if (idnGet s k).replay.isEmpty then s else linkLost k s
  let s := reroute k s
  if (neighbours s).contains n then s
  else
    let cut := fun (a : Adjacency) => a.map fun e =>
      if e.1 = hubId s then (e.1, e.2.filter (· != n)) else if e.1 = n then (e.1, e.2.filter (· != hubId s)) else e
    dropUnreachable (sendHello (domMod (fun d => { d with adj := cut d.adj, stable := 0, tried := false }) s))

/-- Send a TRAIN block: this end's role, identity and lane map, and a width (R227, R239). -/
def sendTrain (k w : Nat) (s : State) : State := sendBlock k 0x20 [1, hubId s, k, fget s F.idnLanes_bad k, w] s

/-- A TSYNC block of this end (R227, R252): its departure, the timestamp it echoes, and the time it held that one since it arrived `now`. -/
def sendTsync (k echo now : Nat) (s : State) : State :=
  let dep := (Config.freeWord s.fresh).toNat
  sendBlock k 0x11 [dep, echo, (dep + 2 ^ 64 - now % 2 ^ 64) % 2 ^ 64] (tickFresh s)

/-- The width authority narrows or remaps, and states the result (R238, R239); the other end states its bad lanes. -/
def quickWidth (k bad : Nat) (s : State) : State :=
  let s := fset F.idnLanes_bad k bad s
  if fon s F.idnStatus_authority k then
    let s := setWidth k bad (min (fget s F.idnStatus_width k) (widthOf bad)) s
    sendTrain k (fget s F.idnStatus_width k) s
  else sendTrain k (fget s F.idnStatus_width k) s

/-- Quick retraining begins. -/
def quickRetrain (k : Nat) (s : State) : State :=
  sendTrain k (fget s F.idnStatus_width k) (setIdn k 8 (idnMod k (fun q => { q with samples := 0, naks := 0 }) s))

/-- Resend packets of the replay buffer (R228). -/
def resend (k : Nat) (ps : List (Nat × IdnPkt)) (s : State) : State :=
  fbump F.idnReplays_count k ps.length (ps.foldl (fun s e => wire k e.1 e.2 s) s)

/-! ### Training events (R236) -/

/-- PEER_PATTERN_SEEN: on at least 4 lanes; `fast` that the peer's rate is 224 Gb/s per lane (R223). -/
def execPeerPatternSeen (port lanes : Nat) (fast : Bool) (s : State) : Result :=
  .next (if idnState s port ≠ 2 ∨ lanes < 4 then s
    else setIdn port 3 (fset F.idnStatus_rate port (bit01 (fast && bitOn (s.cfg.groups.getD port 0) 2)) s))

/-- DETECT_TIMEOUT. -/
def execDetectTimeout (port : Nat) (s : State) : Result := .next (if idnState s port ≠ 2 then s else failTraining port 1 s)

/-- TRAIN_RETRY_WAIT: 100 ms after a failed training. -/
def execTrainRetryWait (port : Nat) (s : State) : Result :=
  .next (if idnState s port ≠ 1 ∨ fget s F.idnStatus_fails port = 0 ∨ fon s F.idnCtrl_disable port then s else trainPort port s)

/-- EQUALISATION_END: at least 4 of 18 lanes converged; the others are bad. This end states its identity and the width so far. -/
def execEqualisationEnd (port bad : Nat) (s : State) : Result :=
  .next (if idnState s port ≠ 3 ∨ widthOf bad = 0 then s
    else sendTrain port (widthOf bad) (setIdn port 4 (fset F.idnLanes_bad port bad s)))

/-- EQUALISE_TIMEOUT. -/
def execEqualiseTimeout (port : Nat) (s : State) : Result := .next (if idnState s port ≠ 3 then s else failTraining port 1 s)

/-- Is the peer of a TRAIN block valid (R236). -/
def peerOk (s : State) (q : IdnPort) : Bool :=
  q.heard && q.role == 1 && q.peerHub != hubId s && bitOn s.cfg.expected q.peerHub

/-- IDOON_LANE_TEST_DONE (R236, R239): `bad` lanes of the test; the peer's TRAIN block has stated its lanes and its width. This end states
the width it measured. Both ends take the lanes that either found bad, so that they use one lane map and one width. -/
def execIdoonLaneTestDone (port bad : Nat) (s : State) : Result :=
  .next (
    if idnState s port ≠ 4 then s
    else
      let q := idnGet s port
      let bad := bad ||| fget s F.idnLanes_bad port
      let mine := widthOf bad
      let s := sendTrain port mine (fset F.idnLanes_bad port bad s)
      let both := bad ||| q.peerBad
      if mine = 0 ∨ widthOf both = 0 ∨ !peerOk s q then failTraining port 1 s
      else if q.peerWidth ≠ mine ∧ !q.agreed then
        failTraining port 3 (fset F.idnLanes_bad port 0 (idnMod port (fun q => { q with agreed := true, heard := false, peerBad := 0 }) s))
      else
        let auth := decide (hubId s < q.peerHub)
        let w := min (if q.agreed ∧ !auth then q.peerWidth else mine) (widthOf both)
        let s := fset F.idnStatus_peerGroup port q.peerGroup (fset F.idnStatus_peerHub port q.peerHub s)
        setIdn port 5 (setWidth port both w (fset F.idnStatus_authority port (bit01 auth) s)))

/-- CODEWORD_LOCK (R225): 64 consecutive good codewords. The exchange of timestamps begins. -/
def execCodewordLock (port good : Nat) (s : State) : Result :=
  .next (if idnState s port ≠ 5 ∨ good < 64 then s
    else sendTsync port 0 0 (setIdn port 6 (idnMod port (fun q => { q with samples := 0 }) s)))

/-- LOCK_TIMEOUT. -/
def execLockTimeout (port : Nat) (s : State) : Result := .next (if idnState s port ≠ 5 then s else failTraining port 1 s)

/-- MEASURE_DONE: 1,024 samples; the port is ACTIVE, with credits full and the sequence numbers at 0 (R235). -/
def execMeasureDone (port : Nat) (s : State) : Result :=
  .next (
    let q := idnGet s port
    if idnState s port ≠ 6 ∨ q.samples < 1024 then s
    else
      let s := idnSet port { waiting := q.waiting, role := q.role, peerHub := q.peerHub, peerGroup := q.peerGroup, cap := q.cap } s
      helloRoutes (pump port (fset F.idnStatus_fails port 0 (setIdn port 7 s))))

/-- LANE_FAULT (R238): a lane of an ACTIVE port fails. -/
def execLaneFault (port lane : Nat) (s : State) : Result :=
  .next (if !idnActive s port ∨ lane ≥ 18 then s
    else quickWidth port (fget s F.idnLanes_bad port ||| 2 ^ lane) (setIdn port 8 (idnMod port (fun q => { q with samples := 0 }) s)))

/-- LOSS_OF_SIGNAL on every lane: unrecoverable. -/
def execLossOfSignal (port : Nat) (s : State) : Result :=
  .next (if !idnActive s port then s else portLost port (setIdn port 1 s))

/-- QRETRAIN_DONE: 64 samples and lock within 50 µs; resending goes on from the last ACK. -/
def execQretrainDone (port : Nat) (s : State) : Result :=
  .next (
    let q := idnGet s port
    if idnState s port ≠ 8 ∨ q.samples < 64 ∨ fget s F.idnStatus_width port = 0 then s
    else pump port (resend port q.replay (setIdn port 7 s)))

/-- QRETRAIN_TIMEOUT: unrecoverable, and full training. -/
def execQretrainTimeout (port : Nat) (s : State) : Result :=
  .next (if idnState s port ≠ 8 then s else portLost port (trainPort port s))

/-! ### IDN_CTRL (R236, R237, R268) -/

/-- RETRAIN: full training from DETECT, in which the width may rise (R238); a disabled port stays DOWN. -/
def retrainPort (k : Nat) (s : State) : State :=
  let st := idnState s k
  if st = 0 ∨ st = 9 ∨ st = 10 then s
  else
    let was := st == 7 || st == 8
    let s := idnMod k (fun q => { q with cap := 3 }) s
    let s := if fon s F.idnCtrl_disable k then setIdn k 1 s else trainPort k s
    if was then portLost k s else s

/-- RELEASE: a held port goes DOWN, and a port that is DOWN trains. -/
def releasePort (k : Nat) (s : State) : State :=
  if idnState s k = 9 then fset F.idnStatus_fails k 0 (setIdn k 1 s)
  else if idnState s k = 1 ∧ !fon s F.idnCtrl_disable k then trainPort k s else s

/-- A write of IDN_CTRL. -/
def writeIdnCtrl (k : Nat) (v : Word) (s : State) : State :=
  let s := fset F.idnCtrl_disable k (bitsAt v.toNat 2 1) s
  let s := if v.getLsbD 1 then releasePort k s else s
  if v.getLsbD 0 then retrainPort k s else s

/-- IDN_CTRL_RETRAIN: a write with RETRAIN = 1. -/
def execIdnCtrlRetrain (port : Nat) (v : Word) (s : State) : Result :=
  .next (if port < 36 ∧ v.getLsbD 0 then writeIdnCtrl port v s else s)

/-- IDN_CTRL_RELEASE: a write with RELEASE = 1. -/
def execIdnCtrlRelease (port : Nat) (v : Word) (s : State) : Result :=
  .next (if port < 36 ∧ v.getLsbD 1 then writeIdnCtrl port v s else s)

/-- IDN_CTRL_DISABLE: a write with DISABLE = 1. -/
def execIdnCtrlDisable (port : Nat) (v : Word) (s : State) : Result :=
  .next (if port < 36 ∧ v.getLsbD 2 then writeIdnCtrl port v s else s)

/-! ### Control blocks (R227, R228, R235, R239, R252) -/

/-- May a port take blocks: it has lock. -/
def hasLink (s : State) (k : Nat) : Bool := decide (k < 36) && decide (3 ≤ idnState s k ∧ idnState s k ≤ 8)

/-- A control block arrives: its bytes and codewords count, and it is dropped where it may not be taken. -/
def onBlock (port : Nat) (b : BlkArr) (f : State → State) (s : State) : State :=
  if !hasLink s port then s
  else
    let s := codewords port b.words (fwrap F.idnRxbytes_count F.idnRxbytes_ovf port 32 s)
    if blkOk b then f s else s

/-- IDLE_BLOCK. -/
def execIdleBlock (port : Nat) (b : BlkArr) (s : State) : Result := .next (onBlock port b id s)

/-- Packets of a replay buffer from a sequence number on; a number that none of them has reached leaves it as it is. -/
def replayFrom (q : IdnPort) (seq : Nat) : List (Nat × IdnPkt) := match q.replay with
  | [] => []
  | e :: _ =>
    let n := (seq + 4096 - e.1 % 4096) % 4096
    if n ≤ q.replay.length then q.replay.drop n else q.replay

/-- Every packet up to SEQ has been received: it leaves the replay buffer. -/
def ackUpTo (k seq : Nat) (s : State) : State :=
  pump k (idnMod k (fun q => { q with replay := replayFrom q ((seq + 1) % 4096), naks := 0 }) s)

/-- ACK. -/
def execAck (port : Nat) (b : BlkArr) (seq : Nat) (s : State) : Result :=
  .next (onBlock port b (fun s => if idnActive s port then ackUpTo port (seq % 4096) s else s) s)

/-- NAK: go-back-N from SEQ; the eighth in a row that names the same SEQ takes the port to QRETRAIN (R228). -/
def execNak (port : Nat) (b : BlkArr) (seq : Nat) (s : State) : Result :=
  .next (onBlock port b (fun s =>
    if !idnActive s port then s
    else
      let seq := seq % 4096
      let q := idnGet s port
      let n := if q.nakSeq = seq then q.naks + 1 else 1
      let s := idnSet port { q with replay := replayFrom q seq, nakSeq := seq, naks := n } s
      if n ≥ 8 then quickRetrain port s else pump port (resend port (idnGet s port).replay s)) s)

/-- CREDIT: buffer space comes back (R235). -/
def execCredit (port : Nat) (b : BlkArr) (vc blocks : Nat) (s : State) : Result :=
  .next (onBlock port b (fun s =>
    if idnActive s port ∧ vc < 4 then
      pump port (idnMod port (fun q => { q with used := Map.set q.used vc (Map.get q.used 0 vc - blocks) }) s)
    else s) s)

/-- TSYNC (R252): a sample in MEASURE or QRETRAIN is half of the round trip less the peer's hold time; the block is
answered with this end's departure, the peer's and the time between. `now` is the arrival timestamp. A first block echoes nothing, 0,
and gives no sample (DESIGN CHOICE, log entry 99). -/
def execTsync (port : Nat) (b : BlkArr) (departure echoed hold now : Nat) (s : State) : Result :=
  .next (onBlock port b (fun s =>
    if idnState s port = 6 ∨ idnState s port = 8 then
      let s := sendTsync port departure now s
      if echoed = 0 then s
      else fset F.idnStatus_latPs port ((now - echoed - hold) / 2) (idnMod port (fun q => { q with samples := q.samples + 1 }) s)
    else s) s)

/-- TRAIN (R236, R239): what the peer states outside ACTIVE: its role, hub, group, bad lanes and width. In QRETRAIN the
authority's result is adopted, and the authority takes the other end's bad lanes into account. -/
def execTrain (port : Nat) (b : BlkArr) (role hub group lanes width : Nat) (s : State) : Result :=
  .next (onBlock port b (fun s =>
    if idnActive s port then s
    else
      let s := idnMod port (fun q =>
        { q with role := role, peerHub := hub % 64, peerGroup := group, peerWidth := width, peerBad := lanes % 2 ^ 18, heard := true }) s
      if idnState s port ≠ 8 then s
      else if fon s F.idnStatus_authority port then
        let bad := fget s F.idnLanes_bad port ||| lanes % 2 ^ 18
        if bad = fget s F.idnLanes_bad port then s else quickWidth port bad s
      else setWidth port (lanes % 2 ^ 18) width s) s)

/-- ACK_TIMER (R228): with packets outstanding an ACK goes out at least every 128 ns. -/
def execAckTimer (port : Nat) (s : State) : Result :=
  .next (
    let q := idnGet s port
    if !idnActive s port ∨ !q.ackOwed then s
    else sendBlock port 0x01 [(q.rxSeq + 4095) % 4096] (idnSet port { q with ackOwed := false } s))

end Sys2Proof.Machine
end

