-- ==== Sys2Proof/Machine/TickRun.lean ====
section
/-! DEFINITION. Machine/TickRun.lean: the tick's events and the writes of its registers (R177 to R218, R250 to R253):
edges, reports, decisions, the release of tile programs, the drain of a committed tick, and PART_CFG. -/
namespace Sys2Proof.Machine

/-! ### Edges (R178, R250, R251) -/

/-- The largest tick number. -/
def tickMax : Nat := 2 ^ 64 - 1

/-- The tick number of the edge this hub may emit now, if it may: as formation's master once every member has answered,
as successor at its first tick, or as the master. -/
def nextEdge (s : State) : Option Nat :=
  let next := min (fget s F.tickCounter_count 0 + 1) tickMax
  if !fon s F.tickCtrl_run 0 || s.dom.edge.isSome then none
  else match s.dom.form with
    | some f => if f.master = hubId s ∧ f.members.all (fun h => h == hubId s || s.dom.acks.contains h) then some 0 else none
    | none => match s.dom.handover with
      | some (h, t) =>
        if h = hubId s then (if isMember s ∧ t > fget s F.tickCounter_count 0 ∧ (t = next ∨ s.dom.missed ≥ 2) then some t else none)
        else if isMaster s ∧ next < t then some next else none
      | none => if isMaster s then some next else none

/-- Send an EDGE block on every ACTIVE port but one, `after` picoseconds after the time that its REMAIN_PS is counted from; on each port the
block states what is left at its arrival, less the port's latency (R250). -/
def sendEdge (but : Option Nat) (after : Nat) (b : EdgeBlock) (s : State) : State :=
  (activePorts s).foldl (fun s k => if some k = but then s
    else
      let left := b.remain - (after : Int) - (fget s F.idnStatus_latPs k : Int)
      sendBlock k 0x10 [b.hops, b.master, b.epoch, b.tick, (left % 2 ^ 32).toNat, b.period, b.fromTick] s) s

/-- The master sends an edge 8 µs before it applies it (R250). -/
def edgeLeadPs : Int := 8000000

/-- The master repeats its last decision with each edge, for a hub that has missed it (R204; DESIGN CHOICE, log entry 98: as a further
DECISION packet, since the EDGE block has no room for it). -/
def repeatDecision (s : State) : State := match s.dom.lastDec with
  | some (tick, ls) => if isMaster s then broadcastDecision tick ls s else s
  | none => s

/-- TICK_EDGE_EMIT (R250). -/
def execTickEdgeEmit (s : State) : Result :=
  .next (match nextEdge s with
    | none => s
    | some t =>
      let b : EdgeBlock := ⟨0, hubId s, edgeEpoch s, t, edgeLeadPs, match s.dom.period with | some e => e.1 | none => 0,
                            match s.dom.period with | some e => e.2 % 2 ^ 32 | none => 0⟩
      repeatDecision (sendEdge none 0 b (domMod (fun d => { d with edge := some b }) s)))

/-- Is the tick of an EDGE block one that this hub has yet to apply: 0 while it forms, and for a joining hub the edge of its MEMBERSHIP or a
later one, whatever its own counter holds (R263). -/
def edgeNew (b : EdgeBlock) (s : State) : Bool :=
  if s.dom.form.isSome then b.tick == 0
  else match joinMsg s with
    | some m => decide (m.edge ≤ b.tick)
    | none => decide (fget s F.tickCounter_count 0 < b.tick) || (fget s F.tickCounter_count 0 == tickMax && b.tick == tickMax)

/-- EDGE (R251): the first valid copy is used, and forwarded unless it has come three hops; how long the hub holds it is left open. -/
def execEdge (port : Nat) (k : BlkArr) (b : EdgeBlock) (s : State) : Result :=
  .next (
    if !idnActive s port then s
    else
      let s := codewords port k.words (fwrap F.idnRxbytes_count F.idnRxbytes_ovf port 32 s)
      if !blkOk k || decide (b.hops > 2) || decide (b.remain < 0) || b.epoch != edgeEpoch s || !takesEdges s
          || s.dom.edge.isSome || !edgeNew b s then s
      else
        let s := domMod (fun d => { d with edge := some b }) s
        if b.hops = 2 then s
        else sendEdge (some port) (Config.freeWord s.fresh).toNat { b with hops := b.hops + 1 } (tickFresh s))

/-- Formation ends with edge 0 (R178, R246 step 8). -/
def formEdge (f : FormMsg) (s : State) : State :=
  let s := fset F.domStatus_epoch 0 f.epoch (fset F.domStatus_refused 0 0 (fset F.domStatus_forming 0 0 (fset F.domStatus_member 0 1 s)))
  let s := fset F.tickCtrl_exhausted 0 0 (fset F.domMembers_members 0 (maskOf f.members) s)
  domMod (fun d => { d with form := none, acks := [], adj := f.adj, changes := [], holders := [], attempts := [], unsure := [], lastDec := none, lostParts := []
                            timedOut := false, gone := false }) s

/-- Memberships due at an edge. -/
def dueMembers (tick : Nat) (s : State) : State :=
  let due := s.dom.changes.filter fun m => decide (m.edge ≤ tick)
  due.foldl (fun s m => applyMembers m s) (domMod (fun d => { d with changes := d.changes.filter fun m => decide (tick < m.edge) }) s)

/-- The period in force (R181): the edge that begins FROM_TICK is the first spaced at the new period, so the tick before
it is the first that lasts it. Every hub keeps a change that an edge carries until then, so that a hub that misses edges or becomes
master applies it as well. -/
def edgePeriod (b : EdgeBlock) (s : State) : State :=
  let s := if b.period ≠ 0 then domMod (fun d => { d with period := some (b.period, b.fromTick) }) s else s
  match s.dom.period with
  | some (ns, t) =>
    if (t + 2 ^ 32 - (b.tick + 1) % 2 ^ 32) % 2 ^ 32 = 0 ∨ (t + 2 ^ 32 - (b.tick + 1) % 2 ^ 32) % 2 ^ 32 ≥ 2 ^ 31 then
      fset F.tickPeriodNow_periodNs 0 ns (domMod (fun d => { d with period := none }) s)
    else s
  | none => s

/-- Lines for partitions this hub does not hold whose packets it lost (R229). -/
def foreignLines (s : State) : List RepLine := s.dom.foreign.map fun p => ⟨p, 4, 0xFF, 0xFF⟩

/-- Does this hub send no report for the tick that ends: it has had no decision, or missed an edge (R204, R253). -/
def edgeMute (s : State) : Bool := s.dom.missed > 0 || s.parts.any fun e => e.2.enabled && e.2.undecided

/-- Close the partitions' ticks: the report's lines, and the state with every undecided partition one tick behind. -/
def edgeClose (tick : Nat) (s : State) : List RepLine × State :=
  let late := (List.map (·.1) s.parts).filter fun p => (partGet s p).enabled && (partGet s p).undecided
  let s := late.foldl (fun s p => partMod p (fun w => { w with behind := true }) s) s
  let (ls, s) := (closing s).foldl (fun a p => let r := closePart tick p a.2; (a.1 ++ r.1, r.2)) (([] : List RepLine), s)
  (ls ++ foreignLines s, domMod (fun d => { d with foreign := [], missed := 0 }) s)

/-- Send the report, once the lock-step record has come if it waits for one (R203, R261). -/
def edgeReport (tick : Nat) (ls : List RepLine) (s : State) : State :=
  match ls.find? (fun l => !(partGet s l.part).lsMine.isEmpty) with
  | some l => lsSettle (lsSend l.part (domMod (fun d => { d with held := some (l.part, ls) }) s))
  | none => sendReport tick ls s

/-- What a member does at an edge after membership and counter (R30, R31, R72, R203, R215, R405, R589, R592): the ready
bitmap is taken before the report, so that a decision that comes at once admits from it. -/
def edgeWork (tick : Nat) (s : State) : State :=
  let s := perfEdge { s with edges := s.edges + 1, errSeen := [], injDone := false }
  let s := if isMaster s then
      domMod (fun d => { d with repTick := tick - 1, reports := [], heard := [], decided := false }) s
    else domMod (fun d => { d with decided := true }) s
  let s := edgeEnables s
  let s := if fon s F.tickCtrl_exhausted 0 then faultAll 6 (cancelTiles s) else s
  let mute := edgeMute s
  let (ls, s) := edgeClose (tick - 1) s
  let s := snapshotReady tick (cancelTiles s)
  let s := domMod (fun d => { d with lsCfg := if fon s F.lsCfg_enable 0 then (rget s .lsCfg 0).toNat else 0 }) s
  let s := edgeHostWait s
  sweep (if mute then s else edgeReport (tick - 1) ls s)

/-- TICK_EDGE_APPLY (R177, R178, R180, R254). -/
def execTickEdgeApply (s : State) : Result :=
  .next (match s.dom.edge with
    | none => s
    | some b =>
      let s := domMod (fun d => { d with edge := none, edgeNs := (Config.timeNs s.fresh).toNat }) (tickFresh s)
      let was := s
      let ovr := s.dom.form.isNone && fget s F.tickCounter_count 0 == tickMax
      let s := match s.dom.form with
        | some f => formEdge f s
        | none => dueMembers b.tick s
      let s := fset F.tickCounter_count 0 b.tick (if ovr then fset F.tickCtrl_exhausted 0 1 s else s)
      if s.failOwed then (if s.resetOwed.isSome then departNow s else failNow (departNow s))
      else if s.dom.leave && decide (leaveEdge was ≤ b.tick) then departNow s
      else if !isMember s then s
      else
        let newMaster := b.master = hubId s ∧ masterId s ≠ hubId s
        let s := setMasterBit (fset F.domStatus_masterId 0 b.master s)
        let s := domMod (fun d => { d with
          adopt := d.adopt || decide newMaster
          unsure := if newMaster then (members s).filter (· != hubId s) else d.unsure
          handover := match d.handover with
            | some (h, t) => if t ≤ b.tick then none else some (h, t)
            | none => none }) s
        edgeWork b.tick (edgePeriod b s))

/-- EDGE_MISSED (R204, R253, R262): no usable copy came by the expected time. The hub's partitions await the decision of
the tick that ended; after four in a row the hub departs, and says so in its HELLO. -/
def execEdgeMissed (s : State) : Result :=
  .next (
    if !isMember s || s.dom.edge.isSome || isMaster s then s
    else
      let n := s.dom.missed + 1
      let tick := fget s F.tickCounter_count 0 + s.dom.missed
      let s := (List.map (·.1) s.parts).foldl (fun s p =>
        let w := partGet s p
        if !w.enabled then s
        else if w.undecided then partMod p (fun w => { w with behind := true }) s
        else if fon s F.partStatus_faulted p then s
        else partMod p (fun w => { w with undecided := true, closing := tick, repeated := [], told := 0xFF }) s) s
      let s := domMod (fun d => { d with missed := n }) s
      if n ≥ 4 then sendHello (departNow s) else s)

/-! ### Reports and decisions (R203, R204) -/

/-- REPORT (R204): a report reaches the tick master. The operand carries its lines; the packet's blocks are those lines and
padding. -/
def execReport (a : IdnArr) (lines : List RepLine) (s : State) : Result :=
  .next (if a.pkt.ty ≠ 0x10 then s else idnAccept a (fun p s => takeReport p.src p.addr lines s) s)

/-- REPORT_TIMEOUT (R203): 20 µs after the edge missing reports count ABSENT. -/
def execReportTimeout (s : State) : Result := .next (if isMaster s then masterDecide s else s)

/-- DECISION (R204). -/
def execDecision (a : IdnArr) (lines : List DecLine) (s : State) : Result :=
  .next (if a.pkt.ty ≠ 0x11 then s else idnAccept a (fun p s => decisionApply p.addr lines s) s)

/-! ### Releasing tile programs (R31, R66 to R68, R145, R202) -/

/-- The rings of a tile overlap no resident byte, stay in the store and do not overlap each other (R145). -/
def ringOk (s : State) (t : Nat) : Bool :=
  let r := fget s F.kvwRing_reqBase t * 4096
  let rn := 32 * 2 ^ fget s F.kvwRing_reqLog2 t
  let l := fget s F.kvwRing_landBase t * 65536
  let ln := (fget s F.kvwRing_landSlotsM1 t + 1) * 65536
  let res := residentBytes s t
  !fon s F.kvwRing_enable t ||
    (decide (fget s F.kvwRing_reqLog2 t ≤ 4) && decide (res ≤ r ∧ r + rn ≤ storeBytes) && decide (res ≤ l ∧ l + ln ≤ storeBytes)
      && decide (r + rn ≤ l ∨ l + ln ≤ r))

/-- Is a tile's program header valid (R66). -/
def headerOk (h : List Byte) : Bool :=
  let k := recAt h 2 2
  recAt h 0 2 == 1 && decide (1 ≤ k ∧ k ≤ 16) && decide (recAt h 4 4 * 8 < k * 65536) && ((h.drop 16).take 48).all (· == 0)

/-- The state a tick starts a tile in (R64, R68, R145); its header lies in line 0, whose code may have failed (R100, R101). -/
def startTile (r : TickRec) (w : Part) (plan t : Nat) (s : State) : State :=
  let h := Mem.readN s.store (storeKey t 0) 64
  let x : Map Word := [(27, BitVec.ofNat 64 w.entries.length), (28, BitVec.ofNat 64 w.workTick),
    (29, BitVec.ofNat 64 (globalTile s t)), (30, BitVec.ofNat 64 r.bdtVA), (31, BitVec.ofNat 64 plan)]
  let s := tileMod t (fun τ => { ctx := τ.ctx, cls := τ.cls, badLines := τ.badLines, invHost := τ.invHost, x := x
                                 ring := (rget s .kvwRing t).toNat }) s
  let s := fset F.tileVflags_tick t (w.workTick % 2 ^ 32) (fset F.tileVflags_flags t 0 s)
  let s := rset s .tileStatus t (BitVec.ofNat 64 (placed 8 17 (recAt h 4 4)))
  if (tileGet s t).badLines.contains 0 then checkedStop t 4 0 false s
  else if !headerOk h || !ringOk s t then contextStop t .prog 0 s
  else if !bitOn (recAt h 8 8) plan then s
  else fset F.tileStatus_running t 1 s

/-- Release a partition's tiles for its tick or replay. -/
def releasePart (p : Nat) (r : TickRec) (s : State) : State :=
  let w := { partGet s p with released := true }
  let s := partSet p w s
  let bays := baysOfPart s p
  let s := bays.foldl (fun s b => rreset .kvwStatus b (bayMod b (fun y => { y with bars := [], owed := [], halted := [], sectors := [] }) s)) s
  let plan := fget s F.partStatus_plan p
  let s := (tilesOfPart s p).foldl (fun s t => startTile r w plan t s) s
  let now := (Config.timeNs s.fresh).toNat
  fset F.tickTiming_release10ns 0 (min ((now - s.dom.edgeNs) / 10) 0xFFFF) (tickFresh s)

/-- TICK_RELEASE (R31, R202, R253, R259): the decision is applied, the staging half is free, no edge was missed, and the
secondary of a lock-step pair has the whole table. -/
def execTickRelease (part : Nat) (s : State) : Result :=
  .next (
    let w := partGet s part
    match w.inForce with
    | none => s
    | some r =>
      if !w.live || w.released || w.undecided || s.dom.missed ≠ 0 || w.drains.any (fun d => d.half == w.half)
          || (lsSecondary s part && !w.lsReady) then s
      else releasePart part r s)

/-! ### The drain of a committed tick (R205, R417, R511) -/

/-- Change the oldest drain of a partition; a drain with nothing left stays until it ends. -/
def drainMod (p : Nat) (f : Drain → Drain) (s : State) : State :=
  partMod p (fun w => { w with drains := match w.drains with | d :: ds => f d :: ds | [] => [] }) s

/-- Where an append goes: a page that a switch of the same drain moves takes it at its new place as well (R166). -/
def drainItem (d : Drain) (e : Staged) (s : State) : State :=
  let s := devStore e.addr e.data s
  match e.kind with
  | .append _ => d.todo.foldl (fun s g => match g.kind with
      | .switch _ _ =>
        let old := kvEntryAddr (memNat s g.addr 8)
        if old ≤ e.addr ∧ e.addr < old + 65536 then devStore (g.va + (e.addr - old)) e.data s else s
      | _ => s) s
  | _ => markSwitch 3 e s

/-- The layer of a drained item. -/
def drainLayer (e : Staged) : Nat := drainKey e / 2

/-- DRAIN_LAYER_DONE (R205 step 3): the lowest layer left in the oldest drain is applied. -/
def execDrainLayerDone (part : Nat) (s : State) : Result :=
  .next (match (partGet s part).drains with
    | [] => s
    | d :: _ => match d.todo with
      | [] => s
      | e :: _ =>
        let now := d.todo.filter fun g => drainLayer g == drainLayer e
        let s := drainMod part (fun d => { d with todo := d.todo.filter fun g => drainLayer g != drainLayer e }) s
        sweep (now.foldl (fun s g => drainItem d g s) s))

/-- Has a drain something for host memory: a store, or a ring whose slots or producer index lie there. -/
def drainHost (s : State) (d : Drain) : Bool :=
  !d.egress.isEmpty || d.rings.any fun r => (match queueSlot s r.ring (queueGet s r.ring).pidx with | some k => k.1 | none => false)

/-- EGRESS_WRITE (R205 step 4), once step 3 is visible: host stores, output and PAD records in slot order, then each ring's producer
index. In host wait the stores stay (R405). -/
def execEgressWrite (part : Nat) (s : State) : Result :=
  .next (match (partGet s part).drains.find? (fun d => !d.sent && d.todo.isEmpty) with
    | none => s
    | some d =>
      if drainHost s d && waitCause s part then s
      else
        let s := d.egress.foldl (fun s e => putFor e.ctx true e.addr e.data false s) s
        let s := d.rings.foldl (fun s r => ringPut r.ring r.data s) s
        let s := ((d.rings.map (·.ring)).eraseDups).foldl (fun s q => ringPublish q s) s
        partMod part (fun w => { w with drains := w.drains.map fun e =>
          if e.tick = d.tick then { e with sent := true, egress := [], rings := [] } else e }) s)

/-- FENCE_WRITE_APPLY (R205 step 5, R417, R477). -/
def execFenceWriteApply (part : Nat) (s : State) : Result :=
  .next (match (partGet s part).drains.find? (fun d => d.sent && !d.fenced && d.todo.isEmpty) with
    | none => s
    | some d =>
      let s := d.fences.foldl (fun s f => fenceRaise f.2.1 f.2.2 s) s
      sweep (partMod part (fun w => { w with drains := w.drains.map fun e =>
        if e.tick = d.tick then { e with fenced := true } else e }) s))

/-- Extend a queue's provenance chain (R205 step 6, R510, R511). -/
def extendChain (p : Nat) (r : TickRec) (e : Extension) (s : State) : State :=
  match provAt s p e.queue r with
  | none => s
  | some a =>
    let c := padTo 64 0 (Config.sha512 (memRead s a 64 ++ leBytes 8 e.tick ++ leBytes 4 e.c ++ leBytes 4 e.a ++ e.tail))
    devStore a (c ++ leBytes 8 e.tick ++ leBytes 8 (memNat s (a + 72) 8 + 1) ++ leBytes 4 e.after) s

/-- COMMIT_DRAIN_END (R202, R205): the oldest drain has nothing left; its staging half is free. -/
def execCommitDrainEnd (part : Nat) (s : State) : Result :=
  .next (match (partGet s part).drains with
    | [] => s
    | d :: ds =>
      if !d.todo.isEmpty || !d.sent || !d.fenced then s
      else
        let s := match (partGet s part).inForce with
          | some r => d.exts.foldl (fun s e => extendChain part r e s) s
          | none => s
        sweep (partMod part (fun w => { w with drains := ds }) s))

/-- HOST_STORE_ACK (R417): the link partner acknowledges the oldest store the port has sent. -/
def execHostStoreAck (port : Nat) (s : State) : Result :=
  .next (match s.unacked.find? (fun h => h.port == port && h.sent) with
    | none => s
    | some h => { s with unacked := s.unacked.erase h })

/-! ### Writes of the tick's registers -/

/-- TICK_CTRL: RUN (R182). -/
def writeTickCtrl (v : Word) (s : State) : State := fset F.tickCtrl_run 0 (bitsAt v.toNat 0 1) s

/-- TICK_CTRL_WRITE. -/
def execTickCtrlWrite (v : Word) (s : State) : Result := .next (writeTickCtrl v s)

/-- The tick number that AT_TICK names (R183). -/
def atTickOf (s : State) (low : Nat) : Nat :=
  let c := fget s F.tickCounter_count 0
  (c / 2 ^ 32 + (if low < c % 2 ^ 32 then 1 else 0)) * 2 ^ 32 + low

/-- Ask for a period change (R181): is it accepted, and the state after. -/
def askPeriod (ns low : Nat) (s : State) : Bool × State :=
  let t := atTickOf s low
  if isMaster s && decide (fget s F.tickCounter_count 0 + 4 ≤ t) && decide (100000 ≤ ns ∧ ns ≤ 1000000000) then
    (true, domMod (fun d => { d with period := some (ns, t % 2 ^ 32) }) s)
  else (false, s)

/-- TICK_PERIOD_SET (R181, R183): read-only on a hub that is not the master. -/
def writeTickPeriod (v : Word) (s : State) : State :=
  if !isMaster s then s
  else
    let ns := bitsAt v.toNat 0 30
    let at' := bitsAt v.toNat 32 32
    let s := fset F.tickPeriodSet_atTick 0 at' (fset F.tickPeriodSet_periodNs 0 ns s)
    let r := askPeriod ns at' s
    fset F.tickPeriodSet_accepted 0 (bit01 r.1) r.2

/-- TICK_PERIOD_SET_WRITE. -/
def execTickPeriodSetWrite (v : Word) (s : State) : Result := .next (writeTickPeriod v s)

/-- The provenance table of a partition lies in its memory (R510). -/
def provOk (s : State) (p : Nat) (r : TickRec) : Bool :=
  fon s F.partProv_valid p && (r.queueCount == 0 || inPart s p (fget s F.partProv_base p * 65536) (r.queueCount * 128))

/-- May a partition be enabled (R301, R510, R514, R622). -/
def mayEnable (s : State) (p : Nat) : Bool := match (partGet s p).offered with
  | none => false
  | some r => !memDirty s p && provOk s p r && (!confidential s p || fget s F.partSec_tdisp p == 2)

/-- PART_CFG.ENABLE is written with 1 (R215, R301, R622). The hub reads the record only while the partition is disabled (R186): a write
while it is enabled does no more, except that with a disable pending it enables the partition again once that has taken effect. -/
def enableReq (p : Nat) (s : State) : State :=
  let w := partGet s p
  if !mayEnable s p then logErr { code := 0x0914, cls := clsRefused, part := some p } s
  else if w.enabled && !w.stopping then s
  else fset F.partCfg_enable p 1 (partSet p { w with taken := w.offered, enabling := true } s)

/-- PART_CFG.ENABLE is written with 0 (R622). -/
def disableReq (p : Nat) (s : State) : State :=
  let s := partMod p (fun w => { w with enabling := false, stopping := w.enabled }) s
  fset F.partCfg_enable p 0 s

/-- PART_CFG (R215). -/
def writePartCfg (p : Nat) (v : Word) (s : State) : State :=
  let s := fset F.partCfg_recoverLog2 p (bitsAt v.toNat 8 4) (fset F.partCfg_ceiling p (bitsAt v.toNat 1 6) s)
  if v.getLsbD 0 then enableReq p s else disableReq p s

/-- PART_CFG_ENABLE: a write of the register with ENABLE = 1. -/
def execPartCfgEnable (part : Nat) (v : Word) (s : State) : Result :=
  .next (if part < 256 ∧ v.getLsbD 0 then writePartCfg part v s else s)

/-- PART_CFG_DISABLE: a write of the register with ENABLE = 0. -/
def execPartCfgDisable (part : Nat) (v : Word) (s : State) : Result :=
  .next (if part < 256 ∧ !v.getLsbD 0 then writePartCfg part v s else s)

/-- PART_IDOON (R218). -/
def writePartIdoon (p : Nat) (v : Word) (s : State) : State :=
  if (partGet s p).enabled then logRefused 0x0B02 (some p) s else fset F.partIdoon_ports p (bitsAt v.toNat 0 32) s

/-- PART_IDOON_WRITE. -/
def execPartIdoonWrite (part : Nat) (v : Word) (s : State) : Result :=
  .next (if part < 256 then writePartIdoon part v s else s)

end Sys2Proof.Machine
end

