-- ==== Sys2Proof/Machine/Domain.lean ====
section
/-! DEFINITION. Machine/Domain.lean: forming, joining and leaving the domain, handover, loss of the master, lock-step, and
the Griset commands of group 0x04 (R243 to R266, R476). -/
namespace Sys2Proof.Machine

/-! ### Formation (R246 to R249) -/

/-- Expected members heard of, this hub among them, that have RUN = 1. -/
def runningHubs (s : State) : List Nat := (expectedHubs s).filter fun h => match Map.get? (seen s) h with
  | some m => m.run
  | none => false

/-- Is this hub the formation master: the lowest-numbered expected member present. -/
def formsHere (s : State) : Bool := ((expectedHubs s).find? fun h => (Map.get? (seen s) h).isSome) == some (hubId s)

/-- A member takes a FORM (R246 step 5). -/
def takeForm (f : FormMsg) (s : State) : State :=
  let s := domMod (fun d => { d with form := some f, acks := [], adj := f.adj, edge := none }) s
  fset F.domStatus_forming 0 1 (fset F.domStatus_refused 0 0 s)

/-- The words of a FORM. -/
def formWords (f : FormMsg) : List Nat := [f.epoch, maskOf f.members, f.master, f.t0] ++ adjOut f.adj

/-- The formation master sends a FORM, with an epoch above any that its members hold and T0 10 ms from now (R246, R247), where every
expected member is there or the timeout allows fewer, and the adjacency has been the same for three rounds. -/
def tryForm (s : State) : State :=
  let ms := runningHubs s
  if isMember s || s.dom.form.isSome || s.dom.gone || s.dom.tried || fon s F.domStatus_forming 0 || !fon s F.tickCtrl_run 0
      || decide (s.dom.stable < 3) || !formsHere s || !ms.contains (hubId s)
      || !((expectedHubs s).all ms.contains || (s.dom.timedOut && s.cfg.partialOk)) then s
  else
    let held := ((seen s).filter fun e => ms.contains e.1).map (·.2.epoch)
    let f : FormMsg := ⟨1 + held.foldl max s.dom.burnt, ms, helloAdj s ms ++ s.dom.dups.map fun h => (h, []), ms.headD 0,
                        (Config.timeNs s.fresh).toNat + 10000000⟩
    let s := tickFresh s
    match formCause s f.members f.adj (!s.dom.timedOut) with
    | some c => domRefuse c (domMod (fun d => { d with tried := true }) s)
    | none =>
      let s := takeForm f s
      (ms.filter (· != hubId s)).foldl (fun s h => sendDomain 0x19 h (formWords f) s) s

/-- Flood a JOIN (R263); the master is not known to the joining hub. -/
def sendJoin (s : State) : State :=
  let h := myHello s
  floodDomain 0x1B [h.hub, h.epoch, bit01 h.run, h.limit, maskOf h.near] s

/-- HELLO_TIMER (R246): every 1 ms the hub floods its HELLO. A hub not heard for three rounds is no longer present. A hub that joins repeats
its JOIN until it is answered, since its ports train meanwhile. -/
def execHelloTimer (s : State) : Result :=
  .next (
    let s := sendHello s
    let ages := Map.map s.dom.silent fun _ n => n + 1
    let dead := (ages.filter fun e => decide (e.2 > 3)).map (·.1)
    let s := domMod (fun d => { d with
      silent := Map.keep ages (!dead.contains ·), hellos := Map.keep d.hellos (!dead.contains ·)
      stable := if dead.isEmpty then d.stable + 1 else 0, tried := d.tried && dead.isEmpty }) s
    let s := match s.dom.form with
      | some f => if f.members.any dead.contains then abandonForm s else s
      | none => s
    let s := tryForm (helloRoutes s)
    let s := if !isMember s && fon s F.domStatus_forming 0 && s.dom.form.isNone && (joinMsg s).isNone then sendJoin s else s
    domMod (fun d => { d with dups := [] }) s)

/-- A hub's edges to neighbours it no longer states are gone (R245). -/
def loseEdges (h : HelloMsg) (a : Adjacency) : Adjacency :=
  a.map fun e =>
    if e.1 = h.hub then (e.1, e.2.filter h.near.contains)
    else if h.near.contains e.1 then e else (e.1, e.2.filter (· != h.hub))

/-- What a HELLO tells this hub (R245, R246, R248, R249, R262). -/
def takeHello (h : HelloMsg) (s : State) : State :=
  let old := Map.get? s.dom.hellos h.hub
  let again := Map.get? s.dom.silent h.hub == some 0
  let same := match old with | some o => o.near == h.near | none => false
  let dup := again && !same
  let s := domMod (fun d => { d with
    hellos := Map.set d.hellos h.hub h, silent := Map.set d.silent h.hub 0
    dups := if dup && !d.dups.contains h.hub then h.hub :: d.dups else d.dups
    stable := if same then d.stable else 0, tried := d.tried && old == some h }) s
  let s := match s.dom.form with
    | some f => if f.members.contains h.hub && !h.run then abandonForm s else s
    | none => s
  if isMember s && (members s).contains h.hub then
    let s := domMod (fun d => { d with adj := loseEdges h d.adj }) s
    dropUnreachable (if h.run then s else dropHubs [h.hub] s)
  else helloRoutes s

/-- HELLO: a flood is passed on where it says something new in its round. -/
def execHello (a : IdnArr) (h : HelloMsg) (s : State) : Result :=
  .next (
    if a.pkt.ty ≠ 0x18 then s
    else
      let news := !(Map.get? s.dom.silent h.hub == some 0 && Map.get? s.dom.hellos h.hub == some h) && h.hub != hubId s
      let arr := { a with pkt := { a.pkt with dst := hubId s } }
      idnAccept arr (fun p s =>
        if h.hub = hubId s then
          (if h.near = (myHello s).near then s
           else domMod (fun d => { d with dups := if d.dups.contains h.hub then d.dups else h.hub :: d.dups }) s)
        else
          let s := takeHello h s
          if news then passOn { a with pkt := p } s else s) s)

/-- FORM (R248): a member checks it, and acknowledges or refuses. -/
def execForm (a : IdnArr) (f : FormMsg) (s : State) : Result :=
  .next (if a.pkt.ty ≠ 0x19 then s else idnAccept a (fun _ s =>
    if isMember s || !f.members.contains (hubId s) then s
    else match formCause s f.members f.adj true with
      | some c => domRefuse c s
      | none => sendDomain 0x1A f.master [f.epoch] (takeForm f s)) s)

/-- FORM_ACK reaches the tick master. -/
def execFormAck (a : IdnArr) (epoch : Nat) (s : State) : Result :=
  .next (if a.pkt.ty ≠ 0x1A then s else idnAccept a (fun p s => match s.dom.form with
    | some f => if f.epoch = epoch ∧ !s.dom.acks.contains p.src then domMod (fun d => { d with acks := p.src :: d.acks }) s else s
    | none => s) s)

/-- FORM_TIMEOUT (R248): expected members are still absent. -/
def execFormTimeout (s : State) : Result :=
  .next (
    if isMember s || s.dom.form.isSome || s.dom.gone || !fon s F.tickCtrl_run 0 || fon s F.domStatus_forming 0
        || (expectedHubs s).all (runningHubs s).contains then s
    else if s.cfg.partialOk then tryForm (domMod (fun d => { d with timedOut := true }) s)
    else domRefuse 4 s)

/-! ### Joining (R263) -/

/-- The adjacency with one more hub. -/
def withHub (a : Adjacency) (h : HelloMsg) (ms : List Nat) : Adjacency :=
  (a.filter (·.1 != h.hub)).map (fun e => if h.near.contains e.1 && !e.2.contains h.hub then (e.1, e.2 ++ [h.hub]) else e)
    ++ [(h.hub, h.near.filter ms.contains)]

/-- DOM_CTRL.JOIN: the hub trains its ports, floods HELLO and sends JOIN. -/
def joinDomain (s : State) : State :=
  if isMember s || s.dom.form.isSome then s
  else if !s.cfg.domainOk then domRefuse 5 s
  else
    let s := fset F.domStatus_forming 0 1 (fset F.domStatus_refused 0 0 s)
    let s := (List.range 36).foldl (fun s k =>
      if idnState s k = 1 ∧ !fon s F.idnCtrl_disable k then trainPort k s else s) s
    sendJoin (sendHello s)

/-- The master answers a JOIN with MEMBERSHIP, again where its answer is already under way; a refused hub hears of the members without it,
or, where its HUB_ID is a member's, of an adjacency that names it twice (R248, R263). -/
def takeJoin (h : HelloMsg) (s : State) : State :=
  if !isMaster s then s
  else
    let c := fget s F.tickCounter_count 0
    let m := lastChange s
    let twice := (members s).contains h.hub
    let a := if twice then m.adj ++ [(h.hub, h.near)] else withHub m.adj h m.members
    match s.dom.changes.find? (fun k => k.members.contains h.hub), twice with
    | some k, false => announce k s
    | _, _ =>
      let ms := if twice then m.members else m.members ++ [h.hub]
      if (formCause s ms a false).isSome then
        floodDomain 0x12 ([m.epoch, maskOf m.members, c] ++ adjOut (if twice then a else m.adj)) s
      else announce ⟨m.epoch + 1, ms, a, max (c + 4) (m.edge + 1)⟩ s

/-- JOIN reaches the master, by a flood. -/
def execJoin (a : IdnArr) (h : HelloMsg) (s : State) : Result :=
  .next (if a.pkt.ty ≠ 0x1B ∨ h.hub = hubId s then s
    else if isMaster s then idnAccept { a with pkt := { a.pkt with dst := hubId s } } (fun _ s => takeJoin h s) s
    else floodAccept a (fun _ s => s) s)

/-- MEMBERSHIP (R248, R262, R263): it applies at its edge. A hub that asked to join and is not in it was refused. -/
def execMembership (a : IdnArr) (m : MemberMsg) (s : State) : Result :=
  .next (if a.pkt.ty ≠ 0x12 then s else idnAccept a (fun _ s =>
    let keep := domMod (fun d => { d with changes := putChange m d.changes }) s
    if isMember s then (if m.epoch > fget s F.domStatus_epoch 0 then keep else s)
    else if !fon s F.domStatus_forming 0 || s.dom.form.isSome then s
    else if m.members.contains (hubId s) then
      match formCause s m.members m.adj false with
      | some c => domRefuse c s
      | none => domMod (fun d => { d with adj := m.adj }) keep
    else
      let ms := m.members ++ [hubId s]
      domRefuse ((formCause s ms (withHub m.adj (myHello s) m.members) false).getD 1) s) s)

/-! ### DOM_CTRL, handover and loss of the master (R254, R255, R262, R265) -/

/-- A write of DOM_CTRL. -/
def writeDomCtrl (v : Word) (s : State) : State :=
  let s := fset F.domCtrl_handoverTo 0 (bitsAt v.toNat 8 6) s
  let s := if v.getLsbD 2 then handOver (some (fget s F.domCtrl_handoverTo 0)) s else s
  let s := if v.getLsbD 1 then joinDomain s else s
  if v.getLsbD 0 then leaveDomain s else s

/-- DOM_CTRL_LEAVE: a write with LEAVE = 1. -/
def execDomCtrlLeave (v : Word) (s : State) : Result := .next (if v.getLsbD 0 then writeDomCtrl v s else s)
/-- DOM_CTRL_JOIN: a write with JOIN = 1. -/
def execDomCtrlJoin (v : Word) (s : State) : Result := .next (if v.getLsbD 1 then writeDomCtrl v s else s)
/-- DOM_CTRL_HANDOVER: a write with HANDOVER = 1. -/
def execDomCtrlHandover (v : Word) (s : State) : Result := .next (if v.getLsbD 2 then writeDomCtrl v s else s)

/-- HANDOVER names the successor and its first tick (R254); `terms.held` is what the master knows of the partitions' hubs. -/
def execHandover (a : IdnArr) (hub : Nat) (terms : HandTerms) (s : State) : Result :=
  .next (if a.pkt.ty ≠ 0x1C then s else idnAccept a (fun _ s =>
    if isMember s ∧ hub = hubId s then
      domMod (fun d => { d with handover := some (hub, terms.tick)
                                holders := terms.held.foldl (fun m e => Map.set m e.1 (bitList 64 e.2)) d.holders }) s
    else s) s)

/-- MASTER_LOSS (R255): two edges have been missed and the master cannot be reached. The lowest-numbered reachable member
becomes master: it emits the edge after `top`, the highest tick a member reports, and the old master departs. `held` are
the partitions the old master held. -/
def execMasterLoss (top : Nat) (held : List Nat) (s : State) : Result :=
  .next (
    let old := masterId s
    let reach := (members s).filter fun h => h != old && (h == hubId s || (nextHop s h).isSome)
    if !isMember s || isMaster s || decide (s.dom.missed < 2) || reach.head? != some (hubId s) then s
    else
      let t := max top (fget s F.tickCounter_count 0) + 1
      let s := domMod (fun d => { d with handover := some (hubId s, t), lostParts := d.lostParts ++ held.filter (!d.lostParts.contains ·) }) s
      dropFrom t [old] s)

/-! ### Lock-step (R259 to R261, R266) -/

/-- Is lock-step licensed. -/
def lsLicensed (s : State) : Bool := bitOn s.cfg.features 1

/-- A write of LS_CFG. -/
def writeLsCfg (v : Word) (s : State) : State :=
  let en := if lsLicensed s then bitsAt v.toNat 0 1 else fget s F.lsCfg_enable 0
  rset s .lsCfg 0 (BitVec.ofNat 64 (putBits (v.toNat % 2 ^ 16) 0 1 en))

/-- LS_CFG_WRITE. -/
def execLsCfgWrite (v : Word) (s : State) : Result := .next (writeLsCfg v s)

/-- LS_BDT (R259): a piece of the primary's table; one that comes before this hub's own decision is kept for the next tick. -/
def execLsBdt (a : IdnArr) (s : State) : Result :=
  .next (if a.pkt.ty ≠ 0x20 then s else idnAccept a (fun k s =>
    let w := partGet s k.part
    if lsSecondary s k.part && w.live && !w.lsReady then lsPiece k.part k.addr k.data s
    else if w.enabled && (lockOf s k.part).any (!·.1) then
      partMod k.part (fun w => { w with lsEarly := w.lsEarly ++ [(k.addr, k.data)] }) s
    else s) s)

/-- LS_SIG (R261): the last piece lets the hub compare and report. -/
def execLsSig (a : IdnArr) (s : State) : Result :=
  .next (if a.pkt.ty ≠ 0x21 then s else idnAccept a (fun k s =>
    let p := k.part
    if (partGet s p).lock.isNone || (partGet s p).sigGot.contains k.addr then s
    else
      let s := partMod p (fun w => { w with
        sigGot := k.addr :: w.sigGot
        lsPeer := (padTo 2560 0 w.lsPeer).take k.addr ++ k.data ++ (padTo 2560 0 w.lsPeer).drop (k.addr + k.data.length) }) s
      lsSettle s) s)

/-! ### Griset commands of group 0x04 (R476) -/

/-- DOM_JOIN: STATE where the hub is a member or forming. -/
def execDomJoin (cmd : Nat) (s : State) : Result :=
  .next (startOp 0x0401 (fun _ s => if isMember s || s.dom.form.isSome then (.st 0x0A, s) else (.st 0, joinDomain s)) cmd s)

/-- DOM_LEAVE: STATE where the hub is no member. -/
def execDomLeave (cmd : Nat) (s : State) : Result :=
  .next (startOp 0x0402 (fun _ s => if isMember s then (.st 0, leaveDomain s) else (.st 0x0A, s)) cmd s)

/-- DOM_HANDOVER: STATE where the hub is not the master. -/
def execDomHandover (cmd : Nat) (s : State) : Result :=
  .next (startOp 0x0403 (fun c s => if isMaster s then (.st 0, handOver (some (bitsAt c.pkt.w1 0 6)) s) else (.st 0x0A, s)) cmd s)

/-- DOM_QUERY. -/
def execDomQuery (cmd : Nat) (s : State) : Result :=
  .next (startOp 0x0404 (fun _ s => (.done 0 (rget s .domStatus 0).toNat (rget s .domMembers 0).toNat [], s)) cmd s)

/-- LS_CONFIG: NOT_LICENSED without the licence. -/
def execLsConfig (cmd : Nat) (s : State) : Result :=
  .next (startOp 0x0405 (fun c s => if lsLicensed s then (.st 0, writeLsCfg (BitVec.ofNat 64 c.pkt.w1) s) else (.st 0x0C, s)) cmd s)

/-- TICK_PERIOD: STATE unless the hub is the tick master; D0 is the register after the write. -/
def execTickPeriod (cmd : Nat) (s : State) : Result :=
  .next (startOp 0x0406 (fun c s =>
    if !isMaster s then (.st 0x0A, s)
    else
      let s := writeTickPeriod (BitVec.ofNat 64 c.pkt.w1) s
      (.done 0 (rget s .tickPeriodSet 0).toNat 0 [], s)) cmd s)

end Sys2Proof.Machine
end

