-- ==== Sys2Proof/Machine/Memctl.lean ====
section
/-! DEFINITION. Machine/Memctl.lean: the memory controllers (R270 to R309): reads with the correcting code and interface
retries, writes, scrub, retraining, row repair, and clearing between tenants (R300 to R304, R499). -/
namespace Sys2Proof.Machine

/-! ### Rows (R290) -/

/-- A key for a controller's row. -/
def rowKey (sector : Nat) : Nat :=
  let r := rowOf sector
  ((ctlOf (sector * 512) * 64 + r.1) * 65536 + r.2.1) * 2 ^ 32 + r.2.2

/-- A correctable read of a row: its time joins the last sixteen; does the sixteenth fall within 24 hours (R290). -/
def noteCorrected (sector : Nat) (s : State) : Bool × State :=
  let now := (Config.timeNs s.fresh).toNat
  let l := (Map.get s.ceRows [] (rowKey sector) ++ [now])
  let l := l.drop (l.length - 16)
  (l.length == 16 && decide (now - l.headD 0 ≤ 86400000000000), { tickFresh s with ceRows := Map.set s.ceRows (rowKey sector) l })

/-- A row fails by correctable reads: MEMC_ERR cause 0x1 and a queued repair. -/
def rowFailed (sector : Nat) (s : State) : State :=
  let c := ctlOf (sector * 512)
  queueRepair sector (memcRecord c 1 clsDegraded (sector * 512) none false (memcErr c 1 (sector * 512) s))

/-! ### Reading a sector (R278, R282 to R286) -/

/-- How a sector's read comes out: data, data after a correction, or an uncorrectable read with its cause. -/
inductive ReadOut where
  | good
  | corrected
  | bad (cause : Nat)
  deriving DecidableEq, Repr

/-- The codeword of a stored byte (R282): data bytes and check bytes alike by index mod 4 (log entry 94). -/
def codewordOf (i : Nat) : Nat := if i < 512 then i % 4 else (i - 512) % 4

/-- The address symbols of two sectors that differ (R282): bits [47:9] make 5 symbols. -/
def addrErrors (a b : Nat) : Nat := ((List.range 5).filter fun k => bitsAt a (8 * k) 8 != bitsAt b (8 * k) 8).length

/-- The symbols in error in codeword `j` of a sector: those that came wrong, and where the part gave another sector, its address
symbols. -/
def symbolErrors (sector j : Nat) (u : MemUpset) : Nat :=
  ((u.flips.eraseDups).filter fun i => i < 576 && codewordOf i == j).length
    + (match u.wrong with | some w => addrErrors sector w | none => 0)

/-- The largest number of symbols in error in a codeword. -/
def worstSymbols (sector : Nat) (u : MemUpset) : Nat := ((List.range 4).map fun j => symbolErrors sector j u).foldl max 0

/-- Decode what the part returned (R283). A correction on an address symbol is uncorrectable; so, by the model's choice (log entry 94),
is a pattern beyond the 9 symbols that the code is sure to detect. -/
def decodeRead (sector : Nat) (u : MemUpset) : ReadOut :=
  let virt := match u.wrong with | some w => addrErrors sector w != 0 | none => false
  if virt then .bad 2
  else if worstSymbols sector u = 0 then .good
  else if worstSymbols sector u ≤ 7 then .corrected
  else .bad 2

/-- An injection of kind 4 that falls on this read (R598): does one, and is it uncorrectable. -/
def memInjected (s : State) (c tick : Nat) : Option Bool :=
  if injectHit s 4 c tick then some (fon s F.tpInject_ue 0) else none

/-- Fetch a sector from its part and decode it: the counters, the corrected write-back and the row failures that follow
(R285, R290, R307, R309); an injected error has no consequence for the part (R594). The second truth value says that the
outcome was injected. -/
def fetchSector (sector tick : Nat) (u : MemUpset) (s : State) : ReadOut × Bool × State :=
  let c := ctlOf (sector * 512)
  let (stop, s) := interfaceTries sector u.errors (refreshReport c u s)
  if stop then (.bad 3, false, s)
  else
    let s := countRead c s
    match memInjected s c tick with
    | some ue =>
      let s := injectUse tick s
      if ue then (.bad 2, true, s) else (.corrected, true, fbump F.memcCeCount_count (ctlReg c) 1 s)
    | none => match decodeRead sector u with
      | .good => (.good, false, s)
      | .corrected =>
        let s := fbump F.memcCeCount_count (ctlReg c) 1 { s with wback := if s.wback.contains sector then s.wback else s.wback ++ [sector] }
        let (many, s) := noteCorrected sector s
        (.corrected, false, if many || decide (worstSymbols sector u ≥ 5) then rowFailed sector s else s)
      | .bad k => (.bad k, false, s)

/-- A commit drain cannot read what it staged (R286): the destination sectors of the item are lost, the rest proceeds. -/
def drainLost (p item : Nat) (s : State) : State :=
  let w := partGet s p
  match w.drains with
  | d :: ds => match d.todo[item]? with
    | some e =>
      let s := partSet p { w with drains := { d with todo := d.todo.eraseIdx item } :: ds } s
      (List.range ((e.addr + e.data.length + 511) / 512 - e.addr / 512)).foldl (fun s i => loseSector (e.addr / 512 + i) s) s
    | none => s
  | [] => s

/-- The partition a request works for. -/
def MemReq.part (s : State) : MemReq → Option Nat
  | .unit p => some p
  | .walker t _ _ => some (partOfTile s t)
  | .drain _ _ => none
  | .outside => none

/-- The consequences of an uncorrectable read (R286, R290), for a KV walker with its own record (R161). -/
def readFailed (sector cause : Nat) (r : MemReq) (injected : Bool) (s : State) : State :=
  let s := memUncorrectable (sector * 512) cause (MemReq.part s r) injected s
  match r with
  | .drain p i => if injected then s else drainLost p i s
  | .walker t entry page =>
    let k := if page then 10 else 9
    kvwRecord t k injected (kvwErr t k entry s)
  | _ => s

/-- Is the channel of an address in service: its controller trained, and the channel not retraining (R287). -/
def ctlReady (s : State) (a : Nat) : Bool :=
  let st := fget s F.memcStatus_state (ctlReg (ctlOf a))
  (st == 1 || st == 2) && !memHeld s a 1

/-- The class a memory request goes by (R328): of what its partition allows; a walker's for its batch entry; C0 for the commit drain. -/
def memClass (s : State) (cls : Nat) : MemReq → Nat
  | .unit p => classFor s p cls
  | .walker t e _ => kvWalkClass s (partOfTile s t) e
  | .drain _ _ => 0
  | .outside => cls

/-- MEMORY_READ (R278, R279, R284 to R286, R289): `n` bytes at `addr`, within one sector, go to the requester, or it gets an
error. -/
def execMemoryRead (addr n cls : Nat) (who : MemReq) (u : MemUpset) (s : State) : Result :=
  .next (
    let sector := addr / 512
    let cls := memClass s cls who
    if !ctlReady s addr ∨ addr % 512 + n > 512 then s
    else if s.lost.contains sector then
      emit .net 0x21 [addr] [] (readFailed sector 4 who false s)
    else
      let tick := match MemReq.part s who with | some p => tickOf s p | none => fget s F.tickCounter_count 0
      let (r, inj, s) := fetchSector sector tick u (slcMem addr cls n s)
      match r with
      | .bad k => emit .net 0x21 [addr] [] (readFailed sector k who inj s)
      | _ => emit .net 0x20 [addr] (memRead s addr n) s)

/-- Read-modify-write of an entry that leaves a buffer incomplete (R280): the sector is read, and where that fails nothing
is written and the sector is lost (R286). -/
def rmwSector (sector : Nat) (u : MemUpset) (s : State) : State :=
  let (r, inj, s) := fetchSector sector (fget s F.tickCounter_count 0) u s
  match r with
  | .bad k => if inj then memUncorrectable (sector * 512) k none true s else loseSector sector (readFailed sector k .outside false s)
  | _ => rmwPart sector u s

/-- The sector that a write of part of `sector` would put out of a full buffer. -/
def wcVictim (s : State) (sector n : Nat) : Option Nat :=
  let l := wcGet s (ctlOf (sector * 512))
  if n < 512 ∧ l.length ≥ 256 ∧ !l.any (·.sector == sector) then (l.head?).map (·.sector) else none

/-- MEMORY_WRITE (R279 to R281, R289): bytes within one sector are accepted and acknowledged, or refused for a listed
sector; `u` is what the accesses of the part meet that the write brings about: its own, and the read-modify-write of an entry that
makes room (R284). -/
def execMemoryWrite (addr : Nat) (writer : MemWriter) (data : List Byte) (u : MemUpset) (s : State) : Result :=
  .next (
    let cls := memClass s writer.cls writer.who
    let sector := addr / 512
    let c := ctlOf addr
    if !ctlReady s addr ∨ data.isEmpty ∨ addr % 512 + data.length > 512 then s
    else if s.lost.contains sector ∧ data.length < 512 then emit .net 0x23 [addr] [] s
    else
      let s := match wcVictim s sector data.length with
        | some v => rmwSector v u (wcSet c ((wcGet s c).drop 1) s)
        | none => s
      emit .net 0x22 [addr] [] (devWriteSector addr data cls u s))

/-- WC_EVICT_TIMEOUT (R280): the least recently written entry of a controller has not been written for 4 µs. -/
def execWcEvictTimeout (ctl : Nat) (u : MemUpset) (s : State) : Result :=
  .next (match wcGet s ctl with
    | [] => s
    | e :: rest => if ctlReady s (e.sector * 512) then rmwSector e.sector u (wcSet ctl rest s) else s)

/-- CORRECTED_WRITEBACK (R285): the bank is idle and the corrected sector is written back. -/
def execCorrectedWriteback (w : WriteBack) (s : State) : Result :=
  .next (if s.wback.contains w.sector && ctlReady s (w.sector * 512) then
      partWrite w.sector w.u { s with wback := s.wback.filter (· != w.sector) }
    else s)

/-- SCRUB_READ (R288): a sector that patrol scrub finds uncorrectable is lost and its row fails; no tick spoils. -/
def execScrubRead (sector : Nat) (u : MemUpset) (s : State) : Result :=
  .next (
    let c := ctlOf (sector * 512)
    if !ctlReady s (sector * 512) ∨ s.lost.contains sector then s
    else
      let (r, inj, s) := fetchSector sector (fget s F.tickCounter_count 0) u s
      match r with
      | .bad k =>
        let s := fbump F.memcUeCount_count (ctlReg c) 1 (memcErr c 8 (sector * 512) s)
        let s := memcRecord c 8 clsInfo (sector * 512) none inj s
        if inj then s else
          let s := loseSector sector s
          if k = 3 then s else queueRepair sector s
      | _ => s)

/-! ### Retraining (R274, R275, R287) -/

/-- MIN_MEM of the slowest stack (R275). -/
def setMinMem (s : State) : State :=
  let r := ((List.range 12).map fun c => fget s F.memcStatus_rate (ctlReg c)).foldl min 3
  fset F.memStatus_minMem 0 ([0, 38, 51, 64].getD r 0) s

/-- The controllers that run at one rate with `c`: a stack alone, the fen tier as a whole. -/
def rateGroup (c : Nat) : List Nat := if c < 12 then [c] else (List.range 24).map (· + 12)

/-- MEMC_RETRAIN (R287): a channel whose access escalated retrains from the next edge on. -/
def execMemcRetrain (c : MemChan) (s : State) : Result :=
  .next (match s.retrains.find? (fun e => e.1 == c.ctl && e.2.1 == c.chan) with
    | some e => if s.edges > e.2.2 ∨ !isMember s then
        fset F.memcStatus_state (ctlReg c.ctl) 2 { s with retrains := s.retrains.erase e
                                                          training := s.training ++ [(c.ctl, c.chan)] }
      else s
    | none => s)

/-- A stack or the fen tier has failed (R287). -/
def memFailed (ctl : Nat) (s : State) : State :=
  let s := (rateGroup ctl).foldl (fun s c => fset F.memcStatus_rate (ctlReg c) 0 (fset F.memcStatus_state (ctlReg c) 3 s)) s
  let s := if ctl < 12 then fset F.memStatus_stackedReady 0 0 s else fset F.memStatus_fenReady 0 0 s
  hubFail (logErr { code := 0x0311, cls := clsHub, source := ctlNode ctl, detail := ctl } (setMinMem s))

/-- MEMC_RETRAIN_DONE (R287): the channel has trained at a rate code, 0 for none; its requests are held no longer. -/
def execMemcRetrainDone (c : MemChan) (rate : Nat) (s : State) : Result :=
  .next (
    if !s.training.contains (c.ctl, c.chan) then s
    else
    let s : State := { s with training := s.training.erase (c.ctl, c.chan) }
    if rate = 0 then memFailed c.ctl s
    else
      let old := fget s F.memcStatus_rate (ctlReg c.ctl)
      let s := if s.training.any (·.1 == c.ctl) then s else fset F.memcStatus_state (ctlReg c.ctl) 1 s
      if rate ≥ old then s
      else
        let s := setMinMem ((rateGroup c.ctl).foldl (fun s c => fset F.memcStatus_rate (ctlReg c) rate s) s)
        logErr { code := 0x0310, cls := clsDegraded, source := ctlNode c.ctl, detail := c.ctl } s)

/-! ### Row repair (R291 to R294) -/

/-- The repair table's size. -/
def repairTableSize (c : Nat) : Nat := if c < 12 then 512 else 128

/-- Row entries of a controller. -/
def rowsOf (s : State) (c : Nat) : List RowEntry := s.ledger.rows.filter (·.ctl == c)

/-- The lowest spare of a bank that no entry uses or has retired. -/
def freeSpare (s : State) (c chan bank : Nat) : Option Nat :=
  let used := (rowsOf s c).filter fun e => e.channel == chan && e.bank == bank
  (List.range (Config.spareRows c)).find? fun k => !used.any fun e => e.spare == k || e.retiredSpare == k

/-- MEMC_REPAIR follows the ledger. -/
def setRepair (c : Nat) (s : State) : State :=
  fset F.memcRepair_sparesRetired (ctlReg c) ((rowsOf s c).filter (·.retiredSpare != 0xFFFF)).length
    (fset F.memcRepair_entries (ctlReg c) (rowsOf s c).length s)

/-- Repair the row of a sector (R291). -/
def repairRow (sector : Nat) (s : State) : State :=
  let c := ctlOf (sector * 512)
  let (chan, bank, row) := rowOf sector
  let noSpare := fun (s : State) =>
    retirePage sector (memcRecord c 6 clsDegraded (sector * 512) none false (memcErr c 6 (sector * 512) s))
  let put := fun (e : RowEntry) (s : State) =>
    let rows := (s.ledger.rows.filter fun x => !x.isRow sector) ++ [e]
    setRepair c (ledgerWrite { s with ledger := { s.ledger with rows := rows } })
  match (rowsOf s c).find? (·.isRow sector), freeSpare s c chan bank with
  | none, some k => if (rowsOf s c).length ≥ repairTableSize c then noSpare s else put ⟨c, 1, 1, chan, bank, row, k, 0xFFFF⟩ s
  | none, none => noSpare s
  | some e, k => if e.fails ≥ 2 then retirePage sector s
    else match k with
      | some k => if (rowsOf s c).length ≥ repairTableSize c then noSpare s
        else put { e with fails := 2, spare := k, retiredSpare := e.spare } s
      | none => noSpare s

/-- ROW_REPAIR (R291): at most one queued repair of a controller at each edge; a repair starts at the edge that follows its queuing. -/
def execRowRepair (ctl : Nat) (s : State) : Result :=
  .next (match s.repairs.find? (fun q => ctlOf (q.1 * 512) == ctl) with
    | none => s
    | some q =>
      if Map.get? s.repairedAt ctl = some s.edges ∨ (s.edges ≤ q.2 ∧ isMember s) then s
      else repairRow q.1 (setQueued ctl { s with repairs := s.repairs.erase q, repairedAt := Map.set s.repairedAt ctl s.edges }))

/-- The bytes of a row entry (R293). -/
def RowEntry.bytes (e : RowEntry) : List Byte :=
  leBytes 1 e.state ++ leBytes 1 e.fails ++ leBytes 1 e.channel ++ leBytes 1 e.bank ++ leBytes 4 e.row ++ leBytes 2 e.spare
    ++ leBytes 2 e.retiredSpare ++ leBytes 4 0

/-- The row table of a controller in a ledger: its entries, then free ones (R293). -/
def ledgerTable (l : Ledger) (c : Nat) : List Byte :=
  padTo (repairTableSize c * 16) 0 ((l.rows.filter (·.ctl == c)).flatMap RowEntry.bytes)

/-- The ledger's entry for a retired page: its address bits [47:16], with the valid bit in bit 0 (R293). -/
def pageEntry (page : Nat) : List Byte := leBytes 8 (page * 65536 + 1)

/-- What a copy of the ledger holds before its tag (R293): header, row entries, retired pages; the places in the header are log
entry 95's. -/
def ledgerBytes (l : Ledger) (serial : Nat) : List Byte :=
  padTo 64 0 (leBytes 2 1 ++ leBytes 8 l.seq ++ leBytes 8 serial ++ leBytes 4 l.rows.length ++ leBytes 4 l.pages.length)
    ++ (List.range 36).flatMap (ledgerTable l) ++ padTo (4096 * 8) 0 (l.pages.flatMap pageEntry)

/-- A copy as the hub writes it: under its serial number and its ledger key (R293). -/
def ledgerCopy (l : Ledger) : LedgerCopy :=
  { ledger := l, serial := Config.serial, tag := Config.ledgerMac (ledgerBytes l Config.serial) }

/-- A copy authenticates: it is this die's, and its tag is that of its contents (R293, R294). -/
def LedgerCopy.ok (c : LedgerCopy) : Bool :=
  c.serial == Config.serial && c.tag == Config.ledgerMac (ledgerBytes c.ledger c.serial)

/-- A ledger copy has been written (R292, R294): its pages are reported, and a change made meanwhile is written in turn. -/
def ledgerDone (s : State) : State :=
  match s.ledgerBusy with
  | none => s
  | some l =>
    let seqOf := fun (o : Option LedgerCopy) => match o with | some k => k.ledger.seq | none => 0
    let s := if seqOf s.ledgerA ≤ seqOf s.ledgerB then { s with ledgerA := some (ledgerCopy l), ledgerBusy := none }
             else { s with ledgerB := some (ledgerCopy l), ledgerBusy := none }
    let done := s.pageReports.filter fun e => l.pages.contains e.1
    let s := done.foldl (fun s e => reportPage e.2 s) { s with pageReports := s.pageReports.filter fun e => !l.pages.contains e.1 }
    if s.ledgerDirty then ledgerWrite s else s

/-! ### Clearing between tenants (R300 to R304) -/

/-- MEM_CLEAR register (R304). -/
def writeMemClear (v : Word) (s : State) : State :=
  let p := bitsAt v.toNat 0 8
  let s := fset F.memClear_partition 0 p s
  if !v.getLsbD 8 then s
  else if fon s F.memStatus_clearing 0 then logErr { code := 0x0C0A, cls := clsRefused, part := some p } s
  else clearBegin p s

/-- MEM_CLEAR_START: a write with START = 1. -/
def execMemClearStart (v : Word) (s : State) : Result := .next (if v.getLsbD 8 then writeMemClear v s else s)

/-- MEM_CLEAR (R300, R476): BUSY while a clear runs. -/
def execMemClear (cmd : Nat) (s : State) : Result :=
  .next (startOp 0x0206 (fun c s =>
    let p := bitsAt c.pkt.w1 0 8
    if fon s F.memStatus_clearing 0 then (.st 0x05, s)
    else (.wait (.clear p), clearBegin p s)) cmd s)

/-- RETIRED_PAGES (R292, R476): entries from the first index on, up to the end of the destination or of the list. -/
def execRetiredPages (cmd : Nat) (s : State) : Result :=
  .next (startOp 0x0207 (fun c s =>
    let p := (ctxGet s c.pkt.ctx).part
    let n := orefRoom s p c.pkt.w1 / 8
    let l := (s.ledger.pages.drop c.pkt.w2).take n
    match orefRange s p c.pkt.w1 0 with
    | .error e => (.st e, s)
    | .ok (x, va) =>
      if !vaWritable s x va (8 * l.length) then (.st 0x02, s)
      else (.done 0 l.length s.ledger.pages.length [], vaWrite x va (l.flatMap pageEntry) s)) cmd s)

end Sys2Proof.Machine
end

