-- ==== Sys2Proof/Machine/Route.lean ====
section
/-! DEFINITION. Machine/Route.lean: the topology of the hub network and the way a packet takes through it (R310, R311, R316,
R317, R323). Directions, and the input ports from them, are 0 north, 1 east, 2 south, 3 west; port 4 is local; attachments or
crossings follow in ascending number (R315). -/
namespace Sys2Proof.Machine

/-- A router that a packet passes: its field and node, the input port it comes in by, and the crossing it came over, by the
register instance of R349. -/
structure NetHop where
  field : Nat
  node : Nat
  inPort : Nat
  cross : Option Nat := none
  deriving DecidableEq, Repr

/-- The node number of an edge router (R311). -/
def edgeNode (side idx : Nat) : Nat := 64 + side * 8 + idx

/-- Does a side of a field face another field (R310, R316)? -/
def hasSeam (field side : Nat) : Bool := match side with
  | 0 => decide (3 ≤ field)
  | 1 => decide (field % 3 < 2)
  | 2 => decide (field < 6)
  | _ => decide (0 < field % 3)

/-- The input port of attachment `u` of an edge router: behind its two crossings where it faces another field. -/
def attachPort (field side u : Nat) : Nat := if hasSeam field side then 7 else 5 + u

/-- Where a packet starts or ends: the mesh node, in hub coordinates, and the routers beyond it, going out; `home` is the input
port by which a packet of the unit itself enters the last of them, or the mesh node. -/
structure Spot where
  x : Nat
  y : Nat
  beyond : List NetHop := []
  inward : List NetHop := []
  inMesh : Nat := 4
  deriving DecidableEq, Repr

/-- The router of a mesh position. -/
def meshHop (x y inPort : Nat) : NetHop := { field := y / 8 * 3 + x / 8, node := y % 8 * 8 + x % 8, inPort := inPort }

/-- The mesh node beside an edge router. -/
def besideEdge (field side idx : Nat) : Nat × Nat :=
  let x := 8 * (field % 3)
  let y := 8 * (field / 3)
  match side with
  | 0 => (x + idx, y)
  | 1 => (x + 7, y + idx)
  | 2 => (x + idx, y + 7)
  | _ => (x, y + idx)

/-- The place of a spare bay `k` of a field (R21, R310): beyond the west edge router of mesh row 3 + `k`. -/
def spareSpot (field k : Nat) : Spot :=
  let (x, y) := besideEdge field 3 (3 + k)
  { x := x, y := y, inMesh := 3
    beyond := [⟨field, edgeNode 3 (3 + k), 1, none⟩, ⟨field, 96 + k, 1, none⟩]
    inward := [⟨field, 96 + k, 4, none⟩, ⟨field, edgeNode 3 (3 + k), 3, none⟩] }

/-- The place of a node identifier (R311): a logical bay stands where the defect map puts it. -/
def spotOf (s : State) (id : Nat) : Option Spot :=
  let f := bitsAt id 0 4
  let n := bitsAt id 4 7
  if f ≥ 9 then none
  else if n < 64 then
    let b := Map.get s.bayMap n (f * 64 + n)
    if b = 64 ∨ b = 65 then some (spareSpot f (b - 64)) else some { x := 8 * (f % 3) + n % 8, y := 8 * (f / 3) + n / 8 }
  else if n < 96 then
    let side := (n - 64) / 8
    let (x, y) := besideEdge f side (n % 8)
    some { x := x, y := y, inMesh := side
           beyond := [⟨f, n, (side + 2) % 4, none⟩]
           inward := [⟨f, n, attachPort f side (bitsAt id 11 5), none⟩] }
  else if n < 98 then some (spareSpot f (n - 96)) else none

/-- The next mesh position in a direction. -/
def move (dir x y : Nat) : Nat × Nat := match dir with
  | 0 => (x, y - 1)
  | 1 => (x + 1, y)
  | 2 => (x, y + 1)
  | _ => (x - 1, y)

/-- The register instance of crossing `k` at a field's edge (R349): a seam's crossings stand with the field west or north of it. -/
def crossingAt (field dir idx k : Nat) : Nat := match dir with
  | 0 => (field - 3) * 32 + 16 + 2 * idx + k
  | 1 => field * 32 + 2 * idx + k
  | 2 => field * 32 + 16 + 2 * idx + k
  | _ => (field - 1) * 32 + 2 * idx + k

/-- The crossing a packet takes (R317, R323): the one its parity names, the other where that one is disabled. -/
def crossingFor (s : State) (field dir idx k : Nat) : Option Nat :=
  if fget s F.scarfStatus_state (crossingAt field dir idx k) ≠ 2 then some k
  else if fget s F.scarfStatus_state (crossingAt field dir idx (1 - k)) ≠ 2 then some (1 - k)
  else none

/-- The routers entered in one step (R316): across a seam, through both facing edge routers. -/
def stepHops (s : State) (k dir x y : Nat) : Option (List NetHop) :=
  let (x', y') := move dir x y
  let here := meshHop x y 0
  let next := meshHop x' y' ((dir + 2) % 4)
  if here.field = next.field then some [next]
  else
    let idx := if dir % 2 = 1 then y % 8 else x % 8
    (crossingFor s here.field dir idx k).map fun j =>
      [⟨here.field, edgeNode dir idx, (dir + 2) % 4, none⟩,
       ⟨next.field, edgeNode ((dir + 2) % 4) idx, 5 + j, some (crossingAt here.field dir idx j)⟩, next]

/-- The routers entered in `n` steps of one direction. -/
def walkHops (s : State) (k dir : Nat) : Nat → Nat → Nat → Option (List NetHop)
  | 0, _, _ => some []
  | n + 1, x, y => match stepHops s k dir x y, walkHops s k dir n (move dir x y).1 (move dir x y).2 with
    | some a, some b => some (a ++ b)
    | _, _ => none

/-- The parity that chooses crossings (R317). -/
def crossParity (addr src : Nat) : Nat := ((bitList 8 (bitsAt addr 6 8)).length + (bitList 7 (bitsAt src 4 7)).length) % 2

/-- The routers a packet passes from one node to another: along the row, then along the column (R316). None where a node does not
exist, or both crossings of an edge router on the way are disabled. -/
def route (s : State) (src dst addr : Nat) : Option (List NetHop) := match spotOf s src, spotOf s dst with
  | some a, some b =>
    let k := crossParity addr src
    let start := a.inward ++ [meshHop a.x a.y a.inMesh]
    match walkHops s k (if a.x ≤ b.x then 1 else 3) (b.x - a.x + (a.x - b.x)) a.x a.y,
          walkHops s k (if a.y ≤ b.y then 2 else 0) (b.y - a.y + (a.y - b.y)) b.x a.y with
    | some r, some c => some (start ++ r ++ c ++ b.beyond)
    | _, _ => none
  | _, _ => none

end Sys2Proof.Machine
end

