-- ==== Sys2Proof/Machine/Net.lean ====
section
/-! DEFINITION. Machine/Net.lean: the hub network (R310 to R327) as its packets' journeys show it: probes and traces (R343 to
R348), the checks on the way (R318, R319), credits (R325, R326), bays in reset (R324), outstanding requests (R319), and
scarf crossings (R321 to R323). -/
namespace Sys2Proof.Machine

/-! ### Packets -/

/-- The virtual channel of a type (R314), if it is a type at all. -/
def netVc (ty : Nat) : Option Nat :=
  if ty = 0x01 ∨ ty = 0x03 ∨ ty = 0x05 ∨ (0x30 ≤ ty ∧ ty ≤ 0x36) then some 3
  else if ty = 0x02 ∨ ty = 0x04 ∨ ty = 0x07 ∨ (0x3C ≤ ty ∧ ty ≤ 0x42) then some 1
  else if 0x38 ≤ ty ∧ ty ≤ 0x3A then some 2
  else if (0x10 ≤ ty ∧ ty ≤ 0x2F) ∨ ty = 0x50 then some 0
  else none

/-- Flits of a packet (R312): a read carries no data lines. -/
def netFlits (p : NetPkt) : Nat := max 1 ((p.data.length / 64 + 3) / 4)

/-- The partition a packet works for. -/
def netWho (p : NetPkt) : Option Nat := if p.hubu then none else some p.part

/-- Header bytes [19:0] (R313). -/
def netHeader (p : NetPkt) (ty : Nat) : List Byte :=
  let flags := bit01 p.urgent + 2 * (p.cls % 8) + 16 * bit01 p.alloc + 32 * bit01 p.coh + 64 * bit01 p.hubu
  leBytes 1 ty ++ leBytes 1 flags ++ leBytes 1 p.lines ++ leBytes 1 p.part ++ leBytes 2 p.dst ++ leBytes 2 p.src
    ++ leBytes 2 p.tag ++ leBytes 1 p.dstHub ++ leBytes 1 p.status ++ leBytes 6 p.addr ++ leBytes 1 p.agent ++ leBytes 1 0

/-- The whole packet as its source sends it (R313): the header with byte enables and CRC-32C, then the data lines. -/
def netPacket (ty : Nat) (p : NetPkt) : List Byte :=
  let lines := padTo (p.lines * 64) 0 p.data
  let head := netHeader p ty ++ leBytes 8 (if ty = 0x03 ∧ p.lines = 1 then p.mask else 2 ^ 64 - 1)
  head ++ leBytes 4 (crc32c (head ++ lines)) ++ lines

/-- Data lines that hold some bytes. -/
def lineCount (data : List Byte) : Nat := (data.length + 63) / 64

/-- A packet of a unit of this hub. -/
def netPkt (s : State) (part : Option Nat) (cls src dst tag status addr agent : Nat) (data : List Byte) : NetPkt :=
  { cls := cls, hubu := part.isNone, lines := lineCount data, part := part.getD 0, dst := dst, src := src, tag := tag
    dstHub := hubId s, status := status, addr := addr, agent := agent, data := data }

/-- The unit a node identifier names (R311). -/
def nodeUnit (n : Nat) : Nat := bitsAt n 11 5
/-- Its bay, as field × 64 + bay, for a logical bay. -/
def nodeBay (n : Nat) : Option Nat :=
  if bitsAt n 4 7 < 64 ∧ bitsAt n 0 4 < 9 then some (bitsAt n 0 4 * 64 + bitsAt n 4 7) else none
/-- Its tile, if it names one. -/
def nodeTile (n : Nat) : Option Nat := match nodeBay n with
  | some b => if nodeUnit n < 8 then some (b * 8 + nodeUnit n) else none
  | none => none

/-! ### Probes and traces (R343 to R348) -/

/-- Does a filter match a packet that leaves router `i`, given the filter's and the range's registers. -/
def prbMatches (s : State) (ty inPort : Nat) (p : NetPkt) (filt addr : Nat) : Bool :=
  bitOn filt 0
    && (!bitOn filt 14 || bitsAt filt 11 3 == inPort)
    && (!bitOn filt 10 || (!p.hubu && bitsAt filt 2 8 == p.part))
    && bitOn (bitsAt filt 15 8) p.cls
    && (!bitOn filt 23 || p.urgent)
    && (ty &&& bitsAt filt 32 8) == (bitsAt filt 24 8 &&& bitsAt filt 32 8)
    && (!bitOn addr 54 || (decide (bitsAt addr 0 27 ≤ p.addr / 2 ^ 21) && decide (p.addr / 2 ^ 21 ≤ bitsAt addr 27 27)))
    && (p.hubu || !confidential s p.part)

/-- Record a packet in a field's trace buffer; `crowded` that four records of that cycle stand there (R344). -/
def traceRecord (ty : Nat) (crowded : Bool) (h : NetHop) (p : NetPkt) (s : State) : State :=
  let f := h.field
  if !fon s F.trcCtrl_arm f ∨ (fon s F.trcCtrl_full f ∧ !fon s F.trcCtrl_wrap f) then s
  else if crowded then fbump F.trcCtrl_dropped f 1 s
  else
    let w := fget s F.trcCtrl_wrptr f
    let cycles := leBytes 8 (Config.freeWord s.fresh).toNat
    let rec32 := netHeader p ty ++ leBytes 2 (f + h.node * 16) ++ leBytes 1 h.inPort ++ leBytes 1 0 ++ cycles
    let s := tickFresh { s with traces := Map.set s.traces (f * 2048 + w) rec32 }
    let s := fset F.trcCtrl_wrptr f ((w + 1) % 2048) s
    if w = 2047 then fset F.trcCtrl_full f 1 s else s

/-- A packet leaves a router: flits, filters and trace. -/
def leaveRouter (ty : Nat) (p : NetPkt) (crowded : Bool) (s : State) (h : NetHop) : State :=
  let i := h.field * 98 + h.node
  let s := perfCountNet h.field p s
  let a := prbMatches s ty h.inPort p (rget s .prbFiltA i).toNat (rget s .prbAddrA i).toNat
  let b := prbMatches s ty h.inPort p (rget s .prbFiltB i).toNat (rget s .prbAddrB i).toNat
  let s := if a then fwrap F.prbFlitsA_count F.prbFlitsA_ovf i (netFlits p) (fwrap F.prbPktsA_count F.prbPktsA_ovf i 1 s) else s
  let s := if b then fwrap F.prbFlitsB_count F.prbFlitsB_ovf i (netFlits p) (fwrap F.prbPktsB_count F.prbPktsB_ovf i 1 s) else s
  if a && fon s F.prbFiltA_trace i then traceRecord ty crowded h p s else s
where
  /-- Event 0x0B of R588. -/
  perfCountNet (f : Nat) (p : NetPkt) (s : State) : State :=
    if p.hubu then perfCountHub 0x0B f (netFlits p) s else perfCount 0x0B f p.part (netFlits p) s

/-- A packet leaves the routers of its way, in order. -/
def leaveRouters (ty : Nat) (a : NetArr) (path : List NetHop) (s : State) : State :=
  path.zipIdx.foldl (fun s e => leaveRouter ty a.pkt (a.crowded.contains e.2) s e.1) s

/-- TRC_CTRL_ARM: a write of TRC_CTRL; ARM = 1 starts a new recording (R348). -/
def writeTrcCtrl (field : Nat) (v : Word) (s : State) : State :=
  let s := fset F.trcCtrl_wrap field (bitsAt v.toNat 1 1) (fset F.trcCtrl_arm field (bitsAt v.toNat 0 1) s)
  if bitOn v.toNat 0 then fset F.trcCtrl_full field 0 (fset F.trcCtrl_wrptr field 0 s) else s

/-- TRC_CTRL_ARM. -/
def execTrcCtrlArm (field : Nat) (v : Word) (s : State) : Result := .next (writeTrcCtrl field v s)

/-- A write of filter A (or B) of router `i`; taking ENABLE from 0 to 1 clears both counts (R343). -/
def writePrbFilt (b : Bool) (i : Nat) (v : Word) (s : State) : State :=
  let r : RegName := if b then .prbFiltB else .prbFiltA
  let rises := bitOn v.toNat 0 && !(rget s r i).getLsbD 0
  let s := rset s r i (BitVec.ofNat 64 (bitsAt v.toNat 0 40))
  if !rises then s
  else if b then fset F.prbFlitsB_count i 0 (fset F.prbPktsB_count i 0 s)
  else fset F.prbFlitsA_count i 0 (fset F.prbPktsA_count i 0 s)

/-- PRB_FILTER_ENABLE. -/
def execPrbFilterEnable (b : Bool) (router : Nat) (v : Word) (s : State) : Result :=
  .next (if router < 882 then writePrbFilt b router v s else s)

/-! ### The class of a request (R328) -/

/-- The class a unit's interface gives a request (R328): C0 at hub level; a tile's own; a walker's for the batch entry it serves;
that of the command a mover carries out; each replaced where the partition does not allow it. -/
def unitClass (s : State) (p : NetPkt) : Nat :=
  if p.hubu then 0
  else match nodeTile p.src, nodeBay p.src with
    | some t, _ => classFor s p.part (tileGet s t).cls
    | none, some b =>
      if nodeUnit p.src = 8 then match (bayGet s b).owed with
        | d :: _ => kvWalkClass s p.part d.entry
        | [] => classFor s p.part p.cls
      else if nodeUnit p.src = 9 then match s.cmds.find? (fun c => c.step == .running && c.id % 65536 == p.tag) with
        | some c => moverClass s c
        | none => classFor s p.part p.cls
      else classFor s p.part p.cls
    | none, none => classFor s p.part p.cls

/-- A request packet as it leaves its requester's interface. -/
def netClassed (s : State) (a : NetArr) : NetArr := { a with pkt := { a.pkt with cls := unitClass s a.pkt } }

/-! ### Outstanding requests (R319, R320) -/

/-- A unit has issued a request. -/
def netOpen (p : NetPkt) (write : Bool) (s : State) : State :=
  if s.netReqs.any (fun r => r.src == p.src && r.tag == p.tag) then s
  else { s with netReqs := s.netReqs ++ [{ src := p.src, tag := p.tag, part := netWho p, addr := p.addr, write := write
                                           dst := p.dst, cls := p.cls, urgent := p.urgent }] }

/-- Is a request of a unit outstanding. -/
def netWaits (s : State) (src tag : Nat) : Option NetReq := s.netReqs.find? fun r => r.src == src && r.tag == tag

/-- A request ends. -/
def netClose (src tag : Nat) (s : State) : State :=
  { s with netReqs := s.netReqs.filter fun r => !(r.src == src && r.tag == tag) }

/-- Change a request. -/
def netMod (src tag : Nat) (f : NetReq → NetReq) (s : State) : State :=
  { s with netReqs := s.netReqs.map fun r => if r.src == src && r.tag == tag then f r else r }

/-- Has the target dropped a request, or its requester given up (R319)? -/
def netGone (s : State) (src tag : Nat) : Bool := match netWaits s src tag with
  | some r => r.dropped
  | none => true

/-- The answer of type `ty` to an outstanding request leaves its target: the request's class, partition and tag, its source and
destination exchanged. One that has been dropped, or given up, is not answered (R319). -/
def netAnswer (ty src tag status : Nat) (data : List Byte) (s : State) : State := match netWaits s src tag with
  | none => s
  | some r =>
    if r.dropped then s
    else
      let p := { netPkt s r.part r.cls r.dst src tag status r.addr 0xFF data with urgent := r.urgent }
      emit .net ty [src, r.dst, tag, status] (netPacket ty p) (netMod src tag (fun r => { r with answered := true }) s)

/-- ERR_RSP of a router to a request that it holds in full. -/
def netErr (p : NetPkt) (status : Nat) (s : State) : State :=
  emit .net 0x07 [p.src, p.dst, p.tag, status]
    (netPacket 0x07 { netPkt s (netWho p) p.cls p.dst p.src p.tag status p.addr 0xFF [] with urgent := p.urgent })
    (netMod p.src p.tag (fun r => { r with answered := true }) s)

/-! ### Checks (R318, R319, R324) -/

/-- Spoil every enabled partition that has a tick in progress. -/
def spoilAll (src : SpoilSrc) (injected : Bool) (s : State) : State :=
  (List.map (·.1) s.parts).foldl (fun s p => if (partGet s p).enabled then spoil p src injected s else s) s

/-- The spoil source of a network link, named by its router. -/
def netLink (h : NetHop) : SpoilSrc := .link (0x10000 + h.field + h.node * 16)

/-- Is a type a response (R314). -/
def isResponse (ty : Nat) : Bool := netVc ty == some 1

/-- An uncorrectable word discards the packet at a router (R318). -/
def badWordAt (ty : Nat) (h : NetHop) (header injected : Bool) (p : NetPkt) (s : State) : State :=
  let src := h.field + h.node * 16
  if header then
    logErr { code := 0x0402, cls := clsSpoil, source := src, injected := injected } (spoilAll (netLink h) injected s)
  else
    let s := match netWho p with
      | some q => spoil q (netLink h) injected s
      | none => s
    let s := logErr { code := 0x0401, cls := clsSpoil, part := netWho p, source := src, injected := injected } s
    let dst := if isResponse ty then p.dst else p.src
    emit .net 0x07 [dst, src, p.tag, 6]
      (netPacket 0x07 { netPkt s (netWho p) p.cls src dst p.tag 6 p.addr 0xFF [] with urgent := p.urgent }) s

/-- The credits one virtual channel of an input port holds (R325). -/
def vcCredits (vc : Nat) : Nat := [4, 16, 8, 16].getD vc 0
/-- The key of the credits in use toward a router's input port; port 15 is the interface behind a bay's local port. -/
def creditKey (field node port vc : Nat) : Nat := ((field * 128 + node) * 16 + port) * 4 + vc

/-- Is the destination's bay in reset (R324)? -/
def dstInReset (s : State) (p : NetPkt) : Bool := match nodeBay p.dst with
  | some b => s.netReset.contains b
  | none => false

/-- The buffers a packet takes up on its way (R325, R326): each router's input port, and behind the last router's local port the
interface of a bay that is not in reset. -/
def creditKeys (s : State) (vc : Nat) (p : NetPkt) (path : List NetHop) : List Nat :=
  path.map (fun h => creditKey h.field h.node h.inPort vc) ++ match path.getLast? with
    | some h => if (nodeBay p.dst).isSome && !dstInReset s p then [creditKey h.field h.node 15 vc] else []
    | none => []

/-- Does every hop hold credits for the whole packet, and no crossing on the way retrain (R322, R325)? -/
def canMove (s : State) (vc : Nat) (p : NetPkt) (path : List NetHop) : Bool :=
  (creditKeys s vc p path).all (fun k => decide (Map.get s.netUsed 0 k + netFlits p ≤ vcCredits vc))
    && path.all fun h => match h.cross with | some c => fget s F.scarfStatus_state c != 1 | none => true

/-- Spend credits along a way. -/
def spendCredits (vc : Nat) (p : NetPkt) (path : List NetHop) (s : State) : State :=
  (creditKeys s vc p path).foldl (fun s k => { s with netUsed := Map.set s.netUsed k (Map.get s.netUsed 0 k + netFlits p) }) s

/-- The first router of a path on which an armed flit injection falls (R598). -/
def flitInjected (s : State) (path : List NetHop) (tick : Nat) : Option (Nat × NetHop) :=
  (path.zipIdx.find? fun e => injectHit s 5 (e.1.field * 128 + e.1.node) tick).map fun e => (e.2, e.1)

/-- The router that a packet enters first (R316): the one its source attaches to. -/
def firstRouter (s : State) (id : Nat) : Nat := match spotOf s id with
  | some a => match a.inward ++ [meshHop a.x a.y a.inMesh] with
    | h :: _ => h.field + h.node * 16
    | [] => 0xFFFF
  | none => 0xFFFF

/-- A packet of type `ty` makes its journey (R316) and reaches its destination, where `f` acts on it. A packet without credits or
without a way does not move; one of an undefined type is dropped at the first router (R314); an uncorrectable word discards it
(R318); one whose CRC fails is discarded and spoils (R319); a bay in reset has its router answer (R324). -/
def netArrive (ty : Nat) (a : NetArr) (f : NetPkt → State → State) (s : State) : State :=
  let p := a.pkt
  let vc := (netVc ty).getD 0
  match p.badType, route s p.src p.dst p.addr with
  | some t, _ =>
    if (netVc t).isSome then s
    else logErr { code := 0x0406, cls := clsInfo, detail := t, source := firstRouter s p.src } s
  | none, none => s
  | none, some path =>
    if !canMove s vc p path then s
    else
      let tick := match netWho p with | some q => tickOf s q | none => fget s F.tickCounter_count 0
      let inj := flitInjected s path tick
      let ue := fon s F.tpInject_ue 0
      let s := if inj.isSome then injectUse tick s else s
      let bad := match inj, a.badWord with
        | some (i, _), _ => if ue then some (i, false, true) else none
        | none, some (i, h) => some (i, h, false)
        | none, none => none
      match bad with
      | some (i, header, injected) =>
        let s := leaveRouters ty a (path.take i) s
        match path[i]? with
        | some h => badWordAt ty h header injected p s
        | none => s
      | none =>
        let s := spendCredits vc p path (leaveRouters ty a path s)
        if dstInReset s p then (if isResponse ty then s else if ty = 0x50 then s else netErr p 4 s)
        else if !a.crcOk then
          logErr { code := 0x0403, cls := clsSpoil, source := p.dst } (spoilAll (.link (0x20000 + p.dst)) false s)
        else f p s

/-- NET_CREDIT_RETURN (R321, R325, R326): flits of one virtual channel leave a router's input port; across a crossing that is
retraining the count is frozen. `crossing` names the crossing of an edge router over which the credits go, whose input port is 5 plus
its number, in place of the port. -/
def execNetCreditReturn (field node port vc flits : Nat) (crossing : Option Nat) (s : State) : Result :=
  .next (
    let port := match crossing with | some k => 5 + k | none => port
    let k := creditKey field node port vc
    let side := (node - 64) / 8
    if 64 ≤ node ∧ node < 96 ∧ hasSeam field side ∧ (port = 5 ∨ port = 6)
        ∧ fget s F.scarfStatus_state (crossingAt field side (node % 8) (port - 5)) = 1 then s
    else
      let n := Map.get s.netUsed 0 k - flits
      { s with netUsed := if n = 0 then Map.erase s.netUsed k else Map.set s.netUsed k n })

/-- NET_INTERFACE_READY (R324): a bay's interface leaves reset and its local port has its full credits; a reset that waited for
it completes (R557). -/
def execNetInterfaceReady (bay : Nat) (s : State) : Result :=
  .next (if s.netReset.contains bay then
      let node := match Map.get? s.bayMap bay with | some 64 => 96 | some 65 => 97 | _ => bay % 64
      sweep { s with netReset := s.netReset.filter (· != bay)
                     netUsed := Map.keep s.netUsed fun k => decide (k / 4 % 16 ≠ 15 ∨ k / 64 ≠ bay / 64 * 128 + node) }
    else s)

/-- Does a unit's request wait for an answer, itself or as the access of which this is a piece? -/
def askerIs (s : State) (src tag : Nat) (w : Asker) : Bool := match w with
  | .piece id _ => s.joins.any fun j => j.id == id && j.who == .unit src tag
  | _ => w == .unit src tag

/-- Is a home's request that of a unit, by its own packet or through its access? -/
def cohIsOf (s : State) (src tag : Nat) (q : CohReq) : Bool := match q.who with
  | some w => askerIs s src tag w
  | none => q.src == src && q.tag == tag

/-- TARGET_DEADLINE (R319): the target has not answered within 1 ms and drops the request; a line that snoops for it stays busy until
they are answered. -/
def execTargetDeadline (src tag : Nat) (s : State) : Result :=
  .next (match netWaits s src tag with
    | some r =>
      if r.answered ∨ r.dropped then s
      else
        let drop := fun (t : CohTxn) => match t.goal with
          | .serve q => if cohIsOf s src tag q && t.ack.isNone then { t with goal := .drop } else t
          | .drop => t
        let cut := fun (l : Slice) => { l with queue := l.queue.filter (fun q => !cohIsOf s src tag q), txns := l.txns.map drop }
        netMod src tag (fun r => { r with dropped := true }) 
          { s with slices := List.map (fun e => (e.1, cut e.2)) s.slices, joins := s.joins.filter fun j => j.who != .unit src tag }
    | none => s)

/-- SLUICE_AGE_PROMOTE (R330): a request that has waited 16 µs rises to the second level. -/
def execSluiceAgePromote (r : AgedReq) (s : State) : Result :=
  .next (match r with
    | .idoon k i => match (idnGet s k).waiting[i]? with
      | some p => idnMod k (fun q => { q with aged := if q.aged.contains p then q.aged else q.aged ++ [p] }) s
      | none => s
    | .site n i => siteMod n (fun v => { v with waiting := v.waiting.zipIdx.map fun e => if e.2 = i then { e.1 with aged := true } else e.1 }) s
    | .net src tag => netMod src tag (fun r => { r with aged := true }) s)

/-! ### Scarf crossings (R322, R323, R349) -/

/-- A crossing of a field is disabled: the other of its edge router carries its traffic, or, if that one is disabled too, the
hub fails (R323). -/
def scarfDisable (field c : Nat) (s : State) : State :=
  let s := fset F.scarfStatus_state (field * 32 + c) 2 s
  if fget s F.scarfStatus_state (field * 32 + (c ^^^ 1)) = 2 then
    hubFail (logErr { code := 0x0405, cls := 6, detail := field * 32 + c } s)
  else logErr { code := 0x0404, cls := clsDegraded, detail := field * 32 + c } s

/-- SCARF_QUICK_RETRAIN (R322): an uncorrectable word, or too many corrected ones from one wire; corrected words are counted. -/
def execScarfQuickRetrain (field crossing corrected : Nat) (s : State) : Result :=
  .next (
    let i := field * 32 + crossing
    if field ≥ 9 ∨ crossing ≥ 32 then s
    else
      let s := fbump F.scarfCeCount_count i corrected s
      if fget s F.scarfStatus_state i = 0 then fbump F.scarfStatus_retrains i 1 (fset F.scarfStatus_state i 1 s) else s)

/-- SCARF_RETRAIN_DONE (R321, R322): at the bridge of one direction (`bridge.back`: inbound to the field) a spare takes the failing wire's
place; a retrain that fails or finds none of the bridge's 32 left disables the crossing, and the packets whose flits it held
(`lost`, with their types) are handled as uncorrectable words. -/
def execScarfRetrainDone (field : Nat) (bridge : Bridge) (ok : Bool) (lost : List (Nat × NetPkt)) (s : State) : Result :=
  .next (
    let i := field * 32 + bridge.crossing
    let k := i * 2 + bit01 bridge.back
    if field ≥ 9 ∨ bridge.crossing ≥ 32 ∨ fget s F.scarfStatus_state i ≠ 1 then s
    else if ok ∧ Map.get s.bridgeSpares 0 k < 32 then
      fset F.scarfStatus_state i 0 (fbump F.scarfStatus_sparesUsed i 1
        { s with bridgeSpares := Map.set s.bridgeSpares k (Map.get s.bridgeSpares 0 k + 1) })
    else
      let h : NetHop := { field := field, node := if bridge.crossing < 16 then edgeNode 1 (bridge.crossing / 2) else edgeNode 2 ((bridge.crossing - 16) / 2), inPort := 0 }
      scarfDisable field bridge.crossing (lost.foldl (fun s e => badWordAt e.1 h false false e.2 s) s))

end Sys2Proof.Machine
end

