-- ==== Sys2Proof/Machine/Coh.lean ====
section
/-! DEFINITION. Machine/Coh.lean: the homes of the directory protocol (R333 to R342, R353, R354): what a home slice does with
requests, answers and grants. The agents' side stands in Agents.lean. -/
namespace Sys2Proof.Machine

/-! ### Ranges and homes -/

/-- Is a partition's interface CONFIG_LOCKED or RUN (R514). -/
def partLocked (s : State) (p : Nat) : Bool := let t := fget s F.partSec_tdisp p; t == 1 || t == 2

/-- Does range `i` hold a line. -/
def rangeHolds (s : State) (i line : Nat) : Bool :=
  let u := line / 2 ^ 15
  decide (fget s F.cohRangeAddr_base i ≤ u) && decide (u ≤ fget s F.cohRangeAddr_limit i)

/-- The range that governs a line: the lowest-numbered enabled one (R334). -/
def rangeOf (s : State) (line : Nat) : Option Nat :=
  (List.range 16).find? fun i => fon s F.cohRange_enable i && rangeHolds s i line

/-- Is a line in a range whose flush is in progress. -/
def lineFlushing (s : State) (line : Nat) : Bool :=
  (List.range 16).any fun i => fon s F.cohRange_flushing i && rangeHolds s i line

/-- Is a line of device memory coherent. -/
def isCoherent (s : State) (addr : Nat) : Bool := (rangeOf s (addr / 64)).isSome

/-- The home slice of a line (R335). -/
def homeOf (line : Nat) : Nat := crc32c (leBytes 8 line) % 2304

/-- The node identifier of a slice. -/
def sliceNode (sl : Nat) : Nat := bayNode (sl / 256 * 64 + sl % 256 / 4) (10 + sl % 4)

/-- Pages of 2 MiB that a range spans. -/
def rangePages (s : State) (i : Nat) : Nat := fget s F.cohRangeAddr_limit i + 1 - fget s F.cohRangeAddr_base i
/-- Do a range's host bits stand (R420): at most 4,096 pages, not of a confidential partition. -/
def hostRangeOk (s : State) (i : Nat) : Bool := decide (rangePages s i ≤ 4096) && !confidential s (fget s F.cohRange_partition i)
/-- The AGENTS mask in force: a range that breaks R420 acts as if its host bits were clear. -/
def rangeAgents (s : State) (i : Nat) : Nat :=
  if hostRangeOk s i then fget s F.cohRange_agents i else fget s F.cohRange_agents i % 2 ^ 13
/-- Is a range host-shared. -/
def hostShared (s : State) (i : Nat) : Bool := fon s F.cohRange_enable i && decide (rangeAgents s i ≥ 2 ^ 13)
/-- The page of a line in its range. -/
def rangePage (s : State) (i line : Nat) : Nat := line / 2 ^ 15 - fget s F.cohRangeAddr_base i
/-- Set the bias bit of a page: 0 DEVICE, 1 SHARED (R441). -/
def setBias (i page v : Nat) (s : State) : State :=
  let k := i * 64 + page / 64
  rset s .hostpBias k (BitVec.ofNat 64 (putBits (rget s .hostpBias k).toNat (page % 64) 1 v))

/-- May an agent's request to a line be served (R334, R388)? -/
def cohAllowed (s : State) (line agent : Nat) : Bool := match rangeOf s line with
  | none => false
  | some i =>
    (decide (agent > 16) || bitOn (rangeAgents s i) agent)
      && !(decide (1 ≤ agent ∧ agent ≤ 12)
        && ((fon s F.cohRange_confidential i && !fon s F.mtStatus_attested (agent - 1)) || fon s F.mtStatus_agentFailed (agent - 1)))

/-! ### Slices -/

/-- A slice. -/
def sliceGet (s : State) (i : Nat) : Slice := Map.get s.slices {} i
/-- Set it. -/
def sliceSet (i : Nat) (v : Slice) (s : State) : State := { s with slices := Map.set s.slices i v }
/-- Change it. -/
def sliceMod (i : Nat) (f : Slice → Slice) (s : State) : State := sliceSet i (f (sliceGet s i)) s

/-- A slice's copy of a line. -/
def Slice.find (v : Slice) (line : Nat) : Option CohLine := v.lines.find? (·.line == line)
/-- Its directory entry, I where there is none. -/
def Slice.entry (v : Slice) (line : Nat) : DirEntry := (v.dir.find? (·.line == line)).getD { line := line }
/-- The agents that hold a line. -/
def DirEntry.holders (e : DirEntry) : List Nat := match e.owner with
  | some o => [o]
  | none => e.sharers
/-- Put a directory entry in, most recently used; an entry without holders leaves. -/
def Slice.putEntry (v : Slice) (e : DirEntry) : Slice :=
  let rest := v.dir.filter (·.line != e.line)
  { v with dir := if e.holders.isEmpty then rest else rest ++ [e] }
/-- Is a line busy. -/
def Slice.busy (v : Slice) (line : Nat) : Bool := v.txns.any (·.line == line)
/-- An agent no longer holds a line. -/
def Slice.forget (v : Slice) (line agent : Nat) : Slice :=
  let e := v.entry line
  v.putEntry { e with owner := if e.owner = some agent then none else e.owner, sharers := e.sharers.filter (· != agent) }

/-- Put a line into a slice; the least recently used line of a full set leaves, to memory if dirty (R336). -/
def putLine (i : Nat) (l : CohLine) (s : State) : State :=
  let v := sliceGet s i
  let rest := v.lines.filter (·.line != l.line)
  let set := rest.filter fun x => x.line % 256 == l.line % 256
  match if set.length < 16 then none else set.head? with
  | none => sliceSet i { v with lines := rest ++ [l] } s
  | some x =>
    let s := sliceSet i { v with lines := rest.filter (·.line != x.line) ++ [l] } s
    if x.dirty then devStore (x.line * 64) x.data s else s

/-- The current data of a line: the slice's copy, or memory's unless the sector is lost. -/
def lineData (s : State) (i line : Nat) : Option (List Byte) := match (sliceGet s i).find line with
  | some l => some l.data
  | none => if lostSector s (line * 64) 64 then none else some (memRead s (line * 64) 64)

/-- Data a snoop or write brings home: into the slice's copy if it has one, otherwise to memory. -/
def landLine (i line : Nat) (data : List Byte) (s : State) : State :=
  if ((sliceGet s i).find line).isSome then putLine i ⟨line, data, true⟩ s else devStore (line * 64) data s

/-- Bytes of a write over a line's data, under its byte enables. -/
def mergeLine (old new : List Byte) (mask : List Bool) : List Byte :=
  (List.range 64).map fun k => if mask.getD k true then new.getD k 0 else old.getD k 0

/-! ### Messages -/

/-- The lowest number a list does not hold. -/
def freeTag (l : List Nat) : Nat := ((List.range (l.length + 1)).find? fun k => !l.contains k).getD 0

/-- The type of an answer (R314). -/
def answerType (write : Bool) (status : Nat) : Nat := if status ≠ 0 then 0x07 else if write then 0x04 else 0x02

/-- The first CXL module of a site: the link's resource number (R329). -/
def cxlModule (s : State) (n : Nat) : Nat := ((List.range 8).find? fun k => fget s F.mtModule_proto (n * 8 + k) == 1).getD 0

/-- A mortise module's transmitter serves an answer of the hub (R329, R394). -/
def siteServed (n m cls bytes : Nat) (s : State) : State :=
  slcServe 4 (n * 8 + m) cls bytes (fwrap F.mtTxbytes_count F.mtTxbytes_ovf n bytes s)

/-- A host port's transmitter serves an answer of the hub (R329). -/
def hostServed (port cls bytes : Nat) (s : State) : State :=
  slcServe 3 port cls bytes (fwrap F.hostpTxbytes_count F.hostpTxbytes_ovf port bytes s)

/-- The answer of a request goes to whoever asked: its status (0 for none), and data. A raw module gets the packet of R313. -/
def answerOne (write : Bool) (part : Option Nat) (cls status : Nat) (data : List Byte) (s : State) : Asker → State
  | .unit src tag => netAnswer (answerType write status) src tag status data s
  | .hub p =>
    if status ≠ 0 then sendErr p status s
    else sendPkt { reply s p (if write then 0x04 else 0x02) with data := data, part := part.getD p.part } s
  | .raw n m tag =>
    let ty := answerType write status
    emit .site (0x100 + ty) [n, m, tag, status]
      (netPacket ty (netPkt s part cls 0xFFFF (siteNode n (m / 2)) tag status 0 0xFF data)) (siteServed n m cls data.length s)
  | .cxl n tag => emit .cxl (answerType write status) [n, tag, status] data (siteServed n (cxlModule s n) cls data.length s)
  | .host port tag => emit .host (0x10 + answerType write status) [port, tag, status] data (hostServed port cls data.length s)
  | .posted _ => s
  | .piece _ _ => s

/-- The data of an access's pieces in order, from what they answered. -/
def Join.whole (j : Join) : List Byte := (List.range j.pieces).flatMap fun k => match j.got.find? (·.1 == k) with
  | some e => e.2.2
  | none => []

/-- The status of an access served in pieces: the first that is not 0. -/
def Join.status (j : Join) : Nat := match j.got.find? (·.2.1 != 0) with
  | some e => e.2.1
  | none => 0

/-- An answer: that of a piece is held until every piece of its access has been answered (R231: a write is acknowledged once
every byte is written, a read is answered whole). -/
def answerTo (write : Bool) (part : Option Nat) (cls status : Nat) (data : List Byte) (s : State) : Asker → State
  | .piece id k => match s.joins.find? (·.id == id) with
    | none => s
    | some j =>
      let j := { j with got := j.got.filter (·.1 != k) ++ [(k, status, data)] }
      let rest := s.joins.filter (·.id != id)
      if j.got.length < j.pieces then { s with joins := rest ++ [j] }
      else answerOne j.write j.part j.cls j.status (if j.status = 0 then j.whole else []) { s with joins := rest } j.who
  | w => answerOne write part cls status data s w

/-- The home sends a message to an agent, for the request of a partition and a class, or at hub level. -/
def cohSend (ty i agent line tag : Nat) (part : Option Nat) (cls : Nat) (data : List Byte) (s : State) : State :=
  emit .coh ty [sliceNode i, agent, line * 64, tag]
    (netPacket ty (netPkt s part cls (sliceNode i) (agentNode agent) tag 0 (line * 64) agent data)) s

/-- The home answers a unit of the hub, unless the request has been dropped or given up (R319). -/
def cohAnswer (ty : Nat) (q : CohReq) (i status : Nat) (data : List Byte) (s : State) : State :=
  if q.who.isNone && netGone s q.src q.tag then s
  else
    let dst := if q.who.isNone then q.src else agentNode q.agent
    emit .coh ty [sliceNode i, q.agent, q.line * 64, q.tag, q.src, status]
      (netPacket ty (netPkt s q.part q.cls (sliceNode i) dst q.tag status (q.line * 64) q.agent data))
      (netMod q.src q.tag (fun r => { r with answered := true }) s)

/-- The home completes a request. Data (the bytes asked for) and acknowledgements of a requester outside the hub network go to it;
grants and receipts go to the agent. -/
def cohReply (ty : Nat) (q : CohReq) (i : Nat) (data : List Byte) (s : State) : State :=
  match q.who, decide (ty = 0x02 ∨ ty = 0x04) with
  | some w, true => answerTo (decide (ty = 0x04)) q.part q.cls 0 ((data.zip q.mask).filterMap fun e => if e.2 then some e.1 else none) s w
  | _, _ => cohAnswer ty q i 0 data s

/-- The home refuses a request (R320). -/
def cohErr (q : CohReq) (i status : Nat) (s : State) : State :=
  match q.who with
  | some w => answerTo (decide (q.ty = 0x33 ∨ q.ty = 0x34)) q.part q.cls status [] (netClose q.src q.tag s) w
  | none => cohAnswer 0x07 q i status [] s

/-! ### Errors of the slice arrays (R342, R354) -/

/-- Put an error into SLICE_ERR and write its record. -/
def sliceErr (i cause cls line : Nat) (p : Option Nat) (injected : Bool) (s : State) : State :=
  let s := firstErr F.sliceErr_valid F.sliceErr_more [(F.sliceErr_cause, cause), (F.sliceErr_line, line)] i s
  logErr { code := 0x0500 + cause, cls := cls, part := p, addr := some (line * 64), source := sliceNode i,
           unitReg := (rget s .sliceErr i).toNat, injected := injected } s

/-- The line can no longer be given (R286): its requester's partition spoils with the sector as source. -/
def lineLost (i : Nat) (q : CohReq) (injected : Bool) (s : State) : State :=
  cohErr q i 6 (match q.part with
    | some p => spoil p (.sector (q.line / 8)) injected s
    | none => s)

/-- Is a partition's tick in progress. -/
def liveOf (s : State) : Option Nat → Bool
  | some p => inTick s p
  | none => false

/-- What the arrays' check finds as a request is served; the truth value says that the request has ended with an error. `upset`: 1
a single-bit error, 2 uncorrectable data, 3 one tag copy, 4 both copies. -/
def sliceCheck (i : Nat) (q : CohReq) (s : State) : Bool × State :=
  let tick := match q.part with | some p => tickOf s p | none => fget s F.tickCounter_count 0
  let held := (sliceGet s i).find q.line
  let inj := held.isSome && injectHit s 3 i tick
  let upset := if inj then (if fon s F.tpInject_ue 0 then 2 else 1) else q.upset
  let s := if inj then injectUse tick s else s
  match upset, held with
  | 1, _ => (false, fbump F.sliceCeCount_count i 1 s)
  | 2, some l =>
    if !l.dirty then
      let s := sliceErr i 1 clsInfo q.line q.part inj s
      (false, sliceMod i (fun v => { v with lines := v.lines.filter (·.line != q.line) }) s)
    else
      let s := sliceErr i 2 (if liveOf s q.part then clsSpoil else clsInfo) q.line q.part inj s
      let s := if inj then s
        else loseSector (q.line / 8) (sliceMod i (fun v => { v with lines := v.lines.filter (·.line != q.line) }) s)
      (true, lineLost i q inj s)
  | 3, _ => (false, sliceErr i 3 clsInfo q.line q.part inj s)
  | 4, _ => (false, hubFail (sliceErr i 4 6 q.line q.part inj s))
  | _, _ => (false, s)

/-! ### Serving a request (R337 to R341) -/

/-- The agents a request has the home snoop, and whether the snoops invalidate. -/
def snoopsFor (q : CohReq) (e : DirEntry) : List Nat × Bool :=
  if q.ty = 0x30 ∨ q.ty = 0x31 then
    ((match e.owner with | some o => if o = q.agent then [] else [o] | none => []), false)
  else if q.ty = 0x32 then (e.holders.filter (· != q.agent), true)
  else if q.ty = 0x33 ∨ q.ty = 0x34 then (e.holders, true)
  else ([], true)

/-- Does a request need a directory entry for its line. -/
def needsEntry (q : CohReq) : Bool := q.ty == 0x31 || q.ty == 0x32 || (q.ty == 0x34 && decide (q.agent ≤ 16))

/-- Is there room for a line's entry (R336). -/
def Slice.room (v : Slice) (line : Nat) : Bool :=
  v.dir.any (·.line == line) || decide ((v.dir.filter fun e => e.line % 256 == line % 256).length < 16)

/-- Snoops and pushes of a home outstanding at an agent (R337). -/
def Slice.outstanding (v : Slice) (agent : Nat) : Nat :=
  (v.txns.filter (·.waiting.contains agent)).length + (v.pushes.filter (·.2 == agent)).length

/-- Begin snooping for a goal: the line is busy until the answers have come. -/
def beginTxn (i line : Nat) (goal : CohGoal) (agents : List Nat) (inval : Bool) (s : State) : State :=
  let (part, cls) : Option Nat × Nat := match goal with
    | .serve q => (q.part, q.cls)
    | .drop => (none, 0)
  let s := sliceMod i (fun v => { v with txns := v.txns ++ [{ line := line, goal := goal, inval := inval, waiting := agents }] }) s
  agents.foldl (fun s a => cohSend (if inval then 0x38 else 0x39) i a line 0 part cls [] s) s

/-- The line is no longer busy. -/
def endTxn (i line : Nat) (s : State) : State := sliceMod i (fun v => { v with txns := v.txns.filter (·.line != line) }) s

/-- The line stays busy until an agent's CMPACK (R338). -/
def awaitAck (i line agent : Nat) (q : CohReq) (s : State) : State :=
  sliceMod i (fun v => { v with txns := v.txns.filter (·.line != line)
    ++ [{ line := line, goal := .serve q, inval := false, waiting := [], ack := some agent }] }) s

/-- Serve a request whose snoops are answered. -/
def serveNow (i : Nat) (q : CohReq) (s : State) : State :=
  let line := q.line
  let s := endTxn i line s
  match lineData s i line with
  | none =>
    let whole := (q.ty = 0x33 ∨ q.ty = 0x34) ∧ q.mask.all id
    if whole ∧ q.ty = 0x34 then cohReply 0x04 q i [] (putLine i ⟨line, q.data, true⟩ s)
    else cohErr q i 6 (memUncorrectable (line * 64) 4 q.part false s)
  | some data =>
    let s := if ((sliceGet s i).find line).isSome then s else countReads (line * 64) 64 q.cls s
    let e := (sliceGet s i).entry line
    let s := if q.alloc && decide (q.ty ≤ 0x32) && ((sliceGet s i).find line).isNone then putLine i ⟨line, data, false⟩ s else s
    if q.ty = 0x30 then cohReply 0x02 q i data s
    else if q.ty = 0x31 then
      let shared := (match e.owner with | some o => [o] | none => e.sharers).filter (· != q.agent) ++ [q.agent]
      awaitAck i line q.agent q
        (cohReply 0x3C q i data (sliceMod i (fun v => v.putEntry { line := line, sharers := shared }) s))
    else if q.ty = 0x32 then
      let had := e.sharers.contains q.agent
      awaitAck i line q.agent q
        (cohReply (if had then 0x3E else 0x3D) q i (if had then [] else data)
          (sliceMod i (fun v => v.putEntry { line := line, owner := some q.agent }) s))
    else
      let new := mergeLine data q.data q.mask
      if q.ty = 0x33 then
        let s := if q.alloc then putLine i ⟨line, new, true⟩ s else landLine i line new s
        cohReply 0x04 q i [] s
      else
        let s := cohReply 0x04 q i [] (putLine i ⟨line, new, true⟩ s)
        if q.agent ≤ 16 ∧ cohAllowed s line q.agent then
          cohSend 0x3A i q.agent line 0 q.part q.cls new
            (sliceMod i (fun v => { v.putEntry { line := line, sharers := [q.agent] } with pushes := v.pushes ++ [(line, q.agent)] }) s)
        else s

/-- EVICT or WBDATA at its home (R341): data of an agent that is no longer recorded is discarded; the receipt is sent. -/
def takeBack (i : Nat) (q : CohReq) (s : State) : State :=
  let e := (sliceGet s i).entry q.line
  let s := if !e.holders.contains q.agent then s
    else
      let s := if q.ty = 0x36 then putLine i ⟨q.line, q.data, true⟩ s else s
      sliceMod i (fun v => v.forget q.line q.agent) s
  cohReply 0x41 q i [] s

/-- A line's copy and its directory entry become the most recently used of their sets (R336). -/
def Slice.touch (v : Slice) (line : Nat) : Slice :=
  { v with lines := v.lines.filter (·.line != line) ++ v.lines.filter (·.line == line)
           dir := v.dir.filter (·.line != line) ++ v.dir.filter (·.line == line) }

/-- Serve the request of a line that is not busy, or begin its snoops. -/
def startReq (i : Nat) (q : CohReq) (s : State) : State :=
  let s := sliceMod i (fun v => v.touch q.line) s
  if q.ty = 0x35 ∨ q.ty = 0x36 then takeBack i q s
  else
    let ev := if ((sliceGet s i).find q.line).isSome then 0x0D else 0x0E
    let s := match q.part with
      | some p => perfCount ev (i / 256) p 1 s
      | none => perfCountHub ev (i / 256) 1 s
    let (ended, s) := sliceCheck i q s
    if ended then s
    else
      let (agents, inval) := snoopsFor q ((sliceGet s i).entry q.line)
      if agents.isEmpty then serveNow i q s else beginTxn i q.line (.serve q) agents inval s

/-- May a queued request start: no earlier one of its line waits, the line is not busy, and no agent it snoops has 64
outstanding. -/
def mayStart (v : Slice) (before : List CohReq) (q : CohReq) : Bool :=
  !v.busy q.line && !before.any (·.line == q.line)
    && (snoopsFor q (v.entry q.line)).1.all fun a => decide (v.outstanding a < 64)

/-- The first queued request that may start, with its place. -/
def nextCoh (v : Slice) : List CohReq → List CohReq → Option CohReq
  | _, [] => none
  | before, q :: rest => if mayStart v before q then some q else nextCoh v (before ++ [q]) rest

/-- The directory entry that leaves so that a line gets one: the least recently used of its set that is not busy. -/
def dirVictim (v : Slice) (line : Nat) : Option DirEntry :=
  v.dir.find? fun e => e.line % 256 == line % 256 && !v.busy e.line

/-- Let a home's queue run: requests start in arrival order, with room made in the directory where they need it (R336, R338). -/
def cohPump (i : Nat) : Nat → State → State
  | 0, s => s
  | fuel + 1, s =>
    let v := sliceGet s i
    match nextCoh v [] v.queue with
    | none => s
    | some q =>
      if needsEntry q && !v.room q.line then
        match if v.txns.any (fun t => t.goal == .drop && t.line % 256 == q.line % 256) then none else dirVictim v q.line with
        | some e => beginTxn i e.line .drop e.holders true s
        | none => s
      else cohPump i fuel (startReq i q (sliceSet i { v with queue := v.queue.erase q } s))

/-- Does a flip to DEVICE bias cover a line (R422). -/
def inFlip (s : State) (line : Nat) : Bool := match s.bias with
  | some (i, page) => rangeHolds s i line && rangePage s i line == page
  | none => false
/-- The host agents among holders. -/
def hostAgents (l : List Nat) : List Nat := l.filter fun a => decide (13 ≤ a ∧ a ≤ 16)
/-- Is a slice's field being reset (R556). -/
def sliceStopped (s : State) (i : Nat) : Bool := s.cmds.any fun c => match c.step with
  | .reset _ sl => sl.contains i
  | _ => false

/-- The lines of a home that a flush still has to take from agents: not busy, recorded, in a flushing range (R353). -/
def flushLines (s : State) (i : Nat) : List DirEntry :=
  let v := sliceGet s i
  v.dir.filter fun e => !v.busy e.line && (lineFlushing s e.line || sliceStopped s i)

/-- The lines of a home from which a flip still has to take host copies. -/
def flipLines (s : State) (i : Nat) : List DirEntry :=
  let v := sliceGet s i
  v.dir.filter fun e => !v.busy e.line && inFlip s e.line && !(hostAgents e.holders).isEmpty

/-- A flip to DEVICE ends when no home names a host agent for a line of the page (R422). -/
def flipCheck (s : State) : State :=
  match s.bias with
  | none => s
  | some (i, page) =>
    let named := fun (v : Slice) => v.dir.any fun e => inFlip s e.line && !(hostAgents e.holders).isEmpty
    if s.slices.any (fun e => named e.2) then s
    else fset F.hostpBiasFlip_busy 0 0 (setBias i page 0 { s with bias := none })

/-- A home goes on: flushes first, then its queue. -/
def cohRun (i : Nat) (s : State) : State :=
  let s := (flushLines s i).foldl (fun s e => beginTxn i e.line .drop e.holders true s) s
  let s := (flipLines s i).foldl (fun s e => beginTxn i e.line .drop (hostAgents e.holders) true s) s
  let s := flipCheck (cohPump i ((sliceGet s i).queue.length + 1) s)
  if sliceStopped s i then sweep s else s

/-- An agent's answer to a snoop (R337, R341): data of an M copy comes home, the directory follows, and the last answer lets
the goal go on. -/
def snoopAnswered (i line agent : Nat) (data : List Byte) (s : State) : State :=
  match (sliceGet s i).txns.find? (fun t => t.line == line && t.waiting.contains agent) with
  | none => s
  | some t =>
    let s := if data.isEmpty then s else landLine i line data s
    let rest := t.waiting.filter (· != agent)
    let fix := fun (v : Slice) =>
      let e := v.entry line
      let v := if t.inval then v.forget line agent
        else v.putEntry { e with owner := none, sharers := if e.sharers.contains agent then e.sharers else e.sharers ++ [agent] }
      { v with txns := v.txns.map fun u => if u.line == line then { u with waiting := rest } else u }
    let s := sliceMod i fix s
    if rest.isEmpty then
      cohRun i (match t.goal with
        | .serve q => serveNow i q s
        | .drop => endTxn i line s)
    else s

/-! ### Arrivals at a home -/

/-- The request a packet carries. -/
def cohReqOf (ty : Nat) (p : NetPkt) (upset : Nat) : CohReq :=
  let off := p.addr % 64
  { ty := ty, line := p.addr / 64, src := p.src, tag := p.tag, part := netWho p, agent := p.agent, alloc := p.alloc, cls := p.cls,
    mask := (List.range 64).map fun k => if p.lines = 1 ∨ p.data.length ≤ 64 then
        (bitOn p.mask k && decide (off ≤ k ∧ k < off + p.data.length)) else true
    data := List.replicate off 0 ++ p.data, upset := upset }

/-- A request reaches its home: refused without change of state (R334), or queued, where the queue has room (R338). -/
def cohRequest (q : CohReq) (s : State) : State :=
  let i := homeOf q.line
  let back := q.ty = 0x35 ∨ q.ty = 0x36
  if sliceStopped s i then cohErr q i 4 s
  else if !cohAllowed s q.line (if q.ty = 0x34 then 0xFF else q.agent) ∧ !(back ∧ lineFlushing s q.line) then cohErr q i 5 s
  else if (q.ty = 0x31 ∨ q.ty = 0x32 ∨ back) ∧ q.agent > 16 then cohErr q i 5 s
  else if (sliceGet s i).queue.length ≥ 64 then s
  else cohRun i (sliceMod i (fun v => { v with queue := v.queue ++ [q] }) s)

/-- A coherent request packet; where the home's queue is full it stays in the network (R326, R338). -/
def cohArrive (ty : Nat) (a : NetArr) (upset : Nat) (s : State) : Result :=
  let a := netClassed s a
  let i := homeOf (a.pkt.addr / 64)
  .next (if (sliceGet s i).queue.length ≥ 64 ∧ !sliceStopped s i then s
    else netArrive ty a (fun p s => cohRequest (cohReqOf ty p upset) s) (netOpen a.pkt (decide (ty = 0x33 ∨ ty = 0x34)) s))

/-- RDCUR (R338). -/
def execRdcur (a : NetArr) (upset : Nat) (s : State) : Result := cohArrive 0x30 a upset s
/-- RDSHR. -/
def execRdshr (a : NetArr) (upset : Nat) (s : State) : Result := cohArrive 0x31 a upset s
/-- RDOWN. -/
def execRdown (a : NetArr) (upset : Nat) (s : State) : Result := cohArrive 0x32 a upset s
/-- WRINV. -/
def execWrinv (a : NetArr) (upset : Nat) (s : State) : Result := cohArrive 0x33 a upset s
/-- WRHINT (R340). -/
def execWrhint (a : NetArr) (upset : Nat) (s : State) : Result := cohArrive 0x34 a upset s
/-- EVICT (R341). -/
def execEvict (a : NetArr) (s : State) : Result := cohArrive 0x35 a 0 s
/-- WBDATA (R341). -/
def execWbdata (a : NetArr) (s : State) : Result := cohArrive 0x36 a 0 s

/-- SNPRSP: an agent's answer reaches the home, with data if it held M. -/
def execSnprsp (a : NetArr) (s : State) : Result :=
  .next (netArrive 0x3F a (fun p s => snoopAnswered (homeOf (p.addr / 64)) (p.addr / 64) p.agent p.data s) s)

/-- An agent's CMPACK: the line is no longer busy (R338). -/
def cmpAck (line agent : Nat) (s : State) : State :=
  let i := homeOf line
  if (sliceGet s i).txns.any (fun t => t.line == line && t.ack == some agent) then cohRun i (endTxn i line s) else s

/-- CMPACK. -/
def execCmpack (a : NetArr) (s : State) : Result :=
  .next (netArrive 0x40 a (fun p s => cmpAck (p.addr / 64) p.agent s) s)

/-- A push's answer (R340): a declining agent does not hold the line. -/
def pushAnswered (line agent : Nat) (ok : Bool) (s : State) : State :=
  let i := homeOf line
  let v := sliceGet s i
  if !v.pushes.contains (line, agent) then s
  else
    let v := { v with pushes := v.pushes.erase (line, agent) }
    cohRun i (sliceSet i (if ok || v.busy line then v else v.forget line agent) s)

/-- PUSHRSP. -/
def execPushrsp (a : NetArr) (ok : Bool) (s : State) : Result :=
  .next (netArrive 0x42 a (fun p s => pushAnswered (p.addr / 64) p.agent ok s) s)

/-! ### Range registers (R353) -/

/-- Homes that hold anything. -/
def usedSlices (s : State) : List Nat := List.map (·.1) s.slices

/-- Is a range one of a partition whose resources are frozen (R516), or would it become one. -/
def rangeFrozen (s : State) (i : Nat) (v : Word) : Bool :=
  partLocked s (fget s F.cohRange_partition i) || partLocked s (bitsAt v.toNat 2 8)

/-- A range that has been enabled: every page reads DEVICE, and one that breaks R420 is logged. -/
def rangeEnabled (i : Nat) (s : State) : State :=
  let s := (List.range 64).foldl (fun s w => rset s .hostpBias (i * 64 + w) 0) s
  if fget s F.cohRange_agents i ≥ 2 ^ 13 ∧ !hostRangeOk s i then logErr { code := 0x0B02, cls := clsRefused, detail := i } s else s

/-- A write of COH_RANGE_i's first word: fields other than ENABLE change only while ENABLE and FLUSHING are 0; a write of 0 to
ENABLE starts a flush. -/
def writeCohRange (i : Nat) (v : Word) (s : State) : State :=
  let on := fon s F.cohRange_enable i
  let idle := !on && !fon s F.cohRange_flushing i
  if rangeFrozen s i v then logRefused 0x0B02 none s else
  let s := if idle then rset s .cohRange i (BitVec.ofNat 64 (bitsAt v.toNat 1 26 * 2)) else s
  if bitOn v.toNat 0 then (if on then s else rangeEnabled i (fset F.cohRange_enable i 1 s))
  else if on then
    let s := fset F.cohRange_flushing i 1 (fset F.cohRange_enable i 0 s)
    (usedSlices s).foldl (fun s j => cohRun j s) s
  else s

/-- Its second word. -/
def writeCohRangeAddr (i : Nat) (v : Word) (s : State) : State :=
  if partLocked s (fget s F.cohRange_partition i) then logRefused 0x0B02 none s
  else if fon s F.cohRange_enable i ∨ fon s F.cohRange_flushing i then s
  else rset s .cohRangeAddr i (BitVec.ofNat 64 (bitsAt v.toNat 0 54))

/-- COH_RANGE_DISABLE: a write of the first word with ENABLE = 0. -/
def execCohRangeDisable (range : Nat) (v : Word) (s : State) : Result :=
  .next (if range < 16 then writeCohRange range (v &&& 0xFFFFFFFFFFFFFFFE) s else s)

/-- COH_RANGE_FLUSH_DONE: no agent holds a line of the range; its dirty lines are written back and FLUSHING clears. -/
def execCohRangeFlushDone (range : Nat) (s : State) : Result :=
  .next (
    let mine := fun (l : Nat) => rangeHolds s range l
    if range ≥ 16 ∨ !fon s F.cohRange_flushing range then s
    else if (usedSlices s).any fun i =>
        let v := sliceGet s i
        v.dir.any (fun e => mine e.line) || v.txns.any (fun t => mine t.line) then s
    else
      let s := (usedSlices s).foldl (fun s i =>
        let v := sliceGet s i
        let s := (v.lines.filter fun l => mine l.line && l.dirty).foldl (fun s l => devStore (l.line * 64) l.data s) s
        sliceMod i (fun v => { v with lines := v.lines.filter fun l => !mine l.line }) s) s
      fset F.cohRange_flushing range 0 s)

end Sys2Proof.Machine
end

