-- ==== Sys2Proof/Machine/Mortise.lean ====
section
/-! DEFINITION. Machine/Mortise.lean: the mortise sites (R355 to R399): power, reset, discovery, attestation, training, widths,
site messages, telemetry, faults, assignment and clearing. -/
namespace Sys2Proof.Machine

/-! ### Sites and their descriptors -/

/-- MT_STATUS.STATE (R391). -/
def siteState (s : State) (n : Nat) : Nat := fget s F.mtStatus_state n
/-- Is a site READY. -/
def siteReady (s : State) (n : Nat) : Bool := decide (n < 12) && siteState s n == 9

/-- Bytes of the descriptor as read (R365, R399). -/
def descByte (s : State) (n k i : Nat) : Nat :=
  ofLe ((List.range k).map fun j => BitVec.ofNat 8 (bitsAt (rget s .mtDesc (n * 32 + (i + j) / 8)).toNat ((i + j) % 8 * 8) 8))
/-- PROTOCOL of a module: 0 unused, 1 CXL, 2 raw. -/
def modProto (s : State) (n k : Nat) : Nat := fget s F.mtModule_proto (n * 8 + k)
/-- The used modules of a site. -/
def usedModules (s : State) (n : Nat) : List Nat := (List.range 8).filter fun k => modProto s n k != 0
/-- CAPS bits. -/
def siteCap (s : State) (n bit : Nat) : Bool := bitOn (descByte s n 1 29) bit

/-- A region of a descriptor: its number, type, size and modules. -/
structure DescRegion where
  num : Nat
  type : Nat
  log2 : Nat
  modules : Nat
  deriving DecidableEq, Repr

/-- Region `r` of descriptor bytes. -/
def regionIn (d : List Byte) (r : Nat) : DescRegion :=
  let at' := 40 + r * 16
  ⟨r, recAt d at' 1, recAt d (at' + 1) 1, recAt d (at' + 2) 1⟩

/-- Is a region field of the descriptor well formed (R366). -/
def regionFieldOk (d : List Byte) (cxlModules rawModules : Bool) (rawMask r : Nat) : Bool :=
  let at' := 40 + r * 16
  let g := regionIn d r
  let bar := recAt d (at' + 3) 1
  recAt d (at' + 4) 12 == 0 && (match g.type with
    | 0 => g.log2 == 0 && g.modules == 0 && bar == 0
    | 1 => bitOn (recAt d 28 1) 2 && g.modules == 0 && bar == 0
    | 2 => cxlModules && g.modules == 0 && decide (bar ≤ 5)
    | 3 => rawModules && bar == 0 && g.modules != 0 && (g.modules &&& rawMask) == g.modules
    | _ => false)
    && (g.type == 0 || (decide (16 ≤ g.log2) && decide (g.log2 ≤ 39)))

/-- The regions in the order of placement: descending size, ties in ascending number (R382). -/
def placeOrder (d : List Byte) : List DescRegion :=
  let used := ((List.range 4).map (regionIn d)).filter (·.type != 0)
  ((List.range 24).map (39 - ·)).flatMap fun k => used.filter (·.log2 == k)

/-- The window offset of each region: sizes fall, so each starts where the last one ends (R382). -/
def placeRegions : Nat → List DescRegion → List (DescRegion × Nat)
  | _, [] => []
  | off, g :: rest => (g, off) :: placeRegions (off + 2 ^ g.log2) rest

/-- Is a descriptor valid (R366). -/
def descOk (d : List Byte) : Bool :=
  let protos := (List.range 8).map fun k => recAt d (20 + k) 1
  let cxl := protos.takeWhile (· == 1)
  let c := cxl.length
  let rawMask := maskOf ((List.range 8).filter fun k => protos.getD k 0 == 2)
  let caps := recAt d 28 1
  let ends := placeRegions 0 (placeOrder d)
  recAt d 0 4 == 0x4D544E31 && recAt d 4 2 == 1 && d.drop 192 == Config.sha512 (d.take 192)
    && recAt d 39 1 == 0 && recAt d 104 88 == 0 && decide (caps < 8) && decide (recAt d 29 1 < 32)
    && protos.all (fun x => decide (x ≤ 2)) && protos.any (· != 0)
    && [0, 1, 2, 4, 8].contains c && !(protos.drop c).contains 1
    && (if c = 0 then caps == 0 else bitOn caps 0)
    && (List.range 4).all (regionFieldOk d (decide (c > 0)) (decide (rawMask ≠ 0)) rawMask)
    && ends.all (fun e => decide (e.2 + 2 ^ e.1.log2 ≤ 2 ^ 40))

/-! ### Consequences -/

/-- Drive a site's pins: power enable, reset (1: released) and clock. -/
def sitePins (n pwr rst clk : Nat) (s : State) : State := emit .pin 0x30 [n, pwr, rst, clk] [] s

/-- The site spoils the tick of the partition it serves (R385). -/
def siteSpoil (n : Nat) (s : State) : State := match (siteGet s n).serves with
  | some p => spoil p (.link (0x30000 + n)) false s
  | none => s

/-- Does the site's partition have a tick in progress. -/
def siteLive (s : State) (n : Nat) : Bool := liveOf s (siteGet s n).serves

/-- A record of group 0x07 (R576). -/
def siteRecord (n kind cls : Nat) (s : State) : State :=
  logErr { code := 0x0700 + kind, cls := cls, part := (siteGet s n).serves, unitReg := (rget s .mtErr n).toNat, detail := n } s

/-- An error enters MT_ERR (R395), with its record. -/
def siteErr (n cause module cls : Nat) (s : State) : State :=
  siteRecord n cause cls (firstErr F.mtErr_valid F.mtErr_more
    [(F.mtErr_cause, cause), (F.mtErr_module, module), (F.mtErr_tick, fget s F.tickCounter_count 0 % 2 ^ 32)] n s)

/-- The class of an entry to FAULT or HELD, and of a credit overflow (R576). -/
def siteClass (s : State) (n : Nat) : Nat := if siteLive s n then clsSpoil else clsDegraded

/-- Requests outstanding at a tenon complete with a status (R385: 0x4 as the site leaves READY). -/
def endAsks (n status : Nat) (s : State) : State :=
  let v := siteGet s n
  let s := v.asks.foldl (fun s a => answerTo a.write a.part a.cls status [] s a.who) (siteSet n { v with asks := [], waiting := [] } s)
  v.waiting.foldl (fun s w => answerTo w.write w.part w.cls status [] s w.who) s

/-- MIN_WIDTH and the width the batcher sees follow the modules (R381, R391); every change of the latter is recorded. -/
def siteWidths (n : Nat) (s : State) : State :=
  let ws := (usedModules s n).map fun k => fget s F.mtModule_width (n * 8 + k)
  let w := ws.foldl min (ws.headD 0)
  let s := fset F.mtStatus_minWidth n w s
  let told := if siteReady s n then w else 0
  if (siteGet s n).widthTold = told then s
  else siteRecord n 0x30 clsDegraded (siteMod n (fun v => { v with widthTold := told }) s)

/-- Set a module's state. -/
def setModule (n k st : Nat) (s : State) : State := fset F.mtModule_state (n * 8 + k) st s
/-- A module's state. -/
def modState (s : State) (n k : Nat) : Nat := fget s F.mtModule_state (n * 8 + k)
/-- A module goes DOWN. -/
def moduleDown (n k : Nat) (s : State) : State := fset F.mtModule_width (n * 8 + k) 0 (setModule n k 7 s)

/-! ### Requests of the hub to a tenon (R330, R375, R376, R383) -/

/-- The region of a site's window that an offset falls in (R382, R397). -/
def regionAt (s : State) (n off len : Nat) : Option Nat :=
  (List.range 4).find? fun r =>
    let i := n * 4 + r
    fon s F.mtRegion_valid i && decide (fget s F.mtRegion_offset i * 65536 ≤ off)
      && decide (off + len ≤ fget s F.mtRegion_offset i * 65536 + 2 ^ fget s F.mtRegion_sizeLog2 i)

/-- The modules that can serve a region, in a state: those it names, or those of the CXL link. -/
def regionModules (s : State) (n r st : Nat) : List Nat :=
  let raw := fget s F.mtRegion_type (n * 4 + r) == 3
  (List.range 8).filter fun k => modState s n k == st
    && (if raw then bitOn (fget s F.mtRegion_modules (n * 4 + r)) k else modProto s n k == 1)

/-- The ACTIVE module that serves an address of a region now (R383): 8 for the CXL link. -/
def regionModule (s : State) (n r a : Nat) : Option Nat :=
  let ms := regionModules s n r 5
  if ms.isEmpty then none
  else if fget s F.mtRegion_type (n * 4 + r) = 3 then ms[crc32c (leBytes 5 (a / 512)) % ms.length]?
  else some 8

/-- Units of a raw packet (R371). -/
def rawUnits (bytes : Nat) : Nat := 1 + 2 * ((bytes + 63) / 64)

/-- Units a request takes of the tenon's VC3 buffer on a module: none on the CXL link. -/
def SiteWait.units (w : SiteWait) (k : Nat) : Nat := if k < 8 then rawUnits w.data.length else 0

/-- Can a waiting request go out on module `k`: the tenon's buffer has room (R376)? -/
def siteRoom (v : Site) (w : SiteWait) (k : Nat) : Bool := decide (k = 8 ∨ Map.get v.used 0 (k * 2 + 1) + w.units k ≤ 256)

/-- A module's number as a regulated resource (R329); the CXL link goes by its first module. -/
def siteRes (s : State) (n k : Nat) : Nat := n * 8 + (if k = 8 then cxlModule s n else k)

/-- The waiting requests that can be served now, each with its module. -/
def siteReadyToSend (s : State) (n : Nat) : List (SiteWait × Nat) :=
  (siteGet s n).waiting.filterMap fun w => match regionModule s n w.region w.a with
    | some k => if siteRoom (siteGet s n) w k then some (w, k) else none
    | none => none

/-- The one that goes first (R330): of least level, the earliest of equals. -/
def firstToSite (s : State) (n : Nat) (ws : List (SiteWait × Nat)) : Option (SiteWait × Nat) :=
  let level := fun (w : SiteWait × Nat) => slcLevel s 4 (siteRes s n w.2) w.1.urgent w.1.aged w.1.cls
  ws.foldl (fun b w => match b with
    | some x => some (if level w < level x then w else x)
    | none => some w) none

/-- A request leaves for the tenon: on a raw module as the packet of R313 (R371, R373). -/
def sendToSite (n : Nat) (w : SiteWait) (k : Nat) (s : State) : State :=
  let v := siteGet s n
  let tag := freeTag ((v.asks.filter (·.module == k)).map (·.tag))
  let used := if k < 8 then Map.set v.used (k * 2 + 1) (Map.get v.used 0 (k * 2 + 1) + w.units k) else v.used
  let s := siteSet n { v with asks := v.asks ++ [⟨tag, k, w.write, w.part, w.cls, w.who⟩], used := used, waiting := v.waiting.erase w } s
  let ty := if w.write then 0x03 else 0x01
  let p := { netPkt s w.part w.cls 0xFFFF (siteNode n (k / 2)) tag 0 w.a 0xFF w.data with
    urgent := w.urgent, lines := (w.len + 63) / 64, mask := 2 ^ (w.a % 64 + w.len) - 2 ^ (w.a % 64) }
  emit .site (0x100 + ty) [n, k, tag, w.a, w.len, w.part.getD 0, w.cls] (if k < 8 then netPacket ty p else w.data)
    (slcServe 4 (siteRes s n k) w.cls w.data.length (fwrap F.mtTxbytes_count F.mtTxbytes_ovf n w.data.length s))

/-- A site's transmitter sends what it can serve, in the order of R330; `fuel` bounds the requests. -/
def sitePump (n : Nat) : Nat → State → State
  | 0, s => s
  | fuel + 1, s => match firstToSite s n (siteReadyToSend s n) with
    | some (w, k) => sitePump n fuel (sendToSite n w k s)
    | none => s

/-- What waits at a site goes out where it can (R383: later packets follow a new choice of module). A request whose region has no module
left, ACTIVE or in PHYRETRAIN, completes with status 0x4. -/
def siteRun (n : Nat) (s : State) : State :=
  let s := sitePump n (siteGet s n).waiting.length s
  let dead := (siteGet s n).waiting.filter fun w => (regionModules s n w.region 5).isEmpty && (regionModules s n w.region 6).isEmpty
  dead.foldl (fun s w => answerTo w.write w.part w.cls 4 [] s w.who)
    (siteMod n (fun v => { v with waiting := v.waiting.filter fun w => !dead.contains w }) s)

/-- A request of the hub goes to a tenon (R375, R383); without credits, or while its module retrains, it waits. -/
def toSite (n r a len : Nat) (write : Bool) (data : List Byte) (part : Option Nat) (cls : Nat) (urgent : Bool) (who : Asker)
    (s : State) : State :=
  siteRun n (siteMod n (fun v => { v with waiting := v.waiting ++ [⟨r, a, len, write, data, part, cls, urgent, false, who⟩] }) s)

/-- Every used module to one state without width (R377, R378). -/
def modulesTo (n st : Nat) (s : State) : State :=
  (usedModules s n).foldl (fun s k => fset F.mtModule_repaired (n * 8 + k) 0 (fset F.mtModule_width (n * 8 + k) 0 (setModule n k st s))) s

/-- What the site holds of a running tenon ends: messages, credits, a throttle cap, and QUIESCED. -/
def siteQuiet (n : Nat) (s : State) : State :=
  let s := siteMod n (fun v => { v with msgs := [], down := none, used := [], throttled := false, spdm := [], chunks := [] }) s
  fset F.mtTelem_capW n 0 (fset F.mtStatus_quiesced n 0 s)

/-- The site leaves READY (R385): its partition spoils and what is outstanding at the tenon completes. -/
def leaveReady (n : Nat) (s : State) : State :=
  if siteReady s n then endAsks n 4 (siteSpoil n s) else s

/-- The site enters FAULT or HELD (R377): reset and power low, a record. -/
def siteStop (n state kind cause : Nat) (s : State) : State :=
  let cls := siteClass s n
  let s := leaveReady n s
  let s := modulesTo n 0 (siteQuiet n s)
  let s := fset F.mtStatus_cause n cause (fset F.mtStatus_state n state s)
  siteWidths n (siteRecord n (kind + cause) cls (sitePins n 0 0 0 s))

/-- Entry to FAULT. -/
def siteFault (n cause : Nat) (s : State) : State := siteStop n 0xA 0x10 cause s

/-! ### Site messages (R362 to R364) -/

/-- Send a request; at most one of an opcode is outstanding. -/
def siteSend (n op : Nat) (payload : List Byte) (s : State) : State :=
  let v := siteGet s n
  if v.msgs.any (·.op == op) then s
  else emit .site op [n, v.nextTag] payload
    (siteSet n { v with msgs := v.msgs ++ [⟨op, v.nextTag, payload, false⟩], nextTag := (v.nextTag + 1) % 256 } s)

/-- Does a state of the site carry messages: its sideband is ready. -/
def sideUp (s : State) (n : Nat) : Bool := decide (n < 12) && decide (5 ≤ siteState s n ∧ siteState s n ≤ 9)

/-- A reply: one whose TAG matches no outstanding request is dropped with MT_ERR cause 0x7; one that is not OK is no valid
reply and the deadline runs on (R364). -/
def siteReply (n op tag status : Nat) (f : SiteMsg → State → State) (s : State) : State :=
  if !sideUp s n then s
  else match (siteGet s n).msgs.find? (fun m => m.op == op && m.tag == tag) with
    | none => siteErr n 7 0 clsInfo s
    | some m =>
      if status ≠ 0 then s
      else f m (siteMod n (fun v => { v with msgs := v.msgs.filter (fun x => !(x.op == op && x.tag == tag)) }) s)

/-- ASSIGN (R363): it takes the assignment into force (R389). -/
def sendAssign (n : Nat) (s : State) : State :=
  let p := if fon s F.mtAssign_assigned n then some (fget s F.mtAssign_partition n) else none
  let offs := (List.range 4).flatMap fun r => leBytes 8 (fget s F.mtRegion_offset (n * 4 + r) * 65536)
  let s := siteSend n 0x02 (leBytes 1 (hubId s) ++ leBytes 1 n ++ leBytes 1 (1 + n) ++ leBytes 1 (p.getD 0)
    ++ leBytes 1 (match p with | some q => bit01 (confidential s q) | none => 0) ++ leBytes 3 0 ++ offs) s
  siteMod n (fun v => { v with serves := p, tenant := match p with | some _ => p | none => v.tenant }) s

/-- WIDTH (R380). -/
def sendWidth (n : Nat) (s : State) : State :=
  siteSend n 0x03 ((List.range 8).flatMap fun k => leBytes 1 ([0, 16, 32, 64].getD (fget s F.mtModule_width (n * 8 + k)) 0)) s

/-! ### Power and reset (R359, R360, R377) -/

/-- Turn a site on. -/
def sitePower (n : Nat) (s : State) : State :=
  let s := modulesTo n 0 (siteQuiet n s)
  sitePins n 1 0 0 (fset F.mtStatus_state n 2 s)

/-- The site is in reset with power and clock; the power-up goes on from there. -/
def siteReset (n : Nat) (s : State) : State :=
  let s := modulesTo n 0 (siteQuiet n (leaveReady n s))
  let s := fset F.mtStatus_descValid n 0 (fset F.mtStatus_attested n 0 (fset F.mtStatus_state n 3 s))
  siteWidths n (sitePins n 1 0 1 s)

/-- A power-down's last step (R360): reset ends in RESET, a power cycle removes power, ends DIRTY (R390) and powers again. -/
def siteDownEnd (n : Nat) (d : SiteDown) (s : State) : State := match d with
  | .reset => siteReset n s
  | .cycle =>
    let s := modulesTo n 0 (siteQuiet n (leaveReady n s))
    let s := fset F.mtStatus_dirty n 0 (sitePins n 0 0 0 (fset F.mtStatus_state n 1 s))
    let v := siteGet s n
    let s := siteSet n { v with owed := none, tenant := none } s
    let s := match v.owed with
      | some w => rset s .mtAssign n w
      | none => s
    siteWidths n (sitePower n s)

/-- Begin a power-down (R360): QUIESCE first, from READY. -/
def siteGoDown (n : Nat) (d : SiteDown) (s : State) : State :=
  siteSend n 0x06 [] (siteMod n (fun v => { v with down := some d }) s)

/-- MT_CTRL.RESET (R360, R377). -/
def ctrlReset (n : Nat) (s : State) : State :=
  let st := siteState s n
  if st = 1 then (if fon s F.mtCtrl_enable n then sitePower n s else s)
  else if st = 0xA then sitePower n s
  else if st = 9 then (if (siteGet s n).down.isSome then s else siteGoDown n .reset s)
  else s

/-- MT_CTRL.RELEASE. -/
def ctrlRelease (n : Nat) (s : State) : State :=
  if siteState s n = 0xB then fset F.mtStatus_fails n 0 (fset F.mtStatus_state n 1 s) else s

/-- MT_CTRL (R392). -/
def writeMtCtrl (n : Nat) (v : Word) (s : State) : State :=
  let s := fset F.mtCtrl_enable n (bitsAt v.toNat 0 1) s
  let s := if bitOn v.toNat 1 then ctrlReset n s else s
  let s := if bitOn v.toNat 2 then ctrlRelease n s else s
  let s := if bitOn v.toNat 3 && siteReady s n then siteSend n 0x06 [] s else s
  if bitOn v.toNat 4 && siteReady s n then siteSend n 0x07 [] s else s

/-- A write of MT_CTRL that sets one action bit and keeps ENABLE. -/
def ctrlAction (n bit : Nat) (s : State) : Result :=
  .next (if n < 12 then writeMtCtrl n (BitVec.ofNat 64 (fget s F.mtCtrl_enable n + 2 ^ bit)) s else s)

/-- MT_CTRL_RESET. -/
def execMtCtrlReset (site : Nat) (s : State) : Result := ctrlAction site 1 s
/-- MT_CTRL_RELEASE. -/
def execMtCtrlRelease (site : Nat) (s : State) : Result := ctrlAction site 2 s
/-- MT_CTRL_QUIESCE. -/
def execMtCtrlQuiesce (site : Nat) (s : State) : Result := ctrlAction site 3 s
/-- MT_CTRL_RESUME. -/
def execMtCtrlResume (site : Nat) (s : State) : Result := ctrlAction site 4 s

/-- MTN_PWRGD_HIGH. -/
def execMtnPwrgdHigh (site : Nat) (s : State) : Result :=
  .next (if site < 12 ∧ siteState s site = 2 then siteReset site s else s)

/-- SITE_POWER_TIMEOUT: cause 0x1. -/
def execSitePowerTimeout (site : Nat) (s : State) : Result :=
  .next (if site < 12 ∧ siteState s site = 2 then siteFault site 1 s else s)

/-- SITE_RESET_TIMER: the reset is released. -/
def execSiteResetTimer (site : Nat) (s : State) : Result :=
  .next (if site < 12 ∧ siteState s site = 3 then sitePins site 1 1 1 (fset F.mtStatus_state site 4 s) else s)

/-- SIDEBAND_READY, `ms` after reset release: DESC_READ is sent. -/
def execSidebandReady (site ms : Nat) (s : State) : Result :=
  .next (if site < 12 ∧ siteState s site = 4 ∧ ms ≤ 500 then
      siteSend site 0x01 (leBytes 8 0) (siteMod site (fun v => { v with bootMs := ms, chunks := [] }) (fset F.mtStatus_state site 5 s))
    else s)

/-- SITE_BOOT_TIMEOUT: cause 0x2. -/
def execSiteBootTimeout (site : Nat) (s : State) : Result :=
  .next (if site < 12 ∧ siteState s site = 4 then siteFault site 2 s else s)

/-! ### Discovery and attestation (R366, R367) -/

/-- The site goes to ASSIGN: the window is computed and ASSIGN sent (R377, R382). -/
def toAssign (n : Nat) (s : State) : State :=
  let d := (List.range 32).flatMap fun i => leBytes 8 (rget s .mtDesc (n * 32 + i)).toNat
  let s := (List.range 4).foldl (fun s r => rset s .mtRegion (n * 4 + r) 0) s
  let s := (placeRegions 0 (placeOrder d)).foldl (fun s e =>
    rset s .mtRegion (n * 4 + e.1.num)
      (BitVec.ofNat 64 (1 + e.1.type * 2 + e.1.log2 * 16 + e.2 / 65536 * 1024 + e.1.modules * 2 ^ 34))) s
  sendAssign n (fset F.mtStatus_state n 7 s)

/-- The descriptor has been read: MT_DESC holds it, and it is checked (R366, R377). -/
def descRead (n : Nat) (d : List Byte) (s : State) : State :=
  let s := (List.range 32).foldl (fun s i => rset s .mtDesc (n * 32 + i) (BitVec.ofNat 64 (recAt d (i * 8) 8))) s
  if !descOk d then siteFault n 3 s
  else
    let s := fset F.mtStatus_descValid n 1 s
    let s := (List.range 8).foldl (fun s k =>
      let p := recAt d (20 + k) 1
      rset s .mtModule (n * 8 + k) (BitVec.ofNat 64 (p + if p = 0 then 0 else siteNode n (k / 2) % 65536 * 4096))) s
    if (siteGet s n).bootMs > recAt d 32 2 then siteFault n 2 s
    else
      let s := fset F.mtStatus_attested n 0 (fset F.mtStatus_state n 6 (siteMod n (fun v => { v with spdm := [], measured := [] }) s))
      if bitOn (recAt d 29 1) 0 then siteSend n 0x09 [] s else toAssign n s

/-- DESC_READ_REPLY: a chunk of 64 bytes; after the fourth the descriptor is checked. -/
def execDescReadReply (site tag status : Nat) (bytes : List Byte) (s : State) : Result :=
  .next (siteReply site 0x01 tag status (fun _ s =>
    let v := siteGet s site
    let chunks := v.chunks ++ [padTo 64 0 bytes]
    let s := siteSet site { v with chunks := chunks } s
    if siteState s site ≠ 5 then s
    else if chunks.length < 4 then siteSend site 0x01 (leBytes 8 chunks.length) s
    else descRead site chunks.flatten s) s)

/-- SPDM_REPLY: a fragment of the tenon's response; the security controller sends its next fragment (R367). The messages are those
of SPDM 1.3; the spec gives no bytes for them, and the model sends an empty payload (log entry 62). -/
def execSpdmReply (site tag status : Nat) (bytes : List Byte) (s : State) : Result :=
  .next (siteReply site 0x09 tag status (fun _ s =>
    let s := siteMod site (fun v => { v with spdm := v.spdm ++ [bytes] }) s
    if siteState s site = 6 then siteSend site 0x09 [] s else s) s)

/-- ATTESTATION_END (R367): whether the challenge signature verifies, the digest of the chain's root, and the chain digest and
measurements that enter the report. -/
def execAttestationEnd (site : Nat) (signed : Bool) (root measured : List Byte) (s : State) : Result :=
  .next (if site < 12 ∧ siteState s site = 6 then
      let ok := signed && s.cfg.trust.contains root
      let s := siteMod site (fun v => { v with msgs := v.msgs.filter (·.op != 9), measured := measured }) s
      toAssign site (fset F.mtStatus_attested site (bit01 ok) s)
    else s)

/-! ### Training (R377 to R380) -/

/-- Train every used module (R377, R378); its physical layer is told the lanes that defect rows mark bad, so that repair and width follow
R379 (R551). -/
def siteTrain (n : Nat) (s : State) : State :=
  (usedModules s n).foldl (fun s k => match Map.get? s.siteLanes (n * 8 + k) with
    | some m => emit .site 0x170 [n, k, m] [] s
    | none => s) (modulesTo n 1 (fset F.mtStatus_state n 8 s))

/-- A training has failed: again from full width, or HELD at the third time (R377, R380). -/
def trainFailed (n cause : Nat) (s : State) : State :=
  let f := fget s F.mtStatus_fails n
  let s := siteMod n (fun v => { v with msgs := v.msgs.filter (·.op != 3) }) (leaveReady n s)
  if f < 2 then siteWidths n (siteTrain n (fset F.mtStatus_fails n (f + 1) s))
  else siteStop n 0xB 0x20 cause (fset F.mtStatus_fails n 3 s)

/-- Every used module is ACTIVE or DOWN: WIDTH goes out, or, with none ACTIVE, the training has failed. -/
def trainCheck (n : Nat) (s : State) : State :=
  let ms := usedModules s n
  if siteState s n ≠ 8 ∨ ms.any (fun k => modState s n k ≠ 5 ∧ modState s n k ≠ 7) then s
  else if ms.all (fun k => modState s n k == 7) then trainFailed n 5 s
  else sendWidth n (siteWidths n s)

/-- ASSIGN_REPLY: the modules train. In READY an assignment only has taken force. -/
def execAssignReply (site tag status : Nat) (s : State) : Result :=
  .next (siteReply site 0x02 tag status (fun _ s => if siteState s site = 7 then siteTrain site s else s) s)

/-- A module's event in one state. -/
def onModule (n k st : Nat) (f : State → State) (s : State) : Result :=
  .next (if n < 12 ∧ k < 8 ∧ modProto s n k ≠ 0 ∧ modState s n k = st then f s else s)

/-- MODULE_SBINIT_DONE. -/
def execModuleSbinitDone (site module : Nat) (s : State) : Result := onModule site module 1 (setModule site module 2) s

/-- The width of good logical lanes (R379), as a WIDTH code. -/
def laneWidth (x16 : Bool) (good : Nat) : Nat :=
  if bitsAt good 0 64 = 2 ^ 64 - 1 then 3
  else if bitsAt good 0 32 = 2 ^ 32 - 1 ∨ bitsAt good 32 32 = 2 ^ 32 - 1 then 2
  else if x16 ∧ (List.range 4).any (fun q => bitsAt good (q * 16) 16 == 65535) then 1
  else 0

/-- MODULE_LANE_TEST_DONE: the logical lanes left good after repair, and the redundant lanes in use. -/
def execModuleLaneTestDone (site module good repaired : Nat) (s : State) : Result :=
  onModule site module 2 (fun s =>
    let w := laneWidth (siteCap s site 3) good
    if w = 0 then trainCheck site (moduleDown site module s)
    else fset F.mtModule_repaired (site * 8 + module) repaired (fset F.mtModule_width (site * 8 + module) w (setModule site module 3 s))) s

/-- MODULE_MBTRAIN_DONE. -/
def execModuleMbtrainDone (site module : Nat) (s : State) : Result := onModule site module 3 (setModule site module 4) s

/-- MODULE_LINKINIT_DONE: the hub grants the descriptor's RAW_RX (R376). -/
def execModuleLinkinitDone (site module : Nat) (s : State) : Result :=
  onModule site module 4 (fun s =>
    let s := siteMod site (fun v => { v with used := Map.keep v.used fun k => decide (k / 2 ≠ module) }) s
    let s := if modProto s site module = 2 then
        emit .site 0x160 [site, module, descByte s site 1 37 * 4, descByte s site 1 38 * 4] [] s else s
    trainCheck site (setModule site module 5 s)) s

/-- MODULE_TRAIN_TIMEOUT: 20 ms. -/
def execModuleTrainTimeout (site module : Nat) (s : State) : Result :=
  .next (if site < 12 ∧ module < 8 ∧ modProto s site module ≠ 0 ∧ 1 ≤ modState s site module ∧ modState s site module ≤ 4 then
      trainCheck site (moduleDown site module s) else s)

/-- A site whose owed clear the tenon must do once READY (R390). -/
def askClear (n : Nat) (s : State) : State :=
  if !fon s F.mtStatus_dirty n then s
  else if siteCap s n 4 then siteSend n 0x08 [] s
  else siteGoDown n .cycle s

/-- The site is READY (R377, R388). -/
def enterReady (n : Nat) (s : State) : State :=
  let s := fset F.mtStatus_agentFailed n 0 (fset F.mtStatus_fails n 0 (fset F.mtStatus_state n 9 s))
  askClear n (siteWidths n s)

/-- WIDTH_REPLY (R380): equal widths bring READY, different ones a new training. -/
def execWidthReply (site tag status : Nat) (widths : List Nat) (s : State) : Result :=
  .next (siteReply site 0x03 tag status (fun m s =>
    let same := (List.range 8).all fun k => recAt m.payload k 1 == widths.getD k 0
    let now := (List.range 8).all fun k =>
      recAt m.payload k 1 == [0, 16, 32, 64].getD (fget s F.mtModule_width (site * 8 + k)) 0
    if !same then trainFailed site 6 s
    else if !now then sendWidth site s
    else if siteState s site = 8 then enterReady site s else s) s)

/-- MODULE_RETRY_LIMIT, after `retries` in 1 ms. -/
def execModuleRetryLimit (site module retries : Nat) (s : State) : Result :=
  onModule site module 5 (fun s =>
    let s := fbump F.mtRetryCount_count site retries s
    if retries > 256 then setModule site module 6 s else s) s

/-- A module's width has changed or it went DOWN in READY (R377, R381). -/
def widthChanged (n : Nat) (s : State) : State :=
  let s := siteWidths n s
  if siteReady s n then sendWidth n s else trainCheck n s

/-- A module leaves ACTIVE for good: the tick spoils (R385). -/
def moduleLost (n k : Nat) (s : State) : State := siteRun n (widthChanged n (moduleDown n k (siteSpoil n s)))

/-- PHYRETRAIN_DONE: repair or narrowing; a width never rises here (R379). -/
def execPhyretrainDone (site module good repaired : Nat) (s : State) : Result :=
  onModule site module 6 (fun s =>
    let w := min (laneWidth (siteCap s site 3) good) (fget s F.mtModule_width (site * 8 + module))
    if w = 0 then moduleLost site module s
    else
      let old := fget s F.mtModule_width (site * 8 + module)
      let s := fset F.mtModule_repaired (site * 8 + module) repaired (fset F.mtModule_width (site * 8 + module) w (setModule site module 5 s))
      siteRun site (if w = old then s else widthChanged site s)) s

/-- PHYRETRAIN_TIMEOUT: 50 µs. -/
def execPhyretrainTimeout (site module : Nat) (s : State) : Result := onModule site module 6 (moduleLost site module) s

/-! ### Power, temperature and events (R361, R363) -/

/-- THROTTLE_REPLY: the cap is in force and its deadline runs. -/
def execThrottleReply (site tag status : Nat) (s : State) : Result :=
  .next (siteReply site 0x04 tag status (fun m s =>
    fset F.mtTelem_capW site (recAt m.payload 0 2) (siteMod site (fun v => { v with throttled := true }) s)) s)

/-- POWER_W of a site, in mW. -/
def sitePowerMw (s : State) (n : Nat) : Nat := descByte s n 2 30 * 1000

/-- THROTTLE_DEADLINE: 10 ms after the acknowledgement, excess power faults the site with cause 0x4. -/
def execThrottleDeadline (site : Nat) (s : State) : Result :=
  .next (if sideUp s site ∧ (siteGet s site).throttled then
      let s := siteMod site (fun v => { v with throttled := false }) s
      if fget s F.mtTelem_powerMw site > sitePowerMw s site then siteFault site 4 s else s
    else s)

/-- TELEMETRY: power in mW and temperature in 1/8 °C, 16 bits. -/
def execTelemetry (site mw temp : Nat) (s : State) : Result :=
  .next (if !sideUp s site then s
    else
      let s := fset F.mtTelem_temp site (temp % 4096) (fset F.mtTelem_powerMw site mw s)
      if !fon s F.mtStatus_descValid site then s
      else if sx 16 temp ≥ (descByte s site 1 36 * 8 : Nat) then siteFault site 9 s
      else if mw > sitePowerMw s site ∧ !(siteGet s site).throttled then siteSend site 0x04 (leBytes 8 (descByte s site 2 30)) s
      else s)

/-- TELEMETRY_TIMEOUT: cause 0x8. -/
def execTelemetryTimeout (site : Nat) (s : State) : Result := .next (if siteReady s site then siteFault site 8 s else s)

/-- EVENT: recorded in MT_EVENT. -/
def execEvent (site code : Nat) (s : State) : Result :=
  .next (if sideUp s site then rset s .mtEvent site (BitVec.ofNat 64 code) else s)

/-- FATAL: cause 0xB. -/
def execFatal (site code : Nat) (s : State) : Result :=
  .next (if sideUp s site then siteFault site 0xB (emit .site 0x42 [site, code] [] s) else s)

/-- THERM_ALERT: power goes low and the site faults with cause 0x9. -/
def execThermAlert (site : Nat) (s : State) : Result :=
  .next (if site < 12 ∧ 2 ≤ siteState s site ∧ siteState s site ≤ 9 then siteFault site 9 s else s)

/-! ### Quiescing, clearing, power-down (R360, R363, R390) -/

/-- QUIESCED: a power-down goes on with SHUTDOWN. -/
def execQuiesced (site tag status : Nat) (s : State) : Result :=
  .next (siteReply site 0x06 tag status (fun _ s =>
    let s := fset F.mtStatus_quiesced site 1 s
    if (siteGet s site).down.isSome then siteSend site 0x0A [] s else s) s)

/-- RESUME_REPLY. -/
def execResumeReply (site tag status : Nat) (s : State) : Result :=
  .next (siteReply site 0x07 tag status (fun _ s => fset F.mtStatus_quiesced site 0 s) s)

/-- CLEARED: DIRTY clears and the assignment that waited is made (R389, R390). -/
def execCleared (site tag status : Nat) (s : State) : Result :=
  .next (siteReply site 0x08 tag status (fun _ s =>
    let v := siteGet s site
    let s := fset F.mtStatus_dirty site 0 (siteSet site { v with owed := none, tenant := none } s)
    match v.owed with
    | some w => sendAssign site (rset s .mtAssign site w)
    | none => s) s)

/-- SHUTDOWN_REPLY: reset is asserted. -/
def execShutdownReply (site tag status : Nat) (s : State) : Result :=
  .next (siteReply site 0x0A tag status (fun _ s => match (siteGet s site).down with
    | some d => siteDownEnd site d s
    | none => s) s)

/-- SITE_MESSAGE_TIMEOUT (R364): the first miss resends with the same TAG, the second faults with cause 0x7. In a power-down each
wait ends after 10 ms and the next step follows (R360). -/
def execSiteMessageTimeout (site op : Nat) (s : State) : Result :=
  .next (if !sideUp s site then s
    else match (siteGet s site).msgs.find? (·.op == op), (siteGet s site).down with
      | none, _ => s
      | some m, down =>
        let drop := siteMod site (fun v => { v with msgs := v.msgs.filter (·.op != op) })
        match down, op with
        | some _, 0x06 => siteSend site 0x0A [] (drop s)
        | some d, 0x0A => siteDownEnd site d (drop s)
        | _, _ =>
          if m.again then siteFault site 7 s
          else emit .site op [site, m.tag] m.payload
            (siteMod site (fun v => { v with msgs := v.msgs.map fun x => if x.op == op then { x with again := true } else x }) s))

/-! ### Assignment (R389, R390, R393, R516) -/

/-- Must an assignment be refused (R368, R389, R390, R516). -/
def assignRefused (s : State) (n : Nat) (v : Word) : Bool :=
  let st := siteState s n
  let p := bitsAt v.toNat 0 8
  let on := bitOn v.toNat 8
  let old := fget s F.mtAssign_partition n
  let open' := [1, 0xA, 0xB].contains st
    || (st == 9 && fon s F.mtStatus_quiesced n && !(siteGet s n).msgs.any (·.op == 6))
  !open' || fon s F.mtStatus_dirty n
    || (fon s F.mtAssign_assigned n && partLocked s old)
    || (on && confidential s p && !fon s F.mtStatus_attested n && !fon s F.partSec_admitUnattested p)

/-- A write of MT_ASSIGN: refused and recorded, made, or, where the site passes to another partition, made once it is clear. -/
def writeMtAssign (n : Nat) (v : Word) (s : State) : State :=
  let v : Word := BitVec.ofNat 64 (bitsAt v.toNat 0 12)
  if assignRefused s n v then logRefused 0x0B02 none s
  else
    let moves := bitOn v.toNat 8 && (match (siteGet s n).tenant with | some t => t != bitsAt v.toNat 0 8 | none => false)
    if moves then
      let s := fset F.mtStatus_dirty n 1 (siteMod n (fun x => { x with owed := some v }) s)
      if siteReady s n then askClear n s else s
    else
      let s := rset s .mtAssign n v
      if siteReady s n then sendAssign n s else s

/-- MT_ASSIGN_WRITE. -/
def execMtAssignWrite (site : Nat) (v : Word) (s : State) : Result :=
  .next (if site < 12 then writeMtAssign site v s else s)

/-! ### A tenon agent fails (R339, R388) -/

/-- Remove an agent from every directory entry; lines it may have held in M are lost. -/
def purgeAgent (agent : Nat) (s : State) : State :=
  (usedSlices s).foldl (fun s i =>
    let v := sliceGet s i
    let owned := (v.dir.filter (·.owner == some agent)).map (·.line)
    let s := owned.foldl (fun s l => loseSector (l / 8) s) s
    let dir := (v.dir.map fun e => { e with owner := if e.owner = some agent then none else e.owner,
                                            sharers := e.sharers.filter (· != agent) }).filter (!·.holders.isEmpty)
    sliceMod i (fun w => { w with dir := dir }) s) s

/-- A tenon's agent has failed. -/
def siteAgentFailed (n : Nat) (s : State) : State :=
  siteFault n 0xA (purgeAgent (1 + n) (fset F.mtStatus_agentFailed n 1 s))

end Sys2Proof.Machine
end

