-- ==== Sys2Proof/Machine/Defects.lean ====
section
/-! DEFINITION. Machine/Defects.lean: the defect map (R550, R551), mapping-out in the field (R552, R553, R569, R570) and the
tile query (R29). -/
namespace Sys2Proof.Machine

/-! ### Rows (R550) -/

/-- Is a crossing of a field on a seam (R349). -/
def crossingExists (field c : Nat) : Bool := if c < 16 then field % 3 != 2 else decide (field < 6)

/-- Is a row valid (R551). -/
def rowOk (v : Nat) : Bool :=
  let check := (List.range 6).foldl (fun x i => x ^^^ bitsAt v (i * 8) 8) 0x5A
  let field := bitsAt v 4 4
  let bay := bitsAt v 8 7
  let tile := bitsAt v 15 4
  let place := decide (field ≤ 8) && bitsAt v 7 0 == 0
  bitsAt v 56 8 == 0xA5 && bitsAt v 48 8 == check && place && (match bitsAt v 0 4 with
    | 1 => decide (bay ≤ 65) && decide (tile ≤ 8) && bitsAt v 19 29 == 0
    | 2 => decide (bay ≤ 65) && tile == 0 && bitsAt v 19 29 == 0
    | 3 => decide (bay ≤ 65) && decide (tile ≤ 8) && decide (bitsAt v 19 4 ≤ 4) && bitsAt v 46 2 == 0
        && ([0, 3].contains (bitsAt v 19 4) || tile == 0)
    | 4 => bay == 0 && tile == 0 && crossingExists field (bitsAt v 19 5) && bitsAt v 43 5 == 0
    | 5 => bay == 0 && tile == 0 && decide (bitsAt v 19 4 ≤ 11) && bitsAt v 33 15 == 0
    | 6 => bay == 0 && tile == 0 && decide (bitsAt v 19 6 ≤ 35) && decide (bitsAt v 25 5 ≤ 17) && bitsAt v 30 18 == 0
    | _ => false)

/-- The row of a mapping-out: a tile (TYPE 1) or a bay (TYPE 2), with CHECK and COMMIT. -/
def rowValue (type field bay tile : Nat) : Nat :=
  let low := type + field * 16 + bay * 256 + tile * 2 ^ 15
  low + ((List.range 6).foldl (fun x i => x ^^^ bitsAt low (i * 8) 8) 0x5A) * 2 ^ 48 + 0xA5 * 2 ^ 56

/-- The rows in use, in ascending order. -/
def usedRows (s : State) : List Nat := (s.otp.rows.filter fun r => r.2 != 0).map (·.2)

/-! ### The map in force -/

/-- Key of a physical tile. -/
def physKey (field bay tile : Nat) : Nat := (field * 66 + bay) * 9 + tile
/-- The good tiles of a physical bay, ascending. -/
def goodTiles (s : State) (field bay : Nat) : List Nat := (List.range 9).filter fun t => !s.badTiles.contains (physKey field bay t)
/-- Is a physical bay bad: by a BAY row, or by two or more bad tiles. -/
def bayBad (s : State) (field bay : Nat) : Bool :=
  s.badBays.contains (field * 66 + bay) || decide ((goodTiles s field bay).length ≤ 7)
/-- The physical bay of a logical one: its own unless the map says otherwise; 255 where it is LOST. -/
def physBay (s : State) (field bay : Nat) : Nat := Map.get s.bayMap bay (field * 64 + bay)
/-- Is a logical bay LOST. -/
def bayLost (s : State) (field bay : Nat) : Bool := physBay s field bay == 255
/-- The physical tile of a logical tile of a good bay: the (t + 1)-th good one. -/
def physTile (s : State) (field bay tile : Nat) : Option Nat :=
  if bayLost s field bay then none else (goodTiles s field (physBay s field bay))[tile]?

/-- Spare bays of a field that serve no bay and may be used. -/
def freeSpares (s : State) (field : Nat) : List Nat :=
  [64, 65].filter fun b => !bayBad s field b && !(s.bayMap.any fun e => e.1 / 64 == field && e.2 == b)

/-- A logical bay takes a spare, or is LOST: then no partition holds it (R551 step 4). -/
def replaceBay (field bay : Nat) (s : State) : State :=
  match freeSpares s field with
  | b :: _ => { s with bayMap := Map.set s.bayMap (field * 64 + bay) b }
  | [] =>
    let s : State := { s with bayMap := Map.set s.bayMap (field * 64 + bay) 255 }
    let s := rset s .defLost field (rget s .defLost field ||| BitVec.ofNat 64 (2 ^ bay))
    (List.range 256).foldl (fun s p =>
      let i := p * 9 + field
      if (rget s .partBays i).getLsbD bay then rset s .partBays i (rget s .partBays i &&& ~~~ BitVec.ofNat 64 (2 ^ bay)) else s) s

/-- DEF_STATUS follows (R569). -/
def setDefStatus (s : State) : State :=
  let rows := s.otp.rows.filter fun r => r.2 != 0
  let field := (rows.filter fun r => decide (r.1 ≥ 2048)).length
  let spared := (List.range 594).filter fun b => decide (b % 66 < 64) && !bayBad s (b / 66) (b % 66)
    && (List.range 8).any fun t => s.badTiles.contains (physKey (b / 66) (b % 66) t)
  let s := fset F.defStatus_factoryRows 0 (rows.length - field) s
  let s := fset F.defStatus_fieldRows 0 field s
  let s := fset F.secOtpUse_defectRows 0 field s
  let s := fset F.defStatus_spentBad 0 (rows.filter fun r => !rowOk r.2).length s
  let s := fset F.defStatus_full 0 (bit01 (decide (field ≥ 64))) s
  let s := fset F.defStatus_tilesSpared 0 spared.length s
  let s := fset F.defStatus_baysSpared 0 (s.bayMap.filter fun e => e.2 == 64 || e.2 == 65).length s
  fset F.defStatus_lostBays 0 (s.bayMap.filter fun e => e.2 == 255).length s

/-- One valid row takes effect before training (R551). -/
def applyRow (s : State) (v : Nat) : State :=
  let field := bitsAt v 4 4
  match bitsAt v 0 4 with
  | 1 => { s with badTiles := s.badTiles ++ [physKey field (bitsAt v 8 7) (bitsAt v 15 4)] }
  | 2 => { s with badBays := s.badBays ++ [field * 66 + bitsAt v 8 7] }
  | 3 => { s with sramSpares := s.sramSpares ++ [v] }
  | 5 =>
    let k := bitsAt v 19 4 * 8 + bitsAt v 23 3
    { s with siteLanes := Map.set s.siteLanes k (Map.get s.siteLanes 0 k ||| 2 ^ bitsAt v 26 7) }
  | 4 =>
    let k := (field * 32 + bitsAt v 19 5) * 2 + bitsAt v 24 1
    fbump F.scarfStatus_sparesUsed (field * 32 + bitsAt v 19 5) 1
      { s with bridgeSpares := Map.set s.bridgeSpares k (Map.get s.bridgeSpares 0 k + 1) }
  | 6 => rset s .idnLanes (bitsAt v 19 6) (rget s .idnLanes (bitsAt v 19 6) ||| BitVec.ofNat 64 (2 ^ bitsAt v 25 5))
  | _ => s

/-- Step 5: every row is read, invalid ones are recorded, and spares are assigned (R551). -/
def applyDefectMap (s : State) : State :=
  let s : State := { s with badTiles := [], badBays := [], bayMap := [], bridgeSpares := [], sramSpares := [], siteLanes := [] }
  let s := (List.range 9).foldl (fun s f => rset s .defLost f 0) s
  let s := (usedRows s).foldl (fun s v => if rowOk v then applyRow s v
    else logErr { code := 0x0C06, cls := clsDegraded, detail := v } s) s
  let bad := (List.range 576).filter fun b => bayBad s (b / 64) (b % 64)
  setDefStatus (bad.foldl (fun s b => replaceBay (b / 64) (b % 64) s) s)

/-! ### Mapping out (R552, R553) -/

/-- The next field row to program. -/
def nextRow (s : State) : Option Nat :=
  (List.range 64).map (· + 2048) |>.find? fun r => Map.get s.otp.rows 0 r == 0
    && !(s.otpJobs.any fun j => match j with | .defect k _ _ => k == r | _ => false)

/-- Program a mapping-out's row, or, with every field row used, only record it (R553). -/
def programRow (value : Nat) (s : State) : State := match nextRow s with
  | some r => { s with otpJobs := s.otpJobs ++ [.defect r value false] }
  | none =>
    logErr { code := 0x0C07, cls := clsDegraded, detail := value } (fset F.defMapout_result 0 2 (fset F.defStatus_full 0 1 s))

/-- Map out a logical tile or its bay now: the row's value, and the map after. A tile whose bay already uses its spare takes a
BAY row. -/
def mapOutNow (field bay tile : Nat) (whole : Bool) (s : State) : State :=
  let pb := physBay s field bay
  match physTile s field bay tile with
  | none => s
  | some pt =>
    let whole := whole || decide ((goodTiles s field pb).length ≤ 8)
    if whole then
      let s : State := { s with badBays := s.badBays ++ [field * 66 + pb], bayMap := Map.erase s.bayMap (field * 64 + bay) }
      setDefStatus (programRow (rowValue 2 field pb 0) (replaceBay field bay s))
    else
      let s : State := { s with badTiles := s.badTiles ++ [physKey field pb pt] }
      setDefStatus (programRow (rowValue 1 field pb pt) s)

/-- Pending mappings-out of a set of bays are applied (R552, R556). -/
def applyMapouts (bays : List Nat) (s : State) : State :=
  let mine := s.mapouts.filter fun m => bays.contains (bayOf m.1)
  let s := mine.foldl (fun s m => mapOutNow (fieldOf m.1) (bayOf m.1 % 64) (m.1 % 8) m.2 s)
    { s with mapouts := s.mapouts.filter fun m => !bays.contains (bayOf m.1) }
  fset F.defMapout_pending 0 s.mapouts.length s

/-- A write of DEF_MAPOUT (R570). -/
def writeDefMapout (v : Word) (s : State) : State :=
  let g := bitsAt v.toNat 0 19
  let s := fset F.defMapout_wholeBay 0 (bitsAt v.toNat 19 1) (fset F.defMapout_tile 0 g s)
  if !bitOn v.toNat 20 then s
  else match localTile g with
    | none => fset F.defMapout_result 0 3 s
    | some t =>
      if hubOfTile g ≠ hubId s ∨ bayLost s (fieldOf t) (bayOf t % 64) ∨ s.mapouts.length ≥ 64 then fset F.defMapout_result 0 3 s
      else queueMapout t (bitOn v.toNat 19) s

/-- DEF_MAPOUT_QUEUE: a write with QUEUE = 1. -/
def execDefMapoutQueue (v : Word) (s : State) : Result := .next (if bitOn v.toNat 20 then writeDefMapout v s else s)

/-! ### The tile query (R29) -/

/-- A write of GCTL_TILE_QUERY starts a resolution. -/
def writeTileQuery (v : Word) (s : State) : State :=
  fset F.gctlTileWhere_pending 0 1 (rset s .gctlTileQuery 0 (BitVec.ofNat 64 (bitsAt v.toNat 0 19)))

/-- GCTL_TILE_QUERY_WRITE. -/
def execGctlTileQueryWrite (v : Word) (s : State) : Result := .next (writeTileQuery v s)

/-- What GCTL_TILE_WHERE says of a query. -/
def tileWhere (s : State) : Nat :=
  let f := fget s F.gctlTileQuery_field 0
  let b := fget s F.gctlTileQuery_bay 0
  if f > 8 then 0
  else if fget s F.gctlTileQuery_hub 0 ≠ hubId s then 2 ^ 16
  else match physTile s f b (fget s F.gctlTileQuery_tile 0) with
    | none => 0
    | some t => f + physBay s f b * 16 + t * 2 ^ 11 + 2 ^ 15

/-- TILE_QUERY_RESOLVED. -/
def execTileQueryResolved (s : State) : Result :=
  .next (if fon s F.gctlTileWhere_pending 0 then rset s .gctlTileWhere 0 (BitVec.ofNat 64 (tileWhere s)) else s)

end Sys2Proof.Machine
end

