-- ==== Sys2Proof/Machine/Resets.lean ====
section
/-! DEFINITION. Machine/Resets.lean: the resets of partition and field (R212, R324, R499, R517, R556, R557), the silent teardown of
contexts (R437, R489), and what a TDISP interface that goes to ERROR brings about (R514). -/
namespace Sys2Proof.Machine

/-! ### Teardown -/

/-- Tear down the contexts of a partition as CTX_DESTROY does. -/
def tearPart (p : Nat) (s : State) : State :=
  s.ctxs.foldl (fun s e =>
    let k := ctxGet s e.1
    if e.1 = 0 ∨ k.part ≠ p ∨ k.state = .free ∨ k.state = .dying then s else teardownStart e.1 false s) s

/-! ### TDISP (R514, R517) -/

/-- Set the TDISP state of a partition's interface. -/
def setTdisp (p v : Nat) (s : State) : State := fset F.partSec_tdisp p v s

/-- Action of STOP_INTERFACE_REQUEST and of the events that lead to ERROR: disable at the next edge, tear down, clear. -/
def tdispEnd (p : Nat) (silent : Bool) (s : State) : State :=
  let s := disableReq p s
  let s := if silent then tearSilent (· == p) s else tearPart p s
  clearAsk p s

/-- A locked or running interface goes to ERROR. -/
def tdispError (p : Nat) (silent : Bool) (s : State) : State :=
  if partLocked s p then tdispEnd p silent (setTdisp p 3 s) else s

/-! ### Partition reset (R212, R556) -/

/-- A tick that is reported and not yet decided is spoiled by a reset (R212): a further report says so, unless the first still waits for
the lock-step comparison. -/
def cutReport (p : Nat) (s : State) : State :=
  let w := partGet s p
  if !w.undecided || w.behind then s
  else
    let s := partMod p (fun w => { w with spoils := w.spoils ++ [⟨.link (0x50000 + p), false⟩] }) s
    if s.dom.held.any (·.1 == p) then s
    else match w.inForce with
      | some r => sendReport w.closing [⟨p, 1, (reportFit s p r false).2, 0xFF⟩] s
      | none => s

/-- What a reset does to the partition's tick: before the decision the tick is discarded on every hub of the partition, by the spoil it
reports, and the partition is disabled, at the decision at the latest; otherwise it is disabled now. -/
def tickCut (p : Nat) (s : State) : State :=
  let w := partGet s p
  if !w.enabled then partMod p (fun w => { w with enabling := false }) s
  else if w.live ∨ w.undecided then
    let s := if w.undecided then s else spoil p (.link (0x50000 + p)) false s
    cutReport p (partMod p (fun w => { w with cut := true, stopping := true, enabling := false }) s)
  else disablePart p s

/-- The registers of a tile (R104 to R106, R133). -/
def tileRegs : List RegName := [.tileStatus, .tileErr, .tileCeCount, .tileSpoilCount, .tileVflags]
/-- The registers of a walker (R174 to R176). -/
def walkerRegs : List RegName := [.kvwStatus, .kvwErr, .kvwBytes, .kvwFaults]

/-- A tile's state and store are as after power-on, the store zero. -/
def tileReset (t : Nat) (s : State) : State :=
  let s := tileRegs.foldl (fun s r => rreset r t s) (rreset .kvwRing t s)
  { s with tiles := Map.erase s.tiles t, store := Mem.clear s.store (t * storeBytes) storeBytes }

/-- The units of a bay are reset and its interface is held in reset (R324). -/
def bayReset (b : Nat) (s : State) : State :=
  let s := (List.range 8).foldl (fun s k => tileReset (b * 8 + k) s) s
  let s := walkerRegs.foldl (fun s r => rreset r b s) s
  { s with bays := Map.erase s.bays b
           netReset := if s.netReset.contains b then s.netReset else s.netReset ++ [b] }

/-- Requests that units of bays in reset have outstanding end: their responses are discarded (R324). -/
def dropNetReqs (bays : List Nat) (s : State) : State :=
  { s with netReqs := s.netReqs.filter fun r => match nodeBay r.src with
      | some b => !bays.contains b
      | none => true }

/-- Reset bays: units, interfaces, and their pending mappings-out. -/
def resetBays (bays : List Nat) (s : State) : State := applyMapouts bays (dropNetReqs bays (bays.foldl (fun s b => bayReset b s) s))

/-- A partition reset but for its bays: the partition's block (R215 to R218), the tick, and a confidential interface (R517). -/
def resetPartState (p : Nat) (s : State) : State :=
  let s := (.partCfg :: .partIdoon :: partShown).foldl (fun s r => rreset r p s) s
  let s := tickCut p s
  if partLocked s p then clearAsk p (setTdisp p 3 s) else s

/-- A partition reset. -/
def resetPartition (p : Nat) (s : State) : State :=
  let bays := baysOfPart s p
  resetBays bays (resetPartState p s)

/-- RESET of one scope. -/
def resetCmd (scope : Nat) (h : Nat → State → Done × State) (cmd : Nat) (s : State) : Result :=
  .next (startCmd 0x0603 (fun p => bitsAt p.w1 0 2 == scope) (fun c s => h (bitsAt c.pkt.w1 2 8) s) cmd s)

/-- RESET_PARTITION: complete once the interfaces have left reset and the rows of mappings-out are written. -/
def execResetPartition (cmd : Nat) (s : State) : Result :=
  resetCmd 0 (fun p s =>
    let bays := baysOfPart s p
    (.wait (.reset bays []), resetPartition p s)) cmd s

/-! ### Field reset (R556) -/

/-- The slices of a field. -/
def slicesOfField (f : Nat) : List Nat := (List.range 256).map (· + f * 256)

/-- A slice is emptied: dirty lines are written back, agents lose their copies, and waiting requests find the unit in reset. -/
def sliceStop (i : Nat) (s : State) : State :=
  match Map.get? s.slices i with
  | none => s
  | some v =>
    let s := (v.lines.filter (·.dirty)).foldl (fun s l => devStore (l.line * 64) l.data s) s
    let s := sliceMod i (fun v => { v with lines := [], queue := [] }) s
    let s := v.queue.foldl (fun s q => cohErr q i 4 s) s
    (v.dir.filter fun e => !v.busy e.line).foldl (fun s e => beginTxn i e.line .drop e.holders true s) s

/-- RESET_FIELD: every partition with a bay in the field, then the field's core; complete once its slices are empty and its
interfaces have left reset. A pending map-out of a bay of the field that no partition owns is applied too (DEDUCED, log entry 102: R19 and
R552 name only the reset of the partition that owns a bay). -/
def execResetField (cmd : Nat) (s : State) : Result :=
  resetCmd 1 (fun f s =>
    if f > 8 then (.st 2, s)
    else
      let parts := (List.range 256).filter fun p => rget s .partBays (p * 9 + f) != 0
      let own := (List.range 64).map (· + f * 64)
      let bays := (parts.flatMap (baysOfPart s) ++ own).eraseDups
      let s := parts.foldl (fun s p => resetPartState p s) s
      let s := resetBays bays s
      (.wait (.reset bays (slicesOfField f)), (slicesOfField f).foldl (fun s i => sliceStop i s) s)) cmd s

end Sys2Proof.Machine
end

