-- ==== Sys2Proof/Machine/Host.lean ====
section
/-! DEFINITION. Machine/Host.lean: the host ports (R400 to R447): link states, errors and containment, power states, resets, the loss
of the host link, hot-plug assist, ATS invalidation, bias flips and BAR4 decoders. -/
namespace Sys2Proof.Machine

/-! ### Links -/

/-- LSTATE of a port (R442). -/
def lstate (s : State) (port : Nat) : Nat := fget s F.hostpPortStatus_lstate port
/-- Is a port a host port. -/
def isPort (s : State) (port : Nat) : Bool := decide (port < 4) && lstate s port != 0
/-- Is a port in DL_Active. -/
def dlActive (s : State) (port : Nat) : Bool := decide (port < 4 ∧ 3 ≤ lstate s port ∧ lstate s port ≤ 5)

/-- HOSTP_HUB_STATUS.UP follows (R439). -/
def setUp (s : State) : State :=
  fset F.hostpHubStatus_up 0 (maskOf ((List.range 4).filter (portUp s))) s

/-- New causes of host wait show at once; they end only at an edge (R405, R432). -/
def markWait (s : State) : State :=
  s.parts.foldl (fun s e =>
    if e.2.enabled && waitCause s e.1 then
      rset s .hostpWait (e.1 / 64) (BitVec.ofNat 64 (putBits (rget s .hostpWait (e.1 / 64)).toNat (e.1 % 64) 1 1))
    else s) s

/-- The stores a port holds leave in order where it may send them (R417, R432). -/
def sendHeld (port : Nat) (s : State) : State :=
  let due := fun (s : State) (h : HostStore) => h.port == port && !h.sent && !waitCause s h.part
  let s := s.unacked.foldl (fun s h =>
    if due s h then emit .host 0x01 [port, h.part, hostAddr s h.part h.addr, bit01 h.ordered] h.data
      (fwrap F.hostpTxbytes_count F.hostpTxbytes_ovf port h.data.length s)
    else s) s
  { s with unacked := s.unacked.map fun h => if due s h then { h with sent := true } else h }

/-- The port left DL_Active or was contained: what it had sent counts as not yet acknowledged (R417). -/
def unsend (port : Nat) (s : State) : State :=
  { s with unacked := s.unacked.map fun h => if h.port = port then { h with sent := false } else h }

/-! ### Reads in flight (R431) -/

/-- Does a command read or translate host pages of partitions bound to a port. -/
def cmdOnPort (s : State) (port : Nat) (c : Cmd) : Bool :=
  (c.step == .running || c.step == .ats) && match moveOf s c with
    | .error _ => false
    | .ok m => m.pages.any fun g => boundPort s (ctxGet s g.ctx).part == port && match walk s g.ctx g.va with
      | .ok l => l.host
      | .error _ => false

/-- Reads of a port in flight complete with status 0x4: ticks that lose one spoil with the port as their source, mover commands end
with MEM_ERROR. -/
def readsLost (port : Nat) (s : State) : State :=
  let s := s.tiles.foldl (fun s e =>
    let p := partOfTile s e.1
    if boundPort s p = port ∧ e.2.ldQ.any (·.touchesHost) then
      tileMod e.1 (fun τ => { τ with ldQ := τ.ldQ.filter fun x => !x.touchesHost }) (spoil p (.link (0x40000 + port)) false s)
    else s) s
  (s.cmds.filter (cmdOnPort s port)).foldl (fun s c => finish c 0x0B 0 0 [] s) s

/-! ### Errors and containment (R430, R431, R576 group 0x08) -/

/-- A port is contained: it sends nothing, its reads are lost, its partitions wait. -/
def contain (port : Nat) (s : State) : State :=
  markWait (setUp (readsLost port (unsend port (fset F.hostpPortStatus_contained port 1 s))))

/-- A cause of R430: it enters HOSTP_CONTAIN and leaves a record, and contains the port where CONTAIN_EN is set. -/
def portError (port cause : Nat) (s : State) : State :=
  let on := fon s F.hostpPortCtrl_containEn port
  let s := firstErr F.hostpContain_valid F.hostpContain_more
    [(F.hostpContain_cause, cause), (F.hostpContain_tick, fget s F.tickCounter_count 0 % 2 ^ 32)] port s
  let s := logErr { code := 0x0800 + cause, cls := if on then clsDegraded else clsInfo, detail := port
                    unitReg := (rget s .hostpContain port).toNat } s
  if on then contain port s else s

/-- COMPLETION_TIMEOUT (R430): a hub read of a partition gets no completion. -/
def execCompletionTimeout (port part : Nat) (s : State) : Result :=
  .next (if isPort s port then portError port 4 (spoil part (.link (0x40000 + port)) false s) else s)

/-- HUB_READ_COMPLETION (R401, R426): `n` bytes come back for a partition; with EP set the read is uncorrectable, so the tick spoils, and
the TLP is a containment cause. A contained port discards what it receives. The bytes themselves reach their requester with its
own completion (TLD_COMPLETE, MOVER_COMPLETE). -/
def execHubReadCompletion (port part n : Nat) (ep : Bool) (s : State) : Result :=
  .next (
    if !dlActive s port ∨ fon s F.hostpPortStatus_contained port then s
    else
      let s := fwrap F.hostpRxbytes_count F.hostpRxbytes_ovf port n (linkWake port s)
      if ep then portError port 3 (spoil part (.link (0x40000 + port)) false s) else s)

/-- A write of RELEASE (R432): ignored while VALID is set or where nothing is contained. -/
def portRelease (port : Nat) (s : State) : State :=
  if fon s F.hostpContain_valid port ∨ !fon s F.hostpPortStatus_contained port then s
  else
    let s := setUp (fset F.hostpPortStatus_contained port 0 s)
    if dlActive s port then sendHeld port s
    else if lstate s port = 1 then fset F.hostpPortStatus_lstate port 2 s else s

/-- HOSTP_PORT_RELEASE: from PF BAR0 of port `via`, or from the management port (none). -/
def execHostpPortRelease (port : Nat) (via : Option Nat) (s : State) : Result :=
  .next (if isPort s port ∧ via ≠ some port then portRelease port s else s)

/-! ### IDE streams (R514, R515, R518) -/

/-- The selective stream of a function leaves the Secure state. -/
def ideLost (f : Nat) (silent : Bool) (s : State) : State :=
  if Map.get s.ide 0 f = 0 then s
  else tdispError f silent { s with ide := Map.erase s.ide f }

/-- Every stream of the functions bound to a port, and its link stream. -/
def idePortLost (port : Nat) (silent : Bool) (s : State) : State :=
  let s := s.ide.foldl (fun s e => if e.1 < 256 ∧ boundPort s e.1 = port then ideLost e.1 silent s else s) s
  fset F.hostpPortStatus_ideLink port 0 { s with ide := Map.erase s.ide (256 + port) }

/-! ### DL_Active and link power (R405, R417, R433) -/

/-- A port leaves DL_Active for a link state. -/
def linkDown (port st : Nat) (s : State) : State :=
  let was := dlActive s port
  let s := fset F.hostpPortStatus_width port 0 (fset F.hostpPortStatus_rate port 0 (fset F.hostpPortStatus_lstate port st s))
  let s := fset F.hostpPortStatus_ideLink port 0 (fset F.hostpPortStatus_cxl port 0 (fset F.hostpPortStatus_flit port 0 s))
  let s := setUp s
  if was then markWait (readsLost port (unsend port (idePortLost port false s))) else s

/-- DL_ACTIVE_LOSS: `surprise` that the loss is a cause of R430. -/
def execDlActiveLoss (port : Nat) (surprise : Bool) (s : State) : Result :=
  .next (if dlActive s port then
      let s := linkDown port 1 s
      if surprise then portError port 5 s else s
    else s)

/-- DL_ACTIVE_UP (R400, R401, R417): the link has trained at a rate and width code, in flit mode or not, with CXL protocols or
not; stores without an acknowledgement are sent again. -/
def execDlActiveUp (port rate width : Nat) (flit : Bool) (cxl : Nat) (s : State) : Result :=
  .next (if isPort s port ∧ lstate s port = 2 ∧ 1 ≤ rate ∧ rate ≤ 6 ∧ [4, 8, 16].contains width then
      let s := fset F.hostpPortStatus_width port width (fset F.hostpPortStatus_rate port rate (fset F.hostpPortStatus_lstate port 3 s))
      let s := fset F.hostpPortStatus_cxl port (if flit ∨ rate = 6 then cxl % 8 else 0)
        (fset F.hostpPortStatus_flit port (bit01 (flit || rate == 6)) s)
      let s := setUp s
      let s := if fget s F.hostpHubStatus_up 0 ≠ 0 then fset F.hostpHubStatus_downMs 0 0 s else s
      sendHeld port s
    else s)

/-- L0S_ENTRY: non-flit mode only. -/
def execL0sEntry (port : Nat) (s : State) : Result :=
  .next (if isPort s port ∧ lstate s port = 3 ∧ !fon s F.hostpPortStatus_flit port then fset F.hostpPortStatus_lstate port 4 s else s)

/-- L1_ENTRY. -/
def execL1Entry (port : Nat) (s : State) : Result :=
  .next (if isPort s port ∧ (lstate s port = 3 ∨ lstate s port = 4) then fset F.hostpPortStatus_lstate port 5 s else s)

/-- L1_EARLY_EXIT: 10 µs before an edge. -/
def execL1EarlyExit (port : Nat) (s : State) : Result :=
  .next (if isPort s port ∧ lstate s port = 5 ∧ fon s F.hostpPortCtrl_l1EarlyExit port then linkWake port s else s)

/-- HOSTP_PORT_RETRAIN (R443): the link goes through recovery and trains again. -/
def portRetrain (port : Nat) (s : State) : State :=
  if lstate s port = 1 then fset F.hostpPortStatus_lstate port 2 s
  else if dlActive s port then linkDown port 2 s else s

/-- HOSTP_PORT_RETRAIN. -/
def execHostpPortRetrain (port : Nat) (s : State) : Result := .next (if isPort s port then portRetrain port s else s)

/-- A write of HOSTP_PORT_CTRL from PF BAR0 of a port or the management port. -/
def writePortCtrl (port : Nat) (via : Option Nat) (v : Word) (s : State) : State :=
  let s := fset F.hostpPortCtrl_l1EarlyExit port (bitsAt v.toNat 3 1) (fset F.hostpPortCtrl_containEn port (bitsAt v.toNat 0 1) s)
  let s := if bitOn v.toNat 1 && via != some port then portRelease port s else s
  if bitOn v.toNat 2 then portRetrain port s else s

/-! ### Resets of a port and of a function (R436, R546) -/

/-- The host side of a port is as after reset: configuration space, MSI-X, HDM decoders, IDE keys, translation cache. -/
def portHostReset (port : Nat) (silent : Bool) (s : State) : State :=
  let s : State := { s with cfgSpace := Map.keep s.cfgSpace fun k => decide (k / 2 ^ 20 ≠ port)
                            msix := Map.keep s.msix fun k => decide (k / 2 ^ 24 ≠ port)
                            pba := s.pba.filter fun k => decide (k / 2 ^ 20 ≠ port)
                            hdm := Map.keep s.hdm fun k => decide (k / 256 ≠ port)
                            atc := s.atc.filter fun e => e.port != port
                            invs := s.invs.filter fun e => e.port != port
                            d3 := s.d3.filter fun k => decide (k / 256 ≠ port) }
  let s := fset F.hostpPortStatus_pfDstate port 0 (fset F.hostpAts_invPending port 0 (setAts port s))
  idePortLost port silent s

/-- FUNDAMENTAL_RESET: 0 the fundamental reset pin, 1 a hot reset, 2 link disable. -/
def execFundamentalReset (port kind : Nat) (s : State) : Result :=
  .next (
    let s : State := if kind = 0 then { s with perst := s.perst.filter (· != port) } else s
    if !isPort s port then s
    else portHostReset port false (linkDown port (if kind = 1 then 2 else 1) s))

/-- PERST_DEASSERT (R435, R546): the port trains once bring-up step 4 has ended; a wake request ends. -/
def execPerstDeassert (port : Nat) (s : State) : Result :=
  .next (if port ≥ 4 then s
    else
      let s : State := { s with perst := if s.perst.contains port then s.perst else s.perst ++ [port], wakeLow := false }
      let s := emit .pin 0x06 [0] [] s
      if lstate s port = 1 ∧ fget s F.bootStatus_step 0 > 4 then fset F.hostpPortStatus_lstate port 2 s else s)

/-- FUNCTION_LEVEL_RESET (R436, R489, R514): the partition is reset, its contexts are torn down in silence, and a confidential one is
cleared. -/
def execFunctionLevelReset (port fn : Nat) (s : State) : Result :=
  .next (if !dlActive s port ∨ fn ≥ 256 then s
    else
      let s := resetPartition fn s
      let s := tearSilent (· == fn) s
      let s : State := { s with cfgSpace := Map.keep s.cfgSpace fun k => decide (k / 2 ^ 12 ≠ port * 256 + fn)
                                msix := Map.keep s.msix fun k => decide (k / 2 ^ 16 ≠ port * 256 + fn)
                                pba := s.pba.filter fun k => decide (k / 2 ^ 12 ≠ port * 256 + fn)
                                d3 := s.d3.filter fun k => k != port * 256 + fn, ide := Map.erase s.ide fn }
      let s := if fn = 0 then fset F.hostpPortStatus_pfDstate port 0 s else s
      if confidential s fn then clearAsk fn s else s)

/-! ### Power states of functions (R434, R435) -/

/-- D3HOT_ENTRY: the partition waits for the host and PME may be signalled. -/
def execD3hotEntry (port fn : Nat) (s : State) : Result :=
  .next (if !isPort s port ∨ fn ≥ 256 then s
    else
      let k := port * 256 + fn
      let s : State := { s with d3 := if s.d3.contains k then s.d3 else s.d3 ++ [k] }
      let s := if fn = 0 then fset F.hostpPortStatus_pfDstate port 3 s else emit .host 0x20 [port, fn] [] s
      markWait s)

/-- D0_RETURN: held stores leave; host wait ends at the next edge. -/
def execD0Return (port fn : Nat) (s : State) : Result :=
  .next (if !isPort s port ∨ !s.d3.contains (port * 256 + fn) then s
    else
      let s : State := { s with d3 := s.d3.filter (· != port * 256 + fn) }
      sendHeld port (if fn = 0 then fset F.hostpPortStatus_pfDstate port 0 s else s))

/-- Are the functions of every host port in D3hot. -/
def allD3 (s : State) : Bool := (List.range 4).all fun k => lstate s k == 0 || s.d3.contains (k * 256)

/-- D3COLD_ENTRY: main power goes, the standby domain stays; what the start before had verified stands (R434). -/
def execD3coldEntry (s : State) : Result :=
  .next (if !allD3 s ∨ !fon s F.pwrStatus_mainOn 0 then s
    else
      let n := powerOn false s
      let n : State := { n with cold := true, cfg := s.cfg, imgHash := s.imgHash, licHash := s.licHash, cfgHash := s.cfgHash, nonce := s.nonce, ident := s.ident
                                flash := s.flash }
      let n := rset n .secDebug 0 (rget s .secDebug 0)
      let n := rset n .secStatus 0 (rget s .secStatus 0)
      let n := fset F.bootStatus_cfgDefault 0 (fget s F.bootStatus_cfgDefault 0) (fset F.bootStatus_fwVersion 0 (fget s F.bootStatus_fwVersion 0) n)
      fset F.memStatus_allDirty 0 1 (fset F.bootStatus_step 0 4 n))

/-- Request wake (R435): PME from the PF of HP0 in D3hot, HOST_WAKE_N in D3cold. -/
def wake (s : State) : State :=
  if s.cold then emit .pin 0x06 [1] [] { s with wakeLow := true }
  else if s.d3.contains 0 then emit .host 0x20 [0, 0] [] s else s

/-! ### Hot-plug assist (R428, R429, R440) -/

/-- HPA_BUTTON_PRESS, debounced: BTN_EVENT, vector 0 of the PF on HP0, and a wake request. -/
def execHpaButtonPress (s : State) : Result :=
  .next (if !fon s F.hostpHotplug_assistEn 0 then s
    else wake (msixRaise 0 0 0 (fset F.hostpHotplug_btnEvent 0 1 s)))

/-- Steps 2 to 6 of the loss sequence begin (R437): the host side is reset, and the hub departs; outside a domain the departure
is at once. `declared` that the loss is recorded. -/
def lossBegin (declared : Bool) (s : State) : State :=
  let s := if declared then fset F.hostpHubStatus_lost 0 1 (logErr { code := 0x0813, cls := clsDepart } s) else s
  let s := setHubState 3 (fset F.hostpHubStatus_recovering 0 1 s)
  let s := (List.range 4).foldl (fun s k => portHostReset k true s) s
  let s := (List.range 256).foldl (fun s p => if partLocked s p then setTdisp p 3 s else s) s
  let s := (List.range 1024).foldl (fun s k => rset s .hostfBar4 k 0) s
  let s := (List.range 1024).foldl (fun s k => rset s .hostpBias k 0) s
  let s : State := { s with ide := [], lossOwed := true }
  if isMember s then leaveDomain s else lossDepart (faultAll 4 (cancelTiles s))

/-- HOST_LINK_LOST: every enabled port has been out of DL_Active for 100 ms; a contained port whose link is up is not out. -/
def execHostLinkLost (s : State) : Result :=
  .next (if fget s F.hostpHubStatus_enabled 0 = 0 ∨ (List.range 4).any (dlActive s) ∨ fget s F.bootStatus_hubState 0 ≠ 1 then s
    else lossBegin true (fset F.hostpHubStatus_downMs 0 100 s))

/-- The end of an orderly removal (R429 steps 5 and 6): confidential partitions are cleared, presence is released, steps 3 to 6 of
the loss sequence run, and the board's power controller is asked to remove power. -/
def hotRemove (s : State) : State :=
  let s := (List.range 256).foldl (fun s p => if confidential s p then clearAsk p s else s) s
  let s := removalStep { s with lossOwed := true, removing := true }
  if isMember s then leaveDomain s else lossDepart (faultAll 4 (cancelTiles s))

/-- A write of HOSTP_HOTPLUG (R440). -/
def writeHotplug (v : Word) (s : State) : State :=
  let s := if bitOn v.toNat 1 then fset F.hostpHotplug_btnEvent 0 0 s else s
  let s := fset F.hostpHotplug_pwrInd 0 (bitsAt v.toNat 4 2) (fset F.hostpHotplug_attnInd 0 (bitsAt v.toNat 2 2) s)
  let s := emit .pin 0x09 [fget s F.hostpHotplug_attnInd 0, fget s F.hostpHotplug_pwrInd 0] [] s
  let s := if bitOn v.toNat 9 then wake s else s
  if bitOn v.toNat 6 && fon s F.hostpHotplug_assistEn 0 then hotRemove s else s

/-- HOSTP_HOTPLUG_REMOVE: a write with REMOVE = 1. -/
def execHostpHotplugRemove (v : Word) (s : State) : Result := .next (if bitOn v.toNat 6 then writeHotplug v s else s)
/-- HOSTP_HOTPLUG_WAKE_REQ: a write with WAKE_REQ = 1. -/
def execHostpHotplugWakeReq (v : Word) (s : State) : Result := .next (if bitOn v.toNat 9 then writeHotplug v s else s)

/-! ### ATS invalidation (R416) -/

/-- Does a host range of an invalidation meet a page of size 2 ^ log2. -/
def invMeets (i : Inval) (page log2 : Nat) : Bool :=
  decide (i.page * 2 ^ i.log2 < (page + 1) * 2 ^ log2) && decide (page * 2 ^ log2 < (i.page + 1) * 2 ^ i.log2)

/-- ATS_INVALIDATE_REQUEST: matching entries are marked; a pinned page that is withdrawn is recorded. -/
def execAtsInvalidateRequest (port fn page log2 itag : Nat) (s : State) : Result :=
  .next (
    if !portUp s port ∨ port ≥ 4 ∨ log2 < 12 ∨ (s.invs.filter (·.port == port)).length ≥ 32 then s
    else
      let i : Inval := ⟨port, itag, fn, page, log2, s.edges⟩
      let s : State := { s with invs := s.invs ++ [i]
                                atc := s.atc.map fun e =>
                                  if e.port = port ∧ e.part = fn ∧ invMeets i e.page e.log2 then { e with marked := true } else e }
      let hit := fun (n : Pin) => n.part == fn && invMeets i (n.host / 65536) 16
      let s := if s.pins.any hit then
          logErr { code := 0x0812, cls := clsInfo, part := some fn, addr := some (page * 2 ^ log2) }
            { s with pins := s.pins.map fun n => if hit n then { n with hit := true } else n }
        else s
      fset F.hostpAts_invPending port (s.invs.filter (·.port == port)).length s)

/-- Is a host store one that an invalidation waits for. -/
def invStore (s : State) (i : Inval) (p a : Nat) : Bool := p == i.part && invMeets i (hostAddr s p a / 4096 * 4096 / 4096) 12
  || (p == i.part && invMeets i (a / 4096) 12)

/-- Have the uses in flight of an invalidation drained: tiles at an edge, movers, staged host stores once sent. -/
def invDrained (s : State) (i : Inval) : Bool :=
  let w := partGet s i.part
  (!w.live || decide (i.edges < s.edges) || !isMember s)
    && !(s.cmds.any fun c => c.step == .running && match moveOf s c with
      | .ok m => m.pages.any fun g => (ctxGet s g.ctx).part == i.part && match walk s g.ctx g.va with
        | .ok l => l.host && invMeets i (l.at g.va / 4096) 12
        | .error _ => false
      | .error _ => false)
    && !(s.unacked.any fun h => !h.sent && invStore s i h.part h.addr)
    && !(w.staged.any fun e => e.kind == .hostStore && invStore s i i.part e.addr)
    && !(w.drains.any fun d => d.egress.any fun e => e.kind == .hostStore && invStore s i i.part e.addr)

/-- ATS_INVALIDATE_DRAINED: the completion is sent. -/
def execAtsInvalidateDrained (port itag : Nat) (s : State) : Result :=
  .next (match s.invs.find? (fun i => i.port == port && i.itag == itag) with
    | none => s
    | some i =>
      if !invDrained s i then s
      else
        let s : State := { s with invs := s.invs.erase i
                                  atc := s.atc.filter fun e => !(e.port == port && e.part == i.part && e.marked && invMeets i e.page e.log2) }
        let s := fset F.hostpAts_invPending port (s.invs.filter (·.port == port)).length (setAts port s)
        emit .host 0x03 [port, i.part, itag] [] (fbump F.hostpInvCount_count port 1 s))

/-! ### Bias flips (R422, R441) -/

/-- A write of HOSTP_BIAS_FLIP. -/
def writeBiasFlip (v : Word) (s : State) : State :=
  if fon s F.hostpBiasFlip_busy 0 then
    rset s .hostpBiasFlip 0 (BitVec.ofNat 64 (putBits (rget s .hostpBiasFlip 0).toNat 0 17 v.toNat))
  else
    let r := bitsAt v.toNat 0 4
    let page := bitsAt v.toNat 4 12
    let s := rset s .hostpBiasFlip 0 (BitVec.ofNat 64 (putBits (rget s .hostpBiasFlip 0).toNat 0 17 v.toNat))
    if !bitOn v.toNat 17 then s
    else if !hostShared s r ∨ page ≥ rangePages s r then fset F.hostpBiasFlip_refused 0 1 s
    else
      let s := fset F.hostpBiasFlip_refused 0 0 s
      if bitOn v.toNat 16 then setBias r page 1 s
      else
        let s := fset F.hostpBiasFlip_busy 0 1 { s with bias := some (r, page) }
        flipCheck ((usedSlices s).foldl (fun s i => cohRun i s) s)

/-- HOSTP_BIAS_FLIP_START: a write with START = 1. -/
def execHostpBiasFlipStart (v : Word) (s : State) : Result := .next (if bitOn v.toNat 17 then writeBiasFlip v s else s)

/-! ### Bindings and BAR4 decoders (R404, R411, R446, R447, R516) -/

/-- Are a partition's resources open to a write: it is disabled and not frozen. -/
def resourceOpen (s : State) (p : Nat) : Bool := !(partGet s p).enabled && !partLocked s p

/-- A write of HOSTF_BIND: the port changes only while the partition is disabled. -/
def writeBind (f : Nat) (v : Word) (s : State) : State :=
  if partLocked s f then logRefused 0x0B02 (some f) s
  else
    let s := fset F.hostfBind_dbFirst f (bitsAt v.toNat 21 20) (fset F.hostfBind_dbCount f (bitsAt v.toNat 8 13) s)
    if bitsAt v.toNat 0 2 = fget s F.hostfBind_port f then s
    else if (partGet s f).enabled then logRefused 0x0B02 (some f) s
    else fset F.hostfBind_port f (bitsAt v.toNat 0 2) s

/-- A write of a BAR4 decoder's first word: ENABLE is accepted where the whole target lies in the partition's memory and the
partition is not confidential. -/
def writeBar4 (f k : Nat) (v : Word) (s : State) : State :=
  let i := f * 4 + k
  if partLocked s f then logRefused 0x0B02 (some f) s
  else
    let s := rset s .hostfBar4 i (BitVec.ofNat 64 (placed 8 6 (bitsAt v.toNat 8 6) + placed 16 24 (bitsAt v.toNat 16 24)))
    if !bitOn v.toNat 0 then s
    else
      let n := fget s F.hostfBar4_sizeLog2 i
      if n < 16 ∨ 40 < n ∨ confidential s f ∨ !inPart s f (fget s F.hostfBar4Dpa_dpa i * 65536) (2 ^ n) then logRefused 0x0811 (some f) s
      else fset F.hostfBar4_enable i 1 s

/-- A write of a BAR4 decoder's second word. An enabled decoder whose new target leaves the partition is disabled. -/
def writeBar4Dpa (f k : Nat) (v : Word) (s : State) : State :=
  let i := f * 4 + k
  if partLocked s f then logRefused 0x0B02 (some f) s
  else
    let s := rset s .hostfBar4Dpa i (BitVec.ofNat 64 (bitsAt v.toNat 0 32))
    if fon s F.hostfBar4_enable i && !inPart s f (bitsAt v.toNat 0 32 * 65536) (2 ^ fget s F.hostfBar4_sizeLog2 i) then
      logRefused 0x0811 (some f) (fset F.hostfBar4_enable i 0 s)
    else s

/-- HOSTF_BAR4_ENABLE: a write of the first word with ENABLE = 1. -/
def execHostfBar4Enable (fn dec : Nat) (v : Word) (s : State) : Result :=
  .next (if fn < 256 ∧ dec < 4 ∧ bitOn v.toNat 0 then writeBar4 fn dec v s else s)

end Sys2Proof.Machine
end

