-- ==== Sys2Proof/Machine/Security.lean ====
section
/-! DEFINITION. Machine/Security.lean: measurements and attestation (R503 to R509), the SPDM responder (R502), IDE keys and TDISP
(R514, R518), and confidential mode (R512, R513). The bytes of SPDM are those of DMTF DSP0274, which R502 names; codes and layout
here are PRESUMED from it (log entry 3). -/
namespace Sys2Proof.Machine

/-! ### Measurements (R503 to R505) -/

/-- A tick record as its 64 bytes (R186). -/
def tickRecBytes (r : TickRec) : List Byte :=
  [r.planPA, r.sessionPA, r.draftPA, r.bdtPA, r.bdtVA, r.stagePA].flatMap (leBytes 8)
    ++ leBytes 4 r.stage64K ++ leBytes 4 r.queueFirst ++ leBytes 4 r.queueCount ++ leBytes 4 0

/-- The current tick record of a partition; zeros where it has none. -/
def tickRecNow (s : State) (p : Nat) : List Byte :=
  let w := partGet s p
  match w.inForce, w.taken, w.offered with
  | some r, _, _ => tickRecBytes r
  | none, some r, _ => tickRecBytes r
  | none, none, some r => tickRecBytes r
  | none, none, none => List.replicate 64 0

/-- The sites that name a partition. -/
def sitesOfPart (s : State) (p : Nat) : List Nat :=
  (List.range 12).filter fun n => fon s F.mtAssign_assigned n && fget s F.mtAssign_partition n == p

/-- Index 0x20: the partition's resources. -/
def resourceDigest (s : State) (p : Nat) : List Byte :=
  let w := fun (r : RegName) (i : Nat) => leBytes 8 (rget s r i).toNat
  Config.sha512 ((List.range 9).flatMap (fun f => w .partBays (p * 9 + f)) ++ (List.range 8).flatMap (fun k => w .partMem (p * 8 + k))
    ++ w .partSec p ++ w .partSluice p ++ (sitesOfPart s p).flatMap (w .mtAssign) ++ w .hostfBind p
    ++ (List.range 4).flatMap (fun k => w .hostfBar4 (p * 4 + k) ++ w .hostfBar4Dpa (p * 4 + k)) ++ tickRecNow s p)

/-- The state block of index 0x05. -/
def stateBlock (s : State) : List Byte :=
  leBytes 1 (fget s F.secStatus_lcState 0) ++ leBytes 1 (fget s F.secStatus_ownerSlot 0)
    ++ leBytes 1 (bitsAt (rget s .secDebug 0).toNat 0 6) ++ leBytes 1 (fget s F.objCtrl_strict 0) ++ List.replicate 12 0

/-- Index 0x10 + n: the descriptor's DIGEST, the chain's digest, ATTESTED and STATE of site n. -/
def siteDigest (s : State) (n : Nat) : List Byte :=
  let d := (List.range 8).flatMap fun i => leBytes 8 (rget s .mtDesc (n * 32 + 24 + i)).toNat
  Config.sha512 (d ++ padTo 64 0 ((siteGet s n).measured.take 64)
    ++ leBytes 1 (fget s F.mtStatus_attested n) ++ leBytes 1 (fget s F.mtStatus_state n))

/-- A measurement (R505). -/
def measure (s : State) (p idx : Nat) : List Byte :=
  if idx = 1 then padTo 64 0 Config.bootRom
  else if idx = 2 then padTo 64 0 s.imgHash
  else if idx = 3 then padTo 64 0 s.licHash
  else if idx = 4 then padTo 64 0 s.cfgHash
  else if idx = 5 then Config.sha512 (stateBlock s)
  else if 0x10 ≤ idx ∧ idx ≤ 0x1B then siteDigest s (idx - 0x10)
  else if idx = 0x20 then resourceDigest s p
  else if idx = 0x21 then padTo 64 0 (partGet s p).prog
  else padTo 64 0 (partGet s p).weights

/-- The indices, ascending. -/
def measureIdx : List Nat := (List.range 5).map (· + 1) ++ (List.range 12).map (· + 0x10) ++ [0x20, 0x21, 0x22]

/-- Can the hub attest: its keys exist (R501, R522). -/
def canAttest (s : State) : Bool := fon s F.secStatus_udsOk 0

/-- A signature by the Alias key. -/
def aliasSign (s : State) (m : List Byte) : List Byte := padTo 132 0 (Config.sign s.ident m)

/-! ### The attestation report (R509) -/

/-- The report of a partition bound to a nonce. -/
def attestReport (s : State) (p : Nat) (nonce : List Byte) : List Byte :=
  let body := leBytes 4 0x44584152 ++ leBytes 2 1 ++ leBytes 2 20 ++ leBytes 8 Config.serial
    ++ leBytes 8 (fget s F.tickCounter_count 0) ++ leBytes 1 p ++ List.replicate 39 0 ++ padTo 64 0 nonce ++ padTo 64 0 Config.deviceId
    ++ measureIdx.flatMap fun i => leBytes 16 i ++ padTo 64 0 (measure s p i)
  body ++ aliasSign s body

/-- ATTEST_REPORT: `host` is what host memory holds of the nonce. -/
def execAttestReport (cmd : Nat) (host : List Byte) (s : State) : Result :=
  .next (startOp 0x0508 (fun c s =>
    let p := (ctxGet s c.pkt.ctx).part
    match orefRange s p c.pkt.w1 64 with
    | .error e => (.st e, s)
    | .ok (x, va) => match vaRead s x (piecesOf va 64) host with
      | .error e => (.st e, vaFailed x (piecesOf va 64) s)
      | .ok nonce =>
        if !canAttest s then (.st 0x0A, s)
        else if dataRoom c < 1924 then (.st 0x02, s)
        else (.done 0 1924 0 (attestReport s p nonce), s)) cmd s)

/-! ### Measuring an object (R507, R508) -/

/-- The range digest: chunks of 2 MiB, each hashed, then the hash over them all. -/
def rangeDigest (bs : List Byte) : List Byte :=
  Config.sha512 ([0x44, 0x58, 0x31, 0x52, 0x41, 0x4E, 0x47, 0x45] ++ leBytes 8 bs.length
    ++ (chunks 2097152 (bs.length / 2097152 + 1) bs).flatMap fun c => padTo 64 0 (Config.sha512 c))

/-- MEASURE_OBJECT for partition `p`, which reads in class 7: the digest and WEIGHTS after, or none where the request fails and WEIGHTS
stays. -/
def measureObject (p ctx obj off len : Nat) (host : List Byte) (s : State) : Option (List Byte) × State :=
  if off % 64 ≠ 0 ∨ len = 0 ∨ (ctxGet s ctx).state = .free ∨ (ctxGet s ctx).part ≠ p then (none, s)
  else match objGet s p obj with
    | none => (none, s)
    | some e =>
      let ps := piecesOf (e.base + off) len
      if e.state ≠ 1 ∨ e.ctx ≠ ctx ∨ off + len > e.size then (none, s)
      else match vaRead s ctx ps host with
        | .error _ => (none, vaFailed ctx ps s)
        | .ok bs =>
          let d := padTo 64 0 (rangeDigest bs)
          (some d, partMod p (fun w => { w with weights := Config.sha512 (padTo 64 0 w.weights ++ d) }) (countVaReads ctx 7 ps s))

/-! ### SPDM connections (R502) -/

/-- The connection on a channel: 0 to 255 a function's DOE mailbox, 256 MCTP, 257 the SPDM opcode. -/
def spdmGet (s : State) (ch : Nat) : Spdm := Map.get s.spdm {} ch
/-- Change it. -/
def spdmMod (ch : Nat) (f : Spdm → Spdm) (s : State) : State := { s with spdm := Map.set s.spdm ch (f (spdmGet s ch)) }

/-- Does a channel deliver requests. -/
def spdmOpen (s : State) (ch : Nat) : Bool :=
  if ch < 256 then dlActive s (boundPort s ch) else ch == 256 && fon s F.mgmtStatus_daValid 0

/-- The partition a channel's answers cover (R503). -/
def spdmPart (ch : Nat) (part : Option Nat) : Nat := if ch < 256 then ch else part.getD 0 % 256

/-- A message of the version supported. -/
def spdmMsg (code p1 p2 : Nat) (body : List Byte) : List Byte := [0x13] ++ leBytes 1 code ++ leBytes 1 p1 ++ leBytes 1 p2 ++ body
/-- An error response. -/
def spdmError (e : Nat) : List Byte := spdmMsg 0x7F e 0 []

/-- An answer that the transcript takes in. -/
def spdmSay (ch : Nat) (msg r : List Byte) (s : State) : List Byte × State :=
  (r, spdmMod ch (fun k => { k with transcript := k.transcript ++ msg ++ r }) s)

/-- A fresh random value. -/
def draw (s : State) : List Byte × State := (Config.random s.fresh, tickFresh s)

/-- Measurements asked for: param2 0 asks for their count, 0xFF for all, else for one index. -/
def measurementsAnswer (p : Nat) (msg : List Byte) (s : State) : List Byte :=
  let op := recAt msg 3 1
  let is := if op = 0 then [] else if op = 0xFF then measureIdx else measureIdx.filter (· == op)
  let recs := is.flatMap fun i => leBytes 1 i ++ [0x01] ++ leBytes 2 67 ++ [0x01] ++ leBytes 2 64 ++ padTo 64 0 (measure s p i)
  let m := spdmMsg 0x60 (if op = 0 then 20 else 0) 0 (leBytes 1 is.length ++ leBytes 3 recs.length ++ recs)
  if bitOn (recAt msg 2 1) 0 then m ++ aliasSign s (padTo 32 0 ((msg.drop 4).take 32) ++ m) else m

/-- The answer to an SPDM request on a channel: order, version and support are checked, then the request takes effect. -/
def spdmAnswer (ch : Nat) (part : Option Nat) (msg : List Byte) (s : State) : List Byte × State :=
  let k := spdmGet s ch
  let code := recAt msg 1 1
  if msg.length > 4096 then (spdmError 1, s)
  else if code = 0x84 then
    if recAt msg 0 1 ≠ 0x10 then (spdmError 0x41, s)
    else spdmSay ch msg ([0x10, 0x04, 0, 0, 0, 1, 0, 0x13]) { s with spdm := Map.set s.spdm ch { stage := 1 } }
  else if recAt msg 0 1 ≠ 0x13 then (spdmError 0x41, s)
  else if code = 0xE1 then
    if k.stage ≠ 1 then (spdmError 4, s)
    else spdmSay ch msg (spdmMsg 0x61 0 0 (Config.spdmBody 0x61)) (spdmMod ch (fun k => { k with stage := 2 }) s)
  else if code = 0xE3 then
    let c := Config.spdmCurve msg
    if k.stage ≠ 2 then (spdmError 4, s)
    else if c = 0 then (spdmError 1, s)
    else spdmSay ch msg (spdmMsg 0x63 0 0 (Config.spdmBody 0x63)) (spdmMod ch (fun k => { k with stage := 3, curve := c }) s)
  else if !([0x81, 0x82, 0x83, 0xE0, 0xE4, 0xE5, 0xE8, 0xE9, 0xEC].contains code) then (spdmError 7, s)
  else if k.stage ≠ 3 then (spdmError 4, s)
  else if !canAttest s then (spdmError 7, s)
  else
    let chain := Config.certificate s.ident
    if code = 0x81 then spdmSay ch msg (spdmMsg 0x01 0 1 (padTo 64 0 (Config.sha512 chain))) s
    else if code = 0x82 then
      let off := recAt msg 4 2
      let part := (chain.drop off).take (min (recAt msg 6 2) 4088)
      if recAt msg 2 1 ≠ 0 ∨ off ≥ chain.length then (spdmError 1, s)
      else spdmSay ch msg (spdmMsg 0x02 0 0 (leBytes 2 part.length ++ leBytes 2 (chain.length - off - part.length) ++ part)) s
    else if code = 0x83 then
      if recAt msg 2 1 ≠ 0 then (spdmError 1, s)
      else
        let (n, s) := draw s
        let m := spdmMsg 0x03 0 1 (padTo 64 0 (Config.sha512 chain) ++ padTo 32 0 n
          ++ padTo 64 0 (Config.sha512 (measureIdx.flatMap fun i => padTo 64 0 (measure s (spdmPart ch part) i))))
        spdmSay ch msg (m ++ aliasSign s (k.transcript ++ msg ++ m)) s
    else if code = 0xE0 then spdmSay ch msg (measurementsAnswer (spdmPart ch part) msg s) s
    else if code = 0xE4 then
      if k.session.isSome then (spdmError 4, s)
      else
        let (n, s) := draw s
        let m := spdmMsg 0x64 0 0 (leBytes 2 (s.fresh % 65536) ++ padTo 32 0 n)
        let sid := s.fresh % 65536
        spdmSay ch msg (m ++ aliasSign s (k.transcript ++ msg ++ m)) (spdmMod ch (fun k => { k with session := some sid, secured := false, updates := 0 }) s)
    else if code = 0xE5 then
      if k.session.isNone ∨ k.secured then (spdmError 4, s)
      else if !Config.spdmProof k.transcript msg then (spdmError 1, s)
      else spdmSay ch msg (spdmMsg 0x65 0 0 []) (spdmMod ch (fun k => { k with secured := true }) s)
    else if !k.secured then (spdmError 4, s)
    else if code = 0xE8 then spdmSay ch msg (spdmMsg 0x68 0 0 []) s
    else if code = 0xE9 then
      spdmSay ch msg (spdmMsg 0x69 (recAt msg 2 1) (recAt msg 3 1) []) (spdmMod ch (fun k => { k with updates := k.updates + 1 }) s)
    else spdmSay ch msg (spdmMsg 0x6C 0 0 []) (spdmMod ch (fun k => { k with session := none, secured := false }) s)

/-- A request of one code arrives on a function's mailbox or over MCTP. -/
def spdmArrives (code ch : Nat) (part : Option Nat) (msg : List Byte) (s : State) : Result :=
  .next (if spdmOpen s ch ∧ recAt msg 1 1 = code then
      let (r, s) := spdmAnswer ch part msg s
      emit .spdm (recAt r 1 1) [ch] r s
    else s)

/-- GET_VERSION. -/
def execGetVersion (ch : Nat) (part : Option Nat) (msg : List Byte) (s : State) : Result := spdmArrives 0x84 ch part msg s
/-- GET_CAPABILITIES. -/
def execGetCapabilities (ch : Nat) (part : Option Nat) (msg : List Byte) (s : State) : Result := spdmArrives 0xE1 ch part msg s
/-- NEGOTIATE_ALGORITHMS. -/
def execNegotiateAlgorithms (ch : Nat) (part : Option Nat) (msg : List Byte) (s : State) : Result := spdmArrives 0xE3 ch part msg s
/-- GET_DIGESTS. -/
def execGetDigests (ch : Nat) (part : Option Nat) (msg : List Byte) (s : State) : Result := spdmArrives 0x81 ch part msg s
/-- GET_CERTIFICATE. -/
def execGetCertificate (ch : Nat) (part : Option Nat) (msg : List Byte) (s : State) : Result := spdmArrives 0x82 ch part msg s
/-- CHALLENGE. -/
def execChallenge (ch : Nat) (part : Option Nat) (msg : List Byte) (s : State) : Result := spdmArrives 0x83 ch part msg s
/-- GET_MEASUREMENTS (R503 to R505). -/
def execGetMeasurements (ch : Nat) (part : Option Nat) (msg : List Byte) (s : State) : Result := spdmArrives 0xE0 ch part msg s
/-- KEY_EXCHANGE. -/
def execKeyExchange (ch : Nat) (part : Option Nat) (msg : List Byte) (s : State) : Result := spdmArrives 0xE4 ch part msg s
/-- FINISH. -/
def execFinish (ch : Nat) (part : Option Nat) (msg : List Byte) (s : State) : Result := spdmArrives 0xE5 ch part msg s
/-- HEARTBEAT. -/
def execHeartbeat (ch : Nat) (part : Option Nat) (msg : List Byte) (s : State) : Result := spdmArrives 0xE8 ch part msg s
/-- KEY_UPDATE. -/
def execKeyUpdate (ch : Nat) (part : Option Nat) (msg : List Byte) (s : State) : Result := spdmArrives 0xE9 ch part msg s
/-- END_SESSION. -/
def execEndSession (ch : Nat) (part : Option Nat) (msg : List Byte) (s : State) : Result := spdmArrives 0xEC ch part msg s

/-- A vendor-defined answer. -/
def vendorSay (body : List Byte) : List Byte := spdmMsg 0x7E 0 0 body

/-- The answer to a measure request in a channel's session. -/
def measureAnswer (ch : Nat) (part : Option Nat) (ctx obj off len : Nat) (host : List Byte) (s : State) : List Byte × State :=
  if !(spdmGet s ch).secured then (spdmError 4, s)
  else match measureObject (spdmPart ch part) ctx obj off len host s with
    | (some d, s) => (vendorSay d, s)
    | (none, s) => (spdmError 1, s)

/-- MEASURE_OBJECT, in a secured session of a mailbox or of MCTP. -/
def execMeasureObject (ch : Nat) (part : Option Nat) (ctx obj off len : Nat) (host : List Byte) (s : State) : Result :=
  .next (if spdmOpen s ch then
      let (r, s) := measureAnswer ch part ctx obj off len host s
      emit .spdm (recAt r 1 1) [ch] r s
    else s)

/-- SPDM (0x0501): one request in DATA. A vendor-defined request carries its payload after the vendor header of DSP0274; its host
bytes are those that follow the request's in `host`. -/
def execSpdm (cmd : Nat) (part : Option Nat) (host : List Byte) (s : State) : Result :=
  .next (startOp 0x0501 (fun c s => match dataIn s c host with
    | .error e => (.st e, dataFailed c s)
    | .ok msg =>
      let ch := if c.src == .mgmt then 256 else 257
      let (r, t) :=
        if recAt msg 1 1 = 0xFE then
          if recAt msg 4 2 = 3 ∧ recAt msg 6 1 = 2 ∧ recAt msg 7 2 = Config.vendorId ∧ recAt msg 11 1 = 1 ∧ recAt msg 12 1 = 0 then
            measureAnswer ch part (recAt msg 13 2) (recAt msg 15 4) (recAt msg 19 8) (recAt msg 27 8) (host.drop msg.length) s
          else (spdmError 7, s)
        else spdmAnswer ch part msg s
      if dataRoom c < r.length then (.st 0x02, s) else (.done 0 r.length 0 r, t)) cmd s)

/-! ### IDE keys (R514, R518) -/

/-- Every sub-stream of a function's selective stream has its key and runs: the Secure state. -/
def ideSecure (s : State) (f : Nat) : Bool := Map.get s.ide 0 f == 4095

/-- A stream's keys change: a function's selective stream leaves the Secure state (R514), or the link stream of port `f` - 256 shows in
IDE_LINK (R442, R518). -/
def ideSet (f v : Nat) (s : State) : State :=
  let was := ideSecure s f
  let s : State := { s with ide := if v = 0 then Map.erase s.ide f else Map.set s.ide f v }
  if f < 256 then (if was && v != 4095 then tdispError f false s else s)
  else fset F.hostpPortStatus_ideLink (f - 256) (bit01 (v == 4095)) s

/-- IDE_KM in a secured session with a function: 0 KEY_PROG programs a sub-stream's key, 1 K_SET_GO starts it, 2 K_SET_STOP ends
it; the six sub-streams of the function's selective stream, 0 to 5, are three in each direction, and 6 to 11 are those of its port's link
stream. -/
def execIdeKm (fn kind sub : Nat) (s : State) : Result :=
  .next (if fn ≥ 256 ∨ !spdmOpen s fn then s
    else if !(spdmGet s fn).secured then emit .spdm 0x7F [fn] (spdmError 4) s
    else
      let f := if sub < 6 then fn else 256 + boundPort s fn
      let k := sub % 6
      let v := Map.get s.ide 0 f
      if sub ≥ 12 ∨ kind > 2 ∨ (kind = 1 ∧ !bitOn v k) then emit .spdm 0x7F [fn] (spdmError 1) s
      else
        let s := ideSet f (match kind with
          | 0 => putBits v k 1 1
          | 1 => putBits v (6 + k) 1 1
          | _ => putBits (putBits v k 1 0) (6 + k) 1 0) s
        emit .spdm 0x7E [fn] (vendorSay [BitVec.ofNat 8 kind, BitVec.ofNat 8 sub]) s)

/-! ### Confidential mode (R512, R513) -/

/-- Is any register of the Test and perturbation window in force. -/
def tpQuiet (s : State) : Bool := !tpRegs.any fun r => rget s r 0 != 0

/-- Why R512 does not hold for a partition, if it does not: the licence first, then STATE. -/
def secureFail (s : State) (p : Nat) : Option Nat :=
  if !bitOn s.cfg.features 0 then some 0x0C
  else if p = 0 ∨ (partGet s p).enabled ∨ !fon s F.partSec_clean p ∨ fget s F.secStatus_lcState 0 ≠ 2
      ∨ (fon s F.secDebug_active 0 ∧ (bitOn (fget s F.secDebug_caps 0) 0 ∨ bitOn (fget s F.secDebug_caps 0) 3)) ∨ !tpQuiet s then
    some 0x0A
  else none

/-- PART_SECURE with the confidential bit set. -/
def execPartSecure (cmd : Nat) (s : State) : Result :=
  .next (startCmd 0x0507 (fun k => bitOn k.w1 8) (fun c s =>
    let p := bitsAt c.pkt.w1 0 8
    match secureFail s p with
    | some e => (.st e, s)
    | none =>
      if fget s F.partSec_tdisp p ≠ 0 then (.st 0x0A, s)
      else
        (.st 0, placeKeys p (fset F.partSec_admitUnattested p (bitsAt c.pkt.w1 9 1) (fset F.partSec_confidential p 1 s)))) cmd s)

/-- PART_SECURE with the confidential bit clear: CONFIDENTIAL drops when the clear it starts ends. -/
def execPartSecureClear (cmd : Nat) (s : State) : Result :=
  .next (startCmd 0x0507 (fun k => !bitOn k.w1 8) (fun c s =>
    let p := bitsAt c.pkt.w1 0 8
    if !confidential s p then (.st 0, s)
    else if fget s F.partSec_tdisp p ≠ 0 ∨ (partGet s p).enabled then (.st 0x0A, s)
    else (.st 0, clearAsk p { s with unsecure := if s.unsecure.contains p then s.unsecure else s.unsecure ++ [p] })) cmd s)

/-! ### TDISP (R514) -/

/-- A TDISP message of a secured session: `f` answers whether it is accepted. -/
def tdispMsg (fn : Nat) (f : State → Bool × State) (s : State) : Result :=
  .next (if fn ≥ 256 ∨ !spdmOpen s fn then s
    else if !(spdmGet s fn).secured then emit .spdm 0x7F [fn] (spdmError 4) s
    else
      let (ok, s) := f s
      emit .spdm 0x7E [fn, bit01 ok] (vendorSay [BitVec.ofNat 8 (bit01 ok)]) s)

/-- LOCK_INTERFACE_REQUEST: resources freeze and index 0x20 is recorded. -/
def execLockInterfaceRequest (fn : Nat) (s : State) : Result :=
  tdispMsg fn (fun s =>
    if !confidential s fn ∨ fget s F.partSec_tdisp fn ≠ 0 ∨ (secureFail s fn).isSome then (false, s)
    else
      let s := setTdisp fn 1 s
      (true, partMod fn (fun w => { w with locked20 := resourceDigest s fn }) s)) s

/-- START_INTERFACE_REQUEST. -/
def execStartInterfaceRequest (fn : Nat) (s : State) : Result :=
  tdispMsg fn (fun s =>
    if !confidential s fn ∨ fget s F.partSec_tdisp fn ≠ 1 ∨ !ideSecure s fn then (false, s) else (true, setTdisp fn 2 s)) s

/-- STOP_INTERFACE_REQUEST. -/
def execStopInterfaceRequest (fn : Nat) (s : State) : Result :=
  tdispMsg fn (fun s =>
    if !confidential s fn then (false, s)
    else if partLocked s fn then (true, tdispEnd fn false (setTdisp fn 0 s))
    else (true, setTdisp fn 0 s)) s

end Sys2Proof.Machine
end

