-- ==== Sys2Proof/Machine/Lifecycle.lean ====
section
/-! DEFINITION. Machine/Lifecycle.lean: what OTP and flash hold and who may change it (R523 to R532, R538, R543, R544, R553, R566),
the ends of their operations, and the resources of partitions (R498, R499, R535, R536) with the end of a clear (R300). -/
namespace Sys2Proof.Machine

/-! ### Signed items (R500, R528, R529) -/

/-- The key of a SIGNER byte: a Hjelilair key while no owner is enrolled, else the current owner's. -/
def signerKey (s : State) (signer root : Nat) : Option (List Byte) :=
  let o := ownerSlot s.otp
  if signer ≠ o then none
  else if o = 0 then some (Config.rootKey root) else (Map.get? s.otp.owners o).map (·.1)

/-- Are `n` bytes from byte `i` zero. -/
def zeroAt (b : List Byte) (i n : Nat) : Bool := recAt b i n == 0

/-- The security nonce (R531). -/
def nonceBytes (s : State) : List Byte := padTo 64 0 (Config.random s.nonce)
/-- The nonce is replaced. -/
def newNonce (s : State) : State := tickFresh { s with nonce := s.fresh }

/-- A token in the layout of R532, signed, of this device and of the current nonce. -/
def tokenOk (s : State) (magic : Nat) (b : List Byte) : Bool :=
  b.length == 260 && recAt b 0 4 == magic && recAt b 4 2 == 1 && zeroAt b 7 1 && recAt b 8 8 == Config.serial
    && (b.drop 16).take 64 == nonceBytes s && zeroAt b 88 40
    && match signerKey s (recAt b 6 1) 4 with
      | some k => Config.verify k (b.take 128) (b.drop 128)
      | none => false

/-! ### Configuration records (R223, R543, R544) -/

/-- Does the domain section of a record meet R223. What its group bytes hold is R220's concern. -/
def domainSection (b : List Byte) : Bool :=
  zeroAt b 68 4 && decide (recAt b 80 1 < 2) && decide (1 ≤ recAt b 81 1) && zeroAt b 82 14

/-- Is a record acceptable: its table, its signer and its signature. A domain section that breaks R223 does not make the record fail: the
hub then refuses every FORM and JOIN with cause 0x5 (R248; DEDUCED, log entry 99). -/
def configOk (s : State) (b : List Byte) : Bool :=
  b.length == 2436 && recAt b 0 4 == 0x44584346 && recAt b 4 2 == 1 && zeroAt b 7 1
    && (recAt b 8 8 == 0 || recAt b 8 8 == Config.serial) && zeroAt b 20 12 && decide (recAt b 96 2 < 4096) && decide (recAt b 98 1 < 2)
    && (recAt b 99 1 == 0 || decide (30 ≤ recAt b 99 1 ∧ recAt b 99 1 ≤ 40))
    && (recAt b 100 1 == 0 || decide (30 ≤ recAt b 100 1 ∧ recAt b 100 1 ≤ 36))
    && decide (1 ≤ recAt b 101 1 ∧ recAt b 101 1 ≤ 3) && decide (1 ≤ recAt b 102 1 ∧ recAt b 102 1 ≤ 3)
    && zeroAt b 103 25 && decide (recAt b 2176 1 ≤ 32) && zeroAt b 2177 127
    && match signerKey s (recAt b 6 1) 3 with
      | some k => Config.verify k (b.take 2304) (b.drop 2304)
      | none => false

/-- What a record fixes; the licence's limits stay as they are. -/
def configOf (b : List Byte) (old : Config) : Config :=
  { old with
    groups := (List.range 36).map fun i => recAt b (32 + i) 1
    expected := recAt b 72 8
    partialOk := bitOn (recAt b 80 1) 0
    formTimeout := recAt b 81 1
    domainOk := domainSection b
    sites := recAt b 96 2
    trust := (List.range (recAt b 2176 1)).map fun i => (b.drop (128 + i * 64)).take 64
    assist := bitOn (recAt b 98 1) 0
    bar4Pf := recAt b 99 1
    bar4Vf := recAt b 100 1
    stackMax := recAt b 101 1
    fenMax := recAt b 102 1
    minFw := recAt b 16 4 }

/-- The default record: G16 is HP0, and nothing else is on. -/
def configDefault (hub : Nat) (old : Config) : Config :=
  { old with
    groups := (List.range 36).map fun i => if i = 16 then 2 else 0
    expected := 2 ^ hub, partialOk := false, formTimeout := 1, domainOk := true, sites := 0, trust := [], assist := false
    bar4Pf := 0, bar4Vf := 0, stackMax := 3, fenMax := 3, minFw := 0 }

/-- CONFIG_INSTALL: the checks of a start, then the flash. -/
def execConfigInstall (cmd : Nat) (host : List Byte) (s : State) : Result :=
  .next (startOp 0x0503 (fun c s => match dataIn s c host with
    | .error e => (.st e, dataFailed c s)
    | .ok b => if configOk s b then (.wait .flash, { s with flashJobs := s.flashJobs ++ [.config b c.id] }) else (.st 0x0D, s)) cmd s)

/-! ### Licences (R527, R530) -/

/-- Does a licence verify on this device. -/
def licenceOk (s : State) (b : List Byte) : Bool :=
  b.length == 260 && recAt b 0 4 == 0x44584C43 && recAt b 4 2 == 1 && decide (1 ≤ recAt b 6 1 ∧ recAt b 6 1 ≤ 64)
    && decide (s.otp.epoch ≤ recAt b 6 1) && zeroAt b 7 1 && recAt b 8 8 == Config.serial
    && (b.drop 16).take 64 == padTo 64 0 Config.deviceId && decide (8 ≤ recAt b 80 1 ∧ recAt b 80 1 ≤ 32)
    && decide (8 ≤ recAt b 81 1 ∧ recAt b 81 1 ≤ 64) && decide (4 ≤ recAt b 82 1 ∧ recAt b 82 1 ≤ 12)
    && decide (recAt b 83 1 < 4) && zeroAt b 84 44 && canAttest s && Config.verify (Config.rootKey 2) (b.take 128) (b.drop 128)

/-- LICENCE_INSTALL: thermometer bits first where EPOCH is above the fused one, then the flash. -/
def execLicenceInstall (cmd : Nat) (host : List Byte) (s : State) : Result :=
  .next (startOp 0x0502 (fun c s => match dataIn s c host with
    | .error e => (.st e, dataFailed c s)
    | .ok b =>
      if !licenceOk s b then (.st 0x0D, s)
      else if recAt b 6 1 > s.otp.epoch then (.wait .otp, { s with otpJobs := s.otpJobs ++ [.epoch (recAt b 6 1) b c.id] })
      else (.wait .flash, { s with flashJobs := s.flashJobs ++ [.licence b c.id] })) cmd s)

/-! ### Owners (R527, R528, R531) -/

/-- Owner slots spent or being spent. -/
def ownersUsed (s : State) : Nat :=
  s.otp.owners.length + (s.otpJobs.filter fun j => match j with | .owner _ _ _ => true | _ => false).length

/-- Is an enrolment's payload acceptable for slot `slot`. -/
def enrolOk (s : State) (slot : Nat) (b : List Byte) : Bool :=
  let key := (b.drop 80).take 133
  let by_ := match Map.get? s.otp.owners (ownerSlot s.otp) with
    | some o => if ownerSlot s.otp = 0 then Config.sha512 key else o.1
    | none => Config.sha512 key
  b.length == 348 && recAt b 0 4 == 0x44584F57 && recAt b 4 2 == 1 && recAt b 6 1 == slot && zeroAt b 7 1
    && recAt b 8 8 == Config.serial && (b.drop 16).take 64 == nonceBytes s && zeroAt b 213 3 && Config.verify by_ (b.take 216) (b.drop 216)

/-- OWNER_ENROL: an empty payload returns the nonce. -/
def execOwnerEnrol (cmd : Nat) (host : List Byte) (s : State) : Result :=
  .next (startOp 0x0504 (fun c s => match dataIn s c host with
    | .error e => (.st e, dataFailed c s)
    | .ok b =>
      if b.isEmpty then (.done 0 0 0 (nonceBytes s), s)
      else
        let used := ownersUsed s
        if used ≥ 16 then (.st 0x11, newNonce s)
        else if !enrolOk s (used + 1) b then (.st 0x0D, newNonce s)
        else
          let digest := padTo 64 0 (Config.sha512 ((b.drop 80).take 133))
          (.wait .otp, newNonce { s with otpJobs := s.otpJobs ++ [.owner (used + 1) digest c.id] })) cmd s)

/-! ### Debug authorisation (R531, R532, R519) -/

/-- Is any confidential partition enabled. -/
def secretEnabled (s : State) : Bool := s.parts.any fun e => e.2.enabled && confidential s e.1

/-- The end of a debug authorisation: the perturbation registers clear at the next edge, or at once outside a domain (R592). -/
def debugEnd (s : State) : State :=
  let s := rset s .secDebug 0 0
  if isMember s then { s with tpClear := true } else logErr { code := 0x0E01, cls := clsInfo } (tpClearAll s)

/-- DEBUG_AUTH: an empty payload returns the nonce; an accepted token replaces the authorisation in force. -/
def execDebugAuth (cmd : Nat) (host : List Byte) (s : State) : Result :=
  .next (startOp 0x0505 (fun c s => match dataIn s c host with
    | .error e => (.st e, dataFailed c s)
    | .ok b =>
      let caps := recAt b 80 4
      let life := recAt b 84 4
      if b.isEmpty then (.done 0 0 0 (nonceBytes s), s)
      else if !tokenOk s 0x44584442 b ∨ caps ≥ 16 ∨ (bitOn caps 3 ∧ !bitOn caps 0) ∨ life = 0 ∨ life > 86400
          ∨ (fget s F.secStatus_lcState 0 = 4 ∧ caps ≠ 4) then (.st 0x0D, newNonce s)
      else if (bitOn caps 0 ∨ bitOn caps 3) ∧ secretEnabled s then (.st 0x04, logRefused 0x0B03 none (newNonce s))
      else
        let s := if fon s F.secDebug_active 0 && bitOn (fget s F.secDebug_caps 0) 1 && !bitOn caps 1 then debugEnd s else s
        (.st 0, newNonce (rset s .secDebug 0
          (BitVec.ofNat 64 (1 + caps * 2 + bit01 (recAt b 6 1 != 0) * 32 + life * 2 ^ 32))))) cmd s)

/-- NONCE_EXPIRY: 10 minutes after its issue. -/
def execNonceExpiry (s : State) : Result := .next (newNonce s)

/-- DEBUG_AUTH_EXPIRY: LIFETIME_S has passed. -/
def execDebugAuthExpiry (s : State) : Result := .next (if fon s F.secDebug_active 0 then debugEnd s else s)

/-! ### Life-cycle (R524, R525) -/

/-- Is a debug authorisation with EOL in force. -/
def eolOk (s : State) : Bool := fon s F.secDebug_active 0 && bitOn (fget s F.secDebug_caps 0) 2

/-- Rows that hold exactly their value, from the first on (R523). -/
def lifeLead (s : State) : Nat := ((s.otp.life.zip lifeValues).takeWhile fun e => e.1 == e.2).length

/-- What a target's transition from the state in effect needs: none where it may go on, else the status. -/
def lifeCheck (s : State) (target : Nat) : Option Nat :=
  let auth := if target = 1 then some 0x0D else if target = 2 then none else if eolOk s then none else some 0x0D
  match fget s F.secStatus_lcState 0 with
  | 0 => if target = 1 then some 0x0D else some 0x0A
  | 1 => if target = 1 then some 0x0A else auth
  | 2 => if target = 3 then auth else some 0x0A
  | 3 => some 0x0A
  | _ => if target = lifeLead s + 1 ∧ (s.otp.life.drop (lifeLead s + 1)).all (· == 0) then auth else some 0x0A

/-- LIFECYCLE_SET: the rows between the state in effect and the target are programmed in order; from INVALID, the row that is half
programmed. -/
def execLifecycleSet (cmd : Nat) (s : State) : Result :=
  .next (startOp 0x0506 (fun c s =>
    let t := bitsAt c.pkt.w1 0 2
    if t = 0 then (.st 0x02, s)
    else match lifeCheck s t with
      | some e => (.st e, s)
      | none =>
        let row := if fget s F.secStatus_lcState 0 = 4 then lifeLead s else fget s F.secStatus_lcState 0
        (.wait .otp, { s with otpJobs := s.otpJobs ++ [.life row t c.id] })) cmd s)

/-! ### The end of an OTP operation (R524, R527, R553) -/

/-- Complete a command that waits. -/
def endCmd (id st : Nat) (s : State) : State := onRunning (fun c s => finish c st 0 0 [] s) id s

/-- A row has been programmed and read back, equal or not. -/
def otpEnd (j : OtpJob) (ok : Bool) (s : State) : State :=
  let o := s.otp
  match j with
  | .defect row value commit =>
    if !ok then
      let s : State := { s with otp := { o with rows := Map.set o.rows row (value % 2 ^ 56) } }
      programRow value (setDefStatus (logErr { code := 0x0C06, cls := clsDegraded, detail := row } s))
    else if !commit then { s with otp := { o with rows := Map.set o.rows row (value % 2 ^ 56) }, otpJobs := .defect row value true :: s.otpJobs }
    else setDefStatus (fset F.defMapout_result 0 1 { s with otp := { o with rows := Map.set o.rows row value } })
  | .life row target cmd =>
    if !ok then
      let v := lifeValues.getD row 0
      let s : State := { s with otp := { o with life := o.life.set row ((BitVec.ofNat 64 v &&& Config.freeWord s.fresh).toNat) } }
      endCmd cmd 0x0A (fset F.secStatus_pending 0 0 (tickFresh s))
    else
      let v := lifeValues.getD row 0
      let have_ := o.life.getD row 0
      let now := (BitVec.ofNat 64 have_ ||| BitVec.ofNat 64 v).toNat
      let s : State := { s with otp := { o with life := o.life.set row now } }
      if now ≠ v then endCmd cmd 0x0A (fset F.secStatus_pending 0 0 s)
      else if row + 1 < target then { s with otpJobs := .life (row + 1) target cmd :: s.otpJobs }
      else endCmd cmd 0 (fset F.secStatus_pendingTarget 0 target (fset F.secStatus_pending 0 1 s))
  | .owner slot digest cmd =>
    let s : State := { s with otp := { o with owners := Map.set o.owners slot (digest, if ok then ownerCommit else 0) } }
    let s := fset F.secOtpUse_ownerUsed 0 s.otp.owners.length (fset F.secStatus_ownerSlot 0 (ownerSlot s.otp) s)
    endCmd cmd (if ok then 0 else 0x0A) s
  | .epoch dest lic cmd =>
    let e := if ok then dest else o.epoch + (Config.freeWord s.fresh).toNat % (dest - o.epoch + 1)
    let s : State := { s with otp := { o with epoch := e } }
    let s := fset F.secOtpUse_epochUsed 0 e (fset F.secStatus_licEpoch 0 e (tickFresh s))
    if ok then setStep cmd .flash { s with flashJobs := s.flashJobs ++ [.licence lic cmd] } else endCmd cmd 0x0A s

/-- OTP_PROGRAM_DONE: the oldest operation ends, its read-back equal or not. -/
def execOtpProgramDone (ok : Bool) (s : State) : Result :=
  .next (match s.otpJobs with
    | [] => s
    | j :: rest => sweep (otpEnd j ok { s with otpJobs := rest }))

/-! ### The end of a flash operation (R294, R530, R542, R544) -/

/-- The area of a flash operation: 0 image, 1 configuration record, 2 licence. -/
def FlashJob.area : FlashJob → Nat
  | .image _ _ _ => 0 | .config _ _ => 1 | .licence _ _ => 2

/-- A flash operation has ended. -/
def flashEnd (j : FlashJob) (s : State) : State :=
  let f := s.flash
  match j with
  | .image off bs cmd =>
    endCmd cmd 0 { s with flash := { f with image := if off = 0 then bs else f.image ++ bs }, imgNext := some (off + bs.length) }
  | .config bs cmd => endCmd cmd 0 { s with flash := { f with config := bs } }
  | .licence bs cmd => endCmd cmd 0 (fset F.secStatus_licPending 0 1 { s with flash := { f with licence := bs } })

/-- FLASH_WRITE_DONE: the oldest operation of an area ends; area 3 is a ledger copy. -/
def execFlashWriteDone (area : Nat) (s : State) : Result :=
  .next (if area = 3 then ledgerDone s
    else match s.flashJobs.find? (fun j => j.area == area) with
      | some j => flashEnd j { s with flashJobs := s.flashJobs.erase j }
      | none => s)

/-! ### Bays of a partition (R498, R499, R535) -/

/-- A bay leaves a partition: its tile stores are zeroed, its slices give up the lines of the partition's ranges, and its
ring registers are cleared. -/
def bayLeave (p bay : Nat) (s : State) : State :=
  let s := (List.range 8).foldl (fun s k =>
    rreset .kvwRing (bay * 8 + k) (tileMod (bay * 8 + k) (fun τ => { τ with badLines := [] })
      { s with store := Mem.clear s.store ((bay * 8 + k) * storeBytes) storeBytes })) s
  let mine := fun (line : Nat) => (rangesOf s p).any fun r => decide (r.1 ≤ line * 64 ∧ line * 64 < r.2)
  (List.range 4).foldl (fun s k =>
    let i := bay / 64 * 256 + bay % 64 * 4 + k
    match Map.get? s.slices i with
    | none => s
    | some v =>
      let s := (v.lines.filter fun l => l.dirty && mine l.line).foldl (fun s l => devStore (l.line * 64) l.data s) s
      let s := sliceMod i (fun v => { v with lines := v.lines.filter fun l => !mine l.line }) s
      (v.dir.filter fun e => mine e.line && !v.busy e.line).foldl (fun s e => beginTxn i e.line .drop e.holders true s) s) s

/-- Why a write of PART_BAYS is refused. -/
def baysRefused (s : State) (p f : Nat) (v : Word) : Bool :=
  (partGet s p).enabled || partLocked s p
    || (List.range 64).any fun b => v.getLsbD b && (bayLost s f b || match partOfBay s (f * 64 + b) with
        | some q => q != p
        | none => false)

/-- A write of PART_BAYS. -/
def writePartBays (p f : Nat) (v : Word) (s : State) : State :=
  let i := p * 9 + f
  if baysRefused s p f v then logRefused 0x0B02 (some p) s
  else
    let old := rget s .partBays i
    let out := (List.range 64).filter fun b => old.getLsbD b && !v.getLsbD b
    out.foldl (fun s b => bayLeave p (f * 64 + b) s) (rset s .partBays i v)

/-- PART_BAYS_WRITE. -/
def execPartBaysWrite (part field : Nat) (v : Word) (s : State) : Result :=
  .next (if part < 256 ∧ field < 9 then writePartBays part field v s else s)

/-! ### Memory of a partition (R301, R498, R499, R536) -/

/-- The bytes a PART_MEM word names, if it is in use. -/
def memWord (v : Word) : Option (Nat × Nat) :=
  let base := if v.getLsbD 1 then fenBase else 0
  if v.getLsbD 0 then some (base + bitsAt v.toNat 8 14 * 2 ^ 30, base + (bitsAt v.toNat 22 14 + 1) * 2 ^ 30) else none

/-- Do two byte ranges meet. -/
def rangesMeet (a b : Nat × Nat) : Bool := decide (a.1 < b.2 ∧ b.1 < a.2)

/-- Why a write of PART_MEM is refused: the partition is enabled or locked; the range is reversed, leaves what firmware hands
out, or belongs to another; or memory would leave a partition that is not clean. -/
def memRefused (s : State) (p k : Nat) (v : Word) : Bool :=
  let dirty := (rget s .memDirty (p / 64)).getLsbD (p % 64)
  (partGet s p).enabled || partLocked s p
    || (match memWord v with
      | none => false
      | some r => decide (r.2 ≤ r.1) || !s.usable.any (fun u => decide (u.1 ≤ r.1 ∧ r.2 ≤ u.2))
        || (List.range 256).any fun q => q != p && (rangesOf s q).any (rangesMeet r))
    || (match memRange s p k with
      | none => false
      | some o => (match memWord v with
          | some r => !decide (r.1 ≤ o.1 ∧ o.2 ≤ r.2)
          | none => true) && (!fon s F.partSec_clean p || dirty))

/-- A write of PART_MEM. -/
def writePartMem (p k : Nat) (v : Word) (s : State) : State :=
  if memRefused s p k v then logRefused 0x0B02 (some p) s
  else rset s .partMem (p * 8 + k) (BitVec.ofNat 64 (bitsAt v.toNat 0 2 + placed 8 28 (bitsAt v.toNat 8 28)))

/-- PART_MEM_WRITE. -/
def execPartMemWrite (part k : Nat) (v : Word) (s : State) : Result :=
  .next (if part < 256 ∧ k < 8 then writePartMem part k v s else s)

/-- A write of PART_PROV (R537). -/
def writePartProv (p : Nat) (v : Word) (s : State) : State :=
  if (partGet s p).enabled ∨ (confidential s p ∧ fget s F.partSec_tdisp p ≠ 0) then logRefused 0x0B02 (some p) s
  else rset s .partProv p (BitVec.ofNat 64 (bitsAt v.toNat 0 1 + placed 16 32 (bitsAt v.toNat 16 32)))

/-! ### The end of a clear (R300, R302, R504, R513) -/

/-- May the clear of a partition end: nothing of it is still stopping. -/
def clearReady (s : State) (p : Nat) : Bool :=
  !(partGet s p).stopping && !(partGet s p).cut && !(s.ctxs.any fun e => e.2.part == p && e.2.state == .dying)

/-- The program and weights digests start again. -/
def digestsClear (p : Nat) (s : State) : State :=
  partMod p (fun w => { w with prog := List.replicate 64 0, weights := List.replicate 64 0 }) s

/-- What the clear of one partition brings about at its end. -/
def clearOne (p : Nat) (s : State) : State :=
  let s := digestsClear p s
  let s := if s.unsecure.contains p then
      fset F.partSec_admitUnattested p 0 (fset F.partSec_confidential p 0 { s with unsecure := s.unsecure.filter (· != p) })
    else s
  let waits := s.cmds.filter fun c => c.step == .clear p
  waits.foldl (fun s c => finish c 0 0 0 [] s) (clearEnd p s)

/-- The populated bytes of both tiers (R23). -/
def allRanges (s : State) : List (Nat × Nat) := [(0, stackedBytes s), (fenBase, fenBase + fenBytes s)]

/-- Both tiers hold zeros: no sector is listed or lost, no key is in place, no clear waits (R300, R289, R299). -/
def tiersEmpty (s : State) : State :=
  { s with mem := [], lost := [], wcb := [], wback := [], fenKeys := [], keyMap := [], clearAll := false, clearQ := [] }

/-- Both tiers have been cleared. -/
def clearAllEnd (s : State) : State :=
  let s := tiersEmpty (clearRanges (allRanges s) s)
  let s := (List.range 36).foldl (fun s c => setLost c s) s
  let s := (List.range 4).foldl (fun s k => rset s .memDirty k 0) s
  let s := (List.range 256).foldl (fun s p => digestsClear p (fset F.partSec_clean p 1 s)) s
  fset F.memStatus_allDirty 0 0 (fset F.memStatus_clearing 0 0 s)

/-- TENANT_CLEAR_DONE. -/
def execTenantClearDone (s : State) : Result :=
  .next (if !fon s F.memStatus_clearing 0 then s
    else if s.clearAll then clearAllEnd s
    else
      let p := fget s F.memStatus_clearPart 0
      if clearReady s p then clearOne p s else s)

end Sys2Proof.Machine
end

