-- ==== Sys2Proof/Machine/Boot.lean ====
section
/-! DEFINITION. Machine/Boot.lean: bring-up (R538 to R555), power, straps and thermal events (R602 to R620), and the resets of hub and
standby scope (R556, R557). Time is not modelled: a step completes when the environment says so (log entry 2). -/
namespace Sys2Proof.Machine

/-- The highest bring-up step begun; 0 while standby power is off. -/
def bootStep (s : State) : Nat := fget s F.bootStatus_step 0
/-- The next step begins. -/
def bootNext (s : State) : State := fset F.bootStatus_step 0 (bootStep s + 1) s
/-- Are the main rails on. -/
def mainOn (s : State) : Bool := fon s F.pwrStatus_mainOn 0

/-! ### The firmware image (R539, R540) -/

/-- A segment entry: its unit, offset, length and digest. -/
def segOf (img : List Byte) (i : Nat) : List Byte := (img.drop (64 + i * 96)).take 96

/-- The limit of a unit's segment. -/
def segLimit (u : Nat) : Nat := [0, 2 ^ 20, 2 ^ 20, 2 ^ 25, 2 ^ 20, 2 ^ 19, 2 ^ 18, 2 ^ 22, 2 ^ 22].getD u 0

/-- Is an entry that holds a unit well formed within an image of `size` bytes, its digest right. -/
def segOk (img : List Byte) (size : Nat) (e : List Byte) : Bool :=
  let u := recAt e 0 1
  let off := recAt e 4 4
  let n := recAt e 8 4
  decide (1 ≤ u ∧ u ≤ 8) && zeroAt e 1 3 && zeroAt e 12 4 && zeroAt e 80 16 && off % 64 == 0 && decide (off + n ≤ size)
    && decide (n ≤ segLimit u) && Config.sha512 ((img.drop off).take n) == (e.drop 16).take 64

/-- Do no two segments overlap. -/
def segsApart : List (List Byte) → Bool
  | [] => true
  | e :: es => es.all (fun f => !rangesMeet (recAt e 4 4, recAt e 4 4 + recAt e 8 4) (recAt f 4 4, recAt f 4 4 + recAt f 8 4)) && segsApart es

/-- The VERSION of an image that is valid but for its version. -/
def imageVersion (img : List Byte) : Option Nat :=
  let n := recAt img 6 1
  let size := recAt img 16 8
  let es := (List.range n).map (segOf img)
  let used := es.filter fun e => recAt e 0 1 != 0
  let sig := 64 + n * 96
  if recAt img 0 4 == 0x44584657 && recAt img 4 2 == 1 && decide (8 ≤ n ∧ n ≤ 16) && recAt img 7 1 == 0xB0 && zeroAt img 12 4
      && zeroAt img 24 40 && decide (size ≤ 2 ^ 26) && decide (size ≤ img.length) && used.all (segOk img size) && segsApart used
      && (List.range 8).all (fun u => (used.filter fun e => recAt e 0 1 == u + 1).length == 1) && used.length == 8
      && (es.filter fun e => recAt e 0 1 == 0).all (fun e => zeroAt e 0 96)
      && Config.verify (Config.rootKey 1) (img.take sig) ((img.drop sig).take 132) then
    some (recAt img 8 4)
  else none

/-! ### Recovery and failure (R542, R555) -/

/-- The hub enters RECOVERY with a record, if it has one. -/
def enterRecovery (code : Option Nat) (s : State) : State :=
  let s := match code with
    | some k => logErr { code := k, cls := clsHub } s
    | none => s
  setHubState 2 s

/-! ### What each step brings about (R545) -/

/-- Step 2: the image is verified; RECOVERY otherwise, or where it is asked for. -/
def stepImage (s : State) : State := match imageVersion s.flash.image with
  | none => enterRecovery (some 0x0C01) s
  | some v =>
    let s : State := { s with imgHash := Config.sha512 (s.flash.image.take (recAt s.flash.image 16 8)) }
    let s := fset F.bootStatus_fwVersion 0 v s
    if fon s F.bootCtrl_recoveryNext 0 then enterRecovery none s else s

/-- The base tier's limits (R2). -/
def baseTier (c : Config) : Config := { c with limPorts := 8, limHubs := 8, limSites := 4, features := 0 }

/-- Step 3, the licence: the limits it gives, or the base tier. -/
def stepLicence (s : State) : State :=
  let b := s.flash.licence
  if licenceOk s b then
    fset F.secStatus_licValid 0 1
      { s with licHash := Config.sha512 b
               cfg := { s.cfg with limPorts := recAt b 80 1, limHubs := recAt b 81 1, limSites := recAt b 82 1, features := recAt b 83 1 } }
  else
    let s : State := { s with licHash := List.replicate 64 0, cfg := baseTier s.cfg }
    if b.isEmpty then s else logErr { code := 0x0B05, cls := clsDegraded } s

/-- Step 3: the record and the licence, the identity, and the image's version against MIN_FW_VERSION. -/
def stepConfig (s : State) : State :=
  let b := s.flash.config
  let s :=
    if configOk s b then { s with cfg := configOf b s.cfg, cfgHash := Config.sha512 b }
    else
      fset F.bootStatus_cfgDefault 0 1 (logErr { code := 0x0C08, cls := clsInfo }
        { s with cfg := configDefault (fget s F.pwrStatus_strapStby 0) s.cfg, cfgHash := Config.defaultRecord })
  let s := stepLicence s
  let s : State := { s with ident := padTo 64 0 s.imgHash ++ padTo 64 0 s.licHash ++ padTo 64 0 s.cfgHash
                                      ++ leBytes 1 (fget s F.secStatus_lcState 0) ++ leBytes 1 (fget s F.secStatus_ownerSlot 0) }
  if fget s F.bootStatus_hubState 0 = 0 ∧ fget s F.bootStatus_fwVersion 0 < s.cfg.minFw then enterRecovery (some 0x0C01) s else s

/-- The role of one lane group (R219 to R222): `k` is how many Idoon groups came before it. -/
def groupRole (e : Nat × State) (g : Nat) : Nat × State :=
  let (k, s) := e
  let v := s.cfg.groups.getD g 0
  let role := v % 4
  let host := decide (16 ≤ g ∧ g ≤ 19)
  if v = 0 then (k, s)
  else if role = 0 ∨ v ≥ 8 ∨ role = 3 ∨ (role = 2 ∧ (!host ∨ bitOn v 2)) ∨ (role = 1 ∧ host) then
    (k, logErr { code := 0x0605, cls := clsDegraded, detail := g } s)
  else if role = 2 then
    let p := g - 16
    let s := fset F.hostpHubStatus_enabled 0 (putBits (fget s F.hostpHubStatus_enabled 0) p 1 1) (setIdn g 0xA s)
    (k, fset F.hostpPortStatus_lstate p (if s.perst.contains p then 2 else 1) s)
  else if k ≥ s.cfg.limPorts then (k, logErr { code := 0x0C09, cls := clsDegraded, detail := g } s)
  else (k + 1, setIdn g 1 s)

/-- Step 4: the main domains leave reset, the groups take their roles, and host ports out of fundamental reset train (R546). -/
def stepMain (s : State) : State :=
  let s := fset F.hostpHotplug_assistEn 0 (bit01 s.cfg.assist) s
  (markWait ((List.range 36).foldl groupRole (0, s)).2)

/-- A core voltage is commanded (R605, R620). -/
def commandCore (f mv : Nat) (s : State) : State :=
  emit .pin 0x40 [f, mv] [] (fset F.vcoreTarget_settling f 1 (fset F.vcoreTarget_targetMv f mv s))

/-- A target that the hub may command: 5 mV steps from 0.70 V to 0.80 V. -/
def coreOk (mv : Nat) : Bool := decide (700 ≤ mv ∧ mv ≤ 800) && mv % 5 == 0

/-- Step 5: the defect map, and the fused target of each field. -/
def stepDefects (targets : List Nat) (s : State) : State :=
  (targets.take 9).zipIdx.foldl (fun s e => if coreOk e.1 then commandCore e.2 e.1 s else s) (applyDefectMap s)

/-- Step 7's end: lane groups run their firmware, and Idoon ports train (R236). -/
def stepLoaded (s : State) : State :=
  (List.range 36).foldl (fun s g => if fget s F.idnStatus_state g = 1 ∧ !fon s F.idnCtrl_disable g then trainPort g s else s) s

/-- A controller after training. -/
def trained (c rate cap : Nat) (ok : Bool) (s : State) : State :=
  let i := ctlReg c
  fset F.memcStatus_capMib i cap (fset F.memcStatus_rate i (if ok then rate else 0) (fset F.memcStatus_state i (if ok then 1 else 3) s))

/-- The ledger copy to use: the valid one with the higher sequence (R294). -/
def ledgerPick (s : State) : Option Ledger :=
  let valid := fun (o : Option LedgerCopy) => match o with | some c => if c.ok then some c.ledger else none | none => none
  match valid s.ledgerA, valid s.ledgerB with
  | some a, some b => if a.seq ≥ b.seq then some a else some b
  | some a, none => some a
  | none, b => b

/-- The ledger comes into force, and the retired pages it holds are reported (R292). A controller's PAGES_RETIRED starts with the rows whose
entry shows a retired page (log entry 96). -/
def stepLedger (s : State) : State := match ledgerPick s with
  | none => logErr { code := 0x0B04, cls := clsDegraded } (fset F.memStatus_ledgerOk 0 0 { s with ledger := {} })
  | some l =>
    let s : State := { s with ledger := l }
    let s := fset F.memStatus_ledgerFull 0 (bit01 (decide (l.pages.length ≥ 4096))) (fset F.memStatus_ledgerOk 0 1 s)
    let s := (List.range 36).foldl (fun s c =>
      setRepair c (fset F.memcRepair_pagesRetired (ctlReg c) ((rowsOf s c).filter (·.state == 2)).length s)) s
    l.pages.foldl (fun s p => reportPage (p * 128) s) s

/-- Step 8: memory training (R272 to R274), the ledger, ALL_DIRTY, and the full clear begins (R302, R558). Stacks that do not pass
fail the hub. -/
def stepMemory (e : BootEnv) (s : State) : State :=
  let stackOk := e.stackRates.length == 12 && e.stackRates.all (fun r => decide (1 ≤ r ∧ r ≤ 3)) && e.stackCaps.length == 12
    && e.stackCaps.all (fun c => decide (0 < c) && c == e.stackCaps.headD 0)
  let fenOk := e.fenRates.length == 24 && e.fenRates.all (fun r => decide (1 ≤ r ∧ r ≤ 3)) && e.fenCaps.length == 24
    && e.fenCaps.all (fun c => decide (0 < c) && c == e.fenCaps.headD 0)
  let fenRate := min (e.fenRates.foldl min 3) s.cfg.fenMax
  let s := (List.range 12).foldl (fun s c => trained c (min (e.stackRates.getD c 0) s.cfg.stackMax) (e.stackCaps.getD c 0)
    (decide (e.stackRates.getD c 0 ≠ 0)) s) s
  let s := if e.fenCaps.isEmpty then s else
    (List.range 24).foldl (fun s k => trained (12 + k) fenRate (e.fenCaps.getD k 0) fenOk s) s
  let s := fset F.memStatus_fenReady 0 (bit01 (fenOk && !e.fenCaps.isEmpty)) (fset F.memStatus_fenPresent 0 (bit01 (!e.fenCaps.isEmpty)) s)
  let s := fset F.memStatus_allDirty 0 1 (fset F.memStatus_stackedReady 0 (bit01 stackOk) (setMinMem s))
  let s := stepLedger s
  let s := fset F.memStatus_clearing 0 1 { s with clearAll := true }
  if stackOk then s else setHubState 4 (logErr { code := 0x0311, cls := clsHub } s)

/-- One site as step 9 begins (R355, R377): `k` is how many populated sites came before it. -/
def siteStart (present : Nat) (e : Nat × State) (n : Nat) : Nat × State :=
  let (k, s) := e
  if !bitOn s.cfg.sites n then (k, fset F.mtStatus_state n 0 s)
  else if fget s F.mtStatus_state n = 0xB then (k + 1, s)
  else if !bitOn present n then (k, siteStop n 0xA 0x10 0xD s)
  else if k ≥ s.cfg.limSites then (k, logErr { code := 0x0C09, cls := clsDegraded, detail := n } (fset F.mtStatus_state n 0xC s))
  else (k + 1, if fon s F.mtCtrl_enable n then sitePower n s else fset F.mtStatus_state n 1 s)

/-- Step 9 begins. -/
def stepSites (present : Nat) (s : State) : State := ((List.range 12).foldl (siteStart present) (0, s)).2

/-- A physical unit is mapped out with a row at once (R552): the logical bay it serves takes a spare. -/
def mapOutPhys (u : Nat × Nat × Nat × Bool) (s : State) : State :=
  let (f, pb, pt, bay) := u
  let lb := (List.range 64).find? fun b => physBay s f b == pb
  let whole := bay || decide ((goodTiles s f pb).length ≤ 8)
  if f > 8 ∨ pb > 65 ∨ pt > 8 then s
  else if whole then
    let s : State := { s with badBays := s.badBays ++ [f * 66 + pb] }
    let s := match lb with
      | some b => replaceBay f b { s with bayMap := Map.erase s.bayMap (f * 64 + b) }
      | none => s
    setDefStatus (programRow (rowValue 2 f pb 0) s)
  else setDefStatus (programRow (rowValue 1 f pb pt) { s with badTiles := s.badTiles ++ [physKey f pb pt] })

/-- Units that failed, each with its record. -/
def mapOutAll (code : Nat) (us : List (Nat × Nat × Nat × Bool)) (s : State) : State :=
  us.foldl (fun s u => mapOutPhys u (logErr { code := code, cls := clsDegraded, detail := physKey u.1 u.2.1 u.2.2.1, mapout := true } s)) s

/-! ### Firmware distribution (R548, R549) -/

/-- The firmware of tiles (segment 0x05) or of bay units (0x06), from the flash image. -/
def fwSegment (s : State) (u : Nat) : List Byte :=
  let img := s.flash.image
  match ((List.range (recAt img 6 1)).map (segOf img)).find? (fun e => recAt e 0 1 == u) with
  | some e => (img.drop (recAt e 4 4)).take (recAt e 8 4)
  | none => []

/-- Its parts of 4 KiB. -/
def fwParts (s : State) (u : Nat) : List (List Byte) := chunks 4096 128 (fwSegment s u)

/-- The segment of a unit, a tile's or a bay unit's, and the unit's number. -/
def fwKind (bay : Bool) : Nat := if bay then 6 else 5
/-- A physical unit: field, bay, tile, or the bay's own units. -/
def fwUnit (u : Nat × Nat × Nat × Bool) : Nat := (u.1 * 66 + u.2.1) * 16 + (if u.2.2.2 then 15 else u.2.2.1)

/-- The parts that a unit lacks, given the bitmap of those it holds. -/
def fwLacks (s : State) (u : Nat × Nat × Nat × Bool) (held : Nat) : Nat :=
  maskOf ((List.range (fwParts s (fwKind u.2.2.2)).length).filter fun k => !bitOn held k)

/-- One part leaves the control complex in CTRL packets of 8 lines, to a unit or to all (0xFFFFFF); the last carries the part's
CRC-32C. -/
def fwSend (seg part unit : Nat) (bs : List Byte) (s : State) : State :=
  let ps := chunks 512 8 bs
  ps.zipIdx.foldl (fun s e =>
    emit .net 0x50 [seg, part, e.2, unit] (if e.2 + 1 = ps.length then e.1 ++ leBytes 4 (crc32c bs) else e.1) s) s

/-- The broadcast of both segments to every physical unit that the defect map does not list, spares included. -/
def fwBroadcast (s : State) : State :=
  [5, 6].foldl (fun s u => (fwParts s u).zipIdx.foldl (fun s e => fwSend u e.2 0xFFFFFF e.1 s) s) s

/-- The parts in a mask go to one unit. -/
def fwUnicast (u : Nat × Nat × Nat × Bool) (mask : Nat) (s : State) : State :=
  let seg := fwKind u.2.2.2
  (fwParts s seg).zipIdx.foldl (fun s e => if bitOn mask e.2 then fwSend seg e.2 (fwUnit u) e.1 s else s) s

/-- A unit that distribution fails is mapped out, and the one that takes its place, if any, receives its segment. -/
def fwSpare (u : Nat × Nat × Nat × Bool) (s : State) : State :=
  let (f, pb, _, bay) := u
  let lb := (List.range 64).find? fun b => physBay s f b == pb
  let s := mapOutAll 0x0C03 [u] s
  match lb with
  | some b =>
    let nb := physBay s f b
    if nb = 255 then s
    else if nb ≠ pb then fwUnicast (f, nb, 0, bay) (2 ^ 128 - 1) s
    else match physTile s f b 7 with
      | some t => fwUnicast (f, nb, t, bay) (2 ^ 128 - 1) s
      | none => s
  | none => s

/-- Step 10: failures with a spare are mapped out, one without fails the hub (R555). -/
def stepKnown (e : BootEnv) (s : State) : State :=
  let s := mapOutAll 0x0C04 e.katBad s
  if e.katHub then setHubState 4 (logErr { code := 0x0C05, cls := clsHub } (fset F.bootStatus_katFail 0 1 s))
  else if fon s F.memStatus_ledgerOk 0 then s else fset F.bootStatus_ledgerWait 0 1 s

/-- Step 11: partition 0 gets the memory that firmware hands out, and the hub is READY (R497); without a host port firmware sets
RUN (R246). -/
def stepReady (mem : List (Nat × Nat × Nat)) (s : State) : State :=
  let words := (mem.take 8).map fun m => BitVec.ofNat 64 (1 + m.1 % 2 * 2 + m.2.1 % 2 ^ 14 * 256 + m.2.2 % 2 ^ 14 * 2 ^ 22)
  let s : State := { s with usable := words.filterMap memWord }
  let s := words.zipIdx.foldl (fun s w => rset s .partMem w.2 w.1) s
  let s := fset F.bootStatus_readyMs 0 (min ((Config.timeNs s.fresh).toNat / 1000000) 0xFFFF) s
  let s := if fget s F.hostpHubStatus_enabled 0 = 0 then fset F.tickCtrl_run 0 1 s else s
  setHubState 1 (tickFresh s)

/-- Does something keep bring-up from going on: the reset pin, a trip, a rail failure, main power off in D3cold, or no standby power. -/
def bootHeld (s : State) : Bool := s.rstLow || s.tripped || s.failRestart || s.cold || bootStep s == 0

/-- BRINGUP_STEP_COMPLETE: the step begun completes, and the next begins; in RECOVERY nothing begins after step 4, which `rounds` 6
marks as done. -/
def execBringupStepComplete (env : BootEnv) (s : State) : Result :=
  .next (
    let st := fget s F.bootStatus_hubState 0
    if bootHeld s then s
    else if bootStep s = 1 then bootNext (fset F.errqStatus_logOk 0 1 s)
    else if bootStep s = 2 then bootNext (stepImage (fset F.errqStatus_logOk 0 1 s))
    else if bootStep s = 3 then emit .pin 0x01 [1] [] (bootNext (stepConfig s))
    else if bootStep s = 4 then
      if !mainOn s ∨ s.rounds = 6 then s
      else if st = 0 then bootNext (stepMain s) else { stepMain s with rounds := 6 }
    else if st ≠ 0 then s
    else if bootStep s = 5 then bootNext (stepDefects env.targets s)
    else if bootStep s = 6 then { bootNext (env.crossings.foldl (fun s c => scarfDisable c.1 c.2 s) s) with rounds := 0, fwMissing := [] } |> fwBroadcast
    else if bootStep s = 7 then
      if env.segBad then enterRecovery (some 0x0C02) s
      else if s.rounds = 5 then bootNext (stepLoaded s) else s
    else if bootStep s = 8 then
      let s := stepMemory env s
      if fget s F.bootStatus_hubState 0 = 0 then bootNext (stepSites env.present s) else s
    else if bootStep s = 9 then bootNext s
    else if bootStep s = 10 then
      let s := stepKnown env s
      if fget s F.bootStatus_hubState 0 = 0 then bootNext s else s
    else if !fon s F.memStatus_clearing 0 && fon s F.memStatus_ledgerOk 0 then stepReady env.mem s else s)

/-- REPAIR_ROUND_END (R549): units report which parts they hold with a correct CRC, as a bitmap; those that report nothing hold all.
Missing parts are sent by unicast; after the fourth such round a unit that still lacks one is mapped out, and its spare has the first
round of its own. -/
def execRepairRoundEnd (reports : List ((Nat × Nat × Nat × Bool) × Nat)) (s : State) : Result :=
  .next (
    let lack := reports.filter fun r => fwLacks s r.1 r.2 != 0
    if bootStep s ≠ 7 ∨ fget s F.bootStatus_hubState 0 ≠ 0 ∨ bootHeld s ∨ s.rounds ≥ 5 then s
    else
      let s : State := { s with fwMissing := lack.foldl (fun m r => Map.set m (fwUnit r.1) (fwLacks s r.1 r.2)) [] }
      if lack.isEmpty then { s with rounds := 5 }
      else if s.rounds < 4 then { lack.foldl (fun s r => fwUnicast r.1 (fwLacks s r.1 r.2) s) s with rounds := s.rounds + 1 }
      else
        let s := lack.foldl (fun s r => fwSpare r.1 s) s
        { s with rounds := 1, fwMissing := [] })

/-! ### Power good and straps (R606 to R610) -/

/-- STBY_PWRGD_RISE: a standby power-on; the strap is sampled for the side-band port. -/
def execStbyPwrgdRise (strap : Nat) (s : State) : Result :=
  .next (fset F.pwrStatus_strapStby 0 strap { powerOn true s with rstLow := false, perst := [] })

/-- STBY_PWRGD_FALL: everything stops. -/
def execStbyPwrgdFall (s : State) : Result :=
  .next (if bootStep s = 0 then s
    else
      let n := powerOn true s
      fset F.pwrStatus_strapStby 0 0 (fset F.bootStatus_step 0 0 { n with flash := (cutJobs s).flash, perst := [] }))

/-- MAIN_PWRGD_RISE: the main domains leave reset and HUB_ID is sampled; after D3cold bring-up goes on from step 4. -/
def execMainPwrgdRise (strap : Nat) (s : State) : Result :=
  .next (if bootStep s ≠ 4 ∨ mainOn s ∨ s.rstLow ∨ s.tripped ∨ s.failRestart then s
    else fset F.gctlHubIdent_hubId 0 strap (fset F.pwrStatus_mainOn 0 1 { s with cold := false }))

/-- The main side goes down at once: the state after a hub power-on reset, with bring-up held. -/
def mainDown (s : State) : State :=
  let s := (List.range 12).foldl (fun s n => sitePins n 0 0 0 s) s
  powerOn false s

/-- MAIN_PWRGD_FALL while MAIN_PWR_EN is high: MAIN_FAIL, and a hub power-on reset 100 ms later. -/
def execMainPwrgdFall (s : State) : Result :=
  .next (if bootStep s < 4 ∨ s.cold ∨ s.tripped ∨ !mainOn s then s
    else fset F.pwrStatus_mainFail 0 1 { mainDown s with failRestart := true })

/-- MAIN_FAIL_RESTART. -/
def execMainFailRestart (s : State) : Result :=
  .next (if s.failRestart then { powerOn false s with failRestart := false, tripped := s.tripped } else s)

/-- SYS_RST_N: low for 10 µs; the reset takes effect at once and the main side stays off. -/
def execSysRstN (s : State) : Result :=
  .next (if bootStep s = 0 then s else { powerOn false s with rstLow := true, tripped := false })

/-- SYS_RST_N_RELEASE: bring-up starts from step 2. -/
def execSysRstNRelease (s : State) : Result := .next { s with rstLow := false }

/-! ### RESET with scope 2 and 3 (R557) -/

/-- The completion is written, then the hub hands over and departs; the reset is due at that edge. -/
def resetWide (scope : Nat) (cmd : Nat) (s : State) : Result :=
  .next (
    let t := startCmd 0x0603 (fun p => bitsAt p.w1 0 2 == scope) (fun _ s => (.st 0, { s with resetOwed := some scope })) cmd s
    if t.resetOwed = s.resetOwed then t else leaveDomain t)

/-- RESET_HUB. -/
def execResetHub (cmd : Nat) (s : State) : Result := resetWide 2 cmd s
/-- RESET_STANDBY. -/
def execResetStandby (cmd : Nat) (s : State) : Result := resetWide 3 cmd s

/-- RESET_DEFERRED_TIMEOUT: a hub that is no member takes the reset. -/
def execResetDeferredTimeout (s : State) : Result := .next (if isMember s then s else resetDue s)

/-! ### Firmware in recovery (R542) -/

/-- FW_IMAGE: only in RECOVERY, in order, within the image area; at offset 0 the area is erased first. -/
def execFwImage (cmd : Nat) (s : State) : Result :=
  .next (startOp 0x0601 (fun c s => match dataIn s c [] with
    | .error e => (.st e, dataFailed c s)
    | .ok b =>
      let off := c.pkt.w1
      if fget s F.bootStatus_hubState 0 ≠ 2 ∨ (off ≠ 0 ∧ s.imgNext ≠ some off) then (.st 0x0A, s)
      else if off + b.length > 2 ^ 26 then (.st 0x02, s)
      else
        let s : State := { s with flashJobs := s.flashJobs ++ [.image off b c.id] }
        (.wait .flash, if off = 0 then { s with flash := { s.flash with image := [] }, imgNext := none } else s)) cmd s)

/-- FW_COMMIT: the flash is checked under R540. -/
def execFwCommit (cmd : Nat) (s : State) : Result :=
  .next (startOp 0x0602 (fun _ s =>
    if fget s F.bootStatus_hubState 0 ≠ 2 then (.st 0x0A, s)
    else match imageVersion s.flash.image with
      | none => (.st 0x0D, s)
      | some v =>
        if v < s.cfg.minFw then (.st 0x0D, s)
        else (.st 0, fset F.bootCtrl_recoveryNext 0 0 { s with fwOwed := true })) cmd s)

/-- FW_COMMIT_RESET: 10 ms later. -/
def execFwCommitReset (s : State) : Result := .next (if s.fwOwed then { powerOn false s with tripped := s.tripped } else s)

/-! ### Temperature and core voltage (R605, R612 to R614, R620) -/

/-- The trip threshold in force (R619). -/
def tripAt (s : State) : Nat := min (fget s F.thermCtrl_trip 0) 0x398

/-- The index and value of the hottest sensor. -/
def hottest (l : List Int) : Nat × Int := l.zipIdx.foldl (fun a e => if e.1 > a.2 then (e.2, e.1) else a) (0, l.headD 0)

/-- THERMAL_SAMPLE: 594 signed readings in 1/8 °C, physical position f × 66 + b; PWR_STATUS shows one below zero as 0. -/
def execThermalSample (temps : List Int) (s : State) : Result :=
  .next (if !mainOn s ∨ temps.length ≠ 594 then s
    else
      let h := hottest temps
      let s := fset F.pwrStatus_hotBay 0 h.1 (fset F.pwrStatus_hotTemp 0 (min h.2.toNat 4095) s)
      let warn := fget s F.thermCtrl_warn 0
      let s :=
        if h.2 ≥ warn then
          if fon s F.pwrStatus_thermWarn 0 then s
          else
            let s := fset F.pwrStatus_thermWarn 0 1 s
            match s.pldmTo with
            | some e => emit .pldm 2 [e, 0x300, h.2.toNat] [] s
            | none => s
        else if h.2 + 16 ≤ warn then fset F.pwrStatus_thermWarn 0 0 s else s
      let hot := (List.range 594).filter fun i => decide (temps.getD i 0 ≥ tripAt s)
      if hot.any s.hot.contains then
        fset F.pwrStatus_thermTrip 0 1 { mainDown (emit .pin 0x02 [1] [] s) with tripped := true }
      else { s with temps := temps, hot := hot })

/-- VCORE_ADJUST: one 5 mV step of a field's target. -/
def execVcoreAdjust (field : Nat) (up : Bool) (s : State) : Result :=
  .next (
    let now := fget s F.vcoreTarget_targetMv field
    let mv := if up then now + 5 else now - 5
    if field > 8 ∨ !mainOn s ∨ !coreOk mv ∨ fon s F.vcoreTarget_settling field then s else commandCore field mv s)

/-- VCORE_SETTLED. -/
def execVcoreSettled (field : Nat) (s : State) : Result := .next (if field > 8 then s else fset F.vcoreTarget_settling field 0 s)

end Sys2Proof.Machine
end

