-- ==== Sys2Proof/Machine/Mgmt.lean ====
section
/-! DEFINITION. Machine/Mgmt.lean: the management port (R560 to R566) and the rest of groups 0x06 and 0x07 (R476, R583), the error
queue's indices and log (R579 to R585), counters (R588 to R590), and the perturbation window (R591 to R599). Codes of MCTP and PLDM
are those of DMTF DSP0236, DSP0240 and DSP0248, which R561 and R563 name (PRESUMED, log entry 3). -/
namespace Sys2Proof.Machine

/-! ### Insertion in order -/

/-- Put an item where its key belongs. -/
def insertBy {α : Type} (key : α → Nat) (x : α) : List α → List α
  | [] => [x]
  | y :: ys => if key x ≤ key y then x :: y :: ys else y :: insertBy key x ys

/-- A list in rising order of a key. -/
def orderBy {α : Type} (key : α → Nat) (l : List α) : List α := l.foldr (insertBy key) []

/-! ### Error queue (R573, R578 to R585) -/

/-- The 64 bytes of a record. -/
def errBytes (r : ErrRec) : List Byte :=
  leBytes 4 r.seq ++ leBytes 2 r.code ++ leBytes 1 r.cls ++ leBytes 1 r.flags ++ leBytes 1 r.part ++ leBytes 1 r.attempt
    ++ leBytes 2 r.ctx ++ leBytes 4 r.source ++ leBytes 8 r.tick ++ leBytes 8 r.time.toNat ++ leBytes 6 r.addr ++ leBytes 2 0
    ++ leBytes 8 r.unitReg ++ leBytes 8 r.detail ++ leBytes 8 0

/-- The records of the queue from an index up to PIDX, in SEQ order. -/
def errFrom (s : State) (i : Nat) : List ErrRec :=
  let p := fget s F.errqPidx_index 0
  orderBy (fun r => diff32 r.seq i) ((List.map (·.2) s.errq).filter fun r => decide (diff32 r.seq i < diff32 p i))

/-- The driver's index, never more than a queue's length behind. -/
def errIdx (s : State) (i : Nat) : Nat :=
  let p := fget s F.errqPidx_index 0
  if diff32 p i > 4096 then (p + 2 ^ 32 - 4096) % 2 ^ 32 else i

/-- A write of ERRQ_CIDX. -/
def writeCidx (v : Nat) (s : State) : State :=
  let c := fget s F.errqCidx_index 0
  if diff32 v c ≤ diff32 (fget s F.errqPidx_index 0) c then errFreed (fset F.errqCidx_index 0 v s) else s

/-- ERRQ_CIDX_WRITE. -/
def execErrqCidxWrite (v : Word) (s : State) : Result := .next (writeCidx (bitsAt v.toNat 0 32) s)

/-- Records the flash log holds: the user partition's 128 MiB (R538). -/
def logRoom : Nat := 2 ^ 21

/-- Data unit `u` of the user partition as it stands in the flash (R538): 64 records of the log under the flash user key, with the unit's
number as the tweak; all ones once the partition is erased (R526). Which unit a record stands in is log entry 104's. -/
def userUnit (s : State) (u : Nat) : List Byte :=
  if s.otp.keyGone then List.replicate 4096 0xFF
  else Config.aesXts Config.flashKey (leBytes 16 u)
    (padTo 4096 0xFF (((s.flash.log.drop (64 * u)).take 64).flatMap fun r => errBytes r))

/-- ERROR_LOG_APPEND (R581): the record at LIDX joins the log, the oldest leaving when it is full; a number whose record was dropped is
passed over. -/
def execErrorLogAppend (s : State) : Result :=
  .next (
    let l := fget s F.errqLidx_index 0
    if l = fget s F.errqPidx_index 0 ∨ !fon s F.errqStatus_logOk 0 then s
    else
      let log := match Map.get? s.errq (l % 4096) with
        | some r => if r.seq = l then s.flash.log ++ [r] else s.flash.log
        | none => s.flash.log
      let log := log.drop (log.length - logRoom)
      let s : State := { s with flash := { s.flash with log := log } }
      errFreed (fset F.errqLidx_index 0 (add32 l 1) (emit .part 2 [(log.length - 1) / 64] (userUnit s ((log.length - 1) / 64)) s)))

/-- ERRQ_READ (R583): from source F the driver's index moves, from source M the management controller's own; with the main side down
the flash log's newest records are copied. -/
def execErrqRead (cmd : Nat) (s : State) : Result :=
  .next (startOp 0x0605 (fun c s =>
    let want := min (bitsAt c.pkt.w1 0 13) (dataRoom c / 64)
    if !mainOn s then
      let l := s.flash.log.drop (s.flash.log.length - want)
      (.done 0 l.length 0 (l.flatMap errBytes), s)
    else if c.src == .mgmt then
      let i := errIdx s s.errMgmt
      let l := (errFrom s i).take want
      let n := match l.getLast? with | some r => add32 r.seq 1 | none => i
      (.done 0 l.length 0 (l.flatMap errBytes), { s with errMgmt := n })
    else
      let i := fget s F.errqCidx_index 0
      let l := (errFrom s i).take want
      let n := match l.getLast? with | some r => add32 r.seq 1 | none => i
      (.done 0 l.length 0 (l.flatMap errBytes), errFreed (fset F.errqCidx_index 0 n s))) cmd s)

/-! ### Sensors (R564) -/

/-- Is a sensor on the standby side, on the main side, or not listed. -/
def sensorSide (n : Nat) : Option Bool :=
  if n = 0x3E0 ∨ n = 0x3E1 then some true
  else if n ≤ 0x251 ∨ n = 0x300 ∨ (0x310 ≤ n ∧ n ≤ 0x318) ∨ (0x320 ≤ n ∧ n ≤ 0x328) ∨ (0x330 ≤ n ∧ n ≤ 0x332) ∨ (0x340 ≤ n ∧ n ≤ 0x34B)
      ∨ (0x360 ≤ n ∧ n ≤ 0x377) ∨ (0x380 ≤ n ∧ n ≤ 0x38B) ∨ (0x3A0 ≤ n ∧ n ≤ 0x3AB) ∨ n = 0x3C0 then some false
  else none

/-- A sensor's value: what the hub holds of it, else a reading from outside. -/
def sensorValue (s : State) (n : Nat) : Nat × State :=
  if n = 0x300 then (fget s F.pwrStatus_hotTemp 0, s)
  else if n ≤ 0x251 ∧ n < s.temps.length then ((s.temps.getD n 0 % 2 ^ 64).toNat, s)
  else if 0x380 ≤ n ∧ n ≤ 0x38B then (fget s F.mtTelem_powerMw (n - 0x380), s)
  else if 0x3A0 ≤ n ∧ n ≤ 0x3AB then (fget s F.mtTelem_temp (n - 0x3A0), s)
  else (Config.sensor n s.fresh % 2 ^ 64, tickFresh s)

/-- SENSOR_READ. -/
def execSensorRead (cmd : Nat) (s : State) : Result :=
  .next (startOp 0x0604 (fun c s =>
    let n := bitsAt c.pkt.w1 0 16
    match sensorSide n with
    | none => (.st 0x08, s)
    | some standby =>
      if !standby && !mainOn s then (.st 0x0E, s)
      else
        let (v, s) := sensorValue s n
        (.done 0 v 0 [], s)) cmd s)

/-! ### LEDGER_ACCEPT, WAKE, STRICT -/

/-- LEDGER_ACCEPT (R566): an empty ledger with sequence number 1 goes into both copies. -/
def execLedgerAccept (cmd : Nat) (host : List Byte) (s : State) : Result :=
  .next (startOp 0x0606 (fun c s => match dataIn s c host with
    | .error e => (.st e, dataFailed c s)
    | .ok b =>
      if !mainOn s ∨ fget s F.bootStatus_hubState 0 = 2 then (.st 0x0E, s)
      else if !fon s F.bootStatus_ledgerWait 0 then (.st 0x0A, s)
      else if !tokenOk s 0x44584C41 b ∨ recAt b 80 4 ≠ 0 then (.st 0x0D, s)
      else
        let l : Ledger := { seq := 1 }
        (.st 0, fset F.memStatus_ledgerOk 0 1 (fset F.bootStatus_ledgerWait 0 0
          { s with ledger := l, ledgerA := some (ledgerCopy l), ledgerB := some (ledgerCopy l), ledgerBusy := none, ledgerDirty := false }))) cmd s)

/-- WAKE (R435). -/
def execWake (cmd : Nat) (s : State) : Result := .next (startOp 0x0607 (fun _ s => (.st 0, wake s)) cmd s)

/-- STRICT (R486). -/
def execStrict (cmd : Nat) (s : State) : Result :=
  .next (startOp 0x0608 (fun c s => (.st 0, setStrict (fset F.objCtrl_strictReq 0 (bitsAt c.pkt.w1 0 1) s))) cmd s)

/-! ### Counters (R589, R590) -/

/-- A write of PERF_SEL_i zeroes the counter and clears its OVF. -/
def writePerfSel (i : Nat) (v : Word) (s : State) : State :=
  rset (rset s .perfSel i (BitVec.ofNat 64 (bitsAt v.toNat 0 26))) .perfCnt i 0

/-- PERF_SEL_WRITE. -/
def execPerfSelWrite (i : Nat) (v : Word) (s : State) : Result := .next (if i < 16 then writePerfSel i v s else s)

/-- A write of PERF_CTRL: FREEZE, and with SNAP a snapshot at the next edge, or at once outside a domain. -/
def writePerfCtrl (v : Word) (s : State) : State :=
  let s := fset F.perfCtrl_freeze 0 (bitsAt v.toNat 0 1) s
  if !bitOn v.toNat 1 then s else if isMember s then { s with snapOwed := true } else perfSnapshot s

/-- PERF_CTRL_SNAP: a write with SNAP = 1. -/
def execPerfCtrlSnap (v : Word) (s : State) : Result := .next (if bitOn v.toNat 1 then writePerfCtrl v s else s)

/-! ### Perturbation (R591 to R599) -/

/-- Does the life-cycle state permit the test group (R522, R591). -/
def testOk (s : State) : Bool :=
  [0, 1, 3].contains (fget s F.secStatus_lcState 0) || (fon s F.secDebug_active 0 && bitOn (fget s F.secDebug_caps 0) 1)

/-- Is any partition CONFIG_LOCKED or RUN (R519). -/
def anyLocked (s : State) : Bool := (List.range 256).any (partLocked s)

/-- The bits of a perturbation register that hold. -/
def tpMask (k : Nat) : Nat := [29, 29, 39, 28, 32, 33].getD k 0

/-- Is a write of register `k` refused. -/
def tpRefused (s : State) (k : Nat) (v : Nat) : Bool :=
  v != 0 && (!testOk s || anyLocked s || (k == 2 && decide (bitsAt v 7 16 ≥ bitsAt v 23 16 * 1000)))

/-- A write of perturbation register `k`: it takes effect at the next edge, or at once outside a domain. -/
def writeTp (k : Nat) (v : Word) (s : State) : State :=
  let keep := BitVec.ofNat 64 (bitsAt v.toNat 0 (tpMask k))
  if tpRefused s k v.toNat then
    logErr { code := 0x0B06, cls := clsRefused } (fset F.tpStatus_refused 0 1 s)
  else
    let s : State := if k = 3 ∧ bitOn v.toNat 28 then { s with retrainOwed := some (bitsAt v.toNat 1 2, bitsAt v.toNat 3 9, s.edges) } else s
    if isMember s then { s with tpOwed := s.tpOwed.filter (·.1 != k) ++ [(k, keep)] }
    else match tpRegs[k]? with
      | some r => tpActive (rset s r 0 keep)
      | none => s

/-- TP_WRITE: the register by its number, 0 TP_NET to 5 TP_INJECT_TICK. -/
def execTpWrite (k : Nat) (v : Word) (s : State) : Result := .next (if k < 6 then writeTp k v s else s)

/-- TP_LINK_RETRAIN (R597): the retrain asked for is forced once the write is in effect: a quick retrain of an Idoon port, of a
module or of a crossing; a host link's recovery leaves its link state. -/
def execTpLinkRetrain (s : State) : Result :=
  .next (match s.retrainOwed with
    | none => s
    | some (kind, target, at_) =>
      if isMember s ∧ s.edges ≤ at_ then s
      else
        let s : State := { s with retrainOwed := none }
        match kind with
        | 0 => if target < 36 ∧ fget s F.idnStatus_state target = 7 then quickRetrain target s else s
        | 1 => if target < 96 ∧ fget s F.mtModule_state target = 5 then fset F.mtModule_state target 6 s else s
        | 2 => emit .link 0x50 [target] [] s
        | _ => if target < 288 ∧ fget s F.scarfStatus_state target = 0 then
            fbump F.scarfStatus_retrains target 1 (fset F.scarfStatus_state target 1 s) else s)

/-- Why a command of group 0x07 is turned away (R476, R522). -/
def testRefused (s : State) (c : Cmd) : Bool := !testOk s || confidential s (ctxGet s c.pkt.ctx).part

/-- PERTURB_SET: W1 is the offset in the window. -/
def execPerturbSet (cmd : Nat) (s : State) : Result :=
  .next (startOp 0x0701 (fun c s =>
    let v := BitVec.ofNat 64 c.pkt.w2
    if c.pkt.w1 % 8 ≠ 0 ∨ c.pkt.w1 / 8 > 5 then (.st 0x02, s)
    else if (confidential s (ctxGet s c.pkt.ctx).part ∧ v ≠ 0) ∨ tpRefused s (c.pkt.w1 / 8) v.toNat then
      (.st 0x04, logErr { code := 0x0B06, cls := clsRefused } (fset F.tpStatus_refused 0 1 s))
    else (.st 0, writeTp (c.pkt.w1 / 8) v s)) cmd s)

/-- PERTURB_CLEAR: always taken. -/
def execPerturbClear (cmd : Nat) (s : State) : Result :=
  .next (startOp 0x0702 (fun _ s => (.st 0, (List.range 6).foldl (fun s k => writeTp k 0 s) s)) cmd s)

/-- KAT_RUN (R554): the selector's numbering and the result's form are not stated; the result is a free value (log entry 76). -/
def execKatRun (cmd : Nat) (s : State) : Result :=
  .next (startOp 0x0703 (fun c s =>
    if testRefused s c then (.st 0x04, s) else (.done 0 (Config.freeWord s.fresh).toNat 0 [], tickFresh s)) cmd s)

/-- A field's trace records, oldest first (R344, R348). -/
def traceOf (s : State) (f : Nat) : List (List Byte) :=
  let w := fget s F.trcCtrl_wrptr f
  let at_ := fun (i : Nat) => Map.get? s.traces (f * 2048 + i)
  let old := if fon s F.trcCtrl_full f then (List.range (2048 - w)).filterMap fun i => at_ (w + i) else []
  old ++ (List.range w).filterMap at_

/-- TRACE_READ: as many records as the destination takes. -/
def execTraceRead (cmd : Nat) (s : State) : Result :=
  .next (startOp 0x0704 (fun c s =>
    let f := bitsAt c.pkt.w1 0 4
    if testRefused s c then (.st 0x04, s)
    else if f > 8 then (.st 0x02, s)
    else
      let l := (traceOf s f).take (dataRoom c / 32)
      (.done 0 l.length 0 l.flatten, s)) cmd s)

/-! ### I3C and MCTP (R560 to R562) -/

/-- The provisioned ID: the manufacturer, the part number, and HUB_ID (R560). -/
def provisioned (s : State) : Nat := Config.mipiId % 2 ^ 15 * 2 ^ 33 + 0xD0C1 * 65536 + fget s F.pwrStatus_strapStby 0

/-- ENTDAA: the bus gives the port an address. -/
def execEntdaa (da : Nat) (s : State) : Result :=
  .next (if bootStep s = 0 then s
    else emit .mgmt 0x20 [provisioned s, da % 128] [] (fset F.mgmtStatus_daValid 0 1 (fset F.mgmtStatus_da 0 da s)))

/-- An MCTP message reaches the port. -/
def mctp (f : State → State) (s : State) : Result := .next (if fon s F.mgmtStatus_daValid 0 then f s else s)

/-- SET_ENDPOINT_ID: 0 and 0xFF name no endpoint, and are refused. -/
def execSetEndpointId (eid : Nat) (s : State) : Result :=
  mctp (fun s =>
    let e := eid % 256
    if e = 0 ∨ e = 255 then emit .mgmt 0x101 [2] [] s else emit .mgmt 0x101 [0, e] [] (fset F.mgmtStatus_eid 0 e s)) s
/-- GET_ENDPOINT_ID. -/
def execGetEndpointId (s : State) : Result := mctp (fun s => emit .mgmt 0x102 [0, fget s F.mgmtStatus_eid 0] [] s) s
/-- GET_MCTP_VERSION_SUPPORT: for the message types supported. -/
def execGetMctpVersionSupport (ty : Nat) (s : State) : Result :=
  mctp (fun s => emit .mgmt 0x104 [if [0, 1, 5, 0x7E, 0xFF].contains ty then 0 else 0x80] [] s) s
/-- GET_MESSAGE_TYPE_SUPPORT. -/
def execGetMessageTypeSupport (s : State) : Result := mctp (fun s => emit .mgmt 0x105 [0, 1, 5, 0x7E] [] s) s
/-- GET_VENDOR_DEFINED_MESSAGE_SUPPORT: one set, of PCI vendor-defined messages. -/
def execGetVendorDefinedMessageSupport (sel : Nat) (s : State) : Result :=
  mctp (fun s => emit .mgmt 0x106 [if sel = 0 then 0 else 2] [] s) s

/-- GRISET_MCTP_REQUEST (R562): a request joins the queue, or is dropped as the ninth. -/
def execGrisetMctpRequest (tag : Nat) (bytes : List Byte) (s : State) : Result :=
  mctp (fun s =>
    if recAt bytes 0 1 ≠ 0x7E ∨ recAt bytes 1 2 ≠ Config.vendorId ∨ recAt bytes 3 1 ≠ 1 ∨ bytes.length < 68 ∨ bytes.length > 4164 then s
    else if fget s F.mgmtStatus_queued 0 ≥ 8 then fbump F.mgmtStatus_drops 0 1 s
    else
      let p := packetIn ((bytes.drop 4).take 64)
      sweep (enterCmd .mgmt tag p (bytes.drop 68) none (fset F.mgmtStatus_queued 0 (fget s F.mgmtStatus_queued 0 + 1) s))) s

/-! ### PLDM (R563) -/

/-- The numeric sensors, ascending. -/
def sensorNums : List Nat := (List.range 0x3E2).filter fun n => (sensorSide n).isSome

/-- GETTID. -/
def execGettid (s : State) : Result := mctp (fun s => emit .pldm 0x1002 [0, Config.tid % 256] [] s) s
/-- GETPLDMVERSION of a type. -/
def execGetpldmversion (ty : Nat) (s : State) : Result := mctp (fun s => emit .pldm 0x1003 [if ty = 0 ∨ ty = 2 then 0 else 0x83] [] s) s
/-- GETPLDMTYPES. -/
def execGetpldmtypes (s : State) : Result := mctp (fun s => emit .pldm 0x1004 [0, 0, 2] [] s) s
/-- GETPLDMCOMMANDS of a type. -/
def execGetpldmcommands (ty : Nat) (s : State) : Result :=
  mctp (fun s => emit .pldm 0x1005 (if ty = 0 then [0, 2, 3, 4, 5] else if ty = 2 then [0, 4, 0x0A, 0x11, 0x21, 0x50, 0x51] else [0x83]) [] s) s
/-- GETPDRREPOSITORYINFO: one record for the state sensor and one for each numeric sensor. -/
def execGetpdrrepositoryinfo (s : State) : Result := mctp (fun s => emit .pldm 0x1250 [0, sensorNums.length + 1] [] s) s
/-- GETPDR: record 0 is the state sensor's, record k + 1 that of the k-th numeric sensor; the next record's handle comes with it. -/
def execGetpdr (handle : Nat) (s : State) : Result :=
  mctp (fun s => emit .pldm 0x1251
    (if handle = 0 then [0, 1]
     else match sensorNums[handle - 1]? with
      | some n => [0, if handle < sensorNums.length then handle + 1 else 0, n]
      | none => [0x82]) [] s) s
/-- GETSENSORREADING. -/
def execGetsensorreading (sensor : Nat) (s : State) : Result :=
  mctp (fun s => match sensorSide sensor with
    | none => emit .pldm 0x1211 [0x80] [] s
    | some standby =>
      if !standby && !mainOn s then emit .pldm 0x1211 [0, 2] [] s
      else
        let (v, s) := sensorValue s sensor
        emit .pldm 0x1211 [0, 0, v] [] s) s
/-- GETSTATESENSORREADINGS: HUB_STATE. -/
def execGetstatesensorreadings (s : State) : Result := mctp (fun s => emit .pldm 0x1221 [0, fget s F.bootStatus_hubState 0] [] s) s
/-- SETEVENTRECEIVER. -/
def execSeteventreceiver (eid : Nat) (s : State) : Result := mctp (fun s => emit .pldm 0x1204 [0] [] { s with pldmTo := some (eid % 256) }) s

end Sys2Proof.Machine
end

