-- ==== Sys2Proof/Machine/RegWrite.lean ====
section
/-! DEFINITION. Machine/RegWrite.lean: writes of registers (R11 to R14, R402, R409, R410): which register an offset names, what
each access code does, and the registers whose writes do more; MSI-X tables (R401) and HDM decoders (R412). -/
namespace Sys2Proof.Machine

/-! ### Words and bytes (R14) -/

/-- A word with bytes `lo, lo + 1, …` replaced. -/
def overBytes (w lo : Nat) (bs : List Byte) : Nat :=
  ofLe ((List.range 8).map fun k => if lo ≤ k ∧ k < lo + bs.length then bs.getD (k - lo) 0 else BitVec.ofNat 8 (bitsAt w (k * 8) 8))

/-- The accesses a write makes, one for each 64-bit word it touches, lower first: the word's offset, the first byte in it, and the
bytes; `fuel` bounds their number. -/
def wordPieces : Nat → Nat → List Byte → List (Nat × Nat × List Byte)
  | 0, _, _ => []
  | fuel + 1, off, bs =>
    if bs.isEmpty then []
    else
      let k := 8 - off % 8
      (off / 8 * 8, off % 8, bs.take k) :: wordPieces fuel (off + k) (bs.drop k)

/-- The word a partial write presents to a register: fields that keep what was written read as they are, bits that act when
written with 1 are 0 in bytes not addressed. -/
def writeWord (s : State) (r : RegName) (i lo : Nat) (bs : List Byte) : Word :=
  let base := r.fields.foldl (fun n f => if f.acc = .rw ∨ f.acc = .rwo then n + placed f.lo f.w (fget s f i) else n) 0
  BitVec.ofNat 64 (overBytes base lo bs)

/-- What a write does to one field by its access code (R11). -/
def writeField (i v : Nat) (s : State) (f : Fld) : State :=
  let x := bitsAt v f.lo f.w
  match f.acc with
  | .rw => fset f i x s
  | .rwo =>
    let k := regKey f.reg i * 64 + f.lo
    if s.rwo.contains k then s else fset f i x { s with rwo := k :: s.rwo }
  | .w1c => fset f i (fget s f i - (fget s f i &&& x)) s
  | .w1s => fset f i (fget s f i ||| x) s
  | .ro | .wo => s

/-- A write of a register without behaviour of its own. -/
def plainWrite (r : RegName) (i : Nat) (v : Word) (s : State) : State := r.fields.foldl (writeField i v.toNat) s

/-! ### Registers with behaviour of their own -/

/-- PART_SLUICE (R352, R516): a write while the partition is enabled waits for the edge. -/
def writePartSluice (p : Nat) (v : Word) (s : State) : State :=
  let v : Word := BitVec.ofNat 64 (bitsAt v.toNat 0 11)
  if partLocked s p then logRefused 0x0B02 (some p) s
  else if (partGet s p).enabled then { s with slcOwed := Map.set s.slcOwed p v }
  else rset s .partSluice p v

/-- The global-control registers with behaviour of their own, and then the plain ones. -/
def writeGctl (r : RegName) (i : Nat) (v : Word) (s : State) : State := match r with
  | .gctlTileQuery => writeTileQuery v s
  | .domCtrl => writeDomCtrl v s
  | .lsCfg => writeLsCfg v s
  | .memClear => writeMemClear v s
  | .cohRange => writeCohRange i v s
  | .cohRangeAddr => writeCohRangeAddr i v s
  | .objAdminCmd => adminWrite 0 v s
  | .objAdminCpl => adminWrite 1 v s
  | .objCtrl => setStrict (plainWrite .objCtrl i v s)
  | .defMapout => writeDefMapout v s
  | _ => plainWrite r i v s

/-- The registers of the tick, sluice, error and counter windows. -/
def writeTickWin (r : RegName) (i : Nat) (v : Word) (s : State) : State := match r with
  | .tickCtrl => writeTickCtrl v s
  | .tickPeriodSet => writeTickPeriod v s
  | .partCfg => writePartCfg i v s
  | .partIdoon => writePartIdoon i v s
  | .partSluice => writePartSluice i v s
  | .errqCidx => writeCidx (bitsAt v.toNat 0 32) s
  | .errqCtrl => errFreed (plainWrite .errqCtrl i v s)
  | .perfSel => writePerfSel i v s
  | .perfCtrl => writePerfCtrl v s
  | _ => plainWrite r i v s

/-- The registers of the host port, security and perturbation windows; `via` is the host port of a PF access. -/
def writeHostWin (via : Option Nat) (r : RegName) (i : Nat) (v : Word) (s : State) : State := match r with
  | .hostpHotplug => writeHotplug v s
  | .hostpBiasFlip => writeBiasFlip v s
  | .hostpPortCtrl => if isPort s i then writePortCtrl i via v s else s
  | .hostfBind => writeBind i v s
  | .hostfBar4 => writeBar4 (i / 4) (i % 4) v s
  | .hostfBar4Dpa => writeBar4Dpa (i / 4) (i % 4) v s
  | .partBays => writePartBays (i / 9) (i % 9) v s
  | .partMem => writePartMem (i / 8) (i % 8) v s
  | .partProv => writePartProv i v s
  | .tpNet => writeTp 0 v s
  | .tpCredit => writeTp 1 v s
  | .tpMem => writeTp 2 v s
  | .tpLink => writeTp 3 v s
  | .tpInject => writeTp 4 v s
  | .tpInjectTick => writeTp 5 v s
  | _ => plainWrite r i v s

/-- The registers of the field and mortise windows. -/
def writeFieldWin (r : RegName) (i : Nat) (v : Word) (s : State) : State := match r with
  | .idnCtrl => writeIdnCtrl i v s
  | .trcCtrl => writeTrcCtrl i v s
  | .prbFiltA => writePrbFilt false i v s
  | .prbFiltB => writePrbFilt true i v s
  | .mtCtrl => writeMtCtrl i v s
  | .mtAssign => writeMtAssign i v s
  | _ => plainWrite r i v s

/-- A write of a register of a window. -/
def writeReg (via : Option Nat) (w : Window) (r : RegName) (i : Nat) (v : Word) (s : State) : State := match w with
  | .gctl => writeGctl r i v s
  | .tick | .sluice | .err | .probes => writeTickWin r i v s
  | .host | .sec | .tp => writeHostWin via r i v s
  | .field | .mortise => writeFieldWin r i v s

/-- A write that does not address byte 0 (R14): ARM of TRC_CTRL and ENABLE of PART_CFG, whose writes of 1 act, are not written. -/
def writeHigh (via : Option Nat) (w : Window) (r : RegName) (i : Nat) (v : Word) (s : State) : State := match r with
  | .trcCtrl => s
  | .partCfg => fset F.partCfg_recoverLog2 i (bitsAt v.toNat 8 4) s
  | _ => writeReg via w r i v s

/-- The window of a directory ID (R408). -/
def windowOf (id : Nat) : Option Window := match id with
  | 0x0001 => some .gctl
  | 0x0002 => some .tick
  | 0x0003 => some .sluice
  | 0x0004 => some .err
  | 0x0005 => some .probes
  | 0x0006 => some .host
  | 0x0007 => some .sec
  | 0x0008 => some .tp
  | 0x0010 => some .field
  | 0x0011 => some .mortise
  | _ => none

/-! ### MSI-X tables (R401, R409) -/

/-- A pending vector that is no longer masked is sent, as PCI Express says (PRESUMED, log entry 68). -/
def msixFlush (port fn vec : Nat) (s : State) : State :=
  let k := msixKey port fn vec
  if s.pba.contains k && !(msixWord s port fn vec 1).getLsbD 32 then
    msixRaise port fn vec { s with pba := s.pba.filter (· != k) }
  else s

/-- A write of word `k` of a vector's entry: address; data and vector control, of which the mask bit holds. -/
def msixWrite (port fn vec k lo : Nat) (bs : List Byte) (s : State) : State :=
  let n := overBytes (msixWord s port fn vec k).toNat lo bs
  let n := if k = 0 then n / 4 * 4 else n % 2 ^ 33
  msixFlush port fn vec { s with msix := Map.set s.msix (msixKey port fn vec * 16 + k) (BitVec.ofNat 64 n) }

/-! ### HDM decoders (R412), in the layout of CXL 3.1 (PRESUMED, log entry 68) -/

/-- The offset of the HDM decoder capability in a port's component registers. -/
def hdmBase : Nat := 0x1200

/-- A 32-bit register of it, by its number. -/
def hdmReg (s : State) (port k : Nat) : Nat := Map.get s.hdm 0 (port * 256 + k)
/-- Two registers as 64 bits. -/
def hdm64 (s : State) (port k : Nat) : Nat := hdmReg s port k + hdmReg s port (k + 1) * 2 ^ 32
/-- Base, size, control and skip of decoder `n`. -/
def hdmStart (s : State) (port n : Nat) : Nat := hdm64 s port (4 + 8 * n)
def hdmSize (s : State) (port n : Nat) : Nat := hdm64 s port (6 + 8 * n)
def hdmCtrl (s : State) (port n : Nat) : Nat := hdmReg s port (8 + 8 * n)
def hdmSkip (s : State) (port n : Nat) : Nat := hdm64 s port (9 + 8 * n)
/-- Log2 of the interleave ways. -/
def hdmWays (s : State) (port n : Nat) : Nat := bitsAt (hdmCtrl s port n) 4 4
/-- Device bytes behind decoder `n`. -/
def hdmBytes (s : State) (port n : Nat) : Nat := hdmSize s port n / 2 ^ hdmWays s port n
/-- The device address at which decoder `n` starts: what the decoders before it cover, and the skips. -/
def hdmDpa (s : State) (port n : Nat) : Nat :=
  ((List.range n).map fun m => hdmSkip s port m + hdmBytes s port m).sum + hdmSkip s port n
/-- Is a decoder committed. -/
def hdmCommitted (s : State) (port n : Nat) : Bool := bitOn (hdmCtrl s port n) 10

/-- Does a host agent's range govern a line. -/
def lineShared (s : State) (line : Nat) : Bool := match rangeOf s line with
  | some i => hostShared s i
  | none => false

/-- May decoder `n` be committed (R412): whole pages, all in host-shared ranges, none in memory of a confidential partition. -/
def hdmMayCommit (s : State) (port n : Nat) : Bool :=
  let a := hdmDpa s port n
  let len := hdmBytes s port n
  decide (hdmWays s port n ≤ 4) && decide (0 < len) && len % 2 ^ 21 == 0 && a % 2 ^ 21 == 0 && decide (len ≤ 65536 * 2 ^ 21)
    && (List.range n).all (hdmCommitted s port)
    && (List.range (len / 2 ^ 21)).all (fun k => lineShared s (a / 64 + k * 2 ^ 15))
    && !(List.range 256).any (fun p => confidential s p && (rangesOf s p).any (rangesMeet (a, a + len)))

/-- A write of an HDM register. A committed decoder keeps its fields; COMMIT is answered by COMMITTED or by the commit error. -/
def hdmSet (port k v : Nat) (s : State) : State :=
  let put := fun (k v : Nat) (s : State) => ({ s with hdm := Map.set s.hdm (port * 256 + k) v } : State)
  if k = 1 then put 1 (v % 4) s
  else if k < 4 ∨ k ≥ 36 then s
  else
    let n := (k - 4) / 8
    let c := hdmCtrl s port n
    if hdmCommitted s port n && (bitOn c 8 || (k - 4) % 8 != 4) then s
    else match (k - 4) % 8 with
      | 0 | 2 => put k (v / 2 ^ 28 * 2 ^ 28) s
      | 1 | 3 | 6 => put k v s
      | 5 => put k (v / 2 ^ 28 * 2 ^ 28) s
      | 4 =>
        if hdmCommitted s port n && bitOn v 9 then s
        else
          let s := put k (bitsAt v 0 10 + placed 12 1 (bitsAt v 12 1)) s
          if !bitOn v 9 then s
          else if hdmMayCommit s port n then put k (hdmReg s port k + 2 ^ 10) s
          else logErr { code := 0x0811, cls := clsRefused, detail := port } (put k (hdmReg s port k + 2 ^ 11) s)
      | _ => s

/-- A piece of a write within a 64-bit word that holds two HDM registers. -/
def hdmWrite (port off lo : Nat) (bs : List Byte) (s : State) : State :=
  let k := (off - hdmBase) / 4
  let w := overBytes (hdm64 s port k) lo bs
  let s := if lo < 4 then hdmSet port k (w % 2 ^ 32) s else s
  if lo + bs.length > 4 then hdmSet port (k + 1) (w / 2 ^ 32) s else s

/-- The device address of a host address (R412): the first committed decoder that holds it, with its interleaving undone. -/
def hdmDecode (s : State) (port a : Nat) : Option Nat :=
  if !bitOn (hdmReg s port 1) 1 then none
  else ((List.range 4).find? fun n => hdmCommitted s port n && decide (hdmStart s port n ≤ a) && decide (a < hdmStart s port n + hdmSize s port n)).map fun n =>
    let o := a - hdmStart s port n
    let g := 2 ^ (8 + bitsAt (hdmCtrl s port n) 0 4)
    hdmDpa s port n + o / (g * 2 ^ hdmWays s port n) * g + o % g

/-! ### The write -/

/-- One access of a write to a window, within a 64-bit word. -/
def writePiece (via : Option Nat) (win inst : Nat) (q : Nat × Nat × List Byte) (s : State) : State :=
  let off := q.1
  let lo := q.2.1
  let bs := q.2.2
  if win = 6 ∧ 0x40000 ≤ off ∧ off < 0x80000 then
    let port := (off - 0x40000) / 0x10000
    let o := off % 0x10000
    if hdmBase ≤ o ∧ o < hdmBase + 0x90 then hdmWrite port o lo bs s else s
  else if win = 6 ∧ 0x80000 ≤ off ∧ off < 0xC0000 then
    let o := off % 0x10000
    if o < 0x8000 then msixWrite ((off - 0x80000) / 0x10000) 0 (o / 16) (o / 8 % 2) lo bs s else s
  else match windowOf win with
    | none => s
    | some w =>
      if w = .mortise ∧ siteState s inst = 0xC then s
      else match regAt w inst off with
        | none => s
        | some (r, i) => if lo = 0 then writeReg via w r i (writeWord s r i lo bs) s else writeHigh via w r i (writeWord s r i lo bs) s

/-- A write of bytes to a window; an access that crosses a 64-bit boundary completes as two (R14). -/
def writeWindow (via : Option Nat) (win inst off : Nat) (bs : List Byte) (s : State) : State :=
  (wordPieces (bs.length + 1) off bs).foldl (fun s q => writePiece via win inst q s) s

/-- The MSI-X table of a VF is all its BAR0 takes writes to (R409). -/
def writeVf (port fn off : Nat) (bs : List Byte) (s : State) : State :=
  (wordPieces (bs.length + 1) off bs).foldl (fun s q =>
    let o := q.1
    if 0x8000 ≤ o ∧ o < 0x8400 then msixWrite port fn ((o - 0x8000) / 16) (o / 8 % 2) q.2.1 q.2.2 s else s) s

/-- A request of a host through a function arrives: the port takes nothing while it is out of DL_Active or contained (R431); in RUN
what comes outside the function's stream is refused (R515). -/
def hostRequest (port fn n : Nat) (ide : Bool) (f : State → State) (s : State) : State :=
  if !dlActive s port ∨ fon s F.hostpPortStatus_contained port ∨ fn ≥ 256 then s
  else
    let s := fwrap F.hostpRxbytes_count F.hostpRxbytes_ovf port n (linkWake port s)
    if fget s F.partSec_tdisp fn = 2 ∧ !ide then logRefused 0x0B03 (some fn) s
    else f s

/-- A BAR0 write that is dropped because HUB_STATE is not READY is counted with the doorbells (R410, R494). -/
def barDrop (s : State) : State := fbump F.objDbDrops_count 0 1 s

/-- REGISTER_WRITE (R11, R14). While HUB_STATE is not READY, a host reaches only the Errors and faults window (R410). -/
def execRegisterWrite (w : RegWr) (s : State) : Result :=
  .next (match w.path with
    | .mgmt => writeWindow none w.win w.inst w.off w.bytes s
    | .pf port ide => hostRequest port 0 w.bytes.length ide
        (fun s => if hubReady s ∨ w.win = 4 then writeWindow (some port) w.win w.inst w.off w.bytes s else barDrop s) s
    | .vf port fn ide => hostRequest port fn w.bytes.length ide
        (fun s => if !hubReady s then barDrop s else if fn ≠ 0 then writeVf port fn w.off w.bytes s else s) s)

end Sys2Proof.Machine
end

