-- ==== Sys2Proof/Machine/RegRead.lean ====
section
/-! DEFINITION. Machine/RegRead.lean: what reads of the register space return (R11, R14, R23): registers through each path, the
capability directory (R408), the partition view (R409), and the tables that stand in windows (R348, R401, R412, R578). A read
changes nothing. The opcode table has no command for a host's read; the control complex reads by packets (Access.lean). -/
namespace Sys2Proof.Machine

/-- Who reads: the control complex and the hub's own units; the operator, through PF BAR0 or the management port (R520). -/
inductive View where
  | hub
  | operator
  deriving DecidableEq, Repr

/-- The fields of a confidential partition's units that the operator reads as zero, with the partition of the unit (R520). A walker's
partition is that of its bay. -/
def secretFields (s : State) (r : RegName) (i : Nat) : Option Nat × List Fld := match r with
  | .tileStatus => (partOfBay s (bayOf i), [F.tileStatus_pc])
  | .tileErr => (partOfBay s (bayOf i), [F.tileErr_pc])
  | .tileVflags => (partOfBay s (bayOf i), RegName.tileVflags.fields)
  | .kvwErr => (partOfBay s i, [F.kvwErr_entry])
  | .kvwBytes => (partOfBay s i, RegName.kvwBytes.fields)
  | .kvwFaults => (partOfBay s i, RegName.kvwFaults.fields)
  | .lsDiverge => (some (fget s F.lsCfg_partition 0), [F.lsDiverge_field, F.lsDiverge_bay])
  | _ => (none, [])

/-- The value of a register that does not stand in it: TICK of TILE_STATUS is the tick counter while the tile's partition has a tick
in progress (R104). -/
def regValue (s : State) (r : RegName) (i : Nat) : Nat :=
  let w := (rget s r i).toNat
  if r = .tileStatus then
    let live := match partOfBay s (bayOf i) with
      | some p => (partGet s p).live
      | none => false
    putBits w F.tileStatus_tick.lo F.tileStatus_tick.w (if live then fget s F.tickCounter_count 0 else 0)
  else w

/-- What a read of a register returns (R11): nothing in reserved bits; the operator reads zero where R520 says so. -/
def regView (s : State) (v : View) (r : RegName) (i : Nat) : Nat :=
  let hide : List Fld := match secretFields s r i with
    | (some p, fs) => if v = .operator ∧ confidential s p then fs else []
    | (none, _) => []
  hide.foldl (fun n f => putBits n f.lo f.w 0) (regValue s r i)

/-- Bytes `lo` to `lo + 7` of a record, as a word. -/
def wordAt (bs : List Byte) (lo : Nat) : Nat := recAt bs lo 8

/-- The pending-bit array of a function: the word of vectors `64 k` to `64 k + 63`. -/
def pbaWord (s : State) (port fn k : Nat) : Nat := maskOf ((List.range 64).filter fun v => s.pba.contains (msixKey port fn (64 * k + v)))

/-- A function's MSI-X table and, from 0x8000 on (0x4000 for a VF, `half`), its pending-bit array, by offset. -/
def msixRead (s : State) (port fn vecs half o : Nat) : Nat :=
  if o < vecs * 16 then (msixWord s port fn (o / 16) (o / 8 % 2)).toNat
  else if half ≤ o ∧ o < half + vecs / 8 then pbaWord s port fn ((o - half) / 8)
  else 0

/-- The word at an offset of a window: a register, the error queue's slots (R578), trace records (R348), the HDM decoders (R412), an
MSI-X table (R401). What stands nowhere reads zero. -/
def readWord (s : State) (v : View) (win inst off : Nat) : Nat :=
  let o := off % 0x10000
  if win = 4 ∧ 0x40000 ≤ off ∧ off < 0x80000 then match Map.get? s.errq ((off - 0x40000) / 0x40) with
    | some e => wordAt (errBytes e) (off % 0x40)
    | none => 0
  else if win = 5 ∧ 0x100000 ≤ off ∧ off < 0x190000 then
    wordAt (Map.get s.traces [] ((off - 0x100000) / 0x10000 * 2048 + o / 32)) (off % 32)
  else if win = 6 ∧ 0x40000 ≤ off ∧ off < 0x80000 then
    if hdmBase ≤ o ∧ o < hdmBase + 0x90 then hdm64 s ((off - 0x40000) / 0x10000) ((o - hdmBase) / 4) else 0
  else if win = 6 ∧ 0x80000 ≤ off ∧ off < 0xC0000 then msixRead s ((off - 0x80000) / 0x10000) 0 2048 0x8000 o
  else match windowOf win with
    | none => 0
    | some w => match regAt w inst off with
      | some (r, i) => regView s v r i
      | none => 0

/-- A byte of a window (R14: an access that is narrow, or that crosses a word, takes the bytes it addresses). -/
def readByte (s : State) (v : View) (win inst off : Nat) : Byte :=
  BitVec.ofNat 8 (bitsAt (readWord s v win inst (off / 8 * 8)) (off % 8 * 8) 8)

/-! ### The capability directory (R408) -/

/-- The windows that the directory of the PF names, as ID and INSTANCE: a site's only where it is licensed. -/
def dirWindows (s : State) : List (Nat × Nat) :=
  ((List.range 8).map fun k => (k + 1, 0)) ++ ((List.range 9).map fun f => (0x10, f))
    ++ (((List.range 12).filter fun n => siteState s n != 0xC).map fun n => (0x11, n))
    ++ ((List.range 4).map fun p => (0x21, p))

/-- Where a window stands in BAR0, its size, and its VERSION: the MSI-X tables stand in the Host port window. -/
def windowAt (e : Nat × Nat) : Nat × Nat × Nat :=
  if e.1 = 0x21 then
    let (off, _, _) := Config.windowAt 0x60
    (off + 0x80000 + e.2 * 0x10000, 0x10000, (Config.windowAt (0x210 + e.2)).2.2)
  else Config.windowAt (e.1 * 16 + e.2)

/-- A directory entry. -/
def dirEntry (id inst : Nat) (w : Nat × Nat × Nat) : List Byte :=
  leBytes 2 id ++ leBytes 1 w.2.2 ++ leBytes 1 inst ++ leBytes 4 w.1 ++ leBytes 4 w.2.1 ++ leBytes 4 0

/-- A directory: its header, with what the licence gives, and its entries. -/
def directory (s : State) (entries : List (List Byte)) : List Byte :=
  leBytes 4 0x44584344 ++ leBytes 2 1 ++ leBytes 2 entries.length
    ++ leBytes 1 (fget s F.bootStatus_hubState 0) ++ leBytes 1 (fget s F.bootStatus_step 0) ++ leBytes 6 0
    ++ leBytes 1 s.cfg.limPorts ++ leBytes 1 s.cfg.limHubs ++ leBytes 1 s.cfg.limSites ++ leBytes 1 (s.cfg.features % 4)
    ++ List.replicate 44 0 ++ entries.flatten

/-- The directory of PF BAR0. -/
def pfDirectory (s : State) : List Byte := directory s ((dirWindows s).map fun e => dirEntry e.1 e.2 (windowAt e))

/-- The window that a BAR0 offset falls in, with the offset in it. -/
def windowAtOffset (s : State) (off : Nat) : Option (Nat × Nat × Nat) :=
  ((dirWindows s).find? fun e => decide ((windowAt e).1 ≤ off) && decide (off < (windowAt e).1 + (windowAt e).2.1)).map fun e =>
    (e.1, e.2, off - (windowAt e).1)

/-- A byte of the register space: the directory from offset 0, then the windows. -/
def bar0Byte (s : State) (v : View) (off : Nat) : Byte :=
  if off < (pfDirectory s).length then (pfDirectory s).getD off 0
  else match windowAtOffset s off with
    | some (id, inst, o) => readByte s v id inst o
    | none => 0

/-- What `n` bytes of the register space read as. -/
def bar0Read (s : State) (v : View) (off n : Nat) : List Byte := (List.range n).map fun k => bar0Byte s v (off + k)

/-- What a host reads through PF BAR0 (R402, R410, R520): while HUB_STATE is not READY only the directory and the Errors and faults
window respond. -/
def pfRead (s : State) (off n : Nat) : List Byte := (List.range n).map fun k =>
  let o := off + k
  let open' := hubReady s || decide (o < (pfDirectory s).length) || match windowAtOffset s o with
    | some (id, _, _) => id == 4
    | none => false
  if open' then bar0Byte s .operator o else 0

/-! ### The partition view (R409) -/

/-- The directory of VF `fn`. -/
def vfDirectory (s : State) : List Byte :=
  directory s [dirEntry 0x20 0 (0x1000, 0x1000, (Config.windowAt 0x200).2.2), dirEntry 0x21 0 (0x8000, 0x8000, (Config.windowAt 0x210).2.2)]

/-- A word of VF `fn`'s BAR0: mirrors of the partition's tick registers, and its MSI-X table of 64 vectors. -/
def vfWord (s : State) (port fn off : Nat) : Nat :=
  if 0x1000 ≤ off ∧ off < 0x2000 then
    match off - 0x1000 with
    | 0x08 => regView s .hub .partStatus fn
    | 0x10 => regView s .hub .partCommits fn
    | 0x18 => regView s .hub .partSpoils fn
    | 0x20 => regView s .hub .partOverruns fn
    | 0x28 => regView s .hub .partLastTick fn
    | _ => 0
  else if 0x8000 ≤ off then msixRead s port fn 64 0x4000 (off - 0x8000)
  else 0

/-- What a host reads through VF `fn`'s BAR0. -/
def vfRead (s : State) (port fn off n : Nat) : List Byte := (List.range n).map fun k =>
  let o := off + k
  if o < (vfDirectory s).length then (vfDirectory s).getD o 0
  else if hubReady s then BitVec.ofNat 8 (bitsAt (vfWord s port fn (o / 8 * 8)) (o % 8 * 8) 8) else 0

end Sys2Proof.Machine
end

