-- ==== Sys2Proof/Machine/Agents.lean ====
section
/-! DEFINITION. Machine/Agents.lean: the agents' side of the directory protocol (R337 to R341, R386 to R388, R421 to R424): the
control complex, the tenons' CXL.cache and the hosts' CXL.mem. The control complex is a unit of the hub, whose answers travel
as packets; the site logic and the host ports hand what their links bring to the home in one step (log entry 60). -/
namespace Sys2Proof.Machine

/-- The requester numbers of a host port and of a site, beyond the 16 bits of a node. -/
def hostSrc (port : Nat) : Nat := 0x10000 + port
def siteSrc (n : Nat) : Nat := 0x10010 + n

/-- The node of a line's home. -/
def homeNode (line : Nat) : Nat := sliceNode (homeOf line)

/-! ### The control complex, agent 0 (R333, R339, R424) -/

/-- Lines of host memory stand beyond every device line. -/
def hostLine (a : Nat) : Nat := 2 ^ 60 + a / 64

/-- The control complex gives up a line, or its ownership: the data of a line it may have modified. -/
def ccTake (inval : Bool) (key : Nat) (s : State) : List Byte × State :=
  match Map.get? s.ccLines key with
  | none => ([], s)
  | some (own, d) =>
    (if own then d else [], { s with ccLines := if inval then Map.erase s.ccLines key else Map.set s.ccLines key (false, d) })

/-- The control complex, agent 0, sends a home a packet of type `ty`, at hub level with class C0 (R328). -/
def ccSend (ty line : Nat) (args : List Nat) (data : List Byte) (s : State) : State :=
  emit .coh ty ([homeNode line, 0, line * 64] ++ args) (netPacket ty (netPkt s none 0 (agentNode 0) (homeNode line) 0 0 (line * 64) 0 data)) s

/-- It answers a snoop with SNPRSP. -/
def ccSnoop (inval : Bool) (line : Nat) (s : State) : State :=
  let (d, s) := ccTake inval line s
  ccSend 0x3F line [] d s

/-! ### Messages to an agent -/

/-- A snoop reaches an agent: the control complex answers it, after its hold; a tenon or a host is asked (R386, R421). -/
def snoopReach (inval : Bool) (agent line : Nat) (s : State) : State :=
  let ty := if inval then 0x38 else 0x39
  if agent = 0 then
    if s.cohHold.contains (0, line) then { s with cohWait := s.cohWait ++ [⟨0, line, inval⟩] } else ccSnoop inval line s
  else if agent ≤ 12 then emit .cxl ty [agent - 1, line * 64] [] s
  else if agent ≤ 16 then emit .host ty [agent - 13, line * 64] [] s
  else s

/-- SNPINV. -/
def execSnpinv (a : NetArr) (s : State) : Result :=
  .next (netArrive 0x38 a (fun p s => snoopReach true p.agent (p.addr / 64) s) s)
/-- SNPSHR. -/
def execSnpshr (a : NetArr) (s : State) : Result :=
  .next (netArrive 0x39 a (fun p s => snoopReach false p.agent (p.addr / 64) s) s)

/-- SNOOP_HOLD_END: the hold of an agent ends and the snoops that waited are answered. -/
def execSnoopHoldEnd (agent line : Nat) (s : State) : Result :=
  .next (if !s.cohHold.contains (agent, line) then s
    else
      let due := s.cohWait.filter fun h => h.agent == agent && h.line == line
      let s : State := { s with cohHold := s.cohHold.filter (· != (agent, line))
                                cohWait := s.cohWait.filter fun h => !(h.agent == agent && h.line == line) }
      due.foldl (fun s h => ccSnoop h.inval line s) s)

/-- PUSH (R340): the control complex accepts or declines an offered line; for a tenon the site logic declines (R387), and so does the
port for a host, which CXL.mem gives no pushed line. -/
def execPush (a : NetArr) (accept : Bool) (s : State) : Result :=
  .next (netArrive 0x3A a (fun p s =>
    let line := p.addr / 64
    if p.agent = 0 then
      let s := if accept then { s with ccLines := Map.set s.ccLines line (false, p.data) } else s
      ccSend 0x42 line [bit01 accept] [] s
    else pushAnswered line p.agent false s) s)

/-- A grant reaches its agent: the control complex holds the line and sends CMPACK; a tenon or a host gets it over its link, whose
acknowledgement is awaited (R387, R421). -/
def grantReach (ty : Nat) (p : NetPkt) (s : State) : State :=
  let line := p.addr / 64
  if p.agent = 0 then
    let old := match Map.get? s.ccLines line with | some (_, d) => d | none => []
    let s : State := { s with ccLines := Map.set s.ccLines line (decide (ty ≠ 0x3C), if ty = 0x3E then old else p.data)
                              cohHold := s.cohHold.filter (· != (0, line)) ++ [(0, line)] }
    ccSend 0x40 line [] [] (netClose p.dst p.tag s)
  else if p.agent > 16 then s
  else
    let src := if p.agent ≤ 12 then siteSrc (p.agent - 1) else hostSrc (p.agent - 13)
    let bare : Bool := match netWaits s src p.tag with | some r => r.noData | none => false
    let data := if bare || ty == 0x3E then [] else p.data
    let s : State := { (netClose src p.tag s) with ackOwed := if s.ackOwed.contains (p.agent, line) then s.ackOwed else s.ackOwed ++ [(p.agent, line)] }
    if p.agent ≤ 12 then
      emit .cxl ty [p.agent - 1, p.tag, line * 64] data (siteServed (p.agent - 1) (cxlModule s (p.agent - 1)) p.cls data.length s)
    else
      emit .host ty [p.agent - 13, p.tag, line * 64] data (hostServed (p.agent - 13) p.cls data.length s)

/-- DATA_S. -/
def execDataS (a : NetArr) (s : State) : Result := .next (netArrive 0x3C a (grantReach 0x3C) s)
/-- DATA_E. -/
def execDataE (a : NetArr) (s : State) : Result := .next (netArrive 0x3D a (grantReach 0x3D) s)
/-- GNT_E. -/
def execGntE (a : NetArr) (s : State) : Result := .next (netArrive 0x3E a (grantReach 0x3E) s)

/-- GO_FLIT_ACK (R387, R421): the link acknowledges the flit that carried a grant, and CMPACK goes to the home. -/
def execGoFlitAck (agent line : Nat) (s : State) : Result :=
  .next (if s.ackOwed.contains (agent, line) then cmpAck line agent { s with ackOwed := s.ackOwed.filter (· != (agent, line)) } else s)

/-- WBACK (R341, R386, R421): the receipt of an eviction or writeback. -/
def execWback (a : NetArr) (s : State) : Result :=
  .next (netArrive 0x41 a (fun p s =>
    let line := p.addr / 64
    if p.agent = 0 then { (netClose p.dst p.tag s) with ccLines := Map.erase s.ccLines line }
    else if p.agent ≤ 12 then emit .cxl 0x41 [p.agent - 1, p.tag, line * 64] [] (netClose (siteSrc (p.agent - 1)) p.tag s)
    else if p.agent ≤ 16 then emit .host 0x41 [p.agent - 13, p.tag, line * 64] [] (netClose (hostSrc (p.agent - 13)) p.tag s)
    else s) s)

/-- SNOOP_TIMEOUT (R339, R388, R423): 100 µs without an answer. The agent leaves the line's entry; what it could have modified is lost;
the agent has failed. -/
def execSnoopTimeout (line agent : Nat) (s : State) : Result :=
  let i := homeOf line
  let v := sliceGet s i
  .next (if !v.txns.any (fun t => t.line == line && t.waiting.contains agent) then s
    else
      let lost := (v.entry line).owner == some agent
      let s := sliceErr i 5 clsDegraded line none false s
      let s := if lost then
          loseSector (line / 8) (sliceMod i (fun w => { w with lines := w.lines.filter (·.line != line) }) s)
        else s
      let s := sliceMod i (fun w => w.forget line agent)
        (snoopAnswered i line agent [] (sliceMod i (fun w => { w with txns := w.txns.map fun t => if t.line == line then { t with inval := true } else t }) s))
      if agent = 0 then hubFail s
      else if agent ≤ 12 then siteAgentFailed (agent - 1) s
      else if agent ≤ 16 then portError (agent - 13) 6 s
      else s)

/-! ### A tenon's CXL.cache (R374, R386) -/

/-- Is a site's CXL link up with a capability of CXL_CAPS: 0 io, 1 cache, 2 mem. -/
def cxlUp (s : State) (n cap : Nat) : Bool :=
  siteReady s n && bitOn (descByte s n 1 28) cap && (List.range 8).any (fun k => modProto s n k == 1 && modState s n k == 5)

/-- A requester outside the hub network has a request outstanding at a home. -/
def askOpen (src tag : Nat) (part : Option Nat) (addr : Nat) (write noData : Bool) (s : State) : State :=
  let r : NetReq := { src := src, tag := tag, part := part, addr := addr, write := write, noData := noData, dst := sliceNode (homeOf (addr / 64)) }
  { (netClose src tag s) with netReqs := (netClose src tag s).netReqs ++ [r] }

/-- A request of a tenon is refused (R374): status 0x1, counted, recorded. -/
def tenonRefuse (n module addr : Nat) (write : Bool) (who : Asker) (s : State) : State :=
  let s := fbump F.mtDropCount_count n 1 (siteErr n 2 module clsRefused s)
  let s := logErr { code := 0x0D06, cls := clsRefused, part := (siteGet s n).serves, addr := some addr, detail := n } s
  answerTo write (siteGet s n).serves 0 1 [] s who

/-- The line request of a message, with all bytes enabled. -/
def lineReq (ty agent src tag line cls : Nat) (part : Option Nat) (data : List Byte) (upset : Nat) (who : Asker) : CohReq :=
  { ty := ty, line := line, src := src, tag := tag, part := part, agent := agent, alloc := false, cls := cls
    mask := List.replicate 64 true, data := padTo 64 0 data, upset := upset, who := some who }

/-- A D2H request becomes a message of the home (R386). `noData` that the grant carries none. -/
def d2h (ty site tag addr : Nat) (data : List Byte) (noData : Bool) (upset : Nat) (s : State) : State :=
  let line := addr / 64
  if !cxlUp s site 1 ∨ (sliceGet s (homeOf line)).queue.length ≥ 64 then s
  else
    let s := fwrap F.mtRxbytes_count F.mtRxbytes_ovf site data.length s
    let part := (siteGet s site).serves
    let cls := match part with | some p => classFor s p (fget s F.mtAssign_class site) | none => 7
    if part.isNone then tenonRefuse site 0 addr (ty == 0x33) (.cxl site tag) s
    else
      let s := if ty = 0x30 ∨ ty = 0x33 then s else askOpen (siteSrc site) tag part addr false noData s
      cohRequest (lineReq ty (1 + site) (siteSrc site) tag line cls part data upset (.cxl site tag)) s

/-- RDCURR. -/
def execRdcurr (site tag addr upset : Nat) (s : State) : Result := .next (d2h 0x30 site tag addr [] false upset s)
/-- RDSHARED. -/
def execRdshared (site tag addr upset : Nat) (s : State) : Result := .next (d2h 0x31 site tag addr [] false upset s)
/-- RDOWN_D2H: RdOwn, or RdOwnNoData. -/
def execRdownD2h (site tag addr : Nat) (noData : Bool) (upset : Nat) (s : State) : Result :=
  .next (d2h 0x32 site tag addr [] noData upset s)
/-- CLEANEVICT. -/
def execCleanevict (site tag addr : Nat) (s : State) : Result := .next (d2h 0x35 site tag addr [] false 0 s)
/-- DIRTYEVICT. -/
def execDirtyevict (site tag addr : Nat) (data : List Byte) (s : State) : Result := .next (d2h 0x36 site tag addr data false 0 s)
/-- ITOMWR: ItoMWr, WrCur, WrInv. -/
def execItomwr (site tag addr : Nat) (data : List Byte) (upset : Nat) (s : State) : Result :=
  .next (d2h 0x33 site tag addr data false upset s)

/-- Poison from a tenon (R370, R385): an uncorrectable read, which spoils the tick. -/
def sitePoison (n module : Nat) (s : State) : State := siteErr n 5 module clsSpoil (siteSpoil n s)

/-- CXL_SNOOP_RESPONSE (R386): the answer goes home. Poisoned data is lost. -/
def execCxlSnoopResponse (site line : Nat) (data : List Byte) (poison : Bool) (s : State) : Result :=
  .next (if !siteReady s site then s
    else
      let s := fwrap F.mtRxbytes_count F.mtRxbytes_ovf site data.length s
      if poison ∧ (sliceGet s (homeOf line)).txns.any (fun t => t.line == line && t.waiting.contains (1 + site)) then
        snoopAnswered (homeOf line) line (1 + site) [] (loseSector (line / 8) (sitePoison site 0 s))
      else snoopAnswered (homeOf line) line (1 + site) data s)

/-! ### A host's CXL.mem and CXL.cache (R412, R421, R424) -/

/-- A page under DEVICE bias is set to SHARED first (R421). -/
def biasShare (line : Nat) (s : State) : State := match rangeOf s line with
  | some i => if hostShared s i then setBias i (rangePage s i line) 1 s else s
  | none => s

/-- A CXL.mem request of a port: its address goes through the HDM decoders; where none holds it, the error response (R577). -/
def hostMem (port tag addr n : Nat) (f : Nat → State → State) (s : State) : State :=
  if !dlActive s port ∨ fon s F.hostpPortStatus_contained port ∨ !bitOn (fget s F.hostpPortStatus_cxl port) 2 then s
  else match hdmDecode s port addr with
    | none =>
      let s := logErr { code := 0x0D05, cls := clsRefused, addr := some addr, detail := port } s
      emit .host 0x17 [port, tag, 1] [] s
    | some a =>
      if (sliceGet s (homeOf (a / 64))).queue.length ≥ 64 then s
      else f (a / 64) (biasShare (a / 64) (fwrap F.hostpRxbytes_count F.hostpRxbytes_ovf port n (linkWake port s)))

/-- A host's request to a home; `ask` that a grant or a receipt will come to the agent. -/
def hostReq (ty port tag line : Nat) (data : List Byte) (mask : List Bool) (ask noData : Bool) (upset : Nat) (s : State) : State :=
  let s := if ask then askOpen (hostSrc port) tag none (line * 64) false noData s else s
  cohRequest { (lineReq ty (13 + port) (hostSrc port) tag line (hostClass s 0) none data upset (.host port tag)) with mask := mask } s

/-- All 64 bytes. -/
def wholeLine : List Bool := List.replicate 64 true

/-- MEMRD: `kind` 0 SnpData, 1 SnpInv, 2 no snoop and no meta state. -/
def execMemrd (port tag addr kind upset : Nat) (s : State) : Result :=
  .next (hostMem port tag addr 0 (fun line s =>
    hostReq (match kind with | 0 => 0x31 | 1 => 0x32 | _ => 0x30) port tag line [] wholeLine (decide (kind ≤ 1)) false upset s) s)

/-- MEMINV. -/
def execMeminv (port tag addr upset : Nat) (s : State) : Result :=
  .next (hostMem port tag addr 0 (fun line s => hostReq 0x32 port tag line [] wholeLine true true upset s) s)

/-- MEMWR: WBDATA if the entry records the host, WRINV otherwise. -/
def execMemwr (port tag addr : Nat) (data : List Byte) (upset : Nat) (s : State) : Result :=
  .next (hostMem port tag addr 64 (fun line s =>
    let mine := ((sliceGet s (homeOf line)).entry line).holders.contains (13 + port)
    hostReq (if mine then 0x36 else 0x33) port tag line data wholeLine mine false upset s) s)

/-- MEMWRPTL. -/
def execMemwrptl (port tag addr : Nat) (data : List Byte) (mask : Nat) (upset : Nat) (s : State) : Result :=
  .next (hostMem port tag addr 64 (fun line s =>
    hostReq 0x33 port tag line data ((List.range 64).map (bitOn mask)) false false upset s) s)

/-- BIRSP, with the data of an M copy. -/
def execBirsp (port line : Nat) (data : List Byte) (s : State) : Result :=
  .next (if !dlActive s port ∨ fon s F.hostpPortStatus_contained port then s
    else snoopAnswered (homeOf line) line (13 + port) data (fwrap F.hostpRxbytes_count F.hostpRxbytes_ovf port data.length s))

/-- HOST_SNOOP (R424): the control complex answers for a line of host memory: whether it held it, and the data if modified. -/
def execHostSnoop (port addr : Nat) (inval : Bool) (s : State) : Result :=
  .next (if !dlActive s port ∨ fon s F.hostpPortStatus_contained port ∨ !bitOn (fget s F.hostpPortStatus_cxl port) 1 then s
    else
      let held := (Map.get? s.ccLines (hostLine addr)).isSome
      let (d, s) := ccTake inval (hostLine addr) s
      emit .host 0x3F [port, addr, bit01 held] d (fwrap F.hostpTxbytes_count F.hostpTxbytes_ovf port d.length s))

end Sys2Proof.Machine
end

