-- ==== Sys2Proof/Machine/Access.lean ====
section
/-! DEFINITION. Machine/Access.lean: memory accesses by address (R23 to R27): the hub network's reads and writes (R314), requests
of other hubs (R231), of tenons (R372 to R374), of hosts through BAR4 (R411), requests to tenons (R383), and configuration space. -/
namespace Sys2Proof.Machine

/-! ### The address map (R23 to R27) -/

/-- Where an access falls. -/
inductive Place where
  | mem
  | tile (t off : Nat)
  | remote (hub : Nat)
  | site (n off : Nat)
  | regs (off : Nat)
  | none
  deriving DecidableEq, Repr

/-- Base of the tile store window. -/
def tileWindow : Nat := 0xE00000000000

/-- Where `[a, a + n)` falls; an access across the end of what it starts in falls nowhere. -/
def placeOf (s : State) (a n : Nat) : Place :=
  if a + n ≤ stackedBytes s ∨ (fenBase ≤ a ∧ a + n ≤ fenBase + fenBytes s) then .mem
  else if 0x300000000000 ≤ a ∧ a < 0x3C0000000000 then
    let o := a % 2 ^ 40
    if o + n ≤ 2 ^ 40 then .site ((a - 0x300000000000) / 2 ^ 40) o else .none
  else if tileWindow ≤ a ∧ a < tileWindow + 2 ^ 39 then
    let g := (a - tileWindow) / 2 ^ 20
    let o := a % 2 ^ 20
    if o + n > 2 ^ 20 then .none
    else if hubOfTile g ≠ hubId s then (if bitOn (fget s F.domMembers_members 0) (hubOfTile g) then .remote (hubOfTile g) else .none)
    else match localTile g with
      | some t => if (physTile s (t / 512) (t / 8 % 64) (t % 8)).isSome then .tile t o else .none
      | none => .none
  else if 0xF00000000000 ≤ a ∧ a + n ≤ 0xF00010000000 then .regs (a - 0xF00000000000)
  else .none

/-- The pieces of `[a, a + n)` by 64-byte line; `fuel` bounds their number. -/
def linePieces : Nat → Nat → Nat → List (Nat × Nat)
  | 0, _, _ => []
  | fuel + 1, a, n =>
    if n = 0 then []
    else
      let k := min n (64 - a % 64)
      (a, k) :: linePieces fuel (a + k) (n - k)

/-- The lines of an access that are coherent. -/
def cohPieces (s : State) (a n : Nat) : List (Nat × Nat) := (linePieces (n / 64 + 2) a n).filter fun q => isCoherent s q.1

/-- Is the queue of a home that an access needs full (R338), or does it touch a channel that retrains (R287): the access is held then. -/
def homesFull (s : State) (a n : Nat) : Bool :=
  let homes := (cohPieces s a n).map fun q => homeOf (q.1 / 64)
  memHeld s a n || homes.any fun h => decide ((sliceGet s h).queue.length + homes.count h > 64)

/-! ### Requests that leave for a tenon or another hub -/

/-- Does a site's window serve a requester's partition (R25, R374, R389): the control complex and firmware reach every site. -/
def siteServes (s : State) (n : Nat) (part : Option Nat) : Bool :=
  siteReady s n && (match part with | none => true | some p => (siteGet s n).serves == some p)

/-- A request goes to another hub (R26, R27, R231). -/
def toHub (hub srcTile a len : Nat) (write : Bool) (data : List Byte) (part : Nat) (cls : Nat) (urgent : Bool) (who : Asker)
    (s : State) : State :=
  let tag := freeTag (s.idnReqs.map (·.tag))
  let s : State := { s with idnReqs := s.idnReqs ++ [⟨tag, hub, write, part, cls, who⟩] }
  sendPkt { fromHub s (if write then 0x03 else 0x01) hub with
    urgent := urgent, cls := cls, part := part, rlen := if write then 0 else (len + 31) / 32, tag := tag, srcTile := srcTile
    addr := a, data := if write then padTo ((data.length + 31) / 32 * 32) 0 data else [] } s

/-! ### Serving an access -/

/-- What an access says beyond its address: its length, data and byte enables for a write, the partition it works for, the partition
whose tick an uncorrectable read would spoil (R286), its class, its tile if one asks, what a tile store's code finds (R99), and who asks. -/
structure Req where
  write : Bool
  a : Nat
  n : Nat
  data : List Byte := []
  mask : List Bool := []
  part : Option Nat := none
  spoils : Option Nat := none
  cls : Nat := 0
  urgent : Bool := false
  srcTile : Nat := 0
  upset : Option Upset := none
  who : Asker
  deriving DecidableEq, Repr

/-- The answer of an access. -/
def Req.reply (q : Req) (status : Nat) (data : List Byte) (s : State) : State := answerTo q.write q.part q.cls status data s q.who

/-- Is byte `i` of the access enabled. -/
def Req.on (q : Req) (i : Nat) : Bool := q.mask.getD i true

/-- Runs of enabled bytes, as offset and bytes. -/
def maskRuns : Nat → List (Bool × Byte) → List (Nat × List Byte)
  | _, [] => []
  | i, (true, b) :: rest => match maskRuns (i + 1) rest with
    | (j, bs) :: more => if j = i + 1 then (i, b :: bs) :: more else (i, [b]) :: (j, bs) :: more
    | [] => [(i, [b])]
  | i, (false, _) :: rest => maskRuns (i + 1) rest

/-- The runs of a write. -/
def Req.runs (q : Req) : List (Nat × List Byte) :=
  maskRuns 0 ((padTo q.n 0 q.data).zipIdx.map fun e => (q.on e.2, e.1))

/-- A piece of an access at a coherent line goes to the home as RDCUR or WRINV (R337). -/
def cohPiece (q : Req) (a n : Nat) (s : State) : State :=
  let o := a % 64
  let inside := fun (k : Nat) => decide (o ≤ k ∧ k < o + n) && (!q.write || q.on (a - q.a + (k - o)))
  cohRequest { ty := if q.write then 0x33 else 0x30, line := a / 64, src := 0x20000, tag := 0, part := q.part, agent := 0xFF, cls := q.cls
               alloc := false, mask := (List.range 64).map inside
               data := if q.write then padTo 64 0 (List.replicate o 0 ++ (q.data.drop (a - q.a)).take n) else []
               who := some q.who } s

/-- A piece of device memory: a read, or a write, which a lost sector refuses in part (R289). -/
def memPiece (q : Req) (a n : Nat) (s : State) : State :=
  if q.write then
    let whole := (List.range n).all fun k => q.on (a - q.a + k)
    let part := ((List.range ((a + n - 1) / 512 - a / 512 + 1)).map (· + a / 512)).any fun k =>
      s.lost.contains k && !(whole && decide (a ≤ k * 512) && decide ((k + 1) * 512 ≤ a + n))
    let s := (q.runs.filterMap fun r =>
        let lo := max (q.a + r.1) a
        let hi := min (q.a + r.1 + r.2.length) (a + n)
        if lo < hi then some (lo, (r.2.drop (lo - (q.a + r.1))).take (hi - lo)) else none).foldl (fun s w => devStore w.1 w.2 s q.cls) s
    if n = 0 then q.reply 0 [] s else q.reply (if part then 6 else 0) [] s
  else match devRead a n q.spoils s q.cls with
    | (none, s) => q.reply 6 [] s
    | (some bs, s) => q.reply 0 bs s

/-- An access to device memory: one that touches coherent lines goes line by line, and is answered when every piece has been. -/
def memServe (q : Req) (s : State) : State :=
  if (cohPieces s q.a q.n).isEmpty then memPiece q q.a q.n s
  else
    let pieces := linePieces (q.n / 64 + 2) q.a q.n
    let id := freeTag (s.joins.map (·.id))
    let s := { s with joins := s.joins ++ [⟨id, q.write, q.part, q.cls, pieces.length, [], q.who⟩] }
    pieces.zipIdx.foldl (fun s e =>
      let q := { q with who := .piece id e.2 }
      if isCoherent s e.1.1 then cohPiece q e.1.1 e.1.2 s else memPiece q e.1.1 e.1.2 s) s

/-- An access to a tile store through its window (R26, R64, R65, R101): an uncorrectable line stops the tile and spoils; the router of
a bay in reset answers for it (R324). -/
def tileServe (q : Req) (t off : Nat) (s : State) : State :=
  if s.netReset.contains (bayOf t) then q.reply 4 [] s
  else if q.write then q.reply 0 [] (q.runs.foldl (fun s r => storeWrite t (off + r.1) r.2 s) s)
  else match storeMeets t off q.n q.upset s with
    | (some inj, s) => q.reply 6 [] (tileStop t (.checked 4 0 inj) s)
    | (none, s) => q.reply 0 (storeRead s t off q.n) s

/-- An access by the control complex to the register space (R23). -/
def regServe (q : Req) (off : Nat) (s : State) : State :=
  if q.write then
    q.reply 0 [] (q.runs.foldl (fun s r =>
      match windowAtOffset s (off + r.1) with
      | some (id, inst, o) => writeWindow none id inst o r.2 s
      | none => s) s)
  else q.reply 0 (bar0Read s .hub off q.n) s

/-- Serve an access where it falls. `hubu` that hub-level traffic asks, which alone reaches registers; a decode error is answered with
status 0x1 (R25, R320). -/
def serve (q : Req) (hubu : Bool) (s : State) : State := match placeOf s q.a q.n with
  | .mem => memServe q s
  | .tile t off => tileServe q t off s
  | .remote h => toHub h q.srcTile q.a q.n q.write q.data (q.part.getD 0) q.cls q.urgent q.who s
  | .site n off => match regionAt s n off q.n, siteServes s n q.part with
    | some r, true => toSite n r q.a q.n q.write q.data q.part q.cls q.urgent q.who s
    | _, _ => q.reply 1 [] s
  | .regs off => if hubu then regServe q off s else q.reply 1 [] s
  | .none => q.reply 1 [] s

/-! ### The hub network's packets (R314, R319, R320) -/

/-- The global identifier of the tile a node names, 0 for other units (R230). -/
def nodeGlobal (s : State) (n : Nat) : Nat := match nodeTile n with
  | some t => globalTile s t
  | none => 0

/-- The access a packet asks for. -/
def reqOf (write : Bool) (p : NetPkt) (s : State) : Req :=
  let n := if write then (if p.data.isEmpty then p.lines * 64 else p.data.length) else p.lines * 64
  { write := write, a := p.addr, n := n, data := p.data
    mask := if write ∧ p.lines = 1 then (List.range 64).map fun k => bitOn p.mask (p.addr % 64 + k) else []
    part := netWho p, spoils := netWho p, cls := p.cls, urgent := p.urgent, srcTile := nodeGlobal s p.src, upset := p.upset
    who := .unit p.src p.tag }

/-- A read or write packet at its target: one that names another hub goes on over Idoon (R27), or is answered with status 0x3 where that
hub is no member (R262). -/
def netServe (write : Bool) (p : NetPkt) (s : State) : State :=
  let q := reqOf write p s
  if p.dstHub = hubId s then serve q p.hubu s
  else if bitOn (fget s F.domMembers_members 0) p.dstHub then
    toHub p.dstHub q.srcTile q.a q.n write q.data (q.part.getD 0) q.cls q.urgent q.who s
  else q.reply 3 [] s

/-- A request packet's journey. -/
def netRequest (ty : Nat) (write : Bool) (a : NetArr) (s : State) : Result :=
  let a := netClassed s a
  .next (if homesFull s a.pkt.addr (a.pkt.lines * 64) then s
    else netArrive ty a (netServe write) (netOpen a.pkt write s))

/-- RD. -/
def execRd (a : NetArr) (s : State) : Result := netRequest 0x01 false a s
/-- WR. -/
def execWr (a : NetArr) (s : State) : Result := netRequest 0x03 true a s
/-- A unit's request ends; signals of a tile that waited for it take effect (R95). -/
def netDone (src tag : Nat) (s : State) : State :=
  let s := netClose src tag s
  match nodeTile src with
  | some t => releaseSignals t s
  | none => s

/-- RD_RSP: the request ends; the data goes where its own completion puts it (TLD_COMPLETE and the like). -/
def execRdRsp (a : NetArr) (s : State) : Result := .next (netArrive 0x02 a (fun p s => netClose p.dst p.tag s) s)
/-- WR_ACK (R95): the write is acknowledged. -/
def execWrAck (a : NetArr) (s : State) : Result := .next (netArrive 0x04 a (fun p s => netDone p.dst p.tag s) s)
/-- CTRL: its effect is that of the operation it carries, which has a row of its own (TICK_EDGE_APPLY, DECISION and the like). -/
def execCtrl (a : NetArr) (s : State) : Result := .next (netArrive 0x50 a (fun _ s => s) s)

/-- The bytes of a SIG (R231): target, counter and increment. -/
def sigOf (data : List Byte) : Nat × Nat × Nat := (recAt data 0 3 % 2 ^ 19, recAt data 3 1 % 16, recAt data 4 2)

/-- A sync-counter increment arrives for a tile of this hub (R94, R146); an error of the signaller stops it where it is a tile here. -/
def sigArrive (fromG : Nat) (signaller : Option Nat) (data : List Byte) (s : State) : State :=
  let (target, ctr, inc) := sigOf data
  let ovr := signalOverflows s target ctr inc
  match signalLocal fromG target ctr inc s, signaller with
  | .ok s, some t => if ovr then tileStop t .overflow s else s
  | .ok s, none => s
  | .error e, some t => tileStop t e s
  | .error _, none => s

/-- NET_SIG (R94). -/
def execNetSig (a : NetArr) (s : State) : Result :=
  .next (netArrive 0x05 a (fun p s => sigArrive (nodeGlobal s p.src) (nodeTile p.src) p.data s) s)

/-- What a decode error does at its requester (R577). -/
def decodeAt (node tag addr : Nat) (part : Option Nat) (s : State) : State := match nodeTile node, nodeBay node with
  | some t, _ => tileStop t (.decode addr) s
  | none, some b =>
    if nodeUnit node = 8 then
      let t := match (bayGet s b).owed with | d :: _ => d.tile | [] => b * 8
      let s := kvwErr t 5 0 s
      let s := logErr { code := 0x0D02, cls := clsContext, part := part, ctx := some (tileGet s t).ctx, source := node, addr := some addr } s
      ctxFault (tileGet s t).ctx 0x11 (globalTile s t) 5 (haltTile t s)
    else if nodeUnit node = 9 then
      let s := logErr { code := 0x0D03, cls := clsRefused, part := part, source := node, addr := some addr } s
      match s.cmds.find? (fun c => c.step == .running && c.id % 65536 == tag) with
      | some c => finish c 0x02 0 0 [] s
      | none => s
    else logErr { code := 0x0D04, cls := clsInfo, part := part, source := node, addr := some addr } s
  | none, none => logErr { code := 0x0D04, cls := clsInfo, part := part, source := node, addr := some addr } s

/-- An outstanding request of a unit ends with an error. -/
def netFail (r : NetReq) (status : Nat) (s : State) : State :=
  let s := netDone r.src r.tag s
  if status = 1 then decodeAt r.src r.tag r.addr r.part s else s

/-- A mover's request has had no answer (R319): its command ends with MEM_ERROR, and D0 counts no further bytes. -/
def moverTimeout (src tag : Nat) (s : State) : State :=
  if (nodeBay src).isNone ∨ nodeUnit src ≠ 9 then s
  else match s.cmds.find? (fun c => c.step == .running && c.id % 65536 == tag) with
    | some c => finish c 0x0B 0 0 [] s
    | none => s

/-- ERR_RSP. -/
def execErrRsp (a : NetArr) (s : State) : Result :=
  .next (netArrive 0x07 a (fun p s => match netWaits s p.dst p.tag with
    | some r => netFail r p.status s
    | none => s) s)

/-- REQUEST_TIMEOUT (R319, R576): the 2 ms timer of a unit's request: it completes with status 0x7, and its tick spoils. -/
def execRequestTimeout (src tag : Nat) (s : State) : Result :=
  .next (match netWaits s src tag with
    | none => s
    | some r =>
      let live := liveOf s r.part
      let mine := fun (w : Asker) => w == .unit src tag
      let s : State := { (netDone src tag s) with
        idnReqs := s.idnReqs.filter fun q => !mine q.who
        joins := s.joins.filter fun j => !mine j.who
        sites := List.map (fun e => (e.1, { e.2 with asks := e.2.asks.filter (fun x => !mine x.who)
                                                     waiting := e.2.waiting.filter (fun x => !mine x.who) })) s.sites }
      let s := moverTimeout src tag s
      let s := match r.part with
        | some p => spoil p (.link (0x60000 + src)) false s
        | none => s
      logErr { code := 0x0407, cls := if live then clsSpoil else clsInfo, part := r.part, source := src, addr := some r.addr } s)

/-! ### Other hubs (R231, R232, R577) -/

/-- A remote hub's request. -/
def hubServe (write : Bool) (p : IdnPkt) (s : State) : State :=
  let n := if write then p.data.length else p.rlen * 32
  let bad := match placeOf s p.addr n with
    | .none | .remote _ => true
    | .regs _ => decide (p.srcTile ≠ 0)
    | .site k off => !((regionAt s k off n).isSome && siteServes s k (some p.part))
    | _ => false
  if bad then
    sendErr p 1 (logErr { code := 0x0D07, cls := clsInfo, part := some p.part, addr := some p.addr, detail := p.src } s)
  else serve { write := write, a := p.addr, n := n, data := p.data, part := some p.part, spoils := some p.part, cls := p.cls
               urgent := p.urgent, upset := p.upset, who := .hub p } (p.srcTile == 0) s

/-- A packet of a type arrives; one whose target's home queue is full stays on the link. -/
def idnRequest (ty : Nat) (write : Bool) (a : IdnArr) (s : State) : Result :=
  .next (if a.pkt.ty ≠ ty ∨ homesFull s a.pkt.addr (if write then a.pkt.data.length else a.pkt.rlen * 32) then s
    else idnAccept a (hubServe write) s)

/-- IDOON_RD_REQ. -/
def execIdoonRdReq (a : IdnArr) (s : State) : Result := idnRequest 0x01 false a s
/-- IDOON_WR: acknowledged once every byte is written. -/
def execIdoonWr (a : IdnArr) (s : State) : Result := idnRequest 0x03 true a s

/-- An answer to a request of this hub; one that no request awaits has no effect. -/
def idnAnswer (ty : Nat) (fits : IdnReq → Bool) (status : IdnPkt → Nat) (a : IdnArr) (s : State) : Result :=
  .next (if a.pkt.ty ≠ ty then s
    else idnAccept a (fun p s => match s.idnReqs.find? (fun r => r.tag == p.tag && r.dst == p.src && fits r) with
      | none => s
      | some r => answerTo r.write (some r.part) r.cls (status p) p.data { s with idnReqs := s.idnReqs.erase r } r.who) s)

/-- IDOON_RD_RSP. -/
def execIdoonRdRsp (a : IdnArr) (s : State) : Result := idnAnswer 0x02 (!·.write) (fun _ => 0) a s
/-- IDOON_WR_ACK. -/
def execIdoonWrAck (a : IdnArr) (s : State) : Result := idnAnswer 0x04 (·.write) (fun _ => 0) a s
/-- An ERR_RSP to a signal of this hub: the signalling context's program error, an overflow (R94) or a decode error (R577). -/
def sigRefused (p : IdnPkt) (s : State) : State := match localTile p.srcTile with
  | some t => if hubOfTile p.srcTile = hubId s then tileStop t (if p.rlen = 8 then .overflow else .decode p.addr) s else s
  | none => s

/-- IDOON_ERR_RSP: RLEN carries the status. -/
def execIdoonErrRsp (a : IdnArr) (s : State) : Result :=
  if a.pkt.ty = 0x07 ∧ a.pkt.tag = sigTag then .next (idnAccept a sigRefused s)
  else idnAnswer 0x07 (fun _ => true) (·.rlen) a s

/-- A signal from another hub (R94, R146, R577). An overflow is answered by an ERR_RSP with status 0x8, the TILE_ERR cause it is to
the signaller: the spec names no other way for it to reach that context (log entry 86). -/
def sigRemote (p : IdnPkt) (s : State) : State :=
  let (target, ctr, inc) := sigOf p.data
  let p := { p with tag := sigTag, addr := tileWindow + target * 0x100000 }
  if signalBarred s target then sendErr p 4 s
  else match signalLocal p.srcTile target ctr inc s with
  | .ok t => if signalOverflows s target ctr inc then sendErr p 8 t else t
  | .error (.decode _) => sendErr p 1 (logErr { code := 0x0D07, cls := clsInfo, part := some p.part, addr := some p.addr, detail := p.src } s)
  | .error _ => sendErr p 1 s

/-- IDOON_SIG. -/
def execIdoonSig (a : IdnArr) (s : State) : Result :=
  .next (if a.pkt.ty ≠ 0x05 then s else idnAccept a sigRemote s)

/-! ### Tenons (R372 to R376) -/

/-- May a tenon reach an address (R374). -/
def tenonReach (s : State) (n a len : Nat) : Bool := match (siteGet s n).serves with
  | none => false
  | some p => match placeOf s a len with
    | .mem => inPart s p a len
    | .tile t _ => partOfBay s (bayOf t) == some p
    | .site m off => m != n && siteServes s m (some p) && (regionAt s m off len).isSome
    | _ => false

/-- Does an access of an unattested tenon touch a CONFIDENTIAL coherent range (R334, R368). -/
def tenonBarred (s : State) (n a len : Nat) : Bool :=
  !fon s F.mtStatus_attested n && (cohPieces s a len).any fun q => match rangeOf s (q.1 / 64) with
    | some i => fon s F.cohRange_confidential i
    | none => false

/-- Serve a tenon's request, or refuse it. -/
def tenonServe (n module : Nat) (q : Req) (s : State) : State :=
  if !tenonReach s n q.a q.n then tenonRefuse n module q.a q.write q.who s
  else if tenonBarred s n q.a q.n then q.reply 5 [] s
  else serve q false s

/-- May a tenon's SIG act (R374). -/
def tenonSigOk (s : State) (n : Nat) (data : List Byte) : Bool :=
  let (target, ctr, _) := sigOf data
  hubOfTile target == hubId s && match localTile target, (siteGet s n).serves with
    | some t, some p => (physTile s (t / 512) (t / 8 % 64) (t % 8)).isSome && partOfBay s (bayOf t) == some p
        && !(decide (ctr ≥ 13) && bitOn (tileGet s t).ring 0)
    | _, _ => false

/-- A response of a tenon to a request of the hub. -/
def siteAnswer (n module tag : Nat) (write : Option Bool) (status : Nat) (data : List Byte) (s : State) : Option State :=
  ((siteGet s n).asks.find? fun x => x.module == module && x.tag == tag && (write.isNone || write == some x.write)).map fun x =>
    answerTo x.write x.part x.cls status data (siteMod n (fun v => { v with asks := v.asks.erase x }) s) x.who

/-- A raw packet is dropped and counted (R372). -/
def rawDrop (n module cause : Nat) (s : State) : State := fbump F.mtDropCount_count n 1 (siteErr n cause module clsInfo s)

/-- The virtual channel of a raw packet's type (R372). -/
def rawVc (ty : Nat) : Nat := if ty = 0x01 ∨ ty = 0x03 ∨ ty = 0x05 then 3 else 1

/-- An accepted raw packet: rewritten and routed (R372). -/
def rawAccepted (n module ty : Nat) (p : NetPkt) (s : State) : State :=
  let part := (siteGet s n).serves
  let cls := match part with | some q => classFor s q p.cls | none => p.cls
  let q : Req := { (reqOf (ty == 0x03) p s) with part := part, spoils := none, cls := cls, urgent := false, srcTile := 0, who := .raw n module p.tag }
  match ty with
  | 0x01 => if p.lines = 0 ∨ p.lines > 8 then rawDrop n module 1 s else tenonServe n module q s
  | 0x03 => tenonServe n module q s
  | 0x05 =>
    if !tenonSigOk s n p.data then tenonRefuse n module p.addr false (.raw n module p.tag) s
    else if signalBarred s (sigOf p.data).1 then answerTo false part cls 4 [] s (.raw n module p.tag)
    else sigArrive 0 none p.data s
  | _ =>
    let write := if ty = 0x02 then some false else if ty = 0x04 then some true else none
    match siteAnswer n module p.tag write (if ty = 0x07 then p.status else 0) p.data s with
    | some s => s
    | none => rawDrop n module 4 s

/-- RAW_PACKET (R372, R374, R376, R385): `vc` the virtual channel it came on, `crcOk` that its CRC holds, `ovr` that it goes beyond the
tenon's credits. The buffer space it used is returned at once. -/
def execRawPacket (site module ty vc : Nat) (crcOk ovr : Bool) (p : NetPkt) (s : State) : Result :=
  .next (
    if !siteReady s site ∨ module ≥ 8 ∨ modProto s site module ≠ 2 ∨ modState s site module ≠ 5 then s
    else if homesFull s p.addr (p.lines * 64) then s
    else if ovr then siteFault site 0xB (siteErr site 6 module (siteClass s site) s)
    else
      let s := fwrap F.mtRxbytes_count F.mtRxbytes_ovf site p.data.length s
      let u := rawUnits p.data.length
      let s := emit .site 0x160 (if vc = 1 then [site, module, u, 0] else [site, module, 0, u]) [] s
      if !crcOk then siteErr site 3 module clsSpoil (siteSpoil site s)
      else if !([0x01, 0x02, 0x03, 0x04, 0x05, 0x07].contains ty) ∨ p.lines > 8 ∨ vc ≠ rawVc ty ∨ p.dstHub ≠ hubId s then
        rawDrop site module 1 s
      else rawAccepted site module ty p s)

/-- RAW_CREDIT: units of both virtual channels returned by the tenon. -/
def execRawCredit (site module vc1 vc3 : Nat) (s : State) : Result :=
  .next (if !siteReady s site ∨ module ≥ 8 ∨ modProto s site module ≠ 2 then s
    else siteMod site (fun v =>
      let a := Map.set v.used (module * 2) (Map.get v.used 0 (module * 2) - vc1)
      { v with used := Map.set a (module * 2 + 1) (Map.get a 0 (module * 2 + 1) - vc3) }) s |> siteRun site)

/-- CXL_IO_REQUEST (R370, R374): a read or write of the tenon; `msi` that it is a message-signalled interrupt, which is refused. -/
def execCxlIoRequest (site tag : Nat) (write : Bool) (span : IoSpan) (data : List Byte) (msi : Bool) (upset : Option Upset) (s : State) : Result :=
  .next (
    if !cxlUp s site 0 ∨ homesFull s span.addr span.n then s
    else
      let s := fwrap F.mtRxbytes_count F.mtRxbytes_ovf site data.length s
      let part := (siteGet s site).serves
      let cls := match part with | some p => classFor s p (fget s F.mtAssign_class site) | none => 7
      let q : Req := { write := write, a := span.addr, n := if write then data.length else span.n, data := data, part := part, cls := cls
                       upset := upset, who := .cxl site tag }
      if msi then tenonRefuse site 0 span.addr write q.who s else tenonServe site 0 q s)

/-- CXL_MEM_RESPONSE (R375, R385): a response on the CXL link; poison spoils the tick, and the requester gets no data. -/
def execCxlMemResponse (site tag status : Nat) (data : List Byte) (poison : Bool) (s : State) : Result :=
  .next (if !siteReady s site then s
    else
      let s := fwrap F.mtRxbytes_count F.mtRxbytes_ovf site data.length s
      let s := if poison then sitePoison site 0 s else s
      match siteAnswer site 8 tag none (if poison then 6 else status) (if poison then [] else data) s with
      | some s => s
      | none => siteErr site 4 0 clsInfo s)

/-! ### Hosts (R400, R410, R411) -/

/-- The key of a byte of a function's configuration space. -/
def cfgKey (port fn off : Nat) : Nat := (port * 256 + fn) * 4096 + off
/-- A byte of it. -/
def cfgByte (s : State) (port fn off : Nat) : Byte := BitVec.ofNat 8 (Map.get s.cfgSpace (Config.cfgReset (cfgKey port fn off)).toNat (cfgKey port fn off))

/-- CONFIG_REQUEST (R410): answered whenever the link is up; a write sets the writable bits. -/
def execConfigRequest (port fn off tag : Nat) (write : Bool) (n : Nat) (data : List Byte) (s : State) : Result :=
  .next (
    if !dlActive s port ∨ fon s F.hostpPortStatus_contained port ∨ fn ≥ 256 ∨ off + max n data.length > 4096 then s
    else if write then
      let s := data.zipIdx.foldl (fun s e =>
        let k := off + e.2
        let m := Config.cfgMask (cfgKey port fn k)
        let v := (cfgByte s port fn k &&& ~~~m) ||| (e.1 &&& m)
        ({ s with cfgSpace := Map.set s.cfgSpace (cfgKey port fn k) v.toNat } : State)) (linkWake port s)
      emit .host 0x14 [port, tag, 0] [] s
    else emit .host 0x12 [port, tag, 0] ((List.range n).map fun k => cfgByte s port fn (off + k)) (linkWake port s))

/-- The device address of a BAR4 access: the first enabled decoder that holds all of it. -/
def bar4Decode (s : State) (fn off n : Nat) : Option Nat :=
  ((List.range 4).find? fun k =>
    let i := fn * 4 + k
    let lo := fget s F.hostfBar4_offset i * 65536
    fon s F.hostfBar4_enable i && decide (lo ≤ off) && decide (off + n ≤ lo + 2 ^ fget s F.hostfBar4_sizeLog2 i)).map fun k =>
      fget s F.hostfBar4Dpa_dpa (fn * 4 + k) * 65536 + (off - fget s F.hostfBar4_offset (fn * 4 + k) * 65536)

/-- BAR4_ACCESS (R410, R411, R515): a read matched by no decoder completes as an Unsupported Request, such a write is dropped and logged. -/
def execBar4Access (port fn off tag : Nat) (write ide : Bool) (n : Nat) (data : List Byte) (s : State) : Result :=
  let n := if write then data.length else n
  .next (if (match bar4Decode s fn off n with | some a => homesFull s a n | none => false) then s
    else if fget s F.partSec_tdisp fn = 2 ∧ !ide ∧ !write ∧ dlActive s port ∧ !fon s F.hostpPortStatus_contained port then
      emit .host 0x17 [port, tag, 1] [] (logRefused 0x0B03 (some fn) s)
    else hostRequest port fn data.length ide (fun s =>
      if !hubReady s then (if write then barDrop s else emit .host 0x12 [port, tag, 0] (List.replicate n 0) s)
      else match bar4Decode s fn off n with
        | none => if write then logRefused 0x0811 (some fn) s else emit .host 0x17 [port, tag, 1] [] s
        | some a =>
          let q : Req := { write := write, a := a, n := n, data := data, part := some fn, cls := hostClass s fn
                           who := if write then .posted port else .host port tag }
          match placeOf s a n with
          | .mem => memServe q s
          | _ => q.reply 1 [] (logErr { code := 0x0D05, cls := clsRefused, part := some fn, addr := some a, detail := port } s)) s)

end Sys2Proof.Machine
end

