-- ==== Sys2Proof/Machine/TileMatrix.lean ====
section
/-! DEFINITION. Machine/TileMatrix.lean: the matrix unit (R37 to R58, R76 to R81): MMA, MMB, MSCAN and MOUT. -/
namespace Sys2Proof.Machine

/-! ### Accumulator rows (R39, R40) -/

/-- The internal sum of an element. -/
def accGet (τ : Tile) (r c : Nat) : Int := (Map.get τ.acc 0 (r * 32 + c)).toInt
/-- Set it; the register has 136 bits (R42). -/
def accSet (r c : Nat) (v : Int) (τ : Tile) : Tile := { τ with acc := Map.set τ.acc (r * 32 + c) (BitVec.ofInt 136 v) }
/-- The running residue of an element (R59). -/
def accResGet (τ : Tile) (r c : Nat) : Nat := Map.get τ.accRes 0 (r * 32 + c)
/-- A contribution joins the internal sum and its residue the running one (R42, R59). -/
def accAdd (r c : Nat) (a : Int) (τ : Tile) : Tile :=
  { accSet r c (accGet τ r c + a) τ with accRes := Map.set τ.accRes (r * 32 + c) ((accResGet τ r c + mod7 a) % 7) }
/-- A row's datum. -/
def datumGet (τ : Tile) (r : Nat) : Int := (Map.get τ.datum 0 r).toInt
/-- A row's flags: SAT in bit 0, INV in bit 1, LOSS in bit 2 (R39, R58). -/
def flagsGet (τ : Tile) (r : Nat) : BitVec 3 := Map.get τ.rowFlags 0 r
/-- The parity of a row's datum and flags (R59). -/
def rowParity (τ : Tile) (r : Nat) : Bool :=
  (bitList 13 ((Map.get τ.datum 0 r).toNat + 1024 * (flagsGet τ r).toNat)).length % 2 == 1
/-- Does a row's parity bit agree with its datum and flags (R59). -/
def rowParOk (τ : Tile) (r : Nat) : Bool := Map.get τ.rowPar false r == rowParity τ r
/-- A row's parity bit follows a change of its datum or flags from `τ` to `τ'` (R59). -/
def reparity (r : Nat) (τ τ' : Tile) : Tile :=
  { τ' with rowPar := Map.set τ'.rowPar r (Map.get τ'.rowPar false r != (rowParity τ r != rowParity τ' r)) }
/-- Set a row's datum. -/
def datumSet (r : Nat) (d : Int) (τ : Tile) : Tile := reparity r τ { τ with datum := Map.set τ.datum r (BitVec.ofInt 10 d) }
/-- OR flags into a row (R43: only ever from 0 to 1). -/
def flagsOr (r : Nat) (f : BitVec 3) (τ : Tile) : Tile :=
  if flagsGet τ r ||| f = flagsGet τ r then τ
  else reparity r τ { τ with rowFlags := Map.set τ.rowFlags r (flagsGet τ r ||| f) }
/-- Flags from their parts. -/
def flags3 (sat inv loss : Bool) : BitVec 3 := BitVec.ofNat 3 (bit01 sat + 2 * bit01 inv + 4 * bit01 loss)

/-- Clear a row: its elements and flags (R40), and with them its running residues and its parity's share of the flags. DESIGN
CHOICE (log entry 18): R40 says that START clears the rows, R43 that flags go only from 0 to 1 within a tick; the model lets START
clear the flags too. -/
def clearRow (r : Nat) (τ : Tile) : Tile :=
  reparity r τ { τ with acc := Map.keep τ.acc (fun k => k / 32 != r), accRes := Map.keep τ.accRes (fun k => k / 32 != r),
                        rowFlags := Map.set τ.rowFlags r 0 }

/-- Add a contribution to an element: aligned once, clamped, its flags to the row (R41 to R43). -/
def contribute (r c : Nat) (S k : Int) (τ : Tile) : Tile :=
  let al := alignTo S k (datumGet τ r)
  let cl := clampContribution al.1
  flagsOr r (flags3 cl.2 false al.2) (accAdd r c cl.1 τ)

/-! ### Panels (R77, R78) -/

/-- A block column of a panel as read: for each row or column, the block's bits and its scale byte. -/
structure BlockCol where
  blocks : List Nat
  scales : List Nat
  deriving DecidableEq, Repr

/-- Does the panel of `nb` block columns and `n` rows lie within the store (R79). -/
def panelFits (b : Bases) (nb n bsz : Nat) (scales : Bool) : Bool :=
  decide (b.e + ((nb - 1) * 32 + n) * bsz ≤ storeBytes)
    && (!scales || decide (b.s + (nb - 1) * 32 + n ≤ storeBytes))

/-- What the matrix unit reads of the store: an instruction sees what those before it in the queue still owe (R81, R83). -/
def matRead (s : State) (t a n : Nat) : Except TErr (List Byte) := loadBytes s t a n (tileGet s t).matQ

/-- Read one block column: rows `0` to `n - 1` (R77). -/
def readCol (s : State) (t : Nat) (b : Bases) (j n bsz : Nat) (scales : Bool) : Except TErr BlockCol := do
  let es ← matRead s t (b.e + j * 32 * bsz) (n * bsz)
  let ss ← if scales then matRead s t (b.s + j * 32) n else .ok []
  return ⟨(chunks bsz n es).map ofLe, ss.map (·.toNat)⟩

/-- Read all block columns of a panel. -/
def readPanel (s : State) (t : Nat) (b : Bases) (nb n bsz : Nat) (scales : Bool) : Except TErr (List BlockCol) :=
  (List.range nb).mapM fun j => readCol s t b j n bsz scales

/-- The scales alone of all block columns of a panel, as a scan reads them (R46, R48); the extent it reads lies within the
store (R79). -/
def readScales (s : State) (t : Nat) (b : Bases) (nb n : Nat) : Except TErr (List BlockCol) := do
  need (decide (b.s + (nb - 1) * 32 + n ≤ storeBytes))
  (List.range nb).mapM fun j => do
    let ss ← matRead s t (b.s + j * 32) n
    return ⟨[], ss.map (·.toNat)⟩

/-- The elements of a block as integers, and whether one of the first `len` is a NaN or an infinity (R33, R37). -/
def blockElems (code block len : Nat) : List Int × Bool :=
  let es := (List.range (min len 32)).map fun i => mxDecode code (mxElemBits code block i)
  (es.map (fun e => match e with | .q v => v | _ => 0), es.any (fun e => match e with | .q _ => false | _ => true))

/-- The exact block sum (R38). -/
def blockSum (a b : List Int) : Int := (List.zipWith (· * ·) a b).foldl (· + ·) 0

/-- One block column of an MX product (R37, R38, R41): `len` elements are within the reduction count. -/
def mxColumn (fa fb : Nat) (ma mb : MxFmt) (len m n : Nat) (A B : BlockCol) (τ : Tile) : Tile :=
  let as := A.blocks.map fun x => blockElems fa x len
  let bs := B.blocks.map fun x => blockElems fb x len
  let colInv := (List.range n).any fun c => B.scales.getD c 0 == 255 || (bs.getD c ([], false)).2
  (List.range m).foldl (fun τ r =>
    let ea := as.getD r ([], false)
    let xa := A.scales.getD r 0
    let τ := if colInv || ea.2 || xa == 255 then flagsOr r (flags3 false true false) τ else τ
    (List.range n).foldl (fun τ c =>
      let xb := B.scales.getD c 0
      if xa = 255 ∨ xb = 255 then τ
      else contribute r c (blockSum ea.1 (bs.getD c ([], false)).1)
        ((xa : Int) + xb - 254 - ma.f - mb.f) τ) τ) τ

/-- The scale-scan datum of row `r` over the pairs admitted (R46). -/
def scanDatum (ma mb : MxFmt) (n : Nat) (cols : List (BlockCol × BlockCol)) (r : Nat) : Int :=
  let best : Option Nat := cols.foldl (fun acc p =>
    (List.range n).foldl (fun acc c =>
      let xa := p.1.scales.getD r 0
      let xb := p.2.scales.getD c 0
      if xa = 255 ∨ xb = 255 then acc
      else some (match acc with | none => xa + xb | some v => max v (xa + xb))) acc) none
  match best with
  | none => -512
  | some v => (v : Int) - 254 + ma.p + mb.p - 82

/-- Significand and exponent of a finite BF16 input (R44). -/
def bf16Parts (b : Nat) : Int × Int :=
  let e := bitsAt b 7 8
  let m := bitsAt b 0 7
  let n : Int := if e = 0 then m else (128 + m : Nat)
  (if bitOn b 15 then -n else n, if e = 0 then 1 else e)

/-- One block column of a BF16 product: one contribution for each product (R44). -/
def bfColumn (len m n : Nat) (A B : BlockCol) (τ : Tile) : Tile :=
  (List.range m).foldl (fun τ r =>
    (List.range n).foldl (fun τ c =>
      (List.range (min len 32)).foldl (fun τ i =>
        let a := bitsAt (A.blocks.getD r 0) (i * 16) 16
        let b := bitsAt (B.blocks.getD c 0) (i * 16) 16
        if bitsAt a 7 8 = 255 ∨ bitsAt b 7 8 = 255 then flagsOr r (flags3 false true false) τ
        else
          let pa := bf16Parts a
          let pb := bf16Parts b
          contribute r c (pa.1 * pb.1) (pa.2 + pb.2 - 268) τ) τ) τ) τ

/-! ### The instructions -/

/-- Checks shared by MMA, MMB and MSCAN, in the order of R79, up to the shape and the bases. -/
def matrixOperands (s : State) (o : TileOp) (scales : Bool) : Except TErr (Shape × Bases × Bases) :=
  let f := fmtM o.w
  match shapeOf (xnat s o.tile f.xsh) true, basesOf (xnat s o.tile f.xa) scales, basesOf (xnat s o.tile f.xb) scales with
  | some sh, some a, some b => .ok (sh, a, b)
  | _, _, _ => .error .prog

/-- The start mode rules (R47, R79): DMODE and START agree. -/
def dmodeOk (f : FmtM) (bf : Bool) : Bool :=
  f.zero == 0 && (if f.start then f.dmode != 0 && !(bf && f.dmode == 3) else f.dmode == 0)

/-- Read a datum vector (R45, R80). -/
def datumVector (s : State) (o : TileOp) : Except TErr (List Int) := do
  let a := xnat s o.tile (fmtM o.w).xv % 2 ^ 20
  need (a % 64 == 0)
  let bs ← matRead s o.tile a 64
  let es := (chunks 2 32 bs).map ofLe
  need (es.all fun e => decide (e < 1024))
  return es.map (sx 10)

/-- Start rows `0` to `m - 1`: clear them and set their datum (R40, R45, R46). An immediate datum (DMODE 0b01) applies to all 32 rows
(R45, R80). -/
def startRows (m dmode : Nat) (d : Nat → Int) (τ : Tile) : Tile :=
  let τ := (List.range m).foldl (fun τ r => datumSet r (d r) (clearRow r τ)) τ
  if dmode = 1 then (List.range (32 - m)).foldl (fun τ r => datumSet (m + r) (d (m + r)) τ) τ else τ

/-- The rows' datums an instruction with START sets (R80). -/
def startDatums (s : State) (o : TileOp) (scan : Nat → Int) : Except TErr (Nat → Int) := do
  let f := fmtM o.w
  if f.dmode = 1 then return fun _ => sx 10 f.dimm
  else if f.dmode = 2 then
    let v ← datumVector s o
    return fun r => v.getD r 0
  else return scan

/-- Elements of block column `j` that lie within the reduction count (R37, R78). -/
def lenAt (sh : Shape) (j : Nat) : Nat := sh.k - j * 32

/-- An instruction enters the matrix queue with what it has still to write (R69, R72). -/
def matQueued (t : Nat) (ws : List Owed) (τ : Tile) (s : State) : State := tileSet t { τ with matQ := τ.matQ ++ [ws] } s

/-- A row whose parity bit an upset turns (R59). -/
def strikeRow (o : TileOp) (τ : Tile) : Tile := match o.upset with
  | some (.matParity r) => { τ with rowPar := Map.set τ.rowPar r (!Map.get τ.rowPar false r) }
  | _ => τ

/-- A wrong integer that no check has found joins the internal sum of one of the elements written (R59, R60): an error of the
accumulation itself, which the running residue does not follow, or one that is a multiple of 7, as it reaches the sum. -/
def strikeSum (o : TileOp) (m n : Nat) (τ : Tile) : Tile := match o.upset with
  | some (.matSum st r c d) =>
    if st ≤ 5 ∧ r < m ∧ c < n then accSet r c (accGet τ r c + d) τ else τ
  | _ => τ

/-- Rows `0` to `m - 1` are used: a parity mismatch is a checked error (R59, R105). -/
def needRows (m : Nat) (τ : Tile) : Except TErr Unit :=
  if (List.range m).all (rowParOk τ) then .ok () else .error (.checked 2 7 false)

/-- MMA (R38 to R46, R75 to R80). -/
def execMma (o : TileOp) (s : State) : Result :=
  issued o .product (fun s => do
    let f := fmtM o.w
    match mxFmt f.fmtA, mxFmt f.fmtB with
    | some ma, some mb =>
      need (dmodeOk f false)
      let (sh, a, b) ← matrixOperands s o true
      let za := mxBlockBytes f.fmtA
      let zb := mxBlockBytes f.fmtB
      need (panelFits a sh.nb sh.m za true && panelFits b sh.nb sh.n zb true)
      let ca ← readPanel s o.tile a sh.nb sh.m za true
      let cb ← readPanel s o.tile b sh.nb sh.n zb true
      let cols := List.zip ca cb
      let τ := tileGet s o.tile
      let τ ← if f.start then do
          let d ← startDatums s o (scanDatum ma mb sh.n cols)
          pure (startRows sh.m f.dmode d τ)
        else pure τ
      let τ := strikeRow o τ
      needRows sh.m τ
      let τ := (cols.zipIdx).foldl (fun τ p => mxColumn f.fmtA f.fmtB ma mb (lenAt sh p.2) sh.m sh.n p.1.1 p.1.2 τ) τ
      return matQueued o.tile [] (strikeSum o sh.m sh.n τ) s
    | _, _ => .error .prog) s

/-- MMB (R44, R47). -/
def execMmb (o : TileOp) (s : State) : Result :=
  issued o .product (fun s => do
    let f := fmtM o.w
    need (f.fmtA == 8 && f.fmtB == 8 && dmodeOk f true)
    let (sh, a, b) ← matrixOperands s o false
    need (panelFits a sh.nb sh.m 64 false && panelFits b sh.nb sh.n 64 false)
    let ca ← readPanel s o.tile a sh.nb sh.m 64 false
    let cb ← readPanel s o.tile b sh.nb sh.n 64 false
    let τ := tileGet s o.tile
    let τ ← if f.start then do
        let d ← startDatums s o (fun _ => 0)
        pure (startRows sh.m f.dmode d τ)
      else pure τ
    let τ := strikeRow o τ
    needRows sh.m τ
    let τ := ((List.zip ca cb).zipIdx).foldl (fun τ p => bfColumn (lenAt sh p.2) sh.m sh.n p.1.1 p.1.2 τ) τ
    return matQueued o.tile [] (strikeSum o sh.m sh.n τ) s) s

/-- The bytes of a datum vector (R45). -/
def datumVectorBytes (d : Nat → Int) : List Byte := (List.range 32).flatMap fun r => leBytes 2 (wrapTo 10 (d r))

/-- MSCAN (R48): the datum vector of a range of blocks; rows M to 31 hold −512. -/
def execMscan (o : TileOp) (s : State) : Result :=
  issued o .scan (fun s => do
    let f := fmtM o.w
    match mxFmt f.fmtA, mxFmt f.fmtB with
    | some ma, some mb =>
      need (f.zero == 0 && !(f.start && f.dmode == 0))
      let (sh, a, b) ← matrixOperands s o true
      let dst := xnat s o.tile f.xv % 2 ^ 20
      need (dst % 64 == 0 && scratchOk s o.tile dst 64)
      let ca ← readScales s o.tile a sh.nb sh.m
      let cb ← readScales s o.tile b sh.nb sh.n
      let cols := List.zip ca cb
      let d : Nat → Int := fun r => if r < sh.m then scanDatum ma mb sh.n cols r else -512
      return matQueued o.tile [⟨dst, datumVectorBytes d⟩] (tileGet s o.tile) s
    | _, _ => .error .prog) s

/-- Do the running residues of a row's first `n` elements agree with the internal sums (R59). -/
def sumsOk (n : Nat) (τ : Tile) (r : Nat) : Bool :=
  (List.range n).all fun c => accResGet τ r c == mod7 (accGet τ r c)

/-- What an upset that escapes the check adds to a value as it is read out (R60): a multiple of 7 at stage 6. -/
def readErr (o : TileOp) (r c : Nat) : Int := match o.upset with
  | some (.matSum st r' c' d) => if st = 6 ∧ r' = r ∧ c' = c then d else 0
  | _ => 0

/-- Read out a row's first `n` elements: the clamped values and the row with SAT set where one clamps (R42); `e` is what a read
adds in error. -/
def readRow (r n : Nat) (τ : Tile) (e : Nat → Int := fun _ => 0) : List Int × Tile :=
  let vs := (List.range n).map fun c => readout (accGet τ r c + e c)
  (vs.map (·.1), if vs.any (·.2) then flagsOr r (flags3 true false false) τ else τ)

/-- Bytes of one row for a MOUT function: the main bytes with their offset from EBASE, and a scale (R81). -/
def moutRow (fn code : Nat) (vs : List Int) (d : BitVec 10) (fl : BitVec 3) : List Byte × Nat :=
  let dn := d.toNat
  match fn with
  | 0 => (vs.flatMap fun v =>
      leBytes 16 (DRec.pack ⟨v, dn, fl.getLsbD 0, fl.getLsbD 1, fl.getLsbD 2, mod7 v⟩), 0)
  | 1 => (vs.flatMap fun v => leBytes 4 (roundV fp32 (datumVal v dn)).bits, 0)
  | 2 => (vs.flatMap fun v => leBytes 2 (roundV bf16 (datumVal v dn)).bits, 0)
  | _ =>
    let b := mxBlock code (vs.map fun v => datumVal v dn)
    (leBytes (mxBlockBytes code) b.block, b.scale)

/-- The distance between rows at the destination (R81). -/
def moutStride (fn code : Nat) : Nat := match fn with
  | 0 => 512 | 1 => 128 | 2 => 64 | _ => mxBlockBytes code

/-- The rows of a MOUT, in order: the tile after the reads, its residues (R260), and the writes owed: each row's data, its scale where
it has one, its status byte (R58, R81). DESIGN CHOICE (log entry 15): where those areas overlap, a later write of this order stands. -/
def moutRows (fn : Nat) (o : TileOp) (sh : Shape) (b : Bases) (st : Nat) (τ : Tile) : List Owed × Tile :=
  let f := fmtO o.w
  (List.range sh.m).foldl (fun a r =>
    let rd := readRow r sh.n a.2 (readErr o r)
    let row := moutRow fn f.fmtOut rd.1 (Map.get rd.2.datum 0 r) (flagsGet rd.2 r)
    let scale := if fn = 3 then [⟨b.s + r, leBytes 1 row.2⟩] else []
    (a.1 ++ [⟨b.e + r * moutStride fn f.fmtOut, row.1⟩] ++ scale ++ [⟨st + r, leBytes 1 (flagsGet rd.2 r).toNat⟩],
     { rd.2 with residues := rd.2.residues ++ (rd.1.map mod7).map (BitVec.ofNat 8) })) ([], τ)

/-- MOUT with one of its four functions (R52 to R59, R81): a row whose parity, or an element whose running residue, does not agree is a
checked error. -/
def mout (fn : Nat) (o : TileOp) (s : State) : Except TErr State := do
  let f := fmtO o.w
  need (f.zero == 0 && (if fn = 3 then decide (f.fmtOut ≤ 5) else f.fmtOut == 0))
  match shapeOf (xnat s o.tile f.xsh) false, basesOf (xnat s o.tile f.xdst) (fn == 3) with
  | some sh, some b =>
    let st := xnat s o.tile f.xst % 2 ^ 20
    let step := moutStride fn f.fmtOut
    let rowLen := match fn with | 0 => sh.n * 16 | 1 => sh.n * 4 | 2 => sh.n * 2 | _ => step
    need (scratchOk s o.tile b.e ((sh.m - 1) * step + rowLen) && scratchOk s o.tile st sh.m
      && (fn != 3 || scratchOk s o.tile b.s sh.m))
    let τ := strikeRow o (tileGet s o.tile)
    needRows sh.m τ
    if !(List.range sh.m).all (sumsOk sh.n τ) then throw (.checked 1 5 false)
    let r := moutRows fn o sh b st τ
    return matQueued o.tile r.1 r.2 s
  | _, _ => .error .prog

/-- MOUT function 0x00: datum-integer records (R52). -/
def execMoutRecords (o : TileOp) (s : State) : Result := issued o (.readout false) (mout 0 o) s
/-- MOUT function 0x01: FP32 (R54). -/
def execMoutFp32 (o : TileOp) (s : State) : Result := issued o (.readout true) (mout 1 o) s
/-- MOUT function 0x02: BF16 (R55). -/
def execMoutBf16 (o : TileOp) (s : State) : Result := issued o (.readout true) (mout 2 o) s
/-- MOUT function 0x03: an MX format (R56, R57). -/
def execMoutMx (o : TileOp) (s : State) : Result := issued o (.readout true) (mout 3 o) s

/-- MATRIX_COMPLETE (R83, R92): the oldest queued matrix instruction writes what it owes and MAT rises by 1. -/
def execMatrixComplete (tile : Nat) (s : State) : Result :=
  .next (
    match (tileGet s tile).matQ with
    | [] => s
    | ws :: rest => tileRest tile (doneBump tile 0 1 (payOwed tile ws (tileMod tile (fun τ => { τ with matQ := rest }) s))))

end Sys2Proof.Machine
end

