-- ==== Sys2Proof/Machine/Flags.lean ====
section
/-! DEFINITION. Machine/Flags.lean: the vector flags (R132, R133): INV in bit 0, OVF in bit 1, DZ in bit 2, SATI in
bit 3, RSAT in bit 4, sticky within a tick; their one home is TILE_VFLAGS. -/
namespace Sys2Proof.Machine

/-- The flag bits a result raises. -/
def FRes.flags (r : FRes) : Nat := bit01 r.inv + 2 * bit01 r.ovf + 4 * bit01 r.dz + 8 * bit01 r.sat

/-- OR of flag sets (five bits). -/
def orFlags (a b : Nat) : Nat := a ||| b

/-- The flags of several results together. -/
def flagsOf (rs : List FRes) : Nat := rs.foldl (fun a r => orFlags a r.flags) 0

/-- Raise vector flags; they are only ever set within a tick (R132). -/
def raiseFlags (t fl : Nat) (s : State) : State :=
  fset F.tileVflags_flags t (orFlags (fget s F.tileVflags_flags t) fl) s

/-- RSAT (R132): a record addition whose result carries SAT. -/
def rsatFlag : Nat := 16

end Sys2Proof.Machine
end

