-- ==== Sys2Proof/Machine/VecOps.lean ====
section
/-! DEFINITION. Machine/VecOps.lean: what the vector instructions share: spans and their overlap rules (R108, R109),
predication (R110, R111), field rules (R117), and element access. -/
namespace Sys2Proof.Machine

/-- Which fields of format V an instruction's row uses; any other must be zero (R117). -/
structure VUse where
  d : Bool := false
  a : Bool := false
  b : Bool := false
  c : Bool := false
  aux : Bool := false
  sb : Bool := false
  deriving DecidableEq, Repr

/-- The fields an instruction that is not predicated does not use: PRED and ZM are zero, and PEN may not be set (R117). -/
def vplainOk (f : FmtV) : Bool := !f.pen && f.pred == 0 && !f.zm

/-- The most records one instruction covers (R109): 2,048, which fill 8 registers. DEDUCED (log entry 91): a larger CNT is a value outside
the range stated, a program error by R74. -/
def recordsOk (f : FmtV) : Bool := decide (f.n ≤ 2048)

/-- The field rules of R74 and R117. -/
def vfieldsOk (f : FmtV) (u : VUse) : Bool :=
  f.zero == 0 && (u.d || f.d == 0) && (u.a || f.a == 0) && (u.b || f.b == 0) && (u.c || f.c == 0)
    && (u.aux || f.aux == 0) && (u.sb || !f.sb)

/-- A register span: first register and number of registers (R108, R109). -/
structure Span where
  reg : Nat
  len : Nat
  deriving DecidableEq, Repr

/-- The span of `n` items of `bytes` bytes from register `r`. -/
def spanOf (r n bytes : Nat) : Span := ⟨r, max 1 ((n * bytes + 4095) / 4096)⟩

/-- Does a span end by T31. -/
def Span.fits (x : Span) : Bool := decide (x.reg + x.len ≤ 32)

/-- Do two spans share a register. -/
def Span.meets (x y : Span) : Bool := decide (x.reg < y.reg + y.len) && decide (y.reg < x.reg + x.len)

/-- The overlap rule of R109: a destination may overlap a source only by starting at the same register, and for the
position-moving instructions (`strict`) not at all. -/
def spansOk (strict : Bool) (dst : List Span) (src : List Span) : Bool :=
  dst.all Span.fits && src.all Span.fits
    && dst.all fun d => src.all fun x => !(d.meets x) || (!strict && d.reg == x.reg)

/-- Elements of `bytes` bytes from register `r` (R108). -/
def telems (τ : Tile) (r bytes n : Nat) : List Nat :=
  (List.range n).map fun e => ofLe (Mem.readN τ.t (r * 4096 + e * bytes) bytes)

/-- Write elements; `none` leaves an element unchanged (R110). -/
def tputs (r bytes : Nat) (vs : List (Option Nat)) (τ : Tile) : Tile :=
  { τ with t := (vs.zipIdx).foldl (fun m p => match p.1 with
      | none => m
      | some v => Mem.writeN m (r * 4096 + p.2 * bytes) (leBytes bytes v)) τ.t }

/-- A predicate register. -/
def pget (τ : Tile) (k : Nat) : BitVec 8192 := Map.get τ.p 0 k
/-- Bit `e` of a predicate register. -/
def pbit (τ : Tile) (k e : Nat) : Bool := (pget τ k).getLsbD e
/-- Write bits 0 to `vs.length - 1` of a predicate; `none` keeps a bit, bits above keep theirs (R111). -/
def pputs (k : Nat) (vs : List (Option Bool)) (τ : Tile) : Tile :=
  { τ with p := Map.set τ.p k ((vs.zipIdx).foldl (fun v p => match p.1 with
      | none => v
      | some true => v ||| (BitVec.ofNat 8192 1 <<< p.2)
      | some false => v &&& ~~~(BitVec.ofNat 8192 1 <<< p.2)) (pget τ k)) }

/-- Which elements are active (R110). -/
def actives (τ : Tile) (f : FmtV) : List Bool :=
  (List.range f.n).map fun e => !f.pen || pbit τ f.pred e

/-- An X register of the tile. -/
def tx (τ : Tile) (r : Nat) : Nat := (Map.get τ.x 0 r).toNat

/-- The second source: elements of B, or the low bits of X register B for every element (R115 SB). -/
def bElems (τ : Tile) (f : FmtV) (bytes : Nat) : List Nat :=
  if f.sb then List.replicate f.n (tx τ f.b % 2 ^ (8 * bytes)) else telems τ f.b bytes f.n

/-- Spans of the second source: none when it is a scalar. -/
def bSpan (f : FmtV) (bytes : Nat) : List Span := if f.sb then [] else [spanOf f.b f.n bytes]

/-- What each destination element becomes: the result where active, zero or unchanged where not (R110). -/
def predicated (f : FmtV) (act : List Bool) (rs : List FRes) : List (Option Nat) :=
  List.zipWith (fun a (r : FRes) => if a then some r.bits else if f.zm then some 0 else none) act rs

/-- The flags of the active results. -/
def activeFlags (act : List Bool) (rs : List FRes) : Nat :=
  flagsOf ((List.zip act rs).filterMap fun p => if p.1 then some p.2 else none)

/-- Write a result vector to D and raise its flags. -/
def vResult (o : TileOp) (f : FmtV) (dbytes : Nat) (rs : List FRes) (s : State) : State :=
  let τ := tileGet s o.tile
  let act := actives τ f
  raiseFlags o.tile (activeFlags act rs) (tileSet o.tile (tputs f.d dbytes (predicated f act rs) τ) s)

/-- The element type of an instruction, if it accepts it (R116). -/
def etypeIn (f : FmtV) (ok : EType → Bool) : Except TErr EType :=
  match etypeOf f.ety with
  | some t => if ok t then .ok t else .error .prog
  | none => .error .prog

/-- One-source element-wise instruction. -/
def vUnary (o : TileOp) (ok : EType → Bool) (fn : EType → Nat → FRes) (s : State) : Except TErr State := do
  let f := fmtV o.w
  need (vfieldsOk f { d := true, a := true })
  let t ← etypeIn f ok
  let sp := spanOf f.a f.n t.bytes
  need (spansOk false [spanOf f.d f.n t.bytes] [sp])
  let τ := tileGet s o.tile
  return vResult o f t.bytes ((telems τ f.a t.bytes f.n).map (fn t)) s

/-- Two-source element-wise instruction; `bb` is the width in bytes of an element of B. -/
def vBinary (o : TileOp) (ok : EType → Bool) (bb : EType → Nat) (fn : EType → Nat → Nat → FRes) (s : State) :
    Except TErr State := do
  let f := fmtV o.w
  need (vfieldsOk f { d := true, a := true, b := true, sb := true })
  let t ← etypeIn f ok
  need (spansOk false [spanOf f.d f.n t.bytes] (spanOf f.a f.n t.bytes :: bSpan f (bb t)))
  let τ := tileGet s o.tile
  return vResult o f t.bytes (List.zipWith (fn t) (telems τ f.a t.bytes f.n) (bElems τ f (bb t))) s

/-- Three-source element-wise instruction. -/
def vTernary (o : TileOp) (ok : EType → Bool) (fn : EType → Nat → Nat → Nat → FRes) (s : State) : Except TErr State := do
  let f := fmtV o.w
  need (vfieldsOk f { d := true, a := true, b := true, c := true, sb := true })
  let t ← etypeIn f ok
  need (spansOk false [spanOf f.d f.n t.bytes] ([spanOf f.a f.n t.bytes, spanOf f.c f.n t.bytes] ++ bSpan f t.bytes))
  let τ := tileGet s o.tile
  let ab := List.zip (telems τ f.a t.bytes f.n) (bElems τ f t.bytes)
  return vResult o f t.bytes (List.zipWith (fun p c => fn t p.1 p.2 c) ab (telems τ f.c t.bytes f.n)) s

/-- Every element type. -/
def anyType : EType → Bool := fun _ => true
/-- The integer types. -/
def intType : EType → Bool := fun t => !t.isFloat
/-- The floating types. -/
def floatType : EType → Bool := EType.isFloat

/-- A compare into predicate D[2:0] (R111, R116, R117, R120). -/
def vCompare (o : TileOp) (fn : EType → Nat → Nat → Bool) (s : State) : Except TErr State := do
  let f := fmtV o.w
  need (vfieldsOk f { d := true, a := true, b := true, sb := true } && decide (f.d < 8))
  let t ← etypeIn f anyType
  need (spansOk false [] (spanOf f.a f.n t.bytes :: bSpan f t.bytes))
  let τ := tileGet s o.tile
  let bs := List.zipWith (fn t) (telems τ f.a t.bytes f.n) (bElems τ f t.bytes)
  let vs := List.zipWith (fun a b => if a then some b else if f.zm then some false else none) (actives τ f) bs
  return tileSet o.tile (pputs f.d vs τ) s

/-- The signed value of an element. -/
def sval (t : EType) (v : Nat) : Int := sx t.bits v

/-- The active elements with their indices. -/
def activeElems (τ : Tile) (f : FmtV) (bytes : Nat) : List (Nat × Nat) :=
  (List.zip (actives τ f) (telems τ f.a bytes f.n)).zipIdx.filterMap fun p => if p.1.1 then some (p.2, p.1.2) else none

/-- Write an X register of the tile. -/
def txSet (r v : Nat) (τ : Tile) : Tile := { τ with x := Map.set τ.x r (BitVec.ofNat 64 v) }

/-- A full reduction into X register C (R126, R127). -/
def vReduce (o : TileOp) (ok : EType → Bool) (fn : EType → FmtV → Tile → Nat × Nat) (s : State) : Except TErr State := do
  let f := fmtV o.w
  need (vfieldsOk f { a := true, c := true })
  let t ← etypeIn f ok
  need (spansOk false [] [spanOf f.a f.n t.bytes])
  let τ := tileGet s o.tile
  let r := fn t f τ
  return raiseFlags o.tile r.2 (tileSet o.tile (txSet f.c r.1 τ) s)

/-- One level of the fixed addition tree (R126). -/
def treeLevel : List Nat → List Nat × Nat
  | a :: b :: rest =>
    let r := faddV fp32 (decodeF fp32 a) (decodeF fp32 b)
    let q := treeLevel rest
    (r.bits :: q.1, orFlags r.flags q.2)
  | l => (l, 0)

/-- The tree sum of a list padded to a power of two; a sum that is −0 is +0 (R126). -/
def treeSum : Nat → List Nat → Nat → Nat × Nat
  | 0, l, fl => (l.headD 0, fl)
  | n + 1, l, fl =>
    match l with
    | [] => (0, fl)
    | [v] => (if v = fp32.signBit then 0 else v, fl)
    | l => let r := treeLevel l; treeSum n r.1 (orFlags fl r.2)

/-- The next power of two of a count, at least 2. -/
def treeWidth (n : Nat) : Nat := if n ≤ 2 then 2 else 2 ^ (Nat.log2 (n - 1) + 1)

/-- The tree sum of values, inactive ones already +0 (R126). -/
def treeAdd (l : List Nat) : Nat × Nat := treeSum 15 (padTo (treeWidth l.length) 0 l) 0

/-- The exact maximum or minimum of encodings: NaN if any is NaN, the identity if none is given (R127). -/
def fextreme (f : FFmt) (isMax : Bool) (vs : List Nat) : Nat :=
  match vs with
  | [] => f.signed isMax f.infBits
  | v :: rest => rest.foldl (if isMax then fmaxBits f else fminBits f) (if (decodeF f v).isNan then f.nanBits else v)

/-- The lowest index among the maximal elements; `none` where none is given or one is a NaN (R127). DESIGN CHOICE (log entry 91): −0 is
below +0 here, as R120 has it for VFMAX, so a +0 is maximal over an earlier −0; R127 does not say whether the two tie. -/
def fargmax (f : FFmt) (vs : List (Nat × Nat)) : Option Nat :=
  if vs.any fun p => (decodeF f p.2).isNan then none
  else vs.foldl (fun acc p => match acc with
    | none => some p
    | some q => if FVal.lt (decodeF f q.2) (decodeF f p.2) then some p else some q) none |>.map (·.1)

end Sys2Proof.Machine
end

