-- ==== Sys2Proof/Machine/TileVector.lean ====
section
/-! DEFINITION. Machine/TileVector.lean: the vector engine's instructions (R116 to R132, R621). -/
namespace Sys2Proof.Machine

/-! ### Scalar operations, major 0x40 (R116, R121) -/

/-- The second source of a scalar operation. -/
def scalarSrc (s : State) (o : TileOp) : Word :=
  let f := fmtVX o.w
  if f.i then BitVec.ofInt 64 (sx 32 f.imm) else xget s o.tile f.xb

/-- The field rules of format VX (R117). -/
def vxOk (f : FmtVX) : Bool := if f.i then f.xb == 0 else f.imm == 0

/-- A scalar operation on 64 bits (R121: it never saturates). -/
def scalarOp (o : TileOp) (fn : Word → Word → Word) (s : State) : Except TErr State := do
  let f := fmtVX o.w
  need (vxOk f)
  return xset o.tile f.xd (fn (xget s o.tile f.xa) (scalarSrc s o)) s

/-- A truth value as a word. -/
def boolWord (b : Bool) : Word := if b then 1 else 0
/-- The shift count src[5:0]. -/
def shiftOf (b : Word) : Nat := b.toNat % 64

/-- XADD. -/
def execXadd (o : TileOp) (s : State) : Result := issued o .vector (scalarOp o (fun a b => a + b)) s
/-- XSUB. -/
def execXsub (o : TileOp) (s : State) : Result := issued o .vector (scalarOp o (fun a b => a - b)) s
/-- XMUL. -/
def execXmul (o : TileOp) (s : State) : Result := issued o .vector (scalarOp o (fun a b => a * b)) s
/-- XAND. -/
def execXand (o : TileOp) (s : State) : Result := issued o .vector (scalarOp o (fun a b => a &&& b)) s
/-- XOR: XA or src. -/
def execXor (o : TileOp) (s : State) : Result := issued o .vector (scalarOp o (fun a b => a ||| b)) s
/-- XXOR: XA xor src. -/
def execXxor (o : TileOp) (s : State) : Result := issued o .vector (scalarOp o (fun a b => a ^^^ b)) s
/-- XSHL. -/
def execXshl (o : TileOp) (s : State) : Result := issued o .vector (scalarOp o (fun a b => a <<< shiftOf b)) s
/-- XSHR. -/
def execXshr (o : TileOp) (s : State) : Result := issued o .vector (scalarOp o (fun a b => a >>> shiftOf b)) s
/-- XSRA. -/
def execXsra (o : TileOp) (s : State) : Result := issued o .vector (scalarOp o (fun a b => a.sshiftRight (shiftOf b))) s
/-- XSLT. -/
def execXslt (o : TileOp) (s : State) : Result := issued o .vector (scalarOp o (fun a b => boolWord (a.slt b))) s
/-- XSLTU. -/
def execXsltu (o : TileOp) (s : State) : Result := issued o .vector (scalarOp o (fun a b => boolWord (a.ult b))) s
/-- XSEQ. -/
def execXseq (o : TileOp) (s : State) : Result := issued o .vector (scalarOp o (fun a b => boolWord (a == b))) s
/-- XMIN, signed. -/
def execXmin (o : TileOp) (s : State) : Result := issued o .vector (scalarOp o (fun a b => if a.slt b then a else b)) s
/-- XMAX, signed. -/
def execXmax (o : TileOp) (s : State) : Result := issued o .vector (scalarOp o (fun a b => if a.slt b then b else a)) s
/-- XMINU. -/
def execXminu (o : TileOp) (s : State) : Result := issued o .vector (scalarOp o (fun a b => if a.ult b then a else b)) s
/-- XMAXU. -/
def execXmaxu (o : TileOp) (s : State) : Result := issued o .vector (scalarOp o (fun a b => if a.ult b then b else a)) s

/-! ### Loads and stores (R113, R114, R117, R123) -/

/-- The pieces of a contiguous or strided access: tile-store address, byte offset in the register span, length. DESIGN CHOICE (log entry
91): address and stride are unsigned, so a stride that is negative in two's complement runs past the store; R116 says neither. -/
def vPieces (strided : Bool) (a st nb : Nat) : List (Nat × Nat × Nat) :=
  if strided then (List.range ((nb + 127) / 128)).map fun r => (a + r * st, r * 128, min 128 (nb - r * 128))
  else [(a, 0, nb)]

/-- What the vector engine reads of the store: its accesses are in program order, so it sees what its own stores still owe (R113). -/
def vecRead (s : State) (t a n : Nat) : Except TErr (List Byte) := loadBytes s t a n (tileGet s t).vecQ

/-- VLD and VLDS. -/
def vload (strided : Bool) (o : TileOp) (s : State) : Except TErr State := do
  let f := fmtV o.w
  need (vfieldsOk f { d := true, a := true, b := strided })
  let t ← etypeIn f anyType
  need (spansOk false [spanOf f.d f.n t.bytes] [])
  let a := xnat s o.tile f.a
  let st := if strided then xnat s o.tile f.b else 0
  need (a % 64 == 0 && st % 64 == 0)
  let parts ← (vPieces strided a st (f.n * t.bytes)).mapM fun p => vecRead s o.tile p.1 p.2.2
  let els := (chunks t.bytes f.n parts.flatten).map fun b => FRes.plain (ofLe b)
  return vResult o f t.bytes els s

/-- A vector store enters the engine's queue with the bytes it owes the store, which VECTOR_STORE_COMPLETE writes (R72, R113). Which
moment between its start and its completion writes a byte the spec leaves open; the model takes the last (DESIGN CHOICE, log entry 89). -/
def vecQueued (t : Nat) (ws : List Owed) (s : State) : State := tileMod t (fun τ => { τ with vecQ := τ.vecQ ++ [ws] }) s

/-- VST and VSTS. -/
def vstore (strided : Bool) (o : TileOp) (s : State) : Except TErr State := do
  let f := fmtV o.w
  need (vfieldsOk f { d := true, a := true, b := strided })
  let t ← etypeIn f anyType
  need (spansOk false [] [spanOf f.d f.n t.bytes])
  let a := xnat s o.tile f.a
  let st := if strided then xnat s o.tile f.b else 0
  need (a % 64 == 0 && st % 64 == 0)
  let pieces := vPieces strided a st (f.n * t.bytes)
  need (pieces.all fun p => scratchOk s o.tile p.1 p.2.2)
  let τ := tileGet s o.tile
  let outs := List.zip (predicated f (actives τ f) ((telems τ f.d t.bytes f.n).map FRes.plain)) (List.range f.n)
  let place := fun (e : Nat) => let off := e * t.bytes
    if strided then a + off / 128 * st + off % 128 else a + off
  return vecQueued o.tile (outs.filterMap fun p => p.1.map fun v => ⟨place p.2, leBytes t.bytes v⟩) s

/-- VLD. -/
def execVld (o : TileOp) (s : State) : Result := issued o .vector (vload false o) s
/-- VST. -/
def execVst (o : TileOp) (s : State) : Result := issued o .vecStore (vstore false o) s
/-- VLDS. -/
def execVlds (o : TileOp) (s : State) : Result := issued o .vector (vload true o) s
/-- VSTS. -/
def execVsts (o : TileOp) (s : State) : Result := issued o .vecStore (vstore true o) s

/-- The bases of VSTMX and VLDMX, checked as R76 and R117 state. -/
def mxBases (s : State) (o : TileOp) : Except TErr Bases :=
  match basesOf (xnat s o.tile (fmtV o.w).a) true with
  | some b => .ok b
  | none => .error .prog

/-- VSTMX (R123): each row of 32 elements becomes one MX block. -/
def execVstmx (o : TileOp) (s : State) : Result :=
  issued o .vecStore (fun s => do
    let f := fmtV o.w
    need (vfieldsOk f { d := true, a := true, aux := true } && f.ety == 0 && decide (f.aux ≤ 5))
    need (spansOk false [] [spanOf f.d f.n 4])
    let b ← mxBases s o
    let rows := (f.n + 31) / 32
    let bsz := mxBlockBytes f.aux
    need (scratchOk s o.tile b.e (rows * bsz) && scratchOk s o.tile b.s rows)
    let τ := tileGet s o.tile
    let vals := List.zipWith (fun a v => if a then decodeF fp32 v else FVal.fin false 0 0) (actives τ f)
      (telems τ f.d 4 f.n)
    let blocks := (chunks 32 rows vals).map (mxBlock f.aux)
    let ws := (blocks.zipIdx).flatMap fun p =>
      [⟨b.e + p.2 * bsz, leBytes bsz p.1.block⟩, ⟨b.s + p.2, leBytes 1 p.1.scale⟩]
    let fl := bit01 (blocks.any (·.special)) + 2 * bit01 (blocks.any (·.sat))
    return vecQueued o.tile ws (raiseFlags o.tile fl s)) s

/-- VLDMX (R123): MX blocks decoded into FP32. -/
def execVldmx (o : TileOp) (s : State) : Result :=
  issued o .vector (fun s => do
    let f := fmtV o.w
    need (vfieldsOk f { d := true, a := true, aux := true } && f.ety == 0 && decide (f.aux ≤ 5))
    need (spansOk false [spanOf f.d f.n 4] [])
    let b ← mxBases s o
    let rows := (f.n + 31) / 32
    let bsz := mxBlockBytes f.aux
    let es ← vecRead s o.tile b.e (rows * bsz)
    let ss ← vecRead s o.tile b.s rows
    let blocks := (chunks bsz rows es).map ofLe
    let rs := (List.range f.n).map fun e =>
      mxToF32 f.aux (ss.getD (e / 32) 0).toNat (mxElemBits f.aux (blocks.getD (e / 32) 0) (e % 32))
    return vResult o f 4 rs s) s

/-! ### Floating arithmetic (R118 to R120) -/

/-- Widen, compute, round once (R119). -/
def fbin (g : FFmt → FVal → FVal → FRes) (t : EType) (a b : Nat) : FRes := g t.fmt (decodeF t.fmt a) (decodeF t.fmt b)

/-- A × 2^B, B clamped to −512 to 511 (R116, R118). -/
def fscale (t : EType) (a b : Nat) : FRes :=
  match decodeF t.fmt a with
  | .fin n m e => roundF t.fmt n m (e + max (-512) (min 511 (sx 32 b)))
  | v => roundV t.fmt v

/-- VFADD. -/
def execVfadd (o : TileOp) (s : State) : Result := issued o .vector (vBinary o floatType EType.bytes (fbin faddV)) s
/-- VFSUB. -/
def execVfsub (o : TileOp) (s : State) : Result :=
  issued o .vector (vBinary o floatType EType.bytes (fbin fun f a b => faddV f a b.neg)) s
/-- VFMUL. -/
def execVfmul (o : TileOp) (s : State) : Result := issued o .vector (vBinary o floatType EType.bytes (fbin fmulV)) s
/-- VFMIN. -/
def execVfmin (o : TileOp) (s : State) : Result :=
  issued o .vector (vBinary o floatType EType.bytes fun t a b => FRes.plain (fminBits t.fmt a b)) s
/-- VFMAX. -/
def execVfmax (o : TileOp) (s : State) : Result :=
  issued o .vector (vBinary o floatType EType.bytes fun t a b => FRes.plain (fmaxBits t.fmt a b)) s
/-- VFABS: clear the sign bit, NaNs included. -/
def execVfabs (o : TileOp) (s : State) : Result :=
  issued o .vector (vUnary o floatType fun t a => FRes.plain (a % t.fmt.signBit)) s
/-- VFNEG: invert the sign bit, NaNs included. -/
def execVfneg (o : TileOp) (s : State) : Result :=
  issued o .vector (vUnary o floatType fun t a => FRes.plain ((a + t.fmt.signBit) % (2 * t.fmt.signBit))) s
/-- VFSCALE: B is read as I32 elements, or from an X register. DESIGN CHOICE (log entry 91): with SB = 1 the low 32 bits of X are the scale
for BF16 too, since R116 makes B an I32; R115 says the low w bits, and w is 16 there. -/
def execVfscale (o : TileOp) (s : State) : Result := issued o .vector (vBinary o floatType (fun _ => 4) fscale) s
/-- VFMA. -/
def execVfma (o : TileOp) (s : State) : Result :=
  issued o .vector (vTernary o floatType fun t a b c =>
    fmaV t.fmt (decodeF t.fmt a) (decodeF t.fmt b) (decodeF t.fmt c)) s
/-- VFMS. -/
def execVfms (o : TileOp) (s : State) : Result :=
  issued o .vector (vTernary o floatType fun t a b c =>
    fmaV t.fmt (decodeF t.fmt a) (decodeF t.fmt b) (decodeF t.fmt c).neg) s
/-- VFNMA: C − A × B. -/
def execVfnma (o : TileOp) (s : State) : Result :=
  issued o .vector (vTernary o floatType fun t a b c =>
    fmaV t.fmt (decodeF t.fmt a).neg (decodeF t.fmt b) (decodeF t.fmt c)) s

/-! ### Integers and logic (R116, R121) -/

/-- A wrapping integer result. -/
def iwrap (t : EType) (v : Int) : FRes := FRes.plain (wrapTo t.bits v)
/-- A saturating integer result; saturation sets SATI. -/
def isat (t : EType) (v : Int) : FRes := let r := satInt t.bits v; ⟨wrapTo t.bits r.1, false, false, false, r.2⟩
/-- An integer operation on signed values. -/
def ibin (g : EType → Int → FRes) (h : Int → Int → Int) (t : EType) (a b : Nat) : FRes := g t (h (sval t a) (sval t b))

/-- VADD. -/
def execVadd (o : TileOp) (s : State) : Result := issued o .vector (vBinary o intType EType.bytes (ibin iwrap (· + ·))) s
/-- VSUB. -/
def execVsub (o : TileOp) (s : State) : Result := issued o .vector (vBinary o intType EType.bytes (ibin iwrap (· - ·))) s
/-- VMUL: the low w bits. -/
def execVmul (o : TileOp) (s : State) : Result := issued o .vector (vBinary o intType EType.bytes (ibin iwrap (· * ·))) s
/-- VMIN, signed. -/
def execVmin (o : TileOp) (s : State) : Result := issued o .vector (vBinary o intType EType.bytes (ibin iwrap min)) s
/-- VMAX, signed. -/
def execVmax (o : TileOp) (s : State) : Result := issued o .vector (vBinary o intType EType.bytes (ibin iwrap max)) s
/-- VADDS. -/
def execVadds (o : TileOp) (s : State) : Result := issued o .vector (vBinary o intType EType.bytes (ibin isat (· + ·))) s
/-- VSUBS. -/
def execVsubs (o : TileOp) (s : State) : Result := issued o .vector (vBinary o intType EType.bytes (ibin isat (· - ·))) s
/-- VAND. -/
def execVand (o : TileOp) (s : State) : Result :=
  issued o .vector (vBinary o anyType EType.bytes fun _ a b => FRes.plain (a &&& b)) s
/-- VOR. -/
def execVor (o : TileOp) (s : State) : Result :=
  issued o .vector (vBinary o anyType EType.bytes fun _ a b => FRes.plain (a ||| b)) s
/-- VXOR. -/
def execVxor (o : TileOp) (s : State) : Result :=
  issued o .vector (vBinary o anyType EType.bytes fun _ a b => FRes.plain (a ^^^ b)) s
/-- VNOT. -/
def execVnot (o : TileOp) (s : State) : Result :=
  issued o .vector (vUnary o anyType fun t a => FRes.plain (2 ^ t.bits - 1 - a)) s

/-- A shift by B[7:0]; counts at or above the width give 0, or the sign fill for VSRA (R121). -/
def vshift (left arith : Bool) (t : EType) (a b : Nat) : FRes :=
  let c := b % 256
  if arith then iwrap t (sval t a / (2 ^ (min c (t.bits - 1)) : Nat))
  else if t.bits ≤ c then FRes.plain 0
  else FRes.plain (if left then a * 2 ^ c % 2 ^ t.bits else a / 2 ^ c)

/-- VSHL. -/
def execVshl (o : TileOp) (s : State) : Result := issued o .vector (vBinary o intType EType.bytes (vshift true false)) s
/-- VSHR. -/
def execVshr (o : TileOp) (s : State) : Result := issued o .vector (vBinary o intType EType.bytes (vshift false false)) s
/-- VSRA. -/
def execVsra (o : TileOp) (s : State) : Result := issued o .vector (vBinary o intType EType.bytes (vshift false true)) s

/-! ### Compares and predicates (R111, R116, R120) -/

/-- A < B and A = B of two elements; both false where an operand is a NaN. -/
def vlt (t : EType) (a b : Nat) : Bool :=
  if t.isFloat then FVal.ltNum (decodeF t.fmt a) (decodeF t.fmt b) else decide (sval t a < sval t b)
/-- See `vlt`. -/
def veq (t : EType) (a b : Nat) : Bool :=
  if t.isFloat then FVal.eqNum (decodeF t.fmt a) (decodeF t.fmt b) else a == b

/-- VCMPEQ. -/
def execVcmpeq (o : TileOp) (s : State) : Result := issued o .vector (vCompare o veq) s
/-- VCMPNE: true where an operand is a NaN. -/
def execVcmpne (o : TileOp) (s : State) : Result := issued o .vector (vCompare o fun t a b => !veq t a b) s
/-- VCMPLT. -/
def execVcmplt (o : TileOp) (s : State) : Result := issued o .vector (vCompare o vlt) s
/-- VCMPLE. -/
def execVcmple (o : TileOp) (s : State) : Result := issued o .vector (vCompare o fun t a b => vlt t a b || veq t a b) s
/-- VCMPGT. -/
def execVcmpgt (o : TileOp) (s : State) : Result := issued o .vector (vCompare o fun t a b => vlt t b a) s
/-- VCMPGE. -/
def execVcmpge (o : TileOp) (s : State) : Result := issued o .vector (vCompare o fun t a b => vlt t b a || veq t a b) s

/-- VCMPSPC: is A a NaN or infinite. -/
def execVcmpspc (o : TileOp) (s : State) : Result :=
  issued o .vector (fun s => do
    let f := fmtV o.w
    need (vfieldsOk f { d := true, a := true } && decide (f.d < 8))
    let t ← etypeIn f floatType
    need (spansOk false [] [spanOf f.a f.n t.bytes])
    let τ := tileGet s o.tile
    let vs := List.zipWith (fun a v => if a then some (decodeF t.fmt v).isSpecial else if f.zm then some false else none)
      (actives τ f) (telems τ f.a t.bytes f.n)
    return tileSet o.tile (pputs f.d vs τ) s) s

/-- A predicate operation on bits 0 to CNT (R111). -/
def predOp (o : TileOp) (useB : Bool) (fn : Bool → Bool → Bool) (s : State) : Except TErr State := do
  let f := fmtVP o.w
  need (f.zero == 0 && f.xr == 0 && (useB || f.pb == 0))
  let τ := tileGet s o.tile
  let vs := (List.range (f.cnt + 1)).map fun e => some (fn (pbit τ f.pa e) (pbit τ f.pb e))
  return tileSet o.tile (pputs f.pd vs τ) s

/-- PAND. -/
def execPand (o : TileOp) (s : State) : Result := issued o .vector (predOp o true (· && ·)) s
/-- POR. -/
def execPor (o : TileOp) (s : State) : Result := issued o .vector (predOp o true (· || ·)) s
/-- PXOR. -/
def execPxor (o : TileOp) (s : State) : Result := issued o .vector (predOp o true (· != ·)) s
/-- PNOT. -/
def execPnot (o : TileOp) (s : State) : Result := issued o .vector (predOp o false fun a _ => !a) s

/-- PSET: bits 0 to min(XR, CNT + 1) − 1 become 1, the other bits up to CNT 0. -/
def execPset (o : TileOp) (s : State) : Result :=
  issued o .vector (fun s => do
    let f := fmtVP o.w
    need (f.zero == 0 && f.pa == 0 && f.pb == 0)
    let τ := tileGet s o.tile
    let vs := (List.range (f.cnt + 1)).map fun e => some (decide (e < tx τ f.xr))
    return tileSet o.tile (pputs f.pd vs τ) s) s

/-- The set bits of PA in 0 to CNT. -/
def predBits (τ : Tile) (f : FmtVP) : List Nat := (List.range (f.cnt + 1)).filter fun e => pbit τ f.pa e

/-- PCNT. -/
def execPcnt (o : TileOp) (s : State) : Result :=
  issued o .vector (fun s => do
    let f := fmtVP o.w
    need (f.zero == 0 && f.pd == 0 && f.pb == 0)
    let τ := tileGet s o.tile
    return tileSet o.tile (txSet f.xr (predBits τ f).length τ) s) s

/-- PFIRST: the lowest set bit of PA in 0 to CNT, or CNT + 1. -/
def execPfirst (o : TileOp) (s : State) : Result :=
  issued o .vector (fun s => do
    let f := fmtVP o.w
    need (f.zero == 0 && f.pd == 0 && f.pb == 0)
    let τ := tileGet s o.tile
    return tileSet o.tile (txSet f.xr ((predBits τ f).headD (f.cnt + 1)) τ) s) s

/-! ### Moves, element access, permute (R116, R117) -/

/-- VMOV. -/
def execVmov (o : TileOp) (s : State) : Result := issued o .vector (vUnary o anyType fun _ a => FRes.plain a) s

/-- An instruction that fills D from a scalar in X register B. -/
def vFill (o : TileOp) (ok : EType → Bool) (fn : EType → Nat → Nat → Nat) (s : State) : Except TErr State := do
  let f := fmtV o.w
  need (vfieldsOk f { d := true, b := true })
  let t ← etypeIn f ok
  need (spansOk false [spanOf f.d f.n t.bytes] [])
  let x := tx (tileGet s o.tile) f.b
  return vResult o f t.bytes ((List.range f.n).map fun e => FRes.plain (fn t x e)) s

/-- VBCAST. -/
def execVbcast (o : TileOp) (s : State) : Result := issued o .vector (vFill o anyType fun t x _ => x % 2 ^ t.bits) s
/-- VIOTA. -/
def execViota (o : TileOp) (s : State) : Result := issued o .vector (vFill o intType fun t x e => (x + e) % 2 ^ t.bits) s

/-- VSEL: PRED[e] ? A[e] : B[e]; PEN = 1 and ZM = 0. -/
def execVsel (o : TileOp) (s : State) : Result :=
  issued o .vector (fun s => do
    let f := fmtV o.w
    need (vfieldsOk f { d := true, a := true, b := true, sb := true } && f.pen && !f.zm)
    let t ← etypeIn f anyType
    need (spansOk false [spanOf f.d f.n t.bytes] (spanOf f.a f.n t.bytes :: bSpan f t.bytes))
    let τ := tileGet s o.tile
    let vs := List.zipWith (fun a p => some (if a then p.1 else p.2)) (actives τ f)
      (List.zip (telems τ f.a t.bytes f.n) (bElems τ f t.bytes))
    return tileSet o.tile (tputs f.d t.bytes vs τ) s) s

/-- VEXT: element B of A into X register C, sign-extended for integers. DESIGN CHOICE (log entry 91): the register span of R117 is one
register, as for an instruction of one element, so the index runs over the elements of 4,096 bytes; VINS alike. -/
def execVext (o : TileOp) (s : State) : Result :=
  issued o .vector (fun s => do
    let f := fmtV o.w
    need (vfieldsOk f { a := true, b := true, c := true } && vplainOk f && f.cnt == 0)
    let t ← etypeIn f anyType
    let τ := tileGet s o.tile
    let i := tx τ f.b
    need (decide (i < 4096 / t.bytes))
    let v := ofLe (Mem.readN τ.t (f.a * 4096 + i * t.bytes) t.bytes)
    return tileSet o.tile (txSet f.c (if t.isFloat then v else wrapTo 64 (sval t v)) τ) s) s

/-- VINS: element B of D := low w bits of X register C. -/
def execVins (o : TileOp) (s : State) : Result :=
  issued o .vector (fun s => do
    let f := fmtV o.w
    need (vfieldsOk f { d := true, b := true, c := true } && vplainOk f && f.cnt == 0)
    let t ← etypeIn f anyType
    let τ := tileGet s o.tile
    let i := tx τ f.b
    need (decide (i < 4096 / t.bytes))
    let m := Mem.writeN τ.t (f.d * 4096 + i * t.bytes) (leBytes t.bytes (tx τ f.c))
    return tileSet o.tile { τ with t := m } s) s

/-- VPERM: D[e] := A[B[e]], 0 where B[e] > CNT; no overlap at all (R109). -/
def execVperm (o : TileOp) (s : State) : Result :=
  issued o .vector (fun s => do
    let f := fmtV o.w
    need (vfieldsOk f { d := true, a := true, b := true, sb := true })
    let t ← etypeIn f anyType
    need (spansOk true [spanOf f.d f.n t.bytes] (spanOf f.a f.n t.bytes :: bSpan f t.bytes))
    let τ := tileGet s o.tile
    let as := telems τ f.a t.bytes f.n
    return vResult o f t.bytes ((bElems τ f t.bytes).map fun i => FRes.plain (if i ≤ f.cnt then as.getD i 0 else 0)) s) s

/-- VRDFL: the vector flags into X register C. -/
def execVrdfl (o : TileOp) (s : State) : Result :=
  issued o .vector (fun s => do
    let f := fmtV o.w
    need (vfieldsOk f { c := true } && f.ety == 0 && vplainOk f && f.cnt == 0)
    return xset o.tile f.c (BitVec.ofNat 64 (fget s F.tileVflags_flags o.tile)) s) s

/-! ### Compress and expand (R129, R130) -/

/-- VCOMP: the active elements at positions 0, 1, 2 ..., zeros from their number up to CNT, the number into C. -/
def execVcomp (o : TileOp) (s : State) : Result :=
  issued o .vector (fun s => do
    let f := fmtV o.w
    need (vfieldsOk f { d := true, a := true, c := true } && f.pen)
    let t ← etypeIn f anyType
    need (spansOk true [spanOf f.d f.n t.bytes] [spanOf f.a f.n t.bytes])
    let τ := tileGet s o.tile
    let els := (activeElems τ f t.bytes).map (·.2)
    return tileSet o.tile (txSet f.c els.length (tputs f.d t.bytes ((padTo f.n 0 els).map some) τ)) s) s

/-- VEXPD: at each active index the next unread element of A; the number read into C. -/
def execVexpd (o : TileOp) (s : State) : Result :=
  issued o .vector (fun s => do
    let f := fmtV o.w
    need (vfieldsOk f { d := true, a := true, c := true } && f.pen)
    let t ← etypeIn f anyType
    need (spansOk true [spanOf f.d f.n t.bytes] [spanOf f.a f.n t.bytes])
    let τ := tileGet s o.tile
    let as := telems τ f.a t.bytes f.n
    let r := (actives τ f).foldl (fun (acc : List (Option Nat) × Nat) a =>
      if a then (acc.1 ++ [some (as.getD acc.2 0)], acc.2 + 1)
      else (acc.1 ++ [if f.zm then some 0 else none], acc.2)) ([], 0)
    return tileSet o.tile (txSet f.c r.2 (tputs f.d t.bytes r.1 τ)) s) s

/-- VCOMPI: X_B + e for each active index e, compressed. -/
def execVcompi (o : TileOp) (s : State) : Result :=
  issued o .vector (fun s => do
    let f := fmtV o.w
    need (vfieldsOk f { d := true, b := true, c := true } && f.pen)
    let t ← etypeIn f (fun t => t == .i32 || t == .i16)
    need (spansOk true [spanOf f.d f.n t.bytes] [])
    let τ := tileGet s o.tile
    let els := ((actives τ f).zipIdx.filterMap fun p => if p.1 then some ((tx τ f.b + p.2) % 2 ^ t.bits) else none)
    return tileSet o.tile (txSet f.c els.length (tputs f.d t.bytes ((padTo f.n 0 els).map some) τ)) s) s

/-! ### Reductions (R126, R127, R621) -/

/-- VRSUMF: the fixed tree. -/
def execVrsumf (o : TileOp) (s : State) : Result :=
  issued o .vector (vReduce o (· == .f32) fun _ f τ =>
    treeAdd (List.zipWith (fun a v => if a then v else 0) (actives τ f) (telems τ f.a 4 f.n))) s
/-- VRMAXF. -/
def execVrmaxf (o : TileOp) (s : State) : Result :=
  issued o .vector (vReduce o floatType fun t f τ => (fextreme t.fmt true ((activeElems τ f t.bytes).map (·.2)), 0)) s
/-- VRMINF. -/
def execVrminf (o : TileOp) (s : State) : Result :=
  issued o .vector (vReduce o floatType fun t f τ => (fextreme t.fmt false ((activeElems τ f t.bytes).map (·.2)), 0)) s
/-- VRSUMI: exact in 64 bits. -/
def execVrsumi (o : TileOp) (s : State) : Result :=
  issued o .vector (vReduce o intType fun t f τ =>
    (wrapTo 64 (((activeElems τ f t.bytes).map fun p => sval t p.2).foldl (· + ·) 0), 0)) s
/-- VRMAXI: the most negative value where none is active. -/
def execVrmaxi (o : TileOp) (s : State) : Result :=
  issued o .vector (vReduce o intType fun t f τ =>
    (wrapTo 64 (((activeElems τ f t.bytes).map fun p => sval t p.2).foldl max (-(2 ^ (t.bits - 1) : Nat))), 0)) s
/-- VRMINI: the most positive value where none is active. -/
def execVrmini (o : TileOp) (s : State) : Result :=
  issued o .vector (vReduce o intType fun t f τ =>
    (wrapTo 64 (((activeElems τ f t.bytes).map fun p => sval t p.2).foldl min ((2 ^ (t.bits - 1) : Nat) - 1)), 0)) s
/-- VRAMAXF: CNT + 1 where none is active or one is a NaN. -/
def execVramaxf (o : TileOp) (s : State) : Result :=
  issued o .vector (vReduce o floatType fun t f τ => ((fargmax t.fmt (activeElems τ f t.bytes)).getD (f.cnt + 1), 0)) s

/-- A row reduction (R621): one result for each row of 32 elements, always written. -/
def vRows (o : TileOp) (fn : List (Bool × Nat) → Nat × Nat) (s : State) : Except TErr State := do
  let f := fmtV o.w
  need (vfieldsOk f { d := true, a := true } && f.ety == 0 && f.n % 32 == 0)
  need (spansOk false [spanOf f.d (f.n / 32) 4] [spanOf f.a f.n 4])
  let τ := tileGet s o.tile
  let rs := (chunks 32 (f.n / 32) (List.zip (actives τ f) (telems τ f.a 4 f.n))).map fn
  return raiseFlags o.tile (rs.foldl (fun a r => orFlags a r.2) 0)
    (tileSet o.tile (tputs f.d 4 (rs.map fun r => some r.1) τ) s)

/-- The active elements of a row with their index in it. -/
def rowActive (l : List (Bool × Nat)) : List (Nat × Nat) :=
  l.zipIdx.filterMap fun p => if p.1.1 then some (p.2, p.1.2) else none

/-- VRRMAXF. -/
def execVrrmaxf (o : TileOp) (s : State) : Result :=
  issued o .vector (vRows o fun l => (fextreme fp32 true ((rowActive l).map (·.2)), 0)) s
/-- VRRSUMF. -/
def execVrrsumf (o : TileOp) (s : State) : Result :=
  issued o .vector (vRows o fun l => treeAdd (l.map fun p => if p.1 then p.2 else 0)) s
/-- VRRAMAXF: 32 where none is active or one is a NaN. -/
def execVrramaxf (o : TileOp) (s : State) : Result :=
  issued o .vector (vRows o fun l => ((fargmax fp32 (rowActive l)).getD 32, 0)) s

/-! ### Transcendentals and conversion (R122, R124, R125, R128) -/

/-- A transcendental of one operand, correctly rounded in the destination format. -/
def ftrans (g : FFmt → FVal → FRes) (t : EType) (a : Nat) : FRes := g t.fmt (decodeF t.fmt a)
/-- A function defined on FP32, its result rounded once to the type (R125). -/
def via32 (g : FVal → Nat) (t : EType) (a : Nat) : FRes :=
  let r := g (decodeF t.fmt a)
  FRes.plain (if t = .b16 then (roundV bf16 (decodeF fp32 r)).bits else r)

/-- VEXP2. -/
def execVexp2 (o : TileOp) (s : State) : Result := issued o .vector (vUnary o floatType (ftrans exp2V)) s
/-- VLOG2. -/
def execVlog2 (o : TileOp) (s : State) : Result := issued o .vector (vUnary o floatType (ftrans log2V)) s
/-- VRCP. -/
def execVrcp (o : TileOp) (s : State) : Result := issued o .vector (vUnary o floatType (ftrans rcpV)) s
/-- VRSQRT. -/
def execVrsqrt (o : TileOp) (s : State) : Result := issued o .vector (vUnary o floatType (ftrans rsqrtV)) s
/-- VTANH. -/
def execVtanh (o : TileOp) (s : State) : Result := issued o .vector (vUnary o floatType (via32 tanh32)) s
/-- VSIGM. -/
def execVsigm (o : TileOp) (s : State) : Result := issued o .vector (vUnary o floatType (via32 sigm32)) s

/-- VCVT of one element from type `u` to type `t` (R122). -/
def convertElem (u t : EType) (a : Nat) : FRes :=
  if u = t then FRes.plain a
  else if u.isFloat && t.isFloat then roundV t.fmt (decodeF u.fmt a)
  else if u.isFloat then floatToInt t.bits (decodeF u.fmt a)
  else if t.isFloat then roundV t.fmt (intVal (sval u a))
  else isat t (sval u a)

/-- VCVT: AUX names the source type. -/
def execVcvt (o : TileOp) (s : State) : Result :=
  issued o .vector (fun s => do
    let f := fmtV o.w
    need (vfieldsOk f { d := true, a := true, aux := true })
    let t ← etypeIn f anyType
    match etypeOf f.aux with
    | none => .error .prog
    | some u =>
      need (spansOk false [spanOf f.d f.n t.bytes] [spanOf f.a f.n u.bytes])
      return vResult o f t.bytes ((telems (tileGet s o.tile) f.a u.bytes f.n).map (convertElem u t)) s) s

/-- VEXPQ (R128): softmax exponents against the anchor in bits [31:0] of X register B. -/
def execVexpq (o : TileOp) (s : State) : Result :=
  issued o .vector (fun s => do
    let f := fmtV o.w
    need (vfieldsOk f { d := true, a := true, b := true } && f.ety == 0)
    need (spansOk false [spanOf f.d f.n 4] [spanOf f.a f.n 4])
    let τ := tileGet s o.tile
    let m := decodeF fp32 (tx τ f.b % 2 ^ 32)
    return vResult o f 4 ((telems τ f.a 4 f.n).map fun a => expqV (decodeF fp32 a) m) s) s

/-! ### Records (R50 to R53, R131, R137) -/

/-- VRADD: record additions; unequal datums are a program error, a bad residue a checked error. DESIGN CHOICE (log entry 91): where one
instruction meets both, the residues of all inputs are tested first, and of several unequal pairs DETAIL names the lowest; R51 and
R131 give no order. -/
def execVradd (o : TileOp) (s : State) : Result :=
  issued o .vector (fun s => do
    let f := fmtV o.w
    need (vfieldsOk f { d := true, a := true, b := true } && f.ety == 0 && vplainOk f && recordsOk f)
    need (spansOk false [spanOf f.d f.n 16] [spanOf f.a f.n 16, spanOf f.b f.n 16])
    let τ := tileGet s o.tile
    let ps := List.zip ((telems τ f.a 16 f.n).map DRec.unpack) ((telems τ f.b 16 f.n).map DRec.unpack)
    if ps.any fun p => !p.1.residueOk || !p.2.residueOk then throw (.checked 3 0 false)
    match ps.find? fun p => p.1.datum != p.2.datum with
    | some p => throw (.datums (p.1.datum + p.2.datum * 65536))
    | none =>
      let rs := ps.map fun p => p.1.add p.2
      let s := addResidues o.tile (((ps.zip rs).map fun q => [q.1.1.residue, q.1.2.residue, q.2.residue]).flatten)
        (tileSet o.tile (tputs f.d 16 (rs.map fun r => some r.pack) τ) s)
      return if rs.any (·.sat) then raiseFlags o.tile rsatFlag s else s) s

/-- VRCVT: each active record's value to FP32 or BF16; the residue of every input record is checked. -/
def execVrcvt (o : TileOp) (s : State) : Result :=
  issued o .vector (fun s => do
    let f := fmtV o.w
    need (vfieldsOk f { d := true, a := true } && recordsOk f)
    let t ← etypeIn f floatType
    need (spansOk false [spanOf f.d f.n t.bytes] [spanOf f.a f.n 16])
    let τ := tileGet s o.tile
    let rs := (telems τ f.a 16 f.n).map DRec.unpack
    if rs.any fun r => !r.residueOk then throw (.checked 3 0 false)
    return addResidues o.tile (rs.map (·.residue)) (vResult o f t.bytes (rs.map fun r => roundV t.fmt (datumVal r.value r.datum)) s)) s

/-- VRMK: one record for each I32 element, DATUM from bits [9:0] of X register B. -/
def execVrmk (o : TileOp) (s : State) : Result :=
  issued o .vector (fun s => do
    let f := fmtV o.w
    need (vfieldsOk f { d := true, a := true, b := true } && recordsOk f)
    let t ← etypeIn f (· == .i32)
    need (spansOk false [spanOf f.d f.n 16] [spanOf f.a f.n t.bytes])
    let τ := tileGet s o.tile
    let d := tx τ f.b % 1024
    let rs := (telems τ f.a 4 f.n).map fun v =>
      FRes.plain (DRec.pack ⟨sval t v, d, false, false, false, mod7 (sval t v)⟩)
    let seen := ((List.zip (actives τ f) (telems τ f.a 4 f.n)).filter (·.1)).map fun e => mod7 (sval t e.2)
    return addResidues o.tile seen (vResult o f 16 rs s)) s

end Sys2Proof.Machine
end

