-- ==== Sys2Proof/Machine/Dispatch.lean ====
section
/-! DEFINITION. Machine/Dispatch.lean: which meaning each command has; nothing else. -/
namespace Sys2Proof.Machine

def exec (i : Instr) (s : State) : Host.Outcome State Fault Refusal :=
  match i with
  | .nop o => Sys2Proof.Machine.execNop o s
  | .endTick o => Sys2Proof.Machine.execEndTick o s
  | .br o => Sys2Proof.Machine.execBr o s
  | .brz o => Sys2Proof.Machine.execBrz o s
  | .brnz o => Sys2Proof.Machine.execBrnz o s
  | .loopTo o => Sys2Proof.Machine.execLoopTo o s
  | .sli o => Sys2Proof.Machine.execSli o s
  | .slih o => Sys2Proof.Machine.execSlih o s
  | .sld o => Sys2Proof.Machine.execSld o s
  | .sst o => Sys2Proof.Machine.execSst o s
  | .waitc o => Sys2Proof.Machine.execWaitc o s
  | .waitSatisfied tile => Sys2Proof.Machine.execWaitSatisfied tile s
  | .bsync o => Sys2Proof.Machine.execBsync o s
  | .barrierRelease bay barrier => Sys2Proof.Machine.execBarrierRelease bay barrier s
  | .sig o => Sys2Proof.Machine.execSig o s
  | .waits o => Sys2Proof.Machine.execWaits o s
  | .mma o => Sys2Proof.Machine.execMma o s
  | .mmb o => Sys2Proof.Machine.execMmb o s
  | .mscan o => Sys2Proof.Machine.execMscan o s
  | .moutRecords o => Sys2Proof.Machine.execMoutRecords o s
  | .moutFp32 o => Sys2Proof.Machine.execMoutFp32 o s
  | .moutBf16 o => Sys2Proof.Machine.execMoutBf16 o s
  | .moutMx o => Sys2Proof.Machine.execMoutMx o s
  | .matrixComplete tile => Sys2Proof.Machine.execMatrixComplete tile s
  | .tld o => Sys2Proof.Machine.execTld o s
  | .tldComplete tile host => Sys2Proof.Machine.execTldComplete tile host s
  | .tst o => Sys2Proof.Machine.execTst o s
  | .tstAck tile => Sys2Proof.Machine.execTstAck tile s
  | .tstS o => Sys2Proof.Machine.execTstS o s
  | .tileTranslationFill tile store => Sys2Proof.Machine.execTileTranslationFill tile store s
  | .patrolScrub tile line found => Sys2Proof.Machine.execPatrolScrub tile line found s
  | .xadd o => Sys2Proof.Machine.execXadd o s
  | .xsub o => Sys2Proof.Machine.execXsub o s
  | .xmul o => Sys2Proof.Machine.execXmul o s
  | .xand o => Sys2Proof.Machine.execXand o s
  | .xor o => Sys2Proof.Machine.execXor o s
  | .xxor o => Sys2Proof.Machine.execXxor o s
  | .xshl o => Sys2Proof.Machine.execXshl o s
  | .xshr o => Sys2Proof.Machine.execXshr o s
  | .xsra o => Sys2Proof.Machine.execXsra o s
  | .xslt o => Sys2Proof.Machine.execXslt o s
  | .xsltu o => Sys2Proof.Machine.execXsltu o s
  | .xseq o => Sys2Proof.Machine.execXseq o s
  | .xmin o => Sys2Proof.Machine.execXmin o s
  | .xmax o => Sys2Proof.Machine.execXmax o s
  | .xminu o => Sys2Proof.Machine.execXminu o s
  | .xmaxu o => Sys2Proof.Machine.execXmaxu o s
  | .vld o => Sys2Proof.Machine.execVld o s
  | .vst o => Sys2Proof.Machine.execVst o s
  | .vlds o => Sys2Proof.Machine.execVlds o s
  | .vsts o => Sys2Proof.Machine.execVsts o s
  | .vstmx o => Sys2Proof.Machine.execVstmx o s
  | .vldmx o => Sys2Proof.Machine.execVldmx o s
  | .vectorStoreComplete tile => Sys2Proof.Machine.execVectorStoreComplete tile s
  | .vfadd o => Sys2Proof.Machine.execVfadd o s
  | .vfsub o => Sys2Proof.Machine.execVfsub o s
  | .vfmul o => Sys2Proof.Machine.execVfmul o s
  | .vfmin o => Sys2Proof.Machine.execVfmin o s
  | .vfmax o => Sys2Proof.Machine.execVfmax o s
  | .vfabs o => Sys2Proof.Machine.execVfabs o s
  | .vfneg o => Sys2Proof.Machine.execVfneg o s
  | .vfscale o => Sys2Proof.Machine.execVfscale o s
  | .vfma o => Sys2Proof.Machine.execVfma o s
  | .vfms o => Sys2Proof.Machine.execVfms o s
  | .vfnma o => Sys2Proof.Machine.execVfnma o s
  | .vadd o => Sys2Proof.Machine.execVadd o s
  | .vsub o => Sys2Proof.Machine.execVsub o s
  | .vmul o => Sys2Proof.Machine.execVmul o s
  | .vmin o => Sys2Proof.Machine.execVmin o s
  | .vmax o => Sys2Proof.Machine.execVmax o s
  | .vadds o => Sys2Proof.Machine.execVadds o s
  | .vsubs o => Sys2Proof.Machine.execVsubs o s
  | .vand o => Sys2Proof.Machine.execVand o s
  | .vor o => Sys2Proof.Machine.execVor o s
  | .vxor o => Sys2Proof.Machine.execVxor o s
  | .vnot o => Sys2Proof.Machine.execVnot o s
  | .vshl o => Sys2Proof.Machine.execVshl o s
  | .vshr o => Sys2Proof.Machine.execVshr o s
  | .vsra o => Sys2Proof.Machine.execVsra o s
  | .vcmpeq o => Sys2Proof.Machine.execVcmpeq o s
  | .vcmpne o => Sys2Proof.Machine.execVcmpne o s
  | .vcmplt o => Sys2Proof.Machine.execVcmplt o s
  | .vcmple o => Sys2Proof.Machine.execVcmple o s
  | .vcmpgt o => Sys2Proof.Machine.execVcmpgt o s
  | .vcmpge o => Sys2Proof.Machine.execVcmpge o s
  | .vcmpspc o => Sys2Proof.Machine.execVcmpspc o s
  | .pand o => Sys2Proof.Machine.execPand o s
  | .por o => Sys2Proof.Machine.execPor o s
  | .pxor o => Sys2Proof.Machine.execPxor o s
  | .pnot o => Sys2Proof.Machine.execPnot o s
  | .pset o => Sys2Proof.Machine.execPset o s
  | .pcnt o => Sys2Proof.Machine.execPcnt o s
  | .pfirst o => Sys2Proof.Machine.execPfirst o s
  | .vmov o => Sys2Proof.Machine.execVmov o s
  | .vbcast o => Sys2Proof.Machine.execVbcast o s
  | .viota o => Sys2Proof.Machine.execViota o s
  | .vsel o => Sys2Proof.Machine.execVsel o s
  | .vext o => Sys2Proof.Machine.execVext o s
  | .vins o => Sys2Proof.Machine.execVins o s
  | .vperm o => Sys2Proof.Machine.execVperm o s
  | .vrdfl o => Sys2Proof.Machine.execVrdfl o s
  | .vcomp o => Sys2Proof.Machine.execVcomp o s
  | .vexpd o => Sys2Proof.Machine.execVexpd o s
  | .vcompi o => Sys2Proof.Machine.execVcompi o s
  | .vrsumf o => Sys2Proof.Machine.execVrsumf o s
  | .vrmaxf o => Sys2Proof.Machine.execVrmaxf o s
  | .vrminf o => Sys2Proof.Machine.execVrminf o s
  | .vrsumi o => Sys2Proof.Machine.execVrsumi o s
  | .vrmaxi o => Sys2Proof.Machine.execVrmaxi o s
  | .vrmini o => Sys2Proof.Machine.execVrmini o s
  | .vramaxf o => Sys2Proof.Machine.execVramaxf o s
  | .vrrmaxf o => Sys2Proof.Machine.execVrrmaxf o s
  | .vrrsumf o => Sys2Proof.Machine.execVrrsumf o s
  | .vrramaxf o => Sys2Proof.Machine.execVrramaxf o s
  | .vexp2 o => Sys2Proof.Machine.execVexp2 o s
  | .vlog2 o => Sys2Proof.Machine.execVlog2 o s
  | .vrcp o => Sys2Proof.Machine.execVrcp o s
  | .vrsqrt o => Sys2Proof.Machine.execVrsqrt o s
  | .vtanh o => Sys2Proof.Machine.execVtanh o s
  | .vsigm o => Sys2Proof.Machine.execVsigm o s
  | .vcvt o => Sys2Proof.Machine.execVcvt o s
  | .vradd o => Sys2Proof.Machine.execVradd o s
  | .vrcvt o => Sys2Proof.Machine.execVrcvt o s
  | .vrmk o => Sys2Proof.Machine.execVrmk o s
  | .vexpq o => Sys2Proof.Machine.execVexpq o s
  | .gather w => Sys2Proof.Machine.execGather w s
  | .append w mismatch => Sys2Proof.Machine.execAppend w mismatch s
  | .mask w => Sys2Proof.Machine.execMask w s
  | .kvDeliveryComplete tile => Sys2Proof.Machine.execKvDeliveryComplete tile s
  | .doorbell port fn off size ide v => Sys2Proof.Machine.execDoorbell port fn off size ide v s
  | .commandFetch queue => Sys2Proof.Machine.execCommandFetch queue s
  | .tickEdgeEmit => Sys2Proof.Machine.execTickEdgeEmit s
  | .edge port k b => Sys2Proof.Machine.execEdge port k b s
  | .tickEdgeApply => Sys2Proof.Machine.execTickEdgeApply s
  | .report a lines => Sys2Proof.Machine.execReport a lines s
  | .reportTimeout => Sys2Proof.Machine.execReportTimeout s
  | .decision a lines => Sys2Proof.Machine.execDecision a lines s
  | .tickRelease part => Sys2Proof.Machine.execTickRelease part s
  | .drainLayerDone part => Sys2Proof.Machine.execDrainLayerDone part s
  | .commitDrainEnd part => Sys2Proof.Machine.execCommitDrainEnd part s
  | .egressWrite part => Sys2Proof.Machine.execEgressWrite part s
  | .fenceWriteApply part => Sys2Proof.Machine.execFenceWriteApply part s
  | .hostStoreAck port => Sys2Proof.Machine.execHostStoreAck port s
  | .kvPageCopyDone cmd idx => Sys2Proof.Machine.execKvPageCopyDone cmd idx s
  | .tickCtrlWrite v => Sys2Proof.Machine.execTickCtrlWrite v s
  | .tickPeriodSetWrite v => Sys2Proof.Machine.execTickPeriodSetWrite v s
  | .partCfgEnable part v => Sys2Proof.Machine.execPartCfgEnable part v s
  | .partCfgDisable part v => Sys2Proof.Machine.execPartCfgDisable part v s
  | .partIdoonWrite part v => Sys2Proof.Machine.execPartIdoonWrite part v s
  | .gctlTileQueryWrite v => Sys2Proof.Machine.execGctlTileQueryWrite v s
  | .tileQueryResolved => Sys2Proof.Machine.execTileQueryResolved s
  | .domCtrlLeave v => Sys2Proof.Machine.execDomCtrlLeave v s
  | .domCtrlJoin v => Sys2Proof.Machine.execDomCtrlJoin v s
  | .domCtrlHandover v => Sys2Proof.Machine.execDomCtrlHandover v s
  | .lsCfgWrite v => Sys2Proof.Machine.execLsCfgWrite v s
  | .idnCtrlRetrain port v => Sys2Proof.Machine.execIdnCtrlRetrain port v s
  | .idnCtrlRelease port v => Sys2Proof.Machine.execIdnCtrlRelease port v s
  | .idnCtrlDisable port v => Sys2Proof.Machine.execIdnCtrlDisable port v s
  | .memClearStart v => Sys2Proof.Machine.execMemClearStart v s
  | .cohRangeDisable range v => Sys2Proof.Machine.execCohRangeDisable range v s
  | .hostpBiasFlipStart v => Sys2Proof.Machine.execHostpBiasFlipStart v s
  | .hostpHotplugRemove v => Sys2Proof.Machine.execHostpHotplugRemove v s
  | .hostpHotplugWakeReq v => Sys2Proof.Machine.execHostpHotplugWakeReq v s
  | .hostpPortRelease port via => Sys2Proof.Machine.execHostpPortRelease port via s
  | .hostpPortRetrain port => Sys2Proof.Machine.execHostpPortRetrain port s
  | .hostfBar4Enable fn dec v => Sys2Proof.Machine.execHostfBar4Enable fn dec v s
  | .mtCtrlReset site => Sys2Proof.Machine.execMtCtrlReset site s
  | .mtCtrlRelease site => Sys2Proof.Machine.execMtCtrlRelease site s
  | .mtCtrlQuiesce site => Sys2Proof.Machine.execMtCtrlQuiesce site s
  | .mtCtrlResume site => Sys2Proof.Machine.execMtCtrlResume site s
  | .mtAssignWrite site v => Sys2Proof.Machine.execMtAssignWrite site v s
  | .objAdminEnable queue v => Sys2Proof.Machine.execObjAdminEnable queue v s
  | .defMapoutQueue v => Sys2Proof.Machine.execDefMapoutQueue v s
  | .errqCidxWrite v => Sys2Proof.Machine.execErrqCidxWrite v s
  | .perfSelWrite k v => Sys2Proof.Machine.execPerfSelWrite k v s
  | .perfCtrlSnap v => Sys2Proof.Machine.execPerfCtrlSnap v s
  | .trcCtrlArm field v => Sys2Proof.Machine.execTrcCtrlArm field v s
  | .prbFilterEnable b router v => Sys2Proof.Machine.execPrbFilterEnable b router v s
  | .tpWrite k v => Sys2Proof.Machine.execTpWrite k v s
  | .tpLinkRetrain => Sys2Proof.Machine.execTpLinkRetrain s
  | .partBaysWrite part field v => Sys2Proof.Machine.execPartBaysWrite part field v s
  | .partMemWrite part k v => Sys2Proof.Machine.execPartMemWrite part k v s
  | .registerWrite w => Sys2Proof.Machine.execRegisterWrite w s
  | .ctxCreate cmd => Sys2Proof.Machine.execCtxCreate cmd s
  | .ctxDestroy cmd => Sys2Proof.Machine.execCtxDestroy cmd s
  | .ctxTeardownEnd ctx => Sys2Proof.Machine.execCtxTeardownEnd ctx s
  | .ctxQuery cmd => Sys2Proof.Machine.execCtxQuery cmd s
  | .ctxResume cmd => Sys2Proof.Machine.execCtxResume cmd s
  | .faultReply cmd => Sys2Proof.Machine.execFaultReply cmd s
  | .queueCreate cmd => Sys2Proof.Machine.execQueueCreate cmd s
  | .queueDestroy cmd => Sys2Proof.Machine.execQueueDestroy cmd s
  | .queueQuery cmd => Sys2Proof.Machine.execQueueQuery cmd s
  | .objTable cmd => Sys2Proof.Machine.execObjTable cmd s
  | .objCreate cmd => Sys2Proof.Machine.execObjCreate cmd s
  | .objRelease cmd => Sys2Proof.Machine.execObjRelease cmd s
  | .objQuery cmd => Sys2Proof.Machine.execObjQuery cmd s
  | .fenceCreate cmd => Sys2Proof.Machine.execFenceCreate cmd s
  | .fenceDestroy cmd => Sys2Proof.Machine.execFenceDestroy cmd s
  | .fenceQuery cmd => Sys2Proof.Machine.execFenceQuery cmd s
  | .memCopy cmd => Sys2Proof.Machine.execMemCopy cmd s
  | .memFill cmd => Sys2Proof.Machine.execMemFill cmd s
  | .moverComplete cmd host => Sys2Proof.Machine.execMoverComplete cmd host s
  | .invalidate cmd => Sys2Proof.Machine.execInvalidate cmd s
  | .invalidateDrained cmd => Sys2Proof.Machine.execInvalidateDrained cmd s
  | .pinHost cmd => Sys2Proof.Machine.execPinHost cmd s
  | .unpinHost cmd => Sys2Proof.Machine.execUnpinHost cmd s
  | .memClear cmd => Sys2Proof.Machine.execMemClear cmd s
  | .tenantClearDone => Sys2Proof.Machine.execTenantClearDone s
  | .retiredPages cmd => Sys2Proof.Machine.execRetiredPages cmd s
  | .partTick cmd => Sys2Proof.Machine.execPartTick cmd s
  | .progLoad cmd host => Sys2Proof.Machine.execProgLoad cmd host s
  | .sessSet cmd => Sys2Proof.Machine.execSessSet cmd s
  | .sessReserve cmd => Sys2Proof.Machine.execSessReserve cmd s
  | .sessReset cmd => Sys2Proof.Machine.execSessReset cmd s
  | .sessQuery cmd => Sys2Proof.Machine.execSessQuery cmd s
  | .kvMap cmd host => Sys2Proof.Machine.execKvMap cmd host s
  | .kvUnmap cmd => Sys2Proof.Machine.execKvUnmap cmd s
  | .kvPrefetch cmd host => Sys2Proof.Machine.execKvPrefetch cmd host s
  | .kvAdvise cmd host => Sys2Proof.Machine.execKvAdvise cmd host s
  | .fenceSignal cmd => Sys2Proof.Machine.execFenceSignal cmd s
  | .fenceWait cmd => Sys2Proof.Machine.execFenceWait cmd s
  | .fenceWaitTimeout cmd => Sys2Proof.Machine.execFenceWaitTimeout cmd s
  | .domJoin cmd => Sys2Proof.Machine.execDomJoin cmd s
  | .domLeave cmd => Sys2Proof.Machine.execDomLeave cmd s
  | .domHandover cmd => Sys2Proof.Machine.execDomHandover cmd s
  | .domQuery cmd => Sys2Proof.Machine.execDomQuery cmd s
  | .lsConfig cmd => Sys2Proof.Machine.execLsConfig cmd s
  | .tickPeriod cmd => Sys2Proof.Machine.execTickPeriod cmd s
  | .spdm cmd part host => Sys2Proof.Machine.execSpdm cmd part host s
  | .licenceInstall cmd host => Sys2Proof.Machine.execLicenceInstall cmd host s
  | .configInstall cmd host => Sys2Proof.Machine.execConfigInstall cmd host s
  | .ownerEnrol cmd host => Sys2Proof.Machine.execOwnerEnrol cmd host s
  | .debugAuth cmd host => Sys2Proof.Machine.execDebugAuth cmd host s
  | .lifecycleSet cmd => Sys2Proof.Machine.execLifecycleSet cmd s
  | .partSecure cmd => Sys2Proof.Machine.execPartSecure cmd s
  | .partSecureClear cmd => Sys2Proof.Machine.execPartSecureClear cmd s
  | .attestReport cmd host => Sys2Proof.Machine.execAttestReport cmd host s
  | .fwImage cmd => Sys2Proof.Machine.execFwImage cmd s
  | .fwCommit cmd => Sys2Proof.Machine.execFwCommit cmd s
  | .fwCommitReset => Sys2Proof.Machine.execFwCommitReset s
  | .resetPartition cmd => Sys2Proof.Machine.execResetPartition cmd s
  | .resetField cmd => Sys2Proof.Machine.execResetField cmd s
  | .resetHub cmd => Sys2Proof.Machine.execResetHub cmd s
  | .resetStandby cmd => Sys2Proof.Machine.execResetStandby cmd s
  | .resetDeferredTimeout => Sys2Proof.Machine.execResetDeferredTimeout s
  | .netInterfaceReady bay => Sys2Proof.Machine.execNetInterfaceReady bay s
  | .sensorRead cmd => Sys2Proof.Machine.execSensorRead cmd s
  | .errqRead cmd => Sys2Proof.Machine.execErrqRead cmd s
  | .ledgerAccept cmd host => Sys2Proof.Machine.execLedgerAccept cmd host s
  | .wake cmd => Sys2Proof.Machine.execWake cmd s
  | .strict cmd => Sys2Proof.Machine.execStrict cmd s
  | .perturbSet cmd => Sys2Proof.Machine.execPerturbSet cmd s
  | .perturbClear cmd => Sys2Proof.Machine.execPerturbClear cmd s
  | .katRun cmd => Sys2Proof.Machine.execKatRun cmd s
  | .traceRead cmd => Sys2Proof.Machine.execTraceRead cmd s
  | .idleBlock port k => Sys2Proof.Machine.execIdleBlock port k s
  | .ack port k seq => Sys2Proof.Machine.execAck port k seq s
  | .nak port k seq => Sys2Proof.Machine.execNak port k seq s
  | .credit port k vc blocks => Sys2Proof.Machine.execCredit port k vc blocks s
  | .tsync port k departure echoed hold now => Sys2Proof.Machine.execTsync port k departure echoed hold now s
  | .train port k role hub group lanes width => Sys2Proof.Machine.execTrain port k role hub group lanes width s
  | .ackTimer port => Sys2Proof.Machine.execAckTimer port s
  | .idoonRdReq a => Sys2Proof.Machine.execIdoonRdReq a s
  | .idoonRdRsp a => Sys2Proof.Machine.execIdoonRdRsp a s
  | .idoonWr a => Sys2Proof.Machine.execIdoonWr a s
  | .idoonWrAck a => Sys2Proof.Machine.execIdoonWrAck a s
  | .idoonSig a => Sys2Proof.Machine.execIdoonSig a s
  | .idoonErrRsp a => Sys2Proof.Machine.execIdoonErrRsp a s
  | .membership a m => Sys2Proof.Machine.execMembership a m s
  | .hello a h => Sys2Proof.Machine.execHello a h s
  | .helloTimer => Sys2Proof.Machine.execHelloTimer s
  | .form a f => Sys2Proof.Machine.execForm a f s
  | .formAck a epoch => Sys2Proof.Machine.execFormAck a epoch s
  | .formTimeout => Sys2Proof.Machine.execFormTimeout s
  | .join a h => Sys2Proof.Machine.execJoin a h s
  | .handover a hub terms => Sys2Proof.Machine.execHandover a hub terms s
  | .lsBdt a => Sys2Proof.Machine.execLsBdt a s
  | .lsSig a => Sys2Proof.Machine.execLsSig a s
  | .edgeMissed => Sys2Proof.Machine.execEdgeMissed s
  | .masterLoss top held => Sys2Proof.Machine.execMasterLoss top held s
  | .peerPatternSeen port lanes fast => Sys2Proof.Machine.execPeerPatternSeen port lanes fast s
  | .detectTimeout port => Sys2Proof.Machine.execDetectTimeout port s
  | .trainRetryWait port => Sys2Proof.Machine.execTrainRetryWait port s
  | .equalisationEnd port bad => Sys2Proof.Machine.execEqualisationEnd port bad s
  | .equaliseTimeout port => Sys2Proof.Machine.execEqualiseTimeout port s
  | .idoonLaneTestDone port bad => Sys2Proof.Machine.execIdoonLaneTestDone port bad s
  | .codewordLock port good => Sys2Proof.Machine.execCodewordLock port good s
  | .lockTimeout port => Sys2Proof.Machine.execLockTimeout port s
  | .measureDone port => Sys2Proof.Machine.execMeasureDone port s
  | .laneFault port lane => Sys2Proof.Machine.execLaneFault port lane s
  | .lossOfSignal port => Sys2Proof.Machine.execLossOfSignal port s
  | .qretrainDone port => Sys2Proof.Machine.execQretrainDone port s
  | .qretrainTimeout port => Sys2Proof.Machine.execQretrainTimeout port s
  | .rd a => Sys2Proof.Machine.execRd a s
  | .rdRsp a => Sys2Proof.Machine.execRdRsp a s
  | .wr a => Sys2Proof.Machine.execWr a s
  | .wrAck a => Sys2Proof.Machine.execWrAck a s
  | .netSig a => Sys2Proof.Machine.execNetSig a s
  | .errRsp a => Sys2Proof.Machine.execErrRsp a s
  | .ctrl a => Sys2Proof.Machine.execCtrl a s
  | .requestTimeout src tag => Sys2Proof.Machine.execRequestTimeout src tag s
  | .targetDeadline src tag => Sys2Proof.Machine.execTargetDeadline src tag s
  | .netCreditReturn field node port vc flits crossing => Sys2Proof.Machine.execNetCreditReturn field node port vc flits crossing s
  | .scarfQuickRetrain field crossing corrected => Sys2Proof.Machine.execScarfQuickRetrain field crossing corrected s
  | .scarfRetrainDone field bridge ok lost => Sys2Proof.Machine.execScarfRetrainDone field bridge ok lost s
  | .rdcur a upset => Sys2Proof.Machine.execRdcur a upset s
  | .rdshr a upset => Sys2Proof.Machine.execRdshr a upset s
  | .rdown a upset => Sys2Proof.Machine.execRdown a upset s
  | .wrinv a upset => Sys2Proof.Machine.execWrinv a upset s
  | .wrhint a upset => Sys2Proof.Machine.execWrhint a upset s
  | .evict a => Sys2Proof.Machine.execEvict a s
  | .wbdata a => Sys2Proof.Machine.execWbdata a s
  | .snpinv a => Sys2Proof.Machine.execSnpinv a s
  | .snpshr a => Sys2Proof.Machine.execSnpshr a s
  | .push a accept => Sys2Proof.Machine.execPush a accept s
  | .dataS a => Sys2Proof.Machine.execDataS a s
  | .dataE a => Sys2Proof.Machine.execDataE a s
  | .gntE a => Sys2Proof.Machine.execGntE a s
  | .snprsp a => Sys2Proof.Machine.execSnprsp a s
  | .cmpack a => Sys2Proof.Machine.execCmpack a s
  | .wback a => Sys2Proof.Machine.execWback a s
  | .pushrsp a ok => Sys2Proof.Machine.execPushrsp a ok s
  | .snoopHoldEnd agent line => Sys2Proof.Machine.execSnoopHoldEnd agent line s
  | .snoopTimeout line agent => Sys2Proof.Machine.execSnoopTimeout line agent s
  | .cohRangeFlushDone range => Sys2Proof.Machine.execCohRangeFlushDone range s
  | .sluiceWindow => Sys2Proof.Machine.execSluiceWindow s
  | .sluiceAgePromote r => Sys2Proof.Machine.execSluiceAgePromote r s
  | .memoryRead addr n cls who u => Sys2Proof.Machine.execMemoryRead addr n cls who u s
  | .memoryWrite addr writer data u => Sys2Proof.Machine.execMemoryWrite addr writer data u s
  | .wcEvictTimeout ctl u => Sys2Proof.Machine.execWcEvictTimeout ctl u s
  | .correctedWriteback w => Sys2Proof.Machine.execCorrectedWriteback w s
  | .memcRetrain c => Sys2Proof.Machine.execMemcRetrain c s
  | .memcRetrainDone c rate => Sys2Proof.Machine.execMemcRetrainDone c rate s
  | .scrubRead sector u => Sys2Proof.Machine.execScrubRead sector u s
  | .rowRepair ctl => Sys2Proof.Machine.execRowRepair ctl s
  | .mtnPwrgdHigh site => Sys2Proof.Machine.execMtnPwrgdHigh site s
  | .sitePowerTimeout site => Sys2Proof.Machine.execSitePowerTimeout site s
  | .siteResetTimer site => Sys2Proof.Machine.execSiteResetTimer site s
  | .sidebandReady site ms => Sys2Proof.Machine.execSidebandReady site ms s
  | .siteBootTimeout site => Sys2Proof.Machine.execSiteBootTimeout site s
  | .descReadReply site tag status bytes => Sys2Proof.Machine.execDescReadReply site tag status bytes s
  | .spdmReply site tag status bytes => Sys2Proof.Machine.execSpdmReply site tag status bytes s
  | .attestationEnd site signed root measured => Sys2Proof.Machine.execAttestationEnd site signed root measured s
  | .assignReply site tag status => Sys2Proof.Machine.execAssignReply site tag status s
  | .moduleSbinitDone site module => Sys2Proof.Machine.execModuleSbinitDone site module s
  | .moduleLaneTestDone site module good repaired => Sys2Proof.Machine.execModuleLaneTestDone site module good repaired s
  | .moduleMbtrainDone site module => Sys2Proof.Machine.execModuleMbtrainDone site module s
  | .moduleLinkinitDone site module => Sys2Proof.Machine.execModuleLinkinitDone site module s
  | .widthReply site tag status widths => Sys2Proof.Machine.execWidthReply site tag status widths s
  | .moduleTrainTimeout site module => Sys2Proof.Machine.execModuleTrainTimeout site module s
  | .moduleRetryLimit site module retries => Sys2Proof.Machine.execModuleRetryLimit site module retries s
  | .phyretrainDone site module good repaired => Sys2Proof.Machine.execPhyretrainDone site module good repaired s
  | .phyretrainTimeout site module => Sys2Proof.Machine.execPhyretrainTimeout site module s
  | .throttleReply site tag status => Sys2Proof.Machine.execThrottleReply site tag status s
  | .throttleDeadline site => Sys2Proof.Machine.execThrottleDeadline site s
  | .quiesced site tag status => Sys2Proof.Machine.execQuiesced site tag status s
  | .resumeReply site tag status => Sys2Proof.Machine.execResumeReply site tag status s
  | .cleared site tag status => Sys2Proof.Machine.execCleared site tag status s
  | .shutdownReply site tag status => Sys2Proof.Machine.execShutdownReply site tag status s
  | .siteMessageTimeout site op => Sys2Proof.Machine.execSiteMessageTimeout site op s
  | .telemetry site mw temp => Sys2Proof.Machine.execTelemetry site mw temp s
  | .telemetryTimeout site => Sys2Proof.Machine.execTelemetryTimeout site s
  | .event site code => Sys2Proof.Machine.execEvent site code s
  | .fatal site code => Sys2Proof.Machine.execFatal site code s
  | .thermAlert site => Sys2Proof.Machine.execThermAlert site s
  | .rawPacket site module ty vc crcOk ovr p => Sys2Proof.Machine.execRawPacket site module ty vc crcOk ovr p s
  | .rawCredit site module vc1 vc3 => Sys2Proof.Machine.execRawCredit site module vc1 vc3 s
  | .cxlIoRequest site tag write span data msi upset => Sys2Proof.Machine.execCxlIoRequest site tag write span data msi upset s
  | .rdcurr site tag addr upset => Sys2Proof.Machine.execRdcurr site tag addr upset s
  | .rdshared site tag addr upset => Sys2Proof.Machine.execRdshared site tag addr upset s
  | .rdownD2h site tag addr noData upset => Sys2Proof.Machine.execRdownD2h site tag addr noData upset s
  | .cleanevict site tag addr => Sys2Proof.Machine.execCleanevict site tag addr s
  | .dirtyevict site tag addr data => Sys2Proof.Machine.execDirtyevict site tag addr data s
  | .itomwr site tag addr data upset => Sys2Proof.Machine.execItomwr site tag addr data upset s
  | .cxlSnoopResponse site line data poison => Sys2Proof.Machine.execCxlSnoopResponse site line data poison s
  | .goFlitAck agent line => Sys2Proof.Machine.execGoFlitAck agent line s
  | .configRequest port fn off tag write n data => Sys2Proof.Machine.execConfigRequest port fn off tag write n data s
  | .bar4Access port fn off tag write ide n data => Sys2Proof.Machine.execBar4Access port fn off tag write ide n data s
  | .memrd port tag addr kind upset => Sys2Proof.Machine.execMemrd port tag addr kind upset s
  | .meminv port tag addr upset => Sys2Proof.Machine.execMeminv port tag addr upset s
  | .memwr port tag addr data upset => Sys2Proof.Machine.execMemwr port tag addr data upset s
  | .memwrptl port tag addr data mask upset => Sys2Proof.Machine.execMemwrptl port tag addr data mask upset s
  | .birsp port line data => Sys2Proof.Machine.execBirsp port line data s
  | .hostSnoop port addr inval => Sys2Proof.Machine.execHostSnoop port addr inval s
  | .atsTranslationCompletion part page log2 dest write => Sys2Proof.Machine.execAtsTranslationCompletion part page log2 dest write s
  | .atsInvalidateRequest port fn page log2 itag => Sys2Proof.Machine.execAtsInvalidateRequest port fn page log2 itag s
  | .atsInvalidateDrained port itag => Sys2Proof.Machine.execAtsInvalidateDrained port itag s
  | .hubReadCompletion port part n ep => Sys2Proof.Machine.execHubReadCompletion port part n ep s
  | .completionTimeout port part => Sys2Proof.Machine.execCompletionTimeout port part s
  | .dlActiveLoss port surprise => Sys2Proof.Machine.execDlActiveLoss port surprise s
  | .dlActiveUp port rate width flit cxl => Sys2Proof.Machine.execDlActiveUp port rate width flit cxl s
  | .l0sEntry port => Sys2Proof.Machine.execL0sEntry port s
  | .l1Entry port => Sys2Proof.Machine.execL1Entry port s
  | .l1EarlyExit port => Sys2Proof.Machine.execL1EarlyExit port s
  | .perstDeassert port => Sys2Proof.Machine.execPerstDeassert port s
  | .fundamentalReset port kind => Sys2Proof.Machine.execFundamentalReset port kind s
  | .functionLevelReset port fn => Sys2Proof.Machine.execFunctionLevelReset port fn s
  | .d3hotEntry port fn => Sys2Proof.Machine.execD3hotEntry port fn s
  | .d0Return port fn => Sys2Proof.Machine.execD0Return port fn s
  | .d3coldEntry => Sys2Proof.Machine.execD3coldEntry s
  | .hpaButtonPress => Sys2Proof.Machine.execHpaButtonPress s
  | .hostLinkLost => Sys2Proof.Machine.execHostLinkLost s
  | .irqCoalesceTimer queue => Sys2Proof.Machine.execIrqCoalesceTimer queue s
  | .getVersion ch part msg => Sys2Proof.Machine.execGetVersion ch part msg s
  | .getCapabilities ch part msg => Sys2Proof.Machine.execGetCapabilities ch part msg s
  | .negotiateAlgorithms ch part msg => Sys2Proof.Machine.execNegotiateAlgorithms ch part msg s
  | .getDigests ch part msg => Sys2Proof.Machine.execGetDigests ch part msg s
  | .getCertificate ch part msg => Sys2Proof.Machine.execGetCertificate ch part msg s
  | .challenge ch part msg => Sys2Proof.Machine.execChallenge ch part msg s
  | .getMeasurements ch part msg => Sys2Proof.Machine.execGetMeasurements ch part msg s
  | .keyExchange ch part msg => Sys2Proof.Machine.execKeyExchange ch part msg s
  | .finish ch part msg => Sys2Proof.Machine.execFinish ch part msg s
  | .heartbeat ch part msg => Sys2Proof.Machine.execHeartbeat ch part msg s
  | .keyUpdate ch part msg => Sys2Proof.Machine.execKeyUpdate ch part msg s
  | .endSession ch part msg => Sys2Proof.Machine.execEndSession ch part msg s
  | .measureObject ch part ctx obj off len host => Sys2Proof.Machine.execMeasureObject ch part ctx obj off len host s
  | .ideKm fn kind sub => Sys2Proof.Machine.execIdeKm fn kind sub s
  | .lockInterfaceRequest fn => Sys2Proof.Machine.execLockInterfaceRequest fn s
  | .startInterfaceRequest fn => Sys2Proof.Machine.execStartInterfaceRequest fn s
  | .stopInterfaceRequest fn => Sys2Proof.Machine.execStopInterfaceRequest fn s
  | .nonceExpiry => Sys2Proof.Machine.execNonceExpiry s
  | .debugAuthExpiry => Sys2Proof.Machine.execDebugAuthExpiry s
  | .stbyPwrgdRise strap => Sys2Proof.Machine.execStbyPwrgdRise strap s
  | .stbyPwrgdFall => Sys2Proof.Machine.execStbyPwrgdFall s
  | .bringupStepComplete env => Sys2Proof.Machine.execBringupStepComplete env s
  | .mainPwrgdRise strap => Sys2Proof.Machine.execMainPwrgdRise strap s
  | .mainPwrgdFall => Sys2Proof.Machine.execMainPwrgdFall s
  | .mainFailRestart => Sys2Proof.Machine.execMainFailRestart s
  | .sysRstN => Sys2Proof.Machine.execSysRstN s
  | .repairRoundEnd reports => Sys2Proof.Machine.execRepairRoundEnd reports s
  | .entdaa da => Sys2Proof.Machine.execEntdaa da s
  | .setEndpointId eid => Sys2Proof.Machine.execSetEndpointId eid s
  | .getEndpointId => Sys2Proof.Machine.execGetEndpointId s
  | .getMctpVersionSupport ty => Sys2Proof.Machine.execGetMctpVersionSupport ty s
  | .getMessageTypeSupport => Sys2Proof.Machine.execGetMessageTypeSupport s
  | .getVendorDefinedMessageSupport sel => Sys2Proof.Machine.execGetVendorDefinedMessageSupport sel s
  | .grisetMctpRequest tag bytes => Sys2Proof.Machine.execGrisetMctpRequest tag bytes s
  | .gettid => Sys2Proof.Machine.execGettid s
  | .getpldmversion ty => Sys2Proof.Machine.execGetpldmversion ty s
  | .getpldmtypes => Sys2Proof.Machine.execGetpldmtypes s
  | .getpldmcommands ty => Sys2Proof.Machine.execGetpldmcommands ty s
  | .getpdrrepositoryinfo => Sys2Proof.Machine.execGetpdrrepositoryinfo s
  | .getpdr handle => Sys2Proof.Machine.execGetpdr handle s
  | .getsensorreading sensor => Sys2Proof.Machine.execGetsensorreading sensor s
  | .getstatesensorreadings => Sys2Proof.Machine.execGetstatesensorreadings s
  | .seteventreceiver eid => Sys2Proof.Machine.execSeteventreceiver eid s
  | .errorLogAppend => Sys2Proof.Machine.execErrorLogAppend s
  | .thermalSample temps => Sys2Proof.Machine.execThermalSample temps s
  | .vcoreAdjust field up => Sys2Proof.Machine.execVcoreAdjust field up s
  | .vcoreSettled field => Sys2Proof.Machine.execVcoreSettled field s
  | .sysRstNRelease => Sys2Proof.Machine.execSysRstNRelease s
  | .otpProgramDone ok => Sys2Proof.Machine.execOtpProgramDone ok s
  | .flashWriteDone area => Sys2Proof.Machine.execFlashWriteDone area s
  | .cxlMemResponse site tag status data poison => Sys2Proof.Machine.execCxlMemResponse site tag status data poison s

end Sys2Proof.Machine
end

