-- ==== Sys2Proof/Safety.lean ====
section
/-! DEFINITION. Safety.lean: the terms the statements use: what a run keeps, when a tile issues an instruction, and what a
command leaves alone. -/
namespace Sys2Proof.Machine

/-- Both memories, the hub's device memory and the tile stores, are in canonical form. -/
def State.memOk (s : State) : Prop := Mem.wf s.mem = true ∧ Mem.wf s.store = true

/-- A tile issues a listed instruction to a unit with nothing disturbing it: it executes its tick, is not stalled, ended or
stopped, the unit's queue has room (R69, R74, R101), its code's line is good (R100), and neither an upset nor an injection falls on it. -/
structure Issues (o : TileOp) (u : TUnit) (s : State) : Prop where
  can : canIssue s o.tile u = true
  noInjection : injectedUpset s o.tile u = none
  noUpset : o.upset = none
  listed : o.reserved = none
  code : (tileGet s o.tile).badLines.contains (fetchLine s o.tile) = false

/-- Of the whole state only tile `k`, its TILE_STATUS.PC and its TILE_VFLAGS.FLAGS changed: what an instruction that works on a
tile's registers may touch. -/
structure OnlyTile (k : Nat) (s t : State) : Prop where
  rest : t = { s with regs := t.regs, tiles := t.tiles }
  others : ∀ j, j ≠ k → tileGet t j = tileGet s j
  registers : ∀ r i, i < 65536 → ¬ (i = k ∧ (r = .tileStatus ∨ r = .tileVflags)) → rget t r i = rget s r i
  status : ∀ f : Fld, f.reg = .tileStatus → f.lo + f.w ≤ 64 →
    f.lo + f.w ≤ F.tileStatus_pc.lo ∨ F.tileStatus_pc.lo + F.tileStatus_pc.w ≤ f.lo → fget t f k = fget s f k
  flags : ∀ f : Fld, f.reg = .tileVflags → f.lo + f.w ≤ 64 →
    f.lo + f.w ≤ F.tileVflags_flags.lo ∨ F.tileVflags_flags.lo + F.tileVflags_flags.w ≤ f.lo → fget t f k = fget s f k

/-- A Griset command starts: command `id` is the waiting command `c` of opcode `op`, its turn has come (R473), and it passes
the checks that every command meets (R472, R475, R476, R485, R521, R562). -/
structure Starts (op id : Nat) (c : Cmd) (s : State) : Prop where
  found : s.cmds.find? (·.id == id) = some c
  opcode : c.pkt.opcode = op
  waits : c.step = .waiting
  turn : startable s c = true
  passes : precheck s c = none

/-- Command `id` is the command `c`, fetched and not completed. -/
def State.Holds (s : State) (id : Nat) (c : Cmd) : Prop := s.cmds.find? (·.id == id) = some c

/-- A packet that arrives on an Idoon port is taken: the port is ACTIVE, both CRCs hold, no uncorrectable codeword overlaps
it, its SEQ is the one expected and its epoch is the current one (R225, R228, R232). -/
structure Taken (a : IdnArr) (s : State) : Prop where
  active : idnActive s a.port = true
  clean : a.uncorr = false
  correctable : a.words.any wordBad = false
  crc : a.lcrcOk = true
  inOrder : a.seq = (idnGet s a.port).rxSeq
  endToEnd : a.ecrcOk = true
  sound : a.pkt.ecrc = none
  epoch : a.pkt.epoch = epochByte s

/-- What the link layer does as a packet is taken: its bytes and corrected symbols are counted, the next SEQ is expected, an ACK is owed, and its buffer
space is returned (R228, R234, R269). -/
def linkTaken (a : IdnArr) (s : State) : State :=
  sendBlock a.port 0x03 [pktVc a.pkt, pktBlocks a.pkt]
    (idnSet a.port { idnGet s a.port with rxSeq := ((idnGet s a.port).rxSeq + 1) % 4096, ackOwed := true }
      (codewords a.port a.words (fwrap F.idnRxbytes_count F.idnRxbytes_ovf a.port (32 * pktBlocks a.pkt) s)))

/-- A hub-network packet's journey along a way as its routers leave it: counted by their probes, with its credits spent (R325,
R343). -/
def journeyed (ty : Nat) (a : NetArr) (way : List NetHop) (s : State) : State :=
  spendCredits ((netVc ty).getD 0) a.pkt way (leaveRouters ty a way s)

/-- A hub-network packet reaches its destination by the way of R316 and R317: its type is defined, every hop holds credits for it and no
crossing of it retrains, no word on the way is uncorrectable or injected, its CRC holds, and it is not for a bay in reset (R314, R318,
R319, R322, R324, R325). -/
structure Reaches (ty : Nat) (a : NetArr) (way : List NetHop) (s : State) : Prop where
  defined : a.pkt.badType = none
  routed : route s a.pkt.src a.pkt.dst a.pkt.addr = some way
  moves : canMove s ((netVc ty).getD 0) a.pkt way = true
  noInjection : flitInjected s way
    (match netWho a.pkt with | some q => tickOf s q | none => fget s F.tickCounter_count 0) = none
  noBadWord : a.badWord = none
  crc : a.crcOk = true
  outOfReset : dstInReset (journeyed ty a way s) a.pkt = false

/-- What a read of a sector counts where its interface shows at most eight errors (R284, R296, R309). -/
def sectorRead (sector : Nat) (u : MemUpset) (s : State) : State :=
  let c := ctlOf (sector * 512)
  let s := refreshReport c u s
  countRead c (if u.errors = 0 then s else fbump F.memcRetryCount_count (ctlReg c) u.errors s)

/-- A site's sideband is ready and its request `m` of an opcode, under a TAG, is outstanding (R363, R364). -/
structure Awaits (site op tag : Nat) (m : SiteMsg) (s : State) : Prop where
  up : sideUp s site = true
  asked : (siteGet s site).msgs.find? (fun m => m.op == op && m.tag == tag) = some m

/-- A site's request of an opcode, under a TAG, is no longer outstanding. -/
def answered (site op tag : Nat) (s : State) : State :=
  siteMod site (fun v => { v with msgs := v.msgs.filter (fun x => !(x.op == op && x.tag == tag)) }) s

end Sys2Proof.Machine
end

