-- ==== Sys2Proof/Certificates/Slice0/Obligations.lean ====
section
/-! DEFINITION. Certificates/Slice0/Obligations.lean: what is claimed of the model. -/

namespace Sys2Proof.Machine

/-! ### Tables of the rows that share a shape -/

/-- The scalar operations of R116 and what they compute on two 64-bit words (R121). -/
def scalarRows : List ((TileOp → Instr) × (Word → Word → Word)) :=
  [(.xadd, fun a b => a + b), (.xsub, fun a b => a - b), (.xmul, fun a b => a * b), (.xand, fun a b => a &&& b),
   (.xor, fun a b => a ||| b), (.xxor, fun a b => a ^^^ b), (.xshl, fun a b => a <<< (b.toNat % 64)),
   (.xshr, fun a b => a >>> (b.toNat % 64)), (.xsra, fun a b => a.sshiftRight (b.toNat % 64)),
   (.xslt, fun a b => if a.slt b then 1 else 0), (.xsltu, fun a b => if a.ult b then 1 else 0),
   (.xseq, fun a b => if a = b then 1 else 0), (.xmin, fun a b => if a.slt b then a else b),
   (.xmax, fun a b => if a.slt b then b else a), (.xminu, fun a b => if a.ult b then a else b),
   (.xmaxu, fun a b => if a.ult b then b else a)]

/-- The two-source floating operations: what they compute on two encodings of the element type (R116, R118, R119). -/
def floatRows : List ((TileOp → Instr) × (EType → Nat → Nat → FRes)) :=
  [(.vfadd, fun t a b => faddV t.fmt (decodeF t.fmt a) (decodeF t.fmt b)),
   (.vfsub, fun t a b => faddV t.fmt (decodeF t.fmt a) (decodeF t.fmt b).neg),
   (.vfmul, fun t a b => fmulV t.fmt (decodeF t.fmt a) (decodeF t.fmt b)),
   (.vfmin, fun t a b => FRes.plain (fminBits t.fmt a b)),
   (.vfmax, fun t a b => FRes.plain (fmaxBits t.fmt a b))]

/-- The two-source integer operations: what they compute on two elements (R116, R121). -/
def intRows : List ((TileOp → Instr) × (EType → Nat → Nat → FRes)) :=
  [(.vadd, fun t a b => iwrap t (sval t a + sval t b)), (.vsub, fun t a b => iwrap t (sval t a - sval t b)),
   (.vmul, fun t a b => iwrap t (sval t a * sval t b)), (.vmin, fun t a b => iwrap t (min (sval t a) (sval t b))),
   (.vmax, fun t a b => iwrap t (max (sval t a) (sval t b))), (.vadds, fun t a b => isat t (sval t a + sval t b)),
   (.vsubs, fun t a b => isat t (sval t a - sval t b)), (.vshl, vshift true false), (.vshr, vshift false false),
   (.vsra, vshift false true)]

/-- The bitwise operations, for any element type (R116). -/
def bitRows : List ((TileOp → Instr) × (Nat → Nat → Nat)) :=
  [(.vand, fun a b => a &&& b), (.vor, fun a b => a ||| b), (.vxor, fun a b => a ^^^ b)]

/-- The one-source operations, which types they take and what they compute (R116, R118, R122, R124, R125). -/
def unaryRows : List ((TileOp → Instr) × (EType → Bool) × (EType → Nat → FRes)) :=
  [(.vfabs, floatType, fun t a => FRes.plain (a % t.fmt.signBit)),
   (.vfneg, floatType, fun t a => FRes.plain ((a + t.fmt.signBit) % (2 * t.fmt.signBit))),
   (.vnot, anyType, fun t a => FRes.plain (2 ^ t.bits - 1 - a)), (.vmov, anyType, fun _ a => FRes.plain a),
   (.vexp2, floatType, fun t a => exp2V t.fmt (decodeF t.fmt a)), (.vlog2, floatType, fun t a => log2V t.fmt (decodeF t.fmt a)),
   (.vrcp, floatType, fun t a => rcpV t.fmt (decodeF t.fmt a)), (.vrsqrt, floatType, fun t a => rsqrtV t.fmt (decodeF t.fmt a)),
   (.vtanh, floatType, via32 tanh32), (.vsigm, floatType, via32 sigm32)]

/-- The three-source operations (R116, R119). -/
def fusedRows : List ((TileOp → Instr) × (EType → Nat → Nat → Nat → FRes)) :=
  [(.vfma, fun t a b c => fmaV t.fmt (decodeF t.fmt a) (decodeF t.fmt b) (decodeF t.fmt c)),
   (.vfms, fun t a b c => fmaV t.fmt (decodeF t.fmt a) (decodeF t.fmt b) (decodeF t.fmt c).neg),
   (.vfnma, fun t a b c => fmaV t.fmt (decodeF t.fmt a).neg (decodeF t.fmt b) (decodeF t.fmt c))]

/-- The compares and what they answer for two elements (R116, R120). -/
def compareRows : List ((TileOp → Instr) × (EType → Nat → Nat → Bool)) :=
  [(.vcmpeq, fun t a b => veq t a b), (.vcmpne, fun t a b => !veq t a b), (.vcmplt, fun t a b => vlt t a b),
   (.vcmple, fun t a b => vlt t a b || veq t a b), (.vcmpgt, fun t a b => vlt t b a),
   (.vcmpge, fun t a b => vlt t b a || veq t a b)]

/-- The two-source predicate operations (R111, R116). -/
def predRows : List ((TileOp → Instr) × (Bool → Bool → Bool)) :=
  [(.pand, fun a b => a && b), (.por, fun a b => a || b), (.pxor, fun a b => a != b)]

/-- The fills: an element from the word of X register B and the element's number (R116). -/
def fillRows : List ((TileOp → Instr) × (EType → Bool) × (EType → Nat → Nat → Nat)) :=
  [(.vbcast, anyType, fun t x _ => x % 2 ^ t.bits), (.viota, intType, fun t x e => (x + e) % 2 ^ t.bits)]

/-- The full reductions: what they put into X register C, and the flags they raise (R126, R127). -/
def reduceRows : List ((TileOp → Instr) × (EType → Bool) × (EType → FmtV → Tile → Nat × Nat)) :=
  [(.vrsumf, (· == .f32), fun _ f τ => treeAdd (List.zipWith (fun a v => if a then v else 0) (actives τ f) (telems τ f.a 4 f.n))),
   (.vrmaxf, floatType, fun t f τ => (fextreme t.fmt true ((activeElems τ f t.bytes).map (·.2)), 0)),
   (.vrminf, floatType, fun t f τ => (fextreme t.fmt false ((activeElems τ f t.bytes).map (·.2)), 0)),
   (.vrsumi, intType, fun t f τ => (wrapTo 64 (((activeElems τ f t.bytes).map fun p => sval t p.2).foldl (· + ·) 0), 0)),
   (.vrmaxi, intType, fun t f τ =>
     (wrapTo 64 (((activeElems τ f t.bytes).map fun p => sval t p.2).foldl max (-(2 ^ (t.bits - 1) : Nat))), 0)),
   (.vrmini, intType, fun t f τ =>
     (wrapTo 64 (((activeElems τ f t.bytes).map fun p => sval t p.2).foldl min ((2 ^ (t.bits - 1) : Nat) - 1)), 0)),
   (.vramaxf, floatType, fun t f τ => ((fargmax t.fmt (activeElems τ f t.bytes)).getD (f.cnt + 1), 0))]

/-- The row reductions: what a row of 32 elements, each with whether it is active, gives (R621). -/
def rowRows : List ((TileOp → Instr) × (List (Bool × Nat) → Nat × Nat)) :=
  [(.vrrmaxf, fun l => (fextreme fp32 true ((rowActive l).map (·.2)), 0)),
   (.vrrsumf, fun l => treeAdd (l.map fun p => if p.1 then p.2 else 0)),
   (.vrramaxf, fun l => ((fargmax fp32 (rowActive l)).getD 32, 0))]

end Sys2Proof.Machine

open Sys2Proof Sys2Proof.Machine

/-! ### The tile's scalar and vector instructions -/

/-- XADD, XSUB, XMUL, XAND, XOR, XXOR, XSHL, XSHR, XSRA, XSLT, XSLTU, XSEQ, XMIN, XMAX, XMINU and XMAXU complete: XD takes
the operation's 64-bit result of XA and the second source, which is XB or the sign-extended immediate, the program
counter moves to the next word, and nothing else of the machine changes (R116, R121). -/
def Obligations.ScalarOperationsGiveTheirResult : Prop :=
  ∀ row ∈ scalarRows, ∀ (o : TileOp) (s : State), Issues o .vector s → vxOk (fmtVX o.w) = true →
    exec (row.1 o) s = .next (pcNext o.tile (xset o.tile (fmtVX o.w).xd
      (row.2 (xget s o.tile (fmtVX o.w).xa)
        (if (fmtVX o.w).i then BitVec.ofInt 64 (sx 32 (fmtVX o.w).imm) else xget s o.tile (fmtVX o.w).xb)) s))

/-- VFADD, VFSUB, VFMUL, VFMIN, VFMAX, VFSCALE, VADD, VSUB, VMUL, VMIN, VMAX, VADDS, VSUBS, VSHL, VSHR, VSRA, VAND, VOR and
VXOR complete: the destination takes the operation's result on the elements of A and of the second source under the
predicate, its flags are raised, and the program counter moves on (R108 to R110, R115 to R121). -/
def Obligations.TwoSourceVectorOperationsComplete : Prop :=
  ∀ (o : TileOp) (s : State) (t : EType), Issues o .vector s →
    vfieldsOk (fmtV o.w) { d := true, a := true, b := true, sb := true } = true → etypeOf (fmtV o.w).ety = some t →
    (spansOk false [spanOf (fmtV o.w).d (fmtV o.w).n t.bytes]
        (spanOf (fmtV o.w).a (fmtV o.w).n t.bytes :: bSpan (fmtV o.w) t.bytes) = true →
      let result := fun (fn : Nat → Nat → FRes) => pcNext o.tile (vResult o (fmtV o.w) t.bytes
        (List.zipWith fn (telems (tileGet s o.tile) (fmtV o.w).a t.bytes (fmtV o.w).n)
          (bElems (tileGet s o.tile) (fmtV o.w) t.bytes)) s)
      (∀ row ∈ floatRows, t.isFloat = true → exec (row.1 o) s = .next (result (row.2 t)))
      ∧ (∀ row ∈ intRows, t.isFloat = false → exec (row.1 o) s = .next (result (row.2 t)))
      ∧ (∀ row ∈ bitRows, exec (row.1 o) s = .next (result fun a b => FRes.plain (row.2 a b))))
    ∧ (spansOk false [spanOf (fmtV o.w).d (fmtV o.w).n t.bytes]
        (spanOf (fmtV o.w).a (fmtV o.w).n t.bytes :: bSpan (fmtV o.w) 4) = true → t.isFloat = true →
      exec (.vfscale o) s = .next (pcNext o.tile (vResult o (fmtV o.w) t.bytes
        (List.zipWith (fscale t) (telems (tileGet s o.tile) (fmtV o.w).a t.bytes (fmtV o.w).n)
          (bElems (tileGet s o.tile) (fmtV o.w) 4)) s)))

/-- VFABS, VFNEG, VNOT, VMOV, VEXP2, VLOG2, VRCP, VRSQRT, VTANH, VSIGM, VCVT, VEXPQ, VFMA, VFMS, VFNMA, VBCAST and VIOTA
complete with their results under the predicate (R116, R118, R119, R122, R124, R125, R128). -/
def Obligations.OneAndThreeSourceVectorOperationsComplete : Prop :=
  ∀ (o : TileOp) (s : State) (t : EType), Issues o .vector s → etypeOf (fmtV o.w).ety = some t →
    (∀ row ∈ unaryRows, row.2.1 t = true → vfieldsOk (fmtV o.w) { d := true, a := true } = true →
      spansOk false [spanOf (fmtV o.w).d (fmtV o.w).n t.bytes] [spanOf (fmtV o.w).a (fmtV o.w).n t.bytes] = true →
      exec (row.1 o) s = .next (pcNext o.tile (vResult o (fmtV o.w) t.bytes
        ((telems (tileGet s o.tile) (fmtV o.w).a t.bytes (fmtV o.w).n).map (row.2.2 t)) s)))
    ∧ (∀ u : EType, etypeOf (fmtV o.w).aux = some u → vfieldsOk (fmtV o.w) { d := true, a := true, aux := true } = true →
      spansOk false [spanOf (fmtV o.w).d (fmtV o.w).n t.bytes] [spanOf (fmtV o.w).a (fmtV o.w).n u.bytes] = true →
      exec (.vcvt o) s = .next (pcNext o.tile (vResult o (fmtV o.w) t.bytes
        ((telems (tileGet s o.tile) (fmtV o.w).a u.bytes (fmtV o.w).n).map (convertElem u t)) s)))
    ∧ (t = .f32 → vfieldsOk (fmtV o.w) { d := true, a := true, b := true } = true →
      spansOk false [spanOf (fmtV o.w).d (fmtV o.w).n 4] [spanOf (fmtV o.w).a (fmtV o.w).n 4] = true →
      exec (.vexpq o) s = .next (pcNext o.tile (vResult o (fmtV o.w) 4
        ((telems (tileGet s o.tile) (fmtV o.w).a 4 (fmtV o.w).n).map fun a =>
          expqV (decodeF fp32 a) (decodeF fp32 (tx (tileGet s o.tile) (fmtV o.w).b % 2 ^ 32))) s)))
    ∧ (∀ row ∈ fusedRows, t.isFloat = true →
      vfieldsOk (fmtV o.w) { d := true, a := true, b := true, c := true, sb := true } = true →
      spansOk false [spanOf (fmtV o.w).d (fmtV o.w).n t.bytes]
        ([spanOf (fmtV o.w).a (fmtV o.w).n t.bytes, spanOf (fmtV o.w).c (fmtV o.w).n t.bytes] ++ bSpan (fmtV o.w) t.bytes) = true →
      exec (row.1 o) s = .next (pcNext o.tile (vResult o (fmtV o.w) t.bytes
        (List.zipWith (fun p c => row.2 t p.1 p.2 c)
          (List.zip (telems (tileGet s o.tile) (fmtV o.w).a t.bytes (fmtV o.w).n) (bElems (tileGet s o.tile) (fmtV o.w) t.bytes))
          (telems (tileGet s o.tile) (fmtV o.w).c t.bytes (fmtV o.w).n)) s)))
    ∧ (∀ row ∈ fillRows, row.2.1 t = true → vfieldsOk (fmtV o.w) { d := true, b := true } = true →
      spansOk false [spanOf (fmtV o.w).d (fmtV o.w).n t.bytes] [] = true →
      exec (row.1 o) s = .next (pcNext o.tile (vResult o (fmtV o.w) t.bytes
        ((List.range (fmtV o.w).n).map fun e => FRes.plain (row.2.2 t (tx (tileGet s o.tile) (fmtV o.w).b) e)) s)))

/-- VCMPEQ, VCMPNE, VCMPLT, VCMPLE, VCMPGT, VCMPGE, VCMPSPC, PAND, POR, PXOR, PNOT, PSET, PCNT and PFIRST complete: the
predicate destination, or for PCNT and PFIRST the X register, takes the result (R110, R111, R116, R120). -/
def Obligations.ComparesAndPredicatesComplete : Prop :=
  ∀ (o : TileOp) (s : State), Issues o .vector s →
    (∀ t : EType, etypeOf (fmtV o.w).ety = some t → (fmtV o.w).d < 8 →
      (∀ row ∈ compareRows, vfieldsOk (fmtV o.w) { d := true, a := true, b := true, sb := true } = true →
        spansOk false [] (spanOf (fmtV o.w).a (fmtV o.w).n t.bytes :: bSpan (fmtV o.w) t.bytes) = true →
        exec (row.1 o) s = .next (pcNext o.tile (tileSet o.tile (pputs (fmtV o.w).d
          (List.zipWith (fun a b => if a then some b else if (fmtV o.w).zm then some false else none)
            (actives (tileGet s o.tile) (fmtV o.w))
            (List.zipWith (row.2 t) (telems (tileGet s o.tile) (fmtV o.w).a t.bytes (fmtV o.w).n)
              (bElems (tileGet s o.tile) (fmtV o.w) t.bytes))) (tileGet s o.tile)) s)))
      ∧ (vfieldsOk (fmtV o.w) { d := true, a := true } = true → t.isFloat = true →
        spansOk false [] [spanOf (fmtV o.w).a (fmtV o.w).n t.bytes] = true →
        exec (.vcmpspc o) s = .next (pcNext o.tile (tileSet o.tile (pputs (fmtV o.w).d
          (List.zipWith (fun a v => if a then some (decodeF t.fmt v).isSpecial else if (fmtV o.w).zm then some false else none)
            (actives (tileGet s o.tile) (fmtV o.w)) (telems (tileGet s o.tile) (fmtV o.w).a t.bytes (fmtV o.w).n))
          (tileGet s o.tile)) s))))
    ∧ ((fmtVP o.w).zero = 0 →
      (∀ row ∈ predRows, (fmtVP o.w).xr = 0 →
        exec (row.1 o) s = .next (pcNext o.tile (tileSet o.tile (pputs (fmtVP o.w).pd
          ((List.range ((fmtVP o.w).cnt + 1)).map fun e =>
            some (row.2 (pbit (tileGet s o.tile) (fmtVP o.w).pa e) (pbit (tileGet s o.tile) (fmtVP o.w).pb e)))
          (tileGet s o.tile)) s)))
      ∧ ((fmtVP o.w).xr = 0 → (fmtVP o.w).pb = 0 →
        exec (.pnot o) s = .next (pcNext o.tile (tileSet o.tile (pputs (fmtVP o.w).pd
          ((List.range ((fmtVP o.w).cnt + 1)).map fun e => some (!pbit (tileGet s o.tile) (fmtVP o.w).pa e))
          (tileGet s o.tile)) s)))
      ∧ ((fmtVP o.w).pa = 0 → (fmtVP o.w).pb = 0 →
        exec (.pset o) s = .next (pcNext o.tile (tileSet o.tile (pputs (fmtVP o.w).pd
          ((List.range ((fmtVP o.w).cnt + 1)).map fun e => some (decide (e < tx (tileGet s o.tile) (fmtVP o.w).xr)))
          (tileGet s o.tile)) s)))
      ∧ ((fmtVP o.w).pd = 0 → (fmtVP o.w).pb = 0 →
        exec (.pcnt o) s = .next (pcNext o.tile (tileSet o.tile (txSet (fmtVP o.w).xr
          (predBits (tileGet s o.tile) (fmtVP o.w)).length (tileGet s o.tile)) s))
        ∧ exec (.pfirst o) s = .next (pcNext o.tile (tileSet o.tile (txSet (fmtVP o.w).xr
          ((predBits (tileGet s o.tile) (fmtVP o.w)).headD ((fmtVP o.w).cnt + 1)) (tileGet s o.tile)) s))))

/-- VRSUMF, VRMAXF, VRMINF, VRSUMI, VRMAXI, VRMINI, VRAMAXF, VRRMAXF, VRRSUMF and VRRAMAXF complete: X register C, or
for the row reductions one element for each row of 32, takes the reduction's result (R126, R127, R621). -/
def Obligations.ReductionsComplete : Prop :=
  ∀ (o : TileOp) (s : State), Issues o .vector s →
    (∀ row ∈ reduceRows, ∀ t : EType, etypeOf (fmtV o.w).ety = some t → row.2.1 t = true →
      vfieldsOk (fmtV o.w) { a := true, c := true } = true → spansOk false [] [spanOf (fmtV o.w).a (fmtV o.w).n t.bytes] = true →
      exec (row.1 o) s = .next (pcNext o.tile (raiseFlags o.tile (row.2.2 t (fmtV o.w) (tileGet s o.tile)).2
        (tileSet o.tile (txSet (fmtV o.w).c (row.2.2 t (fmtV o.w) (tileGet s o.tile)).1 (tileGet s o.tile)) s))))
    ∧ (∀ row ∈ rowRows, (fmtV o.w).ety = 0 → vfieldsOk (fmtV o.w) { d := true, a := true } = true → (fmtV o.w).n % 32 = 0 →
      spansOk false [spanOf (fmtV o.w).d ((fmtV o.w).n / 32) 4] [spanOf (fmtV o.w).a (fmtV o.w).n 4] = true →
      let rs := (chunks 32 ((fmtV o.w).n / 32) (List.zip (actives (tileGet s o.tile) (fmtV o.w))
        (telems (tileGet s o.tile) (fmtV o.w).a 4 (fmtV o.w).n))).map row.2
      exec (row.1 o) s = .next (pcNext o.tile (raiseFlags o.tile (rs.foldl (fun a r => orFlags a r.2) 0)
        (tileSet o.tile (tputs (fmtV o.w).d 4 (rs.map fun r => some r.1) (tileGet s o.tile)) s))))

/-- VSEL, VPERM, VEXT, VINS, VRDFL, VCOMP, VEXPD, VCOMPI, VRADD, VRCVT and VRMK complete, each with its own effect: a
selection, an element moved to or from an X register, the flags read, a permutation, a compression whose count goes to X
register C, an expansion, and record arithmetic whose residues join the tile's residue stream (R50 to R53, R116, R129 to
R133, R137, R260). -/
def Obligations.VectorMovesAndRecordsComplete : Prop :=
  ∀ (o : TileOp) (s : State) (t : EType), Issues o .vector s → etypeOf (fmtV o.w).ety = some t →
    let f := fmtV o.w
    let τ := tileGet s o.tile
    (vfieldsOk f { d := true, a := true, b := true, sb := true } = true → f.pen = true → f.zm = false →
      spansOk false [spanOf f.d f.n t.bytes] (spanOf f.a f.n t.bytes :: bSpan f t.bytes) = true →
      exec (.vsel o) s = .next (pcNext o.tile (tileSet o.tile (tputs f.d t.bytes
        (List.zipWith (fun a p => some (if a then p.1 else p.2)) (actives τ f)
          (List.zip (telems τ f.a t.bytes f.n) (bElems τ f t.bytes))) τ) s)))
    ∧ (vfieldsOk f { d := true, a := true, b := true, sb := true } = true →
      spansOk true [spanOf f.d f.n t.bytes] (spanOf f.a f.n t.bytes :: bSpan f t.bytes) = true →
      exec (.vperm o) s = .next (pcNext o.tile (vResult o f t.bytes ((bElems τ f t.bytes).map fun i =>
        FRes.plain (if i ≤ f.cnt then (telems τ f.a t.bytes f.n).getD i 0 else 0)) s)))
    ∧ (vfieldsOk f { a := true, b := true, c := true } = true → vplainOk f = true → f.cnt = 0 → tx τ f.b < 4096 / t.bytes →
      exec (.vext o) s = .next (pcNext o.tile (tileSet o.tile (txSet f.c
        (let v := ofLe (Mem.readN τ.t (f.a * 4096 + tx τ f.b * t.bytes) t.bytes)
         if t.isFloat then v else wrapTo 64 (sval t v)) τ) s)))
    ∧ (vfieldsOk f { d := true, b := true, c := true } = true → vplainOk f = true → f.cnt = 0 → tx τ f.b < 4096 / t.bytes →
      exec (.vins o) s = .next (pcNext o.tile (tileSet o.tile
        { τ with t := Mem.writeN τ.t (f.d * 4096 + tx τ f.b * t.bytes) (leBytes t.bytes (tx τ f.c)) } s)))
    ∧ (vfieldsOk f { c := true } = true → f.ety = 0 → vplainOk f = true → f.cnt = 0 →
      exec (.vrdfl o) s = .next (pcNext o.tile (xset o.tile f.c (BitVec.ofNat 64 (fget s F.tileVflags_flags o.tile)) s)))
    ∧ (f.pen = true → spansOk true [spanOf f.d f.n t.bytes] [spanOf f.a f.n t.bytes] = true →
      vfieldsOk f { d := true, a := true, c := true } = true →
      (let els := (activeElems τ f t.bytes).map (·.2)
       exec (.vcomp o) s = .next (pcNext o.tile (tileSet o.tile
         (txSet f.c els.length (tputs f.d t.bytes ((padTo f.n 0 els).map some) τ)) s)))
      ∧ (let before := fun (e : Nat) => (((actives τ f).take e).filter id).length
       exec (.vexpd o) s = .next (pcNext o.tile (tileSet o.tile (txSet f.c ((actives τ f).filter id).length (tputs f.d t.bytes
         ((actives τ f).zipIdx.map fun p =>
           if p.1 then some ((telems τ f.a t.bytes f.n).getD (before p.2) 0) else if f.zm then some 0 else none) τ)) s))))
    ∧ (f.pen = true → t = .i32 ∨ t = .i16 → spansOk true [spanOf f.d f.n t.bytes] [] = true →
      vfieldsOk f { d := true, b := true, c := true } = true →
      let els := ((actives τ f).zipIdx.filterMap fun p => if p.1 then some ((tx τ f.b + p.2) % 2 ^ t.bits) else none)
      exec (.vcompi o) s = .next (pcNext o.tile (tileSet o.tile
        (txSet f.c els.length (tputs f.d t.bytes ((padTo f.n 0 els).map some) τ)) s)))
    ∧ (vfieldsOk f { d := true, a := true, b := true } = true → f.ety = 0 → vplainOk f = true → recordsOk f = true →
      spansOk false [spanOf f.d f.n 16] [spanOf f.a f.n 16, spanOf f.b f.n 16] = true →
      let ps := List.zip ((telems τ f.a 16 f.n).map DRec.unpack) ((telems τ f.b 16 f.n).map DRec.unpack)
      (∀ p ∈ ps, p.1.residueOk = true ∧ p.2.residueOk = true ∧ p.1.datum = p.2.datum) →
      let rs := ps.map fun p => p.1.add p.2
      let t' := addResidues o.tile (((ps.zip rs).map fun q => [q.1.1.residue, q.1.2.residue, q.2.residue]).flatten)
        (tileSet o.tile (tputs f.d 16 (rs.map fun r => some r.pack) τ) s)
      exec (.vradd o) s = .next (pcNext o.tile (if rs.any (·.sat) then raiseFlags o.tile rsatFlag t' else t')))
    ∧ (vfieldsOk f { d := true, a := true } = true → recordsOk f = true → t.isFloat = true →
      spansOk false [spanOf f.d f.n t.bytes] [spanOf f.a f.n 16] = true →
      let rs := (telems τ f.a 16 f.n).map DRec.unpack
      (∀ r ∈ rs, r.residueOk = true) →
      exec (.vrcvt o) s = .next (pcNext o.tile (addResidues o.tile (rs.map (·.residue))
        (vResult o f t.bytes (rs.map fun r => roundV t.fmt (datumVal r.value r.datum)) s))))
    ∧ (vfieldsOk f { d := true, a := true, b := true } = true → recordsOk f = true → t = .i32 →
      spansOk false [spanOf f.d f.n 16] [spanOf f.a f.n 4] = true →
      exec (.vrmk o) s = .next (pcNext o.tile (addResidues o.tile
        (((List.zip (actives τ f) (telems τ f.a 4 f.n)).filter (·.1)).map fun e => mod7 (sval .i32 e.2))
        (vResult o f 16 ((telems τ f.a 4 f.n).map fun v =>
          FRes.plain (DRec.pack ⟨sval .i32 v, tx τ f.b % 1024, false, false, false, mod7 (sval .i32 v)⟩)) s))))

/-- VLD, VLDS, VLDMX, VST, VSTS and VSTMX complete: a load writes its elements under the predicate and sees what
the engine's own stores still owe the tile store; a store enters the engine's queue with the bytes it owes, which its completion
writes (R72, R110, R113, R114, R117, R123). -/
def Obligations.VectorMemoryOperationsComplete : Prop :=
  ∀ (o : TileOp) (s : State) (t : EType), etypeOf (fmtV o.w).ety = some t →
    let f := fmtV o.w
    (∀ row ∈ [(Instr.vld, false), (Instr.vlds, true)], Issues o .vector s → vfieldsOk f { d := true, a := true, b := row.2 } = true →
      spansOk false [spanOf f.d f.n t.bytes] [] = true → xnat s o.tile f.a % 64 = 0 → (row.2 = true → xnat s o.tile f.b % 64 = 0) →
      ∀ parts, (vPieces row.2 (xnat s o.tile f.a) (if row.2 then xnat s o.tile f.b else 0) (f.n * t.bytes)).mapM
        (fun p => vecRead s o.tile p.1 p.2.2) = .ok parts →
      exec (row.1 o) s = .next (pcNext o.tile (vResult o f t.bytes
        ((chunks t.bytes f.n parts.flatten).map fun b => FRes.plain (ofLe b)) s)))
    ∧ (∀ row ∈ [(Instr.vst, false), (Instr.vsts, true)], Issues o .vecStore s →
      vfieldsOk f { d := true, a := true, b := row.2 } = true → spansOk false [] [spanOf f.d f.n t.bytes] = true →
      xnat s o.tile f.a % 64 = 0 → (row.2 = true → xnat s o.tile f.b % 64 = 0) →
      (∀ p ∈ vPieces row.2 (xnat s o.tile f.a) (if row.2 then xnat s o.tile f.b else 0) (f.n * t.bytes),
        scratchOk s o.tile p.1 p.2.2 = true) →
      exec (row.1 o) s = .next (pcNext o.tile (vecQueued o.tile
        ((List.zip (predicated f (actives (tileGet s o.tile) f) ((telems (tileGet s o.tile) f.d t.bytes f.n).map FRes.plain))
            (List.range f.n)).filterMap fun p => p.1.map fun v =>
          ⟨if row.2 then xnat s o.tile f.a + p.2 * t.bytes / 128 * xnat s o.tile f.b + p.2 * t.bytes % 128
            else xnat s o.tile f.a + p.2 * t.bytes, leBytes t.bytes v⟩) s)))
    ∧ (∀ b : Bases, basesOf (xnat s o.tile f.a) true = some b → f.ety = 0 → f.aux ≤ 5 →
      vfieldsOk f { d := true, a := true, aux := true } = true →
      (Issues o .vector s → spansOk false [spanOf f.d f.n 4] [] = true → ∀ es ss,
        vecRead s o.tile b.e ((f.n + 31) / 32 * mxBlockBytes f.aux) = .ok es → vecRead s o.tile b.s ((f.n + 31) / 32) = .ok ss →
        exec (.vldmx o) s = .next (pcNext o.tile (vResult o f 4 ((List.range f.n).map fun e =>
          mxToF32 f.aux (ss.getD (e / 32) 0).toNat
            (mxElemBits f.aux (((chunks (mxBlockBytes f.aux) ((f.n + 31) / 32) es).map ofLe).getD (e / 32) 0) (e % 32))) s)))
      ∧ (Issues o .vecStore s → spansOk false [] [spanOf f.d f.n 4] = true →
        scratchOk s o.tile b.e ((f.n + 31) / 32 * mxBlockBytes f.aux) = true → scratchOk s o.tile b.s ((f.n + 31) / 32) = true →
        let blocks := (chunks 32 ((f.n + 31) / 32) (List.zipWith (fun a v => if a then decodeF fp32 v else FVal.fin false 0 0)
          (actives (tileGet s o.tile) f) (telems (tileGet s o.tile) f.d 4 f.n))).map (mxBlock f.aux)
        exec (.vstmx o) s = .next (pcNext o.tile (vecQueued o.tile
          (blocks.zipIdx.flatMap fun p => [⟨b.e + p.2 * mxBlockBytes f.aux, leBytes (mxBlockBytes f.aux) p.1.block⟩,
            ⟨b.s + p.2, leBytes 1 p.1.scale⟩])
          (raiseFlags o.tile (bit01 (blocks.any (·.special)) + 2 * bit01 (blocks.any (·.sat))) s)))))

/-! ### The sequencer (R75, R92 to R95) -/

/-- NOP, END, BR, BRZ, BRNZ, LOOP, SLI, SLIH, SLD, SST, WAITC, WAITS, WAIT_SATISFIED, BSYNC, BARRIER_RELEASE and SIG complete,
each with its own effect on the program counter, the X registers, the tile store, the waits, the barriers and the sync
counters. The word at a tile's program counter names the instruction by its bits [63:48]; a word that names none stops the tile with
a program error (R71, R73 to R75, R92 to R95). -/
def Obligations.SequencerInstructionsComplete : Prop :=
  (∀ (o : TileOp) (s : State), Issues o .seq s →
    let f := fmtC o.w
    exec (.nop o) s = .next (pcNext o.tile s)
    ∧ exec (.endTick o) s = .next (tileRest o.tile (fset F.tileStatus_ended o.tile 1 s))
    ∧ exec (.br o) s = .next (pcNext o.tile (branchBy o.tile f.simm s))
    ∧ (xget s o.tile f.xa = 0 → exec (.brz o) s = .next (pcNext o.tile (branchBy o.tile f.simm s))
        ∧ exec (.brnz o) s = .next (pcNext o.tile s))
    ∧ (xget s o.tile f.xa ≠ 0 → exec (.brz o) s = .next (pcNext o.tile s)
        ∧ exec (.brnz o) s = .next (pcNext o.tile (branchBy o.tile f.simm s)))
    ∧ (let t := xset o.tile f.xa (xget s o.tile f.xa - 1) s
       (xget s o.tile f.xa = 1 → exec (.loopTo o) s = .next (pcNext o.tile t))
       ∧ (xget s o.tile f.xa ≠ 1 → exec (.loopTo o) s = .next (pcNext o.tile (branchBy o.tile f.simm t))))
    ∧ exec (.sli o) s = .next (pcNext o.tile (xset o.tile f.xa (BitVec.ofInt 64 f.simm) s))
    ∧ exec (.slih o) s = .next (pcNext o.tile (xset o.tile f.xa
        (BitVec.ofNat 64 (f.imm * 2 ^ 32 + (xget s o.tile f.xa).toNat % 2 ^ 32)) s))
    ∧ (let a := (xget s o.tile f.xb + BitVec.ofInt 64 f.simm).toNat
       a % 8 = 0 →
       (∀ bs, loadBytes s o.tile a 8 = .ok bs →
         exec (.sld o) s = .next (pcNext o.tile (xset o.tile f.xa (BitVec.ofNat 64 (ofLe bs)) s)))
       ∧ (scratchOk s o.tile a 8 = true →
         exec (.sst o) s = .next (pcNext o.tile (storeWrite o.tile a (leBytes 8 (xget s o.tile f.xa).toNat) s))))
    ∧ (f.sub % 8 ≤ 4 →
       (f.imm ≤ doneGet s o.tile (f.sub % 8) → exec (.waitc o) s = .next (pcNext o.tile s))
       ∧ (doneGet s o.tile (f.sub % 8) < f.imm → exec (.waitc o) s = .next (fset F.tileStatus_waiting o.tile 1
           (tileMod o.tile (fun τ => { τ with wait := .counter (f.sub % 8) f.imm }) s))))
    ∧ (f.imm ≤ syncGet s o.tile (f.sub % 16) → exec (.waits o) s = .next (pcNext o.tile s))
    ∧ (syncGet s o.tile (f.sub % 16) < f.imm → exec (.waits o) s = .next (fset F.tileStatus_waiting o.tile 1
        (tileMod o.tile (fun τ => { τ with wait := .sync (f.sub % 16) f.imm }) s)))
    ∧ (let bar := Map.get (bayGet s (bayOf o.tile)).bars {} (f.sub % 16)
       bitOn (f.imm % 256) (o.tile % 8) = true → bar.arrived = 0 ∨ bar.mask = f.imm % 256 → bitOn bar.arrived (o.tile % 8) = false →
       exec (.bsync o) s = .next (fset F.tileStatus_waiting o.tile 1 (tileMod o.tile
         (fun τ => { τ with wait := .barrier (f.sub % 16) })
         (baySet (bayOf o.tile) { bayGet s (bayOf o.tile) with bars := (Map.set (bayGet s (bayOf o.tile)).bars (f.sub % 16)
           ({ bar with mask := f.imm % 256, arrived := bar.arrived + 2 ^ (o.tile % 8) })) } s))))
    ∧ (∀ t, f.imm % 65536 ≠ 0 → xnat s o.tile f.xa < 2 ^ 19 → openStores (tileGet s o.tile) = 0 →
       openWrites s o.tile = [] → hubOfTile (xnat s o.tile f.xa) = hubId s → localTile (xnat s o.tile f.xa) = some t →
       s.netReset.contains (bayOf t) = false →
       f.sub % 16 < 13 → syncGet s t (f.sub % 16) + f.imm % 65536 < 2 ^ 32 →
       exec (.sig o) s = .next (pcNext o.tile (syncSet t (f.sub % 16) (syncGet s t (f.sub % 16) + f.imm % 65536) s))))
  ∧ (∀ (tile : Nat) (s : State), fon s F.tileStatus_waiting tile = true → (tileGet s tile).wait ≠ .none →
      waitOk s tile (tileGet s tile).wait = true →
      exec (.waitSatisfied tile) s = .next (pcNext tile (fset F.tileStatus_waiting tile 0
        (tileMod tile (fun τ => { τ with wait := .none }) s))))
  ∧ (∀ (bay b : Nat) (s : State), bay < 576 →
      let bar := Map.get (bayGet s bay).bars {} b
      bar.arrived ≠ 0 → bar.arrived = bar.mask →
      exec (.barrierRelease bay b) s = .next ((bitList 8 bar.mask).foldl
        (fun s' k => if (tileGet s' (bay * 8 + k)).wait = .barrier b then
            pcNext (bay * 8 + k) (fset F.tileStatus_waiting (bay * 8 + k) 0
              (tileMod (bay * 8 + k) (fun τ => { τ with wait := .none }) s'))
          else s')
        (baySet bay { bayGet s bay with bars := Map.set (bayGet s bay).bars b ⟨0, 0, bar.generation + 1⟩ } s)))
  ∧ (∀ (tile : Nat) (w : BitVec 64),
      (∀ r ∈ tileRows, w.toNat / 2 ^ 48 = r.major * 256 + r.fn →
        decodeTile tile w = r.op { tile := tile, w := w.setWidth 48 })
      ∧ (∀ s, (∀ r ∈ tileRows, w.toNat / 2 ^ 48 ≠ r.major * 256 + r.fn) → canIssue s tile .seq = true →
        injectedUpset s tile .seq = none → (tileGet s tile).badLines.contains (fetchLine s tile) = false →
        exec (decodeTile tile w) s = .next (tileStop tile .prog s)))

/-! ### The matrix unit (R37 to R58, R75 to R83) -/

/-- MMA, MMB, MSCAN, the four functions of MOUT and MATRIX_COMPLETE complete: products add to the accumulator rows, which a
start clears and gives their datums; a scan computes its datum vector, a readout its rows with their scales and status bytes; each
enters the matrix queue with the bytes it owes the tile store, and a completion takes the oldest from the queue, writes what it owes and
raises MAT. The rows used agree with their parity, and the sums read out with their running residues (R37 to R48, R52 to R59, R72, R77
to R83, R92). -/
def Obligations.MatrixInstructionsComplete : Prop :=
  (∀ (o : TileOp) (s : State) (sh : Shape) (a b : Bases),
    let f := fmtM o.w
    let τ := tileGet s o.tile
    (Issues o .product s →
      (∀ ma mb ca cb (d : Nat → Int), mxFmt f.fmtA = some ma → mxFmt f.fmtB = some mb → dmodeOk f false = true →
        matrixOperands s o true = .ok (sh, a, b) →
        panelFits a sh.nb sh.m (mxBlockBytes f.fmtA) true = true → panelFits b sh.nb sh.n (mxBlockBytes f.fmtB) true = true →
        readPanel s o.tile a sh.nb sh.m (mxBlockBytes f.fmtA) true = .ok ca →
        readPanel s o.tile b sh.nb sh.n (mxBlockBytes f.fmtB) true = .ok cb →
        (f.start = true → startDatums s o (scanDatum ma mb sh.n (List.zip ca cb)) = .ok d) →
        let rows := if f.start then startRows sh.m f.dmode d τ else τ
        (∀ r < sh.m, rowParOk rows r = true) →
        exec (.mma o) s = .next (pcNext o.tile (matQueued o.tile []
          ((List.zip ca cb).zipIdx.foldl
            (fun τ p => mxColumn f.fmtA f.fmtB ma mb (sh.k - p.2 * 32) sh.m sh.n p.1.1 p.1.2 τ) rows) s)))
      ∧ (∀ ca cb (d : Nat → Int), f.fmtA = 8 → f.fmtB = 8 → dmodeOk f true = true → matrixOperands s o false = .ok (sh, a, b) →
        panelFits a sh.nb sh.m 64 false = true → panelFits b sh.nb sh.n 64 false = true →
        readPanel s o.tile a sh.nb sh.m 64 false = .ok ca → readPanel s o.tile b sh.nb sh.n 64 false = .ok cb →
        (f.start = true → startDatums s o (fun _ => 0) = .ok d) →
        let rows := if f.start then startRows sh.m f.dmode d τ else τ
        (∀ r < sh.m, rowParOk rows r = true) →
        exec (.mmb o) s = .next (pcNext o.tile (matQueued o.tile []
          ((List.zip ca cb).zipIdx.foldl (fun τ p => bfColumn (sh.k - p.2 * 32) sh.m sh.n p.1.1 p.1.2 τ) rows) s))))
    ∧ (∀ ma mb ca cb, Issues o .scan s → mxFmt f.fmtA = some ma → mxFmt f.fmtB = some mb → f.zero = 0 →
      (f.start = true → f.dmode ≠ 0) →
      matrixOperands s o true = .ok (sh, a, b) → xnat s o.tile f.xv % 2 ^ 20 % 64 = 0 →
      scratchOk s o.tile (xnat s o.tile f.xv % 2 ^ 20) 64 = true →
      readScales s o.tile a sh.nb sh.m = .ok ca → readScales s o.tile b sh.nb sh.n = .ok cb →
      exec (.mscan o) s = .next (pcNext o.tile (matQueued o.tile [⟨xnat s o.tile f.xv % 2 ^ 20,
        datumVectorBytes fun r => if r < sh.m then scanDatum ma mb sh.n (List.zip ca cb) r else -512⟩] τ s))))
  ∧ (∀ (o : TileOp) (s : State) (sh : Shape) (b : Bases),
    let f := fmtO o.w
    let τ := tileGet s o.tile
    ∀ row ∈ [(Instr.moutRecords, 0, 16), (Instr.moutFp32, 1, 4), (Instr.moutBf16, 2, 2), (Instr.moutMx, 3, 0)],
      Issues o (.readout (row.2.1 != 0)) s → f.zero = 0 → (if row.2.1 = 3 then f.fmtOut ≤ 5 else f.fmtOut = 0) →
      shapeOf (xnat s o.tile f.xsh) false = some sh → basesOf (xnat s o.tile f.xdst) (row.2.1 == 3) = some b →
      let step := moutStride row.2.1 f.fmtOut
      let st := xnat s o.tile f.xst % 2 ^ 20
      scratchOk s o.tile b.e ((sh.m - 1) * step + (if row.2.1 = 3 then step else sh.n * row.2.2)) = true →
      scratchOk s o.tile st sh.m = true → (row.2.1 = 3 → scratchOk s o.tile b.s sh.m = true) →
      (∀ r < sh.m, rowParOk τ r = true ∧ ∀ c < sh.n, accResGet τ r c = mod7 (accGet τ r c)) →
      let rows := (List.range sh.m).foldl (fun (q : List Owed × Tile) r =>
        let rd := readRow r sh.n q.2
        let fl := flagsGet rd.2 r
        let out := moutRow row.2.1 f.fmtOut rd.1 (Map.get rd.2.datum 0 r) fl
        (q.1 ++ [⟨b.e + r * step, out.1⟩] ++ (if row.2.1 = 3 then [⟨b.s + r, leBytes 1 out.2⟩] else [])
            ++ [⟨st + r, leBytes 1 fl.toNat⟩],
          { rd.2 with residues := rd.2.residues ++ (rd.1.map mod7).map (BitVec.ofNat 8) })) ([], τ)
      exec (row.1 o) s = .next (pcNext o.tile (matQueued o.tile rows.1 rows.2 s)))
  ∧ (∀ (tile : Nat) (ws : List Owed) (rest : List (List Owed)) (s : State), (tileGet s tile).matQ = ws :: rest →
      exec (.matrixComplete tile) s = .next (tileRest tile (doneBump tile 0 1
        (ws.foldl (fun s w => storeWrite tile w.addr w.bytes s) (tileMod tile (fun τ => { τ with matQ := rest }) s)))))

/-! ### Tensor transfers (R86 to R92) and the tile's own events -/

/-- TLD, TST, TST.S, TILE_TRANSLATION_FILL, TLD_COMPLETE, TST_ACK, VECTOR_STORE_COMPLETE and PATROL_SCRUB complete: transfers
enter their queues with the translations the tile's cache holds, a fill enters the walked translation, a completed load's
bytes are in the tile store and LD rises, an acknowledged store's bytes are in memory in the class of the tile's tick, a vector store's completion writes what it owes and raises
VEC, and a scrub counts or records what it found (R72, R86 to R92, R95, R100, R113). -/
def Obligations.TensorInstructionsComplete : Prop :=
  (∀ (o : TileOp) (s : State) (x : Xfer), 
    (Issues o .load s → tensorOperands s o true = .ok x →
      exec (.tld o) s = .next (pcNext o.tile (tileMod o.tile (fun τ => { τ with ldQ := τ.ldQ ++ [x.start τ false] }) s)))
    ∧ (∀ bs, Issues o .store s → tensorOperands s o false = .ok x → loadBytes s o.tile x.ts x.bytes = .ok bs →
      let y := Xfer.start (tileGet s o.tile) true { x with data := bs }
      (y.touchesHost = false →
        exec (.tst o) s = .next (pcNext o.tile (tileMod o.tile (fun τ => { τ with stQ := τ.stQ ++ [y] }) s)))
      ∧ (∀ z t, fillAll o.tile (tileGet s o.tile).ctx true y.todo y s = .ok (z, t) →
        ∃ u, stageAllLogged o.tile (partOfTile t o.tile) (stagePieces o.tile (tileGet s o.tile).ctx z) t = u ∧
          exec (.tstS o) s = .next (pcNext o.tile (retireStores o.tile (tileMod o.tile
            (fun τ => { τ with stQ := τ.stQ ++ [{ z with done := true, data := [] }] })
            (perfCount 7 (fieldOf o.tile) (partOfTile u o.tile) z.bytes u)))))))
  ∧ (∀ (tile page : Nat) (rest : List Nat) (x : Xfer) (tr : Trans) (s : State),
      (tileGet s tile).ldQ.find? (fun x => !x.todo.isEmpty) = some x → x.todo = page :: rest →
      tileWalk s (tileGet s tile).ctx page false = .ok tr →
      exec (.tileTranslationFill tile false) s = .next (tileMod tile (fun τ => { cacheAdd tr τ with
        ldQ := fillFirst (fun x => { x with trans := x.trans ++ [tr], todo := rest.filter fun k => !tr.covers k }) (cacheAdd tr τ).ldQ })
        (perfCount 8 (fieldOf tile) (partOfTile s tile) 1 s)))
  ∧ (∀ (tile : Nat) (host : List Byte) (x : Xfer) (rest : List Xfer) (parts : List (Nat × List Byte)) (s t : State),
      (tileGet s tile).ldQ = x :: rest → x.todo = [] → x.held s = false → (x.touchesHost = true → waitCause s (partOfTile s tile) = false) →
      gatherLoad (partOfTile s tile) (tileClass s tile) x x.pieces host s = (some parts, t) →
      exec (.tldComplete tile host) s =
        let u := parts.foldl (fun s q => storeWrite tile (x.ts + q.1) q.2 s) t
        .next (tileRest tile (doneBump tile 1 1 (tileMod tile (fun τ => { τ with ldQ := rest })
          (perfCount 6 (fieldOf tile) (partOfTile u tile) x.bytes u)))))
  ∧ (∀ (tile : Nat) (x : Xfer) (before after : List Xfer) (s : State),
      (tileGet s tile).stQ = before ++ x :: after → (∀ y ∈ before, y.done = true) → x.done = false → x.refused = false →
      x.todo = [] → x.held s = false → (tileGet s tile).sigQ = [] →
      (∀ e ∈ stagePieces tile (tileGet s tile).ctx x, writeRefused s e.addr e.data.length = false) →
      let t := (stagePieces tile (tileGet s tile).ctx x).foldl (fun u e => devStore e.addr e.data u (tileClass u tile)) s
      exec (.tstAck tile) s = .next (tileRest tile (perfCount 7 (fieldOf tile)
        (partOfTile (tileMod tile (fun τ => { τ with stQ := before ++ { x with done := true, data := [] } :: after, sigQ := [] }) t) tile) x.bytes
        (retireStores tile (tileMod tile (fun τ => { τ with stQ := before ++ { x with done := true, data := [] } :: after, sigQ := [] }) t)))))
  ∧ (∀ (tile : Nat) (ws : List Owed) (rest : List (List Owed)) (s : State), (tileGet s tile).vecQ = ws :: rest →
      exec (.vectorStoreComplete tile) s = .next (tileRest tile (doneBump tile 4 1
        (ws.foldl (fun s w => storeWrite tile w.addr w.bytes s) (tileMod tile (fun τ => { τ with vecQ := rest }) s)))))
  ∧ (∀ (tile line : Nat) (s : State), tile < 4608 → line * 64 < residentBytes s tile →
      exec (.patrolScrub tile line (some .storeCorrected)) s = .next (fbump F.tileCeCount_count tile 1 s)
      ∧ exec (.patrolScrub tile line (some .storeUncorrectable)) s = .next (tileRecord tile 4 clsInfo none false 0
        (tileMod tile (fun τ => { τ with badLines := if τ.badLines.contains line then τ.badLines else line :: τ.badLines })
          (tileErr tile 4 15 s))))

/-! ### The walker (R146 to R169) -/

/-- GATHER, KV_DELIVERY_COMPLETE, APPEND and MASK complete: a gather owes one delivery for each page its tokens touch, a
delivery lands in its slot and KV rises, an append hands its encoded records to staging, a mask stores its 64 rows; every
request taken raises the tile's request count. No injection of TP_INJECT falls on the walker's reads (R146 to R152, R157 to R161, R168, R169). -/
def Obligations.WalkerRequestsComplete : Prop :=
  ∀ (tile : Nat) (s : State), injectHit s 2 (globalTile s tile) (tickOf s (partOfTile s tile)) = false →
    let p := partOfTile s tile
    (∀ r b k, nextReq s tile = some r → slotBad s tile = false → layerHeld s p r.layer = false → r.op = 1 →
      r.layout ≤ 2 → 1 ≤ r.count → r.count ≤ 1048576 → r.scale = 0 → r.addr = 0 → r.zero = 0 → r.entry < entryCount s p →
      batchEntry s p r.entry = .ok b → kvLayout s (kvCache s tile) p (recAt b 32 8) = .ok k → r.plane < k.planes → r.layer < k.layers →
      (r.layout = 0 ∨ 32 ≤ k.tpp r.plane) → r.first + r.count ≤ recAt b 8 4 →
      ∃ t ds, exec (.gather ⟨tile, none⟩) s = .next t
        ∧ ds.length = (r.first + r.count - 1) / k.tpp r.plane - r.first / k.tpp r.plane + 1
        ∧ (bayGet t (bayOf tile)).owed = (bayGet s (bayOf tile)).owed ++ ds
        ∧ (∀ d ∈ ds, d.tile = tile ∧ d.root = recAt b 32 8 ∧ d.plane = r.plane ∧ d.layer = r.layer)
        ∧ (tileGet t tile).deliveries = (tileGet s tile).deliveries + ds.length
        ∧ (tileGet t tile).requests = (tileGet s tile).requests + 1)
    ∧ (∀ d k a, (bayGet s (bayOf tile)).owed.find? (fun d => d.tile == tile) = some d →
      d.slot < syncGet s tile 15 + landSlots (tileGet s tile).ring → kvLayout s (kvCache s tile) p d.root = .ok k →
      kvPage s (kvCache s tile) p d.root k d.layer d.plane d.page = .ok a →
      firstLost s (a + d.first * k.recBytes d.plane) (d.count * k.recBytes d.plane) = none →
      ∃ t, exec (.kvDeliveryComplete tile) s = .next t ∧ doneGet t tile 3 = (doneGet s tile 3 + 1) % 2 ^ 32)
    ∧ (∀ r b k es, nextReq s tile = some r → slotBad s tile = false → layerHeld s p r.layer = false → r.op = 2 →
      r.layout = 0 → 1 ≤ r.count → r.count ≤ 8192 → r.scale ≠ 255 → r.zero = 0 → r.addr < 2 ^ 20 → r.addr % 64 = 0 →
      r.entry < entryCount s p → batchEntry s p r.entry = .ok b → kvLayout s (kvCache s tile) p (recAt b 32 8) = .ok k →
      r.plane < k.planes → r.layer < k.layers → regionOk s tile r.addr (r.count * appendSrcBytes k r.plane) = true →
      recAt b 8 4 ≤ r.first → r.first + r.count ≤ recAt b 8 4 + recAt b 12 4 →
      walkBad s tile r.addr (r.count * appendSrcBytes k r.plane) = false →
      (List.range r.count).mapM (fun i => do
        let a ← kvPage s (kvCache s tile) p (recAt b 32 8) k r.layer r.plane ((r.first + i) / k.tpp r.plane)
        return ({ kind := .append r.layer, tile := tile, ctx := (tileGet s tile).ctx, va := 0
                  addr := a + (r.first + i) % k.tpp r.plane * k.recBytes r.plane
                  data := appendRecord k r.plane r.scale (storeRead s tile (r.addr + i * appendSrcBytes k r.plane) (appendSrcBytes k r.plane)) } : Staged)) = Except.ok (ε := KvErr) es →
      exec (.append ⟨tile, none⟩ false) s = .next (reqTaken tile (kvwCount tile (r.count * k.recBytes r.plane) (stageAllLogged tile p es s))))
    ∧ (∀ r b, nextReq s tile = some r → slotBad s tile = false → r.op = 3 → r.layout = 0 → r.plane = 0 → r.layer = 0 → r.first = 0 →
      1 ≤ r.count → r.count ≤ 64 → r.scale = 0 → r.zero = 0 → r.addr < 2 ^ 20 → r.addr % 64 = 0 → r.entry < entryCount s p →
      regionOk s tile r.addr 512 = true → batchEntry s p r.entry = .ok b →
      parentsOk (((b.drop 64).take r.count).map (·.toNat)) = true →
      exec (.mask ⟨tile, none⟩) s = .next (reqTaken tile (storeWrite tile r.addr
        ((padTo 64 0 (maskRows (((b.drop 64).take r.count).map (·.toNat)))).flatMap (leBytes 8)) s)))

/-! ### Griset: doorbells, fetch, contexts, queues, objects and fences (R449, R456 to R468, R473, R476, R488, R493) -/

/-- CTX_CREATE, CTX_DESTROY, CTX_QUERY, QUEUE_CREATE, QUEUE_DESTROY, QUEUE_QUERY, OBJ_TABLE, OBJ_CREATE, OBJ_RELEASE and
OBJ_QUERY complete with their results and do what R476 says, or begin the wait that R459, R476 and R488 give them. -/
def Obligations.ContextQueueAndObjectCommandsComplete : Prop :=
  (∀ (id : Nat) (c : Cmd) (s : State), Starts 0x0101 id c s →
    let x := bitsAt c.pkt.w1 0 16
    let p := bitsAt c.pkt.w1 16 8
    bitsAt c.pkt.w1 24 11 < (if p = 0 then 2048 else 64) → c.pkt.w2 % 4096 = 0 → c.pkt.w3 % 2048 = 0 →
    (ctxGet s x).state = .free → inPart s p c.pkt.w2 4096 = true → inPart s p c.pkt.w3 2048 = true →
    exec (.ctxCreate id) s = .next (finish c 0 0 0 []
      (ctxSet x { state := .active, part := p, root := c.pkt.w2, faultQ := c.pkt.w3, vector := bitsAt c.pkt.w1 24 11 } s)))
  ∧ (∀ (id : Nat) (c : Cmd) (s : State), Starts 0x0102 id c s →
    let x := bitsAt c.pkt.w1 0 16
    x ≠ 0 → (ctxGet s x).state = .active ∨ (ctxGet s x).state = .faulted →
    exec (.ctxDestroy id) s = .next (sweep (setStep id (.teardown x) (teardownStart x false s))))
  ∧ (∀ (id : Nat) (c : Cmd) (s : State), Starts 0x0103 id c s →
    let k := ctxGet s (bitsAt c.pkt.w1 0 16)
    (k.state = .free → exec (.ctxQuery id) s = .next (finish c 0 0 0 [] s))
    ∧ (k.state ≠ .free → exec (.ctxQuery id) s = .next (finish c 0
        (k.state.code + placed 2 8 k.part + placed 10 8 k.lastReason + placed 32 32 k.lastTick)
        (k.ovfCount + placed 32 1 (bit01 k.ovf) + placed 33 7 (k.awaiting.filter fun r => !r.answered).length) [] s)))
  ∧ (∀ (id : Nat) (c : Cmd) (s : State) (va word : Nat) (host : Bool), Starts 0x0110 id c s →
    let w := c.pkt.w1
    let x := bitsAt w 43 16
    let p := (ctxGet s x).part
    let tp := (ctxGet s c.pkt.ctx).part
    let size := 2 ^ bitsAt w 23 5 * entryBytes (bitsAt w 20 3)
    2 ≤ bitsAt w 0 20 → x ≠ 0 → 1 ≤ bitsAt w 20 3 → bitsAt w 20 3 ≤ 4 → 4 ≤ bitsAt w 23 5 → bitsAt w 23 5 ≤ 16 →
    (ctxGet s x).state = .active ∨ (ctxGet s x).state = .faulted → mayName s c x = true → (queueGet s (bitsAt w 0 20)).kind = 0 →
    queueRange s p (bitsAt w 0 20) = true → bitsAt w 29 11 < (if p = 0 then 2048 else 64) →
    (if bitsAt w 20 3 = 2 then cplRingFail s c x c.pkt.w3 = none else c.pkt.w3 = 0) →
    orefRange s tp c.pkt.w2 size = .ok (x, va) → va % min size 65536 = 0 →
    (if 3 ≤ bitsAt w 20 3 then orefRange s tp c.pkt.w4 8 = .ok (x, word) ∧ word % 8 = 0 ∧ vaWritable s x word 8 = true
      else c.pkt.w4 = 0 ∧ word = 0) →
    objFull s tp (orefNum c.pkt.w2) = false →
    queuePages s x va size = some host → (host = true → 3 ≤ bitsAt w 20 3) →
    exec (.queueCreate id) s = .next (finish c 0 0 0 [] (refTake (tp, orefNum c.pkt.w2) (queueSet (bitsAt w 0 20)
      { kind := bitsAt w 20 3, log2 := bitsAt w 23 5, state := 1, irqEn := bitOn w 28, inHost := host, ctx := x,
        vector := bitsAt w 29 11, cplRing := c.pkt.w3, baseVA := va, pidxVA := word, cls := bitsAt w 40 3,
        obj := some (tp, orefNum c.pkt.w2) } s))))
  ∧ (∀ (id : Nat) (c : Cmd) (s : State), Starts 0x0111 id c s →
    let q := bitsAt c.pkt.w1 0 20
    let d := queueGet s q
    2 ≤ q → d.kind ≠ 0 → mayName s c d.ctx = true →
    (d.kind = 3 → s.queues.any (fun e => e.2.kind == 2 && e.2.cplRing == q) = false) →
    exec (.queueDestroy id) s = .next (sweep (setStep id (.queueEnd q) (queueMod q (fun d => { d with state := 2 }) s))))
  ∧ (∀ (id : Nat) (c : Cmd) (s : State), Starts 0x0112 id c s →
    let d := queueGet s (bitsAt c.pkt.w1 0 20)
    d.kind ≠ 0 → mayName s c d.ctx = true →
    exec (.queueQuery id) s = .next (finish c 0 (queueHead d) (d.pidx + d.cidx * 2 ^ 32) [] s))
  ∧ (∀ (id : Nat) (c : Cmd) (s : State), Starts 0x0120 id c s →
    let p := bitsAt c.pkt.w1 0 8
    let n := bitsAt c.pkt.w1 8 5
    10 ≤ n → n ≤ 20 → c.pkt.w2 % 65536 = 0 → (partGet s p).enabled = false → inPart s p c.pkt.w2 (2 ^ n * 32) = true →
    exec (.objTable id) s = .next (finish c 0 0 0 [] (partMod p (fun w => { w with table := some (c.pkt.w2, n) })
      (zeroRange c.pkt.w2 (2 ^ n * 32) s))))
  ∧ (∀ (id : Nat) (c : Cmd) (s : State) (e : ObjE), Starts 0x0121 id c s →
    let n := bitsAt c.pkt.w1 0 20
    let x := bitsAt c.pkt.w1 20 16
    let p := (ctxGet s x).part
    x ≠ 0 → c.pkt.w2 % 65536 = 0 → c.pkt.w3 % 65536 = 0 → 65536 ≤ c.pkt.w3 → c.pkt.w3 ≤ 2 ^ 40 →
    c.pkt.w2 + c.pkt.w3 ≤ 2 ^ 57 → (ctxGet s x).state = .active ∨ (ctxGet s x).state = .faulted →
    mayName s c x = true → objFail s p n = none → objGet s p n = some e → e.state = 0 →
    exec (.objCreate id) s = .next (finish c 0 0 0 []
      (objPut p n { state := 1, href := 1, ctx := x, dref := 0, base := c.pkt.w2, size := c.pkt.w3 } s)))
  ∧ (∀ (id : Nat) (c : Cmd) (s : State) (e : ObjE), Starts 0x0122 id c s →
    let n := bitsAt c.pkt.w1 0 20
    let p := (ctxGet s c.pkt.ctx).part
    objFail s p n = none → objGet s p n = some e → e.state = 1 → (c.strict = true → e.ctx = c.pkt.ctx) →
    exec (.objRelease id) s = .next (sweep (setStep id (.release p n (queueMarks s p)) s)))
  ∧ (∀ (id : Nat) (c : Cmd) (s : State) (e : ObjE), Starts 0x0123 id c s →
    let n := bitsAt c.pkt.w1 0 20
    let p := (ctxGet s c.pkt.ctx).part
    objFail s p n = none → objGet s p n = some e → (c.strict = true → e.state ≠ 0 → e.ctx = c.pkt.ctx) →
    exec (.objQuery id) s = .next (finish c 0 (ofLe ((objBytes e).take 8)) e.size [] s))

/-- FENCE_CREATE, FENCE_DESTROY, FENCE_QUERY, FENCE_SIGNAL, FENCE_WAIT and FENCE_WAIT_TIMEOUT complete (R465 to R468, R476): a
fence is registered under a free number and its word written; it goes away with its object reference; a signal raises it;
a wait completes with the fence's word where the value has been reached, otherwise it waits, at most for its timeout. -/
def Obligations.FenceCommandsComplete : Prop :=
  (∀ (id : Nat) (c : Cmd) (s : State) (x va n : Nat) (l : Leaf), Starts 0x0130 id c s →
    let p := (ctxGet s c.pkt.ctx).part
    orefRange s p c.pkt.w1 8 = .ok (x, va) → va % 8 = 0 → c.pkt.w2 ≤ 2 ^ 63 - 1 → walk s x va = .ok l → x ≠ 0 →
    l.write = true → l.pinned = true → (l.host = true → hostPinned s p (l.at va) = true) →
    objFull s p (orefNum c.pkt.w1) = false → freeFence s = some n →
    let f : Fence := { addr := l.at va, host := l.host, ctx := x, value := c.pkt.w2, abandoned := false,
                       obj := (p, orefNum c.pkt.w1) }
    exec (.fenceCreate id) s = .next (finish c 0 n 0 []
      (refTake f.obj (fenceWrite f { s with fences := Map.set s.fences n f }))))
  ∧ (∀ (id : Nat) (c : Cmd) (s : State) (f : Fence), Starts 0x0131 id c s →
    let n := bitsAt c.pkt.w1 0 18
    Map.get? s.fences n = some f → mayName s c f.ctx = true →
    (∀ d ∈ s.cmds, bitsAt d.pkt.w1 0 18 = n → ∀ timed, d.step ≠ .fence timed) →
    exec (.fenceDestroy id) s = .next (finish c 0 0 0 [] (refDrop f.obj { s with fences := Map.erase s.fences n })))
  ∧ (∀ (id : Nat) (c : Cmd) (s : State) (f : Fence), Starts 0x0132 id c s →
    Map.get? s.fences (bitsAt c.pkt.w1 0 18) = some f → mayName s c f.ctx = true →
    exec (.fenceQuery id) s = .next (finish c 0 (fenceWord f) f.ctx [] s))
  ∧ (∀ (id : Nat) (c : Cmd) (s : State), Starts 0x0320 id c s →
    let n := bitsAt c.pkt.w1 0 18
    (∀ f, Map.get? s.fences n = some f → mayName s c f.ctx = true) →
    exec (.fenceSignal id) s = .next (finish c 0 0 0 [] (fenceRaise n (bitsAt c.pkt.w2 0 63) s)))
  ∧ (∀ (id : Nat) (c : Cmd) (s : State) (f : Fence), Starts 0x0321 id c s →
    Map.get? s.fences (bitsAt c.pkt.w1 0 18) = some f → mayName s c f.ctx = true →
    (bitsAt c.pkt.w2 0 63 ≤ f.value → exec (.fenceWait id) s = .next (finish c 0 (fenceWord f) 0 [] s))
    ∧ (f.value < bitsAt c.pkt.w2 0 63 → f.abandoned = true →
        exec (.fenceWait id) s = .next (finish c 0x10 (fenceWord f) 0 [] s))
    ∧ (f.value < bitsAt c.pkt.w2 0 63 → f.abandoned = false →
        exec (.fenceWait id) s = .next (sweep (setStep id (.fence (c.pkt.w3 != 0)) s))))
  ∧ (∀ (id : Nat) (c : Cmd) (s : State) (f : Fence), s.Holds id c → c.step = .fence true →
    Map.get? s.fences (bitsAt c.pkt.w1 0 18) = some f →
    exec (.fenceWaitTimeout id) s = .next (finish c 0x0F (fenceWord f) 0 [] s))

/-- DOORBELL moves the index of the queue that its page and offset select (R407, R463), COMMAND_FETCH takes one packet from a
command queue and reserves its completion slot (R464, R473), CTX_TEARDOWN_END frees a context whose drains have ended
(R488), OBJ_ADMIN_ENABLE places or removes an admin queue (R493), and IRQ_COALESCE_TIMER ends the quiet time of a ring or
of the error queue (R464, R582). -/
def Obligations.QueueTrafficCommandsComplete : Prop :=
  (∀ (port fn off d : Nat) (ide : Bool) (v : Word) (s : State),
    fon s F.hostpPortStatus_contained port = false → inD3 s port fn = false → (fget s F.partSec_tdisp fn = 2 → ide = true) →
    hubReady s = true → fon s F.hostpDbpt_enable 0 = true → off % 8 = 0 → doorbellPage s fn (off / 4096) = some d →
    let e := memNat s (fget s F.hostpDbpt_base 0 * 65536 + d * 8) 8
    let q := bitsAt e 17 11 * 512 + off % 4096 / 8
    lostSector s (fget s F.hostpDbpt_base 0 * 65536 + d * 8) 8 = false → bitOn e 0 = true → bitsAt e 28 8 = fn → (strictMode s = true → (queueGet s q).ctx = bitsAt e 1 16) →
    exec (.doorbell port fn off 8 ide v) s = .next (doorbellQueue fn q v.toNat s)
    ∧ (v.toNat < 2 ^ 32 → (queueGet s q).state = 1 → (ctxGet s (queueGet s q).ctx).state ≠ .dying →
       ((queueGet s q).kind ≤ 2 → diff32 (queueGet s q).pidx (queueGet s q).cidx ≤ diff32 v.toNat (queueGet s q).cidx →
         diff32 v.toNat (queueGet s q).cidx ≤ 2 ^ (queueGet s q).log2 →
         let t := queueMod q (fun d => { d with pidx := v.toNat }) s
         doorbellQueue fn q v.toNat s = if (queueGet s q).kind = 1 ∧ s.ready.contains q = false then { t with ready := q :: t.ready } else t)
       ∧ (3 ≤ (queueGet s q).kind → diff32 v.toNat (queueGet s q).cidx ≤ diff32 (queueGet s q).pidx (queueGet s q).cidx →
         doorbellQueue fn q v.toNat s = queueMod q (fun d => { d with cidx := v.toNat }) s)))
  ∧ (∀ (q a : Nat) (s : State), canFetch s q = true → queueSlot s q (queueGet s q).cidx = some (false, a) →
    lostSector s a 64 = false →
    exec (.commandFetch q) s = .next (sweep (enterCmd (.queue q) (queueGet s q).cidx (packetIn (memRead s a 64)) [] none
      (queueMod q (fun d => { d with cidx := add32 d.cidx 1 }) (ringReserve (queueGet s q).cplRing 1 s)))))
  ∧ (∀ (x : Nat) (s : State), (ctxGet s x).state = .dying → x ≠ 0 → contextBusy s x = false →
    exec (.ctxTeardownEnd x) s = .next (teardownEnd x s))
  ∧ (∀ (q : Nat) (v : Word) (s : State), q < 2 → exec (.objAdminEnable q v) s = .next (adminWrite q v s))
  ∧ (∀ (q : Nat) (s : State), (queueGet s q).irqWait = true →
    let t := queueMod q (fun d => { d with irqWait := false, irqOwed := false }) s
    exec (.irqCoalesceTimer (some q)) s = .next (if (queueGet s q).irqOwed = true then ringIrq q t else t))
  ∧ (∀ (s : State), s.errIrqWait = true →
    let t : State := { s with errIrqWait := false, errIrqOwed := false }
    exec (.irqCoalesceTimer none) s = .next (if s.errIrqOwed = true then errIrq t else t))

/-! ### Griset: mover transfers, host pages, the tick's records, programs, sessions and the KV cache (R142, R143, R162 to R167,
R186, R188, R413 to R416, R449, R474, R476, R478 to R484, R511) -/

/-- MEM_COPY, MEM_FILL, MOVER_COMPLETE, FAULT_REPLY, PIN_HOST, UNPIN_HOST, ATS_TRANSLATION_COMPLETION, INVALIDATE and
INVALIDATE_DRAINED complete: a transfer whose pages all translate runs until its bytes are moved, a fault record is
answered and its transfer goes on or fails, pins are set and released, a translation is cached, an invalidation marks what
it names and completes when the uses in flight have drained (R413 to R416, R474, R476, R478 to R484). -/
def Obligations.MoverAndInvalidationCommandsComplete : Prop :=
  (∀ (id : Nat) (c : Cmd) (m : Move) (s : State), moveOf s c = .ok m → firstBad s m.pages = none →
    (Starts 0x0201 id c s → exec (.memCopy id) s = .next (sweep (setStep id .running s)))
    ∧ (Starts 0x0202 id c s → exec (.memFill id) s = .next (sweep (setStep id .running s))))
  ∧ (∀ (id n : Nat) (c : Cmd) (m : Move) (host : List Byte) (s t : State), s.Holds id c → c.step = .running →
    c.pkt.opcode = 0x0201 ∨ c.pkt.opcode = 0x0202 → moveOf s c = .ok m → moveHeld s m = false →
    moveLoop c m (m.bytes / 64 + 1) 0 host s = (n, none, t) →
    exec (.moverComplete id host) s = .next (finish c 0 n 0 []
      (perfCount 0x0A ((Config.freeWord t.fresh).toNat % 9) (ctxGet t c.pkt.ctx).part n (tickFresh t))))
  ∧ (∀ (id : Nat) (c d : Cmd) (r : FaultRec) (s : State), Starts 0x0105 id c s →
    let x := bitsAt c.pkt.w1 0 16
    let seq := bitsAt c.pkt.w1 16 32
    let act := bitsAt c.pkt.w1 48 2
    let t := if bitOn c.pkt.w1 50 then ctxMod x (fun k => { k with ovf := false }) s else s
    let a := answer x seq t
    (ctxGet s x).state ≠ .free → (ctxGet t x).awaiting.find? (fun r => r.seq == seq && !r.answered) = some r →
    (r.mover = true → act ≤ 1 → a.cmds.find? (fun d => d.step == .parked x seq) = some d →
      (act = 0 → exec (.faultReply id) s = .next (finish c 0 0 0 [] (moverRetry d a)))
      ∧ (act = 1 → exec (.faultReply id) s = .next (finish c 0 0 0 [] (finish d 0x06 0 0 [] a))))
    ∧ (r.mover = false → act = 2 → a.cmds.find? (fun d => d.step == .parked x seq) = none →
      exec (.faultReply id) s = .next (finish c 0 0 0 [] a)))
  ∧ (∀ (id x va : Nat) (c : Cmd) (m : Move) (s : State), Starts 0x0204 id c s → moveOf s c = .ok m → m.src = some (x, va) →
    firstBad s m.pages = none →
    let t : State := { s with pins := s.pins
      ++ (pinsOf s x va m.bytes).filter fun k => !(s.pins.any fun j => j.ctx == k.ctx && j.page == k.page) }
    let port := boundPort s (ctxGet s x).part
    (t.atc.filter fun e => e.port == port && atcPinned t e).length ≤ 65536 →
    exec (.pinHost id) s = .next (finish c 0 (pinEntries t x va m.bytes).length 0 [] (setAts port t)))
  ∧ (∀ (id x va : Nat) (c : Cmd) (s : State), Starts 0x0205 id c s →
    orefRange s (ctxGet s c.pkt.ctx).part c.pkt.w1 c.pkt.w2 = .ok (x, va) → c.pkt.w2 ≠ 0 →
    exec (.unpinHost id) s = .next (finish c 0 0 0 []
      (unpinPages x (fun k => decide (va / 65536 ≤ k ∧ k ≤ (va + c.pkt.w2 - 1) / 65536)) s)))
  ∧ (∀ (part page log2 dest : Nat) (write : Bool) (s : State), 12 ≤ log2 → log2 ≤ 30 → s.cmds.filter (·.step == .ats) = [] →
    let port := boundPort s part
    let r := atcRoom port { s with atc := s.atc.filter fun e => !(e.part == part && e.page == page * 4096 / 2 ^ e.log2) }
    let e : Atc := { port := port, part := part, page := page * 4096 / 2 ^ log2, log2 := log2, dest := dest * 4096 / 2 ^ log2,
                     write := write }
    exec (.atsTranslationCompletion part page log2 (some dest) write) s = .next (setAts port { r with atc := r.atc ++ [e] }))
  ∧ (∀ (id : Nat) (c : Cmd) (s : State), Starts 0x0203 id c s →
    let x := bitsAt c.pkt.w1 0 16
    let first := c.pkt.w2 / 65536
    let last := (c.pkt.w2 + c.pkt.w3) / 65536 - 1
    let w := partGet s (ctxGet s x).part
    x ≠ 0 → c.pkt.w2 % 65536 = 0 → c.pkt.w3 % 65536 = 0 → c.pkt.w2 + c.pkt.w3 ≤ 2 ^ 57 → c.pkt.w3 ≠ 0 →
    (ctxGet s x).state ≠ .free → mayName s c x = true →
    let t := unpinPages x (fun g => decide (first ≤ g ∧ g ≤ last)) (markStaged x first last (markTiles x first last s))
    exec (.invalidate id) s = .next (sweep (setStep id
      (.drain t.edges w.workTick (ctxGet s x).part (w.live || w.undecided)) t)))
  ∧ (∀ (id e tick p : Nat) (live : Bool) (c : Cmd) (s : State), s.Holds id c → c.step = .drain e tick p live →
    drained s e tick p live = true → exec (.invalidateDrained id) s = .next (finish c 0 0 0 [] s))

/-- PART_TICK, CTX_RESUME, SESS_SET, SESS_RESERVE, SESS_RESET, SESS_QUERY, KV_MAP, KV_UNMAP and PROG_LOAD complete: a tick
record is offered; the edge-applied ones wait for the apply of a partition that will reach one, and are applied at once
otherwise, with what R142, R162, R188, R449, R476 and R511 give each. -/
def Obligations.TickAndSessionCommandsComplete : Prop :=
  (∀ (id : Nat) (c : Cmd) (r : TickRec) (s : State), Starts 0x0301 id c s →
    let p := bitsAt c.pkt.w1 0 8
    (partGet s p).enabled = false → fget s F.partSec_tdisp p ≠ 1 → fget s F.partSec_tdisp p ≠ 2 →
    lostSector s c.pkt.w2 64 = false → tickRecOf (memRead s c.pkt.w2 64) = some r → tickRecIn s p r = true →
    exec (.partTick id) s = .next (finish c 0 0 0 [] (partMod p (fun w => { w with offered := some r }) s)))
  ∧ (∀ (id : Nat) (c : Cmd) (s : State), Starts 0x0104 id c s →
    let x := bitsAt c.pkt.w1 0 16
    (ctxGet s x).state ≠ .free →
    (willApply s (ctxGet s x).part = true → exec (.ctxResume id) s = .next (sweep (setStep id .edge s)))
    ∧ (willApply s (ctxGet s x).part = false → (ctxGet s x).state = .faulted →
        exec (.ctxResume id) s = .next (finish c 0 0 0 [] (ctxMod x (fun k => { k with state := .active }) s))))
  ∧ (∀ (id q p : Nat) (c : Cmd) (r : TickRec) (s : State), sessQueue s c = .ok (q, p, r) →
    (∀ op, op = 0x0303 ∨ op = 0x0304 ∨ op = 0x0305 → Starts op id c s → (op = 0x0303 → bitsAt c.pkt.w2 8 8 ≤ 64) →
      willApply s p = true →
      exec (if op = 0x0303 then .sessSet id else if op = 0x0304 then .sessReserve id else .sessReset id) s
        = .next (sweep (setStep id .edge s)))
    ∧ (Starts 0x0303 id c s → bitsAt c.pkt.w2 8 8 ≤ 64 → willApply s p = false → (sessGet s r q).mode = 0 →
       let t := sessPut r q { mode := 0, prefillCls := bitsAt c.pkt.w2 0 3, decodeCls := bitsAt c.pkt.w2 3 3,
                              urgency := bitsAt c.pkt.w2 6 2, maxDrafts := bitsAt c.pkt.w2 8 8, nextDrafts := 0,
                              c := bitsAt c.pkt.w4 0 32, reserve := bitsAt c.pkt.w4 32 32, remaining := 0,
                              lastToken := bitsAt c.pkt.w5 0 32, outRing := bitsAt c.pkt.w2 16 20,
                              ctx := (queueGet s q).ctx, age := 0, kvRoot := c.pkt.w3, nextVA := 0 } s
       ∃ u, exec (.sessSet id) s = .next (finish c 0 0 0 [] u)
         ∧ (provAt t p q r = none → u = t)
         ∧ (∀ a, provAt t p q r = some a → u = devStore (a + 72) (leBytes 8 0) (devStore a (padTo 64 0 (provStart q p)) t)))
    ∧ (Starts 0x0304 id c s → willApply s p = false →
       let x := sessGet s r q
       x.c + (if x.mode = 1 then min x.remaining 8192 else 1 + x.maxDrafts) ≤ bitsAt c.pkt.w2 0 32 →
       exec (.sessReserve id) s = .next (finish c 0 0 0 [] (sessPut r q { x with reserve := bitsAt c.pkt.w2 0 32 } s)))
    ∧ (Starts 0x0305 id c s → willApply s p = false →
       let x := sessGet s r q
       x.mode = 0 ∨ x.mode = 3 →
       let t := sessPut r q { x with mode := 0 } s
       exec (.sessReset id) s = .next (finish c 0 0 0 []
         (if bitOn c.pkt.w2 0 = true then queueMod q (fun d => { d with cidx := d.pidx }) t else t)))
    ∧ (Starts 0x0306 id c s → exec (.sessQuery id) s
        = .next (finish c 0 (memNat s (sessAt r q) 8) (memNat s (sessAt r q + 8) 8) [] s))
    ∧ (∀ (k : KvLayout) (addrs : List Nat),
       let v := kvCmdOf c.pkt
       let root := (sessGet s r q).kvRoot
       Starts 0x0311 id c s → v.lo ≤ v.hi → v.count ≠ 0 →
       (willApply s p = true → exec (.kvUnmap id) s = .next (sweep (setStep id .edge s)))
       ∧ (willApply s p = false → kvLayout s [] p root = .ok k → v.plane < k.planes → v.hi < k.layers →
          v.first + v.count ≤ (if v.spine then k.spineLen else k.spineLen * 64) →
          (sessGet s r q).reserve ≤ v.first * (k.tpp v.plane * (if v.spine then 64 else 1)) →
          kvCmdAddrs s p root k v = .ok addrs →
          exec (.kvUnmap id) s = .next (finish c 0 0 0 [] (addrs.zipIdx.foldl (fun s a => devStore a.1 (leBytes 8 0) s) s))))
    ∧ (∀ (k : KvLayout) (x va : Nat) (host bs : List Byte) (addrs : List Nat),
       let v := kvCmdOf c.pkt
       let root := (sessGet s r q).kvRoot
       Starts 0x0310 id c s → v.lo ≤ v.hi → v.count ≠ 0 →
       orefRange s (ctxGet s c.pkt.ctx).part c.pkt.w3 (v.entries * 8) = .ok (x, va) →
       vaRead s x (piecesOf va (v.entries * 8)) host = .ok bs →
       (willApply s p = true → exec (.kvMap id host) s = .next (sweep (setStep id .edge (setPayload id bs s))))
       ∧ (willApply s p = false → kvLayout s [] p root = .ok k → v.plane < k.planes → v.hi < k.layers →
          v.first + v.count ≤ (if v.spine then k.spineLen else k.spineLen * 64) → kvCmdAddrs s p root k v = .ok addrs →
          exec (.kvMap id host) s = .next (finish c 0 0 0 []
            (addrs.zipIdx.foldl (fun s a => devStore a.1 ((bs.drop (8 * a.2)).take 8) s) (setPayload id bs s))))))
  ∧ (∀ (id x va x' va' : Nat) (c : Cmd) (host hd img : List Byte) (s : State), Starts 0x0302 id c s →
    let p := (ctxGet s c.pkt.ctx).part
    bitsAt c.pkt.w2 0 4 ≤ 8 → bitsAt c.pkt.w2 4 6 ≤ bitsAt c.pkt.w2 10 6 → bitsAt c.pkt.w3 4 4 = 0 → bitsAt c.pkt.w3 23 41 = 0 →
    (progBays c.pkt).all (fun b => partOfBay s b == some p) = true →
    orefRange s p c.pkt.w1 64 = .ok (x, va) → vaRead s x (piecesOf va 64) host = .ok hd →
    1 ≤ recAt hd 2 2 → recAt hd 2 2 ≤ 16 → orefRange s p c.pkt.w1 (recAt hd 2 2 * 65536) = .ok (x', va') →
    vaRead s x' (piecesOf va' (recAt hd 2 2 * 65536)) host = .ok img →
    (willApply s p = true → exec (.progLoad id host) s = .next (sweep (setStep id .edge (setPayload id img s))))
    ∧ (willApply s p = false → ∃ d0 d1 u, exec (.progLoad id host) s = .next (finish c 0 d0 d1 [] u)
        ∧ applyProgLoad { c with payload := img } (setPayload id img s) = (.done 0 d0 d1 [], u)))

/-- KV_PREFETCH, KV_ADVISE and KV_PAGE_COPY_DONE complete (R164 to R167, R476): a move reads its list and sets up its pages,
then waits for their copies; a page copied whole, in the class R164 gives the move, stages its switch in the partition's tick, or with
no tick to come has its entry rewritten at once; the last page completes the command. -/
def Obligations.PageMoveCommandsComplete : Prop :=
  (∀ (id q p x va : Nat) (c : Cmd) (r : TickRec) (k : KvLayout) (host list : List Byte) (pages : List KvPage) (s : State),
    sessQueue s c = .ok (q, p, r) → kvLayout s [] p (sessGet s r q).kvRoot = .ok k →
    bitsAt c.pkt.w1 20 8 ≤ bitsAt c.pkt.w1 28 8 → bitsAt c.pkt.w1 28 8 < k.layers → bitsAt c.pkt.w1 36 4 < 2 ^ k.planes →
    bitsAt c.pkt.w2 0 32 + bitsAt c.pkt.w2 32 32 ≤ 2 ^ k.maxLog2 →
    let names := kvMoveNames k c.pkt
    let cold := c.pkt.opcode == 0x0313 && !bitOn c.pkt.w4 3
    orefRange s (ctxGet s c.pkt.ctx).part c.pkt.w3 (8 * names.length) = .ok (x, va) →
    vaRead s x (piecesOf va (8 * names.length)) host = .ok list →
    kvMoveAll s p (sessGet s r q).kvRoot k cold list names.zipIdx = .ok pages →
    pages.all (fun g => decide (3 ≤ g.stage)) = false →
    (Starts 0x0312 id c s → exec (.kvPrefetch id host) s = .next (sweep (setStep id (.kvMove cold pages) s)))
    ∧ (Starts 0x0313 id c s → exec (.kvAdvise id host) s = .next (sweep (setStep id (.kvMove cold pages) s))))
  ∧ (∀ (id idx : Nat) (c : Cmd) (cold : Bool) (pages : List KvPage) (g : KvPage) (s : State), s.Holds id c →
    c.step = .kvMove cold pages → pages.find? (fun g => g.idx == idx && g.stage == 0) = some g →
    let p := edgePart s c
    layerHeld s p g.layer = false → memHeld s g.old 65536 = false → memHeld s g.dest 65536 = false →
    firstLost s g.old 65536 = none →
    let cls := kvClass s c p
    let copied := devStore g.dest (memRead s g.old 65536) (countReads g.old 65536 cls s) cls
    (inTick s p = true → exec (.kvPageCopyDone id idx) s = .next (setStep c.id (.kvMove cold (pageStage pages idx 1))
        (stageAll p [stagedSwitch c g] copied)))
    ∧ (inTick s p = false → willApply s p = false →
        exec (.kvPageCopyDone id idx) s = .next (kvMoveSet c cold (pageStage pages idx 3)
          (devStore g.entry (switchEntry g.dest) copied))))

/-! ### The tick (R177 to R218, R250 to R253, R622) -/

/-- TICK_EDGE_EMIT, EDGE, TICK_EDGE_APPLY, EDGE_MISSED, REPORT, REPORT_TIMEOUT, DECISION and TICK_RELEASE complete: the master
sends the edge, a member takes its first valid copy and forwards it below three hops, applies it with the number it
carries, reports and decides, and a released partition's tiles start (R177, R178, R202 to R204, R250, R251, R253). -/
def Obligations.EdgeReportAndDecisionCommandsComplete : Prop :=
  (∀ (t : Nat) (s : State), nextEdge s = some t →
    let b : EdgeBlock := { hops := 0, master := hubId s, epoch := edgeEpoch s, tick := t, remain := 8000000,
                           period := (s.dom.period.map (·.1)).getD 0, fromTick := (s.dom.period.map (·.2 % 2 ^ 32)).getD 0 }
    exec .tickEdgeEmit s = .next (repeatDecision (sendEdge none 0 b (domMod (fun d => { d with edge := some b }) s))))
  ∧ (∀ (port : Nat) (k : BlkArr) (b : EdgeBlock) (s : State), idnActive s port = true → blkOk k = true → b.hops ≤ 2 → 0 ≤ b.remain →
    b.epoch = edgeEpoch s → takesEdges s = true → s.dom.edge = none →
    (match s.dom.form, joinMsg s with
      | some _, _ => b.tick = 0
      | none, some m => m.edge ≤ b.tick
      | none, none => fget s F.tickCounter_count 0 < b.tick) →
    let t := domMod (fun d => { d with edge := some b }) (codewords port k.words (fwrap F.idnRxbytes_count F.idnRxbytes_ovf port 32 s))
    exec (.edge port k b) s = .next (if b.hops = 2 then t
      else sendEdge (some port) (Config.freeWord t.fresh).toNat { b with hops := b.hops + 1 } (tickFresh t)))
  ∧ (∀ (b : EdgeBlock) (s : State), s.dom.edge = some b → s.dom.form = none → fget s F.tickCounter_count 0 < tickMax →
    let t := domMod (fun d => { d with edge := none, edgeNs := (Config.timeNs s.fresh).toNat }) (tickFresh s)
    let u := fset F.tickCounter_count 0 b.tick (dueMembers b.tick t)
    u.failOwed = false → (u.dom.leave = true → b.tick < leaveEdge t) → isMember u = true →
    let new := b.master = hubId u ∧ masterId u ≠ hubId u
    let v := setMasterBit (fset F.domStatus_masterId 0 b.master u)
    exec .tickEdgeApply s = .next (edgeWork b.tick (edgePeriod b (domMod
      (fun d => { d with adopt := d.adopt || decide new
                         unsure := if new then (members v).filter (· != hubId v) else d.unsure
                         handover := d.handover.filter fun h => decide (b.tick < h.2) })
      v))))
  ∧ (∀ (s : State), isMember s = true → s.dom.edge = none → isMaster s = false →
    ∃ t, exec .edgeMissed s = .next (if s.dom.missed + 1 ≥ 4 then sendHello (departNow t) else t) ∧ t.dom = { s.dom with missed := s.dom.missed + 1 }
      ∧ t.regs = s.regs ∧ t.mem = s.mem
      ∧ (∀ p, (partGet s p).enabled = true → (partGet t p).undecided = true
          ∨ fon s F.partStatus_faulted p = true ∨ (partGet s p).replayOwed = true))
  ∧ (∀ (a : IdnArr) (lines : List RepLine) (s : State), a.pkt.ty = 0x10 → Taken a s → a.pkt.dst = hubId s →
    exec (.report a lines) s = .next (takeReport a.pkt.src a.pkt.addr lines (linkTaken a s)))
  ∧ (∀ (s : State), isMaster s = true → exec .reportTimeout s = .next (masterDecide s))
  ∧ (∀ (a : IdnArr) (lines : List DecLine) (s : State), a.pkt.ty = 0x11 → Taken a s → a.pkt.dst = hubId s →
    exec (.decision a lines) s = .next (decisionApply a.pkt.addr lines (linkTaken a s)))
  ∧ (∀ (p : Nat) (r : TickRec) (s : State),
    let w := partGet s p
    w.inForce = some r → w.live = true → w.released = false → w.undecided = false → s.dom.missed = 0 →
    w.drains.any (fun d => d.half == w.half) = false → (lsSecondary s p = true → w.lsReady = true) →
    exec (.tickRelease p) s = .next (releasePart p r s))

/-- DRAIN_LAYER_DONE, EGRESS_WRITE, FENCE_WRITE_APPLY, COMMIT_DRAIN_END and HOST_STORE_ACK complete: the lowest layer of the
oldest drain is applied, host stores, ring records and producer indices are written, fences are raised, the provenance
chains are extended and the staging half is free, and an acknowledged host store is no longer held (R205, R417, R511). -/
def Obligations.CommitDrainCommandsComplete : Prop :=
  (∀ (p : Nat) (d : Drain) (ds : List Drain) (e : Staged) (es : List Staged) (s : State),
    (partGet s p).drains = d :: ds → d.todo = e :: es →
    exec (.drainLayerDone p) s = .next (sweep ((d.todo.filter fun g => drainLayer g == drainLayer e).foldl
      (fun s g => drainItem d g s)
      (drainMod p (fun d => { d with todo := d.todo.filter fun g => drainLayer g != drainLayer e }) s))))
  ∧ (∀ (p : Nat) (d : Drain) (s : State), (partGet s p).drains.find? (fun d => !d.sent && d.todo.isEmpty) = some d →
    (drainHost s d = true → waitCause s p = false) →
    let t := d.egress.foldl (fun s e => putFor e.ctx true e.addr e.data false s) s
    let u := d.rings.foldl (fun s r => ringPut r.ring r.data s) t
    let v := ((d.rings.map (·.ring)).eraseDups).foldl (fun s q => ringPublish q s) u
    exec (.egressWrite p) s = .next (partMod p (fun w => { w with drains := w.drains.map fun e =>
      if e.tick = d.tick then { e with sent := true, egress := [], rings := [] } else e }) v))
  ∧ (∀ (p : Nat) (d : Drain) (s : State), (partGet s p).drains.find? (fun d => d.sent && !d.fenced && d.todo.isEmpty) = some d →
    exec (.fenceWriteApply p) s = .next (sweep (partMod p (fun w => { w with drains := w.drains.map fun e =>
      if e.tick = d.tick then { e with fenced := true } else e }) (d.fences.foldl (fun s f => fenceRaise f.2.1 f.2.2 s) s))))
  ∧ (∀ (p : Nat) (d : Drain) (ds : List Drain) (r : TickRec) (s : State), (partGet s p).drains = d :: ds →
    (partGet s p).inForce = some r → d.todo = [] → d.sent = true → d.fenced = true →
    exec (.commitDrainEnd p) s = .next (sweep (partMod p (fun w => { w with drains := ds })
      (d.exts.foldl (fun s e => extendChain p r e s) s))))
  ∧ (∀ (port : Nat) (h : HostStore) (s : State), s.unacked.find? (fun h => h.port == port && h.sent) = some h →
    exec (.hostStoreAck port) s = .next { s with unacked := s.unacked.erase h })

/-- TICK_CTRL_WRITE, TICK_PERIOD_SET_WRITE, PART_CFG_ENABLE, PART_CFG_DISABLE, PART_IDOON_WRITE and TICK_PERIOD complete: RUN
takes its bit; the master's period request is accepted for a tick at least four ahead and a period of 100 us to 1 s; a
partition that may be enabled takes the offered record and waits for the edge, a disable waits for it too; the port mask
of a disabled partition is written, that of an enabled one is refused (R181 to R183, R215, R218, R476, R510, R622). -/
def Obligations.TickRegisterWritesComplete : Prop :=
  (∀ (v : Word) (s : State), exec (.tickCtrlWrite v) s = .next (fset F.tickCtrl_run 0 (v.toNat % 2) s))
  ∧ (∀ (v : Word) (s : State), isMaster s = true →
    let ns := v.toNat % 2 ^ 30
    let low := v.toNat / 2 ^ 32 % 2 ^ 32
    let t := fset F.tickPeriodSet_atTick 0 low (fset F.tickPeriodSet_periodNs 0 ns s)
    let ok := decide (fget t F.tickCounter_count 0 + 4 ≤ atTickOf t low) && decide (100000 ≤ ns ∧ ns ≤ 1000000000)
    let u := if ok then domMod (fun d => { d with period := some (ns, atTickOf t low % 2 ^ 32) }) t else t
    exec (.tickPeriodSetWrite v) s = .next (fset F.tickPeriodSet_accepted 0 (bit01 ok) u)
    ∧ (∀ (id : Nat) (c : Cmd), Starts 0x0406 id c s → c.pkt.w1 = v.toNat →
        let r := fset F.tickPeriodSet_accepted 0 (bit01 ok) u
        exec (.tickPeriod id) s = .next (finish c 0 (rget r .tickPeriodSet 0).toNat 0 [] r)))
  ∧ (∀ (p : Nat) (v : Word) (s : State), p < 256 →
    let t := fset F.partCfg_recoverLog2 p (v.toNat / 2 ^ 8 % 2 ^ 4) (fset F.partCfg_ceiling p (v.toNat / 2 % 2 ^ 6) s)
    (v.getLsbD 0 = true → mayEnable t p = true → ((partGet s p).enabled = true → (partGet s p).stopping = true) →
      exec (.partCfgEnable p v) s = .next (fset F.partCfg_enable p 1
        (partSet p { partGet s p with taken := (partGet s p).offered, enabling := true } t)))
    ∧ (v.getLsbD 0 = true → mayEnable t p = true → (partGet s p).enabled = true → (partGet s p).stopping = false →
      exec (.partCfgEnable p v) s = .next t)
    ∧ (v.getLsbD 0 = true → mayEnable t p = false →
      exec (.partCfgEnable p v) s = .next (logErr { code := 0x0914, cls := clsRefused, part := some p } t))
    ∧ (v.getLsbD 0 = false → exec (.partCfgDisable p v) s = .next (fset F.partCfg_enable p 0
        (partMod p (fun w => { w with enabling := false, stopping := w.enabled }) t)))
    ∧ ((partGet s p).enabled = false → exec (.partIdoonWrite p v) s = .next (fset F.partIdoon_ports p (v.toNat % 2 ^ 32) s))
    ∧ ((partGet s p).enabled = true → exec (.partIdoonWrite p v) s = .next (logRefused 0x0B02 (some p) s)))

/-! ### The domain (R243 to R266) -/

/-- HELLO_TIMER, HELLO, FORM, FORM_ACK, FORM_TIMEOUT, JOIN, MEMBERSHIP, HANDOVER and MASTER_LOSS complete: HELLOs are flooded,
kept and passed on, a FORM is checked and acknowledged or refused with its cause, acknowledgements are gathered, an expired
wait forms without the absent hubs or is refused, a JOIN is answered by a membership, a newer membership is kept for its
edge, a named successor takes over, and a lost master is replaced by the lowest-numbered reachable member (R245 to R249,
R254, R255, R262, R263). -/
def Obligations.FormationAndMembershipCommandsComplete : Prop :=
  (∀ (s : State),
    let t := sendHello s
    (∀ e ∈ t.dom.silent, e.2 < 3) → t.dom.form = none →
    let u := tryForm (helloRoutes (domMod (fun d => { d with silent := Map.map d.silent fun _ n => n + 1, stable := d.stable + 1 }) t))
    exec .helloTimer s = .next (domMod (fun d => { d with dups := [] })
      (if !isMember u && fon u F.domStatus_forming 0 && u.dom.form.isNone && (joinMsg u).isNone then sendJoin u else u)))
  ∧ (∀ (a : IdnArr) (h : HelloMsg) (s : State), a.pkt.ty = 0x18 → Taken a s → h.hub ≠ hubId s →
    let t := takeHello h (linkTaken a s)
    exec (.hello a h) s = .next (
      if Map.get? s.dom.silent h.hub = some 0 ∧ Map.get? s.dom.hellos h.hub = some h then t
      else passOn { a with pkt := { a.pkt with dst := hubId s } } t))
  ∧ (∀ (a : IdnArr) (f : FormMsg) (s : State), a.pkt.ty = 0x19 → Taken a s → a.pkt.dst = hubId s → isMember s = false →
    f.members.contains (hubId s) = true →
    let t := linkTaken a s
    (formCause t f.members f.adj true = none →
      exec (.form a f) s = .next (sendDomain 0x1A f.master [f.epoch] (takeForm f t)))
    ∧ (∀ cause, formCause t f.members f.adj true = some cause → exec (.form a f) s = .next (domRefuse cause t)))
  ∧ (∀ (a : IdnArr) (f : FormMsg) (epoch : Nat) (s : State), a.pkt.ty = 0x1A → Taken a s → a.pkt.dst = hubId s →
    s.dom.form = some f → f.epoch = epoch → s.dom.acks.contains a.pkt.src = false →
    exec (.formAck a epoch) s = .next (domMod (fun d => { d with acks := a.pkt.src :: d.acks }) (linkTaken a s)))
  ∧ (∀ (s : State), isMember s = false → s.dom.form = none → s.dom.gone = false → fon s F.tickCtrl_run 0 = true →
    fon s F.domStatus_forming 0 = false → (expectedHubs s).all (runningHubs s).contains = false →
    exec .formTimeout s = .next (
      if s.cfg.partialOk = true then tryForm (domMod (fun d => { d with timedOut := true }) s) else domRefuse 4 s))
  ∧ (∀ (a : IdnArr) (h : HelloMsg) (s : State), a.pkt.ty = 0x1B → Taken a s → h.hub ≠ hubId s →
    (isMaster s = true → exec (.join a h) s = .next (takeJoin h (linkTaken a s)))
    ∧ (isMaster s = false → exec (.join a h) s
        = .next (passOn { a with pkt := { a.pkt with dst := hubId s } } (linkTaken a s))))
  ∧ (∀ (a : IdnArr) (m : MemberMsg) (s : State), a.pkt.ty = 0x12 → Taken a s → a.pkt.dst = hubId s → isMember s = true →
    fget s F.domStatus_epoch 0 < m.epoch →
    exec (.membership a m) s = .next (domMod (fun d => { d with changes :=
      (d.changes.filter fun c => decide (c.edge < m.edge)) ++ [m] ++ d.changes.filter fun c => decide (m.edge < c.edge) }) (linkTaken a s)))
  ∧ (∀ (a : IdnArr) (m : MemberMsg) (s : State), a.pkt.ty = 0x12 → Taken a s → a.pkt.dst = hubId s → isMember s = false →
    fon s F.domStatus_forming 0 = true → s.dom.form = none → m.members.contains (hubId s) = true →
    let t := linkTaken a s
    (∀ cause, formCause t m.members m.adj false = some cause → exec (.membership a m) s = .next (domRefuse cause t))
    ∧ (formCause t m.members m.adj false = none → exec (.membership a m) s
        = .next (domMod (fun d => { d with adj := m.adj }) (domMod (fun d => { d with changes := putChange m d.changes }) t))))
  ∧ (∀ (a : IdnArr) (tick : Nat) (held : List (Nat × Nat)) (s : State), a.pkt.ty = 0x1C → Taken a s → a.pkt.dst = hubId s →
    isMember s = true →
    exec (.handover a (hubId s) ⟨tick, held⟩) s = .next (domMod (fun d => { d with
      handover := some (hubId s, tick), holders := held.foldl (fun m e => Map.set m e.1 (bitList 64 e.2)) d.holders }) (linkTaken a s)))
  ∧ (∀ (top : Nat) (held : List Nat) (s : State), isMember s = true → isMaster s = false → 2 ≤ s.dom.missed →
    ((members s).filter fun h => h != masterId s && (h == hubId s || (nextHop s h).isSome)).head? = some (hubId s) →
    let t := max top (fget s F.tickCounter_count 0) + 1
    let u := domMod (fun d => { d with handover := some (hubId s, t)
                                       lostParts := d.lostParts ++ held.filter (!d.lostParts.contains ·) }) s
    exec (.masterLoss top held) s = .next (dropFrom t [masterId s] u)
    ∧ (s.dom.changes = [] → dropFrom t [masterId s] u = announce { memberLess ⟨0, members s, s.dom.adj, t⟩ [masterId s] with
        epoch := fget s F.domStatus_epoch 0 + 1 } u))

/-- DOM_CTRL_LEAVE, DOM_CTRL_JOIN, DOM_CTRL_HANDOVER, DOM_LEAVE, DOM_JOIN, DOM_HANDOVER, DOM_QUERY, LS_CFG_WRITE, LS_CONFIG,
LS_BDT and LS_SIG complete: the register's bits and the Griset commands leave, join and hand over alike, a query returns
DOM_STATUS and DOM_MEMBERS, lock-step is configured where it is licensed, and the pieces of the table and of the
signatures are gathered (R254, R259 to R263, R265, R266, R476). -/
def Obligations.DomainControlAndLockStepCommandsComplete : Prop :=
  (∀ (v : Word) (s : State),
    let h := v.toNat / 2 ^ 8 % 2 ^ 6
    let t := fset F.domCtrl_handoverTo 0 h s
    (v.toNat % 8 = 1 → exec (.domCtrlLeave v) s = .next (leaveDomain t))
    ∧ (v.toNat % 8 = 2 → exec (.domCtrlJoin v) s = .next (joinDomain t))
    ∧ (v.toNat % 8 = 4 → exec (.domCtrlHandover v) s = .next (handOver (some h) t)))
  ∧ (∀ (id : Nat) (c : Cmd) (s : State),
    (Starts 0x0401 id c s → isMember s = false → s.dom.form = none →
      exec (.domJoin id) s = .next (finish c 0 0 0 [] (joinDomain s)))
    ∧ (Starts 0x0402 id c s → isMember s = true → exec (.domLeave id) s = .next (finish c 0 0 0 [] (leaveDomain s)))
    ∧ (Starts 0x0403 id c s → isMaster s = true →
        exec (.domHandover id) s = .next (finish c 0 0 0 [] (handOver (some (bitsAt c.pkt.w1 0 6)) s)))
    ∧ (Starts 0x0404 id c s → exec (.domQuery id) s
        = .next (finish c 0 (rget s .domStatus 0).toNat (rget s .domMembers 0).toNat [] s))
    ∧ (Starts 0x0405 id c s → lsLicensed s = true → exec (.lsConfig id) s
        = .next (finish c 0 0 0 [] (rset s .lsCfg 0 (BitVec.ofNat 64 (c.pkt.w1 % 2 ^ 16))))))
  ∧ (∀ (v : Word) (s : State), lsLicensed s = true →
    exec (.lsCfgWrite v) s = .next (rset s .lsCfg 0 (BitVec.ofNat 64 (v.toNat % 2 ^ 16))))
  ∧ (∀ (a : IdnArr) (r : TickRec) (s : State), a.pkt.ty = 0x20 → Taken a s → a.pkt.dst = hubId s →
    let t := linkTaken a s
    let p := a.pkt.part
    let w := partGet t p
    w.inForce = some r → lsSecondary t p = true → w.live = true → w.lsReady = false →
    let got := if w.lsGot.contains a.pkt.addr then w.lsGot else a.pkt.addr :: w.lsGot
    let u := partSet p { w with lsGot := got } (devStore (r.bdtPA + a.pkt.addr) a.pkt.data t)
    let whole := got.contains 0 && (got.length == (64 + 128 * memNat u (r.bdtPA + 12) 4 + 511) / 512)
    exec (.lsBdt a) s = .next (if whole = true then lsTakeTable p r u else u))
  ∧ (∀ (a : IdnArr) (hub : Nat) (s : State), a.pkt.ty = 0x20 → Taken a s → a.pkt.dst = hubId s →
    let t := linkTaken a s
    let p := a.pkt.part
    let w := partGet t p
    w.enabled = true → w.live = false → lockOf t p = some (false, hub) →
    exec (.lsBdt a) s = .next (partMod p (fun w => { w with lsEarly := w.lsEarly ++ [(a.pkt.addr, a.pkt.data)] }) t))
  ∧ (∀ (a : IdnArr) (s : State), a.pkt.ty = 0x21 → Taken a s → a.pkt.dst = hubId s →
    let t := linkTaken a s
    let p := a.pkt.part
    (partGet t p).lock.isSome = true → (partGet t p).sigGot.contains a.pkt.addr = false →
    let old := padTo 2560 0 (partGet t p).lsPeer
    exec (.lsSig a) s = .next (lsSettle (partMod p (fun w => { w with
      sigGot := a.pkt.addr :: w.sigGot
      lsPeer := old.take a.pkt.addr ++ a.pkt.data ++ old.drop (a.pkt.addr + a.pkt.data.length) }) t)))

/-! ### The Idoon ports (R223 to R240, R252, R268) -/

/-- PEER_PATTERN_SEEN, DETECT_TIMEOUT, TRAIN_RETRY_WAIT, EQUALISATION_END, EQUALISE_TIMEOUT, IDOON_LANE_TEST_DONE,
CODEWORD_LOCK, LOCK_TIMEOUT, MEASURE_DONE, LANE_FAULT, LOSS_OF_SIGNAL, QRETRAIN_DONE and QRETRAIN_TIMEOUT take a port from
state to state as R236 to R240 say. -/
def Obligations.PortTrainingEventsComplete : Prop :=
  ∀ (k : Nat) (s : State),
    (∀ (lanes : Nat) (fast : Bool), idnState s k = 2 → 4 ≤ lanes →
      exec (.peerPatternSeen k lanes fast) s
        = .next (setIdn k 3 (fset F.idnStatus_rate k (bit01 (fast && bitOn (s.cfg.groups.getD k 0) 2)) s)))
    ∧ (idnState s k = 2 → exec (.detectTimeout k) s = .next (failTraining k 1 s))
    ∧ (idnState s k = 1 → fget s F.idnStatus_fails k ≠ 0 → fon s F.idnCtrl_disable k = false →
        exec (.trainRetryWait k) s = .next (trainPort k s))
    ∧ (∀ bad, idnState s k = 3 → widthOf bad ≠ 0 →
        exec (.equalisationEnd k bad) s = .next (sendTrain k (widthOf bad) (setIdn k 4 (fset F.idnLanes_bad k bad s))))
    ∧ (idnState s k = 3 → exec (.equaliseTimeout k) s = .next (failTraining k 1 s))
    ∧ (∀ bad, idnState s k = 4 →
        let q := idnGet s k
        let b := bad ||| fget s F.idnLanes_bad k
        let both := b ||| q.peerBad
        let t := sendTrain k (widthOf b) (fset F.idnLanes_bad k b s)
        widthOf b ≠ 0 → widthOf both ≠ 0 → peerOk t q = true →
        (q.peerWidth ≠ widthOf b → q.agreed = false → exec (.idoonLaneTestDone k bad) s = .next (failTraining k 3
            (fset F.idnLanes_bad k 0 (idnMod k (fun q => { q with agreed := true, heard := false, peerBad := 0 }) t))))
        ∧ (q.peerWidth = widthOf b ∨ q.agreed = true →
            let auth := decide (hubId t < q.peerHub)
            exec (.idoonLaneTestDone k bad) s = .next (setIdn k 5 (setWidth k both
              (min (if q.agreed = true ∧ auth = false then q.peerWidth else widthOf b) (widthOf both))
                (fset F.idnStatus_authority k (bit01 auth)
                  (fset F.idnStatus_peerGroup k q.peerGroup (fset F.idnStatus_peerHub k q.peerHub t)))))))
    ∧ (∀ good, idnState s k = 5 → 64 ≤ good →
        exec (.codewordLock k good) s = .next (sendTsync k 0 0 (setIdn k 6 (idnMod k (fun q => { q with samples := 0 }) s))))
    ∧ (idnState s k = 5 → exec (.lockTimeout k) s = .next (failTraining k 1 s))
    ∧ (idnState s k = 6 → 1024 ≤ (idnGet s k).samples →
        let q := idnGet s k
        exec (.measureDone k) s = .next (helloRoutes (pump k (fset F.idnStatus_fails k 0 (setIdn k 7
          (idnSet k { waiting := q.waiting, role := q.role, peerHub := q.peerHub, peerGroup := q.peerGroup, cap := q.cap } s))))))
    ∧ (∀ lane, idnActive s k = true → lane < 18 →
        exec (.laneFault k lane) s = .next (quickWidth k (fget s F.idnLanes_bad k ||| 2 ^ lane)
          (setIdn k 8 (idnMod k (fun q => { q with samples := 0 }) s))))
    ∧ (idnActive s k = true → exec (.lossOfSignal k) s = .next (portLost k (setIdn k 1 s)))
    ∧ (idnState s k = 8 → 64 ≤ (idnGet s k).samples → fget s F.idnStatus_width k ≠ 0 →
        exec (.qretrainDone k) s = .next (pump k (resend k (idnGet s k).replay (setIdn k 7 s))))
    ∧ (idnState s k = 8 → exec (.qretrainTimeout k) s = .next (portLost k (trainPort k s)))

/-- IDLE_BLOCK, ACK, NAK, CREDIT, TSYNC, TRAIN and ACK_TIMER complete, with their bytes and codewords counted: an ACK and a NAK drop what the
peer has, a NAK sends the rest again or, the eighth time, retrains; credits come back; a sample is half the round trip; the
peer's TRAIN is kept; an owed ACK goes out. IDN_CTRL_RETRAIN, IDN_CTRL_RELEASE and IDN_CTRL_DISABLE do what R268 says (R227,
R228, R235, R237, R239, R252, R268). -/
def Obligations.PortBlocksAndControlComplete : Prop :=
  (∀ (k : Nat) (b : BlkArr) (s : State), hasLink s k = true → blkOk b = true →
    let t := codewords k b.words (fwrap F.idnRxbytes_count F.idnRxbytes_ovf k 32 s)
    exec (.idleBlock k b) s = .next t
    ∧ (∀ seq, idnActive t k = true → exec (.ack k b seq) s = .next (pump k (idnMod k (fun q =>
        { q with replay := replayFrom q ((seq % 4096 + 1) % 4096), naks := 0 }) t)))
    ∧ (∀ seq, idnActive t k = true →
        let q := idnGet t k
        let n := if q.nakSeq = seq % 4096 then q.naks + 1 else 1
        let q' : IdnPort := { q with replay := replayFrom q (seq % 4096), nakSeq := seq % 4096, naks := n }
        let u := idnSet k q' t
        exec (.nak k b seq) s = .next (if 8 ≤ n then quickRetrain k u else pump k (resend k q'.replay u)))
    ∧ (∀ vc blocks, idnActive t k = true → vc < 4 → exec (.credit k b vc blocks) s = .next (pump k (idnMod k (fun q =>
        { q with used := Map.set q.used vc (Map.get q.used 0 vc - blocks) }) t)))
    ∧ (∀ departure echoed hold now, idnState t k = 6 ∨ idnState t k = 8 →
        let u := sendTsync k departure now t
        exec (.tsync k b departure echoed hold now) s = .next (if echoed = 0 then u
          else fset F.idnStatus_latPs k ((now - echoed - hold) / 2) (idnMod k (fun q => { q with samples := q.samples + 1 }) u)))
    ∧ (∀ role hub group lanes width, idnActive t k = false →
        let u := idnMod k (fun q => { q with
          role := role, peerHub := hub % 64, peerGroup := group, peerWidth := width, peerBad := lanes % 2 ^ 18, heard := true }) t
        let bad := fget u F.idnLanes_bad k ||| lanes % 2 ^ 18
        exec (.train k b role hub group lanes width) s = .next (if idnState u k ≠ 8 then u
          else if fon u F.idnStatus_authority k = false then setWidth k (lanes % 2 ^ 18) width u
          else if bad = fget u F.idnLanes_bad k then u else quickWidth k bad u)))
  ∧ (∀ (k : Nat) (b : BlkArr) (s : State), hasLink s k = true → blkOk b = false →
    exec (.idleBlock k b) s = .next (codewords k b.words (fwrap F.idnRxbytes_count F.idnRxbytes_ovf k 32 s)))
  ∧ (∀ (k : Nat) (s : State), idnActive s k = true → (idnGet s k).ackOwed = true →
    exec (.ackTimer k) s = .next (sendBlock k 0x01 [((idnGet s k).rxSeq + 4095) % 4096]
      (idnSet k { idnGet s k with ackOwed := false } s)))
  ∧ (∀ (k : Nat) (v : Word) (s : State), k < 36 →
    let t := fset F.idnCtrl_disable k (v.toNat / 4 % 2) s
    (v.toNat % 4 = 1 → exec (.idnCtrlRetrain k v) s = .next (retrainPort k t))
    ∧ (v.toNat % 4 = 2 → exec (.idnCtrlRelease k v) s = .next (releasePort k t))
    ∧ (v.toNat % 8 = 4 → exec (.idnCtrlDisable k v) s = .next t))

/-! ### The hub network, requests of other hubs, and the sluice (R310 to R332, R343 to R352) -/

/-- RD, WR, RD_RSP, WR_ACK, ERR_RSP, NET_SIG, CTRL, REQUEST_TIMEOUT, TARGET_DEADLINE, NET_CREDIT_RETURN, NET_INTERFACE_READY,
SCARF_QUICK_RETRAIN, SCARF_RETRAIN_DONE, TRC_CTRL_ARM and PRB_FILTER_ENABLE complete: a packet that reaches its destination
is served there or ends its request, timers drop a request on either side, credits come back, a bay leaves reset, a
crossing retrains or is disabled, and traces and probes are set (R314, R319, R320, R322 to R326, R343, R347, R348). -/
def Obligations.HubNetworkCommandsComplete : Prop :=
  (∀ (a : NetArr) (way : List NetHop) (s : State),
    (let c := netClassed s a
     homesFull s a.pkt.addr (a.pkt.lines * 64) = false →
      (Reaches 0x01 c way (netOpen c.pkt false s) →
        exec (.rd a) s = .next (netServe false c.pkt (journeyed 0x01 c way (netOpen c.pkt false s))))
      ∧ (Reaches 0x03 c way (netOpen c.pkt true s) →
        exec (.wr a) s = .next (netServe true c.pkt (journeyed 0x03 c way (netOpen c.pkt true s)))))
    ∧ (Reaches 0x02 a way s → exec (.rdRsp a) s = .next (netClose a.pkt.dst a.pkt.tag (journeyed 0x02 a way s)))
    ∧ (Reaches 0x04 a way s → exec (.wrAck a) s = .next (netDone a.pkt.dst a.pkt.tag (journeyed 0x04 a way s)))
    ∧ (∀ r, Reaches 0x07 a way s → netWaits (journeyed 0x07 a way s) a.pkt.dst a.pkt.tag = some r →
        exec (.errRsp a) s = .next (netFail r a.pkt.status (journeyed 0x07 a way s)))
    ∧ (Reaches 0x05 a way s →
        let t := journeyed 0x05 a way s
        exec (.netSig a) s = .next (sigArrive (nodeGlobal t a.pkt.src) (nodeTile a.pkt.src) a.pkt.data t))
    ∧ (Reaches 0x50 a way s → exec (.ctrl a) s = .next (journeyed 0x50 a way s)))
  ∧ (∀ (src tag : Nat) (r : NetReq) (s : State), netWaits s src tag = some r →
    (let mine := fun (w : Asker) => w == .unit src tag
     let t : State := { (netDone src tag s) with
       idnReqs := s.idnReqs.filter fun q => !mine q.who
       joins := s.joins.filter fun j => !mine j.who
       sites := List.map (fun e => (e.1, { e.2 with asks := e.2.asks.filter (fun x => !mine x.who)
                                                    waiting := e.2.waiting.filter (fun x => !mine x.who) })) s.sites }
     let u := moverTimeout src tag t
     let v := match r.part with | some p => spoil p (.link (0x60000 + src)) false u | none => u
     exec (.requestTimeout src tag) s = .next (logErr
       { code := 0x0407, cls := if liveOf s r.part = true then clsSpoil else clsInfo, part := r.part, source := src,
         addr := some r.addr } v))
    ∧ (r.answered = false → r.dropped = false →
       let out := fun (t : CohTxn) => match t.goal with
         | .serve q => if cohIsOf s src tag q && t.ack.isNone then { t with goal := .drop } else t
         | .drop => t
       exec (.targetDeadline src tag) s = .next (netMod src tag (fun r => { r with dropped := true })
         { s with slices := List.map (fun e => (e.1, { e.2 with queue := e.2.queue.filter (fun q => !cohIsOf s src tag q)
                                                                txns := e.2.txns.map out })) s.slices
                  joins := s.joins.filter fun j => j.who != .unit src tag })))
  ∧ (∀ (field node port vc flits : Nat) (crossing : Option Nat) (s : State),
    let q := match crossing with | some x => 5 + x | none => port
    let k := creditKey field node q vc
    let n := Map.get s.netUsed 0 k - flits
    ¬ (64 ≤ node ∧ node < 96 ∧ hasSeam field ((node - 64) / 8) ∧ (q = 5 ∨ q = 6)
        ∧ fget s F.scarfStatus_state (crossingAt field ((node - 64) / 8) (node % 8) (q - 5)) = 1) →
    exec (.netCreditReturn field node port vc flits crossing) s
      = .next { s with netUsed := if n = 0 then Map.erase s.netUsed k else Map.set s.netUsed k n })
  ∧ (∀ (bay : Nat) (s : State), s.netReset.contains bay = true →
    let node := match Map.get? s.bayMap bay with | some 64 => 96 | some 65 => 97 | _ => bay % 64
    exec (.netInterfaceReady bay) s = .next (sweep { s with
      netReset := s.netReset.filter (· != bay)
      netUsed := Map.keep s.netUsed fun k => decide (k / 4 % 16 ≠ 15 ∨ k / 64 ≠ bay / 64 * 128 + node) }))
  ∧ (∀ (field c : Nat) (s : State), field < 9 → c < 32 →
    let i := field * 32 + c
    (∀ n, fget s F.scarfStatus_state i = 0 → exec (.scarfQuickRetrain field c n) s
      = .next (fbump F.scarfStatus_retrains i 1 (fset F.scarfStatus_state i 1 (fbump F.scarfCeCount_count i n s))))
    ∧ (∀ back, fget s F.scarfStatus_state i = 1 →
        let k := i * 2 + bit01 back
        let n := Map.get s.bridgeSpares 0 k
        (n < 32 → exec (.scarfRetrainDone field ⟨c, back⟩ true []) s = .next (fset F.scarfStatus_state i 0
          (fbump F.scarfStatus_sparesUsed i 1 { s with bridgeSpares := Map.set s.bridgeSpares k (n + 1) })))
        ∧ (32 ≤ n → exec (.scarfRetrainDone field ⟨c, back⟩ true []) s = .next (scarfDisable field c s))
        ∧ exec (.scarfRetrainDone field ⟨c, back⟩ false []) s = .next (scarfDisable field c s)))
  ∧ (∀ (field : Nat) (v : Word) (s : State),
    let t := fset F.trcCtrl_wrap field (v.toNat / 2 % 2) (fset F.trcCtrl_arm field (v.toNat % 2) s)
    exec (.trcCtrlArm field v) s
      = .next (if v.toNat % 2 = 1 then fset F.trcCtrl_full field 0 (fset F.trcCtrl_wrptr field 0 t) else t))
  ∧ (∀ (i : Nat) (v : Word) (s : State), i < 882 →
    let a := rset s .prbFiltA i (BitVec.ofNat 64 (v.toNat % 2 ^ 40))
    let b := rset s .prbFiltB i (BitVec.ofNat 64 (v.toNat % 2 ^ 40))
    (v.toNat % 2 = 1 → fon s F.prbFiltA_enable i = false → exec (.prbFilterEnable false i v) s
      = .next (fset F.prbFlitsA_count i 0 (fset F.prbPktsA_count i 0 a)))
    ∧ (v.toNat % 2 = 1 → fon s F.prbFiltB_enable i = false → exec (.prbFilterEnable true i v) s
      = .next (fset F.prbFlitsB_count i 0 (fset F.prbPktsB_count i 0 b))))

/-- IDOON_RD_REQ, IDOON_WR, IDOON_RD_RSP, IDOON_WR_ACK, IDOON_ERR_RSP and IDOON_SIG complete: a request of another hub is served
where its address falls, an answer ends the request that awaits it with the data or the status it brings, and a signal
raises a sync counter (R26, R94, R146, R231, R232, R577). SLUICE_WINDOW and SLUICE_AGE_PROMOTE complete: a new window
counts the classes held over budget and starts at zero, and an aged request rises (R329, R330, R332, R350). -/
def Obligations.IdoonAccessAndSluiceCommandsComplete : Prop :=
  (∀ (a : IdnArr) (s : State), Taken a s → a.pkt.dst = hubId s →
    let p := a.pkt
    let t := linkTaken a s
    (p.ty = 0x01 → homesFull s p.addr (p.rlen * 32) = false → exec (.idoonRdReq a) s = .next (hubServe false p t))
    ∧ (p.ty = 0x03 → homesFull s p.addr p.data.length = false → exec (.idoonWr a) s = .next (hubServe true p t))
    ∧ (∀ r, p.ty = 0x02 → t.idnReqs.find? (fun r => r.tag == p.tag && r.dst == p.src && !r.write) = some r →
        exec (.idoonRdRsp a) s
          = .next (answerTo r.write (some r.part) r.cls 0 p.data { t with idnReqs := t.idnReqs.erase r } r.who))
    ∧ (∀ r, p.ty = 0x04 → t.idnReqs.find? (fun r => r.tag == p.tag && r.dst == p.src && r.write) = some r →
        exec (.idoonWrAck a) s
          = .next (answerTo r.write (some r.part) r.cls 0 p.data { t with idnReqs := t.idnReqs.erase r } r.who))
    ∧ (∀ r, p.ty = 0x07 → p.tag ≠ sigTag → t.idnReqs.find? (fun r => r.tag == p.tag && r.dst == p.src && true) = some r →
        exec (.idoonErrRsp a) s
          = .next (answerTo r.write (some r.part) r.cls p.rlen p.data { t with idnReqs := t.idnReqs.erase r } r.who))
    ∧ (p.ty = 0x07 → p.tag = sigTag → exec (.idoonErrRsp a) s = .next (sigRefused p t))
    ∧ (p.ty = 0x05 → exec (.idoonSig a) s = .next (sigRemote p t)))
  ∧ (∀ (s : State),
    let ovr := (List.range 8).filter fun c => s.slcCount.any fun e => e.1 % 8 == c && overBudget s (e.1 / 2048) (e.1 / 8 % 256) c
    let t := ovr.foldl (fun s c => fbump F.slcDemoteCount_count c 1 s) s
    exec .sluiceWindow s = .next { t with
      slcCount := []
      slcShares := (List.range 40).filterMap fun i =>
        if fget t F.slcShare_share i = 1024 then none else some (i, fget t F.slcShare_share i) })
  ∧ (∀ (k i src tag : Nat) (p : IdnPkt) (s : State),
    ((idnGet s k).waiting[i]? = some p → (idnGet s k).aged.contains p = false →
      exec (.sluiceAgePromote (.idoon k i)) s = .next (idnMod k (fun q => { q with aged := q.aged ++ [p] }) s))
    ∧ exec (.sluiceAgePromote (.net src tag)) s = .next (netMod src tag (fun r => { r with aged := true }) s)
    ∧ exec (.sluiceAgePromote (.site k i)) s = .next (siteMod k (fun v => { v with
        waiting := v.waiting.zipIdx.map fun e => if e.2 = i then { e.1 with aged := true } else e.1 }) s))

/-! ### Coherence (R333 to R342, R353, R386, R387, R421 to R424) -/

/-- RDCUR, RDSHR, RDOWN, WRINV, WRHINT, EVICT, WBDATA, SNPRSP, CMPACK, PUSHRSP, COH_RANGE_DISABLE and COH_RANGE_FLUSH_DONE
complete: a request packet that reaches the home is taken by it, an answer, an acknowledgement and a push's answer carry the
line's transaction on, disabling a range starts its flush, and a flush that has taken every line ends with the dirty lines
written back (R337 to R341, R353). -/
def Obligations.HomeCommandsComplete : Prop :=
  (∀ (a : NetArr) (way : List NetHop) (upset : Nat) (s : State),
    let c := netClassed s a
    let i := homeOf (c.pkt.addr / 64)
    ((sliceGet s i).queue.length < 64 ∨ sliceStopped s i = true) →
    let r := netOpen c.pkt false s
    let w := netOpen c.pkt true s
    (Reaches 0x30 c way r → exec (.rdcur a upset) s = .next (cohRequest (cohReqOf 0x30 c.pkt upset) (journeyed 0x30 c way r)))
    ∧ (Reaches 0x31 c way r → exec (.rdshr a upset) s = .next (cohRequest (cohReqOf 0x31 c.pkt upset) (journeyed 0x31 c way r)))
    ∧ (Reaches 0x32 c way r → exec (.rdown a upset) s = .next (cohRequest (cohReqOf 0x32 c.pkt upset) (journeyed 0x32 c way r)))
    ∧ (Reaches 0x33 c way w → exec (.wrinv a upset) s = .next (cohRequest (cohReqOf 0x33 c.pkt upset) (journeyed 0x33 c way w)))
    ∧ (Reaches 0x34 c way w → exec (.wrhint a upset) s = .next (cohRequest (cohReqOf 0x34 c.pkt upset) (journeyed 0x34 c way w)))
    ∧ (Reaches 0x35 c way r → exec (.evict a) s = .next (cohRequest (cohReqOf 0x35 c.pkt 0) (journeyed 0x35 c way r)))
    ∧ (Reaches 0x36 c way r → exec (.wbdata a) s = .next (cohRequest (cohReqOf 0x36 c.pkt 0) (journeyed 0x36 c way r))))
  ∧ (∀ (a : NetArr) (way : List NetHop) (ok : Bool) (s : State),
    let line := a.pkt.addr / 64
    (Reaches 0x3F a way s → exec (.snprsp a) s
      = .next (snoopAnswered (homeOf line) line a.pkt.agent a.pkt.data (journeyed 0x3F a way s)))
    ∧ (Reaches 0x40 a way s → exec (.cmpack a) s = .next (cmpAck line a.pkt.agent (journeyed 0x40 a way s)))
    ∧ (Reaches 0x42 a way s → exec (.pushrsp a ok) s = .next (pushAnswered line a.pkt.agent ok (journeyed 0x42 a way s))))
  ∧ (∀ (i : Nat) (v : Word) (s : State), i < 16 → fon s F.cohRange_enable i = true →
    rangeFrozen s i (v &&& 0xFFFFFFFFFFFFFFFE) = false →
    let t := fset F.cohRange_flushing i 1 (fset F.cohRange_enable i 0 s)
    exec (.cohRangeDisable i v) s = .next ((usedSlices t).foldl (fun s j => cohRun j s) t))
  ∧ (∀ (i : Nat) (s : State), i < 16 → fon s F.cohRange_flushing i = true →
    (usedSlices s).all (fun j => (sliceGet s j).dir.all (fun e => !rangeHolds s i e.line)
      && (sliceGet s j).txns.all (fun t => !rangeHolds s i t.line)) = true →
    exec (.cohRangeFlushDone i) s = .next (fset F.cohRange_flushing i 0 ((usedSlices s).foldl (fun t j =>
      sliceMod j (fun v => { v with lines := v.lines.filter fun l => !rangeHolds s i l.line })
        (((sliceGet t j).lines.filter fun l => rangeHolds s i l.line && l.dirty).foldl
          (fun t l => devStore (l.line * 64) l.data t) t)) s)))

/-- SNPINV, SNPSHR, PUSH, DATA_S, DATA_E, GNT_E, WBACK, SNOOP_HOLD_END, SNOOP_TIMEOUT and GO_FLIT_ACK complete: a snoop, an offered
line and a grant reach their agent, a receipt ends its request, a hold's end lets the waiting snoops be answered, an agent
that never answers leaves the entry, and a delivered grant is acknowledged to the home (R337 to R341, R387, R388, R421). -/
def Obligations.AgentSideCommandsComplete : Prop :=
  (∀ (a : NetArr) (way : List NetHop) (s : State),
    let p := a.pkt
    let line := p.addr / 64
    (Reaches 0x38 a way s → exec (.snpinv a) s = .next (snoopReach true p.agent line (journeyed 0x38 a way s)))
    ∧ (Reaches 0x39 a way s → exec (.snpshr a) s = .next (snoopReach false p.agent line (journeyed 0x39 a way s)))
    ∧ (Reaches 0x3A a way s → p.agent = 0 → exec (.push a true) s = .next (ccSend 0x42 line [1] []
        { journeyed 0x3A a way s with ccLines := Map.set (journeyed 0x3A a way s).ccLines line (false, p.data) }))
    ∧ (Reaches 0x3A a way s → p.agent = 0 →
        exec (.push a false) s = .next (ccSend 0x42 line [0] [] (journeyed 0x3A a way s)))
    ∧ (∀ ok, Reaches 0x3A a way s → p.agent ≠ 0 →
        exec (.push a ok) s = .next (pushAnswered line p.agent false (journeyed 0x3A a way s)))
    ∧ (Reaches 0x3C a way s → exec (.dataS a) s = .next (grantReach 0x3C p (journeyed 0x3C a way s)))
    ∧ (Reaches 0x3D a way s → exec (.dataE a) s = .next (grantReach 0x3D p (journeyed 0x3D a way s)))
    ∧ (Reaches 0x3E a way s → exec (.gntE a) s = .next (grantReach 0x3E p (journeyed 0x3E a way s)))
    ∧ (Reaches 0x41 a way s → p.agent = 0 → exec (.wback a) s = .next { netClose p.dst p.tag (journeyed 0x41 a way s) with
        ccLines := Map.erase (journeyed 0x41 a way s).ccLines line })
    ∧ (Reaches 0x41 a way s → 1 ≤ p.agent → p.agent ≤ 12 → exec (.wback a) s = .next (emit .cxl 0x41 [p.agent - 1, p.tag, line * 64] []
        (netClose (siteSrc (p.agent - 1)) p.tag (journeyed 0x41 a way s)))))
  ∧ (∀ (agent line : Nat) (s : State),
    (s.cohHold.contains (agent, line) = true →
      exec (.snoopHoldEnd agent line) s = .next ((s.cohWait.filter fun h => h.agent == agent && h.line == line).foldl
        (fun s h => ccSnoop h.inval line s) { s with
          cohHold := s.cohHold.filter (· != (agent, line))
          cohWait := s.cohWait.filter fun h => !(h.agent == agent && h.line == line) }))
    ∧ (s.ackOwed.contains (agent, line) = true → exec (.goFlitAck agent line) s
        = .next (cmpAck line agent { s with ackOwed := s.ackOwed.filter (· != (agent, line)) }))
    ∧ (let i := homeOf line
       let v := sliceGet s i
       v.txns.any (fun t => t.line == line && t.waiting.contains agent) = true → 1 ≤ agent → agent ≤ 12 →
       let t := sliceErr i 5 clsDegraded line none false s
       let t' := if (v.entry line).owner = some agent then
         loseSector (line / 8) (sliceMod i (fun w => { w with lines := w.lines.filter (·.line != line) }) t) else t
       exec (.snoopTimeout line agent) s = .next (siteAgentFailed (agent - 1) (sliceMod i (fun w => w.forget line agent)
         (snoopAnswered i line agent [] (sliceMod i (fun w => { w with
           txns := w.txns.map fun x => if x.line == line then { x with inval := true } else x }) t'))))))

/-- RDCURR, RDSHARED, RDOWN_D2H, CLEANEVICT, DIRTYEVICT, ITOMWR and CXL_SNOOP_RESPONSE complete: a tenon's CXL.cache message becomes
the home's (R386). MEMRD, MEMINV, MEMWR, MEMWRPTL, BIRSP and HOST_SNOOP complete: a host's CXL.mem request goes through its
decoders to the home, its back-invalidate answer reaches the home, and the control complex answers for the host memory it
holds (R412, R421, R424). -/
def Obligations.TenonAndHostCoherenceCommandsComplete : Prop :=
  (∀ (n tag addr upset : Nat) (data : List Byte) (noData : Bool) (p : Nat) (s : State), cxlUp s n 1 = true → p < 256 →
    (sliceGet s (homeOf (addr / 64))).queue.length < 64 → (siteGet s n).serves = some p →
    let line := addr / 64
    let cls := classFor s p (fget s F.mtAssign_class n)
    let req := fun (ty : Nat) (d : List Byte) (u : Nat) => lineReq ty (1 + n) (siteSrc n) tag line cls (some p) d u (.cxl n tag)
    let t := fwrap F.mtRxbytes_count F.mtRxbytes_ovf n 0 s
    let td := fwrap F.mtRxbytes_count F.mtRxbytes_ovf n data.length s
    exec (.rdcurr n tag addr upset) s = .next (cohRequest (req 0x30 [] upset) t)
    ∧ exec (.rdshared n tag addr upset) s
        = .next (cohRequest (req 0x31 [] upset) (askOpen (siteSrc n) tag (some p) addr false false t))
    ∧ exec (.rdownD2h n tag addr noData upset) s
        = .next (cohRequest (req 0x32 [] upset) (askOpen (siteSrc n) tag (some p) addr false noData t))
    ∧ exec (.cleanevict n tag addr) s
        = .next (cohRequest (req 0x35 [] 0) (askOpen (siteSrc n) tag (some p) addr false false t))
    ∧ exec (.dirtyevict n tag addr data) s
        = .next (cohRequest (req 0x36 data 0) (askOpen (siteSrc n) tag (some p) addr false false td))
    ∧ exec (.itomwr n tag addr data upset) s = .next (cohRequest (req 0x33 data upset) td))
  ∧ (∀ (n line : Nat) (data : List Byte) (s : State), siteReady s n = true →
    exec (.cxlSnoopResponse n line data false) s = .next (snoopAnswered (homeOf line) line (1 + n) data
      (fwrap F.mtRxbytes_count F.mtRxbytes_ovf n data.length s)))
  ∧ (∀ (port tag addr a upset mask : Nat) (data : List Byte) (s : State), dlActive s port = true →
    fon s F.hostpPortStatus_contained port = false → bitOn (fget s F.hostpPortStatus_cxl port) 2 = true →
    hdmDecode s port addr = some a → (sliceGet s (homeOf (a / 64))).queue.length < 64 →
    let line := a / 64
    let t := fun (n : Nat) => biasShare line (fwrap F.hostpRxbytes_count F.hostpRxbytes_ovf port n (linkWake port s))
    exec (.memrd port tag addr 0 upset) s = .next (hostReq 0x31 port tag line [] wholeLine true false upset (t 0))
    ∧ exec (.memrd port tag addr 1 upset) s = .next (hostReq 0x32 port tag line [] wholeLine true false upset (t 0))
    ∧ exec (.memrd port tag addr 2 upset) s = .next (hostReq 0x30 port tag line [] wholeLine false false upset (t 0))
    ∧ exec (.meminv port tag addr upset) s = .next (hostReq 0x32 port tag line [] wholeLine true true upset (t 0))
    ∧ (let mine := ((sliceGet (t 64) (homeOf line)).entry line).holders.contains (13 + port)
       exec (.memwr port tag addr data upset) s
         = .next (hostReq (if mine = true then 0x36 else 0x33) port tag line data wholeLine mine false upset (t 64)))
    ∧ exec (.memwrptl port tag addr data mask upset) s
        = .next (hostReq 0x33 port tag line data ((List.range 64).map (bitOn mask)) false false upset (t 64)))
  ∧ (∀ (port addr line : Nat) (inval : Bool) (data : List Byte) (s : State), dlActive s port = true →
    fon s F.hostpPortStatus_contained port = false →
    exec (.birsp port line data) s = .next (snoopAnswered (homeOf line) line (13 + port) data
      (fwrap F.hostpRxbytes_count F.hostpRxbytes_ovf port data.length s))
    ∧ (bitOn (fget s F.hostpPortStatus_cxl port) 1 = true →
       let r := ccTake inval (hostLine addr) s
       exec (.hostSnoop port addr inval) s = .next (emit .host 0x3F
         [port, addr, bit01 (Map.get? s.ccLines (hostLine addr)).isSome] r.1
         (fwrap F.hostpTxbytes_count F.hostpTxbytes_ovf port r.1.length r.2))))

/-! ### Memory controllers, mapping-out and the resources of partitions (R29, R278 to R304, R498, R499, R535, R536, R552, R570) -/

/-- MEMORY_READ, MEMORY_WRITE, WC_EVICT_TIMEOUT, CORRECTED_WRITEBACK, SCRUB_READ, MEMC_RETRAIN, MEMC_RETRAIN_DONE and
ROW_REPAIR complete: a sector that decodes is delivered and counted, a write is accepted and acknowledged, an entry that
leaves the buffer is read and written, a channel retrains at an edge and comes back, and a row gets a spare (R278 to R281,
R285, R287, R288, R291). -/
def Obligations.MemoryControllerCommandsComplete : Prop :=
  (∀ (addr n cls : Nat) (who : MemReq) (u : MemUpset) (s : State), ctlReady s addr = true → addr % 512 + n ≤ 512 →
    s.lost.contains (addr / 512) = false → u.errors ≤ 8 →
    let q := addr / 512
    let c := ctlOf (q * 512)
    let tick := match MemReq.part s who with | some p => tickOf s p | none => fget s F.tickCounter_count 0
    let t := sectorRead q u (slcMem addr (memClass s cls who) n s)
    memInjected t c tick = none →
    (decodeRead q u = .good → exec (.memoryRead addr n cls who u) s = .next (emit .net 0x20 [addr] (memRead s addr n) t))
    ∧ (∀ v, decodeRead q u = .corrected → worstSymbols q u < 5 →
        noteCorrected q (fbump F.memcCeCount_count (ctlReg c) 1
          { t with wback := if t.wback.contains q then t.wback else t.wback ++ [q] }) = (false, v) →
        exec (.memoryRead addr n cls who u) s = .next (emit .net 0x20 [addr] (memRead s addr n) v)))
  ∧ (∀ (addr cls : Nat) (who : MemReq) (data : List Byte) (u : MemUpset) (s : State), ctlReady s addr = true →
    data.isEmpty = false → addr % 512 + data.length ≤ 512 →
    let q := addr / 512
    let k := memClass s cls who
    let full := decide (addr % 512 = 0 ∧ data.length = 512)
    let back := fun (t : State) => if s.lost.contains q = true then setLost (ctlOf addr) { t with lost := t.lost.filter (· != q) } else t
    wcVictim s q data.length = none → (s.lost.contains q = true → full = true) →
    exec (.memoryWrite addr ⟨cls, who⟩ data u) s = .next (emit .net 0x22 [addr] []
      (wcWrite q (addr % 512) data.length u (memWrite addr data (slcMem addr k data.length (back s))))))
  ∧ (∀ (sector : Nat) (u : MemUpset) (s : State), u.writeErrors = 0 → u.refreshX2 = none →
    partWrite sector u s = emit .part 0 [ctlOf (sector * 512), sector] (storedSector s sector) (countWrite (ctlOf (sector * 512)) s))
  ∧ (∀ (ctl : Nat) (e : WcEntry) (rest : List WcEntry) (u : MemUpset) (s : State), wcGet s ctl = e :: rest →
    ctlReady s (e.sector * 512) = true → u.errors ≤ 8 → decodeRead e.sector u = .good →
    let c := ctlOf (e.sector * 512)
    let t := sectorRead e.sector u (wcSet ctl rest s)
    memInjected t c (fget (wcSet ctl rest s) F.tickCounter_count 0) = none →
    exec (.wcEvictTimeout ctl u) s = .next (fwrap F.memcRmw_count F.memcRmw_ovf (ctlReg c) 1 (partWrite e.sector u t)))
  ∧ (∀ (sector : Nat) (u : MemUpset) (s : State), s.wback.contains sector = true → ctlReady s (sector * 512) = true →
    exec (.correctedWriteback ⟨sector, u⟩) s = .next (partWrite sector u { s with wback := s.wback.filter (· != sector) }))
  ∧ (∀ (sector : Nat) (u : MemUpset) (s : State), ctlReady s (sector * 512) = true → s.lost.contains sector = false →
    u.errors ≤ 8 → decodeRead sector u = .good →
    let t := sectorRead sector u s
    memInjected t (ctlOf (sector * 512)) (fget s F.tickCounter_count 0) = none → exec (.scrubRead sector u) s = .next t)
  ∧ (∀ (ctl chan : Nat) (e : Nat × Nat × Nat) (s : State), s.retrains.find? (fun e => e.1 == ctl && e.2.1 == chan) = some e →
    e.2.2 < s.edges ∨ isMember s = false →
    exec (.memcRetrain ⟨ctl, chan⟩) s = .next (fset F.memcStatus_state (ctlReg ctl) 2
      { s with retrains := s.retrains.erase e, training := s.training ++ [(ctl, chan)] }))
  ∧ (∀ (ctl chan rate : Nat) (s : State), s.training.contains (ctl, chan) = true → rate ≠ 0 →
    let t : State := { s with training := s.training.erase (ctl, chan) }
    let u := if t.training.any (·.1 == ctl) = true then t else fset F.memcStatus_state (ctlReg ctl) 1 t
    (fget s F.memcStatus_rate (ctlReg ctl) ≤ rate → exec (.memcRetrainDone ⟨ctl, chan⟩ rate) s = .next u)
    ∧ (rate < fget s F.memcStatus_rate (ctlReg ctl) → exec (.memcRetrainDone ⟨ctl, chan⟩ rate) s = .next (logErr
        { code := 0x0310, cls := clsDegraded, source := ctlNode ctl, detail := ctl }
        (setMinMem ((rateGroup ctl).foldl (fun s c => fset F.memcStatus_rate (ctlReg c) rate s) u)))))
  ∧ (∀ (ctl k : Nat) (q : Nat × Nat) (s : State), s.repairs.find? (fun q => ctlOf (q.1 * 512) == ctl) = some q →
    Map.get? s.repairedAt ctl ≠ some s.edges → q.2 < s.edges ∨ isMember s = false →
    let r := rowOf q.1
    let t := setQueued ctl { s with repairs := s.repairs.erase q, repairedAt := Map.set s.repairedAt ctl s.edges }
    (rowsOf t ctl).find? (fun e => e.isRow q.1) = none →
    freeSpare t ctl r.1 r.2.1 = some k → (rowsOf t ctl).length < repairTableSize ctl →
    exec (.rowRepair ctl) s = .next (setRepair ctl (ledgerWrite { t with ledger := { t.ledger with
      rows := (t.ledger.rows.filter fun x => !x.isRow q.1) ++ [⟨ctl, 1, 1, r.1, r.2.1, r.2.2, k, 0xFFFF⟩] } })))

/-- MEM_CLEAR, MEM_CLEAR_START, TENANT_CLEAR_DONE, RETIRED_PAGES, DEF_MAPOUT_QUEUE, GCTL_TILE_QUERY_WRITE,
TILE_QUERY_RESOLVED, PART_BAYS_WRITE and PART_MEM_WRITE complete: a clear starts and ends, the retired pages are listed, a
tile is queued for mapping-out and found, and bays and memory are given to a partition (R29, R292, R300, R304, R476, R498,
R499, R535, R536, R570). -/
def Obligations.ClearAndResourceCommandsComplete : Prop :=
  (∀ (id : Nat) (c : Cmd) (s : State), Starts 0x0206 id c s → fon s F.memStatus_clearing 0 = false →
    exec (.memClear id) s
      = .next (sweep (setStep id (.clear (bitsAt c.pkt.w1 0 8)) (clearBegin (bitsAt c.pkt.w1 0 8) s))))
  ∧ (∀ (v : Word) (s : State), v.getLsbD 8 = true →
    let p := bitsAt v.toNat 0 8
    let t := fset F.memClear_partition 0 p s
    (fon t F.memStatus_clearing 0 = false → exec (.memClearStart v) s = .next (clearBegin p t))
    ∧ (fon t F.memStatus_clearing 0 = true → exec (.memClearStart v) s
        = .next (logErr { code := 0x0C0A, cls := clsRefused, part := some p } t)))
  ∧ (∀ (s : State), fon s F.memStatus_clearing 0 = true → s.clearAll = false →
    let p := fget s F.memStatus_clearPart 0
    let t := digestsClear p s
    clearReady s p = true → s.unsecure.contains p = false →
    exec .tenantClearDone s
      = .next ((t.cmds.filter fun c => c.step == .clear p).foldl (fun s c => finish c 0 0 0 [] s) (clearEnd p t)))
  ∧ (∀ (id x va : Nat) (c : Cmd) (s : State), Starts 0x0207 id c s →
    let p := (ctxGet s c.pkt.ctx).part
    let l := (s.ledger.pages.drop c.pkt.w2).take (orefRoom s p c.pkt.w1 / 8)
    orefRange s p c.pkt.w1 0 = .ok (x, va) → vaWritable s x va (8 * l.length) = true →
    exec (.retiredPages id) s
      = .next (finish c 0 l.length s.ledger.pages.length [] (vaWrite x va (l.flatMap pageEntry) s)))
  ∧ (∀ (v : Word) (t : Nat) (s : State), bitOn v.toNat 20 = true →
    let g := bitsAt v.toNat 0 19
    let u := fset F.defMapout_wholeBay 0 (bitsAt v.toNat 19 1) (fset F.defMapout_tile 0 g s)
    localTile g = some t → hubOfTile g = hubId u → bayLost u (fieldOf t) (bayOf t % 64) = false → u.mapouts.length < 64 →
    exec (.defMapoutQueue v) s = .next (queueMapout t (bitOn v.toNat 19) u))
  ∧ (∀ (v : Word) (s : State), exec (.gctlTileQueryWrite v) s
    = .next (fset F.gctlTileWhere_pending 0 1 (rset s .gctlTileQuery 0 (BitVec.ofNat 64 (bitsAt v.toNat 0 19)))))
  ∧ (∀ (s : State), fon s F.gctlTileWhere_pending 0 = true →
    exec .tileQueryResolved s = .next (rset s .gctlTileWhere 0 (BitVec.ofNat 64 (tileWhere s))))
  ∧ (∀ (p f : Nat) (v : Word) (s : State), p < 256 → f < 9 →
    (baysRefused s p f v = false → exec (.partBaysWrite p f v) s = .next
      (((List.range 64).filter fun b => (rget s .partBays (p * 9 + f)).getLsbD b && !v.getLsbD b).foldl
        (fun s b => bayLeave p (f * 64 + b) s) (rset s .partBays (p * 9 + f) v)))
    ∧ (baysRefused s p f v = true → exec (.partBaysWrite p f v) s = .next (logRefused 0x0B02 (some p) s)))
  ∧ (∀ (p k : Nat) (v : Word) (s : State), p < 256 → k < 8 →
    (memRefused s p k v = false → exec (.partMemWrite p k v) s = .next (rset s .partMem (p * 8 + k)
      (BitVec.ofNat 64 (bitsAt v.toNat 0 2 + bitsAt v.toNat 8 28 * 2 ^ 8))))
    ∧ (memRefused s p k v = true → exec (.partMemWrite p k v) s = .next (logRefused 0x0B02 (some p) s)))

/-! ### Mortise sites, and the accesses of tenons and hosts (R355 to R399, R400, R410, R411) -/

/-- MTN_PWRGD_HIGH, SITE_POWER_TIMEOUT, SITE_RESET_TIMER, SIDEBAND_READY, SITE_BOOT_TIMEOUT, ATTESTATION_END, the events of
training (MODULE_SBINIT_DONE, MODULE_LANE_TEST_DONE, MODULE_MBTRAIN_DONE, MODULE_LINKINIT_DONE, MODULE_TRAIN_TIMEOUT,
MODULE_RETRY_LIMIT, PHYRETRAIN_DONE, PHYRETRAIN_TIMEOUT), TELEMETRY, TELEMETRY_TIMEOUT, EVENT, FATAL, THERM_ALERT and
THROTTLE_DEADLINE complete: each takes its site or module on from the state R377 and R378 give it (R359, R361, R367, R377
to R380, R391). -/
def Obligations.SitePowerAndTrainingEventsComplete : Prop :=
  (∀ (site : Nat) (s : State), site < 12 →
    (siteState s site = 2 → exec (.mtnPwrgdHigh site) s = .next (siteReset site s))
    ∧ (siteState s site = 2 → exec (.sitePowerTimeout site) s = .next (siteFault site 1 s))
    ∧ (siteState s site = 3 →
        exec (.siteResetTimer site) s = .next (sitePins site 1 1 1 (fset F.mtStatus_state site 4 s)))
    ∧ (∀ ms, siteState s site = 4 → ms ≤ 500 → exec (.sidebandReady site ms) s = .next (siteSend site 0x01 (leBytes 8 0)
        (siteMod site (fun v => { v with bootMs := ms, chunks := [] }) (fset F.mtStatus_state site 5 s))))
    ∧ (siteState s site = 4 → exec (.siteBootTimeout site) s = .next (siteFault site 2 s))
    ∧ (∀ signed root measured, siteState s site = 6 →
        exec (.attestationEnd site signed root measured) s = .next (toAssign site (fset F.mtStatus_attested site
          (if signed = true ∧ s.cfg.trust.contains root = true then 1 else 0)
          (siteMod site (fun v => { v with msgs := v.msgs.filter (·.op != 9), measured := measured }) s))))
    ∧ (siteState s site = 9 → exec (.telemetryTimeout site) s = .next (siteFault site 8 s))
    ∧ (2 ≤ siteState s site → siteState s site ≤ 9 → exec (.thermAlert site) s = .next (siteFault site 9 s)))
  ∧ (∀ (site : Nat) (s : State), sideUp s site = true →
    (∀ code, exec (.event site code) s = .next (rset s .mtEvent site (BitVec.ofNat 64 code)))
    ∧ (∀ code, exec (.fatal site code) s = .next (siteFault site 0xB (emit .site 0x42 [site, code] [] s)))
    ∧ (∀ mw temp,
        let t := fset F.mtTelem_temp site (temp % 4096) (fset F.mtTelem_powerMw site mw s)
        fon t F.mtStatus_descValid site = true → sx 16 temp < (descByte t site 1 36 * 8 : Nat) →
        (mw ≤ sitePowerMw t site → exec (.telemetry site mw temp) s = .next t)
        ∧ (sitePowerMw t site < mw → (siteGet t site).throttled = false →
            exec (.telemetry site mw temp) s = .next (siteSend site 0x04 (leBytes 8 (descByte t site 2 30)) t)))
    ∧ ((siteGet s site).throttled = true →
        let t := siteMod site (fun v => { v with throttled := false }) s
        exec (.throttleDeadline site) s
          = .next (if fget t F.mtTelem_powerMw site > sitePowerMw t site then siteFault site 4 t else t)))
  ∧ (∀ (site module : Nat) (s : State), site < 12 → module < 8 → modProto s site module ≠ 0 →
    let i := site * 8 + module
    (modState s site module = 1 → exec (.moduleSbinitDone site module) s = .next (setModule site module 2 s))
    ∧ (∀ good repaired, modState s site module = 2 →
        let w := laneWidth (siteCap s site 3) good
        (w ≠ 0 → exec (.moduleLaneTestDone site module good repaired) s = .next (fset F.mtModule_repaired i repaired
          (fset F.mtModule_width i w (setModule site module 3 s))))
        ∧ (w = 0 → exec (.moduleLaneTestDone site module good repaired) s
          = .next (trainCheck site (moduleDown site module s))))
    ∧ (modState s site module = 3 → exec (.moduleMbtrainDone site module) s = .next (setModule site module 4 s))
    ∧ (modState s site module = 4 → modProto s site module = 1 →
        exec (.moduleLinkinitDone site module) s = .next (trainCheck site (setModule site module 5
          (siteMod site (fun v => { v with used := Map.keep v.used fun k => decide (k / 2 ≠ module) }) s))))
    ∧ (1 ≤ modState s site module → modState s site module ≤ 4 →
        exec (.moduleTrainTimeout site module) s = .next (trainCheck site (moduleDown site module s)))
    ∧ (∀ retries, modState s site module = 5 →
        exec (.moduleRetryLimit site module retries) s = .next (if retries > 256
          then setModule site module 6 (fbump F.mtRetryCount_count site retries s)
          else fbump F.mtRetryCount_count site retries s))
    ∧ (∀ good repaired, modState s site module = 6 →
        let old := fget s F.mtModule_width i
        let w := min (laneWidth (siteCap s site 3) good) old
        let t := fset F.mtModule_repaired i repaired (fset F.mtModule_width i w (setModule site module 5 s))
        (w = 0 → exec (.phyretrainDone site module good repaired) s = .next (moduleLost site module s))
        ∧ (w ≠ 0 → exec (.phyretrainDone site module good repaired) s
            = .next (siteRun site (if w = old then t else widthChanged site t))))
    ∧ (modState s site module = 6 → exec (.phyretrainTimeout site module) s = .next (moduleLost site module s)))

/-- DESC_READ_REPLY, SPDM_REPLY, ASSIGN_REPLY, WIDTH_REPLY, THROTTLE_REPLY, QUIESCED, RESUME_REPLY, CLEARED and
SHUTDOWN_REPLY end the request they answer and have the effect R363 gives them; SITE_MESSAGE_TIMEOUT sends again what had no
reply (R364); MT_CTRL_RESET, MT_CTRL_RELEASE, MT_CTRL_QUIESCE, MT_CTRL_RESUME and MT_ASSIGN_WRITE act as R377, R389, R392 and
R393 say. -/
def Obligations.SiteMessagesAndControlComplete : Prop :=
  (∀ (site tag : Nat) (m : SiteMsg) (s : State),
    (∀ bytes, Awaits site 0x01 tag m s →
      let a := answered site 0x01 tag s
      let l := (siteGet a site).chunks ++ [padTo 64 0 bytes]
      let t := siteSet site { siteGet a site with chunks := l } a
      siteState t site = 5 → exec (.descReadReply site tag 0 bytes) s
        = .next (if l.length < 4 then siteSend site 0x01 (leBytes 8 l.length) t else descRead site l.flatten t))
    ∧ (∀ bytes, Awaits site 0x09 tag m s →
      let t := siteMod site (fun v => { v with spdm := v.spdm ++ [bytes] }) (answered site 0x09 tag s)
      siteState t site = 6 → exec (.spdmReply site tag 0 bytes) s = .next (siteSend site 0x09 [] t))
    ∧ (Awaits site 0x02 tag m s → siteState (answered site 0x02 tag s) site = 7 →
      exec (.assignReply site tag 0) s = .next (siteTrain site (answered site 0x02 tag s)))
    ∧ (∀ widths, Awaits site 0x03 tag m s →
      let t := answered site 0x03 tag s
      let same := (List.range 8).all fun k => recAt m.payload k 1 == widths.getD k 0
      let now := (List.range 8).all fun k =>
        recAt m.payload k 1 == [0, 16, 32, 64].getD (fget t F.mtModule_width (site * 8 + k)) 0
      (same = true → now = true → siteState t site = 8 →
        exec (.widthReply site tag 0 widths) s = .next (enterReady site t))
      ∧ (same = false → exec (.widthReply site tag 0 widths) s = .next (trainFailed site 6 t)))
    ∧ (Awaits site 0x04 tag m s → exec (.throttleReply site tag 0) s = .next (fset F.mtTelem_capW site (recAt m.payload 0 2)
        (siteMod site (fun v => { v with throttled := true }) (answered site 0x04 tag s))))
    ∧ (Awaits site 0x06 tag m s →
      let t := fset F.mtStatus_quiesced site 1 (answered site 0x06 tag s)
      exec (.quiesced site tag 0) s
        = .next (if (siteGet t site).down.isSome = true then siteSend site 0x0A [] t else t))
    ∧ (Awaits site 0x07 tag m s →
      exec (.resumeReply site tag 0) s = .next (fset F.mtStatus_quiesced site 0 (answered site 0x07 tag s)))
    ∧ (Awaits site 0x08 tag m s →
      let a := answered site 0x08 tag s
      let t := fset F.mtStatus_dirty site 0 (siteSet site { siteGet a site with owed := none, tenant := none } a)
      ((siteGet a site).owed = none → exec (.cleared site tag 0) s = .next t)
      ∧ (∀ w, (siteGet a site).owed = some w →
          exec (.cleared site tag 0) s = .next (sendAssign site (rset t .mtAssign site w))))
    ∧ (∀ d, Awaits site 0x0A tag m s → (siteGet (answered site 0x0A tag s) site).down = some d →
      exec (.shutdownReply site tag 0) s = .next (siteDownEnd site d (answered site 0x0A tag s)))
    ∧ (∀ op, sideUp s site = true → (siteGet s site).msgs.find? (·.op == op) = some m → (siteGet s site).down = none →
      m.again = false →
      exec (.siteMessageTimeout site op) s = .next (emit .site op [site, m.tag] m.payload (siteMod site
        (fun v => { v with msgs := v.msgs.map fun x => if x.op == op then { x with again := true } else x }) s))))
  ∧ (∀ (site : Nat) (s : State), site < 12 →
    let t := fset F.mtCtrl_enable site (fget s F.mtCtrl_enable site) s
    exec (.mtCtrlReset site) s = .next (ctrlReset site t)
    ∧ exec (.mtCtrlRelease site) s = .next (ctrlRelease site t)
    ∧ (siteState t site = 9 → exec (.mtCtrlQuiesce site) s = .next (siteSend site 0x06 [] t))
    ∧ (siteState t site = 9 → exec (.mtCtrlResume site) s = .next (siteSend site 0x07 [] t))
    ∧ (∀ v : Word,
        let w : Word := BitVec.ofNat 64 (bitsAt v.toNat 0 12)
        (assignRefused s site w = true → exec (.mtAssignWrite site v) s = .next (logRefused 0x0B02 none s))
        ∧ (assignRefused s site w = false → (siteGet s site).tenant = none → siteState s site ≠ 9 →
            exec (.mtAssignWrite site v) s = .next (rset s .mtAssign site w))))

/-- RAW_PACKET, RAW_CREDIT, CXL_IO_REQUEST, CXL_MEM_RESPONSE, CONFIG_REQUEST and BAR4_ACCESS complete: a tenon's packet or
request is served where it falls, its answer ends the hub's request, and a host reads and writes configuration space and
device memory (R370 to R376, R410, R411). -/
def Obligations.TenonAndHostAccessesComplete : Prop :=
  (∀ (site module : Nat) (p : NetPkt) (s : State), siteReady s site = true → module < 8 → modProto s site module = 2 →
    (∀ ty, modState s site module = 5 → homesFull s p.addr (p.lines * 64) = false → ty ∈ [0x01, 0x02, 0x03, 0x04, 0x05, 0x07] →
      p.lines ≤ 8 →
      let u := rawUnits p.data.length
      let t := emit .site 0x160 (if rawVc ty = 1 then [site, module, u, 0] else [site, module, 0, u]) []
        (fwrap F.mtRxbytes_count F.mtRxbytes_ovf site p.data.length s)
      p.dstHub = hubId t →
      exec (.rawPacket site module ty (rawVc ty) true false p) s = .next (rawAccepted site module ty p t))
    ∧ (∀ a b, exec (.rawCredit site module a b) s = .next (siteMod site (fun v =>
        let l := Map.set v.used (module * 2) (Map.get v.used 0 (module * 2) - a)
        { v with used := Map.set l (module * 2 + 1) (Map.get l 0 (module * 2 + 1) - b) }) s |> siteRun site)))
  ∧ (∀ (site tag p : Nat) (write : Bool) (addr n : Nat) (data : List Byte) (upset : Option Upset) (s : State), cxlUp s site 0 = true →
    homesFull s addr n = false →
    let t := fwrap F.mtRxbytes_count F.mtRxbytes_ovf site data.length s
    (siteGet t site).serves = some p →
    exec (.cxlIoRequest site tag write ⟨addr, n⟩ data false upset) s = .next (tenonServe site 0
      { write := write, a := addr, n := if write = true then data.length else n, data := data, part := some p,
        cls := classFor t p (fget t F.mtAssign_class site), upset := upset, who := .cxl site tag } t))
  ∧ (∀ (site tag status : Nat) (data : List Byte) (x : SiteAsk) (s : State), siteReady s site = true →
    let t := fwrap F.mtRxbytes_count F.mtRxbytes_ovf site data.length s
    (siteGet t site).asks.find? (fun x => x.module == 8 && x.tag == tag && true) = some x →
    exec (.cxlMemResponse site tag status data false) s = .next (answerTo x.write x.part x.cls status data
      (siteMod site (fun v => { v with asks := v.asks.erase x }) t) x.who))
  ∧ (∀ (port fn off tag n : Nat) (s : State), dlActive s port = true → fon s F.hostpPortStatus_contained port = false → fn < 256 →
    (off + n ≤ 4096 → exec (.configRequest port fn off tag false n []) s = .next (emit .host 0x12 [port, tag, 0]
        ((List.range n).map fun k => cfgByte s port fn (off + k)) (linkWake port s)))
    ∧ (∀ b : Byte, off < 4096 → exec (.configRequest port fn off tag true 1 [b]) s = .next (emit .host 0x14 [port, tag, 0] []
        { linkWake port s with
          cfgSpace := Map.set s.cfgSpace (cfgKey port fn off)
            ((cfgByte s port fn off &&& ~~~Config.cfgMask (cfgKey port fn off)) ||| (b &&& Config.cfgMask (cfgKey port fn off))).toNat })))
  ∧ (∀ (port fn off tag n a : Nat) (write ide : Bool) (data : List Byte) (s : State), dlActive s port = true →
    fon s F.hostpPortStatus_contained port = false → fn < 256 → fget s F.partSec_tdisp fn ≠ 2 →
    let k := if write = true then data.length else n
    let t := fwrap F.hostpRxbytes_count F.hostpRxbytes_ovf port data.length (linkWake port s)
    bar4Decode s fn off k = some a → homesFull s a k = false →
    fget t F.partSec_tdisp fn ≠ 2 → hubReady t = true → bar4Decode t fn off k = some a → placeOf t a k = .mem →
    exec (.bar4Access port fn off tag write ide n data) s = .next (memServe
      { write := write, a := a, n := k, data := data, part := some fn, cls := hostClass t fn,
        who := if write = true then .posted port else .host port tag } t))

/-! ### Host ports and registers (R401 to R447, R11 to R14) -/

/-- DL_ACTIVE_LOSS, DL_ACTIVE_UP, L0S_ENTRY, L1_ENTRY, L1_EARLY_EXIT, PERST_DEASSERT, FUNDAMENTAL_RESET,
FUNCTION_LEVEL_RESET, D3HOT_ENTRY, D0_RETURN, D3COLD_ENTRY, HUB_READ_COMPLETION, COMPLETION_TIMEOUT, HOSTP_PORT_RELEASE and
HOSTP_PORT_RETRAIN complete: each takes the port or function from the state its rule gives it (R400, R401, R426, R430 to
R436, R442, R443). -/
def Obligations.HostLinkAndPowerEventsComplete : Prop :=
  (∀ (port : Nat) (s : State), dlActive s port = true →
    exec (.dlActiveLoss port false) s = .next (linkDown port 1 s)
    ∧ exec (.dlActiveLoss port true) s = .next (portError port 5 (linkDown port 1 s))
    ∧ (∀ fn, fn < 256 → confidential (tearSilent (· == fn) (resetPartition fn s)) fn = false → fn ≠ 0 →
        let t := tearSilent (· == fn) (resetPartition fn s)
        exec (.functionLevelReset port fn) s = .next { t with
          cfgSpace := Map.keep t.cfgSpace fun k => decide (k / 2 ^ 12 ≠ port * 256 + fn)
          msix := Map.keep t.msix fun k => decide (k / 2 ^ 16 ≠ port * 256 + fn)
          pba := t.pba.filter fun k => decide (k / 2 ^ 12 ≠ port * 256 + fn)
          d3 := t.d3.filter fun k => k != port * 256 + fn
          ide := Map.erase t.ide fn })
    ∧ (fon s F.hostpPortStatus_contained port = false → ∀ part n,
        let t := fwrap F.hostpRxbytes_count F.hostpRxbytes_ovf port n (linkWake port s)
        exec (.hubReadCompletion port part n false) s = .next t
        ∧ exec (.hubReadCompletion port part n true) s
            = .next (portError port 3 (spoil part (.link (0x40000 + port)) false t))))
  ∧ (∀ (port : Nat) (s : State), isPort s port = true →
    (∀ rate width cxl, lstate s port = 2 → 1 ≤ rate → rate ≤ 6 → width ∈ [4, 8, 16] →
      let t := setUp (fset F.hostpPortStatus_cxl port (cxl % 8) (fset F.hostpPortStatus_flit port 1
        (fset F.hostpPortStatus_width port width (fset F.hostpPortStatus_rate port rate (fset F.hostpPortStatus_lstate port 3 s)))))
      exec (.dlActiveUp port rate width true cxl) s
        = .next (sendHeld port (if fget t F.hostpHubStatus_up 0 ≠ 0 then fset F.hostpHubStatus_downMs 0 0 t else t)))
    ∧ (lstate s port = 3 → fon s F.hostpPortStatus_flit port = false →
        exec (.l0sEntry port) s = .next (fset F.hostpPortStatus_lstate port 4 s))
    ∧ (lstate s port = 3 ∨ lstate s port = 4 → exec (.l1Entry port) s = .next (fset F.hostpPortStatus_lstate port 5 s))
    ∧ (lstate s port = 5 → fon s F.hostpPortCtrl_l1EarlyExit port = true →
        exec (.l1EarlyExit port) s = .next (fset F.hostpPortStatus_lstate port 3 s))
    ∧ (∀ part, exec (.completionTimeout port part) s
        = .next (portError port 4 (spoil part (.link (0x40000 + port)) false s)))
    ∧ (∀ via, via ≠ some port → exec (.hostpPortRelease port via) s = .next (portRelease port s))
    ∧ exec (.hostpPortRetrain port) s = .next (portRetrain port s)
    ∧ (exec (.fundamentalReset port 0) s = .next (portHostReset port false
          (linkDown port 1 { s with perst := s.perst.filter (· != port) }))
      ∧ exec (.fundamentalReset port 1) s = .next (portHostReset port false (linkDown port 2 s))
      ∧ exec (.fundamentalReset port 2) s = .next (portHostReset port false (linkDown port 1 s)))
    ∧ (∀ fn, fn < 256 → fn ≠ 0 → s.d3.contains (port * 256 + fn) = false → exec (.d3hotEntry port fn) s
        = .next (markWait (emit .host 0x20 [port, fn] [] { s with d3 := s.d3 ++ [port * 256 + fn] })))
    ∧ (∀ fn, s.d3.contains (port * 256 + fn) = true → fn ≠ 0 → exec (.d0Return port fn) s
        = .next (sendHeld port { s with d3 := s.d3.filter (· != port * 256 + fn) })))
  ∧ (∀ (port : Nat) (s : State), port < 4 → s.perst.contains port = false →
    let t := emit .pin 0x06 [0] [] { s with perst := s.perst ++ [port], wakeLow := false }
    (lstate t port = 1 → 4 < fget t F.bootStatus_step 0 →
      exec (.perstDeassert port) s = .next (fset F.hostpPortStatus_lstate port 2 t))
    ∧ (lstate t port ≠ 1 → exec (.perstDeassert port) s = .next t))
  ∧ (∀ (s : State), allD3 s = true → fon s F.pwrStatus_mainOn 0 = true → ∃ t, exec .d3coldEntry s = .next t
    ∧ t.cold = true ∧ t.cfg = s.cfg ∧ t.ident = s.ident ∧ t.flash = s.flash ∧ t.mem = (powerOn false s).mem)

/-- HOST_LINK_LOST, HPA_BUTTON_PRESS, HOSTP_HOTPLUG_REMOVE, HOSTP_HOTPLUG_WAKE_REQ, ATS_INVALIDATE_REQUEST,
ATS_INVALIDATE_DRAINED, HOSTP_BIAS_FLIP_START, HOSTF_BAR4_ENABLE and REGISTER_WRITE complete: the loss sequence begins, the
hot-plug assist acts, translations are invalidated, a page changes its bias, a decoder opens, and a write reaches its
register (R14, R402, R410, R411, R416, R422, R428, R437, R440, R441, R447). -/
def Obligations.HostRegisterCommandsComplete : Prop :=
  (∀ (s : State), fget s F.hostpHubStatus_enabled 0 ≠ 0 → (List.range 4).any (dlActive s) = false →
    fget s F.bootStatus_hubState 0 = 1 →
    exec .hostLinkLost s = .next (lossBegin true (fset F.hostpHubStatus_downMs 0 100 s)))
  ∧ (∀ (s : State), fon s F.hostpHotplug_assistEn 0 = true →
    exec .hpaButtonPress s = .next (wake (msixRaise 0 0 0 (fset F.hostpHotplug_btnEvent 0 1 s))))
  ∧ (∀ (v : Word) (s : State), bitOn v.toNat 1 = false →
    let t := fset F.hostpHotplug_pwrInd 0 (bitsAt v.toNat 4 2) (fset F.hostpHotplug_attnInd 0 (bitsAt v.toNat 2 2) s)
    let u := emit .pin 0x09 [fget t F.hostpHotplug_attnInd 0, fget t F.hostpHotplug_pwrInd 0] [] t
    (bitOn v.toNat 6 = true → bitOn v.toNat 9 = false → fon u F.hostpHotplug_assistEn 0 = true →
      exec (.hostpHotplugRemove v) s = .next (hotRemove u))
    ∧ (bitOn v.toNat 9 = true → bitOn v.toNat 6 = false → exec (.hostpHotplugWakeReq v) s = .next (wake u)))
  ∧ (∀ (port fn page log2 itag : Nat) (s : State), portUp s port = true → port < 4 → 12 ≤ log2 →
    (s.invs.filter (·.port == port)).length < 32 →
    let i : Inval := ⟨port, itag, fn, page, log2, s.edges⟩
    s.pins.any (fun n => n.part == fn && invMeets i (n.host / 65536) 16) = false →
    let t := { s with
      invs := s.invs ++ [i]
      atc := s.atc.map fun e => if e.port = port ∧ e.part = fn ∧ invMeets i e.page e.log2 then { e with marked := true } else e }
    exec (.atsInvalidateRequest port fn page log2 itag) s
      = .next (fset F.hostpAts_invPending port (t.invs.filter (·.port == port)).length t))
  ∧ (∀ (port itag : Nat) (i : Inval) (s : State), s.invs.find? (fun i => i.port == port && i.itag == itag) = some i →
    invDrained s i = true →
    let t := { s with
      invs := s.invs.erase i
      atc := s.atc.filter fun e => !(e.port == port && e.part == i.part && e.marked && invMeets i e.page e.log2) }
    exec (.atsInvalidateDrained port itag) s = .next (emit .host 0x03 [port, i.part, itag] [] (fbump F.hostpInvCount_count port 1
      (fset F.hostpAts_invPending port (t.invs.filter (·.port == port)).length (setAts port t)))))
  ∧ (∀ (v : Word) (s : State), bitOn v.toNat 17 = true → bitOn v.toNat 16 = true → fon s F.hostpBiasFlip_busy 0 = false →
    let r := bitsAt v.toNat 0 4
    let page := bitsAt v.toNat 4 12
    let t := rset s .hostpBiasFlip 0 (BitVec.ofNat 64 (putBits (rget s .hostpBiasFlip 0).toNat 0 17 v.toNat))
    (hostShared t r = true → page < rangePages t r →
      exec (.hostpBiasFlipStart v) s = .next (setBias r page 1 (fset F.hostpBiasFlip_refused 0 0 t)))
    ∧ (hostShared t r = false → exec (.hostpBiasFlipStart v) s = .next (fset F.hostpBiasFlip_refused 0 1 t)))
  ∧ (∀ (f k : Nat) (v : Word) (s : State), f < 256 → k < 4 → bitOn v.toNat 0 = true → partLocked s f = false →
    let i := f * 4 + k
    let t := rset s .hostfBar4 i (BitVec.ofNat 64 (placed 8 6 (bitsAt v.toNat 8 6) + placed 16 24 (bitsAt v.toNat 16 24)))
    let n := fget t F.hostfBar4_sizeLog2 i
    16 ≤ n → n ≤ 40 →
    (confidential t f = false → inPart t f (fget t F.hostfBar4Dpa_dpa i * 65536) (2 ^ n) = true →
      exec (.hostfBar4Enable f k v) s = .next (fset F.hostfBar4_enable i 1 t))
    ∧ (inPart t f (fget t F.hostfBar4Dpa_dpa i * 65536) (2 ^ n) = false →
      exec (.hostfBar4Enable f k v) s = .next (logRefused 0x0811 (some f) t)))
  ∧ (∀ (w : RegWr) (s : State),
    (w.path = .mgmt → exec (.registerWrite w) s = .next (writeWindow none w.win w.inst w.off w.bytes s))
    ∧ (∀ port ide, w.path = .pf port ide → dlActive s port = true → fon s F.hostpPortStatus_contained port = false →
      let t := fwrap F.hostpRxbytes_count F.hostpRxbytes_ovf port w.bytes.length (linkWake port s)
      fget t F.partSec_tdisp 0 ≠ 2 ∨ ide = true →
      exec (.registerWrite w) s
        = .next (if hubReady t = true ∨ w.win = 4 then writeWindow (some port) w.win w.inst w.off w.bytes t else barDrop t)))

/-! ### Security (R500 to R518) -/

/-- GET_VERSION, GET_CAPABILITIES, NEGOTIATE_ALGORITHMS, GET_DIGESTS, GET_CERTIFICATE, CHALLENGE, GET_MEASUREMENTS,
KEY_EXCHANGE, FINISH, HEARTBEAT, KEY_UPDATE, END_SESSION, MEASURE_OBJECT, SPDM and ATTEST_REPORT complete: a request of at most
4,096 bytes that arrives on an open channel in the order R502 gives is answered with its response, which joins the transcript,
and the connection moves on; an object's range digest extends the weights; a report carries the measurements of R505 (R502 to
R509). The messages' codes and layouts are those of DSP0274, the model's choice (log entry 3). -/
def Obligations.SpdmRequestsComplete : Prop :=
  (∀ (ch : Nat) (part : Option Nat) (msg : List Byte) (s : State), spdmOpen s ch = true → msg.length ≤ 4096 →
    let k := spdmGet s ch
    let code := recAt msg 1 1
    let say := fun (r : List Byte) (k : Spdm) (t : State) =>
      emit .spdm (recAt r 1 1) [ch] r { t with spdm := Map.set t.spdm ch { k with transcript := k.transcript ++ msg ++ r } }
    let chain := Config.certificate s.ident
    let digest := padTo 64 0 (Config.sha512 chain)
    let nonce := padTo 32 0 (Config.random s.fresh)
    let signed := fun (m : List Byte) => m ++ aliasSign s (k.transcript ++ msg ++ m)
    (recAt msg 0 1 = 0x10 → code = 0x84 →
      exec (.getVersion ch part msg) s = .next (say [0x10, 0x04, 0, 0, 0, 1, 0, 0x13] { stage := 1 } s))
    ∧ (recAt msg 0 1 = 0x13 →
      (code = 0xE1 → k.stage = 1 → exec (.getCapabilities ch part msg) s
        = .next (say (spdmMsg 0x61 0 0 (Config.spdmBody 0x61)) { k with stage := 2 } s))
      ∧ (code = 0xE3 → k.stage = 2 → Config.spdmCurve msg ≠ 0 → exec (.negotiateAlgorithms ch part msg) s
        = .next (say (spdmMsg 0x63 0 0 (Config.spdmBody 0x63)) { k with stage := 3, curve := Config.spdmCurve msg } s))
      ∧ (k.stage = 3 → canAttest s = true →
        (code = 0x81 → exec (.getDigests ch part msg) s = .next (say (spdmMsg 0x01 0 1 digest) k s))
        ∧ (code = 0x82 → recAt msg 2 1 = 0 → recAt msg 4 2 < chain.length →
          let piece := (chain.drop (recAt msg 4 2)).take (min (recAt msg 6 2) 4088)
          exec (.getCertificate ch part msg) s = .next (say (spdmMsg 0x02 0 0 (leBytes 2 piece.length
            ++ leBytes 2 (chain.length - recAt msg 4 2 - piece.length) ++ piece)) k s))
        ∧ (code = 0x83 → recAt msg 2 1 = 0 → exec (.challenge ch part msg) s
          = .next (say (signed (spdmMsg 0x03 0 1 (digest ++ nonce ++ padTo 64 0 (Config.sha512
              (measureIdx.flatMap fun i => padTo 64 0 (measure s (spdmPart ch part) i)))))) k (tickFresh s)))
        ∧ (code = 0xE0 → exec (.getMeasurements ch part msg) s
          = .next (say (measurementsAnswer (spdmPart ch part) msg s) k s))
        ∧ (code = 0xE4 → k.session = none →
          let id := (s.fresh + 1) % 65536
          exec (.keyExchange ch part msg) s = .next (say (signed (spdmMsg 0x64 0 0 (leBytes 2 id ++ nonce)))
            { k with session := some id, secured := false, updates := 0 } (tickFresh s)))
        ∧ (code = 0xE5 → k.session.isSome = true → k.secured = false → Config.spdmProof k.transcript msg = true →
          exec (.finish ch part msg) s = .next (say (spdmMsg 0x65 0 0 []) { k with secured := true } s))
        ∧ (k.secured = true →
          (code = 0xE8 → exec (.heartbeat ch part msg) s = .next (say (spdmMsg 0x68 0 0 []) k s))
          ∧ (code = 0xE9 → exec (.keyUpdate ch part msg) s
            = .next (say (spdmMsg 0x69 (recAt msg 2 1) (recAt msg 3 1) []) { k with updates := k.updates + 1 } s))
          ∧ (code = 0xEC → exec (.endSession ch part msg) s
            = .next (say (spdmMsg 0x6C 0 0 []) { k with session := none, secured := false } s))))))
  ∧ (∀ (ch ctx obj off len : Nat) (part : Option Nat) (host bs : List Byte) (e : ObjE) (s : State), spdmOpen s ch = true →
    (spdmGet s ch).secured = true →
    let p := spdmPart ch part
    off % 64 = 0 → len ≠ 0 → (ctxGet s ctx).state ≠ .free → (ctxGet s ctx).part = p → objGet s p obj = some e → e.state = 1 →
    e.ctx = ctx → off + len ≤ e.size → vaRead s ctx (piecesOf (e.base + off) len) host = .ok bs →
    let d := padTo 64 0 (rangeDigest bs)
    exec (.measureObject ch part ctx obj off len host) s = .next (emit .spdm 0x7E [ch] (vendorSay d)
      (partMod p (fun w => { w with weights := Config.sha512 (padTo 64 0 w.weights ++ d) })
        (countVaReads ctx 7 (piecesOf (e.base + off) len) s))))
  ∧ (∀ (id : Nat) (c : Cmd) (part : Option Nat) (host msg : List Byte) (s : State), Starts 0x0501 id c s →
    dataIn s c host = .ok msg →
    let ch := if c.src == .mgmt then 256 else 257
    let r := spdmAnswer ch part msg s
    let version : List Byte := [0x10, 0x04, 0, 0, 0, 1, 0, 0x13]
    (recAt msg 1 1 ≠ 0xFE → r.1.length ≤ dataRoom c → exec (.spdm id part host) s = .next (finish c 0 r.1.length 0 r.1 r.2))
    ∧ (recAt msg 0 1 = 0x10 → recAt msg 1 1 = 0x84 → msg.length ≤ 4096 → 8 ≤ dataRoom c → exec (.spdm id part host) s
      = .next (finish c 0 8 0 version { s with spdm := Map.set s.spdm ch { stage := 1, transcript := msg ++ version } })))
  ∧ (∀ (id x va : Nat) (c : Cmd) (host nonce : List Byte) (s : State), Starts 0x0508 id c s →
    let p := (ctxGet s c.pkt.ctx).part
    orefRange s p c.pkt.w1 64 = .ok (x, va) → vaRead s x (piecesOf va 64) host = .ok nonce →
    canAttest s = true → 1924 ≤ dataRoom c →
    exec (.attestReport id host) s = .next (finish c 0 1924 0 (attestReport s p nonce) s))

/-- IDE_KM, PART_SECURE, its clearing, LOCK_INTERFACE_REQUEST, START_INTERFACE_REQUEST and STOP_INTERFACE_REQUEST complete: keys
are programmed and started, a partition becomes confidential or stops being so, and its interface moves between the states
of R514. -/
def Obligations.InterfaceSecurityCommandsComplete : Prop :=
  (∀ (fn : Nat) (s : State), fn < 256 → spdmOpen s fn = true → (spdmGet s fn).secured = true →
    (∀ sub, sub < 12 →
        let f := if sub < 6 then fn else 256 + boundPort s fn
        let v := Map.get s.ide 0 f
        exec (.ideKm fn 0 sub) s = .next (emit .spdm 0x7E [fn] (vendorSay [0, BitVec.ofNat 8 sub]) (ideSet f (putBits v (sub % 6) 1 1) s))
        ∧ (bitOn v (sub % 6) = true → exec (.ideKm fn 1 sub) s = .next (emit .spdm 0x7E [fn]
            (vendorSay [1, BitVec.ofNat 8 sub]) (ideSet f (putBits v (6 + sub % 6) 1 1) s))))
    ∧ (confidential s fn = true → fget s F.partSec_tdisp fn = 0 → secureFail s fn = none →
        let t := setTdisp fn 1 s
        exec (.lockInterfaceRequest fn) s = .next (emit .spdm 0x7E [fn, 1] (vendorSay [1])
          (partMod fn (fun w => { w with locked20 := resourceDigest t fn }) t)))
    ∧ (confidential s fn = true → fget s F.partSec_tdisp fn = 1 → ideSecure s fn = true →
        exec (.startInterfaceRequest fn) s = .next (emit .spdm 0x7E [fn, 1] (vendorSay [1]) (setTdisp fn 2 s)))
    ∧ (confidential s fn = true → partLocked s fn = true → exec (.stopInterfaceRequest fn) s
        = .next (emit .spdm 0x7E [fn, 1] (vendorSay [1]) (tdispEnd fn false (setTdisp fn 0 s)))))
  ∧ (∀ (id : Nat) (c : Cmd) (s : State), Starts 0x0507 id c s →
    let p := bitsAt c.pkt.w1 0 8
    (bitOn c.pkt.w1 8 = true → secureFail s p = none → fget s F.partSec_tdisp p = 0 → exec (.partSecure id) s
        = .next (finish c 0 0 0 [] (placeKeys p (fset F.partSec_admitUnattested p (bitsAt c.pkt.w1 9 1) (fset F.partSec_confidential p 1 s)))))
    ∧ (bitOn c.pkt.w1 8 = false → confidential s p = true → fget s F.partSec_tdisp p = 0 → (partGet s p).enabled = false →
        exec (.partSecureClear id) s = .next (finish c 0 0 0 []
          (clearAsk p { s with unsecure := if s.unsecure.contains p then s.unsecure else s.unsecure ++ [p] }))))

/-- LICENCE_INSTALL, CONFIG_INSTALL, OWNER_ENROL, DEBUG_AUTH, LIFECYCLE_SET, NONCE_EXPIRY, DEBUG_AUTH_EXPIRY, OTP_PROGRAM_DONE and
FLASH_WRITE_DONE complete: what verifies is written to OTP or flash and the command ends with the write, nonces are handed
out and replaced, an authorisation starts and ends (R524, R525, R527 to R532, R538, R543, R544). -/
def Obligations.LifecycleCommandsComplete : Prop :=
  (∀ (id : Nat) (c : Cmd) (host b : List Byte) (s : State), dataIn s c host = .ok b →
    (Starts 0x0502 id c s → licenceOk s b = true → recAt b 6 1 ≤ s.otp.epoch → exec (.licenceInstall id host) s
        = .next (sweep (setStep id .flash { s with flashJobs := s.flashJobs ++ [.licence b id] })))
    ∧ (Starts 0x0502 id c s → licenceOk s b = true → s.otp.epoch < recAt b 6 1 → exec (.licenceInstall id host) s
        = .next (sweep (setStep id .otp { s with otpJobs := s.otpJobs ++ [.epoch (recAt b 6 1) b id] })))
    ∧ (Starts 0x0503 id c s → configOk s b = true → exec (.configInstall id host) s
        = .next (sweep (setStep id .flash { s with flashJobs := s.flashJobs ++ [.config b id] })))
    ∧ (Starts 0x0504 id c s → b = [] → exec (.ownerEnrol id host) s = .next (finish c 0 0 0 (nonceBytes s) s))
    ∧ (Starts 0x0504 id c s → b ≠ [] → ownersUsed s < 16 → enrolOk s (ownersUsed s + 1) b = true → exec (.ownerEnrol id host) s
        = .next (sweep (setStep id .otp (newNonce { s with otpJobs := s.otpJobs
            ++ [.owner (ownersUsed s + 1) (padTo 64 0 (Config.sha512 ((b.drop 80).take 133))) id] }))))
    ∧ (Starts 0x0505 id c s → b = [] → exec (.debugAuth id host) s = .next (finish c 0 0 0 (nonceBytes s) s))
    ∧ (Starts 0x0505 id c s → b ≠ [] → tokenOk s 0x44584442 b = true → recAt b 80 4 = 2 → 0 < recAt b 84 4 →
        recAt b 84 4 ≤ 86400 → fget s F.secStatus_lcState 0 ≠ 4 → exec (.debugAuth id host) s = .next (finish c 0 0 0 []
          (newNonce (rset s .secDebug 0
            (BitVec.ofNat 64 (5 + bit01 (recAt b 6 1 != 0) * 32 + recAt b 84 4 * 2 ^ 32)))))))
  ∧ (∀ (id : Nat) (c : Cmd) (s : State), Starts 0x0506 id c s →
    let t := bitsAt c.pkt.w1 0 2
    let row := if fget s F.secStatus_lcState 0 = 4 then lifeLead s else fget s F.secStatus_lcState 0
    t ≠ 0 → lifeCheck s t = none → exec (.lifecycleSet id) s = .next (sweep (setStep id .otp { s with otpJobs := s.otpJobs
      ++ [.life row t id] })))
  ∧ (∀ (s : State), exec .nonceExpiry s = .next { s with nonce := s.fresh, fresh := s.fresh + 1 })
  ∧ (∀ (s : State), fon s F.secDebug_active 0 = true →
    (isMember s = true → exec .debugAuthExpiry s = .next { (rset s .secDebug 0 0) with tpClear := true })
    ∧ (isMember s = false → exec .debugAuthExpiry s
        = .next (logErr { code := 0x0E01, cls := clsInfo } (tpClearAll (rset s .secDebug 0 0)))))
  ∧ (∀ (row value : Nat) (rest : List OtpJob) (s : State),
    (s.otpJobs = .defect row value false :: rest → exec (.otpProgramDone true) s = .next (sweep { s with
      otp := { s.otp with rows := Map.set s.otp.rows row (value % 2 ^ 56) }
      otpJobs := .defect row value true :: rest }))
    ∧ (s.otpJobs = .defect row value true :: rest → exec (.otpProgramDone true) s
        = .next (sweep (setDefStatus (fset F.defMapout_result 0 1
            { s with otp := { s.otp with rows := Map.set s.otp.rows row value }, otpJobs := rest })))))
  ∧ (∀ (b : List Byte) (id : Nat) (s : State),
    (s.flashJobs.find? (fun j => j.area == 1) = some (.config b id) → exec (.flashWriteDone 1) s = .next (endCmd id 0
      { s with flashJobs := s.flashJobs.erase (.config b id), flash := { s.flash with config := b } }))
    ∧ (s.flashJobs.find? (fun j => j.area == 2) = some (.licence b id) → exec (.flashWriteDone 2) s
        = .next (endCmd id 0 (fset F.secStatus_licPending 0 1
            { s with flashJobs := s.flashJobs.erase (.licence b id), flash := { s.flash with licence := b } })))
    ∧ exec (.flashWriteDone 3) s = .next (ledgerDone s))

/-! ### Bring-up, power, resets and temperature (R538 to R557, R602 to R620) -/

/-- BRINGUP_STEP_COMPLETE and REPAIR_ROUND_END complete: each step begun ends with what R545 gives it and the next begins, and the
rounds of R549 go on or end. -/
def Obligations.BringUpStepsComplete : Prop :=
  (∀ (e : BootEnv) (s : State), bootHeld s = false →
    (bootStep s = 1 → exec (.bringupStepComplete e) s = .next (bootNext (fset F.errqStatus_logOk 0 1 s)))
    ∧ (bootStep s = 2 → exec (.bringupStepComplete e) s = .next (bootNext (stepImage (fset F.errqStatus_logOk 0 1 s))))
    ∧ (bootStep s = 3 → exec (.bringupStepComplete e) s = .next (emit .pin 0x01 [1] [] (bootNext (stepConfig s))))
    ∧ (bootStep s = 4 → mainOn s = true → s.rounds ≠ 6 → fget s F.bootStatus_hubState 0 = 0 →
        exec (.bringupStepComplete e) s = .next (bootNext (stepMain s)))
    ∧ (fget s F.bootStatus_hubState 0 = 0 →
      (bootStep s = 5 → exec (.bringupStepComplete e) s = .next (bootNext (stepDefects e.targets s)))
      ∧ (bootStep s = 6 → exec (.bringupStepComplete e) s
          = .next (fwBroadcast { bootNext (e.crossings.foldl (fun s c => scarfDisable c.1 c.2 s) s) with rounds := 0, fwMissing := [] }))
      ∧ (bootStep s = 7 → e.segBad = false → s.rounds = 5 → exec (.bringupStepComplete e) s = .next (bootNext (stepLoaded s)))
      ∧ (bootStep s = 7 → e.segBad = true → exec (.bringupStepComplete e) s = .next (enterRecovery (some 0x0C02) s))
      ∧ (bootStep s = 8 → fget (stepMemory e s) F.bootStatus_hubState 0 = 0 →
          exec (.bringupStepComplete e) s = .next (bootNext (stepSites e.present (stepMemory e s))))
      ∧ (bootStep s = 9 → exec (.bringupStepComplete e) s = .next (bootNext s))
      ∧ (bootStep s = 10 → fget (stepKnown e s) F.bootStatus_hubState 0 = 0 →
          exec (.bringupStepComplete e) s = .next (bootNext (stepKnown e s)))
      ∧ (bootStep s = 11 → fon s F.memStatus_clearing 0 = false → fon s F.memStatus_ledgerOk 0 = true →
          exec (.bringupStepComplete e) s = .next (stepReady e.mem s))))
  ∧ (∀ (reports : List ((Nat × Nat × Nat × Bool) × Nat)) (s : State), bootHeld s = false → bootStep s = 7 →
    fget s F.bootStatus_hubState 0 = 0 → s.rounds < 5 →
    let lack := reports.filter fun r => fwLacks s r.1 r.2 != 0
    let t : State := { s with fwMissing := lack.foldl (fun m r => Map.set m (fwUnit r.1) (fwLacks s r.1 r.2)) [] }
    (lack = [] → exec (.repairRoundEnd reports) s = .next { t with rounds := 5 })
    ∧ (lack ≠ [] → s.rounds < 4 → exec (.repairRoundEnd reports) s
        = .next { lack.foldl (fun s r => fwUnicast r.1 (fwLacks s r.1 r.2) s) t with rounds := s.rounds + 1 })
    ∧ (lack ≠ [] → s.rounds = 4 → exec (.repairRoundEnd reports) s
        = .next { lack.foldl (fun s r => fwSpare r.1 s) t with rounds := 1, fwMissing := [] }))

/-- STBY_PWRGD_RISE, STBY_PWRGD_FALL, MAIN_PWRGD_RISE, MAIN_PWRGD_FALL, MAIN_FAIL_RESTART, SYS_RST_N, SYS_RST_N_RELEASE,
RESET_PARTITION, RESET_FIELD, RESET_HUB, RESET_STANDBY, RESET_DEFERRED_TIMEOUT, FW_IMAGE, FW_COMMIT, FW_COMMIT_RESET,
THERMAL_SAMPLE, VCORE_ADJUST and VCORE_SETTLED complete: power comes and goes, the scopes of R556 are reset, an image is
written and committed, and temperatures and core voltages act (R542, R556, R557, R605 to R614, R620). -/
def Obligations.PowerResetAndThermalCommandsComplete : Prop :=
  (∀ (strap : Nat) (s : State), exec (.stbyPwrgdRise strap) s
      = .next (fset F.pwrStatus_strapStby 0 strap { powerOn true s with rstLow := false, perst := [] }))
  ∧ (∀ (s : State), bootStep s ≠ 0 → exec .stbyPwrgdFall s = .next (fset F.pwrStatus_strapStby 0 0
      (fset F.bootStatus_step 0 0 { powerOn true s with flash := (cutJobs s).flash, perst := [] })))
  ∧ (∀ (strap : Nat) (s : State), bootStep s = 4 → mainOn s = false → s.rstLow = false → s.tripped = false →
      s.failRestart = false → exec (.mainPwrgdRise strap) s
        = .next (fset F.gctlHubIdent_hubId 0 strap (fset F.pwrStatus_mainOn 0 1 { s with cold := false })))
  ∧ (∀ (s : State), 4 ≤ bootStep s → s.cold = false → s.tripped = false → mainOn s = true →
      exec .mainPwrgdFall s = .next (fset F.pwrStatus_mainFail 0 1 { mainDown s with failRestart := true }))
  ∧ (∀ (s : State), s.failRestart = true →
      exec .mainFailRestart s = .next { powerOn false s with failRestart := false, tripped := s.tripped })
  ∧ (∀ (s : State), bootStep s ≠ 0 → exec .sysRstN s = .next { powerOn false s with rstLow := true, tripped := false })
  ∧ (∀ (s : State), exec .sysRstNRelease s = .next { s with rstLow := false })
  ∧ (∀ (id : Nat) (c : Cmd) (s : State), Starts 0x0603 id c s →
    let n := bitsAt c.pkt.w1 2 8
    (bitsAt c.pkt.w1 0 2 = 0 → exec (.resetPartition id) s
      = .next (sweep (setStep id (.reset (baysOfPart s n) []) (resetPartition n s))))
    ∧ (bitsAt c.pkt.w1 0 2 = 1 → n ≤ 8 →
      let parts := (List.range 256).filter fun p => rget s .partBays (p * 9 + n) != 0
      let bays := (parts.flatMap (baysOfPart s) ++ (List.range 64).map (· + n * 64)).eraseDups
      let t := resetBays bays (parts.foldl (fun s p => resetPartState p s) s)
      exec (.resetField id) s = .next (sweep (setStep id (.reset bays (slicesOfField n))
        ((slicesOfField n).foldl (fun s i => sliceStop i s) t))))
    ∧ (bitsAt c.pkt.w1 0 2 = 2 → s.resetOwed = none →
      let t := finish c 0 0 0 [] { s with resetOwed := some 2 }
      exec (.resetHub id) s = .next (if t.resetOwed = none then t else leaveDomain t))
    ∧ (bitsAt c.pkt.w1 0 2 = 3 → s.resetOwed = none →
      let t := finish c 0 0 0 [] { s with resetOwed := some 3 }
      exec (.resetStandby id) s = .next (if t.resetOwed = none then t else leaveDomain t)))
  ∧ (∀ (s : State), isMember s = false →
    (s.resetOwed = some 2 → exec .resetDeferredTimeout s = .next (powerOn false s))
    ∧ (s.resetOwed = some 3 → exec .resetDeferredTimeout s = .next (powerOn true s)))
  ∧ (∀ (id : Nat) (c : Cmd) (b : List Byte) (s : State), Starts 0x0601 id c s → dataIn s c [] = .ok b →
    fget s F.bootStatus_hubState 0 = 2 → c.pkt.w1 = 0 → b.length ≤ 2 ^ 26 →
    exec (.fwImage id) s = .next (sweep (setStep id .flash { s with
      flashJobs := s.flashJobs ++ [.image 0 b id]
      flash := { s.flash with image := [] }
      imgNext := none })))
  ∧ (∀ (id v : Nat) (c : Cmd) (s : State), Starts 0x0602 id c s → fget s F.bootStatus_hubState 0 = 2 →
    imageVersion s.flash.image = some v → s.cfg.minFw ≤ v →
    exec (.fwCommit id) s = .next (finish c 0 0 0 [] (fset F.bootCtrl_recoveryNext 0 0 { s with fwOwed := true })))
  ∧ (∀ (s : State), s.fwOwed = true → exec .fwCommitReset s = .next { powerOn false s with tripped := s.tripped })
  ∧ (∀ (temps : List Int) (s : State), mainOn s = true → temps.length = 594 →
    let h := hottest temps
    let t := fset F.pwrStatus_hotBay 0 h.1 (fset F.pwrStatus_hotTemp 0 (min h.2.toNat 4095) s)
    h.2 + 16 ≤ fget t F.thermCtrl_warn 0 →
    let u := fset F.pwrStatus_thermWarn 0 0 t
    let hot := (List.range 594).filter fun i => decide (temps.getD i 0 ≥ tripAt u)
    (hot.any u.hot.contains = false → exec (.thermalSample temps) s = .next { u with temps := temps, hot := hot })
    ∧ (hot.any u.hot.contains = true → exec (.thermalSample temps) s
        = .next (fset F.pwrStatus_thermTrip 0 1 { mainDown (emit .pin 0x02 [1] [] u) with tripped := true })))
  ∧ (∀ (field : Nat) (up : Bool) (s : State), field ≤ 8 → mainOn s = true → fon s F.vcoreTarget_settling field = false →
    let now := fget s F.vcoreTarget_targetMv field
    let mv := if up = true then now + 5 else now - 5
    coreOk mv = true → exec (.vcoreAdjust field up) s = .next (commandCore field mv s))
  ∧ (∀ (field : Nat) (s : State), field ≤ 8 →
    exec (.vcoreSettled field) s = .next (fset F.vcoreTarget_settling field 0 s))

/-! ### Management, errors, counters and perturbation (R560 to R566, R573 to R599) -/

/-- ERRQ_CIDX_WRITE, ERROR_LOG_APPEND, ERRQ_READ, SENSOR_READ, LEDGER_ACCEPT, WAKE, STRICT, PERF_SEL_WRITE, PERF_CTRL_SNAP,
TP_WRITE, TP_LINK_RETRAIN, PERTURB_SET, PERTURB_CLEAR, KAT_RUN and TRACE_READ complete: records are consumed, logged and
copied, sensors read, an empty ledger accepted, counters selected and snapped, and perturbations set, cleared and forced
(R435, R476, R486, R554, R564, R566, R573, R581, R583, R589 to R597). -/
def Obligations.ErrorCounterAndTestCommandsComplete : Prop :=
  (∀ (v : Word) (s : State),
    let n := bitsAt v.toNat 0 32
    diff32 n (fget s F.errqCidx_index 0) ≤ diff32 (fget s F.errqPidx_index 0) (fget s F.errqCidx_index 0) →
    exec (.errqCidxWrite v) s = .next (errFreed (fset F.errqCidx_index 0 n s)))
  ∧ (∀ (r : ErrRec) (s : State),
    let l := fget s F.errqLidx_index 0
    l ≠ fget s F.errqPidx_index 0 → fon s F.errqStatus_logOk 0 = true → Map.get? s.errq (l % 4096) = some r → r.seq = l →
    let log := (s.flash.log ++ [r]).drop ((s.flash.log ++ [r]).length - logRoom)
    let t : State := { s with flash := { s.flash with log := log } }
    let u := (log.length - 1) / 64
    exec .errorLogAppend s = .next (errFreed (fset F.errqLidx_index 0 (add32 l 1) (emit .part 2 [u] (userUnit t u) t))))
  ∧ (∀ (id : Nat) (c : Cmd) (s : State), Starts 0x0605 id c s → mainOn s = true → c.src = .mgmt →
    let i := errIdx s s.errMgmt
    let l := (errFrom s i).take (min (bitsAt c.pkt.w1 0 13) (dataRoom c / 64))
    (l = [] → exec (.errqRead id) s = .next (finish c 0 0 0 [] { s with errMgmt := i }))
    ∧ (∀ r, l.getLast? = some r → exec (.errqRead id) s
        = .next (finish c 0 l.length 0 (l.flatMap errBytes) { s with errMgmt := add32 r.seq 1 })))
  ∧ (∀ (id : Nat) (c : Cmd) (s : State), Starts 0x0604 id c s → mainOn s = true →
    (bitsAt c.pkt.w1 0 16 = 0x300 → exec (.sensorRead id) s = .next (finish c 0 (fget s F.pwrStatus_hotTemp 0) 0 [] s))
    ∧ (bitsAt c.pkt.w1 0 16 = 0x310 → exec (.sensorRead id) s
        = .next (finish c 0 (Config.sensor 0x310 s.fresh % 2 ^ 64) 0 [] (tickFresh s))))
  ∧ (∀ (id : Nat) (c : Cmd) (host b : List Byte) (s : State), Starts 0x0606 id c s → dataIn s c host = .ok b → mainOn s = true →
    fget s F.bootStatus_hubState 0 ≠ 2 → fon s F.bootStatus_ledgerWait 0 = true → tokenOk s 0x44584C41 b = true →
    recAt b 80 4 = 0 → exec (.ledgerAccept id host) s = .next (finish c 0 0 0 []
      (fset F.memStatus_ledgerOk 0 1 (fset F.bootStatus_ledgerWait 0 0 { s with
        ledger := { seq := 1 }
        ledgerA := some (ledgerCopy { seq := 1 })
        ledgerB := some (ledgerCopy { seq := 1 })
        ledgerBusy := none
        ledgerDirty := false }))))
  ∧ (∀ (id : Nat) (c : Cmd) (s : State),
    (Starts 0x0607 id c s → exec (.wake id) s = .next (finish c 0 0 0 [] (wake s)))
    ∧ (Starts 0x0608 id c s → exec (.strict id) s
        = .next (finish c 0 0 0 [] (setStrict (fset F.objCtrl_strictReq 0 (bitsAt c.pkt.w1 0 1) s))))
    ∧ (Starts 0x0702 id c s → exec (.perturbClear id) s
        = .next (finish c 0 0 0 [] ((List.range 6).foldl (fun s k => writeTp k 0 s) s)))
    ∧ (Starts 0x0701 id c s → c.pkt.w1 % 8 = 0 → c.pkt.w1 / 8 ≤ 5 → confidential s (ctxGet s c.pkt.ctx).part = false →
        tpRefused s (c.pkt.w1 / 8) (BitVec.ofNat 64 c.pkt.w2).toNat = false → exec (.perturbSet id) s
          = .next (finish c 0 0 0 [] (writeTp (c.pkt.w1 / 8) (BitVec.ofNat 64 c.pkt.w2) s)))
    ∧ (Starts 0x0703 id c s → testRefused s c = false →
        exec (.katRun id) s = .next (finish c 0 (Config.freeWord s.fresh).toNat 0 [] (tickFresh s)))
    ∧ (Starts 0x0704 id c s → testRefused s c = false → bitsAt c.pkt.w1 0 4 ≤ 8 →
        let l := (traceOf s (bitsAt c.pkt.w1 0 4)).take (dataRoom c / 32)
        exec (.traceRead id) s = .next (finish c 0 l.length 0 l.flatten s)))
  ∧ (∀ (i : Nat) (v : Word) (s : State), i < 16 → exec (.perfSelWrite i v) s
    = .next (rset (rset s .perfSel i (BitVec.ofNat 64 (bitsAt v.toNat 0 26))) .perfCnt i 0))
  ∧ (∀ (v : Word) (s : State), bitOn v.toNat 1 = true →
    let t := fset F.perfCtrl_freeze 0 (bitsAt v.toNat 0 1) s
    exec (.perfCtrlSnap v) s = .next (if isMember t = true then { t with snapOwed := true } else perfSnapshot t))
  ∧ (∀ (k : Nat) (v : Word) (s : State), k < 6 →
    let keep := BitVec.ofNat 64 (bitsAt v.toNat 0 (tpMask k))
    (tpRefused s k v.toNat = true →
      exec (.tpWrite k v) s = .next (logErr { code := 0x0B06, cls := clsRefused } (fset F.tpStatus_refused 0 1 s)))
    ∧ (tpRefused s k v.toNat = false → k ≠ 3 → isMember s = true →
      exec (.tpWrite k v) s = .next { s with tpOwed := s.tpOwed.filter (·.1 != k) ++ [(k, keep)] })
    ∧ (∀ r, tpRefused s k v.toNat = false → k ≠ 3 → isMember s = false → tpRegs[k]? = some r →
      exec (.tpWrite k v) s = .next (tpActive (rset s r 0 keep))))
  ∧ (∀ (target at_ : Nat) (s : State), isMember s = false ∨ at_ < s.edges →
    (s.retrainOwed = some (1, target, at_) → target < 96 → fget s F.mtModule_state target = 5 →
      exec .tpLinkRetrain s = .next (fset F.mtModule_state target 6 { s with retrainOwed := none }))
    ∧ (s.retrainOwed = some (2, target, at_) →
      exec .tpLinkRetrain s = .next (emit .link 0x50 [target] [] { s with retrainOwed := none })))

/-- ENTDAA, the five MCTP control requests, GRISET_MCTP_REQUEST and the nine PLDM requests complete: the port takes an address and
an endpoint identifier, queues a Griset request, and answers what it supports, its sensors and HUB_STATE (R560 to R564).
Their codes are those of DSP0236, DSP0240 and DSP0248 (log entry 3). -/
def Obligations.ManagementPortRequestsComplete : Prop :=
  (∀ (da : Nat) (s : State), bootStep s ≠ 0 → exec (.entdaa da) s = .next (emit .mgmt 0x20
    [0xD0C1 * 65536 + fget (fset F.mgmtStatus_daValid 0 1 (fset F.mgmtStatus_da 0 da s)) F.pwrStatus_strapStby 0, da % 128] []
    (fset F.mgmtStatus_daValid 0 1 (fset F.mgmtStatus_da 0 da s))))
  ∧ (∀ (s : State), fon s F.mgmtStatus_daValid 0 = true →
    (∀ e, e % 256 ≠ 0 → e % 256 ≠ 255 →
      exec (.setEndpointId e) s = .next (emit .mgmt 0x101 [0, e % 256] [] (fset F.mgmtStatus_eid 0 (e % 256) s)))
    ∧ exec .getEndpointId s = .next (emit .mgmt 0x102 [0, fget s F.mgmtStatus_eid 0] [] s)
    ∧ (∀ ty, exec (.getMctpVersionSupport ty) s
        = .next (emit .mgmt 0x104 [if [0, 1, 5, 0x7E, 0xFF].contains ty then 0 else 0x80] [] s))
    ∧ exec .getMessageTypeSupport s = .next (emit .mgmt 0x105 [0, 1, 5, 0x7E] [] s)
    ∧ (∀ sel, exec (.getVendorDefinedMessageSupport sel) s = .next (emit .mgmt 0x106 [if sel = 0 then 0 else 2] [] s))
    ∧ (∀ tag bytes, recAt bytes 0 1 = 0x7E → recAt bytes 1 2 = Config.vendorId → recAt bytes 3 1 = 1 → 68 ≤ bytes.length → bytes.length ≤ 4164 →
        (fget s F.mgmtStatus_queued 0 < 8 → exec (.grisetMctpRequest tag bytes) s
          = .next (sweep (enterCmd .mgmt tag (packetIn ((bytes.drop 4).take 64)) (bytes.drop 68) none
              (fset F.mgmtStatus_queued 0 (fget s F.mgmtStatus_queued 0 + 1) s))))
        ∧ (8 ≤ fget s F.mgmtStatus_queued 0 →
            exec (.grisetMctpRequest tag bytes) s = .next (fbump F.mgmtStatus_drops 0 1 s)))
    ∧ exec .gettid s = .next (emit .pldm 0x1002 [0, Config.tid % 256] [] s)
    ∧ (∀ ty, exec (.getpldmversion ty) s = .next (emit .pldm 0x1003 [if ty = 0 ∨ ty = 2 then 0 else 0x83] [] s))
    ∧ exec .getpldmtypes s = .next (emit .pldm 0x1004 [0, 0, 2] [] s)
    ∧ (exec (.getpldmcommands 0) s = .next (emit .pldm 0x1005 [0, 2, 3, 4, 5] [] s)
      ∧ exec (.getpldmcommands 2) s = .next (emit .pldm 0x1005 [0, 4, 0x0A, 0x11, 0x21, 0x50, 0x51] [] s))
    ∧ exec .getpdrrepositoryinfo s = .next (emit .pldm 0x1250 [0, sensorNums.length + 1] [] s)
    ∧ (exec (.getpdr 0) s = .next (emit .pldm 0x1251 [0, 1] [] s)
      ∧ (∀ h n, h ≠ 0 → sensorNums[h - 1]? = some n → exec (.getpdr h) s
          = .next (emit .pldm 0x1251 [0, if h < sensorNums.length then h + 1 else 0, n] [] s)))
    ∧ (mainOn s = true → exec (.getsensorreading 0x300) s = .next (emit .pldm 0x1211 [0, 0, fget s F.pwrStatus_hotTemp 0] [] s))
    ∧ (mainOn s = false → exec (.getsensorreading 0x300) s = .next (emit .pldm 0x1211 [0, 2] [] s))
    ∧ exec .getstatesensorreadings s = .next (emit .pldm 0x1221 [0, fget s F.bootStatus_hubState 0] [] s)
    ∧ (∀ e, exec (.seteventreceiver e) s = .next (emit .pldm 0x1204 [0] [] { s with pldmTo := some (e % 256) })))

/-! ### Whole-machine rules and frames -/

/-- A step takes the command at the front of the queue and runs it on the state with the queue's rest; with no command
waiting the block idles (the model's choice, log entry 4). -/
def Obligations.AStepRunsTheFrontCommand : Prop :=
  (∀ (c : Instr) (rest : List Instr) (s : State), s.pending = c :: rest → step s = exec c { s with pending := rest })
  ∧ ∀ s : State, s.pending = [] → step s = .next s

/-- Right after reset every register holds its table's reset value, but BOOT_STATUS, whose bring-up has begun, and
SEC_STATUS; the hub is INITIALISING, no partition is enabled, every bay is unassigned, the error queue is empty, no
context, queue or fence exists, and nothing waits (R11, R28, R408, R458, R578 and the register tables; the values of BOOT_STATUS
and SEC_STATUS are the model's reading of bring-up step 1, log entry 36). -/
def Obligations.ResetHoldsTheStatedValues : Prop :=
  (∀ (r : RegName) (i : Nat), i < 65536 → ¬ (i = 0 ∧ (r = .bootStatus ∨ r = .secStatus)) →
    rget State.reset r i = regReset r i)
  ∧ rget State.reset .bootStatus 0 = 0x10 ∧ rget State.reset .secStatus 0 = 0x81
  ∧ (∀ p, p < 256 → fon State.reset F.partCfg_enable p = false)
  ∧ (∀ k, k < 9 → rget State.reset .partBays k = BitVec.allOnes 64)
  ∧ fget State.reset F.errqPidx_index 0 = 0 ∧ State.reset.errq = [] ∧ State.reset.ctxs = [] ∧ State.reset.queues = []
  ∧ State.reset.fences = [] ∧ State.reset.pending = [] ∧ State.reset.lost = []

/-- After reset both memories are in canonical form, and every byte of device memory and of the tile stores reads zero (the
model's choice, log entry 1). -/
def Obligations.ResetMemoryIsCanonical : Prop :=
  State.reset.memOk ∧ (∀ a, memRead State.reset a 1 = [0]) ∧ ∀ t a, storeByte State.reset t a = 0

/-- Every step keeps device memory and the tile stores in canonical form, so equal memories are equal data. -/
def Obligations.EveryStepKeepsMemoryCanonical : Prop :=
  ∀ s t : State, s.memOk → step s = .next t → t.memOk

/-- Every command completes in every state whose memory is canonical, and leaves the queue of waiting commands as it is. -/
def Obligations.EveryCommandCompletesAndLeavesTheQueue : Prop :=
  ∀ (c : Instr) (s : State), s.memOk → ∃ t, exec c s = .next t ∧ t.pending = s.pending

/-- The element-wise vector instructions, VLD, VLDS and VLDMX either stop the tile or change nothing of the machine but the
tile's registers, its flags and its program counter; bytes outside the destination's elements keep their values, and an inactive
element is kept, or zeroed where ZM = 1 (R109, R110). -/
def Obligations.VectorResultsLeaveTheRestAlone : Prop :=
  ∀ i ∈ floatRows.map (·.1) ++ intRows.map (·.1) ++ bitRows.map (·.1) ++ unaryRows.map (·.1) ++ fusedRows.map (·.1)
      ++ fillRows.map (·.1) ++ [.vfscale, .vcvt, .vexpq, .vld, .vlds, .vldmx],
    ∀ (o : TileOp) (s t : State), Issues o .vector s → Mem.wf (tileGet s o.tile).t = true → exec (i o) s = .next t →
      (∃ e, t = tileStop o.tile e s)
      ∨ ∃ u : EType, etypeOf (fmtV o.w).ety = some u ∧ OnlyTile o.tile s t
        ∧ tileGet t o.tile = { tileGet s o.tile with t := (tileGet t o.tile).t } ∧ Mem.wf (tileGet t o.tile).t = true
        ∧ (∀ a, a < (fmtV o.w).d * 4096 ∨ (fmtV o.w).d * 4096 + (fmtV o.w).n * u.bytes ≤ a →
            Mem.read (tileGet t o.tile).t a = Mem.read (tileGet s o.tile).t a)
        ∧ (∀ e, e < (fmtV o.w).n → (actives (tileGet s o.tile) (fmtV o.w)).getD e false = false →
            (telems (tileGet t o.tile) (fmtV o.w).d u.bytes (fmtV o.w).n).getD e 0
              = if (fmtV o.w).zm then 0 else (telems (tileGet s o.tile) (fmtV o.w).d u.bytes (fmtV o.w).n).getD e 0)

/-- The instructions that write a predicate, the compares, VCMPSPC, PAND, POR, PXOR, PNOT and PSET, write bits 0 to CNT
only: each either stops the tile, or leaves everything but that predicate and the program counter, and in it the bits above
CNT. Bit e is that of element e: for an active element it is the comparison of elements e, and for the predicate operations the
operation on bits e (R111). -/
def Obligations.PredicateWritesStopAtTheCount : Prop :=
  ∀ (o : TileOp) (s t : State), Issues o .vector s →
    let keeps := fun (d n : Nat) => OnlyTile o.tile s t
      ∧ tileGet t o.tile = { tileGet s o.tile with p := (tileGet t o.tile).p }
      ∧ rget t .tileVflags o.tile = rget s .tileVflags o.tile
      ∧ (∀ k, k ≠ d → pget (tileGet t o.tile) k = pget (tileGet s o.tile) k)
      ∧ (∀ e, n ≤ e → pbit (tileGet t o.tile) d e = pbit (tileGet s o.tile) d e)
    (∀ row ∈ compareRows, exec (row.1 o) s = .next t → (∃ e, t = tileStop o.tile e s)
      ∨ (keeps (fmtV o.w).d (fmtV o.w).n
        ∧ ∀ u : EType, etypeOf (fmtV o.w).ety = some u → ∀ e, e < (fmtV o.w).n →
          pbit (tileGet t o.tile) (fmtV o.w).d e
            = if (actives (tileGet s o.tile) (fmtV o.w)).getD e false then
                row.2 u ((telems (tileGet s o.tile) (fmtV o.w).a u.bytes (fmtV o.w).n).getD e 0)
                  ((bElems (tileGet s o.tile) (fmtV o.w) u.bytes).getD e 0)
              else if (fmtV o.w).zm then false else pbit (tileGet s o.tile) (fmtV o.w).d e))
    ∧ (exec (.vcmpspc o) s = .next t → (∃ e, t = tileStop o.tile e s) ∨ keeps (fmtV o.w).d (fmtV o.w).n)
    ∧ (∀ row ∈ predRows, exec (row.1 o) s = .next t → (∃ e, t = tileStop o.tile e s)
      ∨ (keeps (fmtVP o.w).pd ((fmtVP o.w).cnt + 1)
        ∧ ∀ e, e ≤ (fmtVP o.w).cnt → pbit (tileGet t o.tile) (fmtVP o.w).pd e
            = row.2 (pbit (tileGet s o.tile) (fmtVP o.w).pa e) (pbit (tileGet s o.tile) (fmtVP o.w).pb e)))
    ∧ (∀ row ∈ [Instr.pnot, .pset], exec (row o) s = .next t → (∃ e, t = tileStop o.tile e s)
      ∨ keeps (fmtVP o.w).pd ((fmtVP o.w).cnt + 1))

/-- VST leaves every byte of memory and of the tile stores, and every register but the tile's program counter, as it was: what it
has to write waits in the tile's queue of vector stores (log entry 89). VECTOR_STORE_COMPLETE of that store writes the active
elements the register held at the VST, and under ZM = 1 zeros for the inactive ones, at the address X register A held, and no
other byte (R64, R108, R110, R112, R113, R114). -/
def Obligations.VectorStoreWritesItsElementsOnly : Prop :=
  ∀ (o : TileOp) (s t : State) (u : EType), Issues o .vecStore s →
    etypeOf (fmtV o.w).ety = some u → exec (.vst o) s = .next t → (∃ e, t = tileStop o.tile e s)
    ∨ (t.mem = s.mem ∧ (∀ a n, memRead t a n = memRead s a n)
      ∧ (∀ (r : RegName) (i : Nat), i < 65536 → ¬ (i = o.tile ∧ r = .tileStatus) → rget t r i = rget s r i)
      ∧ (tileGet t o.tile).x = (tileGet s o.tile).x ∧ (tileGet t o.tile).t = (tileGet s o.tile).t
      ∧ (tileGet t o.tile).p = (tileGet s o.tile).p ∧ (∀ j a, storeByte t j a = storeByte s j a)
      ∧ ∃ ws, (tileGet t o.tile).vecQ = (tileGet s o.tile).vecQ ++ [ws]
        ∧ ∀ (rest : List (List Owed)) (v : State), (tileGet v o.tile).vecQ = ws :: rest → Mem.wf v.store = true →
          0 < residentBytes v o.tile → residentBytes v o.tile = residentBytes s o.tile →
          ∃ w, exec (.vectorStoreComplete o.tile) v = .next w ∧ w.mem = v.mem
            ∧ (tileGet w o.tile).vecQ = rest ∧ (tileGet w o.tile).x = (tileGet v o.tile).x
            ∧ (tileGet w o.tile).t = (tileGet v o.tile).t ∧ (tileGet w o.tile).p = (tileGet v o.tile).p
            ∧ (∀ j a, a < storeBytes → ¬ (j = o.tile ∧ xnat s o.tile (fmtV o.w).a ≤ a
                ∧ a < xnat s o.tile (fmtV o.w).a + (fmtV o.w).n * u.bytes) → storeByte w j a = storeByte v j a)
            ∧ (∀ e b, e < (fmtV o.w).n → b < u.bytes →
                storeByte w o.tile (xnat s o.tile (fmtV o.w).a + e * u.bytes + b)
                  = if (actives (tileGet s o.tile) (fmtV o.w)).getD e false then
                      Mem.read (tileGet s o.tile).t ((fmtV o.w).d * 4096 + e * u.bytes + b)
                    else if (fmtV o.w).zm then 0
                    else storeByte v o.tile (xnat s o.tile (fmtV o.w).a + e * u.bytes + b)))

/-- MEMORY_WRITE changes no byte of device memory but those it carries, wherever its room in the buffer comes from and whatever the
accesses of the part meet; accepted, every later read returns them, and a whole sector that reaches its part is lost no longer
(R279 to R281, R284, R289, R334). A write of part of a lost sector
changes nothing but the refusal it answers (R289). -/
def Obligations.MemoryWriteStoresItsBytesOnly : Prop :=
  ∀ (addr cls : Nat) (who : MemReq) (data : List Byte) (u : MemUpset) (s t : State), Mem.wf s.mem = true →
    exec (.memoryWrite addr ⟨cls, who⟩ data u) s = .next t →
    (∀ a, ¬ (addr ≤ a ∧ a < addr + data.length) → memRead t a 1 = memRead s a 1)
    ∧ (ctlReady s addr = true → data.isEmpty = false → addr % 512 + data.length ≤ 512 →
      (s.lost.contains (addr / 512) = true → data.length < 512 → t = emit .net 0x23 [addr] [] s)
      ∧ (s.lost.contains (addr / 512) = false → wcVictim s (addr / 512) data.length = none →
          ∀ k, k < data.length → memRead t (addr + k) 1 = [data.getD k 0])
      ∧ (data.length = 512 → (u.writeErrors ≤ 8 → t.lost = s.lost.filter (· != addr / 512))
          ∧ (∀ k, k < 512 → memRead t (addr + k) 1 = [data.getD k 0])))

/-- A read of a listed sector is answered with an error and no data, as an uncorrectable read of cause 0x4: MEMC_UE_COUNT
rises, MEMC_ERR holds the sector, and where a partition's tick made it, that tick spoils with the sector as its source (R203,
R286, R289). No byte of memory changes. -/
def Obligations.LostSectorsAreNotServed : Prop :=
  ∀ (addr n cls : Nat) (who : MemReq) (u : MemUpset) (s : State), ctlReady s addr = true → addr % 512 + n ≤ 512 →
    s.lost.contains (addr / 512) = true → (∀ p i, who ≠ .drain p i) →
    let c := ctlOf (addr / 512 * 512)
    ∃ t, exec (.memoryRead addr n cls who u) s = .next (emit .net 0x21 [addr] [] t)
      ∧ t = readFailed (addr / 512) 4 who false s
      ∧ ((∀ k e g, who ≠ .walker k e g) → t = memUncorrectable (addr / 512 * 512) 4 (MemReq.part s who) false s)
      ∧ fget t F.memcUeCount_count (ctlReg c) = min (fget s F.memcUeCount_count (ctlReg c) + 1) (2 ^ F.memcUeCount_count.w - 1)
      ∧ (fon s F.memcErr_valid (ctlReg c) = false →
          fget t F.memcErr_cause (ctlReg c) = 4 ∧ fget t F.memcErr_sector (ctlReg c) = addr / 512 % 2 ^ F.memcErr_sector.w)
      ∧ (∀ p, who = .unit p → inTick s p = true →
          (partGet t p).spoils = (partGet s p).spoils ++ [⟨.sector (addr / 512), false⟩])
      ∧ ∀ a m, memRead t a m = memRead s a m

/-- A write of PART_BAYS or PART_MEM is refused as a whole while the partition is enabled, or its interface is locked, or
where it names a bay or memory of another partition; and a PART_MEM range cannot leave a partition that is not clean. A refused
write leaves every register of both kinds as it is and logs record 0x0B02 (R498, R499, R516). -/
def Obligations.ResourcesBelongToOnePartition : Prop :=
  (∀ (p f : Nat) (v : Word) (s : State), p < 256 → f < 9 →
    (partGet s p).enabled = true ∨ partLocked s p = true
      ∨ (∃ b q, b < 64 ∧ v.getLsbD b = true ∧ partOfBay s (f * 64 + b) = some q ∧ q ≠ p) →
    exec (.partBaysWrite p f v) s = .next (logRefused 0x0B02 (some p) s))
  ∧ (∀ (p k : Nat) (v : Word) (s : State), p < 256 → k < 8 →
    (partGet s p).enabled = true ∨ partLocked s p = true
      ∨ (∃ r q o, memWord v = some r ∧ q < 256 ∧ q ≠ p ∧ o ∈ rangesOf s q ∧ r.1 < o.2 ∧ o.1 < r.2)
      ∨ (∃ o, memWord v = none ∧ memRange s p k = some o ∧ fon s F.partSec_clean p = false) →
    exec (.partMemWrite p k v) s = .next (logRefused 0x0B02 (some p) s))
  ∧ ∀ (p : Nat) (s : State) (i : Nat), i < 65536 →
    rget (logRefused 0x0B02 (some p) s) .partBays i = rget s .partBays i
    ∧ rget (logRefused 0x0B02 (some p) s) .partMem i = rget s .partMem i

/-- A write of 1 to PART_CFG.ENABLE of a disabled partition that holds no tick record is ignored and logs record 0x0914; one
of an enabled partition to 0 takes effect at the next edge, and until then the partition is enabled (R215, R622). The register's
other fields take their values either way. -/
def Obligations.EnablingNeedsATickRecord : Prop :=
  (∀ (p : Nat) (v : Word) (s : State), p < 256 → v.getLsbD 0 = true → (partGet s p).enabled = false →
    (partGet s p).offered = none →
    let t := fset F.partCfg_recoverLog2 p (bitsAt v.toNat 8 4) (fset F.partCfg_ceiling p (bitsAt v.toNat 1 6) s)
    ∃ u, exec (.partCfgEnable p v) s = .next u ∧ u = logErr { code := 0x0914, cls := clsRefused, part := some p } t
      ∧ partGet u p = partGet s p ∧ fon u F.partCfg_enable p = fon s F.partCfg_enable p
      ∧ fget u F.partCfg_ceiling p = bitsAt v.toNat 1 6 ∧ fget u F.partCfg_recoverLog2 p = bitsAt v.toNat 8 4)
  ∧ (∀ (p : Nat) (v : Word) (s : State), p < 256 → v.getLsbD 0 = false → (partGet s p).enabled = true →
    ∃ u, exec (.partCfgDisable p v) s = .next u ∧ (partGet u p).enabled = true ∧ (partGet u p).stopping = true
      ∧ (partGet u p).enabling = false ∧ fon u F.partCfg_enable p = false
      ∧ (∀ q, q ≠ p → partGet u q = partGet s q))

/-- VFMIN and VFMAX return the canonical NaN if either input is NaN and order −0 below +0; a compare with a NaN operand is
false but for VCMPNE, and −0 and +0 compare equal; VFABS and VFNEG change only the sign bit, of NaNs too (R120). -/
def Obligations.NansAndZerosCompareAsStated : Prop :=
  ∀ (o : TileOp) (s : State) (u : EType), Issues o .vector s → Mem.wf (tileGet s o.tile).t = true →
    etypeOf (fmtV o.w).ety = some u → u.isFloat = true →
    let f := fmtV o.w
    let aE := fun (e : Nat) => (telems (tileGet s o.tile) f.a u.bytes f.n).getD e 0
    let bE := fun (e : Nat) => (bElems (tileGet s o.tile) f u.bytes).getD e 0
    let on := fun (e : Nat) => (actives (tileGet s o.tile) f).getD e false
    let nan := fun (e : Nat) => (decodeF u.fmt (aE e)).isNan || (decodeF u.fmt (bE e)).isNan
    let zero := fun (x : Nat) => x = 0 ∨ x = u.fmt.signBit
    (vfieldsOk f { d := true, a := true, b := true, sb := true } = true →
      (spansOk false [spanOf f.d f.n u.bytes] (spanOf f.a f.n u.bytes :: bSpan f u.bytes) = true →
        ∀ i ∈ [(Instr.vfmin, u.fmt.signBit), (.vfmax, 0)], ∃ t, exec (i.1 o) s = .next t ∧ ∀ e, e < f.n → on e = true →
          (nan e = true → (telems (tileGet t o.tile) f.d u.bytes f.n).getD e 0 = u.fmt.nanBits)
          ∧ (zero (aE e) → zero (bE e) → aE e ≠ bE e → (telems (tileGet t o.tile) f.d u.bytes f.n).getD e 0 = i.2))
      ∧ (f.d < 8 → spansOk false [] (spanOf f.a f.n u.bytes :: bSpan f u.bytes) = true →
        ∀ i ∈ [(Instr.vcmpeq, false, true), (.vcmpne, true, false), (.vcmplt, false, false), (.vcmple, false, true),
            (.vcmpgt, false, false), (.vcmpge, false, true)],
          ∃ t, exec (i.1 o) s = .next t ∧ ∀ e, e < f.n → on e = true →
            (nan e = true → pbit (tileGet t o.tile) f.d e = i.2.1)
            ∧ (zero (aE e) → zero (bE e) → pbit (tileGet t o.tile) f.d e = i.2.2)))
    ∧ (vfieldsOk f { d := true, a := true } = true → spansOk false [spanOf f.d f.n u.bytes] [spanOf f.a f.n u.bytes] = true →
      ∀ i ∈ [(Instr.vfabs, false), (.vfneg, true)], ∃ t, exec (i.1 o) s = .next t ∧ ∀ e, e < f.n → on e = true →
        (telems (tileGet t o.tile) f.d u.bytes f.n).getD e 0 % u.fmt.signBit = aE e % u.fmt.signBit
        ∧ ((telems (tileGet t o.tile) f.d u.bytes f.n).getD e 0 / u.fmt.signBit
            = if i.2 then 1 - aE e / u.fmt.signBit else 0))

/-- The end of a clear: every byte of the partition's ranges reads zero in memory and every other byte as before, no sector of
them is listed lost, the key slot is gone, MEM_DIRTY bit p is clear and PART_SEC.CLEAN is set (R289, R299, R300, R499). -/
def Obligations.AClearZeroesThePartitionsRanges : Prop :=
  ∀ (p : Nat) (s : State), p < 256 → Mem.wf s.mem = true → s.clearQ = [] →
    let inside := fun (a : Nat) => (rangesOf s p).any fun r => decide (r.1 ≤ a ∧ a < r.2)
    let t := clearEnd p s
    (∀ a, Mem.read t.mem a = if inside a then 0 else Mem.read s.mem a) ∧ t.store = s.store
    ∧ (∀ q, t.lost.contains q = (s.lost.contains q && !inside (q * 512)))
    ∧ (∀ k, k % 256 = p → Map.get? t.fenKeys k = none) ∧ (∀ e ∈ t.keyMap, e.2.1 ≠ p)
    ∧ (rget t .memDirty (p / 64)).getLsbD (p % 64) = false ∧ fon t F.partSec_clean p = true
    ∧ fon t F.memStatus_clearing 0 = false

/-- A record takes the slot of its sequence number modulo 4,096, PIDX counts it, and every other slot keeps its record. A record
that finds the queue full is dropped: its number is used, OVF is set and ERRQ_DROPPED rises. A write of CIDX past PIDX is ignored
(R573, R574, R578, R579). -/
def Obligations.ErrorRecordsTakeTheNextSlot : Prop :=
  (∀ (e : ErrIn) (s : State), (∀ p, e.part = some p → inTick s p = false) ∨ e.source = 0xFFFF →
    (errHeld s < 4096 → s.errLost = 0 →
      Map.get? (logErr e s).errq (fget s F.errqPidx_index 0 % 4096) = some (errRecord s e)
      ∧ (errRecord s e).seq = fget s F.errqPidx_index 0
      ∧ (∀ k, k ≠ fget s F.errqPidx_index 0 % 4096 → Map.get? (logErr e s).errq k = Map.get? s.errq k)
      ∧ fget (logErr e s) F.errqPidx_index 0 = add32 (fget s F.errqPidx_index 0) 1
      ∧ fget (logErr e s) F.errqDropped_count 0 = fget s F.errqDropped_count 0)
    ∧ (4096 ≤ errHeld s →
      (logErr e s).errq = s.errq ∧ fget (logErr e s) F.errqPidx_index 0 = add32 (fget s F.errqPidx_index 0) 1
      ∧ fon (logErr e s) F.errqStatus_ovf 0 = true
      ∧ fget (logErr e s) F.errqDropped_count 0 = min (fget s F.errqDropped_count 0 + 1) (2 ^ F.errqDropped_count.w - 1)))
  ∧ ∀ (v : Word) (s : State),
    diff32 (fget s F.errqPidx_index 0) (fget s F.errqCidx_index 0) < diff32 (bitsAt v.toNat 0 32) (fget s F.errqCidx_index 0) →
    exec (.errqCidxWrite v) s = .next s

/-- A write of a register without behaviour of its own: an RW field takes its bits, a W1C field loses the bits written with 1, a
W1S field gains them, an RO or WO field keeps its value; no other register changes; an RWO field takes the first write after reset
and no later one (R11). A read of the hub's own units returns the register, with TICK of TILE_STATUS the tick counter while the
tile's partition has a tick in progress (R104); the operator reads zero in the fields R520 names of a confidential partition's
units, and what the hub reads elsewhere in them. -/
def Obligations.PlainWritesFollowTheAccessCodes : Prop :=
  (∀ (r : RegName) (i : Nat) (v : Word) (s : State), i < 65536 →
    let t := plainWrite r i v s
    (∀ f ∈ r.fields,
      (f.acc = .rw → fget t f i = bitsAt v.toNat f.lo f.w)
      ∧ (f.acc = .w1c → ∀ b, b < f.w → (fget t f i).testBit b = ((fget s f i).testBit b && !(bitsAt v.toNat f.lo f.w).testBit b))
      ∧ (f.acc = .w1s → ∀ b, b < f.w → (fget t f i).testBit b = ((fget s f i).testBit b || (bitsAt v.toNat f.lo f.w).testBit b))
      ∧ (f.acc = .ro ∨ f.acc = .wo → fget t f i = fget s f i))
    ∧ ∀ (q : RegName) (j : Nat), j < 65536 → ¬ (q = r ∧ j = i) → rget t q j = rget s q j)
  ∧ (∀ (i v w : Nat) (s : State) (f : Fld), f.acc = .rwo → f.lo + f.w ≤ 64 → s.rwo.contains (regKey f.reg i * 64 + f.lo) = false →
    fget (writeField i v s f) f i = bitsAt v f.lo f.w ∧ fget (writeField i w (writeField i v s f) f) f i = bitsAt v f.lo f.w)
  ∧ (∀ (r : RegName) (i : Nat) (s : State), r ≠ .tileStatus → regView s .hub r i = (rget s r i).toNat)
  ∧ (∀ (i p : Nat) (s : State), partOfBay s (bayOf i) = some p →
    bitsAt (regView s .hub .tileStatus i) F.tileStatus_tick.lo F.tileStatus_tick.w
        = (if (partGet s p).live then fget s F.tickCounter_count 0 % 2 ^ F.tileStatus_tick.w else 0)
    ∧ (∀ f ∈ RegName.tileStatus.fields, f ≠ F.tileStatus_tick →
        bitsAt (regView s .hub .tileStatus i) f.lo f.w = fget s f i)
    ∧ (confidential s p = true →
        bitsAt (regView s .operator .tileStatus i) F.tileStatus_pc.lo F.tileStatus_pc.w = 0
        ∧ bitsAt (regView s .operator .tileErr i) F.tileErr_pc.lo F.tileErr_pc.w = 0
        ∧ (∀ f ∈ RegName.tileVflags.fields, bitsAt (regView s .operator .tileVflags i) f.lo f.w = 0)
        ∧ (∀ f ∈ RegName.tileErr.fields, f ≠ F.tileErr_pc →
            bitsAt (regView s .operator .tileErr i) f.lo f.w = fget s f i))
    ∧ (confidential s p = false → ∀ r ∈ [RegName.tileStatus, .tileErr, .tileVflags],
        regView s .operator r i = regView s .hub r i))
  ∧ (∀ (b p : Nat) (s : State), partOfBay s b = some p → confidential s p = true →
    bitsAt (regView s .operator .kvwErr b) F.kvwErr_entry.lo F.kvwErr_entry.w = 0
    ∧ (∀ f ∈ RegName.kvwBytes.fields, bitsAt (regView s .operator .kvwBytes b) f.lo f.w = 0)
    ∧ (∀ f ∈ RegName.kvwFaults.fields, bitsAt (regView s .operator .kvwFaults b) f.lo f.w = 0))

/-- No filter matches, and no record is written for, a packet whose partition is in confidential mode; hub-level packets, with HUBU
set, are counted, and traced where the filter asks for it, whatever any partition's mode (R343, R345). -/
def Obligations.ConfidentialPacketsAreNotTraced : Prop :=
  (∀ (ty inPort filt addr : Nat) (p : NetPkt) (s : State), p.hubu = false → confidential s p.part = true →
    prbMatches s ty inPort p filt addr = false)
  ∧ (∀ (ty : Nat) (a : NetArr) (s : State), a.pkt.hubu = false → a.pkt.part < 256 →
    confidential s a.pkt.part = true →
    ∀ way : List NetHop, (journeyed ty a way s).traces = s.traces
    ∧ (∀ (r : RegName) (i : Nat), i < 65536 → r ≠ .perfCnt → rget (journeyed ty a way s) r i = rget s r i))
  ∧ (∀ (ty : Nat) (p : NetPkt) (crowded : Bool) (h : NetHop) (s : State), p.hubu = true → h.field < 9 → h.node < 98 →
    let i := h.field * 98 + h.node
    let t := leaveRouter ty p crowded s h
    (prbMatches s ty h.inPort p (rget s .prbFiltB i).toNat (rget s .prbAddrB i).toNat = true →
      fget t F.prbPktsB_count i = (fget s F.prbPktsB_count i + 1) % 2 ^ F.prbPktsB_count.w
      ∧ fget t F.prbFlitsB_count i = (fget s F.prbFlitsB_count i + netFlits p) % 2 ^ F.prbFlitsB_count.w)
    ∧ (prbMatches s ty h.inPort p (rget s .prbFiltA i).toNat (rget s .prbAddrA i).toNat = true →
      fget t F.prbPktsA_count i = (fget s F.prbPktsA_count i + 1) % 2 ^ F.prbPktsA_count.w
      ∧ fget t F.prbFlitsA_count i = (fget s F.prbFlitsA_count i + netFlits p) % 2 ^ F.prbFlitsA_count.w
      ∧ (fon s F.prbFiltA_trace i = true → fon s F.trcCtrl_arm h.field = true → fon s F.trcCtrl_full h.field = false →
        crowded = false →
        (Map.get? t.traces (h.field * 2048 + fget s F.trcCtrl_wrptr h.field)).isSome = true
        ∧ fget t F.trcCtrl_wrptr h.field = (fget s F.trcCtrl_wrptr h.field + 1) % 2048)))
end

