-- ==== Sys2Proof/Laws/Maps.lean ====
section
/-! SUPPORT. Laws/Maps.lean: what a table gives back after a change, and the laws of byte memory: a read after a write
to the same place, every other place left alone, and the canonical form kept by every operation. -/
namespace Sys2Proof.Machine

/-! ### Tables -/

theorem Map.get?_set_same {α : Type} (m : Map α) (k : Nat) (v : α) : Map.get? (Map.set m k v) k = some v := by
  induction m with
  | nil => simp [Map.set, Map.get?]
  | cons p m ih =>
    obtain ⟨j, w⟩ := p
    by_cases h1 : k < j
    · simp [Map.set, h1, Map.get?]
    · by_cases h2 : j = k
      · simp [Map.set, h2, Map.get?]
      · simp [Map.set, h1, h2, Map.get?, ih]

theorem Map.get?_set_other {α : Type} (m : Map α) (k i : Nat) (v : α) (h : i ≠ k) :
    Map.get? (Map.set m k v) i = Map.get? m i := by
  induction m with
  | nil => simp [Map.set, Map.get?, Ne.symm h]
  | cons p m ih =>
    obtain ⟨j, w⟩ := p
    by_cases h1 : k < j
    · simp [Map.set, h1, Map.get?, Ne.symm h]
    · by_cases h2 : j = k
      · subst h2
        simp [Map.set, Map.get?, Ne.symm h]
      · by_cases h3 : j = i
        · subst h3
          simp [Map.set, h1, h2, Map.get?]
        · simp [Map.set, h1, h2, h3, Map.get?, ih]

/-- Reading back what was put under a key. -/
@[simp] theorem Map.get_set_same {α : Type} (m : Map α) (d : α) (k : Nat) (v : α) : Map.get (Map.set m k v) d k = v := by
  simp [Map.get, Map.get?_set_same]

/-- Every other key reads as before. -/
theorem Map.get_set_other {α : Type} (m : Map α) (d : α) (k i : Nat) (v : α) (h : i ≠ k) :
    Map.get (Map.set m k v) d i = Map.get m d i := by
  simp [Map.get, Map.get?_set_other m k i v h]

/-- A key set twice holds the later value. -/
theorem Map.set_set {α : Type} (m : Map α) (k : Nat) (v w : α) : Map.set (Map.set m k v) k w = Map.set m k w := by
  induction m with
  | nil => simp [Map.set]
  | cons p m ih =>
    obtain ⟨j, x⟩ := p
    by_cases h1 : k < j
    · simp [Map.set, h1]
    · by_cases h2 : j = k
      · simp [Map.set, h2]
      · simp [Map.set, h1, h2, ih]

/-! ### Memory -/

theorem Mem.wfFrom_mono {m : Mem} {a b : Nat} (h : Mem.wfFrom a m = true) (hab : b ≤ a) : Mem.wfFrom b m = true := by
  cases m with
  | nil => rfl
  | cons p m =>
    obtain ⟨j, v⟩ := p
    simp only [Mem.wfFrom, Bool.and_eq_true, decide_eq_true_eq] at h ⊢
    exact ⟨⟨by omega, h.1.2⟩, h.2⟩

theorem Mem.wfFrom_write {m : Mem} {lo a : Nat} (b : Byte) (h : Mem.wfFrom lo m = true) (ha : lo ≤ a) :
    Mem.wfFrom lo (Mem.write m a b) = true := by
  induction m generalizing lo with
  | nil =>
    by_cases hb : b = Mem.blank
    · simp [Mem.write, hb, Mem.wfFrom]
    · simp [Mem.write, hb, Mem.wfFrom, ha]
  | cons p m ih =>
    obtain ⟨j, v⟩ := p
    have h' := h
    simp only [Mem.wfFrom, Bool.and_eq_true, decide_eq_true_eq] at h
    obtain ⟨⟨hj, hv⟩, hm⟩ := h
    by_cases h1 : a < j
    · by_cases hb : b = Mem.blank
      · simp only [Mem.write, h1, hb, if_true]
        exact h'
      · simp only [Mem.write, h1, hb, if_true, if_false, Mem.wfFrom, Bool.and_eq_true, decide_eq_true_eq]
        exact ⟨⟨ha, hb⟩, ⟨by omega, hv⟩, hm⟩
    · by_cases h2 : j = a
      · subst h2
        by_cases hb : b = Mem.blank
        · simp only [Mem.write, h1, hb, if_true, if_false]
          exact Mem.wfFrom_mono hm (by omega)
        · simp only [Mem.write, h1, hb, if_true, if_false, Mem.wfFrom, Bool.and_eq_true, decide_eq_true_eq]
          exact ⟨⟨ha, hb⟩, hm⟩
      · simp only [Mem.write, h1, h2, if_false, Mem.wfFrom, Bool.and_eq_true, decide_eq_true_eq]
        exact ⟨⟨hj, hv⟩, ih hm (by omega)⟩

/-- Storing a byte keeps the canonical form. -/
theorem Mem.wf_write {m : Mem} (a : Nat) (b : Byte) (h : Mem.wf m = true) : Mem.wf (Mem.write m a b) = true :=
  Mem.wfFrom_write b h (Nat.zero_le a)

/-- Storing bytes keeps the canonical form. -/
theorem Mem.wf_writeN {m : Mem} (a : Nat) (bs : List Byte) (h : Mem.wf m = true) : Mem.wf (Mem.writeN m a bs) = true := by
  induction bs generalizing m a with
  | nil => exact h
  | cons b bs ih => exact ih (a + 1) (Mem.wf_write a b h)

/-- Clearing a range keeps the canonical form. -/
theorem Mem.wf_clear {m : Mem} (a n : Nat) (h : Mem.wf m = true) : Mem.wf (Mem.clear m a n) = true := by
  suffices H : ∀ (m : Mem) (lo : Nat), Mem.wfFrom lo m = true → Mem.wfFrom lo (Mem.clear m a n) = true from H m 0 h
  intro m
  induction m with
  | nil => intro lo _; rfl
  | cons p m ih =>
    intro lo h
    obtain ⟨j, v⟩ := p
    simp only [Mem.wfFrom, Bool.and_eq_true, decide_eq_true_eq] at h
    obtain ⟨⟨hj, hv⟩, hm⟩ := h
    have hrec := ih (j + 1) hm
    by_cases hc : a ≤ j ∧ j < a + n
    · have e : Mem.clear ((j, v) :: m) a n = Mem.clear m a n := by
        simp only [Mem.clear, List.filter_cons]
        rw [if_neg (by simp [hc])]
      rw [e]
      exact Mem.wfFrom_mono hrec (by omega)
    · have e : Mem.clear ((j, v) :: m) a n = (j, v) :: Mem.clear m a n := by
        simp only [Mem.clear, List.filter_cons]
        rw [if_pos (by simp; omega)]
      rw [e]
      simp only [Mem.wfFrom, Bool.and_eq_true, decide_eq_true_eq]
      exact ⟨⟨hj, hv⟩, hrec⟩

theorem Mem.read_below {m : Mem} {lo a : Nat} (h : Mem.wfFrom lo m = true) (ha : a < lo) : Mem.read m a = Mem.blank := by
  cases m with
  | nil => rfl
  | cons p m =>
    obtain ⟨j, v⟩ := p
    simp only [Mem.wfFrom, Bool.and_eq_true, decide_eq_true_eq] at h
    simp [Mem.read, show a < j by omega]

theorem Mem.read_write_from {m : Mem} {lo : Nat} (a c : Nat) (b : Byte) (h : Mem.wfFrom lo m = true) :
    Mem.read (Mem.write m a b) c = if c = a then b else Mem.read m c := by
  induction m generalizing lo with
  | nil =>
    by_cases hb : b = Mem.blank
    · simp [Mem.write, hb, Mem.read]
    · by_cases hc : c = a
      · simp [Mem.write, hb, Mem.read, hc]
      · by_cases hl : c < a
        · simp [Mem.write, hb, Mem.read, hc, hl]
        · simp [Mem.write, hb, Mem.read, hc, hl, Ne.symm hc]
  | cons p m ih =>
    obtain ⟨j, v⟩ := p
    simp only [Mem.wfFrom, Bool.and_eq_true, decide_eq_true_eq] at h
    obtain ⟨⟨hj, hv⟩, hm⟩ := h
    by_cases h1 : a < j
    · by_cases hb : b = Mem.blank
      · by_cases hc : c = a
        · subst hc; simp [Mem.write, h1, hb, Mem.read]
        · simp [Mem.write, h1, hb, hc]
      · by_cases hc : c = a
        · subst hc; simp [Mem.write, h1, hb, Mem.read]
        · by_cases hl : c < a
          · simp [Mem.write, h1, hb, Mem.read, hc, hl, show c < j by omega]
          · simp [Mem.write, h1, hb, Mem.read, hc, hl, Ne.symm hc]
    · by_cases h2 : j = a
      · subst h2
        by_cases hb : b = Mem.blank
        · by_cases hc : c = j
          · subst hc
            simp [Mem.write, hb, Mem.read_below hm (Nat.lt_succ_self c)]
          · by_cases hl : c < j
            · simp [Mem.write, hb, Mem.read, hc, hl, Mem.read_below hm (show c < j + 1 by omega)]
            · simp [Mem.write, hb, Mem.read, hc, hl, Ne.symm hc]
        · by_cases hc : c = j
          · subst hc; simp [Mem.write, hb, Mem.read]
          · by_cases hl : c < j <;> simp [Mem.write, hb, Mem.read, hc, hl, Ne.symm hc]
      · by_cases hl : c < j
        · simp [Mem.write, h1, h2, Mem.read, hl, show c ≠ a by omega]
        · by_cases hc : j = c
          · subst hc; simp [Mem.write, h1, h2, Mem.read]
          · simp [Mem.write, h1, h2, Mem.read, hl, hc, ih hm]

/-- A byte read after a byte was stored: the stored one at its address, every other as before. -/
theorem Mem.read_write {m : Mem} (a c : Nat) (b : Byte) (h : Mem.wf m = true) :
    Mem.read (Mem.write m a b) c = if c = a then b else Mem.read m c :=
  Mem.read_write_from a c b h

/-- A byte read after bytes were stored at rising addresses. -/
theorem Mem.read_writeN {m : Mem} (a c : Nat) (bs : List Byte) (h : Mem.wf m = true) :
    Mem.read (Mem.writeN m a bs) c = if a ≤ c ∧ c < a + bs.length then bs.getD (c - a) 0 else Mem.read m c := by
  induction bs generalizing m a with
  | nil =>
    have h0 : ¬ (a ≤ c ∧ c < a + ([] : List Byte).length) := by simp only [List.length_nil]; omega
    rw [if_neg h0, Mem.writeN]
  | cons b bs ih =>
    simp only [Mem.writeN, List.length_cons]
    rw [ih (a + 1) (Mem.wf_write a b h), Mem.read_write a c b h]
    by_cases h1 : a + 1 ≤ c ∧ c < a + 1 + bs.length
    · rw [if_pos h1, if_pos (by omega)]
      have : c - a = (c - (a + 1)) + 1 := by omega
      rw [this]; rfl
    · rw [if_neg h1]
      by_cases h2 : c = a
      · subst h2
        simp
      · rw [if_neg h2, if_neg (by omega)]

end Sys2Proof.Machine
end

