-- ==== Sys2Proof/Laws/Regs.lean ====
section
/-! SUPPORT. Laws/Regs.lean: reading registers and their fields back after a change, and the sub-tables of tiles, bays,
partitions, contexts and queues. -/
namespace Sys2Proof.Machine

/-! ### Bit fields -/

/-- A field reads back the low bits of what was put into it. -/
theorem bitsAt_putBits (n lo w v : Nat) : bitsAt (putBits n lo w v) lo w = v % 2 ^ w := by
  have hp : 0 < 2 ^ lo := Nat.two_pow_pos lo
  have hw : 0 < 2 ^ w := Nat.two_pow_pos w
  unfold putBits bitsAt
  have h1 : n / 2 ^ lo % 2 ^ w * 2 ^ lo ≤ n := by
    calc n / 2 ^ lo % 2 ^ w * 2 ^ lo ≤ n / 2 ^ lo * 2 ^ lo := Nat.mul_le_mul_right _ (Nat.mod_le _ _)
      _ ≤ n := Nat.div_mul_le_self _ _
  have h2 : (n - n / 2 ^ lo % 2 ^ w * 2 ^ lo + v % 2 ^ w * 2 ^ lo) / 2 ^ lo = (n / 2 ^ lo - n / 2 ^ lo % 2 ^ w) + v % 2 ^ w := by
    rw [Nat.add_mul_div_right _ _ hp]
    congr 1
    rw [Nat.mul_comm (n / 2 ^ lo % 2 ^ w), Nat.sub_mul_div]
  rw [h2]
  have h3 : n / 2 ^ lo - n / 2 ^ lo % 2 ^ w = 2 ^ w * (n / 2 ^ lo / 2 ^ w) := by
    have := Nat.div_add_mod (n / 2 ^ lo) (2 ^ w); omega
  rw [h3, Nat.mul_add_mod]
  exact Nat.mod_mod _ _

/-- A field below or above another keeps its bits when the other changes. -/
theorem bitsAt_putBits_other (n lo w v lo' w' : Nat) (h : lo' + w' ≤ lo ∨ lo + w ≤ lo') :
    bitsAt (putBits n lo w v) lo' w' = bitsAt n lo' w' := by
  have key : ∀ i, i < lo ∨ lo + w ≤ i → (putBits n lo w v).testBit i = n.testBit i := by
    intro i hi
    have hsplit : n = n % 2 ^ lo + 2 ^ lo * (n / 2 ^ lo % 2 ^ w) + 2 ^ (lo + w) * (n / 2 ^ (lo + w)) := by
      have a := Nat.div_add_mod n (2 ^ lo)
      have b := Nat.div_add_mod (n / 2 ^ lo) (2 ^ w)
      rw [Nat.div_div_eq_div_mul, ← Nat.pow_add] at b
      have c : 2 ^ (lo + w) = 2 ^ lo * 2 ^ w := Nat.pow_add ..
      calc n = 2 ^ lo * (n / 2 ^ lo) + n % 2 ^ lo := a.symm
        _ = 2 ^ lo * (2 ^ w * (n / 2 ^ (lo + w)) + n / 2 ^ lo % 2 ^ w) + n % 2 ^ lo := by rw [b]
        _ = _ := by rw [c, Nat.mul_add, Nat.mul_assoc]; omega
    have hput : putBits n lo w v = n % 2 ^ lo + 2 ^ lo * (v % 2 ^ w) + 2 ^ (lo + w) * (n / 2 ^ (lo + w)) := by
      unfold putBits bitsAt
      rw [Nat.mul_comm (n / 2 ^ lo % 2 ^ w), Nat.mul_comm (v % 2 ^ w)]
      omega
    have bit : ∀ m, m < 2 ^ w → (n % 2 ^ lo + 2 ^ lo * m + 2 ^ (lo + w) * (n / 2 ^ (lo + w))).testBit i
        = if i < lo then (n % 2 ^ lo).testBit i else (n / 2 ^ (lo + w)).testBit (i - (lo + w)) := by
      intro m hm
      have hlow : n % 2 ^ lo + 2 ^ lo * m < 2 ^ (lo + w) := by
        have h1 : n % 2 ^ lo < 2 ^ lo := Nat.mod_lt _ (Nat.two_pow_pos lo)
        have h2 : 2 ^ lo * (m + 1) ≤ 2 ^ lo * 2 ^ w := Nat.mul_le_mul_left _ hm
        rw [Nat.pow_add]
        rw [Nat.mul_add] at h2
        omega
      have e1 : n % 2 ^ lo + 2 ^ lo * m + 2 ^ (lo + w) * (n / 2 ^ (lo + w))
          = 2 ^ (lo + w) * (n / 2 ^ (lo + w)) + (n % 2 ^ lo + 2 ^ lo * m) := by omega
      rw [e1, Nat.testBit_two_pow_mul_add _ hlow]
      by_cases c : i < lo
      · rw [if_pos (by omega), if_pos c, Nat.add_comm, Nat.testBit_two_pow_mul_add _ (Nat.mod_lt _ (Nat.two_pow_pos lo)), if_pos c]
      · rw [if_neg c, if_neg (by omega)]
    rw [hput, bit _ (Nat.mod_lt _ (Nat.two_pow_pos w))]
    conv => rhs; rw [hsplit]
    rw [bit _ (Nat.mod_lt _ (Nat.two_pow_pos w))]
  apply Nat.eq_of_testBit_eq
  intro i
  unfold bitsAt
  rw [Nat.testBit_mod_two_pow, Nat.testBit_mod_two_pow, Nat.testBit_div_two_pow, Nat.testBit_div_two_pow]
  by_cases hi : i < w'
  · rw [key _ (by omega)]
  · simp [hi]

/-! ### Registers -/

theorem regKey_inj_reg {r r' : RegName} {i : Nat} (h : regKey r i = regKey r' i) : r = r' := by
  have h' : r.ctorIdx = r'.ctorIdx := by unfold regKey at h; omega
  rw [← RegName.ofNat_ctorIdx r, ← RegName.ofNat_ctorIdx r', h']

/-- Reading back the instance that was set. -/
@[simp] theorem rget_rset_same (s : State) (r : RegName) (i : Nat) (v : Word) : rget (rset s r i v) r i = v := by
  simp [rget, rset]

/-- Another register of the same index reads as before. -/
theorem rget_rset_reg (s : State) (r r' : RegName) (i : Nat) (v : Word) (h : r' ≠ r) :
    rget (rset s r i v) r' i = rget s r' i := by
  unfold rget rset
  exact Map.get_set_other _ _ _ _ _ (fun e => h (regKey_inj_reg e))

/-- Another instance of the same register reads as before. -/
theorem rget_rset_idx (s : State) (r : RegName) (i j : Nat) (v : Word) (h : j ≠ i) :
    rget (rset s r i v) r j = rget s r j := by
  unfold rget rset
  exact Map.get_set_other _ _ _ _ _ (by unfold regKey; omega)

/-- Every other register and instance reads as before, for indices that name an instance. -/
theorem rget_rset_other (s : State) (r r' : RegName) (i j : Nat) (v : Word) (h : ¬ (r' = r ∧ j = i))
    (hi : i < 65536) (hj : j < 65536) : rget (rset s r i v) r' j = rget s r' j := by
  unfold rget rset
  refine Map.get_set_other _ _ _ _ _ (fun e => h ?_)
  unfold regKey at e
  have h1 : r'.ctorIdx = r.ctorIdx := by omega
  have h2 : j = i := by omega
  subst h2
  exact ⟨by rw [← RegName.ofNat_ctorIdx r, ← RegName.ofNat_ctorIdx r', h1], rfl⟩

/-- A register reads the same in states that hold the same registers. -/
theorem rget_congr {s t : State} (h : t.regs = s.regs) (r : RegName) (i : Nat) : rget t r i = rget s r i := by
  unfold rget; rw [h]

/-- A field reads the same where its register does. -/
theorem fget_congr {s t : State} {f : Fld} {i : Nat} (h : rget t f.reg i = rget s f.reg i) : fget t f i = fget s f i := by
  unfold fget; rw [h]

theorem fon_congr {s t : State} {f : Fld} {i : Nat} (h : rget t f.reg i = rget s f.reg i) : fon t f i = fon s f i := by
  unfold fon; rw [fget_congr h]

/-- A field below bit 64 reads back the low bits of what it was set to. -/
theorem fget_fset_same (s : State) (f : Fld) (i v : Nat) (hf : f.lo + f.w ≤ 64) : fget (fset f i v s) f i = v % 2 ^ f.w := by
  unfold fget fset
  rw [rget_rset_same, BitVec.toNat_ofNat]
  have h := bitsAt_putBits (rget s f.reg i).toNat f.lo f.w v
  generalize putBits (rget s f.reg i).toNat f.lo f.w v = n at h ⊢
  rw [← h]
  unfold bitsAt
  apply Nat.eq_of_testBit_eq
  intro k
  rw [Nat.testBit_mod_two_pow, Nat.testBit_mod_two_pow, Nat.testBit_div_two_pow, Nat.testBit_div_two_pow, Nat.testBit_mod_two_pow]
  by_cases hk : k < f.w
  · simp [hk, show k + f.lo < 64 by omega]
  · simp [hk]

/-- Fields of another register of the same index keep their values. -/
theorem fget_fset_reg (s : State) (f g : Fld) (i v : Nat) (h : g.reg ≠ f.reg) : fget (fset f i v s) g i = fget s g i := by
  unfold fset
  exact fget_congr (rget_rset_reg _ _ _ _ _ h)

/-- Fields of another instance keep their values. -/
theorem fget_fset_idx (s : State) (f g : Fld) (i j v : Nat) (h : j ≠ i) (hr : g.reg = f.reg) :
    fget (fset f i v s) g j = fget s g j := by
  unfold fset
  exact fget_congr (by rw [hr]; exact rget_rset_idx _ _ _ _ _ h)

/-- Other fields of the same register keep their values. -/
theorem fget_fset_field (s : State) (f g : Fld) (i v : Nat) (hr : g.reg = f.reg) (h : g.lo + g.w ≤ f.lo ∨ f.lo + f.w ≤ g.lo)
    (hg : g.lo + g.w ≤ 64) : fget (fset f i v s) g i = fget s g i := by
  unfold fget fset
  rw [hr, rget_rset_same, BitVec.toNat_ofNat]
  have hk := bitsAt_putBits_other (rget s f.reg i).toNat f.lo f.w v g.lo g.w h
  generalize putBits (rget s f.reg i).toNat f.lo f.w v = n at hk ⊢
  rw [← hk]
  unfold bitsAt
  apply Nat.eq_of_testBit_eq
  intro k
  rw [Nat.testBit_mod_two_pow, Nat.testBit_mod_two_pow, Nat.testBit_div_two_pow, Nat.testBit_div_two_pow, Nat.testBit_mod_two_pow]
  by_cases hk : k < g.w
  · simp [hk, show k + g.lo < 64 by omega]
  · simp [hk]

/-! ### Sub-tables -/

@[simp] theorem tileGet_tileSet (t : Nat) (v : Tile) (s : State) : tileGet (tileSet t v s) t = v := by
  simp [tileGet, tileSet]
theorem tileGet_tileSet_other (t u : Nat) (v : Tile) (s : State) (h : u ≠ t) : tileGet (tileSet t v s) u = tileGet s u :=
  Map.get_set_other _ _ _ _ _ h
@[simp] theorem bayGet_baySet (b : Nat) (v : Bay) (s : State) : bayGet (baySet b v s) b = v := by
  simp [bayGet, baySet]
theorem bayGet_baySet_other (b c : Nat) (v : Bay) (s : State) (h : c ≠ b) : bayGet (baySet b v s) c = bayGet s c :=
  Map.get_set_other _ _ _ _ _ h
@[simp] theorem partGet_partSet (p : Nat) (v : Part) (s : State) : partGet (partSet p v s) p = v := by
  simp [partGet, partSet]
theorem partGet_partSet_other (p q : Nat) (v : Part) (s : State) (h : q ≠ p) : partGet (partSet p v s) q = partGet s q :=
  Map.get_set_other _ _ _ _ _ h
@[simp] theorem ctxGet_ctxSet (c : Nat) (v : Ctx) (s : State) (h : c ≠ 0) : ctxGet (ctxSet c v s) c = v := by
  simp [ctxGet, ctxSet, h]
theorem ctxGet_ctxSet_other (c d : Nat) (v : Ctx) (s : State) (h : d ≠ c) : ctxGet (ctxSet c v s) d = ctxGet s d := by
  unfold ctxGet ctxSet
  rw [Map.get_set_other _ _ _ _ _ h]
  split
  · subst d; rw [Map.get_set_other _ _ _ _ _ h]
  · rfl
@[simp] theorem queueGet_queueSet (q : Nat) (v : QDesc) (s : State) : queueGet (queueSet q v s) q = v := by
  simp [queueGet, queueSet]
theorem queueGet_queueSet_other (q r : Nat) (v : QDesc) (s : State) (h : r ≠ q) : queueGet (queueSet q v s) r = queueGet s r :=
  Map.get_set_other _ _ _ _ _ h

end Sys2Proof.Machine
end

