-- ==== Sys2Proof/Laws/State.lean ====
section
/-! SUPPORT. Laws/State.lean: every field of the state after each of the updates the operations are built from. -/
namespace Sys2Proof.Machine

/-! ### rset -/

@[simp] theorem rset_pending (s : State) (r : RegName) (i : Nat) (v : Word) : (rset s r i v).pending = s.pending := rfl
@[simp] theorem rset_mem (s : State) (r : RegName) (i : Nat) (v : Word) : (rset s r i v).mem = s.mem := rfl
@[simp] theorem rset_store (s : State) (r : RegName) (i : Nat) (v : Word) : (rset s r i v).store = s.store := rfl
@[simp] theorem rset_tiles (s : State) (r : RegName) (i : Nat) (v : Word) : (rset s r i v).tiles = s.tiles := rfl
@[simp] theorem rset_bays (s : State) (r : RegName) (i : Nat) (v : Word) : (rset s r i v).bays = s.bays := rfl
@[simp] theorem rset_parts (s : State) (r : RegName) (i : Nat) (v : Word) : (rset s r i v).parts = s.parts := rfl
@[simp] theorem rset_ready (s : State) (r : RegName) (i : Nat) (v : Word) : (rset s r i v).ready = s.ready := rfl
@[simp] theorem rset_snap (s : State) (r : RegName) (i : Nat) (v : Word) : (rset s r i v).snap = s.snap := rfl
@[simp] theorem rset_ctxs (s : State) (r : RegName) (i : Nat) (v : Word) : (rset s r i v).ctxs = s.ctxs := rfl
@[simp] theorem rset_queues (s : State) (r : RegName) (i : Nat) (v : Word) : (rset s r i v).queues = s.queues := rfl
@[simp] theorem rset_fences (s : State) (r : RegName) (i : Nat) (v : Word) : (rset s r i v).fences = s.fences := rfl
@[simp] theorem rset_cmds (s : State) (r : RegName) (i : Nat) (v : Word) : (rset s r i v).cmds = s.cmds := rfl
@[simp] theorem rset_nextCmd (s : State) (r : RegName) (i : Nat) (v : Word) : (rset s r i v).nextCmd = s.nextCmd := rfl
@[simp] theorem rset_errq (s : State) (r : RegName) (i : Nat) (v : Word) : (rset s r i v).errq = s.errq := rfl
@[simp] theorem rset_errSeen (s : State) (r : RegName) (i : Nat) (v : Word) : (rset s r i v).errSeen = s.errSeen := rfl
@[simp] theorem rset_errLost (s : State) (r : RegName) (i : Nat) (v : Word) : (rset s r i v).errLost = s.errLost := rfl
@[simp] theorem rset_errNext (s : State) (r : RegName) (i : Nat) (v : Word) : (rset s r i v).errNext = s.errNext := rfl
@[simp] theorem rset_errIrqWait (s : State) (r : RegName) (i : Nat) (v : Word) : (rset s r i v).errIrqWait = s.errIrqWait := rfl
@[simp] theorem rset_errIrqOwed (s : State) (r : RegName) (i : Nat) (v : Word) : (rset s r i v).errIrqOwed = s.errIrqOwed := rfl
@[simp] theorem rset_out (s : State) (r : RegName) (i : Nat) (v : Word) : (rset s r i v).out = s.out := rfl
@[simp] theorem rset_lost (s : State) (r : RegName) (i : Nat) (v : Word) : (rset s r i v).lost = s.lost := rfl
@[simp] theorem rset_atc (s : State) (r : RegName) (i : Nat) (v : Word) : (rset s r i v).atc = s.atc := rfl
@[simp] theorem rset_pins (s : State) (r : RegName) (i : Nat) (v : Word) : (rset s r i v).pins = s.pins := rfl
@[simp] theorem rset_unacked (s : State) (r : RegName) (i : Nat) (v : Word) : (rset s r i v).unacked = s.unacked := rfl
@[simp] theorem rset_d3 (s : State) (r : RegName) (i : Nat) (v : Word) : (rset s r i v).d3 = s.d3 := rfl
@[simp] theorem rset_idn (s : State) (r : RegName) (i : Nat) (v : Word) : (rset s r i v).idn = s.idn := rfl
@[simp] theorem rset_idnReqs (s : State) (r : RegName) (i : Nat) (v : Word) : (rset s r i v).idnReqs = s.idnReqs := rfl
@[simp] theorem rset_rwo (s : State) (r : RegName) (i : Nat) (v : Word) : (rset s r i v).rwo = s.rwo := rfl
@[simp] theorem rset_joins (s : State) (r : RegName) (i : Nat) (v : Word) : (rset s r i v).joins = s.joins := rfl
@[simp] theorem rset_edges (s : State) (r : RegName) (i : Nat) (v : Word) : (rset s r i v).edges = s.edges := rfl
@[simp] theorem rset_dom (s : State) (r : RegName) (i : Nat) (v : Word) : (rset s r i v).dom = s.dom := rfl
@[simp] theorem rset_cfg (s : State) (r : RegName) (i : Nat) (v : Word) : (rset s r i v).cfg = s.cfg := rfl
@[simp] theorem rset_mapouts (s : State) (r : RegName) (i : Nat) (v : Word) : (rset s r i v).mapouts = s.mapouts := rfl
@[simp] theorem rset_repairs (s : State) (r : RegName) (i : Nat) (v : Word) : (rset s r i v).repairs = s.repairs := rfl
@[simp] theorem rset_wcb (s : State) (r : RegName) (i : Nat) (v : Word) : (rset s r i v).wcb = s.wcb := rfl
@[simp] theorem rset_wback (s : State) (r : RegName) (i : Nat) (v : Word) : (rset s r i v).wback = s.wback := rfl
@[simp] theorem rset_ceRows (s : State) (r : RegName) (i : Nat) (v : Word) : (rset s r i v).ceRows = s.ceRows := rfl
@[simp] theorem rset_retrains (s : State) (r : RegName) (i : Nat) (v : Word) : (rset s r i v).retrains = s.retrains := rfl
@[simp] theorem rset_training (s : State) (r : RegName) (i : Nat) (v : Word) : (rset s r i v).training = s.training := rfl
@[simp] theorem rset_repairedAt (s : State) (r : RegName) (i : Nat) (v : Word) : (rset s r i v).repairedAt = s.repairedAt := rfl
@[simp] theorem rset_ledger (s : State) (r : RegName) (i : Nat) (v : Word) : (rset s r i v).ledger = s.ledger := rfl
@[simp] theorem rset_ledgerA (s : State) (r : RegName) (i : Nat) (v : Word) : (rset s r i v).ledgerA = s.ledgerA := rfl
@[simp] theorem rset_ledgerB (s : State) (r : RegName) (i : Nat) (v : Word) : (rset s r i v).ledgerB = s.ledgerB := rfl
@[simp] theorem rset_ledgerBusy (s : State) (r : RegName) (i : Nat) (v : Word) : (rset s r i v).ledgerBusy = s.ledgerBusy := rfl
@[simp] theorem rset_ledgerDirty (s : State) (r : RegName) (i : Nat) (v : Word) : (rset s r i v).ledgerDirty = s.ledgerDirty := rfl
@[simp] theorem rset_pageReports (s : State) (r : RegName) (i : Nat) (v : Word) : (rset s r i v).pageReports = s.pageReports := rfl
@[simp] theorem rset_pagesTold (s : State) (r : RegName) (i : Nat) (v : Word) : (rset s r i v).pagesTold = s.pagesTold := rfl
@[simp] theorem rset_fenKeys (s : State) (r : RegName) (i : Nat) (v : Word) : (rset s r i v).fenKeys = s.fenKeys := rfl
@[simp] theorem rset_keyMap (s : State) (r : RegName) (i : Nat) (v : Word) : (rset s r i v).keyMap = s.keyMap := rfl
@[simp] theorem rset_clearQ (s : State) (r : RegName) (i : Nat) (v : Word) : (rset s r i v).clearQ = s.clearQ := rfl
@[simp] theorem rset_slcCount (s : State) (r : RegName) (i : Nat) (v : Word) : (rset s r i v).slcCount = s.slcCount := rfl
@[simp] theorem rset_slcShares (s : State) (r : RegName) (i : Nat) (v : Word) : (rset s r i v).slcShares = s.slcShares := rfl
@[simp] theorem rset_slcOwed (s : State) (r : RegName) (i : Nat) (v : Word) : (rset s r i v).slcOwed = s.slcOwed := rfl
@[simp] theorem rset_otp (s : State) (r : RegName) (i : Nat) (v : Word) : (rset s r i v).otp = s.otp := rfl
@[simp] theorem rset_otpJobs (s : State) (r : RegName) (i : Nat) (v : Word) : (rset s r i v).otpJobs = s.otpJobs := rfl
@[simp] theorem rset_flash (s : State) (r : RegName) (i : Nat) (v : Word) : (rset s r i v).flash = s.flash := rfl
@[simp] theorem rset_flashJobs (s : State) (r : RegName) (i : Nat) (v : Word) : (rset s r i v).flashJobs = s.flashJobs := rfl
@[simp] theorem rset_badTiles (s : State) (r : RegName) (i : Nat) (v : Word) : (rset s r i v).badTiles = s.badTiles := rfl
@[simp] theorem rset_badBays (s : State) (r : RegName) (i : Nat) (v : Word) : (rset s r i v).badBays = s.badBays := rfl
@[simp] theorem rset_bayMap (s : State) (r : RegName) (i : Nat) (v : Word) : (rset s r i v).bayMap = s.bayMap := rfl
@[simp] theorem rset_bridgeSpares (s : State) (r : RegName) (i : Nat) (v : Word) : (rset s r i v).bridgeSpares = s.bridgeSpares := rfl
@[simp] theorem rset_sites (s : State) (r : RegName) (i : Nat) (v : Word) : (rset s r i v).sites = s.sites := rfl
@[simp] theorem rset_netReqs (s : State) (r : RegName) (i : Nat) (v : Word) : (rset s r i v).netReqs = s.netReqs := rfl
@[simp] theorem rset_netUsed (s : State) (r : RegName) (i : Nat) (v : Word) : (rset s r i v).netUsed = s.netUsed := rfl
@[simp] theorem rset_netReset (s : State) (r : RegName) (i : Nat) (v : Word) : (rset s r i v).netReset = s.netReset := rfl
@[simp] theorem rset_traces (s : State) (r : RegName) (i : Nat) (v : Word) : (rset s r i v).traces = s.traces := rfl
@[simp] theorem rset_slices (s : State) (r : RegName) (i : Nat) (v : Word) : (rset s r i v).slices = s.slices := rfl
@[simp] theorem rset_cohHold (s : State) (r : RegName) (i : Nat) (v : Word) : (rset s r i v).cohHold = s.cohHold := rfl
@[simp] theorem rset_cohWait (s : State) (r : RegName) (i : Nat) (v : Word) : (rset s r i v).cohWait = s.cohWait := rfl
@[simp] theorem rset_ccLines (s : State) (r : RegName) (i : Nat) (v : Word) : (rset s r i v).ccLines = s.ccLines := rfl
@[simp] theorem rset_lossOwed (s : State) (r : RegName) (i : Nat) (v : Word) : (rset s r i v).lossOwed = s.lossOwed := rfl
@[simp] theorem rset_removing (s : State) (r : RegName) (i : Nat) (v : Word) : (rset s r i v).removing = s.removing := rfl
@[simp] theorem rset_resetOwed (s : State) (r : RegName) (i : Nat) (v : Word) : (rset s r i v).resetOwed = s.resetOwed := rfl
@[simp] theorem rset_fwOwed (s : State) (r : RegName) (i : Nat) (v : Word) : (rset s r i v).fwOwed = s.fwOwed := rfl
@[simp] theorem rset_failRestart (s : State) (r : RegName) (i : Nat) (v : Word) : (rset s r i v).failRestart = s.failRestart := rfl
@[simp] theorem rset_rstLow (s : State) (r : RegName) (i : Nat) (v : Word) : (rset s r i v).rstLow = s.rstLow := rfl
@[simp] theorem rset_imgNext (s : State) (r : RegName) (i : Nat) (v : Word) : (rset s r i v).imgNext = s.imgNext := rfl
@[simp] theorem rset_imgHash (s : State) (r : RegName) (i : Nat) (v : Word) : (rset s r i v).imgHash = s.imgHash := rfl
@[simp] theorem rset_licHash (s : State) (r : RegName) (i : Nat) (v : Word) : (rset s r i v).licHash = s.licHash := rfl
@[simp] theorem rset_cfgHash (s : State) (r : RegName) (i : Nat) (v : Word) : (rset s r i v).cfgHash = s.cfgHash := rfl
@[simp] theorem rset_ident (s : State) (r : RegName) (i : Nat) (v : Word) : (rset s r i v).ident = s.ident := rfl
@[simp] theorem rset_nonce (s : State) (r : RegName) (i : Nat) (v : Word) : (rset s r i v).nonce = s.nonce := rfl
@[simp] theorem rset_spdm (s : State) (r : RegName) (i : Nat) (v : Word) : (rset s r i v).spdm = s.spdm := rfl
@[simp] theorem rset_ide (s : State) (r : RegName) (i : Nat) (v : Word) : (rset s r i v).ide = s.ide := rfl
@[simp] theorem rset_hot (s : State) (r : RegName) (i : Nat) (v : Word) : (rset s r i v).hot = s.hot := rfl
@[simp] theorem rset_temps (s : State) (r : RegName) (i : Nat) (v : Word) : (rset s r i v).temps = s.temps := rfl
@[simp] theorem rset_errMgmt (s : State) (r : RegName) (i : Nat) (v : Word) : (rset s r i v).errMgmt = s.errMgmt := rfl
@[simp] theorem rset_retrainOwed (s : State) (r : RegName) (i : Nat) (v : Word) : (rset s r i v).retrainOwed = s.retrainOwed := rfl
@[simp] theorem rset_pldmTo (s : State) (r : RegName) (i : Nat) (v : Word) : (rset s r i v).pldmTo = s.pldmTo := rfl
@[simp] theorem rset_cfgSpace (s : State) (r : RegName) (i : Nat) (v : Word) : (rset s r i v).cfgSpace = s.cfgSpace := rfl
@[simp] theorem rset_bias (s : State) (r : RegName) (i : Nat) (v : Word) : (rset s r i v).bias = s.bias := rfl
@[simp] theorem rset_perst (s : State) (r : RegName) (i : Nat) (v : Word) : (rset s r i v).perst = s.perst := rfl
@[simp] theorem rset_tripped (s : State) (r : RegName) (i : Nat) (v : Word) : (rset s r i v).tripped = s.tripped := rfl
@[simp] theorem rset_cold (s : State) (r : RegName) (i : Nat) (v : Word) : (rset s r i v).cold = s.cold := rfl
@[simp] theorem rset_wakeLow (s : State) (r : RegName) (i : Nat) (v : Word) : (rset s r i v).wakeLow = s.wakeLow := rfl
@[simp] theorem rset_rounds (s : State) (r : RegName) (i : Nat) (v : Word) : (rset s r i v).rounds = s.rounds := rfl
@[simp] theorem rset_fwMissing (s : State) (r : RegName) (i : Nat) (v : Word) : (rset s r i v).fwMissing = s.fwMissing := rfl
@[simp] theorem rset_sramSpares (s : State) (r : RegName) (i : Nat) (v : Word) : (rset s r i v).sramSpares = s.sramSpares := rfl
@[simp] theorem rset_siteLanes (s : State) (r : RegName) (i : Nat) (v : Word) : (rset s r i v).siteLanes = s.siteLanes := rfl
@[simp] theorem rset_clearAll (s : State) (r : RegName) (i : Nat) (v : Word) : (rset s r i v).clearAll = s.clearAll := rfl
@[simp] theorem rset_unsecure (s : State) (r : RegName) (i : Nat) (v : Word) : (rset s r i v).unsecure = s.unsecure := rfl
@[simp] theorem rset_usable (s : State) (r : RegName) (i : Nat) (v : Word) : (rset s r i v).usable = s.usable := rfl
@[simp] theorem rset_hdm (s : State) (r : RegName) (i : Nat) (v : Word) : (rset s r i v).hdm = s.hdm := rfl
@[simp] theorem rset_msix (s : State) (r : RegName) (i : Nat) (v : Word) : (rset s r i v).msix = s.msix := rfl
@[simp] theorem rset_pba (s : State) (r : RegName) (i : Nat) (v : Word) : (rset s r i v).pba = s.pba := rfl
@[simp] theorem rset_ackOwed (s : State) (r : RegName) (i : Nat) (v : Word) : (rset s r i v).ackOwed = s.ackOwed := rfl
@[simp] theorem rset_invs (s : State) (r : RegName) (i : Nat) (v : Word) : (rset s r i v).invs = s.invs := rfl
@[simp] theorem rset_injDone (s : State) (r : RegName) (i : Nat) (v : Word) : (rset s r i v).injDone = s.injDone := rfl
@[simp] theorem rset_snapOwed (s : State) (r : RegName) (i : Nat) (v : Word) : (rset s r i v).snapOwed = s.snapOwed := rfl
@[simp] theorem rset_tpOwed (s : State) (r : RegName) (i : Nat) (v : Word) : (rset s r i v).tpOwed = s.tpOwed := rfl
@[simp] theorem rset_tpClear (s : State) (r : RegName) (i : Nat) (v : Word) : (rset s r i v).tpClear = s.tpClear := rfl
@[simp] theorem rset_failOwed (s : State) (r : RegName) (i : Nat) (v : Word) : (rset s r i v).failOwed = s.failOwed := rfl
@[simp] theorem rset_fresh (s : State) (r : RegName) (i : Nat) (v : Word) : (rset s r i v).fresh = s.fresh := rfl

/-! ### fset -/

@[simp] theorem fset_pending (f : Fld) (i v : Nat) (s : State) : (fset f i v s).pending = s.pending := rfl
@[simp] theorem fset_mem (f : Fld) (i v : Nat) (s : State) : (fset f i v s).mem = s.mem := rfl
@[simp] theorem fset_store (f : Fld) (i v : Nat) (s : State) : (fset f i v s).store = s.store := rfl
@[simp] theorem fset_tiles (f : Fld) (i v : Nat) (s : State) : (fset f i v s).tiles = s.tiles := rfl
@[simp] theorem fset_bays (f : Fld) (i v : Nat) (s : State) : (fset f i v s).bays = s.bays := rfl
@[simp] theorem fset_parts (f : Fld) (i v : Nat) (s : State) : (fset f i v s).parts = s.parts := rfl
@[simp] theorem fset_ready (f : Fld) (i v : Nat) (s : State) : (fset f i v s).ready = s.ready := rfl
@[simp] theorem fset_snap (f : Fld) (i v : Nat) (s : State) : (fset f i v s).snap = s.snap := rfl
@[simp] theorem fset_ctxs (f : Fld) (i v : Nat) (s : State) : (fset f i v s).ctxs = s.ctxs := rfl
@[simp] theorem fset_queues (f : Fld) (i v : Nat) (s : State) : (fset f i v s).queues = s.queues := rfl
@[simp] theorem fset_fences (f : Fld) (i v : Nat) (s : State) : (fset f i v s).fences = s.fences := rfl
@[simp] theorem fset_cmds (f : Fld) (i v : Nat) (s : State) : (fset f i v s).cmds = s.cmds := rfl
@[simp] theorem fset_nextCmd (f : Fld) (i v : Nat) (s : State) : (fset f i v s).nextCmd = s.nextCmd := rfl
@[simp] theorem fset_errq (f : Fld) (i v : Nat) (s : State) : (fset f i v s).errq = s.errq := rfl
@[simp] theorem fset_errSeen (f : Fld) (i v : Nat) (s : State) : (fset f i v s).errSeen = s.errSeen := rfl
@[simp] theorem fset_errLost (f : Fld) (i v : Nat) (s : State) : (fset f i v s).errLost = s.errLost := rfl
@[simp] theorem fset_errNext (f : Fld) (i v : Nat) (s : State) : (fset f i v s).errNext = s.errNext := rfl
@[simp] theorem fset_errIrqWait (f : Fld) (i v : Nat) (s : State) : (fset f i v s).errIrqWait = s.errIrqWait := rfl
@[simp] theorem fset_errIrqOwed (f : Fld) (i v : Nat) (s : State) : (fset f i v s).errIrqOwed = s.errIrqOwed := rfl
@[simp] theorem fset_out (f : Fld) (i v : Nat) (s : State) : (fset f i v s).out = s.out := rfl
@[simp] theorem fset_lost (f : Fld) (i v : Nat) (s : State) : (fset f i v s).lost = s.lost := rfl
@[simp] theorem fset_atc (f : Fld) (i v : Nat) (s : State) : (fset f i v s).atc = s.atc := rfl
@[simp] theorem fset_pins (f : Fld) (i v : Nat) (s : State) : (fset f i v s).pins = s.pins := rfl
@[simp] theorem fset_unacked (f : Fld) (i v : Nat) (s : State) : (fset f i v s).unacked = s.unacked := rfl
@[simp] theorem fset_d3 (f : Fld) (i v : Nat) (s : State) : (fset f i v s).d3 = s.d3 := rfl
@[simp] theorem fset_idn (f : Fld) (i v : Nat) (s : State) : (fset f i v s).idn = s.idn := rfl
@[simp] theorem fset_idnReqs (f : Fld) (i v : Nat) (s : State) : (fset f i v s).idnReqs = s.idnReqs := rfl
@[simp] theorem fset_rwo (f : Fld) (i v : Nat) (s : State) : (fset f i v s).rwo = s.rwo := rfl
@[simp] theorem fset_joins (f : Fld) (i v : Nat) (s : State) : (fset f i v s).joins = s.joins := rfl
@[simp] theorem fset_edges (f : Fld) (i v : Nat) (s : State) : (fset f i v s).edges = s.edges := rfl
@[simp] theorem fset_dom (f : Fld) (i v : Nat) (s : State) : (fset f i v s).dom = s.dom := rfl
@[simp] theorem fset_cfg (f : Fld) (i v : Nat) (s : State) : (fset f i v s).cfg = s.cfg := rfl
@[simp] theorem fset_mapouts (f : Fld) (i v : Nat) (s : State) : (fset f i v s).mapouts = s.mapouts := rfl
@[simp] theorem fset_repairs (f : Fld) (i v : Nat) (s : State) : (fset f i v s).repairs = s.repairs := rfl
@[simp] theorem fset_wcb (f : Fld) (i v : Nat) (s : State) : (fset f i v s).wcb = s.wcb := rfl
@[simp] theorem fset_wback (f : Fld) (i v : Nat) (s : State) : (fset f i v s).wback = s.wback := rfl
@[simp] theorem fset_ceRows (f : Fld) (i v : Nat) (s : State) : (fset f i v s).ceRows = s.ceRows := rfl
@[simp] theorem fset_retrains (f : Fld) (i v : Nat) (s : State) : (fset f i v s).retrains = s.retrains := rfl
@[simp] theorem fset_training (f : Fld) (i v : Nat) (s : State) : (fset f i v s).training = s.training := rfl
@[simp] theorem fset_repairedAt (f : Fld) (i v : Nat) (s : State) : (fset f i v s).repairedAt = s.repairedAt := rfl
@[simp] theorem fset_ledger (f : Fld) (i v : Nat) (s : State) : (fset f i v s).ledger = s.ledger := rfl
@[simp] theorem fset_ledgerA (f : Fld) (i v : Nat) (s : State) : (fset f i v s).ledgerA = s.ledgerA := rfl
@[simp] theorem fset_ledgerB (f : Fld) (i v : Nat) (s : State) : (fset f i v s).ledgerB = s.ledgerB := rfl
@[simp] theorem fset_ledgerBusy (f : Fld) (i v : Nat) (s : State) : (fset f i v s).ledgerBusy = s.ledgerBusy := rfl
@[simp] theorem fset_ledgerDirty (f : Fld) (i v : Nat) (s : State) : (fset f i v s).ledgerDirty = s.ledgerDirty := rfl
@[simp] theorem fset_pageReports (f : Fld) (i v : Nat) (s : State) : (fset f i v s).pageReports = s.pageReports := rfl
@[simp] theorem fset_pagesTold (f : Fld) (i v : Nat) (s : State) : (fset f i v s).pagesTold = s.pagesTold := rfl
@[simp] theorem fset_fenKeys (f : Fld) (i v : Nat) (s : State) : (fset f i v s).fenKeys = s.fenKeys := rfl
@[simp] theorem fset_keyMap (f : Fld) (i v : Nat) (s : State) : (fset f i v s).keyMap = s.keyMap := rfl
@[simp] theorem fset_clearQ (f : Fld) (i v : Nat) (s : State) : (fset f i v s).clearQ = s.clearQ := rfl
@[simp] theorem fset_slcCount (f : Fld) (i v : Nat) (s : State) : (fset f i v s).slcCount = s.slcCount := rfl
@[simp] theorem fset_slcShares (f : Fld) (i v : Nat) (s : State) : (fset f i v s).slcShares = s.slcShares := rfl
@[simp] theorem fset_slcOwed (f : Fld) (i v : Nat) (s : State) : (fset f i v s).slcOwed = s.slcOwed := rfl
@[simp] theorem fset_otp (f : Fld) (i v : Nat) (s : State) : (fset f i v s).otp = s.otp := rfl
@[simp] theorem fset_otpJobs (f : Fld) (i v : Nat) (s : State) : (fset f i v s).otpJobs = s.otpJobs := rfl
@[simp] theorem fset_flash (f : Fld) (i v : Nat) (s : State) : (fset f i v s).flash = s.flash := rfl
@[simp] theorem fset_flashJobs (f : Fld) (i v : Nat) (s : State) : (fset f i v s).flashJobs = s.flashJobs := rfl
@[simp] theorem fset_badTiles (f : Fld) (i v : Nat) (s : State) : (fset f i v s).badTiles = s.badTiles := rfl
@[simp] theorem fset_badBays (f : Fld) (i v : Nat) (s : State) : (fset f i v s).badBays = s.badBays := rfl
@[simp] theorem fset_bayMap (f : Fld) (i v : Nat) (s : State) : (fset f i v s).bayMap = s.bayMap := rfl
@[simp] theorem fset_bridgeSpares (f : Fld) (i v : Nat) (s : State) : (fset f i v s).bridgeSpares = s.bridgeSpares := rfl
@[simp] theorem fset_sites (f : Fld) (i v : Nat) (s : State) : (fset f i v s).sites = s.sites := rfl
@[simp] theorem fset_netReqs (f : Fld) (i v : Nat) (s : State) : (fset f i v s).netReqs = s.netReqs := rfl
@[simp] theorem fset_netUsed (f : Fld) (i v : Nat) (s : State) : (fset f i v s).netUsed = s.netUsed := rfl
@[simp] theorem fset_netReset (f : Fld) (i v : Nat) (s : State) : (fset f i v s).netReset = s.netReset := rfl
@[simp] theorem fset_traces (f : Fld) (i v : Nat) (s : State) : (fset f i v s).traces = s.traces := rfl
@[simp] theorem fset_slices (f : Fld) (i v : Nat) (s : State) : (fset f i v s).slices = s.slices := rfl
@[simp] theorem fset_cohHold (f : Fld) (i v : Nat) (s : State) : (fset f i v s).cohHold = s.cohHold := rfl
@[simp] theorem fset_cohWait (f : Fld) (i v : Nat) (s : State) : (fset f i v s).cohWait = s.cohWait := rfl
@[simp] theorem fset_ccLines (f : Fld) (i v : Nat) (s : State) : (fset f i v s).ccLines = s.ccLines := rfl
@[simp] theorem fset_lossOwed (f : Fld) (i v : Nat) (s : State) : (fset f i v s).lossOwed = s.lossOwed := rfl
@[simp] theorem fset_removing (f : Fld) (i v : Nat) (s : State) : (fset f i v s).removing = s.removing := rfl
@[simp] theorem fset_resetOwed (f : Fld) (i v : Nat) (s : State) : (fset f i v s).resetOwed = s.resetOwed := rfl
@[simp] theorem fset_fwOwed (f : Fld) (i v : Nat) (s : State) : (fset f i v s).fwOwed = s.fwOwed := rfl
@[simp] theorem fset_failRestart (f : Fld) (i v : Nat) (s : State) : (fset f i v s).failRestart = s.failRestart := rfl
@[simp] theorem fset_rstLow (f : Fld) (i v : Nat) (s : State) : (fset f i v s).rstLow = s.rstLow := rfl
@[simp] theorem fset_imgNext (f : Fld) (i v : Nat) (s : State) : (fset f i v s).imgNext = s.imgNext := rfl
@[simp] theorem fset_imgHash (f : Fld) (i v : Nat) (s : State) : (fset f i v s).imgHash = s.imgHash := rfl
@[simp] theorem fset_licHash (f : Fld) (i v : Nat) (s : State) : (fset f i v s).licHash = s.licHash := rfl
@[simp] theorem fset_cfgHash (f : Fld) (i v : Nat) (s : State) : (fset f i v s).cfgHash = s.cfgHash := rfl
@[simp] theorem fset_ident (f : Fld) (i v : Nat) (s : State) : (fset f i v s).ident = s.ident := rfl
@[simp] theorem fset_nonce (f : Fld) (i v : Nat) (s : State) : (fset f i v s).nonce = s.nonce := rfl
@[simp] theorem fset_spdm (f : Fld) (i v : Nat) (s : State) : (fset f i v s).spdm = s.spdm := rfl
@[simp] theorem fset_ide (f : Fld) (i v : Nat) (s : State) : (fset f i v s).ide = s.ide := rfl
@[simp] theorem fset_hot (f : Fld) (i v : Nat) (s : State) : (fset f i v s).hot = s.hot := rfl
@[simp] theorem fset_temps (f : Fld) (i v : Nat) (s : State) : (fset f i v s).temps = s.temps := rfl
@[simp] theorem fset_errMgmt (f : Fld) (i v : Nat) (s : State) : (fset f i v s).errMgmt = s.errMgmt := rfl
@[simp] theorem fset_retrainOwed (f : Fld) (i v : Nat) (s : State) : (fset f i v s).retrainOwed = s.retrainOwed := rfl
@[simp] theorem fset_pldmTo (f : Fld) (i v : Nat) (s : State) : (fset f i v s).pldmTo = s.pldmTo := rfl
@[simp] theorem fset_cfgSpace (f : Fld) (i v : Nat) (s : State) : (fset f i v s).cfgSpace = s.cfgSpace := rfl
@[simp] theorem fset_bias (f : Fld) (i v : Nat) (s : State) : (fset f i v s).bias = s.bias := rfl
@[simp] theorem fset_perst (f : Fld) (i v : Nat) (s : State) : (fset f i v s).perst = s.perst := rfl
@[simp] theorem fset_tripped (f : Fld) (i v : Nat) (s : State) : (fset f i v s).tripped = s.tripped := rfl
@[simp] theorem fset_cold (f : Fld) (i v : Nat) (s : State) : (fset f i v s).cold = s.cold := rfl
@[simp] theorem fset_wakeLow (f : Fld) (i v : Nat) (s : State) : (fset f i v s).wakeLow = s.wakeLow := rfl
@[simp] theorem fset_rounds (f : Fld) (i v : Nat) (s : State) : (fset f i v s).rounds = s.rounds := rfl
@[simp] theorem fset_fwMissing (f : Fld) (i v : Nat) (s : State) : (fset f i v s).fwMissing = s.fwMissing := rfl
@[simp] theorem fset_sramSpares (f : Fld) (i v : Nat) (s : State) : (fset f i v s).sramSpares = s.sramSpares := rfl
@[simp] theorem fset_siteLanes (f : Fld) (i v : Nat) (s : State) : (fset f i v s).siteLanes = s.siteLanes := rfl
@[simp] theorem fset_clearAll (f : Fld) (i v : Nat) (s : State) : (fset f i v s).clearAll = s.clearAll := rfl
@[simp] theorem fset_unsecure (f : Fld) (i v : Nat) (s : State) : (fset f i v s).unsecure = s.unsecure := rfl
@[simp] theorem fset_usable (f : Fld) (i v : Nat) (s : State) : (fset f i v s).usable = s.usable := rfl
@[simp] theorem fset_hdm (f : Fld) (i v : Nat) (s : State) : (fset f i v s).hdm = s.hdm := rfl
@[simp] theorem fset_msix (f : Fld) (i v : Nat) (s : State) : (fset f i v s).msix = s.msix := rfl
@[simp] theorem fset_pba (f : Fld) (i v : Nat) (s : State) : (fset f i v s).pba = s.pba := rfl
@[simp] theorem fset_ackOwed (f : Fld) (i v : Nat) (s : State) : (fset f i v s).ackOwed = s.ackOwed := rfl
@[simp] theorem fset_invs (f : Fld) (i v : Nat) (s : State) : (fset f i v s).invs = s.invs := rfl
@[simp] theorem fset_injDone (f : Fld) (i v : Nat) (s : State) : (fset f i v s).injDone = s.injDone := rfl
@[simp] theorem fset_snapOwed (f : Fld) (i v : Nat) (s : State) : (fset f i v s).snapOwed = s.snapOwed := rfl
@[simp] theorem fset_tpOwed (f : Fld) (i v : Nat) (s : State) : (fset f i v s).tpOwed = s.tpOwed := rfl
@[simp] theorem fset_tpClear (f : Fld) (i v : Nat) (s : State) : (fset f i v s).tpClear = s.tpClear := rfl
@[simp] theorem fset_failOwed (f : Fld) (i v : Nat) (s : State) : (fset f i v s).failOwed = s.failOwed := rfl
@[simp] theorem fset_fresh (f : Fld) (i v : Nat) (s : State) : (fset f i v s).fresh = s.fresh := rfl

/-! ### tileSet -/

@[simp] theorem tileSet_pending (t : Nat) (v : Tile) (s : State) : (tileSet t v s).pending = s.pending := rfl
@[simp] theorem tileSet_regs (t : Nat) (v : Tile) (s : State) : (tileSet t v s).regs = s.regs := rfl
@[simp] theorem tileSet_mem (t : Nat) (v : Tile) (s : State) : (tileSet t v s).mem = s.mem := rfl
@[simp] theorem tileSet_store (t : Nat) (v : Tile) (s : State) : (tileSet t v s).store = s.store := rfl
@[simp] theorem tileSet_bays (t : Nat) (v : Tile) (s : State) : (tileSet t v s).bays = s.bays := rfl
@[simp] theorem tileSet_parts (t : Nat) (v : Tile) (s : State) : (tileSet t v s).parts = s.parts := rfl
@[simp] theorem tileSet_ready (t : Nat) (v : Tile) (s : State) : (tileSet t v s).ready = s.ready := rfl
@[simp] theorem tileSet_snap (t : Nat) (v : Tile) (s : State) : (tileSet t v s).snap = s.snap := rfl
@[simp] theorem tileSet_ctxs (t : Nat) (v : Tile) (s : State) : (tileSet t v s).ctxs = s.ctxs := rfl
@[simp] theorem tileSet_queues (t : Nat) (v : Tile) (s : State) : (tileSet t v s).queues = s.queues := rfl
@[simp] theorem tileSet_fences (t : Nat) (v : Tile) (s : State) : (tileSet t v s).fences = s.fences := rfl
@[simp] theorem tileSet_cmds (t : Nat) (v : Tile) (s : State) : (tileSet t v s).cmds = s.cmds := rfl
@[simp] theorem tileSet_nextCmd (t : Nat) (v : Tile) (s : State) : (tileSet t v s).nextCmd = s.nextCmd := rfl
@[simp] theorem tileSet_errq (t : Nat) (v : Tile) (s : State) : (tileSet t v s).errq = s.errq := rfl
@[simp] theorem tileSet_errSeen (t : Nat) (v : Tile) (s : State) : (tileSet t v s).errSeen = s.errSeen := rfl
@[simp] theorem tileSet_errLost (t : Nat) (v : Tile) (s : State) : (tileSet t v s).errLost = s.errLost := rfl
@[simp] theorem tileSet_errNext (t : Nat) (v : Tile) (s : State) : (tileSet t v s).errNext = s.errNext := rfl
@[simp] theorem tileSet_errIrqWait (t : Nat) (v : Tile) (s : State) : (tileSet t v s).errIrqWait = s.errIrqWait := rfl
@[simp] theorem tileSet_errIrqOwed (t : Nat) (v : Tile) (s : State) : (tileSet t v s).errIrqOwed = s.errIrqOwed := rfl
@[simp] theorem tileSet_out (t : Nat) (v : Tile) (s : State) : (tileSet t v s).out = s.out := rfl
@[simp] theorem tileSet_lost (t : Nat) (v : Tile) (s : State) : (tileSet t v s).lost = s.lost := rfl
@[simp] theorem tileSet_atc (t : Nat) (v : Tile) (s : State) : (tileSet t v s).atc = s.atc := rfl
@[simp] theorem tileSet_pins (t : Nat) (v : Tile) (s : State) : (tileSet t v s).pins = s.pins := rfl
@[simp] theorem tileSet_unacked (t : Nat) (v : Tile) (s : State) : (tileSet t v s).unacked = s.unacked := rfl
@[simp] theorem tileSet_d3 (t : Nat) (v : Tile) (s : State) : (tileSet t v s).d3 = s.d3 := rfl
@[simp] theorem tileSet_idn (t : Nat) (v : Tile) (s : State) : (tileSet t v s).idn = s.idn := rfl
@[simp] theorem tileSet_idnReqs (t : Nat) (v : Tile) (s : State) : (tileSet t v s).idnReqs = s.idnReqs := rfl
@[simp] theorem tileSet_rwo (t : Nat) (v : Tile) (s : State) : (tileSet t v s).rwo = s.rwo := rfl
@[simp] theorem tileSet_joins (t : Nat) (v : Tile) (s : State) : (tileSet t v s).joins = s.joins := rfl
@[simp] theorem tileSet_edges (t : Nat) (v : Tile) (s : State) : (tileSet t v s).edges = s.edges := rfl
@[simp] theorem tileSet_dom (t : Nat) (v : Tile) (s : State) : (tileSet t v s).dom = s.dom := rfl
@[simp] theorem tileSet_cfg (t : Nat) (v : Tile) (s : State) : (tileSet t v s).cfg = s.cfg := rfl
@[simp] theorem tileSet_mapouts (t : Nat) (v : Tile) (s : State) : (tileSet t v s).mapouts = s.mapouts := rfl
@[simp] theorem tileSet_repairs (t : Nat) (v : Tile) (s : State) : (tileSet t v s).repairs = s.repairs := rfl
@[simp] theorem tileSet_wcb (t : Nat) (v : Tile) (s : State) : (tileSet t v s).wcb = s.wcb := rfl
@[simp] theorem tileSet_wback (t : Nat) (v : Tile) (s : State) : (tileSet t v s).wback = s.wback := rfl
@[simp] theorem tileSet_ceRows (t : Nat) (v : Tile) (s : State) : (tileSet t v s).ceRows = s.ceRows := rfl
@[simp] theorem tileSet_retrains (t : Nat) (v : Tile) (s : State) : (tileSet t v s).retrains = s.retrains := rfl
@[simp] theorem tileSet_training (t : Nat) (v : Tile) (s : State) : (tileSet t v s).training = s.training := rfl
@[simp] theorem tileSet_repairedAt (t : Nat) (v : Tile) (s : State) : (tileSet t v s).repairedAt = s.repairedAt := rfl
@[simp] theorem tileSet_ledger (t : Nat) (v : Tile) (s : State) : (tileSet t v s).ledger = s.ledger := rfl
@[simp] theorem tileSet_ledgerA (t : Nat) (v : Tile) (s : State) : (tileSet t v s).ledgerA = s.ledgerA := rfl
@[simp] theorem tileSet_ledgerB (t : Nat) (v : Tile) (s : State) : (tileSet t v s).ledgerB = s.ledgerB := rfl
@[simp] theorem tileSet_ledgerBusy (t : Nat) (v : Tile) (s : State) : (tileSet t v s).ledgerBusy = s.ledgerBusy := rfl
@[simp] theorem tileSet_ledgerDirty (t : Nat) (v : Tile) (s : State) : (tileSet t v s).ledgerDirty = s.ledgerDirty := rfl
@[simp] theorem tileSet_pageReports (t : Nat) (v : Tile) (s : State) : (tileSet t v s).pageReports = s.pageReports := rfl
@[simp] theorem tileSet_pagesTold (t : Nat) (v : Tile) (s : State) : (tileSet t v s).pagesTold = s.pagesTold := rfl
@[simp] theorem tileSet_fenKeys (t : Nat) (v : Tile) (s : State) : (tileSet t v s).fenKeys = s.fenKeys := rfl
@[simp] theorem tileSet_keyMap (t : Nat) (v : Tile) (s : State) : (tileSet t v s).keyMap = s.keyMap := rfl
@[simp] theorem tileSet_clearQ (t : Nat) (v : Tile) (s : State) : (tileSet t v s).clearQ = s.clearQ := rfl
@[simp] theorem tileSet_slcCount (t : Nat) (v : Tile) (s : State) : (tileSet t v s).slcCount = s.slcCount := rfl
@[simp] theorem tileSet_slcShares (t : Nat) (v : Tile) (s : State) : (tileSet t v s).slcShares = s.slcShares := rfl
@[simp] theorem tileSet_slcOwed (t : Nat) (v : Tile) (s : State) : (tileSet t v s).slcOwed = s.slcOwed := rfl
@[simp] theorem tileSet_otp (t : Nat) (v : Tile) (s : State) : (tileSet t v s).otp = s.otp := rfl
@[simp] theorem tileSet_otpJobs (t : Nat) (v : Tile) (s : State) : (tileSet t v s).otpJobs = s.otpJobs := rfl
@[simp] theorem tileSet_flash (t : Nat) (v : Tile) (s : State) : (tileSet t v s).flash = s.flash := rfl
@[simp] theorem tileSet_flashJobs (t : Nat) (v : Tile) (s : State) : (tileSet t v s).flashJobs = s.flashJobs := rfl
@[simp] theorem tileSet_badTiles (t : Nat) (v : Tile) (s : State) : (tileSet t v s).badTiles = s.badTiles := rfl
@[simp] theorem tileSet_badBays (t : Nat) (v : Tile) (s : State) : (tileSet t v s).badBays = s.badBays := rfl
@[simp] theorem tileSet_bayMap (t : Nat) (v : Tile) (s : State) : (tileSet t v s).bayMap = s.bayMap := rfl
@[simp] theorem tileSet_bridgeSpares (t : Nat) (v : Tile) (s : State) : (tileSet t v s).bridgeSpares = s.bridgeSpares := rfl
@[simp] theorem tileSet_sites (t : Nat) (v : Tile) (s : State) : (tileSet t v s).sites = s.sites := rfl
@[simp] theorem tileSet_netReqs (t : Nat) (v : Tile) (s : State) : (tileSet t v s).netReqs = s.netReqs := rfl
@[simp] theorem tileSet_netUsed (t : Nat) (v : Tile) (s : State) : (tileSet t v s).netUsed = s.netUsed := rfl
@[simp] theorem tileSet_netReset (t : Nat) (v : Tile) (s : State) : (tileSet t v s).netReset = s.netReset := rfl
@[simp] theorem tileSet_traces (t : Nat) (v : Tile) (s : State) : (tileSet t v s).traces = s.traces := rfl
@[simp] theorem tileSet_slices (t : Nat) (v : Tile) (s : State) : (tileSet t v s).slices = s.slices := rfl
@[simp] theorem tileSet_cohHold (t : Nat) (v : Tile) (s : State) : (tileSet t v s).cohHold = s.cohHold := rfl
@[simp] theorem tileSet_cohWait (t : Nat) (v : Tile) (s : State) : (tileSet t v s).cohWait = s.cohWait := rfl
@[simp] theorem tileSet_ccLines (t : Nat) (v : Tile) (s : State) : (tileSet t v s).ccLines = s.ccLines := rfl
@[simp] theorem tileSet_lossOwed (t : Nat) (v : Tile) (s : State) : (tileSet t v s).lossOwed = s.lossOwed := rfl
@[simp] theorem tileSet_removing (t : Nat) (v : Tile) (s : State) : (tileSet t v s).removing = s.removing := rfl
@[simp] theorem tileSet_resetOwed (t : Nat) (v : Tile) (s : State) : (tileSet t v s).resetOwed = s.resetOwed := rfl
@[simp] theorem tileSet_fwOwed (t : Nat) (v : Tile) (s : State) : (tileSet t v s).fwOwed = s.fwOwed := rfl
@[simp] theorem tileSet_failRestart (t : Nat) (v : Tile) (s : State) : (tileSet t v s).failRestart = s.failRestart := rfl
@[simp] theorem tileSet_rstLow (t : Nat) (v : Tile) (s : State) : (tileSet t v s).rstLow = s.rstLow := rfl
@[simp] theorem tileSet_imgNext (t : Nat) (v : Tile) (s : State) : (tileSet t v s).imgNext = s.imgNext := rfl
@[simp] theorem tileSet_imgHash (t : Nat) (v : Tile) (s : State) : (tileSet t v s).imgHash = s.imgHash := rfl
@[simp] theorem tileSet_licHash (t : Nat) (v : Tile) (s : State) : (tileSet t v s).licHash = s.licHash := rfl
@[simp] theorem tileSet_cfgHash (t : Nat) (v : Tile) (s : State) : (tileSet t v s).cfgHash = s.cfgHash := rfl
@[simp] theorem tileSet_ident (t : Nat) (v : Tile) (s : State) : (tileSet t v s).ident = s.ident := rfl
@[simp] theorem tileSet_nonce (t : Nat) (v : Tile) (s : State) : (tileSet t v s).nonce = s.nonce := rfl
@[simp] theorem tileSet_spdm (t : Nat) (v : Tile) (s : State) : (tileSet t v s).spdm = s.spdm := rfl
@[simp] theorem tileSet_ide (t : Nat) (v : Tile) (s : State) : (tileSet t v s).ide = s.ide := rfl
@[simp] theorem tileSet_hot (t : Nat) (v : Tile) (s : State) : (tileSet t v s).hot = s.hot := rfl
@[simp] theorem tileSet_temps (t : Nat) (v : Tile) (s : State) : (tileSet t v s).temps = s.temps := rfl
@[simp] theorem tileSet_errMgmt (t : Nat) (v : Tile) (s : State) : (tileSet t v s).errMgmt = s.errMgmt := rfl
@[simp] theorem tileSet_retrainOwed (t : Nat) (v : Tile) (s : State) : (tileSet t v s).retrainOwed = s.retrainOwed := rfl
@[simp] theorem tileSet_pldmTo (t : Nat) (v : Tile) (s : State) : (tileSet t v s).pldmTo = s.pldmTo := rfl
@[simp] theorem tileSet_cfgSpace (t : Nat) (v : Tile) (s : State) : (tileSet t v s).cfgSpace = s.cfgSpace := rfl
@[simp] theorem tileSet_bias (t : Nat) (v : Tile) (s : State) : (tileSet t v s).bias = s.bias := rfl
@[simp] theorem tileSet_perst (t : Nat) (v : Tile) (s : State) : (tileSet t v s).perst = s.perst := rfl
@[simp] theorem tileSet_tripped (t : Nat) (v : Tile) (s : State) : (tileSet t v s).tripped = s.tripped := rfl
@[simp] theorem tileSet_cold (t : Nat) (v : Tile) (s : State) : (tileSet t v s).cold = s.cold := rfl
@[simp] theorem tileSet_wakeLow (t : Nat) (v : Tile) (s : State) : (tileSet t v s).wakeLow = s.wakeLow := rfl
@[simp] theorem tileSet_rounds (t : Nat) (v : Tile) (s : State) : (tileSet t v s).rounds = s.rounds := rfl
@[simp] theorem tileSet_fwMissing (t : Nat) (v : Tile) (s : State) : (tileSet t v s).fwMissing = s.fwMissing := rfl
@[simp] theorem tileSet_sramSpares (t : Nat) (v : Tile) (s : State) : (tileSet t v s).sramSpares = s.sramSpares := rfl
@[simp] theorem tileSet_siteLanes (t : Nat) (v : Tile) (s : State) : (tileSet t v s).siteLanes = s.siteLanes := rfl
@[simp] theorem tileSet_clearAll (t : Nat) (v : Tile) (s : State) : (tileSet t v s).clearAll = s.clearAll := rfl
@[simp] theorem tileSet_unsecure (t : Nat) (v : Tile) (s : State) : (tileSet t v s).unsecure = s.unsecure := rfl
@[simp] theorem tileSet_usable (t : Nat) (v : Tile) (s : State) : (tileSet t v s).usable = s.usable := rfl
@[simp] theorem tileSet_hdm (t : Nat) (v : Tile) (s : State) : (tileSet t v s).hdm = s.hdm := rfl
@[simp] theorem tileSet_msix (t : Nat) (v : Tile) (s : State) : (tileSet t v s).msix = s.msix := rfl
@[simp] theorem tileSet_pba (t : Nat) (v : Tile) (s : State) : (tileSet t v s).pba = s.pba := rfl
@[simp] theorem tileSet_ackOwed (t : Nat) (v : Tile) (s : State) : (tileSet t v s).ackOwed = s.ackOwed := rfl
@[simp] theorem tileSet_invs (t : Nat) (v : Tile) (s : State) : (tileSet t v s).invs = s.invs := rfl
@[simp] theorem tileSet_injDone (t : Nat) (v : Tile) (s : State) : (tileSet t v s).injDone = s.injDone := rfl
@[simp] theorem tileSet_snapOwed (t : Nat) (v : Tile) (s : State) : (tileSet t v s).snapOwed = s.snapOwed := rfl
@[simp] theorem tileSet_tpOwed (t : Nat) (v : Tile) (s : State) : (tileSet t v s).tpOwed = s.tpOwed := rfl
@[simp] theorem tileSet_tpClear (t : Nat) (v : Tile) (s : State) : (tileSet t v s).tpClear = s.tpClear := rfl
@[simp] theorem tileSet_failOwed (t : Nat) (v : Tile) (s : State) : (tileSet t v s).failOwed = s.failOwed := rfl
@[simp] theorem tileSet_fresh (t : Nat) (v : Tile) (s : State) : (tileSet t v s).fresh = s.fresh := rfl

/-! ### baySet -/

@[simp] theorem baySet_pending (b : Nat) (v : Bay) (s : State) : (baySet b v s).pending = s.pending := rfl
@[simp] theorem baySet_regs (b : Nat) (v : Bay) (s : State) : (baySet b v s).regs = s.regs := rfl
@[simp] theorem baySet_mem (b : Nat) (v : Bay) (s : State) : (baySet b v s).mem = s.mem := rfl
@[simp] theorem baySet_store (b : Nat) (v : Bay) (s : State) : (baySet b v s).store = s.store := rfl
@[simp] theorem baySet_tiles (b : Nat) (v : Bay) (s : State) : (baySet b v s).tiles = s.tiles := rfl
@[simp] theorem baySet_parts (b : Nat) (v : Bay) (s : State) : (baySet b v s).parts = s.parts := rfl
@[simp] theorem baySet_ready (b : Nat) (v : Bay) (s : State) : (baySet b v s).ready = s.ready := rfl
@[simp] theorem baySet_snap (b : Nat) (v : Bay) (s : State) : (baySet b v s).snap = s.snap := rfl
@[simp] theorem baySet_ctxs (b : Nat) (v : Bay) (s : State) : (baySet b v s).ctxs = s.ctxs := rfl
@[simp] theorem baySet_queues (b : Nat) (v : Bay) (s : State) : (baySet b v s).queues = s.queues := rfl
@[simp] theorem baySet_fences (b : Nat) (v : Bay) (s : State) : (baySet b v s).fences = s.fences := rfl
@[simp] theorem baySet_cmds (b : Nat) (v : Bay) (s : State) : (baySet b v s).cmds = s.cmds := rfl
@[simp] theorem baySet_nextCmd (b : Nat) (v : Bay) (s : State) : (baySet b v s).nextCmd = s.nextCmd := rfl
@[simp] theorem baySet_errq (b : Nat) (v : Bay) (s : State) : (baySet b v s).errq = s.errq := rfl
@[simp] theorem baySet_errSeen (b : Nat) (v : Bay) (s : State) : (baySet b v s).errSeen = s.errSeen := rfl
@[simp] theorem baySet_errLost (b : Nat) (v : Bay) (s : State) : (baySet b v s).errLost = s.errLost := rfl
@[simp] theorem baySet_errNext (b : Nat) (v : Bay) (s : State) : (baySet b v s).errNext = s.errNext := rfl
@[simp] theorem baySet_errIrqWait (b : Nat) (v : Bay) (s : State) : (baySet b v s).errIrqWait = s.errIrqWait := rfl
@[simp] theorem baySet_errIrqOwed (b : Nat) (v : Bay) (s : State) : (baySet b v s).errIrqOwed = s.errIrqOwed := rfl
@[simp] theorem baySet_out (b : Nat) (v : Bay) (s : State) : (baySet b v s).out = s.out := rfl
@[simp] theorem baySet_lost (b : Nat) (v : Bay) (s : State) : (baySet b v s).lost = s.lost := rfl
@[simp] theorem baySet_atc (b : Nat) (v : Bay) (s : State) : (baySet b v s).atc = s.atc := rfl
@[simp] theorem baySet_pins (b : Nat) (v : Bay) (s : State) : (baySet b v s).pins = s.pins := rfl
@[simp] theorem baySet_unacked (b : Nat) (v : Bay) (s : State) : (baySet b v s).unacked = s.unacked := rfl
@[simp] theorem baySet_d3 (b : Nat) (v : Bay) (s : State) : (baySet b v s).d3 = s.d3 := rfl
@[simp] theorem baySet_idn (b : Nat) (v : Bay) (s : State) : (baySet b v s).idn = s.idn := rfl
@[simp] theorem baySet_idnReqs (b : Nat) (v : Bay) (s : State) : (baySet b v s).idnReqs = s.idnReqs := rfl
@[simp] theorem baySet_rwo (b : Nat) (v : Bay) (s : State) : (baySet b v s).rwo = s.rwo := rfl
@[simp] theorem baySet_joins (b : Nat) (v : Bay) (s : State) : (baySet b v s).joins = s.joins := rfl
@[simp] theorem baySet_edges (b : Nat) (v : Bay) (s : State) : (baySet b v s).edges = s.edges := rfl
@[simp] theorem baySet_dom (b : Nat) (v : Bay) (s : State) : (baySet b v s).dom = s.dom := rfl
@[simp] theorem baySet_cfg (b : Nat) (v : Bay) (s : State) : (baySet b v s).cfg = s.cfg := rfl
@[simp] theorem baySet_mapouts (b : Nat) (v : Bay) (s : State) : (baySet b v s).mapouts = s.mapouts := rfl
@[simp] theorem baySet_repairs (b : Nat) (v : Bay) (s : State) : (baySet b v s).repairs = s.repairs := rfl
@[simp] theorem baySet_wcb (b : Nat) (v : Bay) (s : State) : (baySet b v s).wcb = s.wcb := rfl
@[simp] theorem baySet_wback (b : Nat) (v : Bay) (s : State) : (baySet b v s).wback = s.wback := rfl
@[simp] theorem baySet_ceRows (b : Nat) (v : Bay) (s : State) : (baySet b v s).ceRows = s.ceRows := rfl
@[simp] theorem baySet_retrains (b : Nat) (v : Bay) (s : State) : (baySet b v s).retrains = s.retrains := rfl
@[simp] theorem baySet_training (b : Nat) (v : Bay) (s : State) : (baySet b v s).training = s.training := rfl
@[simp] theorem baySet_repairedAt (b : Nat) (v : Bay) (s : State) : (baySet b v s).repairedAt = s.repairedAt := rfl
@[simp] theorem baySet_ledger (b : Nat) (v : Bay) (s : State) : (baySet b v s).ledger = s.ledger := rfl
@[simp] theorem baySet_ledgerA (b : Nat) (v : Bay) (s : State) : (baySet b v s).ledgerA = s.ledgerA := rfl
@[simp] theorem baySet_ledgerB (b : Nat) (v : Bay) (s : State) : (baySet b v s).ledgerB = s.ledgerB := rfl
@[simp] theorem baySet_ledgerBusy (b : Nat) (v : Bay) (s : State) : (baySet b v s).ledgerBusy = s.ledgerBusy := rfl
@[simp] theorem baySet_ledgerDirty (b : Nat) (v : Bay) (s : State) : (baySet b v s).ledgerDirty = s.ledgerDirty := rfl
@[simp] theorem baySet_pageReports (b : Nat) (v : Bay) (s : State) : (baySet b v s).pageReports = s.pageReports := rfl
@[simp] theorem baySet_pagesTold (b : Nat) (v : Bay) (s : State) : (baySet b v s).pagesTold = s.pagesTold := rfl
@[simp] theorem baySet_fenKeys (b : Nat) (v : Bay) (s : State) : (baySet b v s).fenKeys = s.fenKeys := rfl
@[simp] theorem baySet_keyMap (b : Nat) (v : Bay) (s : State) : (baySet b v s).keyMap = s.keyMap := rfl
@[simp] theorem baySet_clearQ (b : Nat) (v : Bay) (s : State) : (baySet b v s).clearQ = s.clearQ := rfl
@[simp] theorem baySet_slcCount (b : Nat) (v : Bay) (s : State) : (baySet b v s).slcCount = s.slcCount := rfl
@[simp] theorem baySet_slcShares (b : Nat) (v : Bay) (s : State) : (baySet b v s).slcShares = s.slcShares := rfl
@[simp] theorem baySet_slcOwed (b : Nat) (v : Bay) (s : State) : (baySet b v s).slcOwed = s.slcOwed := rfl
@[simp] theorem baySet_otp (b : Nat) (v : Bay) (s : State) : (baySet b v s).otp = s.otp := rfl
@[simp] theorem baySet_otpJobs (b : Nat) (v : Bay) (s : State) : (baySet b v s).otpJobs = s.otpJobs := rfl
@[simp] theorem baySet_flash (b : Nat) (v : Bay) (s : State) : (baySet b v s).flash = s.flash := rfl
@[simp] theorem baySet_flashJobs (b : Nat) (v : Bay) (s : State) : (baySet b v s).flashJobs = s.flashJobs := rfl
@[simp] theorem baySet_badTiles (b : Nat) (v : Bay) (s : State) : (baySet b v s).badTiles = s.badTiles := rfl
@[simp] theorem baySet_badBays (b : Nat) (v : Bay) (s : State) : (baySet b v s).badBays = s.badBays := rfl
@[simp] theorem baySet_bayMap (b : Nat) (v : Bay) (s : State) : (baySet b v s).bayMap = s.bayMap := rfl
@[simp] theorem baySet_bridgeSpares (b : Nat) (v : Bay) (s : State) : (baySet b v s).bridgeSpares = s.bridgeSpares := rfl
@[simp] theorem baySet_sites (b : Nat) (v : Bay) (s : State) : (baySet b v s).sites = s.sites := rfl
@[simp] theorem baySet_netReqs (b : Nat) (v : Bay) (s : State) : (baySet b v s).netReqs = s.netReqs := rfl
@[simp] theorem baySet_netUsed (b : Nat) (v : Bay) (s : State) : (baySet b v s).netUsed = s.netUsed := rfl
@[simp] theorem baySet_netReset (b : Nat) (v : Bay) (s : State) : (baySet b v s).netReset = s.netReset := rfl
@[simp] theorem baySet_traces (b : Nat) (v : Bay) (s : State) : (baySet b v s).traces = s.traces := rfl
@[simp] theorem baySet_slices (b : Nat) (v : Bay) (s : State) : (baySet b v s).slices = s.slices := rfl
@[simp] theorem baySet_cohHold (b : Nat) (v : Bay) (s : State) : (baySet b v s).cohHold = s.cohHold := rfl
@[simp] theorem baySet_cohWait (b : Nat) (v : Bay) (s : State) : (baySet b v s).cohWait = s.cohWait := rfl
@[simp] theorem baySet_ccLines (b : Nat) (v : Bay) (s : State) : (baySet b v s).ccLines = s.ccLines := rfl
@[simp] theorem baySet_lossOwed (b : Nat) (v : Bay) (s : State) : (baySet b v s).lossOwed = s.lossOwed := rfl
@[simp] theorem baySet_removing (b : Nat) (v : Bay) (s : State) : (baySet b v s).removing = s.removing := rfl
@[simp] theorem baySet_resetOwed (b : Nat) (v : Bay) (s : State) : (baySet b v s).resetOwed = s.resetOwed := rfl
@[simp] theorem baySet_fwOwed (b : Nat) (v : Bay) (s : State) : (baySet b v s).fwOwed = s.fwOwed := rfl
@[simp] theorem baySet_failRestart (b : Nat) (v : Bay) (s : State) : (baySet b v s).failRestart = s.failRestart := rfl
@[simp] theorem baySet_rstLow (b : Nat) (v : Bay) (s : State) : (baySet b v s).rstLow = s.rstLow := rfl
@[simp] theorem baySet_imgNext (b : Nat) (v : Bay) (s : State) : (baySet b v s).imgNext = s.imgNext := rfl
@[simp] theorem baySet_imgHash (b : Nat) (v : Bay) (s : State) : (baySet b v s).imgHash = s.imgHash := rfl
@[simp] theorem baySet_licHash (b : Nat) (v : Bay) (s : State) : (baySet b v s).licHash = s.licHash := rfl
@[simp] theorem baySet_cfgHash (b : Nat) (v : Bay) (s : State) : (baySet b v s).cfgHash = s.cfgHash := rfl
@[simp] theorem baySet_ident (b : Nat) (v : Bay) (s : State) : (baySet b v s).ident = s.ident := rfl
@[simp] theorem baySet_nonce (b : Nat) (v : Bay) (s : State) : (baySet b v s).nonce = s.nonce := rfl
@[simp] theorem baySet_spdm (b : Nat) (v : Bay) (s : State) : (baySet b v s).spdm = s.spdm := rfl
@[simp] theorem baySet_ide (b : Nat) (v : Bay) (s : State) : (baySet b v s).ide = s.ide := rfl
@[simp] theorem baySet_hot (b : Nat) (v : Bay) (s : State) : (baySet b v s).hot = s.hot := rfl
@[simp] theorem baySet_temps (b : Nat) (v : Bay) (s : State) : (baySet b v s).temps = s.temps := rfl
@[simp] theorem baySet_errMgmt (b : Nat) (v : Bay) (s : State) : (baySet b v s).errMgmt = s.errMgmt := rfl
@[simp] theorem baySet_retrainOwed (b : Nat) (v : Bay) (s : State) : (baySet b v s).retrainOwed = s.retrainOwed := rfl
@[simp] theorem baySet_pldmTo (b : Nat) (v : Bay) (s : State) : (baySet b v s).pldmTo = s.pldmTo := rfl
@[simp] theorem baySet_cfgSpace (b : Nat) (v : Bay) (s : State) : (baySet b v s).cfgSpace = s.cfgSpace := rfl
@[simp] theorem baySet_bias (b : Nat) (v : Bay) (s : State) : (baySet b v s).bias = s.bias := rfl
@[simp] theorem baySet_perst (b : Nat) (v : Bay) (s : State) : (baySet b v s).perst = s.perst := rfl
@[simp] theorem baySet_tripped (b : Nat) (v : Bay) (s : State) : (baySet b v s).tripped = s.tripped := rfl
@[simp] theorem baySet_cold (b : Nat) (v : Bay) (s : State) : (baySet b v s).cold = s.cold := rfl
@[simp] theorem baySet_wakeLow (b : Nat) (v : Bay) (s : State) : (baySet b v s).wakeLow = s.wakeLow := rfl
@[simp] theorem baySet_rounds (b : Nat) (v : Bay) (s : State) : (baySet b v s).rounds = s.rounds := rfl
@[simp] theorem baySet_fwMissing (b : Nat) (v : Bay) (s : State) : (baySet b v s).fwMissing = s.fwMissing := rfl
@[simp] theorem baySet_sramSpares (b : Nat) (v : Bay) (s : State) : (baySet b v s).sramSpares = s.sramSpares := rfl
@[simp] theorem baySet_siteLanes (b : Nat) (v : Bay) (s : State) : (baySet b v s).siteLanes = s.siteLanes := rfl
@[simp] theorem baySet_clearAll (b : Nat) (v : Bay) (s : State) : (baySet b v s).clearAll = s.clearAll := rfl
@[simp] theorem baySet_unsecure (b : Nat) (v : Bay) (s : State) : (baySet b v s).unsecure = s.unsecure := rfl
@[simp] theorem baySet_usable (b : Nat) (v : Bay) (s : State) : (baySet b v s).usable = s.usable := rfl
@[simp] theorem baySet_hdm (b : Nat) (v : Bay) (s : State) : (baySet b v s).hdm = s.hdm := rfl
@[simp] theorem baySet_msix (b : Nat) (v : Bay) (s : State) : (baySet b v s).msix = s.msix := rfl
@[simp] theorem baySet_pba (b : Nat) (v : Bay) (s : State) : (baySet b v s).pba = s.pba := rfl
@[simp] theorem baySet_ackOwed (b : Nat) (v : Bay) (s : State) : (baySet b v s).ackOwed = s.ackOwed := rfl
@[simp] theorem baySet_invs (b : Nat) (v : Bay) (s : State) : (baySet b v s).invs = s.invs := rfl
@[simp] theorem baySet_injDone (b : Nat) (v : Bay) (s : State) : (baySet b v s).injDone = s.injDone := rfl
@[simp] theorem baySet_snapOwed (b : Nat) (v : Bay) (s : State) : (baySet b v s).snapOwed = s.snapOwed := rfl
@[simp] theorem baySet_tpOwed (b : Nat) (v : Bay) (s : State) : (baySet b v s).tpOwed = s.tpOwed := rfl
@[simp] theorem baySet_tpClear (b : Nat) (v : Bay) (s : State) : (baySet b v s).tpClear = s.tpClear := rfl
@[simp] theorem baySet_failOwed (b : Nat) (v : Bay) (s : State) : (baySet b v s).failOwed = s.failOwed := rfl
@[simp] theorem baySet_fresh (b : Nat) (v : Bay) (s : State) : (baySet b v s).fresh = s.fresh := rfl

/-! ### partSet -/

@[simp] theorem partSet_pending (p : Nat) (v : Part) (s : State) : (partSet p v s).pending = s.pending := rfl
@[simp] theorem partSet_regs (p : Nat) (v : Part) (s : State) : (partSet p v s).regs = s.regs := rfl
@[simp] theorem partSet_mem (p : Nat) (v : Part) (s : State) : (partSet p v s).mem = s.mem := rfl
@[simp] theorem partSet_store (p : Nat) (v : Part) (s : State) : (partSet p v s).store = s.store := rfl
@[simp] theorem partSet_tiles (p : Nat) (v : Part) (s : State) : (partSet p v s).tiles = s.tiles := rfl
@[simp] theorem partSet_bays (p : Nat) (v : Part) (s : State) : (partSet p v s).bays = s.bays := rfl
@[simp] theorem partSet_ready (p : Nat) (v : Part) (s : State) : (partSet p v s).ready = s.ready := rfl
@[simp] theorem partSet_snap (p : Nat) (v : Part) (s : State) : (partSet p v s).snap = s.snap := rfl
@[simp] theorem partSet_ctxs (p : Nat) (v : Part) (s : State) : (partSet p v s).ctxs = s.ctxs := rfl
@[simp] theorem partSet_queues (p : Nat) (v : Part) (s : State) : (partSet p v s).queues = s.queues := rfl
@[simp] theorem partSet_fences (p : Nat) (v : Part) (s : State) : (partSet p v s).fences = s.fences := rfl
@[simp] theorem partSet_cmds (p : Nat) (v : Part) (s : State) : (partSet p v s).cmds = s.cmds := rfl
@[simp] theorem partSet_nextCmd (p : Nat) (v : Part) (s : State) : (partSet p v s).nextCmd = s.nextCmd := rfl
@[simp] theorem partSet_errq (p : Nat) (v : Part) (s : State) : (partSet p v s).errq = s.errq := rfl
@[simp] theorem partSet_errSeen (p : Nat) (v : Part) (s : State) : (partSet p v s).errSeen = s.errSeen := rfl
@[simp] theorem partSet_errLost (p : Nat) (v : Part) (s : State) : (partSet p v s).errLost = s.errLost := rfl
@[simp] theorem partSet_errNext (p : Nat) (v : Part) (s : State) : (partSet p v s).errNext = s.errNext := rfl
@[simp] theorem partSet_errIrqWait (p : Nat) (v : Part) (s : State) : (partSet p v s).errIrqWait = s.errIrqWait := rfl
@[simp] theorem partSet_errIrqOwed (p : Nat) (v : Part) (s : State) : (partSet p v s).errIrqOwed = s.errIrqOwed := rfl
@[simp] theorem partSet_out (p : Nat) (v : Part) (s : State) : (partSet p v s).out = s.out := rfl
@[simp] theorem partSet_lost (p : Nat) (v : Part) (s : State) : (partSet p v s).lost = s.lost := rfl
@[simp] theorem partSet_atc (p : Nat) (v : Part) (s : State) : (partSet p v s).atc = s.atc := rfl
@[simp] theorem partSet_pins (p : Nat) (v : Part) (s : State) : (partSet p v s).pins = s.pins := rfl
@[simp] theorem partSet_unacked (p : Nat) (v : Part) (s : State) : (partSet p v s).unacked = s.unacked := rfl
@[simp] theorem partSet_d3 (p : Nat) (v : Part) (s : State) : (partSet p v s).d3 = s.d3 := rfl
@[simp] theorem partSet_idn (p : Nat) (v : Part) (s : State) : (partSet p v s).idn = s.idn := rfl
@[simp] theorem partSet_idnReqs (p : Nat) (v : Part) (s : State) : (partSet p v s).idnReqs = s.idnReqs := rfl
@[simp] theorem partSet_rwo (p : Nat) (v : Part) (s : State) : (partSet p v s).rwo = s.rwo := rfl
@[simp] theorem partSet_joins (p : Nat) (v : Part) (s : State) : (partSet p v s).joins = s.joins := rfl
@[simp] theorem partSet_edges (p : Nat) (v : Part) (s : State) : (partSet p v s).edges = s.edges := rfl
@[simp] theorem partSet_dom (p : Nat) (v : Part) (s : State) : (partSet p v s).dom = s.dom := rfl
@[simp] theorem partSet_cfg (p : Nat) (v : Part) (s : State) : (partSet p v s).cfg = s.cfg := rfl
@[simp] theorem partSet_mapouts (p : Nat) (v : Part) (s : State) : (partSet p v s).mapouts = s.mapouts := rfl
@[simp] theorem partSet_repairs (p : Nat) (v : Part) (s : State) : (partSet p v s).repairs = s.repairs := rfl
@[simp] theorem partSet_wcb (p : Nat) (v : Part) (s : State) : (partSet p v s).wcb = s.wcb := rfl
@[simp] theorem partSet_wback (p : Nat) (v : Part) (s : State) : (partSet p v s).wback = s.wback := rfl
@[simp] theorem partSet_ceRows (p : Nat) (v : Part) (s : State) : (partSet p v s).ceRows = s.ceRows := rfl
@[simp] theorem partSet_retrains (p : Nat) (v : Part) (s : State) : (partSet p v s).retrains = s.retrains := rfl
@[simp] theorem partSet_training (p : Nat) (v : Part) (s : State) : (partSet p v s).training = s.training := rfl
@[simp] theorem partSet_repairedAt (p : Nat) (v : Part) (s : State) : (partSet p v s).repairedAt = s.repairedAt := rfl
@[simp] theorem partSet_ledger (p : Nat) (v : Part) (s : State) : (partSet p v s).ledger = s.ledger := rfl
@[simp] theorem partSet_ledgerA (p : Nat) (v : Part) (s : State) : (partSet p v s).ledgerA = s.ledgerA := rfl
@[simp] theorem partSet_ledgerB (p : Nat) (v : Part) (s : State) : (partSet p v s).ledgerB = s.ledgerB := rfl
@[simp] theorem partSet_ledgerBusy (p : Nat) (v : Part) (s : State) : (partSet p v s).ledgerBusy = s.ledgerBusy := rfl
@[simp] theorem partSet_ledgerDirty (p : Nat) (v : Part) (s : State) : (partSet p v s).ledgerDirty = s.ledgerDirty := rfl
@[simp] theorem partSet_pageReports (p : Nat) (v : Part) (s : State) : (partSet p v s).pageReports = s.pageReports := rfl
@[simp] theorem partSet_pagesTold (p : Nat) (v : Part) (s : State) : (partSet p v s).pagesTold = s.pagesTold := rfl
@[simp] theorem partSet_fenKeys (p : Nat) (v : Part) (s : State) : (partSet p v s).fenKeys = s.fenKeys := rfl
@[simp] theorem partSet_keyMap (p : Nat) (v : Part) (s : State) : (partSet p v s).keyMap = s.keyMap := rfl
@[simp] theorem partSet_clearQ (p : Nat) (v : Part) (s : State) : (partSet p v s).clearQ = s.clearQ := rfl
@[simp] theorem partSet_slcCount (p : Nat) (v : Part) (s : State) : (partSet p v s).slcCount = s.slcCount := rfl
@[simp] theorem partSet_slcShares (p : Nat) (v : Part) (s : State) : (partSet p v s).slcShares = s.slcShares := rfl
@[simp] theorem partSet_slcOwed (p : Nat) (v : Part) (s : State) : (partSet p v s).slcOwed = s.slcOwed := rfl
@[simp] theorem partSet_otp (p : Nat) (v : Part) (s : State) : (partSet p v s).otp = s.otp := rfl
@[simp] theorem partSet_otpJobs (p : Nat) (v : Part) (s : State) : (partSet p v s).otpJobs = s.otpJobs := rfl
@[simp] theorem partSet_flash (p : Nat) (v : Part) (s : State) : (partSet p v s).flash = s.flash := rfl
@[simp] theorem partSet_flashJobs (p : Nat) (v : Part) (s : State) : (partSet p v s).flashJobs = s.flashJobs := rfl
@[simp] theorem partSet_badTiles (p : Nat) (v : Part) (s : State) : (partSet p v s).badTiles = s.badTiles := rfl
@[simp] theorem partSet_badBays (p : Nat) (v : Part) (s : State) : (partSet p v s).badBays = s.badBays := rfl
@[simp] theorem partSet_bayMap (p : Nat) (v : Part) (s : State) : (partSet p v s).bayMap = s.bayMap := rfl
@[simp] theorem partSet_bridgeSpares (p : Nat) (v : Part) (s : State) : (partSet p v s).bridgeSpares = s.bridgeSpares := rfl
@[simp] theorem partSet_sites (p : Nat) (v : Part) (s : State) : (partSet p v s).sites = s.sites := rfl
@[simp] theorem partSet_netReqs (p : Nat) (v : Part) (s : State) : (partSet p v s).netReqs = s.netReqs := rfl
@[simp] theorem partSet_netUsed (p : Nat) (v : Part) (s : State) : (partSet p v s).netUsed = s.netUsed := rfl
@[simp] theorem partSet_netReset (p : Nat) (v : Part) (s : State) : (partSet p v s).netReset = s.netReset := rfl
@[simp] theorem partSet_traces (p : Nat) (v : Part) (s : State) : (partSet p v s).traces = s.traces := rfl
@[simp] theorem partSet_slices (p : Nat) (v : Part) (s : State) : (partSet p v s).slices = s.slices := rfl
@[simp] theorem partSet_cohHold (p : Nat) (v : Part) (s : State) : (partSet p v s).cohHold = s.cohHold := rfl
@[simp] theorem partSet_cohWait (p : Nat) (v : Part) (s : State) : (partSet p v s).cohWait = s.cohWait := rfl
@[simp] theorem partSet_ccLines (p : Nat) (v : Part) (s : State) : (partSet p v s).ccLines = s.ccLines := rfl
@[simp] theorem partSet_lossOwed (p : Nat) (v : Part) (s : State) : (partSet p v s).lossOwed = s.lossOwed := rfl
@[simp] theorem partSet_removing (p : Nat) (v : Part) (s : State) : (partSet p v s).removing = s.removing := rfl
@[simp] theorem partSet_resetOwed (p : Nat) (v : Part) (s : State) : (partSet p v s).resetOwed = s.resetOwed := rfl
@[simp] theorem partSet_fwOwed (p : Nat) (v : Part) (s : State) : (partSet p v s).fwOwed = s.fwOwed := rfl
@[simp] theorem partSet_failRestart (p : Nat) (v : Part) (s : State) : (partSet p v s).failRestart = s.failRestart := rfl
@[simp] theorem partSet_rstLow (p : Nat) (v : Part) (s : State) : (partSet p v s).rstLow = s.rstLow := rfl
@[simp] theorem partSet_imgNext (p : Nat) (v : Part) (s : State) : (partSet p v s).imgNext = s.imgNext := rfl
@[simp] theorem partSet_imgHash (p : Nat) (v : Part) (s : State) : (partSet p v s).imgHash = s.imgHash := rfl
@[simp] theorem partSet_licHash (p : Nat) (v : Part) (s : State) : (partSet p v s).licHash = s.licHash := rfl
@[simp] theorem partSet_cfgHash (p : Nat) (v : Part) (s : State) : (partSet p v s).cfgHash = s.cfgHash := rfl
@[simp] theorem partSet_ident (p : Nat) (v : Part) (s : State) : (partSet p v s).ident = s.ident := rfl
@[simp] theorem partSet_nonce (p : Nat) (v : Part) (s : State) : (partSet p v s).nonce = s.nonce := rfl
@[simp] theorem partSet_spdm (p : Nat) (v : Part) (s : State) : (partSet p v s).spdm = s.spdm := rfl
@[simp] theorem partSet_ide (p : Nat) (v : Part) (s : State) : (partSet p v s).ide = s.ide := rfl
@[simp] theorem partSet_hot (p : Nat) (v : Part) (s : State) : (partSet p v s).hot = s.hot := rfl
@[simp] theorem partSet_temps (p : Nat) (v : Part) (s : State) : (partSet p v s).temps = s.temps := rfl
@[simp] theorem partSet_errMgmt (p : Nat) (v : Part) (s : State) : (partSet p v s).errMgmt = s.errMgmt := rfl
@[simp] theorem partSet_retrainOwed (p : Nat) (v : Part) (s : State) : (partSet p v s).retrainOwed = s.retrainOwed := rfl
@[simp] theorem partSet_pldmTo (p : Nat) (v : Part) (s : State) : (partSet p v s).pldmTo = s.pldmTo := rfl
@[simp] theorem partSet_cfgSpace (p : Nat) (v : Part) (s : State) : (partSet p v s).cfgSpace = s.cfgSpace := rfl
@[simp] theorem partSet_bias (p : Nat) (v : Part) (s : State) : (partSet p v s).bias = s.bias := rfl
@[simp] theorem partSet_perst (p : Nat) (v : Part) (s : State) : (partSet p v s).perst = s.perst := rfl
@[simp] theorem partSet_tripped (p : Nat) (v : Part) (s : State) : (partSet p v s).tripped = s.tripped := rfl
@[simp] theorem partSet_cold (p : Nat) (v : Part) (s : State) : (partSet p v s).cold = s.cold := rfl
@[simp] theorem partSet_wakeLow (p : Nat) (v : Part) (s : State) : (partSet p v s).wakeLow = s.wakeLow := rfl
@[simp] theorem partSet_rounds (p : Nat) (v : Part) (s : State) : (partSet p v s).rounds = s.rounds := rfl
@[simp] theorem partSet_fwMissing (p : Nat) (v : Part) (s : State) : (partSet p v s).fwMissing = s.fwMissing := rfl
@[simp] theorem partSet_sramSpares (p : Nat) (v : Part) (s : State) : (partSet p v s).sramSpares = s.sramSpares := rfl
@[simp] theorem partSet_siteLanes (p : Nat) (v : Part) (s : State) : (partSet p v s).siteLanes = s.siteLanes := rfl
@[simp] theorem partSet_clearAll (p : Nat) (v : Part) (s : State) : (partSet p v s).clearAll = s.clearAll := rfl
@[simp] theorem partSet_unsecure (p : Nat) (v : Part) (s : State) : (partSet p v s).unsecure = s.unsecure := rfl
@[simp] theorem partSet_usable (p : Nat) (v : Part) (s : State) : (partSet p v s).usable = s.usable := rfl
@[simp] theorem partSet_hdm (p : Nat) (v : Part) (s : State) : (partSet p v s).hdm = s.hdm := rfl
@[simp] theorem partSet_msix (p : Nat) (v : Part) (s : State) : (partSet p v s).msix = s.msix := rfl
@[simp] theorem partSet_pba (p : Nat) (v : Part) (s : State) : (partSet p v s).pba = s.pba := rfl
@[simp] theorem partSet_ackOwed (p : Nat) (v : Part) (s : State) : (partSet p v s).ackOwed = s.ackOwed := rfl
@[simp] theorem partSet_invs (p : Nat) (v : Part) (s : State) : (partSet p v s).invs = s.invs := rfl
@[simp] theorem partSet_injDone (p : Nat) (v : Part) (s : State) : (partSet p v s).injDone = s.injDone := rfl
@[simp] theorem partSet_snapOwed (p : Nat) (v : Part) (s : State) : (partSet p v s).snapOwed = s.snapOwed := rfl
@[simp] theorem partSet_tpOwed (p : Nat) (v : Part) (s : State) : (partSet p v s).tpOwed = s.tpOwed := rfl
@[simp] theorem partSet_tpClear (p : Nat) (v : Part) (s : State) : (partSet p v s).tpClear = s.tpClear := rfl
@[simp] theorem partSet_failOwed (p : Nat) (v : Part) (s : State) : (partSet p v s).failOwed = s.failOwed := rfl
@[simp] theorem partSet_fresh (p : Nat) (v : Part) (s : State) : (partSet p v s).fresh = s.fresh := rfl

/-! ### ctxSet -/

@[simp] theorem ctxSet_pending (c : Nat) (v : Ctx) (s : State) : (ctxSet c v s).pending = s.pending := rfl
@[simp] theorem ctxSet_regs (c : Nat) (v : Ctx) (s : State) : (ctxSet c v s).regs = s.regs := rfl
@[simp] theorem ctxSet_mem (c : Nat) (v : Ctx) (s : State) : (ctxSet c v s).mem = s.mem := rfl
@[simp] theorem ctxSet_store (c : Nat) (v : Ctx) (s : State) : (ctxSet c v s).store = s.store := rfl
@[simp] theorem ctxSet_tiles (c : Nat) (v : Ctx) (s : State) : (ctxSet c v s).tiles = s.tiles := rfl
@[simp] theorem ctxSet_bays (c : Nat) (v : Ctx) (s : State) : (ctxSet c v s).bays = s.bays := rfl
@[simp] theorem ctxSet_parts (c : Nat) (v : Ctx) (s : State) : (ctxSet c v s).parts = s.parts := rfl
@[simp] theorem ctxSet_ready (c : Nat) (v : Ctx) (s : State) : (ctxSet c v s).ready = s.ready := rfl
@[simp] theorem ctxSet_snap (c : Nat) (v : Ctx) (s : State) : (ctxSet c v s).snap = s.snap := rfl
@[simp] theorem ctxSet_queues (c : Nat) (v : Ctx) (s : State) : (ctxSet c v s).queues = s.queues := rfl
@[simp] theorem ctxSet_fences (c : Nat) (v : Ctx) (s : State) : (ctxSet c v s).fences = s.fences := rfl
@[simp] theorem ctxSet_cmds (c : Nat) (v : Ctx) (s : State) : (ctxSet c v s).cmds = s.cmds := rfl
@[simp] theorem ctxSet_nextCmd (c : Nat) (v : Ctx) (s : State) : (ctxSet c v s).nextCmd = s.nextCmd := rfl
@[simp] theorem ctxSet_errq (c : Nat) (v : Ctx) (s : State) : (ctxSet c v s).errq = s.errq := rfl
@[simp] theorem ctxSet_errSeen (c : Nat) (v : Ctx) (s : State) : (ctxSet c v s).errSeen = s.errSeen := rfl
@[simp] theorem ctxSet_errLost (c : Nat) (v : Ctx) (s : State) : (ctxSet c v s).errLost = s.errLost := rfl
@[simp] theorem ctxSet_errNext (c : Nat) (v : Ctx) (s : State) : (ctxSet c v s).errNext = s.errNext := rfl
@[simp] theorem ctxSet_errIrqWait (c : Nat) (v : Ctx) (s : State) : (ctxSet c v s).errIrqWait = s.errIrqWait := rfl
@[simp] theorem ctxSet_errIrqOwed (c : Nat) (v : Ctx) (s : State) : (ctxSet c v s).errIrqOwed = s.errIrqOwed := rfl
@[simp] theorem ctxSet_out (c : Nat) (v : Ctx) (s : State) : (ctxSet c v s).out = s.out := rfl
@[simp] theorem ctxSet_lost (c : Nat) (v : Ctx) (s : State) : (ctxSet c v s).lost = s.lost := rfl
@[simp] theorem ctxSet_atc (c : Nat) (v : Ctx) (s : State) : (ctxSet c v s).atc = s.atc := rfl
@[simp] theorem ctxSet_pins (c : Nat) (v : Ctx) (s : State) : (ctxSet c v s).pins = s.pins := rfl
@[simp] theorem ctxSet_unacked (c : Nat) (v : Ctx) (s : State) : (ctxSet c v s).unacked = s.unacked := rfl
@[simp] theorem ctxSet_d3 (c : Nat) (v : Ctx) (s : State) : (ctxSet c v s).d3 = s.d3 := rfl
@[simp] theorem ctxSet_idn (c : Nat) (v : Ctx) (s : State) : (ctxSet c v s).idn = s.idn := rfl
@[simp] theorem ctxSet_idnReqs (c : Nat) (v : Ctx) (s : State) : (ctxSet c v s).idnReqs = s.idnReqs := rfl
@[simp] theorem ctxSet_rwo (c : Nat) (v : Ctx) (s : State) : (ctxSet c v s).rwo = s.rwo := rfl
@[simp] theorem ctxSet_joins (c : Nat) (v : Ctx) (s : State) : (ctxSet c v s).joins = s.joins := rfl
@[simp] theorem ctxSet_edges (c : Nat) (v : Ctx) (s : State) : (ctxSet c v s).edges = s.edges := rfl
@[simp] theorem ctxSet_dom (c : Nat) (v : Ctx) (s : State) : (ctxSet c v s).dom = s.dom := rfl
@[simp] theorem ctxSet_cfg (c : Nat) (v : Ctx) (s : State) : (ctxSet c v s).cfg = s.cfg := rfl
@[simp] theorem ctxSet_mapouts (c : Nat) (v : Ctx) (s : State) : (ctxSet c v s).mapouts = s.mapouts := rfl
@[simp] theorem ctxSet_repairs (c : Nat) (v : Ctx) (s : State) : (ctxSet c v s).repairs = s.repairs := rfl
@[simp] theorem ctxSet_wcb (c : Nat) (v : Ctx) (s : State) : (ctxSet c v s).wcb = s.wcb := rfl
@[simp] theorem ctxSet_wback (c : Nat) (v : Ctx) (s : State) : (ctxSet c v s).wback = s.wback := rfl
@[simp] theorem ctxSet_ceRows (c : Nat) (v : Ctx) (s : State) : (ctxSet c v s).ceRows = s.ceRows := rfl
@[simp] theorem ctxSet_retrains (c : Nat) (v : Ctx) (s : State) : (ctxSet c v s).retrains = s.retrains := rfl
@[simp] theorem ctxSet_training (c : Nat) (v : Ctx) (s : State) : (ctxSet c v s).training = s.training := rfl
@[simp] theorem ctxSet_repairedAt (c : Nat) (v : Ctx) (s : State) : (ctxSet c v s).repairedAt = s.repairedAt := rfl
@[simp] theorem ctxSet_ledger (c : Nat) (v : Ctx) (s : State) : (ctxSet c v s).ledger = s.ledger := rfl
@[simp] theorem ctxSet_ledgerA (c : Nat) (v : Ctx) (s : State) : (ctxSet c v s).ledgerA = s.ledgerA := rfl
@[simp] theorem ctxSet_ledgerB (c : Nat) (v : Ctx) (s : State) : (ctxSet c v s).ledgerB = s.ledgerB := rfl
@[simp] theorem ctxSet_ledgerBusy (c : Nat) (v : Ctx) (s : State) : (ctxSet c v s).ledgerBusy = s.ledgerBusy := rfl
@[simp] theorem ctxSet_ledgerDirty (c : Nat) (v : Ctx) (s : State) : (ctxSet c v s).ledgerDirty = s.ledgerDirty := rfl
@[simp] theorem ctxSet_pageReports (c : Nat) (v : Ctx) (s : State) : (ctxSet c v s).pageReports = s.pageReports := rfl
@[simp] theorem ctxSet_pagesTold (c : Nat) (v : Ctx) (s : State) : (ctxSet c v s).pagesTold = s.pagesTold := rfl
@[simp] theorem ctxSet_fenKeys (c : Nat) (v : Ctx) (s : State) : (ctxSet c v s).fenKeys = s.fenKeys := rfl
@[simp] theorem ctxSet_keyMap (c : Nat) (v : Ctx) (s : State) : (ctxSet c v s).keyMap = s.keyMap := rfl
@[simp] theorem ctxSet_clearQ (c : Nat) (v : Ctx) (s : State) : (ctxSet c v s).clearQ = s.clearQ := rfl
@[simp] theorem ctxSet_slcCount (c : Nat) (v : Ctx) (s : State) : (ctxSet c v s).slcCount = s.slcCount := rfl
@[simp] theorem ctxSet_slcShares (c : Nat) (v : Ctx) (s : State) : (ctxSet c v s).slcShares = s.slcShares := rfl
@[simp] theorem ctxSet_slcOwed (c : Nat) (v : Ctx) (s : State) : (ctxSet c v s).slcOwed = s.slcOwed := rfl
@[simp] theorem ctxSet_otp (c : Nat) (v : Ctx) (s : State) : (ctxSet c v s).otp = s.otp := rfl
@[simp] theorem ctxSet_otpJobs (c : Nat) (v : Ctx) (s : State) : (ctxSet c v s).otpJobs = s.otpJobs := rfl
@[simp] theorem ctxSet_flash (c : Nat) (v : Ctx) (s : State) : (ctxSet c v s).flash = s.flash := rfl
@[simp] theorem ctxSet_flashJobs (c : Nat) (v : Ctx) (s : State) : (ctxSet c v s).flashJobs = s.flashJobs := rfl
@[simp] theorem ctxSet_badTiles (c : Nat) (v : Ctx) (s : State) : (ctxSet c v s).badTiles = s.badTiles := rfl
@[simp] theorem ctxSet_badBays (c : Nat) (v : Ctx) (s : State) : (ctxSet c v s).badBays = s.badBays := rfl
@[simp] theorem ctxSet_bayMap (c : Nat) (v : Ctx) (s : State) : (ctxSet c v s).bayMap = s.bayMap := rfl
@[simp] theorem ctxSet_bridgeSpares (c : Nat) (v : Ctx) (s : State) : (ctxSet c v s).bridgeSpares = s.bridgeSpares := rfl
@[simp] theorem ctxSet_sites (c : Nat) (v : Ctx) (s : State) : (ctxSet c v s).sites = s.sites := rfl
@[simp] theorem ctxSet_netReqs (c : Nat) (v : Ctx) (s : State) : (ctxSet c v s).netReqs = s.netReqs := rfl
@[simp] theorem ctxSet_netUsed (c : Nat) (v : Ctx) (s : State) : (ctxSet c v s).netUsed = s.netUsed := rfl
@[simp] theorem ctxSet_netReset (c : Nat) (v : Ctx) (s : State) : (ctxSet c v s).netReset = s.netReset := rfl
@[simp] theorem ctxSet_traces (c : Nat) (v : Ctx) (s : State) : (ctxSet c v s).traces = s.traces := rfl
@[simp] theorem ctxSet_slices (c : Nat) (v : Ctx) (s : State) : (ctxSet c v s).slices = s.slices := rfl
@[simp] theorem ctxSet_cohHold (c : Nat) (v : Ctx) (s : State) : (ctxSet c v s).cohHold = s.cohHold := rfl
@[simp] theorem ctxSet_cohWait (c : Nat) (v : Ctx) (s : State) : (ctxSet c v s).cohWait = s.cohWait := rfl
@[simp] theorem ctxSet_ccLines (c : Nat) (v : Ctx) (s : State) : (ctxSet c v s).ccLines = s.ccLines := rfl
@[simp] theorem ctxSet_lossOwed (c : Nat) (v : Ctx) (s : State) : (ctxSet c v s).lossOwed = s.lossOwed := rfl
@[simp] theorem ctxSet_removing (c : Nat) (v : Ctx) (s : State) : (ctxSet c v s).removing = s.removing := rfl
@[simp] theorem ctxSet_resetOwed (c : Nat) (v : Ctx) (s : State) : (ctxSet c v s).resetOwed = s.resetOwed := rfl
@[simp] theorem ctxSet_fwOwed (c : Nat) (v : Ctx) (s : State) : (ctxSet c v s).fwOwed = s.fwOwed := rfl
@[simp] theorem ctxSet_failRestart (c : Nat) (v : Ctx) (s : State) : (ctxSet c v s).failRestart = s.failRestart := rfl
@[simp] theorem ctxSet_rstLow (c : Nat) (v : Ctx) (s : State) : (ctxSet c v s).rstLow = s.rstLow := rfl
@[simp] theorem ctxSet_imgNext (c : Nat) (v : Ctx) (s : State) : (ctxSet c v s).imgNext = s.imgNext := rfl
@[simp] theorem ctxSet_imgHash (c : Nat) (v : Ctx) (s : State) : (ctxSet c v s).imgHash = s.imgHash := rfl
@[simp] theorem ctxSet_licHash (c : Nat) (v : Ctx) (s : State) : (ctxSet c v s).licHash = s.licHash := rfl
@[simp] theorem ctxSet_cfgHash (c : Nat) (v : Ctx) (s : State) : (ctxSet c v s).cfgHash = s.cfgHash := rfl
@[simp] theorem ctxSet_ident (c : Nat) (v : Ctx) (s : State) : (ctxSet c v s).ident = s.ident := rfl
@[simp] theorem ctxSet_nonce (c : Nat) (v : Ctx) (s : State) : (ctxSet c v s).nonce = s.nonce := rfl
@[simp] theorem ctxSet_spdm (c : Nat) (v : Ctx) (s : State) : (ctxSet c v s).spdm = s.spdm := rfl
@[simp] theorem ctxSet_ide (c : Nat) (v : Ctx) (s : State) : (ctxSet c v s).ide = s.ide := rfl
@[simp] theorem ctxSet_hot (c : Nat) (v : Ctx) (s : State) : (ctxSet c v s).hot = s.hot := rfl
@[simp] theorem ctxSet_temps (c : Nat) (v : Ctx) (s : State) : (ctxSet c v s).temps = s.temps := rfl
@[simp] theorem ctxSet_errMgmt (c : Nat) (v : Ctx) (s : State) : (ctxSet c v s).errMgmt = s.errMgmt := rfl
@[simp] theorem ctxSet_retrainOwed (c : Nat) (v : Ctx) (s : State) : (ctxSet c v s).retrainOwed = s.retrainOwed := rfl
@[simp] theorem ctxSet_pldmTo (c : Nat) (v : Ctx) (s : State) : (ctxSet c v s).pldmTo = s.pldmTo := rfl
@[simp] theorem ctxSet_cfgSpace (c : Nat) (v : Ctx) (s : State) : (ctxSet c v s).cfgSpace = s.cfgSpace := rfl
@[simp] theorem ctxSet_bias (c : Nat) (v : Ctx) (s : State) : (ctxSet c v s).bias = s.bias := rfl
@[simp] theorem ctxSet_perst (c : Nat) (v : Ctx) (s : State) : (ctxSet c v s).perst = s.perst := rfl
@[simp] theorem ctxSet_tripped (c : Nat) (v : Ctx) (s : State) : (ctxSet c v s).tripped = s.tripped := rfl
@[simp] theorem ctxSet_cold (c : Nat) (v : Ctx) (s : State) : (ctxSet c v s).cold = s.cold := rfl
@[simp] theorem ctxSet_wakeLow (c : Nat) (v : Ctx) (s : State) : (ctxSet c v s).wakeLow = s.wakeLow := rfl
@[simp] theorem ctxSet_rounds (c : Nat) (v : Ctx) (s : State) : (ctxSet c v s).rounds = s.rounds := rfl
@[simp] theorem ctxSet_fwMissing (c : Nat) (v : Ctx) (s : State) : (ctxSet c v s).fwMissing = s.fwMissing := rfl
@[simp] theorem ctxSet_sramSpares (c : Nat) (v : Ctx) (s : State) : (ctxSet c v s).sramSpares = s.sramSpares := rfl
@[simp] theorem ctxSet_siteLanes (c : Nat) (v : Ctx) (s : State) : (ctxSet c v s).siteLanes = s.siteLanes := rfl
@[simp] theorem ctxSet_clearAll (c : Nat) (v : Ctx) (s : State) : (ctxSet c v s).clearAll = s.clearAll := rfl
@[simp] theorem ctxSet_unsecure (c : Nat) (v : Ctx) (s : State) : (ctxSet c v s).unsecure = s.unsecure := rfl
@[simp] theorem ctxSet_usable (c : Nat) (v : Ctx) (s : State) : (ctxSet c v s).usable = s.usable := rfl
@[simp] theorem ctxSet_hdm (c : Nat) (v : Ctx) (s : State) : (ctxSet c v s).hdm = s.hdm := rfl
@[simp] theorem ctxSet_msix (c : Nat) (v : Ctx) (s : State) : (ctxSet c v s).msix = s.msix := rfl
@[simp] theorem ctxSet_pba (c : Nat) (v : Ctx) (s : State) : (ctxSet c v s).pba = s.pba := rfl
@[simp] theorem ctxSet_ackOwed (c : Nat) (v : Ctx) (s : State) : (ctxSet c v s).ackOwed = s.ackOwed := rfl
@[simp] theorem ctxSet_invs (c : Nat) (v : Ctx) (s : State) : (ctxSet c v s).invs = s.invs := rfl
@[simp] theorem ctxSet_injDone (c : Nat) (v : Ctx) (s : State) : (ctxSet c v s).injDone = s.injDone := rfl
@[simp] theorem ctxSet_snapOwed (c : Nat) (v : Ctx) (s : State) : (ctxSet c v s).snapOwed = s.snapOwed := rfl
@[simp] theorem ctxSet_tpOwed (c : Nat) (v : Ctx) (s : State) : (ctxSet c v s).tpOwed = s.tpOwed := rfl
@[simp] theorem ctxSet_tpClear (c : Nat) (v : Ctx) (s : State) : (ctxSet c v s).tpClear = s.tpClear := rfl
@[simp] theorem ctxSet_failOwed (c : Nat) (v : Ctx) (s : State) : (ctxSet c v s).failOwed = s.failOwed := rfl
@[simp] theorem ctxSet_fresh (c : Nat) (v : Ctx) (s : State) : (ctxSet c v s).fresh = s.fresh := rfl

/-! ### queueSet -/

@[simp] theorem queueSet_pending (q : Nat) (v : QDesc) (s : State) : (queueSet q v s).pending = s.pending := rfl
@[simp] theorem queueSet_regs (q : Nat) (v : QDesc) (s : State) : (queueSet q v s).regs = s.regs := rfl
@[simp] theorem queueSet_mem (q : Nat) (v : QDesc) (s : State) : (queueSet q v s).mem = s.mem := rfl
@[simp] theorem queueSet_store (q : Nat) (v : QDesc) (s : State) : (queueSet q v s).store = s.store := rfl
@[simp] theorem queueSet_tiles (q : Nat) (v : QDesc) (s : State) : (queueSet q v s).tiles = s.tiles := rfl
@[simp] theorem queueSet_bays (q : Nat) (v : QDesc) (s : State) : (queueSet q v s).bays = s.bays := rfl
@[simp] theorem queueSet_parts (q : Nat) (v : QDesc) (s : State) : (queueSet q v s).parts = s.parts := rfl
@[simp] theorem queueSet_ready (q : Nat) (v : QDesc) (s : State) : (queueSet q v s).ready = s.ready := rfl
@[simp] theorem queueSet_snap (q : Nat) (v : QDesc) (s : State) : (queueSet q v s).snap = s.snap := rfl
@[simp] theorem queueSet_ctxs (q : Nat) (v : QDesc) (s : State) : (queueSet q v s).ctxs = s.ctxs := rfl
@[simp] theorem queueSet_fences (q : Nat) (v : QDesc) (s : State) : (queueSet q v s).fences = s.fences := rfl
@[simp] theorem queueSet_cmds (q : Nat) (v : QDesc) (s : State) : (queueSet q v s).cmds = s.cmds := rfl
@[simp] theorem queueSet_nextCmd (q : Nat) (v : QDesc) (s : State) : (queueSet q v s).nextCmd = s.nextCmd := rfl
@[simp] theorem queueSet_errq (q : Nat) (v : QDesc) (s : State) : (queueSet q v s).errq = s.errq := rfl
@[simp] theorem queueSet_errSeen (q : Nat) (v : QDesc) (s : State) : (queueSet q v s).errSeen = s.errSeen := rfl
@[simp] theorem queueSet_errLost (q : Nat) (v : QDesc) (s : State) : (queueSet q v s).errLost = s.errLost := rfl
@[simp] theorem queueSet_errNext (q : Nat) (v : QDesc) (s : State) : (queueSet q v s).errNext = s.errNext := rfl
@[simp] theorem queueSet_errIrqWait (q : Nat) (v : QDesc) (s : State) : (queueSet q v s).errIrqWait = s.errIrqWait := rfl
@[simp] theorem queueSet_errIrqOwed (q : Nat) (v : QDesc) (s : State) : (queueSet q v s).errIrqOwed = s.errIrqOwed := rfl
@[simp] theorem queueSet_out (q : Nat) (v : QDesc) (s : State) : (queueSet q v s).out = s.out := rfl
@[simp] theorem queueSet_lost (q : Nat) (v : QDesc) (s : State) : (queueSet q v s).lost = s.lost := rfl
@[simp] theorem queueSet_atc (q : Nat) (v : QDesc) (s : State) : (queueSet q v s).atc = s.atc := rfl
@[simp] theorem queueSet_pins (q : Nat) (v : QDesc) (s : State) : (queueSet q v s).pins = s.pins := rfl
@[simp] theorem queueSet_unacked (q : Nat) (v : QDesc) (s : State) : (queueSet q v s).unacked = s.unacked := rfl
@[simp] theorem queueSet_d3 (q : Nat) (v : QDesc) (s : State) : (queueSet q v s).d3 = s.d3 := rfl
@[simp] theorem queueSet_idn (q : Nat) (v : QDesc) (s : State) : (queueSet q v s).idn = s.idn := rfl
@[simp] theorem queueSet_idnReqs (q : Nat) (v : QDesc) (s : State) : (queueSet q v s).idnReqs = s.idnReqs := rfl
@[simp] theorem queueSet_rwo (q : Nat) (v : QDesc) (s : State) : (queueSet q v s).rwo = s.rwo := rfl
@[simp] theorem queueSet_joins (q : Nat) (v : QDesc) (s : State) : (queueSet q v s).joins = s.joins := rfl
@[simp] theorem queueSet_edges (q : Nat) (v : QDesc) (s : State) : (queueSet q v s).edges = s.edges := rfl
@[simp] theorem queueSet_dom (q : Nat) (v : QDesc) (s : State) : (queueSet q v s).dom = s.dom := rfl
@[simp] theorem queueSet_cfg (q : Nat) (v : QDesc) (s : State) : (queueSet q v s).cfg = s.cfg := rfl
@[simp] theorem queueSet_mapouts (q : Nat) (v : QDesc) (s : State) : (queueSet q v s).mapouts = s.mapouts := rfl
@[simp] theorem queueSet_repairs (q : Nat) (v : QDesc) (s : State) : (queueSet q v s).repairs = s.repairs := rfl
@[simp] theorem queueSet_wcb (q : Nat) (v : QDesc) (s : State) : (queueSet q v s).wcb = s.wcb := rfl
@[simp] theorem queueSet_wback (q : Nat) (v : QDesc) (s : State) : (queueSet q v s).wback = s.wback := rfl
@[simp] theorem queueSet_ceRows (q : Nat) (v : QDesc) (s : State) : (queueSet q v s).ceRows = s.ceRows := rfl
@[simp] theorem queueSet_retrains (q : Nat) (v : QDesc) (s : State) : (queueSet q v s).retrains = s.retrains := rfl
@[simp] theorem queueSet_training (q : Nat) (v : QDesc) (s : State) : (queueSet q v s).training = s.training := rfl
@[simp] theorem queueSet_repairedAt (q : Nat) (v : QDesc) (s : State) : (queueSet q v s).repairedAt = s.repairedAt := rfl
@[simp] theorem queueSet_ledger (q : Nat) (v : QDesc) (s : State) : (queueSet q v s).ledger = s.ledger := rfl
@[simp] theorem queueSet_ledgerA (q : Nat) (v : QDesc) (s : State) : (queueSet q v s).ledgerA = s.ledgerA := rfl
@[simp] theorem queueSet_ledgerB (q : Nat) (v : QDesc) (s : State) : (queueSet q v s).ledgerB = s.ledgerB := rfl
@[simp] theorem queueSet_ledgerBusy (q : Nat) (v : QDesc) (s : State) : (queueSet q v s).ledgerBusy = s.ledgerBusy := rfl
@[simp] theorem queueSet_ledgerDirty (q : Nat) (v : QDesc) (s : State) : (queueSet q v s).ledgerDirty = s.ledgerDirty := rfl
@[simp] theorem queueSet_pageReports (q : Nat) (v : QDesc) (s : State) : (queueSet q v s).pageReports = s.pageReports := rfl
@[simp] theorem queueSet_pagesTold (q : Nat) (v : QDesc) (s : State) : (queueSet q v s).pagesTold = s.pagesTold := rfl
@[simp] theorem queueSet_fenKeys (q : Nat) (v : QDesc) (s : State) : (queueSet q v s).fenKeys = s.fenKeys := rfl
@[simp] theorem queueSet_keyMap (q : Nat) (v : QDesc) (s : State) : (queueSet q v s).keyMap = s.keyMap := rfl
@[simp] theorem queueSet_clearQ (q : Nat) (v : QDesc) (s : State) : (queueSet q v s).clearQ = s.clearQ := rfl
@[simp] theorem queueSet_slcCount (q : Nat) (v : QDesc) (s : State) : (queueSet q v s).slcCount = s.slcCount := rfl
@[simp] theorem queueSet_slcShares (q : Nat) (v : QDesc) (s : State) : (queueSet q v s).slcShares = s.slcShares := rfl
@[simp] theorem queueSet_slcOwed (q : Nat) (v : QDesc) (s : State) : (queueSet q v s).slcOwed = s.slcOwed := rfl
@[simp] theorem queueSet_otp (q : Nat) (v : QDesc) (s : State) : (queueSet q v s).otp = s.otp := rfl
@[simp] theorem queueSet_otpJobs (q : Nat) (v : QDesc) (s : State) : (queueSet q v s).otpJobs = s.otpJobs := rfl
@[simp] theorem queueSet_flash (q : Nat) (v : QDesc) (s : State) : (queueSet q v s).flash = s.flash := rfl
@[simp] theorem queueSet_flashJobs (q : Nat) (v : QDesc) (s : State) : (queueSet q v s).flashJobs = s.flashJobs := rfl
@[simp] theorem queueSet_badTiles (q : Nat) (v : QDesc) (s : State) : (queueSet q v s).badTiles = s.badTiles := rfl
@[simp] theorem queueSet_badBays (q : Nat) (v : QDesc) (s : State) : (queueSet q v s).badBays = s.badBays := rfl
@[simp] theorem queueSet_bayMap (q : Nat) (v : QDesc) (s : State) : (queueSet q v s).bayMap = s.bayMap := rfl
@[simp] theorem queueSet_bridgeSpares (q : Nat) (v : QDesc) (s : State) : (queueSet q v s).bridgeSpares = s.bridgeSpares := rfl
@[simp] theorem queueSet_sites (q : Nat) (v : QDesc) (s : State) : (queueSet q v s).sites = s.sites := rfl
@[simp] theorem queueSet_netReqs (q : Nat) (v : QDesc) (s : State) : (queueSet q v s).netReqs = s.netReqs := rfl
@[simp] theorem queueSet_netUsed (q : Nat) (v : QDesc) (s : State) : (queueSet q v s).netUsed = s.netUsed := rfl
@[simp] theorem queueSet_netReset (q : Nat) (v : QDesc) (s : State) : (queueSet q v s).netReset = s.netReset := rfl
@[simp] theorem queueSet_traces (q : Nat) (v : QDesc) (s : State) : (queueSet q v s).traces = s.traces := rfl
@[simp] theorem queueSet_slices (q : Nat) (v : QDesc) (s : State) : (queueSet q v s).slices = s.slices := rfl
@[simp] theorem queueSet_cohHold (q : Nat) (v : QDesc) (s : State) : (queueSet q v s).cohHold = s.cohHold := rfl
@[simp] theorem queueSet_cohWait (q : Nat) (v : QDesc) (s : State) : (queueSet q v s).cohWait = s.cohWait := rfl
@[simp] theorem queueSet_ccLines (q : Nat) (v : QDesc) (s : State) : (queueSet q v s).ccLines = s.ccLines := rfl
@[simp] theorem queueSet_lossOwed (q : Nat) (v : QDesc) (s : State) : (queueSet q v s).lossOwed = s.lossOwed := rfl
@[simp] theorem queueSet_removing (q : Nat) (v : QDesc) (s : State) : (queueSet q v s).removing = s.removing := rfl
@[simp] theorem queueSet_resetOwed (q : Nat) (v : QDesc) (s : State) : (queueSet q v s).resetOwed = s.resetOwed := rfl
@[simp] theorem queueSet_fwOwed (q : Nat) (v : QDesc) (s : State) : (queueSet q v s).fwOwed = s.fwOwed := rfl
@[simp] theorem queueSet_failRestart (q : Nat) (v : QDesc) (s : State) : (queueSet q v s).failRestart = s.failRestart := rfl
@[simp] theorem queueSet_rstLow (q : Nat) (v : QDesc) (s : State) : (queueSet q v s).rstLow = s.rstLow := rfl
@[simp] theorem queueSet_imgNext (q : Nat) (v : QDesc) (s : State) : (queueSet q v s).imgNext = s.imgNext := rfl
@[simp] theorem queueSet_imgHash (q : Nat) (v : QDesc) (s : State) : (queueSet q v s).imgHash = s.imgHash := rfl
@[simp] theorem queueSet_licHash (q : Nat) (v : QDesc) (s : State) : (queueSet q v s).licHash = s.licHash := rfl
@[simp] theorem queueSet_cfgHash (q : Nat) (v : QDesc) (s : State) : (queueSet q v s).cfgHash = s.cfgHash := rfl
@[simp] theorem queueSet_ident (q : Nat) (v : QDesc) (s : State) : (queueSet q v s).ident = s.ident := rfl
@[simp] theorem queueSet_nonce (q : Nat) (v : QDesc) (s : State) : (queueSet q v s).nonce = s.nonce := rfl
@[simp] theorem queueSet_spdm (q : Nat) (v : QDesc) (s : State) : (queueSet q v s).spdm = s.spdm := rfl
@[simp] theorem queueSet_ide (q : Nat) (v : QDesc) (s : State) : (queueSet q v s).ide = s.ide := rfl
@[simp] theorem queueSet_hot (q : Nat) (v : QDesc) (s : State) : (queueSet q v s).hot = s.hot := rfl
@[simp] theorem queueSet_temps (q : Nat) (v : QDesc) (s : State) : (queueSet q v s).temps = s.temps := rfl
@[simp] theorem queueSet_errMgmt (q : Nat) (v : QDesc) (s : State) : (queueSet q v s).errMgmt = s.errMgmt := rfl
@[simp] theorem queueSet_retrainOwed (q : Nat) (v : QDesc) (s : State) : (queueSet q v s).retrainOwed = s.retrainOwed := rfl
@[simp] theorem queueSet_pldmTo (q : Nat) (v : QDesc) (s : State) : (queueSet q v s).pldmTo = s.pldmTo := rfl
@[simp] theorem queueSet_cfgSpace (q : Nat) (v : QDesc) (s : State) : (queueSet q v s).cfgSpace = s.cfgSpace := rfl
@[simp] theorem queueSet_bias (q : Nat) (v : QDesc) (s : State) : (queueSet q v s).bias = s.bias := rfl
@[simp] theorem queueSet_perst (q : Nat) (v : QDesc) (s : State) : (queueSet q v s).perst = s.perst := rfl
@[simp] theorem queueSet_tripped (q : Nat) (v : QDesc) (s : State) : (queueSet q v s).tripped = s.tripped := rfl
@[simp] theorem queueSet_cold (q : Nat) (v : QDesc) (s : State) : (queueSet q v s).cold = s.cold := rfl
@[simp] theorem queueSet_wakeLow (q : Nat) (v : QDesc) (s : State) : (queueSet q v s).wakeLow = s.wakeLow := rfl
@[simp] theorem queueSet_rounds (q : Nat) (v : QDesc) (s : State) : (queueSet q v s).rounds = s.rounds := rfl
@[simp] theorem queueSet_fwMissing (q : Nat) (v : QDesc) (s : State) : (queueSet q v s).fwMissing = s.fwMissing := rfl
@[simp] theorem queueSet_sramSpares (q : Nat) (v : QDesc) (s : State) : (queueSet q v s).sramSpares = s.sramSpares := rfl
@[simp] theorem queueSet_siteLanes (q : Nat) (v : QDesc) (s : State) : (queueSet q v s).siteLanes = s.siteLanes := rfl
@[simp] theorem queueSet_clearAll (q : Nat) (v : QDesc) (s : State) : (queueSet q v s).clearAll = s.clearAll := rfl
@[simp] theorem queueSet_unsecure (q : Nat) (v : QDesc) (s : State) : (queueSet q v s).unsecure = s.unsecure := rfl
@[simp] theorem queueSet_usable (q : Nat) (v : QDesc) (s : State) : (queueSet q v s).usable = s.usable := rfl
@[simp] theorem queueSet_hdm (q : Nat) (v : QDesc) (s : State) : (queueSet q v s).hdm = s.hdm := rfl
@[simp] theorem queueSet_msix (q : Nat) (v : QDesc) (s : State) : (queueSet q v s).msix = s.msix := rfl
@[simp] theorem queueSet_pba (q : Nat) (v : QDesc) (s : State) : (queueSet q v s).pba = s.pba := rfl
@[simp] theorem queueSet_ackOwed (q : Nat) (v : QDesc) (s : State) : (queueSet q v s).ackOwed = s.ackOwed := rfl
@[simp] theorem queueSet_invs (q : Nat) (v : QDesc) (s : State) : (queueSet q v s).invs = s.invs := rfl
@[simp] theorem queueSet_injDone (q : Nat) (v : QDesc) (s : State) : (queueSet q v s).injDone = s.injDone := rfl
@[simp] theorem queueSet_snapOwed (q : Nat) (v : QDesc) (s : State) : (queueSet q v s).snapOwed = s.snapOwed := rfl
@[simp] theorem queueSet_tpOwed (q : Nat) (v : QDesc) (s : State) : (queueSet q v s).tpOwed = s.tpOwed := rfl
@[simp] theorem queueSet_tpClear (q : Nat) (v : QDesc) (s : State) : (queueSet q v s).tpClear = s.tpClear := rfl
@[simp] theorem queueSet_failOwed (q : Nat) (v : QDesc) (s : State) : (queueSet q v s).failOwed = s.failOwed := rfl
@[simp] theorem queueSet_fresh (q : Nat) (v : QDesc) (s : State) : (queueSet q v s).fresh = s.fresh := rfl

/-! ### emit -/

@[simp] theorem emit_pending (c : Chan) (k : Nat) (as : List Nat) (d : List Byte) (s : State) : (emit c k as d s).pending = s.pending := rfl
@[simp] theorem emit_regs (c : Chan) (k : Nat) (as : List Nat) (d : List Byte) (s : State) : (emit c k as d s).regs = s.regs := rfl
@[simp] theorem emit_mem (c : Chan) (k : Nat) (as : List Nat) (d : List Byte) (s : State) : (emit c k as d s).mem = s.mem := rfl
@[simp] theorem emit_store (c : Chan) (k : Nat) (as : List Nat) (d : List Byte) (s : State) : (emit c k as d s).store = s.store := rfl
@[simp] theorem emit_tiles (c : Chan) (k : Nat) (as : List Nat) (d : List Byte) (s : State) : (emit c k as d s).tiles = s.tiles := rfl
@[simp] theorem emit_bays (c : Chan) (k : Nat) (as : List Nat) (d : List Byte) (s : State) : (emit c k as d s).bays = s.bays := rfl
@[simp] theorem emit_parts (c : Chan) (k : Nat) (as : List Nat) (d : List Byte) (s : State) : (emit c k as d s).parts = s.parts := rfl
@[simp] theorem emit_ready (c : Chan) (k : Nat) (as : List Nat) (d : List Byte) (s : State) : (emit c k as d s).ready = s.ready := rfl
@[simp] theorem emit_snap (c : Chan) (k : Nat) (as : List Nat) (d : List Byte) (s : State) : (emit c k as d s).snap = s.snap := rfl
@[simp] theorem emit_ctxs (c : Chan) (k : Nat) (as : List Nat) (d : List Byte) (s : State) : (emit c k as d s).ctxs = s.ctxs := rfl
@[simp] theorem emit_queues (c : Chan) (k : Nat) (as : List Nat) (d : List Byte) (s : State) : (emit c k as d s).queues = s.queues := rfl
@[simp] theorem emit_fences (c : Chan) (k : Nat) (as : List Nat) (d : List Byte) (s : State) : (emit c k as d s).fences = s.fences := rfl
@[simp] theorem emit_cmds (c : Chan) (k : Nat) (as : List Nat) (d : List Byte) (s : State) : (emit c k as d s).cmds = s.cmds := rfl
@[simp] theorem emit_nextCmd (c : Chan) (k : Nat) (as : List Nat) (d : List Byte) (s : State) : (emit c k as d s).nextCmd = s.nextCmd := rfl
@[simp] theorem emit_errq (c : Chan) (k : Nat) (as : List Nat) (d : List Byte) (s : State) : (emit c k as d s).errq = s.errq := rfl
@[simp] theorem emit_errSeen (c : Chan) (k : Nat) (as : List Nat) (d : List Byte) (s : State) : (emit c k as d s).errSeen = s.errSeen := rfl
@[simp] theorem emit_errLost (c : Chan) (k : Nat) (as : List Nat) (d : List Byte) (s : State) : (emit c k as d s).errLost = s.errLost := rfl
@[simp] theorem emit_errNext (c : Chan) (k : Nat) (as : List Nat) (d : List Byte) (s : State) : (emit c k as d s).errNext = s.errNext := rfl
@[simp] theorem emit_errIrqWait (c : Chan) (k : Nat) (as : List Nat) (d : List Byte) (s : State) : (emit c k as d s).errIrqWait = s.errIrqWait := rfl
@[simp] theorem emit_errIrqOwed (c : Chan) (k : Nat) (as : List Nat) (d : List Byte) (s : State) : (emit c k as d s).errIrqOwed = s.errIrqOwed := rfl
@[simp] theorem emit_lost (c : Chan) (k : Nat) (as : List Nat) (d : List Byte) (s : State) : (emit c k as d s).lost = s.lost := rfl
@[simp] theorem emit_atc (c : Chan) (k : Nat) (as : List Nat) (d : List Byte) (s : State) : (emit c k as d s).atc = s.atc := rfl
@[simp] theorem emit_pins (c : Chan) (k : Nat) (as : List Nat) (d : List Byte) (s : State) : (emit c k as d s).pins = s.pins := rfl
@[simp] theorem emit_unacked (c : Chan) (k : Nat) (as : List Nat) (d : List Byte) (s : State) : (emit c k as d s).unacked = s.unacked := rfl
@[simp] theorem emit_d3 (c : Chan) (k : Nat) (as : List Nat) (d : List Byte) (s : State) : (emit c k as d s).d3 = s.d3 := rfl
@[simp] theorem emit_idn (c : Chan) (k : Nat) (as : List Nat) (d : List Byte) (s : State) : (emit c k as d s).idn = s.idn := rfl
@[simp] theorem emit_idnReqs (c : Chan) (k : Nat) (as : List Nat) (d : List Byte) (s : State) : (emit c k as d s).idnReqs = s.idnReqs := rfl
@[simp] theorem emit_rwo (c : Chan) (k : Nat) (as : List Nat) (d : List Byte) (s : State) : (emit c k as d s).rwo = s.rwo := rfl
@[simp] theorem emit_joins (c : Chan) (k : Nat) (as : List Nat) (d : List Byte) (s : State) : (emit c k as d s).joins = s.joins := rfl
@[simp] theorem emit_edges (c : Chan) (k : Nat) (as : List Nat) (d : List Byte) (s : State) : (emit c k as d s).edges = s.edges := rfl
@[simp] theorem emit_dom (c : Chan) (k : Nat) (as : List Nat) (d : List Byte) (s : State) : (emit c k as d s).dom = s.dom := rfl
@[simp] theorem emit_cfg (c : Chan) (k : Nat) (as : List Nat) (d : List Byte) (s : State) : (emit c k as d s).cfg = s.cfg := rfl
@[simp] theorem emit_mapouts (c : Chan) (k : Nat) (as : List Nat) (d : List Byte) (s : State) : (emit c k as d s).mapouts = s.mapouts := rfl
@[simp] theorem emit_repairs (c : Chan) (k : Nat) (as : List Nat) (d : List Byte) (s : State) : (emit c k as d s).repairs = s.repairs := rfl
@[simp] theorem emit_wcb (c : Chan) (k : Nat) (as : List Nat) (d : List Byte) (s : State) : (emit c k as d s).wcb = s.wcb := rfl
@[simp] theorem emit_wback (c : Chan) (k : Nat) (as : List Nat) (d : List Byte) (s : State) : (emit c k as d s).wback = s.wback := rfl
@[simp] theorem emit_ceRows (c : Chan) (k : Nat) (as : List Nat) (d : List Byte) (s : State) : (emit c k as d s).ceRows = s.ceRows := rfl
@[simp] theorem emit_retrains (c : Chan) (k : Nat) (as : List Nat) (d : List Byte) (s : State) : (emit c k as d s).retrains = s.retrains := rfl
@[simp] theorem emit_training (c : Chan) (k : Nat) (as : List Nat) (d : List Byte) (s : State) : (emit c k as d s).training = s.training := rfl
@[simp] theorem emit_repairedAt (c : Chan) (k : Nat) (as : List Nat) (d : List Byte) (s : State) : (emit c k as d s).repairedAt = s.repairedAt := rfl
@[simp] theorem emit_ledger (c : Chan) (k : Nat) (as : List Nat) (d : List Byte) (s : State) : (emit c k as d s).ledger = s.ledger := rfl
@[simp] theorem emit_ledgerA (c : Chan) (k : Nat) (as : List Nat) (d : List Byte) (s : State) : (emit c k as d s).ledgerA = s.ledgerA := rfl
@[simp] theorem emit_ledgerB (c : Chan) (k : Nat) (as : List Nat) (d : List Byte) (s : State) : (emit c k as d s).ledgerB = s.ledgerB := rfl
@[simp] theorem emit_ledgerBusy (c : Chan) (k : Nat) (as : List Nat) (d : List Byte) (s : State) : (emit c k as d s).ledgerBusy = s.ledgerBusy := rfl
@[simp] theorem emit_ledgerDirty (c : Chan) (k : Nat) (as : List Nat) (d : List Byte) (s : State) : (emit c k as d s).ledgerDirty = s.ledgerDirty := rfl
@[simp] theorem emit_pageReports (c : Chan) (k : Nat) (as : List Nat) (d : List Byte) (s : State) : (emit c k as d s).pageReports = s.pageReports := rfl
@[simp] theorem emit_pagesTold (c : Chan) (k : Nat) (as : List Nat) (d : List Byte) (s : State) : (emit c k as d s).pagesTold = s.pagesTold := rfl
@[simp] theorem emit_fenKeys (c : Chan) (k : Nat) (as : List Nat) (d : List Byte) (s : State) : (emit c k as d s).fenKeys = s.fenKeys := rfl
@[simp] theorem emit_keyMap (c : Chan) (k : Nat) (as : List Nat) (d : List Byte) (s : State) : (emit c k as d s).keyMap = s.keyMap := rfl
@[simp] theorem emit_clearQ (c : Chan) (k : Nat) (as : List Nat) (d : List Byte) (s : State) : (emit c k as d s).clearQ = s.clearQ := rfl
@[simp] theorem emit_slcCount (c : Chan) (k : Nat) (as : List Nat) (d : List Byte) (s : State) : (emit c k as d s).slcCount = s.slcCount := rfl
@[simp] theorem emit_slcShares (c : Chan) (k : Nat) (as : List Nat) (d : List Byte) (s : State) : (emit c k as d s).slcShares = s.slcShares := rfl
@[simp] theorem emit_slcOwed (c : Chan) (k : Nat) (as : List Nat) (d : List Byte) (s : State) : (emit c k as d s).slcOwed = s.slcOwed := rfl
@[simp] theorem emit_otp (c : Chan) (k : Nat) (as : List Nat) (d : List Byte) (s : State) : (emit c k as d s).otp = s.otp := rfl
@[simp] theorem emit_otpJobs (c : Chan) (k : Nat) (as : List Nat) (d : List Byte) (s : State) : (emit c k as d s).otpJobs = s.otpJobs := rfl
@[simp] theorem emit_flash (c : Chan) (k : Nat) (as : List Nat) (d : List Byte) (s : State) : (emit c k as d s).flash = s.flash := rfl
@[simp] theorem emit_flashJobs (c : Chan) (k : Nat) (as : List Nat) (d : List Byte) (s : State) : (emit c k as d s).flashJobs = s.flashJobs := rfl
@[simp] theorem emit_badTiles (c : Chan) (k : Nat) (as : List Nat) (d : List Byte) (s : State) : (emit c k as d s).badTiles = s.badTiles := rfl
@[simp] theorem emit_badBays (c : Chan) (k : Nat) (as : List Nat) (d : List Byte) (s : State) : (emit c k as d s).badBays = s.badBays := rfl
@[simp] theorem emit_bayMap (c : Chan) (k : Nat) (as : List Nat) (d : List Byte) (s : State) : (emit c k as d s).bayMap = s.bayMap := rfl
@[simp] theorem emit_bridgeSpares (c : Chan) (k : Nat) (as : List Nat) (d : List Byte) (s : State) : (emit c k as d s).bridgeSpares = s.bridgeSpares := rfl
@[simp] theorem emit_sites (c : Chan) (k : Nat) (as : List Nat) (d : List Byte) (s : State) : (emit c k as d s).sites = s.sites := rfl
@[simp] theorem emit_netReqs (c : Chan) (k : Nat) (as : List Nat) (d : List Byte) (s : State) : (emit c k as d s).netReqs = s.netReqs := rfl
@[simp] theorem emit_netUsed (c : Chan) (k : Nat) (as : List Nat) (d : List Byte) (s : State) : (emit c k as d s).netUsed = s.netUsed := rfl
@[simp] theorem emit_netReset (c : Chan) (k : Nat) (as : List Nat) (d : List Byte) (s : State) : (emit c k as d s).netReset = s.netReset := rfl
@[simp] theorem emit_traces (c : Chan) (k : Nat) (as : List Nat) (d : List Byte) (s : State) : (emit c k as d s).traces = s.traces := rfl
@[simp] theorem emit_slices (c : Chan) (k : Nat) (as : List Nat) (d : List Byte) (s : State) : (emit c k as d s).slices = s.slices := rfl
@[simp] theorem emit_cohHold (c : Chan) (k : Nat) (as : List Nat) (d : List Byte) (s : State) : (emit c k as d s).cohHold = s.cohHold := rfl
@[simp] theorem emit_cohWait (c : Chan) (k : Nat) (as : List Nat) (d : List Byte) (s : State) : (emit c k as d s).cohWait = s.cohWait := rfl
@[simp] theorem emit_ccLines (c : Chan) (k : Nat) (as : List Nat) (d : List Byte) (s : State) : (emit c k as d s).ccLines = s.ccLines := rfl
@[simp] theorem emit_lossOwed (c : Chan) (k : Nat) (as : List Nat) (d : List Byte) (s : State) : (emit c k as d s).lossOwed = s.lossOwed := rfl
@[simp] theorem emit_removing (c : Chan) (k : Nat) (as : List Nat) (d : List Byte) (s : State) : (emit c k as d s).removing = s.removing := rfl
@[simp] theorem emit_resetOwed (c : Chan) (k : Nat) (as : List Nat) (d : List Byte) (s : State) : (emit c k as d s).resetOwed = s.resetOwed := rfl
@[simp] theorem emit_fwOwed (c : Chan) (k : Nat) (as : List Nat) (d : List Byte) (s : State) : (emit c k as d s).fwOwed = s.fwOwed := rfl
@[simp] theorem emit_failRestart (c : Chan) (k : Nat) (as : List Nat) (d : List Byte) (s : State) : (emit c k as d s).failRestart = s.failRestart := rfl
@[simp] theorem emit_rstLow (c : Chan) (k : Nat) (as : List Nat) (d : List Byte) (s : State) : (emit c k as d s).rstLow = s.rstLow := rfl
@[simp] theorem emit_imgNext (c : Chan) (k : Nat) (as : List Nat) (d : List Byte) (s : State) : (emit c k as d s).imgNext = s.imgNext := rfl
@[simp] theorem emit_imgHash (c : Chan) (k : Nat) (as : List Nat) (d : List Byte) (s : State) : (emit c k as d s).imgHash = s.imgHash := rfl
@[simp] theorem emit_licHash (c : Chan) (k : Nat) (as : List Nat) (d : List Byte) (s : State) : (emit c k as d s).licHash = s.licHash := rfl
@[simp] theorem emit_cfgHash (c : Chan) (k : Nat) (as : List Nat) (d : List Byte) (s : State) : (emit c k as d s).cfgHash = s.cfgHash := rfl
@[simp] theorem emit_ident (c : Chan) (k : Nat) (as : List Nat) (d : List Byte) (s : State) : (emit c k as d s).ident = s.ident := rfl
@[simp] theorem emit_nonce (c : Chan) (k : Nat) (as : List Nat) (d : List Byte) (s : State) : (emit c k as d s).nonce = s.nonce := rfl
@[simp] theorem emit_spdm (c : Chan) (k : Nat) (as : List Nat) (d : List Byte) (s : State) : (emit c k as d s).spdm = s.spdm := rfl
@[simp] theorem emit_ide (c : Chan) (k : Nat) (as : List Nat) (d : List Byte) (s : State) : (emit c k as d s).ide = s.ide := rfl
@[simp] theorem emit_hot (c : Chan) (k : Nat) (as : List Nat) (d : List Byte) (s : State) : (emit c k as d s).hot = s.hot := rfl
@[simp] theorem emit_temps (c : Chan) (k : Nat) (as : List Nat) (d : List Byte) (s : State) : (emit c k as d s).temps = s.temps := rfl
@[simp] theorem emit_errMgmt (c : Chan) (k : Nat) (as : List Nat) (d : List Byte) (s : State) : (emit c k as d s).errMgmt = s.errMgmt := rfl
@[simp] theorem emit_retrainOwed (c : Chan) (k : Nat) (as : List Nat) (d : List Byte) (s : State) : (emit c k as d s).retrainOwed = s.retrainOwed := rfl
@[simp] theorem emit_pldmTo (c : Chan) (k : Nat) (as : List Nat) (d : List Byte) (s : State) : (emit c k as d s).pldmTo = s.pldmTo := rfl
@[simp] theorem emit_cfgSpace (c : Chan) (k : Nat) (as : List Nat) (d : List Byte) (s : State) : (emit c k as d s).cfgSpace = s.cfgSpace := rfl
@[simp] theorem emit_bias (c : Chan) (k : Nat) (as : List Nat) (d : List Byte) (s : State) : (emit c k as d s).bias = s.bias := rfl
@[simp] theorem emit_perst (c : Chan) (k : Nat) (as : List Nat) (d : List Byte) (s : State) : (emit c k as d s).perst = s.perst := rfl
@[simp] theorem emit_tripped (c : Chan) (k : Nat) (as : List Nat) (d : List Byte) (s : State) : (emit c k as d s).tripped = s.tripped := rfl
@[simp] theorem emit_cold (c : Chan) (k : Nat) (as : List Nat) (d : List Byte) (s : State) : (emit c k as d s).cold = s.cold := rfl
@[simp] theorem emit_wakeLow (c : Chan) (k : Nat) (as : List Nat) (d : List Byte) (s : State) : (emit c k as d s).wakeLow = s.wakeLow := rfl
@[simp] theorem emit_rounds (c : Chan) (k : Nat) (as : List Nat) (d : List Byte) (s : State) : (emit c k as d s).rounds = s.rounds := rfl
@[simp] theorem emit_fwMissing (c : Chan) (k : Nat) (as : List Nat) (d : List Byte) (s : State) : (emit c k as d s).fwMissing = s.fwMissing := rfl
@[simp] theorem emit_sramSpares (c : Chan) (k : Nat) (as : List Nat) (d : List Byte) (s : State) : (emit c k as d s).sramSpares = s.sramSpares := rfl
@[simp] theorem emit_siteLanes (c : Chan) (k : Nat) (as : List Nat) (d : List Byte) (s : State) : (emit c k as d s).siteLanes = s.siteLanes := rfl
@[simp] theorem emit_clearAll (c : Chan) (k : Nat) (as : List Nat) (d : List Byte) (s : State) : (emit c k as d s).clearAll = s.clearAll := rfl
@[simp] theorem emit_unsecure (c : Chan) (k : Nat) (as : List Nat) (d : List Byte) (s : State) : (emit c k as d s).unsecure = s.unsecure := rfl
@[simp] theorem emit_usable (c : Chan) (k : Nat) (as : List Nat) (d : List Byte) (s : State) : (emit c k as d s).usable = s.usable := rfl
@[simp] theorem emit_hdm (c : Chan) (k : Nat) (as : List Nat) (d : List Byte) (s : State) : (emit c k as d s).hdm = s.hdm := rfl
@[simp] theorem emit_msix (c : Chan) (k : Nat) (as : List Nat) (d : List Byte) (s : State) : (emit c k as d s).msix = s.msix := rfl
@[simp] theorem emit_pba (c : Chan) (k : Nat) (as : List Nat) (d : List Byte) (s : State) : (emit c k as d s).pba = s.pba := rfl
@[simp] theorem emit_ackOwed (c : Chan) (k : Nat) (as : List Nat) (d : List Byte) (s : State) : (emit c k as d s).ackOwed = s.ackOwed := rfl
@[simp] theorem emit_invs (c : Chan) (k : Nat) (as : List Nat) (d : List Byte) (s : State) : (emit c k as d s).invs = s.invs := rfl
@[simp] theorem emit_injDone (c : Chan) (k : Nat) (as : List Nat) (d : List Byte) (s : State) : (emit c k as d s).injDone = s.injDone := rfl
@[simp] theorem emit_snapOwed (c : Chan) (k : Nat) (as : List Nat) (d : List Byte) (s : State) : (emit c k as d s).snapOwed = s.snapOwed := rfl
@[simp] theorem emit_tpOwed (c : Chan) (k : Nat) (as : List Nat) (d : List Byte) (s : State) : (emit c k as d s).tpOwed = s.tpOwed := rfl
@[simp] theorem emit_tpClear (c : Chan) (k : Nat) (as : List Nat) (d : List Byte) (s : State) : (emit c k as d s).tpClear = s.tpClear := rfl
@[simp] theorem emit_failOwed (c : Chan) (k : Nat) (as : List Nat) (d : List Byte) (s : State) : (emit c k as d s).failOwed = s.failOwed := rfl
@[simp] theorem emit_fresh (c : Chan) (k : Nat) (as : List Nat) (d : List Byte) (s : State) : (emit c k as d s).fresh = s.fresh := rfl

/-! ### tickFresh -/

@[simp] theorem tickFresh_pending (s : State) : (tickFresh s).pending = s.pending := rfl
@[simp] theorem tickFresh_regs (s : State) : (tickFresh s).regs = s.regs := rfl
@[simp] theorem tickFresh_mem (s : State) : (tickFresh s).mem = s.mem := rfl
@[simp] theorem tickFresh_store (s : State) : (tickFresh s).store = s.store := rfl
@[simp] theorem tickFresh_tiles (s : State) : (tickFresh s).tiles = s.tiles := rfl
@[simp] theorem tickFresh_bays (s : State) : (tickFresh s).bays = s.bays := rfl
@[simp] theorem tickFresh_parts (s : State) : (tickFresh s).parts = s.parts := rfl
@[simp] theorem tickFresh_ready (s : State) : (tickFresh s).ready = s.ready := rfl
@[simp] theorem tickFresh_snap (s : State) : (tickFresh s).snap = s.snap := rfl
@[simp] theorem tickFresh_ctxs (s : State) : (tickFresh s).ctxs = s.ctxs := rfl
@[simp] theorem tickFresh_queues (s : State) : (tickFresh s).queues = s.queues := rfl
@[simp] theorem tickFresh_fences (s : State) : (tickFresh s).fences = s.fences := rfl
@[simp] theorem tickFresh_cmds (s : State) : (tickFresh s).cmds = s.cmds := rfl
@[simp] theorem tickFresh_nextCmd (s : State) : (tickFresh s).nextCmd = s.nextCmd := rfl
@[simp] theorem tickFresh_errq (s : State) : (tickFresh s).errq = s.errq := rfl
@[simp] theorem tickFresh_errSeen (s : State) : (tickFresh s).errSeen = s.errSeen := rfl
@[simp] theorem tickFresh_errLost (s : State) : (tickFresh s).errLost = s.errLost := rfl
@[simp] theorem tickFresh_errNext (s : State) : (tickFresh s).errNext = s.errNext := rfl
@[simp] theorem tickFresh_errIrqWait (s : State) : (tickFresh s).errIrqWait = s.errIrqWait := rfl
@[simp] theorem tickFresh_errIrqOwed (s : State) : (tickFresh s).errIrqOwed = s.errIrqOwed := rfl
@[simp] theorem tickFresh_out (s : State) : (tickFresh s).out = s.out := rfl
@[simp] theorem tickFresh_lost (s : State) : (tickFresh s).lost = s.lost := rfl
@[simp] theorem tickFresh_atc (s : State) : (tickFresh s).atc = s.atc := rfl
@[simp] theorem tickFresh_pins (s : State) : (tickFresh s).pins = s.pins := rfl
@[simp] theorem tickFresh_unacked (s : State) : (tickFresh s).unacked = s.unacked := rfl
@[simp] theorem tickFresh_d3 (s : State) : (tickFresh s).d3 = s.d3 := rfl
@[simp] theorem tickFresh_idn (s : State) : (tickFresh s).idn = s.idn := rfl
@[simp] theorem tickFresh_idnReqs (s : State) : (tickFresh s).idnReqs = s.idnReqs := rfl
@[simp] theorem tickFresh_rwo (s : State) : (tickFresh s).rwo = s.rwo := rfl
@[simp] theorem tickFresh_joins (s : State) : (tickFresh s).joins = s.joins := rfl
@[simp] theorem tickFresh_edges (s : State) : (tickFresh s).edges = s.edges := rfl
@[simp] theorem tickFresh_dom (s : State) : (tickFresh s).dom = s.dom := rfl
@[simp] theorem tickFresh_cfg (s : State) : (tickFresh s).cfg = s.cfg := rfl
@[simp] theorem tickFresh_mapouts (s : State) : (tickFresh s).mapouts = s.mapouts := rfl
@[simp] theorem tickFresh_repairs (s : State) : (tickFresh s).repairs = s.repairs := rfl
@[simp] theorem tickFresh_wcb (s : State) : (tickFresh s).wcb = s.wcb := rfl
@[simp] theorem tickFresh_wback (s : State) : (tickFresh s).wback = s.wback := rfl
@[simp] theorem tickFresh_ceRows (s : State) : (tickFresh s).ceRows = s.ceRows := rfl
@[simp] theorem tickFresh_retrains (s : State) : (tickFresh s).retrains = s.retrains := rfl
@[simp] theorem tickFresh_training (s : State) : (tickFresh s).training = s.training := rfl
@[simp] theorem tickFresh_repairedAt (s : State) : (tickFresh s).repairedAt = s.repairedAt := rfl
@[simp] theorem tickFresh_ledger (s : State) : (tickFresh s).ledger = s.ledger := rfl
@[simp] theorem tickFresh_ledgerA (s : State) : (tickFresh s).ledgerA = s.ledgerA := rfl
@[simp] theorem tickFresh_ledgerB (s : State) : (tickFresh s).ledgerB = s.ledgerB := rfl
@[simp] theorem tickFresh_ledgerBusy (s : State) : (tickFresh s).ledgerBusy = s.ledgerBusy := rfl
@[simp] theorem tickFresh_ledgerDirty (s : State) : (tickFresh s).ledgerDirty = s.ledgerDirty := rfl
@[simp] theorem tickFresh_pageReports (s : State) : (tickFresh s).pageReports = s.pageReports := rfl
@[simp] theorem tickFresh_pagesTold (s : State) : (tickFresh s).pagesTold = s.pagesTold := rfl
@[simp] theorem tickFresh_fenKeys (s : State) : (tickFresh s).fenKeys = s.fenKeys := rfl
@[simp] theorem tickFresh_keyMap (s : State) : (tickFresh s).keyMap = s.keyMap := rfl
@[simp] theorem tickFresh_clearQ (s : State) : (tickFresh s).clearQ = s.clearQ := rfl
@[simp] theorem tickFresh_slcCount (s : State) : (tickFresh s).slcCount = s.slcCount := rfl
@[simp] theorem tickFresh_slcShares (s : State) : (tickFresh s).slcShares = s.slcShares := rfl
@[simp] theorem tickFresh_slcOwed (s : State) : (tickFresh s).slcOwed = s.slcOwed := rfl
@[simp] theorem tickFresh_otp (s : State) : (tickFresh s).otp = s.otp := rfl
@[simp] theorem tickFresh_otpJobs (s : State) : (tickFresh s).otpJobs = s.otpJobs := rfl
@[simp] theorem tickFresh_flash (s : State) : (tickFresh s).flash = s.flash := rfl
@[simp] theorem tickFresh_flashJobs (s : State) : (tickFresh s).flashJobs = s.flashJobs := rfl
@[simp] theorem tickFresh_badTiles (s : State) : (tickFresh s).badTiles = s.badTiles := rfl
@[simp] theorem tickFresh_badBays (s : State) : (tickFresh s).badBays = s.badBays := rfl
@[simp] theorem tickFresh_bayMap (s : State) : (tickFresh s).bayMap = s.bayMap := rfl
@[simp] theorem tickFresh_bridgeSpares (s : State) : (tickFresh s).bridgeSpares = s.bridgeSpares := rfl
@[simp] theorem tickFresh_sites (s : State) : (tickFresh s).sites = s.sites := rfl
@[simp] theorem tickFresh_netReqs (s : State) : (tickFresh s).netReqs = s.netReqs := rfl
@[simp] theorem tickFresh_netUsed (s : State) : (tickFresh s).netUsed = s.netUsed := rfl
@[simp] theorem tickFresh_netReset (s : State) : (tickFresh s).netReset = s.netReset := rfl
@[simp] theorem tickFresh_traces (s : State) : (tickFresh s).traces = s.traces := rfl
@[simp] theorem tickFresh_slices (s : State) : (tickFresh s).slices = s.slices := rfl
@[simp] theorem tickFresh_cohHold (s : State) : (tickFresh s).cohHold = s.cohHold := rfl
@[simp] theorem tickFresh_cohWait (s : State) : (tickFresh s).cohWait = s.cohWait := rfl
@[simp] theorem tickFresh_ccLines (s : State) : (tickFresh s).ccLines = s.ccLines := rfl
@[simp] theorem tickFresh_lossOwed (s : State) : (tickFresh s).lossOwed = s.lossOwed := rfl
@[simp] theorem tickFresh_removing (s : State) : (tickFresh s).removing = s.removing := rfl
@[simp] theorem tickFresh_resetOwed (s : State) : (tickFresh s).resetOwed = s.resetOwed := rfl
@[simp] theorem tickFresh_fwOwed (s : State) : (tickFresh s).fwOwed = s.fwOwed := rfl
@[simp] theorem tickFresh_failRestart (s : State) : (tickFresh s).failRestart = s.failRestart := rfl
@[simp] theorem tickFresh_rstLow (s : State) : (tickFresh s).rstLow = s.rstLow := rfl
@[simp] theorem tickFresh_imgNext (s : State) : (tickFresh s).imgNext = s.imgNext := rfl
@[simp] theorem tickFresh_imgHash (s : State) : (tickFresh s).imgHash = s.imgHash := rfl
@[simp] theorem tickFresh_licHash (s : State) : (tickFresh s).licHash = s.licHash := rfl
@[simp] theorem tickFresh_cfgHash (s : State) : (tickFresh s).cfgHash = s.cfgHash := rfl
@[simp] theorem tickFresh_ident (s : State) : (tickFresh s).ident = s.ident := rfl
@[simp] theorem tickFresh_nonce (s : State) : (tickFresh s).nonce = s.nonce := rfl
@[simp] theorem tickFresh_spdm (s : State) : (tickFresh s).spdm = s.spdm := rfl
@[simp] theorem tickFresh_ide (s : State) : (tickFresh s).ide = s.ide := rfl
@[simp] theorem tickFresh_hot (s : State) : (tickFresh s).hot = s.hot := rfl
@[simp] theorem tickFresh_temps (s : State) : (tickFresh s).temps = s.temps := rfl
@[simp] theorem tickFresh_errMgmt (s : State) : (tickFresh s).errMgmt = s.errMgmt := rfl
@[simp] theorem tickFresh_retrainOwed (s : State) : (tickFresh s).retrainOwed = s.retrainOwed := rfl
@[simp] theorem tickFresh_pldmTo (s : State) : (tickFresh s).pldmTo = s.pldmTo := rfl
@[simp] theorem tickFresh_cfgSpace (s : State) : (tickFresh s).cfgSpace = s.cfgSpace := rfl
@[simp] theorem tickFresh_bias (s : State) : (tickFresh s).bias = s.bias := rfl
@[simp] theorem tickFresh_perst (s : State) : (tickFresh s).perst = s.perst := rfl
@[simp] theorem tickFresh_tripped (s : State) : (tickFresh s).tripped = s.tripped := rfl
@[simp] theorem tickFresh_cold (s : State) : (tickFresh s).cold = s.cold := rfl
@[simp] theorem tickFresh_wakeLow (s : State) : (tickFresh s).wakeLow = s.wakeLow := rfl
@[simp] theorem tickFresh_rounds (s : State) : (tickFresh s).rounds = s.rounds := rfl
@[simp] theorem tickFresh_fwMissing (s : State) : (tickFresh s).fwMissing = s.fwMissing := rfl
@[simp] theorem tickFresh_sramSpares (s : State) : (tickFresh s).sramSpares = s.sramSpares := rfl
@[simp] theorem tickFresh_siteLanes (s : State) : (tickFresh s).siteLanes = s.siteLanes := rfl
@[simp] theorem tickFresh_clearAll (s : State) : (tickFresh s).clearAll = s.clearAll := rfl
@[simp] theorem tickFresh_unsecure (s : State) : (tickFresh s).unsecure = s.unsecure := rfl
@[simp] theorem tickFresh_usable (s : State) : (tickFresh s).usable = s.usable := rfl
@[simp] theorem tickFresh_hdm (s : State) : (tickFresh s).hdm = s.hdm := rfl
@[simp] theorem tickFresh_msix (s : State) : (tickFresh s).msix = s.msix := rfl
@[simp] theorem tickFresh_pba (s : State) : (tickFresh s).pba = s.pba := rfl
@[simp] theorem tickFresh_ackOwed (s : State) : (tickFresh s).ackOwed = s.ackOwed := rfl
@[simp] theorem tickFresh_invs (s : State) : (tickFresh s).invs = s.invs := rfl
@[simp] theorem tickFresh_injDone (s : State) : (tickFresh s).injDone = s.injDone := rfl
@[simp] theorem tickFresh_snapOwed (s : State) : (tickFresh s).snapOwed = s.snapOwed := rfl
@[simp] theorem tickFresh_tpOwed (s : State) : (tickFresh s).tpOwed = s.tpOwed := rfl
@[simp] theorem tickFresh_tpClear (s : State) : (tickFresh s).tpClear = s.tpClear := rfl
@[simp] theorem tickFresh_failOwed (s : State) : (tickFresh s).failOwed = s.failOwed := rfl

end Sys2Proof.Machine
end

