-- ==== Sys2Proof/Laws/Errors.lean ====
section
/-! SUPPORT. Laws/Errors.lean: everything that writing an error record, and counting an event, can change: the error queue and
what drives it, and the performance counters; every other register and table stays. -/
namespace Sys2Proof.Machine

/-- `t` is `s` but for the fields an operation on registers `w` and on what it drives outwards may touch. -/
structure OnlyRegs (w : List RegName) (s t : State) : Prop where
  rest : ∃ regs errq errSeen errLost errNext errIrqWait errIrqOwed out pba fresh,
    t = { s with regs := regs, errq := errq, errSeen := errSeen, errLost := errLost, errNext := errNext, errIrqWait := errIrqWait
                 errIrqOwed := errIrqOwed, out := out, pba := pba, fresh := fresh }
  reads : ∀ r i, r ∉ w → i < 65536 → rget t r i = rget s r i

namespace OnlyRegs
variable {w : List RegName} {s t u : State}

theorem refl (w : List RegName) (s : State) : OnlyRegs w s s := ⟨⟨_, _, _, _, _, _, _, _, _, _, rfl⟩, fun _ _ _ _ => rfl⟩

theorem trans (h : OnlyRegs w s t) (k : OnlyRegs w t u) : OnlyRegs w s u := by
  obtain ⟨⟨a, b, c, d, e, f, g, i, j, l, rfl⟩, hr⟩ := h
  obtain ⟨⟨a', b', c', d', e', f', g', i', j', l', rfl⟩, kr⟩ := k
  exact ⟨⟨a', b', c', d', e', f', g', i', j', l', rfl⟩, fun r i hn hi => (kr r i hn hi).trans (hr r i hn hi)⟩

theorem rset {r : RegName} (s : State) (i : Nat) (v : Word) (hr : r ∈ w) (hi : i < 65536) : OnlyRegs w s (rset s r i v) :=
  ⟨⟨_, _, _, _, _, _, _, _, _, _, rfl⟩, fun r' j hn hj => rget_rset_other s r r' i j v (fun e => hn (e.1 ▸ hr)) hi hj⟩

theorem fset {f : Fld} (i v : Nat) (s : State) (hr : f.reg ∈ w) (hi : i < 65536) : OnlyRegs w s (fset f i v s) :=
  rset s i _ hr hi

theorem foldl {α : Type} {g : State → α → State} {l : List α} (hg : ∀ s x, x ∈ l → OnlyRegs w s (g s x)) (s : State) :
    OnlyRegs w s (l.foldl g s) := by
  induction l generalizing s with
  | nil => exact refl w s
  | cons x l ih => exact (hg s x (by simp)).trans (ih (fun s y hy => hg s y (by simp [hy])) _)

theorem tiles (h : OnlyRegs w s t) : t.tiles = s.tiles := by
  obtain ⟨⟨_, _, _, _, _, _, _, _, _, _, rfl⟩, _⟩ := h; rfl
theorem bays (h : OnlyRegs w s t) : t.bays = s.bays := by
  obtain ⟨⟨_, _, _, _, _, _, _, _, _, _, rfl⟩, _⟩ := h; rfl
theorem parts (h : OnlyRegs w s t) : t.parts = s.parts := by
  obtain ⟨⟨_, _, _, _, _, _, _, _, _, _, rfl⟩, _⟩ := h; rfl
theorem ctxs (h : OnlyRegs w s t) : t.ctxs = s.ctxs := by
  obtain ⟨⟨_, _, _, _, _, _, _, _, _, _, rfl⟩, _⟩ := h; rfl
theorem mem (h : OnlyRegs w s t) : t.mem = s.mem := by
  obtain ⟨⟨_, _, _, _, _, _, _, _, _, _, rfl⟩, _⟩ := h; rfl
theorem store (h : OnlyRegs w s t) : t.store = s.store := by
  obtain ⟨⟨_, _, _, _, _, _, _, _, _, _, rfl⟩, _⟩ := h; rfl
theorem pending (h : OnlyRegs w s t) : t.pending = s.pending := by
  obtain ⟨⟨_, _, _, _, _, _, _, _, _, _, rfl⟩, _⟩ := h; rfl

end OnlyRegs

/-- The registers of the error queue. -/
def errRegs : List RegName := [.errqPidx, .errqStatus, .errqDropped]

theorem setHeld_only (s : State) : OnlyRegs errRegs s (setHeld s) := OnlyRegs.fset _ _ _ (by decide) (by decide)

theorem fbump_only {w : List RegName} {f : Fld} (i k : Nat) (s : State) (hr : f.reg ∈ w) (hi : i < 65536) : OnlyRegs w s (fbump f i k s) :=
  OnlyRegs.fset _ _ _ hr hi

theorem fwrap_only {w : List RegName} {f o : Fld} (i k : Nat) (s : State) (hf : f.reg ∈ w) (ho : o.reg ∈ w) (hi : i < 65536) :
    OnlyRegs w s (fwrap f o i k s) := by
  unfold fwrap
  extract_lets n t
  have h : OnlyRegs w s t := OnlyRegs.fset _ _ _ hf hi
  split
  · exact h.trans (OnlyRegs.fset _ _ _ ho hi)
  · exact h

theorem emit_only (w : List RegName) (c : Chan) (k : Nat) (as : List Nat) (d : List Byte) (s : State) : OnlyRegs w s (emit c k as d s) :=
  ⟨⟨_, _, _, _, _, _, _, _, _, _, rfl⟩, fun _ _ _ _ => rfl⟩

theorem msixRaise_only (w : List RegName) (port fn vec : Nat) (s : State) : OnlyRegs w s (msixRaise port fn vec s) := by
  unfold msixRaise
  extract_lets k
  split
  · exact ⟨⟨_, _, _, _, _, _, _, _, _, _, rfl⟩, fun _ _ _ _ => rfl⟩
  · exact emit_only w _ _ _ _ s

theorem errIrq_only (w : List RegName) (s : State) : OnlyRegs w s (errIrq s) := by
  unfold errIrq
  split
  · exact ⟨⟨_, _, _, _, _, _, _, _, _, _, rfl⟩, fun _ _ _ _ => rfl⟩
  · refine OnlyRegs.trans (t := { s with errIrqWait := true }) ?_ (msixRaise_only w _ _ _ _)
    exact ⟨⟨_, _, _, _, _, _, _, _, _, _, rfl⟩, fun _ _ _ _ => rfl⟩

theorem errNotify_only (w : List RegName) (cls : Nat) (s : State) : OnlyRegs w s (errNotify cls s) := by
  unfold errNotify
  extract_lets t
  have h : OnlyRegs w s t := by
    unfold t
    split
    · exact errIrq_only w s
    · exact OnlyRegs.refl w s
  split
  · exact h.trans (emit_only w _ _ _ _ _)
  · exact h

theorem errPlace_only (r : ErrRec) (s : State) : OnlyRegs errRegs s (errPlace r s) := by
  unfold errPlace
  extract_lets t
  have h : OnlyRegs errRegs s t := ⟨⟨_, _, _, _, _, _, _, _, _, _, rfl⟩, fun _ _ _ _ => rfl⟩
  exact h.trans ((OnlyRegs.fset _ _ _ (by decide) (by decide)).trans (setHeld_only _))

theorem errDrop_only (s : State) : OnlyRegs errRegs s (errDrop s) := by
  unfold errDrop
  extract_lets t u
  have h : OnlyRegs errRegs s t := ⟨⟨_, _, _, _, _, _, _, _, _, _, rfl⟩, fun _ _ _ _ => rfl⟩
  have k : OnlyRegs errRegs t u := OnlyRegs.fset _ _ _ (by decide) (by decide)
  exact (h.trans k).trans ((OnlyRegs.fset _ _ _ (by decide) (by decide)).trans (fbump_only _ _ _ (by decide) (by decide)))

theorem errEnter_only (e : ErrIn) (s : State) : OnlyRegs errRegs s (errEnter e s) := by
  unfold errEnter
  split
  · exact errDrop_only s
  · extract_lets n r t
    have h : OnlyRegs errRegs s t := by
      unfold t
      split
      · exact OnlyRegs.refl _ s
      · refine OnlyRegs.trans (t := { s with errLost := 0 }) ?_ (errPlace_only _ _)
        exact ⟨⟨_, _, _, _, _, _, _, _, _, _, rfl⟩, fun _ _ _ _ => rfl⟩
    clear_value t
    split
    · refine h.trans ?_
      exact ⟨⟨_, _, _, _, _, _, _, _, _, _, rfl⟩, fun _ _ _ _ => rfl⟩
    · exact h.trans ((errPlace_only _ _).trans (errNotify_only _ _ _))

/-- Writing an error record changes the error queue's registers and what drives them, and nothing else. -/
theorem logErr_only (e : ErrIn) (s : State) : OnlyRegs errRegs s (logErr e s) := by
  unfold logErr
  extract_lets during t
  split
  · exact OnlyRegs.refl _ s
  · refine OnlyRegs.trans (t := t) ?_ (errEnter_only _ _)
    unfold t
    split
    · exact ⟨⟨_, _, _, _, _, _, _, _, _, _, rfl⟩, fun _ _ _ _ => rfl⟩
    · exact OnlyRegs.refl _ s

/-- Counting an event changes the counters and nothing else. -/
theorem perfCount_only (ev field part n : Nat) (s : State) : OnlyRegs [.perfCnt] s (perfCount ev field part n s) := by
  unfold perfCount
  split
  · exact OnlyRegs.refl _ s
  · refine OnlyRegs.foldl ?_ s
    intro s i hi
    split
    · exact fwrap_only _ _ _ (by decide) (by decide) (by simp at hi; omega)
    · exact OnlyRegs.refl _ s

end Sys2Proof.Machine
end

