-- ==== Sys2Proof/Laws/Kept.lean ====
section
/-! SUPPORT. Laws/Kept.lean: what every part of the machine keeps: the queue of waiting commands, and the canonical form of
device memory and of the hub store. The lemmas here say how the property passes through the forms a definition is built
from; the files Laws/Kept….lean hold one lemma for each function that answers a state. -/
namespace Sys2Proof.Machine

/-- The queue is `q`, and both memories are in canonical form. -/
def Kept (q : List Instr) (s : State) : Prop := s.pending = q ∧ Mem.wf s.mem = true ∧ Mem.wf s.store = true

/-- `P` of a pair's second part. -/
def OnSnd {α β : Type} (P : β → Prop) (x : α × β) : Prop := P x.2
/-- `P` of an option's value, if it has one. -/
def OnSome {α : Type} (P : α → Prop) (x : Option α) : Prop := ∀ a, x = some a → P a
/-- `P` of a result, if there is one. -/
def OnOk {ε α : Type} (P : α → Prop) (x : Except ε α) : Prop := ∀ a, x = .ok a → P a
/-- `P` of an outcome's next state, if it has one. -/
def OnNext {σ φ ρ : Type} (P : σ → Prop) (x : Host.Outcome σ φ ρ) : Prop := ∀ a, x = .next a → P a

section
variable {α β γ ε σ φ ρ : Type} {P : α → Prop} {Q : β → Prop}

theorem on_ite {c : Prop} [Decidable c] {a b : α} (ha : P a) (hb : P b) : P (if c then a else b) := by
  split <;> assumption
theorem on_dite {c : Prop} [Decidable c] {a : c → α} {b : ¬ c → α} (ha : ∀ h, P (a h)) (hb : ∀ h, P (b h)) :
    P (if h : c then a h else b h) := by
  split
  · exact ha _
  · exact hb _
theorem on_mk {a : β} {b : α} (h : P b) : OnSnd P (a, b) := h
theorem on_snd {x : β × α} (h : OnSnd P x) : P x.2 := h
theorem on_none : OnSome P none := by intro a h; cases h
theorem on_some {a : α} (h : P a) : OnSome P (some a) := by intro b hb; cases hb; exact h
theorem on_error {e : ε} : OnOk P (.error e) := by intro a h; cases h
theorem on_ok {a : α} (h : P a) : OnOk (ε := ε) P (.ok a) := by intro b hb; cases hb; exact h
theorem on_next {P : σ → Prop} {s : σ} (h : P s) : OnNext (φ := φ) (ρ := ρ) P (.next s) := by intro b hb; cases hb; exact h
theorem on_fault {P : σ → Prop} {r : φ} : OnNext (ρ := ρ) P (.fault r) := by intro b hb; cases hb
theorem on_refused {P : σ → Prop} {r : ρ} : OnNext (φ := φ) P (.refused r) := by intro b hb; cases hb
theorem on_foldl {f : α → β → α} {a : α} {l : List β} (ha : P a) (hf : ∀ a x, P a → P (f a x)) : P (l.foldl f a) := by
  induction l generalizing a with
  | nil => exact ha
  | cons x l ih => exact ih (hf a x ha)
theorem on_getD {x : Option α} {d : α} (h : OnSome P x) (hd : P d) : P (x.getD d) := by
  cases x with
  | none => exact hd
  | some a => exact h a rfl
theorem on_bindE {x : Except ε β} {f : β → Except ε α} (hx : OnOk Q x) (hf : ∀ a, Q a → OnOk P (f a)) : OnOk P (x >>= f) := by
  cases x with
  | error e => intro a h; cases h
  | ok b => exact hf b (hx b rfl)
theorem on_bindE' {x : Except ε β} {f : β → Except ε α} (hf : ∀ a, OnOk P (f a)) : OnOk P (x >>= f) := by
  cases x with
  | error e => intro a h; cases h
  | ok b => exact hf b
theorem on_bindO {x : Option β} {f : β → Option α} (hx : OnSome Q x) (hf : ∀ a, Q a → OnSome P (f a)) : OnSome P (x >>= f) := by
  cases x with
  | none => intro a h; cases h
  | some b => exact hf b (hx b rfl)
theorem on_bindO' {x : Option β} {f : β → Option α} (hf : ∀ a, OnSome P (f a)) : OnSome P (x >>= f) := by
  cases x with
  | none => intro a h; cases h
  | some b => exact hf b
theorem on_findSome {f : β → Option α} {l : List β} (h : ∀ x, OnSome P (f x)) : OnSome P (l.findSome? f) := by
  intro a ha
  induction l with
  | nil => cases ha
  | cons x l ih =>
    rw [List.findSome?_cons] at ha
    split at ha
    · cases ha; exact h x _ ‹_›
    · exact ih ha
theorem on_map {x : Option β} {f : β → α} (hx : OnSome Q x) (hf : ∀ a, Q a → P (f a)) : OnSome P (x.map f) := by
  cases x with
  | none => intro a h; cases h
  | some b => intro a h; cases h; exact hf b (hx b rfl)
theorem on_map' {x : Option β} {f : β → α} (hf : ∀ a, P (f a)) : OnSome P (x.map f) := by
  cases x with
  | none => intro a h; cases h
  | some b => intro a h; cases h; exact hf b
theorem on_id {a : α} (h : P a) : P (id a) := h
theorem on_use {G : Prop} {d x : α} (he : d = x) (hd : P d) (k : P x → G) : G := k (he ▸ hd)
end

/-- A change of other fields keeps it. -/
theorem kept_congr {q : List Instr} {s t : State} (h : Kept q s) (h1 : t.pending = s.pending) (h2 : t.mem = s.mem)
    (h3 : t.store = s.store) : Kept q t := by
  unfold Kept at h ⊢
  rw [h1, h2, h3]
  exact h

end Sys2Proof.Machine
end

