-- ==== Sys2Proof/Laws/Device.lean ====
section
/-! SUPPORT. Laws/Device.lean: what device memory reads as after a write (R281, R334), and that what a controller counts,
records, loses and repairs leaves every byte of it. -/
namespace Sys2Proof.Machine

/-- Device memory, and the slices' copies of it, are the same. -/
structure SameMem (s t : State) : Prop where
  mem : t.mem = s.mem
  slices : t.slices = s.slices

namespace SameMem
variable {s t u : State}
theorem refl (s : State) : SameMem s s := ⟨rfl, rfl⟩
theorem trans (h : SameMem s t) (k : SameMem t u) : SameMem s u := ⟨k.mem.trans h.mem, k.slices.trans h.slices⟩
theorem of_only {w : List RegName} (h : OnlyRegs w s t) : SameMem s t := by
  obtain ⟨⟨_, _, _, _, _, _, _, _, _, _, rfl⟩, _⟩ := h; exact ⟨rfl, rfl⟩
theorem foldl {α : Type} {g : State → α → State} {l : List α} (hg : ∀ s x, SameMem s (g s x)) (s : State) : SameMem s (l.foldl g s) := by
  induction l generalizing s with
  | nil => exact refl s
  | cons x l ih => exact (hg s x).trans (ih _)

theorem overSlices_eq (h : SameMem s t) (a : Nat) (l : List Byte) : overSlices t a l = overSlices s a l := by
  induction l generalizing a with
  | nil => rfl
  | cons b l ih => simp only [overSlices, sliceCopy, h.slices, ih]
/-- Every byte of device memory reads as before. -/
theorem memRead_eq (h : SameMem s t) (a n : Nat) : memRead t a n = memRead s a n := by
  unfold memRead
  rw [h.mem, h.slices, h.overSlices_eq]
end SameMem

theorem fbump_same (f : Fld) (i k : Nat) (s : State) : SameMem s (fbump f i k s) := ⟨rfl, rfl⟩
theorem fwrap_same (f o : Fld) (i k : Nat) (s : State) : SameMem s (fwrap f o i k s) := by
  unfold fwrap; extract_lets n t; split <;> exact ⟨rfl, rfl⟩
theorem countRead_same (c : Nat) (s : State) : SameMem s (countRead c s) := fwrap_same ..
theorem countWrite_same (c : Nat) (s : State) : SameMem s (countWrite c s) := fwrap_same ..
theorem logErr_same (e : ErrIn) (s : State) : SameMem s (logErr e s) := .of_only (logErr_only e s)
theorem memcRecord_same (c k cls a : Nat) (p : Option Nat) (i : Bool) (s : State) : SameMem s (memcRecord c k cls a p i s) := logErr_same ..
theorem firstErr_same (v m : Fld) (fs : List (Fld × Nat)) (i : Nat) (s : State) : SameMem s (firstErr v m fs i s) := by
  unfold firstErr
  split
  · exact ⟨rfl, rfl⟩
  · exact (SameMem.foldl (g := fun s (p : Fld × Nat) => fset p.1 i p.2 s) (fun _ _ => ⟨rfl, rfl⟩) s).trans ⟨rfl, rfl⟩
theorem memcErr_same (c k a : Nat) (s : State) : SameMem s (memcErr c k a s) := firstErr_same ..
theorem kvwErr_same (t k e : Nat) (s : State) : SameMem s (kvwErr t k e s) := firstErr_same ..
theorem kvwRecord_same (t k : Nat) (i : Bool) (s : State) : SameMem s (kvwRecord t k i s) := logErr_same ..
theorem emit_same (c : Chan) (k : Nat) (a : List Nat) (d : List Byte) (s : State) : SameMem s (emit c k a d s) := ⟨rfl, rfl⟩
theorem partMod_same (p : Nat) (f : Part → Part) (s : State) : SameMem s (partMod p f s) := ⟨rfl, rfl⟩
theorem spoil_same (p : Nat) (r : SpoilSrc) (i : Bool) (s : State) : SameMem s (spoil p r i s) := by
  unfold spoil; split
  · exact partMod_same ..
  · exact .refl s
theorem ledgerWrite_same (s : State) : SameMem s (ledgerWrite s) := by unfold ledgerWrite; split <;> exact ⟨rfl, rfl⟩
theorem reportPage_same (p : Nat) (s : State) : SameMem s (reportPage p s) := (memcErr_same ..).trans (memcRecord_same ..)
theorem retirePage_same (q : Nat) (s : State) : SameMem s (retirePage q s) := by
  unfold retirePage
  extract_lets page i l t x l' t'
  have ht : SameMem s t := ⟨rfl, rfl⟩
  have h' : SameMem s t' := on_ite (P := SameMem s) (ht.trans ⟨rfl, rfl⟩) ht
  refine on_ite (P := SameMem s) (on_ite (P := SameMem s) (.refl s) ?_) (on_ite (P := SameMem s) (.refl s) (on_ite (P := SameMem s) ?_ ?_))
  · exact SameMem.trans (t := { s with ledger := l }) ⟨rfl, rfl⟩ (ledgerWrite_same _)
  · exact (ht.trans (u := fset F.memStatus_ledgerFull 0 1 { t with pagesTold := t.pagesTold ++ [page] }) ⟨rfl, rfl⟩).trans
      (reportPage_same ..)
  · exact (h'.trans (u := { t' with ledger := l', pageReports := t'.pageReports ++ [(page, q)] }) ⟨rfl, rfl⟩).trans (ledgerWrite_same _)
theorem queueRepair_same (q : Nat) (s : State) : SameMem s (queueRepair q s) := by
  unfold queueRepair
  extract_lets c
  split
  · exact .refl s
  · split
    · exact retirePage_same ..
    · exact ⟨rfl, rfl⟩
theorem loseSector_same (q : Nat) (s : State) : SameMem s (loseSector q s) := by
  unfold loseSector
  extract_lets c
  split
  · exact .refl s
  · split
    · exact ((memcErr_same ..).trans (memcRecord_same ..)).trans (retirePage_same ..)
    · exact ⟨rfl, rfl⟩
theorem memUncorrectable_same (a k : Nat) (p : Option Nat) (i : Bool) (s : State) : SameMem s (memUncorrectable a k p i s) := by
  unfold memUncorrectable
  extract_lets c t live t' v
  have h1 : SameMem s t' := ((memcErr_same ..).trans (fbump_same ..)).trans (memcRecord_same ..)
  have h2 : SameMem s v := on_ite (P := SameMem s) h1 (h1.trans (queueRepair_same ..))
  cases p with
  | none => exact h2
  | some q => exact on_ite (P := SameMem s) (h2.trans (spoil_same ..)) h2
theorem rowFailed_same (q : Nat) (s : State) : SameMem s (rowFailed q s) :=
  ((memcErr_same ..).trans (memcRecord_same ..)).trans (queueRepair_same ..)
theorem interfaceTries_same (q n : Nat) (s : State) : SameMem s (interfaceTries q n s).2 := by
  unfold interfaceTries
  extract_lets c h t
  have ht : SameMem s t := on_ite (P := SameMem s) (.refl s) ⟨rfl, rfl⟩
  exact on_ite (P := fun x : Bool × State => SameMem s x.2) (ht.trans ⟨rfl, rfl⟩) ht
theorem refreshReport_same (c : Nat) (u : MemUpset) (s : State) : SameMem s (refreshReport c u s) := by
  unfold refreshReport; split <;> exact ⟨rfl, rfl⟩
/-- A sector on its way to its part leaves every byte. -/
theorem partWrite_same (q : Nat) (u : MemUpset) (s : State) : SameMem s (partWrite q u s) := by
  unfold partWrite
  extract_lets c
  have h := (refreshReport_same c u s).trans (interfaceTries_same q u.writeErrors _)
  revert h
  generalize interfaceTries q u.writeErrors (refreshReport c u s) = r
  obtain ⟨stop, t⟩ := r
  intro h
  exact on_ite (P := SameMem s) ((h.trans (memUncorrectable_same ..)).trans (loseSector_same ..))
    ((h.trans (countWrite_same ..)).trans (emit_same ..))
theorem rmwPart_same (q : Nat) (u : MemUpset) (s : State) : SameMem s (rmwPart q u s) := (partWrite_same ..).trans (fwrap_same ..)
theorem noteCorrected_same (q : Nat) (s : State) : SameMem s (noteCorrected q s).2 := ⟨rfl, rfl⟩
theorem injectUse_same (k : Nat) (s : State) : SameMem s (injectUse k s) := by
  unfold injectUse
  extract_lets n t t'
  have h : SameMem s t' := on_ite (P := SameMem s) ⟨rfl, rfl⟩ ⟨rfl, rfl⟩
  exact ⟨h.mem, h.slices⟩

/-- The corrected read's consequences leave every byte. -/
theorem corrected_same (c q : Nat) (b : Bool) (s : State) :
    SameMem s (let t := fbump F.memcCeCount_count (ctlReg c) 1 { s with wback := if s.wback.contains q then s.wback else s.wback ++ [q] }
      let r := noteCorrected q t
      if r.1 || b then rowFailed q r.2 else r.2) := by
  extract_lets t r
  have h0 : SameMem s t := ⟨rfl, rfl⟩
  have h1 : SameMem s (noteCorrected q t).2 := h0.trans (noteCorrected_same q t)
  exact on_ite (P := SameMem s) (h1.trans (rowFailed_same ..)) h1

/-- Fetching a sector leaves every byte. -/
theorem fetchSector_same (q tick : Nat) (u : MemUpset) (s : State) : SameMem s (fetchSector q tick u s).2.2 := by
  unfold fetchSector
  extract_lets c
  have h0 := (refreshReport_same c u s).trans (interfaceTries_same q u.errors _)
  revert h0
  generalize interfaceTries q u.errors (refreshReport c u s) = r
  obtain ⟨stop, t⟩ := r
  intro h0
  dsimp only at h0 ⊢
  split
  · exact h0
  · have h1 := h0.trans (countRead_same c t)
    split
    · split
      · exact h1.trans (injectUse_same ..)
      · exact (h1.trans (injectUse_same ..)).trans (fbump_same ..)
    · have h2 := corrected_same c q (decide (worstSymbols q u ≥ 5)) (countRead c t)
      cases decodeRead q u with
      | good => dsimp only; exact h1
      | corrected => dsimp only; dsimp only at h2; exact h1.trans h2
      | bad k => dsimp only; exact h1

theorem drainLost_same (p i : Nat) (s : State) : SameMem s (drainLost p i s) := by
  unfold drainLost
  extract_lets w
  split
  · split
    · extract_lets t
      exact SameMem.trans (t := t) ⟨rfl, rfl⟩ (SameMem.foldl (fun s i => loseSector_same _ s) _)
    · exact .refl s
  · exact .refl s

theorem readFailed_same (q k : Nat) (r : MemReq) (i : Bool) (s : State) : SameMem s (readFailed q k r i s) := by
  unfold readFailed
  extract_lets t
  have h1 : SameMem s t := memUncorrectable_same ..
  cases r with
  | drain p j => exact on_ite (P := SameMem s) h1 (h1.trans (drainLost_same ..))
  | walker t' e g => exact (h1.trans (kvwErr_same ..)).trans (kvwRecord_same ..)
  | unit p => exact h1
  | outside => exact h1

/-- So does making room in a write-combining buffer. -/
theorem rmwSector_same (q : Nat) (u : MemUpset) (s : State) : SameMem s (rmwSector q u s) := by
  unfold rmwSector
  have h := fetchSector_same q (fget s F.tickCounter_count 0) u s
  revert h
  generalize fetchSector q (fget s F.tickCounter_count 0) u s = r
  obtain ⟨r, inj, t⟩ := r
  intro h
  dsimp only at h ⊢
  split
  · split
    · exact h.trans (memUncorrectable_same ..)
    · exact (h.trans (readFailed_same ..)).trans (loseSector_same ..)
  · exact h.trans (rmwPart_same ..)

theorem wcSet_same (c : Nat) (l : List WcEntry) (s : State) : SameMem s (wcSet c l s) := ⟨rfl, rfl⟩

/-- Passing the write-combining buffer leaves every byte. -/
theorem wcWrite_same (q o n : Nat) (u : MemUpset) (s : State) : SameMem s (wcWrite q o n u s) := by
  unfold wcWrite
  extract_lets c l rest t old bytes l'
  have h1 : SameMem s t := ⟨rfl, rfl⟩
  split
  · exact (h1.trans (wcSet_same ..)).trans (partWrite_same ..)
  · split
    · exact (h1.trans (wcSet_same ..)).trans (partWrite_same ..)
    · split
      · exact h1.trans (wcSet_same ..)
      · clear_value l'
        cases l'
        · exact h1
        · exact ((h1.trans (wcSet_same ..)).trans (countRead_same ..)).trans (rmwPart_same ..)

theorem slcServe_same (kind res cls n : Nat) (s : State) : SameMem s (slcServe kind res cls n s) := by
  unfold slcServe
  extract_lets k total t t'
  exact on_ite (P := SameMem s) ⟨rfl, rfl⟩ ⟨rfl, rfl⟩
theorem slcMem_same (a cls n : Nat) (s : State) : SameMem s (slcMem a cls n s) := slcServe_same ..

/-! ### A byte of device memory after a write -/

/-- One byte as a reader gets it: the slices' copy of its line, or memory's byte (R334). -/
theorem memRead_one (s : State) (a : Nat) :
    memRead s a 1 = [match sliceCopy s (a / 64) with | some l => l.getD (a % 64) (Mem.read s.mem a) | none => Mem.read s.mem a] := by
  unfold memRead
  split
  · rename_i h
    have : sliceCopy s (a / 64) = none := by
      unfold sliceCopy
      have h' : s.slices = [] := List.isEmpty_iff.1 h
      rw [h']; rfl
    rw [this]; rfl
  · rfl

/-- The copy of a line follows a write (R334); `m` is memory before it. -/
def lineAfter (m : Mem) (a : Nat) (bs : List Byte) (l : CohLine) : CohLine :=
  if a < (l.line + 1) * 64 ∧ l.line * 64 < a + bs.length then
    { l with data := (List.range 64).map fun k =>
        let i := l.line * 64 + k
        if a ≤ i ∧ i < a + bs.length then bs.getD (i - a) 0 else l.data.getD k (Mem.read m i) }
  else l

theorem lineAfter_line (m : Mem) (a : Nat) (bs : List Byte) (l : CohLine) : (lineAfter m a bs l).line = l.line := by
  unfold lineAfter; split <;> rfl

theorem find_lineAfter (m : Mem) (a : Nat) (bs : List Byte) (n : Nat) (ls : List CohLine) :
    (ls.map (lineAfter m a bs)).find? (·.line == n) = (ls.find? (·.line == n)).map (lineAfter m a bs) := by
  induction ls with
  | nil => rfl
  | cons l ls ih =>
    simp only [List.map_cons, List.find?_cons, lineAfter_line]
    split
    · rfl
    · exact ih

theorem sliceCopy_memWrite (a : Nat) (bs : List Byte) (s : State) (n : Nat) :
    sliceCopy (memWrite a bs s) n
      = s.slices.findSome? fun e => (e.2.lines.find? (·.line == n)).map fun l => (lineAfter s.mem a bs l).data := by
  have e : (memWrite a bs s).slices
      = List.map (fun e => (e.1, { e.2 with lines := e.2.lines.map (lineAfter s.mem a bs) })) s.slices := rfl
  unfold sliceCopy
  rw [e]
  generalize s.slices = sl
  induction sl with
  | nil => rfl
  | cons e sl ih =>
    simp only [List.map_cons, List.findSome?_cons, find_lineAfter, Option.map_map]
    rw [ih]
    rfl

/-- The bytes written read as written, every other byte reads as before: device memory and what the slices hold of it. -/
theorem memRead_memWrite (a : Nat) (bs : List Byte) (s : State) (c : Nat) (h : Mem.wf s.mem = true) :
    memRead (memWrite a bs s) c 1 = if a ≤ c ∧ c < a + bs.length then [bs.getD (c - a) 0] else memRead s c 1 := by
  have hm : Mem.read (memWrite a bs s).mem c = if a ≤ c ∧ c < a + bs.length then bs.getD (c - a) 0 else Mem.read s.mem c :=
    Mem.read_writeN a c bs h
  rw [memRead_one, memRead_one, sliceCopy_memWrite, hm]
  unfold sliceCopy
  generalize s.slices = sl
  induction sl with
  | nil => simp only [List.findSome?_nil]; split <;> rfl
  | cons e sl ih =>
    simp only [List.findSome?_cons]
    cases hf : e.2.lines.find? (·.line == c / 64) with
    | none => exact ih
    | some l =>
      have hline : l.line = c / 64 := by have := List.find?_some hf; simpa using this
      have hdiv : c / 64 * 64 + c % 64 = c := by omega
      have hmod : c % 64 < 64 := Nat.mod_lt _ (by decide)
      simp only [Option.map_some]
      unfold lineAfter
      rw [hline]
      by_cases hc : a < (c / 64 + 1) * 64 ∧ c / 64 * 64 < a + bs.length
      · rw [if_pos hc]
        simp only [List.getD_eq_getElem?_getD, List.getElem?_map, List.getElem?_range hmod, Option.map_some, Option.getD_some, hdiv]
        split <;> rfl
      · rw [if_neg hc, if_neg (by omega), if_neg (by omega)]

end Sys2Proof.Machine
end

