-- ==== Sys2Proof/Laws/Griset.lean ====
section
/-! SUPPORT. Laws/Griset.lean: how a Griset command that passes its checks starts, ends or waits. -/
namespace Sys2Proof.Machine

theorem Starts.id_eq {op id : Nat} {c : Cmd} {s : State} (h : Starts op id c s) : c.id = id := by
  have := List.find?_some h.found; simpa using this

theorem startOp_starts {op id : Nat} {c : Cmd} {s : State} (h : Starts op id c s) (f : Cmd → State → Done × State) :
    startOp op f id s = settle c (f c s) := by
  unfold startOp startCmd
  rw [h.found]
  simp only [h.opcode, h.waits, h.turn, h.passes, ne_eq, not_true_eq_false, Bool.not_true, Bool.false_eq_true, or_self, ↓reduceIte]

/-- A command whose start completes it. -/
theorem startOp_done {op id : Nat} {c : Cmd} {s t : State} {f : Cmd → State → Done × State} {a b d : Nat} {e : List Byte}
    (h : Starts op id c s) (hf : f c s = (.done a b d e, t)) :
    (Host.Outcome.next (startOp op f id s) : Result) = .next (finish c a b d e t) := by
  rw [startOp_starts h, hf]; rfl

/-- A command whose start leaves it waiting. -/
theorem startOp_wait {op id : Nat} {c : Cmd} {s t : State} {f : Cmd → State → Done × State} {w : CmdStep}
    (h : Starts op id c s) (hf : f c s = (.wait w, t)) :
    (Host.Outcome.next (startOp op f id s) : Result) = .next (sweep (setStep id w t)) := by
  rw [startOp_starts h, hf, ← h.id_eq]; rfl

/-- The same where an opcode's packet picks the meaning. -/
theorem startCmd_starts {op id : Nat} {c : Cmd} {s : State} {sel : Packet → Bool} (h : Starts op id c s) (hs : sel c.pkt = true)
    (f : Cmd → State → Done × State) : startCmd op sel f id s = settle c (f c s) := by
  unfold startCmd
  rw [h.found]
  simp only [h.opcode, h.waits, h.turn, h.passes, hs, ne_eq, not_true_eq_false, Bool.not_true, Bool.false_eq_true, or_self, ↓reduceIte]

/-- A command that is carried on. -/
theorem onRunning_holds {id : Nat} {c : Cmd} {s : State} (h : s.Holds id c) (f : Cmd → State → State) :
    onRunning f id s = f c s := by
  unfold onRunning; rw [show s.cmds.find? (fun x => x.id == id) = some c from h]

theorem edgeStart_waits {s : State} {c : Cmd} (h : willApply s (edgePart s c) = true) : edgeStart c s = (.wait .edge, s) := by
  unfold edgeStart; rw [if_pos h]

theorem edgeStart_applies {s : State} {c : Cmd} (h : willApply s (edgePart s c) = false) :
    edgeStart c s = edgeApply c s := by
  unfold edgeStart; rw [if_neg (by simp [h])]

end Sys2Proof.Machine
end

