-- ==== Sys2Proof/Laws/Idoon.lean ====
section
/-! SUPPORT. Laws/Idoon.lean: what the link layer of an Idoon port leaves alone, and how a packet that passes its checks is
taken. -/
namespace Sys2Proof.Machine

theorem rget_fwrap_other {f ovf : Fld} {i k : Nat} {s : State} {r : RegName} {j : Nat} (h : r ≠ f.reg) (h' : r ≠ ovf.reg)
    (hi : i < 65536) (hj : j < 65536) :
    rget (fwrap f ovf i k s) r j = rget s r j := by
  unfold fwrap
  dsimp only
  split
  · unfold fset
    rw [rget_rset_other _ _ _ _ _ _ (fun e => h' e.1) hi hj, rget_rset_other _ _ _ _ _ _ (fun e => h e.1) hi hj]
  · unfold fset
    rw [rget_rset_other _ _ _ _ _ _ (fun e => h e.1) hi hj]

/-- A saturating counter leaves every other register alone. -/
theorem rget_fbump_other {f : Fld} {i k : Nat} {s : State} {r : RegName} {j : Nat} (h : r ≠ f.reg)
    (hi : i < 65536) (hj : j < 65536) : rget (fbump f i k s) r j = rget s r j := by
  unfold fbump fset
  exact rget_rset_other _ _ _ _ _ _ (fun e => h e.1) hi hj

/-- The counts of codewords leave every other register alone. -/
theorem rget_codewords {p : Nat} {ws : List Codeword} {s : State} {r : RegName} {j : Nat} (h : r ≠ .idnCorr) (h' : r ≠ .idnUncorr)
    (hi : p < 65536) (hj : j < 65536) : rget (codewords p ws s) r j = rget s r j := by
  unfold codewords
  exact (rget_fbump_other h' hi hj).trans (rget_fwrap_other h h hi hj)

theorem rget_linkTaken {a : IdnArr} {s : State} {r : RegName} {j : Nat} (h : r ≠ .idnTxbytes) (h' : r ≠ .idnRxbytes)
    (h2 : r ≠ .idnCorr) (h3 : r ≠ .idnUncorr) (hi : a.port < 65536) (hj : j < 65536) :
    rget (linkTaken a s) r j = rget s r j := by
  unfold linkTaken sendBlock
  show rget (fwrap _ _ _ _ _) r j = _
  rw [rget_fwrap_other h h hi hj]
  show rget (codewords _ _ _) _ _ = _
  rw [rget_codewords h2 h3 hi hj]
  show rget (fwrap _ _ _ _ _) r j = _
  rw [rget_fwrap_other h' h' hi hj]

/-- A packet that passes the checks of the link and of its target is handed to its meaning. -/
theorem idnAccept_taken {a : IdnArr} {s : State} (h : Taken a s) (f : IdnPkt → State → State) (hd : a.pkt.dst = hubId s) :
    idnAccept a f s = f a.pkt (linkTaken a s) := by
  have hp : a.port < 65536 := by
    have := h.active
    simp only [idnActive, Bool.and_eq_true, decide_eq_true_eq] at this
    omega
  have hub : hubId (linkTaken a s) = hubId s := fget_congr (rget_linkTaken (by decide) (by decide) (by decide) (by decide) hp (by decide))
  have ep : epochByte (linkTaken a s) = epochByte s := by
    unfold epochByte; rw [fget_congr (rget_linkTaken (by decide) (by decide) (by decide) (by decide) hp (by decide))]
  unfold idnAccept
  rw [if_neg (by simp [h.active])]
  dsimp only
  have ha : (a.seq + 4096 - (idnGet s a.port).rxSeq) % 4096 = 0 := by rw [h.inOrder]; omega
  rw [ha, if_neg (by simp [h.clean, h.correctable, h.crc]), if_neg (by decide)]
  show (if a.pkt.dst = hubId (linkTaken a s) then deliver a f (linkTaken a s) else _) = _
  rw [if_pos (by rw [hub]; exact hd)]
  unfold deliver
  dsimp only
  rw [if_neg (by simp [h.endToEnd, h.sound]), if_neg (by rw [ep]; simp [h.epoch])]

end Sys2Proof.Machine
end

