-- ==== Sys2Proof/Laws/KeptOps.lean ====
section
/-! SUPPORT. Laws/KeptOps.lean: what Machine/Ops.lean keeps (Laws/Kept.lean says what that is). -/
namespace Sys2Proof.Machine

theorem rset_kept {pq : List Instr} {s : State} {r : RegName} {i : Nat} {v : Word} (h_s : Kept pq s) : Kept pq (rset s r i v) := by
  unfold rset
  exact ⟨h_s.1, h_s.2.1, h_s.2.2⟩

theorem fset_kept {pq : List Instr} {f : Fld} {i : Nat} {v : Nat} {s : State} (h_s : Kept pq s) : Kept pq (fset f i v s) := by
  unfold fset
  exact rset_kept h_s

theorem fbump_kept {pq : List Instr} {f : Fld} {i : Nat} {k : Nat} {s : State} (h_s : Kept pq s) : Kept pq (fbump f i k s) := by
  unfold fbump
  exact fset_kept h_s

theorem fwrap_kept {pq : List Instr} {f : Fld} {ovf : Fld} {i : Nat} {k : Nat} {s : State} (h_s : Kept pq s) : Kept pq (fwrap f ovf i k s) := by
  unfold fwrap
  extract_lets v2 v3
  clear_value v2
  have hv3 : Kept pq v3 := by
    unfold v3
    exact fset_kept h_s
  clear_value v3
  refine on_ite ?_ ?_
  · exact fset_kept hv3
  · exact hv3

theorem rreset_kept {pq : List Instr} {r : RegName} {i : Nat} {s : State} (h_s : Kept pq s) : Kept pq (rreset r i s) := by
  unfold rreset
  exact rset_kept ⟨h_s.1, h_s.2.1, h_s.2.2⟩

theorem tileSet_kept {pq : List Instr} {t : Nat} {v : Tile} {s : State} (h_s : Kept pq s) : Kept pq (tileSet t v s) := by
  unfold tileSet
  exact ⟨h_s.1, h_s.2.1, h_s.2.2⟩

theorem tileMod_kept {pq : List Instr} {t : Nat} {f : Tile → Tile} {s : State} (h_s : Kept pq s) : Kept pq (tileMod t f s) := by
  unfold tileMod
  exact tileSet_kept h_s

theorem baySet_kept {pq : List Instr} {b : Nat} {v : Bay} {s : State} (h_s : Kept pq s) : Kept pq (baySet b v s) := by
  unfold baySet
  exact ⟨h_s.1, h_s.2.1, h_s.2.2⟩

theorem bayMod_kept {pq : List Instr} {b : Nat} {f : Bay → Bay} {s : State} (h_s : Kept pq s) : Kept pq (bayMod b f s) := by
  unfold bayMod
  exact baySet_kept h_s

theorem partSet_kept {pq : List Instr} {p : Nat} {v : Part} {s : State} (h_s : Kept pq s) : Kept pq (partSet p v s) := by
  unfold partSet
  exact ⟨h_s.1, h_s.2.1, h_s.2.2⟩

theorem partMod_kept {pq : List Instr} {p : Nat} {f : Part → Part} {s : State} (h_s : Kept pq s) : Kept pq (partMod p f s) := by
  unfold partMod
  exact partSet_kept h_s

theorem ctxSet_kept {pq : List Instr} {c : Nat} {v : Ctx} {s : State} (h_s : Kept pq s) : Kept pq (ctxSet c v s) := by
  unfold ctxSet
  exact ⟨h_s.1, h_s.2.1, h_s.2.2⟩

theorem ctxMod_kept {pq : List Instr} {c : Nat} {f : Ctx → Ctx} {s : State} (h_s : Kept pq s) : Kept pq (ctxMod c f s) := by
  unfold ctxMod
  exact ctxSet_kept h_s

theorem queueSet_kept {pq : List Instr} {q : Nat} {v : QDesc} {s : State} (h_s : Kept pq s) : Kept pq (queueSet q v s) := by
  unfold queueSet
  exact ⟨h_s.1, h_s.2.1, h_s.2.2⟩

theorem queueMod_kept {pq : List Instr} {q : Nat} {f : QDesc → QDesc} {s : State} (h_s : Kept pq s) : Kept pq (queueMod q f s) := by
  unfold queueMod
  exact queueSet_kept h_s

theorem siteSet_kept {pq : List Instr} {n : Nat} {v : Site} {s : State} (h_s : Kept pq s) : Kept pq (siteSet n v s) := by
  unfold siteSet
  exact ⟨h_s.1, h_s.2.1, h_s.2.2⟩

theorem siteMod_kept {pq : List Instr} {n : Nat} {f : Site → Site} {s : State} (h_s : Kept pq s) : Kept pq (siteMod n f s) := by
  unfold siteMod
  exact siteSet_kept h_s

theorem emit_kept {pq : List Instr} {c : Chan} {code : Nat} {args : List Nat} {data : List Byte} {s : State} (h_s : Kept pq s) : Kept pq (emit c code args data s) := by
  unfold emit
  exact ⟨h_s.1, h_s.2.1, h_s.2.2⟩

theorem tickFresh_kept {pq : List Instr} {s : State} (h_s : Kept pq s) : Kept pq (tickFresh s) := by
  unfold tickFresh
  exact ⟨h_s.1, h_s.2.1, h_s.2.2⟩

theorem setStrict_kept {pq : List Instr} {s : State} (h_s : Kept pq s) : Kept pq (setStrict s) := by
  unfold setStrict
  extract_lets v2
  clear_value v2
  exact fset_kept (fset_kept h_s)

theorem setHubState_kept {pq : List Instr} {v : Nat} {s : State} (h_s : Kept pq s) : Kept pq (setHubState v s) := by
  unfold setHubState
  extract_lets v2
  have hv2 : Kept pq v2 := by
    unfold v2
    exact setStrict_kept (fset_kept h_s)
  clear_value v2
  refine on_ite ?_ ?_
  · exact hv2
  · exact emit_kept hv2

theorem setHeld_kept {pq : List Instr} {s : State} (h_s : Kept pq s) : Kept pq (setHeld s) := by
  unfold setHeld
  exact fset_kept h_s

theorem msixRaise_kept {pq : List Instr} {port : Nat} {fn : Nat} {vec : Nat} {s : State} (h_s : Kept pq s) : Kept pq (msixRaise port fn vec s) := by
  unfold msixRaise
  extract_lets v2
  clear_value v2
  refine on_ite ?_ ?_
  · exact ⟨h_s.1, h_s.2.1, h_s.2.2⟩
  · exact emit_kept h_s

theorem errIrq_kept {pq : List Instr} {s : State} (h_s : Kept pq s) : Kept pq (errIrq s) := by
  unfold errIrq
  refine on_ite ?_ ?_
  · exact ⟨h_s.1, h_s.2.1, h_s.2.2⟩
  · exact msixRaise_kept ⟨h_s.1, h_s.2.1, h_s.2.2⟩

theorem errNotify_kept {pq : List Instr} {cls : Nat} {s : State} (h_s : Kept pq s) : Kept pq (errNotify cls s) := by
  unfold errNotify
  extract_lets v2
  have hv2 : Kept pq v2 := by
    unfold v2
    refine on_ite ?_ ?_
    · exact errIrq_kept h_s
    · exact h_s
  clear_value v2
  refine on_ite ?_ ?_
  · exact emit_kept hv2
  · exact hv2

theorem errPlace_kept {pq : List Instr} {r : ErrRec} {s : State} (h_s : Kept pq s) : Kept pq (errPlace r s) := by
  unfold errPlace
  extract_lets v2
  have hv2 : Kept pq v2 := by
    unfold v2
    exact ⟨h_s.1, h_s.2.1, h_s.2.2⟩
  clear_value v2
  exact setHeld_kept (fset_kept hv2)

theorem errDrop_kept {pq : List Instr} {s : State} (h_s : Kept pq s) : Kept pq (errDrop s) := by
  unfold errDrop
  extract_lets v2 v3
  have hv2 : Kept pq v2 := by
    unfold v2
    exact ⟨h_s.1, h_s.2.1, h_s.2.2⟩
  clear_value v2
  have hv3 : Kept pq v3 := by
    unfold v3
    exact fset_kept hv2
  clear_value v3
  exact fbump_kept (fset_kept hv3)

theorem errFreed_kept {pq : List Instr} {s : State} (h_s : Kept pq s) : Kept pq (errFreed s) := by
  unfold errFreed
  extract_lets v2
  have hv2 : Kept pq v2 := by
    unfold v2
    exact setHeld_kept h_s
  clear_value v2
  split
  · rename_i w6 w7
    exact hv2
  · rename_i w9 w10 w11
    refine on_ite ?_ ?_
    · exact hv2
    · exact errNotify_kept (errPlace_kept ⟨hv2.1, hv2.2.1, hv2.2.2⟩)

theorem errEnter_kept {pq : List Instr} {e : ErrIn} {s : State} (h_s : Kept pq s) : Kept pq (errEnter e s) := by
  unfold errEnter
  extract_lets v2 v3 v4
  clear_value v2 v3
  have hv4 : Kept pq v4 := by
    unfold v4
    refine on_ite ?_ ?_
    · exact h_s
    · exact errPlace_kept ⟨h_s.1, h_s.2.1, h_s.2.2⟩
  clear_value v4
  refine on_ite ?_ ?_
  · exact errDrop_kept h_s
  · refine on_ite ?_ ?_
    · exact ⟨hv4.1, hv4.2.1, hv4.2.2⟩
    · exact errNotify_kept (errPlace_kept hv4)

theorem logErr_kept {pq : List Instr} {e : ErrIn} {s : State} (h_s : Kept pq s) : Kept pq (logErr e s) := by
  unfold logErr
  extract_lets v2 v3
  clear_value v2
  have hv3 : Kept pq v3 := by
    unfold v3
    refine on_ite ?_ ?_
    · exact ⟨h_s.1, h_s.2.1, h_s.2.2⟩
    · exact h_s
  clear_value v3
  refine on_ite ?_ ?_
  · exact h_s
  · exact errEnter_kept hv3

theorem logRefused_kept {pq : List Instr} {code : Nat} {p : Option Nat} {s : State} (h_s : Kept pq s) : Kept pq (logRefused code p s) := by
  unfold logRefused
  exact logErr_kept h_s

theorem firstErr_kept {pq : List Instr} {valid : Fld} {more : Fld} {fields : List (Fld × Nat)} {i : Nat} {s : State} (h_s : Kept pq s) : Kept pq (firstErr valid more fields i s) := by
  unfold firstErr
  refine on_ite ?_ ?_
  · exact fset_kept h_s
  · refine fset_kept ?_
    refine on_foldl ?_ (fun t6 _ h7 => ?_)
    · exact h_s
    · exact fset_kept h7

theorem memWrite_kept {pq : List Instr} {a : Nat} {bs : List Byte} {s : State} (h_s : Kept pq s) : Kept pq (memWrite a bs s) := by
  unfold memWrite
  extract_lets v2
  clear_value v2
  exact ⟨h_s.1, Mem.wf_writeN _ _ (h_s.2.1), h_s.2.2⟩

theorem raiseVector_kept {pq : List Instr} {p : Nat} {vec : Nat} {s : State} (h_s : Kept pq s) : Kept pq (raiseVector p vec s) := by
  unfold raiseVector
  exact msixRaise_kept h_s

theorem faultOverflow_kept {pq : List Instr} {c : Nat} {s : State} (h_s : Kept pq s) : Kept pq (faultOverflow c s) := by
  unfold faultOverflow
  extract_lets v2 v3
  clear_value v2
  have hv3 : Kept pq v3 := by
    unfold v3
    exact ctxSet_kept h_s
  clear_value v3
  refine on_ite ?_ ?_
  · exact hv3
  · exact logErr_kept hv3

theorem faultRecord_kept {pq : List Instr} {c : Nat} {kind : Nat} {reason : Nat} {addr : Nat} {queue : Nat} {index : Nat} {source : Nat} {ucause : Nat} {cmd : Nat} {s : State} (h_s : Kept pq s) : Kept pq (faultRecord c kind reason addr queue index source ucause cmd s) := by
  unfold faultRecord
  extract_lets v2 v3 v4
  clear_value v2
  have hv3 : Kept pq v3 := by
    unfold v3
    exact memWrite_kept h_s
  clear_value v3
  have hv4 : Kept pq v4 := by
    unfold v4
    exact ctxSet_kept hv3
  clear_value v4
  exact raiseVector_kept hv4

theorem ctxFault_kept {pq : List Instr} {c : Nat} {reason : Nat} {source : Nat} {ucause : Nat} {s : State} (h_s : Kept pq s) : Kept pq (ctxFault c reason source ucause s) := by
  unfold ctxFault
  extract_lets v2 v3 v4 v5
  clear_value v2
  have hv3 : Kept pq v3 := by
    unfold v3
    exact ctxSet_kept h_s
  clear_value v3 v4
  have hv5 : Kept pq v5 := by
    unfold v5
    exact partSet_kept hv3
  clear_value v5
  refine on_ite ?_ ?_
  · exact h_s
  · refine on_ite ?_ ?_
    · exact faultOverflow_kept hv5
    · exact faultRecord_kept hv5

theorem spoil_kept {pq : List Instr} {p : Nat} {src : SpoilSrc} {injected : Bool} {s : State} (h_s : Kept pq s) : Kept pq (spoil p src injected s) := by
  unfold spoil
  refine on_ite ?_ ?_
  · exact partMod_kept h_s
  · exact h_s

end Sys2Proof.Machine
end

