-- ==== Sys2Proof/Laws/KeptPerf.lean ====
section
/-! SUPPORT. Laws/KeptPerf.lean: what Machine/Perf.lean keeps (Laws/Kept.lean says what that is). -/
namespace Sys2Proof.Machine

theorem perfCount_kept {pq : List Instr} {ev : Nat} {field : Nat} {part : Nat} {n : Nat} {s : State} (h_s : Kept pq s) : Kept pq (perfCount ev field part n s) := by
  unfold perfCount
  refine on_ite ?_ ?_
  · exact h_s
  · refine on_foldl ?_ (fun t4 _ h5 => ?_)
    · exact h_s
    · refine on_ite ?_ ?_
      · exact fwrap_kept h5
      · exact h5

theorem perfCountHub_kept {pq : List Instr} {ev : Nat} {field : Nat} {n : Nat} {s : State} (h_s : Kept pq s) : Kept pq (perfCountHub ev field n s) := by
  unfold perfCountHub
  refine on_ite ?_ ?_
  · exact h_s
  · refine on_foldl ?_ (fun t4 _ h5 => ?_)
    · exact h_s
    · refine on_ite ?_ ?_
      · exact fwrap_kept h5
      · exact h5

theorem perfEdgeCount_kept {pq : List Instr} {s : State} (h_s : Kept pq s) : Kept pq (perfEdgeCount s) := by
  unfold perfEdgeCount
  refine on_ite ?_ ?_
  · exact h_s
  · refine on_foldl ?_ (fun t4 _ h5 => ?_)
    · exact h_s
    · refine on_ite ?_ ?_
      · exact fwrap_kept h5
      · exact h5

theorem perfSnapshot_kept {pq : List Instr} {s : State} (h_s : Kept pq s) : Kept pq (perfSnapshot s) := by
  unfold perfSnapshot
  extract_lets v2
  have hv2 : Kept pq v2 := by
    unfold v2
    refine on_foldl ?_ (fun t4 _ h5 => ?_)
    · exact h_s
    · exact rset_kept h5
  clear_value v2
  exact fset_kept (fset_kept ⟨hv2.1, hv2.2.1, hv2.2.2⟩)

theorem tpActive_kept {pq : List Instr} {s : State} (h_s : Kept pq s) : Kept pq (tpActive s) := by
  unfold tpActive
  exact setStrict_kept (fset_kept h_s)

theorem tpClearAll_kept {pq : List Instr} {s : State} (h_s : Kept pq s) : Kept pq (tpClearAll s) := by
  unfold tpClearAll
  refine tpActive_kept ?_
  refine on_foldl ?_ (fun t3 _ h4 => ?_)
  · exact ⟨h_s.1, h_s.2.1, h_s.2.2⟩
  · exact rset_kept h4

theorem tpEdge_kept {pq : List Instr} {s : State} (h_s : Kept pq s) : Kept pq (tpEdge s) := by
  unfold tpEdge
  extract_lets v2 v3
  have hv2 : Kept pq v2 := by
    unfold v2
    refine on_foldl ?_ (fun t5 _ h6 => ?_)
    · exact h_s
    · split
      · rename_i w9 w10 w11
        exact rset_kept h6
      · rename_i w14 w15
        exact h6
  clear_value v2
  have hv3 : Kept pq v3 := by
    unfold v3
    exact tpActive_kept ⟨hv2.1, hv2.2.1, hv2.2.2⟩
  clear_value v3
  refine on_ite ?_ ?_
  · exact logErr_kept (tpClearAll_kept ⟨hv3.1, hv3.2.1, hv3.2.2⟩)
  · exact hv3

theorem sluiceEdge_kept {pq : List Instr} {s : State} (h_s : Kept pq s) : Kept pq (sluiceEdge s) := by
  unfold sluiceEdge
  refine on_foldl ?_ (fun t2 _ h3 => ?_)
  · exact ⟨h_s.1, h_s.2.1, h_s.2.2⟩
  · exact rset_kept h3

theorem perfEdge_kept {pq : List Instr} {s : State} (h_s : Kept pq s) : Kept pq (perfEdge s) := by
  unfold perfEdge
  extract_lets v2 v3
  have hv2 : Kept pq v2 := by
    unfold v2
    exact perfEdgeCount_kept (sluiceEdge_kept h_s)
  clear_value v2
  have hv3 : Kept pq v3 := by
    unfold v3
    refine on_ite ?_ ?_
    · exact perfSnapshot_kept hv2
    · exact hv2
  clear_value v3
  exact tpEdge_kept hv3

end Sys2Proof.Machine
end

