-- ==== Sys2Proof/Laws/KeptSluice.lean ====
section
/-! SUPPORT. Laws/KeptSluice.lean: what Machine/Sluice.lean keeps (Laws/Kept.lean says what that is). -/
namespace Sys2Proof.Machine

theorem slcServe_kept {pq : List Instr} {kind : Nat} {res : Nat} {cls : Nat} {n : Nat} {s : State} (h_s : Kept pq s) : Kept pq (slcServe kind res cls n s) := by
  unfold slcServe
  extract_lets v2 v3 v4 v5
  clear_value v2 v3
  have hv4 : Kept pq v4 := by
    unfold v4
    exact ⟨h_s.1, h_s.2.1, h_s.2.2⟩
  clear_value v4
  have hv5 : Kept pq v5 := by
    unfold v5
    exact fset_kept hv4
  clear_value v5
  refine on_ite ?_ ?_
  · exact rset_kept hv5
  · exact hv5

theorem execSluiceWindow_kept {pq : List Instr} {s : State} (h_s : Kept pq s) : (OnNext (Kept pq)) (execSluiceWindow s) := by
  unfold execSluiceWindow
  extract_lets v2 v3
  clear_value v2
  have hv3 : Kept pq v3 := by
    unfold v3
    refine on_foldl ?_ (fun t5 _ h6 => ?_)
    · exact h_s
    · exact fbump_kept h6
  clear_value v3
  exact on_next ⟨hv3.1, hv3.2.1, hv3.2.2⟩

end Sys2Proof.Machine
end

