-- ==== Sys2Proof/Laws/KeptMemOps.lean ====
section
/-! SUPPORT. Laws/KeptMemOps.lean: what Machine/MemOps.lean keeps (Laws/Kept.lean says what that is). -/
namespace Sys2Proof.Machine

theorem memcErr_kept {pq : List Instr} {c : Nat} {cause : Nat} {addr : Nat} {s : State} (h_s : Kept pq s) : Kept pq (memcErr c cause addr s) := by
  unfold memcErr
  exact firstErr_kept h_s

theorem memcRecord_kept {pq : List Instr} {c : Nat} {kind : Nat} {cls : Nat} {addr : Nat} {p : Option Nat} {injected : Bool} {s : State} (h_s : Kept pq s) : Kept pq (memcRecord c kind cls addr p injected s) := by
  unfold memcRecord
  exact logErr_kept h_s

theorem setLost_kept {pq : List Instr} {c : Nat} {s : State} (h_s : Kept pq s) : Kept pq (setLost c s) := by
  unfold setLost
  exact fset_kept h_s

theorem setQueued_kept {pq : List Instr} {c : Nat} {s : State} (h_s : Kept pq s) : Kept pq (setQueued c s) := by
  unfold setQueued
  exact fset_kept h_s

theorem ledgerWrite_kept {pq : List Instr} {s : State} (h_s : Kept pq s) : Kept pq (ledgerWrite s) := by
  unfold ledgerWrite
  extract_lets v2 v3
  clear_value v2 v3
  refine on_ite ?_ ?_
  · exact ⟨h_s.1, h_s.2.1, h_s.2.2⟩
  · exact ⟨h_s.1, h_s.2.1, h_s.2.2⟩

theorem reportPage_kept {pq : List Instr} {sector : Nat} {s : State} (h_s : Kept pq s) : Kept pq (reportPage sector s) := by
  unfold reportPage
  extract_lets v2
  clear_value v2
  exact memcRecord_kept (memcErr_kept h_s)

theorem retirePage_kept {pq : List Instr} {sector : Nat} {s : State} (h_s : Kept pq s) : Kept pq (retirePage sector s) := by
  unfold retirePage
  extract_lets v2 v3 v4 v5 v6 v7 v8
  clear_value v2 v3 v4
  have hv5 : Kept pq v5 := by
    unfold v5
    exact fset_kept h_s
  clear_value v5 v6 v7
  have hv8 : Kept pq v8 := by
    unfold v8
    refine on_ite ?_ ?_
    · exact fset_kept hv5
    · exact hv5
  clear_value v8
  refine on_ite ?_ ?_
  · refine on_ite ?_ ?_
    · exact h_s
    · exact ledgerWrite_kept ⟨h_s.1, h_s.2.1, h_s.2.2⟩
  · refine on_ite ?_ ?_
    · exact h_s
    · refine on_ite ?_ ?_
      · exact reportPage_kept (fset_kept ⟨hv5.1, hv5.2.1, hv5.2.2⟩)
      · exact ledgerWrite_kept ⟨hv8.1, hv8.2.1, hv8.2.2⟩

theorem queueRepair_kept {pq : List Instr} {sector : Nat} {s : State} (h_s : Kept pq s) : Kept pq (queueRepair sector s) := by
  unfold queueRepair
  extract_lets v2
  clear_value v2
  refine on_ite ?_ ?_
  · exact h_s
  · refine on_ite ?_ ?_
    · exact retirePage_kept h_s
    · exact setQueued_kept ⟨h_s.1, h_s.2.1, h_s.2.2⟩

theorem loseSector_kept {pq : List Instr} {sector : Nat} {s : State} (h_s : Kept pq s) : Kept pq (loseSector sector s) := by
  unfold loseSector
  extract_lets v2
  clear_value v2
  refine on_ite ?_ ?_
  · exact h_s
  · refine on_ite ?_ ?_
    · exact retirePage_kept (memcRecord_kept (memcErr_kept h_s))
    · exact setLost_kept ⟨h_s.1, h_s.2.1, h_s.2.2⟩

theorem memUncorrectable_kept {pq : List Instr} {addr : Nat} {cause : Nat} {p : Option Nat} {injected : Bool} {s : State} (h_s : Kept pq s) : Kept pq (memUncorrectable addr cause p injected s) := by
  unfold memUncorrectable
  extract_lets v2 v3 v4 v5 v6
  clear_value v2
  have hv3 : Kept pq v3 := by
    unfold v3
    exact fbump_kept (memcErr_kept h_s)
  clear_value v3 v4
  have hv5 : Kept pq v5 := by
    unfold v5
    exact memcRecord_kept hv3
  clear_value v5
  have hv6 : Kept pq v6 := by
    unfold v6
    refine on_ite ?_ ?_
    · exact hv5
    · exact queueRepair_kept hv5
  clear_value v6
  split
  · rename_i w17 w18
    refine on_ite ?_ ?_
    · exact spoil_kept hv6
    · exact hv6
  · rename_i w23
    exact hv6

theorem placeKeys_kept {pq : List Instr} {p : Nat} {s : State} (h_s : Kept pq s) : Kept pq (placeKeys p s) := by
  unfold placeKeys
  extract_lets v2 v3 v4
  clear_value v2
  have hv3 : Kept pq v3 := by
    unfold v3
    refine on_ite ?_ ?_
    · exact h_s
    · exact tickFresh_kept ⟨h_s.1, h_s.2.1, h_s.2.2⟩
  clear_value v3 v4
  refine on_ite ?_ ?_
  · exact hv3
  · exact ⟨hv3.1, hv3.2.1, hv3.2.2⟩

theorem countRead_kept {pq : List Instr} {c : Nat} {s : State} (h_s : Kept pq s) : Kept pq (countRead c s) := by
  unfold countRead
  exact fwrap_kept h_s

theorem countWrite_kept {pq : List Instr} {c : Nat} {s : State} (h_s : Kept pq s) : Kept pq (countWrite c s) := by
  unfold countWrite
  exact fwrap_kept h_s

theorem slcMem_kept {pq : List Instr} {addr : Nat} {cls : Nat} {n : Nat} {s : State} (h_s : Kept pq s) : Kept pq (slcMem addr cls n s) := by
  unfold slcMem
  exact slcServe_kept h_s

theorem interfaceTries_kept {pq : List Instr} {sector : Nat} {n : Nat} {s : State} (h_s : Kept pq s) : (OnSnd (Kept pq)) (interfaceTries sector n s) := by
  unfold interfaceTries
  extract_lets v2 v3 v4
  clear_value v2 v3
  have hv4 : Kept pq v4 := by
    unfold v4
    refine on_ite ?_ ?_
    · exact h_s
    · exact fbump_kept h_s
  clear_value v4
  refine on_ite ?_ ?_
  · exact on_mk ⟨hv4.1, hv4.2.1, hv4.2.2⟩
  · exact on_mk hv4

theorem refreshReport_kept {pq : List Instr} {c : Nat} {u : MemUpset} {s : State} (h_s : Kept pq s) : Kept pq (refreshReport c u s) := by
  unfold refreshReport
  split
  · rename_i w2 w3 w4
    exact fset_kept h_s
  · rename_i w7 w8
    exact h_s

theorem partWrite_kept {pq : List Instr} {sector : Nat} {u : MemUpset} {s : State} (h_s : Kept pq s) : Kept pq (partWrite sector u s) := by
  unfold partWrite
  extract_lets v2
  clear_value v2
  split
  rename_i w4 w5 w6 w7
  refine on_use (P := (OnSnd (Kept pq))) w7 ?_ (fun hw7 => ?_)
  · exact interfaceTries_kept (refreshReport_kept h_s)
  refine on_ite ?_ ?_
  · exact loseSector_kept (memUncorrectable_kept hw7)
  · exact emit_kept (countWrite_kept hw7)

theorem countReads_kept {pq : List Instr} {a : Nat} {n : Nat} {cls : Nat} {s : State} (h_s : Kept pq s) : Kept pq (countReads a n cls s) := by
  unfold countReads
  refine on_foldl ?_ (fun t2 _ h3 => ?_)
  · exact h_s
  · exact slcMem_kept (countRead_kept h3)

theorem lostMet_kept {pq : List Instr} {a : Nat} {n : Nat} {s : State} (h_s : Kept pq s) : Kept pq (lostMet a n s) := by
  unfold lostMet
  split
  · rename_i w2 w3 w4
    exact memUncorrectable_kept h_s
  · rename_i w7 w8
    exact h_s

theorem devRead_kept {pq : List Instr} {a : Nat} {n : Nat} {p : Option Nat} {s : State} {cls : Nat} (h_s : Kept pq s) : (OnSnd (Kept pq)) (devRead a n p s cls) := by
  unfold devRead
  split
  · rename_i w2 w3 w4
    exact on_mk (memUncorrectable_kept h_s)
  · rename_i w8 w9
    exact on_mk (countReads_kept h_s)

theorem wcSet_kept {pq : List Instr} {c : Nat} {l : List WcEntry} {s : State} (h_s : Kept pq s) : Kept pq (wcSet c l s) := by
  unfold wcSet
  exact ⟨h_s.1, h_s.2.1, h_s.2.2⟩

theorem rmwPart_kept {pq : List Instr} {sector : Nat} {u : MemUpset} {s : State} (h_s : Kept pq s) : Kept pq (rmwPart sector u s) := by
  unfold rmwPart
  extract_lets v2
  clear_value v2
  exact fwrap_kept (partWrite_kept h_s)

theorem wcWrite_kept {pq : List Instr} {sector : Nat} {off : Nat} {n : Nat} {u : MemUpset} {s : State} (h_s : Kept pq s) : Kept pq (wcWrite sector off n u s) := by
  unfold wcWrite
  extract_lets v2 v3 v4 v5 v6 v7 v8
  clear_value v2 v3 v4
  have hv5 : Kept pq v5 := by
    unfold v5
    exact ⟨h_s.1, h_s.2.1, h_s.2.2⟩
  clear_value v5 v6 v7 v8
  refine on_ite ?_ ?_
  · exact partWrite_kept (wcSet_kept hv5)
  · refine on_ite ?_ ?_
    · exact partWrite_kept (wcSet_kept hv5)
    · refine on_ite ?_ ?_
      · exact wcSet_kept hv5
      · split
        · rename_i w22 w23 w24
          exact rmwPart_kept (countRead_kept (wcSet_kept hv5))
        · rename_i w29
          exact hv5

theorem devWriteSector_kept {pq : List Instr} {a : Nat} {bs : List Byte} {cls : Nat} {u : MemUpset} {s : State} (h_s : Kept pq s) : Kept pq (devWriteSector a bs cls u s) := by
  unfold devWriteSector
  extract_lets v2
  have hv2 : ∀ y0, Kept pq y0 → Kept pq (v2 y0) := by
    unfold v2
    intro a3 a4
    exact wcWrite_kept (memWrite_kept (slcMem_kept a4))
  clear_value v2
  refine on_ite ?_ ?_
  · exact h_s
  · refine on_ite ?_ ?_
    · refine on_ite ?_ ?_
      · exact hv2 _ (setLost_kept ⟨h_s.1, h_s.2.1, h_s.2.2⟩)
      · exact h_s
    · exact hv2 _ h_s

theorem devWrite_kept {pq : List Instr} {cls : Nat} {x1 : Nat} {x2 : Nat} {x3 : List Byte} {x4 : State} (h_x4 : Kept pq x4) : Kept pq (devWrite cls x1 x2 x3 x4) := by
  induction x1 generalizing cls x2 x3 x4 h_x4 with
  | zero =>
    unfold devWrite
    exact h_x4
  | succ m ih =>
    unfold devWrite
    extract_lets v3
    clear_value v3
    refine on_ite ?_ ?_
    · exact h_x4
    · exact ih (devWriteSector_kept h_x4)

theorem devStore_kept {pq : List Instr} {a : Nat} {bs : List Byte} {s : State} {cls : Nat} (h_s : Kept pq s) : Kept pq (devStore a bs s cls) := by
  unfold devStore
  exact devWrite_kept h_s

theorem setDirty_kept {pq : List Instr} {p : Nat} {v : Nat} {s : State} (h_s : Kept pq s) : Kept pq (setDirty p v s) := by
  unfold setDirty
  exact rset_kept h_s

theorem clearBegin_kept {pq : List Instr} {p : Nat} {s : State} (h_s : Kept pq s) : Kept pq (clearBegin p s) := by
  unfold clearBegin
  extract_lets v2 v3
  have hv2 : Kept pq v2 := by
    unfold v2
    exact fset_kept (fset_kept (setDirty_kept h_s))
  clear_value v2 v3
  exact ⟨hv2.1, hv2.2.1, hv2.2.2⟩

theorem clearAsk_kept {pq : List Instr} {p : Nat} {s : State} (h_s : Kept pq s) : Kept pq (clearAsk p s) := by
  unfold clearAsk
  extract_lets v2
  have hv2 : Kept pq v2 := by
    unfold v2
    exact setDirty_kept h_s
  clear_value v2
  refine on_ite ?_ ?_
  · exact ⟨hv2.1, hv2.2.1, hv2.2.2⟩
  · exact clearBegin_kept h_s

theorem removalStep_kept {pq : List Instr} {s : State} (h_s : Kept pq s) : Kept pq (removalStep s) := by
  unfold removalStep
  extract_lets v2
  have hv2 : Kept pq v2 := by
    unfold v2
    refine on_ite ?_ ?_
    · exact emit_kept (fset_kept h_s)
    · exact h_s
  clear_value v2
  refine on_ite ?_ ?_
  · exact h_s
  · refine on_ite ?_ ?_
    · exact hv2
    · exact emit_kept (fset_kept (fset_kept ⟨hv2.1, hv2.2.1, hv2.2.2⟩))

theorem lossDone_kept {pq : List Instr} {s : State} (h_s : Kept pq s) : Kept pq (lossDone s) := by
  unfold lossDone
  extract_lets v2
  have hv2 : Kept pq v2 := by
    unfold v2
    exact removalStep_kept h_s
  clear_value v2
  refine on_ite ?_ ?_
  · exact setHubState_kept (fset_kept hv2)
  · exact hv2

theorem clearRanges_kept {pq : List Instr} {rs : List (Nat × Nat)} {s : State} {cls : Nat} (h_s : Kept pq s) : Kept pq (clearRanges rs s cls) := by
  unfold clearRanges
  extract_lets v2
  have hv2 : Kept pq v2 := by
    unfold v2
    refine on_foldl ?_ (fun t4 _ h5 => ?_)
    · exact h_s
    · extract_lets v8
      clear_value v8
      refine on_ite ?_ ?_
      · exact h5
      · exact slcServe_kept (fwrap_kept h5)
  clear_value v2
  refine on_foldl ?_ (fun t15 _ h16 => ?_)
  · exact hv2
  · exact emit_kept h16

theorem zeroRange_kept {pq : List Instr} {a : Nat} {n : Nat} {s : State} (h_s : Kept pq s) : Kept pq (zeroRange a n s) := by
  unfold zeroRange
  extract_lets v2
  have hv2 : Kept pq v2 := by
    unfold v2
    exact clearRanges_kept ⟨h_s.1, Mem.wf_clear _ _ (h_s.2.1), h_s.2.2⟩
  clear_value v2
  refine on_foldl ?_ (fun t6 _ h7 => ?_)
  · exact hv2
  · exact setLost_kept h7

theorem clearEnd_kept {pq : List Instr} {p : Nat} {s : State} (h_s : Kept pq s) : Kept pq (clearEnd p s) := by
  unfold clearEnd
  extract_lets v2 v3 v4 v5 v6 v7
  clear_value v2
  have hv3 : Kept pq v3 := by
    unfold v3
    exact clearRanges_kept h_s
  clear_value v3 v4
  have hv5 : Kept pq v5 := by
    unfold v5
    exact ⟨hv3.1, on_foldl (P := fun m => Mem.wf m = true) (hv3.2.1) (fun _ _ h => Mem.wf_clear _ _ h), hv3.2.2⟩
  clear_value v5
  have hv6 : Kept pq v6 := by
    unfold v6
    refine on_foldl ?_ (fun t12 _ h13 => ?_)
    · exact hv5
    · exact setLost_kept h13
  clear_value v6
  have hv7 : Kept pq v7 := by
    unfold v7
    exact fset_kept (setDirty_kept (fset_kept hv6))
  clear_value v7
  split
  · rename_i w22 w23 w24 w25
    exact clearBegin_kept ⟨hv7.1, hv7.2.1, hv7.2.2⟩
  · rename_i w28 w29
    exact lossDone_kept hv7

theorem linkWake_kept {pq : List Instr} {port : Nat} {s : State} (h_s : Kept pq s) : Kept pq (linkWake port s) := by
  unfold linkWake
  extract_lets v2
  clear_value v2
  refine on_ite ?_ ?_
  · exact fset_kept h_s
  · exact h_s

theorem hostStore_kept {pq : List Instr} {p : Nat} {c : Nat} {a : Nat} {bs : List Byte} {ordered : Bool} {s : State} {cls : Nat} (h_s : Kept pq s) : Kept pq (hostStore p c a bs ordered s cls) := by
  unfold hostStore
  extract_lets v2 v3 v4
  clear_value v2 v3
  have hv4 : Kept pq v4 := by
    unfold v4
    exact ⟨h_s.1, h_s.2.1, h_s.2.2⟩
  clear_value v4
  refine on_ite ?_ ?_
  · exact emit_kept (slcServe_kept (fwrap_kept (linkWake_kept hv4)))
  · exact hv4

theorem countVaReads_kept {pq : List Instr} {c : Nat} {cls : Nat} {ps : List (Nat × Nat)} {s : State} (h_s : Kept pq s) : Kept pq (countVaReads c cls ps s) := by
  unfold countVaReads
  refine on_foldl ?_ (fun t2 _ h3 => ?_)
  · exact h_s
  · split
    · rename_i w6 w7 w8
      refine on_ite ?_ ?_
      · exact h3
      · exact countReads_kept h3
    · rename_i w13 w14 w15
      exact h3

theorem vaFailed_kept {pq : List Instr} {c : Nat} {ps : List (Nat × Nat)} {s : State} {p : Option Nat} (h_s : Kept pq s) : Kept pq (vaFailed c ps s p) := by
  unfold vaFailed
  split
  · rename_i w2 w3 w4
    exact memUncorrectable_kept h_s
  · rename_i w7 w8
    exact h_s

theorem vaWriteAll_kept {pq : List Instr} {c : Nat} {cls : Nat} {x2 : List (Nat × Nat)} {x3 : List Byte} {x4 : State} (h_x4 : Kept pq x4) : Kept pq (vaWriteAll c cls x2 x3 x4) := by
  induction x2 generalizing c cls x3 x4 h_x4 with
  | nil =>
    unfold vaWriteAll
    exact h_x4
  | cons hd tl ih =>
    unfold vaWriteAll
    extract_lets v3
    have hv3 : Kept pq v3 := by
      unfold v3
      split
      · rename_i w5 w6 w7
        refine on_ite ?_ ?_
        · exact hostStore_kept h_x4
        · exact devStore_kept h_x4
      · rename_i w13 w14 w15
        exact h_x4
    clear_value v3
    exact ih hv3

theorem vaWrite_kept {pq : List Instr} {c : Nat} {va : Nat} {bs : List Byte} {s : State} {cls : Nat} (h_s : Kept pq s) : Kept pq (vaWrite c va bs s cls) := by
  unfold vaWrite
  exact vaWriteAll_kept h_s

end Sys2Proof.Machine
end

