-- ==== Sys2Proof/Laws/KeptPower.lean ====
section
/-! SUPPORT. Laws/KeptPower.lean: what Machine/Power.lean keeps (Laws/Kept.lean says what that is). -/
namespace Sys2Proof.Machine

theorem lifeWipe_kept {pq : List Instr} {s : State} (h_s : Kept pq s) : Kept pq (lifeWipe s) := by
  unfold lifeWipe
  extract_lets v2 v3
  clear_value v2 v3
  refine on_ite ?_ ?_
  · exact h_s
  · exact ⟨h_s.1, h_s.2.1, h_s.2.2⟩

theorem otpLoad_kept {pq : List Instr} {s : State} (h_s : Kept pq s) : Kept pq (otpLoad s) := by
  unfold otpLoad
  extract_lets v2 v3 v4 v5 v6 v7 v8
  have hv2 : Kept pq v2 := by
    unfold v2
    exact lifeWipe_kept h_s
  clear_value v2 v3 v4 v5
  have hv6 : Kept pq v6 := by
    unfold v6
    exact rset_kept hv2
  clear_value v6
  have hv7 : Kept pq v7 := by
    unfold v7
    exact rset_kept hv6
  clear_value v7
  have hv8 : Kept pq v8 := by
    unfold v8
    exact rset_kept hv7
  clear_value v8
  exact tickFresh_kept ⟨hv8.1, hv8.2.1, hv8.2.2⟩

theorem cutOtp_kept {pq : List Instr} {s : State} {j : OtpJob} (h_s : Kept pq s) : Kept pq (cutOtp s j) := by
  unfold cutOtp
  extract_lets v2
  clear_value v2
  split
  · rename_i w4 w5 w6 w7
    exact ⟨h_s.1, h_s.2.1, h_s.2.2⟩
  · rename_i w9 w10 w11 w12
    extract_lets v14 v15
    clear_value v14 v15
    exact tickFresh_kept ⟨h_s.1, h_s.2.1, h_s.2.2⟩
  · rename_i w18 w19 w20 w21
    exact ⟨h_s.1, h_s.2.1, h_s.2.2⟩
  · rename_i w23 w24 w25 w26
    exact tickFresh_kept ⟨h_s.1, h_s.2.1, h_s.2.2⟩

theorem cutFlash_kept {pq : List Instr} {s : State} {j : FlashJob} (h_s : Kept pq s) : Kept pq (cutFlash s j) := by
  unfold cutFlash
  extract_lets v2
  clear_value v2
  split
  · rename_i w4 w5 w6 w7
    exact ⟨h_s.1, h_s.2.1, h_s.2.2⟩
  · rename_i w9 w10 w11
    exact ⟨h_s.1, h_s.2.1, h_s.2.2⟩
  · rename_i w13 w14 w15
    exact ⟨h_s.1, h_s.2.1, h_s.2.2⟩

theorem cutLedger_kept {pq : List Instr} {s : State} (h_s : Kept pq s) : Kept pq (cutLedger s) := by
  unfold cutLedger
  extract_lets v2
  refine on_ite ?_ ?_
  · exact h_s
  · refine on_ite ?_ ?_
    · exact ⟨h_s.1, h_s.2.1, h_s.2.2⟩
    · exact ⟨h_s.1, h_s.2.1, h_s.2.2⟩

theorem cutJobs_kept {pq : List Instr} {s : State} (h_s : Kept pq s) : Kept pq (cutJobs s) := by
  unfold cutJobs
  refine on_foldl ?_ (fun t2 _ h3 => ?_)
  · refine on_foldl ?_ (fun t5 _ h6 => ?_)
    · exact cutLedger_kept h_s
    · exact cutOtp_kept h6
  · exact cutFlash_kept h3

theorem keepSite_kept {pq : List Instr} {old : State} {s : State} {n : Nat} (h_old : Kept pq old) (h_s : Kept pq s) : Kept pq (keepSite old s n) := by
  unfold keepSite
  extract_lets v2
  have hv2 : Kept pq v2 := by
    unfold v2
    exact fset_kept h_s
  clear_value v2
  refine on_ite ?_ ?_
  · exact fset_kept (fset_kept (fset_kept hv2))
  · exact hv2

theorem keepHub_kept {pq : List Instr} {old : State} {s : State} (h_old : Kept pq old) (h_s : Kept pq s) : Kept pq (keepHub old s) := by
  unfold keepHub
  extract_lets v2 v3 v4 v5 v6
  have hv2 : Kept pq v2 := by
    unfold v2
    refine on_foldl ?_ (fun t8 _ h9 => ?_)
    · exact h_s
    · refine keepSite_kept ?_ ?_
      · exact h_old
      · exact h9
  clear_value v2
  have hv3 : Kept pq v3 := by
    unfold v3
    exact fset_kept hv2
  clear_value v3
  have hv4 : Kept pq v4 := by
    unfold v4
    exact fset_kept hv3
  clear_value v4
  have hv5 : Kept pq v5 := by
    unfold v5
    exact fset_kept (fset_kept hv4)
  clear_value v5 v6
  exact ⟨hv5.1, hv5.2.1, hv5.2.2⟩

theorem powerOn_kept {pq : List Instr} {standby : Bool} {s : State} (h_s : Kept pq s) : Kept pq (powerOn standby s) := by
  unfold powerOn
  extract_lets v2 v3 v4 v5 v6 v7 v8 v9 v10
  have hv2 : Kept pq v2 := by
    unfold v2
    exact cutJobs_kept h_s
  clear_value v2 v3 v4
  have hv5 : Kept pq v5 := by
    unfold v5
    exact ⟨hv2.1, rfl, rfl⟩
  clear_value v5
  have hv6 : Kept pq v6 := by
    unfold v6
    refine on_ite ?_ ?_
    · exact fset_kept hv5
    · refine keepHub_kept ?_ ?_
      · exact hv2
      · exact hv5
  clear_value v6
  have hv7 : Kept pq v7 := by
    unfold v7
    exact fset_kept hv6
  clear_value v7
  have hv8 : Kept pq v8 := by
    unfold v8
    exact emit_kept (otpLoad_kept hv7)
  clear_value v8
  have hv9 : Kept pq v9 := by
    unfold v9
    refine on_ite ?_ ?_
    · exact emit_kept hv8
    · exact hv8
  clear_value v9
  have hv10 : Kept pq v10 := by
    unfold v10
    refine on_ite ?_ ?_
    · exact emit_kept hv9
    · exact hv9
  clear_value v10
  exact setStrict_kept hv10

end Sys2Proof.Machine
end

