-- ==== Sys2Proof/Laws/KeptObjects.lean ====
section
/-! SUPPORT. Laws/KeptObjects.lean: what Machine/Objects.lean keeps (Laws/Kept.lean says what that is). -/
namespace Sys2Proof.Machine

theorem objMet_kept {pq : List Instr} {p : Nat} {n : Nat} {s : State} (h_s : Kept pq s) : Kept pq (objMet p n s) := by
  unfold objMet
  split
  · rename_i w2 w3 w4
    exact lostMet_kept h_s
  · rename_i w7 w8
    exact h_s

theorem objPut_kept {pq : List Instr} {p : Nat} {n : Nat} {e : ObjE} {s : State} (h_s : Kept pq s) : Kept pq (objPut p n e s) := by
  unfold objPut
  split
  · rename_i w2 w3 w4
    exact devStore_kept h_s
  · rename_i w7 w8
    exact h_s

theorem refTake_kept {pq : List Instr} {r : Nat × Nat} {s : State} (h_s : Kept pq s) : Kept pq (refTake r s) := by
  unfold refTake
  split
  · rename_i w2 w3 w4
    exact objPut_kept h_s
  · rename_i w7 w8
    exact h_s

theorem refDrop_kept {pq : List Instr} {r : Nat × Nat} {s : State} (h_s : Kept pq s) : Kept pq (refDrop r s) := by
  unfold refDrop
  split
  · rename_i w2 w3 w4
    extract_lets v6
    clear_value v6
    exact objPut_kept h_s
  · rename_i w9 w10
    exact h_s

theorem ringReserve_kept {pq : List Instr} {q : Nat} {n : Nat} {s : State} (h_s : Kept pq s) : Kept pq (ringReserve q n s) := by
  unfold ringReserve
  exact queueMod_kept h_s

theorem ringReturn_kept {pq : List Instr} {q : Nat} {n : Nat} {s : State} (h_s : Kept pq s) : Kept pq (ringReturn q n s) := by
  unfold ringReturn
  exact queueMod_kept h_s

theorem putFor_kept {pq : List Instr} {c : Nat} {host : Bool} {a : Nat} {bs : List Byte} {ordered : Bool} {s : State} (h_s : Kept pq s) : Kept pq (putFor c host a bs ordered s) := by
  unfold putFor
  refine on_ite ?_ ?_
  · refine on_ite ?_ ?_
    · exact h_s
    · exact hostStore_kept h_s
  · exact devStore_kept h_s

theorem ringPut_kept {pq : List Instr} {q : Nat} {rec : List Byte} {s : State} (h_s : Kept pq s) : Kept pq (ringPut q rec s) := by
  unfold ringPut
  extract_lets v2 v3
  clear_value v2
  have hv3 : Kept pq v3 := by
    unfold v3
    split
    · rename_i w5 w6 w7 w8
      exact putFor_kept h_s
    · rename_i w11 w12
      exact h_s
  clear_value v3
  exact queueMod_kept hv3

theorem ringIrq_kept {pq : List Instr} {q : Nat} {s : State} (h_s : Kept pq s) : Kept pq (ringIrq q s) := by
  unfold ringIrq
  extract_lets v2
  clear_value v2
  refine on_ite ?_ ?_
  · exact h_s
  · refine on_ite ?_ ?_
    · exact queueMod_kept h_s
    · exact raiseVector_kept (queueMod_kept h_s)

theorem ringPublish_kept {pq : List Instr} {q : Nat} {s : State} (h_s : Kept pq s) : Kept pq (ringPublish q s) := by
  unfold ringPublish
  extract_lets v2 v3
  clear_value v2
  have hv3 : Kept pq v3 := by
    unfold v3
    refine on_ite ?_ ?_
    · exact fset_kept h_s
    · split
      · rename_i w8 w9 w10
        exact putFor_kept h_s
      · rename_i w13 w14 w15
        exact h_s
  clear_value v3
  exact ringIrq_kept hv3

theorem queueFree_kept {pq : List Instr} {q : Nat} {s : State} (h_s : Kept pq s) : Kept pq (queueFree q s) := by
  unfold queueFree
  extract_lets v2 v3
  clear_value v2
  have hv3 : Kept pq v3 := by
    unfold v3
    exact ⟨h_s.1, h_s.2.1, h_s.2.2⟩
  clear_value v3
  split
  · rename_i w6 w7 w8
    exact refDrop_kept hv3
  · rename_i w11 w12
    exact hv3

theorem fenceWrite_kept {pq : List Instr} {f : Fence} {s : State} (h_s : Kept pq s) : Kept pq (fenceWrite f s) := by
  unfold fenceWrite
  exact putFor_kept h_s

theorem fenceRaise_kept {pq : List Instr} {n : Nat} {v : Nat} {s : State} (h_s : Kept pq s) : Kept pq (fenceRaise n v s) := by
  unfold fenceRaise
  split
  · rename_i w2 w3
    exact logErr_kept h_s
  · rename_i w6 w7 w8
    extract_lets v10 v11
    clear_value v10
    have hv11 : Kept pq v11 := by
      unfold v11
      exact fenceWrite_kept ⟨h_s.1, h_s.2.1, h_s.2.2⟩
    clear_value v11
    refine on_ite ?_ ?_
    · exact h_s
    · refine on_ite ?_ ?_
      · exact logErr_kept hv11
      · exact hv11

theorem setAts_kept {pq : List Instr} {port : Nat} {s : State} (h_s : Kept pq s) : Kept pq (setAts port s) := by
  unfold setAts
  extract_lets v2 v3
  clear_value v2 v3
  exact fset_kept (fset_kept h_s)

theorem dropUnpinned_kept {pq : List Instr} {p : Nat} {gone : List Pin} {s : State} (h_s : Kept pq s) : Kept pq (dropUnpinned p gone s) := by
  unfold dropUnpinned
  extract_lets v2
  have hv2 : Kept pq v2 := by
    unfold v2
    exact ⟨h_s.1, h_s.2.1, h_s.2.2⟩
  clear_value v2
  exact setAts_kept hv2

theorem unpinPages_kept {pq : List Instr} {c : Nat} {f : Nat → Bool} {s : State} (h_s : Kept pq s) : Kept pq (unpinPages c f s) := by
  unfold unpinPages
  extract_lets v2
  clear_value v2
  refine on_ite ?_ ?_
  · exact h_s
  · exact dropUnpinned_kept ⟨h_s.1, h_s.2.1, h_s.2.2⟩

theorem markTiles_kept {pq : List Instr} {c : Nat} {first : Nat} {last : Nat} {s : State} (h_s : Kept pq s) : Kept pq (markTiles c first last s) := by
  unfold markTiles
  exact ⟨h_s.1, h_s.2.1, h_s.2.2⟩

end Sys2Proof.Machine
end

