-- ==== Sys2Proof/Laws/KeptGriset.lean ====
section
/-! SUPPORT. Laws/KeptGriset.lean: what Machine/Griset.lean keeps (Laws/Kept.lean says what that is). -/
namespace Sys2Proof.Machine

theorem dataOut_kept {pq : List Instr} {c : Cmd} {data : List Byte} {s : State} (h_s : Kept pq s) : Kept pq (dataOut c data s) := by
  unfold dataOut
  split
  · rename_i w2 w3 w4 w5
    exact vaWrite_kept h_s
  · rename_i w8 w9 w10
    exact h_s

theorem completeRaw_kept {pq : List Instr} {c : Cmd} {st : Nat} {d0 : Nat} {d1 : Nat} {data : List Byte} {s : State} (h_s : Kept pq s) : Kept pq (completeRaw c st d0 d1 data s) := by
  unfold completeRaw
  extract_lets v2 v3 v4 v5 v6
  have hv2 : Kept pq v2 := by
    unfold v2
    exact ⟨h_s.1, h_s.2.1, h_s.2.2⟩
  clear_value v2
  have hv3 : Kept pq v3 := by
    unfold v3
    refine on_ite ?_ ?_
    · exact logRefused_kept (fbump_kept hv2)
    · exact hv2
  clear_value v3
  have hv4 : Kept pq v4 := by
    unfold v4
    exact fset_kept hv3
  clear_value v4
  have hv5 : Kept pq v5 := by
    unfold v5
    refine on_ite ?_ ?_
    · exact hv3
    · exact dataOut_kept hv3
  clear_value v5
  have hv6 : Kept pq v6 := by
    unfold v6
    split
    · rename_i w20 w21
      exact emit_kept hv4
    · rename_i w24 w25 w26
      extract_lets v28
      clear_value v28
      refine on_ite ?_ ?_
      · exact hv5
      · refine on_ite ?_ ?_
        · exact ringReturn_kept hv5
        · exact ringPublish_kept (ringPut_kept hv5)
  clear_value v6
  refine on_foldl ?_ (fun t38 _ h39 => ?_)
  · exact hv6
  · exact refDrop_kept h39

theorem setStep_kept {pq : List Instr} {id : Nat} {st : CmdStep} {s : State} (h_s : Kept pq s) : Kept pq (setStep id st s) := by
  unfold setStep
  exact ⟨h_s.1, h_s.2.1, h_s.2.2⟩

theorem setAux_kept {pq : List Instr} {id : Nat} {a : List Nat} {s : State} (h_s : Kept pq s) : Kept pq (setAux id a s) := by
  unfold setAux
  exact ⟨h_s.1, h_s.2.1, h_s.2.2⟩

theorem autoDone_kept {pq : List Instr} {s : State} {c : Cmd} (h_s : Kept pq s) : (OnSome (OnSnd (OnSnd (Kept pq)))) (autoDone s c) := by
  unfold autoDone
  split
  · rename_i w2 w3
    refine on_ite ?_ ?_
    · exact on_some (on_mk (on_mk h_s))
    · exact on_none
  · rename_i w10 w11 w12
    split
    · rename_i w14 w15 w16
      refine on_ite ?_ ?_
      · exact on_some (on_mk (on_mk h_s))
      · refine on_ite ?_ ?_
        · exact on_some (on_mk (on_mk h_s))
        · exact on_none
    · rename_i w28 w29
      exact on_none
  · rename_i w31 w32 w33
    refine on_ite ?_ ?_
    · exact on_some (on_mk (on_mk (queueFree_kept h_s)))
    · exact on_none
  · rename_i w41 w42 w43 w44 w45
    refine on_ite ?_ ?_
    · split
      · rename_i w48 w49 w50
        refine on_ite ?_ ?_
        · exact on_some (on_mk (on_mk (objPut_kept h_s)))
        · exact on_none
      · rename_i w58 w59
        exact on_some (on_mk (on_mk h_s))
    · exact on_none
  · rename_i w65 w66 w67 w68
    split
    · rename_i w70 w71 w72
      refine on_ite ?_ ?_
      · exact on_some (on_mk (on_mk h_s))
      · exact on_none
    · rename_i w79 w80
      exact on_some (on_mk (on_mk h_s))
  · rename_i w85 w86 w87 w88
    extract_lets v90
    clear_value v90
    refine on_ite ?_ ?_
    · exact on_none
    · exact on_some (on_mk (on_mk ⟨h_s.1, h_s.2.1, h_s.2.2⟩))
  · rename_i w97 w98 w99 w100 w101 w102 w103
    exact on_none

theorem markReleasing_kept {pq : List Instr} {s : State} (h_s : Kept pq s) : Kept pq (markReleasing s) := by
  unfold markReleasing
  refine on_foldl ?_ (fun t2 _ h3 => ?_)
  · exact h_s
  · split
    · rename_i w6 w7 w8 w9 w10
      refine on_ite ?_ ?_
      · split
        · rename_i w13 w14 w15
          refine on_ite ?_ ?_
          · exact h3
          · exact setStep_kept (objPut_kept h3)
        · rename_i w21 w22
          exact h3
      · exact h3
    · rename_i w25 w26
      exact h3

theorem sweepN_kept {pq : List Instr} {x0 : Nat} {x1 : State} (h_x1 : Kept pq x1) : Kept pq (sweepN x0 x1) := by
  induction x0 generalizing x1 h_x1 with
  | zero =>
    unfold sweepN
    exact h_x1
  | succ m ih =>
    unfold sweepN
    extract_lets v3
    have hv3 : Kept pq v3 := by
      unfold v3
      exact markReleasing_kept h_x1
    clear_value v3
    split
    · rename_i w7 w8
      exact hv3
    · rename_i w10 w11 w12 w13 w14 w15
      refine on_use (P := (OnSome (OnSnd (OnSnd (OnSnd (Kept pq)))))) w15 ?_ (fun hw15 => ?_)
      · refine on_findSome ?_
        intro a17
        refine on_map (Q := (OnSnd (OnSnd (Kept pq)))) ?_ (fun t19 h20 => ?_)
        · exact autoDone_kept hv3
        · exact on_mk h20
      exact ih (completeRaw_kept ((hw15 _ rfl)))

theorem sweep_kept {pq : List Instr} {s : State} (h_s : Kept pq s) : Kept pq (sweep s) := by
  unfold sweep
  exact sweepN_kept h_s

theorem finish_kept {pq : List Instr} {c : Cmd} {st : Nat} {d0 : Nat} {d1 : Nat} {data : List Byte} {s : State} (h_s : Kept pq s) : Kept pq (finish c st d0 d1 data s) := by
  unfold finish
  exact sweep_kept (completeRaw_kept h_s)

theorem enterCmd_kept {pq : List Instr} {src : CmdSrc} {index : Nat} {p : Packet} {payload : List Byte} {fail : Option Nat} {s : State} (h_s : Kept pq s) : Kept pq (enterCmd src index p payload fail s) := by
  unfold enterCmd
  extract_lets v2 v3 v4 v5 v6 v7 v8 v9
  clear_value v2 v3 v4 v5
  have hv6 : Kept pq v6 := by
    unfold v6
    refine on_ite ?_ ?_
    · refine on_foldl ?_ (fun t12 _ h13 => ?_)
      · exact h_s
      · exact objMet_kept h13
    · exact h_s
  clear_value v6 v7 v8
  have hv9 : Kept pq v9 := by
    unfold v9
    refine on_foldl ?_ (fun t19 _ h20 => ?_)
    · exact hv6
    · exact refTake_kept h20
  clear_value v9
  exact ⟨hv9.1, hv9.2.1, hv9.2.2⟩

theorem execCommandFetch_kept {pq : List Instr} {queue : Nat} {s : State} (h_s : Kept pq s) : (OnNext (Kept pq)) (execCommandFetch queue s) := by
  unfold execCommandFetch
  extract_lets v2 v3 v4
  clear_value v2
  have hv3 : Kept pq v3 := by
    unfold v3
    split
    · rename_i w6 w7 w8
      exact lostMet_kept h_s
    · rename_i w11 w12
      exact h_s
  clear_value v3
  have hv4 : Kept pq v4 := by
    unfold v4
    exact queueMod_kept (ringReserve_kept hv3)
  clear_value v4
  refine on_next ?_
  refine on_ite ?_ ?_
  · exact h_s
  · split
    rename_i w21 w22 w23 w24
    exact sweep_kept (enterCmd_kept hv4)

theorem settle_kept {pq : List Instr} {c : Cmd} {r : Done × State} (h_r : (OnSnd (Kept pq)) r) : Kept pq (settle c r) := by
  unfold settle
  split
  · rename_i w2 w3 w4 w5 w6 w7
    exact finish_kept (on_snd h_r)
  · rename_i w11 w12 w13
    exact sweep_kept (setStep_kept (on_snd h_r))

theorem startCmd_kept {pq : List Instr} {op : Nat} {sel : Packet → Bool} {h : Cmd → State → Done × State} {id : Nat} {s : State} (h_h : ∀ y0 y1, Kept pq y1 → (OnSnd (Kept pq)) (h y0 y1)) (h_s : Kept pq s) : Kept pq (startCmd op sel h id s) := by
  unfold startCmd
  split
  · rename_i w2 w3
    exact h_s
  · rename_i w5 w6 w7
    refine on_ite ?_ ?_
    · exact h_s
    · split
      · rename_i w11 w12 w13
        exact finish_kept h_s
      · rename_i w16 w17
        exact settle_kept (h_h _ _ h_s)

theorem startOp_kept {pq : List Instr} {op : Nat} {h : Cmd → State → Done × State} {id : Nat} {s : State} (h_h : ∀ y0 y1, Kept pq y1 → (OnSnd (Kept pq)) (h y0 y1)) (h_s : Kept pq s) : Kept pq (startOp op h id s) := by
  unfold startOp
  refine startCmd_kept ?_ ?_
  · intro a2 a3 a4
    exact h_h _ _ a4
  · exact h_s

theorem onRunning_kept {pq : List Instr} {f : Cmd → State → State} {id : Nat} {s : State} (h_f : ∀ y0 y1, Kept pq y1 → Kept pq (f y0 y1)) (h_s : Kept pq s) : Kept pq (onRunning f id s) := by
  unfold onRunning
  split
  · rename_i w2 w3 w4
    exact h_f _ _ h_s
  · rename_i w7 w8
    exact h_s

theorem dataFailed_kept {pq : List Instr} {c : Cmd} {s : State} (h_s : Kept pq s) : Kept pq (dataFailed c s) := by
  unfold dataFailed
  split
  · rename_i w2 w3 w4
    exact h_s
  · rename_i w6 w7 w8 w9
    refine on_ite ?_ ?_
    · exact h_s
    · exact vaFailed_kept h_s

end Sys2Proof.Machine
end

