-- ==== Sys2Proof/Laws/KeptGrisetObj.lean ====
section
/-! SUPPORT. Laws/KeptGrisetObj.lean: what Machine/GrisetObj.lean keeps (Laws/Kept.lean says what that is). -/
namespace Sys2Proof.Machine

theorem doorbellDrop_kept {pq : List Instr} {fn : Nat} {s : State} (h_s : Kept pq s) : Kept pq (doorbellDrop fn s) := by
  unfold doorbellDrop
  exact logRefused_kept (fbump_kept h_s)

theorem doorbellQueue_kept {pq : List Instr} {fn : Nat} {q : Nat} {v : Nat} {s : State} (h_s : Kept pq s) : Kept pq (doorbellQueue fn q v s) := by
  unfold doorbellQueue
  extract_lets v2 v3
  clear_value v2
  have hv3 : Kept pq v3 := by
    unfold v3
    exact queueMod_kept h_s
  clear_value v3
  refine on_ite ?_ ?_
  · exact doorbellDrop_kept h_s
  · refine on_ite ?_ ?_
    · refine on_ite ?_ ?_
      · exact doorbellDrop_kept h_s
      · refine on_ite ?_ ?_
        · exact ⟨hv3.1, hv3.2.1, hv3.2.2⟩
        · exact hv3
    · refine on_ite ?_ ?_
      · exact doorbellDrop_kept h_s
      · exact queueMod_kept h_s

theorem execDoorbell_kept {pq : List Instr} {port : Nat} {fn : Nat} {off : Nat} {size : Nat} {ide : Bool} {v : Word} {s : State} (h_s : Kept pq s) : (OnNext (Kept pq)) (execDoorbell port fn off size ide v s) := by
  unfold execDoorbell
  refine on_next ?_
  refine on_ite ?_ ?_
  · exact h_s
  · refine on_ite ?_ ?_
    · exact logRefused_kept h_s
    · refine on_ite ?_ ?_
      · exact fbump_kept h_s
      · refine on_ite ?_ ?_
        · exact doorbellDrop_kept h_s
        · split
          · rename_i w14 w15
            exact doorbellDrop_kept h_s
          · rename_i w18 w19 w20
            extract_lets v22 v23 v24
            have hv22 : Kept pq v22 := by
              unfold v22
              exact lostMet_kept h_s
            clear_value v22 v23 v24
            refine on_ite ?_ ?_
            · exact doorbellDrop_kept hv22
            · exact doorbellQueue_kept hv22

theorem adminWrite_kept {pq : List Instr} {q : Nat} {v : Word} {s : State} (h_s : Kept pq s) : Kept pq (adminWrite q v s) := by
  unfold adminWrite
  extract_lets v2 v3 v4 v5 v6 v7 v8
  clear_value v2 v3
  have hv4 : Kept pq v4 := by
    unfold v4
    exact fset_kept h_s
  clear_value v4 v5
  have hv6 : Kept pq v6 := by
    unfold v6
    refine on_foldl ?_ (fun t12 _ h13 => ?_)
    · exact rset_kept h_s
    · exact fset_kept h13
  clear_value v6
  have hv7 : Kept pq v7 := by
    unfold v7
    exact fset_kept hv6
  clear_value v7
  have hv8 : Kept pq v8 := by
    unfold v8
    refine on_ite ?_ ?_
    · exact fset_kept hv7
    · exact hv7
  clear_value v8
  refine on_ite ?_ ?_
  · refine on_ite ?_ ?_
    · exact h_s
    · exact ⟨hv4.1, hv4.2.1, hv4.2.2⟩
  · refine on_ite ?_ ?_
    · exact queueSet_kept hv8
    · exact hv6

theorem execObjAdminEnable_kept {pq : List Instr} {queue : Nat} {v : Word} {s : State} (h_s : Kept pq s) : (OnNext (Kept pq)) (execObjAdminEnable queue v s) := by
  unfold execObjAdminEnable
  refine on_next ?_
  refine on_ite ?_ ?_
  · exact adminWrite_kept h_s
  · exact h_s

theorem doCtxCreate_kept {pq : List Instr} {c : Cmd} {s : State} (h_s : Kept pq s) : (OnSnd (Kept pq)) (doCtxCreate c s) := by
  unfold doCtxCreate
  extract_lets v2 v3 v4 v5 v6
  clear_value v2 v3 v4 v5 v6
  refine on_ite ?_ ?_
  · exact on_mk h_s
  · refine on_ite ?_ ?_
    · exact on_mk h_s
    · refine on_ite ?_ ?_
      · exact on_mk h_s
      · exact on_mk (ctxSet_kept h_s)

theorem execCtxCreate_kept {pq : List Instr} {cmd : Nat} {s : State} (h_s : Kept pq s) : (OnNext (Kept pq)) (execCtxCreate cmd s) := by
  unfold execCtxCreate
  refine on_next ?_
  refine startOp_kept ?_ ?_
  · intro a3 a4 a5
    exact doCtxCreate_kept a5
  · exact h_s

theorem teardownStart_kept {pq : List Instr} {x : Nat} {silent : Bool} {s : State} (h_s : Kept pq s) : Kept pq (teardownStart x silent s) := by
  unfold teardownStart
  extract_lets v2 v3
  have hv2 : Kept pq v2 := by
    unfold v2
    exact ctxMod_kept h_s
  clear_value v2 v3
  refine on_foldl ?_ (fun t7 _ h8 => ?_)
  · exact hv2
  · exact completeRaw_kept h8

theorem doCtxDestroy_kept {pq : List Instr} {c : Cmd} {s : State} (h_s : Kept pq s) : (OnSnd (Kept pq)) (doCtxDestroy c s) := by
  unfold doCtxDestroy
  extract_lets v2 v3
  clear_value v2 v3
  refine on_ite ?_ ?_
  · exact on_mk h_s
  · refine on_ite ?_ ?_
    · exact on_mk h_s
    · refine on_ite ?_ ?_
      · exact on_mk h_s
      · exact on_mk (teardownStart_kept h_s)

theorem execCtxDestroy_kept {pq : List Instr} {cmd : Nat} {s : State} (h_s : Kept pq s) : (OnNext (Kept pq)) (execCtxDestroy cmd s) := by
  unfold execCtxDestroy
  refine on_next ?_
  refine startOp_kept ?_ ?_
  · intro a3 a4 a5
    exact doCtxDestroy_kept a5
  · exact h_s

theorem abortLeft_kept {pq : List Instr} {x : Nat} {s : State} (h_s : Kept pq s) : Kept pq (abortLeft x s) := by
  unfold abortLeft
  refine on_foldl ?_ (fun t2 _ h3 => ?_)
  · exact h_s
  · exact completeRaw_kept h3

theorem dropObjects_kept {pq : List Instr} {x : Nat} {s : State} (h_s : Kept pq s) : Kept pq (dropObjects x s) := by
  unfold dropObjects
  extract_lets v2
  clear_value v2
  refine on_foldl ?_ (fun t4 _ h5 => ?_)
  · exact h_s
  · split
    · rename_i w8 w9 w10
      refine on_ite ?_ ?_
      · exact objPut_kept h5
      · exact h5
    · rename_i w15 w16
      exact h5

theorem teardownEnd_kept {pq : List Instr} {x : Nat} {s : State} (h_s : Kept pq s) : Kept pq (teardownEnd x s) := by
  unfold teardownEnd
  extract_lets v2 v3 v4 v5 v6 v7 v8 v9 v10
  clear_value v2
  have hv3 : Kept pq v3 := by
    unfold v3
    refine on_foldl ?_ (fun t12 _ h13 => ?_)
    · exact h_s
    · split
      · rename_i w16 w17 w18
        exact fenceWrite_kept ⟨h13.1, h13.2.1, h13.2.2⟩
      · rename_i w21 w22
        exact h13
  clear_value v3
  have hv4 : Kept pq v4 := by
    unfold v4
    exact sweep_kept hv3
  clear_value v4
  have hv5 : Kept pq v5 := by
    unfold v5
    refine on_foldl ?_ (fun t27 _ h28 => ?_)
    · exact hv4
    · split
      · rename_i w31 w32 w33
        exact refDrop_kept ⟨h28.1, h28.2.1, h28.2.2⟩
      · rename_i w36 w37
        exact h28
  clear_value v5
  have hv6 : Kept pq v6 := by
    unfold v6
    exact abortLeft_kept (unpinPages_kept (markTiles_kept hv5))
  clear_value v6
  have hv7 : Kept pq v7 := by
    unfold v7
    refine on_foldl ?_ (fun t44 _ h45 => ?_)
    · exact hv6
    · exact queueFree_kept h45
  clear_value v7
  have hv8 : Kept pq v8 := by
    unfold v8
    exact dropObjects_kept hv7
  clear_value v8 v9
  have hv10 : Kept pq v10 := by
    unfold v10
    exact ctxSet_kept hv8
  clear_value v10
  split
  · rename_i w54 w55 w56
    exact finish_kept hv10
  · rename_i w59 w60
    exact sweep_kept hv10

theorem execCtxTeardownEnd_kept {pq : List Instr} {ctx : Nat} {s : State} (h_s : Kept pq s) : (OnNext (Kept pq)) (execCtxTeardownEnd ctx s) := by
  unfold execCtxTeardownEnd
  refine on_next ?_
  refine on_ite ?_ ?_
  · exact teardownEnd_kept h_s
  · exact h_s

theorem doCtxQuery_kept {pq : List Instr} {c : Cmd} {s : State} (h_s : Kept pq s) : (OnSnd (Kept pq)) (doCtxQuery c s) := by
  unfold doCtxQuery
  extract_lets v2 v3 v4
  clear_value v2 v3 v4
  refine on_ite ?_ ?_
  · exact on_mk h_s
  · exact on_mk h_s

theorem execCtxQuery_kept {pq : List Instr} {cmd : Nat} {s : State} (h_s : Kept pq s) : (OnNext (Kept pq)) (execCtxQuery cmd s) := by
  unfold execCtxQuery
  refine on_next ?_
  refine startOp_kept ?_ ?_
  · intro a3 a4 a5
    exact doCtxQuery_kept a5
  · exact h_s

theorem doQueueCreate_kept {pq : List Instr} {c : Cmd} {s : State} (h_s : Kept pq s) : (OnSnd (Kept pq)) (doQueueCreate c s) := by
  unfold doQueueCreate
  extract_lets v2 v3 v4 v5 v6 v7 v8 v9 v10 v11 v12
  clear_value v2 v3 v4 v5 v6 v7 v8 v9 v10 v11 v12
  refine on_ite ?_ ?_
  · exact on_mk h_s
  · refine on_ite ?_ ?_
    · exact on_mk h_s
    · refine on_ite ?_ ?_
      · exact on_mk h_s
      · refine on_ite ?_ ?_
        · exact on_mk h_s
        · refine on_ite ?_ ?_
          · exact on_mk h_s
          · refine on_ite ?_ ?_
            · exact on_mk h_s
            · split
              · rename_i w32 w33 w34
                exact on_mk h_s
              · rename_i w37 w38
                split
                · rename_i w40 w41 w42 w43
                  exact on_mk h_s
                · rename_i w46 w47 w48 w49 w50
                  exact on_mk h_s
                · rename_i w53 w54 w55 w56 w57 w58 w59 w60
                  refine on_ite ?_ ?_
                  · exact on_mk h_s
                  · split
                    · rename_i w65 w66
                      exact on_mk h_s
                    · rename_i w69 w70 w71
                      extract_lets v73
                      clear_value v73
                      refine on_ite ?_ ?_
                      · exact on_mk h_s
                      · refine on_ite ?_ ?_
                        · exact on_mk h_s
                        · exact on_mk (refTake_kept (queueSet_kept h_s))

theorem execQueueCreate_kept {pq : List Instr} {cmd : Nat} {s : State} (h_s : Kept pq s) : (OnNext (Kept pq)) (execQueueCreate cmd s) := by
  unfold execQueueCreate
  refine on_next ?_
  refine startOp_kept ?_ ?_
  · intro a3 a4 a5
    exact doQueueCreate_kept a5
  · exact h_s

theorem doQueueDestroy_kept {pq : List Instr} {c : Cmd} {s : State} (h_s : Kept pq s) : (OnSnd (Kept pq)) (doQueueDestroy c s) := by
  unfold doQueueDestroy
  extract_lets v2 v3
  clear_value v2 v3
  refine on_ite ?_ ?_
  · exact on_mk h_s
  · refine on_ite ?_ ?_
    · exact on_mk h_s
    · refine on_ite ?_ ?_
      · exact on_mk h_s
      · refine on_ite ?_ ?_
        · exact on_mk h_s
        · exact on_mk (queueMod_kept h_s)

theorem execQueueDestroy_kept {pq : List Instr} {cmd : Nat} {s : State} (h_s : Kept pq s) : (OnNext (Kept pq)) (execQueueDestroy cmd s) := by
  unfold execQueueDestroy
  refine on_next ?_
  refine startOp_kept ?_ ?_
  · intro a3 a4 a5
    exact doQueueDestroy_kept a5
  · exact h_s

theorem doQueueQuery_kept {pq : List Instr} {c : Cmd} {s : State} (h_s : Kept pq s) : (OnSnd (Kept pq)) (doQueueQuery c s) := by
  unfold doQueueQuery
  extract_lets v2 v3
  clear_value v2 v3
  refine on_ite ?_ ?_
  · exact on_mk h_s
  · refine on_ite ?_ ?_
    · exact on_mk h_s
    · exact on_mk h_s

theorem execQueueQuery_kept {pq : List Instr} {cmd : Nat} {s : State} (h_s : Kept pq s) : (OnNext (Kept pq)) (execQueueQuery cmd s) := by
  unfold execQueueQuery
  refine on_next ?_
  refine startOp_kept ?_ ?_
  · intro a3 a4 a5
    exact doQueueQuery_kept a5
  · exact h_s

theorem doObjTable_kept {pq : List Instr} {c : Cmd} {s : State} (h_s : Kept pq s) : (OnSnd (Kept pq)) (doObjTable c s) := by
  unfold doObjTable
  extract_lets v2 v3 v4 v5
  clear_value v2 v3 v4
  have hv5 : Kept pq v5 := by
    unfold v5
    exact zeroRange_kept h_s
  clear_value v5
  refine on_ite ?_ ?_
  · exact on_mk h_s
  · refine on_ite ?_ ?_
    · exact on_mk h_s
    · refine on_ite ?_ ?_
      · exact on_mk h_s
      · exact on_mk (partMod_kept hv5)

theorem execObjTable_kept {pq : List Instr} {cmd : Nat} {s : State} (h_s : Kept pq s) : (OnNext (Kept pq)) (execObjTable cmd s) := by
  unfold execObjTable
  refine on_next ?_
  refine startOp_kept ?_ ?_
  · intro a3 a4 a5
    exact doObjTable_kept a5
  · exact h_s

theorem doObjCreate_kept {pq : List Instr} {c : Cmd} {s : State} (h_s : Kept pq s) : (OnSnd (Kept pq)) (doObjCreate c s) := by
  unfold doObjCreate
  extract_lets v2 v3 v4 v5 v6
  clear_value v2 v3 v4 v5 v6
  refine on_ite ?_ ?_
  · exact on_mk h_s
  · refine on_ite ?_ ?_
    · exact on_mk h_s
    · refine on_ite ?_ ?_
      · exact on_mk h_s
      · refine on_ite ?_ ?_
        · exact on_mk h_s
        · split
          · rename_i w20 w21 w22
            exact on_mk h_s
          · rename_i w25 w26
            split
            · rename_i w28 w29 w30
              refine on_ite ?_ ?_
              · exact on_mk h_s
              · exact on_mk (objPut_kept h_s)
            · rename_i w37 w38
              exact on_mk h_s

theorem execObjCreate_kept {pq : List Instr} {cmd : Nat} {s : State} (h_s : Kept pq s) : (OnNext (Kept pq)) (execObjCreate cmd s) := by
  unfold execObjCreate
  refine on_next ?_
  refine startOp_kept ?_ ?_
  · intro a3 a4 a5
    exact doObjCreate_kept a5
  · exact h_s

theorem doObjRelease_kept {pq : List Instr} {c : Cmd} {s : State} (h_s : Kept pq s) : (OnSnd (Kept pq)) (doObjRelease c s) := by
  unfold doObjRelease
  extract_lets v2 v3
  clear_value v2 v3
  split
  · rename_i w5 w6 w7
    exact on_mk h_s
  · rename_i w10 w11
    split
    · rename_i w13 w14
      exact on_mk h_s
    · rename_i w17 w18 w19
      refine on_ite ?_ ?_
      · exact on_mk h_s
      · refine on_ite ?_ ?_
        · exact on_mk h_s
        · exact on_mk h_s

theorem execObjRelease_kept {pq : List Instr} {cmd : Nat} {s : State} (h_s : Kept pq s) : (OnNext (Kept pq)) (execObjRelease cmd s) := by
  unfold execObjRelease
  refine on_next ?_
  refine startOp_kept ?_ ?_
  · intro a3 a4 a5
    exact doObjRelease_kept a5
  · exact h_s

theorem doObjQuery_kept {pq : List Instr} {c : Cmd} {s : State} (h_s : Kept pq s) : (OnSnd (Kept pq)) (doObjQuery c s) := by
  unfold doObjQuery
  extract_lets v2 v3
  clear_value v2 v3
  split
  · rename_i w5 w6 w7
    exact on_mk h_s
  · rename_i w10 w11
    split
    · rename_i w13 w14
      exact on_mk h_s
    · rename_i w17 w18 w19
      refine on_ite ?_ ?_
      · exact on_mk h_s
      · exact on_mk h_s

theorem execObjQuery_kept {pq : List Instr} {cmd : Nat} {s : State} (h_s : Kept pq s) : (OnNext (Kept pq)) (execObjQuery cmd s) := by
  unfold execObjQuery
  refine on_next ?_
  refine startOp_kept ?_ ?_
  · intro a3 a4 a5
    exact doObjQuery_kept a5
  · exact h_s

theorem doFenceCreate_kept {pq : List Instr} {c : Cmd} {s : State} (h_s : Kept pq s) : (OnSnd (Kept pq)) (doFenceCreate c s) := by
  unfold doFenceCreate
  extract_lets v2
  clear_value v2
  split
  · rename_i w4 w5 w6
    exact on_mk h_s
  · rename_i w9 w10 w11 w12
    refine on_ite ?_ ?_
    · exact on_mk h_s
    · split
      · rename_i w17 w18 w19
        exact on_mk h_s
      · rename_i w22 w23 w24
        refine on_ite ?_ ?_
        · exact on_mk h_s
        · refine on_ite ?_ ?_
          · exact on_mk h_s
          · split
            · rename_i w32 w33
              exact on_mk h_s
            · rename_i w36 w37 w38
              extract_lets v40
              clear_value v40
              exact on_mk (refTake_kept (fenceWrite_kept ⟨h_s.1, h_s.2.1, h_s.2.2⟩))

theorem execFenceCreate_kept {pq : List Instr} {cmd : Nat} {s : State} (h_s : Kept pq s) : (OnNext (Kept pq)) (execFenceCreate cmd s) := by
  unfold execFenceCreate
  refine on_next ?_
  refine startOp_kept ?_ ?_
  · intro a3 a4 a5
    exact doFenceCreate_kept a5
  · exact h_s

theorem doFenceDestroy_kept {pq : List Instr} {c : Cmd} {s : State} (h_s : Kept pq s) : (OnSnd (Kept pq)) (doFenceDestroy c s) := by
  unfold doFenceDestroy
  split
  · rename_i w2 w3 w4
    exact on_mk h_s
  · rename_i w7 w8 w9 w10
    refine on_ite ?_ ?_
    · exact on_mk h_s
    · exact on_mk (refDrop_kept ⟨h_s.1, h_s.2.1, h_s.2.2⟩)

theorem execFenceDestroy_kept {pq : List Instr} {cmd : Nat} {s : State} (h_s : Kept pq s) : (OnNext (Kept pq)) (execFenceDestroy cmd s) := by
  unfold execFenceDestroy
  refine on_next ?_
  refine startOp_kept ?_ ?_
  · intro a3 a4 a5
    exact doFenceDestroy_kept a5
  · exact h_s

theorem doFenceQuery_kept {pq : List Instr} {c : Cmd} {s : State} (h_s : Kept pq s) : (OnSnd (Kept pq)) (doFenceQuery c s) := by
  unfold doFenceQuery
  split
  · rename_i w2 w3 w4
    exact on_mk h_s
  · rename_i w7 w8 w9 w10
    exact on_mk h_s

theorem execFenceQuery_kept {pq : List Instr} {cmd : Nat} {s : State} (h_s : Kept pq s) : (OnNext (Kept pq)) (execFenceQuery cmd s) := by
  unfold execFenceQuery
  refine on_next ?_
  refine startOp_kept ?_ ?_
  · intro a3 a4 a5
    exact doFenceQuery_kept a5
  · exact h_s

theorem doFenceSignal_kept {pq : List Instr} {c : Cmd} {s : State} (h_s : Kept pq s) : (OnSnd (Kept pq)) (doFenceSignal c s) := by
  unfold doFenceSignal
  split
  · rename_i w2 w3
    exact on_mk h_s
  · rename_i w6 w7
    exact on_mk (fenceRaise_kept h_s)

theorem execFenceSignal_kept {pq : List Instr} {cmd : Nat} {s : State} (h_s : Kept pq s) : (OnNext (Kept pq)) (execFenceSignal cmd s) := by
  unfold execFenceSignal
  refine on_next ?_
  refine startOp_kept ?_ ?_
  · intro a3 a4 a5
    exact doFenceSignal_kept a5
  · exact h_s

theorem doFenceWait_kept {pq : List Instr} {c : Cmd} {s : State} (h_s : Kept pq s) : (OnSnd (Kept pq)) (doFenceWait c s) := by
  unfold doFenceWait
  split
  · rename_i w2 w3 w4
    exact on_mk h_s
  · rename_i w7 w8 w9 w10
    refine on_ite ?_ ?_
    · exact on_mk h_s
    · refine on_ite ?_ ?_
      · exact on_mk h_s
      · exact on_mk h_s

theorem execFenceWait_kept {pq : List Instr} {cmd : Nat} {s : State} (h_s : Kept pq s) : (OnNext (Kept pq)) (execFenceWait cmd s) := by
  unfold execFenceWait
  refine on_next ?_
  refine startOp_kept ?_ ?_
  · intro a3 a4 a5
    exact doFenceWait_kept a5
  · exact h_s

theorem execFenceWaitTimeout_kept {pq : List Instr} {cmd : Nat} {s : State} (h_s : Kept pq s) : (OnNext (Kept pq)) (execFenceWaitTimeout cmd s) := by
  unfold execFenceWaitTimeout
  refine on_next ?_
  refine onRunning_kept ?_ ?_
  · intro a3 a4 a5
    refine on_ite ?_ ?_
    · exact finish_kept a5
    · exact a5
  · exact h_s

theorem execIrqCoalesceTimer_kept {pq : List Instr} {queue : Option Nat} {s : State} (h_s : Kept pq s) : (OnNext (Kept pq)) (execIrqCoalesceTimer queue s) := by
  unfold execIrqCoalesceTimer
  refine on_next ?_
  split
  · rename_i w3 w4
    extract_lets v6 v7
    clear_value v6
    have hv7 : Kept pq v7 := by
      unfold v7
      exact queueMod_kept h_s
    clear_value v7
    refine on_ite ?_ ?_
    · exact h_s
    · refine on_ite ?_ ?_
      · exact ringIrq_kept hv7
      · exact hv7
  · rename_i w16
    extract_lets v18 v19
    clear_value v18
    have hv19 : Kept pq v19 := by
      unfold v19
      exact ⟨h_s.1, h_s.2.1, h_s.2.2⟩
    clear_value v19
    refine on_ite ?_ ?_
    · exact h_s
    · refine on_ite ?_ ?_
      · exact errIrq_kept hv19
      · exact hv19

end Sys2Proof.Machine
end

