-- ==== Sys2Proof/Laws/KeptGrisetMem.lean ====
section
/-! SUPPORT. Laws/KeptGrisetMem.lean: what Machine/GrisetMem.lean keeps (Laws/Kept.lean says what that is). -/
namespace Sys2Proof.Machine

theorem moverFault_kept {pq : List Instr} {c : Cmd} {x : Nat} {reason : Nat} {va : Nat} {write : Bool} {s : State} (h_s : Kept pq s) : (OnSnd (Kept pq)) (moverFault c x reason va write s) := by
  unfold moverFault
  extract_lets v2 v3
  clear_value v2 v3
  refine on_ite ?_ ?_
  · exact on_mk (faultOverflow_kept h_s)
  · exact on_mk (faultRecord_kept (tickFresh_kept h_s))

theorem moverTranslate_kept {pq : List Instr} {c : Cmd} {m : Move} {s : State} (h_s : Kept pq s) : (OnSnd (Kept pq)) (moverTranslate c m s) := by
  unfold moverTranslate
  split
  · rename_i w2 w3
    exact on_mk h_s
  · rename_i w6 w7 w8
    exact on_mk h_s
  · rename_i w11 w12 w13 w14
    exact moverFault_kept (vaFailed_kept h_s)
  · rename_i w18 w19 w20 w21 w22
    exact on_mk (emit_kept h_s)

theorem doMove_kept {pq : List Instr} {c : Cmd} {s : State} (h_s : Kept pq s) : (OnSnd (Kept pq)) (doMove c s) := by
  unfold doMove
  split
  · rename_i w2 w3 w4
    exact on_mk h_s
  · rename_i w7 w8 w9
    extract_lets v11
    have hv11 : (OnSnd (Kept pq)) v11 := by
      unfold v11
      exact moverTranslate_kept h_s
    clear_value v11
    exact on_mk (on_snd hv11)

theorem execMemCopy_kept {pq : List Instr} {cmd : Nat} {s : State} (h_s : Kept pq s) : (OnNext (Kept pq)) (execMemCopy cmd s) := by
  unfold execMemCopy
  refine on_next ?_
  refine startOp_kept ?_ ?_
  · intro a3 a4 a5
    exact doMove_kept a5
  · exact h_s

theorem execMemFill_kept {pq : List Instr} {cmd : Nat} {s : State} (h_s : Kept pq s) : (OnNext (Kept pq)) (execMemFill cmd s) := by
  unfold execMemFill
  refine on_next ?_
  refine startOp_kept ?_ ?_
  · intro a3 a4 a5
    exact doMove_kept a5
  · exact h_s

theorem moveLoop_kept {pq : List Instr} {c : Cmd} {m : Move} {x2 : Nat} {x3 : Nat} {x4 : List Byte} {x5 : State} (h_x5 : Kept pq x5) : (OnSnd (OnSnd (Kept pq))) (moveLoop c m x2 x3 x4 x5) := by
  induction x2 generalizing c m x3 x4 x5 h_x5 with
  | zero =>
    unfold moveLoop
    exact on_mk (on_mk h_x5)
  | succ m ih =>
    unfold moveLoop
    extract_lets v5 v6
    clear_value v5
    have hv6 : Kept pq v6 := by
      unfold v6
      split
      · rename_i w8 w9 w10 w11
        exact countVaReads_kept h_x5
      · rename_i w14 w15
        exact h_x5
    clear_value v6
    refine on_ite ?_ ?_
    · exact on_mk (on_mk h_x5)
    · split
      · rename_i w22 w23 w24
        exact on_mk (on_mk h_x5)
      · rename_i w28 w29 w30 w31
        extract_lets v33
        have hv33 : Kept pq v33 := by
          unfold v33
          split
          · rename_i w35 w36 w37 w38
            exact vaWrite_kept hv6
          · rename_i w41 w42
            exact hv6
        clear_value v33
        exact ih hv33

theorem pinInstall_kept {pq : List Instr} {c : Cmd} {x : Nat} {va : Nat} {n : Nat} {s : State} (h_s : Kept pq s) : Kept pq (pinInstall c x va n s) := by
  unfold pinInstall
  extract_lets v2 v3 v4
  clear_value v2 v3
  have hv4 : Kept pq v4 := by
    unfold v4
    exact ⟨h_s.1, h_s.2.1, h_s.2.2⟩
  clear_value v4
  refine on_ite ?_ ?_
  · exact finish_kept h_s
  · exact finish_kept (setAts_kept hv4)

theorem moverRetry_kept {pq : List Instr} {c : Cmd} {s : State} (h_s : Kept pq s) : Kept pq (moverRetry c s) := by
  unfold moverRetry
  split
  · rename_i w2 w3 w4
    exact finish_kept h_s
  · rename_i w7 w8 w9
    split
    rename_i w11 w12 w13 w14
    refine on_use (P := (OnSnd (Kept pq))) w14 ?_ (fun hw14 => ?_)
    · exact moverTranslate_kept h_s
    split
    · rename_i w18 w19 w20 w21 w22 w23 w24
      exact pinInstall_kept hw14
    · rename_i w27 w28 w29 w30 w31
      exact setStep_kept hw14

theorem execMoverComplete_kept {pq : List Instr} {cmd : Nat} {host : List Byte} {s : State} (h_s : Kept pq s) : (OnNext (Kept pq)) (execMoverComplete cmd host s) := by
  unfold execMoverComplete
  refine on_next ?_
  refine onRunning_kept ?_ ?_
  · intro a3 a4 a5
    refine on_ite ?_ ?_
    · exact a5
    · split
      · rename_i w9 w10 w11
        exact finish_kept a5
      · rename_i w14 w15 w16
        refine on_ite ?_ ?_
        · exact a5
        · split
          · rename_i w20 w21 w22 w23
            refine on_use (P := (OnSnd (OnSnd (Kept pq)))) w23 ?_ (fun hw23 => ?_)
            · exact moveLoop_kept a5
            exact finish_kept (perfCount_kept (tickFresh_kept hw23))
          · rename_i w30 w31 w32 w33 w34
            refine on_use (P := (OnSnd (OnSnd (Kept pq)))) w34 ?_ (fun hw34 => ?_)
            · exact moveLoop_kept a5
            exact finish_kept (memUncorrectable_kept hw34)
  · exact h_s

theorem unstall_kept {pq : List Instr} {x : Nat} {s : State} (h_s : Kept pq s) : Kept pq (unstall x s) := by
  unfold unstall
  refine on_foldl ?_ (fun t2 _ h3 => ?_)
  · exact h_s
  · split
    · rename_i w6 w7 w8 w9 w10 w11
      refine on_ite ?_ ?_
      · split
        rename_i w14 w15 w16 w17
        refine on_use (P := (OnSnd (Kept pq))) w17 ?_ (fun hw17 => ?_)
        · exact moverFault_kept h3
        exact setStep_kept hw17
      · exact h3
    · rename_i w23 w24
      exact h3

theorem popAnswered_kept {pq : List Instr} {x : Nat} {s : State} (h_s : Kept pq s) : Kept pq (popAnswered x s) := by
  unfold popAnswered
  exact ctxMod_kept h_s

theorem answer_kept {pq : List Instr} {x : Nat} {seq : Nat} {s : State} (h_s : Kept pq s) : Kept pq (answer x seq s) := by
  unfold answer
  exact unstall_kept (popAnswered_kept (ctxMod_kept h_s))

theorem doFaultReply_kept {pq : List Instr} {c : Cmd} {s : State} (h_s : Kept pq s) : (OnSnd (Kept pq)) (doFaultReply c s) := by
  unfold doFaultReply
  extract_lets v2 v3 v4 v5 v6
  clear_value v2 v3 v4
  have hv5 : Kept pq v5 := by
    unfold v5
    refine on_ite ?_ ?_
    · exact ctxMod_kept h_s
    · exact h_s
  clear_value v5
  have hv6 : Kept pq v6 := by
    unfold v6
    exact answer_kept hv5
  clear_value v6
  refine on_ite ?_ ?_
  · exact on_mk h_s
  · refine on_ite ?_ ?_
    · exact on_mk h_s
    · split
      · rename_i w20 w21
        exact on_mk hv5
      · rename_i w24 w25 w26
        refine on_ite ?_ ?_
        · exact on_mk hv5
        · split
          · rename_i w31 w32
            exact on_mk hv6
          · rename_i w35 w36 w37
            refine on_ite ?_ ?_
            · exact on_mk (moverRetry_kept hv6)
            · exact on_mk (finish_kept hv6)

theorem execFaultReply_kept {pq : List Instr} {cmd : Nat} {s : State} (h_s : Kept pq s) : (OnNext (Kept pq)) (execFaultReply cmd s) := by
  unfold execFaultReply
  refine on_next ?_
  refine startOp_kept ?_ ?_
  · intro a3 a4 a5
    exact doFaultReply_kept a5
  · exact h_s

theorem doPinHost_kept {pq : List Instr} {c : Cmd} {s : State} (h_s : Kept pq s) : (OnSnd (Kept pq)) (doPinHost c s) := by
  unfold doPinHost
  split
  · rename_i w2 w3 w4
    exact on_mk h_s
  · rename_i w7 w8 w9
    split
    rename_i w11 w12 w13 w14
    refine on_use (P := (OnSnd (Kept pq))) w14 ?_ (fun hw14 => ?_)
    · exact moverTranslate_kept h_s
    split
    · rename_i w18 w19 w20 w21 w22
      extract_lets v24 v25 v26
      clear_value v24 v25
      have hv26 : Kept pq v26 := by
        unfold v26
        exact ⟨hw14.1, hw14.2.1, hw14.2.2⟩
      clear_value v26
      refine on_ite ?_ ?_
      · exact on_mk hw14
      · exact on_mk (setAts_kept hv26)
    · rename_i w34 w35 w36 w37
      exact on_mk hw14

theorem execPinHost_kept {pq : List Instr} {cmd : Nat} {s : State} (h_s : Kept pq s) : (OnNext (Kept pq)) (execPinHost cmd s) := by
  unfold execPinHost
  refine on_next ?_
  refine startOp_kept ?_ ?_
  · intro a3 a4 a5
    exact doPinHost_kept a5
  · exact h_s

theorem doUnpinHost_kept {pq : List Instr} {c : Cmd} {s : State} (h_s : Kept pq s) : (OnSnd (Kept pq)) (doUnpinHost c s) := by
  unfold doUnpinHost
  split
  · rename_i w2 w3 w4
    exact on_mk h_s
  · rename_i w7 w8 w9 w10
    refine on_ite ?_ ?_
    · exact on_mk h_s
    · exact on_mk (unpinPages_kept h_s)

theorem execUnpinHost_kept {pq : List Instr} {cmd : Nat} {s : State} (h_s : Kept pq s) : (OnNext (Kept pq)) (execUnpinHost cmd s) := by
  unfold execUnpinHost
  refine on_next ?_
  refine startOp_kept ?_ ?_
  · intro a3 a4 a5
    exact doUnpinHost_kept a5
  · exact h_s

theorem atcRoom_kept {pq : List Instr} {port : Nat} {s : State} (h_s : Kept pq s) : Kept pq (atcRoom port s) := by
  unfold atcRoom
  refine on_ite ?_ ?_
  · exact h_s
  · split
    · rename_i w4 w5 w6
      exact ⟨h_s.1, h_s.2.1, h_s.2.2⟩
    · rename_i w8 w9
      exact h_s

theorem execAtsTranslationCompletion_kept {pq : List Instr} {part : Nat} {page : Nat} {log2 : Nat} {dest : Option Nat} {write : Bool} {s : State} (h_s : Kept pq s) : (OnNext (Kept pq)) (execAtsTranslationCompletion part page log2 dest write s) := by
  unfold execAtsTranslationCompletion
  extract_lets v2 v3 v4 v5
  clear_value v2 v3
  have hv4 : Kept pq v4 := by
    unfold v4
    exact atcRoom_kept ⟨h_s.1, h_s.2.1, h_s.2.2⟩
  clear_value v4
  have hv5 : Kept pq v5 := by
    unfold v5
    split
    · rename_i w9 w10
      exact setAts_kept ⟨hv4.1, hv4.2.1, hv4.2.2⟩
    · rename_i w13
      exact h_s
  clear_value v5
  refine on_next ?_
  refine on_ite ?_ ?_
  · exact h_s
  · refine on_foldl ?_ (fun t19 _ h20 => ?_)
    · exact hv5
    · split
      · rename_i w23 w24 w25
        exact finish_kept h20
      · rename_i w28 w29 w30
        split
        · rename_i w32 w33 w34 w35 w36
          refine on_ite ?_ ?_
          · split
            rename_i w39 w40 w41 w42
            refine on_use (P := (OnSnd (Kept pq))) w42 ?_ (fun hw42 => ?_)
            · exact moverFault_kept h20
            exact setStep_kept hw42
          · refine on_ite ?_ ?_
            · exact moverRetry_kept h20
            · exact h20
        · rename_i w51 w52
          exact moverRetry_kept h20

theorem markStaged_kept {pq : List Instr} {x : Nat} {first : Nat} {last : Nat} {s : State} (h_s : Kept pq s) : Kept pq (markStaged x first last s) := by
  unfold markStaged
  exact partMod_kept h_s

theorem doInvalidate_kept {pq : List Instr} {c : Cmd} {s : State} (h_s : Kept pq s) : (OnSnd (Kept pq)) (doInvalidate c s) := by
  unfold doInvalidate
  extract_lets v2 v3 v4 v5 v6 v7 v8 v9 v10
  clear_value v2 v3 v4 v5 v6 v7 v8
  have hv9 : Kept pq v9 := by
    unfold v9
    exact markStaged_kept (markTiles_kept h_s)
  clear_value v9
  have hv10 : Kept pq v10 := by
    unfold v10
    exact unpinPages_kept hv9
  clear_value v10
  refine on_ite ?_ ?_
  · exact on_mk h_s
  · refine on_ite ?_ ?_
    · exact on_mk h_s
    · refine on_ite ?_ ?_
      · exact on_mk h_s
      · refine on_ite ?_ ?_
        · exact on_mk h_s
        · exact on_mk hv10

theorem execInvalidate_kept {pq : List Instr} {cmd : Nat} {s : State} (h_s : Kept pq s) : (OnNext (Kept pq)) (execInvalidate cmd s) := by
  unfold execInvalidate
  refine on_next ?_
  refine startOp_kept ?_ ?_
  · intro a3 a4 a5
    exact doInvalidate_kept a5
  · exact h_s

theorem execInvalidateDrained_kept {pq : List Instr} {cmd : Nat} {s : State} (h_s : Kept pq s) : (OnNext (Kept pq)) (execInvalidateDrained cmd s) := by
  unfold execInvalidateDrained
  refine on_next ?_
  refine onRunning_kept ?_ ?_
  · intro a3 a4 a5
    split
    · rename_i w7 w8 w9 w10 w11 w12
      refine on_ite ?_ ?_
      · exact finish_kept a5
      · exact a5
    · rename_i w17 w18
      exact a5
  · exact h_s

end Sys2Proof.Machine
end

