-- ==== Sys2Proof/Laws/KeptIdoon.lean ====
section
/-! SUPPORT. Laws/KeptIdoon.lean: what Machine/Idoon.lean keeps (Laws/Kept.lean says what that is). -/
namespace Sys2Proof.Machine

theorem idnSet_kept {pq : List Instr} {k : Nat} {v : IdnPort} {s : State} (h_s : Kept pq s) : Kept pq (idnSet k v s) := by
  unfold idnSet
  exact ⟨h_s.1, h_s.2.1, h_s.2.2⟩

theorem idnMod_kept {pq : List Instr} {k : Nat} {f : IdnPort → IdnPort} {s : State} (h_s : Kept pq s) : Kept pq (idnMod k f s) := by
  unfold idnMod
  exact idnSet_kept h_s

theorem codewords_kept {pq : List Instr} {port : Nat} {ws : List Codeword} {s : State} (h_s : Kept pq s) : Kept pq (codewords port ws s) := by
  unfold codewords
  extract_lets v2
  have hv2 : Kept pq v2 := by
    unfold v2
    exact fwrap_kept h_s
  clear_value v2
  exact fbump_kept hv2

theorem wire_kept {pq : List Instr} {k : Nat} {seq : Nat} {p : IdnPkt} {s : State} (h_s : Kept pq s) : Kept pq (wire k seq p s) := by
  unfold wire
  exact emit_kept (slcServe_kept (fwrap_kept h_s))

theorem sendBlock_kept {pq : List Instr} {k : Nat} {ty : Nat} {args : List Nat} {s : State} (h_s : Kept pq s) : Kept pq (sendBlock k ty args s) := by
  unfold sendBlock
  exact emit_kept (fwrap_kept h_s)

theorem drainPort_kept {pq : List Instr} {k : Nat} {x1 : Nat} {x2 : State} (h_x2 : Kept pq x2) : Kept pq (drainPort k x1 x2) := by
  induction x1 generalizing k x2 h_x2 with
  | zero =>
    unfold drainPort
    exact h_x2
  | succ m ih =>
    unfold drainPort
    extract_lets v3
    clear_value v3
    split
    · rename_i w5 w6 w7 w8 w9
      extract_lets v11
      clear_value v11
      exact ih (wire_kept (idnSet_kept h_x2))
    · rename_i w16 w17 w18
      exact h_x2

theorem pump_kept {pq : List Instr} {k : Nat} {s : State} (h_s : Kept pq s) : Kept pq (pump k s) := by
  unfold pump
  exact drainPort_kept h_s

theorem onPort_kept {pq : List Instr} {k : Nat} {p : IdnPkt} {s : State} (h_s : Kept pq s) : Kept pq (onPort k p s) := by
  unfold onPort
  exact pump_kept (idnMod_kept h_s)

theorem lostPacket_kept {pq : List Instr} {k : Nat} {s : State} {p : IdnPkt} (h_s : Kept pq s) : Kept pq (lostPacket k s p) := by
  unfold lostPacket
  extract_lets v2
  clear_value v2
  refine on_ite ?_ ?_
  · exact h_s
  · refine on_ite ?_ ?_
    · exact spoil_kept h_s
    · exact ⟨h_s.1, h_s.2.1, h_s.2.2⟩

theorem linkLost_kept {pq : List Instr} {k : Nat} {s : State} (h_s : Kept pq s) : Kept pq (linkLost k s) := by
  unfold linkLost
  extract_lets v2 v3 v4
  clear_value v2
  have hv3 : Kept pq v3 := by
    unfold v3
    exact idnMod_kept h_s
  clear_value v3
  have hv4 : Kept pq v4 := by
    unfold v4
    refine on_foldl ?_ (fun t8 _ h9 => ?_)
    · exact hv3
    · exact lostPacket_kept h9
  clear_value v4
  exact logErr_kept hv4

theorem unroutable_kept {pq : List Instr} {p : IdnPkt} {s : State} (h_s : Kept pq s) : Kept pq (unroutable p s) := by
  unfold unroutable
  exact lostPacket_kept h_s

theorem sendPkt_kept {pq : List Instr} {p : IdnPkt} {s : State} (h_s : Kept pq s) : Kept pq (sendPkt p s) := by
  unfold sendPkt
  split
  · rename_i w2 w3
    exact unroutable_kept h_s
  · rename_i w6 w7 w8
    split
    · rename_i w10 w11
      exact unroutable_kept h_s
    · rename_i w14 w15 w16
      exact onPort_kept h_s

theorem flood_kept {pq : List Instr} {but : Option Nat} {p : IdnPkt} {s : State} (h_s : Kept pq s) : Kept pq (flood but p s) := by
  unfold flood
  refine on_foldl ?_ (fun t2 _ h3 => ?_)
  · exact h_s
  · refine on_ite ?_ ?_
    · exact h3
    · exact onPort_kept h3

theorem reroute_kept {pq : List Instr} {k : Nat} {s : State} (h_s : Kept pq s) : Kept pq (reroute k s) := by
  unfold reroute
  extract_lets v2
  clear_value v2
  refine on_foldl ?_ (fun t4 _ h5 => ?_)
  · exact idnMod_kept h_s
  · exact sendPkt_kept h5

theorem sendErr_kept {pq : List Instr} {p : IdnPkt} {status : Nat} {s : State} (h_s : Kept pq s) : Kept pq (sendErr p status s) := by
  unfold sendErr
  extract_lets v2
  clear_value v2
  exact sendPkt_kept h_s

theorem deliver_kept {pq : List Instr} {a : IdnArr} {f : IdnPkt → State → State} {s : State} (h_f : ∀ y0 y1, Kept pq y1 → Kept pq (f y0 y1)) (h_s : Kept pq s) : Kept pq (deliver a f s) := by
  unfold deliver
  extract_lets v2 v3
  clear_value v2
  have hv3 : Kept pq v3 := by
    unfold v3
    exact logErr_kept h_s
  clear_value v3
  refine on_ite ?_ ?_
  · exact logErr_kept (lostPacket_kept h_s)
  · refine on_ite ?_ ?_
    · refine on_ite ?_ ?_
      · exact sendErr_kept hv3
      · exact hv3
    · exact h_f _ _ h_s

theorem forward_kept {pq : List Instr} {a : IdnArr} {s : State} (h_s : Kept pq s) : Kept pq (forward a s) := by
  unfold forward
  extract_lets v2 v3
  clear_value v2 v3
  refine on_ite ?_ ?_
  · exact sendErr_kept h_s
  · refine on_ite ?_ ?_
    · refine on_ite ?_ ?_
      · exact lostPacket_kept h_s
      · exact h_s
    · refine on_ite ?_ ?_
      · exact sendPkt_kept h_s
      · exact sendPkt_kept (tickFresh_kept h_s)

theorem idnAccept_kept {pq : List Instr} {a : IdnArr} {f : IdnPkt → State → State} {s : State} (h_f : ∀ y0 y1, Kept pq y1 → Kept pq (f y0 y1)) (h_s : Kept pq s) : Kept pq (idnAccept a f s) := by
  unfold idnAccept
  extract_lets v2 v3 v4 v5 v6 v7 v8 v9
  clear_value v2 v3
  have hv4 : Kept pq v4 := by
    unfold v4
    exact fwrap_kept h_s
  clear_value v4
  have hv5 : Kept pq v5 := by
    unfold v5
    exact codewords_kept hv4
  clear_value v5 v6 v7
  have hv8 : Kept pq v8 := by
    unfold v8
    exact idnSet_kept hv5
  clear_value v8
  have hv9 : Kept pq v9 := by
    unfold v9
    exact sendBlock_kept hv8
  clear_value v9
  refine on_ite ?_ ?_
  · exact h_s
  · refine on_ite ?_ ?_
    · exact sendBlock_kept hv5
    · refine on_ite ?_ ?_
      · exact hv5
      · refine on_ite ?_ ?_
        · refine deliver_kept ?_ ?_
          · intro a27 a28 a29
            exact h_f _ _ a29
          · exact hv9
        · exact forward_kept hv9

end Sys2Proof.Machine
end

