-- ==== Sys2Proof/Laws/KeptTileOps.lean ====
section
/-! SUPPORT. Laws/KeptTileOps.lean: what Machine/TileOps.lean keeps (Laws/Kept.lean says what that is). -/
namespace Sys2Proof.Machine

theorem openLine_kept {pq : List Instr} {t : Nat} {s : State} {l : Nat} (h_s : Kept pq s) : Kept pq (openLine t s l) := by
  unfold openLine
  extract_lets v2 v3
  clear_value v2 v3
  refine on_ite ?_ ?_
  · exact tileSet_kept ⟨h_s.1, h_s.2.1, Mem.wf_clear _ _ (h_s.2.2)⟩
  · exact tileSet_kept h_s

theorem storeWrite_kept {pq : List Instr} {t : Nat} {a : Nat} {bs : List Byte} {s : State} (h_s : Kept pq s) : Kept pq (storeWrite t a bs s) := by
  unfold storeWrite
  extract_lets v2
  have hv2 : Kept pq v2 := by
    unfold v2
    refine on_foldl ?_ (fun t4 _ h5 => ?_)
    · exact h_s
    · exact openLine_kept h5
  clear_value v2
  exact ⟨hv2.1, hv2.2.1, Mem.wf_writeN _ _ (hv2.2.2)⟩

theorem payOwed_kept {pq : List Instr} {t : Nat} {ws : List Owed} {s : State} (h_s : Kept pq s) : Kept pq (payOwed t ws s) := by
  unfold payOwed
  refine on_foldl ?_ (fun t2 _ h3 => ?_)
  · exact h_s
  · exact storeWrite_kept h3

theorem xset_kept {pq : List Instr} {t : Nat} {r : Nat} {v : Word} {s : State} (h_s : Kept pq s) : Kept pq (xset t r v s) := by
  unfold xset
  exact tileMod_kept h_s

theorem doneBump_kept {pq : List Instr} {t : Nat} {k : Nat} {n : Nat} {s : State} (h_s : Kept pq s) : Kept pq (doneBump t k n s) := by
  unfold doneBump
  exact tileMod_kept h_s

theorem tileRest_kept {pq : List Instr} {t : Nat} {s : State} (h_s : Kept pq s) : Kept pq (tileRest t s) := by
  unfold tileRest
  refine on_ite ?_ ?_
  · exact fset_kept h_s
  · exact h_s

theorem syncSet_kept {pq : List Instr} {t : Nat} {k : Nat} {n : Nat} {s : State} (h_s : Kept pq s) : Kept pq (syncSet t k n s) := by
  unfold syncSet
  exact tileMod_kept h_s

theorem addResidues_kept {pq : List Instr} {t : Nat} {rs : List Nat} {s : State} (h_s : Kept pq s) : Kept pq (addResidues t rs s) := by
  unfold addResidues
  exact tileMod_kept h_s

theorem tileErr_kept {pq : List Instr} {t : Nat} {cause : Nat} {stage : Nat} {s : State} (h_s : Kept pq s) : Kept pq (tileErr t cause stage s) := by
  unfold tileErr
  exact firstErr_kept h_s

theorem stopTile_kept {pq : List Instr} {t : Nat} {s : State} (h_s : Kept pq s) : Kept pq (stopTile t s) := by
  unfold stopTile
  extract_lets v2
  have hv2 : Kept pq v2 := by
    unfold v2
    exact fset_kept (fset_kept (fset_kept h_s))
  clear_value v2
  exact tileMod_kept hv2

theorem tileRecord_kept {pq : List Instr} {t : Nat} {cause : Nat} {cls : Nat} {ctx : Option Nat} {injected : Bool} {detail : Nat} {s : State} (h_s : Kept pq s) : Kept pq (tileRecord t cause cls ctx injected detail s) := by
  unfold tileRecord
  exact logErr_kept h_s

theorem checkedStop_kept {pq : List Instr} {t : Nat} {cause : Nat} {stage : Nat} {injected : Bool} {s : State} (h_s : Kept pq s) : Kept pq (checkedStop t cause stage injected s) := by
  unfold checkedStop
  extract_lets v2 v3 v4 v5
  have hv2 : Kept pq v2 := by
    unfold v2
    exact stopTile_kept (tileErr_kept h_s)
  clear_value v2 v3
  have hv4 : Kept pq v4 := by
    unfold v4
    refine on_ite ?_ ?_
    · exact hv2
    · exact tileSet_kept (fbump_kept hv2)
  clear_value v4
  have hv5 : Kept pq v5 := by
    unfold v5
    exact spoil_kept hv4
  clear_value v5
  exact tileRecord_kept hv5

theorem contextStop_kept {pq : List Instr} {t : Nat} {e : TErr} {detail : Nat} {s : State} (h_s : Kept pq s) : Kept pq (contextStop t e detail s) := by
  unfold contextStop
  extract_lets v2 v3 v4
  clear_value v2
  have hv3 : Kept pq v3 := by
    unfold v3
    exact stopTile_kept (tileErr_kept h_s)
  clear_value v3
  have hv4 : Kept pq v4 := by
    unfold v4
    split
    · rename_i w9 w10
      exact logErr_kept hv3
    · rename_i w13 w14
      exact tileRecord_kept hv3
  clear_value v4
  exact ctxFault_kept hv4

theorem tileStop_kept {pq : List Instr} {t : Nat} {e : TErr} {s : State} (h_s : Kept pq s) : Kept pq (tileStop t e s) := by
  unfold tileStop
  split
  · rename_i w2 w3 w4 w5
    exact checkedStop_kept h_s
  · rename_i w8 w9
    exact contextStop_kept h_s
  · rename_i w12 w13
    exact stopTile_kept (memUncorrectable_kept h_s)
  · rename_i w17 w18 w19 w20
    exact contextStop_kept h_s

theorem injectUse_kept {pq : List Instr} {tick : Nat} {s : State} (h_s : Kept pq s) : Kept pq (injectUse tick s) := by
  unfold injectUse
  extract_lets v2 v3 v4
  clear_value v2
  have hv3 : Kept pq v3 := by
    unfold v3
    exact fset_kept (fset_kept h_s)
  clear_value v3
  have hv4 : Kept pq v4 := by
    unfold v4
    refine on_ite ?_ ?_
    · exact fset_kept hv3
    · exact hv3
  clear_value v4
  exact ⟨hv4.1, hv4.2.1, hv4.2.2⟩

theorem correctedCount_kept {pq : List Instr} {t : Nat} {u : Option Upset} {s : State} (h_s : Kept pq s) : Kept pq (correctedCount t u s) := by
  unfold correctedCount
  refine on_ite ?_ ?_
  · exact fbump_kept h_s
  · exact h_s

theorem pcNext_kept {pq : List Instr} {t : Nat} {s : State} (h_s : Kept pq s) : Kept pq (pcNext t s) := by
  unfold pcNext
  exact fset_kept h_s

theorem issue_kept {pq : List Instr} {o : TileOp} {u : TUnit} {body : State → Except TErr State} {s : State} (h_body : ∀ y0, Kept pq y0 → (OnOk (Kept pq)) (body y0)) (h_s : Kept pq s) : Kept pq (issue o u body s) := by
  unfold issue
  extract_lets v2 v3 v4 v5
  clear_value v2
  have hv3 : Kept pq v3 := by
    unfold v3
    refine on_ite ?_ ?_
    · exact injectUse_kept h_s
    · exact h_s
  clear_value v3 v4
  have hv5 : Kept pq v5 := by
    unfold v5
    exact correctedCount_kept hv3
  clear_value v5
  refine on_ite ?_ ?_
  · exact h_s
  · split
    · rename_i w15 w16 w17
      exact tileStop_kept hv5
    · rename_i w20 w21
      split
      · rename_i w23 w24 w25
        exact tileStop_kept hv5
      · rename_i w28 w29 w30
        refine on_use (P := (OnOk (Kept pq))) w30 ?_ (fun hw30 => ?_)
        · exact h_body _ hv5
        refine on_ite ?_ ?_
        · exact (hw30 _ rfl)
        · exact pcNext_kept ((hw30 _ rfl))

theorem issued_kept {pq : List Instr} {o : TileOp} {u : TUnit} {body : State → Except TErr State} {s : State} (h_body : ∀ y0, Kept pq y0 → (OnOk (Kept pq)) (body y0)) (h_s : Kept pq s) : (OnNext (Kept pq)) (issued o u body s) := by
  unfold issued
  refine on_next ?_
  refine issue_kept ?_ ?_
  · intro a3 a4
    exact h_body _ a4
  · exact h_s

theorem storeMeets_kept {pq : List Instr} {t : Nat} {a : Nat} {n : Nat} {u : Option Upset} {s : State} (h_s : Kept pq s) : (OnSnd (Kept pq)) (storeMeets t a n u s) := by
  unfold storeMeets
  extract_lets v2 v3 v4 v5
  clear_value v2 v3 v4
  have hv5 : Kept pq v5 := by
    unfold v5
    refine correctedCount_kept ?_
    refine on_ite ?_ ?_
    · exact injectUse_kept h_s
    · exact h_s
  clear_value v5
  refine on_ite ?_ ?_
  · exact on_mk hv5
  · exact on_mk hv5

end Sys2Proof.Machine
end

