-- ==== Sys2Proof/Laws/KeptTileSeq.lean ====
section
/-! SUPPORT. Laws/KeptTileSeq.lean: what Machine/TileSeq.lean keeps (Laws/Kept.lean says what that is). -/
namespace Sys2Proof.Machine

theorem branchBy_kept {pq : List Instr} {t : Nat} {d : Int} {s : State} (h_s : Kept pq s) : Kept pq (branchBy t d s) := by
  unfold branchBy
  exact fset_kept h_s

theorem waitFor_kept {pq : List Instr} {t : Nat} {w : WaitCond} {s : State} (h_s : Kept pq s) : Kept pq (waitFor t w s) := by
  unfold waitFor
  refine on_ite ?_ ?_
  · exact h_s
  · exact fset_kept (tileMod_kept h_s)

theorem execNop_kept {pq : List Instr} {o : TileOp} {s : State} (h_s : Kept pq s) : (OnNext (Kept pq)) (execNop o s) := by
  unfold execNop
  refine issued_kept ?_ ?_
  · intro a2 a3
    exact on_ok a3
  · exact h_s

theorem execEndTick_kept {pq : List Instr} {o : TileOp} {s : State} (h_s : Kept pq s) : (OnNext (Kept pq)) (execEndTick o s) := by
  unfold execEndTick
  refine issued_kept ?_ ?_
  · intro a2 a3
    exact on_ok (tileRest_kept (fset_kept a3))
  · exact h_s

theorem execBr_kept {pq : List Instr} {o : TileOp} {s : State} (h_s : Kept pq s) : (OnNext (Kept pq)) (execBr o s) := by
  unfold execBr
  refine issued_kept ?_ ?_
  · intro a2 a3
    exact on_ok (branchBy_kept a3)
  · exact h_s

theorem execBrz_kept {pq : List Instr} {o : TileOp} {s : State} (h_s : Kept pq s) : (OnNext (Kept pq)) (execBrz o s) := by
  unfold execBrz
  refine issued_kept ?_ ?_
  · intro a2 a3
    refine on_ok ?_
    refine on_ite ?_ ?_
    · exact branchBy_kept a3
    · exact a3
  · exact h_s

theorem execBrnz_kept {pq : List Instr} {o : TileOp} {s : State} (h_s : Kept pq s) : (OnNext (Kept pq)) (execBrnz o s) := by
  unfold execBrnz
  refine issued_kept ?_ ?_
  · intro a2 a3
    refine on_ok ?_
    refine on_ite ?_ ?_
    · exact a3
    · exact branchBy_kept a3
  · exact h_s

theorem execLoopTo_kept {pq : List Instr} {o : TileOp} {s : State} (h_s : Kept pq s) : (OnNext (Kept pq)) (execLoopTo o s) := by
  unfold execLoopTo
  refine issued_kept ?_ ?_
  · intro a2 a3
    extract_lets v5 v6 v7
    clear_value v5 v6
    have hv7 : Kept pq v7 := by
      unfold v7
      exact xset_kept a3
    clear_value v7
    refine on_ok ?_
    refine on_ite ?_ ?_
    · exact hv7
    · exact branchBy_kept hv7
  · exact h_s

theorem execSli_kept {pq : List Instr} {o : TileOp} {s : State} (h_s : Kept pq s) : (OnNext (Kept pq)) (execSli o s) := by
  unfold execSli
  refine issued_kept ?_ ?_
  · intro a2 a3
    exact on_ok (xset_kept a3)
  · exact h_s

theorem execSlih_kept {pq : List Instr} {o : TileOp} {s : State} (h_s : Kept pq s) : (OnNext (Kept pq)) (execSlih o s) := by
  unfold execSlih
  refine issued_kept ?_ ?_
  · intro a2 a3
    extract_lets v5
    clear_value v5
    exact on_ok (xset_kept a3)
  · exact h_s

theorem execSld_kept {pq : List Instr} {o : TileOp} {s : State} (h_s : Kept pq s) : (OnNext (Kept pq)) (execSld o s) := by
  unfold execSld
  refine issued_kept ?_ ?_
  · intro a2 a3
    extract_lets v5
    clear_value v5
    refine on_bindE' (fun _ => ?_)
    refine on_bindE' (fun _ => ?_)
    exact on_ok (xset_kept a3)
  · exact h_s

theorem execSst_kept {pq : List Instr} {o : TileOp} {s : State} (h_s : Kept pq s) : (OnNext (Kept pq)) (execSst o s) := by
  unfold execSst
  refine issued_kept ?_ ?_
  · intro a2 a3
    extract_lets v5
    clear_value v5
    refine on_bindE' (fun _ => ?_)
    exact on_ok (storeWrite_kept a3)
  · exact h_s

theorem execWaitc_kept {pq : List Instr} {o : TileOp} {s : State} (h_s : Kept pq s) : (OnNext (Kept pq)) (execWaitc o s) := by
  unfold execWaitc
  refine issued_kept ?_ ?_
  · intro a2 a3
    extract_lets v5
    clear_value v5
    refine on_bindE' (fun _ => ?_)
    exact on_ok (waitFor_kept a3)
  · exact h_s

theorem execWaits_kept {pq : List Instr} {o : TileOp} {s : State} (h_s : Kept pq s) : (OnNext (Kept pq)) (execWaits o s) := by
  unfold execWaits
  refine issued_kept ?_ ?_
  · intro a2 a3
    exact on_ok (waitFor_kept a3)
  · exact h_s

theorem execWaitSatisfied_kept {pq : List Instr} {tile : Nat} {s : State} (h_s : Kept pq s) : (OnNext (Kept pq)) (execWaitSatisfied tile s) := by
  unfold execWaitSatisfied
  refine on_next ?_
  refine on_ite ?_ ?_
  · exact pcNext_kept (fset_kept (tileMod_kept h_s))
  · exact h_s

theorem execBsync_kept {pq : List Instr} {o : TileOp} {s : State} (h_s : Kept pq s) : (OnNext (Kept pq)) (execBsync o s) := by
  unfold execBsync
  refine issued_kept ?_ ?_
  · intro a2 a3
    extract_lets v5 v6 v7 v8 v9 v10 v11 v12
    clear_value v5 v6 v7 v8 v9 v10 v11
    have hv12 : Kept pq v12 := by
      unfold v12
      exact baySet_kept a3
    clear_value v12
    refine on_bindE' (fun _ => ?_)
    refine on_bindE' (fun _ => ?_)
    refine on_bindE' (fun _ => ?_)
    exact on_ok (fset_kept (tileMod_kept hv12))
  · exact h_s

theorem execBarrierRelease_kept {pq : List Instr} {bay : Nat} {barrier : Nat} {s : State} (h_s : Kept pq s) : (OnNext (Kept pq)) (execBarrierRelease bay barrier s) := by
  unfold execBarrierRelease
  extract_lets v2 v3 v4
  clear_value v2 v3
  have hv4 : Kept pq v4 := by
    unfold v4
    exact baySet_kept h_s
  clear_value v4
  refine on_next ?_
  refine on_ite ?_ ?_
  · exact h_s
  · refine on_foldl ?_ (fun t11 _ h12 => ?_)
    · exact hv4
    · extract_lets v15
      clear_value v15
      refine on_ite ?_ ?_
      · exact pcNext_kept (fset_kept (tileMod_kept h12))
      · exact h12

theorem signalLocal_kept {pq : List Instr} {fromG : Nat} {target : Nat} {ctr : Nat} {inc : Nat} {s : State} (h_s : Kept pq s) : (OnOk (Kept pq)) (signalLocal fromG target ctr inc s) := by
  unfold signalLocal
  split
  · rename_i w2 w3
    exact on_error
  · rename_i w5 w6 w7
    extract_lets v9
    clear_value v9
    refine on_ite ?_ ?_
    · exact on_ok h_s
    · refine on_ite ?_ ?_
      · exact on_error
      · refine on_ite ?_ ?_
        · exact on_ok (syncSet_kept h_s)
        · exact on_ok (syncSet_kept h_s)

theorem signalNow_kept {pq : List Instr} {t : Nat} {target : Nat} {ctr : Nat} {inc : Nat} {s : State} (h_s : Kept pq s) : (OnOk (Kept pq)) (signalNow t target ctr inc s) := by
  unfold signalNow
  extract_lets v2 v3
  clear_value v2 v3
  refine on_ite ?_ ?_
  · exact signalLocal_kept h_s
  · refine on_ite ?_ ?_
    · exact on_ok (sendPkt_kept h_s)
    · exact on_error

theorem signalDone_kept {pq : List Instr} {t : Nat} {target : Nat} {ctr : Nat} {inc : Nat} {s : State} (h_s : Kept pq s) : (OnOk (Kept pq)) (signalDone t target ctr inc s) := by
  unfold signalDone
  extract_lets v2
  split
  · rename_i w4 w5 w6
    exact on_error
  · rename_i w8 w9 w10
    refine on_use (P := (OnOk (Kept pq))) w10 ?_ (fun hw10 => ?_)
    · exact signalNow_kept h_s
    refine on_ok ?_
    refine on_ite ?_ ?_
    · exact tileStop_kept ((hw10 _ rfl))
    · exact (hw10 _ rfl)

theorem execSig_kept {pq : List Instr} {o : TileOp} {s : State} (h_s : Kept pq s) : (OnNext (Kept pq)) (execSig o s) := by
  unfold execSig
  refine issued_kept ?_ ?_
  · intro a2 a3
    extract_lets v5 v6 v7
    clear_value v5 v6 v7
    refine on_bindE' (fun _ => ?_)
    refine on_ite ?_ ?_
    · exact signalDone_kept a3
    · exact on_ok (tileMod_kept a3)
  · exact h_s

theorem drainSignals_kept {pq : List Instr} {t : Nat} {x1 : Nat} {x2 : State} (h_x2 : Kept pq x2) : Kept pq (drainSignals t x1 x2) := by
  induction x1 generalizing t x2 h_x2 with
  | zero =>
    unfold drainSignals
    exact h_x2
  | succ m ih =>
    unfold drainSignals
    split
    · rename_i w3 w4 w5 w6
      extract_lets v8
      have hv8 : Kept pq v8 := by
        unfold v8
        exact tileMod_kept h_x2
      clear_value v8
      refine on_ite ?_ ?_
      · exact h_x2
      · split
        · rename_i w14 w15 w16
          exact tileStop_kept hv8
        · rename_i w19 w20 w21
          refine on_use (P := (OnOk (Kept pq))) w21 ?_ (fun hw21 => ?_)
          · exact signalDone_kept hv8
          exact ih ((hw21 _ rfl))
    · rename_i w26 w27
      exact h_x2

theorem releaseSignals_kept {pq : List Instr} {t : Nat} {s : State} (h_s : Kept pq s) : Kept pq (releaseSignals t s) := by
  unfold releaseSignals
  exact tileRest_kept (drainSignals_kept h_s)

end Sys2Proof.Machine
end

