-- ==== Sys2Proof/Laws/KeptTileTensor.lean ====
section
/-! SUPPORT. Laws/KeptTileTensor.lean: what Machine/TileTensor.lean keeps (Laws/Kept.lean says what that is). -/
namespace Sys2Proof.Machine

theorem execTld_kept {pq : List Instr} {o : TileOp} {s : State} (h_s : Kept pq s) : (OnNext (Kept pq)) (execTld o s) := by
  unfold execTld
  refine issued_kept ?_ ?_
  · intro a2 a3
    refine on_bindE' (fun _ => ?_)
    exact on_ok (tileMod_kept a3)
  · exact h_s

theorem execTst_kept {pq : List Instr} {o : TileOp} {s : State} (h_s : Kept pq s) : (OnNext (Kept pq)) (execTst o s) := by
  unfold execTst
  refine issued_kept ?_ ?_
  · intro a2 a3
    refine on_bindE' (fun _ => ?_)
    refine on_bindE' (fun _ => ?_)
    extract_lets v7
    clear_value v7
    refine on_bindE' (fun _ => ?_)
    exact on_ok (tileMod_kept a3)
  · exact h_s

theorem fillAll_kept {pq : List Instr} {t : Nat} {c : Nat} {store : Bool} {x3 : List Nat} {x4 : Xfer} {x5 : State} (h_x5 : Kept pq x5) : (OnOk (OnSnd (Kept pq))) (fillAll t c store x3 x4 x5) := by
  induction x3 generalizing t c store x4 x5 h_x5 with
  | nil =>
    unfold fillAll
    exact on_ok (on_mk h_x5)
  | cons hd tl ih =>
    unfold fillAll
    refine on_ite ?_ ?_
    · exact ih h_x5
    · refine on_bindE' (fun _ => ?_)
      exact ih (tileMod_kept (perfCount_kept h_x5))

theorem stageAll_kept {pq : List Instr} {p : Nat} {es : List Staged} {s : State} (h_s : Kept pq s) : Kept pq (stageAll p es s) := by
  unfold stageAll
  exact partMod_kept h_s

theorem stageAllLogged_kept {pq : List Instr} {t : Nat} {p : Nat} {es : List Staged} {s : State} (h_s : Kept pq s) : Kept pq (stageAllLogged t p es s) := by
  unfold stageAllLogged
  extract_lets v2 v3
  clear_value v2
  have hv3 : Kept pq v3 := by
    unfold v3
    exact stageAll_kept h_s
  clear_value v3
  refine on_ite ?_ ?_
  · exact logErr_kept hv3
  · exact hv3

theorem retireStores_kept {pq : List Instr} {t : Nat} {s : State} (h_s : Kept pq s) : Kept pq (retireStores t s) := by
  unfold retireStores
  extract_lets v2 v3
  clear_value v2 v3
  refine on_ite ?_ ?_
  · exact h_s
  · exact doneBump_kept (tileSet_kept h_s)

theorem execTstS_kept {pq : List Instr} {o : TileOp} {s : State} (h_s : Kept pq s) : (OnNext (Kept pq)) (execTstS o s) := by
  unfold execTstS
  refine issued_kept ?_ ?_
  · intro a2 a3
    refine on_bindE' (fun _ => ?_)
    refine on_bindE' (fun _ => ?_)
    extract_lets v7 v8
    clear_value v7 v8
    refine on_bindE (Q := (OnSnd (Kept pq))) ?_ (fun t10 h11 => ?_)
    · exact fillAll_kept a3
    · split
      rename_i w15 w16 w17
      extract_lets v19 v20
      have hv19 : Kept pq v19 := by
        unfold v19
        exact stageAllLogged_kept h11
      clear_value v19
      have hv20 : Kept pq v20 := by
        unfold v20
        exact perfCount_kept hv19
      clear_value v20
      exact on_ok (retireStores_kept (tileMod_kept hv20))
  · exact h_s

theorem execTileTranslationFill_kept {pq : List Instr} {tile : Nat} {store : Bool} {s : State} (h_s : Kept pq s) : (OnNext (Kept pq)) (execTileTranslationFill tile store s) := by
  unfold execTileTranslationFill
  extract_lets v2 v3
  clear_value v2 v3
  refine on_next ?_
  split
  · rename_i w6 w7
    exact h_s
  · rename_i w9 w10 w11
    split
    · rename_i w13 w14
      exact h_s
    · rename_i w16 w17 w18 w19
      split
      · rename_i w21 w22 w23
        exact tileStop_kept h_s
      · rename_i w26 w27 w28
        extract_lets v30
        clear_value v30
        refine on_ite ?_ ?_
        · exact tileStop_kept h_s
        · exact tileMod_kept (perfCount_kept h_s)

theorem gatherLoad_kept {pq : List Instr} {p : Nat} {cls : Nat} {x : Xfer} {x3 : List Piece} {x4 : List Byte} {x5 : State} (h_x5 : Kept pq x5) : (OnSnd (Kept pq)) (gatherLoad p cls x x3 x4 x5) := by
  induction x3 generalizing p cls x x4 x5 h_x5 with
  | nil =>
    unfold gatherLoad
    exact on_mk h_x5
  | cons hd tl ih =>
    unfold gatherLoad
    split
    · rename_i w4 w5
      exact on_mk h_x5
    · rename_i w8 w9 w10
      refine on_ite ?_ ?_
      · split
        · rename_i w13 w14 w15 w16
          refine on_use (P := (OnSnd (Kept pq))) w16 ?_ (fun hw16 => ?_)
          · exact ih h_x5
          exact on_mk hw16
        · rename_i w21 w22 w23
          refine on_use (P := (OnSnd (Kept pq))) w23 ?_ (fun hw23 => ?_)
          · exact ih h_x5
          exact on_mk hw23
      · split
        · rename_i w29 w30 w31
          refine on_use (P := (OnSnd (Kept pq))) w31 ?_ (fun hw31 => ?_)
          · exact devRead_kept h_x5
          exact on_mk hw31
        · rename_i w36 w37 w38 w39
          refine on_use (P := (OnSnd (Kept pq))) w39 ?_ (fun hw39 => ?_)
          · exact devRead_kept h_x5
          split
          · rename_i w43 w44 w45 w46
            refine on_use (P := (OnSnd (Kept pq))) w46 ?_ (fun hw46 => ?_)
            · exact ih hw39
            exact on_mk hw46
          · rename_i w51 w52 w53
            refine on_use (P := (OnSnd (Kept pq))) w53 ?_ (fun hw53 => ?_)
            · exact ih hw39
            exact on_mk hw53

theorem execTldComplete_kept {pq : List Instr} {tile : Nat} {host : List Byte} {s : State} (h_s : Kept pq s) : (OnNext (Kept pq)) (execTldComplete tile host s) := by
  unfold execTldComplete
  refine on_next ?_
  split
  · rename_i w3 w4
    exact h_s
  · rename_i w6 w7 w8 w9
    extract_lets v11 v12
    have hv11 : ∀ y0, Kept pq y0 → Kept pq (v11 y0) := by
      unfold v11
      intro a13 a14
      exact tileMod_kept a14
    clear_value v11 v12
    refine on_ite ?_ ?_
    · exact h_s
    · refine on_ite ?_ ?_
      · exact hv11 _ (spoil_kept h_s)
      · split
        · rename_i w24 w25 w26
          refine on_use (P := (OnSnd (Kept pq))) w26 ?_ (fun hw26 => ?_)
          · exact gatherLoad_kept h_s
          exact hv11 _ hw26
        · rename_i w31 w32 w33 w34
          refine on_use (P := (OnSnd (Kept pq))) w34 ?_ (fun hw34 => ?_)
          · exact gatherLoad_kept h_s
          extract_lets v38
          have hv38 : Kept pq v38 := by
            unfold v38
            refine on_foldl ?_ (fun t40 _ h41 => ?_)
            · exact hw34
            · exact storeWrite_kept h41
          clear_value v38
          exact tileRest_kept (doneBump_kept (hv11 _ (perfCount_kept hv38)))

theorem storePieces_kept {pq : List Instr} {t : Nat} {x : Xfer} {s : State} (h_s : Kept pq s) : Kept pq (storePieces t x s) := by
  unfold storePieces
  refine on_foldl ?_ (fun t2 _ h3 => ?_)
  · exact h_s
  · exact devStore_kept h3

theorem storeRefused_kept {pq : List Instr} {t : Nat} {x : Xfer} {s : State} (h_s : Kept pq s) : Kept pq (storeRefused t x s) := by
  unfold storeRefused
  extract_lets v2
  have hv2 : Kept pq v2 := by
    unfold v2
    exact tileMod_kept (storePieces_kept h_s)
  clear_value v2
  exact emit_kept hv2

theorem execTstAck_kept {pq : List Instr} {tile : Nat} {s : State} (h_s : Kept pq s) : (OnNext (Kept pq)) (execTstAck tile s) := by
  unfold execTstAck
  extract_lets v2
  clear_value v2
  refine on_next ?_
  split
  · rename_i w5 w6
    exact h_s
  · rename_i w8 w9 w10
    extract_lets v12 v13
    have hv12 : Kept pq v12 := by
      unfold v12
      exact tileMod_kept (storePieces_kept h_s)
    clear_value v12
    have hv13 : Kept pq v13 := by
      unfold v13
      exact perfCount_kept (retireStores_kept hv12)
    clear_value v13
    refine on_ite ?_ ?_
    · exact h_s
    · refine on_ite ?_ ?_
      · exact storeRefused_kept h_s
      · exact tileRest_kept (drainSignals_kept hv13)

theorem execPatrolScrub_kept {pq : List Instr} {tile : Nat} {line : Nat} {found : Option Upset} {s : State} (h_s : Kept pq s) : (OnNext (Kept pq)) (execPatrolScrub tile line found s) := by
  unfold execPatrolScrub
  refine on_next ?_
  refine on_ite ?_ ?_
  · exact h_s
  · split
    · rename_i w5
      exact fbump_kept h_s
    · rename_i w8
      extract_lets v10 v11
      have hv10 : Kept pq v10 := by
        unfold v10
        exact tileErr_kept h_s
      clear_value v10
      have hv11 : Kept pq v11 := by
        unfold v11
        exact tileMod_kept hv10
      clear_value v11
      exact tileRecord_kept hv11
    · rename_i w18 w19 w20
      exact h_s

theorem execVectorStoreComplete_kept {pq : List Instr} {tile : Nat} {s : State} (h_s : Kept pq s) : (OnNext (Kept pq)) (execVectorStoreComplete tile s) := by
  unfold execVectorStoreComplete
  refine on_next ?_
  split
  · rename_i w3 w4
    exact h_s
  · rename_i w6 w7 w8 w9
    exact tileRest_kept (doneBump_kept (payOwed_kept (tileMod_kept h_s)))

end Sys2Proof.Machine
end

