-- ==== Sys2Proof/Laws/KeptKvWalker.lean ====
section
/-! SUPPORT. Laws/KeptKvWalker.lean: what Machine/KvWalker.lean keeps (Laws/Kept.lean says what that is). -/
namespace Sys2Proof.Machine

theorem slotMeets_kept {pq : List Instr} {t : Nat} {u : Option Upset} {s : State} (h_s : Kept pq s) : (OnSnd (Kept pq)) (slotMeets t u s) := by
  unfold slotMeets
  exact storeMeets_kept h_s

theorem kvwErr_kept {pq : List Instr} {t : Nat} {cause : Nat} {entry : Nat} {s : State} (h_s : Kept pq s) : Kept pq (kvwErr t cause entry s) := by
  unfold kvwErr
  exact firstErr_kept h_s

theorem kvwRecord_kept {pq : List Instr} {t : Nat} {cause : Nat} {injected : Bool} {s : State} (h_s : Kept pq s) : Kept pq (kvwRecord t cause injected s) := by
  unfold kvwRecord
  exact logErr_kept h_s

theorem haltTile_kept {pq : List Instr} {t : Nat} {s : State} (h_s : Kept pq s) : Kept pq (haltTile t s) := by
  unfold haltTile
  exact fset_kept h_s

theorem kvwCount_kept {pq : List Instr} {t : Nat} {n : Nat} {s : State} (h_s : Kept pq s) : Kept pq (kvwCount t n s) := by
  unfold kvwCount
  exact perfCount_kept (fwrap_kept h_s)

theorem walkStop_kept {pq : List Instr} {t : Nat} {cause : Nat} {tcause : Nat} {s : State} (h_s : Kept pq s) : Kept pq (walkStop t cause tcause s) := by
  unfold walkStop
  extract_lets v2 v3 v4
  clear_value v2
  have hv3 : Kept pq v3 := by
    unfold v3
    exact stopTile_kept (tileErr_kept h_s)
  clear_value v3
  have hv4 : Kept pq v4 := by
    unfold v4
    exact tileRecord_kept (kvwRecord_kept hv3)
  clear_value v4
  exact ctxFault_kept hv4

theorem walkProgErr_kept {pq : List Instr} {t : Nat} {cause : Nat} {entry : Nat} {s : State} (h_s : Kept pq s) : Kept pq (walkProgErr t cause entry s) := by
  unfold walkProgErr
  exact walkStop_kept (haltTile_kept (kvwErr_kept h_s))

theorem kvwIdle_kept {pq : List Instr} {t : Nat} {s : State} (h_s : Kept pq s) : Kept pq (kvwIdle t s) := by
  unfold kvwIdle
  exact fset_kept h_s

theorem dropOwed_kept {pq : List Instr} {t : Nat} {s : State} (h_s : Kept pq s) : Kept pq (dropOwed t s) := by
  unfold dropOwed
  exact kvwIdle_kept (bayMod_kept h_s)

theorem reqTaken_kept {pq : List Instr} {t : Nat} {s : State} (h_s : Kept pq s) : Kept pq (reqTaken t s) := by
  unfold reqTaken
  extract_lets v2
  clear_value v2
  exact syncSet_kept (tileMod_kept h_s)

theorem dropReq_kept {pq : List Instr} {t : Nat} {req : Nat} {s : State} (h_s : Kept pq s) : Kept pq (dropReq t req s) := by
  unfold dropReq
  extract_lets v2
  have hv2 : Kept pq v2 := by
    unfold v2
    exact bayMod_kept h_s
  clear_value v2
  refine on_ite ?_ ?_
  · exact hv2
  · exact kvwIdle_kept hv2

theorem walkErr_kept {pq : List Instr} {t : Nat} {entry : Nat} {req : Option Nat} {e : KvErr} {s : State} (h_s : Kept pq s) : Kept pq (walkErr t entry req e s) := by
  unfold walkErr
  extract_lets v2 v3
  have hv2 : Kept pq v2 := by
    unfold v2
    exact fbump_kept h_s
  clear_value v2 v3
  split
  · rename_i w7 w8
    extract_lets v10 v11
    have hv10 : Kept pq v10 := by
      unfold v10
      exact kvwErr_kept (dropOwed_kept hv2)
    clear_value v10
    have hv11 : Kept pq v11 := by
      unfold v11
      refine on_foldl ?_ (fun t16 _ h17 => ?_)
      · exact hv10
      · refine on_ite ?_ ?_
        · exact haltTile_kept h17
        · exact h17
    clear_value v11
    exact walkStop_kept hv11
  · rename_i w25 w26 w27
    extract_lets v29 v30
    have hv29 : Kept pq v29 := by
      unfold v29
      exact memUncorrectable_kept (kvwErr_kept hv2)
    clear_value v29
    have hv30 : Kept pq v30 := by
      unfold v30
      exact kvwRecord_kept hv29
    clear_value v30
    split
    · rename_i w37 w38
      exact dropReq_kept hv30
    · rename_i w41
      exact reqTaken_kept hv30

theorem kvNote_kept {pq : List Instr} {b : Nat} {cls : Nat} {qs : List Nat} {s : State} (h_s : Kept pq s) : Kept pq (kvNote b cls qs s) := by
  unfold kvNote
  refine on_foldl ?_ (fun t2 _ h3 => ?_)
  · exact h_s
  · extract_lets v6
    clear_value v6
    refine on_ite ?_ ?_
    · exact h3
    · exact baySet_kept (countReads_kept h3)

theorem execGather_kept {pq : List Instr} {w : WalkTake} {s : State} (h_s : Kept pq s) : (OnNext (Kept pq)) (execGather w s) := by
  unfold execGather
  refine on_next ?_
  split
  · rename_i w3 w4
    exact h_s
  · rename_i w6 w7 w8
    extract_lets v10
    clear_value v10
    refine on_ite ?_ ?_
    · exact checkedStop_kept h_s
    · refine on_ite ?_ ?_
      · exact h_s
      · split
        · rename_i w17 w18 w19 w20
          refine on_use (P := (OnSnd (Kept pq))) w20 ?_ (fun hw20 => ?_)
          · exact slotMeets_kept h_s
          exact checkedStop_kept hw20
        · rename_i w25 w26 w27
          refine on_use (P := (OnSnd (Kept pq))) w27 ?_ (fun hw27 => ?_)
          · exact slotMeets_kept h_s
          refine on_ite ?_ ?_
          · exact walkProgErr_kept hw27
          · split
            · rename_i w34 w35 w36
              exact walkErr_kept hw27
            · rename_i w39 w40 w41
              extract_lets v43 v44
              clear_value v43 v44
              split
              · rename_i w46 w47 w48
                exact walkErr_kept hw27
              · rename_i w51 w52 w53
                extract_lets v55 v56 v57 v58 v59 v60 v61
                clear_value v55 v56 v57 v58
                have hv59 : Kept pq v59 := by
                  unfold v59
                  exact bayMod_kept hw27
                clear_value v59
                have hv60 : Kept pq v60 := by
                  unfold v60
                  exact tileSet_kept hv59
                clear_value v60
                have hv61 : Kept pq v61 := by
                  unfold v61
                  exact fset_kept hv60
                clear_value v61
                refine on_ite ?_ ?_
                · exact walkProgErr_kept hw27
                · refine on_ite ?_ ?_
                  · exact walkProgErr_kept hw27
                  · exact reqTaken_kept hv61

theorem landPage_kept {pq : List Instr} {s : State} {t : Nat} {base : Nat} {page : Nat} {k : KvLayout} {d : Delivery} (h_s : Kept pq s) : Kept pq (landPage s t base page k d) := by
  unfold landPage
  extract_lets v2 v3
  clear_value v2 v3
  refine on_foldl ?_ (fun t5 _ h6 => ?_)
  · exact h_s
  · extract_lets v9
    clear_value v9
    refine on_foldl ?_ (fun t11 _ h12 => ?_)
    · exact h6
    · exact storeWrite_kept h12

theorem execKvDeliveryComplete_kept {pq : List Instr} {tile : Nat} {s : State} (h_s : Kept pq s) : (OnNext (Kept pq)) (execKvDeliveryComplete tile s) := by
  unfold execKvDeliveryComplete
  extract_lets v2 v3 v4
  clear_value v2 v3 v4
  refine on_next ?_
  split
  · rename_i w7 w8
    exact h_s
  · rename_i w10 w11 w12
    extract_lets v14 v15 v16
    clear_value v14 v15 v16
    refine on_ite ?_ ?_
    · exact h_s
    · split
      · rename_i w20 w21
        exact walkErr_kept h_s
      · rename_i w24 w25 w26
        extract_lets v28 v29 v30 v31 v32 v33
        have hv28 : Kept pq v28 := by
          unfold v28
          exact kvNote_kept h_s
        clear_value v28
        have hv29 : Kept pq v29 := by
          unfold v29
          exact countReads_kept hv28
        clear_value v29
        have hv30 : Kept pq v30 := by
          unfold v30
          exact landPage_kept hv29
        clear_value v30
        have hv31 : Kept pq v31 := by
          unfold v31
          exact kvwCount_kept hv30
        clear_value v31
        have hv32 : Kept pq v32 := by
          unfold v32
          exact bayMod_kept hv31
        clear_value v32
        have hv33 : Kept pq v33 := by
          unfold v33
          refine on_ite ?_ ?_
          · exact hv32
          · exact kvwIdle_kept hv32
        clear_value v33
        exact doneBump_kept hv33

theorem execAppend_kept {pq : List Instr} {w : WalkTake} {mismatch : Bool} {s : State} (h_s : Kept pq s) : (OnNext (Kept pq)) (execAppend w mismatch s) := by
  unfold execAppend
  refine on_next ?_
  split
  · rename_i w3 w4
    exact h_s
  · rename_i w6 w7 w8
    extract_lets v10
    clear_value v10
    refine on_ite ?_ ?_
    · exact checkedStop_kept h_s
    · refine on_ite ?_ ?_
      · exact h_s
      · split
        · rename_i w17 w18 w19 w20
          refine on_use (P := (OnSnd (Kept pq))) w20 ?_ (fun hw20 => ?_)
          · exact slotMeets_kept h_s
          exact checkedStop_kept hw20
        · rename_i w25 w26 w27
          refine on_use (P := (OnSnd (Kept pq))) w27 ?_ (fun hw27 => ?_)
          · exact slotMeets_kept h_s
          refine on_ite ?_ ?_
          · exact walkProgErr_kept hw27
          · split
            · rename_i w34 w35 w36
              exact walkErr_kept hw27
            · rename_i w39 w40 w41
              extract_lets v43 v44 v45 v46
              clear_value v43 v44 v45
              have hv46 : Kept pq v46 := by
                unfold v46
                exact kvwErr_kept hw27
              clear_value v46
              split
              · rename_i w50 w51 w52
                exact walkErr_kept hw27
              · rename_i w55 w56 w57
                extract_lets v59 v60 v61 v62
                clear_value v59 v60 v61 v62
                refine on_ite ?_ ?_
                · exact walkProgErr_kept hw27
                · refine on_ite ?_ ?_
                  · exact walkProgErr_kept hw27
                  · refine on_ite ?_ ?_
                    · exact checkedStop_kept hw27
                    · split
                      · rename_i w73 w74
                        exact walkErr_kept hw27
                      · rename_i w77 w78
                        refine on_ite ?_ ?_
                        · exact kvwRecord_kept (spoil_kept hv46)
                        · exact reqTaken_kept (kvwCount_kept (stageAllLogged_kept hw27))

theorem execMask_kept {pq : List Instr} {w : WalkTake} {s : State} (h_s : Kept pq s) : (OnNext (Kept pq)) (execMask w s) := by
  unfold execMask
  refine on_next ?_
  split
  · rename_i w3 w4
    exact h_s
  · rename_i w6 w7 w8
    refine on_ite ?_ ?_
    · exact checkedStop_kept h_s
    · refine on_ite ?_ ?_
      · exact h_s
      · split
        · rename_i w15 w16 w17 w18
          refine on_use (P := (OnSnd (Kept pq))) w18 ?_ (fun hw18 => ?_)
          · exact slotMeets_kept h_s
          exact checkedStop_kept hw18
        · rename_i w23 w24 w25
          refine on_use (P := (OnSnd (Kept pq))) w25 ?_ (fun hw25 => ?_)
          · exact slotMeets_kept h_s
          extract_lets v29
          clear_value v29
          refine on_ite ?_ ?_
          · exact walkProgErr_kept hw25
          · split
            · rename_i w34 w35 w36
              exact walkErr_kept hw25
            · rename_i w39 w40 w41
              extract_lets v43 v44
              clear_value v43 v44
              refine on_ite ?_ ?_
              · exact walkErr_kept hw25
              · exact reqTaken_kept (storeWrite_kept hw25)

end Sys2Proof.Machine
end

