-- ==== Sys2Proof/Laws/KeptBatch.lean ====
section
/-! SUPPORT. Laws/KeptBatch.lean: what Machine/Batch.lean keeps (Laws/Kept.lean says what that is). -/
namespace Sys2Proof.Machine

/-- The state of an admission in progress. -/
def OnAdm (q : List Instr) (a : Adm) : Prop := Kept q a.s
theorem on_adm_s {q : List Instr} {a : Adm} (h : OnAdm q a) : Kept q a.s := h
theorem on_adm_mk {q : List Instr} {s : State} {a b c d : Nat} {l : List BatchEntry} (h : Kept q s) : OnAdm q ⟨s, a, b, c, d, l⟩ := h

theorem sessPut_kept {pq : List Instr} {r : TickRec} {q : Nat} {x : Sess} {s : State} (h_s : Kept pq s) : Kept pq (sessPut r q x s) := by
  unfold sessPut
  exact devStore_kept h_s

theorem qConsume_kept {pq : List Instr} {q : Nat} {s : State} (h_s : Kept pq s) : Kept pq (qConsume q s) := by
  unfold qConsume
  exact queueMod_kept h_s

theorem sessFault_kept {pq : List Instr} {p : Nat} {r : TickRec} {q : Nat} {x : Sess} {s : State} (h_s : Kept pq s) : Kept pq (sessFault p r q x s) := by
  unfold sessFault
  extract_lets v2 v3
  have hv2 : Kept pq v2 := by
    unfold v2
    exact partMod_kept h_s
  clear_value v2
  have hv3 : Kept pq v3 := by
    unfold v3
    exact sessPut_kept (qConsume_kept hv2)
  clear_value v3
  exact logErr_kept hv3

theorem unlist_kept {pq : List Instr} {p : Nat} {q : Nat} {s : State} (h_s : Kept pq s) : Kept pq (unlist p q s) := by
  unfold unlist
  exact partMod_kept h_s

theorem sessStart_kept {pq : List Instr} {r : TickRec} {q : Nat} {x : Sess} {e : QEntry} {s : State} (h_s : Kept pq s) : (OnSnd (Kept pq)) (sessStart r q x e s) := by
  unfold sessStart
  extract_lets v2
  clear_value v2
  exact on_mk (sessPut_kept h_s)

theorem admitSess_kept {pq : List Instr} {p : Nat} {r : TickRec} {pl : Plan} {a : Adm} {q : Nat} {x : Sess} {e : QEntry} (h_a : (OnAdm pq) a) : (OnAdm pq) (admitSess p r pl a q x e) := by
  unfold admitSess
  extract_lets v2 v3 v4 v5 v6
  have hv2 : (OnAdm pq) v2 := by
    unfold v2
    exact on_adm_mk h_a
  clear_value v2 v3 v4 v5 v6
  refine on_ite ?_ ?_
  · exact hv2
  · split
    · rename_i w12 w13
      exact hv2
    · rename_i w15 w16 w17 w18
      extract_lets v20 v21 v22 v23
      clear_value v20 v21 v22 v23
      refine on_ite ?_ ?_
      · exact hv2
      · refine on_ite ?_ ?_
        · exact hv2
        · refine on_adm_mk ?_
          refine on_ite ?_ ?_
          · exact hv2
          · exact ringReserve_kept hv2

theorem admitOne_kept {pq : List Instr} {p : Nat} {r : TickRec} {pl : Plan} {a : Adm} {q : Nat} (h_a : (OnAdm pq) a) : (OnAdm pq) (admitOne p r pl a q) := by
  unfold admitOne
  extract_lets v2
  clear_value v2
  refine on_ite ?_ ?_
  · exact h_a
  · split
    · rename_i w6 w7
      exact on_adm_mk (unlist_kept h_a)
    · rename_i w11 w12 w13
      extract_lets v15
      have hv15 : (OnSnd (Kept pq)) v15 := by
        unfold v15
        exact sessStart_kept h_a
      clear_value v15
      refine on_ite ?_ ?_
      · exact on_adm_mk (unlist_kept h_a)
      · refine on_ite ?_ ?_
        · exact on_adm_mk (unlist_kept (sessFault_kept h_a))
        · refine on_ite ?_ ?_
          · exact h_a
          · refine on_ite ?_ ?_
            · exact admitSess_kept (on_adm_mk (on_snd hv15))
            · exact admitSess_kept h_a

theorem writeTable_kept {pq : List Instr} {r : TickRec} {tick : Nat} {plan : Nat} {a : Adm} (h_a : (OnAdm pq) a) : Kept pq (writeTable r tick plan a) := by
  unfold writeTable
  exact devStore_kept h_a

theorem noFit_kept {pq : List Instr} {p : Nat} {s : State} (h_s : Kept pq s) : Kept pq (noFit p s) := by
  unfold noFit
  refine on_ite ?_ ?_
  · exact h_s
  · exact logErr_kept (fset_kept h_s)

theorem admitBatch_kept {pq : List Instr} {p : Nat} {r : TickRec} {plan : Nat} {tick : Nat} {s : State} (h_s : Kept pq s) : Kept pq (admitBatch p r plan tick s) := by
  unfold admitBatch
  extract_lets v2 v3 v4 v5 v6
  clear_value v2
  have hv3 : Kept pq v3 := by
    unfold v3
    exact fset_kept (fset_kept (fset_kept h_s))
  clear_value v3
  have hv4 : Kept pq v4 := by
    unfold v4
    exact partMod_kept hv3
  clear_value v4
  have hv5 : (OnAdm pq) v5 := by
    unfold v5
    refine on_ite ?_ ?_
    · exact on_adm_mk hv4
    · refine on_foldl ?_ (fun t17 _ h18 => ?_)
      · exact on_adm_mk hv4
      · exact admitOne_kept h18
  clear_value v5
  have hv6 : Kept pq v6 := by
    unfold v6
    refine on_ite ?_ ?_
    · exact hv4
    · exact writeTable_kept hv5
  clear_value v6
  exact partMod_kept hv6

theorem returnSlots_kept {pq : List Instr} {p : Nat} {s : State} (h_s : Kept pq s) : Kept pq (returnSlots p s) := by
  unfold returnSlots
  refine on_foldl ?_ (fun t2 _ h3 => ?_)
  · exact h_s
  · refine on_ite ?_ ?_
    · exact h3
    · exact ringReturn_kept h3

theorem checkStaged_kept {pq : List Instr} {p : Nat} {r : TickRec} {s : State} (h_s : Kept pq s) : Kept pq (checkStaged p r s) := by
  unfold checkStaged
  extract_lets v2 v3
  clear_value v2
  have hv3 : Kept pq v3 := by
    unfold v3
    refine on_foldl ?_ (fun t5 _ h6 => ?_)
    · exact h_s
    · refine on_ite ?_ ?_
      · exact h6
      · exact ctxFault_kept h6
  clear_value v3
  refine on_foldl ?_ (fun t13 _ h14 => ?_)
  · exact hv3
  · extract_lets v17
    clear_value v17
    refine on_ite ?_ ?_
    · exact h14
    · exact logErr_kept (ctxFault_kept h14)

end Sys2Proof.Machine
end

