-- ==== Sys2Proof/Laws/KeptGrisetTick.lean ====
section
/-! SUPPORT. Laws/KeptGrisetTick.lean: what Machine/GrisetTick.lean keeps (Laws/Kept.lean says what that is). -/
namespace Sys2Proof.Machine

theorem doPartTick_kept {pq : List Instr} {c : Cmd} {s : State} (h_s : Kept pq s) : (OnSnd (Kept pq)) (doPartTick c s) := by
  unfold doPartTick
  extract_lets v2
  clear_value v2
  refine on_ite ?_ ?_
  · exact on_mk h_s
  · refine on_ite ?_ ?_
    · exact on_mk (logRefused_kept h_s)
    · refine on_ite ?_ ?_
      · exact on_mk (lostMet_kept h_s)
      · split
        · rename_i w15 w16
          exact on_mk h_s
        · rename_i w19 w20 w21
          refine on_ite ?_ ?_
          · exact on_mk (partMod_kept h_s)
          · exact on_mk h_s

theorem execPartTick_kept {pq : List Instr} {cmd : Nat} {s : State} (h_s : Kept pq s) : (OnNext (Kept pq)) (execPartTick cmd s) := by
  unfold execPartTick
  refine on_next ?_
  refine startOp_kept ?_ ?_
  · intro a3 a4 a5
    exact doPartTick_kept a5
  · exact h_s

theorem applyResume_kept {pq : List Instr} {c : Cmd} {s : State} (h_s : Kept pq s) : (OnSnd (Kept pq)) (applyResume c s) := by
  unfold applyResume
  extract_lets v2
  clear_value v2
  refine on_ite ?_ ?_
  · exact on_mk (ctxMod_kept h_s)
  · exact on_mk h_s

theorem applySessSet_kept {pq : List Instr} {c : Cmd} {s : State} (h_s : Kept pq s) : (OnSnd (Kept pq)) (applySessSet c s) := by
  unfold applySessSet
  split
  · rename_i w2 w3 w4
    exact on_mk h_s
  · rename_i w7 w8 w9 w10 w11
    extract_lets v13 v14 v15 v16
    clear_value v13 v14 v15
    have hv16 : Kept pq v16 := by
      unfold v16
      exact sessPut_kept h_s
    clear_value v16
    refine on_ite ?_ ?_
    · exact on_mk h_s
    · refine on_mk ?_
      split
      · rename_i w24 w25 w26
        exact devStore_kept (devStore_kept hv16)
      · rename_i w30 w31
        exact hv16

theorem applySessReserve_kept {pq : List Instr} {c : Cmd} {s : State} (h_s : Kept pq s) : (OnSnd (Kept pq)) (applySessReserve c s) := by
  unfold applySessReserve
  split
  · rename_i w2 w3 w4
    exact on_mk h_s
  · rename_i w7 w8 w9 w10 w11
    extract_lets v13 v14
    clear_value v13 v14
    refine on_ite ?_ ?_
    · exact on_mk h_s
    · exact on_mk (sessPut_kept h_s)

theorem applySessReset_kept {pq : List Instr} {c : Cmd} {s : State} (h_s : Kept pq s) : (OnSnd (Kept pq)) (applySessReset c s) := by
  unfold applySessReset
  split
  · rename_i w2 w3 w4
    exact on_mk h_s
  · rename_i w7 w8 w9 w10 w11
    extract_lets v13 v14
    clear_value v13
    have hv14 : Kept pq v14 := by
      unfold v14
      exact sessPut_kept h_s
    clear_value v14
    refine on_ite ?_ ?_
    · exact on_mk h_s
    · refine on_mk ?_
      refine on_ite ?_ ?_
      · exact queueMod_kept hv14
      · exact hv14

theorem applyKvMap_kept {pq : List Instr} {unmap : Bool} {c : Cmd} {s : State} (h_s : Kept pq s) : (OnSnd (Kept pq)) (applyKvMap unmap c s) := by
  unfold applyKvMap
  split
  · rename_i w2 w3 w4
    exact on_mk h_s
  · rename_i w7 w8 w9 w10 w11
    extract_lets v13 v14
    clear_value v13 v14
    split
    · rename_i w16 w17 w18 w19
      exact on_mk (lostMet_kept h_s)
    · rename_i w23 w24 w25 w26
      exact on_mk h_s
    · rename_i w29 w30 w31
      extract_lets v33
      clear_value v33
      refine on_ite ?_ ?_
      · exact on_mk h_s
      · split
        · rename_i w38 w39 w40
          exact on_mk h_s
        · rename_i w43 w44 w45
          refine on_mk ?_
          refine on_foldl ?_ (fun t48 _ h49 => ?_)
          · exact h_s
          · exact devStore_kept h49

theorem loadTile_kept {pq : List Instr} {c : Nat} {cls : Nat} {img : List Byte} {ring : Nat} {t : Nat} {s : State} (h_s : Kept pq s) : Kept pq (loadTile c cls img ring t s) := by
  unfold loadTile
  extract_lets v2
  have hv2 : Kept pq v2 := by
    unfold v2
    exact tileMod_kept ⟨h_s.1, h_s.2.1, Mem.wf_writeN _ _ (h_s.2.2)⟩
  clear_value v2
  exact rset_kept hv2

theorem applyProgLoad_kept {pq : List Instr} {c : Cmd} {s : State} (h_s : Kept pq s) : (OnSnd (Kept pq)) (applyProgLoad c s) := by
  unfold applyProgLoad
  extract_lets v2 v3 v4 v5 v6 v7 v8
  clear_value v2 v3 v4
  have hv5 : Kept pq v5 := by
    unfold v5
    refine on_foldl ?_ (fun t10 _ h11 => ?_)
    · exact h_s
    · exact loadTile_kept h11
  clear_value v5 v6 v7
  have hv8 : Kept pq v8 := by
    unfold v8
    exact partMod_kept hv5
  clear_value v8
  exact on_mk hv8

theorem edgeApply_kept {pq : List Instr} {c : Cmd} {s : State} (h_s : Kept pq s) : (OnSnd (Kept pq)) (edgeApply c s) := by
  unfold edgeApply
  split
  · rename_i w2 w3
    exact applyResume_kept h_s
  · rename_i w6 w7
    exact applyProgLoad_kept h_s
  · rename_i w10 w11
    exact applySessSet_kept h_s
  · rename_i w14 w15
    exact applySessReserve_kept h_s
  · rename_i w18 w19
    exact applySessReset_kept h_s
  · rename_i w22 w23
    exact applyKvMap_kept h_s
  · rename_i w26 w27 w28 w29 w30 w31 w32
    exact applyKvMap_kept h_s

theorem applyEdges_kept {pq : List Instr} {p : Nat} {s : State} (h_s : Kept pq s) : Kept pq (applyEdges p s) := by
  unfold applyEdges
  extract_lets v2
  clear_value v2
  refine on_foldl ?_ (fun t4 _ h5 => ?_)
  · exact h_s
  · exact settle_kept (edgeApply_kept h5)

theorem edgeStart_kept {pq : List Instr} {c : Cmd} {s : State} (h_s : Kept pq s) : (OnSnd (Kept pq)) (edgeStart c s) := by
  unfold edgeStart
  refine on_ite ?_ ?_
  · exact on_mk h_s
  · exact edgeApply_kept h_s

theorem execCtxResume_kept {pq : List Instr} {cmd : Nat} {s : State} (h_s : Kept pq s) : (OnNext (Kept pq)) (execCtxResume cmd s) := by
  unfold execCtxResume
  refine on_next ?_
  refine startOp_kept ?_ ?_
  · intro a3 a4 a5
    refine on_ite ?_ ?_
    · exact on_mk a5
    · exact edgeStart_kept a5
  · exact h_s

theorem onSession_kept {pq : List Instr} {h : Cmd → State → Done × State} {c : Cmd} {s : State} (h_h : ∀ y0 y1, Kept pq y1 → (OnSnd (Kept pq)) (h y0 y1)) (h_s : Kept pq s) : (OnSnd (Kept pq)) (onSession h c s) := by
  unfold onSession
  split
  · rename_i w2 w3 w4
    exact on_mk h_s
  · rename_i w7 w8 w9
    exact h_h _ _ h_s

theorem execSessSet_kept {pq : List Instr} {cmd : Nat} {s : State} (h_s : Kept pq s) : (OnNext (Kept pq)) (execSessSet cmd s) := by
  unfold execSessSet
  refine on_next ?_
  refine startOp_kept ?_ ?_
  · intro a3 a4 a5
    refine onSession_kept ?_ ?_
    · intro a7 a8 a9
      refine on_ite ?_ ?_
      · exact on_mk a9
      · exact edgeStart_kept a9
    · exact a5
  · exact h_s

theorem execSessReserve_kept {pq : List Instr} {cmd : Nat} {s : State} (h_s : Kept pq s) : (OnNext (Kept pq)) (execSessReserve cmd s) := by
  unfold execSessReserve
  refine on_next ?_
  refine startOp_kept ?_ ?_
  · intro a3 a4 a5
    refine onSession_kept ?_ ?_
    · intro a7 a8 a9
      exact edgeStart_kept a9
    · exact a5
  · exact h_s

theorem execSessReset_kept {pq : List Instr} {cmd : Nat} {s : State} (h_s : Kept pq s) : (OnNext (Kept pq)) (execSessReset cmd s) := by
  unfold execSessReset
  refine on_next ?_
  refine startOp_kept ?_ ?_
  · intro a3 a4 a5
    refine onSession_kept ?_ ?_
    · intro a7 a8 a9
      exact edgeStart_kept a9
    · exact a5
  · exact h_s

theorem doSessQuery_kept {pq : List Instr} {c : Cmd} {s : State} (h_s : Kept pq s) : (OnSnd (Kept pq)) (doSessQuery c s) := by
  unfold doSessQuery
  split
  · rename_i w2 w3 w4
    exact on_mk h_s
  · rename_i w7 w8 w9 w10 w11
    exact on_mk h_s

theorem execSessQuery_kept {pq : List Instr} {cmd : Nat} {s : State} (h_s : Kept pq s) : (OnNext (Kept pq)) (execSessQuery cmd s) := by
  unfold execSessQuery
  refine on_next ?_
  refine startOp_kept ?_ ?_
  · intro a3 a4 a5
    exact doSessQuery_kept a5
  · exact h_s

theorem setPayload_kept {pq : List Instr} {id : Nat} {bs : List Byte} {s : State} (h_s : Kept pq s) : Kept pq (setPayload id bs s) := by
  unfold setPayload
  exact ⟨h_s.1, h_s.2.1, h_s.2.2⟩

theorem edgeRead_kept {pq : List Instr} {c : Cmd} {w : Nat} {n : Nat} {host : List Byte} {s : State} (h_s : Kept pq s) : (OnSnd (Kept pq)) (edgeRead c w n host s) := by
  unfold edgeRead
  split
  · rename_i w2 w3 w4
    exact on_mk h_s
  · rename_i w7 w8 w9 w10
    split
    · rename_i w12 w13 w14
      exact on_mk (vaFailed_kept h_s)
    · rename_i w18 w19 w20
      exact edgeStart_kept (setPayload_kept h_s)

theorem doKvMap_kept {pq : List Instr} {host : List Byte} {c : Cmd} {s : State} (h_s : Kept pq s) : (OnSnd (Kept pq)) (doKvMap host c s) := by
  unfold doKvMap
  extract_lets v2
  clear_value v2
  refine on_ite ?_ ?_
  · exact on_mk h_s
  · exact edgeRead_kept h_s

theorem execKvMap_kept {pq : List Instr} {cmd : Nat} {host : List Byte} {s : State} (h_s : Kept pq s) : (OnNext (Kept pq)) (execKvMap cmd host s) := by
  unfold execKvMap
  refine on_next ?_
  refine startOp_kept ?_ ?_
  · intro a3 a4 a5
    refine onSession_kept ?_ ?_
    · intro a7 a8 a9
      exact doKvMap_kept a9
    · exact a5
  · exact h_s

theorem execKvUnmap_kept {pq : List Instr} {cmd : Nat} {s : State} (h_s : Kept pq s) : (OnNext (Kept pq)) (execKvUnmap cmd s) := by
  unfold execKvUnmap
  refine on_next ?_
  refine startOp_kept ?_ ?_
  · intro a3 a4 a5
    refine onSession_kept ?_ ?_
    · intro a7 a8 a9
      extract_lets v11
      clear_value v11
      refine on_ite ?_ ?_
      · exact on_mk a9
      · exact edgeStart_kept a9
    · exact a5
  · exact h_s

theorem doProgLoad_kept {pq : List Instr} {host : List Byte} {c : Cmd} {s : State} (h_s : Kept pq s) : (OnSnd (Kept pq)) (doProgLoad host c s) := by
  unfold doProgLoad
  extract_lets v2 v3
  clear_value v2 v3
  refine on_ite ?_ ?_
  · exact on_mk h_s
  · refine on_ite ?_ ?_
    · exact on_mk h_s
    · split
      · rename_i w11 w12 w13
        exact on_mk h_s
      · rename_i w16 w17 w18 w19
        split
        · rename_i w21 w22 w23
          exact on_mk (vaFailed_kept h_s)
        · rename_i w27 w28 w29
          extract_lets v31
          clear_value v31
          refine on_ite ?_ ?_
          · exact on_mk h_s
          · exact edgeRead_kept h_s

theorem execProgLoad_kept {pq : List Instr} {cmd : Nat} {host : List Byte} {s : State} (h_s : Kept pq s) : (OnNext (Kept pq)) (execProgLoad cmd host s) := by
  unfold execProgLoad
  refine on_next ?_
  refine startOp_kept ?_ ?_
  · intro a3 a4 a5
    exact doProgLoad_kept a5
  · exact h_s

theorem kvMoveEnd_kept {pq : List Instr} {c : Cmd} {pages : List KvPage} {s : State} (h_s : Kept pq s) : (OnSome (OnSnd (Kept pq))) (kvMoveEnd c pages s) := by
  unfold kvMoveEnd
  extract_lets v2
  have hv2 : Kept pq v2 := by
    unfold v2
    split
    · rename_i w4 w5 w6 w7
      exact vaWrite_kept h_s
    · rename_i w10 w11 w12
      exact h_s
  clear_value v2
  refine on_ite ?_ ?_
  · exact on_some (on_mk hv2)
  · exact on_none

theorem doKvMove_kept {pq : List Instr} {host : List Byte} {c : Cmd} {s : State} (h_s : Kept pq s) : (OnSnd (Kept pq)) (doKvMove host c s) := by
  unfold doKvMove
  split
  · rename_i w2 w3 w4
    exact on_mk h_s
  · rename_i w7 w8 w9 w10 w11
    extract_lets v13 v14
    clear_value v13 v14
    split
    · rename_i w16 w17 w18 w19
      exact on_mk (lostMet_kept h_s)
    · rename_i w23 w24 w25 w26
      exact on_mk h_s
    · rename_i w29 w30 w31
      extract_lets v33
      clear_value v33
      refine on_ite ?_ ?_
      · exact on_mk h_s
      · split
        · rename_i w38 w39 w40
          exact on_mk h_s
        · rename_i w43 w44 w45 w46
          split
          · rename_i w48 w49 w50
            exact on_mk (vaFailed_kept h_s)
          · rename_i w54 w55 w56
            split
            · rename_i w58 w59 w60
              exact on_mk h_s
            · rename_i w63 w64 w65
              split
              · rename_i w67 w68 w69
                refine on_use (P := (OnSome (OnSnd (Kept pq)))) w69 ?_ (fun hw69 => ?_)
                · exact kvMoveEnd_kept h_s
                exact (hw69 _ rfl)
              · rename_i w73 w74
                exact on_mk h_s

theorem execKvPrefetch_kept {pq : List Instr} {cmd : Nat} {host : List Byte} {s : State} (h_s : Kept pq s) : (OnNext (Kept pq)) (execKvPrefetch cmd host s) := by
  unfold execKvPrefetch
  refine on_next ?_
  refine startOp_kept ?_ ?_
  · intro a3 a4 a5
    exact doKvMove_kept a5
  · exact h_s

theorem execKvAdvise_kept {pq : List Instr} {cmd : Nat} {host : List Byte} {s : State} (h_s : Kept pq s) : (OnNext (Kept pq)) (execKvAdvise cmd host s) := by
  unfold execKvAdvise
  refine on_next ?_
  refine startOp_kept ?_ ?_
  · intro a3 a4 a5
    exact doKvMove_kept a5
  · exact h_s

theorem kvMoveSet_kept {pq : List Instr} {c : Cmd} {cold : Bool} {pages : List KvPage} {s : State} (h_s : Kept pq s) : Kept pq (kvMoveSet c cold pages s) := by
  unfold kvMoveSet
  split
  · rename_i w2 w3 w4
    refine on_use (P := (OnSome (OnSnd (Kept pq)))) w4 ?_ (fun hw4 => ?_)
    · exact kvMoveEnd_kept h_s
    exact settle_kept ((hw4 _ rfl))
  · rename_i w9 w10
    exact setStep_kept h_s

theorem execKvPageCopyDone_kept {pq : List Instr} {cmd : Nat} {idx : Nat} {s : State} (h_s : Kept pq s) : (OnNext (Kept pq)) (execKvPageCopyDone cmd idx s) := by
  unfold execKvPageCopyDone
  refine on_next ?_
  refine onRunning_kept ?_ ?_
  · intro a3 a4 a5
    split
    · rename_i w7 w8 w9 w10
      split
      · rename_i w12 w13
        exact a5
      · rename_i w15 w16 w17
        extract_lets v19
        clear_value v19
        refine on_ite ?_ ?_
        · exact a5
        · split
          · rename_i w23 w24 w25
            refine on_use (P := (OnSnd (Kept pq))) w25 ?_ (fun hw25 => ?_)
            · exact devRead_kept a5
            exact finish_kept hw25
          · rename_i w30 w31 w32 w33
            refine on_use (P := (OnSnd (Kept pq))) w33 ?_ (fun hw33 => ?_)
            · exact devRead_kept a5
            extract_lets v37
            have hv37 : Kept pq v37 := by
              unfold v37
              exact devStore_kept hw33
            clear_value v37
            refine on_ite ?_ ?_
            · exact setStep_kept (stageAll_kept hv37)
            · refine on_ite ?_ ?_
              · exact hw33
              · exact kvMoveSet_kept (devStore_kept hv37)
    · rename_i w49 w50
      exact a5
  · exact h_s

theorem restage_kept {pq : List Instr} {p : Nat} {s : State} (h_s : Kept pq s) : Kept pq (restage p s) := by
  unfold restage
  extract_lets v2
  clear_value v2
  refine on_ite ?_ ?_
  · exact h_s
  · exact stageAll_kept h_s

theorem markSwitch_kept {pq : List Instr} {st : Nat} {e : Staged} {s : State} (h_s : Kept pq s) : Kept pq (markSwitch st e s) := by
  unfold markSwitch
  split
  · rename_i w2 w3 w4 w5
    split
    · rename_i w7 w8 w9
      split
      · rename_i w11 w12 w13 w14
        refine on_ite ?_ ?_
        · exact kvMoveSet_kept h_s
        · exact setStep_kept h_s
      · rename_i w20 w21
        exact h_s
    · rename_i w23 w24
      exact h_s
  · rename_i w26 w27
    exact h_s

end Sys2Proof.Machine
end

