-- ==== Sys2Proof/Laws/KeptTick.lean ====
section
/-! SUPPORT. Laws/KeptTick.lean: what Machine/Tick.lean keeps (Laws/Kept.lean says what that is). -/
namespace Sys2Proof.Machine

theorem domMod_kept {pq : List Instr} {f : Dom → Dom} {s : State} (h_s : Kept pq s) : Kept pq (domMod f s) := by
  unfold domMod
  exact ⟨h_s.1, h_s.2.1, h_s.2.2⟩

theorem setMasterBit_kept {pq : List Instr} {s : State} (h_s : Kept pq s) : Kept pq (setMasterBit s) := by
  unfold setMasterBit
  exact fset_kept h_s

theorem queueMapout_kept {pq : List Instr} {tile : Nat} {bay : Bool} {s : State} (h_s : Kept pq s) : Kept pq (queueMapout tile bay s) := by
  unfold queueMapout
  extract_lets v2
  have hv2 : Kept pq v2 := by
    unfold v2
    exact ⟨h_s.1, h_s.2.1, h_s.2.2⟩
  clear_value v2
  refine on_ite ?_ ?_
  · exact h_s
  · exact fset_kept hv2

theorem endBatch_kept {pq : List Instr} {p : Nat} {s : State} (h_s : Kept pq s) : Kept pq (endBatch p s) := by
  unfold endBatch
  exact partMod_kept h_s

theorem faultPart_kept {pq : List Instr} {p : Nat} {cause : Nat} {injected : Bool} {mapout : Bool} {s : State} (h_s : Kept pq s) : Kept pq (faultPart p cause injected mapout s) := by
  unfold faultPart
  extract_lets v2 v3 v4
  have hv2 : Kept pq v2 := by
    unfold v2
    exact endBatch_kept (returnSlots_kept h_s)
  clear_value v2
  have hv3 : Kept pq v3 := by
    unfold v3
    exact fset_kept (fset_kept hv2)
  clear_value v3
  have hv4 : Kept pq v4 := by
    unfold v4
    exact logErr_kept hv3
  clear_value v4
  exact sweep_kept (applyEdges_kept hv4)

theorem disablePart_kept {pq : List Instr} {p : Nat} {s : State} (h_s : Kept pq s) : Kept pq (disablePart p s) := by
  unfold disablePart
  extract_lets v2 v3 v4
  have hv2 : Kept pq v2 := by
    unfold v2
    exact endBatch_kept (returnSlots_kept h_s)
  clear_value v2
  have hv3 : Kept pq v3 := by
    unfold v3
    refine on_ite ?_ ?_
    · refine on_foldl ?_ (fun t10 _ h11 => ?_)
      · exact hv2
      · exact rreset_kept h11
    · exact hv2
  clear_value v3
  have hv4 : Kept pq v4 := by
    unfold v4
    exact partMod_kept hv3
  clear_value v4
  exact sweep_kept (applyEdges_kept hv4)

theorem enablePart_kept {pq : List Instr} {p : Nat} {s : State} (h_s : Kept pq s) : Kept pq (enablePart p s) := by
  unfold enablePart
  extract_lets v2 v3 v4 v5 v6
  clear_value v2
  have hv3 : Kept pq v3 := by
    unfold v3
    exact partSet_kept (endBatch_kept h_s)
  clear_value v3
  have hv4 : Kept pq v4 := by
    unfold v4
    exact rset_kept hv3
  clear_value v4
  have hv5 : Kept pq v5 := by
    unfold v5
    exact fset_kept hv4
  clear_value v5
  have hv6 : Kept pq v6 := by
    unfold v6
    exact fset_kept (placeKeys_kept hv5)
  clear_value v6
  split
  · rename_i w18 w19 w20
    refine on_ite ?_ ?_
    · exact hv6
    · exact faultPart_kept hv6
  · rename_i w25 w26
    exact hv6

theorem applyResult_kept {pq : List Instr} {p : Nat} {tick : Nat} {r : TickRec} {e : BatchEntry} {b : List Byte} {s : State} (h_s : Kept pq s) : Kept pq (applyResult p tick r e b s) := by
  unfold applyResult
  extract_lets v2 v3 v4 v5 v6 v7 v8
  clear_value v2 v3 v4 v5 v6 v7 v8
  split
  rename_i w10 w11 w12 w13
  refine on_use (P := (OnSnd (Kept pq))) w13 ?_ (fun hw13 => ?_)
  · refine on_ite ?_ ?_
    · refine on_ite ?_ ?_
      · exact on_mk h_s
      · split
        · rename_i w19 w20
          refine on_ite ?_ ?_
          · exact on_mk (partMod_kept (qConsume_kept h_s))
          · exact on_mk (qConsume_kept h_s)
        · rename_i w29
          exact on_mk h_s
    · refine on_ite ?_ ?_
      · refine on_mk ?_
        refine on_ite ?_ ?_
        · exact partMod_kept h_s
        · split
          · rename_i w38 w39
            exact qConsume_kept h_s
          · rename_i w42
            exact h_s
      · exact on_mk h_s
  exact devStore_kept (sessPut_kept hw13)

theorem applyCloses_kept {pq : List Instr} {p : Nat} {r : TickRec} {tick : Nat} {qs : List Nat} {s : State} (h_s : Kept pq s) : (OnSnd (Kept pq)) (applyCloses p r tick qs s) := by
  unfold applyCloses
  refine on_foldl ?_ (fun t2 _ h3 => ?_)
  · exact on_mk h_s
  · split
    rename_i w7 w8 w9
    extract_lets v11 v12 v13
    clear_value v11 v12
    have hv13 : Kept pq v13 := by
      unfold v13
      refine on_ite ?_ ?_
      · exact h3
      · exact sessPut_kept (partMod_kept h3)
    clear_value v13
    split
    · rename_i w20 w21 w22
      refine on_ite ?_ ?_
      · exact on_mk h3
      · refine on_ite ?_ ?_
        · exact on_mk (unlist_kept (sessFault_kept h3))
        · refine on_ite ?_ ?_
          · exact on_mk h3
          · exact on_mk (ringReserve_kept (qConsume_kept hv13))
    · rename_i w38 w39
      exact on_mk h3

theorem commitSessions_kept {pq : List Instr} {p : Nat} {r : TickRec} {w : Part} {s : State} (h_s : Kept pq s) : (OnSnd (Kept pq)) (commitSessions p r w s) := by
  unfold commitSessions
  extract_lets v2 v3 v4
  clear_value v2
  have hv3 : Kept pq v3 := by
    unfold v3
    refine on_foldl ?_ (fun t6 _ h7 => ?_)
    · exact h_s
    · split
      · rename_i w10 w11 w12
        refine on_ite ?_ ?_
        · exact h7
        · exact partMod_kept (applyResult_kept h7)
      · rename_i w18 w19
        exact h7
  clear_value v3 v4
  split
  rename_i w22 w23 w24 w25
  refine on_use (P := (OnSnd (Kept pq))) w25 ?_ (fun hw25 => ?_)
  · exact applyCloses_kept hv3
  extract_lets v29 v30 v31 v32
  clear_value v29
  have hv30 : Kept pq v30 := by
    unfold v30
    exact ⟨hw25.1, hw25.2.1, hw25.2.2⟩
  clear_value v30
  have hv31 : Kept pq v31 := by
    unfold v31
    exact partMod_kept hv30
  clear_value v31
  have hv32 : Kept pq v32 := by
    unfold v32
    refine on_foldl ?_ (fun t37 _ h38 => ?_)
    · exact hv31
    · extract_lets v41
      clear_value v41
      refine on_ite ?_ ?_
      · refine on_ite ?_ ?_
        · exact h38
        · exact sessPut_kept h38
      · exact h38
  clear_value v32
  exact on_mk hv32

theorem raiseCeiling_kept {pq : List Instr} {p : Nat} {r : TickRec} {s : State} (h_s : Kept pq s) : Kept pq (raiseCeiling p r s) := by
  unfold raiseCeiling
  extract_lets v2
  clear_value v2
  split
  · rename_i w4 w5 w6
    refine on_ite ?_ ?_
    · exact faultPart_kept h_s
    · refine on_ite ?_ ?_
      · exact fset_kept h_s
      · exact h_s
  · rename_i w14 w15
    exact h_s

theorem commitStreak_kept {pq : List Instr} {p : Nat} {r : TickRec} {s : State} (h_s : Kept pq s) : Kept pq (commitStreak p r s) := by
  unfold commitStreak
  extract_lets v2 v3
  clear_value v2 v3
  refine on_ite ?_ ?_
  · exact raiseCeiling_kept (partMod_kept h_s)
  · exact partMod_kept h_s

theorem commitPart_kept {pq : List Instr} {p : Nat} {s : State} (h_s : Kept pq s) : Kept pq (commitPart p s) := by
  unfold commitPart
  extract_lets v2 v3 v4 v5 v6 v7 v8 v9 v10
  clear_value v2 v3 v4 v5 v6 v7 v8
  have hv9 : Kept pq v9 := by
    unfold v9
    refine on_foldl ?_ (fun t12 _ h13 => ?_)
    · exact h_s
    · refine on_ite ?_ ?_
      · exact h13
      · exact ringReturn_kept h13
  clear_value v9 v10
  split
  · rename_i w20 w21
    exact h_s
  · rename_i w23 w24 w25
    extract_lets v27 v28
    clear_value v27 v28
    split
    rename_i w30 w31 w32 w33
    refine on_use (P := (OnSnd (Kept pq))) w33 ?_ (fun hw33 => ?_)
    · exact commitSessions_kept hv9
    extract_lets v37 v38 v39 v40 v41 v42 v43 v44 v45
    have hv37 : Kept pq v37 := by
      unfold v37
      refine on_foldl ?_ (fun t47 _ h48 => ?_)
      · exact hw33
      · exact devStore_kept h48
    clear_value v37 v38
    have hv39 : Kept pq v39 := by
      unfold v39
      refine on_ite ?_ ?_
      · refine on_foldl ?_ (fun t54 _ h55 => ?_)
        · exact hv37
        · exact ringReturn_kept h55
      · exact hv37
    clear_value v39 v40
    have hv41 : Kept pq v41 := by
      unfold v41
      refine on_foldl ?_ (fun t61 _ h62 => ?_)
      · exact hv39
      · exact markSwitch_kept h62
    clear_value v41
    have hv42 : Kept pq v42 := by
      unfold v42
      exact partMod_kept hv41
    clear_value v42
    have hv43 : Kept pq v43 := by
      unfold v43
      exact fwrap_kept hv42
    clear_value v43
    have hv44 : Kept pq v44 := by
      unfold v44
      exact rset_kept hv43
    clear_value v44
    have hv45 : Kept pq v45 := by
      unfold v45
      exact fset_kept (tickFresh_kept hv44)
    clear_value v45
    exact commitStreak_kept (endBatch_kept hv45)

theorem lsSendTable_kept {pq : List Instr} {p : Nat} {s : State} (h_s : Kept pq s) : Kept pq (lsSendTable p s) := by
  unfold lsSendTable
  extract_lets v2
  clear_value v2
  split
  · rename_i w4 w5 w6
    extract_lets v8
    clear_value v8
    refine on_ite ?_ ?_
    · exact h_s
    · refine on_foldl ?_ (fun t12 _ h13 => ?_)
      · exact h_s
      · extract_lets v16
        clear_value v16
        exact sendPkt_kept h13
  · rename_i w19 w20
    exact h_s

theorem lsTakeTable_kept {pq : List Instr} {p : Nat} {r : TickRec} {s : State} (h_s : Kept pq s) : Kept pq (lsTakeTable p r s) := by
  unfold lsTakeTable
  extract_lets v2 v3 v4 v5
  clear_value v2 v3 v4
  have hv5 : Kept pq v5 := by
    unfold v5
    refine on_ite ?_ ?_
    · exact h_s
    · refine on_foldl ?_ (fun t9 _ h10 => ?_)
      · exact h_s
      · extract_lets v13 v14
        clear_value v13
        have hv14 : Kept pq v14 := by
          unfold v14
          split
          · rename_i w16 w17 w18 w19 w20
            exact on_snd (sessStart_kept h10)
          · rename_i w24 w25 w26
            exact h10
        clear_value v14
        refine on_ite ?_ ?_
        · exact hv14
        · exact ringReserve_kept hv14
  clear_value v5
  exact partMod_kept hv5

theorem lsPiece_kept {pq : List Instr} {p : Nat} {addr : Nat} {data : List Byte} {s : State} (h_s : Kept pq s) : Kept pq (lsPiece p addr data s) := by
  unfold lsPiece
  extract_lets v2 v3
  clear_value v2 v3
  split
  · rename_i w5 w6
    exact h_s
  · rename_i w8 w9 w10
    extract_lets v12
    have hv12 : Kept pq v12 := by
      unfold v12
      exact partSet_kept (devStore_kept h_s)
    clear_value v12
    refine on_ite ?_ ?_
    · exact lsTakeTable_kept hv12
    · exact hv12

theorem lsTable_kept {pq : List Instr} {p : Nat} {s : State} (h_s : Kept pq s) : Kept pq (lsTable p s) := by
  unfold lsTable
  extract_lets v2 v3
  clear_value v2
  have hv3 : Kept pq v3 := by
    unfold v3
    exact partMod_kept h_s
  clear_value v3
  refine on_ite ?_ ?_
  · refine on_foldl ?_ (fun t8 _ h9 => ?_)
    · exact hv3
    · exact lsPiece_kept h9
  · exact lsSendTable_kept hv3

theorem admitNext_kept {pq : List Instr} {p : Nat} {plan : Nat} {s : State} (h_s : Kept pq s) : Kept pq (admitNext p plan s) := by
  unfold admitNext
  extract_lets v2
  clear_value v2
  refine on_ite ?_ ?_
  · exact h_s
  · split
    · rename_i w6 w7
      exact h_s
    · rename_i w9 w10 w11
      refine on_ite ?_ ?_
      · exact noFit_kept h_s
      · refine on_ite ?_ ?_
        · exact faultPart_kept h_s
        · exact lsTable_kept (restage_kept (admitBatch_kept h_s))

theorem afterDecision_kept {pq : List Instr} {p : Nat} {plan : Nat} {s : State} (h_s : Kept pq s) : Kept pq (afterDecision p plan s) := by
  unfold afterDecision
  extract_lets v2
  have hv2 : Kept pq v2 := by
    unfold v2
    exact sweep_kept (applyEdges_kept h_s)
  clear_value v2
  refine on_ite ?_ ?_
  · exact disablePart_kept hv2
  · exact admitNext_kept hv2

theorem startReplay_kept {pq : List Instr} {p : Nat} {s : State} (h_s : Kept pq s) : Kept pq (startReplay p s) := by
  unfold startReplay
  exact lsTable_kept (restage_kept (partMod_kept h_s))

theorem replayWaits_kept {pq : List Instr} {p : Nat} {s : State} (h_s : Kept pq s) : Kept pq (replayWaits p s) := by
  unfold replayWaits
  refine on_ite ?_ ?_
  · exact disablePart_kept h_s
  · refine on_ite ?_ ?_
    · exact h_s
    · exact startReplay_kept h_s

theorem replayNone_kept {pq : List Instr} {p : Nat} {plan : Nat} {s : State} (h_s : Kept pq s) : Kept pq (replayNone p plan s) := by
  unfold replayNone
  extract_lets v2
  have hv2 : Kept pq v2 := by
    unfold v2
    exact sweep_kept (applyEdges_kept h_s)
  clear_value v2
  refine on_ite ?_ ?_
  · exact disablePart_kept hv2
  · refine on_ite ?_ ?_
    · exact noFit_kept hv2
    · exact hv2

theorem decideReplay_kept {pq : List Instr} {p : Nat} {plan : Nat} {s : State} (h_s : Kept pq s) : Kept pq (decideReplay p plan s) := by
  unfold decideReplay
  extract_lets v2 v3 v4 v5 v6 v7
  clear_value v2
  have hv3 : Kept pq v3 := by
    unfold v3
    exact fbump_kept h_s
  clear_value v3 v4
  have hv5 : Kept pq v5 := by
    unfold v5
    exact fset_kept hv3
  clear_value v5
  have hv6 : Kept pq v6 := by
    unfold v6
    split
    · rename_i w13 w14 w15
      exact devStore_kept hv5
    · rename_i w18 w19
      exact hv5
  clear_value v6
  have hv7 : Kept pq v7 := by
    unfold v7
    exact partSet_kept hv6
  clear_value v7
  refine on_ite ?_ ?_
  · exact replayWaits_kept hv3
  · refine on_ite ?_ ?_
    · exact replayNone_kept hv3
    · refine on_ite ?_ ?_
      · exact disablePart_kept hv3
      · refine on_ite ?_ ?_
        · exact partMod_kept hv7
        · exact startReplay_kept hv7

theorem decideFallback_kept {pq : List Instr} {p : Nat} {plan : Nat} {s : State} (h_s : Kept pq s) : Kept pq (decideFallback p plan s) := by
  unfold decideFallback
  extract_lets v2 v3 v4
  clear_value v2 v3 v4
  split
  · rename_i w6
    exact faultPart_kept (fbump_kept h_s)
  · rename_i w10 w11
    extract_lets v13 v14 v15 v16
    have hv13 : Kept pq v13 := by
      unfold v13
      refine on_ite ?_ ?_
      · exact fset_kept h_s
      · exact h_s
    clear_value v13
    have hv14 : Kept pq v14 := by
      unfold v14
      exact fbump_kept hv13
    clear_value v14
    have hv15 : Kept pq v15 := by
      unfold v15
      exact logErr_kept hv14
    clear_value v15
    have hv16 : Kept pq v16 := by
      unfold v16
      exact partMod_kept (endBatch_kept (returnSlots_kept hv15))
    clear_value v16
    exact afterDecision_kept hv16

theorem handOn_kept {pq : List Instr} {w : Part} {s : State} (h_s : Kept pq s) : (OnSnd (Kept pq)) (handOn w s) := by
  unfold handOn
  refine on_foldl ?_ (fun t2 _ h3 => ?_)
  · exact on_mk h_s
  · refine on_ite ?_ ?_
    · exact h3
    · split
      · rename_i w9 w10 w11
        split
        · rename_i w13 w14 w15
          refine on_ite ?_ ?_
          · exact on_mk (queueMapout_kept (on_snd h3))
          · exact h3
        · rename_i w22 w23
          exact h3
      · rename_i w25 w26 w27
        exact on_mk (queueRepair_kept (on_snd h3))
      · rename_i w32 w33 w34
        exact h3

theorem decideFault_kept {pq : List Instr} {p : Nat} {cause : Nat} {s : State} (h_s : Kept pq s) : Kept pq (decideFault p cause s) := by
  unfold decideFault
  extract_lets v2 v3
  clear_value v2 v3
  split
  rename_i w5 w6 w7 w8
  refine on_use (P := (OnSnd (Kept pq))) w8 ?_ (fun hw8 => ?_)
  · refine on_ite ?_ ?_
    · exact handOn_kept h_s
    · exact on_mk h_s
  extract_lets v15
  have hv15 : Kept pq v15 := by
    unfold v15
    exact faultPart_kept hw8
  clear_value v15
  refine on_ite ?_ ?_
  · exact disablePart_kept hv15
  · exact hv15

theorem tickNotes_kept {pq : List Instr} {p : Nat} {dec : Nat} {tick : Nat} {s : State} (h_s : Kept pq s) : Kept pq (tickNotes p dec tick s) := by
  unfold tickNotes
  refine on_foldl ?_ (fun t2 _ h3 => ?_)
  · exact h_s
  · refine on_ite ?_ ?_
    · exact emit_kept h3
    · exact h3

theorem applyLine_kept {pq : List Instr} {tick : Nat} {s : State} {l : DecLine} (h_s : Kept pq s) : Kept pq (applyLine tick s l) := by
  unfold applyLine
  extract_lets v2 v3 v4 v5 v6 v7
  clear_value v4
  have hv5 : Kept pq v5 := by
    unfold v5
    exact partMod_kept h_s
  clear_value v5
  have hv6 : Kept pq v6 := by
    unfold v6
    refine on_ite ?_ ?_
    · refine disablePart_kept ?_
      refine on_ite ?_ ?_
      · exact decideFault_kept hv5
      · refine on_ite ?_ ?_
        · exact commitPart_kept hv5
        · exact hv5
    · split
      · rename_i w20 w21
        refine on_ite ?_ ?_
        · exact replayWaits_kept hv5
        · refine afterDecision_kept ?_
          refine on_ite ?_ ?_
          · exact commitPart_kept hv5
          · exact hv5
      · rename_i w30 w31
        exact decideReplay_kept hv5
      · rename_i w34 w35
        exact decideFallback_kept hv5
      · rename_i w38 w39 w40 w41
        exact decideFault_kept hv5
  clear_value v6
  have hv7 : Kept pq v7 := by
    unfold v7
    refine on_ite ?_ ?_
    · exact hv6
    · refine on_ite ?_ ?_
      · exact partMod_kept hv6
      · refine on_ite ?_ ?_
        · exact hv6
        · exact partMod_kept hv6
  clear_value v7
  refine on_ite ?_ ?_
  · exact h_s
  · exact tickNotes_kept hv7

theorem decisionApply_kept {pq : List Instr} {tick : Nat} {ls : List DecLine} {s : State} (h_s : Kept pq s) : Kept pq (decisionApply tick ls s) := by
  unfold decisionApply
  extract_lets v2 v3 v4
  have hv2 : Kept pq v2 := by
    unfold v2
    exact domMod_kept h_s
  clear_value v2 v3
  have hv4 : Kept pq v4 := by
    unfold v4
    exact fset_kept (tickFresh_kept hv2)
  clear_value v4
  refine sweep_kept ?_
  refine on_foldl ?_ (fun t12 _ h13 => ?_)
  · exact hv4
  · exact applyLine_kept h13

theorem sendLines_kept {pq : List Instr} {ty : Nat} {dst : Nat} {tick : Nat} {bs : List Byte} {s : State} (h_s : Kept pq s) : Kept pq (sendLines ty dst tick bs s) := by
  unfold sendLines
  extract_lets v2
  clear_value v2
  refine on_foldl ?_ (fun t4 _ h5 => ?_)
  · exact h_s
  · extract_lets v8
    clear_value v8
    exact sendPkt_kept h5

theorem broadcastDecision_kept {pq : List Instr} {tick : Nat} {ls : List DecLine} {s : State} (h_s : Kept pq s) : Kept pq (broadcastDecision tick ls s) := by
  unfold broadcastDecision
  refine on_foldl ?_ (fun t2 _ h3 => ?_)
  · exact h_s
  · exact sendLines_kept h3

theorem adoptDecisions_kept {pq : List Instr} {s : State} (h_s : Kept pq s) : Kept pq (adoptDecisions s) := by
  unfold adoptDecisions
  extract_lets v2 v3
  clear_value v2
  have hv3 : Kept pq v3 := by
    unfold v3
    exact domMod_kept h_s
  clear_value v3
  refine on_ite ?_ ?_
  · exact h_s
  · refine on_ite ?_ ?_
    · exact hv3
    · exact decisionApply_kept (broadcastDecision_kept hv3)

theorem masterDecide_kept {pq : List Instr} {s : State} (h_s : Kept pq s) : Kept pq (masterDecide s) := by
  unfold masterDecide
  extract_lets v2 v3 v4 v5
  have hv2 : Kept pq v2 := by
    unfold v2
    exact adoptDecisions_kept h_s
  clear_value v2 v3 v4
  have hv5 : Kept pq v5 := by
    unfold v5
    exact domMod_kept hv2
  clear_value v5
  refine on_ite ?_ ?_
  · exact h_s
  · exact decisionApply_kept (broadcastDecision_kept hv5)

theorem takeReport_kept {pq : List Instr} {hub : Nat} {tick : Nat} {ls : List RepLine} {s : State} (h_s : Kept pq s) : Kept pq (takeReport hub tick ls s) := by
  unfold takeReport
  extract_lets v2 v3 v4
  clear_value v2 v3
  have hv4 : Kept pq v4 := by
    unfold v4
    exact domMod_kept h_s
  clear_value v4
  refine on_ite ?_ ?_
  · exact h_s
  · refine on_ite ?_ ?_
    · exact domMod_kept h_s
    · refine on_ite ?_ ?_
      · exact masterDecide_kept hv4
      · exact hv4

theorem sendReport_kept {pq : List Instr} {tick : Nat} {ls : List RepLine} {s : State} (h_s : Kept pq s) : Kept pq (sendReport tick ls s) := by
  unfold sendReport
  refine on_ite ?_ ?_
  · exact takeReport_kept h_s
  · exact sendLines_kept h_s

theorem closePart_kept {pq : List Instr} {tick : Nat} {p : Nat} {s : State} (h_s : Kept pq s) : (OnSnd (Kept pq)) (closePart tick p s) := by
  unfold closePart
  extract_lets v2
  clear_value v2
  split
  · rename_i w4 w5
    exact on_mk h_s
  · rename_i w8 w9 w10
    extract_lets v12 v13 v14 v15 v16 v17 v18
    have hv12 : Kept pq v12 := by
      unfold v12
      refine on_ite ?_ ?_
      · exact checkStaged_kept h_s
      · exact h_s
    clear_value v12 v13 v14 v15 v16 v17
    have hv18 : Kept pq v18 := by
      unfold v18
      exact partSet_kept hv12
    clear_value v18
    split
    rename_i w26 w27 w28 w29
    refine on_ite ?_ ?_
    · exact on_mk (faultPart_kept hv12)
    · exact on_mk hv18

theorem cancelTiles_kept {pq : List Instr} {s : State} (h_s : Kept pq s) : Kept pq (cancelTiles s) := by
  unfold cancelTiles
  extract_lets v2
  have hv2 : Kept pq v2 := by
    unfold v2
    refine on_foldl ?_ (fun t4 _ h5 => ?_)
    · exact h_s
    · extract_lets v8
      have hv8 : Kept pq v8 := by
        unfold v8
        exact fset_kept (fset_kept (fset_kept (fset_kept h5)))
      clear_value v8
      exact tileMod_kept hv8
  clear_value v2
  refine on_foldl ?_ (fun t17 _ h18 => ?_)
  · exact hv2
  · exact rreset_kept (bayMod_kept h18)

theorem snapshotReady_kept {pq : List Instr} {tick : Nat} {s : State} (h_s : Kept pq s) : Kept pq (snapshotReady tick s) := by
  unfold snapshotReady
  refine on_foldl ?_ (fun t2 _ h3 => ?_)
  · exact ⟨h_s.1, h_s.2.1, h_s.2.2⟩
  · split
    · rename_i w6 w7 w8
      extract_lets v10
      clear_value v10
      exact partMod_kept h3
    · rename_i w13 w14
      exact h3

theorem edgeHostWait_kept {pq : List Instr} {s : State} (h_s : Kept pq s) : Kept pq (edgeHostWait s) := by
  unfold edgeHostWait
  refine on_foldl ?_ (fun t2 _ h3 => ?_)
  · exact h_s
  · exact rset_kept h3

theorem edgeEnables_kept {pq : List Instr} {s : State} (h_s : Kept pq s) : Kept pq (edgeEnables s) := by
  unfold edgeEnables
  refine on_foldl ?_ (fun t2 _ h3 => ?_)
  · exact h_s
  · extract_lets v6 v7 v8
    clear_value v6
    have hv7 : Kept pq v7 := by
      unfold v7
      refine on_ite ?_ ?_
      · exact h3
      · refine on_ite ?_ ?_
        · exact disablePart_kept h3
        · exact partMod_kept h3
    clear_value v7 v8
    refine on_ite ?_ ?_
    · exact enablePart_kept hv7
    · exact hv7

end Sys2Proof.Machine
end

