-- ==== Sys2Proof/Laws/KeptDomainOps.lean ====
section
/-! SUPPORT. Laws/KeptDomainOps.lean: what Machine/DomainOps.lean keeps (Laws/Kept.lean says what that is). -/
namespace Sys2Proof.Machine

theorem inPackets_kept {pq : List Instr} {bs : List Byte} {send : List Byte → State → State} {s : State} (h_send : ∀ y0 y1, Kept pq y1 → Kept pq (send y0 y1)) (h_s : Kept pq s) : Kept pq (inPackets bs send s) := by
  unfold inPackets
  refine on_foldl ?_ (fun t2 _ h3 => ?_)
  · exact h_s
  · exact h_send _ _ h3

theorem sendDomain_kept {pq : List Instr} {ty : Nat} {dst : Nat} {ws : List Nat} {s : State} (h_s : Kept pq s) : Kept pq (sendDomain ty dst ws s) := by
  unfold sendDomain
  refine inPackets_kept ?_ ?_
  · intro a2 a3 a4
    extract_lets v6
    clear_value v6
    exact sendPkt_kept a4
  · exact h_s

theorem floodDomain_kept {pq : List Instr} {ty : Nat} {ws : List Nat} {s : State} (h_s : Kept pq s) : Kept pq (floodDomain ty ws s) := by
  unfold floodDomain
  refine inPackets_kept ?_ ?_
  · intro a2 a3 a4
    extract_lets v6
    clear_value v6
    exact flood_kept a4
  · exact h_s

theorem passOn_kept {pq : List Instr} {a : IdnArr} {s : State} (h_s : Kept pq s) : Kept pq (passOn a s) := by
  unfold passOn
  extract_lets v2
  clear_value v2
  refine on_ite ?_ ?_
  · exact h_s
  · exact flood_kept h_s

theorem floodAccept_kept {pq : List Instr} {a : IdnArr} {f : IdnPkt → State → State} {s : State} (h_f : ∀ y0 y1, Kept pq y1 → Kept pq (f y0 y1)) (h_s : Kept pq s) : Kept pq (floodAccept a f s) := by
  unfold floodAccept
  extract_lets v2
  clear_value v2
  refine idnAccept_kept ?_ ?_
  · intro a4 a5 a6
    exact passOn_kept (h_f _ _ a6)
  · exact h_s

theorem sendHello_kept {pq : List Instr} {s : State} (h_s : Kept pq s) : Kept pq (sendHello s) := by
  unfold sendHello
  extract_lets v2
  clear_value v2
  exact floodDomain_kept h_s

theorem helloRoutes_kept {pq : List Instr} {s : State} (h_s : Kept pq s) : Kept pq (helloRoutes s) := by
  unfold helloRoutes
  refine on_ite ?_ ?_
  · exact h_s
  · exact domMod_kept h_s

theorem domRefuse_kept {pq : List Instr} {cause : Nat} {s : State} (h_s : Kept pq s) : Kept pq (domRefuse cause s) := by
  unfold domRefuse
  extract_lets v2 v3
  have hv2 : Kept pq v2 := by
    unfold v2
    exact domMod_kept h_s
  clear_value v2
  have hv3 : Kept pq v3 := by
    unfold v3
    exact fset_kept (fset_kept (fset_kept hv2))
  clear_value v3
  exact logErr_kept hv3

theorem abandonForm_kept {pq : List Instr} {s : State} (h_s : Kept pq s) : Kept pq (abandonForm s) := by
  unfold abandonForm
  split
  · rename_i w2 w3 w4
    exact fset_kept (domMod_kept h_s)
  · rename_i w8 w9
    exact h_s

theorem faultAll_kept {pq : List Instr} {cause : Nat} {s : State} (h_s : Kept pq s) : Kept pq (faultAll cause s) := by
  unfold faultAll
  refine on_foldl ?_ (fun t2 _ h3 => ?_)
  · exact h_s
  · refine on_ite ?_ ?_
    · exact faultPart_kept h3
    · exact h3

theorem tearSilent_kept {pq : List Instr} {f : Nat → Bool} {s : State} (h_s : Kept pq s) : Kept pq (tearSilent f s) := by
  unfold tearSilent
  refine on_foldl ?_ (fun t2 _ h3 => ?_)
  · exact h_s
  · extract_lets v6
    refine on_ite ?_ ?_
    · exact h3
    · refine on_ite ?_ ?_
      · exact ctxMod_kept h3
      · exact teardownStart_kept h3

theorem lossDepart_kept {pq : List Instr} {s : State} (h_s : Kept pq s) : Kept pq (lossDepart s) := by
  unfold lossDepart
  extract_lets v2
  have hv2 : Kept pq v2 := by
    unfold v2
    exact tearSilent_kept ⟨h_s.1, h_s.2.1, h_s.2.2⟩
  clear_value v2
  refine on_ite ?_ ?_
  · exact h_s
  · refine lossDone_kept ?_
    refine on_foldl ?_ (fun t9 _ h10 => ?_)
    · exact hv2
    · refine on_ite ?_ ?_
      · exact clearAsk_kept h10
      · exact h10

theorem resetDue_kept {pq : List Instr} {s : State} (h_s : Kept pq s) : Kept pq (resetDue s) := by
  unfold resetDue
  split
  · rename_i w2 w3 w4
    exact powerOn_kept h_s
  · rename_i w7 w8
    exact h_s

theorem departNow_kept {pq : List Instr} {s : State} (h_s : Kept pq s) : Kept pq (departNow s) := by
  unfold departNow
  extract_lets v2 v3 v4 v5
  have hv2 : Kept pq v2 := by
    unfold v2
    exact faultAll_kept (cancelTiles_kept h_s)
  clear_value v2
  have hv3 : Kept pq v3 := by
    unfold v3
    exact fset_kept (fset_kept hv2)
  clear_value v3
  have hv4 : Kept pq v4 := by
    unfold v4
    exact fset_kept hv3
  clear_value v4
  have hv5 : Kept pq v5 := by
    unfold v5
    exact domMod_kept hv4
  clear_value v5
  refine on_ite ?_ ?_
  · exact h_s
  · exact resetDue_kept (lossDepart_kept (logErr_kept (setMasterBit_kept hv5)))

theorem failNow_kept {pq : List Instr} {s : State} (h_s : Kept pq s) : Kept pq (failNow s) := by
  unfold failNow
  exact setHubState_kept ⟨h_s.1, h_s.2.1, h_s.2.2⟩

theorem hubFail_kept {pq : List Instr} {s : State} (h_s : Kept pq s) : Kept pq (hubFail s) := by
  unfold hubFail
  refine on_ite ?_ ?_
  · exact ⟨h_s.1, h_s.2.1, h_s.2.2⟩
  · exact failNow_kept (faultAll_kept h_s)

theorem applyMembers_kept {pq : List Instr} {m : MemberMsg} {s : State} (h_s : Kept pq s) : Kept pq (applyMembers m s) := by
  unfold applyMembers
  extract_lets v2 v3 v4
  clear_value v2 v3
  have hv4 : Kept pq v4 := by
    unfold v4
    exact domMod_kept h_s
  clear_value v4
  refine on_ite ?_ ?_
  · exact fset_kept (fset_kept (fset_kept (fset_kept (fset_kept (domMod_kept hv4)))))
  · exact departNow_kept hv4

theorem announce_kept {pq : List Instr} {m : MemberMsg} {s : State} (h_s : Kept pq s) : Kept pq (announce m s) := by
  unfold announce
  extract_lets v2 v3
  have hv2 : Kept pq v2 := by
    unfold v2
    exact domMod_kept h_s
  clear_value v2 v3
  refine on_foldl ?_ (fun t7 _ h8 => ?_)
  · exact hv2
  · exact sendDomain_kept h8

theorem dropFrom_kept {pq : List Instr} {edge : Nat} {hubs : List Nat} {s : State} (h_s : Kept pq s) : Kept pq (dropFrom edge hubs s) := by
  unfold dropFrom
  extract_lets v2 v3 v4 v5 v6
  clear_value v2 v3 v4 v5 v6
  refine on_foldl ?_ (fun t8 _ h9 => ?_)
  · exact h_s
  · exact announce_kept h9

theorem dropHubs_kept {pq : List Instr} {hubs : List Nat} {s : State} (h_s : Kept pq s) : Kept pq (dropHubs hubs s) := by
  unfold dropHubs
  refine on_ite ?_ ?_
  · exact h_s
  · exact dropFrom_kept h_s

theorem dropUnreachable_kept {pq : List Instr} {s : State} (h_s : Kept pq s) : Kept pq (dropUnreachable s) := by
  unfold dropUnreachable
  exact dropHubs_kept h_s

theorem handOver_kept {pq : List Instr} {want : Option Nat} {s : State} (h_s : Kept pq s) : Kept pq (handOver want s) := by
  unfold handOver
  refine on_ite ?_ ?_
  · exact h_s
  · split
    · rename_i w4 w5
      exact h_s
    · rename_i w7 w8 w9
      extract_lets v11
      clear_value v11
      exact sendDomain_kept (domMod_kept h_s)

theorem leaveDomain_kept {pq : List Instr} {s : State} (h_s : Kept pq s) : Kept pq (leaveDomain s) := by
  unfold leaveDomain
  extract_lets v2 v3
  have hv2 : Kept pq v2 := by
    unfold v2
    exact handOver_kept h_s
  clear_value v2
  have hv3 : Kept pq v3 := by
    unfold v3
    exact sendHello_kept (domMod_kept hv2)
  clear_value v3
  refine on_ite ?_ ?_
  · exact h_s
  · refine on_ite ?_ ?_
    · exact dropFrom_kept hv3
    · exact hv3

theorem lsCompare_kept {pq : List Instr} {p : Nat} {s : State} (h_s : Kept pq s) : Kept pq (lsCompare p s) := by
  unfold lsCompare
  extract_lets v2 v3 v4 v5 v6
  clear_value v2 v3 v4
  have hv5 : Kept pq v5 := by
    unfold v5
    exact firstErr_kept h_s
  clear_value v5
  have hv6 : Kept pq v6 := by
    unfold v6
    exact partSet_kept hv5
  clear_value v6
  refine on_ite ?_ ?_
  · exact h_s
  · exact logErr_kept hv6

theorem lsSettle_kept {pq : List Instr} {s : State} (h_s : Kept pq s) : Kept pq (lsSettle s) := by
  unfold lsSettle
  split
  · rename_i w2 w3 w4 w5
    extract_lets v7
    have hv7 : Kept pq v7 := by
      unfold v7
      exact lsCompare_kept h_s
    clear_value v7
    refine on_ite ?_ ?_
    · exact sendReport_kept (domMod_kept hv7)
    · exact h_s
  · rename_i w15 w16
    exact h_s

theorem lsSend_kept {pq : List Instr} {p : Nat} {s : State} (h_s : Kept pq s) : Kept pq (lsSend p s) := by
  unfold lsSend
  refine on_foldl ?_ (fun t2 _ h3 => ?_)
  · exact h_s
  · extract_lets v6
    clear_value v6
    exact sendPkt_kept h3

end Sys2Proof.Machine
end

