-- ==== Sys2Proof/Laws/KeptPorts.lean ====
section
/-! SUPPORT. Laws/KeptPorts.lean: what Machine/Ports.lean keeps (Laws/Kept.lean says what that is). -/
namespace Sys2Proof.Machine

theorem setIdn_kept {pq : List Instr} {k : Nat} {st : Nat} {s : State} (h_s : Kept pq s) : Kept pq (setIdn k st s) := by
  unfold setIdn
  exact fset_kept h_s

theorem setWidth_kept {pq : List Instr} {k : Nat} {bad : Nat} {w : Nat} {s : State} (h_s : Kept pq s) : Kept pq (setWidth k bad w s) := by
  unfold setWidth
  extract_lets v2 v3 v4 v5 v6
  clear_value v2 v3
  have hv4 : Kept pq v4 := by
    unfold v4
    exact idnMod_kept h_s
  clear_value v4 v5
  have hv6 : Kept pq v6 := by
    unfold v6
    exact fset_kept (fset_kept (fset_kept hv4))
  clear_value v6
  refine on_ite ?_ ?_
  · exact logErr_kept hv6
  · exact hv6

theorem trainPort_kept {pq : List Instr} {k : Nat} {s : State} (h_s : Kept pq s) : Kept pq (trainPort k s) := by
  unfold trainPort
  exact emit_kept (setIdn_kept (idnMod_kept h_s))

theorem failTraining_kept {pq : List Instr} {k : Nat} {next : Nat} {s : State} (h_s : Kept pq s) : Kept pq (failTraining k next s) := by
  unfold failTraining
  extract_lets v2 v3
  clear_value v2
  have hv3 : Kept pq v3 := by
    unfold v3
    exact fset_kept h_s
  clear_value v3
  refine on_ite ?_ ?_
  · exact logErr_kept (setIdn_kept hv3)
  · exact setIdn_kept hv3

theorem portLost_kept {pq : List Instr} {k : Nat} {s : State} (h_s : Kept pq s) : Kept pq (portLost k s) := by
  unfold portLost
  extract_lets v2 v3 v4 v5
  clear_value v2
  have hv3 : Kept pq v3 := by
    unfold v3
    refine on_ite ?_ ?_
    · exact h_s
    · exact linkLost_kept h_s
  clear_value v3
  have hv4 : Kept pq v4 := by
    unfold v4
    exact reroute_kept hv3
  clear_value v4 v5
  refine on_ite ?_ ?_
  · exact hv4
  · exact dropUnreachable_kept (sendHello_kept (domMod_kept hv4))

theorem sendTrain_kept {pq : List Instr} {k : Nat} {w : Nat} {s : State} (h_s : Kept pq s) : Kept pq (sendTrain k w s) := by
  unfold sendTrain
  exact sendBlock_kept h_s

theorem sendTsync_kept {pq : List Instr} {k : Nat} {echo : Nat} {now : Nat} {s : State} (h_s : Kept pq s) : Kept pq (sendTsync k echo now s) := by
  unfold sendTsync
  extract_lets v2
  clear_value v2
  exact sendBlock_kept (tickFresh_kept h_s)

theorem quickWidth_kept {pq : List Instr} {k : Nat} {bad : Nat} {s : State} (h_s : Kept pq s) : Kept pq (quickWidth k bad s) := by
  unfold quickWidth
  extract_lets v2 v3
  have hv2 : Kept pq v2 := by
    unfold v2
    exact fset_kept h_s
  clear_value v2
  have hv3 : Kept pq v3 := by
    unfold v3
    exact setWidth_kept hv2
  clear_value v3
  refine on_ite ?_ ?_
  · exact sendTrain_kept hv3
  · exact sendTrain_kept hv2

theorem quickRetrain_kept {pq : List Instr} {k : Nat} {s : State} (h_s : Kept pq s) : Kept pq (quickRetrain k s) := by
  unfold quickRetrain
  exact sendTrain_kept (setIdn_kept (idnMod_kept h_s))

theorem resend_kept {pq : List Instr} {k : Nat} {ps : List (Nat × IdnPkt)} {s : State} (h_s : Kept pq s) : Kept pq (resend k ps s) := by
  unfold resend
  refine fbump_kept ?_
  refine on_foldl ?_ (fun t3 _ h4 => ?_)
  · exact h_s
  · exact wire_kept h4

theorem execPeerPatternSeen_kept {pq : List Instr} {port : Nat} {lanes : Nat} {fast : Bool} {s : State} (h_s : Kept pq s) : (OnNext (Kept pq)) (execPeerPatternSeen port lanes fast s) := by
  unfold execPeerPatternSeen
  refine on_next ?_
  refine on_ite ?_ ?_
  · exact h_s
  · exact setIdn_kept (fset_kept h_s)

theorem execDetectTimeout_kept {pq : List Instr} {port : Nat} {s : State} (h_s : Kept pq s) : (OnNext (Kept pq)) (execDetectTimeout port s) := by
  unfold execDetectTimeout
  refine on_next ?_
  refine on_ite ?_ ?_
  · exact h_s
  · exact failTraining_kept h_s

theorem execTrainRetryWait_kept {pq : List Instr} {port : Nat} {s : State} (h_s : Kept pq s) : (OnNext (Kept pq)) (execTrainRetryWait port s) := by
  unfold execTrainRetryWait
  refine on_next ?_
  refine on_ite ?_ ?_
  · exact h_s
  · exact trainPort_kept h_s

theorem execEqualisationEnd_kept {pq : List Instr} {port : Nat} {bad : Nat} {s : State} (h_s : Kept pq s) : (OnNext (Kept pq)) (execEqualisationEnd port bad s) := by
  unfold execEqualisationEnd
  refine on_next ?_
  refine on_ite ?_ ?_
  · exact h_s
  · exact sendTrain_kept (setIdn_kept (fset_kept h_s))

theorem execEqualiseTimeout_kept {pq : List Instr} {port : Nat} {s : State} (h_s : Kept pq s) : (OnNext (Kept pq)) (execEqualiseTimeout port s) := by
  unfold execEqualiseTimeout
  refine on_next ?_
  refine on_ite ?_ ?_
  · exact h_s
  · exact failTraining_kept h_s

theorem execIdoonLaneTestDone_kept {pq : List Instr} {port : Nat} {bad : Nat} {s : State} (h_s : Kept pq s) : (OnNext (Kept pq)) (execIdoonLaneTestDone port bad s) := by
  unfold execIdoonLaneTestDone
  extract_lets v2 v3 v4 v5 v6 v7 v8 v9
  clear_value v2 v3 v4
  have hv5 : Kept pq v5 := by
    unfold v5
    exact sendTrain_kept (fset_kept h_s)
  clear_value v5 v6 v7 v8
  have hv9 : Kept pq v9 := by
    unfold v9
    exact fset_kept (fset_kept hv5)
  clear_value v9
  refine on_next ?_
  refine on_ite ?_ ?_
  · exact h_s
  · refine on_ite ?_ ?_
    · exact failTraining_kept hv5
    · refine on_ite ?_ ?_
      · exact failTraining_kept (fset_kept (idnMod_kept hv5))
      · exact setIdn_kept (setWidth_kept (fset_kept hv9))

theorem execCodewordLock_kept {pq : List Instr} {port : Nat} {good : Nat} {s : State} (h_s : Kept pq s) : (OnNext (Kept pq)) (execCodewordLock port good s) := by
  unfold execCodewordLock
  refine on_next ?_
  refine on_ite ?_ ?_
  · exact h_s
  · exact sendTsync_kept (setIdn_kept (idnMod_kept h_s))

theorem execLockTimeout_kept {pq : List Instr} {port : Nat} {s : State} (h_s : Kept pq s) : (OnNext (Kept pq)) (execLockTimeout port s) := by
  unfold execLockTimeout
  refine on_next ?_
  refine on_ite ?_ ?_
  · exact h_s
  · exact failTraining_kept h_s

theorem execMeasureDone_kept {pq : List Instr} {port : Nat} {s : State} (h_s : Kept pq s) : (OnNext (Kept pq)) (execMeasureDone port s) := by
  unfold execMeasureDone
  extract_lets v2 v3
  clear_value v2
  have hv3 : Kept pq v3 := by
    unfold v3
    exact idnSet_kept h_s
  clear_value v3
  refine on_next ?_
  refine on_ite ?_ ?_
  · exact h_s
  · exact helloRoutes_kept (pump_kept (fset_kept (setIdn_kept hv3)))

theorem execLaneFault_kept {pq : List Instr} {port : Nat} {lane : Nat} {s : State} (h_s : Kept pq s) : (OnNext (Kept pq)) (execLaneFault port lane s) := by
  unfold execLaneFault
  refine on_next ?_
  refine on_ite ?_ ?_
  · exact h_s
  · exact quickWidth_kept (setIdn_kept (idnMod_kept h_s))

theorem execLossOfSignal_kept {pq : List Instr} {port : Nat} {s : State} (h_s : Kept pq s) : (OnNext (Kept pq)) (execLossOfSignal port s) := by
  unfold execLossOfSignal
  refine on_next ?_
  refine on_ite ?_ ?_
  · exact h_s
  · exact portLost_kept (setIdn_kept h_s)

theorem execQretrainDone_kept {pq : List Instr} {port : Nat} {s : State} (h_s : Kept pq s) : (OnNext (Kept pq)) (execQretrainDone port s) := by
  unfold execQretrainDone
  extract_lets v2
  clear_value v2
  refine on_next ?_
  refine on_ite ?_ ?_
  · exact h_s
  · exact pump_kept (resend_kept (setIdn_kept h_s))

theorem execQretrainTimeout_kept {pq : List Instr} {port : Nat} {s : State} (h_s : Kept pq s) : (OnNext (Kept pq)) (execQretrainTimeout port s) := by
  unfold execQretrainTimeout
  refine on_next ?_
  refine on_ite ?_ ?_
  · exact h_s
  · exact portLost_kept (trainPort_kept h_s)

theorem retrainPort_kept {pq : List Instr} {k : Nat} {s : State} (h_s : Kept pq s) : Kept pq (retrainPort k s) := by
  unfold retrainPort
  extract_lets v2 v3 v4 v5
  clear_value v2 v3
  have hv4 : Kept pq v4 := by
    unfold v4
    exact idnMod_kept h_s
  clear_value v4
  have hv5 : Kept pq v5 := by
    unfold v5
    refine on_ite ?_ ?_
    · exact setIdn_kept hv4
    · exact trainPort_kept hv4
  clear_value v5
  refine on_ite ?_ ?_
  · exact h_s
  · refine on_ite ?_ ?_
    · exact portLost_kept hv5
    · exact hv5

theorem releasePort_kept {pq : List Instr} {k : Nat} {s : State} (h_s : Kept pq s) : Kept pq (releasePort k s) := by
  unfold releasePort
  refine on_ite ?_ ?_
  · exact fset_kept (setIdn_kept h_s)
  · refine on_ite ?_ ?_
    · exact trainPort_kept h_s
    · exact h_s

theorem writeIdnCtrl_kept {pq : List Instr} {k : Nat} {v : Word} {s : State} (h_s : Kept pq s) : Kept pq (writeIdnCtrl k v s) := by
  unfold writeIdnCtrl
  extract_lets v2 v3
  have hv2 : Kept pq v2 := by
    unfold v2
    exact fset_kept h_s
  clear_value v2
  have hv3 : Kept pq v3 := by
    unfold v3
    refine on_ite ?_ ?_
    · exact releasePort_kept hv2
    · exact hv2
  clear_value v3
  refine on_ite ?_ ?_
  · exact retrainPort_kept hv3
  · exact hv3

theorem execIdnCtrlRetrain_kept {pq : List Instr} {port : Nat} {v : Word} {s : State} (h_s : Kept pq s) : (OnNext (Kept pq)) (execIdnCtrlRetrain port v s) := by
  unfold execIdnCtrlRetrain
  refine on_next ?_
  refine on_ite ?_ ?_
  · exact writeIdnCtrl_kept h_s
  · exact h_s

theorem execIdnCtrlRelease_kept {pq : List Instr} {port : Nat} {v : Word} {s : State} (h_s : Kept pq s) : (OnNext (Kept pq)) (execIdnCtrlRelease port v s) := by
  unfold execIdnCtrlRelease
  refine on_next ?_
  refine on_ite ?_ ?_
  · exact writeIdnCtrl_kept h_s
  · exact h_s

theorem execIdnCtrlDisable_kept {pq : List Instr} {port : Nat} {v : Word} {s : State} (h_s : Kept pq s) : (OnNext (Kept pq)) (execIdnCtrlDisable port v s) := by
  unfold execIdnCtrlDisable
  refine on_next ?_
  refine on_ite ?_ ?_
  · exact writeIdnCtrl_kept h_s
  · exact h_s

theorem onBlock_kept {pq : List Instr} {port : Nat} {b : BlkArr} {f : State → State} {s : State} (h_f : ∀ y0, Kept pq y0 → Kept pq (f y0)) (h_s : Kept pq s) : Kept pq (onBlock port b f s) := by
  unfold onBlock
  extract_lets v2
  have hv2 : Kept pq v2 := by
    unfold v2
    exact codewords_kept (fwrap_kept h_s)
  clear_value v2
  refine on_ite ?_ ?_
  · exact h_s
  · refine on_ite ?_ ?_
    · exact h_f _ hv2
    · exact hv2

theorem execIdleBlock_kept {pq : List Instr} {port : Nat} {b : BlkArr} {s : State} (h_s : Kept pq s) : (OnNext (Kept pq)) (execIdleBlock port b s) := by
  unfold execIdleBlock
  refine on_next ?_
  refine onBlock_kept ?_ ?_
  · intro a3 a4
    exact on_id a4
  · exact h_s

theorem ackUpTo_kept {pq : List Instr} {k : Nat} {seq : Nat} {s : State} (h_s : Kept pq s) : Kept pq (ackUpTo k seq s) := by
  unfold ackUpTo
  exact pump_kept (idnMod_kept h_s)

theorem execAck_kept {pq : List Instr} {port : Nat} {b : BlkArr} {seq : Nat} {s : State} (h_s : Kept pq s) : (OnNext (Kept pq)) (execAck port b seq s) := by
  unfold execAck
  refine on_next ?_
  refine onBlock_kept ?_ ?_
  · intro a3 a4
    refine on_ite ?_ ?_
    · exact ackUpTo_kept a4
    · exact a4
  · exact h_s

theorem execNak_kept {pq : List Instr} {port : Nat} {b : BlkArr} {seq : Nat} {s : State} (h_s : Kept pq s) : (OnNext (Kept pq)) (execNak port b seq s) := by
  unfold execNak
  refine on_next ?_
  refine onBlock_kept ?_ ?_
  · intro a3 a4
    extract_lets v6 v7 v8 v9
    clear_value v6 v7 v8
    have hv9 : Kept pq v9 := by
      unfold v9
      exact idnSet_kept a4
    clear_value v9
    refine on_ite ?_ ?_
    · exact a4
    · refine on_ite ?_ ?_
      · exact quickRetrain_kept hv9
      · exact pump_kept (resend_kept hv9)
  · exact h_s

theorem execCredit_kept {pq : List Instr} {port : Nat} {b : BlkArr} {vc : Nat} {blocks : Nat} {s : State} (h_s : Kept pq s) : (OnNext (Kept pq)) (execCredit port b vc blocks s) := by
  unfold execCredit
  refine on_next ?_
  refine onBlock_kept ?_ ?_
  · intro a3 a4
    refine on_ite ?_ ?_
    · exact pump_kept (idnMod_kept a4)
    · exact a4
  · exact h_s

theorem execTsync_kept {pq : List Instr} {port : Nat} {b : BlkArr} {departure : Nat} {echoed : Nat} {hold : Nat} {now : Nat} {s : State} (h_s : Kept pq s) : (OnNext (Kept pq)) (execTsync port b departure echoed hold now s) := by
  unfold execTsync
  refine on_next ?_
  refine onBlock_kept ?_ ?_
  · intro a3 a4
    extract_lets v6
    have hv6 : Kept pq v6 := by
      unfold v6
      exact sendTsync_kept a4
    clear_value v6
    refine on_ite ?_ ?_
    · refine on_ite ?_ ?_
      · exact hv6
      · exact fset_kept (idnMod_kept hv6)
    · exact a4
  · exact h_s

theorem execTrain_kept {pq : List Instr} {port : Nat} {b : BlkArr} {role : Nat} {hub : Nat} {group : Nat} {lanes : Nat} {width : Nat} {s : State} (h_s : Kept pq s) : (OnNext (Kept pq)) (execTrain port b role hub group lanes width s) := by
  unfold execTrain
  refine on_next ?_
  refine onBlock_kept ?_ ?_
  · intro a3 a4
    extract_lets v6 v7
    have hv6 : Kept pq v6 := by
      unfold v6
      exact idnMod_kept a4
    clear_value v6 v7
    refine on_ite ?_ ?_
    · exact a4
    · refine on_ite ?_ ?_
      · exact hv6
      · refine on_ite ?_ ?_
        · refine on_ite ?_ ?_
          · exact hv6
          · exact quickWidth_kept hv6
        · exact setWidth_kept hv6
  · exact h_s

theorem execAckTimer_kept {pq : List Instr} {port : Nat} {s : State} (h_s : Kept pq s) : (OnNext (Kept pq)) (execAckTimer port s) := by
  unfold execAckTimer
  extract_lets v2
  clear_value v2
  refine on_next ?_
  refine on_ite ?_ ?_
  · exact h_s
  · exact sendBlock_kept (idnSet_kept h_s)

end Sys2Proof.Machine
end

