-- ==== Sys2Proof/Laws/KeptTickRun.lean ====
section
/-! SUPPORT. Laws/KeptTickRun.lean: what Machine/TickRun.lean keeps (Laws/Kept.lean says what that is). -/
namespace Sys2Proof.Machine

theorem sendEdge_kept {pq : List Instr} {but : Option Nat} {after : Nat} {b : EdgeBlock} {s : State} (h_s : Kept pq s) : Kept pq (sendEdge but after b s) := by
  unfold sendEdge
  refine on_foldl ?_ (fun t2 _ h3 => ?_)
  · exact h_s
  · extract_lets v6
    clear_value v6
    refine on_ite ?_ ?_
    · exact h3
    · exact sendBlock_kept h3

theorem repeatDecision_kept {pq : List Instr} {s : State} (h_s : Kept pq s) : Kept pq (repeatDecision s) := by
  unfold repeatDecision
  split
  · rename_i w2 w3 w4 w5
    refine on_ite ?_ ?_
    · exact broadcastDecision_kept h_s
    · exact h_s
  · rename_i w10 w11
    exact h_s

theorem execTickEdgeEmit_kept {pq : List Instr} {s : State} (h_s : Kept pq s) : (OnNext (Kept pq)) (execTickEdgeEmit s) := by
  unfold execTickEdgeEmit
  refine on_next ?_
  split
  · rename_i w3 w4
    exact h_s
  · rename_i w6 w7 w8
    extract_lets v10
    clear_value v10
    exact repeatDecision_kept (sendEdge_kept (domMod_kept h_s))

theorem execEdge_kept {pq : List Instr} {port : Nat} {k : BlkArr} {b : EdgeBlock} {s : State} (h_s : Kept pq s) : (OnNext (Kept pq)) (execEdge port k b s) := by
  unfold execEdge
  extract_lets v2 v3
  have hv2 : Kept pq v2 := by
    unfold v2
    exact codewords_kept (fwrap_kept h_s)
  clear_value v2
  have hv3 : Kept pq v3 := by
    unfold v3
    exact domMod_kept hv2
  clear_value v3
  refine on_next ?_
  refine on_ite ?_ ?_
  · exact h_s
  · refine on_ite ?_ ?_
    · exact hv2
    · refine on_ite ?_ ?_
      · exact hv3
      · exact sendEdge_kept (tickFresh_kept hv3)

theorem formEdge_kept {pq : List Instr} {f : FormMsg} {s : State} (h_s : Kept pq s) : Kept pq (formEdge f s) := by
  unfold formEdge
  extract_lets v2 v3
  have hv2 : Kept pq v2 := by
    unfold v2
    exact fset_kept (fset_kept (fset_kept (fset_kept h_s)))
  clear_value v2
  have hv3 : Kept pq v3 := by
    unfold v3
    exact fset_kept (fset_kept hv2)
  clear_value v3
  exact domMod_kept hv3

theorem dueMembers_kept {pq : List Instr} {tick : Nat} {s : State} (h_s : Kept pq s) : Kept pq (dueMembers tick s) := by
  unfold dueMembers
  extract_lets v2
  clear_value v2
  refine on_foldl ?_ (fun t4 _ h5 => ?_)
  · exact domMod_kept h_s
  · exact applyMembers_kept h5

theorem edgePeriod_kept {pq : List Instr} {b : EdgeBlock} {s : State} (h_s : Kept pq s) : Kept pq (edgePeriod b s) := by
  unfold edgePeriod
  extract_lets v2
  have hv2 : Kept pq v2 := by
    unfold v2
    refine on_ite ?_ ?_
    · exact domMod_kept h_s
    · exact h_s
  clear_value v2
  split
  · rename_i w8 w9 w10 w11
    refine on_ite ?_ ?_
    · exact fset_kept (domMod_kept hv2)
    · exact hv2
  · rename_i w17 w18
    exact hv2

theorem edgeClose_kept {pq : List Instr} {tick : Nat} {s : State} (h_s : Kept pq s) : (OnSnd (Kept pq)) (edgeClose tick s) := by
  unfold edgeClose
  extract_lets v2 v3
  clear_value v2
  have hv3 : Kept pq v3 := by
    unfold v3
    refine on_foldl ?_ (fun t5 _ h6 => ?_)
    · exact h_s
    · exact partMod_kept h6
  clear_value v3
  split
  rename_i w11 w12 w13 w14
  refine on_use (P := (OnSnd (Kept pq))) w14 ?_ (fun hw14 => ?_)
  · refine on_foldl ?_ (fun t16 _ h17 => ?_)
    · exact on_mk hv3
    · extract_lets v21
      have hv21 : (OnSnd (Kept pq)) v21 := by
        unfold v21
        exact closePart_kept (on_snd h17)
      clear_value v21
      exact on_mk (on_snd hv21)
  exact on_mk (domMod_kept hw14)

theorem edgeReport_kept {pq : List Instr} {tick : Nat} {ls : List RepLine} {s : State} (h_s : Kept pq s) : Kept pq (edgeReport tick ls s) := by
  unfold edgeReport
  split
  · rename_i w2 w3 w4
    exact lsSettle_kept (lsSend_kept (domMod_kept h_s))
  · rename_i w9 w10
    exact sendReport_kept h_s

theorem edgeWork_kept {pq : List Instr} {tick : Nat} {s : State} (h_s : Kept pq s) : Kept pq (edgeWork tick s) := by
  unfold edgeWork
  extract_lets v2 v3 v4 v5 v6
  have hv2 : Kept pq v2 := by
    unfold v2
    exact perfEdge_kept ⟨h_s.1, h_s.2.1, h_s.2.2⟩
  clear_value v2
  have hv3 : Kept pq v3 := by
    unfold v3
    refine on_ite ?_ ?_
    · exact domMod_kept hv2
    · exact domMod_kept hv2
  clear_value v3
  have hv4 : Kept pq v4 := by
    unfold v4
    exact edgeEnables_kept hv3
  clear_value v4
  have hv5 : Kept pq v5 := by
    unfold v5
    refine on_ite ?_ ?_
    · exact faultAll_kept (cancelTiles_kept hv4)
    · exact hv4
  clear_value v5 v6
  split
  rename_i w22 w23 w24 w25
  refine on_use (P := (OnSnd (Kept pq))) w25 ?_ (fun hw25 => ?_)
  · exact edgeClose_kept hv5
  extract_lets v29 v30 v31
  have hv29 : Kept pq v29 := by
    unfold v29
    exact snapshotReady_kept (cancelTiles_kept hw25)
  clear_value v29
  have hv30 : Kept pq v30 := by
    unfold v30
    exact domMod_kept hv29
  clear_value v30
  have hv31 : Kept pq v31 := by
    unfold v31
    exact edgeHostWait_kept hv30
  clear_value v31
  refine sweep_kept ?_
  refine on_ite ?_ ?_
  · exact hv31
  · exact edgeReport_kept hv31

theorem execTickEdgeApply_kept {pq : List Instr} {s : State} (h_s : Kept pq s) : (OnNext (Kept pq)) (execTickEdgeApply s) := by
  unfold execTickEdgeApply
  refine on_next ?_
  split
  · rename_i w3 w4
    exact h_s
  · rename_i w6 w7 w8
    extract_lets v10 v11 v12 v13 v14 v15 v16 v17
    have hv10 : Kept pq v10 := by
      unfold v10
      exact domMod_kept (tickFresh_kept h_s)
    clear_value v10
    have hv11 : Kept pq v11 := by
      unfold v11
      exact hv10
    clear_value v11 v12
    have hv13 : Kept pq v13 := by
      unfold v13
      split
      · rename_i w23 w24 w25
        exact formEdge_kept hv10
      · rename_i w28 w29
        exact dueMembers_kept hv10
    clear_value v13
    have hv14 : Kept pq v14 := by
      unfold v14
      refine fset_kept ?_
      refine on_ite ?_ ?_
      · exact fset_kept hv13
      · exact hv13
    clear_value v14
    have hv16 : Kept pq v16 := by
      unfold v16
      exact setMasterBit_kept (fset_kept hv14)
    clear_value v16
    have hv17 : Kept pq v17 := by
      unfold v17
      exact domMod_kept hv16
    clear_value v17
    refine on_ite ?_ ?_
    · refine on_ite ?_ ?_
      · exact departNow_kept hv14
      · exact failNow_kept (departNow_kept hv14)
    · refine on_ite ?_ ?_
      · exact departNow_kept hv14
      · refine on_ite ?_ ?_
        · exact hv14
        · exact edgeWork_kept (edgePeriod_kept hv17)

theorem execEdgeMissed_kept {pq : List Instr} {s : State} (h_s : Kept pq s) : (OnNext (Kept pq)) (execEdgeMissed s) := by
  unfold execEdgeMissed
  extract_lets v2 v3 v4 v5
  clear_value v2 v3
  have hv4 : Kept pq v4 := by
    unfold v4
    refine on_foldl ?_ (fun t7 _ h8 => ?_)
    · exact h_s
    · extract_lets v11
      clear_value v11
      refine on_ite ?_ ?_
      · exact h8
      · refine on_ite ?_ ?_
        · exact partMod_kept h8
        · refine on_ite ?_ ?_
          · exact h8
          · exact partMod_kept h8
  clear_value v4
  have hv5 : Kept pq v5 := by
    unfold v5
    exact domMod_kept hv4
  clear_value v5
  refine on_next ?_
  refine on_ite ?_ ?_
  · exact h_s
  · refine on_ite ?_ ?_
    · exact sendHello_kept (departNow_kept hv5)
    · exact hv5

theorem execReport_kept {pq : List Instr} {a : IdnArr} {lines : List RepLine} {s : State} (h_s : Kept pq s) : (OnNext (Kept pq)) (execReport a lines s) := by
  unfold execReport
  refine on_next ?_
  refine on_ite ?_ ?_
  · exact h_s
  · refine idnAccept_kept ?_ ?_
    · intro a5 a6 a7
      exact takeReport_kept a7
    · exact h_s

theorem execReportTimeout_kept {pq : List Instr} {s : State} (h_s : Kept pq s) : (OnNext (Kept pq)) (execReportTimeout s) := by
  unfold execReportTimeout
  refine on_next ?_
  refine on_ite ?_ ?_
  · exact masterDecide_kept h_s
  · exact h_s

theorem execDecision_kept {pq : List Instr} {a : IdnArr} {lines : List DecLine} {s : State} (h_s : Kept pq s) : (OnNext (Kept pq)) (execDecision a lines s) := by
  unfold execDecision
  refine on_next ?_
  refine on_ite ?_ ?_
  · exact h_s
  · refine idnAccept_kept ?_ ?_
    · intro a5 a6 a7
      exact decisionApply_kept a7
    · exact h_s

theorem startTile_kept {pq : List Instr} {r : TickRec} {w : Part} {plan : Nat} {t : Nat} {s : State} (h_s : Kept pq s) : Kept pq (startTile r w plan t s) := by
  unfold startTile
  extract_lets v2 v3 v4 v5 v6
  clear_value v2 v3
  have hv4 : Kept pq v4 := by
    unfold v4
    exact tileMod_kept h_s
  clear_value v4
  have hv5 : Kept pq v5 := by
    unfold v5
    exact fset_kept (fset_kept hv4)
  clear_value v5
  have hv6 : Kept pq v6 := by
    unfold v6
    exact rset_kept hv5
  clear_value v6
  refine on_ite ?_ ?_
  · exact checkedStop_kept hv6
  · refine on_ite ?_ ?_
    · exact contextStop_kept hv6
    · refine on_ite ?_ ?_
      · exact hv6
      · exact fset_kept hv6

theorem releasePart_kept {pq : List Instr} {p : Nat} {r : TickRec} {s : State} (h_s : Kept pq s) : Kept pq (releasePart p r s) := by
  unfold releasePart
  extract_lets v2 v3 v4 v5 v6 v7 v8 v9
  clear_value v2 v3
  have hv4 : Kept pq v4 := by
    unfold v4
    exact partSet_kept h_s
  clear_value v4 v5
  have hv6 : Kept pq v6 := by
    unfold v6
    refine on_foldl ?_ (fun t13 _ h14 => ?_)
    · exact hv4
    · exact rreset_kept (bayMod_kept h14)
  clear_value v6 v7
  have hv8 : Kept pq v8 := by
    unfold v8
    refine on_foldl ?_ (fun t20 _ h21 => ?_)
    · exact hv6
    · exact startTile_kept h21
  clear_value v8 v9
  exact fset_kept (tickFresh_kept hv8)

theorem execTickRelease_kept {pq : List Instr} {part : Nat} {s : State} (h_s : Kept pq s) : (OnNext (Kept pq)) (execTickRelease part s) := by
  unfold execTickRelease
  extract_lets v2
  clear_value v2
  refine on_next ?_
  split
  · rename_i w5 w6
    exact h_s
  · rename_i w8 w9 w10
    refine on_ite ?_ ?_
    · exact h_s
    · exact releasePart_kept h_s

theorem drainMod_kept {pq : List Instr} {p : Nat} {f : Drain → Drain} {s : State} (h_s : Kept pq s) : Kept pq (drainMod p f s) := by
  unfold drainMod
  exact partMod_kept h_s

theorem drainItem_kept {pq : List Instr} {d : Drain} {e : Staged} {s : State} (h_s : Kept pq s) : Kept pq (drainItem d e s) := by
  unfold drainItem
  extract_lets v2
  have hv2 : Kept pq v2 := by
    unfold v2
    exact devStore_kept h_s
  clear_value v2
  split
  · rename_i w6 w7 w8
    refine on_foldl ?_ (fun t10 _ h11 => ?_)
    · exact hv2
    · split
      · rename_i w14 w15 w16 w17
        extract_lets v19
        clear_value v19
        refine on_ite ?_ ?_
        · exact devStore_kept h11
        · exact h11
      · rename_i w24 w25
        exact h11
  · rename_i w27 w28
    exact markSwitch_kept hv2

theorem execDrainLayerDone_kept {pq : List Instr} {part : Nat} {s : State} (h_s : Kept pq s) : (OnNext (Kept pq)) (execDrainLayerDone part s) := by
  unfold execDrainLayerDone
  refine on_next ?_
  split
  · rename_i w3 w4
    exact h_s
  · rename_i w6 w7 w8 w9
    split
    · rename_i w11 w12
      exact h_s
    · rename_i w14 w15 w16 w17
      extract_lets v19 v20
      clear_value v19
      have hv20 : Kept pq v20 := by
        unfold v20
        exact drainMod_kept h_s
      clear_value v20
      refine sweep_kept ?_
      refine on_foldl ?_ (fun t25 _ h26 => ?_)
      · exact hv20
      · exact drainItem_kept h26

theorem execEgressWrite_kept {pq : List Instr} {part : Nat} {s : State} (h_s : Kept pq s) : (OnNext (Kept pq)) (execEgressWrite part s) := by
  unfold execEgressWrite
  refine on_next ?_
  split
  · rename_i w3 w4
    exact h_s
  · rename_i w6 w7 w8
    extract_lets v10 v11 v12
    have hv10 : Kept pq v10 := by
      unfold v10
      refine on_foldl ?_ (fun t14 _ h15 => ?_)
      · exact h_s
      · exact putFor_kept h15
    clear_value v10
    have hv11 : Kept pq v11 := by
      unfold v11
      refine on_foldl ?_ (fun t20 _ h21 => ?_)
      · exact hv10
      · exact ringPut_kept h21
    clear_value v11
    have hv12 : Kept pq v12 := by
      unfold v12
      refine on_foldl ?_ (fun t26 _ h27 => ?_)
      · exact hv11
      · exact ringPublish_kept h27
    clear_value v12
    refine on_ite ?_ ?_
    · exact h_s
    · exact partMod_kept hv12

theorem execFenceWriteApply_kept {pq : List Instr} {part : Nat} {s : State} (h_s : Kept pq s) : (OnNext (Kept pq)) (execFenceWriteApply part s) := by
  unfold execFenceWriteApply
  refine on_next ?_
  split
  · rename_i w3 w4
    exact h_s
  · rename_i w6 w7 w8
    extract_lets v10
    have hv10 : Kept pq v10 := by
      unfold v10
      refine on_foldl ?_ (fun t12 _ h13 => ?_)
      · exact h_s
      · exact fenceRaise_kept h13
    clear_value v10
    exact sweep_kept (partMod_kept hv10)

theorem extendChain_kept {pq : List Instr} {p : Nat} {r : TickRec} {e : Extension} {s : State} (h_s : Kept pq s) : Kept pq (extendChain p r e s) := by
  unfold extendChain
  split
  · rename_i w2 w3
    exact h_s
  · rename_i w5 w6 w7
    extract_lets v9
    clear_value v9
    exact devStore_kept h_s

theorem execCommitDrainEnd_kept {pq : List Instr} {part : Nat} {s : State} (h_s : Kept pq s) : (OnNext (Kept pq)) (execCommitDrainEnd part s) := by
  unfold execCommitDrainEnd
  refine on_next ?_
  split
  · rename_i w3 w4
    exact h_s
  · rename_i w6 w7 w8 w9
    extract_lets v11
    have hv11 : Kept pq v11 := by
      unfold v11
      split
      · rename_i w13 w14 w15
        refine on_foldl ?_ (fun t17 _ h18 => ?_)
        · exact h_s
        · exact extendChain_kept h18
      · rename_i w22 w23
        exact h_s
    clear_value v11
    refine on_ite ?_ ?_
    · exact h_s
    · exact sweep_kept (partMod_kept hv11)

theorem execHostStoreAck_kept {pq : List Instr} {port : Nat} {s : State} (h_s : Kept pq s) : (OnNext (Kept pq)) (execHostStoreAck port s) := by
  unfold execHostStoreAck
  refine on_next ?_
  split
  · rename_i w3 w4
    exact h_s
  · rename_i w6 w7 w8
    exact ⟨h_s.1, h_s.2.1, h_s.2.2⟩

theorem writeTickCtrl_kept {pq : List Instr} {v : Word} {s : State} (h_s : Kept pq s) : Kept pq (writeTickCtrl v s) := by
  unfold writeTickCtrl
  exact fset_kept h_s

theorem execTickCtrlWrite_kept {pq : List Instr} {v : Word} {s : State} (h_s : Kept pq s) : (OnNext (Kept pq)) (execTickCtrlWrite v s) := by
  unfold execTickCtrlWrite
  exact on_next (writeTickCtrl_kept h_s)

theorem askPeriod_kept {pq : List Instr} {ns : Nat} {low : Nat} {s : State} (h_s : Kept pq s) : (OnSnd (Kept pq)) (askPeriod ns low s) := by
  unfold askPeriod
  extract_lets v2
  clear_value v2
  refine on_ite ?_ ?_
  · exact on_mk (domMod_kept h_s)
  · exact on_mk h_s

theorem writeTickPeriod_kept {pq : List Instr} {v : Word} {s : State} (h_s : Kept pq s) : Kept pq (writeTickPeriod v s) := by
  unfold writeTickPeriod
  extract_lets v2 v3 v4 v5
  clear_value v2 v3
  have hv4 : Kept pq v4 := by
    unfold v4
    exact fset_kept (fset_kept h_s)
  clear_value v4
  have hv5 : (OnSnd (Kept pq)) v5 := by
    unfold v5
    exact askPeriod_kept hv4
  clear_value v5
  refine on_ite ?_ ?_
  · exact h_s
  · exact fset_kept (on_snd hv5)

theorem execTickPeriodSetWrite_kept {pq : List Instr} {v : Word} {s : State} (h_s : Kept pq s) : (OnNext (Kept pq)) (execTickPeriodSetWrite v s) := by
  unfold execTickPeriodSetWrite
  exact on_next (writeTickPeriod_kept h_s)

theorem enableReq_kept {pq : List Instr} {p : Nat} {s : State} (h_s : Kept pq s) : Kept pq (enableReq p s) := by
  unfold enableReq
  extract_lets v2
  clear_value v2
  refine on_ite ?_ ?_
  · exact logErr_kept h_s
  · refine on_ite ?_ ?_
    · exact h_s
    · exact fset_kept (partSet_kept h_s)

theorem disableReq_kept {pq : List Instr} {p : Nat} {s : State} (h_s : Kept pq s) : Kept pq (disableReq p s) := by
  unfold disableReq
  extract_lets v2
  have hv2 : Kept pq v2 := by
    unfold v2
    exact partMod_kept h_s
  clear_value v2
  exact fset_kept hv2

theorem writePartCfg_kept {pq : List Instr} {p : Nat} {v : Word} {s : State} (h_s : Kept pq s) : Kept pq (writePartCfg p v s) := by
  unfold writePartCfg
  extract_lets v2
  have hv2 : Kept pq v2 := by
    unfold v2
    exact fset_kept (fset_kept h_s)
  clear_value v2
  refine on_ite ?_ ?_
  · exact enableReq_kept hv2
  · exact disableReq_kept hv2

theorem execPartCfgEnable_kept {pq : List Instr} {part : Nat} {v : Word} {s : State} (h_s : Kept pq s) : (OnNext (Kept pq)) (execPartCfgEnable part v s) := by
  unfold execPartCfgEnable
  refine on_next ?_
  refine on_ite ?_ ?_
  · exact writePartCfg_kept h_s
  · exact h_s

theorem execPartCfgDisable_kept {pq : List Instr} {part : Nat} {v : Word} {s : State} (h_s : Kept pq s) : (OnNext (Kept pq)) (execPartCfgDisable part v s) := by
  unfold execPartCfgDisable
  refine on_next ?_
  refine on_ite ?_ ?_
  · exact writePartCfg_kept h_s
  · exact h_s

theorem writePartIdoon_kept {pq : List Instr} {p : Nat} {v : Word} {s : State} (h_s : Kept pq s) : Kept pq (writePartIdoon p v s) := by
  unfold writePartIdoon
  refine on_ite ?_ ?_
  · exact logRefused_kept h_s
  · exact fset_kept h_s

theorem execPartIdoonWrite_kept {pq : List Instr} {part : Nat} {v : Word} {s : State} (h_s : Kept pq s) : (OnNext (Kept pq)) (execPartIdoonWrite part v s) := by
  unfold execPartIdoonWrite
  refine on_next ?_
  refine on_ite ?_ ?_
  · exact writePartIdoon_kept h_s
  · exact h_s

end Sys2Proof.Machine
end

