-- ==== Sys2Proof/Laws/KeptDomain.lean ====
section
/-! SUPPORT. Laws/KeptDomain.lean: what Machine/Domain.lean keeps (Laws/Kept.lean says what that is). -/
namespace Sys2Proof.Machine

theorem takeForm_kept {pq : List Instr} {f : FormMsg} {s : State} (h_s : Kept pq s) : Kept pq (takeForm f s) := by
  unfold takeForm
  extract_lets v2
  have hv2 : Kept pq v2 := by
    unfold v2
    exact domMod_kept h_s
  clear_value v2
  exact fset_kept (fset_kept hv2)

theorem tryForm_kept {pq : List Instr} {s : State} (h_s : Kept pq s) : Kept pq (tryForm s) := by
  unfold tryForm
  extract_lets v2 v3 v4 v5 v6
  clear_value v2 v3 v4
  have hv5 : Kept pq v5 := by
    unfold v5
    exact tickFresh_kept h_s
  clear_value v5
  have hv6 : Kept pq v6 := by
    unfold v6
    exact takeForm_kept hv5
  clear_value v6
  refine on_ite ?_ ?_
  · exact h_s
  · split
    · rename_i w14 w15 w16
      exact domRefuse_kept (domMod_kept hv5)
    · rename_i w20 w21
      refine on_foldl ?_ (fun t23 _ h24 => ?_)
      · exact hv6
      · exact sendDomain_kept h24

theorem sendJoin_kept {pq : List Instr} {s : State} (h_s : Kept pq s) : Kept pq (sendJoin s) := by
  unfold sendJoin
  extract_lets v2
  clear_value v2
  exact floodDomain_kept h_s

theorem execHelloTimer_kept {pq : List Instr} {s : State} (h_s : Kept pq s) : (OnNext (Kept pq)) (execHelloTimer s) := by
  unfold execHelloTimer
  extract_lets v2 v3 v4 v5 v6 v7 v8
  have hv2 : Kept pq v2 := by
    unfold v2
    exact sendHello_kept h_s
  clear_value v2 v3 v4
  have hv5 : Kept pq v5 := by
    unfold v5
    exact domMod_kept hv2
  clear_value v5
  have hv6 : Kept pq v6 := by
    unfold v6
    split
    · rename_i w14 w15 w16
      refine on_ite ?_ ?_
      · exact abandonForm_kept hv5
      · exact hv5
    · rename_i w21 w22
      exact hv5
  clear_value v6
  have hv7 : Kept pq v7 := by
    unfold v7
    exact tryForm_kept (helloRoutes_kept hv6)
  clear_value v7
  have hv8 : Kept pq v8 := by
    unfold v8
    refine on_ite ?_ ?_
    · exact sendJoin_kept hv7
    · exact hv7
  clear_value v8
  exact on_next (domMod_kept hv8)

theorem takeHello_kept {pq : List Instr} {h : HelloMsg} {s : State} (h_s : Kept pq s) : Kept pq (takeHello h s) := by
  unfold takeHello
  extract_lets v2 v3 v4 v5 v6 v7 v8
  have hv6 : Kept pq v6 := by
    unfold v6
    exact domMod_kept h_s
  clear_value v6
  have hv7 : Kept pq v7 := by
    unfold v7
    split
    · rename_i w12 w13 w14
      refine on_ite ?_ ?_
      · exact abandonForm_kept hv6
      · exact hv6
    · rename_i w19 w20
      exact hv6
  clear_value v7
  have hv8 : Kept pq v8 := by
    unfold v8
    exact domMod_kept hv7
  clear_value v8
  refine on_ite ?_ ?_
  · refine dropUnreachable_kept ?_
    refine on_ite ?_ ?_
    · exact hv8
    · exact dropHubs_kept hv8
  · exact helloRoutes_kept hv7

theorem execHello_kept {pq : List Instr} {a : IdnArr} {h : HelloMsg} {s : State} (h_s : Kept pq s) : (OnNext (Kept pq)) (execHello a h s) := by
  unfold execHello
  extract_lets v2 v3 v4
  clear_value v2 v3 v4
  refine on_next ?_
  refine on_ite ?_ ?_
  · exact h_s
  · refine idnAccept_kept ?_ ?_
    · intro a9 a10 a11
      extract_lets v13
      have hv13 : Kept pq v13 := by
        unfold v13
        exact takeHello_kept a11
      clear_value v13
      refine on_ite ?_ ?_
      · refine on_ite ?_ ?_
        · exact a11
        · exact domMod_kept a11
      · refine on_ite ?_ ?_
        · exact passOn_kept hv13
        · exact hv13
    · exact h_s

theorem execForm_kept {pq : List Instr} {a : IdnArr} {f : FormMsg} {s : State} (h_s : Kept pq s) : (OnNext (Kept pq)) (execForm a f s) := by
  unfold execForm
  refine on_next ?_
  refine on_ite ?_ ?_
  · exact h_s
  · refine idnAccept_kept ?_ ?_
    · intro a5 a6 a7
      refine on_ite ?_ ?_
      · exact a7
      · split
        · rename_i w11 w12 w13
          exact domRefuse_kept a7
        · rename_i w16 w17
          exact sendDomain_kept (takeForm_kept a7)
    · exact h_s

theorem execFormAck_kept {pq : List Instr} {a : IdnArr} {epoch : Nat} {s : State} (h_s : Kept pq s) : (OnNext (Kept pq)) (execFormAck a epoch s) := by
  unfold execFormAck
  refine on_next ?_
  refine on_ite ?_ ?_
  · exact h_s
  · refine idnAccept_kept ?_ ?_
    · intro a5 a6 a7
      split
      · rename_i w9 w10 w11
        refine on_ite ?_ ?_
        · exact domMod_kept a7
        · exact a7
      · rename_i w16 w17
        exact a7
    · exact h_s

theorem execFormTimeout_kept {pq : List Instr} {s : State} (h_s : Kept pq s) : (OnNext (Kept pq)) (execFormTimeout s) := by
  unfold execFormTimeout
  refine on_next ?_
  refine on_ite ?_ ?_
  · exact h_s
  · refine on_ite ?_ ?_
    · exact tryForm_kept (domMod_kept h_s)
    · exact domRefuse_kept h_s

theorem joinDomain_kept {pq : List Instr} {s : State} (h_s : Kept pq s) : Kept pq (joinDomain s) := by
  unfold joinDomain
  extract_lets v2 v3
  have hv2 : Kept pq v2 := by
    unfold v2
    exact fset_kept (fset_kept h_s)
  clear_value v2
  have hv3 : Kept pq v3 := by
    unfold v3
    refine on_foldl ?_ (fun t8 _ h9 => ?_)
    · exact hv2
    · refine on_ite ?_ ?_
      · exact trainPort_kept h9
      · exact h9
  clear_value v3
  refine on_ite ?_ ?_
  · exact h_s
  · refine on_ite ?_ ?_
    · exact domRefuse_kept h_s
    · exact sendJoin_kept (sendHello_kept hv3)

theorem takeJoin_kept {pq : List Instr} {h : HelloMsg} {s : State} (h_s : Kept pq s) : Kept pq (takeJoin h s) := by
  unfold takeJoin
  extract_lets v2 v3 v4 v5 v6
  clear_value v2 v3 v4 v5 v6
  refine on_ite ?_ ?_
  · exact h_s
  · split
    · rename_i w10 w11 w12 w13
      exact announce_kept h_s
    · rename_i w16 w17 w18 w19
      refine on_ite ?_ ?_
      · exact floodDomain_kept h_s
      · exact announce_kept h_s

theorem execJoin_kept {pq : List Instr} {a : IdnArr} {h : HelloMsg} {s : State} (h_s : Kept pq s) : (OnNext (Kept pq)) (execJoin a h s) := by
  unfold execJoin
  extract_lets v2
  clear_value v2
  refine on_next ?_
  refine on_ite ?_ ?_
  · exact h_s
  · refine on_ite ?_ ?_
    · refine idnAccept_kept ?_ ?_
      · intro a8 a9 a10
        exact takeJoin_kept a10
      · exact h_s
    · refine floodAccept_kept ?_ ?_
      · intro a15 a16 a17
        exact a17
      · exact h_s

theorem execMembership_kept {pq : List Instr} {a : IdnArr} {m : MemberMsg} {s : State} (h_s : Kept pq s) : (OnNext (Kept pq)) (execMembership a m s) := by
  unfold execMembership
  refine on_next ?_
  refine on_ite ?_ ?_
  · exact h_s
  · refine idnAccept_kept ?_ ?_
    · intro a5 a6 a7
      extract_lets v9 v10
      have hv9 : Kept pq v9 := by
        unfold v9
        exact domMod_kept a7
      clear_value v9 v10
      refine on_ite ?_ ?_
      · refine on_ite ?_ ?_
        · exact hv9
        · exact a7
      · refine on_ite ?_ ?_
        · exact a7
        · refine on_ite ?_ ?_
          · split
            · rename_i w21 w22 w23
              exact domRefuse_kept a7
            · rename_i w26 w27
              exact domMod_kept hv9
          · exact domRefuse_kept a7
    · exact h_s

theorem writeDomCtrl_kept {pq : List Instr} {v : Word} {s : State} (h_s : Kept pq s) : Kept pq (writeDomCtrl v s) := by
  unfold writeDomCtrl
  extract_lets v2 v3 v4
  have hv2 : Kept pq v2 := by
    unfold v2
    exact fset_kept h_s
  clear_value v2
  have hv3 : Kept pq v3 := by
    unfold v3
    refine on_ite ?_ ?_
    · exact handOver_kept hv2
    · exact hv2
  clear_value v3
  have hv4 : Kept pq v4 := by
    unfold v4
    refine on_ite ?_ ?_
    · exact joinDomain_kept hv3
    · exact hv3
  clear_value v4
  refine on_ite ?_ ?_
  · exact leaveDomain_kept hv4
  · exact hv4

theorem execDomCtrlLeave_kept {pq : List Instr} {v : Word} {s : State} (h_s : Kept pq s) : (OnNext (Kept pq)) (execDomCtrlLeave v s) := by
  unfold execDomCtrlLeave
  refine on_next ?_
  refine on_ite ?_ ?_
  · exact writeDomCtrl_kept h_s
  · exact h_s

theorem execDomCtrlJoin_kept {pq : List Instr} {v : Word} {s : State} (h_s : Kept pq s) : (OnNext (Kept pq)) (execDomCtrlJoin v s) := by
  unfold execDomCtrlJoin
  refine on_next ?_
  refine on_ite ?_ ?_
  · exact writeDomCtrl_kept h_s
  · exact h_s

theorem execDomCtrlHandover_kept {pq : List Instr} {v : Word} {s : State} (h_s : Kept pq s) : (OnNext (Kept pq)) (execDomCtrlHandover v s) := by
  unfold execDomCtrlHandover
  refine on_next ?_
  refine on_ite ?_ ?_
  · exact writeDomCtrl_kept h_s
  · exact h_s

theorem execHandover_kept {pq : List Instr} {a : IdnArr} {hub : Nat} {terms : HandTerms} {s : State} (h_s : Kept pq s) : (OnNext (Kept pq)) (execHandover a hub terms s) := by
  unfold execHandover
  refine on_next ?_
  refine on_ite ?_ ?_
  · exact h_s
  · refine idnAccept_kept ?_ ?_
    · intro a5 a6 a7
      refine on_ite ?_ ?_
      · exact domMod_kept a7
      · exact a7
    · exact h_s

theorem execMasterLoss_kept {pq : List Instr} {top : Nat} {held : List Nat} {s : State} (h_s : Kept pq s) : (OnNext (Kept pq)) (execMasterLoss top held s) := by
  unfold execMasterLoss
  extract_lets v2 v3 v4 v5
  clear_value v2 v3 v4
  have hv5 : Kept pq v5 := by
    unfold v5
    exact domMod_kept h_s
  clear_value v5
  refine on_next ?_
  refine on_ite ?_ ?_
  · exact h_s
  · exact dropFrom_kept hv5

theorem writeLsCfg_kept {pq : List Instr} {v : Word} {s : State} (h_s : Kept pq s) : Kept pq (writeLsCfg v s) := by
  unfold writeLsCfg
  extract_lets v2
  clear_value v2
  exact rset_kept h_s

theorem execLsCfgWrite_kept {pq : List Instr} {v : Word} {s : State} (h_s : Kept pq s) : (OnNext (Kept pq)) (execLsCfgWrite v s) := by
  unfold execLsCfgWrite
  exact on_next (writeLsCfg_kept h_s)

theorem execLsBdt_kept {pq : List Instr} {a : IdnArr} {s : State} (h_s : Kept pq s) : (OnNext (Kept pq)) (execLsBdt a s) := by
  unfold execLsBdt
  refine on_next ?_
  refine on_ite ?_ ?_
  · exact h_s
  · refine idnAccept_kept ?_ ?_
    · intro a5 a6 a7
      extract_lets v9
      clear_value v9
      refine on_ite ?_ ?_
      · exact lsPiece_kept a7
      · refine on_ite ?_ ?_
        · exact partMod_kept a7
        · exact a7
    · exact h_s

theorem execLsSig_kept {pq : List Instr} {a : IdnArr} {s : State} (h_s : Kept pq s) : (OnNext (Kept pq)) (execLsSig a s) := by
  unfold execLsSig
  refine on_next ?_
  refine on_ite ?_ ?_
  · exact h_s
  · refine idnAccept_kept ?_ ?_
    · intro a5 a6 a7
      extract_lets v9 v10
      clear_value v9
      have hv10 : Kept pq v10 := by
        unfold v10
        exact partMod_kept a7
      clear_value v10
      refine on_ite ?_ ?_
      · exact a7
      · exact lsSettle_kept hv10
    · exact h_s

theorem execDomJoin_kept {pq : List Instr} {cmd : Nat} {s : State} (h_s : Kept pq s) : (OnNext (Kept pq)) (execDomJoin cmd s) := by
  unfold execDomJoin
  refine on_next ?_
  refine startOp_kept ?_ ?_
  · intro a3 a4 a5
    refine on_ite ?_ ?_
    · exact on_mk a5
    · exact on_mk (joinDomain_kept a5)
  · exact h_s

theorem execDomLeave_kept {pq : List Instr} {cmd : Nat} {s : State} (h_s : Kept pq s) : (OnNext (Kept pq)) (execDomLeave cmd s) := by
  unfold execDomLeave
  refine on_next ?_
  refine startOp_kept ?_ ?_
  · intro a3 a4 a5
    refine on_ite ?_ ?_
    · exact on_mk (leaveDomain_kept a5)
    · exact on_mk a5
  · exact h_s

theorem execDomHandover_kept {pq : List Instr} {cmd : Nat} {s : State} (h_s : Kept pq s) : (OnNext (Kept pq)) (execDomHandover cmd s) := by
  unfold execDomHandover
  refine on_next ?_
  refine startOp_kept ?_ ?_
  · intro a3 a4 a5
    refine on_ite ?_ ?_
    · exact on_mk (handOver_kept a5)
    · exact on_mk a5
  · exact h_s

theorem execDomQuery_kept {pq : List Instr} {cmd : Nat} {s : State} (h_s : Kept pq s) : (OnNext (Kept pq)) (execDomQuery cmd s) := by
  unfold execDomQuery
  refine on_next ?_
  refine startOp_kept ?_ ?_
  · intro a3 a4 a5
    exact on_mk a5
  · exact h_s

theorem execLsConfig_kept {pq : List Instr} {cmd : Nat} {s : State} (h_s : Kept pq s) : (OnNext (Kept pq)) (execLsConfig cmd s) := by
  unfold execLsConfig
  refine on_next ?_
  refine startOp_kept ?_ ?_
  · intro a3 a4 a5
    refine on_ite ?_ ?_
    · exact on_mk (writeLsCfg_kept a5)
    · exact on_mk a5
  · exact h_s

theorem execTickPeriod_kept {pq : List Instr} {cmd : Nat} {s : State} (h_s : Kept pq s) : (OnNext (Kept pq)) (execTickPeriod cmd s) := by
  unfold execTickPeriod
  refine on_next ?_
  refine startOp_kept ?_ ?_
  · intro a3 a4 a5
    extract_lets v7
    have hv7 : Kept pq v7 := by
      unfold v7
      exact writeTickPeriod_kept a5
    clear_value v7
    refine on_ite ?_ ?_
    · exact on_mk a5
    · exact on_mk hv7
  · exact h_s

end Sys2Proof.Machine
end

