-- ==== Sys2Proof/Laws/KeptMemctl.lean ====
section
/-! SUPPORT. Laws/KeptMemctl.lean: what Machine/Memctl.lean keeps (Laws/Kept.lean says what that is). -/
namespace Sys2Proof.Machine

theorem noteCorrected_kept {pq : List Instr} {sector : Nat} {s : State} (h_s : Kept pq s) : (OnSnd (Kept pq)) (noteCorrected sector s) := by
  unfold noteCorrected
  extract_lets v2 v3 v4 v5
  clear_value v2 v3 v4
  have hv5 : Kept pq v5 := by
    unfold v5
    exact tickFresh_kept h_s
  clear_value v5
  exact on_mk ⟨hv5.1, hv5.2.1, hv5.2.2⟩

theorem rowFailed_kept {pq : List Instr} {sector : Nat} {s : State} (h_s : Kept pq s) : Kept pq (rowFailed sector s) := by
  unfold rowFailed
  extract_lets v2
  clear_value v2
  exact queueRepair_kept (memcRecord_kept (memcErr_kept h_s))

theorem fetchSector_kept {pq : List Instr} {sector : Nat} {tick : Nat} {u : MemUpset} {s : State} (h_s : Kept pq s) : (OnSnd (OnSnd (Kept pq))) (fetchSector sector tick u s) := by
  unfold fetchSector
  extract_lets v2
  clear_value v2
  split
  rename_i w4 w5 w6 w7
  refine on_use (P := (OnSnd (Kept pq))) w7 ?_ (fun hw7 => ?_)
  · exact interfaceTries_kept (refreshReport_kept h_s)
  extract_lets v12 v13 v14
  have hv12 : Kept pq v12 := by
    unfold v12
    exact countRead_kept hw7
  clear_value v12
  have hv13 : Kept pq v13 := by
    unfold v13
    exact injectUse_kept hv12
  clear_value v13
  have hv14 : Kept pq v14 := by
    unfold v14
    exact fbump_kept ⟨hv12.1, hv12.2.1, hv12.2.2⟩
  clear_value v14
  refine on_ite ?_ ?_
  · exact on_mk (on_mk hw7)
  · split
    · rename_i w26 w27 w28
      refine on_ite ?_ ?_
      · exact on_mk (on_mk hv13)
      · exact on_mk (on_mk (fbump_kept hv13))
    · rename_i w37 w38
      split
      · rename_i w40 w41
        exact on_mk (on_mk hv12)
      · rename_i w45 w46
        split
        rename_i w48 w49 w50 w51
        refine on_use (P := (OnSnd (Kept pq))) w51 ?_ (fun hw51 => ?_)
        · exact noteCorrected_kept hv14
        refine on_mk ?_
        refine on_mk ?_
        refine on_ite ?_ ?_
        · exact rowFailed_kept hw51
        · exact hw51
      · rename_i w60 w61 w62
        exact on_mk (on_mk hv12)

theorem drainLost_kept {pq : List Instr} {p : Nat} {item : Nat} {s : State} (h_s : Kept pq s) : Kept pq (drainLost p item s) := by
  unfold drainLost
  extract_lets v2
  clear_value v2
  split
  · rename_i w4 w5 w6 w7
    split
    · rename_i w9 w10 w11
      extract_lets v13
      have hv13 : Kept pq v13 := by
        unfold v13
        exact partSet_kept h_s
      clear_value v13
      refine on_foldl ?_ (fun t17 _ h18 => ?_)
      · exact hv13
      · exact loseSector_kept h18
    · rename_i w22 w23
      exact h_s
  · rename_i w25 w26
    exact h_s

theorem readFailed_kept {pq : List Instr} {sector : Nat} {cause : Nat} {r : MemReq} {injected : Bool} {s : State} (h_s : Kept pq s) : Kept pq (readFailed sector cause r injected s) := by
  unfold readFailed
  extract_lets v2
  have hv2 : Kept pq v2 := by
    unfold v2
    exact memUncorrectable_kept h_s
  clear_value v2
  split
  · rename_i w6 w7 w8
    refine on_ite ?_ ?_
    · exact hv2
    · exact drainLost_kept hv2
  · rename_i w13 w14 w15 w16
    extract_lets v18
    clear_value v18
    exact kvwRecord_kept (kvwErr_kept hv2)
  · rename_i w22 w23 w24
    exact hv2

theorem execMemoryRead_kept {pq : List Instr} {addr : Nat} {n : Nat} {cls : Nat} {who : MemReq} {u : MemUpset} {s : State} (h_s : Kept pq s) : (OnNext (Kept pq)) (execMemoryRead addr n cls who u s) := by
  unfold execMemoryRead
  extract_lets v2 v3 v4
  clear_value v2 v3 v4
  refine on_next ?_
  refine on_ite ?_ ?_
  · exact h_s
  · refine on_ite ?_ ?_
    · exact emit_kept (readFailed_kept h_s)
    · split
      rename_i w13 w14 w15 w16 w17
      refine on_use (P := (OnSnd (OnSnd (Kept pq)))) w17 ?_ (fun hw17 => ?_)
      · exact fetchSector_kept (slcMem_kept h_s)
      split
      · rename_i w22 w23
        exact emit_kept (readFailed_kept hw17)
      · rename_i w27 w28
        exact emit_kept hw17

theorem rmwSector_kept {pq : List Instr} {sector : Nat} {u : MemUpset} {s : State} (h_s : Kept pq s) : Kept pq (rmwSector sector u s) := by
  unfold rmwSector
  split
  rename_i w2 w3 w4 w5 w6
  refine on_use (P := (OnSnd (OnSnd (Kept pq)))) w6 ?_ (fun hw6 => ?_)
  · exact fetchSector_kept h_s
  split
  · rename_i w10 w11
    refine on_ite ?_ ?_
    · exact memUncorrectable_kept hw6
    · exact loseSector_kept (readFailed_kept hw6)
  · rename_i w18 w19
    exact rmwPart_kept hw6

theorem execMemoryWrite_kept {pq : List Instr} {addr : Nat} {writer : MemWriter} {data : List Byte} {u : MemUpset} {s : State} (h_s : Kept pq s) : (OnNext (Kept pq)) (execMemoryWrite addr writer data u s) := by
  unfold execMemoryWrite
  extract_lets v2 v3 v4 v5
  clear_value v2 v3 v4
  have hv5 : Kept pq v5 := by
    unfold v5
    split
    · rename_i w7 w8 w9
      exact rmwSector_kept (wcSet_kept h_s)
    · rename_i w13 w14
      exact h_s
  clear_value v5
  refine on_next ?_
  refine on_ite ?_ ?_
  · exact h_s
  · refine on_ite ?_ ?_
    · exact emit_kept h_s
    · exact emit_kept (devWriteSector_kept hv5)

theorem execWcEvictTimeout_kept {pq : List Instr} {ctl : Nat} {u : MemUpset} {s : State} (h_s : Kept pq s) : (OnNext (Kept pq)) (execWcEvictTimeout ctl u s) := by
  unfold execWcEvictTimeout
  refine on_next ?_
  split
  · rename_i w3 w4
    exact h_s
  · rename_i w6 w7 w8 w9
    refine on_ite ?_ ?_
    · exact rmwSector_kept (wcSet_kept h_s)
    · exact h_s

theorem execCorrectedWriteback_kept {pq : List Instr} {w : WriteBack} {s : State} (h_s : Kept pq s) : (OnNext (Kept pq)) (execCorrectedWriteback w s) := by
  unfold execCorrectedWriteback
  refine on_next ?_
  refine on_ite ?_ ?_
  · exact partWrite_kept ⟨h_s.1, h_s.2.1, h_s.2.2⟩
  · exact h_s

theorem execScrubRead_kept {pq : List Instr} {sector : Nat} {u : MemUpset} {s : State} (h_s : Kept pq s) : (OnNext (Kept pq)) (execScrubRead sector u s) := by
  unfold execScrubRead
  extract_lets v2
  clear_value v2
  refine on_next ?_
  refine on_ite ?_ ?_
  · exact h_s
  · split
    rename_i w7 w8 w9 w10 w11
    refine on_use (P := (OnSnd (OnSnd (Kept pq)))) w11 ?_ (fun hw11 => ?_)
    · exact fetchSector_kept h_s
    split
    · rename_i w15 w16
      extract_lets v18 v19 v20
      have hv18 : Kept pq v18 := by
        unfold v18
        exact fbump_kept (memcErr_kept hw11)
      clear_value v18
      have hv19 : Kept pq v19 := by
        unfold v19
        exact memcRecord_kept hv18
      clear_value v19
      have hv20 : Kept pq v20 := by
        unfold v20
        exact loseSector_kept hv19
      clear_value v20
      refine on_ite ?_ ?_
      · exact hv19
      · refine on_ite ?_ ?_
        · exact hv20
        · exact queueRepair_kept hv20
    · rename_i w34 w35
      exact hw11

theorem setMinMem_kept {pq : List Instr} {s : State} (h_s : Kept pq s) : Kept pq (setMinMem s) := by
  unfold setMinMem
  extract_lets v2
  clear_value v2
  exact fset_kept h_s

theorem execMemcRetrain_kept {pq : List Instr} {c : MemChan} {s : State} (h_s : Kept pq s) : (OnNext (Kept pq)) (execMemcRetrain c s) := by
  unfold execMemcRetrain
  refine on_next ?_
  split
  · rename_i w3 w4 w5
    refine on_ite ?_ ?_
    · exact fset_kept ⟨h_s.1, h_s.2.1, h_s.2.2⟩
    · exact h_s
  · rename_i w10 w11
    exact h_s

theorem memFailed_kept {pq : List Instr} {ctl : Nat} {s : State} (h_s : Kept pq s) : Kept pq (memFailed ctl s) := by
  unfold memFailed
  extract_lets v2 v3
  have hv2 : Kept pq v2 := by
    unfold v2
    refine on_foldl ?_ (fun t5 _ h6 => ?_)
    · exact h_s
    · exact fset_kept (fset_kept h6)
  clear_value v2
  have hv3 : Kept pq v3 := by
    unfold v3
    refine on_ite ?_ ?_
    · exact fset_kept hv2
    · exact fset_kept hv2
  clear_value v3
  exact hubFail_kept (logErr_kept (setMinMem_kept hv3))

theorem execMemcRetrainDone_kept {pq : List Instr} {c : MemChan} {rate : Nat} {s : State} (h_s : Kept pq s) : (OnNext (Kept pq)) (execMemcRetrainDone c rate s) := by
  unfold execMemcRetrainDone
  extract_lets v2 v3 v4 v5
  have hv2 : Kept pq v2 := by
    unfold v2
    exact ⟨h_s.1, h_s.2.1, h_s.2.2⟩
  clear_value v2 v3
  have hv4 : Kept pq v4 := by
    unfold v4
    refine on_ite ?_ ?_
    · exact hv2
    · exact fset_kept hv2
  clear_value v4
  have hv5 : Kept pq v5 := by
    unfold v5
    refine setMinMem_kept ?_
    refine on_foldl ?_ (fun t13 _ h14 => ?_)
    · exact hv4
    · exact fset_kept h14
  clear_value v5
  refine on_next ?_
  refine on_ite ?_ ?_
  · exact h_s
  · refine on_ite ?_ ?_
    · exact memFailed_kept hv2
    · refine on_ite ?_ ?_
      · exact hv4
      · exact logErr_kept hv5

theorem setRepair_kept {pq : List Instr} {c : Nat} {s : State} (h_s : Kept pq s) : Kept pq (setRepair c s) := by
  unfold setRepair
  exact fset_kept (fset_kept h_s)

theorem repairRow_kept {pq : List Instr} {sector : Nat} {s : State} (h_s : Kept pq s) : Kept pq (repairRow sector s) := by
  unfold repairRow
  extract_lets v2 v3 v4
  clear_value v2
  have hv3 : ∀ y0, Kept pq y0 → Kept pq (v3 y0) := by
    unfold v3
    intro a5 a6
    exact retirePage_kept (memcRecord_kept (memcErr_kept a6))
  clear_value v3
  have hv4 : ∀ y0 y1, Kept pq y1 → Kept pq (v4 y0 y1) := by
    unfold v4
    intro a11 a12 a13
    extract_lets v15 v16
    clear_value v15 v16
    exact setRepair_kept (ledgerWrite_kept ⟨a13.1, a13.2.1, a13.2.2⟩)
  clear_value v4
  split
  rename_i w21 w22 w23 w24 w25
  split
  · rename_i w27 w28 w29 w30 w31
    refine on_ite ?_ ?_
    · exact hv3 _ h_s
    · exact hv4 _ _ h_s
  · rename_i w37 w38 w39 w40
    exact hv3 _ h_s
  · rename_i w43 w44 w45 w46
    refine on_ite ?_ ?_
    · exact retirePage_kept h_s
    · split
      · rename_i w51 w52 w53
        refine on_ite ?_ ?_
        · exact hv3 _ h_s
        · exact hv4 _ _ h_s
      · rename_i w59 w60
        exact hv3 _ h_s

theorem execRowRepair_kept {pq : List Instr} {ctl : Nat} {s : State} (h_s : Kept pq s) : (OnNext (Kept pq)) (execRowRepair ctl s) := by
  unfold execRowRepair
  refine on_next ?_
  split
  · rename_i w3 w4
    exact h_s
  · rename_i w6 w7 w8
    refine on_ite ?_ ?_
    · exact h_s
    · exact repairRow_kept (setQueued_kept ⟨h_s.1, h_s.2.1, h_s.2.2⟩)

theorem ledgerDone_kept {pq : List Instr} {s : State} (h_s : Kept pq s) : Kept pq (ledgerDone s) := by
  unfold ledgerDone
  split
  · rename_i w2 w3
    exact h_s
  · rename_i w5 w6 w7
    extract_lets v9 v10 v11 v12
    have hv10 : Kept pq v10 := by
      unfold v10
      refine on_ite ?_ ?_
      · exact ⟨h_s.1, h_s.2.1, h_s.2.2⟩
      · exact ⟨h_s.1, h_s.2.1, h_s.2.2⟩
    clear_value v10 v11
    have hv12 : Kept pq v12 := by
      unfold v12
      refine on_foldl ?_ (fun t17 _ h18 => ?_)
      · exact ⟨hv10.1, hv10.2.1, hv10.2.2⟩
      · exact reportPage_kept h18
    clear_value v12
    refine on_ite ?_ ?_
    · exact ledgerWrite_kept hv12
    · exact hv12

theorem writeMemClear_kept {pq : List Instr} {v : Word} {s : State} (h_s : Kept pq s) : Kept pq (writeMemClear v s) := by
  unfold writeMemClear
  extract_lets v2 v3
  clear_value v2
  have hv3 : Kept pq v3 := by
    unfold v3
    exact fset_kept h_s
  clear_value v3
  refine on_ite ?_ ?_
  · exact hv3
  · refine on_ite ?_ ?_
    · exact logErr_kept hv3
    · exact clearBegin_kept hv3

theorem execMemClearStart_kept {pq : List Instr} {v : Word} {s : State} (h_s : Kept pq s) : (OnNext (Kept pq)) (execMemClearStart v s) := by
  unfold execMemClearStart
  refine on_next ?_
  refine on_ite ?_ ?_
  · exact writeMemClear_kept h_s
  · exact h_s

theorem execMemClear_kept {pq : List Instr} {cmd : Nat} {s : State} (h_s : Kept pq s) : (OnNext (Kept pq)) (execMemClear cmd s) := by
  unfold execMemClear
  refine on_next ?_
  refine startOp_kept ?_ ?_
  · intro a3 a4 a5
    extract_lets v7
    clear_value v7
    refine on_ite ?_ ?_
    · exact on_mk a5
    · exact on_mk (clearBegin_kept a5)
  · exact h_s

theorem execRetiredPages_kept {pq : List Instr} {cmd : Nat} {s : State} (h_s : Kept pq s) : (OnNext (Kept pq)) (execRetiredPages cmd s) := by
  unfold execRetiredPages
  refine on_next ?_
  refine startOp_kept ?_ ?_
  · intro a3 a4 a5
    extract_lets v7 v8 v9
    clear_value v7 v8 v9
    split
    · rename_i w11 w12 w13
      exact on_mk a5
    · rename_i w16 w17 w18 w19
      refine on_ite ?_ ?_
      · exact on_mk a5
      · exact on_mk (vaWrite_kept a5)
  · exact h_s

end Sys2Proof.Machine
end

