-- ==== Sys2Proof/Laws/KeptNet.lean ====
section
/-! SUPPORT. Laws/KeptNet.lean: what Machine/Net.lean keeps (Laws/Kept.lean says what that is). -/
namespace Sys2Proof.Machine

theorem traceRecord_kept {pq : List Instr} {ty : Nat} {crowded : Bool} {h : NetHop} {p : NetPkt} {s : State} (h_s : Kept pq s) : Kept pq (traceRecord ty crowded h p s) := by
  unfold traceRecord
  extract_lets v2 v3 v4 v5 v6 v7
  clear_value v2 v3 v4 v5
  have hv6 : Kept pq v6 := by
    unfold v6
    exact tickFresh_kept ⟨h_s.1, h_s.2.1, h_s.2.2⟩
  clear_value v6
  have hv7 : Kept pq v7 := by
    unfold v7
    exact fset_kept hv6
  clear_value v7
  refine on_ite ?_ ?_
  · exact h_s
  · refine on_ite ?_ ?_
    · exact fbump_kept h_s
    · refine on_ite ?_ ?_
      · exact fset_kept hv7
      · exact hv7

theorem leaveRouter.perfCountNet_kept {pq : List Instr} {f : Nat} {p : NetPkt} {s : State} (h_s : Kept pq s) : Kept pq (leaveRouter.perfCountNet f p s) := by
  unfold leaveRouter.perfCountNet
  refine on_ite ?_ ?_
  · exact perfCountHub_kept h_s
  · exact perfCount_kept h_s

theorem leaveRouter_kept {pq : List Instr} {ty : Nat} {p : NetPkt} {crowded : Bool} {s : State} {h : NetHop} (h_s : Kept pq s) : Kept pq (leaveRouter ty p crowded s h) := by
  unfold leaveRouter
  extract_lets v2 v3 v4 v5 v6 v7
  clear_value v2
  have hv3 : Kept pq v3 := by
    unfold v3
    exact leaveRouter.perfCountNet_kept h_s
  clear_value v3 v4 v5
  have hv6 : Kept pq v6 := by
    unfold v6
    refine on_ite ?_ ?_
    · exact fwrap_kept (fwrap_kept hv3)
    · exact hv3
  clear_value v6
  have hv7 : Kept pq v7 := by
    unfold v7
    refine on_ite ?_ ?_
    · exact fwrap_kept (fwrap_kept hv6)
    · exact hv6
  clear_value v7
  refine on_ite ?_ ?_
  · exact traceRecord_kept hv7
  · exact hv7

theorem leaveRouters_kept {pq : List Instr} {ty : Nat} {a : NetArr} {path : List NetHop} {s : State} (h_s : Kept pq s) : Kept pq (leaveRouters ty a path s) := by
  unfold leaveRouters
  refine on_foldl ?_ (fun t2 _ h3 => ?_)
  · exact h_s
  · exact leaveRouter_kept h3

theorem writeTrcCtrl_kept {pq : List Instr} {field : Nat} {v : Word} {s : State} (h_s : Kept pq s) : Kept pq (writeTrcCtrl field v s) := by
  unfold writeTrcCtrl
  extract_lets v2
  have hv2 : Kept pq v2 := by
    unfold v2
    exact fset_kept (fset_kept h_s)
  clear_value v2
  refine on_ite ?_ ?_
  · exact fset_kept (fset_kept hv2)
  · exact hv2

theorem execTrcCtrlArm_kept {pq : List Instr} {field : Nat} {v : Word} {s : State} (h_s : Kept pq s) : (OnNext (Kept pq)) (execTrcCtrlArm field v s) := by
  unfold execTrcCtrlArm
  exact on_next (writeTrcCtrl_kept h_s)

theorem writePrbFilt_kept {pq : List Instr} {b : Bool} {i : Nat} {v : Word} {s : State} (h_s : Kept pq s) : Kept pq (writePrbFilt b i v s) := by
  unfold writePrbFilt
  extract_lets v2 v3 v4
  clear_value v2 v3
  have hv4 : Kept pq v4 := by
    unfold v4
    exact rset_kept h_s
  clear_value v4
  refine on_ite ?_ ?_
  · exact hv4
  · refine on_ite ?_ ?_
    · exact fset_kept (fset_kept hv4)
    · exact fset_kept (fset_kept hv4)

theorem execPrbFilterEnable_kept {pq : List Instr} {b : Bool} {router : Nat} {v : Word} {s : State} (h_s : Kept pq s) : (OnNext (Kept pq)) (execPrbFilterEnable b router v s) := by
  unfold execPrbFilterEnable
  refine on_next ?_
  refine on_ite ?_ ?_
  · exact writePrbFilt_kept h_s
  · exact h_s

theorem netOpen_kept {pq : List Instr} {p : NetPkt} {write : Bool} {s : State} (h_s : Kept pq s) : Kept pq (netOpen p write s) := by
  unfold netOpen
  refine on_ite ?_ ?_
  · exact h_s
  · exact ⟨h_s.1, h_s.2.1, h_s.2.2⟩

theorem netClose_kept {pq : List Instr} {src : Nat} {tag : Nat} {s : State} (h_s : Kept pq s) : Kept pq (netClose src tag s) := by
  unfold netClose
  exact ⟨h_s.1, h_s.2.1, h_s.2.2⟩

theorem netMod_kept {pq : List Instr} {src : Nat} {tag : Nat} {f : NetReq → NetReq} {s : State} (h_s : Kept pq s) : Kept pq (netMod src tag f s) := by
  unfold netMod
  exact ⟨h_s.1, h_s.2.1, h_s.2.2⟩

theorem netAnswer_kept {pq : List Instr} {ty : Nat} {src : Nat} {tag : Nat} {status : Nat} {data : List Byte} {s : State} (h_s : Kept pq s) : Kept pq (netAnswer ty src tag status data s) := by
  unfold netAnswer
  split
  · rename_i w2 w3
    exact h_s
  · rename_i w5 w6 w7
    extract_lets v9 v10
    clear_value v9 v10
    refine on_ite ?_ ?_
    · exact h_s
    · exact emit_kept (netMod_kept h_s)

theorem netErr_kept {pq : List Instr} {p : NetPkt} {status : Nat} {s : State} (h_s : Kept pq s) : Kept pq (netErr p status s) := by
  unfold netErr
  extract_lets v2
  clear_value v2
  exact emit_kept (netMod_kept h_s)

theorem spoilAll_kept {pq : List Instr} {src : SpoilSrc} {injected : Bool} {s : State} (h_s : Kept pq s) : Kept pq (spoilAll src injected s) := by
  unfold spoilAll
  refine on_foldl ?_ (fun t2 _ h3 => ?_)
  · exact h_s
  · refine on_ite ?_ ?_
    · exact spoil_kept h3
    · exact h3

theorem badWordAt_kept {pq : List Instr} {ty : Nat} {h : NetHop} {header : Bool} {injected : Bool} {p : NetPkt} {s : State} (h_s : Kept pq s) : Kept pq (badWordAt ty h header injected p s) := by
  unfold badWordAt
  extract_lets v2 v3 v4 v5 v6
  clear_value v2
  have hv3 : Kept pq v3 := by
    unfold v3
    split
    · rename_i w8 w9 w10
      exact spoil_kept h_s
    · rename_i w13 w14
      exact h_s
  clear_value v3
  have hv4 : Kept pq v4 := by
    unfold v4
    exact logErr_kept hv3
  clear_value v4 v5 v6
  refine on_ite ?_ ?_
  · exact logErr_kept (spoilAll_kept h_s)
  · exact emit_kept hv4

theorem spendCredits_kept {pq : List Instr} {vc : Nat} {p : NetPkt} {path : List NetHop} {s : State} (h_s : Kept pq s) : Kept pq (spendCredits vc p path s) := by
  unfold spendCredits
  refine on_foldl ?_ (fun t2 _ h3 => ?_)
  · exact h_s
  · exact ⟨h3.1, h3.2.1, h3.2.2⟩

theorem netArrive_kept {pq : List Instr} {ty : Nat} {a : NetArr} {f : NetPkt → State → State} {s : State} (h_f : ∀ y0 y1, Kept pq y1 → Kept pq (f y0 y1)) (h_s : Kept pq s) : Kept pq (netArrive ty a f s) := by
  unfold netArrive
  extract_lets v2 v3 v4 v5
  clear_value v2 v3 v4 v5
  split
  · rename_i w7 w8 w9 w10
    refine on_ite ?_ ?_
    · exact h_s
    · exact logErr_kept h_s
  · rename_i w15 w16 w17 w18
    exact h_s
  · rename_i w20 w21 w22 w23 w24
    extract_lets v26 v27 v28 v29
    clear_value v26
    have hv27 : Kept pq v27 := by
      unfold v27
      refine on_ite ?_ ?_
      · exact injectUse_kept h_s
      · exact h_s
    clear_value v27 v28
    have hv29 : Kept pq v29 := by
      unfold v29
      exact spendCredits_kept (leaveRouters_kept hv27)
    clear_value v29
    refine on_ite ?_ ?_
    · exact h_s
    · split
      · rename_i w40 w41 w42 w43
        extract_lets v45
        have hv45 : Kept pq v45 := by
          unfold v45
          exact leaveRouters_kept hv27
        clear_value v45
        split
        · rename_i w49 w50 w51
          exact badWordAt_kept hv45
        · rename_i w54 w55
          exact hv45
      · rename_i w57
        refine on_ite ?_ ?_
        · refine on_ite ?_ ?_
          · exact hv29
          · refine on_ite ?_ ?_
            · exact hv29
            · exact netErr_kept hv29
        · refine on_ite ?_ ?_
          · exact logErr_kept (spoilAll_kept hv29)
          · exact h_f _ _ hv29

theorem execNetCreditReturn_kept {pq : List Instr} {field : Nat} {node : Nat} {port : Nat} {vc : Nat} {flits : Nat} {crossing : Option Nat} {s : State} (h_s : Kept pq s) : (OnNext (Kept pq)) (execNetCreditReturn field node port vc flits crossing s) := by
  unfold execNetCreditReturn
  extract_lets v2 v3 v4 v5
  clear_value v2 v3 v4 v5
  refine on_next ?_
  refine on_ite ?_ ?_
  · exact h_s
  · exact ⟨h_s.1, h_s.2.1, h_s.2.2⟩

theorem execNetInterfaceReady_kept {pq : List Instr} {bay : Nat} {s : State} (h_s : Kept pq s) : (OnNext (Kept pq)) (execNetInterfaceReady bay s) := by
  unfold execNetInterfaceReady
  extract_lets v2
  clear_value v2
  refine on_next ?_
  refine on_ite ?_ ?_
  · exact sweep_kept ⟨h_s.1, h_s.2.1, h_s.2.2⟩
  · exact h_s

theorem execTargetDeadline_kept {pq : List Instr} {src : Nat} {tag : Nat} {s : State} (h_s : Kept pq s) : (OnNext (Kept pq)) (execTargetDeadline src tag s) := by
  unfold execTargetDeadline
  refine on_next ?_
  split
  · rename_i w3 w4 w5
    extract_lets v7 v8
    clear_value v7 v8
    refine on_ite ?_ ?_
    · exact h_s
    · exact netMod_kept ⟨h_s.1, h_s.2.1, h_s.2.2⟩
  · rename_i w13 w14
    exact h_s

theorem execSluiceAgePromote_kept {pq : List Instr} {r : AgedReq} {s : State} (h_s : Kept pq s) : (OnNext (Kept pq)) (execSluiceAgePromote r s) := by
  unfold execSluiceAgePromote
  refine on_next ?_
  split
  · rename_i w3 w4 w5
    split
    · rename_i w7 w8 w9
      exact idnMod_kept h_s
    · rename_i w12 w13
      exact h_s
  · rename_i w15 w16 w17
    exact siteMod_kept h_s
  · rename_i w20 w21 w22
    exact netMod_kept h_s

theorem scarfDisable_kept {pq : List Instr} {field : Nat} {c : Nat} {s : State} (h_s : Kept pq s) : Kept pq (scarfDisable field c s) := by
  unfold scarfDisable
  extract_lets v2
  have hv2 : Kept pq v2 := by
    unfold v2
    exact fset_kept h_s
  clear_value v2
  refine on_ite ?_ ?_
  · exact hubFail_kept (logErr_kept hv2)
  · exact logErr_kept hv2

theorem execScarfQuickRetrain_kept {pq : List Instr} {field : Nat} {crossing : Nat} {corrected : Nat} {s : State} (h_s : Kept pq s) : (OnNext (Kept pq)) (execScarfQuickRetrain field crossing corrected s) := by
  unfold execScarfQuickRetrain
  extract_lets v2 v3
  clear_value v2
  have hv3 : Kept pq v3 := by
    unfold v3
    exact fbump_kept h_s
  clear_value v3
  refine on_next ?_
  refine on_ite ?_ ?_
  · exact h_s
  · refine on_ite ?_ ?_
    · exact fbump_kept (fset_kept hv3)
    · exact hv3

theorem execScarfRetrainDone_kept {pq : List Instr} {field : Nat} {bridge : Bridge} {ok : Bool} {lost : List (Nat × NetPkt)} {s : State} (h_s : Kept pq s) : (OnNext (Kept pq)) (execScarfRetrainDone field bridge ok lost s) := by
  unfold execScarfRetrainDone
  extract_lets v2 v3 v4
  clear_value v2 v3 v4
  refine on_next ?_
  refine on_ite ?_ ?_
  · exact h_s
  · refine on_ite ?_ ?_
    · exact fset_kept (fbump_kept ⟨h_s.1, h_s.2.1, h_s.2.2⟩)
    · refine scarfDisable_kept ?_
      refine on_foldl ?_ (fun t14 _ h15 => ?_)
      · exact h_s
      · exact badWordAt_kept h15

end Sys2Proof.Machine
end

