-- ==== Sys2Proof/Laws/KeptCoh.lean ====
section
/-! SUPPORT. Laws/KeptCoh.lean: what Machine/Coh.lean keeps (Laws/Kept.lean says what that is). -/
namespace Sys2Proof.Machine

theorem setBias_kept {pq : List Instr} {i : Nat} {page : Nat} {v : Nat} {s : State} (h_s : Kept pq s) : Kept pq (setBias i page v s) := by
  unfold setBias
  extract_lets v2
  clear_value v2
  exact rset_kept h_s

theorem sliceSet_kept {pq : List Instr} {i : Nat} {v : Slice} {s : State} (h_s : Kept pq s) : Kept pq (sliceSet i v s) := by
  unfold sliceSet
  exact ⟨h_s.1, h_s.2.1, h_s.2.2⟩

theorem sliceMod_kept {pq : List Instr} {i : Nat} {f : Slice → Slice} {s : State} (h_s : Kept pq s) : Kept pq (sliceMod i f s) := by
  unfold sliceMod
  exact sliceSet_kept h_s

theorem putLine_kept {pq : List Instr} {i : Nat} {l : CohLine} {s : State} (h_s : Kept pq s) : Kept pq (putLine i l s) := by
  unfold putLine
  extract_lets v2 v3 v4
  clear_value v2 v3 v4
  split
  · rename_i w6 w7
    exact sliceSet_kept h_s
  · rename_i w10 w11 w12
    extract_lets v14
    have hv14 : Kept pq v14 := by
      unfold v14
      exact sliceSet_kept h_s
    clear_value v14
    refine on_ite ?_ ?_
    · exact devStore_kept hv14
    · exact hv14

theorem landLine_kept {pq : List Instr} {i : Nat} {line : Nat} {data : List Byte} {s : State} (h_s : Kept pq s) : Kept pq (landLine i line data s) := by
  unfold landLine
  refine on_ite ?_ ?_
  · exact putLine_kept h_s
  · exact devStore_kept h_s

theorem siteServed_kept {pq : List Instr} {n : Nat} {m : Nat} {cls : Nat} {bytes : Nat} {s : State} (h_s : Kept pq s) : Kept pq (siteServed n m cls bytes s) := by
  unfold siteServed
  exact slcServe_kept (fwrap_kept h_s)

theorem hostServed_kept {pq : List Instr} {port : Nat} {cls : Nat} {bytes : Nat} {s : State} (h_s : Kept pq s) : Kept pq (hostServed port cls bytes s) := by
  unfold hostServed
  exact slcServe_kept (fwrap_kept h_s)

theorem answerOne_kept {pq : List Instr} {write : Bool} {part : Option Nat} {cls : Nat} {status : Nat} {data : List Byte} {s : State} {x6 : Asker} (h_s : Kept pq s) : Kept pq (answerOne write part cls status data s x6) := by
  unfold answerOne
  split
  · rename_i w2 w3 w4
    exact netAnswer_kept h_s
  · rename_i w7 w8
    extract_lets v10
    clear_value v10
    refine on_ite ?_ ?_
    · exact sendErr_kept h_s
    · exact sendPkt_kept h_s
  · rename_i w16 w17 w18 w19
    extract_lets v21
    clear_value v21
    exact emit_kept (siteServed_kept h_s)
  · rename_i w25 w26 w27
    exact emit_kept (siteServed_kept h_s)
  · rename_i w31 w32 w33
    exact emit_kept (hostServed_kept h_s)
  · rename_i w37 w38
    exact h_s
  · rename_i w40 w41 w42
    exact h_s

theorem answerTo_kept {pq : List Instr} {write : Bool} {part : Option Nat} {cls : Nat} {status : Nat} {data : List Byte} {s : State} {x6 : Asker} (h_s : Kept pq s) : Kept pq (answerTo write part cls status data s x6) := by
  unfold answerTo
  split
  · rename_i w2 w3 w4
    split
    · rename_i w6 w7
      exact h_s
    · rename_i w9 w10 w11
      extract_lets v13 v14
      clear_value v14
      refine on_ite ?_ ?_
      · exact ⟨h_s.1, h_s.2.1, h_s.2.2⟩
      · exact answerOne_kept ⟨h_s.1, h_s.2.1, h_s.2.2⟩
  · rename_i w19 w20
    exact answerOne_kept h_s

theorem cohSend_kept {pq : List Instr} {ty : Nat} {i : Nat} {agent : Nat} {line : Nat} {tag : Nat} {part : Option Nat} {cls : Nat} {data : List Byte} {s : State} (h_s : Kept pq s) : Kept pq (cohSend ty i agent line tag part cls data s) := by
  unfold cohSend
  exact emit_kept h_s

theorem cohAnswer_kept {pq : List Instr} {ty : Nat} {q : CohReq} {i : Nat} {status : Nat} {data : List Byte} {s : State} (h_s : Kept pq s) : Kept pq (cohAnswer ty q i status data s) := by
  unfold cohAnswer
  extract_lets v2
  clear_value v2
  refine on_ite ?_ ?_
  · exact h_s
  · exact emit_kept (netMod_kept h_s)

theorem cohReply_kept {pq : List Instr} {ty : Nat} {q : CohReq} {i : Nat} {data : List Byte} {s : State} (h_s : Kept pq s) : Kept pq (cohReply ty q i data s) := by
  unfold cohReply
  split
  · rename_i w2 w3 w4 w5 w6
    exact answerTo_kept h_s
  · rename_i w9 w10 w11
    exact cohAnswer_kept h_s

theorem cohErr_kept {pq : List Instr} {q : CohReq} {i : Nat} {status : Nat} {s : State} (h_s : Kept pq s) : Kept pq (cohErr q i status s) := by
  unfold cohErr
  split
  · rename_i w2 w3 w4
    exact answerTo_kept (netClose_kept h_s)
  · rename_i w8 w9
    exact cohAnswer_kept h_s

theorem sliceErr_kept {pq : List Instr} {i : Nat} {cause : Nat} {cls : Nat} {line : Nat} {p : Option Nat} {injected : Bool} {s : State} (h_s : Kept pq s) : Kept pq (sliceErr i cause cls line p injected s) := by
  unfold sliceErr
  extract_lets v2
  have hv2 : Kept pq v2 := by
    unfold v2
    exact firstErr_kept h_s
  clear_value v2
  exact logErr_kept hv2

theorem lineLost_kept {pq : List Instr} {i : Nat} {q : CohReq} {injected : Bool} {s : State} (h_s : Kept pq s) : Kept pq (lineLost i q injected s) := by
  unfold lineLost
  refine cohErr_kept ?_
  split
  · rename_i w3 w4 w5
    exact spoil_kept h_s
  · rename_i w8 w9
    exact h_s

theorem sliceCheck_kept {pq : List Instr} {i : Nat} {q : CohReq} {s : State} (h_s : Kept pq s) : (OnSnd (Kept pq)) (sliceCheck i q s) := by
  unfold sliceCheck
  extract_lets v2 v3 v4 v5 v6 v7 v8 v9
  clear_value v2 v3 v4 v5
  have hv6 : Kept pq v6 := by
    unfold v6
    refine on_ite ?_ ?_
    · exact injectUse_kept h_s
    · exact h_s
  clear_value v6
  have hv7 : Kept pq v7 := by
    unfold v7
    exact sliceErr_kept hv6
  clear_value v7
  have hv8 : Kept pq v8 := by
    unfold v8
    exact sliceErr_kept hv6
  clear_value v8
  have hv9 : Kept pq v9 := by
    unfold v9
    refine on_ite ?_ ?_
    · exact hv8
    · exact loseSector_kept (sliceMod_kept hv8)
  clear_value v9
  split
  · rename_i w24 w25
    exact on_mk (fbump_kept hv6)
  · rename_i w29 w30 w31
    refine on_ite ?_ ?_
    · exact on_mk (sliceMod_kept hv7)
    · exact on_mk (lineLost_kept hv9)
  · rename_i w39 w40
    exact on_mk (sliceErr_kept hv6)
  · rename_i w44 w45
    exact on_mk (hubFail_kept (sliceErr_kept hv6))
  · rename_i w50 w51 w52 w53 w54 w55
    exact on_mk hv6

theorem beginTxn_kept {pq : List Instr} {i : Nat} {line : Nat} {goal : CohGoal} {agents : List Nat} {inval : Bool} {s : State} (h_s : Kept pq s) : Kept pq (beginTxn i line goal agents inval s) := by
  unfold beginTxn
  split
  rename_i w2 w3 w4 w5
  extract_lets v7
  have hv7 : Kept pq v7 := by
    unfold v7
    exact sliceMod_kept h_s
  clear_value v7
  refine on_foldl ?_ (fun t11 _ h12 => ?_)
  · exact hv7
  · exact cohSend_kept h12

theorem endTxn_kept {pq : List Instr} {i : Nat} {line : Nat} {s : State} (h_s : Kept pq s) : Kept pq (endTxn i line s) := by
  unfold endTxn
  exact sliceMod_kept h_s

theorem awaitAck_kept {pq : List Instr} {i : Nat} {line : Nat} {agent : Nat} {q : CohReq} {s : State} (h_s : Kept pq s) : Kept pq (awaitAck i line agent q s) := by
  unfold awaitAck
  exact sliceMod_kept h_s

theorem serveNow_kept {pq : List Instr} {i : Nat} {q : CohReq} {s : State} (h_s : Kept pq s) : Kept pq (serveNow i q s) := by
  unfold serveNow
  extract_lets v2 v3 v4 v5 v6 v7 v8
  clear_value v2
  have hv3 : Kept pq v3 := by
    unfold v3
    exact endTxn_kept h_s
  clear_value v3
  have hv5 : Kept pq v5 := by
    unfold v5
    refine on_ite ?_ ?_
    · exact hv3
    · exact countReads_kept hv3
  clear_value v5 v6 v7 v8
  split
  · rename_i w16 w17
    refine on_ite ?_ ?_
    · exact cohReply_kept (putLine_kept hv3)
    · exact cohErr_kept (memUncorrectable_kept hv3)
  · rename_i w25 w26 w27
    extract_lets v29 v30 v31 v32
    have hv29 : Kept pq v29 := by
      unfold v29
      refine on_ite ?_ ?_
      · exact putLine_kept hv5
      · exact hv5
    clear_value v29 v30
    have hv31 : Kept pq v31 := by
      unfold v31
      refine on_ite ?_ ?_
      · exact putLine_kept hv29
      · exact landLine_kept hv29
    clear_value v31
    have hv32 : Kept pq v32 := by
      unfold v32
      exact cohReply_kept (putLine_kept hv29)
    clear_value v32
    refine on_ite ?_ ?_
    · exact cohReply_kept hv29
    · refine on_ite ?_ ?_
      · exact awaitAck_kept (cohReply_kept (sliceMod_kept hv29))
      · refine on_ite ?_ ?_
        · exact awaitAck_kept (cohReply_kept (sliceMod_kept hv29))
        · refine on_ite ?_ ?_
          · exact cohReply_kept hv31
          · refine on_ite ?_ ?_
            · exact cohSend_kept (sliceMod_kept hv32)
            · exact hv32

theorem takeBack_kept {pq : List Instr} {i : Nat} {q : CohReq} {s : State} (h_s : Kept pq s) : Kept pq (takeBack i q s) := by
  unfold takeBack
  extract_lets v2 v3 v4
  clear_value v2
  have hv3 : Kept pq v3 := by
    unfold v3
    refine on_ite ?_ ?_
    · exact putLine_kept h_s
    · exact h_s
  clear_value v3
  have hv4 : Kept pq v4 := by
    unfold v4
    refine on_ite ?_ ?_
    · exact h_s
    · exact sliceMod_kept hv3
  clear_value v4
  exact cohReply_kept hv4

theorem startReq_kept {pq : List Instr} {i : Nat} {q : CohReq} {s : State} (h_s : Kept pq s) : Kept pq (startReq i q s) := by
  unfold startReq
  extract_lets v2 v3 v4
  have hv2 : Kept pq v2 := by
    unfold v2
    exact sliceMod_kept h_s
  clear_value v2 v3
  have hv4 : Kept pq v4 := by
    unfold v4
    split
    · rename_i w8 w9 w10
      exact perfCount_kept hv2
    · rename_i w13 w14
      exact perfCountHub_kept hv2
  clear_value v4
  refine on_ite ?_ ?_
  · exact takeBack_kept hv2
  · split
    rename_i w21 w22 w23 w24
    refine on_use (P := (OnSnd (Kept pq))) w24 ?_ (fun hw24 => ?_)
    · exact sliceCheck_kept hv4
    refine on_ite ?_ ?_
    · exact hw24
    · split
      rename_i w30 w31 w32 w33
      refine on_ite ?_ ?_
      · exact serveNow_kept hw24
      · exact beginTxn_kept hw24

theorem cohPump_kept {pq : List Instr} {i : Nat} {x1 : Nat} {x2 : State} (h_x2 : Kept pq x2) : Kept pq (cohPump i x1 x2) := by
  induction x1 generalizing i x2 h_x2 with
  | zero =>
    unfold cohPump
    exact h_x2
  | succ m ih =>
    unfold cohPump
    extract_lets v3
    clear_value v3
    split
    · rename_i w5 w6
      exact h_x2
    · rename_i w8 w9 w10
      refine on_ite ?_ ?_
      · split
        · rename_i w13 w14 w15
          exact beginTxn_kept h_x2
        · rename_i w18 w19
          exact h_x2
      · exact ih (startReq_kept (sliceSet_kept h_x2))

theorem flipCheck_kept {pq : List Instr} {s : State} (h_s : Kept pq s) : Kept pq (flipCheck s) := by
  unfold flipCheck
  split
  · rename_i w2 w3
    exact h_s
  · rename_i w5 w6 w7 w8
    extract_lets v10
    clear_value v10
    refine on_ite ?_ ?_
    · exact h_s
    · exact fset_kept (setBias_kept ⟨h_s.1, h_s.2.1, h_s.2.2⟩)

theorem cohRun_kept {pq : List Instr} {i : Nat} {s : State} (h_s : Kept pq s) : Kept pq (cohRun i s) := by
  unfold cohRun
  extract_lets v2 v3 v4
  have hv2 : Kept pq v2 := by
    unfold v2
    refine on_foldl ?_ (fun t6 _ h7 => ?_)
    · exact h_s
    · exact beginTxn_kept h7
  clear_value v2
  have hv3 : Kept pq v3 := by
    unfold v3
    refine on_foldl ?_ (fun t12 _ h13 => ?_)
    · exact hv2
    · exact beginTxn_kept h13
  clear_value v3
  have hv4 : Kept pq v4 := by
    unfold v4
    exact flipCheck_kept (cohPump_kept hv3)
  clear_value v4
  refine on_ite ?_ ?_
  · exact sweep_kept hv4
  · exact hv4

theorem snoopAnswered_kept {pq : List Instr} {i : Nat} {line : Nat} {agent : Nat} {data : List Byte} {s : State} (h_s : Kept pq s) : Kept pq (snoopAnswered i line agent data s) := by
  unfold snoopAnswered
  split
  · rename_i w2 w3
    exact h_s
  · rename_i w5 w6 w7
    extract_lets v9 v10 v11 v12
    have hv9 : Kept pq v9 := by
      unfold v9
      refine on_ite ?_ ?_
      · exact h_s
      · exact landLine_kept h_s
    clear_value v9 v10 v11
    have hv12 : Kept pq v12 := by
      unfold v12
      exact sliceMod_kept hv9
    clear_value v12
    refine on_ite ?_ ?_
    · refine cohRun_kept ?_
      split
      · rename_i w22 w23 w24
        exact serveNow_kept hv12
      · rename_i w27 w28
        exact endTxn_kept hv12
    · exact hv12

theorem cohRequest_kept {pq : List Instr} {q : CohReq} {s : State} (h_s : Kept pq s) : Kept pq (cohRequest q s) := by
  unfold cohRequest
  extract_lets v2 v3
  clear_value v2
  refine on_ite ?_ ?_
  · exact cohErr_kept h_s
  · refine on_ite ?_ ?_
    · exact cohErr_kept h_s
    · refine on_ite ?_ ?_
      · exact cohErr_kept h_s
      · refine on_ite ?_ ?_
        · exact h_s
        · exact cohRun_kept (sliceMod_kept h_s)

theorem cohArrive_kept {pq : List Instr} {ty : Nat} {a : NetArr} {upset : Nat} {s : State} (h_s : Kept pq s) : (OnNext (Kept pq)) (cohArrive ty a upset s) := by
  unfold cohArrive
  extract_lets v2 v3
  clear_value v2 v3
  refine on_next ?_
  refine on_ite ?_ ?_
  · exact h_s
  · refine netArrive_kept ?_ ?_
    · intro a8 a9 a10
      exact cohRequest_kept a10
    · exact netOpen_kept h_s

theorem execRdcur_kept {pq : List Instr} {a : NetArr} {upset : Nat} {s : State} (h_s : Kept pq s) : (OnNext (Kept pq)) (execRdcur a upset s) := by
  unfold execRdcur
  exact cohArrive_kept h_s

theorem execRdshr_kept {pq : List Instr} {a : NetArr} {upset : Nat} {s : State} (h_s : Kept pq s) : (OnNext (Kept pq)) (execRdshr a upset s) := by
  unfold execRdshr
  exact cohArrive_kept h_s

theorem execRdown_kept {pq : List Instr} {a : NetArr} {upset : Nat} {s : State} (h_s : Kept pq s) : (OnNext (Kept pq)) (execRdown a upset s) := by
  unfold execRdown
  exact cohArrive_kept h_s

theorem execWrinv_kept {pq : List Instr} {a : NetArr} {upset : Nat} {s : State} (h_s : Kept pq s) : (OnNext (Kept pq)) (execWrinv a upset s) := by
  unfold execWrinv
  exact cohArrive_kept h_s

theorem execWrhint_kept {pq : List Instr} {a : NetArr} {upset : Nat} {s : State} (h_s : Kept pq s) : (OnNext (Kept pq)) (execWrhint a upset s) := by
  unfold execWrhint
  exact cohArrive_kept h_s

theorem execEvict_kept {pq : List Instr} {a : NetArr} {s : State} (h_s : Kept pq s) : (OnNext (Kept pq)) (execEvict a s) := by
  unfold execEvict
  exact cohArrive_kept h_s

theorem execWbdata_kept {pq : List Instr} {a : NetArr} {s : State} (h_s : Kept pq s) : (OnNext (Kept pq)) (execWbdata a s) := by
  unfold execWbdata
  exact cohArrive_kept h_s

theorem execSnprsp_kept {pq : List Instr} {a : NetArr} {s : State} (h_s : Kept pq s) : (OnNext (Kept pq)) (execSnprsp a s) := by
  unfold execSnprsp
  refine on_next ?_
  refine netArrive_kept ?_ ?_
  · intro a3 a4 a5
    exact snoopAnswered_kept a5
  · exact h_s

theorem cmpAck_kept {pq : List Instr} {line : Nat} {agent : Nat} {s : State} (h_s : Kept pq s) : Kept pq (cmpAck line agent s) := by
  unfold cmpAck
  extract_lets v2
  clear_value v2
  refine on_ite ?_ ?_
  · exact cohRun_kept (endTxn_kept h_s)
  · exact h_s

theorem execCmpack_kept {pq : List Instr} {a : NetArr} {s : State} (h_s : Kept pq s) : (OnNext (Kept pq)) (execCmpack a s) := by
  unfold execCmpack
  refine on_next ?_
  refine netArrive_kept ?_ ?_
  · intro a3 a4 a5
    exact cmpAck_kept a5
  · exact h_s

theorem pushAnswered_kept {pq : List Instr} {line : Nat} {agent : Nat} {ok : Bool} {s : State} (h_s : Kept pq s) : Kept pq (pushAnswered line agent ok s) := by
  unfold pushAnswered
  extract_lets v2 v3 v4
  clear_value v2 v3 v4
  refine on_ite ?_ ?_
  · exact h_s
  · exact cohRun_kept (sliceSet_kept h_s)

theorem execPushrsp_kept {pq : List Instr} {a : NetArr} {ok : Bool} {s : State} (h_s : Kept pq s) : (OnNext (Kept pq)) (execPushrsp a ok s) := by
  unfold execPushrsp
  refine on_next ?_
  refine netArrive_kept ?_ ?_
  · intro a3 a4 a5
    exact pushAnswered_kept a5
  · exact h_s

theorem rangeEnabled_kept {pq : List Instr} {i : Nat} {s : State} (h_s : Kept pq s) : Kept pq (rangeEnabled i s) := by
  unfold rangeEnabled
  extract_lets v2
  have hv2 : Kept pq v2 := by
    unfold v2
    refine on_foldl ?_ (fun t4 _ h5 => ?_)
    · exact h_s
    · exact rset_kept h5
  clear_value v2
  refine on_ite ?_ ?_
  · exact logErr_kept hv2
  · exact hv2

theorem writeCohRange_kept {pq : List Instr} {i : Nat} {v : Word} {s : State} (h_s : Kept pq s) : Kept pq (writeCohRange i v s) := by
  unfold writeCohRange
  extract_lets v2 v3 v4 v5
  clear_value v2 v3
  have hv4 : Kept pq v4 := by
    unfold v4
    refine on_ite ?_ ?_
    · exact rset_kept h_s
    · exact h_s
  clear_value v4
  have hv5 : Kept pq v5 := by
    unfold v5
    exact fset_kept (fset_kept hv4)
  clear_value v5
  refine on_ite ?_ ?_
  · exact logRefused_kept h_s
  · refine on_ite ?_ ?_
    · refine on_ite ?_ ?_
      · exact hv4
      · exact rangeEnabled_kept (fset_kept hv4)
    · refine on_ite ?_ ?_
      · refine on_foldl ?_ (fun t24 _ h25 => ?_)
        · exact hv5
        · exact cohRun_kept h25
      · exact hv4

theorem writeCohRangeAddr_kept {pq : List Instr} {i : Nat} {v : Word} {s : State} (h_s : Kept pq s) : Kept pq (writeCohRangeAddr i v s) := by
  unfold writeCohRangeAddr
  refine on_ite ?_ ?_
  · exact logRefused_kept h_s
  · refine on_ite ?_ ?_
    · exact h_s
    · exact rset_kept h_s

theorem execCohRangeDisable_kept {pq : List Instr} {range : Nat} {v : Word} {s : State} (h_s : Kept pq s) : (OnNext (Kept pq)) (execCohRangeDisable range v s) := by
  unfold execCohRangeDisable
  refine on_next ?_
  refine on_ite ?_ ?_
  · exact writeCohRange_kept h_s
  · exact h_s

theorem execCohRangeFlushDone_kept {pq : List Instr} {range : Nat} {s : State} (h_s : Kept pq s) : (OnNext (Kept pq)) (execCohRangeFlushDone range s) := by
  unfold execCohRangeFlushDone
  extract_lets v2 v3
  clear_value v2
  have hv3 : Kept pq v3 := by
    unfold v3
    refine on_foldl ?_ (fun t5 _ h6 => ?_)
    · exact h_s
    · extract_lets v9 v10
      clear_value v9
      have hv10 : Kept pq v10 := by
        unfold v10
        refine on_foldl ?_ (fun t12 _ h13 => ?_)
        · exact h6
        · exact devStore_kept h13
      clear_value v10
      exact sliceMod_kept hv10
  clear_value v3
  refine on_next ?_
  refine on_ite ?_ ?_
  · exact h_s
  · refine on_ite ?_ ?_
    · exact h_s
    · exact fset_kept hv3

end Sys2Proof.Machine
end

