-- ==== Sys2Proof/Laws/KeptMortise.lean ====
section
/-! SUPPORT. Laws/KeptMortise.lean: what Machine/Mortise.lean keeps (Laws/Kept.lean says what that is). -/
namespace Sys2Proof.Machine

theorem sitePins_kept {pq : List Instr} {n : Nat} {pwr : Nat} {rst : Nat} {clk : Nat} {s : State} (h_s : Kept pq s) : Kept pq (sitePins n pwr rst clk s) := by
  unfold sitePins
  exact emit_kept h_s

theorem siteSpoil_kept {pq : List Instr} {n : Nat} {s : State} (h_s : Kept pq s) : Kept pq (siteSpoil n s) := by
  unfold siteSpoil
  split
  · rename_i w2 w3 w4
    exact spoil_kept h_s
  · rename_i w7 w8
    exact h_s

theorem siteRecord_kept {pq : List Instr} {n : Nat} {kind : Nat} {cls : Nat} {s : State} (h_s : Kept pq s) : Kept pq (siteRecord n kind cls s) := by
  unfold siteRecord
  exact logErr_kept h_s

theorem siteErr_kept {pq : List Instr} {n : Nat} {cause : Nat} {module : Nat} {cls : Nat} {s : State} (h_s : Kept pq s) : Kept pq (siteErr n cause module cls s) := by
  unfold siteErr
  exact siteRecord_kept (firstErr_kept h_s)

theorem endAsks_kept {pq : List Instr} {n : Nat} {status : Nat} {s : State} (h_s : Kept pq s) : Kept pq (endAsks n status s) := by
  unfold endAsks
  extract_lets v2 v3
  clear_value v2
  have hv3 : Kept pq v3 := by
    unfold v3
    refine on_foldl ?_ (fun t5 _ h6 => ?_)
    · exact siteSet_kept h_s
    · exact answerTo_kept h6
  clear_value v3
  refine on_foldl ?_ (fun t12 _ h13 => ?_)
  · exact hv3
  · exact answerTo_kept h13

theorem siteWidths_kept {pq : List Instr} {n : Nat} {s : State} (h_s : Kept pq s) : Kept pq (siteWidths n s) := by
  unfold siteWidths
  extract_lets v2 v3 v4 v5
  clear_value v2 v3
  have hv4 : Kept pq v4 := by
    unfold v4
    exact fset_kept h_s
  clear_value v4 v5
  refine on_ite ?_ ?_
  · exact hv4
  · exact siteRecord_kept (siteMod_kept hv4)

theorem setModule_kept {pq : List Instr} {n : Nat} {k : Nat} {st : Nat} {s : State} (h_s : Kept pq s) : Kept pq (setModule n k st s) := by
  unfold setModule
  exact fset_kept h_s

theorem moduleDown_kept {pq : List Instr} {n : Nat} {k : Nat} {s : State} (h_s : Kept pq s) : Kept pq (moduleDown n k s) := by
  unfold moduleDown
  exact fset_kept (setModule_kept h_s)

theorem sendToSite_kept {pq : List Instr} {n : Nat} {w : SiteWait} {k : Nat} {s : State} (h_s : Kept pq s) : Kept pq (sendToSite n w k s) := by
  unfold sendToSite
  extract_lets v2 v3 v4 v5 v6 v7 v8
  clear_value v2 v3 v4
  have hv5 : Kept pq v5 := by
    unfold v5
    exact siteSet_kept h_s
  clear_value v5 v6 v7 v8
  exact emit_kept (slcServe_kept (fwrap_kept hv5))

theorem sitePump_kept {pq : List Instr} {n : Nat} {x1 : Nat} {x2 : State} (h_x2 : Kept pq x2) : Kept pq (sitePump n x1 x2) := by
  induction x1 generalizing n x2 h_x2 with
  | zero =>
    unfold sitePump
    exact h_x2
  | succ m ih =>
    unfold sitePump
    split
    · rename_i w3 w4 w5 w6
      exact ih (sendToSite_kept h_x2)
    · rename_i w10 w11
      exact h_x2

theorem siteRun_kept {pq : List Instr} {n : Nat} {s : State} (h_s : Kept pq s) : Kept pq (siteRun n s) := by
  unfold siteRun
  extract_lets v2 v3
  have hv2 : Kept pq v2 := by
    unfold v2
    exact sitePump_kept h_s
  clear_value v2 v3
  refine on_foldl ?_ (fun t7 _ h8 => ?_)
  · exact siteMod_kept hv2
  · exact answerTo_kept h8

theorem toSite_kept {pq : List Instr} {n : Nat} {r : Nat} {a : Nat} {len : Nat} {write : Bool} {data : List Byte} {part : Option Nat} {cls : Nat} {urgent : Bool} {who : Asker} {s : State} (h_s : Kept pq s) : Kept pq (toSite n r a len write data part cls urgent who s) := by
  unfold toSite
  exact siteRun_kept (siteMod_kept h_s)

theorem modulesTo_kept {pq : List Instr} {n : Nat} {st : Nat} {s : State} (h_s : Kept pq s) : Kept pq (modulesTo n st s) := by
  unfold modulesTo
  refine on_foldl ?_ (fun t2 _ h3 => ?_)
  · exact h_s
  · exact fset_kept (fset_kept (setModule_kept h3))

theorem siteQuiet_kept {pq : List Instr} {n : Nat} {s : State} (h_s : Kept pq s) : Kept pq (siteQuiet n s) := by
  unfold siteQuiet
  extract_lets v2
  have hv2 : Kept pq v2 := by
    unfold v2
    exact siteMod_kept h_s
  clear_value v2
  exact fset_kept (fset_kept hv2)

theorem leaveReady_kept {pq : List Instr} {n : Nat} {s : State} (h_s : Kept pq s) : Kept pq (leaveReady n s) := by
  unfold leaveReady
  refine on_ite ?_ ?_
  · exact endAsks_kept (siteSpoil_kept h_s)
  · exact h_s

theorem siteStop_kept {pq : List Instr} {n : Nat} {state : Nat} {kind : Nat} {cause : Nat} {s : State} (h_s : Kept pq s) : Kept pq (siteStop n state kind cause s) := by
  unfold siteStop
  extract_lets v2 v3 v4 v5
  clear_value v2
  have hv3 : Kept pq v3 := by
    unfold v3
    exact leaveReady_kept h_s
  clear_value v3
  have hv4 : Kept pq v4 := by
    unfold v4
    exact modulesTo_kept (siteQuiet_kept hv3)
  clear_value v4
  have hv5 : Kept pq v5 := by
    unfold v5
    exact fset_kept (fset_kept hv4)
  clear_value v5
  exact siteWidths_kept (siteRecord_kept (sitePins_kept hv5))

theorem siteFault_kept {pq : List Instr} {n : Nat} {cause : Nat} {s : State} (h_s : Kept pq s) : Kept pq (siteFault n cause s) := by
  unfold siteFault
  exact siteStop_kept h_s

theorem siteSend_kept {pq : List Instr} {n : Nat} {op : Nat} {payload : List Byte} {s : State} (h_s : Kept pq s) : Kept pq (siteSend n op payload s) := by
  unfold siteSend
  extract_lets v2
  clear_value v2
  refine on_ite ?_ ?_
  · exact h_s
  · exact emit_kept (siteSet_kept h_s)

theorem siteReply_kept {pq : List Instr} {n : Nat} {op : Nat} {tag : Nat} {status : Nat} {f : SiteMsg → State → State} {s : State} (h_f : ∀ y0 y1, Kept pq y1 → Kept pq (f y0 y1)) (h_s : Kept pq s) : Kept pq (siteReply n op tag status f s) := by
  unfold siteReply
  refine on_ite ?_ ?_
  · exact h_s
  · split
    · rename_i w4 w5
      exact siteErr_kept h_s
    · rename_i w8 w9 w10
      refine on_ite ?_ ?_
      · exact h_s
      · exact h_f _ _ (siteMod_kept h_s)

theorem sendAssign_kept {pq : List Instr} {n : Nat} {s : State} (h_s : Kept pq s) : Kept pq (sendAssign n s) := by
  unfold sendAssign
  extract_lets v2 v3 v4
  clear_value v2 v3
  have hv4 : Kept pq v4 := by
    unfold v4
    exact siteSend_kept h_s
  clear_value v4
  exact siteMod_kept hv4

theorem sendWidth_kept {pq : List Instr} {n : Nat} {s : State} (h_s : Kept pq s) : Kept pq (sendWidth n s) := by
  unfold sendWidth
  exact siteSend_kept h_s

theorem sitePower_kept {pq : List Instr} {n : Nat} {s : State} (h_s : Kept pq s) : Kept pq (sitePower n s) := by
  unfold sitePower
  extract_lets v2
  have hv2 : Kept pq v2 := by
    unfold v2
    exact modulesTo_kept (siteQuiet_kept h_s)
  clear_value v2
  exact sitePins_kept (fset_kept hv2)

theorem siteReset_kept {pq : List Instr} {n : Nat} {s : State} (h_s : Kept pq s) : Kept pq (siteReset n s) := by
  unfold siteReset
  extract_lets v2 v3
  have hv2 : Kept pq v2 := by
    unfold v2
    exact modulesTo_kept (siteQuiet_kept (leaveReady_kept h_s))
  clear_value v2
  have hv3 : Kept pq v3 := by
    unfold v3
    exact fset_kept (fset_kept (fset_kept hv2))
  clear_value v3
  exact siteWidths_kept (sitePins_kept hv3)

theorem siteDownEnd_kept {pq : List Instr} {n : Nat} {d : SiteDown} {s : State} (h_s : Kept pq s) : Kept pq (siteDownEnd n d s) := by
  unfold siteDownEnd
  split
  · rename_i w2
    exact siteReset_kept h_s
  · rename_i w5
    extract_lets v7 v8 v9 v10 v11
    have hv7 : Kept pq v7 := by
      unfold v7
      exact modulesTo_kept (siteQuiet_kept (leaveReady_kept h_s))
    clear_value v7
    have hv8 : Kept pq v8 := by
      unfold v8
      exact fset_kept (sitePins_kept (fset_kept hv7))
    clear_value v8 v9
    have hv10 : Kept pq v10 := by
      unfold v10
      exact siteSet_kept hv8
    clear_value v10
    have hv11 : Kept pq v11 := by
      unfold v11
      split
      · rename_i w23 w24 w25
        exact rset_kept hv10
      · rename_i w28 w29
        exact hv10
    clear_value v11
    exact siteWidths_kept (sitePower_kept hv11)

theorem siteGoDown_kept {pq : List Instr} {n : Nat} {d : SiteDown} {s : State} (h_s : Kept pq s) : Kept pq (siteGoDown n d s) := by
  unfold siteGoDown
  exact siteSend_kept (siteMod_kept h_s)

theorem ctrlReset_kept {pq : List Instr} {n : Nat} {s : State} (h_s : Kept pq s) : Kept pq (ctrlReset n s) := by
  unfold ctrlReset
  extract_lets v2
  clear_value v2
  refine on_ite ?_ ?_
  · refine on_ite ?_ ?_
    · exact sitePower_kept h_s
    · exact h_s
  · refine on_ite ?_ ?_
    · exact sitePower_kept h_s
    · refine on_ite ?_ ?_
      · refine on_ite ?_ ?_
        · exact h_s
        · exact siteGoDown_kept h_s
      · exact h_s

theorem ctrlRelease_kept {pq : List Instr} {n : Nat} {s : State} (h_s : Kept pq s) : Kept pq (ctrlRelease n s) := by
  unfold ctrlRelease
  refine on_ite ?_ ?_
  · exact fset_kept (fset_kept h_s)
  · exact h_s

theorem writeMtCtrl_kept {pq : List Instr} {n : Nat} {v : Word} {s : State} (h_s : Kept pq s) : Kept pq (writeMtCtrl n v s) := by
  unfold writeMtCtrl
  extract_lets v2 v3 v4 v5
  have hv2 : Kept pq v2 := by
    unfold v2
    exact fset_kept h_s
  clear_value v2
  have hv3 : Kept pq v3 := by
    unfold v3
    refine on_ite ?_ ?_
    · exact ctrlReset_kept hv2
    · exact hv2
  clear_value v3
  have hv4 : Kept pq v4 := by
    unfold v4
    refine on_ite ?_ ?_
    · exact ctrlRelease_kept hv3
    · exact hv3
  clear_value v4
  have hv5 : Kept pq v5 := by
    unfold v5
    refine on_ite ?_ ?_
    · exact siteSend_kept hv4
    · exact hv4
  clear_value v5
  refine on_ite ?_ ?_
  · exact siteSend_kept hv5
  · exact hv5

theorem ctrlAction_kept {pq : List Instr} {n : Nat} {bit : Nat} {s : State} (h_s : Kept pq s) : (OnNext (Kept pq)) (ctrlAction n bit s) := by
  unfold ctrlAction
  refine on_next ?_
  refine on_ite ?_ ?_
  · exact writeMtCtrl_kept h_s
  · exact h_s

theorem execMtCtrlReset_kept {pq : List Instr} {site : Nat} {s : State} (h_s : Kept pq s) : (OnNext (Kept pq)) (execMtCtrlReset site s) := by
  unfold execMtCtrlReset
  exact ctrlAction_kept h_s

theorem execMtCtrlRelease_kept {pq : List Instr} {site : Nat} {s : State} (h_s : Kept pq s) : (OnNext (Kept pq)) (execMtCtrlRelease site s) := by
  unfold execMtCtrlRelease
  exact ctrlAction_kept h_s

theorem execMtCtrlQuiesce_kept {pq : List Instr} {site : Nat} {s : State} (h_s : Kept pq s) : (OnNext (Kept pq)) (execMtCtrlQuiesce site s) := by
  unfold execMtCtrlQuiesce
  exact ctrlAction_kept h_s

theorem execMtCtrlResume_kept {pq : List Instr} {site : Nat} {s : State} (h_s : Kept pq s) : (OnNext (Kept pq)) (execMtCtrlResume site s) := by
  unfold execMtCtrlResume
  exact ctrlAction_kept h_s

theorem execMtnPwrgdHigh_kept {pq : List Instr} {site : Nat} {s : State} (h_s : Kept pq s) : (OnNext (Kept pq)) (execMtnPwrgdHigh site s) := by
  unfold execMtnPwrgdHigh
  refine on_next ?_
  refine on_ite ?_ ?_
  · exact siteReset_kept h_s
  · exact h_s

theorem execSitePowerTimeout_kept {pq : List Instr} {site : Nat} {s : State} (h_s : Kept pq s) : (OnNext (Kept pq)) (execSitePowerTimeout site s) := by
  unfold execSitePowerTimeout
  refine on_next ?_
  refine on_ite ?_ ?_
  · exact siteFault_kept h_s
  · exact h_s

theorem execSiteResetTimer_kept {pq : List Instr} {site : Nat} {s : State} (h_s : Kept pq s) : (OnNext (Kept pq)) (execSiteResetTimer site s) := by
  unfold execSiteResetTimer
  refine on_next ?_
  refine on_ite ?_ ?_
  · exact sitePins_kept (fset_kept h_s)
  · exact h_s

theorem execSidebandReady_kept {pq : List Instr} {site : Nat} {ms : Nat} {s : State} (h_s : Kept pq s) : (OnNext (Kept pq)) (execSidebandReady site ms s) := by
  unfold execSidebandReady
  refine on_next ?_
  refine on_ite ?_ ?_
  · exact siteSend_kept (siteMod_kept (fset_kept h_s))
  · exact h_s

theorem execSiteBootTimeout_kept {pq : List Instr} {site : Nat} {s : State} (h_s : Kept pq s) : (OnNext (Kept pq)) (execSiteBootTimeout site s) := by
  unfold execSiteBootTimeout
  refine on_next ?_
  refine on_ite ?_ ?_
  · exact siteFault_kept h_s
  · exact h_s

theorem toAssign_kept {pq : List Instr} {n : Nat} {s : State} (h_s : Kept pq s) : Kept pq (toAssign n s) := by
  unfold toAssign
  extract_lets v2 v3 v4
  clear_value v2
  have hv3 : Kept pq v3 := by
    unfold v3
    refine on_foldl ?_ (fun t6 _ h7 => ?_)
    · exact h_s
    · exact rset_kept h7
  clear_value v3
  have hv4 : Kept pq v4 := by
    unfold v4
    refine on_foldl ?_ (fun t12 _ h13 => ?_)
    · exact hv3
    · exact rset_kept h13
  clear_value v4
  exact sendAssign_kept (fset_kept hv4)

theorem descRead_kept {pq : List Instr} {n : Nat} {d : List Byte} {s : State} (h_s : Kept pq s) : Kept pq (descRead n d s) := by
  unfold descRead
  extract_lets v2 v3 v4 v5
  have hv2 : Kept pq v2 := by
    unfold v2
    refine on_foldl ?_ (fun t7 _ h8 => ?_)
    · exact h_s
    · exact rset_kept h8
  clear_value v2
  have hv3 : Kept pq v3 := by
    unfold v3
    exact fset_kept hv2
  clear_value v3
  have hv4 : Kept pq v4 := by
    unfold v4
    refine on_foldl ?_ (fun t15 _ h16 => ?_)
    · exact hv3
    · extract_lets v19
      clear_value v19
      exact rset_kept h16
  clear_value v4
  have hv5 : Kept pq v5 := by
    unfold v5
    exact fset_kept (fset_kept (siteMod_kept hv4))
  clear_value v5
  refine on_ite ?_ ?_
  · exact siteFault_kept hv2
  · refine on_ite ?_ ?_
    · exact siteFault_kept hv4
    · refine on_ite ?_ ?_
      · exact siteSend_kept hv5
      · exact toAssign_kept hv5

theorem execDescReadReply_kept {pq : List Instr} {site : Nat} {tag : Nat} {status : Nat} {bytes : List Byte} {s : State} (h_s : Kept pq s) : (OnNext (Kept pq)) (execDescReadReply site tag status bytes s) := by
  unfold execDescReadReply
  refine on_next ?_
  refine siteReply_kept ?_ ?_
  · intro a3 a4 a5
    extract_lets v7 v8 v9
    clear_value v7 v8
    have hv9 : Kept pq v9 := by
      unfold v9
      exact siteSet_kept a5
    clear_value v9
    refine on_ite ?_ ?_
    · exact hv9
    · refine on_ite ?_ ?_
      · exact siteSend_kept hv9
      · exact descRead_kept hv9
  · exact h_s

theorem execSpdmReply_kept {pq : List Instr} {site : Nat} {tag : Nat} {status : Nat} {bytes : List Byte} {s : State} (h_s : Kept pq s) : (OnNext (Kept pq)) (execSpdmReply site tag status bytes s) := by
  unfold execSpdmReply
  refine on_next ?_
  refine siteReply_kept ?_ ?_
  · intro a3 a4 a5
    extract_lets v7
    have hv7 : Kept pq v7 := by
      unfold v7
      exact siteMod_kept a5
    clear_value v7
    refine on_ite ?_ ?_
    · exact siteSend_kept hv7
    · exact hv7
  · exact h_s

theorem execAttestationEnd_kept {pq : List Instr} {site : Nat} {signed : Bool} {root : List Byte} {measured : List Byte} {s : State} (h_s : Kept pq s) : (OnNext (Kept pq)) (execAttestationEnd site signed root measured s) := by
  unfold execAttestationEnd
  extract_lets v2 v3
  clear_value v2
  have hv3 : Kept pq v3 := by
    unfold v3
    exact siteMod_kept h_s
  clear_value v3
  refine on_next ?_
  refine on_ite ?_ ?_
  · exact toAssign_kept (fset_kept hv3)
  · exact h_s

theorem siteTrain_kept {pq : List Instr} {n : Nat} {s : State} (h_s : Kept pq s) : Kept pq (siteTrain n s) := by
  unfold siteTrain
  refine on_foldl ?_ (fun t2 _ h3 => ?_)
  · exact modulesTo_kept (fset_kept h_s)
  · split
    · rename_i w8 w9 w10
      exact emit_kept h3
    · rename_i w13 w14
      exact h3

theorem trainFailed_kept {pq : List Instr} {n : Nat} {cause : Nat} {s : State} (h_s : Kept pq s) : Kept pq (trainFailed n cause s) := by
  unfold trainFailed
  extract_lets v2 v3
  clear_value v2
  have hv3 : Kept pq v3 := by
    unfold v3
    exact siteMod_kept (leaveReady_kept h_s)
  clear_value v3
  refine on_ite ?_ ?_
  · exact siteWidths_kept (siteTrain_kept (fset_kept hv3))
  · exact siteStop_kept (fset_kept hv3)

theorem trainCheck_kept {pq : List Instr} {n : Nat} {s : State} (h_s : Kept pq s) : Kept pq (trainCheck n s) := by
  unfold trainCheck
  extract_lets v2
  clear_value v2
  refine on_ite ?_ ?_
  · exact h_s
  · refine on_ite ?_ ?_
    · exact trainFailed_kept h_s
    · exact sendWidth_kept (siteWidths_kept h_s)

theorem execAssignReply_kept {pq : List Instr} {site : Nat} {tag : Nat} {status : Nat} {s : State} (h_s : Kept pq s) : (OnNext (Kept pq)) (execAssignReply site tag status s) := by
  unfold execAssignReply
  refine on_next ?_
  refine siteReply_kept ?_ ?_
  · intro a3 a4 a5
    refine on_ite ?_ ?_
    · exact siteTrain_kept a5
    · exact a5
  · exact h_s

theorem onModule_kept {pq : List Instr} {n : Nat} {k : Nat} {st : Nat} {f : State → State} {s : State} (h_f : ∀ y0, Kept pq y0 → Kept pq (f y0)) (h_s : Kept pq s) : (OnNext (Kept pq)) (onModule n k st f s) := by
  unfold onModule
  refine on_next ?_
  refine on_ite ?_ ?_
  · exact h_f _ h_s
  · exact h_s

theorem execModuleSbinitDone_kept {pq : List Instr} {site : Nat} {module : Nat} {s : State} (h_s : Kept pq s) : (OnNext (Kept pq)) (execModuleSbinitDone site module s) := by
  unfold execModuleSbinitDone
  refine onModule_kept ?_ ?_
  · intro a2 a3
    exact setModule_kept a3
  · exact h_s

theorem execModuleLaneTestDone_kept {pq : List Instr} {site : Nat} {module : Nat} {good : Nat} {repaired : Nat} {s : State} (h_s : Kept pq s) : (OnNext (Kept pq)) (execModuleLaneTestDone site module good repaired s) := by
  unfold execModuleLaneTestDone
  refine onModule_kept ?_ ?_
  · intro a2 a3
    extract_lets v5
    clear_value v5
    refine on_ite ?_ ?_
    · exact trainCheck_kept (moduleDown_kept a3)
    · exact fset_kept (fset_kept (setModule_kept a3))
  · exact h_s

theorem execModuleMbtrainDone_kept {pq : List Instr} {site : Nat} {module : Nat} {s : State} (h_s : Kept pq s) : (OnNext (Kept pq)) (execModuleMbtrainDone site module s) := by
  unfold execModuleMbtrainDone
  refine onModule_kept ?_ ?_
  · intro a2 a3
    exact setModule_kept a3
  · exact h_s

theorem execModuleLinkinitDone_kept {pq : List Instr} {site : Nat} {module : Nat} {s : State} (h_s : Kept pq s) : (OnNext (Kept pq)) (execModuleLinkinitDone site module s) := by
  unfold execModuleLinkinitDone
  refine onModule_kept ?_ ?_
  · intro a2 a3
    extract_lets v5 v6
    have hv5 : Kept pq v5 := by
      unfold v5
      exact siteMod_kept a3
    clear_value v5
    have hv6 : Kept pq v6 := by
      unfold v6
      refine on_ite ?_ ?_
      · exact emit_kept hv5
      · exact hv5
    clear_value v6
    exact trainCheck_kept (setModule_kept hv6)
  · exact h_s

theorem execModuleTrainTimeout_kept {pq : List Instr} {site : Nat} {module : Nat} {s : State} (h_s : Kept pq s) : (OnNext (Kept pq)) (execModuleTrainTimeout site module s) := by
  unfold execModuleTrainTimeout
  refine on_next ?_
  refine on_ite ?_ ?_
  · exact trainCheck_kept (moduleDown_kept h_s)
  · exact h_s

theorem askClear_kept {pq : List Instr} {n : Nat} {s : State} (h_s : Kept pq s) : Kept pq (askClear n s) := by
  unfold askClear
  refine on_ite ?_ ?_
  · exact h_s
  · refine on_ite ?_ ?_
    · exact siteSend_kept h_s
    · exact siteGoDown_kept h_s

theorem enterReady_kept {pq : List Instr} {n : Nat} {s : State} (h_s : Kept pq s) : Kept pq (enterReady n s) := by
  unfold enterReady
  extract_lets v2
  have hv2 : Kept pq v2 := by
    unfold v2
    exact fset_kept (fset_kept (fset_kept h_s))
  clear_value v2
  exact askClear_kept (siteWidths_kept hv2)

theorem execWidthReply_kept {pq : List Instr} {site : Nat} {tag : Nat} {status : Nat} {widths : List Nat} {s : State} (h_s : Kept pq s) : (OnNext (Kept pq)) (execWidthReply site tag status widths s) := by
  unfold execWidthReply
  refine on_next ?_
  refine siteReply_kept ?_ ?_
  · intro a3 a4 a5
    extract_lets v7 v8
    clear_value v7 v8
    refine on_ite ?_ ?_
    · exact trainFailed_kept a5
    · refine on_ite ?_ ?_
      · exact sendWidth_kept a5
      · refine on_ite ?_ ?_
        · exact enterReady_kept a5
        · exact a5
  · exact h_s

theorem execModuleRetryLimit_kept {pq : List Instr} {site : Nat} {module : Nat} {retries : Nat} {s : State} (h_s : Kept pq s) : (OnNext (Kept pq)) (execModuleRetryLimit site module retries s) := by
  unfold execModuleRetryLimit
  refine onModule_kept ?_ ?_
  · intro a2 a3
    extract_lets v5
    have hv5 : Kept pq v5 := by
      unfold v5
      exact fbump_kept a3
    clear_value v5
    refine on_ite ?_ ?_
    · exact setModule_kept hv5
    · exact hv5
  · exact h_s

theorem widthChanged_kept {pq : List Instr} {n : Nat} {s : State} (h_s : Kept pq s) : Kept pq (widthChanged n s) := by
  unfold widthChanged
  extract_lets v2
  have hv2 : Kept pq v2 := by
    unfold v2
    exact siteWidths_kept h_s
  clear_value v2
  refine on_ite ?_ ?_
  · exact sendWidth_kept hv2
  · exact trainCheck_kept hv2

theorem moduleLost_kept {pq : List Instr} {n : Nat} {k : Nat} {s : State} (h_s : Kept pq s) : Kept pq (moduleLost n k s) := by
  unfold moduleLost
  exact siteRun_kept (widthChanged_kept (moduleDown_kept (siteSpoil_kept h_s)))

theorem execPhyretrainDone_kept {pq : List Instr} {site : Nat} {module : Nat} {good : Nat} {repaired : Nat} {s : State} (h_s : Kept pq s) : (OnNext (Kept pq)) (execPhyretrainDone site module good repaired s) := by
  unfold execPhyretrainDone
  refine onModule_kept ?_ ?_
  · intro a2 a3
    extract_lets v5 v6 v7
    clear_value v5 v6
    have hv7 : Kept pq v7 := by
      unfold v7
      exact fset_kept (fset_kept (setModule_kept a3))
    clear_value v7
    refine on_ite ?_ ?_
    · exact moduleLost_kept a3
    · refine siteRun_kept ?_
      refine on_ite ?_ ?_
      · exact hv7
      · exact widthChanged_kept hv7
  · exact h_s

theorem execPhyretrainTimeout_kept {pq : List Instr} {site : Nat} {module : Nat} {s : State} (h_s : Kept pq s) : (OnNext (Kept pq)) (execPhyretrainTimeout site module s) := by
  unfold execPhyretrainTimeout
  refine onModule_kept ?_ ?_
  · intro a2 a3
    exact moduleLost_kept a3
  · exact h_s

theorem execThrottleReply_kept {pq : List Instr} {site : Nat} {tag : Nat} {status : Nat} {s : State} (h_s : Kept pq s) : (OnNext (Kept pq)) (execThrottleReply site tag status s) := by
  unfold execThrottleReply
  refine on_next ?_
  refine siteReply_kept ?_ ?_
  · intro a3 a4 a5
    exact fset_kept (siteMod_kept a5)
  · exact h_s

theorem execThrottleDeadline_kept {pq : List Instr} {site : Nat} {s : State} (h_s : Kept pq s) : (OnNext (Kept pq)) (execThrottleDeadline site s) := by
  unfold execThrottleDeadline
  extract_lets v2
  have hv2 : Kept pq v2 := by
    unfold v2
    exact siteMod_kept h_s
  clear_value v2
  refine on_next ?_
  refine on_ite ?_ ?_
  · refine on_ite ?_ ?_
    · exact siteFault_kept hv2
    · exact hv2
  · exact h_s

theorem execTelemetry_kept {pq : List Instr} {site : Nat} {mw : Nat} {temp : Nat} {s : State} (h_s : Kept pq s) : (OnNext (Kept pq)) (execTelemetry site mw temp s) := by
  unfold execTelemetry
  extract_lets v2
  have hv2 : Kept pq v2 := by
    unfold v2
    exact fset_kept (fset_kept h_s)
  clear_value v2
  refine on_next ?_
  refine on_ite ?_ ?_
  · exact h_s
  · refine on_ite ?_ ?_
    · exact hv2
    · refine on_ite ?_ ?_
      · exact siteFault_kept hv2
      · refine on_ite ?_ ?_
        · exact siteSend_kept hv2
        · exact hv2

theorem execTelemetryTimeout_kept {pq : List Instr} {site : Nat} {s : State} (h_s : Kept pq s) : (OnNext (Kept pq)) (execTelemetryTimeout site s) := by
  unfold execTelemetryTimeout
  refine on_next ?_
  refine on_ite ?_ ?_
  · exact siteFault_kept h_s
  · exact h_s

theorem execEvent_kept {pq : List Instr} {site : Nat} {code : Nat} {s : State} (h_s : Kept pq s) : (OnNext (Kept pq)) (execEvent site code s) := by
  unfold execEvent
  refine on_next ?_
  refine on_ite ?_ ?_
  · exact rset_kept h_s
  · exact h_s

theorem execFatal_kept {pq : List Instr} {site : Nat} {code : Nat} {s : State} (h_s : Kept pq s) : (OnNext (Kept pq)) (execFatal site code s) := by
  unfold execFatal
  refine on_next ?_
  refine on_ite ?_ ?_
  · exact siteFault_kept (emit_kept h_s)
  · exact h_s

theorem execThermAlert_kept {pq : List Instr} {site : Nat} {s : State} (h_s : Kept pq s) : (OnNext (Kept pq)) (execThermAlert site s) := by
  unfold execThermAlert
  refine on_next ?_
  refine on_ite ?_ ?_
  · exact siteFault_kept h_s
  · exact h_s

theorem execQuiesced_kept {pq : List Instr} {site : Nat} {tag : Nat} {status : Nat} {s : State} (h_s : Kept pq s) : (OnNext (Kept pq)) (execQuiesced site tag status s) := by
  unfold execQuiesced
  refine on_next ?_
  refine siteReply_kept ?_ ?_
  · intro a3 a4 a5
    extract_lets v7
    have hv7 : Kept pq v7 := by
      unfold v7
      exact fset_kept a5
    clear_value v7
    refine on_ite ?_ ?_
    · exact siteSend_kept hv7
    · exact hv7
  · exact h_s

theorem execResumeReply_kept {pq : List Instr} {site : Nat} {tag : Nat} {status : Nat} {s : State} (h_s : Kept pq s) : (OnNext (Kept pq)) (execResumeReply site tag status s) := by
  unfold execResumeReply
  refine on_next ?_
  refine siteReply_kept ?_ ?_
  · intro a3 a4 a5
    exact fset_kept a5
  · exact h_s

theorem execCleared_kept {pq : List Instr} {site : Nat} {tag : Nat} {status : Nat} {s : State} (h_s : Kept pq s) : (OnNext (Kept pq)) (execCleared site tag status s) := by
  unfold execCleared
  refine on_next ?_
  refine siteReply_kept ?_ ?_
  · intro a3 a4 a5
    extract_lets v7 v8
    clear_value v7
    have hv8 : Kept pq v8 := by
      unfold v8
      exact fset_kept (siteSet_kept a5)
    clear_value v8
    split
    · rename_i w13 w14 w15
      exact sendAssign_kept (rset_kept hv8)
    · rename_i w19 w20
      exact hv8
  · exact h_s

theorem execShutdownReply_kept {pq : List Instr} {site : Nat} {tag : Nat} {status : Nat} {s : State} (h_s : Kept pq s) : (OnNext (Kept pq)) (execShutdownReply site tag status s) := by
  unfold execShutdownReply
  refine on_next ?_
  refine siteReply_kept ?_ ?_
  · intro a3 a4 a5
    split
    · rename_i w7 w8 w9
      exact siteDownEnd_kept a5
    · rename_i w12 w13
      exact a5
  · exact h_s

theorem execSiteMessageTimeout_kept {pq : List Instr} {site : Nat} {op : Nat} {s : State} (h_s : Kept pq s) : (OnNext (Kept pq)) (execSiteMessageTimeout site op s) := by
  unfold execSiteMessageTimeout
  refine on_next ?_
  refine on_ite ?_ ?_
  · exact h_s
  · split
    · rename_i w5 w6 w7
      exact h_s
    · rename_i w9 w10 w11 w12
      extract_lets v14
      have hv14 : ∀ y0, Kept pq y0 → Kept pq (v14 y0) := by
        unfold v14
        intro a15 a16
        exact siteMod_kept a16
      clear_value v14
      split
      · rename_i w20 w21 w22 w23
        exact siteSend_kept (hv14 _ h_s)
      · rename_i w27 w28 w29 w30
        exact siteDownEnd_kept (hv14 _ h_s)
      · rename_i w34 w35 w36 w37 w38
        refine on_ite ?_ ?_
        · exact siteFault_kept h_s
        · exact emit_kept (siteMod_kept h_s)

theorem writeMtAssign_kept {pq : List Instr} {n : Nat} {v : Word} {s : State} (h_s : Kept pq s) : Kept pq (writeMtAssign n v s) := by
  unfold writeMtAssign
  extract_lets v2 v3 v4 v5
  clear_value v2 v3
  have hv4 : Kept pq v4 := by
    unfold v4
    exact fset_kept (siteMod_kept h_s)
  clear_value v4
  have hv5 : Kept pq v5 := by
    unfold v5
    exact rset_kept h_s
  clear_value v5
  refine on_ite ?_ ?_
  · exact logRefused_kept h_s
  · refine on_ite ?_ ?_
    · refine on_ite ?_ ?_
      · exact askClear_kept hv4
      · exact hv4
    · refine on_ite ?_ ?_
      · exact sendAssign_kept hv5
      · exact hv5

theorem execMtAssignWrite_kept {pq : List Instr} {site : Nat} {v : Word} {s : State} (h_s : Kept pq s) : (OnNext (Kept pq)) (execMtAssignWrite site v s) := by
  unfold execMtAssignWrite
  refine on_next ?_
  refine on_ite ?_ ?_
  · exact writeMtAssign_kept h_s
  · exact h_s

theorem purgeAgent_kept {pq : List Instr} {agent : Nat} {s : State} (h_s : Kept pq s) : Kept pq (purgeAgent agent s) := by
  unfold purgeAgent
  refine on_foldl ?_ (fun t2 _ h3 => ?_)
  · exact h_s
  · extract_lets v6 v7 v8 v9
    clear_value v6 v7
    have hv8 : Kept pq v8 := by
      unfold v8
      refine on_foldl ?_ (fun t11 _ h12 => ?_)
      · exact h3
      · exact loseSector_kept h12
    clear_value v8 v9
    exact sliceMod_kept hv8

theorem siteAgentFailed_kept {pq : List Instr} {n : Nat} {s : State} (h_s : Kept pq s) : Kept pq (siteAgentFailed n s) := by
  unfold siteAgentFailed
  exact siteFault_kept (purgeAgent_kept (fset_kept h_s))

end Sys2Proof.Machine
end

