-- ==== Sys2Proof/Laws/KeptDefects.lean ====
section
/-! SUPPORT. Laws/KeptDefects.lean: what Machine/Defects.lean keeps (Laws/Kept.lean says what that is). -/
namespace Sys2Proof.Machine

theorem replaceBay_kept {pq : List Instr} {field : Nat} {bay : Nat} {s : State} (h_s : Kept pq s) : Kept pq (replaceBay field bay s) := by
  unfold replaceBay
  split
  · rename_i w2 w3 w4 w5
    exact ⟨h_s.1, h_s.2.1, h_s.2.2⟩
  · rename_i w7 w8
    extract_lets v10 v11
    have hv10 : Kept pq v10 := by
      unfold v10
      exact ⟨h_s.1, h_s.2.1, h_s.2.2⟩
    clear_value v10
    have hv11 : Kept pq v11 := by
      unfold v11
      exact rset_kept hv10
    clear_value v11
    refine on_foldl ?_ (fun t16 _ h17 => ?_)
    · exact hv11
    · extract_lets v20
      clear_value v20
      refine on_ite ?_ ?_
      · exact rset_kept h17
      · exact h17

theorem setDefStatus_kept {pq : List Instr} {s : State} (h_s : Kept pq s) : Kept pq (setDefStatus s) := by
  unfold setDefStatus
  extract_lets v2 v3 v4 v5 v6 v7 v8 v9 v10 v11
  clear_value v2 v3 v4
  have hv5 : Kept pq v5 := by
    unfold v5
    exact fset_kept h_s
  clear_value v5
  have hv6 : Kept pq v6 := by
    unfold v6
    exact fset_kept hv5
  clear_value v6
  have hv7 : Kept pq v7 := by
    unfold v7
    exact fset_kept hv6
  clear_value v7
  have hv8 : Kept pq v8 := by
    unfold v8
    exact fset_kept hv7
  clear_value v8
  have hv9 : Kept pq v9 := by
    unfold v9
    exact fset_kept hv8
  clear_value v9
  have hv10 : Kept pq v10 := by
    unfold v10
    exact fset_kept hv9
  clear_value v10
  have hv11 : Kept pq v11 := by
    unfold v11
    exact fset_kept hv10
  clear_value v11
  exact fset_kept hv11

theorem applyRow_kept {pq : List Instr} {s : State} {v : Nat} (h_s : Kept pq s) : Kept pq (applyRow s v) := by
  unfold applyRow
  extract_lets v2 v3 v4
  clear_value v2 v3 v4
  split
  · rename_i w6 w7
    exact ⟨h_s.1, h_s.2.1, h_s.2.2⟩
  · rename_i w9 w10
    exact ⟨h_s.1, h_s.2.1, h_s.2.2⟩
  · rename_i w12 w13
    exact ⟨h_s.1, h_s.2.1, h_s.2.2⟩
  · rename_i w15 w16
    exact ⟨h_s.1, h_s.2.1, h_s.2.2⟩
  · rename_i w18 w19
    exact fbump_kept ⟨h_s.1, h_s.2.1, h_s.2.2⟩
  · rename_i w22 w23
    exact rset_kept h_s
  · rename_i w26 w27 w28 w29 w30 w31 w32
    exact h_s

theorem applyDefectMap_kept {pq : List Instr} {s : State} (h_s : Kept pq s) : Kept pq (applyDefectMap s) := by
  unfold applyDefectMap
  extract_lets v2 v3 v4 v5
  have hv2 : Kept pq v2 := by
    unfold v2
    exact ⟨h_s.1, h_s.2.1, h_s.2.2⟩
  clear_value v2
  have hv3 : Kept pq v3 := by
    unfold v3
    refine on_foldl ?_ (fun t8 _ h9 => ?_)
    · exact hv2
    · exact rset_kept h9
  clear_value v3
  have hv4 : Kept pq v4 := by
    unfold v4
    refine on_foldl ?_ (fun t14 _ h15 => ?_)
    · exact hv3
    · refine on_ite ?_ ?_
      · exact applyRow_kept h15
      · exact logErr_kept h15
  clear_value v4 v5
  refine setDefStatus_kept ?_
  refine on_foldl ?_ (fun t24 _ h25 => ?_)
  · exact hv4
  · exact replaceBay_kept h25

theorem programRow_kept {pq : List Instr} {value : Nat} {s : State} (h_s : Kept pq s) : Kept pq (programRow value s) := by
  unfold programRow
  split
  · rename_i w2 w3 w4
    exact ⟨h_s.1, h_s.2.1, h_s.2.2⟩
  · rename_i w6 w7
    exact logErr_kept (fset_kept (fset_kept h_s))

theorem mapOutNow_kept {pq : List Instr} {field : Nat} {bay : Nat} {tile : Nat} {whole : Bool} {s : State} (h_s : Kept pq s) : Kept pq (mapOutNow field bay tile whole s) := by
  unfold mapOutNow
  extract_lets v2 v3 v4
  clear_value v2 v3
  have hv4 : Kept pq v4 := by
    unfold v4
    exact ⟨h_s.1, h_s.2.1, h_s.2.2⟩
  clear_value v4
  split
  · rename_i w7 w8
    exact h_s
  · rename_i w10 w11 w12
    extract_lets v14
    have hv14 : Kept pq v14 := by
      unfold v14
      exact ⟨h_s.1, h_s.2.1, h_s.2.2⟩
    clear_value v14
    refine on_ite ?_ ?_
    · exact setDefStatus_kept (programRow_kept (replaceBay_kept hv4))
    · exact setDefStatus_kept (programRow_kept hv14)

theorem applyMapouts_kept {pq : List Instr} {bays : List Nat} {s : State} (h_s : Kept pq s) : Kept pq (applyMapouts bays s) := by
  unfold applyMapouts
  extract_lets v2 v3
  clear_value v2
  have hv3 : Kept pq v3 := by
    unfold v3
    refine on_foldl ?_ (fun t5 _ h6 => ?_)
    · exact ⟨h_s.1, h_s.2.1, h_s.2.2⟩
    · exact mapOutNow_kept h6
  clear_value v3
  exact fset_kept hv3

theorem writeDefMapout_kept {pq : List Instr} {v : Word} {s : State} (h_s : Kept pq s) : Kept pq (writeDefMapout v s) := by
  unfold writeDefMapout
  extract_lets v2 v3
  clear_value v2
  have hv3 : Kept pq v3 := by
    unfold v3
    exact fset_kept (fset_kept h_s)
  clear_value v3
  refine on_ite ?_ ?_
  · exact hv3
  · split
    · rename_i w10 w11
      exact fset_kept hv3
    · rename_i w14 w15 w16
      refine on_ite ?_ ?_
      · exact fset_kept hv3
      · exact queueMapout_kept hv3

theorem execDefMapoutQueue_kept {pq : List Instr} {v : Word} {s : State} (h_s : Kept pq s) : (OnNext (Kept pq)) (execDefMapoutQueue v s) := by
  unfold execDefMapoutQueue
  refine on_next ?_
  refine on_ite ?_ ?_
  · exact writeDefMapout_kept h_s
  · exact h_s

theorem writeTileQuery_kept {pq : List Instr} {v : Word} {s : State} (h_s : Kept pq s) : Kept pq (writeTileQuery v s) := by
  unfold writeTileQuery
  exact fset_kept (rset_kept h_s)

theorem execGctlTileQueryWrite_kept {pq : List Instr} {v : Word} {s : State} (h_s : Kept pq s) : (OnNext (Kept pq)) (execGctlTileQueryWrite v s) := by
  unfold execGctlTileQueryWrite
  exact on_next (writeTileQuery_kept h_s)

theorem execTileQueryResolved_kept {pq : List Instr} {s : State} (h_s : Kept pq s) : (OnNext (Kept pq)) (execTileQueryResolved s) := by
  unfold execTileQueryResolved
  refine on_next ?_
  refine on_ite ?_ ?_
  · exact rset_kept h_s
  · exact h_s

end Sys2Proof.Machine
end

