-- ==== Sys2Proof/Laws/KeptResets.lean ====
section
/-! SUPPORT. Laws/KeptResets.lean: what Machine/Resets.lean keeps (Laws/Kept.lean says what that is). -/
namespace Sys2Proof.Machine

theorem tearPart_kept {pq : List Instr} {p : Nat} {s : State} (h_s : Kept pq s) : Kept pq (tearPart p s) := by
  unfold tearPart
  refine on_foldl ?_ (fun t2 _ h3 => ?_)
  · exact h_s
  · extract_lets v6
    refine on_ite ?_ ?_
    · exact h3
    · exact teardownStart_kept h3

theorem setTdisp_kept {pq : List Instr} {p : Nat} {v : Nat} {s : State} (h_s : Kept pq s) : Kept pq (setTdisp p v s) := by
  unfold setTdisp
  exact fset_kept h_s

theorem tdispEnd_kept {pq : List Instr} {p : Nat} {silent : Bool} {s : State} (h_s : Kept pq s) : Kept pq (tdispEnd p silent s) := by
  unfold tdispEnd
  extract_lets v2 v3
  have hv2 : Kept pq v2 := by
    unfold v2
    exact disableReq_kept h_s
  clear_value v2
  have hv3 : Kept pq v3 := by
    unfold v3
    refine on_ite ?_ ?_
    · exact tearSilent_kept hv2
    · exact tearPart_kept hv2
  clear_value v3
  exact clearAsk_kept hv3

theorem tdispError_kept {pq : List Instr} {p : Nat} {silent : Bool} {s : State} (h_s : Kept pq s) : Kept pq (tdispError p silent s) := by
  unfold tdispError
  refine on_ite ?_ ?_
  · exact tdispEnd_kept (setTdisp_kept h_s)
  · exact h_s

theorem cutReport_kept {pq : List Instr} {p : Nat} {s : State} (h_s : Kept pq s) : Kept pq (cutReport p s) := by
  unfold cutReport
  extract_lets v2 v3
  clear_value v2
  have hv3 : Kept pq v3 := by
    unfold v3
    exact partMod_kept h_s
  clear_value v3
  refine on_ite ?_ ?_
  · exact h_s
  · refine on_ite ?_ ?_
    · exact hv3
    · split
      · rename_i w11 w12 w13
        exact sendReport_kept hv3
      · rename_i w16 w17
        exact hv3

theorem tickCut_kept {pq : List Instr} {p : Nat} {s : State} (h_s : Kept pq s) : Kept pq (tickCut p s) := by
  unfold tickCut
  extract_lets v2 v3
  clear_value v2
  have hv3 : Kept pq v3 := by
    unfold v3
    refine on_ite ?_ ?_
    · exact h_s
    · exact spoil_kept h_s
  clear_value v3
  refine on_ite ?_ ?_
  · exact partMod_kept h_s
  · refine on_ite ?_ ?_
    · exact cutReport_kept (partMod_kept hv3)
    · exact disablePart_kept h_s

theorem tileReset_kept {pq : List Instr} {t : Nat} {s : State} (h_s : Kept pq s) : Kept pq (tileReset t s) := by
  unfold tileReset
  extract_lets v2
  have hv2 : Kept pq v2 := by
    unfold v2
    refine on_foldl ?_ (fun t4 _ h5 => ?_)
    · exact rreset_kept h_s
    · exact rreset_kept h5
  clear_value v2
  exact ⟨hv2.1, hv2.2.1, Mem.wf_clear _ _ (hv2.2.2)⟩

theorem bayReset_kept {pq : List Instr} {b : Nat} {s : State} (h_s : Kept pq s) : Kept pq (bayReset b s) := by
  unfold bayReset
  extract_lets v2 v3
  have hv2 : Kept pq v2 := by
    unfold v2
    refine on_foldl ?_ (fun t5 _ h6 => ?_)
    · exact h_s
    · exact tileReset_kept h6
  clear_value v2
  have hv3 : Kept pq v3 := by
    unfold v3
    refine on_foldl ?_ (fun t11 _ h12 => ?_)
    · exact hv2
    · exact rreset_kept h12
  clear_value v3
  exact ⟨hv3.1, hv3.2.1, hv3.2.2⟩

theorem dropNetReqs_kept {pq : List Instr} {bays : List Nat} {s : State} (h_s : Kept pq s) : Kept pq (dropNetReqs bays s) := by
  unfold dropNetReqs
  exact ⟨h_s.1, h_s.2.1, h_s.2.2⟩

theorem resetBays_kept {pq : List Instr} {bays : List Nat} {s : State} (h_s : Kept pq s) : Kept pq (resetBays bays s) := by
  unfold resetBays
  refine applyMapouts_kept ?_
  refine dropNetReqs_kept ?_
  refine on_foldl ?_ (fun t4 _ h5 => ?_)
  · exact h_s
  · exact bayReset_kept h5

theorem resetPartState_kept {pq : List Instr} {p : Nat} {s : State} (h_s : Kept pq s) : Kept pq (resetPartState p s) := by
  unfold resetPartState
  extract_lets v2 v3
  have hv2 : Kept pq v2 := by
    unfold v2
    refine on_foldl ?_ (fun t5 _ h6 => ?_)
    · exact h_s
    · exact rreset_kept h6
  clear_value v2
  have hv3 : Kept pq v3 := by
    unfold v3
    exact tickCut_kept hv2
  clear_value v3
  refine on_ite ?_ ?_
  · exact clearAsk_kept (setTdisp_kept hv3)
  · exact hv3

theorem resetPartition_kept {pq : List Instr} {p : Nat} {s : State} (h_s : Kept pq s) : Kept pq (resetPartition p s) := by
  unfold resetPartition
  extract_lets v2
  clear_value v2
  exact resetBays_kept (resetPartState_kept h_s)

theorem resetCmd_kept {pq : List Instr} {scope : Nat} {h : Nat → State → Done × State} {cmd : Nat} {s : State} (h_h : ∀ y0 y1, Kept pq y1 → (OnSnd (Kept pq)) (h y0 y1)) (h_s : Kept pq s) : (OnNext (Kept pq)) (resetCmd scope h cmd s) := by
  unfold resetCmd
  refine on_next ?_
  refine startCmd_kept ?_ ?_
  · intro a3 a4 a5
    exact h_h _ _ a5
  · exact h_s

theorem execResetPartition_kept {pq : List Instr} {cmd : Nat} {s : State} (h_s : Kept pq s) : (OnNext (Kept pq)) (execResetPartition cmd s) := by
  unfold execResetPartition
  refine resetCmd_kept ?_ ?_
  · intro a2 a3 a4
    extract_lets v6
    clear_value v6
    exact on_mk (resetPartition_kept a4)
  · exact h_s

theorem sliceStop_kept {pq : List Instr} {i : Nat} {s : State} (h_s : Kept pq s) : Kept pq (sliceStop i s) := by
  unfold sliceStop
  split
  · rename_i w2 w3
    exact h_s
  · rename_i w5 w6 w7
    extract_lets v9 v10 v11
    have hv9 : Kept pq v9 := by
      unfold v9
      refine on_foldl ?_ (fun t13 _ h14 => ?_)
      · exact h_s
      · exact devStore_kept h14
    clear_value v9
    have hv10 : Kept pq v10 := by
      unfold v10
      exact sliceMod_kept hv9
    clear_value v10
    have hv11 : Kept pq v11 := by
      unfold v11
      refine on_foldl ?_ (fun t21 _ h22 => ?_)
      · exact hv10
      · exact cohErr_kept h22
    clear_value v11
    refine on_foldl ?_ (fun t27 _ h28 => ?_)
    · exact hv11
    · exact beginTxn_kept h28

theorem execResetField_kept {pq : List Instr} {cmd : Nat} {s : State} (h_s : Kept pq s) : (OnNext (Kept pq)) (execResetField cmd s) := by
  unfold execResetField
  refine resetCmd_kept ?_ ?_
  · intro a2 a3 a4
    extract_lets v6 v7 v8 v9 v10
    clear_value v6 v7 v8
    have hv9 : Kept pq v9 := by
      unfold v9
      refine on_foldl ?_ (fun t12 _ h13 => ?_)
      · exact a4
      · exact resetPartState_kept h13
    clear_value v9
    have hv10 : Kept pq v10 := by
      unfold v10
      exact resetBays_kept hv9
    clear_value v10
    refine on_ite ?_ ?_
    · exact on_mk a4
    · refine on_mk ?_
      refine on_foldl ?_ (fun t24 _ h25 => ?_)
      · exact hv10
      · exact sliceStop_kept h25
  · exact h_s

end Sys2Proof.Machine
end

