-- ==== Sys2Proof/Laws/KeptHost.lean ====
section
/-! SUPPORT. Laws/KeptHost.lean: what Machine/Host.lean keeps (Laws/Kept.lean says what that is). -/
namespace Sys2Proof.Machine

theorem setUp_kept {pq : List Instr} {s : State} (h_s : Kept pq s) : Kept pq (setUp s) := by
  unfold setUp
  exact fset_kept h_s

theorem markWait_kept {pq : List Instr} {s : State} (h_s : Kept pq s) : Kept pq (markWait s) := by
  unfold markWait
  refine on_foldl ?_ (fun t2 _ h3 => ?_)
  · exact h_s
  · refine on_ite ?_ ?_
    · exact rset_kept h3
    · exact h3

theorem sendHeld_kept {pq : List Instr} {port : Nat} {s : State} (h_s : Kept pq s) : Kept pq (sendHeld port s) := by
  unfold sendHeld
  extract_lets v2 v3
  clear_value v2
  have hv3 : Kept pq v3 := by
    unfold v3
    refine on_foldl ?_ (fun t5 _ h6 => ?_)
    · exact h_s
    · refine on_ite ?_ ?_
      · exact emit_kept (fwrap_kept h6)
      · exact h6
  clear_value v3
  exact ⟨hv3.1, hv3.2.1, hv3.2.2⟩

theorem unsend_kept {pq : List Instr} {port : Nat} {s : State} (h_s : Kept pq s) : Kept pq (unsend port s) := by
  unfold unsend
  exact ⟨h_s.1, h_s.2.1, h_s.2.2⟩

theorem readsLost_kept {pq : List Instr} {port : Nat} {s : State} (h_s : Kept pq s) : Kept pq (readsLost port s) := by
  unfold readsLost
  extract_lets v2
  have hv2 : Kept pq v2 := by
    unfold v2
    refine on_foldl ?_ (fun t4 _ h5 => ?_)
    · exact h_s
    · extract_lets v8
      refine on_ite ?_ ?_
      · exact tileMod_kept (spoil_kept h5)
      · exact h5
  clear_value v2
  refine on_foldl ?_ (fun t15 _ h16 => ?_)
  · exact hv2
  · exact finish_kept h16

theorem contain_kept {pq : List Instr} {port : Nat} {s : State} (h_s : Kept pq s) : Kept pq (contain port s) := by
  unfold contain
  exact markWait_kept (setUp_kept (readsLost_kept (unsend_kept (fset_kept h_s))))

theorem portError_kept {pq : List Instr} {port : Nat} {cause : Nat} {s : State} (h_s : Kept pq s) : Kept pq (portError port cause s) := by
  unfold portError
  extract_lets v2 v3 v4
  clear_value v2
  have hv3 : Kept pq v3 := by
    unfold v3
    exact firstErr_kept h_s
  clear_value v3
  have hv4 : Kept pq v4 := by
    unfold v4
    exact logErr_kept hv3
  clear_value v4
  refine on_ite ?_ ?_
  · exact contain_kept hv4
  · exact hv4

theorem execCompletionTimeout_kept {pq : List Instr} {port : Nat} {part : Nat} {s : State} (h_s : Kept pq s) : (OnNext (Kept pq)) (execCompletionTimeout port part s) := by
  unfold execCompletionTimeout
  refine on_next ?_
  refine on_ite ?_ ?_
  · exact portError_kept (spoil_kept h_s)
  · exact h_s

theorem execHubReadCompletion_kept {pq : List Instr} {port : Nat} {part : Nat} {n : Nat} {ep : Bool} {s : State} (h_s : Kept pq s) : (OnNext (Kept pq)) (execHubReadCompletion port part n ep s) := by
  unfold execHubReadCompletion
  extract_lets v2
  have hv2 : Kept pq v2 := by
    unfold v2
    exact fwrap_kept (linkWake_kept h_s)
  clear_value v2
  refine on_next ?_
  refine on_ite ?_ ?_
  · exact h_s
  · refine on_ite ?_ ?_
    · exact portError_kept (spoil_kept hv2)
    · exact hv2

theorem portRelease_kept {pq : List Instr} {port : Nat} {s : State} (h_s : Kept pq s) : Kept pq (portRelease port s) := by
  unfold portRelease
  extract_lets v2
  have hv2 : Kept pq v2 := by
    unfold v2
    exact setUp_kept (fset_kept h_s)
  clear_value v2
  refine on_ite ?_ ?_
  · exact h_s
  · refine on_ite ?_ ?_
    · exact sendHeld_kept hv2
    · refine on_ite ?_ ?_
      · exact fset_kept hv2
      · exact hv2

theorem execHostpPortRelease_kept {pq : List Instr} {port : Nat} {via : Option Nat} {s : State} (h_s : Kept pq s) : (OnNext (Kept pq)) (execHostpPortRelease port via s) := by
  unfold execHostpPortRelease
  refine on_next ?_
  refine on_ite ?_ ?_
  · exact portRelease_kept h_s
  · exact h_s

theorem ideLost_kept {pq : List Instr} {f : Nat} {silent : Bool} {s : State} (h_s : Kept pq s) : Kept pq (ideLost f silent s) := by
  unfold ideLost
  refine on_ite ?_ ?_
  · exact h_s
  · exact tdispError_kept ⟨h_s.1, h_s.2.1, h_s.2.2⟩

theorem idePortLost_kept {pq : List Instr} {port : Nat} {silent : Bool} {s : State} (h_s : Kept pq s) : Kept pq (idePortLost port silent s) := by
  unfold idePortLost
  extract_lets v2
  have hv2 : Kept pq v2 := by
    unfold v2
    refine on_foldl ?_ (fun t4 _ h5 => ?_)
    · exact h_s
    · refine on_ite ?_ ?_
      · exact ideLost_kept h5
      · exact h5
  clear_value v2
  exact fset_kept ⟨hv2.1, hv2.2.1, hv2.2.2⟩

theorem linkDown_kept {pq : List Instr} {port : Nat} {st : Nat} {s : State} (h_s : Kept pq s) : Kept pq (linkDown port st s) := by
  unfold linkDown
  extract_lets v2 v3 v4 v5
  clear_value v2
  have hv3 : Kept pq v3 := by
    unfold v3
    exact fset_kept (fset_kept (fset_kept h_s))
  clear_value v3
  have hv4 : Kept pq v4 := by
    unfold v4
    exact fset_kept (fset_kept (fset_kept hv3))
  clear_value v4
  have hv5 : Kept pq v5 := by
    unfold v5
    exact setUp_kept hv4
  clear_value v5
  refine on_ite ?_ ?_
  · exact markWait_kept (readsLost_kept (unsend_kept (idePortLost_kept hv5)))
  · exact hv5

theorem execDlActiveLoss_kept {pq : List Instr} {port : Nat} {surprise : Bool} {s : State} (h_s : Kept pq s) : (OnNext (Kept pq)) (execDlActiveLoss port surprise s) := by
  unfold execDlActiveLoss
  extract_lets v2
  have hv2 : Kept pq v2 := by
    unfold v2
    exact linkDown_kept h_s
  clear_value v2
  refine on_next ?_
  refine on_ite ?_ ?_
  · refine on_ite ?_ ?_
    · exact portError_kept hv2
    · exact hv2
  · exact h_s

theorem execDlActiveUp_kept {pq : List Instr} {port : Nat} {rate : Nat} {width : Nat} {flit : Bool} {cxl : Nat} {s : State} (h_s : Kept pq s) : (OnNext (Kept pq)) (execDlActiveUp port rate width flit cxl s) := by
  unfold execDlActiveUp
  extract_lets v2 v3 v4 v5
  have hv2 : Kept pq v2 := by
    unfold v2
    exact fset_kept (fset_kept (fset_kept h_s))
  clear_value v2
  have hv3 : Kept pq v3 := by
    unfold v3
    exact fset_kept (fset_kept hv2)
  clear_value v3
  have hv4 : Kept pq v4 := by
    unfold v4
    exact setUp_kept hv3
  clear_value v4
  have hv5 : Kept pq v5 := by
    unfold v5
    refine on_ite ?_ ?_
    · exact fset_kept hv4
    · exact hv4
  clear_value v5
  refine on_next ?_
  refine on_ite ?_ ?_
  · exact sendHeld_kept hv5
  · exact h_s

theorem execL0sEntry_kept {pq : List Instr} {port : Nat} {s : State} (h_s : Kept pq s) : (OnNext (Kept pq)) (execL0sEntry port s) := by
  unfold execL0sEntry
  refine on_next ?_
  refine on_ite ?_ ?_
  · exact fset_kept h_s
  · exact h_s

theorem execL1Entry_kept {pq : List Instr} {port : Nat} {s : State} (h_s : Kept pq s) : (OnNext (Kept pq)) (execL1Entry port s) := by
  unfold execL1Entry
  refine on_next ?_
  refine on_ite ?_ ?_
  · exact fset_kept h_s
  · exact h_s

theorem execL1EarlyExit_kept {pq : List Instr} {port : Nat} {s : State} (h_s : Kept pq s) : (OnNext (Kept pq)) (execL1EarlyExit port s) := by
  unfold execL1EarlyExit
  refine on_next ?_
  refine on_ite ?_ ?_
  · exact linkWake_kept h_s
  · exact h_s

theorem portRetrain_kept {pq : List Instr} {port : Nat} {s : State} (h_s : Kept pq s) : Kept pq (portRetrain port s) := by
  unfold portRetrain
  refine on_ite ?_ ?_
  · exact fset_kept h_s
  · refine on_ite ?_ ?_
    · exact linkDown_kept h_s
    · exact h_s

theorem execHostpPortRetrain_kept {pq : List Instr} {port : Nat} {s : State} (h_s : Kept pq s) : (OnNext (Kept pq)) (execHostpPortRetrain port s) := by
  unfold execHostpPortRetrain
  refine on_next ?_
  refine on_ite ?_ ?_
  · exact portRetrain_kept h_s
  · exact h_s

theorem writePortCtrl_kept {pq : List Instr} {port : Nat} {via : Option Nat} {v : Word} {s : State} (h_s : Kept pq s) : Kept pq (writePortCtrl port via v s) := by
  unfold writePortCtrl
  extract_lets v2 v3
  have hv2 : Kept pq v2 := by
    unfold v2
    exact fset_kept (fset_kept h_s)
  clear_value v2
  have hv3 : Kept pq v3 := by
    unfold v3
    refine on_ite ?_ ?_
    · exact portRelease_kept hv2
    · exact hv2
  clear_value v3
  refine on_ite ?_ ?_
  · exact portRetrain_kept hv3
  · exact hv3

theorem portHostReset_kept {pq : List Instr} {port : Nat} {silent : Bool} {s : State} (h_s : Kept pq s) : Kept pq (portHostReset port silent s) := by
  unfold portHostReset
  extract_lets v2 v3
  have hv2 : Kept pq v2 := by
    unfold v2
    exact ⟨h_s.1, h_s.2.1, h_s.2.2⟩
  clear_value v2
  have hv3 : Kept pq v3 := by
    unfold v3
    exact fset_kept (fset_kept (setAts_kept hv2))
  clear_value v3
  exact idePortLost_kept hv3

theorem execFundamentalReset_kept {pq : List Instr} {port : Nat} {kind : Nat} {s : State} (h_s : Kept pq s) : (OnNext (Kept pq)) (execFundamentalReset port kind s) := by
  unfold execFundamentalReset
  extract_lets v2
  have hv2 : Kept pq v2 := by
    unfold v2
    refine on_ite ?_ ?_
    · exact ⟨h_s.1, h_s.2.1, h_s.2.2⟩
    · exact h_s
  clear_value v2
  refine on_next ?_
  refine on_ite ?_ ?_
  · exact hv2
  · exact portHostReset_kept (linkDown_kept hv2)

theorem execPerstDeassert_kept {pq : List Instr} {port : Nat} {s : State} (h_s : Kept pq s) : (OnNext (Kept pq)) (execPerstDeassert port s) := by
  unfold execPerstDeassert
  extract_lets v2 v3
  have hv2 : Kept pq v2 := by
    unfold v2
    exact ⟨h_s.1, h_s.2.1, h_s.2.2⟩
  clear_value v2
  have hv3 : Kept pq v3 := by
    unfold v3
    exact emit_kept hv2
  clear_value v3
  refine on_next ?_
  refine on_ite ?_ ?_
  · exact h_s
  · refine on_ite ?_ ?_
    · exact fset_kept hv3
    · exact hv3

theorem execFunctionLevelReset_kept {pq : List Instr} {port : Nat} {fn : Nat} {s : State} (h_s : Kept pq s) : (OnNext (Kept pq)) (execFunctionLevelReset port fn s) := by
  unfold execFunctionLevelReset
  extract_lets v2 v3 v4 v5
  have hv2 : Kept pq v2 := by
    unfold v2
    exact resetPartition_kept h_s
  clear_value v2
  have hv3 : Kept pq v3 := by
    unfold v3
    exact tearSilent_kept hv2
  clear_value v3
  have hv4 : Kept pq v4 := by
    unfold v4
    exact ⟨hv3.1, hv3.2.1, hv3.2.2⟩
  clear_value v4
  have hv5 : Kept pq v5 := by
    unfold v5
    refine on_ite ?_ ?_
    · exact fset_kept hv4
    · exact hv4
  clear_value v5
  refine on_next ?_
  refine on_ite ?_ ?_
  · exact h_s
  · refine on_ite ?_ ?_
    · exact clearAsk_kept hv5
    · exact hv5

theorem execD3hotEntry_kept {pq : List Instr} {port : Nat} {fn : Nat} {s : State} (h_s : Kept pq s) : (OnNext (Kept pq)) (execD3hotEntry port fn s) := by
  unfold execD3hotEntry
  extract_lets v2 v3 v4
  clear_value v2
  have hv3 : Kept pq v3 := by
    unfold v3
    exact ⟨h_s.1, h_s.2.1, h_s.2.2⟩
  clear_value v3
  have hv4 : Kept pq v4 := by
    unfold v4
    refine on_ite ?_ ?_
    · exact fset_kept hv3
    · exact emit_kept hv3
  clear_value v4
  refine on_next ?_
  refine on_ite ?_ ?_
  · exact h_s
  · exact markWait_kept hv4

theorem execD0Return_kept {pq : List Instr} {port : Nat} {fn : Nat} {s : State} (h_s : Kept pq s) : (OnNext (Kept pq)) (execD0Return port fn s) := by
  unfold execD0Return
  extract_lets v2
  have hv2 : Kept pq v2 := by
    unfold v2
    exact ⟨h_s.1, h_s.2.1, h_s.2.2⟩
  clear_value v2
  refine on_next ?_
  refine on_ite ?_ ?_
  · exact h_s
  · refine sendHeld_kept ?_
    refine on_ite ?_ ?_
    · exact fset_kept hv2
    · exact hv2

theorem execD3coldEntry_kept {pq : List Instr} {s : State} (h_s : Kept pq s) : (OnNext (Kept pq)) (execD3coldEntry s) := by
  unfold execD3coldEntry
  extract_lets v2 v3 v4 v5 v6
  have hv2 : Kept pq v2 := by
    unfold v2
    exact powerOn_kept h_s
  clear_value v2
  have hv3 : Kept pq v3 := by
    unfold v3
    exact ⟨hv2.1, hv2.2.1, hv2.2.2⟩
  clear_value v3
  have hv4 : Kept pq v4 := by
    unfold v4
    exact rset_kept hv3
  clear_value v4
  have hv5 : Kept pq v5 := by
    unfold v5
    exact rset_kept hv4
  clear_value v5
  have hv6 : Kept pq v6 := by
    unfold v6
    exact fset_kept (fset_kept hv5)
  clear_value v6
  refine on_next ?_
  refine on_ite ?_ ?_
  · exact h_s
  · exact fset_kept (fset_kept hv6)

theorem wake_kept {pq : List Instr} {s : State} (h_s : Kept pq s) : Kept pq (wake s) := by
  unfold wake
  refine on_ite ?_ ?_
  · exact emit_kept ⟨h_s.1, h_s.2.1, h_s.2.2⟩
  · refine on_ite ?_ ?_
    · exact emit_kept h_s
    · exact h_s

theorem execHpaButtonPress_kept {pq : List Instr} {s : State} (h_s : Kept pq s) : (OnNext (Kept pq)) (execHpaButtonPress s) := by
  unfold execHpaButtonPress
  refine on_next ?_
  refine on_ite ?_ ?_
  · exact h_s
  · exact wake_kept (msixRaise_kept (fset_kept h_s))

theorem lossBegin_kept {pq : List Instr} {declared : Bool} {s : State} (h_s : Kept pq s) : Kept pq (lossBegin declared s) := by
  unfold lossBegin
  extract_lets v2 v3 v4 v5 v6 v7 v8
  have hv2 : Kept pq v2 := by
    unfold v2
    refine on_ite ?_ ?_
    · exact fset_kept (logErr_kept h_s)
    · exact h_s
  clear_value v2
  have hv3 : Kept pq v3 := by
    unfold v3
    exact setHubState_kept (fset_kept hv2)
  clear_value v3
  have hv4 : Kept pq v4 := by
    unfold v4
    refine on_foldl ?_ (fun t18 _ h19 => ?_)
    · exact hv3
    · exact portHostReset_kept h19
  clear_value v4
  have hv5 : Kept pq v5 := by
    unfold v5
    refine on_foldl ?_ (fun t24 _ h25 => ?_)
    · exact hv4
    · refine on_ite ?_ ?_
      · exact setTdisp_kept h25
      · exact h25
  clear_value v5
  have hv6 : Kept pq v6 := by
    unfold v6
    refine on_foldl ?_ (fun t32 _ h33 => ?_)
    · exact hv5
    · exact rset_kept h33
  clear_value v6
  have hv7 : Kept pq v7 := by
    unfold v7
    refine on_foldl ?_ (fun t38 _ h39 => ?_)
    · exact hv6
    · exact rset_kept h39
  clear_value v7
  have hv8 : Kept pq v8 := by
    unfold v8
    exact ⟨hv7.1, hv7.2.1, hv7.2.2⟩
  clear_value v8
  refine on_ite ?_ ?_
  · exact leaveDomain_kept hv8
  · exact lossDepart_kept (faultAll_kept (cancelTiles_kept hv8))

theorem execHostLinkLost_kept {pq : List Instr} {s : State} (h_s : Kept pq s) : (OnNext (Kept pq)) (execHostLinkLost s) := by
  unfold execHostLinkLost
  refine on_next ?_
  refine on_ite ?_ ?_
  · exact h_s
  · exact lossBegin_kept (fset_kept h_s)

theorem hotRemove_kept {pq : List Instr} {s : State} (h_s : Kept pq s) : Kept pq (hotRemove s) := by
  unfold hotRemove
  extract_lets v2 v3
  have hv2 : Kept pq v2 := by
    unfold v2
    refine on_foldl ?_ (fun t5 _ h6 => ?_)
    · exact h_s
    · refine on_ite ?_ ?_
      · exact clearAsk_kept h6
      · exact h6
  clear_value v2
  have hv3 : Kept pq v3 := by
    unfold v3
    exact removalStep_kept ⟨hv2.1, hv2.2.1, hv2.2.2⟩
  clear_value v3
  refine on_ite ?_ ?_
  · exact leaveDomain_kept hv3
  · exact lossDepart_kept (faultAll_kept (cancelTiles_kept hv3))

theorem writeHotplug_kept {pq : List Instr} {v : Word} {s : State} (h_s : Kept pq s) : Kept pq (writeHotplug v s) := by
  unfold writeHotplug
  extract_lets v2 v3 v4 v5
  have hv2 : Kept pq v2 := by
    unfold v2
    refine on_ite ?_ ?_
    · exact fset_kept h_s
    · exact h_s
  clear_value v2
  have hv3 : Kept pq v3 := by
    unfold v3
    exact fset_kept (fset_kept hv2)
  clear_value v3
  have hv4 : Kept pq v4 := by
    unfold v4
    exact emit_kept hv3
  clear_value v4
  have hv5 : Kept pq v5 := by
    unfold v5
    refine on_ite ?_ ?_
    · exact wake_kept hv4
    · exact hv4
  clear_value v5
  refine on_ite ?_ ?_
  · exact hotRemove_kept hv5
  · exact hv5

theorem execHostpHotplugRemove_kept {pq : List Instr} {v : Word} {s : State} (h_s : Kept pq s) : (OnNext (Kept pq)) (execHostpHotplugRemove v s) := by
  unfold execHostpHotplugRemove
  refine on_next ?_
  refine on_ite ?_ ?_
  · exact writeHotplug_kept h_s
  · exact h_s

theorem execHostpHotplugWakeReq_kept {pq : List Instr} {v : Word} {s : State} (h_s : Kept pq s) : (OnNext (Kept pq)) (execHostpHotplugWakeReq v s) := by
  unfold execHostpHotplugWakeReq
  refine on_next ?_
  refine on_ite ?_ ?_
  · exact writeHotplug_kept h_s
  · exact h_s

theorem execAtsInvalidateRequest_kept {pq : List Instr} {port : Nat} {fn : Nat} {page : Nat} {log2 : Nat} {itag : Nat} {s : State} (h_s : Kept pq s) : (OnNext (Kept pq)) (execAtsInvalidateRequest port fn page log2 itag s) := by
  unfold execAtsInvalidateRequest
  extract_lets v2 v3 v4 v5
  clear_value v2
  have hv3 : Kept pq v3 := by
    unfold v3
    exact ⟨h_s.1, h_s.2.1, h_s.2.2⟩
  clear_value v3 v4
  have hv5 : Kept pq v5 := by
    unfold v5
    refine on_ite ?_ ?_
    · exact logErr_kept ⟨hv3.1, hv3.2.1, hv3.2.2⟩
    · exact hv3
  clear_value v5
  refine on_next ?_
  refine on_ite ?_ ?_
  · exact h_s
  · exact fset_kept hv5

theorem execAtsInvalidateDrained_kept {pq : List Instr} {port : Nat} {itag : Nat} {s : State} (h_s : Kept pq s) : (OnNext (Kept pq)) (execAtsInvalidateDrained port itag s) := by
  unfold execAtsInvalidateDrained
  refine on_next ?_
  split
  · rename_i w3 w4
    exact h_s
  · rename_i w6 w7 w8
    extract_lets v10 v11
    have hv10 : Kept pq v10 := by
      unfold v10
      exact ⟨h_s.1, h_s.2.1, h_s.2.2⟩
    clear_value v10
    have hv11 : Kept pq v11 := by
      unfold v11
      exact fset_kept (setAts_kept hv10)
    clear_value v11
    refine on_ite ?_ ?_
    · exact h_s
    · exact emit_kept (fbump_kept hv11)

theorem writeBiasFlip_kept {pq : List Instr} {v : Word} {s : State} (h_s : Kept pq s) : Kept pq (writeBiasFlip v s) := by
  unfold writeBiasFlip
  extract_lets v2 v3 v4 v5 v6
  clear_value v2 v3
  have hv4 : Kept pq v4 := by
    unfold v4
    exact rset_kept h_s
  clear_value v4
  have hv5 : Kept pq v5 := by
    unfold v5
    exact fset_kept hv4
  clear_value v5
  have hv6 : Kept pq v6 := by
    unfold v6
    exact fset_kept ⟨hv5.1, hv5.2.1, hv5.2.2⟩
  clear_value v6
  refine on_ite ?_ ?_
  · exact rset_kept h_s
  · refine on_ite ?_ ?_
    · exact hv4
    · refine on_ite ?_ ?_
      · exact fset_kept hv4
      · refine on_ite ?_ ?_
        · exact setBias_kept hv5
        · refine flipCheck_kept ?_
          refine on_foldl ?_ (fun t26 _ h27 => ?_)
          · exact hv6
          · exact cohRun_kept h27

theorem execHostpBiasFlipStart_kept {pq : List Instr} {v : Word} {s : State} (h_s : Kept pq s) : (OnNext (Kept pq)) (execHostpBiasFlipStart v s) := by
  unfold execHostpBiasFlipStart
  refine on_next ?_
  refine on_ite ?_ ?_
  · exact writeBiasFlip_kept h_s
  · exact h_s

theorem writeBind_kept {pq : List Instr} {f : Nat} {v : Word} {s : State} (h_s : Kept pq s) : Kept pq (writeBind f v s) := by
  unfold writeBind
  extract_lets v2
  have hv2 : Kept pq v2 := by
    unfold v2
    exact fset_kept (fset_kept h_s)
  clear_value v2
  refine on_ite ?_ ?_
  · exact logRefused_kept h_s
  · refine on_ite ?_ ?_
    · exact hv2
    · refine on_ite ?_ ?_
      · exact logRefused_kept hv2
      · exact fset_kept hv2

theorem writeBar4_kept {pq : List Instr} {f : Nat} {k : Nat} {v : Word} {s : State} (h_s : Kept pq s) : Kept pq (writeBar4 f k v s) := by
  unfold writeBar4
  extract_lets v2 v3 v4
  clear_value v2
  have hv3 : Kept pq v3 := by
    unfold v3
    exact rset_kept h_s
  clear_value v3 v4
  refine on_ite ?_ ?_
  · exact logRefused_kept h_s
  · refine on_ite ?_ ?_
    · exact hv3
    · refine on_ite ?_ ?_
      · exact logRefused_kept hv3
      · exact fset_kept hv3

theorem writeBar4Dpa_kept {pq : List Instr} {f : Nat} {k : Nat} {v : Word} {s : State} (h_s : Kept pq s) : Kept pq (writeBar4Dpa f k v s) := by
  unfold writeBar4Dpa
  extract_lets v2 v3
  clear_value v2
  have hv3 : Kept pq v3 := by
    unfold v3
    exact rset_kept h_s
  clear_value v3
  refine on_ite ?_ ?_
  · exact logRefused_kept h_s
  · refine on_ite ?_ ?_
    · exact logRefused_kept (fset_kept hv3)
    · exact hv3

theorem execHostfBar4Enable_kept {pq : List Instr} {fn : Nat} {dec : Nat} {v : Word} {s : State} (h_s : Kept pq s) : (OnNext (Kept pq)) (execHostfBar4Enable fn dec v s) := by
  unfold execHostfBar4Enable
  refine on_next ?_
  refine on_ite ?_ ?_
  · exact writeBar4_kept h_s
  · exact h_s

end Sys2Proof.Machine
end

