-- ==== Sys2Proof/Laws/KeptSecurity.lean ====
section
/-! SUPPORT. Laws/KeptSecurity.lean: what Machine/Security.lean keeps (Laws/Kept.lean says what that is). -/
namespace Sys2Proof.Machine

theorem execAttestReport_kept {pq : List Instr} {cmd : Nat} {host : List Byte} {s : State} (h_s : Kept pq s) : (OnNext (Kept pq)) (execAttestReport cmd host s) := by
  unfold execAttestReport
  refine on_next ?_
  refine startOp_kept ?_ ?_
  · intro a3 a4 a5
    extract_lets v7
    clear_value v7
    split
    · rename_i w9 w10 w11
      exact on_mk a5
    · rename_i w14 w15 w16 w17
      split
      · rename_i w19 w20 w21
        exact on_mk (vaFailed_kept a5)
      · rename_i w25 w26 w27
        refine on_ite ?_ ?_
        · exact on_mk a5
        · refine on_ite ?_ ?_
          · exact on_mk a5
          · exact on_mk a5
  · exact h_s

theorem measureObject_kept {pq : List Instr} {p : Nat} {ctx : Nat} {obj : Nat} {off : Nat} {len : Nat} {host : List Byte} {s : State} (h_s : Kept pq s) : (OnSnd (Kept pq)) (measureObject p ctx obj off len host s) := by
  unfold measureObject
  refine on_ite ?_ ?_
  · exact on_mk h_s
  · split
    · rename_i w5 w6
      exact on_mk h_s
    · rename_i w9 w10 w11
      extract_lets v13
      clear_value v13
      refine on_ite ?_ ?_
      · exact on_mk h_s
      · split
        · rename_i w18 w19 w20
          exact on_mk (vaFailed_kept h_s)
        · rename_i w24 w25 w26
          extract_lets v28
          clear_value v28
          exact on_mk (partMod_kept (countVaReads_kept h_s))

theorem spdmMod_kept {pq : List Instr} {ch : Nat} {f : Spdm → Spdm} {s : State} (h_s : Kept pq s) : Kept pq (spdmMod ch f s) := by
  unfold spdmMod
  exact ⟨h_s.1, h_s.2.1, h_s.2.2⟩

theorem spdmSay_kept {pq : List Instr} {ch : Nat} {msg : List Byte} {r : List Byte} {s : State} (h_s : Kept pq s) : (OnSnd (Kept pq)) (spdmSay ch msg r s) := by
  unfold spdmSay
  exact on_mk (spdmMod_kept h_s)

theorem draw_kept {pq : List Instr} {s : State} (h_s : Kept pq s) : (OnSnd (Kept pq)) (draw s) := by
  unfold draw
  exact on_mk (tickFresh_kept h_s)

theorem spdmAnswer_kept {pq : List Instr} {ch : Nat} {part : Option Nat} {msg : List Byte} {s : State} (h_s : Kept pq s) : (OnSnd (Kept pq)) (spdmAnswer ch part msg s) := by
  unfold spdmAnswer
  extract_lets v2 v3 v4 v5 v6 v7
  clear_value v2 v3 v4 v5 v6 v7
  refine on_ite ?_ ?_
  · exact on_mk h_s
  · refine on_ite ?_ ?_
    · refine on_ite ?_ ?_
      · exact on_mk h_s
      · exact spdmSay_kept ⟨h_s.1, h_s.2.1, h_s.2.2⟩
    · refine on_ite ?_ ?_
      · exact on_mk h_s
      · refine on_ite ?_ ?_
        · refine on_ite ?_ ?_
          · exact on_mk h_s
          · exact spdmSay_kept (spdmMod_kept h_s)
        · refine on_ite ?_ ?_
          · refine on_ite ?_ ?_
            · exact on_mk h_s
            · refine on_ite ?_ ?_
              · exact on_mk h_s
              · exact spdmSay_kept (spdmMod_kept h_s)
          · refine on_ite ?_ ?_
            · exact on_mk h_s
            · refine on_ite ?_ ?_
              · exact on_mk h_s
              · refine on_ite ?_ ?_
                · exact on_mk h_s
                · refine on_ite ?_ ?_
                  · exact spdmSay_kept h_s
                  · refine on_ite ?_ ?_
                    · refine on_ite ?_ ?_
                      · exact on_mk h_s
                      · exact spdmSay_kept h_s
                    · refine on_ite ?_ ?_
                      · refine on_ite ?_ ?_
                        · exact on_mk h_s
                        · split
                          rename_i w60 w61 w62 w63
                          refine on_use (P := (OnSnd (Kept pq))) w63 ?_ (fun hw63 => ?_)
                          · exact draw_kept h_s
                          extract_lets v67
                          clear_value v67
                          exact spdmSay_kept hw63
                      · refine on_ite ?_ ?_
                        · exact spdmSay_kept h_s
                        · refine on_ite ?_ ?_
                          · refine on_ite ?_ ?_
                            · exact on_mk h_s
                            · split
                              rename_i w78 w79 w80 w81
                              refine on_use (P := (OnSnd (Kept pq))) w81 ?_ (fun hw81 => ?_)
                              · exact draw_kept h_s
                              extract_lets v85 v86
                              clear_value v85 v86
                              exact spdmSay_kept (spdmMod_kept hw81)
                          · refine on_ite ?_ ?_
                            · refine on_ite ?_ ?_
                              · exact on_mk h_s
                              · refine on_ite ?_ ?_
                                · exact on_mk h_s
                                · exact spdmSay_kept (spdmMod_kept h_s)
                            · refine on_ite ?_ ?_
                              · exact on_mk h_s
                              · refine on_ite ?_ ?_
                                · exact spdmSay_kept h_s
                                · refine on_ite ?_ ?_
                                  · exact spdmSay_kept (spdmMod_kept h_s)
                                  · exact spdmSay_kept (spdmMod_kept h_s)

theorem spdmArrives_kept {pq : List Instr} {code : Nat} {ch : Nat} {part : Option Nat} {msg : List Byte} {s : State} (h_s : Kept pq s) : (OnNext (Kept pq)) (spdmArrives code ch part msg s) := by
  unfold spdmArrives
  refine on_next ?_
  refine on_ite ?_ ?_
  · split
    rename_i w4 w5 w6 w7
    refine on_use (P := (OnSnd (Kept pq))) w7 ?_ (fun hw7 => ?_)
    · exact spdmAnswer_kept h_s
    exact emit_kept hw7
  · exact h_s

theorem execGetVersion_kept {pq : List Instr} {ch : Nat} {part : Option Nat} {msg : List Byte} {s : State} (h_s : Kept pq s) : (OnNext (Kept pq)) (execGetVersion ch part msg s) := by
  unfold execGetVersion
  exact spdmArrives_kept h_s

theorem execGetCapabilities_kept {pq : List Instr} {ch : Nat} {part : Option Nat} {msg : List Byte} {s : State} (h_s : Kept pq s) : (OnNext (Kept pq)) (execGetCapabilities ch part msg s) := by
  unfold execGetCapabilities
  exact spdmArrives_kept h_s

theorem execNegotiateAlgorithms_kept {pq : List Instr} {ch : Nat} {part : Option Nat} {msg : List Byte} {s : State} (h_s : Kept pq s) : (OnNext (Kept pq)) (execNegotiateAlgorithms ch part msg s) := by
  unfold execNegotiateAlgorithms
  exact spdmArrives_kept h_s

theorem execGetDigests_kept {pq : List Instr} {ch : Nat} {part : Option Nat} {msg : List Byte} {s : State} (h_s : Kept pq s) : (OnNext (Kept pq)) (execGetDigests ch part msg s) := by
  unfold execGetDigests
  exact spdmArrives_kept h_s

theorem execGetCertificate_kept {pq : List Instr} {ch : Nat} {part : Option Nat} {msg : List Byte} {s : State} (h_s : Kept pq s) : (OnNext (Kept pq)) (execGetCertificate ch part msg s) := by
  unfold execGetCertificate
  exact spdmArrives_kept h_s

theorem execChallenge_kept {pq : List Instr} {ch : Nat} {part : Option Nat} {msg : List Byte} {s : State} (h_s : Kept pq s) : (OnNext (Kept pq)) (execChallenge ch part msg s) := by
  unfold execChallenge
  exact spdmArrives_kept h_s

theorem execGetMeasurements_kept {pq : List Instr} {ch : Nat} {part : Option Nat} {msg : List Byte} {s : State} (h_s : Kept pq s) : (OnNext (Kept pq)) (execGetMeasurements ch part msg s) := by
  unfold execGetMeasurements
  exact spdmArrives_kept h_s

theorem execKeyExchange_kept {pq : List Instr} {ch : Nat} {part : Option Nat} {msg : List Byte} {s : State} (h_s : Kept pq s) : (OnNext (Kept pq)) (execKeyExchange ch part msg s) := by
  unfold execKeyExchange
  exact spdmArrives_kept h_s

theorem execFinish_kept {pq : List Instr} {ch : Nat} {part : Option Nat} {msg : List Byte} {s : State} (h_s : Kept pq s) : (OnNext (Kept pq)) (execFinish ch part msg s) := by
  unfold execFinish
  exact spdmArrives_kept h_s

theorem execHeartbeat_kept {pq : List Instr} {ch : Nat} {part : Option Nat} {msg : List Byte} {s : State} (h_s : Kept pq s) : (OnNext (Kept pq)) (execHeartbeat ch part msg s) := by
  unfold execHeartbeat
  exact spdmArrives_kept h_s

theorem execKeyUpdate_kept {pq : List Instr} {ch : Nat} {part : Option Nat} {msg : List Byte} {s : State} (h_s : Kept pq s) : (OnNext (Kept pq)) (execKeyUpdate ch part msg s) := by
  unfold execKeyUpdate
  exact spdmArrives_kept h_s

theorem execEndSession_kept {pq : List Instr} {ch : Nat} {part : Option Nat} {msg : List Byte} {s : State} (h_s : Kept pq s) : (OnNext (Kept pq)) (execEndSession ch part msg s) := by
  unfold execEndSession
  exact spdmArrives_kept h_s

theorem measureAnswer_kept {pq : List Instr} {ch : Nat} {part : Option Nat} {ctx : Nat} {obj : Nat} {off : Nat} {len : Nat} {host : List Byte} {s : State} (h_s : Kept pq s) : (OnSnd (Kept pq)) (measureAnswer ch part ctx obj off len host s) := by
  unfold measureAnswer
  refine on_ite ?_ ?_
  · exact on_mk h_s
  · split
    · rename_i w5 w6 w7 w8
      refine on_use (P := (OnSnd (Kept pq))) w8 ?_ (fun hw8 => ?_)
      · exact measureObject_kept h_s
      exact on_mk hw8
    · rename_i w13 w14 w15
      refine on_use (P := (OnSnd (Kept pq))) w15 ?_ (fun hw15 => ?_)
      · exact measureObject_kept h_s
      exact on_mk hw15

theorem execMeasureObject_kept {pq : List Instr} {ch : Nat} {part : Option Nat} {ctx : Nat} {obj : Nat} {off : Nat} {len : Nat} {host : List Byte} {s : State} (h_s : Kept pq s) : (OnNext (Kept pq)) (execMeasureObject ch part ctx obj off len host s) := by
  unfold execMeasureObject
  refine on_next ?_
  refine on_ite ?_ ?_
  · split
    rename_i w4 w5 w6 w7
    refine on_use (P := (OnSnd (Kept pq))) w7 ?_ (fun hw7 => ?_)
    · exact measureAnswer_kept h_s
    exact emit_kept hw7
  · exact h_s

theorem execSpdm_kept {pq : List Instr} {cmd : Nat} {part : Option Nat} {host : List Byte} {s : State} (h_s : Kept pq s) : (OnNext (Kept pq)) (execSpdm cmd part host s) := by
  unfold execSpdm
  refine on_next ?_
  refine startOp_kept ?_ ?_
  · intro a3 a4 a5
    split
    · rename_i w7 w8 w9
      exact on_mk (dataFailed_kept a5)
    · rename_i w13 w14 w15
      extract_lets v17
      clear_value v17
      split
      rename_i w19 w20 w21 w22
      refine on_use (P := (OnSnd (Kept pq))) w22 ?_ (fun hw22 => ?_)
      · refine on_ite ?_ ?_
        · refine on_ite ?_ ?_
          · exact measureAnswer_kept a5
          · exact on_mk a5
        · exact spdmAnswer_kept a5
      refine on_ite ?_ ?_
      · exact on_mk a5
      · exact on_mk hw22
  · exact h_s

theorem ideSet_kept {pq : List Instr} {f : Nat} {v : Nat} {s : State} (h_s : Kept pq s) : Kept pq (ideSet f v s) := by
  unfold ideSet
  extract_lets v2 v3
  clear_value v2
  have hv3 : Kept pq v3 := by
    unfold v3
    exact ⟨h_s.1, h_s.2.1, h_s.2.2⟩
  clear_value v3
  refine on_ite ?_ ?_
  · refine on_ite ?_ ?_
    · exact tdispError_kept hv3
    · exact hv3
  · exact fset_kept hv3

theorem execIdeKm_kept {pq : List Instr} {fn : Nat} {kind : Nat} {sub : Nat} {s : State} (h_s : Kept pq s) : (OnNext (Kept pq)) (execIdeKm fn kind sub s) := by
  unfold execIdeKm
  extract_lets v2 v3 v4 v5
  clear_value v2 v3 v4
  have hv5 : Kept pq v5 := by
    unfold v5
    exact ideSet_kept h_s
  clear_value v5
  refine on_next ?_
  refine on_ite ?_ ?_
  · exact h_s
  · refine on_ite ?_ ?_
    · exact emit_kept h_s
    · refine on_ite ?_ ?_
      · exact emit_kept h_s
      · exact emit_kept hv5

theorem execPartSecure_kept {pq : List Instr} {cmd : Nat} {s : State} (h_s : Kept pq s) : (OnNext (Kept pq)) (execPartSecure cmd s) := by
  unfold execPartSecure
  refine on_next ?_
  refine startCmd_kept ?_ ?_
  · intro a3 a4 a5
    extract_lets v7
    clear_value v7
    split
    · rename_i w9 w10 w11
      exact on_mk a5
    · rename_i w14 w15
      refine on_ite ?_ ?_
      · exact on_mk a5
      · exact on_mk (placeKeys_kept (fset_kept (fset_kept a5)))
  · exact h_s

theorem execPartSecureClear_kept {pq : List Instr} {cmd : Nat} {s : State} (h_s : Kept pq s) : (OnNext (Kept pq)) (execPartSecureClear cmd s) := by
  unfold execPartSecureClear
  refine on_next ?_
  refine startCmd_kept ?_ ?_
  · intro a3 a4 a5
    extract_lets v7
    clear_value v7
    refine on_ite ?_ ?_
    · exact on_mk a5
    · refine on_ite ?_ ?_
      · exact on_mk a5
      · exact on_mk (clearAsk_kept ⟨a5.1, a5.2.1, a5.2.2⟩)
  · exact h_s

theorem tdispMsg_kept {pq : List Instr} {fn : Nat} {f : State → Bool × State} {s : State} (h_f : ∀ y0, Kept pq y0 → (OnSnd (Kept pq)) (f y0)) (h_s : Kept pq s) : (OnNext (Kept pq)) (tdispMsg fn f s) := by
  unfold tdispMsg
  refine on_next ?_
  refine on_ite ?_ ?_
  · exact h_s
  · refine on_ite ?_ ?_
    · exact emit_kept h_s
    · split
      rename_i w8 w9 w10 w11
      refine on_use (P := (OnSnd (Kept pq))) w11 ?_ (fun hw11 => ?_)
      · exact h_f _ h_s
      exact emit_kept hw11

theorem execLockInterfaceRequest_kept {pq : List Instr} {fn : Nat} {s : State} (h_s : Kept pq s) : (OnNext (Kept pq)) (execLockInterfaceRequest fn s) := by
  unfold execLockInterfaceRequest
  refine tdispMsg_kept ?_ ?_
  · intro a2 a3
    extract_lets v5
    have hv5 : Kept pq v5 := by
      unfold v5
      exact setTdisp_kept a3
    clear_value v5
    refine on_ite ?_ ?_
    · exact on_mk a3
    · exact on_mk (partMod_kept hv5)
  · exact h_s

theorem execStartInterfaceRequest_kept {pq : List Instr} {fn : Nat} {s : State} (h_s : Kept pq s) : (OnNext (Kept pq)) (execStartInterfaceRequest fn s) := by
  unfold execStartInterfaceRequest
  refine tdispMsg_kept ?_ ?_
  · intro a2 a3
    refine on_ite ?_ ?_
    · exact on_mk a3
    · exact on_mk (setTdisp_kept a3)
  · exact h_s

theorem execStopInterfaceRequest_kept {pq : List Instr} {fn : Nat} {s : State} (h_s : Kept pq s) : (OnNext (Kept pq)) (execStopInterfaceRequest fn s) := by
  unfold execStopInterfaceRequest
  refine tdispMsg_kept ?_ ?_
  · intro a2 a3
    refine on_ite ?_ ?_
    · exact on_mk a3
    · refine on_ite ?_ ?_
      · exact on_mk (tdispEnd_kept (setTdisp_kept a3))
      · exact on_mk (setTdisp_kept a3)
  · exact h_s

end Sys2Proof.Machine
end

