-- ==== Sys2Proof/Laws/KeptLifecycle.lean ====
section
/-! SUPPORT. Laws/KeptLifecycle.lean: what Machine/Lifecycle.lean keeps (Laws/Kept.lean says what that is). -/
namespace Sys2Proof.Machine

theorem newNonce_kept {pq : List Instr} {s : State} (h_s : Kept pq s) : Kept pq (newNonce s) := by
  unfold newNonce
  exact tickFresh_kept ⟨h_s.1, h_s.2.1, h_s.2.2⟩

theorem execConfigInstall_kept {pq : List Instr} {cmd : Nat} {host : List Byte} {s : State} (h_s : Kept pq s) : (OnNext (Kept pq)) (execConfigInstall cmd host s) := by
  unfold execConfigInstall
  refine on_next ?_
  refine startOp_kept ?_ ?_
  · intro a3 a4 a5
    split
    · rename_i w7 w8 w9
      exact on_mk (dataFailed_kept a5)
    · rename_i w13 w14 w15
      refine on_ite ?_ ?_
      · exact on_mk ⟨a5.1, a5.2.1, a5.2.2⟩
      · exact on_mk a5
  · exact h_s

theorem execLicenceInstall_kept {pq : List Instr} {cmd : Nat} {host : List Byte} {s : State} (h_s : Kept pq s) : (OnNext (Kept pq)) (execLicenceInstall cmd host s) := by
  unfold execLicenceInstall
  refine on_next ?_
  refine startOp_kept ?_ ?_
  · intro a3 a4 a5
    split
    · rename_i w7 w8 w9
      exact on_mk (dataFailed_kept a5)
    · rename_i w13 w14 w15
      refine on_ite ?_ ?_
      · exact on_mk a5
      · refine on_ite ?_ ?_
        · exact on_mk ⟨a5.1, a5.2.1, a5.2.2⟩
        · exact on_mk ⟨a5.1, a5.2.1, a5.2.2⟩
  · exact h_s

theorem execOwnerEnrol_kept {pq : List Instr} {cmd : Nat} {host : List Byte} {s : State} (h_s : Kept pq s) : (OnNext (Kept pq)) (execOwnerEnrol cmd host s) := by
  unfold execOwnerEnrol
  refine on_next ?_
  refine startOp_kept ?_ ?_
  · intro a3 a4 a5
    split
    · rename_i w7 w8 w9
      exact on_mk (dataFailed_kept a5)
    · rename_i w13 w14 w15
      extract_lets v17 v18
      clear_value v17 v18
      refine on_ite ?_ ?_
      · exact on_mk a5
      · refine on_ite ?_ ?_
        · exact on_mk (newNonce_kept a5)
        · refine on_ite ?_ ?_
          · exact on_mk (newNonce_kept a5)
          · exact on_mk (newNonce_kept ⟨a5.1, a5.2.1, a5.2.2⟩)
  · exact h_s

theorem debugEnd_kept {pq : List Instr} {s : State} (h_s : Kept pq s) : Kept pq (debugEnd s) := by
  unfold debugEnd
  extract_lets v2
  have hv2 : Kept pq v2 := by
    unfold v2
    exact rset_kept h_s
  clear_value v2
  refine on_ite ?_ ?_
  · exact ⟨hv2.1, hv2.2.1, hv2.2.2⟩
  · exact logErr_kept (tpClearAll_kept hv2)

theorem execDebugAuth_kept {pq : List Instr} {cmd : Nat} {host : List Byte} {s : State} (h_s : Kept pq s) : (OnNext (Kept pq)) (execDebugAuth cmd host s) := by
  unfold execDebugAuth
  refine on_next ?_
  refine startOp_kept ?_ ?_
  · intro a3 a4 a5
    split
    · rename_i w7 w8 w9
      exact on_mk (dataFailed_kept a5)
    · rename_i w13 w14 w15
      extract_lets v17 v18 v19
      clear_value v17 v18
      have hv19 : Kept pq v19 := by
        unfold v19
        refine on_ite ?_ ?_
        · exact debugEnd_kept a5
        · exact a5
      clear_value v19
      refine on_ite ?_ ?_
      · exact on_mk a5
      · refine on_ite ?_ ?_
        · exact on_mk (newNonce_kept a5)
        · refine on_ite ?_ ?_
          · exact on_mk (logRefused_kept (newNonce_kept a5))
          · exact on_mk (newNonce_kept (rset_kept hv19))
  · exact h_s

theorem execNonceExpiry_kept {pq : List Instr} {s : State} (h_s : Kept pq s) : (OnNext (Kept pq)) (execNonceExpiry s) := by
  unfold execNonceExpiry
  exact on_next (newNonce_kept h_s)

theorem execDebugAuthExpiry_kept {pq : List Instr} {s : State} (h_s : Kept pq s) : (OnNext (Kept pq)) (execDebugAuthExpiry s) := by
  unfold execDebugAuthExpiry
  refine on_next ?_
  refine on_ite ?_ ?_
  · exact debugEnd_kept h_s
  · exact h_s

theorem execLifecycleSet_kept {pq : List Instr} {cmd : Nat} {s : State} (h_s : Kept pq s) : (OnNext (Kept pq)) (execLifecycleSet cmd s) := by
  unfold execLifecycleSet
  refine on_next ?_
  refine startOp_kept ?_ ?_
  · intro a3 a4 a5
    extract_lets v7 v8
    clear_value v7 v8
    refine on_ite ?_ ?_
    · exact on_mk a5
    · split
      · rename_i w13 w14 w15
        exact on_mk a5
      · rename_i w18 w19
        exact on_mk ⟨a5.1, a5.2.1, a5.2.2⟩
  · exact h_s

theorem endCmd_kept {pq : List Instr} {id : Nat} {st : Nat} {s : State} (h_s : Kept pq s) : Kept pq (endCmd id st s) := by
  unfold endCmd
  refine onRunning_kept ?_ ?_
  · intro a2 a3 a4
    exact finish_kept a4
  · exact h_s

theorem otpEnd_kept {pq : List Instr} {j : OtpJob} {ok : Bool} {s : State} (h_s : Kept pq s) : Kept pq (otpEnd j ok s) := by
  unfold otpEnd
  extract_lets v2
  clear_value v2
  split
  · rename_i w4 w5 w6 w7
    extract_lets v9
    have hv9 : Kept pq v9 := by
      unfold v9
      exact ⟨h_s.1, h_s.2.1, h_s.2.2⟩
    clear_value v9
    refine on_ite ?_ ?_
    · exact programRow_kept (setDefStatus_kept (logErr_kept hv9))
    · refine on_ite ?_ ?_
      · exact ⟨h_s.1, h_s.2.1, h_s.2.2⟩
      · exact setDefStatus_kept (fset_kept ⟨h_s.1, h_s.2.1, h_s.2.2⟩)
  · rename_i w21 w22 w23 w24
    extract_lets v26 v27 v28 v29 v30
    clear_value v26
    have hv27 : Kept pq v27 := by
      unfold v27
      exact ⟨h_s.1, h_s.2.1, h_s.2.2⟩
    clear_value v27 v28 v29
    have hv30 : Kept pq v30 := by
      unfold v30
      exact ⟨h_s.1, h_s.2.1, h_s.2.2⟩
    clear_value v30
    refine on_ite ?_ ?_
    · exact endCmd_kept (fset_kept (tickFresh_kept hv27))
    · refine on_ite ?_ ?_
      · exact endCmd_kept (fset_kept hv30)
      · refine on_ite ?_ ?_
        · exact ⟨hv30.1, hv30.2.1, hv30.2.2⟩
        · exact endCmd_kept (fset_kept (fset_kept hv30))
  · rename_i w48 w49 w50 w51
    extract_lets v53 v54
    have hv53 : Kept pq v53 := by
      unfold v53
      exact ⟨h_s.1, h_s.2.1, h_s.2.2⟩
    clear_value v53
    have hv54 : Kept pq v54 := by
      unfold v54
      exact fset_kept (fset_kept hv53)
    clear_value v54
    exact endCmd_kept hv54
  · rename_i w61 w62 w63 w64
    extract_lets v66 v67 v68
    clear_value v66
    have hv67 : Kept pq v67 := by
      unfold v67
      exact ⟨h_s.1, h_s.2.1, h_s.2.2⟩
    clear_value v67
    have hv68 : Kept pq v68 := by
      unfold v68
      exact fset_kept (fset_kept (tickFresh_kept hv67))
    clear_value v68
    refine on_ite ?_ ?_
    · exact setStep_kept ⟨hv68.1, hv68.2.1, hv68.2.2⟩
    · exact endCmd_kept hv68

theorem execOtpProgramDone_kept {pq : List Instr} {ok : Bool} {s : State} (h_s : Kept pq s) : (OnNext (Kept pq)) (execOtpProgramDone ok s) := by
  unfold execOtpProgramDone
  refine on_next ?_
  split
  · rename_i w3 w4
    exact h_s
  · rename_i w6 w7 w8 w9
    exact sweep_kept (otpEnd_kept ⟨h_s.1, h_s.2.1, h_s.2.2⟩)

theorem flashEnd_kept {pq : List Instr} {j : FlashJob} {s : State} (h_s : Kept pq s) : Kept pq (flashEnd j s) := by
  unfold flashEnd
  extract_lets v2
  clear_value v2
  split
  · rename_i w4 w5 w6 w7
    exact endCmd_kept ⟨h_s.1, h_s.2.1, h_s.2.2⟩
  · rename_i w10 w11 w12
    exact endCmd_kept ⟨h_s.1, h_s.2.1, h_s.2.2⟩
  · rename_i w15 w16 w17
    exact endCmd_kept (fset_kept ⟨h_s.1, h_s.2.1, h_s.2.2⟩)

theorem execFlashWriteDone_kept {pq : List Instr} {area : Nat} {s : State} (h_s : Kept pq s) : (OnNext (Kept pq)) (execFlashWriteDone area s) := by
  unfold execFlashWriteDone
  refine on_next ?_
  refine on_ite ?_ ?_
  · exact ledgerDone_kept h_s
  · split
    · rename_i w6 w7 w8
      exact flashEnd_kept ⟨h_s.1, h_s.2.1, h_s.2.2⟩
    · rename_i w11 w12
      exact h_s

theorem bayLeave_kept {pq : List Instr} {p : Nat} {bay : Nat} {s : State} (h_s : Kept pq s) : Kept pq (bayLeave p bay s) := by
  unfold bayLeave
  extract_lets v2 v3
  have hv2 : Kept pq v2 := by
    unfold v2
    refine on_foldl ?_ (fun t5 _ h6 => ?_)
    · exact h_s
    · exact rreset_kept (tileMod_kept ⟨h6.1, h6.2.1, Mem.wf_clear _ _ (h6.2.2)⟩)
  clear_value v2 v3
  refine on_foldl ?_ (fun t12 _ h13 => ?_)
  · exact hv2
  · extract_lets v16
    clear_value v16
    split
    · rename_i w18 w19
      exact h13
    · rename_i w21 w22 w23
      extract_lets v25 v26
      have hv25 : Kept pq v25 := by
        unfold v25
        refine on_foldl ?_ (fun t28 _ h29 => ?_)
        · exact h13
        · exact devStore_kept h29
      clear_value v25
      have hv26 : Kept pq v26 := by
        unfold v26
        exact sliceMod_kept hv25
      clear_value v26
      refine on_foldl ?_ (fun t36 _ h37 => ?_)
      · exact hv26
      · exact beginTxn_kept h37

theorem writePartBays_kept {pq : List Instr} {p : Nat} {f : Nat} {v : Word} {s : State} (h_s : Kept pq s) : Kept pq (writePartBays p f v s) := by
  unfold writePartBays
  extract_lets v2 v3 v4
  clear_value v2 v3 v4
  refine on_ite ?_ ?_
  · exact logRefused_kept h_s
  · refine on_foldl ?_ (fun t9 _ h10 => ?_)
    · exact rset_kept h_s
    · exact bayLeave_kept h10

theorem execPartBaysWrite_kept {pq : List Instr} {part : Nat} {field : Nat} {v : Word} {s : State} (h_s : Kept pq s) : (OnNext (Kept pq)) (execPartBaysWrite part field v s) := by
  unfold execPartBaysWrite
  refine on_next ?_
  refine on_ite ?_ ?_
  · exact writePartBays_kept h_s
  · exact h_s

theorem writePartMem_kept {pq : List Instr} {p : Nat} {k : Nat} {v : Word} {s : State} (h_s : Kept pq s) : Kept pq (writePartMem p k v s) := by
  unfold writePartMem
  refine on_ite ?_ ?_
  · exact logRefused_kept h_s
  · exact rset_kept h_s

theorem execPartMemWrite_kept {pq : List Instr} {part : Nat} {k : Nat} {v : Word} {s : State} (h_s : Kept pq s) : (OnNext (Kept pq)) (execPartMemWrite part k v s) := by
  unfold execPartMemWrite
  refine on_next ?_
  refine on_ite ?_ ?_
  · exact writePartMem_kept h_s
  · exact h_s

theorem writePartProv_kept {pq : List Instr} {p : Nat} {v : Word} {s : State} (h_s : Kept pq s) : Kept pq (writePartProv p v s) := by
  unfold writePartProv
  refine on_ite ?_ ?_
  · exact logRefused_kept h_s
  · exact rset_kept h_s

theorem digestsClear_kept {pq : List Instr} {p : Nat} {s : State} (h_s : Kept pq s) : Kept pq (digestsClear p s) := by
  unfold digestsClear
  exact partMod_kept h_s

theorem clearOne_kept {pq : List Instr} {p : Nat} {s : State} (h_s : Kept pq s) : Kept pq (clearOne p s) := by
  unfold clearOne
  extract_lets v2 v3 v4
  have hv2 : Kept pq v2 := by
    unfold v2
    exact digestsClear_kept h_s
  clear_value v2
  have hv3 : Kept pq v3 := by
    unfold v3
    refine on_ite ?_ ?_
    · exact fset_kept (fset_kept ⟨hv2.1, hv2.2.1, hv2.2.2⟩)
    · exact hv2
  clear_value v3 v4
  refine on_foldl ?_ (fun t13 _ h14 => ?_)
  · exact clearEnd_kept hv3
  · exact finish_kept h14

theorem tiersEmpty_kept {pq : List Instr} {s : State} (h_s : Kept pq s) : Kept pq (tiersEmpty s) := by
  unfold tiersEmpty
  exact ⟨h_s.1, rfl, h_s.2.2⟩

theorem clearAllEnd_kept {pq : List Instr} {s : State} (h_s : Kept pq s) : Kept pq (clearAllEnd s) := by
  unfold clearAllEnd
  extract_lets v2 v3 v4 v5
  have hv2 : Kept pq v2 := by
    unfold v2
    exact tiersEmpty_kept (clearRanges_kept h_s)
  clear_value v2
  have hv3 : Kept pq v3 := by
    unfold v3
    refine on_foldl ?_ (fun t10 _ h11 => ?_)
    · exact hv2
    · exact setLost_kept h11
  clear_value v3
  have hv4 : Kept pq v4 := by
    unfold v4
    refine on_foldl ?_ (fun t16 _ h17 => ?_)
    · exact hv3
    · exact rset_kept h17
  clear_value v4
  have hv5 : Kept pq v5 := by
    unfold v5
    refine on_foldl ?_ (fun t22 _ h23 => ?_)
    · exact hv4
    · exact digestsClear_kept (fset_kept h23)
  clear_value v5
  exact fset_kept (fset_kept hv5)

theorem execTenantClearDone_kept {pq : List Instr} {s : State} (h_s : Kept pq s) : (OnNext (Kept pq)) (execTenantClearDone s) := by
  unfold execTenantClearDone
  extract_lets v2
  clear_value v2
  refine on_next ?_
  refine on_ite ?_ ?_
  · exact h_s
  · refine on_ite ?_ ?_
    · exact clearAllEnd_kept h_s
    · refine on_ite ?_ ?_
      · exact clearOne_kept h_s
      · exact h_s

end Sys2Proof.Machine
end

