-- ==== Sys2Proof/Laws/KeptBoot.lean ====
section
/-! SUPPORT. Laws/KeptBoot.lean: what Machine/Boot.lean keeps (Laws/Kept.lean says what that is). -/
namespace Sys2Proof.Machine

theorem bootNext_kept {pq : List Instr} {s : State} (h_s : Kept pq s) : Kept pq (bootNext s) := by
  unfold bootNext
  exact fset_kept h_s

theorem enterRecovery_kept {pq : List Instr} {code : Option Nat} {s : State} (h_s : Kept pq s) : Kept pq (enterRecovery code s) := by
  unfold enterRecovery
  extract_lets v2
  have hv2 : Kept pq v2 := by
    unfold v2
    split
    · rename_i w4 w5
      exact logErr_kept h_s
    · rename_i w8
      exact h_s
  clear_value v2
  exact setHubState_kept hv2

theorem stepImage_kept {pq : List Instr} {s : State} (h_s : Kept pq s) : Kept pq (stepImage s) := by
  unfold stepImage
  split
  · rename_i w2 w3
    exact enterRecovery_kept h_s
  · rename_i w6 w7 w8
    extract_lets v10 v11
    have hv10 : Kept pq v10 := by
      unfold v10
      exact ⟨h_s.1, h_s.2.1, h_s.2.2⟩
    clear_value v10
    have hv11 : Kept pq v11 := by
      unfold v11
      exact fset_kept hv10
    clear_value v11
    refine on_ite ?_ ?_
    · exact enterRecovery_kept hv11
    · exact hv11

theorem stepLicence_kept {pq : List Instr} {s : State} (h_s : Kept pq s) : Kept pq (stepLicence s) := by
  unfold stepLicence
  extract_lets v2 v3 v4
  clear_value v2 v3
  have hv4 : Kept pq v4 := by
    unfold v4
    exact ⟨h_s.1, h_s.2.1, h_s.2.2⟩
  clear_value v4
  refine on_ite ?_ ?_
  · exact fset_kept ⟨h_s.1, h_s.2.1, h_s.2.2⟩
  · refine on_ite ?_ ?_
    · exact hv4
    · exact logErr_kept hv4

theorem stepConfig_kept {pq : List Instr} {s : State} (h_s : Kept pq s) : Kept pq (stepConfig s) := by
  unfold stepConfig
  extract_lets v2 v3 v4 v5
  clear_value v2
  have hv3 : Kept pq v3 := by
    unfold v3
    refine on_ite ?_ ?_
    · exact ⟨h_s.1, h_s.2.1, h_s.2.2⟩
    · exact fset_kept (logErr_kept ⟨h_s.1, h_s.2.1, h_s.2.2⟩)
  clear_value v3
  have hv4 : Kept pq v4 := by
    unfold v4
    exact stepLicence_kept hv3
  clear_value v4
  have hv5 : Kept pq v5 := by
    unfold v5
    exact ⟨hv4.1, hv4.2.1, hv4.2.2⟩
  clear_value v5
  refine on_ite ?_ ?_
  · exact enterRecovery_kept hv5
  · exact hv5

theorem groupRole_kept {pq : List Instr} {e : Nat × State} {g : Nat} (h_e : (OnSnd (Kept pq)) e) : (OnSnd (Kept pq)) (groupRole e g) := by
  unfold groupRole
  split
  rename_i w2 w3 w4
  extract_lets v6 v7 v8 v9 v10
  clear_value v6 v7 v8 v9
  have hv10 : Kept pq v10 := by
    unfold v10
    exact fset_kept (setIdn_kept h_e)
  clear_value v10
  refine on_ite ?_ ?_
  · exact on_mk h_e
  · refine on_ite ?_ ?_
    · exact on_mk (logErr_kept h_e)
    · refine on_ite ?_ ?_
      · exact on_mk (fset_kept hv10)
      · refine on_ite ?_ ?_
        · exact on_mk (logErr_kept h_e)
        · exact on_mk (setIdn_kept h_e)

theorem stepMain_kept {pq : List Instr} {s : State} (h_s : Kept pq s) : Kept pq (stepMain s) := by
  unfold stepMain
  extract_lets v2
  have hv2 : Kept pq v2 := by
    unfold v2
    exact fset_kept h_s
  clear_value v2
  refine markWait_kept ?_
  refine on_snd ?_
  refine on_foldl ?_ (fun t8 _ h9 => ?_)
  · exact on_mk hv2
  · exact groupRole_kept h9

theorem commandCore_kept {pq : List Instr} {f : Nat} {mv : Nat} {s : State} (h_s : Kept pq s) : Kept pq (commandCore f mv s) := by
  unfold commandCore
  exact emit_kept (fset_kept (fset_kept h_s))

theorem stepDefects_kept {pq : List Instr} {targets : List Nat} {s : State} (h_s : Kept pq s) : Kept pq (stepDefects targets s) := by
  unfold stepDefects
  refine on_foldl ?_ (fun t2 _ h3 => ?_)
  · exact applyDefectMap_kept h_s
  · refine on_ite ?_ ?_
    · exact commandCore_kept h3
    · exact h3

theorem stepLoaded_kept {pq : List Instr} {s : State} (h_s : Kept pq s) : Kept pq (stepLoaded s) := by
  unfold stepLoaded
  refine on_foldl ?_ (fun t2 _ h3 => ?_)
  · exact h_s
  · refine on_ite ?_ ?_
    · exact trainPort_kept h3
    · exact h3

theorem trained_kept {pq : List Instr} {c : Nat} {rate : Nat} {cap : Nat} {ok : Bool} {s : State} (h_s : Kept pq s) : Kept pq (trained c rate cap ok s) := by
  unfold trained
  extract_lets v2
  clear_value v2
  exact fset_kept (fset_kept (fset_kept h_s))

theorem stepLedger_kept {pq : List Instr} {s : State} (h_s : Kept pq s) : Kept pq (stepLedger s) := by
  unfold stepLedger
  split
  · rename_i w2 w3
    exact logErr_kept (fset_kept ⟨h_s.1, h_s.2.1, h_s.2.2⟩)
  · rename_i w7 w8 w9
    extract_lets v11 v12 v13
    have hv11 : Kept pq v11 := by
      unfold v11
      exact ⟨h_s.1, h_s.2.1, h_s.2.2⟩
    clear_value v11
    have hv12 : Kept pq v12 := by
      unfold v12
      exact fset_kept (fset_kept hv11)
    clear_value v12
    have hv13 : Kept pq v13 := by
      unfold v13
      refine on_foldl ?_ (fun t19 _ h20 => ?_)
      · exact hv12
      · exact setRepair_kept (fset_kept h20)
    clear_value v13
    refine on_foldl ?_ (fun t26 _ h27 => ?_)
    · exact hv13
    · exact reportPage_kept h27

theorem stepMemory_kept {pq : List Instr} {e : BootEnv} {s : State} (h_s : Kept pq s) : Kept pq (stepMemory e s) := by
  unfold stepMemory
  extract_lets v2 v3 v4 v5 v6 v7 v8 v9 v10
  clear_value v2 v3 v4
  have hv5 : Kept pq v5 := by
    unfold v5
    refine on_foldl ?_ (fun t12 _ h13 => ?_)
    · exact h_s
    · exact trained_kept h13
  clear_value v5
  have hv6 : Kept pq v6 := by
    unfold v6
    refine on_ite ?_ ?_
    · exact hv5
    · refine on_foldl ?_ (fun t20 _ h21 => ?_)
      · exact hv5
      · exact trained_kept h21
  clear_value v6
  have hv7 : Kept pq v7 := by
    unfold v7
    exact fset_kept (fset_kept hv6)
  clear_value v7
  have hv8 : Kept pq v8 := by
    unfold v8
    exact fset_kept (fset_kept (setMinMem_kept hv7))
  clear_value v8
  have hv9 : Kept pq v9 := by
    unfold v9
    exact stepLedger_kept hv8
  clear_value v9
  have hv10 : Kept pq v10 := by
    unfold v10
    exact fset_kept ⟨hv9.1, hv9.2.1, hv9.2.2⟩
  clear_value v10
  refine on_ite ?_ ?_
  · exact hv10
  · exact setHubState_kept (logErr_kept hv10)

theorem siteStart_kept {pq : List Instr} {present : Nat} {e : Nat × State} {n : Nat} (h_e : (OnSnd (Kept pq)) e) : (OnSnd (Kept pq)) (siteStart present e n) := by
  unfold siteStart
  split
  rename_i w2 w3 w4
  refine on_ite ?_ ?_
  · exact on_mk (fset_kept h_e)
  · refine on_ite ?_ ?_
    · exact on_mk h_e
    · refine on_ite ?_ ?_
      · exact on_mk (siteStop_kept h_e)
      · refine on_ite ?_ ?_
        · exact on_mk (logErr_kept (fset_kept h_e))
        · refine on_mk ?_
          refine on_ite ?_ ?_
          · exact sitePower_kept h_e
          · exact fset_kept h_e

theorem stepSites_kept {pq : List Instr} {present : Nat} {s : State} (h_s : Kept pq s) : Kept pq (stepSites present s) := by
  unfold stepSites
  refine on_snd ?_
  refine on_foldl ?_ (fun t3 _ h4 => ?_)
  · exact on_mk h_s
  · exact siteStart_kept h4

theorem mapOutPhys_kept {pq : List Instr} {u : Nat × Nat × Nat × Bool} {s : State} (h_s : Kept pq s) : Kept pq (mapOutPhys u s) := by
  unfold mapOutPhys
  split
  rename_i w2 w3 w4 w5 w6
  extract_lets v8 v9 v10 v11
  clear_value v8 v9
  have hv10 : Kept pq v10 := by
    unfold v10
    exact ⟨h_s.1, h_s.2.1, h_s.2.2⟩
  clear_value v10
  have hv11 : Kept pq v11 := by
    unfold v11
    split
    · rename_i w14 w15
      exact replaceBay_kept ⟨hv10.1, hv10.2.1, hv10.2.2⟩
    · rename_i w18
      exact hv10
  clear_value v11
  refine on_ite ?_ ?_
  · exact h_s
  · refine on_ite ?_ ?_
    · exact setDefStatus_kept (programRow_kept hv11)
    · exact setDefStatus_kept (programRow_kept ⟨h_s.1, h_s.2.1, h_s.2.2⟩)

theorem mapOutAll_kept {pq : List Instr} {code : Nat} {us : List (Nat × Nat × Nat × Bool)} {s : State} (h_s : Kept pq s) : Kept pq (mapOutAll code us s) := by
  unfold mapOutAll
  refine on_foldl ?_ (fun t2 _ h3 => ?_)
  · exact h_s
  · exact mapOutPhys_kept (logErr_kept h3)

theorem fwSend_kept {pq : List Instr} {seg : Nat} {part : Nat} {unit : Nat} {bs : List Byte} {s : State} (h_s : Kept pq s) : Kept pq (fwSend seg part unit bs s) := by
  unfold fwSend
  extract_lets v2
  clear_value v2
  refine on_foldl ?_ (fun t4 _ h5 => ?_)
  · exact h_s
  · exact emit_kept h5

theorem fwBroadcast_kept {pq : List Instr} {s : State} (h_s : Kept pq s) : Kept pq (fwBroadcast s) := by
  unfold fwBroadcast
  refine on_foldl ?_ (fun t2 _ h3 => ?_)
  · exact h_s
  · refine on_foldl ?_ (fun t6 _ h7 => ?_)
    · exact h3
    · exact fwSend_kept h7

theorem fwUnicast_kept {pq : List Instr} {u : Nat × Nat × Nat × Bool} {mask : Nat} {s : State} (h_s : Kept pq s) : Kept pq (fwUnicast u mask s) := by
  unfold fwUnicast
  extract_lets v2
  clear_value v2
  refine on_foldl ?_ (fun t4 _ h5 => ?_)
  · exact h_s
  · refine on_ite ?_ ?_
    · exact fwSend_kept h5
    · exact h5

theorem fwSpare_kept {pq : List Instr} {u : Nat × Nat × Nat × Bool} {s : State} (h_s : Kept pq s) : Kept pq (fwSpare u s) := by
  unfold fwSpare
  split
  rename_i w2 w3 w4 w5 w6
  extract_lets v8 v9
  clear_value v8
  have hv9 : Kept pq v9 := by
    unfold v9
    exact mapOutAll_kept h_s
  clear_value v9
  split
  · rename_i w13 w14
    extract_lets v16
    clear_value v16
    refine on_ite ?_ ?_
    · exact hv9
    · refine on_ite ?_ ?_
      · exact fwUnicast_kept hv9
      · split
        · rename_i w23 w24 w25
          exact fwUnicast_kept hv9
        · rename_i w28 w29
          exact hv9
  · rename_i w31
    exact hv9

theorem stepKnown_kept {pq : List Instr} {e : BootEnv} {s : State} (h_s : Kept pq s) : Kept pq (stepKnown e s) := by
  unfold stepKnown
  extract_lets v2
  have hv2 : Kept pq v2 := by
    unfold v2
    exact mapOutAll_kept h_s
  clear_value v2
  refine on_ite ?_ ?_
  · exact setHubState_kept (logErr_kept (fset_kept hv2))
  · refine on_ite ?_ ?_
    · exact hv2
    · exact fset_kept hv2

theorem stepReady_kept {pq : List Instr} {mem : List (Nat × Nat × Nat)} {s : State} (h_s : Kept pq s) : Kept pq (stepReady mem s) := by
  unfold stepReady
  extract_lets v2 v3 v4 v5 v6
  clear_value v2
  have hv3 : Kept pq v3 := by
    unfold v3
    exact ⟨h_s.1, h_s.2.1, h_s.2.2⟩
  clear_value v3
  have hv4 : Kept pq v4 := by
    unfold v4
    refine on_foldl ?_ (fun t9 _ h10 => ?_)
    · exact hv3
    · exact rset_kept h10
  clear_value v4
  have hv5 : Kept pq v5 := by
    unfold v5
    exact fset_kept hv4
  clear_value v5
  have hv6 : Kept pq v6 := by
    unfold v6
    refine on_ite ?_ ?_
    · exact fset_kept hv5
    · exact hv5
  clear_value v6
  exact setHubState_kept (tickFresh_kept hv6)

theorem execBringupStepComplete_kept {pq : List Instr} {env : BootEnv} {s : State} (h_s : Kept pq s) : (OnNext (Kept pq)) (execBringupStepComplete env s) := by
  unfold execBringupStepComplete
  extract_lets v2 v3 v4 v5 v6
  clear_value v2
  have hv3 : Kept pq v3 := by
    unfold v3
    exact stepMain_kept h_s
  clear_value v3
  have hv4 : Kept pq v4 := by
    unfold v4
    refine bootNext_kept ?_
    refine on_foldl ?_ (fun t11 _ h12 => ?_)
    · exact h_s
    · exact scarfDisable_kept h12
  clear_value v4
  have hv5 : Kept pq v5 := by
    unfold v5
    exact stepMemory_kept h_s
  clear_value v5
  have hv6 : Kept pq v6 := by
    unfold v6
    exact stepKnown_kept h_s
  clear_value v6
  refine on_next ?_
  refine on_ite ?_ ?_
  · exact h_s
  · refine on_ite ?_ ?_
    · exact bootNext_kept (fset_kept h_s)
    · refine on_ite ?_ ?_
      · exact bootNext_kept (stepImage_kept (fset_kept h_s))
      · refine on_ite ?_ ?_
        · exact emit_kept (bootNext_kept (stepConfig_kept h_s))
        · refine on_ite ?_ ?_
          · refine on_ite ?_ ?_
            · exact h_s
            · refine on_ite ?_ ?_
              · exact bootNext_kept (stepMain_kept h_s)
              · exact ⟨hv3.1, hv3.2.1, hv3.2.2⟩
          · refine on_ite ?_ ?_
            · exact h_s
            · refine on_ite ?_ ?_
              · exact bootNext_kept (stepDefects_kept h_s)
              · refine on_ite ?_ ?_
                · exact fwBroadcast_kept ⟨hv4.1, hv4.2.1, hv4.2.2⟩
                · refine on_ite ?_ ?_
                  · refine on_ite ?_ ?_
                    · exact enterRecovery_kept h_s
                    · refine on_ite ?_ ?_
                      · exact bootNext_kept (stepLoaded_kept h_s)
                      · exact h_s
                  · refine on_ite ?_ ?_
                    · refine on_ite ?_ ?_
                      · exact bootNext_kept (stepSites_kept hv5)
                      · exact hv5
                    · refine on_ite ?_ ?_
                      · exact bootNext_kept h_s
                      · refine on_ite ?_ ?_
                        · refine on_ite ?_ ?_
                          · exact bootNext_kept hv6
                          · exact hv6
                        · refine on_ite ?_ ?_
                          · exact stepReady_kept h_s
                          · exact h_s

theorem execRepairRoundEnd_kept {pq : List Instr} {reports : List ((Nat × Nat × Nat × Bool) × Nat)} {s : State} (h_s : Kept pq s) : (OnNext (Kept pq)) (execRepairRoundEnd reports s) := by
  unfold execRepairRoundEnd
  extract_lets v2 v3 v4 v5
  clear_value v2
  have hv3 : Kept pq v3 := by
    unfold v3
    exact ⟨h_s.1, h_s.2.1, h_s.2.2⟩
  clear_value v3
  have hv4 : Kept pq v4 := by
    unfold v4
    refine on_foldl ?_ (fun t8 _ h9 => ?_)
    · exact hv3
    · exact fwUnicast_kept h9
  clear_value v4
  have hv5 : Kept pq v5 := by
    unfold v5
    refine on_foldl ?_ (fun t14 _ h15 => ?_)
    · exact hv3
    · exact fwSpare_kept h15
  clear_value v5
  refine on_next ?_
  refine on_ite ?_ ?_
  · exact h_s
  · refine on_ite ?_ ?_
    · exact ⟨hv3.1, hv3.2.1, hv3.2.2⟩
    · refine on_ite ?_ ?_
      · exact ⟨hv4.1, hv4.2.1, hv4.2.2⟩
      · exact ⟨hv5.1, hv5.2.1, hv5.2.2⟩

theorem execStbyPwrgdRise_kept {pq : List Instr} {strap : Nat} {s : State} (h_s : Kept pq s) : (OnNext (Kept pq)) (execStbyPwrgdRise strap s) := by
  unfold execStbyPwrgdRise
  extract_lets v2
  have hv2 : Kept pq v2 := by
    unfold v2
    exact powerOn_kept h_s
  clear_value v2
  exact on_next (fset_kept ⟨hv2.1, hv2.2.1, hv2.2.2⟩)

theorem execStbyPwrgdFall_kept {pq : List Instr} {s : State} (h_s : Kept pq s) : (OnNext (Kept pq)) (execStbyPwrgdFall s) := by
  unfold execStbyPwrgdFall
  extract_lets v2
  have hv2 : Kept pq v2 := by
    unfold v2
    exact powerOn_kept h_s
  clear_value v2
  refine on_next ?_
  refine on_ite ?_ ?_
  · exact h_s
  · exact fset_kept (fset_kept ⟨hv2.1, hv2.2.1, hv2.2.2⟩)

theorem execMainPwrgdRise_kept {pq : List Instr} {strap : Nat} {s : State} (h_s : Kept pq s) : (OnNext (Kept pq)) (execMainPwrgdRise strap s) := by
  unfold execMainPwrgdRise
  refine on_next ?_
  refine on_ite ?_ ?_
  · exact h_s
  · exact fset_kept (fset_kept ⟨h_s.1, h_s.2.1, h_s.2.2⟩)

theorem mainDown_kept {pq : List Instr} {s : State} (h_s : Kept pq s) : Kept pq (mainDown s) := by
  unfold mainDown
  extract_lets v2
  have hv2 : Kept pq v2 := by
    unfold v2
    refine on_foldl ?_ (fun t4 _ h5 => ?_)
    · exact h_s
    · exact sitePins_kept h5
  clear_value v2
  exact powerOn_kept hv2

theorem execMainPwrgdFall_kept {pq : List Instr} {s : State} (h_s : Kept pq s) : (OnNext (Kept pq)) (execMainPwrgdFall s) := by
  unfold execMainPwrgdFall
  extract_lets v2
  have hv2 : Kept pq v2 := by
    unfold v2
    exact mainDown_kept h_s
  clear_value v2
  refine on_next ?_
  refine on_ite ?_ ?_
  · exact h_s
  · exact fset_kept ⟨hv2.1, hv2.2.1, hv2.2.2⟩

theorem execMainFailRestart_kept {pq : List Instr} {s : State} (h_s : Kept pq s) : (OnNext (Kept pq)) (execMainFailRestart s) := by
  unfold execMainFailRestart
  extract_lets v2
  have hv2 : Kept pq v2 := by
    unfold v2
    exact powerOn_kept h_s
  clear_value v2
  refine on_next ?_
  refine on_ite ?_ ?_
  · exact ⟨hv2.1, hv2.2.1, hv2.2.2⟩
  · exact h_s

theorem execSysRstN_kept {pq : List Instr} {s : State} (h_s : Kept pq s) : (OnNext (Kept pq)) (execSysRstN s) := by
  unfold execSysRstN
  extract_lets v2
  have hv2 : Kept pq v2 := by
    unfold v2
    exact powerOn_kept h_s
  clear_value v2
  refine on_next ?_
  refine on_ite ?_ ?_
  · exact h_s
  · exact ⟨hv2.1, hv2.2.1, hv2.2.2⟩

theorem execSysRstNRelease_kept {pq : List Instr} {s : State} (h_s : Kept pq s) : (OnNext (Kept pq)) (execSysRstNRelease s) := by
  unfold execSysRstNRelease
  exact on_next ⟨h_s.1, h_s.2.1, h_s.2.2⟩

theorem resetWide_kept {pq : List Instr} {scope : Nat} {cmd : Nat} {s : State} (h_s : Kept pq s) : (OnNext (Kept pq)) (resetWide scope cmd s) := by
  unfold resetWide
  extract_lets v2
  have hv2 : Kept pq v2 := by
    unfold v2
    refine startCmd_kept ?_ ?_
    · intro a4 a5 a6
      exact on_mk ⟨a6.1, a6.2.1, a6.2.2⟩
    · exact h_s
  clear_value v2
  refine on_next ?_
  refine on_ite ?_ ?_
  · exact hv2
  · exact leaveDomain_kept hv2

theorem execResetHub_kept {pq : List Instr} {cmd : Nat} {s : State} (h_s : Kept pq s) : (OnNext (Kept pq)) (execResetHub cmd s) := by
  unfold execResetHub
  exact resetWide_kept h_s

theorem execResetStandby_kept {pq : List Instr} {cmd : Nat} {s : State} (h_s : Kept pq s) : (OnNext (Kept pq)) (execResetStandby cmd s) := by
  unfold execResetStandby
  exact resetWide_kept h_s

theorem execResetDeferredTimeout_kept {pq : List Instr} {s : State} (h_s : Kept pq s) : (OnNext (Kept pq)) (execResetDeferredTimeout s) := by
  unfold execResetDeferredTimeout
  refine on_next ?_
  refine on_ite ?_ ?_
  · exact h_s
  · exact resetDue_kept h_s

theorem execFwImage_kept {pq : List Instr} {cmd : Nat} {s : State} (h_s : Kept pq s) : (OnNext (Kept pq)) (execFwImage cmd s) := by
  unfold execFwImage
  refine on_next ?_
  refine startOp_kept ?_ ?_
  · intro a3 a4 a5
    split
    · rename_i w7 w8 w9
      exact on_mk (dataFailed_kept a5)
    · rename_i w13 w14 w15
      extract_lets v17 v18 v19
      clear_value v17
      have hv18 : Kept pq v18 := by
        unfold v18
        exact ⟨a5.1, a5.2.1, a5.2.2⟩
      clear_value v18 v19
      refine on_ite ?_ ?_
      · exact on_mk a5
      · refine on_ite ?_ ?_
        · exact on_mk a5
        · refine on_mk ?_
          refine on_ite ?_ ?_
          · exact ⟨hv18.1, hv18.2.1, hv18.2.2⟩
          · exact hv18
  · exact h_s

theorem execFwCommit_kept {pq : List Instr} {cmd : Nat} {s : State} (h_s : Kept pq s) : (OnNext (Kept pq)) (execFwCommit cmd s) := by
  unfold execFwCommit
  refine on_next ?_
  refine startOp_kept ?_ ?_
  · intro a3 a4 a5
    refine on_ite ?_ ?_
    · exact on_mk a5
    · split
      · rename_i w10 w11
        exact on_mk a5
      · rename_i w14 w15 w16
        refine on_ite ?_ ?_
        · exact on_mk a5
        · exact on_mk (fset_kept ⟨a5.1, a5.2.1, a5.2.2⟩)
  · exact h_s

theorem execFwCommitReset_kept {pq : List Instr} {s : State} (h_s : Kept pq s) : (OnNext (Kept pq)) (execFwCommitReset s) := by
  unfold execFwCommitReset
  extract_lets v2
  have hv2 : Kept pq v2 := by
    unfold v2
    exact powerOn_kept h_s
  clear_value v2
  refine on_next ?_
  refine on_ite ?_ ?_
  · exact ⟨hv2.1, hv2.2.1, hv2.2.2⟩
  · exact h_s

theorem execThermalSample_kept {pq : List Instr} {temps : List Int} {s : State} (h_s : Kept pq s) : (OnNext (Kept pq)) (execThermalSample temps s) := by
  unfold execThermalSample
  extract_lets v2 v3 v4 v5 v6 v7 v8
  clear_value v2
  have hv3 : Kept pq v3 := by
    unfold v3
    exact fset_kept (fset_kept h_s)
  clear_value v3 v4
  have hv5 : Kept pq v5 := by
    unfold v5
    exact fset_kept hv3
  clear_value v5
  have hv6 : Kept pq v6 := by
    unfold v6
    refine on_ite ?_ ?_
    · refine on_ite ?_ ?_
      · exact hv3
      · split
        · rename_i w18 w19 w20
          exact emit_kept hv5
        · rename_i w23 w24
          exact hv5
    · refine on_ite ?_ ?_
      · exact fset_kept hv3
      · exact hv3
  clear_value v6 v7
  have hv8 : Kept pq v8 := by
    unfold v8
    exact mainDown_kept (emit_kept hv6)
  clear_value v8
  refine on_next ?_
  refine on_ite ?_ ?_
  · exact h_s
  · refine on_ite ?_ ?_
    · exact fset_kept ⟨hv8.1, hv8.2.1, hv8.2.2⟩
    · exact ⟨hv6.1, hv6.2.1, hv6.2.2⟩

theorem execVcoreAdjust_kept {pq : List Instr} {field : Nat} {up : Bool} {s : State} (h_s : Kept pq s) : (OnNext (Kept pq)) (execVcoreAdjust field up s) := by
  unfold execVcoreAdjust
  extract_lets v2 v3
  clear_value v2 v3
  refine on_next ?_
  refine on_ite ?_ ?_
  · exact h_s
  · exact commandCore_kept h_s

theorem execVcoreSettled_kept {pq : List Instr} {field : Nat} {s : State} (h_s : Kept pq s) : (OnNext (Kept pq)) (execVcoreSettled field s) := by
  unfold execVcoreSettled
  refine on_next ?_
  refine on_ite ?_ ?_
  · exact h_s
  · exact fset_kept h_s

end Sys2Proof.Machine
end

