-- ==== Sys2Proof/Laws/KeptMgmt.lean ====
section
/-! SUPPORT. Laws/KeptMgmt.lean: what Machine/Mgmt.lean keeps (Laws/Kept.lean says what that is). -/
namespace Sys2Proof.Machine

theorem writeCidx_kept {pq : List Instr} {v : Nat} {s : State} (h_s : Kept pq s) : Kept pq (writeCidx v s) := by
  unfold writeCidx
  extract_lets v2
  clear_value v2
  refine on_ite ?_ ?_
  · exact errFreed_kept (fset_kept h_s)
  · exact h_s

theorem execErrqCidxWrite_kept {pq : List Instr} {v : Word} {s : State} (h_s : Kept pq s) : (OnNext (Kept pq)) (execErrqCidxWrite v s) := by
  unfold execErrqCidxWrite
  exact on_next (writeCidx_kept h_s)

theorem execErrorLogAppend_kept {pq : List Instr} {s : State} (h_s : Kept pq s) : (OnNext (Kept pq)) (execErrorLogAppend s) := by
  unfold execErrorLogAppend
  extract_lets v2 v3 v4 v5 v6
  clear_value v2 v3 v4 v5
  have hv6 : Kept pq v6 := by
    unfold v6
    exact ⟨h_s.1, h_s.2.1, h_s.2.2⟩
  clear_value v6
  refine on_next ?_
  refine on_ite ?_ ?_
  · exact h_s
  · exact errFreed_kept (fset_kept (emit_kept hv6))

theorem execErrqRead_kept {pq : List Instr} {cmd : Nat} {s : State} (h_s : Kept pq s) : (OnNext (Kept pq)) (execErrqRead cmd s) := by
  unfold execErrqRead
  refine on_next ?_
  refine startOp_kept ?_ ?_
  · intro a3 a4 a5
    extract_lets v7 v8 v9 v10 v11 v12 v13 v14
    clear_value v7 v8 v9 v10 v11 v12 v13 v14
    refine on_ite ?_ ?_
    · exact on_mk a5
    · refine on_ite ?_ ?_
      · exact on_mk ⟨a5.1, a5.2.1, a5.2.2⟩
      · exact on_mk (errFreed_kept (fset_kept a5))
  · exact h_s

theorem sensorValue_kept {pq : List Instr} {s : State} {n : Nat} (h_s : Kept pq s) : (OnSnd (Kept pq)) (sensorValue s n) := by
  unfold sensorValue
  refine on_ite ?_ ?_
  · exact on_mk h_s
  · refine on_ite ?_ ?_
    · exact on_mk h_s
    · refine on_ite ?_ ?_
      · exact on_mk h_s
      · refine on_ite ?_ ?_
        · exact on_mk h_s
        · exact on_mk (tickFresh_kept h_s)

theorem execSensorRead_kept {pq : List Instr} {cmd : Nat} {s : State} (h_s : Kept pq s) : (OnNext (Kept pq)) (execSensorRead cmd s) := by
  unfold execSensorRead
  refine on_next ?_
  refine startOp_kept ?_ ?_
  · intro a3 a4 a5
    extract_lets v7
    clear_value v7
    split
    · rename_i w9 w10
      exact on_mk a5
    · rename_i w13 w14 w15
      refine on_ite ?_ ?_
      · exact on_mk a5
      · split
        rename_i w20 w21 w22 w23
        refine on_use (P := (OnSnd (Kept pq))) w23 ?_ (fun hw23 => ?_)
        · exact sensorValue_kept a5
        exact on_mk hw23
  · exact h_s

theorem execLedgerAccept_kept {pq : List Instr} {cmd : Nat} {host : List Byte} {s : State} (h_s : Kept pq s) : (OnNext (Kept pq)) (execLedgerAccept cmd host s) := by
  unfold execLedgerAccept
  refine on_next ?_
  refine startOp_kept ?_ ?_
  · intro a3 a4 a5
    split
    · rename_i w7 w8 w9
      exact on_mk (dataFailed_kept a5)
    · rename_i w13 w14 w15
      extract_lets v17
      clear_value v17
      refine on_ite ?_ ?_
      · exact on_mk a5
      · refine on_ite ?_ ?_
        · exact on_mk a5
        · refine on_ite ?_ ?_
          · exact on_mk a5
          · exact on_mk (fset_kept (fset_kept ⟨a5.1, a5.2.1, a5.2.2⟩))
  · exact h_s

theorem execWake_kept {pq : List Instr} {cmd : Nat} {s : State} (h_s : Kept pq s) : (OnNext (Kept pq)) (execWake cmd s) := by
  unfold execWake
  refine on_next ?_
  refine startOp_kept ?_ ?_
  · intro a3 a4 a5
    exact on_mk (wake_kept a5)
  · exact h_s

theorem execStrict_kept {pq : List Instr} {cmd : Nat} {s : State} (h_s : Kept pq s) : (OnNext (Kept pq)) (execStrict cmd s) := by
  unfold execStrict
  refine on_next ?_
  refine startOp_kept ?_ ?_
  · intro a3 a4 a5
    exact on_mk (setStrict_kept (fset_kept a5))
  · exact h_s

theorem writePerfSel_kept {pq : List Instr} {i : Nat} {v : Word} {s : State} (h_s : Kept pq s) : Kept pq (writePerfSel i v s) := by
  unfold writePerfSel
  exact rset_kept (rset_kept h_s)

theorem execPerfSelWrite_kept {pq : List Instr} {i : Nat} {v : Word} {s : State} (h_s : Kept pq s) : (OnNext (Kept pq)) (execPerfSelWrite i v s) := by
  unfold execPerfSelWrite
  refine on_next ?_
  refine on_ite ?_ ?_
  · exact writePerfSel_kept h_s
  · exact h_s

theorem writePerfCtrl_kept {pq : List Instr} {v : Word} {s : State} (h_s : Kept pq s) : Kept pq (writePerfCtrl v s) := by
  unfold writePerfCtrl
  extract_lets v2
  have hv2 : Kept pq v2 := by
    unfold v2
    exact fset_kept h_s
  clear_value v2
  refine on_ite ?_ ?_
  · exact hv2
  · refine on_ite ?_ ?_
    · exact ⟨hv2.1, hv2.2.1, hv2.2.2⟩
    · exact perfSnapshot_kept hv2

theorem execPerfCtrlSnap_kept {pq : List Instr} {v : Word} {s : State} (h_s : Kept pq s) : (OnNext (Kept pq)) (execPerfCtrlSnap v s) := by
  unfold execPerfCtrlSnap
  refine on_next ?_
  refine on_ite ?_ ?_
  · exact writePerfCtrl_kept h_s
  · exact h_s

theorem writeTp_kept {pq : List Instr} {k : Nat} {v : Word} {s : State} (h_s : Kept pq s) : Kept pq (writeTp k v s) := by
  unfold writeTp
  extract_lets v2 v3
  clear_value v2
  have hv3 : Kept pq v3 := by
    unfold v3
    refine on_ite ?_ ?_
    · exact ⟨h_s.1, h_s.2.1, h_s.2.2⟩
    · exact h_s
  clear_value v3
  refine on_ite ?_ ?_
  · exact logErr_kept (fset_kept h_s)
  · refine on_ite ?_ ?_
    · exact ⟨hv3.1, hv3.2.1, hv3.2.2⟩
    · split
      · rename_i w14 w15 w16
        exact tpActive_kept (rset_kept hv3)
      · rename_i w20 w21
        exact hv3

theorem execTpWrite_kept {pq : List Instr} {k : Nat} {v : Word} {s : State} (h_s : Kept pq s) : (OnNext (Kept pq)) (execTpWrite k v s) := by
  unfold execTpWrite
  refine on_next ?_
  refine on_ite ?_ ?_
  · exact writeTp_kept h_s
  · exact h_s

theorem execTpLinkRetrain_kept {pq : List Instr} {s : State} (h_s : Kept pq s) : (OnNext (Kept pq)) (execTpLinkRetrain s) := by
  unfold execTpLinkRetrain
  refine on_next ?_
  split
  · rename_i w3 w4
    exact h_s
  · rename_i w6 w7 w8 w9 w10
    extract_lets v12
    have hv12 : Kept pq v12 := by
      unfold v12
      exact ⟨h_s.1, h_s.2.1, h_s.2.2⟩
    clear_value v12
    refine on_ite ?_ ?_
    · exact h_s
    · split
      · rename_i w17
        refine on_ite ?_ ?_
        · exact quickRetrain_kept hv12
        · exact hv12
      · rename_i w22
        refine on_ite ?_ ?_
        · exact fset_kept hv12
        · exact hv12
      · rename_i w27
        exact emit_kept hv12
      · rename_i w30 w31 w32 w33
        refine on_ite ?_ ?_
        · exact fbump_kept (fset_kept hv12)
        · exact hv12

theorem execPerturbSet_kept {pq : List Instr} {cmd : Nat} {s : State} (h_s : Kept pq s) : (OnNext (Kept pq)) (execPerturbSet cmd s) := by
  unfold execPerturbSet
  refine on_next ?_
  refine startOp_kept ?_ ?_
  · intro a3 a4 a5
    extract_lets v7
    clear_value v7
    refine on_ite ?_ ?_
    · exact on_mk a5
    · refine on_ite ?_ ?_
      · exact on_mk (logErr_kept (fset_kept a5))
      · exact on_mk (writeTp_kept a5)
  · exact h_s

theorem execPerturbClear_kept {pq : List Instr} {cmd : Nat} {s : State} (h_s : Kept pq s) : (OnNext (Kept pq)) (execPerturbClear cmd s) := by
  unfold execPerturbClear
  refine on_next ?_
  refine startOp_kept ?_ ?_
  · intro a3 a4 a5
    refine on_mk ?_
    refine on_foldl ?_ (fun t8 _ h9 => ?_)
    · exact a5
    · exact writeTp_kept h9
  · exact h_s

theorem execKatRun_kept {pq : List Instr} {cmd : Nat} {s : State} (h_s : Kept pq s) : (OnNext (Kept pq)) (execKatRun cmd s) := by
  unfold execKatRun
  refine on_next ?_
  refine startOp_kept ?_ ?_
  · intro a3 a4 a5
    refine on_ite ?_ ?_
    · exact on_mk a5
    · exact on_mk (tickFresh_kept a5)
  · exact h_s

theorem execTraceRead_kept {pq : List Instr} {cmd : Nat} {s : State} (h_s : Kept pq s) : (OnNext (Kept pq)) (execTraceRead cmd s) := by
  unfold execTraceRead
  refine on_next ?_
  refine startOp_kept ?_ ?_
  · intro a3 a4 a5
    extract_lets v7 v8
    clear_value v7 v8
    refine on_ite ?_ ?_
    · exact on_mk a5
    · refine on_ite ?_ ?_
      · exact on_mk a5
      · exact on_mk a5
  · exact h_s

theorem execEntdaa_kept {pq : List Instr} {da : Nat} {s : State} (h_s : Kept pq s) : (OnNext (Kept pq)) (execEntdaa da s) := by
  unfold execEntdaa
  refine on_next ?_
  refine on_ite ?_ ?_
  · exact h_s
  · exact emit_kept (fset_kept (fset_kept h_s))

theorem mctp_kept {pq : List Instr} {f : State → State} {s : State} (h_f : ∀ y0, Kept pq y0 → Kept pq (f y0)) (h_s : Kept pq s) : (OnNext (Kept pq)) (mctp f s) := by
  unfold mctp
  refine on_next ?_
  refine on_ite ?_ ?_
  · exact h_f _ h_s
  · exact h_s

theorem execSetEndpointId_kept {pq : List Instr} {eid : Nat} {s : State} (h_s : Kept pq s) : (OnNext (Kept pq)) (execSetEndpointId eid s) := by
  unfold execSetEndpointId
  refine mctp_kept ?_ ?_
  · intro a2 a3
    extract_lets v5
    clear_value v5
    refine on_ite ?_ ?_
    · exact emit_kept a3
    · exact emit_kept (fset_kept a3)
  · exact h_s

theorem execGetEndpointId_kept {pq : List Instr} {s : State} (h_s : Kept pq s) : (OnNext (Kept pq)) (execGetEndpointId s) := by
  unfold execGetEndpointId
  refine mctp_kept ?_ ?_
  · intro a2 a3
    exact emit_kept a3
  · exact h_s

theorem execGetMctpVersionSupport_kept {pq : List Instr} {ty : Nat} {s : State} (h_s : Kept pq s) : (OnNext (Kept pq)) (execGetMctpVersionSupport ty s) := by
  unfold execGetMctpVersionSupport
  refine mctp_kept ?_ ?_
  · intro a2 a3
    exact emit_kept a3
  · exact h_s

theorem execGetMessageTypeSupport_kept {pq : List Instr} {s : State} (h_s : Kept pq s) : (OnNext (Kept pq)) (execGetMessageTypeSupport s) := by
  unfold execGetMessageTypeSupport
  refine mctp_kept ?_ ?_
  · intro a2 a3
    exact emit_kept a3
  · exact h_s

theorem execGetVendorDefinedMessageSupport_kept {pq : List Instr} {sel : Nat} {s : State} (h_s : Kept pq s) : (OnNext (Kept pq)) (execGetVendorDefinedMessageSupport sel s) := by
  unfold execGetVendorDefinedMessageSupport
  refine mctp_kept ?_ ?_
  · intro a2 a3
    exact emit_kept a3
  · exact h_s

theorem execGrisetMctpRequest_kept {pq : List Instr} {tag : Nat} {bytes : List Byte} {s : State} (h_s : Kept pq s) : (OnNext (Kept pq)) (execGrisetMctpRequest tag bytes s) := by
  unfold execGrisetMctpRequest
  refine mctp_kept ?_ ?_
  · intro a2 a3
    extract_lets v5
    clear_value v5
    refine on_ite ?_ ?_
    · exact a3
    · refine on_ite ?_ ?_
      · exact fbump_kept a3
      · exact sweep_kept (enterCmd_kept (fset_kept a3))
  · exact h_s

theorem execGettid_kept {pq : List Instr} {s : State} (h_s : Kept pq s) : (OnNext (Kept pq)) (execGettid s) := by
  unfold execGettid
  refine mctp_kept ?_ ?_
  · intro a2 a3
    exact emit_kept a3
  · exact h_s

theorem execGetpldmversion_kept {pq : List Instr} {ty : Nat} {s : State} (h_s : Kept pq s) : (OnNext (Kept pq)) (execGetpldmversion ty s) := by
  unfold execGetpldmversion
  refine mctp_kept ?_ ?_
  · intro a2 a3
    exact emit_kept a3
  · exact h_s

theorem execGetpldmtypes_kept {pq : List Instr} {s : State} (h_s : Kept pq s) : (OnNext (Kept pq)) (execGetpldmtypes s) := by
  unfold execGetpldmtypes
  refine mctp_kept ?_ ?_
  · intro a2 a3
    exact emit_kept a3
  · exact h_s

theorem execGetpldmcommands_kept {pq : List Instr} {ty : Nat} {s : State} (h_s : Kept pq s) : (OnNext (Kept pq)) (execGetpldmcommands ty s) := by
  unfold execGetpldmcommands
  refine mctp_kept ?_ ?_
  · intro a2 a3
    exact emit_kept a3
  · exact h_s

theorem execGetpdrrepositoryinfo_kept {pq : List Instr} {s : State} (h_s : Kept pq s) : (OnNext (Kept pq)) (execGetpdrrepositoryinfo s) := by
  unfold execGetpdrrepositoryinfo
  refine mctp_kept ?_ ?_
  · intro a2 a3
    exact emit_kept a3
  · exact h_s

theorem execGetpdr_kept {pq : List Instr} {handle : Nat} {s : State} (h_s : Kept pq s) : (OnNext (Kept pq)) (execGetpdr handle s) := by
  unfold execGetpdr
  refine mctp_kept ?_ ?_
  · intro a2 a3
    exact emit_kept a3
  · exact h_s

theorem execGetsensorreading_kept {pq : List Instr} {sensor : Nat} {s : State} (h_s : Kept pq s) : (OnNext (Kept pq)) (execGetsensorreading sensor s) := by
  unfold execGetsensorreading
  refine mctp_kept ?_ ?_
  · intro a2 a3
    split
    · rename_i w5 w6
      exact emit_kept a3
    · rename_i w9 w10 w11
      refine on_ite ?_ ?_
      · exact emit_kept a3
      · split
        rename_i w16 w17 w18 w19
        refine on_use (P := (OnSnd (Kept pq))) w19 ?_ (fun hw19 => ?_)
        · exact sensorValue_kept a3
        exact emit_kept hw19
  · exact h_s

theorem execGetstatesensorreadings_kept {pq : List Instr} {s : State} (h_s : Kept pq s) : (OnNext (Kept pq)) (execGetstatesensorreadings s) := by
  unfold execGetstatesensorreadings
  refine mctp_kept ?_ ?_
  · intro a2 a3
    exact emit_kept a3
  · exact h_s

theorem execSeteventreceiver_kept {pq : List Instr} {eid : Nat} {s : State} (h_s : Kept pq s) : (OnNext (Kept pq)) (execSeteventreceiver eid s) := by
  unfold execSeteventreceiver
  refine mctp_kept ?_ ?_
  · intro a2 a3
    exact emit_kept ⟨a3.1, a3.2.1, a3.2.2⟩
  · exact h_s

end Sys2Proof.Machine
end

