-- ==== Sys2Proof/Laws/KeptRegWrite.lean ====
section
/-! SUPPORT. Laws/KeptRegWrite.lean: what Machine/RegWrite.lean keeps (Laws/Kept.lean says what that is). -/
namespace Sys2Proof.Machine

theorem writeField_kept {pq : List Instr} {i : Nat} {v : Nat} {s : State} {f : Fld} (h_s : Kept pq s) : Kept pq (writeField i v s f) := by
  unfold writeField
  extract_lets v2 v3
  clear_value v2 v3
  split
  · rename_i w5 w6
    exact fset_kept h_s
  · rename_i w9 w10
    refine on_ite ?_ ?_
    · exact h_s
    · exact fset_kept ⟨h_s.1, h_s.2.1, h_s.2.2⟩
  · rename_i w15 w16
    exact fset_kept h_s
  · rename_i w19 w20
    exact fset_kept h_s
  · rename_i w23 w24
    exact h_s
  · rename_i w26 w27
    exact h_s

theorem plainWrite_kept {pq : List Instr} {r : RegName} {i : Nat} {v : Word} {s : State} (h_s : Kept pq s) : Kept pq (plainWrite r i v s) := by
  unfold plainWrite
  refine on_foldl ?_ (fun t2 _ h3 => ?_)
  · exact h_s
  · exact writeField_kept h3

theorem writePartSluice_kept {pq : List Instr} {p : Nat} {v : Word} {s : State} (h_s : Kept pq s) : Kept pq (writePartSluice p v s) := by
  unfold writePartSluice
  extract_lets v2
  clear_value v2
  refine on_ite ?_ ?_
  · exact logRefused_kept h_s
  · refine on_ite ?_ ?_
    · exact ⟨h_s.1, h_s.2.1, h_s.2.2⟩
    · exact rset_kept h_s

theorem writeGctl_kept {pq : List Instr} {r : RegName} {i : Nat} {v : Word} {s : State} (h_s : Kept pq s) : Kept pq (writeGctl r i v s) := by
  unfold writeGctl
  split
  · rename_i w2
    exact writeTileQuery_kept h_s
  · rename_i w5
    exact writeDomCtrl_kept h_s
  · rename_i w8
    exact writeLsCfg_kept h_s
  · rename_i w11
    exact writeMemClear_kept h_s
  · rename_i w14
    exact writeCohRange_kept h_s
  · rename_i w17
    exact writeCohRangeAddr_kept h_s
  · rename_i w20
    exact adminWrite_kept h_s
  · rename_i w23
    exact adminWrite_kept h_s
  · rename_i w26
    exact setStrict_kept (plainWrite_kept h_s)
  · rename_i w30
    exact writeDefMapout_kept h_s
  · rename_i w33 w34 w35 w36 w37 w38 w39 w40 w41 w42 w43
    exact plainWrite_kept h_s

theorem writeTickWin_kept {pq : List Instr} {r : RegName} {i : Nat} {v : Word} {s : State} (h_s : Kept pq s) : Kept pq (writeTickWin r i v s) := by
  unfold writeTickWin
  split
  · rename_i w2
    exact writeTickCtrl_kept h_s
  · rename_i w5
    exact writeTickPeriod_kept h_s
  · rename_i w8
    exact writePartCfg_kept h_s
  · rename_i w11
    exact writePartIdoon_kept h_s
  · rename_i w14
    exact writePartSluice_kept h_s
  · rename_i w17
    exact writeCidx_kept h_s
  · rename_i w20
    exact errFreed_kept (plainWrite_kept h_s)
  · rename_i w24
    exact writePerfSel_kept h_s
  · rename_i w27
    exact writePerfCtrl_kept h_s
  · rename_i w30 w31 w32 w33 w34 w35 w36 w37 w38 w39
    exact plainWrite_kept h_s

theorem writeHostWin_kept {pq : List Instr} {via : Option Nat} {r : RegName} {i : Nat} {v : Word} {s : State} (h_s : Kept pq s) : Kept pq (writeHostWin via r i v s) := by
  unfold writeHostWin
  split
  · rename_i w2
    exact writeHotplug_kept h_s
  · rename_i w5
    exact writeBiasFlip_kept h_s
  · rename_i w8
    refine on_ite ?_ ?_
    · exact writePortCtrl_kept h_s
    · exact h_s
  · rename_i w13
    exact writeBind_kept h_s
  · rename_i w16
    exact writeBar4_kept h_s
  · rename_i w19
    exact writeBar4Dpa_kept h_s
  · rename_i w22
    exact writePartBays_kept h_s
  · rename_i w25
    exact writePartMem_kept h_s
  · rename_i w28
    exact writePartProv_kept h_s
  · rename_i w31
    exact writeTp_kept h_s
  · rename_i w34
    exact writeTp_kept h_s
  · rename_i w37
    exact writeTp_kept h_s
  · rename_i w40
    exact writeTp_kept h_s
  · rename_i w43
    exact writeTp_kept h_s
  · rename_i w46
    exact writeTp_kept h_s
  · rename_i w49 w50 w51 w52 w53 w54 w55 w56 w57 w58 w59 w60 w61 w62 w63 w64
    exact plainWrite_kept h_s

theorem writeFieldWin_kept {pq : List Instr} {r : RegName} {i : Nat} {v : Word} {s : State} (h_s : Kept pq s) : Kept pq (writeFieldWin r i v s) := by
  unfold writeFieldWin
  split
  · rename_i w2
    exact writeIdnCtrl_kept h_s
  · rename_i w5
    exact writeTrcCtrl_kept h_s
  · rename_i w8
    exact writePrbFilt_kept h_s
  · rename_i w11
    exact writePrbFilt_kept h_s
  · rename_i w14
    exact writeMtCtrl_kept h_s
  · rename_i w17
    exact writeMtAssign_kept h_s
  · rename_i w20 w21 w22 w23 w24 w25 w26
    exact plainWrite_kept h_s

theorem writeReg_kept {pq : List Instr} {via : Option Nat} {w : Window} {r : RegName} {i : Nat} {v : Word} {s : State} (h_s : Kept pq s) : Kept pq (writeReg via w r i v s) := by
  unfold writeReg
  split
  · rename_i w2
    exact writeGctl_kept h_s
  · rename_i w5
    exact writeTickWin_kept h_s
  · rename_i w8
    exact writeTickWin_kept h_s
  · rename_i w11
    exact writeTickWin_kept h_s
  · rename_i w14
    exact writeTickWin_kept h_s
  · rename_i w17
    exact writeHostWin_kept h_s
  · rename_i w20
    exact writeHostWin_kept h_s
  · rename_i w23
    exact writeHostWin_kept h_s
  · rename_i w26
    exact writeFieldWin_kept h_s
  · rename_i w29
    exact writeFieldWin_kept h_s

theorem writeHigh_kept {pq : List Instr} {via : Option Nat} {w : Window} {r : RegName} {i : Nat} {v : Word} {s : State} (h_s : Kept pq s) : Kept pq (writeHigh via w r i v s) := by
  unfold writeHigh
  split
  · rename_i w2
    exact h_s
  · rename_i w4
    exact fset_kept h_s
  · rename_i w7 w8 w9
    exact writeReg_kept h_s

theorem msixFlush_kept {pq : List Instr} {port : Nat} {fn : Nat} {vec : Nat} {s : State} (h_s : Kept pq s) : Kept pq (msixFlush port fn vec s) := by
  unfold msixFlush
  extract_lets v2
  clear_value v2
  refine on_ite ?_ ?_
  · exact msixRaise_kept ⟨h_s.1, h_s.2.1, h_s.2.2⟩
  · exact h_s

theorem msixWrite_kept {pq : List Instr} {port : Nat} {fn : Nat} {vec : Nat} {k : Nat} {lo : Nat} {bs : List Byte} {s : State} (h_s : Kept pq s) : Kept pq (msixWrite port fn vec k lo bs s) := by
  unfold msixWrite
  extract_lets v2 v3
  clear_value v2 v3
  exact msixFlush_kept ⟨h_s.1, h_s.2.1, h_s.2.2⟩

theorem hdmSet_kept {pq : List Instr} {port : Nat} {k : Nat} {v : Nat} {s : State} (h_s : Kept pq s) : Kept pq (hdmSet port k v s) := by
  unfold hdmSet
  extract_lets v2 v3 v4 v5
  have hv2 : ∀ y0 y1 y2, Kept pq y2 → Kept pq (v2 y0 y1 y2) := by
    unfold v2
    intro a6 a7 a8 a9
    exact ⟨a9.1, a9.2.1, a9.2.2⟩
  clear_value v2 v3 v4
  have hv5 : Kept pq v5 := by
    unfold v5
    exact hv2 _ _ _ h_s
  clear_value v5
  refine on_ite ?_ ?_
  · exact hv2 _ _ _ h_s
  · refine on_ite ?_ ?_
    · exact h_s
    · refine on_ite ?_ ?_
      · exact h_s
      · split
        · rename_i w21 w22
          exact hv2 _ _ _ h_s
        · rename_i w25 w26
          exact hv2 _ _ _ h_s
        · rename_i w29 w30
          exact hv2 _ _ _ h_s
        · rename_i w33 w34
          exact hv2 _ _ _ h_s
        · rename_i w37 w38
          exact hv2 _ _ _ h_s
        · rename_i w41 w42
          exact hv2 _ _ _ h_s
        · rename_i w45 w46
          refine on_ite ?_ ?_
          · exact h_s
          · refine on_ite ?_ ?_
            · exact hv5
            · refine on_ite ?_ ?_
              · exact hv2 _ _ _ hv5
              · exact logErr_kept (hv2 _ _ _ hv5)
        · rename_i w57 w58 w59 w60 w61 w62 w63 w64
          exact h_s

theorem hdmWrite_kept {pq : List Instr} {port : Nat} {off : Nat} {lo : Nat} {bs : List Byte} {s : State} (h_s : Kept pq s) : Kept pq (hdmWrite port off lo bs s) := by
  unfold hdmWrite
  extract_lets v2 v3 v4
  clear_value v2 v3
  have hv4 : Kept pq v4 := by
    unfold v4
    refine on_ite ?_ ?_
    · exact hdmSet_kept h_s
    · exact h_s
  clear_value v4
  refine on_ite ?_ ?_
  · exact hdmSet_kept hv4
  · exact hv4

theorem writePiece_kept {pq : List Instr} {via : Option Nat} {win : Nat} {inst : Nat} {q : Nat × Nat × List Byte} {s : State} (h_s : Kept pq s) : Kept pq (writePiece via win inst q s) := by
  unfold writePiece
  extract_lets v2 v3 v4 v5 v6
  clear_value v2 v3 v4 v5 v6
  refine on_ite ?_ ?_
  · refine on_ite ?_ ?_
    · exact hdmWrite_kept h_s
    · exact h_s
  · refine on_ite ?_ ?_
    · refine on_ite ?_ ?_
      · exact msixWrite_kept h_s
      · exact h_s
    · split
      · rename_i w18 w19
        exact h_s
      · rename_i w21 w22 w23
        refine on_ite ?_ ?_
        · exact h_s
        · split
          · rename_i w27 w28
            exact h_s
          · rename_i w30 w31 w32 w33
            refine on_ite ?_ ?_
            · exact writeReg_kept h_s
            · exact writeHigh_kept h_s

theorem writeWindow_kept {pq : List Instr} {via : Option Nat} {win : Nat} {inst : Nat} {off : Nat} {bs : List Byte} {s : State} (h_s : Kept pq s) : Kept pq (writeWindow via win inst off bs s) := by
  unfold writeWindow
  refine on_foldl ?_ (fun t2 _ h3 => ?_)
  · exact h_s
  · exact writePiece_kept h3

theorem writeVf_kept {pq : List Instr} {port : Nat} {fn : Nat} {off : Nat} {bs : List Byte} {s : State} (h_s : Kept pq s) : Kept pq (writeVf port fn off bs s) := by
  unfold writeVf
  refine on_foldl ?_ (fun t2 _ h3 => ?_)
  · exact h_s
  · extract_lets v6
    clear_value v6
    refine on_ite ?_ ?_
    · exact msixWrite_kept h3
    · exact h3

theorem hostRequest_kept {pq : List Instr} {port : Nat} {fn : Nat} {n : Nat} {ide : Bool} {f : State → State} {s : State} (h_f : ∀ y0, Kept pq y0 → Kept pq (f y0)) (h_s : Kept pq s) : Kept pq (hostRequest port fn n ide f s) := by
  unfold hostRequest
  extract_lets v2
  have hv2 : Kept pq v2 := by
    unfold v2
    exact fwrap_kept (linkWake_kept h_s)
  clear_value v2
  refine on_ite ?_ ?_
  · exact h_s
  · refine on_ite ?_ ?_
    · exact logRefused_kept hv2
    · exact h_f _ hv2

theorem barDrop_kept {pq : List Instr} {s : State} (h_s : Kept pq s) : Kept pq (barDrop s) := by
  unfold barDrop
  exact fbump_kept h_s

theorem execRegisterWrite_kept {pq : List Instr} {w : RegWr} {s : State} (h_s : Kept pq s) : (OnNext (Kept pq)) (execRegisterWrite w s) := by
  unfold execRegisterWrite
  refine on_next ?_
  split
  · rename_i w3 w4
    exact writeWindow_kept h_s
  · rename_i w7 w8 w9 w10
    refine hostRequest_kept ?_ ?_
    · intro a12 a13
      refine on_ite ?_ ?_
      · exact writeWindow_kept a13
      · exact barDrop_kept a13
    · exact h_s
  · rename_i w20 w21 w22 w23 w24
    refine hostRequest_kept ?_ ?_
    · intro a26 a27
      refine on_ite ?_ ?_
      · exact barDrop_kept a27
      · refine on_ite ?_ ?_
        · exact writeVf_kept a27
        · exact a27
    · exact h_s

end Sys2Proof.Machine
end

