-- ==== Sys2Proof/Laws/KeptAgents.lean ====
section
/-! SUPPORT. Laws/KeptAgents.lean: what Machine/Agents.lean keeps (Laws/Kept.lean says what that is). -/
namespace Sys2Proof.Machine

theorem ccTake_kept {pq : List Instr} {inval : Bool} {key : Nat} {s : State} (h_s : Kept pq s) : (OnSnd (Kept pq)) (ccTake inval key s) := by
  unfold ccTake
  split
  · rename_i w2 w3
    exact on_mk h_s
  · rename_i w6 w7 w8 w9
    exact on_mk ⟨h_s.1, h_s.2.1, h_s.2.2⟩

theorem ccSend_kept {pq : List Instr} {ty : Nat} {line : Nat} {args : List Nat} {data : List Byte} {s : State} (h_s : Kept pq s) : Kept pq (ccSend ty line args data s) := by
  unfold ccSend
  exact emit_kept h_s

theorem ccSnoop_kept {pq : List Instr} {inval : Bool} {line : Nat} {s : State} (h_s : Kept pq s) : Kept pq (ccSnoop inval line s) := by
  unfold ccSnoop
  split
  rename_i w2 w3 w4 w5
  refine on_use (P := (OnSnd (Kept pq))) w5 ?_ (fun hw5 => ?_)
  · exact ccTake_kept h_s
  exact ccSend_kept hw5

theorem snoopReach_kept {pq : List Instr} {inval : Bool} {agent : Nat} {line : Nat} {s : State} (h_s : Kept pq s) : Kept pq (snoopReach inval agent line s) := by
  unfold snoopReach
  extract_lets v2
  clear_value v2
  refine on_ite ?_ ?_
  · refine on_ite ?_ ?_
    · exact ⟨h_s.1, h_s.2.1, h_s.2.2⟩
    · exact ccSnoop_kept h_s
  · refine on_ite ?_ ?_
    · exact emit_kept h_s
    · refine on_ite ?_ ?_
      · exact emit_kept h_s
      · exact h_s

theorem execSnpinv_kept {pq : List Instr} {a : NetArr} {s : State} (h_s : Kept pq s) : (OnNext (Kept pq)) (execSnpinv a s) := by
  unfold execSnpinv
  refine on_next ?_
  refine netArrive_kept ?_ ?_
  · intro a3 a4 a5
    exact snoopReach_kept a5
  · exact h_s

theorem execSnpshr_kept {pq : List Instr} {a : NetArr} {s : State} (h_s : Kept pq s) : (OnNext (Kept pq)) (execSnpshr a s) := by
  unfold execSnpshr
  refine on_next ?_
  refine netArrive_kept ?_ ?_
  · intro a3 a4 a5
    exact snoopReach_kept a5
  · exact h_s

theorem execSnoopHoldEnd_kept {pq : List Instr} {agent : Nat} {line : Nat} {s : State} (h_s : Kept pq s) : (OnNext (Kept pq)) (execSnoopHoldEnd agent line s) := by
  unfold execSnoopHoldEnd
  extract_lets v2 v3
  clear_value v2
  have hv3 : Kept pq v3 := by
    unfold v3
    exact ⟨h_s.1, h_s.2.1, h_s.2.2⟩
  clear_value v3
  refine on_next ?_
  refine on_ite ?_ ?_
  · exact h_s
  · refine on_foldl ?_ (fun t9 _ h10 => ?_)
    · exact hv3
    · exact ccSnoop_kept h10

theorem execPush_kept {pq : List Instr} {a : NetArr} {accept : Bool} {s : State} (h_s : Kept pq s) : (OnNext (Kept pq)) (execPush a accept s) := by
  unfold execPush
  refine on_next ?_
  refine netArrive_kept ?_ ?_
  · intro a3 a4 a5
    extract_lets v7 v8
    clear_value v7
    have hv8 : Kept pq v8 := by
      unfold v8
      refine on_ite ?_ ?_
      · exact ⟨a5.1, a5.2.1, a5.2.2⟩
      · exact a5
    clear_value v8
    refine on_ite ?_ ?_
    · exact ccSend_kept hv8
    · exact pushAnswered_kept a5
  · exact h_s

theorem grantReach_kept {pq : List Instr} {ty : Nat} {p : NetPkt} {s : State} (h_s : Kept pq s) : Kept pq (grantReach ty p s) := by
  unfold grantReach
  extract_lets v2 v3 v4 v5 v6 v7 v8 v9
  clear_value v2 v3
  have hv4 : Kept pq v4 := by
    unfold v4
    exact ⟨h_s.1, h_s.2.1, h_s.2.2⟩
  clear_value v4 v5 v6 v7
  have hv8 : Kept pq v8 := by
    unfold v8
    exact netClose_kept h_s
  clear_value v8
  have hv9 : Kept pq v9 := by
    unfold v9
    exact ⟨hv8.1, hv8.2.1, hv8.2.2⟩
  clear_value v9
  refine on_ite ?_ ?_
  · exact ccSend_kept (netClose_kept hv4)
  · refine on_ite ?_ ?_
    · exact h_s
    · refine on_ite ?_ ?_
      · exact emit_kept (siteServed_kept hv9)
      · exact emit_kept (hostServed_kept hv9)

theorem execDataS_kept {pq : List Instr} {a : NetArr} {s : State} (h_s : Kept pq s) : (OnNext (Kept pq)) (execDataS a s) := by
  unfold execDataS
  refine on_next ?_
  refine netArrive_kept ?_ ?_
  · intro a3 a4 a5
    exact grantReach_kept a5
  · exact h_s

theorem execDataE_kept {pq : List Instr} {a : NetArr} {s : State} (h_s : Kept pq s) : (OnNext (Kept pq)) (execDataE a s) := by
  unfold execDataE
  refine on_next ?_
  refine netArrive_kept ?_ ?_
  · intro a3 a4 a5
    exact grantReach_kept a5
  · exact h_s

theorem execGntE_kept {pq : List Instr} {a : NetArr} {s : State} (h_s : Kept pq s) : (OnNext (Kept pq)) (execGntE a s) := by
  unfold execGntE
  refine on_next ?_
  refine netArrive_kept ?_ ?_
  · intro a3 a4 a5
    exact grantReach_kept a5
  · exact h_s

theorem execGoFlitAck_kept {pq : List Instr} {agent : Nat} {line : Nat} {s : State} (h_s : Kept pq s) : (OnNext (Kept pq)) (execGoFlitAck agent line s) := by
  unfold execGoFlitAck
  refine on_next ?_
  refine on_ite ?_ ?_
  · exact cmpAck_kept ⟨h_s.1, h_s.2.1, h_s.2.2⟩
  · exact h_s

theorem execWback_kept {pq : List Instr} {a : NetArr} {s : State} (h_s : Kept pq s) : (OnNext (Kept pq)) (execWback a s) := by
  unfold execWback
  refine on_next ?_
  refine netArrive_kept ?_ ?_
  · intro a3 a4 a5
    extract_lets v7 v8
    clear_value v7
    have hv8 : Kept pq v8 := by
      unfold v8
      exact netClose_kept a5
    clear_value v8
    refine on_ite ?_ ?_
    · exact ⟨hv8.1, hv8.2.1, hv8.2.2⟩
    · refine on_ite ?_ ?_
      · exact emit_kept (netClose_kept a5)
      · refine on_ite ?_ ?_
        · exact emit_kept (netClose_kept a5)
        · exact a5
  · exact h_s

theorem execSnoopTimeout_kept {pq : List Instr} {line : Nat} {agent : Nat} {s : State} (h_s : Kept pq s) : (OnNext (Kept pq)) (execSnoopTimeout line agent s) := by
  unfold execSnoopTimeout
  extract_lets v2 v3 v4 v5 v6 v7
  clear_value v2 v3 v4
  have hv5 : Kept pq v5 := by
    unfold v5
    exact sliceErr_kept h_s
  clear_value v5
  have hv6 : Kept pq v6 := by
    unfold v6
    refine on_ite ?_ ?_
    · exact loseSector_kept (sliceMod_kept hv5)
    · exact hv5
  clear_value v6
  have hv7 : Kept pq v7 := by
    unfold v7
    exact sliceMod_kept (snoopAnswered_kept (sliceMod_kept hv6))
  clear_value v7
  refine on_next ?_
  refine on_ite ?_ ?_
  · exact h_s
  · refine on_ite ?_ ?_
    · exact hubFail_kept hv7
    · refine on_ite ?_ ?_
      · exact siteAgentFailed_kept hv7
      · refine on_ite ?_ ?_
        · exact portError_kept hv7
        · exact hv7

theorem askOpen_kept {pq : List Instr} {src : Nat} {tag : Nat} {part : Option Nat} {addr : Nat} {write : Bool} {noData : Bool} {s : State} (h_s : Kept pq s) : Kept pq (askOpen src tag part addr write noData s) := by
  unfold askOpen
  extract_lets v2 v3
  clear_value v2
  have hv3 : Kept pq v3 := by
    unfold v3
    exact netClose_kept h_s
  clear_value v3
  exact ⟨hv3.1, hv3.2.1, hv3.2.2⟩

theorem tenonRefuse_kept {pq : List Instr} {n : Nat} {module : Nat} {addr : Nat} {write : Bool} {who : Asker} {s : State} (h_s : Kept pq s) : Kept pq (tenonRefuse n module addr write who s) := by
  unfold tenonRefuse
  extract_lets v2 v3
  have hv2 : Kept pq v2 := by
    unfold v2
    exact fbump_kept (siteErr_kept h_s)
  clear_value v2
  have hv3 : Kept pq v3 := by
    unfold v3
    exact logErr_kept hv2
  clear_value v3
  exact answerTo_kept hv3

theorem d2h_kept {pq : List Instr} {ty : Nat} {site : Nat} {tag : Nat} {addr : Nat} {data : List Byte} {noData : Bool} {upset : Nat} {s : State} (h_s : Kept pq s) : Kept pq (d2h ty site tag addr data noData upset s) := by
  unfold d2h
  extract_lets v2 v3 v4 v5 v6
  clear_value v2
  have hv3 : Kept pq v3 := by
    unfold v3
    exact fwrap_kept h_s
  clear_value v3 v4 v5
  have hv6 : Kept pq v6 := by
    unfold v6
    refine on_ite ?_ ?_
    · exact hv3
    · exact askOpen_kept hv3
  clear_value v6
  refine on_ite ?_ ?_
  · exact h_s
  · refine on_ite ?_ ?_
    · exact tenonRefuse_kept hv3
    · exact cohRequest_kept hv6

theorem execRdcurr_kept {pq : List Instr} {site : Nat} {tag : Nat} {addr : Nat} {upset : Nat} {s : State} (h_s : Kept pq s) : (OnNext (Kept pq)) (execRdcurr site tag addr upset s) := by
  unfold execRdcurr
  exact on_next (d2h_kept h_s)

theorem execRdshared_kept {pq : List Instr} {site : Nat} {tag : Nat} {addr : Nat} {upset : Nat} {s : State} (h_s : Kept pq s) : (OnNext (Kept pq)) (execRdshared site tag addr upset s) := by
  unfold execRdshared
  exact on_next (d2h_kept h_s)

theorem execRdownD2h_kept {pq : List Instr} {site : Nat} {tag : Nat} {addr : Nat} {noData : Bool} {upset : Nat} {s : State} (h_s : Kept pq s) : (OnNext (Kept pq)) (execRdownD2h site tag addr noData upset s) := by
  unfold execRdownD2h
  exact on_next (d2h_kept h_s)

theorem execCleanevict_kept {pq : List Instr} {site : Nat} {tag : Nat} {addr : Nat} {s : State} (h_s : Kept pq s) : (OnNext (Kept pq)) (execCleanevict site tag addr s) := by
  unfold execCleanevict
  exact on_next (d2h_kept h_s)

theorem execDirtyevict_kept {pq : List Instr} {site : Nat} {tag : Nat} {addr : Nat} {data : List Byte} {s : State} (h_s : Kept pq s) : (OnNext (Kept pq)) (execDirtyevict site tag addr data s) := by
  unfold execDirtyevict
  exact on_next (d2h_kept h_s)

theorem execItomwr_kept {pq : List Instr} {site : Nat} {tag : Nat} {addr : Nat} {data : List Byte} {upset : Nat} {s : State} (h_s : Kept pq s) : (OnNext (Kept pq)) (execItomwr site tag addr data upset s) := by
  unfold execItomwr
  exact on_next (d2h_kept h_s)

theorem sitePoison_kept {pq : List Instr} {n : Nat} {module : Nat} {s : State} (h_s : Kept pq s) : Kept pq (sitePoison n module s) := by
  unfold sitePoison
  exact siteErr_kept (siteSpoil_kept h_s)

theorem execCxlSnoopResponse_kept {pq : List Instr} {site : Nat} {line : Nat} {data : List Byte} {poison : Bool} {s : State} (h_s : Kept pq s) : (OnNext (Kept pq)) (execCxlSnoopResponse site line data poison s) := by
  unfold execCxlSnoopResponse
  extract_lets v2
  have hv2 : Kept pq v2 := by
    unfold v2
    exact fwrap_kept h_s
  clear_value v2
  refine on_next ?_
  refine on_ite ?_ ?_
  · exact h_s
  · refine on_ite ?_ ?_
    · exact snoopAnswered_kept (loseSector_kept (sitePoison_kept hv2))
    · exact snoopAnswered_kept hv2

theorem biasShare_kept {pq : List Instr} {line : Nat} {s : State} (h_s : Kept pq s) : Kept pq (biasShare line s) := by
  unfold biasShare
  split
  · rename_i w2 w3 w4
    refine on_ite ?_ ?_
    · exact setBias_kept h_s
    · exact h_s
  · rename_i w9 w10
    exact h_s

theorem hostMem_kept {pq : List Instr} {port : Nat} {tag : Nat} {addr : Nat} {n : Nat} {f : Nat → State → State} {s : State} (h_f : ∀ y0 y1, Kept pq y1 → Kept pq (f y0 y1)) (h_s : Kept pq s) : Kept pq (hostMem port tag addr n f s) := by
  unfold hostMem
  refine on_ite ?_ ?_
  · exact h_s
  · split
    · rename_i w4 w5
      extract_lets v7
      have hv7 : Kept pq v7 := by
        unfold v7
        exact logErr_kept h_s
      clear_value v7
      exact emit_kept hv7
    · rename_i w12 w13 w14
      refine on_ite ?_ ?_
      · exact h_s
      · exact h_f _ _ (biasShare_kept (fwrap_kept (linkWake_kept h_s)))

theorem hostReq_kept {pq : List Instr} {ty : Nat} {port : Nat} {tag : Nat} {line : Nat} {data : List Byte} {mask : List Bool} {ask : Bool} {noData : Bool} {upset : Nat} {s : State} (h_s : Kept pq s) : Kept pq (hostReq ty port tag line data mask ask noData upset s) := by
  unfold hostReq
  extract_lets v2 v3
  have hv2 : Kept pq v2 := by
    unfold v2
    refine on_ite ?_ ?_
    · exact askOpen_kept h_s
    · exact h_s
  clear_value v2 v3
  exact cohRequest_kept hv2

theorem execMemrd_kept {pq : List Instr} {port : Nat} {tag : Nat} {addr : Nat} {kind : Nat} {upset : Nat} {s : State} (h_s : Kept pq s) : (OnNext (Kept pq)) (execMemrd port tag addr kind upset s) := by
  unfold execMemrd
  refine on_next ?_
  refine hostMem_kept ?_ ?_
  · intro a3 a4 a5
    exact hostReq_kept a5
  · exact h_s

theorem execMeminv_kept {pq : List Instr} {port : Nat} {tag : Nat} {addr : Nat} {upset : Nat} {s : State} (h_s : Kept pq s) : (OnNext (Kept pq)) (execMeminv port tag addr upset s) := by
  unfold execMeminv
  refine on_next ?_
  refine hostMem_kept ?_ ?_
  · intro a3 a4 a5
    exact hostReq_kept a5
  · exact h_s

theorem execMemwr_kept {pq : List Instr} {port : Nat} {tag : Nat} {addr : Nat} {data : List Byte} {upset : Nat} {s : State} (h_s : Kept pq s) : (OnNext (Kept pq)) (execMemwr port tag addr data upset s) := by
  unfold execMemwr
  refine on_next ?_
  refine hostMem_kept ?_ ?_
  · intro a3 a4 a5
    extract_lets v7
    clear_value v7
    exact hostReq_kept a5
  · exact h_s

theorem execMemwrptl_kept {pq : List Instr} {port : Nat} {tag : Nat} {addr : Nat} {data : List Byte} {mask : Nat} {upset : Nat} {s : State} (h_s : Kept pq s) : (OnNext (Kept pq)) (execMemwrptl port tag addr data mask upset s) := by
  unfold execMemwrptl
  refine on_next ?_
  refine hostMem_kept ?_ ?_
  · intro a3 a4 a5
    exact hostReq_kept a5
  · exact h_s

theorem execBirsp_kept {pq : List Instr} {port : Nat} {line : Nat} {data : List Byte} {s : State} (h_s : Kept pq s) : (OnNext (Kept pq)) (execBirsp port line data s) := by
  unfold execBirsp
  refine on_next ?_
  refine on_ite ?_ ?_
  · exact h_s
  · exact snoopAnswered_kept (fwrap_kept h_s)

theorem execHostSnoop_kept {pq : List Instr} {port : Nat} {addr : Nat} {inval : Bool} {s : State} (h_s : Kept pq s) : (OnNext (Kept pq)) (execHostSnoop port addr inval s) := by
  unfold execHostSnoop
  extract_lets v2
  clear_value v2
  refine on_next ?_
  refine on_ite ?_ ?_
  · exact h_s
  · split
    rename_i w7 w8 w9 w10
    refine on_use (P := (OnSnd (Kept pq))) w10 ?_ (fun hw10 => ?_)
    · exact ccTake_kept h_s
    exact emit_kept (fwrap_kept hw10)

end Sys2Proof.Machine
end

