-- ==== Sys2Proof/Laws/KeptAccess.lean ====
section
/-! SUPPORT. Laws/KeptAccess.lean: what Machine/Access.lean keeps (Laws/Kept.lean says what that is). -/
namespace Sys2Proof.Machine

theorem toHub_kept {pq : List Instr} {hub : Nat} {srcTile : Nat} {a : Nat} {len : Nat} {write : Bool} {data : List Byte} {part : Nat} {cls : Nat} {urgent : Bool} {who : Asker} {s : State} (h_s : Kept pq s) : Kept pq (toHub hub srcTile a len write data part cls urgent who s) := by
  unfold toHub
  extract_lets v2 v3 v4
  clear_value v2
  have hv3 : Kept pq v3 := by
    unfold v3
    exact ⟨h_s.1, h_s.2.1, h_s.2.2⟩
  clear_value v3 v4
  exact sendPkt_kept hv3

theorem Req.reply_kept {pq : List Instr} {q : Req} {status : Nat} {data : List Byte} {s : State} (h_s : Kept pq s) : Kept pq (Req.reply q status data s) := by
  unfold Req.reply
  exact answerTo_kept h_s

theorem cohPiece_kept {pq : List Instr} {q : Req} {a : Nat} {n : Nat} {s : State} (h_s : Kept pq s) : Kept pq (cohPiece q a n s) := by
  unfold cohPiece
  extract_lets v2 v3
  clear_value v2 v3
  exact cohRequest_kept h_s

theorem memPiece_kept {pq : List Instr} {q : Req} {a : Nat} {n : Nat} {s : State} (h_s : Kept pq s) : Kept pq (memPiece q a n s) := by
  unfold memPiece
  extract_lets v2 v3 v4
  clear_value v2 v3
  have hv4 : Kept pq v4 := by
    unfold v4
    refine on_foldl ?_ (fun t6 _ h7 => ?_)
    · exact h_s
    · exact devStore_kept h7
  clear_value v4
  refine on_ite ?_ ?_
  · refine on_ite ?_ ?_
    · exact Req.reply_kept hv4
    · exact Req.reply_kept hv4
  · split
    · rename_i w18 w19 w20
      refine on_use (P := (OnSnd (Kept pq))) w20 ?_ (fun hw20 => ?_)
      · exact devRead_kept h_s
      exact Req.reply_kept hw20
    · rename_i w25 w26 w27 w28
      refine on_use (P := (OnSnd (Kept pq))) w28 ?_ (fun hw28 => ?_)
      · exact devRead_kept h_s
      exact Req.reply_kept hw28

theorem memServe_kept {pq : List Instr} {q : Req} {s : State} (h_s : Kept pq s) : Kept pq (memServe q s) := by
  unfold memServe
  extract_lets v2 v3 v4
  clear_value v2 v3
  have hv4 : Kept pq v4 := by
    unfold v4
    exact ⟨h_s.1, h_s.2.1, h_s.2.2⟩
  clear_value v4
  refine on_ite ?_ ?_
  · exact memPiece_kept h_s
  · refine on_foldl ?_ (fun t10 _ h11 => ?_)
    · exact hv4
    · extract_lets v14
      clear_value v14
      refine on_ite ?_ ?_
      · exact cohPiece_kept h11
      · exact memPiece_kept h11

theorem tileServe_kept {pq : List Instr} {q : Req} {t : Nat} {off : Nat} {s : State} (h_s : Kept pq s) : Kept pq (tileServe q t off s) := by
  unfold tileServe
  refine on_ite ?_ ?_
  · exact Req.reply_kept h_s
  · refine on_ite ?_ ?_
    · refine Req.reply_kept ?_
      refine on_foldl ?_ (fun t7 _ h8 => ?_)
      · exact h_s
      · exact storeWrite_kept h8
    · split
      · rename_i w13 w14 w15 w16
        refine on_use (P := (OnSnd (Kept pq))) w16 ?_ (fun hw16 => ?_)
        · exact storeMeets_kept h_s
        exact Req.reply_kept (tileStop_kept hw16)
      · rename_i w22 w23 w24
        refine on_use (P := (OnSnd (Kept pq))) w24 ?_ (fun hw24 => ?_)
        · exact storeMeets_kept h_s
        exact Req.reply_kept hw24

theorem regServe_kept {pq : List Instr} {q : Req} {off : Nat} {s : State} (h_s : Kept pq s) : Kept pq (regServe q off s) := by
  unfold regServe
  refine on_ite ?_ ?_
  · refine Req.reply_kept ?_
    refine on_foldl ?_ (fun t4 _ h5 => ?_)
    · exact h_s
    · split
      · rename_i w8 w9 w10 w11 w12
        exact writeWindow_kept h5
      · rename_i w15 w16
        exact h5
  · exact Req.reply_kept h_s

theorem serve_kept {pq : List Instr} {q : Req} {hubu : Bool} {s : State} (h_s : Kept pq s) : Kept pq (serve q hubu s) := by
  unfold serve
  split
  · rename_i w2 w3
    exact memServe_kept h_s
  · rename_i w6 w7 w8 w9
    exact tileServe_kept h_s
  · rename_i w12 w13 w14
    exact toHub_kept h_s
  · rename_i w17 w18 w19 w20
    split
    · rename_i w22 w23 w24 w25 w26
      exact toSite_kept h_s
    · rename_i w29 w30 w31
      exact Req.reply_kept h_s
  · rename_i w34 w35 w36
    refine on_ite ?_ ?_
    · exact regServe_kept h_s
    · exact Req.reply_kept h_s
  · rename_i w42 w43
    exact Req.reply_kept h_s

theorem netServe_kept {pq : List Instr} {write : Bool} {p : NetPkt} {s : State} (h_s : Kept pq s) : Kept pq (netServe write p s) := by
  unfold netServe
  extract_lets v2
  clear_value v2
  refine on_ite ?_ ?_
  · exact serve_kept h_s
  · refine on_ite ?_ ?_
    · exact toHub_kept h_s
    · exact Req.reply_kept h_s

theorem netRequest_kept {pq : List Instr} {ty : Nat} {write : Bool} {a : NetArr} {s : State} (h_s : Kept pq s) : (OnNext (Kept pq)) (netRequest ty write a s) := by
  unfold netRequest
  extract_lets v2
  clear_value v2
  refine on_next ?_
  refine on_ite ?_ ?_
  · exact h_s
  · refine netArrive_kept ?_ ?_
    · intro a7 a8 a9
      exact netServe_kept a9
    · exact netOpen_kept h_s

theorem execRd_kept {pq : List Instr} {a : NetArr} {s : State} (h_s : Kept pq s) : (OnNext (Kept pq)) (execRd a s) := by
  unfold execRd
  exact netRequest_kept h_s

theorem execWr_kept {pq : List Instr} {a : NetArr} {s : State} (h_s : Kept pq s) : (OnNext (Kept pq)) (execWr a s) := by
  unfold execWr
  exact netRequest_kept h_s

theorem netDone_kept {pq : List Instr} {src : Nat} {tag : Nat} {s : State} (h_s : Kept pq s) : Kept pq (netDone src tag s) := by
  unfold netDone
  extract_lets v2
  have hv2 : Kept pq v2 := by
    unfold v2
    exact netClose_kept h_s
  clear_value v2
  split
  · rename_i w6 w7 w8
    exact releaseSignals_kept hv2
  · rename_i w11 w12
    exact hv2

theorem execRdRsp_kept {pq : List Instr} {a : NetArr} {s : State} (h_s : Kept pq s) : (OnNext (Kept pq)) (execRdRsp a s) := by
  unfold execRdRsp
  refine on_next ?_
  refine netArrive_kept ?_ ?_
  · intro a3 a4 a5
    exact netClose_kept a5
  · exact h_s

theorem execWrAck_kept {pq : List Instr} {a : NetArr} {s : State} (h_s : Kept pq s) : (OnNext (Kept pq)) (execWrAck a s) := by
  unfold execWrAck
  refine on_next ?_
  refine netArrive_kept ?_ ?_
  · intro a3 a4 a5
    exact netDone_kept a5
  · exact h_s

theorem execCtrl_kept {pq : List Instr} {a : NetArr} {s : State} (h_s : Kept pq s) : (OnNext (Kept pq)) (execCtrl a s) := by
  unfold execCtrl
  refine on_next ?_
  refine netArrive_kept ?_ ?_
  · intro a3 a4 a5
    exact a5
  · exact h_s

theorem sigArrive_kept {pq : List Instr} {fromG : Nat} {signaller : Option Nat} {data : List Byte} {s : State} (h_s : Kept pq s) : Kept pq (sigArrive fromG signaller data s) := by
  unfold sigArrive
  split
  rename_i w2 w3 w4 w5 w6
  extract_lets v8
  clear_value v8
  split
  · rename_i w10 w11 w12 w13 w14
    refine on_use (P := (OnOk (Kept pq))) w14 ?_ (fun hw14 => ?_)
    · exact signalLocal_kept h_s
    refine on_ite ?_ ?_
    · exact tileStop_kept ((hw14 _ rfl))
    · exact (hw14 _ rfl)
  · rename_i w21 w22 w23 w24
    refine on_use (P := (OnOk (Kept pq))) w24 ?_ (fun hw24 => ?_)
    · exact signalLocal_kept h_s
    exact (hw24 _ rfl)
  · rename_i w28 w29 w30 w31 w32
    exact tileStop_kept h_s
  · rename_i w35 w36 w37 w38
    exact h_s

theorem execNetSig_kept {pq : List Instr} {a : NetArr} {s : State} (h_s : Kept pq s) : (OnNext (Kept pq)) (execNetSig a s) := by
  unfold execNetSig
  refine on_next ?_
  refine netArrive_kept ?_ ?_
  · intro a3 a4 a5
    exact sigArrive_kept a5
  · exact h_s

theorem decodeAt_kept {pq : List Instr} {node : Nat} {tag : Nat} {addr : Nat} {part : Option Nat} {s : State} (h_s : Kept pq s) : Kept pq (decodeAt node tag addr part s) := by
  unfold decodeAt
  split
  · rename_i w2 w3 w4 w5
    exact tileStop_kept h_s
  · rename_i w8 w9 w10 w11 w12
    extract_lets v14 v15 v16 v17
    clear_value v14
    have hv15 : Kept pq v15 := by
      unfold v15
      exact kvwErr_kept h_s
    clear_value v15
    have hv16 : Kept pq v16 := by
      unfold v16
      exact logErr_kept hv15
    clear_value v16
    have hv17 : Kept pq v17 := by
      unfold v17
      exact logErr_kept h_s
    clear_value v17
    refine on_ite ?_ ?_
    · exact ctxFault_kept (haltTile_kept hv16)
    · refine on_ite ?_ ?_
      · split
        · rename_i w30 w31 w32
          exact finish_kept hv17
        · rename_i w35 w36
          exact hv17
      · exact logErr_kept h_s
  · rename_i w40 w41 w42 w43
    exact logErr_kept h_s

theorem netFail_kept {pq : List Instr} {r : NetReq} {status : Nat} {s : State} (h_s : Kept pq s) : Kept pq (netFail r status s) := by
  unfold netFail
  extract_lets v2
  have hv2 : Kept pq v2 := by
    unfold v2
    exact netDone_kept h_s
  clear_value v2
  refine on_ite ?_ ?_
  · exact decodeAt_kept hv2
  · exact hv2

theorem moverTimeout_kept {pq : List Instr} {src : Nat} {tag : Nat} {s : State} (h_s : Kept pq s) : Kept pq (moverTimeout src tag s) := by
  unfold moverTimeout
  refine on_ite ?_ ?_
  · exact h_s
  · split
    · rename_i w4 w5 w6
      exact finish_kept h_s
    · rename_i w9 w10
      exact h_s

theorem execErrRsp_kept {pq : List Instr} {a : NetArr} {s : State} (h_s : Kept pq s) : (OnNext (Kept pq)) (execErrRsp a s) := by
  unfold execErrRsp
  refine on_next ?_
  refine netArrive_kept ?_ ?_
  · intro a3 a4 a5
    split
    · rename_i w7 w8 w9
      exact netFail_kept a5
    · rename_i w12 w13
      exact a5
  · exact h_s

theorem execRequestTimeout_kept {pq : List Instr} {src : Nat} {tag : Nat} {s : State} (h_s : Kept pq s) : (OnNext (Kept pq)) (execRequestTimeout src tag s) := by
  unfold execRequestTimeout
  refine on_next ?_
  split
  · rename_i w3 w4
    exact h_s
  · rename_i w6 w7 w8
    extract_lets v10 v11 v12 v13 v14 v15
    clear_value v10 v11
    have hv12 : Kept pq v12 := by
      unfold v12
      exact netDone_kept h_s
    clear_value v12
    have hv13 : Kept pq v13 := by
      unfold v13
      exact ⟨hv12.1, hv12.2.1, hv12.2.2⟩
    clear_value v13
    have hv14 : Kept pq v14 := by
      unfold v14
      exact moverTimeout_kept hv13
    clear_value v14
    have hv15 : Kept pq v15 := by
      unfold v15
      split
      · rename_i w22 w23 w24
        exact spoil_kept hv14
      · rename_i w27 w28
        exact hv14
    clear_value v15
    exact logErr_kept hv15

theorem hubServe_kept {pq : List Instr} {write : Bool} {p : IdnPkt} {s : State} (h_s : Kept pq s) : Kept pq (hubServe write p s) := by
  unfold hubServe
  extract_lets v2 v3
  clear_value v2 v3
  refine on_ite ?_ ?_
  · exact sendErr_kept (logErr_kept h_s)
  · exact serve_kept h_s

theorem idnRequest_kept {pq : List Instr} {ty : Nat} {write : Bool} {a : IdnArr} {s : State} (h_s : Kept pq s) : (OnNext (Kept pq)) (idnRequest ty write a s) := by
  unfold idnRequest
  refine on_next ?_
  refine on_ite ?_ ?_
  · exact h_s
  · refine idnAccept_kept ?_ ?_
    · intro a5 a6 a7
      exact hubServe_kept a7
    · exact h_s

theorem execIdoonRdReq_kept {pq : List Instr} {a : IdnArr} {s : State} (h_s : Kept pq s) : (OnNext (Kept pq)) (execIdoonRdReq a s) := by
  unfold execIdoonRdReq
  exact idnRequest_kept h_s

theorem execIdoonWr_kept {pq : List Instr} {a : IdnArr} {s : State} (h_s : Kept pq s) : (OnNext (Kept pq)) (execIdoonWr a s) := by
  unfold execIdoonWr
  exact idnRequest_kept h_s

theorem idnAnswer_kept {pq : List Instr} {ty : Nat} {fits : IdnReq → Bool} {status : IdnPkt → Nat} {a : IdnArr} {s : State} (h_s : Kept pq s) : (OnNext (Kept pq)) (idnAnswer ty fits status a s) := by
  unfold idnAnswer
  refine on_next ?_
  refine on_ite ?_ ?_
  · exact h_s
  · refine idnAccept_kept ?_ ?_
    · intro a5 a6 a7
      split
      · rename_i w9 w10
        exact a7
      · rename_i w12 w13 w14
        exact answerTo_kept ⟨a7.1, a7.2.1, a7.2.2⟩
    · exact h_s

theorem execIdoonRdRsp_kept {pq : List Instr} {a : IdnArr} {s : State} (h_s : Kept pq s) : (OnNext (Kept pq)) (execIdoonRdRsp a s) := by
  unfold execIdoonRdRsp
  exact idnAnswer_kept h_s

theorem execIdoonWrAck_kept {pq : List Instr} {a : IdnArr} {s : State} (h_s : Kept pq s) : (OnNext (Kept pq)) (execIdoonWrAck a s) := by
  unfold execIdoonWrAck
  exact idnAnswer_kept h_s

theorem sigRefused_kept {pq : List Instr} {p : IdnPkt} {s : State} (h_s : Kept pq s) : Kept pq (sigRefused p s) := by
  unfold sigRefused
  split
  · rename_i w2 w3 w4
    refine on_ite ?_ ?_
    · exact tileStop_kept h_s
    · exact h_s
  · rename_i w9 w10
    exact h_s

theorem execIdoonErrRsp_kept {pq : List Instr} {a : IdnArr} {s : State} (h_s : Kept pq s) : (OnNext (Kept pq)) (execIdoonErrRsp a s) := by
  unfold execIdoonErrRsp
  refine on_ite ?_ ?_
  · refine on_next ?_
    refine idnAccept_kept ?_ ?_
    · intro a4 a5 a6
      exact sigRefused_kept a6
    · exact h_s
  · exact idnAnswer_kept h_s

theorem sigRemote_kept {pq : List Instr} {p : IdnPkt} {s : State} (h_s : Kept pq s) : Kept pq (sigRemote p s) := by
  unfold sigRemote
  split
  rename_i w2 w3 w4 w5 w6
  extract_lets v8
  clear_value v8
  refine on_ite ?_ ?_
  · exact sendErr_kept h_s
  · split
    · rename_i w13 w14 w15
      refine on_use (P := (OnOk (Kept pq))) w15 ?_ (fun hw15 => ?_)
      · exact signalLocal_kept h_s
      refine on_ite ?_ ?_
      · exact sendErr_kept ((hw15 _ rfl))
      · exact (hw15 _ rfl)
    · rename_i w22 w23 w24
      exact sendErr_kept (logErr_kept h_s)
    · rename_i w28 w29 w30 w31
      exact sendErr_kept h_s

theorem execIdoonSig_kept {pq : List Instr} {a : IdnArr} {s : State} (h_s : Kept pq s) : (OnNext (Kept pq)) (execIdoonSig a s) := by
  unfold execIdoonSig
  refine on_next ?_
  refine on_ite ?_ ?_
  · exact h_s
  · refine idnAccept_kept ?_ ?_
    · intro a5 a6 a7
      exact sigRemote_kept a7
    · exact h_s

theorem tenonServe_kept {pq : List Instr} {n : Nat} {module : Nat} {q : Req} {s : State} (h_s : Kept pq s) : Kept pq (tenonServe n module q s) := by
  unfold tenonServe
  refine on_ite ?_ ?_
  · exact tenonRefuse_kept h_s
  · refine on_ite ?_ ?_
    · exact Req.reply_kept h_s
    · exact serve_kept h_s

theorem siteAnswer_kept {pq : List Instr} {n : Nat} {module : Nat} {tag : Nat} {write : Option Bool} {status : Nat} {data : List Byte} {s : State} (h_s : Kept pq s) : (OnSome (Kept pq)) (siteAnswer n module tag write status data s) := by
  unfold siteAnswer
  refine on_map' (fun _ => ?_)
  exact answerTo_kept (siteMod_kept h_s)

theorem rawDrop_kept {pq : List Instr} {n : Nat} {module : Nat} {cause : Nat} {s : State} (h_s : Kept pq s) : Kept pq (rawDrop n module cause s) := by
  unfold rawDrop
  exact fbump_kept (siteErr_kept h_s)

theorem rawAccepted_kept {pq : List Instr} {n : Nat} {module : Nat} {ty : Nat} {p : NetPkt} {s : State} (h_s : Kept pq s) : Kept pq (rawAccepted n module ty p s) := by
  unfold rawAccepted
  extract_lets v2 v3 v4 v5 v6
  clear_value v2 v3 v4 v5 v6
  split
  · rename_i w8
    refine on_ite ?_ ?_
    · exact rawDrop_kept h_s
    · exact tenonServe_kept h_s
  · rename_i w14
    exact tenonServe_kept h_s
  · rename_i w17
    refine on_ite ?_ ?_
    · exact tenonRefuse_kept h_s
    · refine on_ite ?_ ?_
      · exact answerTo_kept h_s
      · exact sigArrive_kept h_s
  · rename_i w26 w27 w28 w29
    split
    · rename_i w31 w32 w33
      refine on_use (P := (OnSome (Kept pq))) w33 ?_ (fun hw33 => ?_)
      · exact siteAnswer_kept h_s
      exact (hw33 _ rfl)
    · rename_i w37 w38
      exact rawDrop_kept h_s

theorem execRawPacket_kept {pq : List Instr} {site : Nat} {module : Nat} {ty : Nat} {vc : Nat} {crcOk : Bool} {ovr : Bool} {p : NetPkt} {s : State} (h_s : Kept pq s) : (OnNext (Kept pq)) (execRawPacket site module ty vc crcOk ovr p s) := by
  unfold execRawPacket
  extract_lets v2 v3 v4
  have hv2 : Kept pq v2 := by
    unfold v2
    exact fwrap_kept h_s
  clear_value v2 v3
  have hv4 : Kept pq v4 := by
    unfold v4
    exact emit_kept hv2
  clear_value v4
  refine on_next ?_
  refine on_ite ?_ ?_
  · exact h_s
  · refine on_ite ?_ ?_
    · exact h_s
    · refine on_ite ?_ ?_
      · exact siteFault_kept (siteErr_kept h_s)
      · refine on_ite ?_ ?_
        · exact siteErr_kept (siteSpoil_kept hv4)
        · refine on_ite ?_ ?_
          · exact rawDrop_kept hv4
          · exact rawAccepted_kept hv4

theorem execRawCredit_kept {pq : List Instr} {site : Nat} {module : Nat} {vc1 : Nat} {vc3 : Nat} {s : State} (h_s : Kept pq s) : (OnNext (Kept pq)) (execRawCredit site module vc1 vc3 s) := by
  unfold execRawCredit
  refine on_next ?_
  refine on_ite ?_ ?_
  · exact h_s
  · exact siteRun_kept (siteMod_kept h_s)

theorem execCxlIoRequest_kept {pq : List Instr} {site : Nat} {tag : Nat} {write : Bool} {span : IoSpan} {data : List Byte} {msi : Bool} {upset : Option Upset} {s : State} (h_s : Kept pq s) : (OnNext (Kept pq)) (execCxlIoRequest site tag write span data msi upset s) := by
  unfold execCxlIoRequest
  extract_lets v2 v3 v4 v5
  have hv2 : Kept pq v2 := by
    unfold v2
    exact fwrap_kept h_s
  clear_value v2 v3 v4 v5
  refine on_next ?_
  refine on_ite ?_ ?_
  · exact h_s
  · refine on_ite ?_ ?_
    · exact tenonRefuse_kept hv2
    · exact tenonServe_kept hv2

theorem execCxlMemResponse_kept {pq : List Instr} {site : Nat} {tag : Nat} {status : Nat} {data : List Byte} {poison : Bool} {s : State} (h_s : Kept pq s) : (OnNext (Kept pq)) (execCxlMemResponse site tag status data poison s) := by
  unfold execCxlMemResponse
  extract_lets v2 v3
  have hv2 : Kept pq v2 := by
    unfold v2
    exact fwrap_kept h_s
  clear_value v2
  have hv3 : Kept pq v3 := by
    unfold v3
    refine on_ite ?_ ?_
    · exact sitePoison_kept hv2
    · exact hv2
  clear_value v3
  refine on_next ?_
  refine on_ite ?_ ?_
  · exact h_s
  · split
    · rename_i w14 w15 w16
      refine on_use (P := (OnSome (Kept pq))) w16 ?_ (fun hw16 => ?_)
      · exact siteAnswer_kept hv3
      exact (hw16 _ rfl)
    · rename_i w20 w21
      exact siteErr_kept hv3

theorem execConfigRequest_kept {pq : List Instr} {port : Nat} {fn : Nat} {off : Nat} {tag : Nat} {write : Bool} {n : Nat} {data : List Byte} {s : State} (h_s : Kept pq s) : (OnNext (Kept pq)) (execConfigRequest port fn off tag write n data s) := by
  unfold execConfigRequest
  extract_lets v2
  have hv2 : Kept pq v2 := by
    unfold v2
    refine on_foldl ?_ (fun t4 _ h5 => ?_)
    · exact linkWake_kept h_s
    · extract_lets v9 v10 v11
      clear_value v9 v10 v11
      exact ⟨h5.1, h5.2.1, h5.2.2⟩
  clear_value v2
  refine on_next ?_
  refine on_ite ?_ ?_
  · exact h_s
  · refine on_ite ?_ ?_
    · exact emit_kept hv2
    · exact emit_kept (linkWake_kept h_s)

theorem execBar4Access_kept {pq : List Instr} {port : Nat} {fn : Nat} {off : Nat} {tag : Nat} {write : Bool} {ide : Bool} {n : Nat} {data : List Byte} {s : State} (h_s : Kept pq s) : (OnNext (Kept pq)) (execBar4Access port fn off tag write ide n data s) := by
  unfold execBar4Access
  extract_lets v2
  clear_value v2
  refine on_next ?_
  refine on_ite ?_ ?_
  · exact h_s
  · refine on_ite ?_ ?_
    · exact emit_kept (logRefused_kept h_s)
    · refine hostRequest_kept ?_ ?_
      · intro a11 a12
        refine on_ite ?_ ?_
        · refine on_ite ?_ ?_
          · exact barDrop_kept a12
          · exact emit_kept a12
        · split
          · rename_i w20 w21
            refine on_ite ?_ ?_
            · exact logRefused_kept a12
            · exact emit_kept a12
          · rename_i w27 w28 w29
            extract_lets v31
            clear_value v31
            split
            · rename_i w33 w34
              exact memServe_kept a12
            · rename_i w37 w38
              exact Req.reply_kept (logErr_kept a12)
      · exact h_s

end Sys2Proof.Machine
end

