-- ==== Sys2Proof/Laws/KeptFlags.lean ====
section
/-! SUPPORT. Laws/KeptFlags.lean: what Machine/Flags.lean keeps (Laws/Kept.lean says what that is). -/
namespace Sys2Proof.Machine

theorem raiseFlags_kept {pq : List Instr} {t : Nat} {fl : Nat} {s : State} (h_s : Kept pq s) : Kept pq (raiseFlags t fl s) := by
  unfold raiseFlags
  exact fset_kept h_s

end Sys2Proof.Machine
end

