-- ==== Sys2Proof/Laws/KeptTileMatrix.lean ====
section
/-! SUPPORT. Laws/KeptTileMatrix.lean: what Machine/TileMatrix.lean keeps (Laws/Kept.lean says what that is). -/
namespace Sys2Proof.Machine

theorem matQueued_kept {pq : List Instr} {t : Nat} {ws : List Owed} {τ : Tile} {s : State} (h_s : Kept pq s) : Kept pq (matQueued t ws τ s) := by
  unfold matQueued
  exact tileSet_kept h_s

theorem execMma_kept {pq : List Instr} {o : TileOp} {s : State} (h_s : Kept pq s) : (OnNext (Kept pq)) (execMma o s) := by
  unfold execMma
  refine issued_kept ?_ ?_
  · intro a2 a3
    extract_lets v5 v6 v7 v8
    clear_value v5 v6 v7 v8
    split
    · rename_i w10 w11 w12 w13 w14 w15
      refine on_bindE' (fun _ => ?_)
      refine on_bindE' (fun _ => ?_)
      split
      rename_i w19 w20 w21
      refine on_bindE' (fun _ => ?_)
      refine on_bindE' (fun _ => ?_)
      refine on_bindE' (fun _ => ?_)
      extract_lets v26 v27
      clear_value v26
      have hv27 : ∀ y0, (OnOk (Kept pq)) (v27 y0) := by
        unfold v27
        intro a28
        extract_lets v30 v31
        clear_value v30 v31
        refine on_bindE' (fun _ => ?_)
        exact on_ok (matQueued_kept a3)
      clear_value v27
      refine on_ite ?_ ?_
      · refine on_bindE' (fun _ => ?_)
        refine on_bindE' (fun _ => ?_)
        refine hv27 _
      · refine on_bindE' (fun _ => ?_)
        refine hv27 _
    · rename_i w42 w43 w44
      exact on_error
  · exact h_s

theorem execMmb_kept {pq : List Instr} {o : TileOp} {s : State} (h_s : Kept pq s) : (OnNext (Kept pq)) (execMmb o s) := by
  unfold execMmb
  refine issued_kept ?_ ?_
  · intro a2 a3
    extract_lets v5 v6
    clear_value v5 v6
    refine on_bindE' (fun _ => ?_)
    refine on_bindE' (fun _ => ?_)
    split
    rename_i w10 w11 w12
    refine on_bindE' (fun _ => ?_)
    refine on_bindE' (fun _ => ?_)
    refine on_bindE' (fun _ => ?_)
    extract_lets v17
    have hv17 : ∀ y0, (OnOk (Kept pq)) (v17 y0) := by
      unfold v17
      intro a18
      extract_lets v20 v21
      clear_value v20 v21
      refine on_bindE' (fun _ => ?_)
      exact on_ok (matQueued_kept a3)
    clear_value v17
    refine on_ite ?_ ?_
    · refine on_bindE' (fun _ => ?_)
      refine on_bindE' (fun _ => ?_)
      refine hv17 _
    · refine on_bindE' (fun _ => ?_)
      refine hv17 _
  · exact h_s

theorem execMscan_kept {pq : List Instr} {o : TileOp} {s : State} (h_s : Kept pq s) : (OnNext (Kept pq)) (execMscan o s) := by
  unfold execMscan
  refine issued_kept ?_ ?_
  · intro a2 a3
    extract_lets v5 v6
    clear_value v5 v6
    split
    · rename_i w8 w9 w10 w11 w12 w13
      refine on_bindE' (fun _ => ?_)
      refine on_bindE' (fun _ => ?_)
      split
      rename_i w17 w18 w19
      refine on_bindE' (fun _ => ?_)
      refine on_bindE' (fun _ => ?_)
      refine on_bindE' (fun _ => ?_)
      extract_lets v24 v25
      clear_value v24 v25
      exact on_ok (matQueued_kept a3)
    · rename_i w29 w30 w31
      exact on_error
  · exact h_s

theorem mout_kept {pq : List Instr} {fn : Nat} {o : TileOp} {s : State} (h_s : Kept pq s) : (OnOk (Kept pq)) (mout fn o s) := by
  unfold mout
  extract_lets v2 v3 v4 v5
  clear_value v2 v3 v4 v5
  refine on_bindE' (fun _ => ?_)
  split
  · rename_i w8 w9 w10 w11 w12 w13
    extract_lets v15 v16 v17
    clear_value v15 v16
    have hv17 : ∀ y0, (OnOk (Kept pq)) (v17 y0) := by
      unfold v17
      intro a18
      exact on_ok (matQueued_kept h_s)
    clear_value v17
    refine on_bindE' (fun _ => ?_)
    refine on_bindE' (fun _ => ?_)
    refine on_ite ?_ ?_
    · refine on_bindE' (fun _ => ?_)
      refine hv17 _
    · refine hv17 _
  · rename_i w28 w29 w30
    exact on_error

theorem execMoutRecords_kept {pq : List Instr} {o : TileOp} {s : State} (h_s : Kept pq s) : (OnNext (Kept pq)) (execMoutRecords o s) := by
  unfold execMoutRecords
  refine issued_kept ?_ ?_
  · intro a2 a3
    exact mout_kept a3
  · exact h_s

theorem execMoutFp32_kept {pq : List Instr} {o : TileOp} {s : State} (h_s : Kept pq s) : (OnNext (Kept pq)) (execMoutFp32 o s) := by
  unfold execMoutFp32
  refine issued_kept ?_ ?_
  · intro a2 a3
    exact mout_kept a3
  · exact h_s

theorem execMoutBf16_kept {pq : List Instr} {o : TileOp} {s : State} (h_s : Kept pq s) : (OnNext (Kept pq)) (execMoutBf16 o s) := by
  unfold execMoutBf16
  refine issued_kept ?_ ?_
  · intro a2 a3
    exact mout_kept a3
  · exact h_s

theorem execMoutMx_kept {pq : List Instr} {o : TileOp} {s : State} (h_s : Kept pq s) : (OnNext (Kept pq)) (execMoutMx o s) := by
  unfold execMoutMx
  refine issued_kept ?_ ?_
  · intro a2 a3
    exact mout_kept a3
  · exact h_s

theorem execMatrixComplete_kept {pq : List Instr} {tile : Nat} {s : State} (h_s : Kept pq s) : (OnNext (Kept pq)) (execMatrixComplete tile s) := by
  unfold execMatrixComplete
  refine on_next ?_
  split
  · rename_i w3 w4
    exact h_s
  · rename_i w6 w7 w8 w9
    exact tileRest_kept (doneBump_kept (payOwed_kept (tileMod_kept h_s)))

end Sys2Proof.Machine
end

