-- ==== Sys2Proof/Laws/KeptVecOps.lean ====
section
/-! SUPPORT. Laws/KeptVecOps.lean: what Machine/VecOps.lean keeps (Laws/Kept.lean says what that is). -/
namespace Sys2Proof.Machine

theorem vResult_kept {pq : List Instr} {o : TileOp} {f : FmtV} {dbytes : Nat} {rs : List FRes} {s : State} (h_s : Kept pq s) : Kept pq (vResult o f dbytes rs s) := by
  unfold vResult
  extract_lets v2 v3
  clear_value v2 v3
  exact raiseFlags_kept (tileSet_kept h_s)

theorem vUnary_kept {pq : List Instr} {o : TileOp} {ok : EType → Bool} {fn : EType → Nat → FRes} {s : State} (h_s : Kept pq s) : (OnOk (Kept pq)) (vUnary o ok fn s) := by
  unfold vUnary
  extract_lets v2 v3
  clear_value v2 v3
  refine on_bindE' (fun _ => ?_)
  refine on_bindE' (fun _ => ?_)
  extract_lets v7
  clear_value v7
  refine on_bindE' (fun _ => ?_)
  exact on_ok (vResult_kept h_s)

theorem vBinary_kept {pq : List Instr} {o : TileOp} {ok : EType → Bool} {bb : EType → Nat} {fn : EType → Nat → Nat → FRes} {s : State} (h_s : Kept pq s) : (OnOk (Kept pq)) (vBinary o ok bb fn s) := by
  unfold vBinary
  extract_lets v2 v3
  clear_value v2 v3
  refine on_bindE' (fun _ => ?_)
  refine on_bindE' (fun _ => ?_)
  refine on_bindE' (fun _ => ?_)
  exact on_ok (vResult_kept h_s)

theorem vTernary_kept {pq : List Instr} {o : TileOp} {ok : EType → Bool} {fn : EType → Nat → Nat → Nat → FRes} {s : State} (h_s : Kept pq s) : (OnOk (Kept pq)) (vTernary o ok fn s) := by
  unfold vTernary
  extract_lets v2 v3
  clear_value v2 v3
  refine on_bindE' (fun _ => ?_)
  refine on_bindE' (fun _ => ?_)
  refine on_bindE' (fun _ => ?_)
  extract_lets v8
  clear_value v8
  exact on_ok (vResult_kept h_s)

theorem vCompare_kept {pq : List Instr} {o : TileOp} {fn : EType → Nat → Nat → Bool} {s : State} (h_s : Kept pq s) : (OnOk (Kept pq)) (vCompare o fn s) := by
  unfold vCompare
  extract_lets v2 v3
  clear_value v2 v3
  refine on_bindE' (fun _ => ?_)
  refine on_bindE' (fun _ => ?_)
  refine on_bindE' (fun _ => ?_)
  extract_lets v8 v9
  clear_value v8 v9
  exact on_ok (tileSet_kept h_s)

theorem vReduce_kept {pq : List Instr} {o : TileOp} {ok : EType → Bool} {fn : EType → FmtV → Tile → Nat × Nat} {s : State} (h_s : Kept pq s) : (OnOk (Kept pq)) (vReduce o ok fn s) := by
  unfold vReduce
  extract_lets v2 v3
  clear_value v2 v3
  refine on_bindE' (fun _ => ?_)
  refine on_bindE' (fun _ => ?_)
  refine on_bindE' (fun _ => ?_)
  extract_lets v8
  clear_value v8
  exact on_ok (raiseFlags_kept (tileSet_kept h_s))

end Sys2Proof.Machine
end

