-- ==== Sys2Proof/Laws/KeptTileVector.lean ====
section
/-! SUPPORT. Laws/KeptTileVector.lean: what Machine/TileVector.lean keeps (Laws/Kept.lean says what that is). -/
namespace Sys2Proof.Machine

theorem scalarOp_kept {pq : List Instr} {o : TileOp} {fn : Word → Word → Word} {s : State} (h_s : Kept pq s) : (OnOk (Kept pq)) (scalarOp o fn s) := by
  unfold scalarOp
  extract_lets v2
  clear_value v2
  refine on_bindE' (fun _ => ?_)
  exact on_ok (xset_kept h_s)

theorem execXadd_kept {pq : List Instr} {o : TileOp} {s : State} (h_s : Kept pq s) : (OnNext (Kept pq)) (execXadd o s) := by
  unfold execXadd
  refine issued_kept ?_ ?_
  · intro a2 a3
    exact scalarOp_kept a3
  · exact h_s

theorem execXsub_kept {pq : List Instr} {o : TileOp} {s : State} (h_s : Kept pq s) : (OnNext (Kept pq)) (execXsub o s) := by
  unfold execXsub
  refine issued_kept ?_ ?_
  · intro a2 a3
    exact scalarOp_kept a3
  · exact h_s

theorem execXmul_kept {pq : List Instr} {o : TileOp} {s : State} (h_s : Kept pq s) : (OnNext (Kept pq)) (execXmul o s) := by
  unfold execXmul
  refine issued_kept ?_ ?_
  · intro a2 a3
    exact scalarOp_kept a3
  · exact h_s

theorem execXand_kept {pq : List Instr} {o : TileOp} {s : State} (h_s : Kept pq s) : (OnNext (Kept pq)) (execXand o s) := by
  unfold execXand
  refine issued_kept ?_ ?_
  · intro a2 a3
    exact scalarOp_kept a3
  · exact h_s

theorem execXor_kept {pq : List Instr} {o : TileOp} {s : State} (h_s : Kept pq s) : (OnNext (Kept pq)) (execXor o s) := by
  unfold execXor
  refine issued_kept ?_ ?_
  · intro a2 a3
    exact scalarOp_kept a3
  · exact h_s

theorem execXxor_kept {pq : List Instr} {o : TileOp} {s : State} (h_s : Kept pq s) : (OnNext (Kept pq)) (execXxor o s) := by
  unfold execXxor
  refine issued_kept ?_ ?_
  · intro a2 a3
    exact scalarOp_kept a3
  · exact h_s

theorem execXshl_kept {pq : List Instr} {o : TileOp} {s : State} (h_s : Kept pq s) : (OnNext (Kept pq)) (execXshl o s) := by
  unfold execXshl
  refine issued_kept ?_ ?_
  · intro a2 a3
    exact scalarOp_kept a3
  · exact h_s

theorem execXshr_kept {pq : List Instr} {o : TileOp} {s : State} (h_s : Kept pq s) : (OnNext (Kept pq)) (execXshr o s) := by
  unfold execXshr
  refine issued_kept ?_ ?_
  · intro a2 a3
    exact scalarOp_kept a3
  · exact h_s

theorem execXsra_kept {pq : List Instr} {o : TileOp} {s : State} (h_s : Kept pq s) : (OnNext (Kept pq)) (execXsra o s) := by
  unfold execXsra
  refine issued_kept ?_ ?_
  · intro a2 a3
    exact scalarOp_kept a3
  · exact h_s

theorem execXslt_kept {pq : List Instr} {o : TileOp} {s : State} (h_s : Kept pq s) : (OnNext (Kept pq)) (execXslt o s) := by
  unfold execXslt
  refine issued_kept ?_ ?_
  · intro a2 a3
    exact scalarOp_kept a3
  · exact h_s

theorem execXsltu_kept {pq : List Instr} {o : TileOp} {s : State} (h_s : Kept pq s) : (OnNext (Kept pq)) (execXsltu o s) := by
  unfold execXsltu
  refine issued_kept ?_ ?_
  · intro a2 a3
    exact scalarOp_kept a3
  · exact h_s

theorem execXseq_kept {pq : List Instr} {o : TileOp} {s : State} (h_s : Kept pq s) : (OnNext (Kept pq)) (execXseq o s) := by
  unfold execXseq
  refine issued_kept ?_ ?_
  · intro a2 a3
    exact scalarOp_kept a3
  · exact h_s

theorem execXmin_kept {pq : List Instr} {o : TileOp} {s : State} (h_s : Kept pq s) : (OnNext (Kept pq)) (execXmin o s) := by
  unfold execXmin
  refine issued_kept ?_ ?_
  · intro a2 a3
    exact scalarOp_kept a3
  · exact h_s

theorem execXmax_kept {pq : List Instr} {o : TileOp} {s : State} (h_s : Kept pq s) : (OnNext (Kept pq)) (execXmax o s) := by
  unfold execXmax
  refine issued_kept ?_ ?_
  · intro a2 a3
    exact scalarOp_kept a3
  · exact h_s

theorem execXminu_kept {pq : List Instr} {o : TileOp} {s : State} (h_s : Kept pq s) : (OnNext (Kept pq)) (execXminu o s) := by
  unfold execXminu
  refine issued_kept ?_ ?_
  · intro a2 a3
    exact scalarOp_kept a3
  · exact h_s

theorem execXmaxu_kept {pq : List Instr} {o : TileOp} {s : State} (h_s : Kept pq s) : (OnNext (Kept pq)) (execXmaxu o s) := by
  unfold execXmaxu
  refine issued_kept ?_ ?_
  · intro a2 a3
    exact scalarOp_kept a3
  · exact h_s

theorem vload_kept {pq : List Instr} {strided : Bool} {o : TileOp} {s : State} (h_s : Kept pq s) : (OnOk (Kept pq)) (vload strided o s) := by
  unfold vload
  extract_lets v2 v3 v4
  clear_value v2 v3 v4
  refine on_bindE' (fun _ => ?_)
  refine on_bindE' (fun _ => ?_)
  refine on_bindE' (fun _ => ?_)
  refine on_bindE' (fun _ => ?_)
  refine on_bindE' (fun _ => ?_)
  extract_lets v11
  clear_value v11
  exact on_ok (vResult_kept h_s)

theorem vecQueued_kept {pq : List Instr} {t : Nat} {ws : List Owed} {s : State} (h_s : Kept pq s) : Kept pq (vecQueued t ws s) := by
  unfold vecQueued
  exact tileMod_kept h_s

theorem vstore_kept {pq : List Instr} {strided : Bool} {o : TileOp} {s : State} (h_s : Kept pq s) : (OnOk (Kept pq)) (vstore strided o s) := by
  unfold vstore
  extract_lets v2 v3 v4 v5
  clear_value v2 v3 v4 v5
  refine on_bindE' (fun _ => ?_)
  refine on_bindE' (fun _ => ?_)
  refine on_bindE' (fun _ => ?_)
  refine on_bindE' (fun _ => ?_)
  extract_lets v11 v12 v13
  clear_value v11 v12 v13
  refine on_bindE' (fun _ => ?_)
  exact on_ok (vecQueued_kept h_s)

theorem execVld_kept {pq : List Instr} {o : TileOp} {s : State} (h_s : Kept pq s) : (OnNext (Kept pq)) (execVld o s) := by
  unfold execVld
  refine issued_kept ?_ ?_
  · intro a2 a3
    exact vload_kept a3
  · exact h_s

theorem execVst_kept {pq : List Instr} {o : TileOp} {s : State} (h_s : Kept pq s) : (OnNext (Kept pq)) (execVst o s) := by
  unfold execVst
  refine issued_kept ?_ ?_
  · intro a2 a3
    exact vstore_kept a3
  · exact h_s

theorem execVlds_kept {pq : List Instr} {o : TileOp} {s : State} (h_s : Kept pq s) : (OnNext (Kept pq)) (execVlds o s) := by
  unfold execVlds
  refine issued_kept ?_ ?_
  · intro a2 a3
    exact vload_kept a3
  · exact h_s

theorem execVsts_kept {pq : List Instr} {o : TileOp} {s : State} (h_s : Kept pq s) : (OnNext (Kept pq)) (execVsts o s) := by
  unfold execVsts
  refine issued_kept ?_ ?_
  · intro a2 a3
    exact vstore_kept a3
  · exact h_s

theorem execVstmx_kept {pq : List Instr} {o : TileOp} {s : State} (h_s : Kept pq s) : (OnNext (Kept pq)) (execVstmx o s) := by
  unfold execVstmx
  refine issued_kept ?_ ?_
  · intro a2 a3
    extract_lets v5 v6 v7 v8 v9 v10 v11
    clear_value v5 v6 v7 v8 v9 v10 v11
    refine on_bindE' (fun _ => ?_)
    refine on_bindE' (fun _ => ?_)
    refine on_bindE' (fun _ => ?_)
    refine on_bindE' (fun _ => ?_)
    extract_lets v17
    clear_value v17
    exact on_ok (vecQueued_kept (raiseFlags_kept a3))
  · exact h_s

theorem execVldmx_kept {pq : List Instr} {o : TileOp} {s : State} (h_s : Kept pq s) : (OnNext (Kept pq)) (execVldmx o s) := by
  unfold execVldmx
  refine issued_kept ?_ ?_
  · intro a2 a3
    extract_lets v5 v6 v7
    clear_value v5 v6 v7
    refine on_bindE' (fun _ => ?_)
    refine on_bindE' (fun _ => ?_)
    refine on_bindE' (fun _ => ?_)
    refine on_bindE' (fun _ => ?_)
    refine on_bindE' (fun _ => ?_)
    extract_lets v14 v15
    clear_value v14 v15
    exact on_ok (vResult_kept a3)
  · exact h_s

theorem execVfadd_kept {pq : List Instr} {o : TileOp} {s : State} (h_s : Kept pq s) : (OnNext (Kept pq)) (execVfadd o s) := by
  unfold execVfadd
  refine issued_kept ?_ ?_
  · intro a2 a3
    exact vBinary_kept a3
  · exact h_s

theorem execVfsub_kept {pq : List Instr} {o : TileOp} {s : State} (h_s : Kept pq s) : (OnNext (Kept pq)) (execVfsub o s) := by
  unfold execVfsub
  refine issued_kept ?_ ?_
  · intro a2 a3
    exact vBinary_kept a3
  · exact h_s

theorem execVfmul_kept {pq : List Instr} {o : TileOp} {s : State} (h_s : Kept pq s) : (OnNext (Kept pq)) (execVfmul o s) := by
  unfold execVfmul
  refine issued_kept ?_ ?_
  · intro a2 a3
    exact vBinary_kept a3
  · exact h_s

theorem execVfmin_kept {pq : List Instr} {o : TileOp} {s : State} (h_s : Kept pq s) : (OnNext (Kept pq)) (execVfmin o s) := by
  unfold execVfmin
  refine issued_kept ?_ ?_
  · intro a2 a3
    exact vBinary_kept a3
  · exact h_s

theorem execVfmax_kept {pq : List Instr} {o : TileOp} {s : State} (h_s : Kept pq s) : (OnNext (Kept pq)) (execVfmax o s) := by
  unfold execVfmax
  refine issued_kept ?_ ?_
  · intro a2 a3
    exact vBinary_kept a3
  · exact h_s

theorem execVfabs_kept {pq : List Instr} {o : TileOp} {s : State} (h_s : Kept pq s) : (OnNext (Kept pq)) (execVfabs o s) := by
  unfold execVfabs
  refine issued_kept ?_ ?_
  · intro a2 a3
    exact vUnary_kept a3
  · exact h_s

theorem execVfneg_kept {pq : List Instr} {o : TileOp} {s : State} (h_s : Kept pq s) : (OnNext (Kept pq)) (execVfneg o s) := by
  unfold execVfneg
  refine issued_kept ?_ ?_
  · intro a2 a3
    exact vUnary_kept a3
  · exact h_s

theorem execVfscale_kept {pq : List Instr} {o : TileOp} {s : State} (h_s : Kept pq s) : (OnNext (Kept pq)) (execVfscale o s) := by
  unfold execVfscale
  refine issued_kept ?_ ?_
  · intro a2 a3
    exact vBinary_kept a3
  · exact h_s

theorem execVfma_kept {pq : List Instr} {o : TileOp} {s : State} (h_s : Kept pq s) : (OnNext (Kept pq)) (execVfma o s) := by
  unfold execVfma
  refine issued_kept ?_ ?_
  · intro a2 a3
    exact vTernary_kept a3
  · exact h_s

theorem execVfms_kept {pq : List Instr} {o : TileOp} {s : State} (h_s : Kept pq s) : (OnNext (Kept pq)) (execVfms o s) := by
  unfold execVfms
  refine issued_kept ?_ ?_
  · intro a2 a3
    exact vTernary_kept a3
  · exact h_s

theorem execVfnma_kept {pq : List Instr} {o : TileOp} {s : State} (h_s : Kept pq s) : (OnNext (Kept pq)) (execVfnma o s) := by
  unfold execVfnma
  refine issued_kept ?_ ?_
  · intro a2 a3
    exact vTernary_kept a3
  · exact h_s

theorem execVadd_kept {pq : List Instr} {o : TileOp} {s : State} (h_s : Kept pq s) : (OnNext (Kept pq)) (execVadd o s) := by
  unfold execVadd
  refine issued_kept ?_ ?_
  · intro a2 a3
    exact vBinary_kept a3
  · exact h_s

theorem execVsub_kept {pq : List Instr} {o : TileOp} {s : State} (h_s : Kept pq s) : (OnNext (Kept pq)) (execVsub o s) := by
  unfold execVsub
  refine issued_kept ?_ ?_
  · intro a2 a3
    exact vBinary_kept a3
  · exact h_s

theorem execVmul_kept {pq : List Instr} {o : TileOp} {s : State} (h_s : Kept pq s) : (OnNext (Kept pq)) (execVmul o s) := by
  unfold execVmul
  refine issued_kept ?_ ?_
  · intro a2 a3
    exact vBinary_kept a3
  · exact h_s

theorem execVmin_kept {pq : List Instr} {o : TileOp} {s : State} (h_s : Kept pq s) : (OnNext (Kept pq)) (execVmin o s) := by
  unfold execVmin
  refine issued_kept ?_ ?_
  · intro a2 a3
    exact vBinary_kept a3
  · exact h_s

theorem execVmax_kept {pq : List Instr} {o : TileOp} {s : State} (h_s : Kept pq s) : (OnNext (Kept pq)) (execVmax o s) := by
  unfold execVmax
  refine issued_kept ?_ ?_
  · intro a2 a3
    exact vBinary_kept a3
  · exact h_s

theorem execVadds_kept {pq : List Instr} {o : TileOp} {s : State} (h_s : Kept pq s) : (OnNext (Kept pq)) (execVadds o s) := by
  unfold execVadds
  refine issued_kept ?_ ?_
  · intro a2 a3
    exact vBinary_kept a3
  · exact h_s

theorem execVsubs_kept {pq : List Instr} {o : TileOp} {s : State} (h_s : Kept pq s) : (OnNext (Kept pq)) (execVsubs o s) := by
  unfold execVsubs
  refine issued_kept ?_ ?_
  · intro a2 a3
    exact vBinary_kept a3
  · exact h_s

theorem execVand_kept {pq : List Instr} {o : TileOp} {s : State} (h_s : Kept pq s) : (OnNext (Kept pq)) (execVand o s) := by
  unfold execVand
  refine issued_kept ?_ ?_
  · intro a2 a3
    exact vBinary_kept a3
  · exact h_s

theorem execVor_kept {pq : List Instr} {o : TileOp} {s : State} (h_s : Kept pq s) : (OnNext (Kept pq)) (execVor o s) := by
  unfold execVor
  refine issued_kept ?_ ?_
  · intro a2 a3
    exact vBinary_kept a3
  · exact h_s

theorem execVxor_kept {pq : List Instr} {o : TileOp} {s : State} (h_s : Kept pq s) : (OnNext (Kept pq)) (execVxor o s) := by
  unfold execVxor
  refine issued_kept ?_ ?_
  · intro a2 a3
    exact vBinary_kept a3
  · exact h_s

theorem execVnot_kept {pq : List Instr} {o : TileOp} {s : State} (h_s : Kept pq s) : (OnNext (Kept pq)) (execVnot o s) := by
  unfold execVnot
  refine issued_kept ?_ ?_
  · intro a2 a3
    exact vUnary_kept a3
  · exact h_s

theorem execVshl_kept {pq : List Instr} {o : TileOp} {s : State} (h_s : Kept pq s) : (OnNext (Kept pq)) (execVshl o s) := by
  unfold execVshl
  refine issued_kept ?_ ?_
  · intro a2 a3
    exact vBinary_kept a3
  · exact h_s

theorem execVshr_kept {pq : List Instr} {o : TileOp} {s : State} (h_s : Kept pq s) : (OnNext (Kept pq)) (execVshr o s) := by
  unfold execVshr
  refine issued_kept ?_ ?_
  · intro a2 a3
    exact vBinary_kept a3
  · exact h_s

theorem execVsra_kept {pq : List Instr} {o : TileOp} {s : State} (h_s : Kept pq s) : (OnNext (Kept pq)) (execVsra o s) := by
  unfold execVsra
  refine issued_kept ?_ ?_
  · intro a2 a3
    exact vBinary_kept a3
  · exact h_s

theorem execVcmpeq_kept {pq : List Instr} {o : TileOp} {s : State} (h_s : Kept pq s) : (OnNext (Kept pq)) (execVcmpeq o s) := by
  unfold execVcmpeq
  refine issued_kept ?_ ?_
  · intro a2 a3
    exact vCompare_kept a3
  · exact h_s

theorem execVcmpne_kept {pq : List Instr} {o : TileOp} {s : State} (h_s : Kept pq s) : (OnNext (Kept pq)) (execVcmpne o s) := by
  unfold execVcmpne
  refine issued_kept ?_ ?_
  · intro a2 a3
    exact vCompare_kept a3
  · exact h_s

theorem execVcmplt_kept {pq : List Instr} {o : TileOp} {s : State} (h_s : Kept pq s) : (OnNext (Kept pq)) (execVcmplt o s) := by
  unfold execVcmplt
  refine issued_kept ?_ ?_
  · intro a2 a3
    exact vCompare_kept a3
  · exact h_s

theorem execVcmple_kept {pq : List Instr} {o : TileOp} {s : State} (h_s : Kept pq s) : (OnNext (Kept pq)) (execVcmple o s) := by
  unfold execVcmple
  refine issued_kept ?_ ?_
  · intro a2 a3
    exact vCompare_kept a3
  · exact h_s

theorem execVcmpgt_kept {pq : List Instr} {o : TileOp} {s : State} (h_s : Kept pq s) : (OnNext (Kept pq)) (execVcmpgt o s) := by
  unfold execVcmpgt
  refine issued_kept ?_ ?_
  · intro a2 a3
    exact vCompare_kept a3
  · exact h_s

theorem execVcmpge_kept {pq : List Instr} {o : TileOp} {s : State} (h_s : Kept pq s) : (OnNext (Kept pq)) (execVcmpge o s) := by
  unfold execVcmpge
  refine issued_kept ?_ ?_
  · intro a2 a3
    exact vCompare_kept a3
  · exact h_s

theorem execVcmpspc_kept {pq : List Instr} {o : TileOp} {s : State} (h_s : Kept pq s) : (OnNext (Kept pq)) (execVcmpspc o s) := by
  unfold execVcmpspc
  refine issued_kept ?_ ?_
  · intro a2 a3
    extract_lets v5 v6
    clear_value v5 v6
    refine on_bindE' (fun _ => ?_)
    refine on_bindE' (fun _ => ?_)
    refine on_bindE' (fun _ => ?_)
    extract_lets v11
    clear_value v11
    exact on_ok (tileSet_kept a3)
  · exact h_s

theorem predOp_kept {pq : List Instr} {o : TileOp} {useB : Bool} {fn : Bool → Bool → Bool} {s : State} (h_s : Kept pq s) : (OnOk (Kept pq)) (predOp o useB fn s) := by
  unfold predOp
  extract_lets v2 v3 v4
  clear_value v2 v3 v4
  refine on_bindE' (fun _ => ?_)
  exact on_ok (tileSet_kept h_s)

theorem execPand_kept {pq : List Instr} {o : TileOp} {s : State} (h_s : Kept pq s) : (OnNext (Kept pq)) (execPand o s) := by
  unfold execPand
  refine issued_kept ?_ ?_
  · intro a2 a3
    exact predOp_kept a3
  · exact h_s

theorem execPor_kept {pq : List Instr} {o : TileOp} {s : State} (h_s : Kept pq s) : (OnNext (Kept pq)) (execPor o s) := by
  unfold execPor
  refine issued_kept ?_ ?_
  · intro a2 a3
    exact predOp_kept a3
  · exact h_s

theorem execPxor_kept {pq : List Instr} {o : TileOp} {s : State} (h_s : Kept pq s) : (OnNext (Kept pq)) (execPxor o s) := by
  unfold execPxor
  refine issued_kept ?_ ?_
  · intro a2 a3
    exact predOp_kept a3
  · exact h_s

theorem execPnot_kept {pq : List Instr} {o : TileOp} {s : State} (h_s : Kept pq s) : (OnNext (Kept pq)) (execPnot o s) := by
  unfold execPnot
  refine issued_kept ?_ ?_
  · intro a2 a3
    exact predOp_kept a3
  · exact h_s

theorem execPset_kept {pq : List Instr} {o : TileOp} {s : State} (h_s : Kept pq s) : (OnNext (Kept pq)) (execPset o s) := by
  unfold execPset
  refine issued_kept ?_ ?_
  · intro a2 a3
    extract_lets v5 v6 v7
    clear_value v5 v6 v7
    refine on_bindE' (fun _ => ?_)
    exact on_ok (tileSet_kept a3)
  · exact h_s

theorem execPcnt_kept {pq : List Instr} {o : TileOp} {s : State} (h_s : Kept pq s) : (OnNext (Kept pq)) (execPcnt o s) := by
  unfold execPcnt
  refine issued_kept ?_ ?_
  · intro a2 a3
    extract_lets v5 v6
    clear_value v5 v6
    refine on_bindE' (fun _ => ?_)
    exact on_ok (tileSet_kept a3)
  · exact h_s

theorem execPfirst_kept {pq : List Instr} {o : TileOp} {s : State} (h_s : Kept pq s) : (OnNext (Kept pq)) (execPfirst o s) := by
  unfold execPfirst
  refine issued_kept ?_ ?_
  · intro a2 a3
    extract_lets v5 v6
    clear_value v5 v6
    refine on_bindE' (fun _ => ?_)
    exact on_ok (tileSet_kept a3)
  · exact h_s

theorem execVmov_kept {pq : List Instr} {o : TileOp} {s : State} (h_s : Kept pq s) : (OnNext (Kept pq)) (execVmov o s) := by
  unfold execVmov
  refine issued_kept ?_ ?_
  · intro a2 a3
    exact vUnary_kept a3
  · exact h_s

theorem vFill_kept {pq : List Instr} {o : TileOp} {ok : EType → Bool} {fn : EType → Nat → Nat → Nat} {s : State} (h_s : Kept pq s) : (OnOk (Kept pq)) (vFill o ok fn s) := by
  unfold vFill
  extract_lets v2 v3
  clear_value v2 v3
  refine on_bindE' (fun _ => ?_)
  refine on_bindE' (fun _ => ?_)
  refine on_bindE' (fun _ => ?_)
  exact on_ok (vResult_kept h_s)

theorem execVbcast_kept {pq : List Instr} {o : TileOp} {s : State} (h_s : Kept pq s) : (OnNext (Kept pq)) (execVbcast o s) := by
  unfold execVbcast
  refine issued_kept ?_ ?_
  · intro a2 a3
    exact vFill_kept a3
  · exact h_s

theorem execViota_kept {pq : List Instr} {o : TileOp} {s : State} (h_s : Kept pq s) : (OnNext (Kept pq)) (execViota o s) := by
  unfold execViota
  refine issued_kept ?_ ?_
  · intro a2 a3
    exact vFill_kept a3
  · exact h_s

theorem execVsel_kept {pq : List Instr} {o : TileOp} {s : State} (h_s : Kept pq s) : (OnNext (Kept pq)) (execVsel o s) := by
  unfold execVsel
  refine issued_kept ?_ ?_
  · intro a2 a3
    extract_lets v5 v6
    clear_value v5 v6
    refine on_bindE' (fun _ => ?_)
    refine on_bindE' (fun _ => ?_)
    refine on_bindE' (fun _ => ?_)
    extract_lets v11
    clear_value v11
    exact on_ok (tileSet_kept a3)
  · exact h_s

theorem execVext_kept {pq : List Instr} {o : TileOp} {s : State} (h_s : Kept pq s) : (OnNext (Kept pq)) (execVext o s) := by
  unfold execVext
  refine issued_kept ?_ ?_
  · intro a2 a3
    extract_lets v5 v6 v7
    clear_value v5 v6 v7
    refine on_bindE' (fun _ => ?_)
    refine on_bindE' (fun _ => ?_)
    refine on_bindE' (fun _ => ?_)
    extract_lets v12
    clear_value v12
    exact on_ok (tileSet_kept a3)
  · exact h_s

theorem execVins_kept {pq : List Instr} {o : TileOp} {s : State} (h_s : Kept pq s) : (OnNext (Kept pq)) (execVins o s) := by
  unfold execVins
  refine issued_kept ?_ ?_
  · intro a2 a3
    extract_lets v5 v6 v7
    clear_value v5 v6 v7
    refine on_bindE' (fun _ => ?_)
    refine on_bindE' (fun _ => ?_)
    refine on_bindE' (fun _ => ?_)
    extract_lets v12
    clear_value v12
    exact on_ok (tileSet_kept a3)
  · exact h_s

theorem execVperm_kept {pq : List Instr} {o : TileOp} {s : State} (h_s : Kept pq s) : (OnNext (Kept pq)) (execVperm o s) := by
  unfold execVperm
  refine issued_kept ?_ ?_
  · intro a2 a3
    extract_lets v5 v6
    clear_value v5 v6
    refine on_bindE' (fun _ => ?_)
    refine on_bindE' (fun _ => ?_)
    refine on_bindE' (fun _ => ?_)
    extract_lets v11
    clear_value v11
    exact on_ok (vResult_kept a3)
  · exact h_s

theorem execVrdfl_kept {pq : List Instr} {o : TileOp} {s : State} (h_s : Kept pq s) : (OnNext (Kept pq)) (execVrdfl o s) := by
  unfold execVrdfl
  refine issued_kept ?_ ?_
  · intro a2 a3
    extract_lets v5
    clear_value v5
    refine on_bindE' (fun _ => ?_)
    exact on_ok (xset_kept a3)
  · exact h_s

theorem execVcomp_kept {pq : List Instr} {o : TileOp} {s : State} (h_s : Kept pq s) : (OnNext (Kept pq)) (execVcomp o s) := by
  unfold execVcomp
  refine issued_kept ?_ ?_
  · intro a2 a3
    extract_lets v5 v6
    clear_value v5 v6
    refine on_bindE' (fun _ => ?_)
    refine on_bindE' (fun _ => ?_)
    refine on_bindE' (fun _ => ?_)
    extract_lets v11
    clear_value v11
    exact on_ok (tileSet_kept a3)
  · exact h_s

theorem execVexpd_kept {pq : List Instr} {o : TileOp} {s : State} (h_s : Kept pq s) : (OnNext (Kept pq)) (execVexpd o s) := by
  unfold execVexpd
  refine issued_kept ?_ ?_
  · intro a2 a3
    extract_lets v5 v6
    clear_value v5 v6
    refine on_bindE' (fun _ => ?_)
    refine on_bindE' (fun _ => ?_)
    refine on_bindE' (fun _ => ?_)
    extract_lets v11 v12
    clear_value v11 v12
    exact on_ok (tileSet_kept a3)
  · exact h_s

theorem execVcompi_kept {pq : List Instr} {o : TileOp} {s : State} (h_s : Kept pq s) : (OnNext (Kept pq)) (execVcompi o s) := by
  unfold execVcompi
  refine issued_kept ?_ ?_
  · intro a2 a3
    extract_lets v5 v6
    clear_value v5 v6
    refine on_bindE' (fun _ => ?_)
    refine on_bindE' (fun _ => ?_)
    refine on_bindE' (fun _ => ?_)
    extract_lets v11
    clear_value v11
    exact on_ok (tileSet_kept a3)
  · exact h_s

theorem execVrsumf_kept {pq : List Instr} {o : TileOp} {s : State} (h_s : Kept pq s) : (OnNext (Kept pq)) (execVrsumf o s) := by
  unfold execVrsumf
  refine issued_kept ?_ ?_
  · intro a2 a3
    exact vReduce_kept a3
  · exact h_s

theorem execVrmaxf_kept {pq : List Instr} {o : TileOp} {s : State} (h_s : Kept pq s) : (OnNext (Kept pq)) (execVrmaxf o s) := by
  unfold execVrmaxf
  refine issued_kept ?_ ?_
  · intro a2 a3
    exact vReduce_kept a3
  · exact h_s

theorem execVrminf_kept {pq : List Instr} {o : TileOp} {s : State} (h_s : Kept pq s) : (OnNext (Kept pq)) (execVrminf o s) := by
  unfold execVrminf
  refine issued_kept ?_ ?_
  · intro a2 a3
    exact vReduce_kept a3
  · exact h_s

theorem execVrsumi_kept {pq : List Instr} {o : TileOp} {s : State} (h_s : Kept pq s) : (OnNext (Kept pq)) (execVrsumi o s) := by
  unfold execVrsumi
  refine issued_kept ?_ ?_
  · intro a2 a3
    exact vReduce_kept a3
  · exact h_s

theorem execVrmaxi_kept {pq : List Instr} {o : TileOp} {s : State} (h_s : Kept pq s) : (OnNext (Kept pq)) (execVrmaxi o s) := by
  unfold execVrmaxi
  refine issued_kept ?_ ?_
  · intro a2 a3
    exact vReduce_kept a3
  · exact h_s

theorem execVrmini_kept {pq : List Instr} {o : TileOp} {s : State} (h_s : Kept pq s) : (OnNext (Kept pq)) (execVrmini o s) := by
  unfold execVrmini
  refine issued_kept ?_ ?_
  · intro a2 a3
    exact vReduce_kept a3
  · exact h_s

theorem execVramaxf_kept {pq : List Instr} {o : TileOp} {s : State} (h_s : Kept pq s) : (OnNext (Kept pq)) (execVramaxf o s) := by
  unfold execVramaxf
  refine issued_kept ?_ ?_
  · intro a2 a3
    exact vReduce_kept a3
  · exact h_s

theorem vRows_kept {pq : List Instr} {o : TileOp} {fn : List (Bool × Nat) → Nat × Nat} {s : State} (h_s : Kept pq s) : (OnOk (Kept pq)) (vRows o fn s) := by
  unfold vRows
  extract_lets v2 v3 v4
  clear_value v2 v3 v4
  refine on_bindE' (fun _ => ?_)
  refine on_bindE' (fun _ => ?_)
  exact on_ok (raiseFlags_kept (tileSet_kept h_s))

theorem execVrrmaxf_kept {pq : List Instr} {o : TileOp} {s : State} (h_s : Kept pq s) : (OnNext (Kept pq)) (execVrrmaxf o s) := by
  unfold execVrrmaxf
  refine issued_kept ?_ ?_
  · intro a2 a3
    exact vRows_kept a3
  · exact h_s

theorem execVrrsumf_kept {pq : List Instr} {o : TileOp} {s : State} (h_s : Kept pq s) : (OnNext (Kept pq)) (execVrrsumf o s) := by
  unfold execVrrsumf
  refine issued_kept ?_ ?_
  · intro a2 a3
    exact vRows_kept a3
  · exact h_s

theorem execVrramaxf_kept {pq : List Instr} {o : TileOp} {s : State} (h_s : Kept pq s) : (OnNext (Kept pq)) (execVrramaxf o s) := by
  unfold execVrramaxf
  refine issued_kept ?_ ?_
  · intro a2 a3
    exact vRows_kept a3
  · exact h_s

theorem execVexp2_kept {pq : List Instr} {o : TileOp} {s : State} (h_s : Kept pq s) : (OnNext (Kept pq)) (execVexp2 o s) := by
  unfold execVexp2
  refine issued_kept ?_ ?_
  · intro a2 a3
    exact vUnary_kept a3
  · exact h_s

theorem execVlog2_kept {pq : List Instr} {o : TileOp} {s : State} (h_s : Kept pq s) : (OnNext (Kept pq)) (execVlog2 o s) := by
  unfold execVlog2
  refine issued_kept ?_ ?_
  · intro a2 a3
    exact vUnary_kept a3
  · exact h_s

theorem execVrcp_kept {pq : List Instr} {o : TileOp} {s : State} (h_s : Kept pq s) : (OnNext (Kept pq)) (execVrcp o s) := by
  unfold execVrcp
  refine issued_kept ?_ ?_
  · intro a2 a3
    exact vUnary_kept a3
  · exact h_s

theorem execVrsqrt_kept {pq : List Instr} {o : TileOp} {s : State} (h_s : Kept pq s) : (OnNext (Kept pq)) (execVrsqrt o s) := by
  unfold execVrsqrt
  refine issued_kept ?_ ?_
  · intro a2 a3
    exact vUnary_kept a3
  · exact h_s

theorem execVtanh_kept {pq : List Instr} {o : TileOp} {s : State} (h_s : Kept pq s) : (OnNext (Kept pq)) (execVtanh o s) := by
  unfold execVtanh
  refine issued_kept ?_ ?_
  · intro a2 a3
    exact vUnary_kept a3
  · exact h_s

theorem execVsigm_kept {pq : List Instr} {o : TileOp} {s : State} (h_s : Kept pq s) : (OnNext (Kept pq)) (execVsigm o s) := by
  unfold execVsigm
  refine issued_kept ?_ ?_
  · intro a2 a3
    exact vUnary_kept a3
  · exact h_s

theorem execVcvt_kept {pq : List Instr} {o : TileOp} {s : State} (h_s : Kept pq s) : (OnNext (Kept pq)) (execVcvt o s) := by
  unfold execVcvt
  refine issued_kept ?_ ?_
  · intro a2 a3
    extract_lets v5
    clear_value v5
    refine on_bindE' (fun _ => ?_)
    refine on_bindE' (fun _ => ?_)
    split
    · rename_i w9 w10
      exact on_error
    · rename_i w12 w13 w14
      refine on_bindE' (fun _ => ?_)
      exact on_ok (vResult_kept a3)
  · exact h_s

theorem execVexpq_kept {pq : List Instr} {o : TileOp} {s : State} (h_s : Kept pq s) : (OnNext (Kept pq)) (execVexpq o s) := by
  unfold execVexpq
  refine issued_kept ?_ ?_
  · intro a2 a3
    extract_lets v5 v6 v7
    clear_value v5 v6 v7
    refine on_bindE' (fun _ => ?_)
    refine on_bindE' (fun _ => ?_)
    exact on_ok (vResult_kept a3)
  · exact h_s

theorem execVradd_kept {pq : List Instr} {o : TileOp} {s : State} (h_s : Kept pq s) : (OnNext (Kept pq)) (execVradd o s) := by
  unfold execVradd
  refine issued_kept ?_ ?_
  · intro a2 a3
    extract_lets v5 v6 v7 v8 v9 v10
    clear_value v5 v6 v7 v8
    have hv9 : Kept pq v9 := by
      unfold v9
      exact addResidues_kept (tileSet_kept a3)
    clear_value v9
    have hv10 : ∀ y0, (OnOk (Kept pq)) (v10 y0) := by
      unfold v10
      intro a14
      split
      · rename_i w16 w17 w18
        exact on_error
      · rename_i w20 w21
        refine on_ok ?_
        refine on_ite ?_ ?_
        · exact raiseFlags_kept hv9
        · exact hv9
    clear_value v10
    refine on_bindE' (fun _ => ?_)
    refine on_bindE' (fun _ => ?_)
    refine on_ite ?_ ?_
    · refine on_bindE' (fun _ => ?_)
      refine hv10 _
    · refine hv10 _
  · exact h_s

theorem execVrcvt_kept {pq : List Instr} {o : TileOp} {s : State} (h_s : Kept pq s) : (OnNext (Kept pq)) (execVrcvt o s) := by
  unfold execVrcvt
  refine issued_kept ?_ ?_
  · intro a2 a3
    extract_lets v5 v6 v7
    clear_value v5 v6 v7
    refine on_bindE' (fun _ => ?_)
    refine on_bindE' (fun _ => ?_)
    refine on_bindE' (fun _ => ?_)
    extract_lets v12
    have hv12 : ∀ y0, (OnOk (Kept pq)) (v12 y0) := by
      unfold v12
      intro a13
      exact on_ok (addResidues_kept (vResult_kept a3))
    clear_value v12
    refine on_ite ?_ ?_
    · refine on_bindE' (fun _ => ?_)
      refine hv12 _
    · refine hv12 _
  · exact h_s

theorem execVrmk_kept {pq : List Instr} {o : TileOp} {s : State} (h_s : Kept pq s) : (OnNext (Kept pq)) (execVrmk o s) := by
  unfold execVrmk
  refine issued_kept ?_ ?_
  · intro a2 a3
    extract_lets v5 v6 v7
    clear_value v5 v6 v7
    refine on_bindE' (fun _ => ?_)
    refine on_bindE' (fun _ => ?_)
    refine on_bindE' (fun _ => ?_)
    extract_lets v12 v13
    clear_value v12 v13
    exact on_ok (addResidues_kept (vResult_kept a3))
  · exact h_s

end Sys2Proof.Machine
end

