-- ==== Sys2Proof/Laws/Memctl.lean ====
section
/-! SUPPORT. Laws/Memctl.lean: what fetching a sector gives where no injection falls on it. -/
namespace Sys2Proof.Machine

/-- Up to eight interface errors are counted and end in a transfer (R284). -/
theorem interfaceTries_within {sector n : Nat} {s : State} (h : n ≤ 8) : interfaceTries sector n s
    = (false, if n = 0 then s else fbump F.memcRetryCount_count (ctlReg (ctlOf (sector * 512))) n s) := by
  unfold interfaceTries
  dsimp only
  rw [if_neg (Nat.not_lt.mpr h), Nat.min_eq_left h]

/-- A fetch within the retries, with no injection on it, is what decoding makes of the part's answer. -/
theorem fetchSector_within {sector tick : Nat} {u : MemUpset} {s : State} (he : u.errors ≤ 8)
    (hi : memInjected (sectorRead sector u s) (ctlOf (sector * 512)) tick = none) :
    fetchSector sector tick u s = match decodeRead sector u with
      | .good => (.good, false, sectorRead sector u s)
      | .corrected =>
        let t := sectorRead sector u s
        let t := fbump F.memcCeCount_count (ctlReg (ctlOf (sector * 512))) 1
          { t with wback := if t.wback.contains sector then t.wback else t.wback ++ [sector] }
        let (many, t) := noteCorrected sector t
        (.corrected, false, if many || decide (worstSymbols sector u ≥ 5) then rowFailed sector t else t)
      | .bad k => (.bad k, false, sectorRead sector u s) := by
  have hb := interfaceTries_within (sector := sector) (s := refreshReport (ctlOf (sector * 512)) u s) he
  unfold fetchSector
  dsimp only
  rw [hb]
  simp only [Bool.false_eq_true, if_false]
  unfold sectorRead at hi ⊢
  dsimp only at hi
  rw [hi] <;> rfl

end Sys2Proof.Machine
end

