-- ==== Sys2Proof/Laws/Mortise.lean ====
section
/-! SUPPORT. Laws/Mortise.lean: a reply of a tenon to a request that is outstanding, and an event of a module. -/
namespace Sys2Proof.Machine

/-- An OK reply to an outstanding request ends it and has its effect. -/
theorem siteReply_awaits {n op tag : Nat} {m : SiteMsg} {s : State} (h : Awaits n op tag m s) (f : SiteMsg → State → State) :
    siteReply n op tag 0 f s = f m (answered n op tag s) := by
  unfold siteReply answered
  rw [if_neg (by simp [h.up]), h.asked]; rfl

/-- A reply that names no outstanding request is dropped (R364). -/
theorem siteReply_stray {n op tag status : Nat} {s : State} (hu : sideUp s n = true)
    (h : (siteGet s n).msgs.find? (fun m => m.op == op && m.tag == tag) = none) (f : SiteMsg → State → State) :
    siteReply n op tag status f s = siteErr n 7 0 clsInfo s := by
  unfold siteReply
  rw [if_neg (by simp [hu]), h]

/-- A used module in the state its event needs. -/
theorem onModule_in {n k st : Nat} {s : State} (hn : n < 12) (hk : k < 8) (hp : modProto s n k ≠ 0) (hs : modState s n k = st)
    (f : State → State) : onModule n k st f s = .next (f s) := by
  unfold onModule; rw [if_pos ⟨hn, hk, hp, hs⟩]

end Sys2Proof.Machine
end

