-- ==== Sys2Proof/Laws/Net.lean ====
section
/-! SUPPORT. Laws/Net.lean: a hub-network packet that reaches its destination is handed to its meaning. -/
namespace Sys2Proof.Machine

theorem netArrive_reaches {ty : Nat} {a : NetArr} {way : List NetHop} {s : State} (h : Reaches ty a way s) (f : NetPkt → State → State) :
    netArrive ty a f s = f a.pkt (journeyed ty a way s) := by
  have hi := h.noInjection
  have hr := h.outOfReset
  unfold netArrive
  dsimp only
  rw [h.defined, h.routed]
  dsimp only
  rw [if_neg (by simp [h.moves])]
  unfold journeyed at hr ⊢
  cases hw : netWho a.pkt <;> rw [hw] at hi <;> dsimp only at hi ⊢ <;>
    simp only [hi, h.noBadWord, Option.isSome_none, Bool.false_eq_true, ↓reduceIte, hr, h.crc, Bool.not_true]

end Sys2Proof.Machine
end

