-- ==== Sys2Proof/Laws/Tile.lean ====
section
/-! SUPPORT. Laws/Tile.lean: what issuing an instruction does (R69, R74, R101): where the tile cannot issue, nothing; where
nothing disturbs it, the body's effect and the next instruction word, or the stop the body asks for. -/
namespace Sys2Proof.Machine

/-- Nothing stops an undisturbed instruction before its body runs. -/
theorem preStop_none {o : TileOp} {u : TUnit} {s : State} (h : Issues o u s) : preStop o u false none s = none := by
  simp only [preStop, h.code, h.listed, Option.isSome_none, Bool.false_eq_true, ↓reduceIte]
  rfl

/-- An undisturbed instruction is what its body makes of it. -/
theorem issued_body {o : TileOp} {u : TUnit} {body : State → Except TErr State} {s : State} (h : Issues o u s) :
    issued o u body s = .next (match body s with
      | .error e => tileStop o.tile e s
      | .ok s => if fon s F.tileStatus_waiting o.tile || fon s F.tileStatus_stopped o.tile || fon s F.tileStatus_ended o.tile then s
        else pcNext o.tile s) := by
  have hp := preStop_none h
  simp only [issued, issue, h.can, h.noInjection, h.noUpset, correctedCount, Option.isSome_none, Bool.not_true,
    Bool.false_eq_true, ↓reduceIte, reduceCtorEq, hp] <;> cases body s <;> rfl

/-- A tile that cannot issue does nothing. -/
theorem issued_not {o : TileOp} {u : TUnit} {body : State → Except TErr State} {s : State} (h : canIssue s o.tile u = false) :
    issued o u body s = .next s := by
  simp [issued, issue, h]

/-- An instruction that fails stops its tile for the reason it gives. -/
theorem issued_error {o : TileOp} {u : TUnit} {body : State → Except TErr State} {s : State} {e : TErr} (h : Issues o u s)
    (hb : body s = .error e) : issued o u body s = .next (tileStop o.tile e s) := by
  rw [issued_body h, hb]

/-- An instruction whose body gives a state in which the tile neither waits nor has stopped or ended moves on. -/
theorem issued_next {o : TileOp} {u : TUnit} {body : State → Except TErr State} {s t : State} (h : Issues o u s)
    (hb : body s = .ok t) (hw : fon t F.tileStatus_waiting o.tile = false) (hs : fon t F.tileStatus_stopped o.tile = false)
    (he : fon t F.tileStatus_ended o.tile = false) : issued o u body s = .next (pcNext o.tile t) := by
  rw [issued_body h, hb]
  simp [hw, hs, he]

/-- The same where the body leaves TILE_STATUS of the tile alone. -/
theorem issued_ok {o : TileOp} {u : TUnit} {body : State → Except TErr State} {s t : State} (h : Issues o u s)
    (hb : body s = .ok t) (hr : rget t .tileStatus o.tile = rget s .tileStatus o.tile) :
    issued o u body s = .next (pcNext o.tile t) := by
  have hc := h.can
  simp only [canIssue, Bool.and_eq_true, Bool.not_eq_true'] at hc
  obtain ⟨⟨⟨⟨⟨_, _⟩, hw⟩, he⟩, hs⟩, _⟩ := hc
  have k : ∀ f : Fld, f.reg = .tileStatus → fon t f o.tile = fon s f o.tile := fun f hf => fon_congr (by rw [hf]; exact hr)
  exact issued_next h hb ((k _ rfl).trans hw) ((k _ rfl).trans hs) ((k _ rfl).trans he)

/-- An instruction that makes its tile wait, or ends its tick, does not move on. -/
theorem issued_holds {o : TileOp} {u : TUnit} {body : State → Except TErr State} {s t : State} (h : Issues o u s)
    (hb : body s = .ok t)
    (hw : fon t F.tileStatus_waiting o.tile = true ∨ fon t F.tileStatus_stopped o.tile = true ∨ fon t F.tileStatus_ended o.tile = true) :
    issued o u body s = .next t := by
  have : (fon t F.tileStatus_waiting o.tile || fon t F.tileStatus_stopped o.tile || fon t F.tileStatus_ended o.tile) = true := by
    rcases hw with h | h | h <;> simp [h]
  rw [issued_body h, hb]
  simp only [this, ↓reduceIte]

/-! ### Reading a body step by step -/

/-- A step of a body that gives `a` hands it on. -/
theorem ok_bind {α β : Type} {e : Except TErr α} {a : α} {f : α → Except TErr β} {r : Except TErr β} (h : e = .ok a) (k : f a = r) :
    (e >>= f) = r := by subst h; exact k
/-- A condition of a body that holds lets it go on. -/
theorem need_bind {b : Bool} {α : Type} {f : Unit → Except TErr α} {r : Except TErr α} (h : b = true) (k : f () = r) :
    (need b >>= f) = r := by subst h; exact k
/-- A condition that does not hold is a program error. -/
theorem need_fails {b : Bool} {α : Type} {f : Unit → Except TErr α} (h : b = false) : (need b >>= f) = .error .prog := by
  subst h; rfl
/-- An element type that the instruction accepts. -/
theorem etype_bind {f : FmtV} {ok : EType → Bool} {t : EType} {α : Type} {g : EType → Except TErr α} {r : Except TErr α}
    (h : etypeOf f.ety = some t) (hk : ok t = true) (k : g t = r) : (etypeIn f ok >>= g) = r := by
  have e : etypeIn f ok = .ok t := by simp [etypeIn, h, hk]
  exact ok_bind e k

/-! ### Waits (R92, R94) -/

/-- A wait whose condition holds is passed at once. -/
theorem waitFor_holds {t : Nat} {w : WaitCond} {s : State} (h : waitOk s t w = true) : waitFor t w s = s := by
  simp [waitFor, h]
/-- A wait whose condition does not hold stalls the tile. -/
theorem waitFor_stalls {t : Nat} {w : WaitCond} {s : State} (h : waitOk s t w = false) :
    waitFor t w s = fset F.tileStatus_waiting t 1 (tileMod t (fun τ => { τ with wait := w }) s) := by
  simp [waitFor, h]

/-! ### TILE_STATUS after the operations of the units -/

@[simp] theorem rget_tileSet (t : Nat) (v : Tile) (s : State) (r : RegName) (i : Nat) : rget (tileSet t v s) r i = rget s r i := rfl
@[simp] theorem rget_tileMod (t : Nat) (f : Tile → Tile) (s : State) (r : RegName) (i : Nat) : rget (tileMod t f s) r i = rget s r i := rfl
@[simp] theorem rget_xset (t k : Nat) (v : Word) (s : State) (r : RegName) (i : Nat) : rget (xset t k v s) r i = rget s r i := rfl
@[simp] theorem rget_addResidues (t : Nat) (l : List Nat) (s : State) (r : RegName) (i : Nat) :
    rget (addResidues t l s) r i = rget s r i := rfl
@[simp] theorem rget_raiseFlags (t fl : Nat) (s : State) : rget (raiseFlags t fl s) .tileStatus t = rget s .tileStatus t := by
  unfold raiseFlags fset
  exact rget_rset_reg _ _ _ _ _ (by decide)

theorem regs_openLine (t : Nat) (s : State) (l : Nat) : (openLine t s l).regs = s.regs := by
  unfold openLine
  extract_lets τ τ'
  split <;> rfl

theorem regs_foldl_openLine (t : Nat) (l : List Nat) (s : State) : (l.foldl (openLine t) s).regs = s.regs := by
  induction l generalizing s with
  | nil => rfl
  | cons x l ih => exact (ih _).trans (regs_openLine t s x)

/-- A write of the tile store leaves every register alone. -/
theorem regs_storeWrite (t a : Nat) (bs : List Byte) (s : State) : (storeWrite t a bs s).regs = s.regs :=
  regs_foldl_openLine t _ s
@[simp] theorem rget_storeWrite (t a : Nat) (bs : List Byte) (s : State) (r : RegName) (i : Nat) :
    rget (storeWrite t a bs s) r i = rget s r i := rget_congr (regs_storeWrite t a bs s) r i

end Sys2Proof.Machine
end

