-- ==== Sys2Proof/Laws/Vec.lean ====
section
/-! SUPPORT. Laws/Vec.lean: what writing a vector of elements or of predicate bits does (R108 to R111): which bytes of the
tile registers, and which bits of the predicate, change. -/
namespace Sys2Proof.Machine

theorem leBytes_length (n v : Nat) : (leBytes n v).length = n := by
  induction n generalizing v with
  | zero => rfl
  | succ n ih => simp [leBytes, ih]

/-- One step of writing elements from element `k` upward. -/
def putsFrom (r bytes k : Nat) (vs : List (Option Nat)) (m : Mem) : Mem :=
  (vs.zipIdx k).foldl (fun m p => match p.1 with
    | none => m
    | some v => Mem.writeN m (r * 4096 + p.2 * bytes) (leBytes bytes v)) m

theorem tputs_t (r bytes : Nat) (vs : List (Option Nat)) (τ : Tile) : (tputs r bytes vs τ).t = putsFrom r bytes 0 vs τ.t := rfl
@[simp] theorem tputs_x (r bytes : Nat) (vs : List (Option Nat)) (τ : Tile) : (tputs r bytes vs τ).x = τ.x := rfl
@[simp] theorem tputs_p (r bytes : Nat) (vs : List (Option Nat)) (τ : Tile) : (tputs r bytes vs τ).p = τ.p := rfl

theorem putsFrom_nil (r bytes k : Nat) (m : Mem) : putsFrom r bytes k [] m = m := rfl
theorem putsFrom_none (r bytes k : Nat) (vs : List (Option Nat)) (m : Mem) :
    putsFrom r bytes k (none :: vs) m = putsFrom r bytes (k + 1) vs m := rfl
theorem putsFrom_some (r bytes k v : Nat) (vs : List (Option Nat)) (m : Mem) :
    putsFrom r bytes k (some v :: vs) m
      = putsFrom r bytes (k + 1) vs (Mem.writeN m (r * 4096 + k * bytes) (leBytes bytes v)) := rfl

theorem putsFrom_wf (r bytes k : Nat) (vs : List (Option Nat)) {m : Mem} (h : Mem.wf m = true) :
    Mem.wf (putsFrom r bytes k vs m) = true := by
  induction vs generalizing k m with
  | nil => exact h
  | cons v vs ih =>
    cases v with
    | none => exact ih (k + 1) h
    | some v => exact ih (k + 1) (Mem.wf_writeN _ _ h)

/-- Writing elements keeps the tile registers' canonical form. -/
theorem tputs_wf (r bytes : Nat) (vs : List (Option Nat)) {τ : Tile} (h : Mem.wf τ.t = true) :
    Mem.wf (tputs r bytes vs τ).t = true := putsFrom_wf r bytes 0 vs h

theorem putsFrom_outside (r bytes k : Nat) (vs : List (Option Nat)) {m : Mem} (h : Mem.wf m = true) (a : Nat)
    (ha : a < r * 4096 + k * bytes ∨ r * 4096 + (k + vs.length) * bytes ≤ a) :
    Mem.read (putsFrom r bytes k vs m) a = Mem.read m a := by
  induction vs generalizing k m with
  | nil => rfl
  | cons v vs ih =>
    have h1 : (k + 1) * bytes = k * bytes + bytes := Nat.succ_mul _ _
    have h2 : (k + 1 + vs.length) * bytes = (k + (vs.length + 1)) * bytes := by congr 1; omega
    have h3 : (k + (vs.length + 1)) * bytes = k * bytes + bytes + vs.length * bytes := by
      rw [Nat.add_mul, Nat.add_mul]; omega
    simp only [List.length_cons] at ha
    cases v with
    | none =>
      rw [putsFrom_none]
      exact ih (k + 1) h (by rw [h2, h1]; omega)
    | some v =>
      rw [putsFrom_some, ih (k + 1) (Mem.wf_writeN _ _ h) (by rw [h2, h1]; omega), Mem.read_writeN _ _ _ h, leBytes_length]
      rw [if_neg (by omega)]

/-- The bytes outside the elements written read as before. -/
theorem tputs_outside (r bytes : Nat) (vs : List (Option Nat)) {τ : Tile} (h : Mem.wf τ.t = true) (a : Nat)
    (ha : a < r * 4096 ∨ r * 4096 + vs.length * bytes ≤ a) :
    Mem.read (tputs r bytes vs τ).t a = Mem.read τ.t a :=
  putsFrom_outside r bytes 0 vs h a (by simpa using ha)

theorem putsFrom_elem (r bytes k : Nat) (vs : List (Option Nat)) {m : Mem} (h : Mem.wf m = true) (i b : Nat)
    (hi : i < vs.length) (hb : b < bytes) :
    Mem.read (putsFrom r bytes k vs m) (r * 4096 + (k + i) * bytes + b)
      = match vs.getD i none with
        | none => Mem.read m (r * 4096 + (k + i) * bytes + b)
        | some v => (leBytes bytes v).getD b 0 := by
  induction vs generalizing k m i with
  | nil => cases hi
  | cons v vs ih =>
    have h1 : (k + 1) * bytes = k * bytes + bytes := Nat.succ_mul _ _
    cases i with
    | zero =>
      cases v with
      | none =>
        rw [putsFrom_none, putsFrom_outside r bytes (k + 1) vs h _ (.inl (by rw [h1]; simp only [Nat.add_zero]; omega))]
        rfl
      | some v =>
        rw [putsFrom_some, putsFrom_outside r bytes (k + 1) vs (Mem.wf_writeN _ _ h) _
          (.inl (by rw [h1]; simp only [Nat.add_zero]; omega)), Mem.read_writeN _ _ _ h, leBytes_length,
          if_pos (by simp only [Nat.add_zero]; omega)]
        simp only [Nat.add_zero, List.getD_cons_zero]
        congr 1; omega
    | succ i =>
      have e : k + (i + 1) = (k + 1) + i := by omega
      have hi' : i < vs.length := by simpa using hi
      have hk : (k + 1 + i) * bytes = k * bytes + bytes + i * bytes := by rw [Nat.add_mul, Nat.add_mul]; omega
      rw [e]
      cases v with
      | none => rw [putsFrom_none, ih (k + 1) h i hi']; rfl
      | some v =>
        rw [putsFrom_some, ih (k + 1) (Mem.wf_writeN _ _ h) i hi']
        simp only [List.getD_cons_succ]
        rw [Mem.read_writeN _ _ _ h, leBytes_length, if_neg (by rw [hk]; omega)]

/-- Byte `b` of element `i`: its new value, or the old where the element is left. -/
theorem tputs_elem (r bytes : Nat) (vs : List (Option Nat)) {τ : Tile} (h : Mem.wf τ.t = true) (i b : Nat)
    (hi : i < vs.length) (hb : b < bytes) :
    Mem.read (tputs r bytes vs τ).t (r * 4096 + i * bytes + b)
      = match vs.getD i none with
        | none => Mem.read τ.t (r * 4096 + i * bytes + b)
        | some v => (leBytes bytes v).getD b 0 := by
  have := putsFrom_elem r bytes 0 vs h i b hi hb
  rw [Nat.zero_add] at this
  exact this

theorem Mem.readN_congr {m m' : Mem} {a n : Nat} (h : ∀ b, b < n → Mem.read m' (a + b) = Mem.read m (a + b)) :
    Mem.readN m' a n = Mem.readN m a n := by
  induction n generalizing a with
  | zero => rfl
  | succ n ih =>
    simp only [Mem.readN]
    rw [show Mem.read m' a = Mem.read m a from h 0 (Nat.zero_lt_succ n)]
    congr 1
    exact ih fun b hb => by have := h (b + 1) (by omega); rwa [show a + 1 + b = a + (b + 1) by omega]

theorem readN_eq {m : Mem} {a n : Nat} {l : List Byte} (hl : l.length = n) (h : ∀ b, b < n → Mem.read m (a + b) = l.getD b 0) :
    Mem.readN m a n = l := by
  induction n generalizing a l with
  | zero => cases l with
    | nil => rfl
    | cons _ _ => cases hl
  | succ n ih => cases l with
    | nil => cases hl
    | cons x l =>
      simp only [Mem.readN]
      rw [show Mem.read m a = x by simpa using h 0 (Nat.zero_lt_succ n)]
      congr 1
      refine ih (by simpa using hl) fun b hb => ?_
      have := h (b + 1) (by omega)
      rw [show a + 1 + b = a + (b + 1) by omega, this]; rfl

theorem ofLe_leBytes (n v : Nat) : ofLe (leBytes n v) = v % 256 ^ n := by
  induction n generalizing v with
  | zero => simp [leBytes, ofLe, Nat.mod_one]
  | succ n ih =>
    simp only [leBytes, ofLe, ih, BitVec.toNat_ofNat]
    rw [show 256 ^ (n + 1) = 256 * 256 ^ n from Nat.pow_succ', Nat.mod_mul]

/-- Element `i` of the registers after elements were written. -/
theorem telems_tputs (r bytes n : Nat) (vs : List (Option Nat)) {τ : Tile} (h : Mem.wf τ.t = true) (i : Nat)
    (hi : i < vs.length) (hn : i < n) :
    (telems (tputs r bytes vs τ) r bytes n).getD i 0
      = match vs.getD i none with
        | none => (telems τ r bytes n).getD i 0
        | some v => v % 256 ^ bytes := by
  have e : ∀ τ : Tile, (telems τ r bytes n).getD i 0 = ofLe (Mem.readN τ.t (r * 4096 + i * bytes) bytes) := by
    intro τ
    simp [telems, List.getD_eq_getElem?_getD, hn]
  rw [e, e]
  cases hv : vs.getD i none with
  | none =>
    simp only
    congr 1
    refine Mem.readN_congr fun b hb => ?_
    rw [tputs_elem r bytes vs h i b hi hb, hv]
  | some v =>
    simp only
    rw [readN_eq (leBytes_length bytes v) fun b hb => by rw [tputs_elem r bytes vs h i b hi hb, hv], ofLe_leBytes]

/-! ### Predicates (R111) -/

@[simp] theorem pputs_x (k : Nat) (vs : List (Option Bool)) (τ : Tile) : (pputs k vs τ).x = τ.x := rfl
@[simp] theorem pputs_t (k : Nat) (vs : List (Option Bool)) (τ : Tile) : (pputs k vs τ).t = τ.t := rfl

theorem pbit_pputs_other (k j e : Nat) (vs : List (Option Bool)) (τ : Tile) (h : j ≠ k) : pbit (pputs k vs τ) j e = pbit τ j e := by
  simp only [pbit, pget, pputs, Map.get_set_other _ _ _ _ _ h]

theorem bits_put (n : Nat) (vs : List (Option Bool)) (v : BitVec 8192) (e : Nat) (he : e < 8192) :
    (((vs.zipIdx n).foldl (fun v p => match p.1 with
      | none => v
      | some true => v ||| (BitVec.ofNat 8192 1 <<< p.2)
      | some false => v &&& ~~~(BitVec.ofNat 8192 1 <<< p.2)) v).getLsbD e)
      = if n ≤ e ∧ e < n + vs.length then (vs.getD (e - n) none).getD (v.getLsbD e) else v.getLsbD e := by
  induction vs generalizing n v with
  | nil => simp
  | cons x vs ih =>
    have one : ∀ k : Nat, (BitVec.ofNat 8192 1 <<< k).getLsbD e = decide (e = k) := by
      intro k
      rw [BitVec.getLsbD_shiftLeft]
      by_cases hk : e < k
      · simp [hk]; try omega
      · by_cases h0 : e = k
        · subst h0; simp [he]
        · have : e - k ≠ 0 := by omega
          simp [hk, he, h0, this]
    rw [List.zipIdx_cons, List.foldl_cons, ih]
    simp only [List.length_cons]
    by_cases h0 : e = n
    · subst h0
      rw [if_neg (by omega), if_pos (by omega)]
      cases x with
      | none => simp
      | some b => cases b <;> simp only [BitVec.getLsbD_or, BitVec.getLsbD_and, BitVec.getLsbD_not, one] <;> simp [he]
    · have hx : (match x with
          | none => v
          | some true => v ||| (BitVec.ofNat 8192 1 <<< n)
          | some false => v &&& ~~~(BitVec.ofNat 8192 1 <<< n)).getLsbD e = v.getLsbD e := by
        cases x with
        | none => rfl
        | some b => cases b <;> simp only [BitVec.getLsbD_or, BitVec.getLsbD_and, BitVec.getLsbD_not, one] <;> simp [he, h0]
      rw [hx]
      by_cases h1 : n + 1 ≤ e ∧ e < n + 1 + vs.length
      · rw [if_pos h1, if_pos (by omega), show e - n = (e - (n + 1)) + 1 by omega, List.getD_cons_succ]
      · rw [if_neg h1, if_neg (by omega)]

/-- Bit `e` of the predicate written: its new value, or the old where the bit is left. -/
theorem pbit_pputs (k e : Nat) (vs : List (Option Bool)) (τ : Tile) (he : e < 8192) :
    pbit (pputs k vs τ) k e = if e < vs.length then (vs.getD e none).getD (pbit τ k e) else pbit τ k e := by
  have := bits_put 0 vs (pget τ k) e he
  simp only [Nat.zero_le, true_and, Nat.zero_add, Nat.sub_zero] at this
  unfold pbit
  rw [← this]
  simp only [pget, pputs, Map.get_set_same]
  try rfl

/-! ### What a vector result leaves (R110) -/

/-- Every other register of the hub reads as before. -/
theorem rget_fset_other (s : State) (f : Fld) (r : RegName) (i j v : Nat) (h : ¬ (r = f.reg ∧ j = i)) (hi : i < 65536)
    (hj : j < 65536) : rget (fset f i v s) r j = rget s r j := by
  unfold fset
  exact rget_rset_other s f.reg r i j _ h hi hj

/-- Moving to the next instruction word changes TILE_STATUS.PC of the tile alone. -/
theorem pcNext_only (k : Nat) (s : State) (hk : k < 65536) : OnlyTile k s (pcNext k s) where
  rest := rfl
  others := fun _ _ => rfl
  registers := fun r i hi h => rget_fset_other s F.tileStatus_pc r k i _ (fun e => h ⟨e.2, .inl e.1⟩) hk hi
  status := fun f hr hw h => fget_fset_field s F.tileStatus_pc f k _ hr h hw
  flags := fun f hr _ _ => fget_fset_reg s F.tileStatus_pc f k _ (by rw [hr]; decide)

/-- Raising arithmetic flags changes TILE_VFLAGS.FLAGS of the tile alone. -/
theorem raiseFlags_only (k fl : Nat) (s : State) (hk : k < 65536) : OnlyTile k s (raiseFlags k fl s) where
  rest := rfl
  others := fun _ _ => rfl
  registers := fun r i hi h => rget_fset_other s F.tileVflags_flags r k i _ (fun e => h ⟨e.2, .inr e.1⟩) hk hi
  status := fun f hr _ _ => fget_fset_reg s F.tileVflags_flags f k _ (by rw [hr]; decide)
  flags := fun f hr hw h => fget_fset_field s F.tileVflags_flags f k _ hr h hw

/-- Setting a tile's registers changes that tile alone. -/
theorem tileSet_only (k : Nat) (v : Tile) (s : State) : OnlyTile k s (tileSet k v s) where
  rest := rfl
  others := fun _ h => tileGet_tileSet_other k _ v s h
  registers := fun _ _ _ _ => rfl
  status := fun _ _ _ _ => rfl
  flags := fun _ _ _ _ => rfl

theorem OnlyTile.trans {k : Nat} {s t u : State} (h : OnlyTile k s t) (g : OnlyTile k t u) : OnlyTile k s u where
  rest := by
    have a := g.rest
    rw [h.rest] at a
    exact a
  others := fun j hj => (g.others j hj).trans (h.others j hj)
  registers := fun r i hi hn => (g.registers r i hi hn).trans (h.registers r i hi hn)
  status := fun f hr hw hf => (g.status f hr hw hf).trans (h.status f hr hw hf)
  flags := fun f hr hw hf => (g.flags f hr hw hf).trans (h.flags f hr hw hf)

@[simp] theorem tileGet_raiseFlags (k fl j : Nat) (s : State) : tileGet (raiseFlags k fl s) j = tileGet s j := rfl
@[simp] theorem tileGet_pcNext (k j : Nat) (s : State) : tileGet (pcNext k s) j = tileGet s j := rfl

theorem actives_length (τ : Tile) (f : FmtV) : (actives τ f).length = f.n := by simp [actives]
theorem telems_length (τ : Tile) (r b n : Nat) : (telems τ r b n).length = n := by simp [telems]
theorem bElems_length (τ : Tile) (f : FmtV) (b : Nat) : (bElems τ f b).length = f.n := by
  unfold bElems; split <;> simp [telems]

theorem predicated_length (f : FmtV) {act : List Bool} {rs : List FRes} (h : rs.length = act.length) :
    (predicated f act rs).length = act.length := by simp [predicated, h]

/-- What an inactive element becomes. -/
theorem predicated_inactive (f : FmtV) {act : List Bool} {rs : List FRes} (h : rs.length = act.length) (e : Nat)
    (he : e < act.length) (ha : act.getD e false = false) :
    (predicated f act rs).getD e none = if f.zm then some 0 else none := by
  have h1 : e < rs.length := h ▸ he
  have h2 : act[e] = false := by simpa [List.getD_eq_getElem?_getD, he] using ha
  simp [predicated, List.getD_eq_getElem?_getD, List.getElem?_zipWith, he, h1, h2]

/-- A vector result of `n` elements: only the tile and its flags change; the tile keeps everything but its tile registers;
bytes outside the destination span keep their values, and an inactive element is kept, or zeroed under ZM. -/
theorem vResult_spec (o : TileOp) (f : FmtV) (b : Nat) (rs : List FRes) (s : State) (hk : o.tile < 65536) (hl : rs.length = f.n)
    (hw : Mem.wf (tileGet s o.tile).t = true) :
    OnlyTile o.tile s (vResult o f b rs s)
    ∧ tileGet (vResult o f b rs s) o.tile = { tileGet s o.tile with t := (tileGet (vResult o f b rs s) o.tile).t }
    ∧ Mem.wf (tileGet (vResult o f b rs s) o.tile).t = true
    ∧ (∀ a, a < f.d * 4096 ∨ f.d * 4096 + f.n * b ≤ a →
        Mem.read (tileGet (vResult o f b rs s) o.tile).t a = Mem.read (tileGet s o.tile).t a)
    ∧ (∀ e, e < f.n → (actives (tileGet s o.tile) f).getD e false = false →
        (telems (tileGet (vResult o f b rs s) o.tile) f.d b f.n).getD e 0
          = if f.zm then 0 else (telems (tileGet s o.tile) f.d b f.n).getD e 0) := by
  have ht : tileGet (vResult o f b rs s) o.tile
      = tputs f.d b (predicated f (actives (tileGet s o.tile) f) rs) (tileGet s o.tile) := by
    simp [vResult]
  have hact : (actives (tileGet s o.tile) f).length = f.n := actives_length _ _
  have hpl : (predicated f (actives (tileGet s o.tile) f) rs).length = f.n :=
    (predicated_length f (hl.trans hact.symm)).trans hact
  rw [ht]
  refine ⟨(tileSet_only ..).trans (raiseFlags_only _ _ _ hk), rfl, tputs_wf _ _ _ hw, fun a ha => ?_, fun e he ha => ?_⟩
  · exact tputs_outside _ _ _ hw a (by rw [hpl]; exact ha)
  · rw [telems_tputs _ _ _ _ hw e (by rw [hpl]; exact he) he,
      predicated_inactive f (hl.trans hact.symm) e (by rw [hact]; exact he) ha]
    cases f.zm <;> simp

/-! ### The element-wise shapes: what each answers -/

/-- An outcome of a body that is a vector result of the right number of elements, of elements of the type ETY names. -/
def IsResult (o : TileOp) (s t : State) : Prop :=
  ∃ u rs, etypeOf (fmtV o.w).ety = some u ∧ rs.length = (fmtV o.w).n ∧ t = vResult o (fmtV o.w) u.bytes rs s

theorem need_ok {b : Bool} {α : Type} {g : Unit → Except TErr α} {a : α} (h : (need b >>= g) = .ok a) : b = true ∧ g () = .ok a := by
  cases b with
  | false => cases h
  | true => exact ⟨rfl, h⟩

theorem etypeIn_ok {f : FmtV} {ok : EType → Bool} {α : Type} {g : EType → Except TErr α} {a : α}
    (h : (etypeIn f ok >>= g) = .ok a) : ∃ u, etypeOf f.ety = some u ∧ ok u = true ∧ g u = .ok a := by
  unfold etypeIn at h
  split at h
  · split at h
    · exact ⟨_, ‹_›, ‹_›, h⟩
    · cases h
  · cases h

theorem bind_ok {α β : Type} {x : Except TErr α} {g : α → Except TErr β} {b : β} (h : (x >>= g) = .ok b) :
    ∃ a, x = .ok a ∧ g a = .ok b := by
  cases x with
  | error e => cases h
  | ok a => exact ⟨a, rfl, h⟩

theorem vUnary_ok {o : TileOp} {ok : EType → Bool} {fn : EType → Nat → FRes} {s t : State} (h : vUnary o ok fn s = .ok t) :
    IsResult o s t := by
  obtain ⟨_, h⟩ := need_ok h
  obtain ⟨u, hu, _, h⟩ := etypeIn_ok h
  obtain ⟨_, h⟩ := need_ok h
  cases h
  exact ⟨u, _, hu, by simp [telems], rfl⟩

theorem vBinary_ok {o : TileOp} {ok : EType → Bool} {bb : EType → Nat} {fn : EType → Nat → Nat → FRes} {s t : State}
    (h : vBinary o ok bb fn s = .ok t) : IsResult o s t := by
  obtain ⟨_, h⟩ := need_ok h
  obtain ⟨u, hu, _, h⟩ := etypeIn_ok h
  obtain ⟨_, h⟩ := need_ok h
  cases h
  exact ⟨u, _, hu, by simp [telems_length, bElems_length], rfl⟩

theorem vTernary_ok {o : TileOp} {ok : EType → Bool} {fn : EType → Nat → Nat → Nat → FRes} {s t : State}
    (h : vTernary o ok fn s = .ok t) : IsResult o s t := by
  obtain ⟨_, h⟩ := need_ok h
  obtain ⟨u, hu, _, h⟩ := etypeIn_ok h
  obtain ⟨_, h⟩ := need_ok h
  cases h
  exact ⟨u, _, hu, by simp [telems_length, bElems_length], rfl⟩

/-- An instruction whose body answers a vector result, or an error: the tile stops, or the result stands. -/
theorem issued_result {o : TileOp} {u : TUnit} {body : State → Except TErr State} {s t : State} (h : Issues o u s)
    (hb : ∀ t', body s = .ok t' → IsResult o s t') (ht : issued o u body s = .next t) :
    (∃ e, t = tileStop o.tile e s) ∨ ∃ t', IsResult o s t' ∧ t = pcNext o.tile t' := by
  cases e : body s with
  | error e' => rw [issued_error h e] at ht; cases ht; exact .inl ⟨e', rfl⟩
  | ok t' =>
    obtain ⟨u', rs, hu, hl, rfl⟩ := hb t' e
    refine .inr ⟨_, ⟨u', rs, hu, hl, rfl⟩, ?_⟩
    rw [issued_ok h e (by unfold vResult; rw [rget_raiseFlags]; rfl)] at ht
    cases ht; rfl

end Sys2Proof.Machine
end

