-- ==== Sys2Proof/Laws/Store.lean ====
section
/-! SUPPORT. Laws/Store.lean: what a write of a tile store does to the bytes a reader sees (R64): the bytes written take their
values, and every other byte of every tile store reads as before, the rest of a scratch line just opened included. -/
namespace Sys2Proof.Machine

theorem Mem.wf_clear' {m : Mem} (a n : Nat) (h : Mem.wf m = true) : Mem.wf (Mem.clear m a n) = true := Mem.wf_clear a n h

theorem Mem.read_clear_from {m : Mem} {lo : Nat} (a n c : Nat) (h : Mem.wfFrom lo m = true) :
    Mem.read (Mem.clear m a n) c = if a ≤ c ∧ c < a + n then Mem.blank else Mem.read m c := by
  induction m generalizing lo with
  | nil => simp [Mem.clear, Mem.read]
  | cons p m ih =>
    obtain ⟨j, v⟩ := p
    simp only [Mem.wfFrom, Bool.and_eq_true, decide_eq_true_eq] at h
    obtain ⟨⟨_, hv⟩, hm⟩ := h
    have ih' := ih hm
    simp only [Mem.clear, List.filter_cons] at ih' ⊢
    by_cases hj : a ≤ j ∧ j < a + n
    · have e : (!(decide (a ≤ j) && decide (j < a + n))) = false := by simp [hj]
      rw [if_neg (by rw [e]; exact Bool.false_ne_true), ih']
      by_cases hc : a ≤ c ∧ c < a + n
      · rw [if_pos hc, if_pos hc]
      · rw [if_neg hc, if_neg hc]
        simp only [Mem.read]
        by_cases h1 : c < j
        · rw [if_pos h1]; exact Mem.read_below hm (by omega)
        · rw [if_neg h1, if_neg (by omega)]
    · have e : (!(decide (a ≤ j) && decide (j < a + n))) = true := by simp; omega
      rw [if_pos e]
      simp only [Mem.read]
      by_cases h1 : c < j
      · rw [if_pos h1, if_pos h1]; simp
      · rw [if_neg h1, if_neg h1]
        by_cases h2 : j = c
        · subst h2; rw [if_pos rfl, if_pos rfl, if_neg hj]
        · rw [if_neg h2, if_neg h2]; exact ih'

/-- Reading after clearing a range. -/
theorem Mem.read_clear {m : Mem} (a n c : Nat) (h : Mem.wf m = true) :
    Mem.read (Mem.clear m a n) c = if a ≤ c ∧ c < a + n then Mem.blank else Mem.read m c :=
  Mem.read_clear_from a n c h

theorem readN_store {s t : State} {a n : Nat} (h : ∀ b, b < n → Mem.read t.store (a + b) = Mem.read s.store (a + b)) :
    Mem.readN t.store a n = Mem.readN s.store a n := Mem.readN_congr h

/-- The size of a resident region depends on bytes 2 and 3 of its tile's header alone. -/
theorem residentBytes_congr {s t : State} (j : Nat)
    (h : ∀ b, b < 4 → Mem.read t.store (storeKey j b) = Mem.read s.store (storeKey j b)) :
    residentBytes t j = residentBytes s j := by
  unfold residentBytes
  rw [Mem.readN_congr (m := s.store) (m' := t.store) (a := storeKey j 2) (n := 2) fun b hb => by
    have e : storeKey j 2 + b = storeKey j (2 + b) := by unfold storeKey; omega
    rw [e]; exact h (2 + b) (by omega)]

theorem residentBytes_mod (s : State) (j : Nat) : residentBytes s j % 65536 = 0 := by
  unfold residentBytes
  extract_lets k
  split
  · exact Nat.mul_mod_left _ _
  · rfl

theorem storeKey_inj {j k a b : Nat} (ha : a < storeBytes) (hb : b < storeBytes) (h : storeKey j a = storeKey k b) :
    j = k ∧ a = b := by
  unfold storeKey at h
  have h1 : (j * storeBytes + a) / storeBytes = j := by
    rw [Nat.mul_comm, Nat.mul_add_div (by decide), Nat.div_eq_of_lt ha, Nat.add_zero]
  have h2 : (k * storeBytes + b) / storeBytes = k := by
    rw [Nat.mul_comm, Nat.mul_add_div (by decide), Nat.div_eq_of_lt hb, Nat.add_zero]
  have hj : j = k := by rw [← h1, ← h2, h]
  subst hj
  exact ⟨rfl, Nat.add_left_cancel h⟩

/-- Opening a line of a scratch region: nothing a reader sees changes; only the tile's record of written lines, and the
memory's form, do. -/
theorem openLine_spec (k l : Nat) (s : State) (hw : Mem.wf s.store = true) (hr : 0 < residentBytes s k)
    (hl : l * 64 + 64 ≤ storeBytes) :
    Mem.wf (openLine k s l).store = true
    ∧ (∀ j, residentBytes (openLine k s l) j = residentBytes s j)
    ∧ (∀ j c, c < storeBytes → storeByte (openLine k s l) j c = storeByte s j c)
    ∧ (residentBytes s k ≤ l * 64 → l ∈ (tileGet (openLine k s l) k).written)
    ∧ (∀ x, x ∈ (tileGet s k).written → x ∈ (tileGet (openLine k s l) k).written) := by
  have hm := residentBytes_mod s k
  unfold openLine
  extract_lets τ τ'
  by_cases hc : residentBytes s k ≤ l * 64 ∧ (!τ'.written.contains l) = true
  · rw [if_pos hc]
    have hstore : ∀ j c, c < storeBytes → ¬ (j = k ∧ l * 64 ≤ c ∧ c < l * 64 + 64) →
        Mem.read (Mem.clear s.store (storeKey k (l * 64)) 64) (storeKey j c) = Mem.read s.store (storeKey j c) := by
      intro j c hcs hn
      rw [Mem.read_clear _ _ _ hw, if_neg]
      intro ⟨h1, h2⟩
      have hd : storeKey j c - storeKey k (l * 64) < 64 := by omega
      have : storeKey j c = storeKey k (l * 64 + (storeKey j c - storeKey k (l * 64))) := by
        have : storeKey k (l * 64 + (storeKey j c - storeKey k (l * 64))) = storeKey k (l * 64) + (storeKey j c - storeKey k (l * 64)) := by
          unfold storeKey; omega
        omega
      obtain ⟨e1, e2⟩ := storeKey_inj hcs (by omega) this
      exact hn ⟨e1, by omega, by omega⟩
    have hres : ∀ j, residentBytes (tileSet k { τ' with written := l :: τ'.written }
        { s with store := Mem.clear s.store (storeKey k (l * 64)) 64 }) j = residentBytes s j := fun j =>
      residentBytes_congr j fun b hb => hstore j b (by unfold storeBytes; omega) (fun h => by omega)
    refine ⟨Mem.wf_clear _ _ hw, hres, ?_, ?_, ?_⟩
    · intro j c hcs
      unfold storeByte
      rw [hres]
      by_cases hj : j = k
      · subst hj
        rw [tileGet_tileSet]
        by_cases hin : l * 64 ≤ c ∧ c < l * 64 + 64
        · have hl' : c / 64 = l := by omega
          have hnot : (tileGet s j).written.contains l = false := by simpa [τ', τ] using hc.2
          have h1 : (List.contains (l :: τ'.written) (c / 64)) = true := by rw [hl']; simp
          have hge : residentBytes s j ≤ c := Nat.le_trans hc.1 hin.1
          rw [if_neg (fun h => by rw [h1] at h; exact absurd h.2 Bool.false_ne_true), if_pos ⟨hge, by rw [hl', hnot]; rfl⟩]
          show Mem.read (Mem.clear s.store (storeKey j (l * 64)) 64) (storeKey j c) = 0
          rw [Mem.read_clear _ _ _ hw, if_pos (by unfold storeKey; omega)]
          rfl
        · have h1 : (List.contains (l :: τ'.written) (c / 64)) = (tileGet s j).written.contains (c / 64) := by
            have : c / 64 ≠ l := by omega
            simp [τ', τ, this]
          rw [h1, show (tileSet j { τ' with written := l :: τ'.written }
            { s with store := Mem.clear s.store (storeKey j (l * 64)) 64 }).store = Mem.clear s.store (storeKey j (l * 64)) 64 from rfl,
            hstore j c hcs (fun h => hin h.2)]
      · rw [tileGet_tileSet_other _ _ _ _ hj,
          show (tileSet k { τ' with written := l :: τ'.written }
            { s with store := Mem.clear s.store (storeKey k (l * 64)) 64 }).store = Mem.clear s.store (storeKey k (l * 64)) 64 from rfl,
          hstore j c hcs (fun h => hj h.1)]
        rfl
    · intro _; rw [tileGet_tileSet]; exact List.mem_cons_self
    · intro x hx; rw [tileGet_tileSet]; exact List.mem_cons_of_mem _ hx
  · rw [if_neg hc]
    refine ⟨hw, fun _ => rfl, ?_, ?_, ?_⟩
    · intro j c _
      unfold storeByte
      by_cases hj : j = k
      · subst hj; rw [tileGet_tileSet]; rfl
      · rw [tileGet_tileSet_other _ _ _ _ hj]; rfl
    · intro h
      rw [tileGet_tileSet]
      by_cases hcon : τ'.written.contains l = true
      · simpa using hcon
      · exact absurd ⟨h, by simpa using hcon⟩ hc
    · intro x hx; rw [tileGet_tileSet]; exact hx

theorem openLines_spec (k : Nat) (ls : List Nat) (s : State) (hw : Mem.wf s.store = true) (hr : 0 < residentBytes s k)
    (hl : ∀ l ∈ ls, l * 64 + 64 ≤ storeBytes) :
    Mem.wf (ls.foldl (openLine k) s).store = true
    ∧ (∀ j, residentBytes (ls.foldl (openLine k) s) j = residentBytes s j)
    ∧ (∀ j c, c < storeBytes → storeByte (ls.foldl (openLine k) s) j c = storeByte s j c)
    ∧ (∀ l ∈ ls, residentBytes s k ≤ l * 64 → l ∈ (tileGet (ls.foldl (openLine k) s) k).written)
    ∧ (∀ x, x ∈ (tileGet s k).written → x ∈ (tileGet (ls.foldl (openLine k) s) k).written) := by
  induction ls generalizing s with
  | nil => exact ⟨hw, fun _ => rfl, fun _ _ _ => rfl, fun _ h => absurd h List.not_mem_nil, fun _ h => h⟩
  | cons l ls ih =>
    obtain ⟨a1, a2, a3, a4, a5⟩ := openLine_spec k l s hw hr (hl l List.mem_cons_self)
    obtain ⟨b1, b2, b3, b4, b5⟩ := ih (openLine k s l) a1 (by rw [a2]; exact hr) fun x hx => hl x (List.mem_cons_of_mem _ hx)
    refine ⟨b1, fun j => (b2 j).trans (a2 j), fun j c hc => (b3 j c hc).trans (a3 j c hc), ?_, fun x hx => b5 x (a5 x hx)⟩
    intro x hx hge
    rcases List.mem_cons.1 hx with rfl | hx
    · exact b5 _ (a4 hge)
    · exact b4 x hx (by rw [a2]; exact hge)

theorem mem_linesOf {a n l : Nat} : l ∈ linesOf a n ↔ 0 < n ∧ a / 64 ≤ l ∧ l ≤ (a + n - 1) / 64 := by
  unfold linesOf
  split
  · simp; omega
  · simp only [List.mem_map, List.mem_range]
    constructor
    · rintro ⟨i, hi, rfl⟩; omega
    · rintro ⟨h0, h1, h2⟩; exact ⟨l - a / 64, by omega, by omega⟩

/-- A write of a tile store, of a tile whose header is valid: the memory keeps its form, no resident region changes size, the
bytes written read as written, and every other byte of every store reads as before. -/
theorem storeWrite_spec (k a : Nat) (bs : List Byte) (s : State) (hw : Mem.wf s.store = true) (hr : 0 < residentBytes s k)
    (ha : residentBytes s k ≤ a) (hb : a + bs.length ≤ storeBytes) :
    Mem.wf (storeWrite k a bs s).store = true
    ∧ (∀ j, residentBytes (storeWrite k a bs s) j = residentBytes s j)
    ∧ (∀ j c, c < storeBytes → storeByte (storeWrite k a bs s) j c
        = if j = k ∧ a ≤ c ∧ c < a + bs.length then bs.getD (c - a) 0 else storeByte s j c) := by
  have hm := residentBytes_mod s k
  have hls : ∀ l ∈ linesOf a bs.length, l * 64 + 64 ≤ storeBytes := by
    intro l hl
    obtain ⟨h0, h1, h2⟩ := mem_linesOf.1 hl
    have : storeBytes % 64 = 0 := by decide
    omega
  obtain ⟨a1, a2, a3, a4, a5⟩ := openLines_spec k (linesOf a bs.length) s hw hr hls
  have hread : ∀ j c, c < storeBytes → Mem.read (storeWrite k a bs s).store (storeKey j c)
      = if j = k ∧ a ≤ c ∧ c < a + bs.length then bs.getD (c - a) 0
        else Mem.read ((linesOf a bs.length).foldl (openLine k) s).store (storeKey j c) := by
    intro j c hc
    show Mem.read (Mem.writeN _ (storeKey k a) bs) (storeKey j c) = _
    rw [Mem.read_writeN _ _ _ a1]
    by_cases h : j = k ∧ a ≤ c ∧ c < a + bs.length
    · rw [if_pos h, if_pos (by rw [h.1]; unfold storeKey; omega)]
      congr 1; rw [h.1]; unfold storeKey; omega
    · rw [if_neg h, if_neg]
      intro ⟨h1, h2⟩
      have e : storeKey k (a + (storeKey j c - storeKey k a)) = storeKey k a + (storeKey j c - storeKey k a) := by
        unfold storeKey; omega
      obtain ⟨e1, e2⟩ := storeKey_inj (a := c) (b := a + (storeKey j c - storeKey k a)) (j := j) (k := k) hc (by omega) (by omega)
      exact h ⟨e1, by omega, by omega⟩
  have hres : ∀ j, residentBytes (storeWrite k a bs s) j = residentBytes s j := fun j =>
    (residentBytes_congr (s := (linesOf a bs.length).foldl (openLine k) s) j fun b hb => by
      rw [hread j b (by unfold storeBytes; omega), if_neg (fun h => by omega)]).trans (a2 j)
  refine ⟨Mem.wf_writeN _ _ a1, hres, ?_⟩
  intro j c hc
  have ht : ∀ j, tileGet (storeWrite k a bs s) j = tileGet ((linesOf a bs.length).foldl (openLine k) s) j := fun _ => rfl
  rw [← a3 j c hc]
  unfold storeByte
  rw [hres, ht, hread j c hc, a2]
  by_cases h : j = k ∧ a ≤ c ∧ c < a + bs.length
  · rw [if_pos h, if_pos h]
    have hmem : c / 64 ∈ (tileGet ((linesOf a bs.length).foldl (openLine k) s) k).written :=
      a4 _ (mem_linesOf.2 ⟨by omega, by omega, by omega⟩) (by omega)
    rw [if_neg]
    intro ⟨_, h2⟩
    rw [h.1] at h2
    have : (tileGet ((linesOf a bs.length).foldl (openLine k) s) k).written.contains (c / 64) = true := by simpa using hmem
    rw [this] at h2
    exact absurd h2 Bool.false_ne_true
  · rw [if_neg h, if_neg h]

end Sys2Proof.Machine
end

