-- ==== Sys2Proof/WellFormed.lean ====
section
/-! DEFINITION. WellFormed.lean: which commands name units that exist, and packets within the sizes of R230 and R313. A command
that does not is one the outside cannot send; the meanings do not rest on this. -/
namespace Sys2Proof

/-- A tile of the hub (R10, R18). -/
def tileOk (n : Nat) : Bool := decide (n < 4608)
/-- A bay, as field × 64 + bay. -/
def bayOk (n : Nat) : Bool := decide (n < 576)
/-- A field. -/
def fieldOk (n : Nat) : Bool := decide (n < 9)
/-- A mortise site (R355). -/
def siteOk (n : Nat) : Bool := decide (n < 12)
/-- A module of a site. -/
def moduleOk (n : Nat) : Bool := decide (n < 8)
/-- A partition, or the function that serves it (R402). -/
def partOk (n : Nat) : Bool := decide (n < 256)
/-- A host port (R400). -/
def hostPortOk (n : Nat) : Bool := decide (n < 4)
/-- A lane group (R219). -/
def groupOk (n : Nat) : Bool := decide (n < 36)
/-- A router, as field × 98 + node (R346). -/
def routerOk (n : Nat) : Bool := decide (n < 882)
/-- A coherent range (R334). -/
def rangeNumOk (n : Nat) : Bool := decide (n < 16)
/-- A memory controller: 0 to 11 stacks, 12 to 35 fen-tier packages (R276, R277). -/
def ctlOk (n : Nat) : Bool := decide (n < 36)
/-- A hub-network packet (R312): at most 8 data lines. -/
def pktOk (p : NetPkt) : Bool := decide (p.lines ≤ 8) && decide (p.data.length ≤ 512)
/-- Does a node exist (R311): a bay's unit 0 to 14, an edge router's attachment 0 to 2, a spare bay's unit. -/
def nodeOk (id : Nat) : Bool :=
  let n := id / 16 % 128
  let u := id / 2048
  decide (id < 65536) && decide (id % 16 < 9) && decide (n < 98) && (if 64 ≤ n ∧ n < 96 then decide (u < 3) else decide (u < 15))
/-- A packet between nodes that exist. -/
def netOk (a : NetArr) : Bool := pktOk a.pkt && nodeOk a.pkt.src && nodeOk a.pkt.dst
/-- The packets of a bridge's 16-flit buffer (R321), of at most 2 flits each (R312). -/
def bridgeOk (lost : List (Nat × NetPkt)) : Bool :=
  lost.all (fun e => pktOk e.2) && decide ((lost.map fun e => max 1 ((e.2.data.length / 64 + 3) / 4)).sum ≤ 16)
/-- An Idoon packet on a port (R228, R230): a 12-bit SEQ and at most 16 data blocks. -/
def idnOk (a : IdnArr) : Bool := groupOk a.port && decide (a.seq < 4096) && decide (a.pkt.data.length ≤ 512)
  && a.words.all fun w => w.all (· < 544)

/-- Is a command well formed. -/
def Instr.wf : Instr → Bool
  | .nop o => tileOk o.tile
  | .endTick o => tileOk o.tile
  | .br o => tileOk o.tile
  | .brz o => tileOk o.tile
  | .brnz o => tileOk o.tile
  | .loopTo o => tileOk o.tile
  | .sli o => tileOk o.tile
  | .slih o => tileOk o.tile
  | .sld o => tileOk o.tile
  | .sst o => tileOk o.tile
  | .waitc o => tileOk o.tile
  | .waitSatisfied tile => tileOk tile
  | .bsync o => tileOk o.tile
  | .barrierRelease bay _ => bayOk bay
  | .sig o => tileOk o.tile
  | .waits o => tileOk o.tile
  | .mma o => tileOk o.tile
  | .mmb o => tileOk o.tile
  | .mscan o => tileOk o.tile
  | .moutRecords o => tileOk o.tile
  | .moutFp32 o => tileOk o.tile
  | .moutBf16 o => tileOk o.tile
  | .moutMx o => tileOk o.tile
  | .matrixComplete tile => tileOk tile
  | .tld o => tileOk o.tile
  | .tldComplete tile _ => tileOk tile
  | .tst o => tileOk o.tile
  | .tstAck tile => tileOk tile
  | .tstS o => tileOk o.tile
  | .tileTranslationFill tile _ => tileOk tile
  | .patrolScrub tile _ _ => tileOk tile
  | .xadd o => tileOk o.tile
  | .xsub o => tileOk o.tile
  | .xmul o => tileOk o.tile
  | .xand o => tileOk o.tile
  | .xor o => tileOk o.tile
  | .xxor o => tileOk o.tile
  | .xshl o => tileOk o.tile
  | .xshr o => tileOk o.tile
  | .xsra o => tileOk o.tile
  | .xslt o => tileOk o.tile
  | .xsltu o => tileOk o.tile
  | .xseq o => tileOk o.tile
  | .xmin o => tileOk o.tile
  | .xmax o => tileOk o.tile
  | .xminu o => tileOk o.tile
  | .xmaxu o => tileOk o.tile
  | .vld o => tileOk o.tile
  | .vst o => tileOk o.tile
  | .vlds o => tileOk o.tile
  | .vsts o => tileOk o.tile
  | .vstmx o => tileOk o.tile
  | .vldmx o => tileOk o.tile
  | .vectorStoreComplete tile => tileOk tile
  | .vfadd o => tileOk o.tile
  | .vfsub o => tileOk o.tile
  | .vfmul o => tileOk o.tile
  | .vfmin o => tileOk o.tile
  | .vfmax o => tileOk o.tile
  | .vfabs o => tileOk o.tile
  | .vfneg o => tileOk o.tile
  | .vfscale o => tileOk o.tile
  | .vfma o => tileOk o.tile
  | .vfms o => tileOk o.tile
  | .vfnma o => tileOk o.tile
  | .vadd o => tileOk o.tile
  | .vsub o => tileOk o.tile
  | .vmul o => tileOk o.tile
  | .vmin o => tileOk o.tile
  | .vmax o => tileOk o.tile
  | .vadds o => tileOk o.tile
  | .vsubs o => tileOk o.tile
  | .vand o => tileOk o.tile
  | .vor o => tileOk o.tile
  | .vxor o => tileOk o.tile
  | .vnot o => tileOk o.tile
  | .vshl o => tileOk o.tile
  | .vshr o => tileOk o.tile
  | .vsra o => tileOk o.tile
  | .vcmpeq o => tileOk o.tile
  | .vcmpne o => tileOk o.tile
  | .vcmplt o => tileOk o.tile
  | .vcmple o => tileOk o.tile
  | .vcmpgt o => tileOk o.tile
  | .vcmpge o => tileOk o.tile
  | .vcmpspc o => tileOk o.tile
  | .pand o => tileOk o.tile
  | .por o => tileOk o.tile
  | .pxor o => tileOk o.tile
  | .pnot o => tileOk o.tile
  | .pset o => tileOk o.tile
  | .pcnt o => tileOk o.tile
  | .pfirst o => tileOk o.tile
  | .vmov o => tileOk o.tile
  | .vbcast o => tileOk o.tile
  | .viota o => tileOk o.tile
  | .vsel o => tileOk o.tile
  | .vext o => tileOk o.tile
  | .vins o => tileOk o.tile
  | .vperm o => tileOk o.tile
  | .vrdfl o => tileOk o.tile
  | .vcomp o => tileOk o.tile
  | .vexpd o => tileOk o.tile
  | .vcompi o => tileOk o.tile
  | .vrsumf o => tileOk o.tile
  | .vrmaxf o => tileOk o.tile
  | .vrminf o => tileOk o.tile
  | .vrsumi o => tileOk o.tile
  | .vrmaxi o => tileOk o.tile
  | .vrmini o => tileOk o.tile
  | .vramaxf o => tileOk o.tile
  | .vrrmaxf o => tileOk o.tile
  | .vrrsumf o => tileOk o.tile
  | .vrramaxf o => tileOk o.tile
  | .vexp2 o => tileOk o.tile
  | .vlog2 o => tileOk o.tile
  | .vrcp o => tileOk o.tile
  | .vrsqrt o => tileOk o.tile
  | .vtanh o => tileOk o.tile
  | .vsigm o => tileOk o.tile
  | .vcvt o => tileOk o.tile
  | .vradd o => tileOk o.tile
  | .vrcvt o => tileOk o.tile
  | .vrmk o => tileOk o.tile
  | .vexpq o => tileOk o.tile
  | .gather w => tileOk w.tile
  | .append w _ => tileOk w.tile
  | .mask w => tileOk w.tile
  | .kvDeliveryComplete tile => tileOk tile
  | .doorbell port fn _ _ _ _ => hostPortOk port && partOk fn
  | .commandFetch _ => true
  | .tickEdgeEmit => true
  | .edge port _ _ => groupOk port
  | .tickEdgeApply => true
  | .report a _ => idnOk a
  | .reportTimeout => true
  | .decision a _ => idnOk a
  | .tickRelease part => partOk part
  | .drainLayerDone part => partOk part
  | .commitDrainEnd part => partOk part
  | .egressWrite part => partOk part
  | .fenceWriteApply part => partOk part
  | .hostStoreAck port => hostPortOk port
  | .kvPageCopyDone _ _ => true
  | .tickCtrlWrite _ => true
  | .tickPeriodSetWrite _ => true
  | .partCfgEnable part _ => partOk part
  | .partCfgDisable part _ => partOk part
  | .partIdoonWrite part _ => partOk part
  | .gctlTileQueryWrite _ => true
  | .tileQueryResolved => true
  | .domCtrlLeave _ => true
  | .domCtrlJoin _ => true
  | .domCtrlHandover _ => true
  | .lsCfgWrite _ => true
  | .idnCtrlRetrain port _ => groupOk port
  | .idnCtrlRelease port _ => groupOk port
  | .idnCtrlDisable port _ => groupOk port
  | .memClearStart _ => true
  | .cohRangeDisable range _ => rangeNumOk range
  | .hostpBiasFlipStart _ => true
  | .hostpHotplugRemove _ => true
  | .hostpHotplugWakeReq _ => true
  | .hostpPortRelease port _ => hostPortOk port
  | .hostpPortRetrain port => hostPortOk port
  | .hostfBar4Enable fn _ _ => partOk fn
  | .mtCtrlReset site => siteOk site
  | .mtCtrlRelease site => siteOk site
  | .mtCtrlQuiesce site => siteOk site
  | .mtCtrlResume site => siteOk site
  | .mtAssignWrite site _ => siteOk site
  | .objAdminEnable _ _ => true
  | .defMapoutQueue _ => true
  | .errqCidxWrite _ => true
  | .perfSelWrite _ _ => true
  | .perfCtrlSnap _ => true
  | .trcCtrlArm field _ => fieldOk field
  | .prbFilterEnable _ router _ => routerOk router
  | .tpWrite _ _ => true
  | .tpLinkRetrain => true
  | .partBaysWrite part field _ => partOk part && fieldOk field
  | .partMemWrite part _ _ => partOk part
  | .registerWrite _ => true
  | .ctxCreate _ => true
  | .ctxDestroy _ => true
  | .ctxTeardownEnd _ => true
  | .ctxQuery _ => true
  | .ctxResume _ => true
  | .faultReply _ => true
  | .queueCreate _ => true
  | .queueDestroy _ => true
  | .queueQuery _ => true
  | .objTable _ => true
  | .objCreate _ => true
  | .objRelease _ => true
  | .objQuery _ => true
  | .fenceCreate _ => true
  | .fenceDestroy _ => true
  | .fenceQuery _ => true
  | .memCopy _ => true
  | .memFill _ => true
  | .moverComplete _ _ => true
  | .invalidate _ => true
  | .invalidateDrained _ => true
  | .pinHost _ => true
  | .unpinHost _ => true
  | .memClear _ => true
  | .tenantClearDone => true
  | .retiredPages _ => true
  | .partTick _ => true
  | .progLoad _ _ => true
  | .sessSet _ => true
  | .sessReserve _ => true
  | .sessReset _ => true
  | .sessQuery _ => true
  | .kvMap _ _ => true
  | .kvUnmap _ => true
  | .kvPrefetch _ _ => true
  | .kvAdvise _ _ => true
  | .fenceSignal _ => true
  | .fenceWait _ => true
  | .fenceWaitTimeout _ => true
  | .domJoin _ => true
  | .domLeave _ => true
  | .domHandover _ => true
  | .domQuery _ => true
  | .lsConfig _ => true
  | .tickPeriod _ => true
  | .spdm _ _ _ => true
  | .licenceInstall _ _ => true
  | .configInstall _ _ => true
  | .ownerEnrol _ _ => true
  | .debugAuth _ _ => true
  | .lifecycleSet _ => true
  | .partSecure _ => true
  | .partSecureClear _ => true
  | .attestReport _ _ => true
  | .fwImage _ => true
  | .fwCommit _ => true
  | .fwCommitReset => true
  | .resetPartition _ => true
  | .resetField _ => true
  | .resetHub _ => true
  | .resetStandby _ => true
  | .resetDeferredTimeout => true
  | .netInterfaceReady bay => bayOk bay
  | .sensorRead _ => true
  | .errqRead _ => true
  | .ledgerAccept _ _ => true
  | .wake _ => true
  | .strict _ => true
  | .perturbSet _ => true
  | .perturbClear _ => true
  | .katRun _ => true
  | .traceRead _ => true
  | .idleBlock port _ => groupOk port
  | .ack port _ _ => groupOk port
  | .nak port _ _ => groupOk port
  | .credit port _ _ _ => groupOk port
  | .tsync port _ _ _ _ _ => groupOk port
  | .train port _ _ _ _ _ _ => groupOk port
  | .ackTimer port => groupOk port
  | .idoonRdReq a => idnOk a
  | .idoonRdRsp a => idnOk a
  | .idoonWr a => idnOk a
  | .idoonWrAck a => idnOk a
  | .idoonSig a => idnOk a
  | .idoonErrRsp a => idnOk a
  | .membership a _ => idnOk a
  | .hello a _ => idnOk a
  | .helloTimer => true
  | .form a _ => idnOk a
  | .formAck a _ => idnOk a
  | .formTimeout => true
  | .join a _ => idnOk a
  | .handover a _ _ => idnOk a
  | .lsBdt a => idnOk a
  | .lsSig a => idnOk a
  | .edgeMissed => true
  | .masterLoss _ _ => true
  | .peerPatternSeen port _ _ => groupOk port
  | .detectTimeout port => groupOk port
  | .trainRetryWait port => groupOk port
  | .equalisationEnd port _ => groupOk port
  | .equaliseTimeout port => groupOk port
  | .idoonLaneTestDone port _ => groupOk port
  | .codewordLock port _ => groupOk port
  | .lockTimeout port => groupOk port
  | .measureDone port => groupOk port
  | .laneFault port _ => groupOk port
  | .lossOfSignal port => groupOk port
  | .qretrainDone port => groupOk port
  | .qretrainTimeout port => groupOk port
  | .rd a => netOk a
  | .rdRsp a => netOk a
  | .wr a => netOk a
  | .wrAck a => netOk a
  | .netSig a => netOk a
  | .errRsp a => netOk a
  | .ctrl a => netOk a
  | .requestTimeout _ _ => true
  | .targetDeadline _ _ => true
  | .netCreditReturn field node port vc _ crossing =>
    fieldOk field && decide (node < 98) && decide (port < 16) && decide (vc < 4) && decide (crossing.getD 0 < 2)
  | .scarfQuickRetrain field _ _ => fieldOk field
  | .scarfRetrainDone field _ _ lost => fieldOk field && bridgeOk lost
  | .rdcur a _ => netOk a
  | .rdshr a _ => netOk a
  | .rdown a _ => netOk a
  | .wrinv a _ => netOk a
  | .wrhint a _ => netOk a
  | .evict a => netOk a
  | .wbdata a => netOk a
  | .snpinv a => netOk a
  | .snpshr a => netOk a
  | .push a _ => netOk a
  | .dataS a => netOk a
  | .dataE a => netOk a
  | .gntE a => netOk a
  | .snprsp a => netOk a
  | .cmpack a => netOk a
  | .wback a => netOk a
  | .pushrsp a _ => netOk a
  | .snoopHoldEnd _ _ => true
  | .snoopTimeout _ _ => true
  | .cohRangeFlushDone range => rangeNumOk range
  | .sluiceWindow => true
  | .sluiceAgePromote _ => true
  | .memoryRead _ _ _ _ _ => true
  | .memoryWrite _ _ _ _ => true
  | .wcEvictTimeout ctl _ => ctlOk ctl
  | .correctedWriteback _ => true
  | .memcRetrain c => ctlOk c.ctl && decide (c.chan < 64)
  | .memcRetrainDone c _ => ctlOk c.ctl && decide (c.chan < 64)
  | .scrubRead _ _ => true
  | .rowRepair ctl => ctlOk ctl
  | .mtnPwrgdHigh site => siteOk site
  | .sitePowerTimeout site => siteOk site
  | .siteResetTimer site => siteOk site
  | .sidebandReady site _ => siteOk site
  | .siteBootTimeout site => siteOk site
  | .descReadReply site _ _ _ => siteOk site
  | .spdmReply site _ _ _ => siteOk site
  | .attestationEnd site _ _ _ => siteOk site
  | .assignReply site _ _ => siteOk site
  | .moduleSbinitDone site module => siteOk site && moduleOk module
  | .moduleLaneTestDone site module _ _ => siteOk site && moduleOk module
  | .moduleMbtrainDone site module => siteOk site && moduleOk module
  | .moduleLinkinitDone site module => siteOk site && moduleOk module
  | .widthReply site _ _ _ => siteOk site
  | .moduleTrainTimeout site module => siteOk site && moduleOk module
  | .moduleRetryLimit site module _ => siteOk site && moduleOk module
  | .phyretrainDone site module _ _ => siteOk site && moduleOk module
  | .phyretrainTimeout site module => siteOk site && moduleOk module
  | .throttleReply site _ _ => siteOk site
  | .throttleDeadline site => siteOk site
  | .quiesced site _ _ => siteOk site
  | .resumeReply site _ _ => siteOk site
  | .cleared site _ _ => siteOk site
  | .shutdownReply site _ _ => siteOk site
  | .siteMessageTimeout site _ => siteOk site
  | .telemetry site _ _ => siteOk site
  | .telemetryTimeout site => siteOk site
  | .event site _ => siteOk site
  | .fatal site _ => siteOk site
  | .thermAlert site => siteOk site
  | .rawPacket site module _ _ _ _ p => siteOk site && moduleOk module && pktOk p
  | .rawCredit site module _ _ => siteOk site && moduleOk module
  | .cxlIoRequest site _ _ _ _ _ _ => siteOk site
  | .rdcurr site _ _ _ => siteOk site
  | .rdshared site _ _ _ => siteOk site
  | .rdownD2h site _ _ _ _ => siteOk site
  | .cleanevict site _ _ => siteOk site
  | .dirtyevict site _ _ _ => siteOk site
  | .itomwr site _ _ _ _ => siteOk site
  | .cxlSnoopResponse site _ _ _ => siteOk site
  | .goFlitAck _ _ => true
  | .configRequest port fn _ _ _ _ _ => hostPortOk port && partOk fn
  | .bar4Access port fn _ _ _ _ _ _ => hostPortOk port && partOk fn
  | .memrd port _ _ _ _ => hostPortOk port
  | .meminv port _ _ _ => hostPortOk port
  | .memwr port _ _ _ _ => hostPortOk port
  | .memwrptl port _ _ _ _ _ => hostPortOk port
  | .birsp port _ _ => hostPortOk port
  | .hostSnoop port _ _ => hostPortOk port
  | .atsTranslationCompletion part _ _ _ _ => partOk part
  | .atsInvalidateRequest port fn _ _ _ => hostPortOk port && partOk fn
  | .atsInvalidateDrained port _ => hostPortOk port
  | .hubReadCompletion port part _ _ => hostPortOk port && partOk part
  | .completionTimeout port part => hostPortOk port && partOk part
  | .dlActiveLoss port _ => hostPortOk port
  | .dlActiveUp port _ _ _ _ => hostPortOk port
  | .l0sEntry port => hostPortOk port
  | .l1Entry port => hostPortOk port
  | .l1EarlyExit port => hostPortOk port
  | .perstDeassert port => hostPortOk port
  | .fundamentalReset port _ => hostPortOk port
  | .functionLevelReset port fn => hostPortOk port && partOk fn
  | .d3hotEntry port fn => hostPortOk port && partOk fn
  | .d0Return port fn => hostPortOk port && partOk fn
  | .d3coldEntry => true
  | .hpaButtonPress => true
  | .hostLinkLost => true
  | .irqCoalesceTimer _ => true
  | .getVersion _ _ _ => true
  | .getCapabilities _ _ _ => true
  | .negotiateAlgorithms _ _ _ => true
  | .getDigests _ _ _ => true
  | .getCertificate _ _ _ => true
  | .challenge _ _ _ => true
  | .getMeasurements _ _ _ => true
  | .keyExchange _ _ _ => true
  | .finish _ _ _ => true
  | .heartbeat _ _ _ => true
  | .keyUpdate _ _ _ => true
  | .endSession _ _ _ => true
  | .measureObject _ _ _ _ _ _ _ => true
  | .ideKm fn _ _ => partOk fn
  | .lockInterfaceRequest fn => partOk fn
  | .startInterfaceRequest fn => partOk fn
  | .stopInterfaceRequest fn => partOk fn
  | .nonceExpiry => true
  | .debugAuthExpiry => true
  | .stbyPwrgdRise _ => true
  | .stbyPwrgdFall => true
  | .bringupStepComplete _ => true
  | .mainPwrgdRise _ => true
  | .mainPwrgdFall => true
  | .mainFailRestart => true
  | .sysRstN => true
  | .repairRoundEnd _ => true
  | .entdaa _ => true
  | .setEndpointId _ => true
  | .getEndpointId => true
  | .getMctpVersionSupport _ => true
  | .getMessageTypeSupport => true
  | .getVendorDefinedMessageSupport _ => true
  | .grisetMctpRequest _ _ => true
  | .gettid => true
  | .getpldmversion _ => true
  | .getpldmtypes => true
  | .getpldmcommands _ => true
  | .getpdrrepositoryinfo => true
  | .getpdr _ => true
  | .getsensorreading _ => true
  | .getstatesensorreadings => true
  | .seteventreceiver _ => true
  | .errorLogAppend => true
  | .thermalSample _ => true
  | .vcoreAdjust field _ => fieldOk field
  | .vcoreSettled field => fieldOk field
  | .sysRstNRelease => true
  | .otpProgramDone _ => true
  | .flashWriteDone _ => true
  | .cxlMemResponse site _ _ _ _ => siteOk site

end Sys2Proof
end

