-- ==== Sys2Proof/Tests/Slice0.lean ====
section
/-! SUPPORT. Tests/Slice0.lean: our own tests: ill-formed commands that the check refuses, witnesses that the hypotheses of the
statements are met together, and what single commands do against the spec's own numbers. -/
set_option maxRecDepth 65536
namespace Sys2Proof.Machine

/-- Tile 0 executes a tick. -/
def tS : State := fset F.tileStatus_running 0 1 {}
/-- An instruction word on tile 0. -/
def tO (w : Nat) : TileOp := { tile := 0, w := BitVec.ofNat 48 w }
/-- Tile 0 executes a tick, with some X registers set. -/
def tX (x : Map Word) : State := tileSet 0 { x := x } tS

/-- An answer is known where its comparison evaluates. -/
theorem ok_is {ε α : Type} [DecidableEq α] {e : Except ε α} {v : α}
    (h : (match e with | .ok x => decide (x = v) | .error _ => false) = true) : e = .ok v := by
  cases e <;> simp_all

/-- A tile issues an instruction where the checks of it evaluate so. -/
theorem issues_of {o : TileOp} {u : TUnit} {s : State}
    (h : (canIssue s o.tile u && (injectedUpset s o.tile u).isNone && o.upset.isNone && o.reserved.isNone
      && !(tileGet s o.tile).badLines.contains (fetchLine s o.tile)) = true) : Issues o u s := by
  simp only [Bool.and_eq_true, Option.isNone_iff_eq_none, Bool.not_eq_true'] at h
  exact ⟨h.1.1.1.1, h.1.1.1.2, h.1.1.2, h.1.2, h.2⟩

/-- A packet is taken where the checks of it evaluate so. -/
theorem taken_of {a : IdnArr} {s : State}
    (h : (idnActive s a.port && !a.uncorr && !a.words.any wordBad && a.lcrcOk && a.seq == (idnGet s a.port).rxSeq && a.ecrcOk
      && a.pkt.ecrc.isNone && a.pkt.epoch == epochByte s) = true) : Taken a s := by
  simp only [Bool.and_eq_true, Option.isNone_iff_eq_none, Bool.not_eq_true', beq_iff_eq] at h
  exact ⟨h.1.1.1.1.1.1.1, h.1.1.1.1.1.1.2, h.1.1.1.1.1.2, h.1.1.1.1.2, h.1.1.1.2, h.1.1.2, h.1.2, h.2⟩

/-- Device memory of partition 1: the tables of context 5, an object table, a session record, KV tables, a batch entry, a doorbell
page entry and a plan. -/
def gMem : Mem :=
  [(0x1000, 0x1), (0x1001, 0x20), (0x2000, 0x1), (0x2001, 0x30), (0x3000, 0xf), (0x3003, 0x40), (0x10020, 0x1),
   (0x10021, 0x1), (0x10022, 0x5), (0x10033, 0x4), (0x20000, 0x1), (0x20001, 0xff), (0x20008, 0x40), (0x2000c, 0x40),
   (0x20010, 0x64), (0x20014, 0x1), (0x20018, 0x1), (0x2001c, 0x20), (0x2001e, 0x20), (0x30018, 0x5), (0x3002a, 0x5),
   (0x50000, 0x1), (0x50003, 0x1), (0x50004, 0x10), (0x50008, 0x6), (0x50009, 0x3), (0x50040, 0x1), (0x50042, 0x6),
   (0x60000, 0x3), (0x60002, 0x7), (0x60008, 0x7), (0x6000d, 0x10), (0x90002, 0x2), (0x9000a, 0x3), (0x90012, 0x4),
   (0x9001b, 0x80), (0x90034, 0xe8), (0x90035, 0x3), (0x90038, 0x4), (0x100000, 0xb), (0x100002, 0x2),
   (0x100003, 0x10), (0x40000002, 0x1), (0x40000040, 0x1), (0x40000042, 0xa), (0x40000080, 0x1), (0x40000085, 0x10),
   (0x80000048, 0x64), (0x8000004c, 0x64), (0x80000062, 0x5), (0x80000080, 0xff), (0x80000081, 0xff),
   (0x80000082, 0xff), (0x80000083, 0xff), (0x80000084, 0xff), (0x80000085, 0xff), (0x80000086, 0xff),
   (0x80000087, 0xff)]
/-- The tick record of partition 1. -/
def gR : TickRec := ⟨0x20000, 0x30000, 0x40000, 0x80000000, 0, 0, 0, 1000, 4⟩
/-- One batch entry. -/
def gB : BatchEntry := ⟨1000, 5, 1, 0, 100, 100, 0, 0, 0, 0x50000, 0, 0, 0, 0, false, false, 0, 0, 0, [], 1⟩
/-- Partition 1 with bay 0, 4 GiB stacked and 1 GiB of the fen tier; context 5 with a command queue and its completion ring. -/
def gM : State :=
  { fset F.bootStatus_hubState 0 1 (fset F.partMem_valid 8 1 (fset F.partMem_limitGib 8 3 (fset F.partMem_valid 9 1
      (fset F.partMem_tier 9 1 (fset F.partBays_bays 9 1 (fset F.partBays_bays 0 0 tS)))))) with
    mem := gMem
    parts := [(1, { offered := some gR, inForce := some gR, table := some (0x10000, 10), entries := [gB] })]
    ctxs := [(0, { state := .active }), (5, { state := .active, part := 1, root := 0x1000 })]
    queues := [(512, { kind := 2, log2 := 4, state := 1, ctx := 5, cplRing := 513 }),
               (513, { kind := 3, log2 := 4, state := 1, ctx := 5 }), (1000, { kind := 1, log2 := 4, state := 1, ctx := 5 })] }
/-- A command of queue 512, with its last parameter word. -/
def gC (op n w1 w2 w3 w4 w5 : Nat) : Cmd :=
  { id := 7, src := .queue 512, index := 0, pkt := ⟨op, 0, 8 * n, 5, 0, w1, w2, w3, w4, w5, 0, 0⟩ }
/-- A command of the management port. -/
def gF (op n w1 w2 w3 : Nat) : Cmd :=
  { id := 7, src := .mgmt, index := 0, pkt := ⟨op, 0, 8 * n, 0, 0, w1, w2, w3, 0, 0, 0, 0⟩ }
/-- Lane group 0 is ACTIVE. -/
def tI : State := fset F.idnStatus_state 0 7 {}
/-- A packet of hub 1 that arrives for hub 0 on lane group 0. -/
def tA (ty : Nat) : IdnArr := ⟨0, 0, true, false, true, { ty := ty, dst := 0, src := 1 }, []⟩
/-- Hub 0 is a member of the domain and its tick master, with RUN set. -/
def tD (s : State) : State := fset F.tickCtrl_run 0 1 (fset F.domStatus_member 0 1 s)
/-- A lane group's state, with hub 1 at its far end and hubs 0 and 1 expected. -/
def tP (st width : Nat) : State :=
  { fset F.idnStatus_state 0 st {} with
    idn := [(0, { heard := true, role := 1, peerHub := 1, peerWidth := width, samples := 1024, ackOwed := true })]
    cfg := { expected := 3, domainOk := true, features := 2 } }
/-- A hub-network packet for tile 0 from bay 1, of an agent. -/
def tN (agent : Nat) : NetArr := { pkt := { dst := 0, src := 16, lines := 1, agent := agent } }
/-- A site with a CXL tenon in a state, that serves partition 1; module 0 carries `proto` and stands in `m`. -/
def tT (st proto m : Nat) : State :=
  { fset F.mtStatus_state 0 st (rset (fset F.mtModule_state 0 m (fset F.mtModule_proto 0 proto {})) .mtDesc 3 0xFFFF00000000) with
    sites := [(0, { serves := some 1, throttled := true })] }
/-- Host port 0 is in L0 with CXL, and decodes 256 MiB at 0 to device memory at 0. -/
def tH : State :=
  { fset F.hostpPortStatus_lstate 0 3 (fset F.hostpPortStatus_cxl 0 7 gM) with hdm := [(1, 2), (6, 0x10000000), (8, 0x400)] }
/-- Partition 1 is confidential and its interface stands in TDISP state `t`, with a secured session and IDE. -/
def tV (t : Nat) : State :=
  { fset F.partSec_tdisp 1 t (fset F.partSec_confidential 1 1 (fset F.secStatus_lcState 0 2 tH)) with
    cfg := { features := 1 }, spdm := [(1, { secured := true })], ide := [(1, 4095)] }
/-- A start that stands at a step. -/
def tB (n : Nat) : State := fset F.bootStatus_step 0 n (fset F.bootStatus_hubState 0 0 {})
/-- A command of the management port with bytes. -/
def gP (op n w1 : Nat) (b : List Byte) : Cmd := { gF op n w1 0 0 with payload := b }
/-- A state in which one command is in hand. -/
def gS (c : Cmd) (s : State) : State := { s with cmds := [c] }

/-- Witness: the hypotheses of ScalarOperationsGiveTheirResult are met together. -/
theorem test_witness_ScalarOperationsGiveTheirResult :
    ∃ row, (row ∈ scalarRows) ∧ ∃ o : TileOp, ∃ s : State, (Issues o .vector s) ∧ (vxOk (fmtVX o.w) = true) :=
  ⟨_, .head _, tO 0, tS, issues_of (by decide), by decide⟩

/-- Witnesses: the hypotheses of each clause of TwoSourceVectorOperationsComplete are met together. -/
theorem test_witness_TwoSourceVectorOperationsComplete :
    (∃ o : TileOp, ∃ s : State, ∃ t : EType, (Issues o .vector s)
        ∧ (vfieldsOk (fmtV o.w) { d := true, a := true, b := true, sb := true } = true) ∧ (etypeOf (fmtV o.w).ety = some t)
        ∧ (spansOk false [spanOf (fmtV o.w).d (fmtV o.w).n t.bytes] (spanOf (fmtV o.w).a (fmtV o.w).n t.bytes :: bSpan (fmtV o.w) t.bytes) = true) ∧ ∃ row, (row ∈ floatRows) ∧ (t.isFloat = true))
    ∧ (∃ o : TileOp, ∃ s : State, ∃ t : EType, (Issues o .vector s)
        ∧ (vfieldsOk (fmtV o.w) { d := true, a := true, b := true, sb := true } = true) ∧ (etypeOf (fmtV o.w).ety = some t)
        ∧ (spansOk false [spanOf (fmtV o.w).d (fmtV o.w).n t.bytes] (spanOf (fmtV o.w).a (fmtV o.w).n t.bytes :: bSpan (fmtV o.w) t.bytes) = true) ∧ ∃ row, (row ∈ intRows) ∧ (t.isFloat = false))
    ∧ (∃ o : TileOp, ∃ s : State, ∃ t : EType, (Issues o .vector s)
        ∧ (vfieldsOk (fmtV o.w) { d := true, a := true, b := true, sb := true } = true) ∧ (etypeOf (fmtV o.w).ety = some t)
        ∧ (spansOk false [spanOf (fmtV o.w).d (fmtV o.w).n t.bytes] (spanOf (fmtV o.w).a (fmtV o.w).n t.bytes :: bSpan (fmtV o.w) t.bytes) = true) ∧ ∃ row, (row ∈ bitRows))
    ∧ (∃ o : TileOp, ∃ s : State, ∃ t : EType, (Issues o .vector s)
        ∧ (vfieldsOk (fmtV o.w) { d := true, a := true, b := true, sb := true } = true) ∧ (etypeOf (fmtV o.w).ety = some t)
        ∧ (spansOk false [spanOf (fmtV o.w).d (fmtV o.w).n t.bytes] (spanOf (fmtV o.w).a (fmtV o.w).n t.bytes :: bSpan (fmtV o.w) 4) = true) ∧ (t.isFloat = true)) :=
  ⟨⟨tO 0, tS, .f32, issues_of (by decide), by decide, by decide, (by decide), _, .head _, by decide⟩,
   ⟨tO 0x4000000, tS, .i32, issues_of (by decide), by decide, by decide, (by decide), _, .head _, by decide⟩,
   ⟨tO 0, tS, .f32, issues_of (by decide), by decide, by decide, (by decide), _, .head _⟩,
   ⟨tO 0, tS, .f32, issues_of (by decide), by decide⟩⟩

/-- Witnesses: the hypotheses of each clause of OneAndThreeSourceVectorOperationsComplete are met together. -/
theorem test_witness_OneAndThreeSourceVectorOperationsComplete :
    (∃ o : TileOp, ∃ s : State, ∃ t : EType, (Issues o .vector s) ∧ (etypeOf (fmtV o.w).ety = some t) ∧ ∃ row, (row ∈ unaryRows)
        ∧ (row.2.1 t = true) ∧ (vfieldsOk (fmtV o.w) { d := true, a := true } = true)
        ∧ (spansOk false [spanOf (fmtV o.w).d (fmtV o.w).n t.bytes] [spanOf (fmtV o.w).a (fmtV o.w).n t.bytes] = true))
    ∧ (∃ o : TileOp, ∃ s : State, ∃ t : EType, (Issues o .vector s) ∧ (etypeOf (fmtV o.w).ety = some t) ∧ ∃ u : EType,
        (etypeOf (fmtV o.w).aux = some u) ∧ (vfieldsOk (fmtV o.w) { d := true, a := true, aux := true } = true)
        ∧ (spansOk false [spanOf (fmtV o.w).d (fmtV o.w).n t.bytes] [spanOf (fmtV o.w).a (fmtV o.w).n u.bytes] = true))
    ∧ (∃ o : TileOp, ∃ s : State, ∃ t : EType, (Issues o .vector s) ∧ (etypeOf (fmtV o.w).ety = some t) ∧ (t = .f32)
        ∧ (vfieldsOk (fmtV o.w) { d := true, a := true, b := true } = true)
        ∧ (spansOk false [spanOf (fmtV o.w).d (fmtV o.w).n 4] [spanOf (fmtV o.w).a (fmtV o.w).n 4] = true))
    ∧ (∃ o : TileOp, ∃ s : State, ∃ t : EType, (Issues o .vector s) ∧ (etypeOf (fmtV o.w).ety = some t) ∧ ∃ row,
        (row ∈ fusedRows) ∧ (t.isFloat = true)
        ∧ (vfieldsOk (fmtV o.w) { d := true, a := true, b := true, c := true, sb := true } = true)
        ∧ (spansOk false [spanOf (fmtV o.w).d (fmtV o.w).n t.bytes] ([spanOf (fmtV o.w).a (fmtV o.w).n t.bytes, spanOf (fmtV o.w).c (fmtV o.w).n t.bytes] ++ bSpan (fmtV o.w) t.bytes) = true))
    ∧ (∃ o : TileOp, ∃ s : State, ∃ t : EType, (Issues o .vector s) ∧ (etypeOf (fmtV o.w).ety = some t) ∧ ∃ row,
        (row ∈ fillRows) ∧ (row.2.1 t = true) ∧ (vfieldsOk (fmtV o.w) { d := true, b := true } = true)
        ∧ (spansOk false [spanOf (fmtV o.w).d (fmtV o.w).n t.bytes] [] = true)) :=
  ⟨⟨tO 0, tS, .f32, issues_of (by decide), by decide, _, .head _, by decide⟩,
   ⟨tO 0, tS, .f32, issues_of (by decide), by decide, _, rfl, by decide⟩,
   ⟨tO 0, tS, .f32, issues_of (by decide), by decide⟩,
   ⟨tO 0, tS, .f32, issues_of (by decide), by decide, _, .head _, by decide⟩,
   ⟨tO 0, tS, .f32, issues_of (by decide), by decide, _, .head _, by decide⟩⟩

/-- Witnesses: the hypotheses of each clause of ComparesAndPredicatesComplete are met together. -/
theorem test_witness_ComparesAndPredicatesComplete :
    (∃ o : TileOp, ∃ s : State, (Issues o .vector s) ∧ ∃ t : EType, (etypeOf (fmtV o.w).ety = some t) ∧ ((fmtV o.w).d < 8)
        ∧ ∃ row, (row ∈ compareRows) ∧ (vfieldsOk (fmtV o.w) { d := true, a := true, b := true, sb := true } = true)
        ∧ (spansOk false [] (spanOf (fmtV o.w).a (fmtV o.w).n t.bytes :: bSpan (fmtV o.w) t.bytes) = true))
    ∧ (∃ o : TileOp, ∃ s : State, (Issues o .vector s) ∧ ∃ t : EType, (etypeOf (fmtV o.w).ety = some t) ∧ ((fmtV o.w).d < 8)
        ∧ (vfieldsOk (fmtV o.w) { d := true, a := true } = true) ∧ (t.isFloat = true)
        ∧ (spansOk false [] [spanOf (fmtV o.w).a (fmtV o.w).n t.bytes] = true))
    ∧ (∃ o : TileOp, ∃ s : State, (Issues o .vector s) ∧ ((fmtVP o.w).zero = 0) ∧ ∃ row, (row ∈ predRows) ∧ ((fmtVP o.w).xr = 0))
    ∧ (∃ o : TileOp, ∃ s : State, (Issues o .vector s) ∧ ((fmtVP o.w).zero = 0) ∧ ((fmtVP o.w).xr = 0) ∧ ((fmtVP o.w).pb = 0))
    ∧ (∃ o : TileOp, ∃ s : State, (Issues o .vector s) ∧ ((fmtVP o.w).zero = 0) ∧ ((fmtVP o.w).pa = 0) ∧ ((fmtVP o.w).pb = 0))
    ∧ (∃ o : TileOp, ∃ s : State, (Issues o .vector s) ∧ ((fmtVP o.w).zero = 0) ∧ ((fmtVP o.w).pd = 0) ∧ ((fmtVP o.w).pb = 0)) :=
  ⟨⟨tO 0, tS, issues_of (by decide), .f32, by decide, by decide, _, .head _, by decide⟩,
   ⟨tO 0, tS, issues_of (by decide), .f32, by decide⟩,
   ⟨tO 0, tS, issues_of (by decide), by decide, _, .head _, by decide⟩,
   ⟨tO 0, tS, issues_of (by decide), by decide⟩,
   ⟨tO 0, tS, issues_of (by decide), by decide⟩,
   ⟨tO 0, tS, issues_of (by decide), by decide⟩⟩

/-- Witnesses: the hypotheses of each clause of ReductionsComplete are met together. -/
theorem test_witness_ReductionsComplete :
    (∃ o : TileOp, ∃ s : State, (Issues o .vector s) ∧ ∃ row, (row ∈ reduceRows) ∧ ∃ t : EType,
        (etypeOf (fmtV o.w).ety = some t) ∧ (row.2.1 t = true) ∧ (vfieldsOk (fmtV o.w) { a := true, c := true } = true)
        ∧ (spansOk false [] [spanOf (fmtV o.w).a (fmtV o.w).n t.bytes] = true))
    ∧ (∃ o : TileOp, ∃ s : State, (Issues o .vector s) ∧ ∃ row, (row ∈ rowRows) ∧ ((fmtV o.w).ety = 0)
        ∧ (vfieldsOk (fmtV o.w) { d := true, a := true } = true) ∧ ((fmtV o.w).n % 32 = 0)
        ∧ (spansOk false [spanOf (fmtV o.w).d ((fmtV o.w).n / 32) 4] [spanOf (fmtV o.w).a (fmtV o.w).n 4] = true)) :=
  ⟨⟨tO 0, tS, issues_of (by decide), _, .head _, .f32, by decide⟩,
   ⟨tO 31, tS, issues_of (by decide), _, .head _, by decide⟩⟩

/-- Witnesses: the hypotheses of each clause of VectorMovesAndRecordsComplete are met together. -/
theorem test_witness_VectorMovesAndRecordsComplete :
    (∃ o : TileOp, ∃ s : State, ∃ t : EType, (Issues o .vector s) ∧ (etypeOf (fmtV o.w).ety = some t)
        ∧ let f := fmtV o.w; (vfieldsOk f { d := true, a := true, b := true, sb := true } = true) ∧ (f.pen = true)
        ∧ (f.zm = false) ∧ (spansOk false [spanOf f.d f.n t.bytes] (spanOf f.a f.n t.bytes :: bSpan f t.bytes) = true))
    ∧ (∃ o : TileOp, ∃ s : State, ∃ t : EType, (Issues o .vector s) ∧ (etypeOf (fmtV o.w).ety = some t)
        ∧ let f := fmtV o.w; (vfieldsOk f { d := true, a := true, b := true, sb := true } = true)
        ∧ (spansOk true [spanOf f.d f.n t.bytes] (spanOf f.a f.n t.bytes :: bSpan f t.bytes) = true))
    ∧ (∃ o : TileOp, ∃ s : State, ∃ t : EType, (Issues o .vector s) ∧ (etypeOf (fmtV o.w).ety = some t)
        ∧ let f := fmtV o.w; let τ := tileGet s o.tile; (vfieldsOk f { a := true, b := true, c := true } = true)
        ∧ (vplainOk f = true) ∧ (f.cnt = 0) ∧ (tx τ f.b < 4096 / t.bytes))
    ∧ (∃ o : TileOp, ∃ s : State, ∃ t : EType, (Issues o .vector s) ∧ (etypeOf (fmtV o.w).ety = some t)
        ∧ let f := fmtV o.w; let τ := tileGet s o.tile; (vfieldsOk f { d := true, b := true, c := true } = true)
        ∧ (vplainOk f = true) ∧ (f.cnt = 0) ∧ (tx τ f.b < 4096 / t.bytes))
    ∧ (∃ o : TileOp, ∃ s : State, ∃ t : EType, (Issues o .vector s) ∧ (etypeOf (fmtV o.w).ety = some t)
        ∧ let f := fmtV o.w; (vfieldsOk f { c := true } = true) ∧ (f.ety = 0) ∧ (vplainOk f = true) ∧ (f.cnt = 0))
    ∧ (∃ o : TileOp, ∃ s : State, ∃ t : EType, (Issues o .vector s) ∧ (etypeOf (fmtV o.w).ety = some t)
        ∧ let f := fmtV o.w; (f.pen = true) ∧ (spansOk true [spanOf f.d f.n t.bytes] [spanOf f.a f.n t.bytes] = true)
        ∧ (vfieldsOk f { d := true, a := true, c := true } = true))
    ∧ (∃ o : TileOp, ∃ s : State, ∃ t : EType, (Issues o .vector s) ∧ (etypeOf (fmtV o.w).ety = some t)
        ∧ let f := fmtV o.w; (f.pen = true) ∧ (t = .i32 ∨ t = .i16) ∧ (spansOk true [spanOf f.d f.n t.bytes] [] = true)
        ∧ (vfieldsOk f { d := true, b := true, c := true } = true))
    ∧ (∃ o : TileOp, ∃ s : State, ∃ t : EType, (Issues o .vector s) ∧ (etypeOf (fmtV o.w).ety = some t)
        ∧ let f := fmtV o.w; let τ := tileGet s o.tile; (vfieldsOk f { d := true, a := true, b := true } = true) ∧ (f.ety = 0)
        ∧ (vplainOk f = true) ∧ (recordsOk f = true)
        ∧ (spansOk false [spanOf f.d f.n 16] [spanOf f.a f.n 16, spanOf f.b f.n 16] = true)
        ∧ let ps := List.zip ((telems τ f.a 16 f.n).map DRec.unpack) ((telems τ f.b 16 f.n).map DRec.unpack); ((∀ p ∈ ps,
        p.1.residueOk = true ∧ p.2.residueOk = true ∧ p.1.datum = p.2.datum)))
    ∧ (∃ o : TileOp, ∃ s : State, ∃ t : EType, (Issues o .vector s) ∧ (etypeOf (fmtV o.w).ety = some t)
        ∧ let f := fmtV o.w; let τ := tileGet s o.tile; (vfieldsOk f { d := true, a := true } = true) ∧ (recordsOk f = true)
        ∧ (t.isFloat = true) ∧ (spansOk false [spanOf f.d f.n t.bytes] [spanOf f.a f.n 16] = true)
        ∧ let rs := (telems τ f.a 16 f.n).map DRec.unpack; ((∀ r ∈ rs, r.residueOk = true)))
    ∧ (∃ o : TileOp, ∃ s : State, ∃ t : EType, (Issues o .vector s) ∧ (etypeOf (fmtV o.w).ety = some t)
        ∧ let f := fmtV o.w; (vfieldsOk f { d := true, a := true, b := true } = true) ∧ (recordsOk f = true) ∧ (t = .i32)
        ∧ (spansOk false [spanOf f.d f.n 16] [spanOf f.a f.n 4] = true)) :=
  ⟨⟨tO 0x200000, tS, .f32, issues_of (by decide), by decide, by decide⟩,
   ⟨tO 0x80000000000, tS, .f32, issues_of (by decide), by decide, by decide⟩,
   ⟨tO 0, tS, .f32, issues_of (by decide), by decide, by decide⟩,
   ⟨tO 0, tS, .f32, issues_of (by decide), by decide, by decide⟩,
   ⟨tO 0, tS, .f32, issues_of (by decide), by decide, by decide⟩,
   ⟨tO 0x80000200000, tS, .f32, issues_of (by decide), by decide, by decide⟩,
   ⟨tO 0x80004200000, tS, .i32, issues_of (by decide), by decide, by decide⟩,
   ⟨tO 0, tS, .f32, issues_of (by decide), by decide, by decide, (by decide), by decide, by decide, (by decide), by decide⟩,
   ⟨tO 0x80000000000, tS, .f32, issues_of (by decide), by decide, by decide, (by decide), by decide, by decide, by decide⟩,
   ⟨tO 0x80004000000, tS, .i32, issues_of (by decide), by decide, by decide⟩⟩

/-- Witnesses: the hypotheses of each clause of VectorMemoryOperationsComplete are met together. -/
theorem test_witness_VectorMemoryOperationsComplete :
    (∃ o : TileOp, ∃ s : State, ∃ t : EType, (etypeOf (fmtV o.w).ety = some t) ∧ let f := fmtV o.w; ∃ row,
        (row ∈ [(Instr.vld, false), (Instr.vlds, true)]) ∧ (Issues o .vector s)
        ∧ (vfieldsOk f { d := true, a := true, b := row.2 } = true) ∧ (spansOk false [spanOf f.d f.n t.bytes] [] = true)
        ∧ (xnat s o.tile f.a % 64 = 0) ∧ ((row.2 = true → xnat s o.tile f.b % 64 = 0)) ∧ ∃ parts,
        ((vPieces row.2 (xnat s o.tile f.a) (if row.2 then xnat s o.tile f.b else 0) (f.n * t.bytes)).mapM (fun p => vecRead s o.tile p.1 p.2.2) = .ok parts))
    ∧ (∃ o : TileOp, ∃ s : State, ∃ t : EType, (etypeOf (fmtV o.w).ety = some t) ∧ let f := fmtV o.w; ∃ row,
        (row ∈ [(Instr.vst, false), (Instr.vsts, true)]) ∧ (Issues o .vecStore s)
        ∧ (vfieldsOk f { d := true, a := true, b := row.2 } = true) ∧ (spansOk false [] [spanOf f.d f.n t.bytes] = true)
        ∧ (xnat s o.tile f.a % 64 = 0) ∧ ((row.2 = true → xnat s o.tile f.b % 64 = 0))
        ∧ ((∀ p ∈ vPieces row.2 (xnat s o.tile f.a) (if row.2 then xnat s o.tile f.b else 0) (f.n * t.bytes),
        scratchOk s o.tile p.1 p.2.2 = true)))
    ∧ (∃ o : TileOp, ∃ s : State, ∃ t : EType, (etypeOf (fmtV o.w).ety = some t) ∧ let f := fmtV o.w; ∃ b : Bases,
        (basesOf (xnat s o.tile f.a) true = some b) ∧ (f.ety = 0) ∧ (f.aux ≤ 5)
        ∧ (vfieldsOk f { d := true, a := true, aux := true } = true) ∧ (Issues o .vector s)
        ∧ (spansOk false [spanOf f.d f.n 4] [] = true) ∧ ∃ es, ∃ ss,
        (vecRead s o.tile b.e ((f.n + 31) / 32 * mxBlockBytes f.aux) = .ok es)
        ∧ (vecRead s o.tile b.s ((f.n + 31) / 32) = .ok ss))
    ∧ (∃ o : TileOp, ∃ s : State, ∃ t : EType, (etypeOf (fmtV o.w).ety = some t) ∧ let f := fmtV o.w; ∃ b : Bases,
        (basesOf (xnat s o.tile f.a) true = some b) ∧ (f.ety = 0) ∧ (f.aux ≤ 5)
        ∧ (vfieldsOk f { d := true, a := true, aux := true } = true) ∧ (Issues o .vecStore s)
        ∧ (spansOk false [] [spanOf f.d f.n 4] = true) ∧ (scratchOk s o.tile b.e ((f.n + 31) / 32 * mxBlockBytes f.aux) = true)
        ∧ (scratchOk s o.tile b.s ((f.n + 31) / 32) = true)) :=
  ⟨⟨tO 0, tS, .f32, by decide, _, .head _, issues_of (by decide), by decide, by decide, (by decide), by decide, _, rfl⟩,
   ⟨tO 0, tS, .f32, by decide, _, .head _, issues_of (by decide), by decide⟩,
   ⟨tO 0, tS, .f32, by decide, _, rfl, by decide, by decide, (by decide), issues_of (by decide), by decide, _, _, rfl, rfl⟩,
   ⟨tO 0, tS, .f32, by decide, _, rfl, by decide, by decide, (by decide), issues_of (by decide), by decide⟩⟩

/-- Witnesses: the hypotheses of each clause of SequencerInstructionsComplete are met together. -/
theorem test_witness_SequencerInstructionsComplete :
    (∃ o : TileOp, ∃ s : State, (Issues o .seq s) ∧ let f := fmtC o.w; (xget s o.tile f.xa = 0))
    ∧ (∃ o : TileOp, ∃ s : State, (Issues o .seq s) ∧ let f := fmtC o.w; (xget s o.tile f.xa ≠ 0))
    ∧ (∃ o : TileOp, ∃ s : State, (Issues o .seq s) ∧ let f := fmtC o.w; (xget s o.tile f.xa = 1))
    ∧ (∃ o : TileOp, ∃ s : State, (Issues o .seq s) ∧ let f := fmtC o.w; (xget s o.tile f.xa ≠ 1))
    ∧ (∃ o : TileOp, ∃ s : State, (Issues o .seq s)
        ∧ let f := fmtC o.w; let a := (xget s o.tile f.xb + BitVec.ofInt 64 f.simm).toNat; (a % 8 = 0) ∧ ∃ bs,
        (loadBytes s o.tile a 8 = .ok bs))
    ∧ (∃ o : TileOp, ∃ s : State, (Issues o .seq s)
        ∧ let f := fmtC o.w; let a := (xget s o.tile f.xb + BitVec.ofInt 64 f.simm).toNat; (a % 8 = 0)
        ∧ (scratchOk s o.tile a 8 = true))
    ∧ (∃ o : TileOp, ∃ s : State, (Issues o .seq s) ∧ let f := fmtC o.w; (f.sub % 8 ≤ 4) ∧ (f.imm ≤ doneGet s o.tile (f.sub % 8)))
    ∧ (∃ o : TileOp, ∃ s : State, (Issues o .seq s) ∧ let f := fmtC o.w; (f.sub % 8 ≤ 4) ∧ (doneGet s o.tile (f.sub % 8) < f.imm))
    ∧ (∃ o : TileOp, ∃ s : State, (Issues o .seq s) ∧ let f := fmtC o.w; (f.imm ≤ syncGet s o.tile (f.sub % 16)))
    ∧ (∃ o : TileOp, ∃ s : State, (Issues o .seq s) ∧ let f := fmtC o.w; (syncGet s o.tile (f.sub % 16) < f.imm))
    ∧ (∃ o : TileOp, ∃ s : State, (Issues o .seq s)
        ∧ let f := fmtC o.w; let bar := Map.get (bayGet s (bayOf o.tile)).bars {} (f.sub % 16); (bitOn (f.imm % 256) (o.tile % 8) = true) ∧ (bar.arrived = 0 ∨ bar.mask = f.imm % 256) ∧ (bitOn bar.arrived (o.tile % 8) = false))
    ∧ (∃ o : TileOp, ∃ s : State, (Issues o .seq s) ∧ let f := fmtC o.w; ∃ t, (f.imm % 65536 ≠ 0)
        ∧ (xnat s o.tile f.xa < 2 ^ 19) ∧ (openStores (tileGet s o.tile) = 0) ∧ (openWrites s o.tile = [])
        ∧ (hubOfTile (xnat s o.tile f.xa) = hubId s) ∧ (localTile (xnat s o.tile f.xa) = some t)
        ∧ (s.netReset.contains (bayOf t) = false) ∧ (f.sub % 16 < 13) ∧ (syncGet s t (f.sub % 16) + f.imm % 65536 < 2 ^ 32))
    ∧ (∃ tile : Nat, ∃ s : State, (fon s F.tileStatus_waiting tile = true) ∧ ((tileGet s tile).wait ≠ .none)
        ∧ (waitOk s tile (tileGet s tile).wait = true))
    ∧ (∃ bay : Nat, ∃ b : Nat, ∃ s : State, (bay < 576) ∧ let bar := Map.get (bayGet s bay).bars {} b; (bar.arrived ≠ 0)
        ∧ (bar.arrived = bar.mask))
    ∧ (∃ w : BitVec 64, ∃ r, (r ∈ tileRows) ∧ (w.toNat / 2 ^ 48 = r.major * 256 + r.fn))
    ∧ (∃ tile : Nat, ∃ w : BitVec 64, ∃ s, ((∀ r ∈ tileRows, w.toNat / 2 ^ 48 ≠ r.major * 256 + r.fn))
        ∧ (canIssue s tile .seq = true) ∧ (injectedUpset s tile .seq = none)
        ∧ ((tileGet s tile).badLines.contains (fetchLine s tile) = false)) :=
  ⟨⟨tO 0, tS, issues_of (by decide), by decide⟩,
   ⟨tO 0, tX [(0, 2)], issues_of (by decide), by decide⟩,
   ⟨tO 0, tX [(0, 1)], issues_of (by decide), by decide⟩,
   ⟨tO 0, tX [(0, 2)], issues_of (by decide), by decide⟩,
   ⟨tO 0, tS, issues_of (by decide), by decide, _, rfl⟩,
   ⟨tO 0, tS, issues_of (by decide), by decide⟩,
   ⟨tO 0, tS, issues_of (by decide), by decide⟩,
   ⟨tO 1, tS, issues_of (by decide), by decide⟩,
   ⟨tO 0, tS, issues_of (by decide), by decide⟩,
   ⟨tO 1, tS, issues_of (by decide), by decide⟩,
   ⟨tO 1, tS, issues_of (by decide), by decide⟩,
   ⟨tO 1, tS, issues_of (by decide), _, by decide, by decide, (by decide), by decide, by decide, rfl, by decide⟩,
   ⟨0, fset F.tileStatus_waiting 0 1 (tileSet 0 { wait := .sync 0 0 } tS), by decide⟩,
   ⟨0, 0, baySet 0 { bars := [(0, { mask := 3, arrived := 3 })] } tS, by decide, by decide⟩,
   ⟨0, _, .head _, by decide⟩,
   ⟨0, BitVec.ofNat 64 0xFF00000000000000, tS, by decide⟩⟩

/-- Witnesses: the hypotheses of each clause of MatrixInstructionsComplete are met together. -/
theorem test_witness_MatrixInstructionsComplete :
    (∃ o : TileOp, ∃ s : State, ∃ sh : Shape, ∃ a : Bases, ∃ b : Bases,
        let f := fmtM o.w; let τ := tileGet s o.tile; (Issues o .product s) ∧ ∃ ma, ∃ mb, ∃ ca, ∃ cb, ∃ d : Nat → Int,
        (mxFmt f.fmtA = some ma) ∧ (mxFmt f.fmtB = some mb) ∧ (dmodeOk f false = true) ∧ (matrixOperands s o true = .ok (sh, a,
        b)) ∧ (panelFits a sh.nb sh.m (mxBlockBytes f.fmtA) true = true)
        ∧ (panelFits b sh.nb sh.n (mxBlockBytes f.fmtB) true = true)
        ∧ (readPanel s o.tile a sh.nb sh.m (mxBlockBytes f.fmtA) true = .ok ca)
        ∧ (readPanel s o.tile b sh.nb sh.n (mxBlockBytes f.fmtB) true = .ok cb)
        ∧ ((f.start = true → startDatums s o (scanDatum ma mb sh.n (List.zip ca cb)) = .ok d))
        ∧ let rows := if f.start then startRows sh.m f.dmode d τ else τ; ((∀ r < sh.m, rowParOk rows r = true)))
    ∧ (∃ o : TileOp, ∃ s : State, ∃ sh : Shape, ∃ a : Bases, ∃ b : Bases,
        let f := fmtM o.w; let τ := tileGet s o.tile; (Issues o .product s) ∧ ∃ ca, ∃ cb, ∃ d : Nat → Int, (f.fmtA = 8)
        ∧ (f.fmtB = 8) ∧ (dmodeOk f true = true) ∧ (matrixOperands s o false = .ok (sh, a, b))
        ∧ (panelFits a sh.nb sh.m 64 false = true) ∧ (panelFits b sh.nb sh.n 64 false = true)
        ∧ (readPanel s o.tile a sh.nb sh.m 64 false = .ok ca) ∧ (readPanel s o.tile b sh.nb sh.n 64 false = .ok cb)
        ∧ ((f.start = true → startDatums s o (fun _ => 0) = .ok d))
        ∧ let rows := if f.start then startRows sh.m f.dmode d τ else τ; ((∀ r < sh.m, rowParOk rows r = true)))
    ∧ (∃ o : TileOp, ∃ s : State, ∃ sh : Shape, ∃ a : Bases, ∃ b : Bases, let f := fmtM o.w; ∃ ma, ∃ mb, ∃ ca, ∃ cb,
        (Issues o .scan s) ∧ (mxFmt f.fmtA = some ma) ∧ (mxFmt f.fmtB = some mb) ∧ (f.zero = 0)
        ∧ ((f.start = true → f.dmode ≠ 0)) ∧ (matrixOperands s o true = .ok (sh, a, b)) ∧ (xnat s o.tile f.xv % 2 ^ 20 % 64 = 0)
        ∧ (scratchOk s o.tile (xnat s o.tile f.xv % 2 ^ 20) 64 = true) ∧ (readScales s o.tile a sh.nb sh.m = .ok ca)
        ∧ (readScales s o.tile b sh.nb sh.n = .ok cb))
    ∧ (∃ o : TileOp, ∃ s : State, ∃ sh : Shape, ∃ b : Bases, let f := fmtO o.w; let τ := tileGet s o.tile; ∃ row,
        (row ∈ [(Instr.moutRecords, 0, 16), (Instr.moutFp32, 1, 4), (Instr.moutBf16, 2, 2), (Instr.moutMx, 3, 0)])
        ∧ (Issues o (.readout (row.2.1 != 0)) s) ∧ (f.zero = 0) ∧ ((if row.2.1 = 3 then f.fmtOut ≤ 5 else f.fmtOut = 0))
        ∧ (shapeOf (xnat s o.tile f.xsh) false = some sh) ∧ (basesOf (xnat s o.tile f.xdst) (row.2.1 == 3) = some b)
        ∧ let step := moutStride row.2.1 f.fmtOut; let st := xnat s o.tile f.xst % 2 ^ 20; (scratchOk s o.tile b.e ((sh.m - 1) * step + (if row.2.1 = 3 then step else sh.n * row.2.2)) = true) ∧ (scratchOk s o.tile st sh.m = true) ∧ ((row.2.1 = 3 → scratchOk s o.tile b.s sh.m = true)) ∧ ((∀ r < sh.m, rowParOk τ r = true ∧ ∀ c < sh.n, accResGet τ r c = mod7 (accGet τ r c))))
    ∧ (∃ tile : Nat, ∃ ws : List Owed, ∃ rest : List (List Owed), ∃ s : State, ((tileGet s tile).matQ = ws :: rest)) :=
  ⟨⟨tO 54525952, tX [(1, 8519681)], ⟨1, 1, 1⟩, ⟨0, 0⟩, ⟨0, 0⟩, issues_of (by decide), _, _, _, _, _, rfl, rfl, by decide, rfl,
      by decide, by decide, rfl, rfl, fun _ => rfl, by decide⟩,
   ⟨tO 149533635903488, tX [(1, 8519681)], ⟨1, 1, 1⟩, ⟨0, 0⟩, ⟨0, 0⟩, issues_of (by decide), _, _, _, by decide, by decide,
       (by decide), rfl, by decide, by decide, rfl, rfl, fun _ => rfl, by decide⟩,
   ⟨tO 33554432, tX [(1, 8519681)], ⟨1, 1, 1⟩, ⟨0, 0⟩, ⟨0, 0⟩, _, _, _, _, issues_of (by decide), rfl, rfl, by decide, by decide,
       ok_is (by decide), by decide, by decide, rfl, rfl⟩,
   ⟨tO 33554432, tX [(1, 8519681)], ⟨1, 1, 1⟩, ⟨0, 0⟩, _, .head _, issues_of (by decide), by decide,
       (by rw [if_neg (by decide)]; decide), by decide, by decide, by decide⟩,
   ⟨0, [], [], tileSet 0 { matQ := [[]] } tS, by decide⟩⟩

/-- Witnesses: the hypotheses of each clause of TensorInstructionsComplete are met together. -/
theorem test_witness_TensorInstructionsComplete :
    (∃ o : TileOp, ∃ s : State, ∃ x : Xfer, (Issues o .load s) ∧ (tensorOperands s o true = .ok x))
    ∧ (∃ o : TileOp, ∃ s : State, ∃ x : Xfer, ∃ bs, (Issues o .store s) ∧ (tensorOperands s o false = .ok x)
        ∧ (loadBytes s o.tile x.ts x.bytes = .ok bs)
        ∧ let y := Xfer.start (tileGet s o.tile) true { x with data := bs }; (y.touchesHost = false))
    ∧ (∃ o : TileOp, ∃ s : State, ∃ x : Xfer, ∃ bs, (Issues o .store s) ∧ (tensorOperands s o false = .ok x)
        ∧ (loadBytes s o.tile x.ts x.bytes = .ok bs) ∧ let y := Xfer.start (tileGet s o.tile) true { x with data := bs }; ∃ z,
        ∃ t, (fillAll o.tile (tileGet s o.tile).ctx true y.todo y s = .ok (z, t)))
    ∧ (∃ tile : Nat, ∃ page : Nat, ∃ rest : List Nat, ∃ x : Xfer, ∃ tr : Trans, ∃ s : State,
        ((tileGet s tile).ldQ.find? (fun x => !x.todo.isEmpty) = some x) ∧ (x.todo = page :: rest)
        ∧ (tileWalk s (tileGet s tile).ctx page false = .ok tr))
    ∧ (∃ tile : Nat, ∃ host : List Byte, ∃ x : Xfer, ∃ rest : List Xfer, ∃ parts : List (Nat × List Byte), ∃ s : State,
        ∃ t : State, ((tileGet s tile).ldQ = x :: rest) ∧ (x.todo = []) ∧ (x.held s = false)
        ∧ ((x.touchesHost = true → waitCause s (partOfTile s tile) = false))
        ∧ (gatherLoad (partOfTile s tile) (tileClass s tile) x x.pieces host s = (some parts, t)))
    ∧ (∃ tile : Nat, ∃ x : Xfer, ∃ before : List Xfer, ∃ after : List Xfer, ∃ s : State,
        ((tileGet s tile).stQ = before ++ x :: after) ∧ ((∀ y ∈ before, y.done = true)) ∧ (x.done = false) ∧ (x.refused = false)
        ∧ (x.todo = []) ∧ (x.held s = false) ∧ ((tileGet s tile).sigQ = []) ∧ ((∀ e ∈ stagePieces tile (tileGet s tile).ctx x,
        writeRefused s e.addr e.data.length = false)))
    ∧ (∃ tile : Nat, ∃ ws : List Owed, ∃ rest : List (List Owed), ∃ s : State, ((tileGet s tile).vecQ = ws :: rest))
    ∧ (∃ tile : Nat, ∃ line : Nat, ∃ s : State, (tile < 4608) ∧ (line * 64 < residentBytes s tile)) :=
  ⟨⟨tO 8589934592, tX [(1, 131136)], _, issues_of (by decide), rfl⟩,
   ⟨tO 8589934592, tileSet 0 { x := [(1, 131136)], cache := [⟨0, 1, 0, false, true, false⟩] } tS, _, _, issues_of (by decide),
       rfl, rfl, by decide⟩,
   ⟨tO 8589934592, tileSet 0 { x := [(1, 131136)], ctx := 5 } gM, _, _, issues_of (by decide), rfl, rfl, _, _, rfl⟩,
   ⟨0, 0, [], { va := 0, ts := 0, rowBytes := 64, rows := 1, stride := 0, todo := [0] }, _,
       tileSet 0 { ldQ := [{ va := 0, ts := 0, rowBytes := 64, rows := 1, stride := 0, todo := [0] }], ctx := 5 } gM, by decide,
       by decide, rfl⟩,
   ⟨0, [], { va := 0, ts := 0, rowBytes := 64, rows := 1, stride := 0, trans := [⟨0, 1, 0x40000000, false, true, false⟩] }, [],
       _, tileSet 0 { ldQ := [{ va := 0, ts := 0, rowBytes := 64, rows := 1, stride := 0, trans := [⟨0, 1, 0x40000000, false, true, false⟩] }], ctx := 5 } gM, _, rfl, rfl, by decide, by decide, rfl⟩,
   ⟨0, { va := 0, ts := 0, rowBytes := 64, rows := 1, stride := 0 }, [], [],
       tileSet 0 { stQ := [{ va := 0, ts := 0, rowBytes := 64, rows := 1, stride := 0 }] } tS, by decide⟩,
   ⟨0, [], [], tileSet 0 { vecQ := [[]] } tS, by decide⟩,
   ⟨0, 0, { tS with store := [(2, 1)] }, by decide⟩⟩

/-- Witnesses: the hypotheses of each clause of WalkerRequestsComplete are met together. -/
theorem test_witness_WalkerRequestsComplete :
    (∃ tile : Nat, ∃ s : State, (injectHit s 2 (globalTile s tile) (tickOf s (partOfTile s tile)) = false)
        ∧ let p := partOfTile s tile; ∃ r, ∃ b, ∃ k, (nextReq s tile = some r) ∧ (slotBad s tile = false)
        ∧ (layerHeld s p r.layer = false) ∧ (r.op = 1) ∧ (r.layout ≤ 2) ∧ (1 ≤ r.count) ∧ (r.count ≤ 1048576) ∧ (r.scale = 0)
        ∧ (r.addr = 0) ∧ (r.zero = 0) ∧ (r.entry < entryCount s p) ∧ (batchEntry s p r.entry = .ok b)
        ∧ (kvLayout s (kvCache s tile) p (recAt b 32 8) = .ok k) ∧ (r.plane < k.planes) ∧ (r.layer < k.layers)
        ∧ ((r.layout = 0 ∨ 32 ≤ k.tpp r.plane)) ∧ (r.first + r.count ≤ recAt b 8 4))
    ∧ (∃ tile : Nat, ∃ s : State, (injectHit s 2 (globalTile s tile) (tickOf s (partOfTile s tile)) = false)
        ∧ let p := partOfTile s tile; ∃ d, ∃ k, ∃ a, ((bayGet s (bayOf tile)).owed.find? (fun d => d.tile == tile) = some d)
        ∧ (d.slot < syncGet s tile 15 + landSlots (tileGet s tile).ring) ∧ (kvLayout s (kvCache s tile) p d.root = .ok k)
        ∧ (kvPage s (kvCache s tile) p d.root k d.layer d.plane d.page = .ok a)
        ∧ (firstLost s (a + d.first * k.recBytes d.plane) (d.count * k.recBytes d.plane) = none))
    ∧ (∃ tile : Nat, ∃ s : State, (injectHit s 2 (globalTile s tile) (tickOf s (partOfTile s tile)) = false)
        ∧ let p := partOfTile s tile; ∃ r, ∃ b, ∃ k, ∃ es, (nextReq s tile = some r) ∧ (slotBad s tile = false)
        ∧ (layerHeld s p r.layer = false) ∧ (r.op = 2) ∧ (r.layout = 0) ∧ (1 ≤ r.count) ∧ (r.count ≤ 8192) ∧ (r.scale ≠ 255)
        ∧ (r.zero = 0) ∧ (r.addr < 2 ^ 20) ∧ (r.addr % 64 = 0) ∧ (r.entry < entryCount s p) ∧ (batchEntry s p r.entry = .ok b)
        ∧ (kvLayout s (kvCache s tile) p (recAt b 32 8) = .ok k) ∧ (r.plane < k.planes) ∧ (r.layer < k.layers)
        ∧ (regionOk s tile r.addr (r.count * appendSrcBytes k r.plane) = true) ∧ (recAt b 8 4 ≤ r.first)
        ∧ (r.first + r.count ≤ recAt b 8 4 + recAt b 12 4)
        ∧ (walkBad s tile r.addr (r.count * appendSrcBytes k r.plane) = false) ∧ ((List.range r.count).mapM (fun i => do
        let a ← kvPage s (kvCache s tile) p (recAt b 32 8) k r.layer r.plane ((r.first + i) / k.tpp r.plane)
        return ({ kind := .append r.layer, tile := tile, ctx := (tileGet s tile).ctx, va := 0
                  addr := a + (r.first + i) % k.tpp r.plane * k.recBytes r.plane
                  data := appendRecord k r.plane r.scale (storeRead s tile (r.addr + i * appendSrcBytes k r.plane) (appendSrcBytes k r.plane)) } : Staged)) = Except.ok (ε := KvErr) es))
    ∧ (∃ tile : Nat, ∃ s : State, (injectHit s 2 (globalTile s tile) (tickOf s (partOfTile s tile)) = false)
        ∧ let p := partOfTile s tile; ∃ r, ∃ b, (nextReq s tile = some r) ∧ (slotBad s tile = false) ∧ (r.op = 3)
        ∧ (r.layout = 0) ∧ (r.plane = 0) ∧ (r.layer = 0) ∧ (r.first = 0) ∧ (1 ≤ r.count) ∧ (r.count ≤ 64) ∧ (r.scale = 0)
        ∧ (r.zero = 0) ∧ (r.addr < 2 ^ 20) ∧ (r.addr % 64 = 0) ∧ (r.entry < entryCount s p)
        ∧ (regionOk s tile r.addr 512 = true) ∧ (batchEntry s p r.entry = .ok b)
        ∧ (parentsOk (((b.drop 64).take r.count).map (·.toNat)) = true)) :=
  ⟨⟨0, { tileSet 0 { written := [0, 64], ring := 1, sync := [(14, 1)], ctx := 5 } gM with store := [(0x0, 0x1), (0xc, 0x1)] },
      by decide, _, memRead gM 0x80000040 128, ⟨1, 1, 16, [6], [3]⟩, rfl, by decide, by decide, (by decide), by decide,
      by decide, (by decide), by decide, by decide, (by decide), by decide, ok_is (by decide), ok_is (by decide), by decide⟩,
   ⟨0, baySet 0 { owed := [⟨0, 0, 0, 0, 0, 0, 0, 0, 1, 5, 0, 0x50000, true⟩] } gM, by decide, _, ⟨1, 1, 16, [6], [3]⟩, 0x70000,
       rfl, by decide, ok_is (by decide), ok_is (by decide), by decide⟩,
   ⟨0, { tileSet 0 { written := [0, 64], ring := 1, sync := [(14, 1)], ctx := 5 } gM with store := [(0x0, 0x2), (0x8, 0x64), (0xc, 0x1), (0x15, 0x10)] }, by decide, _, memRead gM 0x80000040 128, ⟨1, 1, 16, [6], [3]⟩, [⟨.append 0, 0, 5, 0, 0x71900, List.replicate 64 0, false⟩], rfl, by decide, by decide, (by decide), by decide, by decide, (by decide), by decide, by decide, (by decide), by decide, by decide, ok_is (by decide), ok_is (by decide), by decide, by decide, (by decide), by decide, by decide, (by decide), ok_is (by decide)⟩,
   ⟨0, { tileSet 0 { written := [0, 64], ring := 1, sync := [(14, 1)], ctx := 5 } gM with store := [(0x0, 0x3), (0xc, 0x1), (0x15, 0x10)] }, by decide, _, memRead gM 0x80000040 128, rfl, by decide, by decide, (by decide), by decide, by decide, (by decide), by decide, by decide, (by decide), by decide, by decide, (by decide), by decide, by decide, ok_is (by decide), by decide⟩⟩

/-- Witnesses: the hypotheses of each clause of ContextQueueAndObjectCommandsComplete are met together. -/
theorem test_witness_ContextQueueAndObjectCommandsComplete :
    (∃ id : Nat, ∃ c : Cmd, ∃ s : State, (Starts 0x0101 id c s)
        ∧ let x := bitsAt c.pkt.w1 0 16; let p := bitsAt c.pkt.w1 16 8; (bitsAt c.pkt.w1 24 11 < (if p = 0 then 2048 else 64))
        ∧ (c.pkt.w2 % 4096 = 0) ∧ (c.pkt.w3 % 2048 = 0) ∧ ((ctxGet s x).state = .free) ∧ (inPart s p c.pkt.w2 4096 = true)
        ∧ (inPart s p c.pkt.w3 2048 = true))
    ∧ (∃ id : Nat, ∃ c : Cmd, ∃ s : State, (Starts 0x0102 id c s) ∧ let x := bitsAt c.pkt.w1 0 16; (x ≠ 0)
        ∧ ((ctxGet s x).state = .active ∨ (ctxGet s x).state = .faulted))
    ∧ (∃ id : Nat, ∃ c : Cmd, ∃ s : State, (Starts 0x0103 id c s) ∧ let k := ctxGet s (bitsAt c.pkt.w1 0 16); (k.state = .free))
    ∧ (∃ id : Nat, ∃ c : Cmd, ∃ s : State, (Starts 0x0103 id c s) ∧ let k := ctxGet s (bitsAt c.pkt.w1 0 16); (k.state ≠ .free))
    ∧ (∃ id : Nat, ∃ c : Cmd, ∃ s : State, ∃ va : Nat, ∃ word : Nat, ∃ host : Bool, (Starts 0x0110 id c s)
        ∧ let w := c.pkt.w1; let x := bitsAt w 43 16; let p := (ctxGet s x).part; let tp := (ctxGet s c.pkt.ctx).part; let size := 2 ^ bitsAt w 23 5 * entryBytes (bitsAt w 20 3); (2 ≤ bitsAt w 0 20) ∧ (x ≠ 0) ∧ (1 ≤ bitsAt w 20 3) ∧ (bitsAt w 20 3 ≤ 4) ∧ (4 ≤ bitsAt w 23 5) ∧ (bitsAt w 23 5 ≤ 16) ∧ ((ctxGet s x).state = .active ∨ (ctxGet s x).state = .faulted) ∧ (mayName s c x = true) ∧ ((queueGet s (bitsAt w 0 20)).kind = 0) ∧ (queueRange s p (bitsAt w 0 20) = true) ∧ (bitsAt w 29 11 < (if p = 0 then 2048 else 64)) ∧ ((if bitsAt w 20 3 = 2 then cplRingFail s c x c.pkt.w3 = none else c.pkt.w3 = 0)) ∧ (orefRange s tp c.pkt.w2 size = .ok (x, va)) ∧ (va % min size 65536 = 0) ∧ ((if 3 ≤ bitsAt w 20 3 then orefRange s tp c.pkt.w4 8 = .ok (x, word) ∧ word % 8 = 0 ∧ vaWritable s x word 8 = true else c.pkt.w4 = 0 ∧ word = 0)) ∧ (objFull s tp (orefNum c.pkt.w2) = false) ∧ (queuePages s x va size = some host) ∧ ((host = true → 3 ≤ bitsAt w 20 3)))
    ∧ (∃ id : Nat, ∃ c : Cmd, ∃ s : State, (Starts 0x0111 id c s)
        ∧ let q := bitsAt c.pkt.w1 0 20; let d := queueGet s q; (2 ≤ q) ∧ (d.kind ≠ 0) ∧ (mayName s c d.ctx = true)
        ∧ ((d.kind = 3 → s.queues.any (fun e => e.2.kind == 2 && e.2.cplRing == q) = false)))
    ∧ (∃ id : Nat, ∃ c : Cmd, ∃ s : State, (Starts 0x0112 id c s) ∧ let d := queueGet s (bitsAt c.pkt.w1 0 20); (d.kind ≠ 0)
        ∧ (mayName s c d.ctx = true))
    ∧ (∃ id : Nat, ∃ c : Cmd, ∃ s : State, (Starts 0x0120 id c s)
        ∧ let p := bitsAt c.pkt.w1 0 8; let n := bitsAt c.pkt.w1 8 5; (10 ≤ n) ∧ (n ≤ 20) ∧ (c.pkt.w2 % 65536 = 0)
        ∧ ((partGet s p).enabled = false) ∧ (inPart s p c.pkt.w2 (2 ^ n * 32) = true))
    ∧ (∃ id : Nat, ∃ c : Cmd, ∃ s : State, ∃ e : ObjE, (Starts 0x0121 id c s)
        ∧ let n := bitsAt c.pkt.w1 0 20; let x := bitsAt c.pkt.w1 20 16; let p := (ctxGet s x).part; (x ≠ 0)
        ∧ (c.pkt.w2 % 65536 = 0) ∧ (c.pkt.w3 % 65536 = 0) ∧ (65536 ≤ c.pkt.w3) ∧ (c.pkt.w3 ≤ 2 ^ 40)
        ∧ (c.pkt.w2 + c.pkt.w3 ≤ 2 ^ 57) ∧ ((ctxGet s x).state = .active ∨ (ctxGet s x).state = .faulted)
        ∧ (mayName s c x = true) ∧ (objFail s p n = none) ∧ (objGet s p n = some e) ∧ (e.state = 0))
    ∧ (∃ id : Nat, ∃ c : Cmd, ∃ s : State, ∃ e : ObjE, (Starts 0x0122 id c s)
        ∧ let n := bitsAt c.pkt.w1 0 20; let p := (ctxGet s c.pkt.ctx).part; (objFail s p n = none) ∧ (objGet s p n = some e)
        ∧ (e.state = 1) ∧ ((c.strict = true → e.ctx = c.pkt.ctx)))
    ∧ (∃ id : Nat, ∃ c : Cmd, ∃ s : State, ∃ e : ObjE, (Starts 0x0123 id c s)
        ∧ let n := bitsAt c.pkt.w1 0 20; let p := (ctxGet s c.pkt.ctx).part; (objFail s p n = none) ∧ (objGet s p n = some e)
        ∧ ((c.strict = true → e.state ≠ 0 → e.ctx = c.pkt.ctx))) :=
  ⟨⟨7, (gF 0x101 3 65542 4096 2048), gS (gF 0x101 3 65542 4096 2048) gM, ⟨rfl, rfl, rfl, by decide, by decide⟩, by decide⟩,
   ⟨7, (gF 0x102 1 5 0 0), gS (gF 0x102 1 5 0 0) gM, ⟨rfl, rfl, rfl, by decide, by decide⟩, by decide⟩,
   ⟨7, (gC 0x103 1 6 0 0 0 0), gS (gC 0x103 1 6 0 0 0 0) gM, ⟨rfl, rfl, rfl, by decide, by decide⟩, by decide⟩,
   ⟨7, (gC 0x103 1 5 0 0 0 0), gS (gC 0x103 1 5 0 0 0 0) gM, ⟨rfl, rfl, rfl, by decide, by decide⟩, by decide⟩,
   ⟨7, (gC 0x110 4 43980499715049 1 0 0 0), gS (gC 0x110 4 43980499715049 1 0 0 0) gM, 0, 0, false, ⟨rfl, rfl, rfl, by decide,
       by decide⟩, by decide, by decide, (by decide), by decide, by decide, (by decide), by decide, by decide, (by decide),
       by decide, by decide, (by rw [if_neg (by decide)]; decide), rfl, by decide, (by rw [if_neg (by decide)]; decide),
       by decide⟩,
   ⟨7, (gC 0x111 1 1000 0 0 0 0), gS (gC 0x111 1 1000 0 0 0 0) gM, ⟨rfl, rfl, rfl, by decide, by decide⟩, by decide⟩,
   ⟨7, (gC 0x112 1 512 0 0 0 0), gS (gC 0x112 1 512 0 0 0 0) gM, ⟨rfl, rfl, rfl, by decide, by decide⟩, by decide⟩,
   ⟨7, (gF 0x120 2 2561 65536 0), gS (gF 0x120 2 2561 65536 0) gM, ⟨rfl, rfl, rfl, by decide, by decide⟩, by decide⟩,
   ⟨7, (gC 0x121 3 5242882 0 65536 0 0), gS (gC 0x121 3 5242882 0 65536 0 0) gM, ⟨0, 0, 0, 0, 0, 0⟩, ⟨rfl, rfl, rfl, by decide,
       by decide⟩, by decide⟩,
   ⟨7, (gC 0x122 1 1 0 0 0 0), gS (gC 0x122 1 1 0 0 0 0) gM, ⟨1, 1, 5, 0, 0, 67108864⟩, ⟨rfl, rfl, rfl, by decide, by decide⟩,
       by decide⟩,
   ⟨7, (gC 0x123 1 1 0 0 0 0), gS (gC 0x123 1 1 0 0 0 0) gM, ⟨1, 1, 5, 0, 0, 67108864⟩, ⟨rfl, rfl, rfl, by decide, by decide⟩,
       by decide⟩⟩

/-- Witnesses: the hypotheses of each clause of FenceCommandsComplete are met together. -/
theorem test_witness_FenceCommandsComplete :
    (∃ id : Nat, ∃ c : Cmd, ∃ s : State, ∃ x : Nat, ∃ va : Nat, ∃ n : Nat, ∃ l : Leaf, (Starts 0x0130 id c s)
        ∧ let p := (ctxGet s c.pkt.ctx).part; (orefRange s p c.pkt.w1 8 = .ok (x, va)) ∧ (va % 8 = 0) ∧ (c.pkt.w2 ≤ 2 ^ 63 - 1)
        ∧ (walk s x va = .ok l) ∧ (x ≠ 0) ∧ (l.write = true) ∧ (l.pinned = true)
        ∧ ((l.host = true → hostPinned s p (l.at va) = true)) ∧ (objFull s p (orefNum c.pkt.w1) = false) ∧ (freeFence s = some n))
    ∧ (∃ id : Nat, ∃ c : Cmd, ∃ s : State, ∃ f : Fence, (Starts 0x0131 id c s)
        ∧ let n := bitsAt c.pkt.w1 0 18; (Map.get? s.fences n = some f) ∧ (mayName s c f.ctx = true) ∧ ((∀ d ∈ s.cmds,
        bitsAt d.pkt.w1 0 18 = n → ∀ timed, d.step ≠ .fence timed)))
    ∧ (∃ id : Nat, ∃ c : Cmd, ∃ s : State, ∃ f : Fence, (Starts 0x0132 id c s)
        ∧ (Map.get? s.fences (bitsAt c.pkt.w1 0 18) = some f) ∧ (mayName s c f.ctx = true))
    ∧ (∃ id : Nat, ∃ c : Cmd, ∃ s : State, (Starts 0x0320 id c s) ∧ let n := bitsAt c.pkt.w1 0 18; ((∀ f,
        Map.get? s.fences n = some f → mayName s c f.ctx = true)))
    ∧ (∃ id : Nat, ∃ c : Cmd, ∃ s : State, ∃ f : Fence, (Starts 0x0321 id c s)
        ∧ (Map.get? s.fences (bitsAt c.pkt.w1 0 18) = some f) ∧ (mayName s c f.ctx = true) ∧ (bitsAt c.pkt.w2 0 63 ≤ f.value))
    ∧ (∃ id : Nat, ∃ c : Cmd, ∃ s : State, ∃ f : Fence, (Starts 0x0321 id c s)
        ∧ (Map.get? s.fences (bitsAt c.pkt.w1 0 18) = some f) ∧ (mayName s c f.ctx = true) ∧ (f.value < bitsAt c.pkt.w2 0 63)
        ∧ (f.abandoned = true))
    ∧ (∃ id : Nat, ∃ c : Cmd, ∃ s : State, ∃ f : Fence, (Starts 0x0321 id c s)
        ∧ (Map.get? s.fences (bitsAt c.pkt.w1 0 18) = some f) ∧ (mayName s c f.ctx = true) ∧ (f.value < bitsAt c.pkt.w2 0 63)
        ∧ (f.abandoned = false))
    ∧ (∃ id : Nat, ∃ c : Cmd, ∃ s : State, ∃ f : Fence, (s.Holds id c) ∧ (c.step = .fence true)
        ∧ (Map.get? s.fences (bitsAt c.pkt.w1 0 18) = some f)) :=
  ⟨⟨7, (gC 0x130 2 1 0 0 0 0), gS (gC 0x130 2 1 0 0 0 0) gM, 5, 0, 0, ⟨0x40000000, 16384, 0, true, true, false⟩, ⟨rfl, rfl, rfl,
      by decide, by decide⟩, ok_is (by decide), by decide, by decide, ok_is (by decide), by decide⟩,
   ⟨7, (gC 0x131 1 0 0 0 0 0), gS (gC 0x131 1 0 0 0 0 0) { gM with fences := [(0, { addr := 0x40000000, host := false, ctx := 5, value := 3, abandoned := false, obj := (1, 1) })] }, { addr := 0x40000000, host := false, ctx := 5, value := 3, abandoned := false, obj := (1, 1) }, ⟨rfl, rfl, rfl, by decide, by decide⟩, by decide⟩,
   ⟨7, (gC 0x132 1 0 0 0 0 0), gS (gC 0x132 1 0 0 0 0 0) { gM with fences := [(0, { addr := 0x40000000, host := false, ctx := 5, value := 3, abandoned := false, obj := (1, 1) })] }, { addr := 0x40000000, host := false, ctx := 5, value := 3, abandoned := false, obj := (1, 1) }, ⟨rfl, rfl, rfl, by decide, by decide⟩, by decide⟩,
   ⟨7, (gC 0x320 2 0 0 0 0 0), gS (gC 0x320 2 0 0 0 0 0) { gM with fences := [(0, { addr := 0x40000000, host := false, ctx := 5, value := 3, abandoned := false, obj := (1, 1) })] }, ⟨rfl, rfl, rfl, by decide, by decide⟩, (fun f h => by cases (show some ({ addr := 0x40000000, host := false, ctx := 5, value := 3, abandoned := false, obj := (1, 1) } : Fence) = some f from h); decide)⟩,
   ⟨7, (gC 0x321 3 0 3 0 0 0), gS (gC 0x321 3 0 3 0 0 0) { gM with fences := [(0, { addr := 0x40000000, host := false, ctx := 5, value := 3, abandoned := false, obj := (1, 1) })] }, { addr := 0x40000000, host := false, ctx := 5, value := 3, abandoned := false, obj := (1, 1) }, ⟨rfl, rfl, rfl, by decide, by decide⟩, by decide⟩,
   ⟨7, (gC 0x321 3 0 5 0 0 0), gS (gC 0x321 3 0 5 0 0 0) { gM with fences := [(0, { addr := 0x40000000, host := false, ctx := 5, value := 3, abandoned := true, obj := (1, 1) })] }, { addr := 0x40000000, host := false, ctx := 5, value := 3, abandoned := true, obj := (1, 1) }, ⟨rfl, rfl, rfl, by decide, by decide⟩, by decide⟩,
   ⟨7, (gC 0x321 3 0 5 0 0 0), gS (gC 0x321 3 0 5 0 0 0) { gM with fences := [(0, { addr := 0x40000000, host := false, ctx := 5, value := 3, abandoned := false, obj := (1, 1) })] }, { addr := 0x40000000, host := false, ctx := 5, value := 3, abandoned := false, obj := (1, 1) }, ⟨rfl, rfl, rfl, by decide, by decide⟩, by decide⟩,
   ⟨7, { gC 0x321 3 0 5 0 0 0 with step := .fence true },
       gS { gC 0x321 3 0 5 0 0 0 with step := .fence true } { gM with fences := [(0, { addr := 0x40000000, host := false, ctx := 5, value := 3, abandoned := false, obj := (1, 1) })] }, { addr := 0x40000000, host := false, ctx := 5, value := 3, abandoned := false, obj := (1, 1) }, rfl, by decide⟩⟩

/-- Witnesses: the hypotheses of each clause of QueueTrafficCommandsComplete are met together. -/
theorem test_witness_QueueTrafficCommandsComplete :
    (∃ port : Nat, ∃ fn : Nat, ∃ off : Nat, ∃ d : Nat, ∃ ide : Bool, ∃ v : Word, ∃ s : State,
        (fon s F.hostpPortStatus_contained port = false) ∧ (inD3 s port fn = false)
        ∧ ((fget s F.partSec_tdisp fn = 2 → ide = true)) ∧ (hubReady s = true) ∧ (fon s F.hostpDbpt_enable 0 = true)
        ∧ (off % 8 = 0) ∧ (doorbellPage s fn (off / 4096) = some d)
        ∧ let e := memNat s (fget s F.hostpDbpt_base 0 * 65536 + d * 8) 8; let q := bitsAt e 17 11 * 512 + off % 4096 / 8; (lostSector s (fget s F.hostpDbpt_base 0 * 65536 + d * 8) 8 = false) ∧ (bitOn e 0 = true) ∧ (bitsAt e 28 8 = fn) ∧ ((strictMode s = true → (queueGet s q).ctx = bitsAt e 1 16)) ∧ (v.toNat < 2 ^ 32) ∧ ((queueGet s q).state = 1) ∧ ((ctxGet s (queueGet s q).ctx).state ≠ .dying) ∧ ((queueGet s q).kind ≤ 2) ∧ (diff32 (queueGet s q).pidx (queueGet s q).cidx ≤ diff32 v.toNat (queueGet s q).cidx) ∧ (diff32 v.toNat (queueGet s q).cidx ≤ 2 ^ (queueGet s q).log2))
    ∧ (∃ port : Nat, ∃ fn : Nat, ∃ off : Nat, ∃ d : Nat, ∃ ide : Bool, ∃ v : Word, ∃ s : State,
        (fon s F.hostpPortStatus_contained port = false) ∧ (inD3 s port fn = false)
        ∧ ((fget s F.partSec_tdisp fn = 2 → ide = true)) ∧ (hubReady s = true) ∧ (fon s F.hostpDbpt_enable 0 = true)
        ∧ (off % 8 = 0) ∧ (doorbellPage s fn (off / 4096) = some d)
        ∧ let e := memNat s (fget s F.hostpDbpt_base 0 * 65536 + d * 8) 8; let q := bitsAt e 17 11 * 512 + off % 4096 / 8; (lostSector s (fget s F.hostpDbpt_base 0 * 65536 + d * 8) 8 = false) ∧ (bitOn e 0 = true) ∧ (bitsAt e 28 8 = fn) ∧ ((strictMode s = true → (queueGet s q).ctx = bitsAt e 1 16)) ∧ (v.toNat < 2 ^ 32) ∧ ((queueGet s q).state = 1) ∧ ((ctxGet s (queueGet s q).ctx).state ≠ .dying) ∧ (3 ≤ (queueGet s q).kind) ∧ (diff32 v.toNat (queueGet s q).cidx ≤ diff32 (queueGet s q).pidx (queueGet s q).cidx))
    ∧ (∃ q : Nat, ∃ a : Nat, ∃ s : State, (canFetch s q = true) ∧ (queueSlot s q (queueGet s q).cidx = some (false, a))
        ∧ (lostSector s a 64 = false))
    ∧ (∃ x : Nat, ∃ s : State, ((ctxGet s x).state = .dying) ∧ (x ≠ 0) ∧ (contextBusy s x = false))
    ∧ (∃ q : Nat, (q < 2))
    ∧ (∃ q : Nat, ∃ s : State, ((queueGet s q).irqWait = true))
    ∧ (∃ s : State, (s.errIrqWait = true)) :=
  ⟨⟨0, 1, 0, 0, false, 1, fset F.hostpDbpt_enable 0 1 (fset F.hostpDbpt_base 0 16 (fset F.hostfBind_dbCount 1 1 gM)), by decide,
      by decide, (by decide), by decide, by decide, (by decide), by decide, by decide⟩,
   ⟨0, 1, 8, 0, false, 0, fset F.hostpDbpt_enable 0 1 (fset F.hostpDbpt_base 0 16 (fset F.hostfBind_dbCount 1 1 gM)), by decide,
       by decide, (by decide), by decide, by decide, (by decide), by decide, by decide⟩,
   ⟨512, 0x40000000, queueMod 512 (fun d => { d with pidx := 1 }) gM, by decide, rfl, by decide⟩,
   ⟨5, ctxMod 5 (fun k => { k with state := .dying }) gM, by decide⟩,
   ⟨0, by decide⟩,
   ⟨512, queueMod 512 (fun d => { d with irqWait := true }) gM, by decide⟩,
   ⟨{ errIrqWait := true }, by decide⟩⟩

/-- Witnesses: the hypotheses of each clause of MoverAndInvalidationCommandsComplete are met together. -/
theorem test_witness_MoverAndInvalidationCommandsComplete :
    (∃ id : Nat, ∃ c : Cmd, ∃ m : Move, ∃ s : State, (moveOf s c = .ok m) ∧ (firstBad s m.pages = none) ∧ (Starts 0x0201 id c s))
    ∧ (∃ id : Nat, ∃ c : Cmd, ∃ m : Move, ∃ s : State, (moveOf s c = .ok m) ∧ (firstBad s m.pages = none)
        ∧ (Starts 0x0202 id c s))
    ∧ (∃ id : Nat, ∃ n : Nat, ∃ c : Cmd, ∃ m : Move, ∃ host : List Byte, ∃ s : State, ∃ t : State, (s.Holds id c)
        ∧ (c.step = .running) ∧ (c.pkt.opcode = 0x0201 ∨ c.pkt.opcode = 0x0202) ∧ (moveOf s c = .ok m) ∧ (moveHeld s m = false)
        ∧ (moveLoop c m (m.bytes / 64 + 1) 0 host s = (n, none, t)))
    ∧ (∃ id : Nat, ∃ c : Cmd, ∃ d : Cmd, ∃ r : FaultRec, ∃ s : State, (Starts 0x0105 id c s)
        ∧ let x := bitsAt c.pkt.w1 0 16; let seq := bitsAt c.pkt.w1 16 32; let act := bitsAt c.pkt.w1 48 2; let t := if bitOn c.pkt.w1 50 then ctxMod x (fun k => { k with ovf := false }) s else s; let a := answer x seq t; ((ctxGet s x).state ≠ .free) ∧ ((ctxGet t x).awaiting.find? (fun r => r.seq == seq && !r.answered) = some r) ∧ (r.mover = true) ∧ (act ≤ 1) ∧ (a.cmds.find? (fun d => d.step == .parked x seq) = some d) ∧ (act = 0))
    ∧ (∃ id : Nat, ∃ c : Cmd, ∃ d : Cmd, ∃ r : FaultRec, ∃ s : State, (Starts 0x0105 id c s)
        ∧ let x := bitsAt c.pkt.w1 0 16; let seq := bitsAt c.pkt.w1 16 32; let act := bitsAt c.pkt.w1 48 2; let t := if bitOn c.pkt.w1 50 then ctxMod x (fun k => { k with ovf := false }) s else s; let a := answer x seq t; ((ctxGet s x).state ≠ .free) ∧ ((ctxGet t x).awaiting.find? (fun r => r.seq == seq && !r.answered) = some r) ∧ (r.mover = true) ∧ (act ≤ 1) ∧ (a.cmds.find? (fun d => d.step == .parked x seq) = some d) ∧ (act = 1))
    ∧ (∃ id : Nat, ∃ c : Cmd, ∃ r : FaultRec, ∃ s : State, (Starts 0x0105 id c s)
        ∧ let x := bitsAt c.pkt.w1 0 16; let seq := bitsAt c.pkt.w1 16 32; let act := bitsAt c.pkt.w1 48 2; let t := if bitOn c.pkt.w1 50 then ctxMod x (fun k => { k with ovf := false }) s else s; let a := answer x seq t; ((ctxGet s x).state ≠ .free) ∧ ((ctxGet t x).awaiting.find? (fun r => r.seq == seq && !r.answered) = some r) ∧ (r.mover = false) ∧ (act = 2) ∧ (a.cmds.find? (fun d => d.step == .parked x seq) = none))
    ∧ (∃ id : Nat, ∃ x : Nat, ∃ va : Nat, ∃ c : Cmd, ∃ m : Move, ∃ s : State, (Starts 0x0204 id c s) ∧ (moveOf s c = .ok m)
        ∧ (m.src = some (x, va)) ∧ (firstBad s m.pages = none) ∧ 
let t : State := { s with pins := s.pins
      ++ (pinsOf s x va m.bytes).filter fun k => !(s.pins.any fun j => j.ctx == k.ctx && j.page == k.page) }
let port := boundPort s (ctxGet s x).part; ((t.atc.filter fun e => e.port == port && atcPinned t e).length ≤ 65536))
    ∧ (∃ id : Nat, ∃ x : Nat, ∃ va : Nat, ∃ c : Cmd, ∃ s : State, (Starts 0x0205 id c s)
        ∧ (orefRange s (ctxGet s c.pkt.ctx).part c.pkt.w1 c.pkt.w2 = .ok (x, va)) ∧ (c.pkt.w2 ≠ 0))
    ∧ (∃ log2 : Nat, ∃ s : State, (12 ≤ log2) ∧ (log2 ≤ 30) ∧ (s.cmds.filter (·.step == .ats) = []))
    ∧ (∃ id : Nat, ∃ c : Cmd, ∃ s : State, (Starts 0x0203 id c s) ∧ let x := bitsAt c.pkt.w1 0 16; (x ≠ 0)
        ∧ (c.pkt.w2 % 65536 = 0) ∧ (c.pkt.w3 % 65536 = 0) ∧ (c.pkt.w2 + c.pkt.w3 ≤ 2 ^ 57) ∧ (c.pkt.w3 ≠ 0)
        ∧ ((ctxGet s x).state ≠ .free) ∧ (mayName s c x = true))
    ∧ (∃ id : Nat, ∃ e : Nat, ∃ tick : Nat, ∃ p : Nat, ∃ live : Bool, ∃ c : Cmd, ∃ s : State, (s.Holds id c)
        ∧ (c.step = .drain e tick p live) ∧ (drained s e tick p live = true)) :=
  ⟨⟨7, (gC 0x201 4 1 4294967297 64 0 0), ⟨some (5, 0), some (5, 4096), 64⟩, gS (gC 0x201 4 1 4294967297 64 0 0) gM,
      ok_is (by decide), by decide, ⟨rfl, rfl, rfl, by decide, by decide⟩⟩,
   ⟨7, (gC 0x202 3 1 64 0 0 0), ⟨none, some (5, 0), 64⟩, gS (gC 0x202 3 1 64 0 0 0) gM, ok_is (by decide), by decide, ⟨rfl, rfl,
       rfl, by decide, by decide⟩⟩,
   ⟨7, 64, { gC 0x201 4 1 4294967297 64 0 0 with step := .running }, ⟨some (5, 0), some (5, 4096), 64⟩, [],
       gS { gC 0x201 4 1 4294967297 64 0 0 with step := .running } gM, _, rfl, by decide, by decide, ok_is (by decide),
       by decide, rfl⟩,
   ⟨7, (gF 0x105 1 5 0 0), ({ gC 0x201 4 1 4294967297 64 0 0 with id := 8, step := .parked 5 0 }),
       { seq := 0, mover := true, cmd := 8 },
       { ctxMod 5 (fun k => { k with awaiting := [{ seq := 0, mover := true, cmd := 8 }] }) gM with cmds := [(gF 0x105 1 5 0 0), ({ gC 0x201 4 1 4294967297 64 0 0 with id := 8, step := .parked 5 0 })] }, ⟨rfl, rfl, rfl, by decide, by decide⟩, by decide⟩,
   ⟨7, (gF 0x105 1 281474976710661 0 0), ({ gC 0x201 4 1 4294967297 64 0 0 with id := 8, step := .parked 5 0 }),
       { seq := 0, mover := true, cmd := 8 },
       { ctxMod 5 (fun k => { k with awaiting := [{ seq := 0, mover := true, cmd := 8 }] }) gM with cmds := [(gF 0x105 1 281474976710661 0 0), ({ gC 0x201 4 1 4294967297 64 0 0 with id := 8, step := .parked 5 0 })] }, ⟨rfl, rfl, rfl, by decide, by decide⟩, by decide⟩,
   ⟨7, (gF 0x105 1 562949953421317 0 0), { seq := 0, mover := false, cmd := 8 },
       { ctxMod 5 (fun k => { k with awaiting := [{ seq := 0, mover := false, cmd := 8 }] }) gM with cmds := [(gF 0x105 1 562949953421317 0 0)] }, ⟨rfl, rfl, rfl, by decide, by decide⟩, by decide⟩,
   ⟨7, 5, 0, (gC 0x204 2 1 64 0 0 0), ⟨some (5, 0), none, 64⟩, gS (gC 0x204 2 1 64 0 0 0) gM, ⟨rfl, rfl, rfl, by decide,
       by decide⟩, ok_is (by decide), by decide, by decide, by decide⟩,
   ⟨7, 5, 0, (gC 0x205 2 1 64 0 0 0), gS (gC 0x205 2 1 64 0 0 0) gM, ⟨rfl, rfl, rfl, by decide, by decide⟩, ok_is (by decide),
       by decide⟩,
   ⟨16, gM, by decide⟩,
   ⟨7, (gC 0x203 3 5 0 65536 0 0), gS (gC 0x203 3 5 0 65536 0 0) gM, ⟨rfl, rfl, rfl, by decide, by decide⟩, by decide⟩,
   ⟨7, 0, 0, 1, false, { gC 0x203 3 5 0 65536 0 0 with step := .drain 0 0 1 false },
       gS { gC 0x203 3 5 0 65536 0 0 with step := .drain 0 0 1 false } gM, rfl, by decide⟩⟩

/-- Witnesses: the hypotheses of each clause of TickAndSessionCommandsComplete are met together. -/
theorem test_witness_TickAndSessionCommandsComplete :
    (∃ id : Nat, ∃ c : Cmd, ∃ r : TickRec, ∃ s : State, (Starts 0x0301 id c s)
        ∧ let p := bitsAt c.pkt.w1 0 8; ((partGet s p).enabled = false) ∧ (fget s F.partSec_tdisp p ≠ 1)
        ∧ (fget s F.partSec_tdisp p ≠ 2) ∧ (lostSector s c.pkt.w2 64 = false) ∧ (tickRecOf (memRead s c.pkt.w2 64) = some r)
        ∧ (tickRecIn s p r = true))
    ∧ (∃ id : Nat, ∃ c : Cmd, ∃ s : State, (Starts 0x0104 id c s) ∧ let x := bitsAt c.pkt.w1 0 16; ((ctxGet s x).state ≠ .free)
        ∧ (willApply s (ctxGet s x).part = true))
    ∧ (∃ id : Nat, ∃ c : Cmd, ∃ s : State, (Starts 0x0104 id c s) ∧ let x := bitsAt c.pkt.w1 0 16; ((ctxGet s x).state ≠ .free)
        ∧ (willApply s (ctxGet s x).part = false) ∧ ((ctxGet s x).state = .faulted))
    ∧ (∃ id : Nat, ∃ q : Nat, ∃ p : Nat, ∃ c : Cmd, ∃ r : TickRec, ∃ s : State, (sessQueue s c = .ok (q, p, r)) ∧ ∃ op,
        (op = 0x0303 ∨ op = 0x0304 ∨ op = 0x0305) ∧ (Starts op id c s) ∧ ((op = 0x0303 → bitsAt c.pkt.w2 8 8 ≤ 64))
        ∧ (willApply s p = true))
    ∧ (∃ id : Nat, ∃ q : Nat, ∃ p : Nat, ∃ c : Cmd, ∃ r : TickRec, ∃ s : State, (sessQueue s c = .ok (q, p, r))
        ∧ (Starts 0x0303 id c s) ∧ (bitsAt c.pkt.w2 8 8 ≤ 64) ∧ (willApply s p = false) ∧ ((sessGet s r q).mode = 0))
    ∧ (∃ id : Nat, ∃ q : Nat, ∃ p : Nat, ∃ c : Cmd, ∃ r : TickRec, ∃ s : State, (sessQueue s c = .ok (q, p, r))
        ∧ (Starts 0x0304 id c s) ∧ (willApply s p = false)
        ∧ let x := sessGet s r q; (x.c + (if x.mode = 1 then min x.remaining 8192 else 1 + x.maxDrafts) ≤ bitsAt c.pkt.w2 0 32))
    ∧ (∃ id : Nat, ∃ q : Nat, ∃ p : Nat, ∃ c : Cmd, ∃ r : TickRec, ∃ s : State, (sessQueue s c = .ok (q, p, r))
        ∧ (Starts 0x0305 id c s) ∧ (willApply s p = false) ∧ let x := sessGet s r q; (x.mode = 0 ∨ x.mode = 3))
    ∧ (∃ id : Nat, ∃ q : Nat, ∃ p : Nat, ∃ c : Cmd, ∃ r : TickRec, ∃ s : State, (sessQueue s c = .ok (q, p, r))
        ∧ (Starts 0x0306 id c s))
    ∧ (∃ id : Nat, ∃ q : Nat, ∃ p : Nat, ∃ c : Cmd, ∃ r : TickRec, ∃ s : State, (sessQueue s c = .ok (q, p, r))
        ∧ let v := kvCmdOf c.pkt; (Starts 0x0311 id c s) ∧ (v.lo ≤ v.hi) ∧ (v.count ≠ 0) ∧ (willApply s p = true))
    ∧ (∃ id : Nat, ∃ q : Nat, ∃ p : Nat, ∃ c : Cmd, ∃ r : TickRec, ∃ s : State, (sessQueue s c = .ok (q, p, r)) ∧ ∃ k : KvLayout,
        ∃ addrs : List Nat, let v := kvCmdOf c.pkt; let root := (sessGet s r q).kvRoot; (Starts 0x0311 id c s) ∧ (v.lo ≤ v.hi)
        ∧ (v.count ≠ 0) ∧ (willApply s p = false) ∧ (kvLayout s [] p root = .ok k) ∧ (v.plane < k.planes) ∧ (v.hi < k.layers)
        ∧ (v.first + v.count ≤ (if v.spine then k.spineLen else k.spineLen * 64))
        ∧ ((sessGet s r q).reserve ≤ v.first * (k.tpp v.plane * (if v.spine then 64 else 1)))
        ∧ (kvCmdAddrs s p root k v = .ok addrs))
    ∧ (∃ id : Nat, ∃ q : Nat, ∃ p : Nat, ∃ c : Cmd, ∃ r : TickRec, ∃ s : State, (sessQueue s c = .ok (q, p, r)) ∧ ∃ x : Nat,
        ∃ va : Nat, ∃ host : List Byte, ∃ bs : List Byte, let v := kvCmdOf c.pkt; (Starts 0x0310 id c s) ∧ (v.lo ≤ v.hi)
        ∧ (v.count ≠ 0) ∧ (orefRange s (ctxGet s c.pkt.ctx).part c.pkt.w3 (v.entries * 8) = .ok (x, va))
        ∧ (vaRead s x (piecesOf va (v.entries * 8)) host = .ok bs) ∧ (willApply s p = true))
    ∧ (∃ id : Nat, ∃ q : Nat, ∃ p : Nat, ∃ c : Cmd, ∃ r : TickRec, ∃ s : State, (sessQueue s c = .ok (q, p, r)) ∧ ∃ k : KvLayout,
        ∃ x : Nat, ∃ va : Nat, ∃ host : List Byte, ∃ bs : List Byte, ∃ addrs : List Nat,
        let v := kvCmdOf c.pkt; let root := (sessGet s r q).kvRoot; (Starts 0x0310 id c s) ∧ (v.lo ≤ v.hi) ∧ (v.count ≠ 0)
        ∧ (orefRange s (ctxGet s c.pkt.ctx).part c.pkt.w3 (v.entries * 8) = .ok (x, va))
        ∧ (vaRead s x (piecesOf va (v.entries * 8)) host = .ok bs) ∧ (willApply s p = false) ∧ (kvLayout s [] p root = .ok k)
        ∧ (v.plane < k.planes) ∧ (v.hi < k.layers) ∧ (v.first + v.count ≤ (if v.spine then k.spineLen else k.spineLen * 64))
        ∧ (kvCmdAddrs s p root k v = .ok addrs))
    ∧ (∃ id : Nat, ∃ x : Nat, ∃ va : Nat, ∃ x' : Nat, ∃ va' : Nat, ∃ c : Cmd, ∃ host : List Byte, ∃ hd : List Byte,
        ∃ img : List Byte, ∃ s : State, (Starts 0x0302 id c s) ∧ let p := (ctxGet s c.pkt.ctx).part; (bitsAt c.pkt.w2 0 4 ≤ 8)
        ∧ (bitsAt c.pkt.w2 4 6 ≤ bitsAt c.pkt.w2 10 6) ∧ (bitsAt c.pkt.w3 4 4 = 0) ∧ (bitsAt c.pkt.w3 23 41 = 0)
        ∧ ((progBays c.pkt).all (fun b => partOfBay s b == some p) = true) ∧ (orefRange s p c.pkt.w1 64 = .ok (x, va))
        ∧ (vaRead s x (piecesOf va 64) host = .ok hd) ∧ (1 ≤ recAt hd 2 2) ∧ (recAt hd 2 2 ≤ 16)
        ∧ (orefRange s p c.pkt.w1 (recAt hd 2 2 * 65536) = .ok (x', va'))
        ∧ (vaRead s x' (piecesOf va' (recAt hd 2 2 * 65536)) host = .ok img) ∧ (willApply s p = true))
    ∧ (∃ id : Nat, ∃ x : Nat, ∃ va : Nat, ∃ x' : Nat, ∃ va' : Nat, ∃ c : Cmd, ∃ host : List Byte, ∃ hd : List Byte,
        ∃ img : List Byte, ∃ s : State, (Starts 0x0302 id c s) ∧ let p := (ctxGet s c.pkt.ctx).part; (bitsAt c.pkt.w2 0 4 ≤ 8)
        ∧ (bitsAt c.pkt.w2 4 6 ≤ bitsAt c.pkt.w2 10 6) ∧ (bitsAt c.pkt.w3 4 4 = 0) ∧ (bitsAt c.pkt.w3 23 41 = 0)
        ∧ ((progBays c.pkt).all (fun b => partOfBay s b == some p) = true) ∧ (orefRange s p c.pkt.w1 64 = .ok (x, va))
        ∧ (vaRead s x (piecesOf va 64) host = .ok hd) ∧ (1 ≤ recAt hd 2 2) ∧ (recAt hd 2 2 ≤ 16)
        ∧ (orefRange s p c.pkt.w1 (recAt hd 2 2 * 65536) = .ok (x', va'))
        ∧ (vaRead s x' (piecesOf va' (recAt hd 2 2 * 65536)) host = .ok img) ∧ (willApply s p = false)) :=
  ⟨⟨7, (gF 0x301 2 1 589824 0), gR, gS (gF 0x301 2 1 589824 0) gM, ⟨rfl, rfl, rfl, by decide, by decide⟩, by decide⟩,
   ⟨7, (gF 0x104 1 5 0 0), gS (gF 0x104 1 5 0 0) (partMod 1 (fun w => { w with enabled := true }) gM), ⟨rfl, rfl, rfl, by decide,
       by decide⟩, by decide⟩,
   ⟨7, (gF 0x104 1 5 0 0), gS (gF 0x104 1 5 0 0) (ctxMod 5 (fun k => { k with state := .faulted }) gM), ⟨rfl, rfl, rfl,
       by decide, by decide⟩, by decide⟩,
   ⟨7, 1000, 1, (gC 0x304 2 1000 10 0 0 0), gR,
       gS (gC 0x304 2 1000 10 0 0 0) (partMod 1 (fun w => { w with enabled := true }) gM), ok_is (by decide), 0x304, by decide,
       ⟨rfl, rfl, rfl, by decide, by decide⟩, by decide⟩,
   ⟨7, 1000, 1, (gC 0x303 5 1000 0 0 0 0), gR, gS (gC 0x303 5 1000 0 0 0 0) gM, ok_is (by decide), ⟨rfl, rfl, rfl, by decide,
       by decide⟩, by decide⟩,
   ⟨7, 1000, 1, (gC 0x304 2 1000 10 0 0 0), gR, gS (gC 0x304 2 1000 10 0 0 0) gM, ok_is (by decide), ⟨rfl, rfl, rfl, by decide,
       by decide⟩, by decide, by decide⟩,
   ⟨7, 1000, 1, (gC 0x305 2 1000 0 0 0 0), gR, gS (gC 0x305 2 1000 0 0 0 0) gM, ok_is (by decide), ⟨rfl, rfl, rfl, by decide,
       by decide⟩, by decide, by decide⟩,
   ⟨7, 1000, 1, (gC 0x306 1 1000 0 0 0 0), gR, gS (gC 0x306 1 1000 0 0 0 0) gM, ok_is (by decide), ⟨rfl, rfl, rfl, by decide,
       by decide⟩⟩,
   ⟨7, 1000, 1, (gC 0x311 2 1000 4294967296 0 0 0), gR,
       gS (gC 0x311 2 1000 4294967296 0 0 0) (partMod 1 (fun w => { w with enabled := true }) gM), ok_is (by decide), ⟨rfl, rfl,
       rfl, by decide, by decide⟩, by decide⟩,
   ⟨7, 1000, 1, (gC 0x311 2 1000 4294967296 0 0 0), gR, gS (gC 0x311 2 1000 4294967296 0 0 0) gM, ok_is (by decide), ⟨1, 1, 16,
       [6], [3]⟩, [0x60000], ⟨rfl, rfl, rfl, by decide, by decide⟩, by decide, by decide, (by decide), ok_is (by decide),
       by decide, by decide, (by decide), by decide, ok_is (by decide)⟩,
   ⟨7, 1000, 1, (gC 0x310 3 1000 4294967296 268435457 0 0), gR,
       gS (gC 0x310 3 1000 4294967296 268435457 0 0) (partMod 1 (fun w => { w with enabled := true }) gM), ok_is (by decide), 5,
       256, [], List.replicate 8 0, ⟨rfl, rfl, rfl, by decide, by decide⟩, by decide, by decide, ok_is (by decide),
       ok_is (by decide), by decide⟩,
   ⟨7, 1000, 1, (gC 0x310 3 1000 4294967296 268435457 0 0), gR, gS (gC 0x310 3 1000 4294967296 268435457 0 0) gM,
       ok_is (by decide), ⟨1, 1, 16, [6], [3]⟩, 5, 256, [], List.replicate 8 0, [0x60000], ⟨rfl, rfl, rfl, by decide, by decide⟩,
       by decide, by decide, ok_is (by decide), ok_is (by decide), by decide, ok_is (by decide), by decide, by decide,
       (by decide), ok_is (by decide)⟩,
   ⟨7, 5, 0, 5, 0, (gC 0x302 3 1 0 0 0 0), [], memRead gM 0x40000000 64, _,
       gS (gC 0x302 3 1 0 0 0 0) (partMod 1 (fun w => { w with enabled := true }) gM), ⟨rfl, rfl, rfl, by decide, by decide⟩,
       by decide, by decide, (by decide), by decide, by decide, ok_is (by decide), ok_is (by decide), by decide, by decide,
       ok_is (by decide), rfl, by decide⟩,
   ⟨7, 5, 0, 5, 0, (gC 0x302 3 1 0 0 0 0), [], memRead gM 0x40000000 64, _, gS (gC 0x302 3 1 0 0 0 0) gM, ⟨rfl, rfl, rfl,
       by decide, by decide⟩, by decide, by decide, (by decide), by decide, by decide, ok_is (by decide), ok_is (by decide),
       by decide, by decide, ok_is (by decide), rfl, by decide⟩⟩

/-- Witnesses: the hypotheses of each clause of PageMoveCommandsComplete are met together. -/
theorem test_witness_PageMoveCommandsComplete :
    (∃ id : Nat, ∃ q : Nat, ∃ p : Nat, ∃ x : Nat, ∃ va : Nat, ∃ c : Cmd, ∃ r : TickRec, ∃ k : KvLayout, ∃ host : List Byte,
        ∃ list : List Byte, ∃ pages : List KvPage, ∃ s : State, (sessQueue s c = .ok (q, p, r))
        ∧ (kvLayout s [] p (sessGet s r q).kvRoot = .ok k) ∧ (bitsAt c.pkt.w1 20 8 ≤ bitsAt c.pkt.w1 28 8)
        ∧ (bitsAt c.pkt.w1 28 8 < k.layers) ∧ (bitsAt c.pkt.w1 36 4 < 2 ^ k.planes)
        ∧ (bitsAt c.pkt.w2 0 32 + bitsAt c.pkt.w2 32 32 ≤ 2 ^ k.maxLog2)
        ∧ let names := kvMoveNames k c.pkt; let cold := c.pkt.opcode == 0x0313 && !bitOn c.pkt.w4 3; (orefRange s (ctxGet s c.pkt.ctx).part c.pkt.w3 (8 * names.length) = .ok (x, va)) ∧ (vaRead s x (piecesOf va (8 * names.length)) host = .ok list) ∧ (kvMoveAll s p (sessGet s r q).kvRoot k cold list names.zipIdx = .ok pages) ∧ (pages.all (fun g => decide (3 ≤ g.stage)) = false) ∧ (Starts 0x0312 id c s))
    ∧ (∃ id : Nat, ∃ q : Nat, ∃ p : Nat, ∃ x : Nat, ∃ va : Nat, ∃ c : Cmd, ∃ r : TickRec, ∃ k : KvLayout, ∃ host : List Byte,
        ∃ list : List Byte, ∃ pages : List KvPage, ∃ s : State, (sessQueue s c = .ok (q, p, r))
        ∧ (kvLayout s [] p (sessGet s r q).kvRoot = .ok k) ∧ (bitsAt c.pkt.w1 20 8 ≤ bitsAt c.pkt.w1 28 8)
        ∧ (bitsAt c.pkt.w1 28 8 < k.layers) ∧ (bitsAt c.pkt.w1 36 4 < 2 ^ k.planes)
        ∧ (bitsAt c.pkt.w2 0 32 + bitsAt c.pkt.w2 32 32 ≤ 2 ^ k.maxLog2)
        ∧ let names := kvMoveNames k c.pkt; let cold := c.pkt.opcode == 0x0313 && !bitOn c.pkt.w4 3; (orefRange s (ctxGet s c.pkt.ctx).part c.pkt.w3 (8 * names.length) = .ok (x, va)) ∧ (vaRead s x (piecesOf va (8 * names.length)) host = .ok list) ∧ (kvMoveAll s p (sessGet s r q).kvRoot k cold list names.zipIdx = .ok pages) ∧ (pages.all (fun g => decide (3 ≤ g.stage)) = false) ∧ (Starts 0x0313 id c s))
    ∧ (∃ id : Nat, ∃ idx : Nat, ∃ c : Cmd, ∃ cold : Bool, ∃ pages : List KvPage, ∃ g : KvPage, ∃ s : State, (s.Holds id c)
        ∧ (c.step = .kvMove cold pages) ∧ (pages.find? (fun g => g.idx == idx && g.stage == 0) = some g)
        ∧ let p := edgePart s c; (layerHeld s p g.layer = false) ∧ (memHeld s g.old 65536 = false)
        ∧ (memHeld s g.dest 65536 = false) ∧ (firstLost s g.old 65536 = none) ∧ (inTick s p = true))
    ∧ (∃ id : Nat, ∃ idx : Nat, ∃ c : Cmd, ∃ cold : Bool, ∃ pages : List KvPage, ∃ g : KvPage, ∃ s : State, (s.Holds id c)
        ∧ (c.step = .kvMove cold pages) ∧ (pages.find? (fun g => g.idx == idx && g.stage == 0) = some g)
        ∧ let p := edgePart s c; (layerHeld s p g.layer = false) ∧ (memHeld s g.old 65536 = false)
        ∧ (memHeld s g.dest 65536 = false) ∧ (firstLost s g.old 65536 = none) ∧ (inTick s p = false) ∧ (willApply s p = false)) :=
  ⟨⟨7, 1000, 1, 5, 64, (gC 0x312 4 68719477736 4294968320 67108865 0 0), gR, ⟨1, 1, 16, [6], [3]⟩, [], memRead gM 0x40000040 8,
      [⟨0x60008, 0, 0, 0xA0000, 0, 0x100000000000⟩], gS (gC 0x312 4 68719477736 4294968320 67108865 0 0) gM, ok_is (by decide),
      ok_is (by decide), by decide, by decide, (by decide), by decide, ok_is (by decide), ok_is (by decide), ok_is (by decide),
      by decide, ⟨rfl, rfl, rfl, by decide, by decide⟩⟩,
   ⟨7, 1000, 1, 5, 128, (gC 0x313 4 68719477736 4294967296 134217729 0 0), gR, ⟨1, 1, 16, [6], [3]⟩, [], memRead gM 0x40000080 8,
       [⟨0x60000, 0, 0, 0x100000000000, 0, 0x70000⟩], gS (gC 0x313 4 68719477736 4294967296 134217729 0 0) gM, ok_is (by decide),
       ok_is (by decide), by decide, by decide, (by decide), by decide, ok_is (by decide), ok_is (by decide), ok_is (by decide),
       by decide, ⟨rfl, rfl, rfl, by decide, by decide⟩⟩,
   ⟨7, 0, { gC 0x313 4 68719477736 4294967296 134217729 0 0 with step := .kvMove true [⟨0x60000, 0, 0, 0x100000000000, 0, 0x70000⟩] }, true, [⟨0x60000, 0, 0, 0x100000000000, 0, 0x70000⟩], ⟨0x60000, 0, 0, 0x100000000000, 0, 0x70000⟩, gS { gC 0x313 4 68719477736 4294967296 134217729 0 0 with step := .kvMove true [⟨0x60000, 0, 0, 0x100000000000, 0, 0x70000⟩] } (partMod 1 (fun w => { w with live := true }) gM), rfl, by decide, by decide, by decide⟩,
   ⟨7, 0, { gC 0x313 4 68719477736 4294967296 134217729 0 0 with step := .kvMove true [⟨0x60000, 0, 0, 0x100000000000, 0, 0x70000⟩] }, true, [⟨0x60000, 0, 0, 0x100000000000, 0, 0x70000⟩], ⟨0x60000, 0, 0, 0x100000000000, 0, 0x70000⟩, gS { gC 0x313 4 68719477736 4294967296 134217729 0 0 with step := .kvMove true [⟨0x60000, 0, 0, 0x100000000000, 0, 0x70000⟩] } gM, rfl, by decide, by decide, by decide⟩⟩

/-- Witnesses: the hypotheses of each clause of EdgeReportAndDecisionCommandsComplete are met together. -/
theorem test_witness_EdgeReportAndDecisionCommandsComplete :
    (∃ t : Nat, ∃ s : State, (nextEdge s = some t))
    ∧ (∃ port : Nat, ∃ k : BlkArr, ∃ b : EdgeBlock, ∃ s : State, (idnActive s port = true) ∧ (blkOk k = true) ∧ (b.hops ≤ 2)
        ∧ (0 ≤ b.remain) ∧ (b.epoch = edgeEpoch s) ∧ (takesEdges s = true) ∧ (s.dom.edge = none) ∧ ((match s.dom.form,
        joinMsg s with
      | some _, _ => b.tick = 0
      | none, some m => m.edge ≤ b.tick
      | none, none => fget s F.tickCounter_count 0 < b.tick)))
    ∧ (∃ b : EdgeBlock, ∃ s : State, (s.dom.edge = some b) ∧ (s.dom.form = none) ∧ (fget s F.tickCounter_count 0 < tickMax)
        ∧ let t := domMod (fun d => { d with edge := none, edgeNs := (Config.timeNs s.fresh).toNat }) (tickFresh s); let u := fset F.tickCounter_count 0 b.tick (dueMembers b.tick t); (u.failOwed = false) ∧ ((u.dom.leave = true → b.tick < leaveEdge t)) ∧ (isMember u = true))
    ∧ (∃ s : State, (isMember s = true) ∧ (s.dom.edge = none) ∧ (isMaster s = false))
    ∧ (∃ a : IdnArr, ∃ s : State, (a.pkt.ty = 0x10) ∧ (Taken a s) ∧ (a.pkt.dst = hubId s))
    ∧ (∃ s : State, (isMaster s = true))
    ∧ (∃ a : IdnArr, ∃ s : State, (a.pkt.ty = 0x11) ∧ (Taken a s) ∧ (a.pkt.dst = hubId s))
    ∧ (∃ p : Nat, ∃ r : TickRec, ∃ s : State, let w := partGet s p; (w.inForce = some r) ∧ (w.live = true)
        ∧ (w.released = false) ∧ (w.undecided = false) ∧ (s.dom.missed = 0) ∧ (w.drains.any (fun d => d.half == w.half) = false)
        ∧ ((lsSecondary s p = true → w.lsReady = true))) :=
  ⟨⟨1, tD {}, by decide⟩,
   ⟨0, { crcOk := true }, ⟨0, 0, 0, 1, 0, 0, 0⟩, fset F.idnStatus_state 0 7 (tD {}), by decide, by decide, (by decide),
       by decide, by decide, (by decide), by decide, (by change _ < _; decide)⟩,
   ⟨⟨0, 0, 0, 1, 0, 0, 0⟩, domMod (fun d => { d with edge := some ⟨0, 0, 0, 1, 0, 0, 0⟩ }) (tD {}), by decide, by decide,
       (by decide), by decide⟩,
   ⟨fset F.domStatus_masterId 0 1 (tD {}), by decide⟩,
   ⟨tA 0x10, tI, by decide, taken_of (by decide), by decide⟩,
   ⟨tD {}, by decide⟩,
   ⟨tA 0x11, tI, by decide, taken_of (by decide), by decide⟩,
   ⟨1, gR, partMod 1 (fun w => { w with live := true }) gM, by decide⟩⟩

/-- Witnesses: the hypotheses of each clause of CommitDrainCommandsComplete are met together. -/
theorem test_witness_CommitDrainCommandsComplete :
    (∃ p : Nat, ∃ d : Drain, ∃ ds : List Drain, ∃ e : Staged, ∃ es : List Staged, ∃ s : State, ((partGet s p).drains = d :: ds)
        ∧ (d.todo = e :: es))
    ∧ (∃ p : Nat, ∃ d : Drain, ∃ s : State, ((partGet s p).drains.find? (fun d => !d.sent && d.todo.isEmpty) = some d)
        ∧ ((drainHost s d = true → waitCause s p = false)))
    ∧ (∃ p : Nat, ∃ d : Drain, ∃ s : State,
        ((partGet s p).drains.find? (fun d => d.sent && !d.fenced && d.todo.isEmpty) = some d))
    ∧ (∃ p : Nat, ∃ d : Drain, ∃ ds : List Drain, ∃ r : TickRec, ∃ s : State, ((partGet s p).drains = d :: ds)
        ∧ ((partGet s p).inForce = some r) ∧ (d.todo = []) ∧ (d.sent = true) ∧ (d.fenced = true))
    ∧ (∃ port : Nat, ∃ h : HostStore, ∃ s : State, (s.unacked.find? (fun h => h.port == port && h.sent) = some h)) :=
  ⟨⟨1, (⟨1, 0, [⟨.append 0, 0, 5, 0, 0x70000, [1], false⟩], [], [], true, [], true, [], []⟩ : Drain), [], ⟨.append 0, 0, 5, 0,
      0x70000, [1], false⟩, [], partMod 1 (fun w => { w with drains := [(⟨1, 0, [⟨.append 0, 0, 5, 0, 0x70000, [1], false⟩], [], [], true, [], true, [], []⟩ : Drain)] }) gM, by decide⟩,
   ⟨1, (⟨1, 0, [], [], [], false, [], true, [], []⟩ : Drain),
       partMod 1 (fun w => { w with drains := [(⟨1, 0, [], [], [], false, [], true, [], []⟩ : Drain)] }) gM, by decide⟩,
   ⟨1, (⟨1, 0, [], [], [], true, [], false, [], []⟩ : Drain),
       partMod 1 (fun w => { w with drains := [(⟨1, 0, [], [], [], true, [], false, [], []⟩ : Drain)] }) gM, by decide⟩,
   ⟨1, (⟨1, 0, [], [], [], true, [], true, [], []⟩ : Drain), [], gR,
       partMod 1 (fun w => { w with drains := [(⟨1, 0, [], [], [], true, [], true, [], []⟩ : Drain)] }) gM, by decide⟩,
   ⟨0, ⟨0, 1, 5, 0, [1], true, true⟩, { unacked := [⟨0, 1, 5, 0, [1], true, true⟩] }, by decide⟩⟩

/-- Witnesses: the hypotheses of each clause of TickRegisterWritesComplete are met together. -/
theorem test_witness_TickRegisterWritesComplete :
    (∃ v : Word, ∃ s : State, (isMaster s = true) ∧ ∃ id : Nat, ∃ c : Cmd, (Starts 0x0406 id c s) ∧ (c.pkt.w1 = v.toNat))
    ∧ (∃ p : Nat, ∃ v : Word, ∃ s : State, (p < 256)
        ∧ let t := fset F.partCfg_recoverLog2 p (v.toNat / 2 ^ 8 % 2 ^ 4) (fset F.partCfg_ceiling p (v.toNat / 2 % 2 ^ 6) s); (v.getLsbD 0 = true) ∧ (mayEnable t p = true) ∧ (((partGet s p).enabled = true → (partGet s p).stopping = true)))
    ∧ (∃ p : Nat, ∃ v : Word, ∃ s : State, (p < 256)
        ∧ let t := fset F.partCfg_recoverLog2 p (v.toNat / 2 ^ 8 % 2 ^ 4) (fset F.partCfg_ceiling p (v.toNat / 2 % 2 ^ 6) s); (v.getLsbD 0 = true) ∧ (mayEnable t p = true) ∧ ((partGet s p).enabled = true) ∧ ((partGet s p).stopping = false))
    ∧ (∃ p : Nat, ∃ v : Word, ∃ s : State, (p < 256)
        ∧ let t := fset F.partCfg_recoverLog2 p (v.toNat / 2 ^ 8 % 2 ^ 4) (fset F.partCfg_ceiling p (v.toNat / 2 % 2 ^ 6) s); (v.getLsbD 0 = true) ∧ (mayEnable t p = false))
    ∧ (∃ p : Nat, ∃ v : Word, (p < 256) ∧ (v.getLsbD 0 = false))
    ∧ (∃ p : Nat, ∃ s : State, (p < 256) ∧ ((partGet s p).enabled = false))
    ∧ (∃ p : Nat, ∃ s : State, (p < 256) ∧ ((partGet s p).enabled = true)) :=
  ⟨⟨1000000, gS (gF 0x406 1 1000000 0 0) (tD gM), by decide, 7, (gF 0x406 1 1000000 0 0), ⟨rfl, rfl, rfl, by decide, by decide⟩,
      by decide⟩,
   ⟨1, 1, fset F.partProv_valid 1 1 (rset gM .memDirty 0 0), by decide, by decide⟩,
   ⟨1, 1, partMod 1 (fun w => { w with enabled := true }) (fset F.partProv_valid 1 1 (rset gM .memDirty 0 0)), by decide,
       by decide⟩,
   ⟨1, 1, {}, by decide, by decide⟩,
   ⟨1, 0, by decide⟩,
   ⟨1, {}, by decide⟩,
   ⟨1, partMod 1 (fun w => { w with enabled := true }) gM, by decide⟩⟩

/-- Witnesses: the hypotheses of each clause of FormationAndMembershipCommandsComplete are met together. -/
theorem test_witness_FormationAndMembershipCommandsComplete :
    (∃ s : State, let t := sendHello s; ((∀ e ∈ t.dom.silent, e.2 < 3)) ∧ (t.dom.form = none))
    ∧ (∃ a : IdnArr, ∃ h : HelloMsg, ∃ s : State, (a.pkt.ty = 0x18) ∧ (Taken a s) ∧ (h.hub ≠ hubId s))
    ∧ (∃ a : IdnArr, ∃ f : FormMsg, ∃ s : State, (a.pkt.ty = 0x19) ∧ (Taken a s) ∧ (a.pkt.dst = hubId s) ∧ (isMember s = false)
        ∧ (f.members.contains (hubId s) = true) ∧ let t := linkTaken a s; (formCause t f.members f.adj true = none))
    ∧ (∃ a : IdnArr, ∃ f : FormMsg, ∃ s : State, (a.pkt.ty = 0x19) ∧ (Taken a s) ∧ (a.pkt.dst = hubId s) ∧ (isMember s = false)
        ∧ (f.members.contains (hubId s) = true) ∧ let t := linkTaken a s; ∃ cause,
        (formCause t f.members f.adj true = some cause))
    ∧ (∃ a : IdnArr, ∃ f : FormMsg, ∃ epoch : Nat, ∃ s : State, (a.pkt.ty = 0x1A) ∧ (Taken a s) ∧ (a.pkt.dst = hubId s)
        ∧ (s.dom.form = some f) ∧ (f.epoch = epoch) ∧ (s.dom.acks.contains a.pkt.src = false))
    ∧ (∃ s : State, (isMember s = false) ∧ (s.dom.form = none) ∧ (s.dom.gone = false) ∧ (fon s F.tickCtrl_run 0 = true)
        ∧ (fon s F.domStatus_forming 0 = false) ∧ ((expectedHubs s).all (runningHubs s).contains = false))
    ∧ (∃ a : IdnArr, ∃ h : HelloMsg, ∃ s : State, (a.pkt.ty = 0x1B) ∧ (Taken a s) ∧ (h.hub ≠ hubId s) ∧ (isMaster s = true))
    ∧ (∃ a : IdnArr, ∃ h : HelloMsg, ∃ s : State, (a.pkt.ty = 0x1B) ∧ (Taken a s) ∧ (h.hub ≠ hubId s) ∧ (isMaster s = false))
    ∧ (∃ a : IdnArr, ∃ m : MemberMsg, ∃ s : State, (a.pkt.ty = 0x12) ∧ (Taken a s) ∧ (a.pkt.dst = hubId s) ∧ (isMember s = true)
        ∧ (fget s F.domStatus_epoch 0 < m.epoch))
    ∧ (∃ a : IdnArr, ∃ m : MemberMsg, ∃ s : State, (a.pkt.ty = 0x12) ∧ (Taken a s) ∧ (a.pkt.dst = hubId s)
        ∧ (isMember s = false) ∧ (fon s F.domStatus_forming 0 = true) ∧ (s.dom.form = none)
        ∧ (m.members.contains (hubId s) = true) ∧ let t := linkTaken a s; ∃ cause,
        (formCause t m.members m.adj false = some cause))
    ∧ (∃ a : IdnArr, ∃ m : MemberMsg, ∃ s : State, (a.pkt.ty = 0x12) ∧ (Taken a s) ∧ (a.pkt.dst = hubId s)
        ∧ (isMember s = false) ∧ (fon s F.domStatus_forming 0 = true) ∧ (s.dom.form = none)
        ∧ (m.members.contains (hubId s) = true) ∧ let t := linkTaken a s; (formCause t m.members m.adj false = none))
    ∧ (∃ a : IdnArr, ∃ s : State, (a.pkt.ty = 0x1C) ∧ (Taken a s) ∧ (a.pkt.dst = hubId s) ∧ (isMember s = true))
    ∧ (∃ s : State, (isMember s = true) ∧ (isMaster s = false) ∧ (2 ≤ s.dom.missed)
        ∧ (((members s).filter fun h => h != masterId s && (h == hubId s || (nextHop s h).isSome)).head? = some (hubId s))
        ∧ (s.dom.changes = [])) :=
  ⟨⟨tI, by decide⟩,
   ⟨tA 0x18, ⟨1, 0, true, 8, [0]⟩, tI, by decide, taken_of (by decide), by decide⟩,
   ⟨tA 0x19, ⟨1, [0, 1], [(0, [1]), (1, [0])], 1, 0⟩, { tI with cfg := { expected := 3, domainOk := true, limHubs := 2 } },
       by decide, taken_of (by decide), by decide, by decide, (by decide), by decide⟩,
   ⟨tA 0x19, ⟨1, [0, 1], [(0, [1]), (1, [0])], 1, 0⟩, tI, by decide, taken_of (by decide), by decide, by decide, (by decide), 5,
       by decide⟩,
   ⟨tA 0x1A, ⟨1, [0, 1], [(0, [1]), (1, [0])], 1, 0⟩, 1,
       domMod (fun d => { d with form := some ⟨1, [0, 1], [(0, [1]), (1, [0])], 1, 0⟩ }) tI, by decide, taken_of (by decide),
       by decide⟩,
   ⟨{ fset F.tickCtrl_run 0 1 tI with cfg := { expected := 3, domainOk := true } }, by decide⟩,
   ⟨tA 0x1B, ⟨1, 0, true, 8, [0]⟩, fset F.idnStatus_state 0 7 (tD {}), by decide, taken_of (by decide), by decide⟩,
   ⟨tA 0x1B, ⟨1, 0, true, 8, [0]⟩, tI, by decide, taken_of (by decide), by decide⟩,
   ⟨tA 0x12, ⟨1, [0, 1], [], 5⟩, fset F.idnStatus_state 0 7 (tD {}), by decide, taken_of (by decide), by decide⟩,
   ⟨tA 0x12, ⟨1, [0, 1], [(0, [1]), (1, [0])], 5⟩, fset F.domStatus_forming 0 1 tI, by decide, taken_of (by decide), by decide,
       by decide, (by decide), by decide, by decide, 5, by decide⟩,
   ⟨tA 0x12, ⟨1, [0, 1], [(0, [1]), (1, [0])], 5⟩,
       { fset F.domStatus_forming 0 1 tI with cfg := { expected := 3, domainOk := true, limHubs := 2 } }, by decide,
       taken_of (by decide), by decide, by decide, (by decide), by decide, by decide, by decide⟩,
   ⟨tA 0x1C, fset F.idnStatus_state 0 7 (tD {}), by decide, taken_of (by decide), by decide⟩,
   ⟨domMod (fun d => { d with missed := 2 }) (fset F.domMembers_members 0 3 (fset F.domStatus_masterId 0 1 (tD {}))), by decide⟩⟩

/-- Witnesses: the hypotheses of each clause of DomainControlAndLockStepCommandsComplete are met together. -/
theorem test_witness_DomainControlAndLockStepCommandsComplete :
    (∃ v : Word, (v.toNat % 8 = 1))
    ∧ (∃ v : Word, (v.toNat % 8 = 2))
    ∧ (∃ v : Word, (v.toNat % 8 = 4))
    ∧ (∃ id : Nat, ∃ c : Cmd, ∃ s : State, (Starts 0x0401 id c s) ∧ (isMember s = false) ∧ (s.dom.form = none))
    ∧ (∃ id : Nat, ∃ c : Cmd, ∃ s : State, (Starts 0x0402 id c s) ∧ (isMember s = true))
    ∧ (∃ id : Nat, ∃ c : Cmd, ∃ s : State, (Starts 0x0403 id c s) ∧ (isMaster s = true))
    ∧ (∃ id : Nat, ∃ c : Cmd, ∃ s : State, (Starts 0x0404 id c s))
    ∧ (∃ id : Nat, ∃ c : Cmd, ∃ s : State, (Starts 0x0405 id c s) ∧ (lsLicensed s = true))
    ∧ (∃ s : State, (lsLicensed s = true))
    ∧ (∃ a : IdnArr, ∃ r : TickRec, ∃ s : State, (a.pkt.ty = 0x20) ∧ (Taken a s) ∧ (a.pkt.dst = hubId s)
        ∧ let t := linkTaken a s; let p := a.pkt.part; let w := partGet t p; (w.inForce = some r) ∧ (lsSecondary t p = true)
        ∧ (w.live = true) ∧ (w.lsReady = false))
    ∧ (∃ a : IdnArr, ∃ hub : Nat, ∃ s : State, (a.pkt.ty = 0x20) ∧ (Taken a s) ∧ (a.pkt.dst = hubId s)
        ∧ let t := linkTaken a s; let p := a.pkt.part; let w := partGet t p; (w.enabled = true) ∧ (w.live = false)
        ∧ (lockOf t p = some (false, hub)))
    ∧ (∃ a : IdnArr, ∃ s : State, (a.pkt.ty = 0x21) ∧ (Taken a s) ∧ (a.pkt.dst = hubId s)
        ∧ let t := linkTaken a s; let p := a.pkt.part; ((partGet t p).lock.isSome = true)
        ∧ ((partGet t p).sigGot.contains a.pkt.addr = false)) :=
  ⟨⟨1, by decide⟩,
   ⟨2, by decide⟩,
   ⟨4, by decide⟩,
   ⟨7, (gF 0x401 0 0 0 0), gS (gF 0x401 0 0 0 0) gM, ⟨rfl, rfl, rfl, by decide, by decide⟩, by decide⟩,
   ⟨7, (gF 0x402 0 0 0 0), gS (gF 0x402 0 0 0 0) (tD gM), ⟨rfl, rfl, rfl, by decide, by decide⟩, by decide⟩,
   ⟨7, (gF 0x403 1 0 0 0), gS (gF 0x403 1 0 0 0) (tD gM), ⟨rfl, rfl, rfl, by decide, by decide⟩, by decide⟩,
   ⟨7, (gF 0x404 0 0 0 0), gS (gF 0x404 0 0 0 0) gM, ⟨rfl, rfl, rfl, by decide, by decide⟩⟩,
   ⟨7, (gF 0x405 1 0 0 0), gS (gF 0x405 1 0 0 0) { gM with cfg := { features := 2 } }, ⟨rfl, rfl, rfl, by decide, by decide⟩,
       by decide⟩,
   ⟨tP 7 3, by decide⟩,
   ⟨tA 0x20, gR, { tI with parts := [(0, { inForce := some gR, live := true, lock := some (false, 1) })] }, by decide,
       taken_of (by decide), by decide, by decide⟩,
   ⟨tA 0x20, 1, { tI with parts := [(0, { enabled := true })], dom := { lsCfg := 0x5 } }, by decide, taken_of (by decide),
       by decide, by decide, (by decide), rfl⟩,
   ⟨tA 0x21, { tI with parts := [(0, { lock := some (true, 1) })] }, by decide, taken_of (by decide), by decide, by decide⟩⟩

/-- Witnesses: the hypotheses of each clause of PortTrainingEventsComplete are met together. -/
theorem test_witness_PortTrainingEventsComplete :
    (∃ k : Nat, ∃ s : State, ∃ lanes : Nat, (idnState s k = 2) ∧ (4 ≤ lanes))
    ∧ (∃ k : Nat, ∃ s : State, (idnState s k = 2))
    ∧ (∃ k : Nat, ∃ s : State, (idnState s k = 1) ∧ (fget s F.idnStatus_fails k ≠ 0) ∧ (fon s F.idnCtrl_disable k = false))
    ∧ (∃ k : Nat, ∃ s : State, ∃ bad, (idnState s k = 3) ∧ (widthOf bad ≠ 0))
    ∧ (∃ k : Nat, ∃ s : State, (idnState s k = 3))
    ∧ (∃ k : Nat, ∃ s : State, ∃ bad, (idnState s k = 4)
        ∧ let q := idnGet s k; let b := bad ||| fget s F.idnLanes_bad k; let both := b ||| q.peerBad; let t := sendTrain k (widthOf b) (fset F.idnLanes_bad k b s); (widthOf b ≠ 0) ∧ (widthOf both ≠ 0) ∧ (peerOk t q = true) ∧ (q.peerWidth ≠ widthOf b) ∧ (q.agreed = false))
    ∧ (∃ k : Nat, ∃ s : State, ∃ bad, (idnState s k = 4)
        ∧ let q := idnGet s k; let b := bad ||| fget s F.idnLanes_bad k; let both := b ||| q.peerBad; let t := sendTrain k (widthOf b) (fset F.idnLanes_bad k b s); (widthOf b ≠ 0) ∧ (widthOf both ≠ 0) ∧ (peerOk t q = true) ∧ (q.peerWidth = widthOf b ∨ q.agreed = true))
    ∧ (∃ k : Nat, ∃ s : State, ∃ good, (idnState s k = 5) ∧ (64 ≤ good))
    ∧ (∃ k : Nat, ∃ s : State, (idnState s k = 5))
    ∧ (∃ k : Nat, ∃ s : State, (idnState s k = 6) ∧ (1024 ≤ (idnGet s k).samples))
    ∧ (∃ k : Nat, ∃ s : State, ∃ lane, (idnActive s k = true) ∧ (lane < 18))
    ∧ (∃ k : Nat, ∃ s : State, (idnActive s k = true))
    ∧ (∃ k : Nat, ∃ s : State, (idnState s k = 8) ∧ (64 ≤ (idnGet s k).samples) ∧ (fget s F.idnStatus_width k ≠ 0)) :=
  ⟨⟨0, tP 2 3, 4, by decide⟩,
   ⟨0, tP 2 3, by decide⟩,
   ⟨0, fset F.idnStatus_fails 0 1 (tP 1 3), by decide⟩,
   ⟨0, tP 3 3, 0, by decide⟩,
   ⟨0, tP 3 3, by decide⟩,
   ⟨0, tP 4 2, 0, by decide, by decide⟩,
   ⟨0, tP 4 3, 0, by decide, by decide⟩,
   ⟨0, tP 5 3, 64, by decide⟩,
   ⟨0, tP 5 3, by decide⟩,
   ⟨0, tP 6 3, by decide⟩,
   ⟨0, tP 7 3, 0, by decide⟩,
   ⟨0, tP 7 3, by decide⟩,
   ⟨0, fset F.idnStatus_width 0 3 (tP 8 3), by decide⟩⟩

/-- Witnesses: the hypotheses of each clause of PortBlocksAndControlComplete are met together. -/
theorem test_witness_PortBlocksAndControlComplete :
    (∃ k : Nat, ∃ b : BlkArr, ∃ s : State, (hasLink s k = true) ∧ (blkOk b = true)
        ∧ let t := codewords k b.words (fwrap F.idnRxbytes_count F.idnRxbytes_ovf k 32 s); (idnActive t k = true))
    ∧ (∃ k : Nat, ∃ b : BlkArr, ∃ s : State, (hasLink s k = true) ∧ (blkOk b = true)
        ∧ let t := codewords k b.words (fwrap F.idnRxbytes_count F.idnRxbytes_ovf k 32 s); ∃ vc, (idnActive t k = true)
        ∧ (vc < 4))
    ∧ (∃ k : Nat, ∃ b : BlkArr, ∃ s : State, (hasLink s k = true) ∧ (blkOk b = true)
        ∧ let t := codewords k b.words (fwrap F.idnRxbytes_count F.idnRxbytes_ovf k 32 s); (idnState t k = 6 ∨ idnState t k = 8))
    ∧ (∃ k : Nat, ∃ b : BlkArr, ∃ s : State, (hasLink s k = true) ∧ (blkOk b = true)
        ∧ let t := codewords k b.words (fwrap F.idnRxbytes_count F.idnRxbytes_ovf k 32 s); (idnActive t k = false))
    ∧ (∃ k : Nat, ∃ b : BlkArr, ∃ s : State, (hasLink s k = true) ∧ (blkOk b = false))
    ∧ (∃ k : Nat, ∃ s : State, (idnActive s k = true) ∧ ((idnGet s k).ackOwed = true))
    ∧ (∃ k : Nat, ∃ v : Word, (k < 36) ∧ (v.toNat % 4 = 1))
    ∧ (∃ k : Nat, ∃ v : Word, (k < 36) ∧ (v.toNat % 4 = 2))
    ∧ (∃ k : Nat, ∃ v : Word, (k < 36) ∧ (v.toNat % 8 = 4)) :=
  ⟨⟨0, { crcOk := true }, tP 7 3, by decide, by decide, by decide⟩,
   ⟨0, { crcOk := true }, tP 7 3, by decide, by decide, 0, by decide⟩,
   ⟨0, { crcOk := true }, tP 6 3, by decide, by decide, by decide⟩,
   ⟨0, { crcOk := true }, tP 3 3, by decide, by decide, by decide⟩,
   ⟨0, { crcOk := false }, tP 7 3, by decide⟩,
   ⟨0, tP 7 3, by decide⟩,
   ⟨0, 1, by decide⟩,
   ⟨0, 2, by decide⟩,
   ⟨0, 4, by decide⟩⟩

/-- Witnesses: the hypotheses of each clause of HubNetworkCommandsComplete are met together. -/
theorem test_witness_HubNetworkCommandsComplete :
    (∃ a : NetArr, ∃ way : List NetHop, ∃ s : State, (Reaches 0x02 a way s))
    ∧ (∃ a : NetArr, ∃ way : List NetHop, ∃ s : State, (Reaches 0x04 a way s))
    ∧ (∃ a : NetArr, ∃ way : List NetHop, ∃ s : State, ∃ r, (Reaches 0x07 a way s)
        ∧ (netWaits (journeyed 0x07 a way s) a.pkt.dst a.pkt.tag = some r))
    ∧ (∃ a : NetArr, ∃ way : List NetHop, ∃ s : State, (Reaches 0x05 a way s))
    ∧ (∃ a : NetArr, ∃ way : List NetHop, ∃ s : State, (Reaches 0x50 a way s))
    ∧ (∃ src : Nat, ∃ tag : Nat, ∃ r : NetReq, ∃ s : State, (netWaits s src tag = some r))
    ∧ (∃ src : Nat, ∃ tag : Nat, ∃ r : NetReq, ∃ s : State, (netWaits s src tag = some r) ∧ (r.answered = false)
        ∧ (r.dropped = false))
    ∧ (∃ field : Nat, ∃ node : Nat, ∃ port : Nat, ∃ crossing : Option Nat, ∃ s : State,
        let q := match crossing with | some x => 5 + x | none => port; (¬ (64 ≤ node ∧ node < 96
        ∧ hasSeam field ((node - 64) / 8) ∧ (q = 5 ∨ q = 6)
        ∧ fget s F.scarfStatus_state (crossingAt field ((node - 64) / 8) (node % 8) (q - 5)) = 1)))
    ∧ (∃ bay : Nat, ∃ s : State, (s.netReset.contains bay = true))
    ∧ (∃ field : Nat, ∃ c : Nat, ∃ s : State, (field < 9) ∧ (c < 32)
        ∧ let i := field * 32 + c; (fget s F.scarfStatus_state i = 0))
    ∧ (∃ field : Nat, ∃ c : Nat, ∃ s : State, (field < 9) ∧ (c < 32) ∧ let i := field * 32 + c; ∃ back,
        (fget s F.scarfStatus_state i = 1) ∧ let k := i * 2 + bit01 back; let n := Map.get s.bridgeSpares 0 k; (n < 32))
    ∧ (∃ field : Nat, ∃ c : Nat, ∃ s : State, (field < 9) ∧ (c < 32) ∧ let i := field * 32 + c; ∃ back,
        (fget s F.scarfStatus_state i = 1) ∧ let k := i * 2 + bit01 back; let n := Map.get s.bridgeSpares 0 k; (32 ≤ n))
    ∧ (∃ i : Nat, ∃ v : Word, ∃ s : State, (i < 882) ∧ (v.toNat % 2 = 1) ∧ (fon s F.prbFiltA_enable i = false))
    ∧ (∃ i : Nat, ∃ v : Word, ∃ s : State, (i < 882) ∧ (v.toNat % 2 = 1) ∧ (fon s F.prbFiltB_enable i = false)) :=
  ⟨⟨tN 1, _, {}, ⟨rfl, rfl, by decide, rfl, rfl, rfl, by decide⟩⟩,
   ⟨tN 1, _, {}, ⟨rfl, rfl, by decide, rfl, rfl, rfl, by decide⟩⟩,
   ⟨tN 1, _, { netReqs := [⟨0, 0, none, 0, false, false, false, false, false, 0, 0, false⟩] }, ⟨0, 0, none, 0, false, false,
       false, false, false, 0, 0, false⟩, ⟨rfl, rfl, by decide, rfl, rfl, rfl, by decide⟩, by decide⟩,
   ⟨tN 1, _, {}, ⟨rfl, rfl, by decide, rfl, rfl, rfl, by decide⟩⟩,
   ⟨tN 1, _, {}, ⟨rfl, rfl, by decide, rfl, rfl, rfl, by decide⟩⟩,
   ⟨0, 0, ⟨0, 0, none, 0, false, false, false, false, false, 0, 0, false⟩,
       { netReqs := [⟨0, 0, none, 0, false, false, false, false, false, 0, 0, false⟩] }, by decide⟩,
   ⟨0, 0, ⟨0, 0, none, 0, false, false, false, false, false, 0, 0, false⟩,
       { netReqs := [⟨0, 0, none, 0, false, false, false, false, false, 0, 0, false⟩] }, by decide⟩,
   ⟨0, 0, 4, none, {}, by decide⟩,
   ⟨0, { netReset := [0] }, by decide⟩,
   ⟨0, 0, {}, by decide, by decide, by decide⟩,
   ⟨0, 0, fset F.scarfStatus_state 0 1 {}, by decide, by decide, false, by decide, by decide⟩,
   ⟨0, 0, { fset F.scarfStatus_state 0 1 {} with bridgeSpares := [(0, 32)] }, by decide, by decide, false, by decide, by decide⟩,
   ⟨0, 1, {}, by decide⟩,
   ⟨0, 1, {}, by decide⟩⟩

/-- Witnesses: the hypotheses of each clause of IdoonAccessAndSluiceCommandsComplete are met together. -/
theorem test_witness_IdoonAccessAndSluiceCommandsComplete :
    (∃ a : IdnArr, ∃ s : State, (Taken a s) ∧ (a.pkt.dst = hubId s) ∧ let p := a.pkt; (p.ty = 0x01)
        ∧ (homesFull s p.addr (p.rlen * 32) = false))
    ∧ (∃ a : IdnArr, ∃ s : State, (Taken a s) ∧ (a.pkt.dst = hubId s) ∧ let p := a.pkt; (p.ty = 0x03)
        ∧ (homesFull s p.addr p.data.length = false))
    ∧ (∃ a : IdnArr, ∃ s : State, (Taken a s) ∧ (a.pkt.dst = hubId s) ∧ let p := a.pkt; let t := linkTaken a s; ∃ r,
        (p.ty = 0x02) ∧ (t.idnReqs.find? (fun r => r.tag == p.tag && r.dst == p.src && !r.write) = some r))
    ∧ (∃ a : IdnArr, ∃ s : State, (Taken a s) ∧ (a.pkt.dst = hubId s) ∧ let p := a.pkt; let t := linkTaken a s; ∃ r,
        (p.ty = 0x04) ∧ (t.idnReqs.find? (fun r => r.tag == p.tag && r.dst == p.src && r.write) = some r))
    ∧ (∃ a : IdnArr, ∃ s : State, (Taken a s) ∧ (a.pkt.dst = hubId s) ∧ let p := a.pkt; let t := linkTaken a s; ∃ r,
        (p.ty = 0x07) ∧ (p.tag ≠ sigTag) ∧ (t.idnReqs.find? (fun r => r.tag == p.tag && r.dst == p.src && true) = some r))
    ∧ (∃ a : IdnArr, ∃ s : State, (Taken a s) ∧ (a.pkt.dst = hubId s) ∧ let p := a.pkt; (p.ty = 0x07) ∧ (p.tag = sigTag))
    ∧ (∃ a : IdnArr, ∃ s : State, (Taken a s) ∧ (a.pkt.dst = hubId s) ∧ let p := a.pkt; (p.ty = 0x05))
    ∧ (∃ k : Nat, ∃ i : Nat, ∃ p : IdnPkt, ∃ s : State, ((idnGet s k).waiting[i]? = some p)
        ∧ ((idnGet s k).aged.contains p = false)) :=
  ⟨⟨tA 1, tI, taken_of (by decide), by decide, by decide⟩,
   ⟨tA 3, tI, taken_of (by decide), by decide, by decide⟩,
   ⟨tA 2, { tI with idnReqs := [⟨0, 1, false, 0, 0, .unit 16 0⟩] }, taken_of (by decide), by decide, ⟨0, 1, false, 0, 0,
       .unit 16 0⟩, by decide⟩,
   ⟨tA 4, { tI with idnReqs := [⟨0, 1, true, 0, 0, .unit 16 0⟩] }, taken_of (by decide), by decide, ⟨0, 1, true, 0, 0,
       .unit 16 0⟩, by decide⟩,
   ⟨tA 7, { tI with idnReqs := [⟨0, 1, true, 0, 0, .unit 16 0⟩] }, taken_of (by decide), by decide, ⟨0, 1, true, 0, 0,
       .unit 16 0⟩, by decide⟩,
   ⟨{ tA 7 with pkt := { ty := 7, dst := 0, src := 1, tag := 0xFFFF } }, tI, taken_of (by decide), by decide, by decide⟩,
   ⟨tA 5, tI, taken_of (by decide), by decide, by decide⟩,
   ⟨0, 0, (tA 1).pkt, idnSet 0 { waiting := [(tA 1).pkt] } tI, by decide⟩⟩

/-- Witnesses: the hypotheses of each clause of HomeCommandsComplete are met together. -/
theorem test_witness_HomeCommandsComplete :
    (∃ a : NetArr, ∃ way : List NetHop, ∃ s : State,
        let c := netClassed s a; let i := homeOf (c.pkt.addr / 64); (((sliceGet s i).queue.length < 64 ∨ sliceStopped s i = true)) ∧ let r := netOpen c.pkt false s; (Reaches 0x30 c way r))
    ∧ (∃ a : NetArr, ∃ way : List NetHop, ∃ s : State,
        let c := netClassed s a; let i := homeOf (c.pkt.addr / 64); (((sliceGet s i).queue.length < 64 ∨ sliceStopped s i = true)) ∧ let r := netOpen c.pkt false s; (Reaches 0x31 c way r))
    ∧ (∃ a : NetArr, ∃ way : List NetHop, ∃ s : State,
        let c := netClassed s a; let i := homeOf (c.pkt.addr / 64); (((sliceGet s i).queue.length < 64 ∨ sliceStopped s i = true)) ∧ let r := netOpen c.pkt false s; (Reaches 0x32 c way r))
    ∧ (∃ a : NetArr, ∃ way : List NetHop, ∃ s : State,
        let c := netClassed s a; let i := homeOf (c.pkt.addr / 64); (((sliceGet s i).queue.length < 64 ∨ sliceStopped s i = true)) ∧ let w := netOpen c.pkt true s; (Reaches 0x33 c way w))
    ∧ (∃ a : NetArr, ∃ way : List NetHop, ∃ s : State,
        let c := netClassed s a; let i := homeOf (c.pkt.addr / 64); (((sliceGet s i).queue.length < 64 ∨ sliceStopped s i = true)) ∧ let w := netOpen c.pkt true s; (Reaches 0x34 c way w))
    ∧ (∃ a : NetArr, ∃ way : List NetHop, ∃ s : State,
        let c := netClassed s a; let i := homeOf (c.pkt.addr / 64); (((sliceGet s i).queue.length < 64 ∨ sliceStopped s i = true)) ∧ let r := netOpen c.pkt false s; (Reaches 0x35 c way r))
    ∧ (∃ a : NetArr, ∃ way : List NetHop, ∃ s : State,
        let c := netClassed s a; let i := homeOf (c.pkt.addr / 64); (((sliceGet s i).queue.length < 64 ∨ sliceStopped s i = true)) ∧ let r := netOpen c.pkt false s; (Reaches 0x36 c way r))
    ∧ (∃ a : NetArr, ∃ way : List NetHop, ∃ s : State, (Reaches 0x3F a way s))
    ∧ (∃ a : NetArr, ∃ way : List NetHop, ∃ s : State, (Reaches 0x40 a way s))
    ∧ (∃ a : NetArr, ∃ way : List NetHop, ∃ s : State, (Reaches 0x42 a way s))
    ∧ (∃ i : Nat, ∃ v : Word, ∃ s : State, (i < 16) ∧ (fon s F.cohRange_enable i = true)
        ∧ (rangeFrozen s i (v &&& 0xFFFFFFFFFFFFFFFE) = false))
    ∧ (∃ i : Nat, ∃ s : State, (i < 16) ∧ (fon s F.cohRange_flushing i = true)
        ∧ ((usedSlices s).all (fun j => (sliceGet s j).dir.all (fun e => !rangeHolds s i e.line) && (sliceGet s j).txns.all (fun t => !rangeHolds s i t.line)) = true)) :=
  ⟨⟨tN 1, _, {}, by decide, ⟨rfl, rfl, by decide, rfl, rfl, rfl, by decide⟩⟩,
   ⟨tN 1, _, {}, by decide, ⟨rfl, rfl, by decide, rfl, rfl, rfl, by decide⟩⟩,
   ⟨tN 1, _, {}, by decide, ⟨rfl, rfl, by decide, rfl, rfl, rfl, by decide⟩⟩,
   ⟨tN 1, _, {}, by decide, ⟨rfl, rfl, by decide, rfl, rfl, rfl, by decide⟩⟩,
   ⟨tN 1, _, {}, by decide, ⟨rfl, rfl, by decide, rfl, rfl, rfl, by decide⟩⟩,
   ⟨tN 1, _, {}, by decide, ⟨rfl, rfl, by decide, rfl, rfl, rfl, by decide⟩⟩,
   ⟨tN 1, _, {}, by decide, ⟨rfl, rfl, by decide, rfl, rfl, rfl, by decide⟩⟩,
   ⟨tN 1, _, {}, ⟨rfl, rfl, by decide, rfl, rfl, rfl, by decide⟩⟩,
   ⟨tN 1, _, {}, ⟨rfl, rfl, by decide, rfl, rfl, rfl, by decide⟩⟩,
   ⟨tN 1, _, {}, ⟨rfl, rfl, by decide, rfl, rfl, rfl, by decide⟩⟩,
   ⟨0, 0, fset F.cohRange_enable 0 1 {}, by decide⟩,
   ⟨0, fset F.cohRange_flushing 0 1 {}, by decide⟩⟩

/-- Witnesses: the hypotheses of each clause of AgentSideCommandsComplete are met together. -/
theorem test_witness_AgentSideCommandsComplete :
    (∃ a : NetArr, ∃ way : List NetHop, ∃ s : State, (Reaches 0x38 a way s))
    ∧ (∃ a : NetArr, ∃ way : List NetHop, ∃ s : State, (Reaches 0x39 a way s))
    ∧ (∃ a : NetArr, ∃ way : List NetHop, ∃ s : State, let p := a.pkt; (Reaches 0x3A a way s) ∧ (p.agent = 0))
    ∧ (∃ a : NetArr, ∃ way : List NetHop, ∃ s : State, let p := a.pkt; (Reaches 0x3A a way s) ∧ (p.agent ≠ 0))
    ∧ (∃ a : NetArr, ∃ way : List NetHop, ∃ s : State, (Reaches 0x3C a way s))
    ∧ (∃ a : NetArr, ∃ way : List NetHop, ∃ s : State, (Reaches 0x3D a way s))
    ∧ (∃ a : NetArr, ∃ way : List NetHop, ∃ s : State, (Reaches 0x3E a way s))
    ∧ (∃ a : NetArr, ∃ way : List NetHop, ∃ s : State, let p := a.pkt; (Reaches 0x41 a way s) ∧ (p.agent = 0))
    ∧ (∃ a : NetArr, ∃ way : List NetHop, ∃ s : State, let p := a.pkt; (Reaches 0x41 a way s) ∧ (1 ≤ p.agent) ∧ (p.agent ≤ 12))
    ∧ (∃ agent : Nat, ∃ line : Nat, ∃ s : State, (s.cohHold.contains (agent, line) = true))
    ∧ (∃ agent : Nat, ∃ line : Nat, ∃ s : State, (s.ackOwed.contains (agent, line) = true))
    ∧ (∃ agent : Nat, ∃ line : Nat, ∃ s : State,
        let i := homeOf line; let v := sliceGet s i; (v.txns.any (fun t => t.line == line && t.waiting.contains agent) = true)
        ∧ (1 ≤ agent) ∧ (agent ≤ 12)) :=
  ⟨⟨tN 0, _, {}, ⟨rfl, rfl, by decide, rfl, rfl, rfl, by decide⟩⟩,
   ⟨tN 0, _, {}, ⟨rfl, rfl, by decide, rfl, rfl, rfl, by decide⟩⟩,
   ⟨tN 0, _, {}, ⟨rfl, rfl, by decide, rfl, rfl, rfl, by decide⟩, by decide⟩,
   ⟨tN 1, _, {}, ⟨rfl, rfl, by decide, rfl, rfl, rfl, by decide⟩, by decide⟩,
   ⟨tN 0, _, {}, ⟨rfl, rfl, by decide, rfl, rfl, rfl, by decide⟩⟩,
   ⟨tN 0, _, {}, ⟨rfl, rfl, by decide, rfl, rfl, rfl, by decide⟩⟩,
   ⟨tN 0, _, {}, ⟨rfl, rfl, by decide, rfl, rfl, rfl, by decide⟩⟩,
   ⟨tN 0, _, {}, ⟨rfl, rfl, by decide, rfl, rfl, rfl, by decide⟩, by decide⟩,
   ⟨tN 1, _, {}, ⟨rfl, rfl, by decide, rfl, rfl, rfl, by decide⟩, by decide⟩,
   ⟨0, 0, { cohHold := [(0, 0)] }, by decide⟩,
   ⟨1, 0, { ackOwed := [(1, 0)] }, by decide⟩,
   ⟨1, 0, sliceSet (homeOf 0) { txns := [{ line := 0, goal := .drop, inval := true, waiting := [1] }] } {}, by decide⟩⟩

/-- Witnesses: the hypotheses of each clause of TenonAndHostCoherenceCommandsComplete are met together. -/
theorem test_witness_TenonAndHostCoherenceCommandsComplete :
    (∃ n : Nat, ∃ addr : Nat, ∃ p : Nat, ∃ s : State, (cxlUp s n 1 = true) ∧ (p < 256)
        ∧ ((sliceGet s (homeOf (addr / 64))).queue.length < 64) ∧ ((siteGet s n).serves = some p))
    ∧ (∃ n : Nat, ∃ s : State, (siteReady s n = true))
    ∧ (∃ port : Nat, ∃ addr : Nat, ∃ a : Nat, ∃ s : State, (dlActive s port = true)
        ∧ (fon s F.hostpPortStatus_contained port = false) ∧ (bitOn (fget s F.hostpPortStatus_cxl port) 2 = true)
        ∧ (hdmDecode s port addr = some a) ∧ ((sliceGet s (homeOf (a / 64))).queue.length < 64))
    ∧ (∃ port : Nat, ∃ s : State, (dlActive s port = true) ∧ (fon s F.hostpPortStatus_contained port = false)
        ∧ (bitOn (fget s F.hostpPortStatus_cxl port) 1 = true)) :=
  ⟨⟨0, 0, 1, tT 9 1 5, by decide⟩,
   ⟨0, tT 9 1 5, by decide⟩,
   ⟨0, 0, 0, tH, by decide⟩,
   ⟨0, tH, by decide⟩⟩

/-- Witnesses: the hypotheses of each clause of MemoryControllerCommandsComplete are met together. -/
theorem test_witness_MemoryControllerCommandsComplete :
    (∃ addr : Nat, ∃ n : Nat, ∃ cls : Nat, ∃ who : MemReq, ∃ u : MemUpset, ∃ s : State, (ctlReady s addr = true)
        ∧ (addr % 512 + n ≤ 512) ∧ (s.lost.contains (addr / 512) = false) ∧ (u.errors ≤ 8)
        ∧ let q := addr / 512; let c := ctlOf (q * 512); let tick := match MemReq.part s who with | some p => tickOf s p | none => fget s F.tickCounter_count 0; let t := sectorRead q u (slcMem addr (memClass s cls who) n s); (memInjected t c tick = none) ∧ (decodeRead q u = .good))
    ∧ (∃ addr : Nat, ∃ n : Nat, ∃ cls : Nat, ∃ who : MemReq, ∃ u : MemUpset, ∃ s : State, (ctlReady s addr = true)
        ∧ (addr % 512 + n ≤ 512) ∧ (s.lost.contains (addr / 512) = false) ∧ (u.errors ≤ 8)
        ∧ let q := addr / 512; let c := ctlOf (q * 512); let tick := match MemReq.part s who with | some p => tickOf s p | none => fget s F.tickCounter_count 0; let t := sectorRead q u (slcMem addr (memClass s cls who) n s); (memInjected t c tick = none) ∧ ∃ v, (decodeRead q u = .corrected) ∧ (worstSymbols q u < 5) ∧ (noteCorrected q (fbump F.memcCeCount_count (ctlReg c) 1 { t with wback := if t.wback.contains q then t.wback else t.wback ++ [q] }) = (false, v)))
    ∧ (∃ addr : Nat, ∃ data : List Byte, ∃ s : State, (ctlReady s addr = true) ∧ (data.isEmpty = false)
        ∧ (addr % 512 + data.length ≤ 512) ∧ let q := addr / 512; let full := decide (addr % 512 = 0
        ∧ data.length = 512); (wcVictim s q data.length = none) ∧ ((s.lost.contains q = true → full = true)))
    ∧ (∃ u : MemUpset, (u.writeErrors = 0) ∧ (u.refreshX2 = none))
    ∧ (∃ ctl : Nat, ∃ e : WcEntry, ∃ rest : List WcEntry, ∃ u : MemUpset, ∃ s : State, (wcGet s ctl = e :: rest)
        ∧ (ctlReady s (e.sector * 512) = true) ∧ (u.errors ≤ 8) ∧ (decodeRead e.sector u = .good)
        ∧ let c := ctlOf (e.sector * 512); let t := sectorRead e.sector u (wcSet ctl rest s); (memInjected t c (fget (wcSet ctl rest s) F.tickCounter_count 0) = none))
    ∧ (∃ sector : Nat, ∃ s : State, (s.wback.contains sector = true) ∧ (ctlReady s (sector * 512) = true))
    ∧ (∃ sector : Nat, ∃ u : MemUpset, ∃ s : State, (ctlReady s (sector * 512) = true) ∧ (s.lost.contains sector = false)
        ∧ (u.errors ≤ 8) ∧ (decodeRead sector u = .good)
        ∧ let t := sectorRead sector u s; (memInjected t (ctlOf (sector * 512)) (fget s F.tickCounter_count 0) = none))
    ∧ (∃ ctl : Nat, ∃ chan : Nat, ∃ e : Nat × Nat × Nat, ∃ s : State,
        (s.retrains.find? (fun e => e.1 == ctl && e.2.1 == chan) = some e) ∧ (e.2.2 < s.edges ∨ isMember s = false))
    ∧ (∃ ctl : Nat, ∃ chan : Nat, ∃ rate : Nat, ∃ s : State, (s.training.contains (ctl, chan) = true) ∧ (rate ≠ 0)
        ∧ (fget s F.memcStatus_rate (ctlReg ctl) ≤ rate))
    ∧ (∃ ctl : Nat, ∃ chan : Nat, ∃ rate : Nat, ∃ s : State, (s.training.contains (ctl, chan) = true) ∧ (rate ≠ 0)
        ∧ (rate < fget s F.memcStatus_rate (ctlReg ctl)))
    ∧ (∀ n, Config.spareRows 0 = n + 1 → ∃ ctl : Nat, ∃ k : Nat, ∃ q : Nat × Nat, ∃ s : State,
        (s.repairs.find? (fun q => ctlOf (q.1 * 512) == ctl) = some q) ∧ (Map.get? s.repairedAt ctl ≠ some s.edges)
        ∧ (q.2 < s.edges ∨ isMember s = false)
        ∧ let r := rowOf q.1; let t := setQueued ctl { s with repairs := s.repairs.erase q, repairedAt := Map.set s.repairedAt ctl s.edges }; ((rowsOf t ctl).find? (fun e => e.isRow q.1) = none) ∧ (freeSpare t ctl r.1 r.2.1 = some k) ∧ ((rowsOf t ctl).length < repairTableSize ctl)) :=
  ⟨⟨0, 64, 0, .outside, {}, fset F.memcStatus_state 0 1 {}, by decide, by decide, (by decide), by decide, by decide⟩,
   ⟨0, 64, 0, .outside, { flips := [0] }, fset F.memcStatus_state 0 1 {}, by decide, by decide, (by decide), by decide,
       by decide, _, by decide, by decide, rfl⟩,
   ⟨0, [1], fset F.memcStatus_state 0 1 {}, by decide, by decide, (by decide), by decide⟩,
   ⟨{}, by decide⟩,
   ⟨0, ⟨0, [0]⟩, [], {}, wcSet 0 [⟨0, [0]⟩] (fset F.memcStatus_state 0 1 {}), by decide, by decide, (by decide), by decide,
       by decide⟩,
   ⟨0, { fset F.memcStatus_state 0 1 {} with wback := [0] }, by decide⟩,
   ⟨0, {}, fset F.memcStatus_state 0 1 {}, by decide, by decide, (by decide), by decide, by decide⟩,
   ⟨0, 0, (0, 0, 0), { fset F.memcStatus_state 0 1 {} with retrains := [(0, 0, 0)] }, by decide⟩,
   ⟨0, 0, 3, { fset F.memcStatus_rate 0 1 (fset F.memcStatus_state 0 2 {}) with training := [(0, 0)] }, by decide⟩,
   ⟨0, 0, 1, { fset F.memcStatus_rate 0 3 (fset F.memcStatus_state 0 2 {}) with training := [(0, 0)] }, by decide⟩,
   (fun n h => ⟨0, 0, (0, 0), { repairs := [(0, 0)] }, by decide, by decide, (by decide), by decide,
       (by change (List.range (Config.spareRows 0)).find? _ = some 0; rw [h, List.range_succ_eq_map]; rfl), by decide⟩)⟩

/-- Witnesses: the hypotheses of each clause of ClearAndResourceCommandsComplete are met together. -/
theorem test_witness_ClearAndResourceCommandsComplete :
    (∃ id : Nat, ∃ c : Cmd, ∃ s : State, (Starts 0x0206 id c s) ∧ (fon s F.memStatus_clearing 0 = false))
    ∧ (∃ v : Word, ∃ s : State, (v.getLsbD 8 = true)
        ∧ let p := bitsAt v.toNat 0 8; let t := fset F.memClear_partition 0 p s; (fon t F.memStatus_clearing 0 = false))
    ∧ (∃ v : Word, ∃ s : State, (v.getLsbD 8 = true)
        ∧ let p := bitsAt v.toNat 0 8; let t := fset F.memClear_partition 0 p s; (fon t F.memStatus_clearing 0 = true))
    ∧ (∃ s : State, (fon s F.memStatus_clearing 0 = true) ∧ (s.clearAll = false)
        ∧ let p := fget s F.memStatus_clearPart 0; (clearReady s p = true) ∧ (s.unsecure.contains p = false))
    ∧ (∃ id : Nat, ∃ x : Nat, ∃ va : Nat, ∃ c : Cmd, ∃ s : State, (Starts 0x0207 id c s)
        ∧ let p := (ctxGet s c.pkt.ctx).part; let l := (s.ledger.pages.drop c.pkt.w2).take (orefRoom s p c.pkt.w1 / 8); (orefRange s p c.pkt.w1 0 = .ok (x, va)) ∧ (vaWritable s x va (8 * l.length) = true))
    ∧ (∃ v : Word, ∃ t : Nat, ∃ s : State, (bitOn v.toNat 20 = true)
        ∧ let g := bitsAt v.toNat 0 19; let u := fset F.defMapout_wholeBay 0 (bitsAt v.toNat 19 1) (fset F.defMapout_tile 0 g s); (localTile g = some t) ∧ (hubOfTile g = hubId u) ∧ (bayLost u (fieldOf t) (bayOf t % 64) = false) ∧ (u.mapouts.length < 64))
    ∧ (∃ s : State, (fon s F.gctlTileWhere_pending 0 = true))
    ∧ (∃ p : Nat, ∃ f : Nat, ∃ v : Word, ∃ s : State, (p < 256) ∧ (f < 9) ∧ (baysRefused s p f v = false))
    ∧ (∃ p : Nat, ∃ f : Nat, ∃ v : Word, ∃ s : State, (p < 256) ∧ (f < 9) ∧ (baysRefused s p f v = true))
    ∧ (∃ p : Nat, ∃ k : Nat, ∃ v : Word, ∃ s : State, (p < 256) ∧ (k < 8) ∧ (memRefused s p k v = false))
    ∧ (∃ p : Nat, ∃ k : Nat, ∃ v : Word, ∃ s : State, (p < 256) ∧ (k < 8) ∧ (memRefused s p k v = true)) :=
  ⟨⟨7, (gF 0x206 1 1 0 0), gS (gF 0x206 1 1 0 0) gM, ⟨rfl, rfl, rfl, by decide, by decide⟩, by decide⟩,
   ⟨0x101, {}, by decide, by decide⟩,
   ⟨0x101, fset F.memStatus_clearPart 0 1 (fset F.memStatus_clearing 0 1 {}), by decide, by decide⟩,
   ⟨fset F.memStatus_clearPart 0 1 (fset F.memStatus_clearing 0 1 {}), by decide, by decide, by decide⟩,
   ⟨7, 5, 0, ({ gF 0x207 2 1 0 0 with pkt := { (gF 0x207 2 1 0 0).pkt with ctx := 5 } }),
       gS ({ gF 0x207 2 1 0 0 with pkt := { (gF 0x207 2 1 0 0).pkt with ctx := 5 } }) gM, ⟨rfl, rfl, rfl, by decide, by decide⟩,
       ok_is (by decide), by decide⟩,
   ⟨0x100000, 0, {}, by decide, by decide⟩,
   ⟨fset F.gctlTileWhere_pending 0 1 {}, by decide⟩,
   ⟨1, 0, 0, {}, by decide⟩,
   ⟨1, 0, 0, partMod 1 (fun w => { w with enabled := true }) gM, by decide⟩,
   ⟨1, 0, 0, {}, by decide⟩,
   ⟨1, 0, 0, partMod 1 (fun w => { w with enabled := true }) gM, by decide⟩⟩

/-- Witnesses: the hypotheses of each clause of SitePowerAndTrainingEventsComplete are met together. -/
theorem test_witness_SitePowerAndTrainingEventsComplete :
    (∃ site : Nat, ∃ s : State, (site < 12) ∧ (siteState s site = 2))
    ∧ (∃ site : Nat, ∃ s : State, (site < 12) ∧ (siteState s site = 3))
    ∧ (∃ site : Nat, ∃ s : State, (site < 12) ∧ ∃ ms, (siteState s site = 4) ∧ (ms ≤ 500))
    ∧ (∃ site : Nat, ∃ s : State, (site < 12) ∧ (siteState s site = 4))
    ∧ (∃ site : Nat, ∃ s : State, (site < 12) ∧ (siteState s site = 6))
    ∧ (∃ site : Nat, ∃ s : State, (site < 12) ∧ (siteState s site = 9))
    ∧ (∃ site : Nat, ∃ s : State, (site < 12) ∧ (2 ≤ siteState s site) ∧ (siteState s site ≤ 9))
    ∧ (∃ site : Nat, ∃ s : State, (sideUp s site = true))
    ∧ (∃ site : Nat, ∃ s : State, (sideUp s site = true) ∧ ∃ mw, ∃ temp,
        let t := fset F.mtTelem_temp site (temp % 4096) (fset F.mtTelem_powerMw site mw s); (fon t F.mtStatus_descValid site = true) ∧ (sx 16 temp < (descByte t site 1 36 * 8 : Nat)) ∧ (mw ≤ sitePowerMw t site))
    ∧ (∃ site : Nat, ∃ s : State, (sideUp s site = true) ∧ ∃ mw, ∃ temp,
        let t := fset F.mtTelem_temp site (temp % 4096) (fset F.mtTelem_powerMw site mw s); (fon t F.mtStatus_descValid site = true) ∧ (sx 16 temp < (descByte t site 1 36 * 8 : Nat)) ∧ (sitePowerMw t site < mw) ∧ ((siteGet t site).throttled = false))
    ∧ (∃ site : Nat, ∃ s : State, (sideUp s site = true) ∧ ((siteGet s site).throttled = true))
    ∧ (∃ site : Nat, ∃ module : Nat, ∃ s : State, (site < 12) ∧ (module < 8) ∧ (modProto s site module ≠ 0)
        ∧ (modState s site module = 1))
    ∧ (∃ site : Nat, ∃ module : Nat, ∃ s : State, (site < 12) ∧ (module < 8) ∧ (modProto s site module ≠ 0) ∧ ∃ good,
        (modState s site module = 2) ∧ let w := laneWidth (siteCap s site 3) good; (w ≠ 0))
    ∧ (∃ site : Nat, ∃ module : Nat, ∃ s : State, (site < 12) ∧ (module < 8) ∧ (modProto s site module ≠ 0) ∧ ∃ good,
        (modState s site module = 2) ∧ let w := laneWidth (siteCap s site 3) good; (w = 0))
    ∧ (∃ site : Nat, ∃ module : Nat, ∃ s : State, (site < 12) ∧ (module < 8) ∧ (modProto s site module ≠ 0)
        ∧ (modState s site module = 3))
    ∧ (∃ site : Nat, ∃ module : Nat, ∃ s : State, (site < 12) ∧ (module < 8) ∧ (modProto s site module ≠ 0)
        ∧ (modState s site module = 4) ∧ (modProto s site module = 1))
    ∧ (∃ site : Nat, ∃ module : Nat, ∃ s : State, (site < 12) ∧ (module < 8) ∧ (modProto s site module ≠ 0)
        ∧ (1 ≤ modState s site module) ∧ (modState s site module ≤ 4))
    ∧ (∃ site : Nat, ∃ module : Nat, ∃ s : State, (site < 12) ∧ (module < 8) ∧ (modProto s site module ≠ 0)
        ∧ (modState s site module = 5))
    ∧ (∃ site : Nat, ∃ module : Nat, ∃ s : State, (site < 12) ∧ (module < 8) ∧ (modProto s site module ≠ 0)
        ∧ let i := site * 8 + module; ∃ good, (modState s site module = 6)
        ∧ let old := fget s F.mtModule_width i; let w := min (laneWidth (siteCap s site 3) good) old; (w = 0))
    ∧ (∃ site : Nat, ∃ module : Nat, ∃ s : State, (site < 12) ∧ (module < 8) ∧ (modProto s site module ≠ 0)
        ∧ let i := site * 8 + module; ∃ good, (modState s site module = 6)
        ∧ let old := fget s F.mtModule_width i; let w := min (laneWidth (siteCap s site 3) good) old; (w ≠ 0))
    ∧ (∃ site : Nat, ∃ module : Nat, ∃ s : State, (site < 12) ∧ (module < 8) ∧ (modProto s site module ≠ 0)
        ∧ (modState s site module = 6)) :=
  ⟨⟨0, tT 2 1 1, by decide⟩,
   ⟨0, tT 3 1 1, by decide⟩,
   ⟨0, tT 4 1 1, by decide, 0, by decide⟩,
   ⟨0, tT 4 1 1, by decide⟩,
   ⟨0, tT 6 1 1, by decide⟩,
   ⟨0, tT 9 1 1, by decide⟩,
   ⟨0, tT 2 1 1, by decide⟩,
   ⟨0, tT 5 1 1, by decide⟩,
   ⟨0, rset (fset F.mtStatus_descValid 0 1 (tT 9 1 5)) .mtDesc 4 0xFF00000000, by decide, 0, 0, by decide⟩,
   ⟨0, siteMod 0 (fun v => { v with throttled := false }) (rset (fset F.mtStatus_descValid 0 1 (tT 9 1 5)) .mtDesc 4 0xFF00000000), by decide, 1, 0, by decide⟩,
   ⟨0, tT 9 1 1, by decide⟩,
   ⟨0, 0, tT 8 1 1, by decide⟩,
   ⟨0, 0, tT 8 1 2, by decide, by decide, (by decide), 18446744073709551615, by decide, by decide⟩,
   ⟨0, 0, tT 8 1 2, by decide, by decide, (by decide), 0, by decide, by decide⟩,
   ⟨0, 0, tT 8 1 3, by decide⟩,
   ⟨0, 0, tT 8 1 4, by decide⟩,
   ⟨0, 0, tT 8 1 1, by decide⟩,
   ⟨0, 0, tT 8 1 5, by decide⟩,
   ⟨0, 0, tT 9 1 6, by decide, by decide, (by decide), 0, by decide, by decide⟩,
   ⟨0, 0, fset F.mtModule_width 0 3 (tT 9 1 6), by decide, by decide, (by decide), 18446744073709551615, by decide, by decide⟩,
   ⟨0, 0, tT 9 1 6, by decide⟩⟩

/-- Witnesses: the hypotheses of each clause of SiteMessagesAndControlComplete are met together. -/
theorem test_witness_SiteMessagesAndControlComplete :
    (∃ site : Nat, ∃ tag : Nat, ∃ m : SiteMsg, ∃ s : State, ∃ bytes : List Byte, (Awaits site 0x01 tag m s)
        ∧ let a := answered site 0x01 tag s; let l := (siteGet a site).chunks ++ [padTo 64 0 bytes]; let t := siteSet site { siteGet a site with chunks := l } a; (siteState t site = 5))
    ∧ (∃ site : Nat, ∃ tag : Nat, ∃ m : SiteMsg, ∃ s : State, ∃ bytes : List Byte, (Awaits site 0x09 tag m s)
        ∧ let t := siteMod site (fun v => { v with spdm := v.spdm ++ [bytes] }) (answered site 0x09 tag s); (siteState t site = 6))
    ∧ (∃ site : Nat, ∃ tag : Nat, ∃ m : SiteMsg, ∃ s : State, (Awaits site 0x02 tag m s)
        ∧ (siteState (answered site 0x02 tag s) site = 7))
    ∧ (∃ site : Nat, ∃ tag : Nat, ∃ m : SiteMsg, ∃ s : State, ∃ widths : List Nat, (Awaits site 0x03 tag m s)
        ∧ let t := answered site 0x03 tag s; let same := (List.range 8).all fun k => recAt m.payload k 1 == widths.getD k 0; 
let now := (List.range 8).all fun k =>
        recAt m.payload k 1 == [0, 16, 32, 64].getD (fget t F.mtModule_width (site * 8 + k)) 0
(same = true) ∧ (now = true) ∧ (siteState t site = 8))
    ∧ (∃ site : Nat, ∃ tag : Nat, ∃ m : SiteMsg, ∃ s : State, ∃ widths : List Nat, (Awaits site 0x03 tag m s)
        ∧ let same := (List.range 8).all fun k => recAt m.payload k 1 == widths.getD k 0; (same = false))
    ∧ (∃ site : Nat, ∃ tag : Nat, ∃ m : SiteMsg, ∃ s : State, (Awaits site 0x04 tag m s))
    ∧ (∃ site : Nat, ∃ tag : Nat, ∃ m : SiteMsg, ∃ s : State, (Awaits site 0x06 tag m s))
    ∧ (∃ site : Nat, ∃ tag : Nat, ∃ m : SiteMsg, ∃ s : State, (Awaits site 0x07 tag m s))
    ∧ (∃ site : Nat, ∃ tag : Nat, ∃ m : SiteMsg, ∃ s : State, (Awaits site 0x08 tag m s)
        ∧ let a := answered site 0x08 tag s; ((siteGet a site).owed = none))
    ∧ (∃ site : Nat, ∃ tag : Nat, ∃ m : SiteMsg, ∃ s : State, (Awaits site 0x08 tag m s)
        ∧ let a := answered site 0x08 tag s; ∃ w, ((siteGet a site).owed = some w))
    ∧ (∃ site : Nat, ∃ tag : Nat, ∃ m : SiteMsg, ∃ s : State, ∃ d, (Awaits site 0x0A tag m s)
        ∧ ((siteGet (answered site 0x0A tag s) site).down = some d))
    ∧ (∃ site : Nat, ∃ m : SiteMsg, ∃ s : State, ∃ op, (sideUp s site = true)
        ∧ ((siteGet s site).msgs.find? (·.op == op) = some m) ∧ ((siteGet s site).down = none) ∧ (m.again = false))
    ∧ (∃ site : Nat, ∃ s : State, (site < 12)
        ∧ let t := fset F.mtCtrl_enable site (fget s F.mtCtrl_enable site) s; (siteState t site = 9))
    ∧ (∃ site : Nat, ∃ s : State, (site < 12) ∧ ∃ v : Word,
        let w : Word := BitVec.ofNat 64 (bitsAt v.toNat 0 12); (assignRefused s site w = true))
    ∧ (∃ site : Nat, ∃ s : State, (site < 12) ∧ ∃ v : Word,
        let w : Word := BitVec.ofNat 64 (bitsAt v.toNat 0 12); (assignRefused s site w = false)
        ∧ ((siteGet s site).tenant = none) ∧ (siteState s site ≠ 9)) :=
  ⟨⟨0, 0, ⟨1, 0, [], false⟩, siteMod 0 (fun v => { v with msgs := [⟨1, 0, [], false⟩] }) (tT 5 1 5), [], ⟨by decide, by decide⟩,
      by decide⟩,
   ⟨0, 0, ⟨9, 0, [], false⟩, siteMod 0 (fun v => { v with msgs := [⟨9, 0, [], false⟩] }) (tT 6 1 5), [], ⟨by decide, by decide⟩,
       by decide⟩,
   ⟨0, 0, ⟨2, 0, [], false⟩, siteMod 0 (fun v => { v with msgs := [⟨2, 0, [], false⟩] }) (tT 7 1 5), ⟨by decide, by decide⟩,
       by decide⟩,
   ⟨0, 0, ⟨3, 0, [], false⟩, siteMod 0 (fun v => { v with msgs := [⟨3, 0, [], false⟩] }) (tT 8 1 5), [], ⟨by decide, by decide⟩,
       by decide⟩,
   ⟨0, 0, ⟨3, 0, [], false⟩, siteMod 0 (fun v => { v with msgs := [⟨3, 0, [], false⟩] }) (tT 8 1 5), [16], ⟨by decide,
       by decide⟩, by decide⟩,
   ⟨0, 0, ⟨4, 0, [], false⟩, siteMod 0 (fun v => { v with msgs := [⟨4, 0, [], false⟩] }) (tT 9 1 5), ⟨by decide, by decide⟩⟩,
   ⟨0, 0, ⟨6, 0, [], false⟩, siteMod 0 (fun v => { v with msgs := [⟨6, 0, [], false⟩] }) (tT 9 1 5), ⟨by decide, by decide⟩⟩,
   ⟨0, 0, ⟨7, 0, [], false⟩, siteMod 0 (fun v => { v with msgs := [⟨7, 0, [], false⟩] }) (tT 9 1 5), ⟨by decide, by decide⟩⟩,
   ⟨0, 0, ⟨8, 0, [], false⟩, siteMod 0 (fun v => { v with msgs := [⟨8, 0, [], false⟩] }) (tT 9 1 5), ⟨by decide, by decide⟩,
       by decide⟩,
   ⟨0, 0, ⟨8, 0, [], false⟩, siteMod 0 (fun v => { v with msgs := [⟨8, 0, [], false⟩], owed := some 0 }) (tT 9 1 5), ⟨by decide,
       by decide⟩, 0, by decide⟩,
   ⟨0, 0, ⟨10, 0, [], false⟩, siteMod 0 (fun v => { v with msgs := [⟨10, 0, [], false⟩], down := some .reset }) (tT 9 1 5),
       .reset, ⟨by decide, by decide⟩, by decide⟩,
   ⟨0, ⟨4, 0, [], false⟩, siteMod 0 (fun v => { v with msgs := [⟨4, 0, [], false⟩] }) (tT 9 1 5), 4, by decide⟩,
   ⟨0, tT 9 1 5, by decide, by decide⟩,
   ⟨0, tT 5 1 5, by decide, 0, by decide⟩,
   ⟨0, tT 1 1 5, by decide, 0, by decide⟩⟩

/-- Witnesses: the hypotheses of each clause of TenonAndHostAccessesComplete are met together. -/
theorem test_witness_TenonAndHostAccessesComplete :
    (∃ site : Nat, ∃ module : Nat, ∃ p : NetPkt, ∃ s : State, (siteReady s site = true) ∧ (module < 8)
        ∧ (modProto s site module = 2) ∧ ∃ ty, (modState s site module = 5) ∧ (homesFull s p.addr (p.lines * 64) = false)
        ∧ (ty ∈ [0x01, 0x02, 0x03, 0x04, 0x05, 0x07]) ∧ (p.lines ≤ 8) ∧ let u := rawUnits p.data.length; 
let t := emit .site 0x160 (if rawVc ty = 1 then [site, module, u, 0] else [site, module, 0, u]) []
        (fwrap F.mtRxbytes_count F.mtRxbytes_ovf site p.data.length s)
(p.dstHub = hubId t))
    ∧ (∃ site : Nat, ∃ module : Nat, ∃ s : State, (siteReady s site = true) ∧ (module < 8) ∧ (modProto s site module = 2))
    ∧ (∃ site : Nat, ∃ p : Nat, ∃ addr : Nat, ∃ n : Nat, ∃ data : List Byte, ∃ s : State, (cxlUp s site 0 = true)
        ∧ (homesFull s addr n = false) ∧ let t := fwrap F.mtRxbytes_count F.mtRxbytes_ovf site data.length s; ((siteGet t site).serves = some p))
    ∧ (∃ site : Nat, ∃ tag : Nat, ∃ data : List Byte, ∃ x : SiteAsk, ∃ s : State, (siteReady s site = true)
        ∧ let t := fwrap F.mtRxbytes_count F.mtRxbytes_ovf site data.length s; ((siteGet t site).asks.find? (fun x => x.module == 8 && x.tag == tag && true) = some x))
    ∧ (∃ port : Nat, ∃ fn : Nat, ∃ off : Nat, ∃ n : Nat, ∃ s : State, (dlActive s port = true)
        ∧ (fon s F.hostpPortStatus_contained port = false) ∧ (fn < 256) ∧ (off + n ≤ 4096))
    ∧ (∃ port : Nat, ∃ fn : Nat, ∃ off : Nat, ∃ s : State, (dlActive s port = true)
        ∧ (fon s F.hostpPortStatus_contained port = false) ∧ (fn < 256) ∧ (off < 4096))
    ∧ (∃ port : Nat, ∃ fn : Nat, ∃ off : Nat, ∃ n : Nat, ∃ a : Nat, ∃ write : Bool, ∃ data : List Byte, ∃ s : State,
        (dlActive s port = true) ∧ (fon s F.hostpPortStatus_contained port = false) ∧ (fn < 256)
        ∧ (fget s F.partSec_tdisp fn ≠ 2)
        ∧ let k := if write = true then data.length else n; let t := fwrap F.hostpRxbytes_count F.hostpRxbytes_ovf port data.length (linkWake port s); (bar4Decode s fn off k = some a) ∧ (homesFull s a k = false) ∧ (fget t F.partSec_tdisp fn ≠ 2) ∧ (hubReady t = true) ∧ (bar4Decode t fn off k = some a) ∧ (placeOf t a k = .mem)) :=
  ⟨⟨0, 0, (tN 1).pkt, tT 9 2 5, by decide, by decide, (by decide), 1, by decide, by decide, (by decide), by decide, by decide⟩,
   ⟨0, 0, tT 9 2 5, by decide⟩,
   ⟨0, 1, 0, 4, [], tT 9 1 5, by decide, by decide, by decide⟩,
   ⟨0, 0, [], ⟨0, 8, false, none, 0, .unit 0 0⟩,
       siteMod 0 (fun v => { v with asks := [⟨0, 8, false, none, 0, .unit 0 0⟩] }) (tT 9 1 5), by decide, by decide⟩,
   ⟨0, 1, 0, 4, tH, by decide⟩,
   ⟨0, 1, 0, tH, by decide⟩,
   ⟨0, 1, 0, 4, 0, false, [], fset F.hostfBar4_enable 4 1 (fset F.hostfBar4_sizeLog2 4 16 (fset F.memcStatus_capMib 0 1024 (fset F.memStatus_stackedReady 0 1 tH))), by decide, by decide, (by decide), by decide, by decide⟩⟩

/-- Witnesses: the hypotheses of each clause of HostLinkAndPowerEventsComplete are met together. -/
theorem test_witness_HostLinkAndPowerEventsComplete :
    (∃ port : Nat, ∃ s : State, (dlActive s port = true) ∧ ∃ fn, (fn < 256)
        ∧ (confidential (tearSilent (· == fn) (resetPartition fn s)) fn = false) ∧ (fn ≠ 0))
    ∧ (∃ port : Nat, ∃ s : State, (dlActive s port = true) ∧ (fon s F.hostpPortStatus_contained port = false))
    ∧ (∃ port : Nat, ∃ s : State, (isPort s port = true) ∧ ∃ rate, ∃ width, (lstate s port = 2) ∧ (1 ≤ rate) ∧ (rate ≤ 6)
        ∧ (width ∈ [4, 8, 16]))
    ∧ (∃ port : Nat, ∃ s : State, (isPort s port = true) ∧ (lstate s port = 3) ∧ (fon s F.hostpPortStatus_flit port = false))
    ∧ (∃ port : Nat, ∃ s : State, (isPort s port = true) ∧ (lstate s port = 3 ∨ lstate s port = 4))
    ∧ (∃ port : Nat, ∃ s : State, (isPort s port = true) ∧ (lstate s port = 5) ∧ (fon s F.hostpPortCtrl_l1EarlyExit port = true))
    ∧ (∃ port : Nat, ∃ s : State, (isPort s port = true))
    ∧ (∃ port : Nat, ∃ s : State, (isPort s port = true) ∧ ∃ via, (via ≠ some port))
    ∧ (∃ port : Nat, ∃ s : State, (isPort s port = true) ∧ ∃ fn, (fn < 256) ∧ (fn ≠ 0)
        ∧ (s.d3.contains (port * 256 + fn) = false))
    ∧ (∃ port : Nat, ∃ s : State, (isPort s port = true) ∧ ∃ fn, (s.d3.contains (port * 256 + fn) = true) ∧ (fn ≠ 0))
    ∧ (∃ port : Nat, ∃ s : State, (port < 4) ∧ (s.perst.contains port = false)
        ∧ let t := emit .pin 0x06 [0] [] { s with perst := s.perst ++ [port], wakeLow := false }; (lstate t port = 1)
        ∧ (4 < fget t F.bootStatus_step 0))
    ∧ (∃ port : Nat, ∃ s : State, (port < 4) ∧ (s.perst.contains port = false)
        ∧ let t := emit .pin 0x06 [0] [] { s with perst := s.perst ++ [port], wakeLow := false }; (lstate t port ≠ 1))
    ∧ (∃ s : State, (allD3 s = true) ∧ (fon s F.pwrStatus_mainOn 0 = true)) :=
  ⟨⟨0, tH, by decide, 1, by decide⟩,
   ⟨0, tH, by decide⟩,
   ⟨0, fset F.hostpPortStatus_lstate 0 2 gM, by decide, 1, 4, by decide⟩,
   ⟨0, fset F.hostpPortStatus_lstate 0 3 gM, by decide⟩,
   ⟨0, tH, by decide⟩,
   ⟨0, fset F.hostpPortCtrl_l1EarlyExit 0 1 (fset F.hostpPortStatus_lstate 0 5 gM), by decide⟩,
   ⟨0, tH, by decide⟩,
   ⟨0, tH, by decide, none, by decide⟩,
   ⟨0, tH, by decide, 1, by decide⟩,
   ⟨0, { tH with d3 := [1] }, by decide, 1, by decide⟩,
   ⟨0, fset F.bootStatus_step 0 5 (fset F.hostpPortStatus_lstate 0 1 gM), by decide, by decide, by decide⟩,
   ⟨0, tH, by decide, by decide, by decide⟩,
   ⟨fset F.pwrStatus_mainOn 0 1 {}, by decide⟩⟩

/-- Witnesses: the hypotheses of each clause of HostRegisterCommandsComplete are met together. -/
theorem test_witness_HostRegisterCommandsComplete :
    (∃ s : State, (fget s F.hostpHubStatus_enabled 0 ≠ 0) ∧ ((List.range 4).any (dlActive s) = false)
        ∧ (fget s F.bootStatus_hubState 0 = 1))
    ∧ (∃ s : State, (fon s F.hostpHotplug_assistEn 0 = true))
    ∧ (∃ v : Word, ∃ s : State, (bitOn v.toNat 1 = false)
        ∧ let t := fset F.hostpHotplug_pwrInd 0 (bitsAt v.toNat 4 2) (fset F.hostpHotplug_attnInd 0 (bitsAt v.toNat 2 2) s); let u := emit .pin 0x09 [fget t F.hostpHotplug_attnInd 0, fget t F.hostpHotplug_pwrInd 0] [] t; (bitOn v.toNat 6 = true) ∧ (bitOn v.toNat 9 = false) ∧ (fon u F.hostpHotplug_assistEn 0 = true))
    ∧ (∃ v : Word, (bitOn v.toNat 1 = false) ∧ (bitOn v.toNat 9 = true) ∧ (bitOn v.toNat 6 = false))
    ∧ (∃ port : Nat, ∃ fn : Nat, ∃ page : Nat, ∃ log2 : Nat, ∃ itag : Nat, ∃ s : State, (portUp s port = true) ∧ (port < 4)
        ∧ (12 ≤ log2) ∧ ((s.invs.filter (·.port == port)).length < 32) ∧ let i : Inval := ⟨port, itag, fn, page, log2,
        s.edges⟩; (s.pins.any (fun n => n.part == fn && invMeets i (n.host / 65536) 16) = false))
    ∧ (∃ port : Nat, ∃ itag : Nat, ∃ i : Inval, ∃ s : State, (s.invs.find? (fun i => i.port == port && i.itag == itag) = some i)
        ∧ (invDrained s i = true))
    ∧ (∃ v : Word, ∃ s : State, (bitOn v.toNat 17 = true) ∧ (bitOn v.toNat 16 = true) ∧ (fon s F.hostpBiasFlip_busy 0 = false)
        ∧ let r := bitsAt v.toNat 0 4; let page := bitsAt v.toNat 4 12; let t := rset s .hostpBiasFlip 0 (BitVec.ofNat 64 (putBits (rget s .hostpBiasFlip 0).toNat 0 17 v.toNat)); (hostShared t r = true) ∧ (page < rangePages t r))
    ∧ (∃ v : Word, ∃ s : State, (bitOn v.toNat 17 = true) ∧ (bitOn v.toNat 16 = true) ∧ (fon s F.hostpBiasFlip_busy 0 = false)
        ∧ let r := bitsAt v.toNat 0 4; let t := rset s .hostpBiasFlip 0 (BitVec.ofNat 64 (putBits (rget s .hostpBiasFlip 0).toNat 0 17 v.toNat)); (hostShared t r = false))
    ∧ (∃ f : Nat, ∃ k : Nat, ∃ v : Word, ∃ s : State, (f < 256) ∧ (k < 4) ∧ (bitOn v.toNat 0 = true) ∧ (partLocked s f = false)
        ∧ let i := f * 4 + k; let t := rset s .hostfBar4 i (BitVec.ofNat 64 (placed 8 6 (bitsAt v.toNat 8 6) + placed 16 24 (bitsAt v.toNat 16 24))); let n := fget t F.hostfBar4_sizeLog2 i; (16 ≤ n) ∧ (n ≤ 40) ∧ (confidential t f = false) ∧ (inPart t f (fget t F.hostfBar4Dpa_dpa i * 65536) (2 ^ n) = true))
    ∧ (∃ f : Nat, ∃ k : Nat, ∃ v : Word, ∃ s : State, (f < 256) ∧ (k < 4) ∧ (bitOn v.toNat 0 = true) ∧ (partLocked s f = false)
        ∧ let i := f * 4 + k; let t := rset s .hostfBar4 i (BitVec.ofNat 64 (placed 8 6 (bitsAt v.toNat 8 6) + placed 16 24 (bitsAt v.toNat 16 24))); let n := fget t F.hostfBar4_sizeLog2 i; (16 ≤ n) ∧ (n ≤ 40) ∧ (inPart t f (fget t F.hostfBar4Dpa_dpa i * 65536) (2 ^ n) = false))
    ∧ (∃ w : RegWr, (w.path = .mgmt))
    ∧ (∃ w : RegWr, ∃ s : State, ∃ port, ∃ ide, (w.path = .pf port ide) ∧ (dlActive s port = true)
        ∧ (fon s F.hostpPortStatus_contained port = false)
        ∧ let t := fwrap F.hostpRxbytes_count F.hostpRxbytes_ovf port w.bytes.length (linkWake port s); (fget t F.partSec_tdisp 0 ≠ 2 ∨ ide = true)) :=
  ⟨⟨fset F.hostpHubStatus_enabled 0 1 gM, by decide⟩,
   ⟨fset F.hostpHotplug_assistEn 0 1 {}, by decide⟩,
   ⟨64, fset F.hostpHotplug_assistEn 0 1 {}, by decide, by decide⟩,
   ⟨512, by decide⟩,
   ⟨0, 1, 0, 12, 0, tH, by decide, by decide, (by decide), by decide, by decide⟩,
   ⟨0, 0, ⟨0, 0, 1, 0, 12, 0⟩, { invs := [⟨0, 0, 1, 0, 12, 0⟩] }, by decide⟩,
   ⟨0x30000, fset F.cohRange_enable 0 1 (fset F.cohRange_agents 0 8192 {}), by decide, by decide, (by decide), by decide⟩,
   ⟨0x30000, {}, by decide, by decide, (by decide), by decide⟩,
   ⟨1, 0, 4097, gM, by decide, by decide, (by decide), by decide, by decide⟩,
   ⟨2, 0, 4097, gM, by decide, by decide, (by decide), by decide, by decide⟩,
   ⟨⟨.mgmt, 0, 0, 0, []⟩, by decide⟩,
   ⟨⟨.pf 0 false, 0, 0, 0, []⟩, tH, 0, false, by decide, by decide, (by decide), by decide⟩⟩

/-- Witnesses: the hypotheses of each clause of SpdmRequestsComplete are met together. -/
theorem test_witness_SpdmRequestsComplete :
    (∃ ch : Nat, ∃ msg : List Byte, ∃ s : State, (spdmOpen s ch = true) ∧ (msg.length ≤ 4096)
        ∧ let code := recAt msg 1 1; (recAt msg 0 1 = 0x10) ∧ (code = 0x84))
    ∧ (∃ ch : Nat, ∃ msg : List Byte, ∃ s : State, (spdmOpen s ch = true) ∧ (msg.length ≤ 4096)
        ∧ let k := spdmGet s ch; let code := recAt msg 1 1; (recAt msg 0 1 = 0x13) ∧ (code = 0xE1) ∧ (k.stage = 1))
    ∧ (Config.spdmCurve [0x13, 0xE3] = 1 → ∃ ch : Nat, ∃ msg : List Byte, ∃ s : State, (spdmOpen s ch = true)
        ∧ (msg.length ≤ 4096) ∧ let k := spdmGet s ch; let code := recAt msg 1 1; (recAt msg 0 1 = 0x13) ∧ (code = 0xE3)
        ∧ (k.stage = 2) ∧ (Config.spdmCurve msg ≠ 0))
    ∧ (∃ ch : Nat, ∃ msg : List Byte, ∃ s : State, (spdmOpen s ch = true) ∧ (msg.length ≤ 4096)
        ∧ let k := spdmGet s ch; let code := recAt msg 1 1; (recAt msg 0 1 = 0x13) ∧ (k.stage = 3) ∧ (canAttest s = true)
        ∧ (code = 0x81))
    ∧ (0 < (Config.certificate []).length → ∃ ch : Nat, ∃ msg : List Byte, ∃ s : State, (spdmOpen s ch = true)
        ∧ (msg.length ≤ 4096) ∧ let k := spdmGet s ch; let code := recAt msg 1 1; let chain := Config.certificate s.ident; (recAt msg 0 1 = 0x13) ∧ (k.stage = 3) ∧ (canAttest s = true) ∧ (code = 0x82) ∧ (recAt msg 2 1 = 0) ∧ (recAt msg 4 2 < chain.length))
    ∧ (∃ ch : Nat, ∃ msg : List Byte, ∃ s : State, (spdmOpen s ch = true) ∧ (msg.length ≤ 4096)
        ∧ let k := spdmGet s ch; let code := recAt msg 1 1; (recAt msg 0 1 = 0x13) ∧ (k.stage = 3) ∧ (canAttest s = true)
        ∧ (code = 0x83) ∧ (recAt msg 2 1 = 0))
    ∧ (∃ ch : Nat, ∃ msg : List Byte, ∃ s : State, (spdmOpen s ch = true) ∧ (msg.length ≤ 4096)
        ∧ let k := spdmGet s ch; let code := recAt msg 1 1; (recAt msg 0 1 = 0x13) ∧ (k.stage = 3) ∧ (canAttest s = true)
        ∧ (code = 0xE0))
    ∧ (∃ ch : Nat, ∃ msg : List Byte, ∃ s : State, (spdmOpen s ch = true) ∧ (msg.length ≤ 4096)
        ∧ let k := spdmGet s ch; let code := recAt msg 1 1; (recAt msg 0 1 = 0x13) ∧ (k.stage = 3) ∧ (canAttest s = true)
        ∧ (code = 0xE4) ∧ (k.session = none))
    ∧ (Config.spdmProof [] [0x13, 0xE5] = true → ∃ ch : Nat, ∃ msg : List Byte, ∃ s : State, (spdmOpen s ch = true)
        ∧ (msg.length ≤ 4096) ∧ let k := spdmGet s ch; let code := recAt msg 1 1; (recAt msg 0 1 = 0x13) ∧ (k.stage = 3)
        ∧ (canAttest s = true) ∧ (code = 0xE5) ∧ (k.session.isSome = true) ∧ (k.secured = false)
        ∧ (Config.spdmProof k.transcript msg = true))
    ∧ (∃ ch : Nat, ∃ msg : List Byte, ∃ s : State, (spdmOpen s ch = true) ∧ (msg.length ≤ 4096)
        ∧ let k := spdmGet s ch; let code := recAt msg 1 1; (recAt msg 0 1 = 0x13) ∧ (k.stage = 3) ∧ (canAttest s = true)
        ∧ (k.secured = true) ∧ (code = 0xE8))
    ∧ (∃ ch : Nat, ∃ msg : List Byte, ∃ s : State, (spdmOpen s ch = true) ∧ (msg.length ≤ 4096)
        ∧ let k := spdmGet s ch; let code := recAt msg 1 1; (recAt msg 0 1 = 0x13) ∧ (k.stage = 3) ∧ (canAttest s = true)
        ∧ (k.secured = true) ∧ (code = 0xE9))
    ∧ (∃ ch : Nat, ∃ msg : List Byte, ∃ s : State, (spdmOpen s ch = true) ∧ (msg.length ≤ 4096)
        ∧ let k := spdmGet s ch; let code := recAt msg 1 1; (recAt msg 0 1 = 0x13) ∧ (k.stage = 3) ∧ (canAttest s = true)
        ∧ (k.secured = true) ∧ (code = 0xEC))
    ∧ (∃ ch : Nat, ∃ ctx : Nat, ∃ obj : Nat, ∃ off : Nat, ∃ len : Nat, ∃ part : Option Nat, ∃ host : List Byte, ∃ bs : List Byte,
        ∃ e : ObjE, ∃ s : State, (spdmOpen s ch = true) ∧ ((spdmGet s ch).secured = true)
        ∧ let p := spdmPart ch part; (off % 64 = 0) ∧ (len ≠ 0) ∧ ((ctxGet s ctx).state ≠ .free) ∧ ((ctxGet s ctx).part = p)
        ∧ (objGet s p obj = some e) ∧ (e.state = 1) ∧ (e.ctx = ctx) ∧ (off + len ≤ e.size)
        ∧ (vaRead s ctx (piecesOf (e.base + off) len) host = .ok bs))
    ∧ (∃ id : Nat, ∃ c : Cmd, ∃ part : Option Nat, ∃ host : List Byte, ∃ msg : List Byte, ∃ s : State, (Starts 0x0501 id c s)
        ∧ (dataIn s c host = .ok msg) ∧ let ch := if c.src == .mgmt then 256 else 257; let r := spdmAnswer ch part msg s; (recAt msg 1 1 ≠ 0xFE) ∧ (r.1.length ≤ dataRoom c))
    ∧ (∃ id : Nat, ∃ c : Cmd, ∃ host : List Byte, ∃ msg : List Byte, ∃ s : State, (Starts 0x0501 id c s)
        ∧ (dataIn s c host = .ok msg) ∧ (recAt msg 0 1 = 0x10) ∧ (recAt msg 1 1 = 0x84) ∧ (msg.length ≤ 4096) ∧ (8 ≤ dataRoom c))
    ∧ (∃ id : Nat, ∃ x : Nat, ∃ va : Nat, ∃ c : Cmd, ∃ host : List Byte, ∃ nonce : List Byte, ∃ s : State,
        (Starts 0x0508 id c s) ∧ let p := (ctxGet s c.pkt.ctx).part; (orefRange s p c.pkt.w1 64 = .ok (x, va))
        ∧ (vaRead s x (piecesOf va 64) host = .ok nonce) ∧ (canAttest s = true) ∧ (1924 ≤ dataRoom c)) :=
  ⟨⟨256, [0x10, 0x84], fset F.mgmtStatus_daValid 0 1 {}, by decide, by decide, by decide⟩,
   ⟨256, [0x13, 0xe1], { fset F.secStatus_udsOk 0 1 (fset F.mgmtStatus_daValid 0 1 {}) with spdm := [(256, { stage := 1 })] },
       by decide, by decide, by decide⟩,
   (fun h => ⟨256, [0x13, 0xe3], { fset F.secStatus_udsOk 0 1 (fset F.mgmtStatus_daValid 0 1 {}) with spdm := [(256, { stage := 2 })] }, by decide, by decide, (by decide), by decide, by decide, (by rw [h]; decide)⟩),
   ⟨256, [0x13, 0x81], { fset F.secStatus_udsOk 0 1 (fset F.mgmtStatus_daValid 0 1 {}) with spdm := [(256, { stage := 3 })] },
       by decide, by decide, by decide⟩,
   (fun h => ⟨256, [0x13, 0x82], { fset F.secStatus_udsOk 0 1 (fset F.mgmtStatus_daValid 0 1 {}) with spdm := [(256, { stage := 3 })] }, by decide, by decide, (by decide), by decide, by decide, (by decide), by decide, h⟩),
   ⟨256, [0x13, 0x83], { fset F.secStatus_udsOk 0 1 (fset F.mgmtStatus_daValid 0 1 {}) with spdm := [(256, { stage := 3 })] },
       by decide, by decide, by decide⟩,
   ⟨256, [0x13, 0xe0], { fset F.secStatus_udsOk 0 1 (fset F.mgmtStatus_daValid 0 1 {}) with spdm := [(256, { stage := 3 })] },
       by decide, by decide, by decide⟩,
   ⟨256, [0x13, 0xe4], { fset F.secStatus_udsOk 0 1 (fset F.mgmtStatus_daValid 0 1 {}) with spdm := [(256, { stage := 3 })] },
       by decide, by decide, by decide⟩,
   (fun h => ⟨256, [0x13, 0xe5], { fset F.secStatus_udsOk 0 1 (fset F.mgmtStatus_daValid 0 1 {}) with spdm := [(256, { stage := 3, session := some 0 })] }, by decide, by decide, (by decide), by decide, by decide, (by decide), by decide, by decide, h⟩),
   ⟨256, [0x13, 0xe8], { fset F.secStatus_udsOk 0 1 (fset F.mgmtStatus_daValid 0 1 {}) with spdm := [(256, { stage := 3, secured := true })] }, by decide, by decide, by decide⟩,
   ⟨256, [0x13, 0xe9], { fset F.secStatus_udsOk 0 1 (fset F.mgmtStatus_daValid 0 1 {}) with spdm := [(256, { stage := 3, secured := true })] }, by decide, by decide, by decide⟩,
   ⟨256, [0x13, 0xec], { fset F.secStatus_udsOk 0 1 (fset F.mgmtStatus_daValid 0 1 {}) with spdm := [(256, { stage := 3, secured := true })] }, by decide, by decide, by decide⟩,
   ⟨256, 5, 1, 0, 64, some 1, [], _, _, { fset F.mgmtStatus_daValid 0 1 gM with spdm := [(256, { secured := true })] },
       by decide, by decide, (by decide), by decide, by decide, (by decide), rfl, by decide, by decide, (by decide), rfl⟩,
   ⟨7, (gP 0x501 0 0 [0x13, 0x81]), none, [], [0x13, 0x81], gS (gP 0x501 0 0 [0x13, 0x81]) (gM), ⟨rfl, rfl, rfl, by decide,
       by decide⟩, ok_is (by decide), by decide⟩,
   ⟨7, (gP 0x501 0 0 [0x10, 0x84]), [], [0x10, 0x84], gS (gP 0x501 0 0 [0x10, 0x84]) (gM), ⟨rfl, rfl, rfl, by decide, by decide⟩,
       ok_is (by decide), by decide⟩,
   ⟨7, 5, 0, ({ gF 0x508 1 1 0 0 with pkt := { (gF 0x508 1 1 0 0).pkt with ctx := 5 } }), [], memRead gM 0x40000000 64,
       gS ({ gF 0x508 1 1 0 0 with pkt := { (gF 0x508 1 1 0 0).pkt with ctx := 5 } }) (fset F.secStatus_udsOk 0 1 gM), ⟨rfl, rfl,
       rfl, by decide, by decide⟩, ok_is (by decide), ok_is (by decide), by decide⟩⟩

/-- Witnesses: the hypotheses of each clause of InterfaceSecurityCommandsComplete are met together. -/
theorem test_witness_InterfaceSecurityCommandsComplete :
    (∃ fn : Nat, ∃ s : State, (fn < 256) ∧ (spdmOpen s fn = true) ∧ ((spdmGet s fn).secured = true) ∧ ∃ sub, (sub < 12)
        ∧ let f := if sub < 6 then fn else 256 + boundPort s fn; let v := Map.get s.ide 0 f; (bitOn v (sub % 6) = true))
    ∧ (∃ fn : Nat, ∃ s : State, (fn < 256) ∧ (spdmOpen s fn = true) ∧ ((spdmGet s fn).secured = true)
        ∧ (confidential s fn = true) ∧ (fget s F.partSec_tdisp fn = 0) ∧ (secureFail s fn = none))
    ∧ (∃ fn : Nat, ∃ s : State, (fn < 256) ∧ (spdmOpen s fn = true) ∧ ((spdmGet s fn).secured = true)
        ∧ (confidential s fn = true) ∧ (fget s F.partSec_tdisp fn = 1) ∧ (ideSecure s fn = true))
    ∧ (∃ fn : Nat, ∃ s : State, (fn < 256) ∧ (spdmOpen s fn = true) ∧ ((spdmGet s fn).secured = true)
        ∧ (confidential s fn = true) ∧ (partLocked s fn = true))
    ∧ (∃ id : Nat, ∃ c : Cmd, ∃ s : State, (Starts 0x0507 id c s) ∧ let p := bitsAt c.pkt.w1 0 8; (bitOn c.pkt.w1 8 = true)
        ∧ (secureFail s p = none) ∧ (fget s F.partSec_tdisp p = 0))
    ∧ (∃ id : Nat, ∃ c : Cmd, ∃ s : State, (Starts 0x0507 id c s) ∧ let p := bitsAt c.pkt.w1 0 8; (bitOn c.pkt.w1 8 = false)
        ∧ (confidential s p = true) ∧ (fget s F.partSec_tdisp p = 0) ∧ ((partGet s p).enabled = false)) :=
  ⟨⟨1, tV 0, by decide, by decide, (by decide), 0, by decide, by decide⟩,
   ⟨1, tV 0, by decide⟩,
   ⟨1, tV 1, by decide⟩,
   ⟨1, tV 2, by decide⟩,
   ⟨7, (gF 0x507 1 257 0 0), gS (gF 0x507 1 257 0 0) { fset F.secStatus_lcState 0 2 gM with cfg := { features := 1 } }, ⟨rfl,
       rfl, rfl, by decide, by decide⟩, by decide⟩,
   ⟨7, (gF 0x507 1 1 0 0), gS (gF 0x507 1 1 0 0) (fset F.partSec_confidential 1 1 gM), ⟨rfl, rfl, rfl, by decide, by decide⟩,
       by decide⟩⟩

/-- Witnesses: the hypotheses of each clause of LifecycleCommandsComplete are met together. -/
theorem test_witness_LifecycleCommandsComplete :
    (Config.serial = 0 → (∀ k m g, Config.verify k m g = true) → Config.deviceId = [] → ∃ id : Nat, ∃ c : Cmd,
        ∃ host : List Byte, ∃ b : List Byte, ∃ s : State, (dataIn s c host = .ok b) ∧ (Starts 0x0502 id c s)
        ∧ (licenceOk s b = true) ∧ (recAt b 6 1 ≤ s.otp.epoch))
    ∧ (Config.serial = 0 → (∀ k m g, Config.verify k m g = true) → Config.deviceId = [] → ∃ id : Nat, ∃ c : Cmd,
        ∃ host : List Byte, ∃ b : List Byte, ∃ s : State, (dataIn s c host = .ok b) ∧ (Starts 0x0502 id c s)
        ∧ (licenceOk s b = true) ∧ (s.otp.epoch < recAt b 6 1))
    ∧ (Config.serial = 0 → (∀ k m g, Config.verify k m g = true) → ∃ id : Nat, ∃ c : Cmd, ∃ host : List Byte, ∃ b : List Byte,
        ∃ s : State, (dataIn s c host = .ok b) ∧ (Starts 0x0503 id c s) ∧ (configOk s b = true))
    ∧ (∃ id : Nat, ∃ c : Cmd, ∃ host : List Byte, ∃ b : List Byte, ∃ s : State, (dataIn s c host = .ok b)
        ∧ (Starts 0x0504 id c s) ∧ (b = []))
    ∧ (Config.serial = 0 → (∀ k m g, Config.verify k m g = true) → (∀ n, Config.random n = []) → ∃ id : Nat, ∃ c : Cmd,
        ∃ host : List Byte, ∃ b : List Byte, ∃ s : State, (dataIn s c host = .ok b) ∧ (Starts 0x0504 id c s) ∧ (b ≠ [])
        ∧ (ownersUsed s < 16) ∧ (enrolOk s (ownersUsed s + 1) b = true))
    ∧ (∃ id : Nat, ∃ c : Cmd, ∃ host : List Byte, ∃ b : List Byte, ∃ s : State, (dataIn s c host = .ok b)
        ∧ (Starts 0x0505 id c s) ∧ (b = []))
    ∧ (Config.serial = 0 → (∀ k m g, Config.verify k m g = true) → (∀ n, Config.random n = []) → ∃ id : Nat, ∃ c : Cmd,
        ∃ host : List Byte, ∃ b : List Byte, ∃ s : State, (dataIn s c host = .ok b) ∧ (Starts 0x0505 id c s) ∧ (b ≠ [])
        ∧ (tokenOk s 0x44584442 b = true) ∧ (recAt b 80 4 = 2) ∧ (0 < recAt b 84 4) ∧ (recAt b 84 4 ≤ 86400)
        ∧ (fget s F.secStatus_lcState 0 ≠ 4))
    ∧ (∃ id : Nat, ∃ c : Cmd, ∃ s : State, (Starts 0x0506 id c s) ∧ let t := bitsAt c.pkt.w1 0 2; (t ≠ 0)
        ∧ (lifeCheck s t = none))
    ∧ (∃ s : State, (fon s F.secDebug_active 0 = true) ∧ (isMember s = true))
    ∧ (∃ s : State, (fon s F.secDebug_active 0 = true) ∧ (isMember s = false))
    ∧ (∃ row : Nat, ∃ value : Nat, ∃ rest : List OtpJob, ∃ s : State, (s.otpJobs = .defect row value false :: rest))
    ∧ (∃ row : Nat, ∃ value : Nat, ∃ rest : List OtpJob, ∃ s : State, (s.otpJobs = .defect row value true :: rest))
    ∧ (∃ b : List Byte, ∃ id : Nat, ∃ s : State, (s.flashJobs.find? (fun j => j.area == 1) = some (.config b id)))
    ∧ (∃ b : List Byte, ∃ id : Nat, ∃ s : State, (s.flashJobs.find? (fun j => j.area == 2) = some (.licence b id))) :=
  ⟨(fun hs hv hd => ⟨7, (gP 0x502 0 0 ([67, 76, 88, 68, 1, 0, 1] ++ List.replicate 73 0 ++ [8, 8, 4] ++ List.replicate 177 0)),
      [], ([67, 76, 88, 68, 1, 0, 1] ++ List.replicate 73 0 ++ [8, 8, 4] ++ List.replicate 177 0),
      gS (gP 0x502 0 0 ([67, 76, 88, 68, 1, 0, 1] ++ List.replicate 73 0 ++ [8, 8, 4] ++ List.replicate 177 0)) ({ fset F.secStatus_udsOk 0 1 gM with otp := { epoch := 1 } }), ok_is (by decide), ⟨rfl, rfl, rfl, by decide, by decide⟩, (by simp only [licenceOk, hs, hv, hd]; decide), by decide⟩),
   (fun hs hv hd => ⟨7, (gP 0x502 0 0 ([67, 76, 88, 68, 1, 0, 2] ++ List.replicate 73 0 ++ [8, 8, 4] ++ List.replicate 177 0)),
       [], ([67, 76, 88, 68, 1, 0, 2] ++ List.replicate 73 0 ++ [8, 8, 4] ++ List.replicate 177 0),
       gS (gP 0x502 0 0 ([67, 76, 88, 68, 1, 0, 2] ++ List.replicate 73 0 ++ [8, 8, 4] ++ List.replicate 177 0)) ({ fset F.secStatus_udsOk 0 1 gM with otp := { epoch := 1 } }), ok_is (by decide), ⟨rfl, rfl, rfl, by decide, by decide⟩, (by simp only [licenceOk, hs, hv, hd]; decide), by decide⟩),
   (fun hs hv => ⟨7, (gP 0x503 0 0 ([70, 67, 88, 68, 1] ++ List.replicate 76 0 ++ [1] ++ List.replicate 19 0 ++ [1, 1] ++ List.replicate 2333 0)), [], ([70, 67, 88, 68, 1] ++ List.replicate 76 0 ++ [1] ++ List.replicate 19 0 ++ [1, 1] ++ List.replicate 2333 0), gS (gP 0x503 0 0 ([70, 67, 88, 68, 1] ++ List.replicate 76 0 ++ [1] ++ List.replicate 19 0 ++ [1, 1] ++ List.replicate 2333 0)) (gM), ok_is (by decide), ⟨rfl, rfl, rfl, by decide, by decide⟩, (by simp only [configOk, hs, hv]; decide)⟩),
   ⟨7, (gP 0x504 0 0 []), [], [], gS (gP 0x504 0 0 []) (gM), ok_is (by decide), ⟨rfl, rfl, rfl, by decide, by decide⟩, by decide⟩,
   (fun hs hv hr => ⟨7, (gP 0x504 0 0 ([87, 79, 88, 68, 1, 0, 1] ++ List.replicate 341 0)), [],
       ([87, 79, 88, 68, 1, 0, 1] ++ List.replicate 341 0),
       gS (gP 0x504 0 0 ([87, 79, 88, 68, 1, 0, 1] ++ List.replicate 341 0)) (gM), ok_is (by decide), ⟨rfl, rfl, rfl, by decide,
       by decide⟩, by decide, by decide, (by simp only [enrolOk, nonceBytes, hs, hv, hr]; decide)⟩),
   ⟨7, (gP 0x505 0 0 []), [], [], gS (gP 0x505 0 0 []) (gM), ok_is (by decide), ⟨rfl, rfl, rfl, by decide, by decide⟩, by decide⟩,
   (fun hs hv hr => ⟨7, (gP 0x505 0 0 ([66, 68, 88, 68, 1] ++ List.replicate 75 0 ++ [2, 0, 0, 0, 60] ++ List.replicate 175 0)),
       [], ([66, 68, 88, 68, 1] ++ List.replicate 75 0 ++ [2, 0, 0, 0, 60] ++ List.replicate 175 0),
       gS (gP 0x505 0 0 ([66, 68, 88, 68, 1] ++ List.replicate 75 0 ++ [2, 0, 0, 0, 60] ++ List.replicate 175 0)) (gM),
       ok_is (by decide), ⟨rfl, rfl, rfl, by decide, by decide⟩, by decide,
       (by simp only [tokenOk, nonceBytes, hs, hv, hr]; decide), by decide⟩),
   ⟨7, (gF 0x506 1 2 0 0), gS (gF 0x506 1 2 0 0) (fset F.secStatus_lcState 0 1 gM), ⟨rfl, rfl, rfl, by decide, by decide⟩,
       by decide⟩,
   ⟨fset F.secDebug_active 0 1 (tD {}), by decide⟩,
   ⟨fset F.secDebug_active 0 1 {}, by decide⟩,
   ⟨0, 1, [], { otpJobs := [.defect 0 1 false] }, by decide⟩,
   ⟨0, 1, [], { otpJobs := [.defect 0 1 true] }, by decide⟩,
   ⟨[1], 7, { flashJobs := [.config [1] 7] }, by decide⟩,
   ⟨[1], 7, { flashJobs := [.licence [1] 7] }, by decide⟩⟩

/-- Witnesses: the hypotheses of each clause of BringUpStepsComplete are met together. -/
theorem test_witness_BringUpStepsComplete :
    (∃ s : State, (bootHeld s = false) ∧ (bootStep s = 1))
    ∧ (∃ s : State, (bootHeld s = false) ∧ (bootStep s = 2))
    ∧ (∃ s : State, (bootHeld s = false) ∧ (bootStep s = 3))
    ∧ (∃ s : State, (bootHeld s = false) ∧ (bootStep s = 4) ∧ (mainOn s = true) ∧ (s.rounds ≠ 6)
        ∧ (fget s F.bootStatus_hubState 0 = 0))
    ∧ (∃ s : State, (bootHeld s = false) ∧ (fget s F.bootStatus_hubState 0 = 0) ∧ (bootStep s = 5))
    ∧ (∃ s : State, (bootHeld s = false) ∧ (fget s F.bootStatus_hubState 0 = 0) ∧ (bootStep s = 6))
    ∧ (∃ e : BootEnv, ∃ s : State, (bootHeld s = false) ∧ (fget s F.bootStatus_hubState 0 = 0) ∧ (bootStep s = 7)
        ∧ (e.segBad = false) ∧ (s.rounds = 5))
    ∧ (∃ e : BootEnv, ∃ s : State, (bootHeld s = false) ∧ (fget s F.bootStatus_hubState 0 = 0) ∧ (bootStep s = 7)
        ∧ (e.segBad = true))
    ∧ (∃ e : BootEnv, ∃ s : State, (bootHeld s = false) ∧ (fget s F.bootStatus_hubState 0 = 0) ∧ (bootStep s = 8)
        ∧ (fget (stepMemory e s) F.bootStatus_hubState 0 = 0))
    ∧ (∃ s : State, (bootHeld s = false) ∧ (fget s F.bootStatus_hubState 0 = 0) ∧ (bootStep s = 9))
    ∧ (∃ e : BootEnv, ∃ s : State, (bootHeld s = false) ∧ (fget s F.bootStatus_hubState 0 = 0) ∧ (bootStep s = 10)
        ∧ (fget (stepKnown e s) F.bootStatus_hubState 0 = 0))
    ∧ (∃ s : State, (bootHeld s = false) ∧ (fget s F.bootStatus_hubState 0 = 0) ∧ (bootStep s = 11)
        ∧ (fon s F.memStatus_clearing 0 = false) ∧ (fon s F.memStatus_ledgerOk 0 = true))
    ∧ (∃ reports : List ((Nat × Nat × Nat × Bool) × Nat), ∃ s : State, (bootHeld s = false) ∧ (bootStep s = 7)
        ∧ (fget s F.bootStatus_hubState 0 = 0) ∧ (s.rounds < 5)
        ∧ let lack := reports.filter fun r => fwLacks s r.1 r.2 != 0; (lack = []))
    ∧ (∃ reports : List ((Nat × Nat × Nat × Bool) × Nat), ∃ s : State, (bootHeld s = false) ∧ (bootStep s = 7)
        ∧ (fget s F.bootStatus_hubState 0 = 0) ∧ (s.rounds < 5)
        ∧ let lack := reports.filter fun r => fwLacks s r.1 r.2 != 0; (lack ≠ []) ∧ (s.rounds < 4))
    ∧ (∃ reports : List ((Nat × Nat × Nat × Bool) × Nat), ∃ s : State, (bootHeld s = false) ∧ (bootStep s = 7)
        ∧ (fget s F.bootStatus_hubState 0 = 0) ∧ (s.rounds < 5)
        ∧ let lack := reports.filter fun r => fwLacks s r.1 r.2 != 0; (lack ≠ []) ∧ (s.rounds = 4)) :=
  ⟨⟨tB 1, by decide⟩,
   ⟨tB 2, by decide⟩,
   ⟨tB 3, by decide⟩,
   ⟨fset F.pwrStatus_mainOn 0 1 (tB 4), by decide⟩,
   ⟨tB 5, by decide⟩,
   ⟨tB 6, by decide⟩,
   ⟨{}, { tB 7 with rounds := 5 }, by decide⟩,
   ⟨{ segBad := true }, tB 7, by decide⟩,
   ⟨{ stackRates := List.replicate 12 3, stackCaps := List.replicate 12 1024 }, tB 8, by decide⟩,
   ⟨tB 9, by decide⟩,
   ⟨{}, tB 10, by decide⟩,
   ⟨fset F.memStatus_ledgerOk 0 1 (tB 11), by decide⟩,
   ⟨[], tB 7, by decide, by decide, (by decide), by decide, by decide⟩,
   ⟨[((0, 0, 0, false), 0)], { tB 7 with flash := { image := List.replicate 6 0 ++ [1] ++ List.replicate 57 0 ++ [5, 0, 0, 0, 0, 0, 0, 0, 64] ++ List.replicate 87 0 } }, by decide, by decide, (by decide), by decide, by decide⟩,
   ⟨[((0, 0, 0, false), 0)], { tB 7 with rounds := 4, flash := { image := List.replicate 6 0 ++ [1] ++ List.replicate 57 0 ++ [5, 0, 0, 0, 0, 0, 0, 0, 64] ++ List.replicate 87 0 } }, by decide, by decide, (by decide), by decide, by decide⟩⟩

/-- Witnesses: the hypotheses of each clause of PowerResetAndThermalCommandsComplete are met together. -/
theorem test_witness_PowerResetAndThermalCommandsComplete :
    (∃ s : State, (bootStep s ≠ 0))
    ∧ (∃ s : State, (bootStep s = 4) ∧ (mainOn s = false) ∧ (s.rstLow = false) ∧ (s.tripped = false) ∧ (s.failRestart = false))
    ∧ (∃ s : State, (4 ≤ bootStep s) ∧ (s.cold = false) ∧ (s.tripped = false) ∧ (mainOn s = true))
    ∧ (∃ s : State, (s.failRestart = true))
    ∧ (∃ id : Nat, ∃ c : Cmd, ∃ s : State, (Starts 0x0603 id c s) ∧ (bitsAt c.pkt.w1 0 2 = 0))
    ∧ (∃ id : Nat, ∃ c : Cmd, ∃ s : State, (Starts 0x0603 id c s) ∧ let n := bitsAt c.pkt.w1 2 8; (bitsAt c.pkt.w1 0 2 = 1)
        ∧ (n ≤ 8))
    ∧ (∃ id : Nat, ∃ c : Cmd, ∃ s : State, (Starts 0x0603 id c s) ∧ (bitsAt c.pkt.w1 0 2 = 2) ∧ (s.resetOwed = none))
    ∧ (∃ id : Nat, ∃ c : Cmd, ∃ s : State, (Starts 0x0603 id c s) ∧ (bitsAt c.pkt.w1 0 2 = 3) ∧ (s.resetOwed = none))
    ∧ (∃ s : State, (isMember s = false) ∧ (s.resetOwed = some 2))
    ∧ (∃ s : State, (isMember s = false) ∧ (s.resetOwed = some 3))
    ∧ (∃ id : Nat, ∃ c : Cmd, ∃ b : List Byte, ∃ s : State, (Starts 0x0601 id c s) ∧ (dataIn s c [] = .ok b)
        ∧ (fget s F.bootStatus_hubState 0 = 2) ∧ (c.pkt.w1 = 0) ∧ (b.length ≤ 2 ^ 26))
    ∧ ((∀ k m g, Config.verify k m g = true) → (∀ m, Config.sha512 m = List.replicate 64 0) → ∃ id : Nat, ∃ v : Nat, ∃ c : Cmd,
        ∃ s : State, (Starts 0x0602 id c s) ∧ (fget s F.bootStatus_hubState 0 = 2) ∧ (imageVersion s.flash.image = some v)
        ∧ (s.cfg.minFw ≤ v))
    ∧ (∃ s : State, (s.fwOwed = true))
    ∧ (∃ temps : List Int, ∃ s : State, (mainOn s = true) ∧ (temps.length = 594)
        ∧ let h := hottest temps; let t := fset F.pwrStatus_hotBay 0 h.1 (fset F.pwrStatus_hotTemp 0 (min h.2.toNat 4095) s); (h.2 + 16 ≤ fget t F.thermCtrl_warn 0) ∧ let u := fset F.pwrStatus_thermWarn 0 0 t; let hot := (List.range 594).filter fun i => decide (temps.getD i 0 ≥ tripAt u); (hot.any u.hot.contains = false))
    ∧ (∃ temps : List Int, ∃ s : State, (mainOn s = true) ∧ (temps.length = 594)
        ∧ let h := hottest temps; let t := fset F.pwrStatus_hotBay 0 h.1 (fset F.pwrStatus_hotTemp 0 (min h.2.toNat 4095) s); (h.2 + 16 ≤ fget t F.thermCtrl_warn 0) ∧ let u := fset F.pwrStatus_thermWarn 0 0 t; let hot := (List.range 594).filter fun i => decide (temps.getD i 0 ≥ tripAt u); (hot.any u.hot.contains = true))
    ∧ (∃ field : Nat, ∃ up : Bool, ∃ s : State, (field ≤ 8) ∧ (mainOn s = true) ∧ (fon s F.vcoreTarget_settling field = false)
        ∧ let now := fget s F.vcoreTarget_targetMv field; let mv := if up = true then now + 5 else now - 5; (coreOk mv = true))
    ∧ (∃ field : Nat, (field ≤ 8)) :=
  ⟨⟨tB 4, by decide⟩,
   ⟨tB 4, by decide⟩,
   ⟨fset F.pwrStatus_mainOn 0 1 (tB 4), by decide⟩,
   ⟨{ failRestart := true }, by decide⟩,
   ⟨7, (gF 0x603 1 0 0 0), gS (gF 0x603 1 0 0 0) gM, ⟨rfl, rfl, rfl, by decide, by decide⟩, by decide⟩,
   ⟨7, (gF 0x603 1 1 0 0), gS (gF 0x603 1 1 0 0) gM, ⟨rfl, rfl, rfl, by decide, by decide⟩, by decide⟩,
   ⟨7, (gF 0x603 1 2 0 0), gS (gF 0x603 1 2 0 0) gM, ⟨rfl, rfl, rfl, by decide, by decide⟩, by decide⟩,
   ⟨7, (gF 0x603 1 3 0 0), gS (gF 0x603 1 3 0 0) gM, ⟨rfl, rfl, rfl, by decide, by decide⟩, by decide⟩,
   ⟨{ resetOwed := some 2 }, by decide, rfl⟩,
   ⟨{ resetOwed := some 3 }, by decide, rfl⟩,
   ⟨7, (gP 0x601 1 0 [1]), [1], gS (gP 0x601 1 0 [1]) (fset F.bootStatus_hubState 0 2 gM), ⟨rfl, rfl, rfl, by decide, by decide⟩,
       ok_is (by decide), by decide⟩,
   (fun hv hd => ⟨7, 0, (gF 0x602 0 0 0 0),
       gS (gF 0x602 0 0 0 0) ({ fset F.bootStatus_hubState 0 2 gM with flash := { image := ([87, 70, 88, 68, 1, 0, 8, 176, 0, 0, 0, 0, 0, 0, 0, 0, 64, 3] ++ List.replicate 46 0 ++ [1] ++ List.replicate 95 0 ++ [2] ++ List.replicate 95 0 ++ [3] ++ List.replicate 95 0 ++ [4] ++ List.replicate 95 0 ++ [5] ++ List.replicate 95 0 ++ [6] ++ List.replicate 95 0 ++ [7] ++ List.replicate 95 0 ++ [8] ++ List.replicate 227 0) } }), ⟨rfl, rfl, rfl, by decide, by decide⟩, by decide, (by unfold imageVersion segOk; simp only [hd, hv]; decide), by decide⟩),
   ⟨{ fwOwed := true }, by decide⟩,
   ⟨List.replicate 594 0, fset F.thermCtrl_warn 0 800 (fset F.pwrStatus_mainOn 0 1 {}), by decide, by decide, (by decide),
       by decide⟩,
   ⟨List.replicate 594 100, { fset F.thermCtrl_trip 0 100 (fset F.thermCtrl_warn 0 800 (fset F.pwrStatus_mainOn 0 1 {})) with hot := [0] }, by decide, by decide, (by decide), by decide⟩,
   ⟨0, true, fset F.vcoreTarget_targetMv 0 750 (fset F.pwrStatus_mainOn 0 1 {}), by decide, by decide, (by decide), by decide⟩,
   ⟨0, by decide⟩⟩

/-- Witnesses: the hypotheses of each clause of ErrorCounterAndTestCommandsComplete are met together. -/
theorem test_witness_ErrorCounterAndTestCommandsComplete :
    (∃ v : Word, ∃ s : State, let n := bitsAt v.toNat 0 32; (diff32 n (fget s F.errqCidx_index 0) ≤ diff32 (fget s F.errqPidx_index 0) (fget s F.errqCidx_index 0)))
    ∧ (∃ r : ErrRec, ∃ s : State, let l := fget s F.errqLidx_index 0; (l ≠ fget s F.errqPidx_index 0)
        ∧ (fon s F.errqStatus_logOk 0 = true) ∧ (Map.get? s.errq (l % 4096) = some r) ∧ (r.seq = l))
    ∧ (∃ id : Nat, ∃ c : Cmd, ∃ s : State, (Starts 0x0605 id c s) ∧ (mainOn s = true) ∧ (c.src = .mgmt)
        ∧ let i := errIdx s s.errMgmt; let l := (errFrom s i).take (min (bitsAt c.pkt.w1 0 13) (dataRoom c / 64)); (l = []))
    ∧ (∃ id : Nat, ∃ c : Cmd, ∃ s : State, (Starts 0x0605 id c s) ∧ (mainOn s = true) ∧ (c.src = .mgmt)
        ∧ let i := errIdx s s.errMgmt; let l := (errFrom s i).take (min (bitsAt c.pkt.w1 0 13) (dataRoom c / 64)); ∃ r,
        (l.getLast? = some r))
    ∧ (∃ id : Nat, ∃ c : Cmd, ∃ s : State, (Starts 0x0604 id c s) ∧ (mainOn s = true) ∧ (bitsAt c.pkt.w1 0 16 = 0x300))
    ∧ (∃ id : Nat, ∃ c : Cmd, ∃ s : State, (Starts 0x0604 id c s) ∧ (mainOn s = true) ∧ (bitsAt c.pkt.w1 0 16 = 0x310))
    ∧ (Config.serial = 0 → (∀ k m g, Config.verify k m g = true) → (∀ n, Config.random n = []) → ∃ id : Nat, ∃ c : Cmd,
        ∃ host : List Byte, ∃ b : List Byte, ∃ s : State, (Starts 0x0606 id c s) ∧ (dataIn s c host = .ok b) ∧ (mainOn s = true)
        ∧ (fget s F.bootStatus_hubState 0 ≠ 2) ∧ (fon s F.bootStatus_ledgerWait 0 = true) ∧ (tokenOk s 0x44584C41 b = true)
        ∧ (recAt b 80 4 = 0))
    ∧ (∃ id : Nat, ∃ c : Cmd, ∃ s : State, (Starts 0x0607 id c s))
    ∧ (∃ id : Nat, ∃ c : Cmd, ∃ s : State, (Starts 0x0608 id c s))
    ∧ (∃ id : Nat, ∃ c : Cmd, ∃ s : State, (Starts 0x0702 id c s))
    ∧ (∃ id : Nat, ∃ c : Cmd, ∃ s : State, (Starts 0x0701 id c s) ∧ (c.pkt.w1 % 8 = 0) ∧ (c.pkt.w1 / 8 ≤ 5)
        ∧ (confidential s (ctxGet s c.pkt.ctx).part = false)
        ∧ (tpRefused s (c.pkt.w1 / 8) (BitVec.ofNat 64 c.pkt.w2).toNat = false))
    ∧ (∃ id : Nat, ∃ c : Cmd, ∃ s : State, (Starts 0x0703 id c s) ∧ (testRefused s c = false))
    ∧ (∃ id : Nat, ∃ c : Cmd, ∃ s : State, (Starts 0x0704 id c s) ∧ (testRefused s c = false) ∧ (bitsAt c.pkt.w1 0 4 ≤ 8))
    ∧ (∃ i : Nat, (i < 16))
    ∧ (∃ v : Word, (bitOn v.toNat 1 = true))
    ∧ (∃ k : Nat, ∃ v : Word, ∃ s : State, (k < 6) ∧ (tpRefused s k v.toNat = true))
    ∧ (∃ k : Nat, ∃ v : Word, ∃ s : State, (k < 6) ∧ (tpRefused s k v.toNat = false) ∧ (k ≠ 3) ∧ (isMember s = true))
    ∧ (∃ k : Nat, ∃ v : Word, ∃ s : State, (k < 6) ∧ ∃ r, (tpRefused s k v.toNat = false) ∧ (k ≠ 3) ∧ (isMember s = false)
        ∧ (tpRegs[k]? = some r))
    ∧ (∃ target : Nat, ∃ at_ : Nat, ∃ s : State, (isMember s = false ∨ at_ < s.edges) ∧ (s.retrainOwed = some (1, target, at_))
        ∧ (target < 96) ∧ (fget s F.mtModule_state target = 5))
    ∧ (∃ target : Nat, ∃ at_ : Nat, ∃ s : State, (isMember s = false ∨ at_ < s.edges) ∧ (s.retrainOwed = some (2, target,
        at_))) :=
  ⟨⟨0, {}, by decide⟩,
   ⟨⟨0, 0, 0, 0, 0, 0, 0, 0, 0, 0, 0, 0, 0⟩,
       { fset F.errqPidx_index 0 1 (fset F.errqStatus_logOk 0 1 (fset F.pwrStatus_mainOn 0 1 gM)) with errq := [(0, ⟨0, 0, 0, 0, 0, 0, 0, 0, 0, 0, 0, 0, 0⟩)] }, by decide⟩,
   ⟨7, (gF 0x605 1 1 0 0), gS (gF 0x605 1 1 0 0) (fset F.pwrStatus_mainOn 0 1 gM), ⟨rfl, rfl, rfl, by decide, by decide⟩,
       by decide, by decide, by decide⟩,
   ⟨7, (gF 0x605 1 1 0 0), gS (gF 0x605 1 1 0 0) { fset F.errqPidx_index 0 1 (fset F.errqStatus_logOk 0 1 (fset F.pwrStatus_mainOn 0 1 gM)) with errq := [(0, ⟨0, 0, 0, 0, 0, 0, 0, 0, 0, 0, 0, 0, 0⟩)] }, ⟨rfl, rfl, rfl, by decide, by decide⟩, by decide, by decide, ⟨0, 0, 0, 0, 0, 0, 0, 0, 0, 0, 0, 0, 0⟩, by decide⟩,
   ⟨7, (gF 0x604 1 768 0 0), gS (gF 0x604 1 768 0 0) (fset F.pwrStatus_mainOn 0 1 gM), ⟨rfl, rfl, rfl, by decide, by decide⟩,
       by decide⟩,
   ⟨7, (gF 0x604 1 784 0 0), gS (gF 0x604 1 784 0 0) (fset F.pwrStatus_mainOn 0 1 gM), ⟨rfl, rfl, rfl, by decide, by decide⟩,
       by decide⟩,
   (fun hs hv hr => ⟨7, (gP 0x606 0 0 ([65, 76, 88, 68, 1] ++ List.replicate 255 0)), [],
       ([65, 76, 88, 68, 1] ++ List.replicate 255 0),
       gS (gP 0x606 0 0 ([65, 76, 88, 68, 1] ++ List.replicate 255 0)) (fset F.bootStatus_ledgerWait 0 1 (fset F.pwrStatus_mainOn 0 1 gM)), ⟨rfl, rfl, rfl, by decide, by decide⟩, ok_is (by decide), by decide, by decide, (by decide), (by simp only [tokenOk, nonceBytes, hs, hv, hr]; decide), by decide⟩),
   ⟨7, (gF 0x607 0 0 0 0), gS (gF 0x607 0 0 0 0) gM, ⟨rfl, rfl, rfl, by decide, by decide⟩⟩,
   ⟨7, (gF 0x608 1 1 0 0), gS (gF 0x608 1 1 0 0) gM, ⟨rfl, rfl, rfl, by decide, by decide⟩⟩,
   ⟨7, (gF 0x702 0 0 0 0), gS (gF 0x702 0 0 0 0) gM, ⟨rfl, rfl, rfl, by decide, by decide⟩⟩,
   ⟨7, (gF 0x701 2 0 0 0), gS (gF 0x701 2 0 0 0) gM, ⟨rfl, rfl, rfl, by decide, by decide⟩, by decide⟩,
   ⟨7, (gF 0x703 1 0 0 0), gS (gF 0x703 1 0 0 0) gM, ⟨rfl, rfl, rfl, by decide, by decide⟩, by decide⟩,
   ⟨7, (gF 0x704 1 0 0 0), gS (gF 0x704 1 0 0 0) gM, ⟨rfl, rfl, rfl, by decide, by decide⟩, by decide⟩,
   ⟨0, by decide⟩,
   ⟨2, by decide⟩,
   ⟨0, 1, fset F.secStatus_lcState 0 2 {}, by decide⟩,
   ⟨0, 0, tD {}, by decide⟩,
   ⟨0, 0, {}, by decide, .tpNet, by decide⟩,
   ⟨0, 0, { fset F.mtModule_state 0 5 {} with retrainOwed := some (1, 0, 0) }, by decide, rfl, by decide⟩,
   ⟨0, 0, { retrainOwed := some (2, 0, 0) }, by decide, rfl⟩⟩

/-- Witnesses: the hypotheses of each clause of ManagementPortRequestsComplete are met together. -/
theorem test_witness_ManagementPortRequestsComplete :
    (∃ s : State, (bootStep s ≠ 0))
    ∧ (∃ s : State, (fon s F.mgmtStatus_daValid 0 = true) ∧ ∃ e, (e % 256 ≠ 0) ∧ (e % 256 ≠ 255))
    ∧ (∃ s : State, (fon s F.mgmtStatus_daValid 0 = true))
    ∧ (Config.vendorId = 0 → ∃ s : State, (fon s F.mgmtStatus_daValid 0 = true) ∧ ∃ bytes : List Byte, (recAt bytes 0 1 = 0x7E)
        ∧ (recAt bytes 1 2 = Config.vendorId) ∧ (recAt bytes 3 1 = 1) ∧ (68 ≤ bytes.length) ∧ (bytes.length ≤ 4164)
        ∧ (fget s F.mgmtStatus_queued 0 < 8))
    ∧ (Config.vendorId = 0 → ∃ s : State, (fon s F.mgmtStatus_daValid 0 = true) ∧ ∃ bytes : List Byte, (recAt bytes 0 1 = 0x7E)
        ∧ (recAt bytes 1 2 = Config.vendorId) ∧ (recAt bytes 3 1 = 1) ∧ (68 ≤ bytes.length) ∧ (bytes.length ≤ 4164)
        ∧ (8 ≤ fget s F.mgmtStatus_queued 0))
    ∧ (∃ s : State, (fon s F.mgmtStatus_daValid 0 = true) ∧ ∃ h, ∃ n, (h ≠ 0) ∧ (sensorNums[h - 1]? = some n))
    ∧ (∃ s : State, (fon s F.mgmtStatus_daValid 0 = true) ∧ (mainOn s = true))
    ∧ (∃ s : State, (fon s F.mgmtStatus_daValid 0 = true) ∧ (mainOn s = false)) :=
  ⟨⟨tB 4, by decide⟩,
   ⟨fset F.mgmtStatus_daValid 0 1 {}, by decide, 8, by decide⟩,
   ⟨fset F.mgmtStatus_daValid 0 1 {}, by decide⟩,
   (fun h => ⟨fset F.mgmtStatus_daValid 0 1 {}, by decide, [0x7E, 0, 0, 1] ++ List.replicate 64 0, by decide,
       (by rw [h]; decide), by decide⟩),
   (fun h => ⟨fset F.mgmtStatus_queued 0 8 (fset F.mgmtStatus_daValid 0 1 {}), by decide, [0x7E, 0, 0, 1] ++ List.replicate 64 0,
       by decide, (by rw [h]; decide), by decide⟩),
   ⟨fset F.mgmtStatus_daValid 0 1 {}, by decide, 1, 0, by decide⟩,
   ⟨fset F.pwrStatus_mainOn 0 1 (fset F.mgmtStatus_daValid 0 1 {}), by decide⟩,
   ⟨fset F.mgmtStatus_daValid 0 1 {}, by decide⟩⟩

/-- Witness: the hypotheses of AStepRunsTheFrontCommand are met together. -/
theorem test_witness_AStepRunsTheFrontCommand :
    ∃ (c : Instr) (rest : List Instr) (s : State), s.pending = c :: rest :=
  ⟨.getpldmtypes, [], { pending := [.getpldmtypes] }, rfl⟩

/-- Witnesses: the hypotheses of each clause of ResetHoldsTheStatedValues are met together. -/
theorem test_witness_ResetHoldsTheStatedValues :
    (∃ r : RegName, ∃ i : Nat, (i < 65536) ∧ (¬ (i = 0 ∧ (r = .bootStatus ∨ r = .secStatus))))
    ∧ (∃ p, (p < 256))
    ∧ (∃ k, (k < 9)) :=
  ⟨⟨.bootStatus, 1, by decide⟩,
   ⟨0, by decide⟩,
   ⟨0, by decide⟩⟩

/-- Witness: the hypotheses of EveryStepKeepsMemoryCanonical are met together. -/
theorem test_witness_EveryStepKeepsMemoryCanonical :
    ∃ s : State, ∃ t : State, (s.memOk) ∧ (step s = .next t) :=
  ⟨{}, {}, ⟨by decide, by decide⟩, rfl⟩

/-- Witness: the hypotheses of EveryCommandCompletesAndLeavesTheQueue are met together. -/
theorem test_witness_EveryCommandCompletesAndLeavesTheQueue :
    ∃ s : State, (s.memOk) :=
  ⟨{}, ⟨by decide, by decide⟩⟩

/-- Witnesses: the hypotheses of each clause of VectorResultsLeaveTheRestAlone are met together. -/
theorem test_witness_VectorResultsLeaveTheRestAlone :
    (∃ i, (i ∈ floatRows.map (·.1) ++ intRows.map (·.1) ++ bitRows.map (·.1) ++ unaryRows.map (·.1) ++ fusedRows.map (·.1) ++ fillRows.map (·.1) ++ [.vfscale, .vcvt, .vexpq, .vld, .vlds, .vldmx]) ∧ ∃ o : TileOp, ∃ s : State, ∃ t : State, (Issues o .vector s) ∧ (Mem.wf (tileGet s o.tile).t = true) ∧ (exec (i o) s = .next t))
    ∧ (∃ i, (i ∈ floatRows.map (·.1) ++ intRows.map (·.1) ++ bitRows.map (·.1) ++ unaryRows.map (·.1) ++ fusedRows.map (·.1) ++ fillRows.map (·.1) ++ [.vfscale, .vcvt, .vexpq, .vld, .vlds, .vldmx]) ∧ ∃ o : TileOp, ∃ s : State, ∃ t : State, (Issues o .vector s) ∧ (Mem.wf (tileGet s o.tile).t = true) ∧ (exec (i o) s = .next t) ∧ ∃ e, (e < (fmtV o.w).n) ∧ ((actives (tileGet s o.tile) (fmtV o.w)).getD e false = false)) :=
  ⟨⟨_, .head _, tO 0, tS, _, issues_of (by decide), by decide, rfl⟩,
   ⟨_, .head _, tO 0x200000, tS, _, issues_of (by decide), by decide, rfl, 0, by decide⟩⟩

/-- Witnesses: the hypotheses of each clause of PredicateWritesStopAtTheCount are met together. -/
theorem test_witness_PredicateWritesStopAtTheCount :
    (∃ o : TileOp, ∃ s : State, ∃ t : State, (Issues o .vector s) ∧ ∃ row, (row ∈ compareRows) ∧ (exec (row.1 o) s = .next t))
    ∧ (∃ o : TileOp, ∃ s : State, ∃ t : State, (Issues o .vector s) ∧ (exec (.vcmpspc o) s = .next t))
    ∧ (∃ o : TileOp, ∃ s : State, ∃ t : State, (Issues o .vector s) ∧ ∃ row, (row ∈ predRows) ∧ (exec (row.1 o) s = .next t))
    ∧ (∃ o : TileOp, ∃ s : State, ∃ t : State, (Issues o .vector s) ∧ ∃ row, (row ∈ [Instr.pnot, .pset])
        ∧ (exec (row o) s = .next t)) :=
  ⟨⟨tO 0, tS, _, issues_of (by decide), _, .head _, rfl⟩,
   ⟨tO 0, tS, _, issues_of (by decide), rfl⟩,
   ⟨tO 0, tS, _, issues_of (by decide), _, .head _, rfl⟩,
   ⟨tO 0, tS, _, issues_of (by decide), _, .head _, rfl⟩⟩

/-- Witness: the hypotheses of VectorStoreWritesItsElementsOnly are met together. -/
theorem test_witness_VectorStoreWritesItsElementsOnly :
    ∃ o : TileOp, ∃ s : State, ∃ t : State, ∃ u : EType, (Issues o .vecStore s) ∧ (etypeOf (fmtV o.w).ety = some u)
        ∧ (exec (.vst o) s = .next t) :=
  ⟨tO 0, { tS with store := [(2, 1)] }, _, .f32, issues_of (by decide), by decide, rfl⟩

/-- Witnesses: the hypotheses of each clause of MemoryWriteStoresItsBytesOnly are met together. -/
theorem test_witness_MemoryWriteStoresItsBytesOnly :
    (∃ addr : Nat, ∃ cls : Nat, ∃ who : MemReq, ∃ data : List Byte, ∃ u : MemUpset, ∃ s : State, ∃ t : State,
        (Mem.wf s.mem = true) ∧ (exec (.memoryWrite addr ⟨cls, who⟩ data u) s = .next t) ∧ ∃ a, (¬ (addr ≤ a
        ∧ a < addr + data.length)))
    ∧ (∃ addr : Nat, ∃ cls : Nat, ∃ who : MemReq, ∃ data : List Byte, ∃ u : MemUpset, ∃ s : State, ∃ t : State,
        (Mem.wf s.mem = true) ∧ (exec (.memoryWrite addr ⟨cls, who⟩ data u) s = .next t) ∧ (ctlReady s addr = true)
        ∧ (data.isEmpty = false) ∧ (addr % 512 + data.length ≤ 512) ∧ (s.lost.contains (addr / 512) = true) ∧ (data.length < 512))
    ∧ (∃ addr : Nat, ∃ cls : Nat, ∃ who : MemReq, ∃ data : List Byte, ∃ u : MemUpset, ∃ s : State, ∃ t : State,
        (Mem.wf s.mem = true) ∧ (exec (.memoryWrite addr ⟨cls, who⟩ data u) s = .next t) ∧ (ctlReady s addr = true)
        ∧ (data.isEmpty = false) ∧ (addr % 512 + data.length ≤ 512) ∧ (s.lost.contains (addr / 512) = false)
        ∧ (wcVictim s (addr / 512) data.length = none) ∧ ∃ k, (k < data.length))
    ∧ (∃ addr : Nat, ∃ cls : Nat, ∃ who : MemReq, ∃ data : List Byte, ∃ u : MemUpset, ∃ s : State, ∃ t : State,
        (Mem.wf s.mem = true) ∧ (exec (.memoryWrite addr ⟨cls, who⟩ data u) s = .next t) ∧ (ctlReady s addr = true)
        ∧ (data.isEmpty = false) ∧ (addr % 512 + data.length ≤ 512) ∧ (data.length = 512) ∧ (u.writeErrors ≤ 8))
    ∧ (∃ addr : Nat, ∃ cls : Nat, ∃ who : MemReq, ∃ data : List Byte, ∃ u : MemUpset, ∃ s : State, ∃ t : State,
        (Mem.wf s.mem = true) ∧ (exec (.memoryWrite addr ⟨cls, who⟩ data u) s = .next t) ∧ (ctlReady s addr = true)
        ∧ (data.isEmpty = false) ∧ (addr % 512 + data.length ≤ 512) ∧ (data.length = 512) ∧ ∃ k, (k < 512)) :=
  ⟨⟨0, 0, .outside, [1], {}, fset F.memcStatus_state 0 1 {}, _, by decide, rfl, 5, by decide⟩,
   ⟨0, 0, .outside, [1], {}, { fset F.memcStatus_state 0 1 {} with lost := [0] }, _, by decide, rfl, by decide⟩,
   ⟨0, 0, .outside, [1], {}, fset F.memcStatus_state 0 1 {}, _, by decide, rfl, by decide, by decide, (by decide), by decide,
       by decide, 0, by decide⟩,
   ⟨0, 0, .outside, List.replicate 512 1, {}, fset F.memcStatus_state 0 1 {}, _, by decide, rfl, by decide⟩,
   ⟨0, 0, .outside, List.replicate 512 1, {}, fset F.memcStatus_state 0 1 {}, _, by decide, rfl, by decide, by decide,
       (by decide), by decide, 0, by decide⟩⟩

/-- Witness: the hypotheses of LostSectorsAreNotServed are met together. -/
theorem test_witness_LostSectorsAreNotServed :
    ∃ addr : Nat, ∃ n : Nat, ∃ who : MemReq, ∃ s : State, (ctlReady s addr = true) ∧ (addr % 512 + n ≤ 512)
        ∧ (s.lost.contains (addr / 512) = true) ∧ ((∀ p i, who ≠ .drain p i)) :=
  ⟨0, 64, .outside, { fset F.memcStatus_state 0 1 {} with lost := [0] }, by decide, by decide, (by decide), nofun⟩

/-- Witness: the hypotheses of ResourcesBelongToOnePartition are met together. -/
theorem test_witness_ResourcesBelongToOnePartition :
    ∃ s : State, (partGet s 1).enabled = true :=
  ⟨partMod 1 (fun w => { w with enabled := true }) gM, by decide⟩

/-- Witnesses: the hypotheses of each clause of EnablingNeedsATickRecord are met together. -/
theorem test_witness_EnablingNeedsATickRecord :
    (∃ p : Nat, ∃ v : Word, ∃ s : State, (p < 256) ∧ (v.getLsbD 0 = true) ∧ ((partGet s p).enabled = false)
        ∧ ((partGet s p).offered = none))
    ∧ (∃ p : Nat, ∃ v : Word, ∃ s : State, (p < 256) ∧ (v.getLsbD 0 = false) ∧ ((partGet s p).enabled = true)) :=
  ⟨⟨1, 1, {}, by decide⟩,
   ⟨1, 0, partMod 1 (fun w => { w with enabled := true }) gM, by decide⟩⟩

/-- Witnesses: the hypotheses of each clause of NansAndZerosCompareAsStated are met together. -/
theorem test_witness_NansAndZerosCompareAsStated :
    (∃ o : TileOp, ∃ s : State, ∃ u : EType, (Issues o .vector s) ∧ (Mem.wf (tileGet s o.tile).t = true)
        ∧ (etypeOf (fmtV o.w).ety = some u) ∧ (u.isFloat = true)
        ∧ let f := fmtV o.w; (vfieldsOk f { d := true, a := true, b := true, sb := true } = true)
        ∧ (spansOk false [spanOf f.d f.n u.bytes] (spanOf f.a f.n u.bytes :: bSpan f u.bytes) = true) ∧ ∃ i,
        (i ∈ [(Instr.vfmin, u.fmt.signBit), (.vfmax, 0)]))
    ∧ (∃ o : TileOp, ∃ s : State, ∃ u : EType, (Issues o .vector s) ∧ (Mem.wf (tileGet s o.tile).t = true)
        ∧ (etypeOf (fmtV o.w).ety = some u) ∧ (u.isFloat = true)
        ∧ let f := fmtV o.w; (vfieldsOk f { d := true, a := true, b := true, sb := true } = true) ∧ (f.d < 8)
        ∧ (spansOk false [] (spanOf f.a f.n u.bytes :: bSpan f u.bytes) = true) ∧ ∃ i,
        (i ∈ [(Instr.vcmpeq, false, true), (.vcmpne, true, false), (.vcmplt, false, false), (.vcmple, false, true), (.vcmpgt, false, false), (.vcmpge, false, true)]))
    ∧ (∃ o : TileOp, ∃ s : State, ∃ u : EType, (Issues o .vector s) ∧ (Mem.wf (tileGet s o.tile).t = true)
        ∧ (etypeOf (fmtV o.w).ety = some u) ∧ (u.isFloat = true)
        ∧ let f := fmtV o.w; (vfieldsOk f { d := true, a := true } = true)
        ∧ (spansOk false [spanOf f.d f.n u.bytes] [spanOf f.a f.n u.bytes] = true) ∧ ∃ i,
        (i ∈ [(Instr.vfabs, false), (.vfneg, true)])) :=
  ⟨⟨tO 0, tS, .f32, issues_of (by decide), by decide, by decide, (by decide), by decide, by decide, _, .head _⟩,
   ⟨tO 0, tS, .f32, issues_of (by decide), by decide, by decide, (by decide), by decide, by decide, (by decide), _, .head _⟩,
   ⟨tO 0, tS, .f32, issues_of (by decide), by decide, by decide, (by decide), by decide, by decide, _, .head _⟩⟩

/-- Witnesses: the hypotheses of each clause of AClearZeroesThePartitionsRanges are met together. -/
theorem test_witness_AClearZeroesThePartitionsRanges :
    (∃ p : Nat, ∃ s : State, (p < 256) ∧ (Mem.wf s.mem = true) ∧ (s.clearQ = []))
    ∧ (∃ p : Nat, ∃ s : State, (p < 256) ∧ (Mem.wf s.mem = true) ∧ (s.clearQ = []) ∧ ∃ k, (k % 256 = p)) :=
  ⟨⟨1, gM, by decide⟩,
   ⟨1, gM, by decide, by decide, (by decide), 1, by decide⟩⟩

/-- Witness: the hypotheses of ErrorRecordsTakeTheNextSlot are met together. -/
theorem test_witness_ErrorRecordsTakeTheNextSlot :
    ∃ (e : ErrIn) (s : State), ((∀ p, e.part = some p → inTick s p = false) ∨ e.source = 0xFFFF) ∧ errHeld s < 4096
        ∧ s.errLost = 0 :=
  ⟨{ code := 0, cls := 0 }, {}, .inl nofun, by decide, rfl⟩

/-- Witnesses: the hypotheses of each clause of PlainWritesFollowTheAccessCodes are met together. -/
theorem test_witness_PlainWritesFollowTheAccessCodes :
    (∃ i : Nat, (i < 65536))
    ∧ (∃ i : Nat, ∃ s : State, ∃ f : Fld, (f.acc = .rwo) ∧ (f.lo + f.w ≤ 64)
        ∧ (s.rwo.contains (regKey f.reg i * 64 + f.lo) = false))
    ∧ (∃ r : RegName, (r ≠ .tileStatus))
    ∧ (∃ i : Nat, ∃ p : Nat, ∃ s : State, (partOfBay s (bayOf i) = some p) ∧ ∃ f, (f ∈ RegName.tileStatus.fields)
        ∧ (f ≠ F.tileStatus_tick))
    ∧ (∃ i : Nat, ∃ p : Nat, ∃ s : State, (partOfBay s (bayOf i) = some p) ∧ (confidential s p = true) ∧ ∃ f,
        (f ∈ RegName.tileVflags.fields))
    ∧ (∃ i : Nat, ∃ p : Nat, ∃ s : State, (partOfBay s (bayOf i) = some p) ∧ (confidential s p = true) ∧ ∃ f,
        (f ∈ RegName.tileErr.fields) ∧ (f ≠ F.tileErr_pc))
    ∧ (∃ i : Nat, ∃ p : Nat, ∃ s : State, (partOfBay s (bayOf i) = some p) ∧ (confidential s p = false) ∧ ∃ r,
        (r ∈ [RegName.tileStatus, .tileErr, .tileVflags]))
    ∧ (∃ b : Nat, ∃ p : Nat, ∃ s : State, (partOfBay s b = some p) ∧ (confidential s p = true) ∧ ∃ f,
        (f ∈ RegName.kvwBytes.fields))
    ∧ (∃ b : Nat, ∃ p : Nat, ∃ s : State, (partOfBay s b = some p) ∧ (confidential s p = true) ∧ ∃ f,
        (f ∈ RegName.kvwFaults.fields)) :=
  ⟨⟨0, by decide⟩,
   ⟨0, {}, ⟨.partCfg, 0, 1, .rwo, 0⟩, by decide⟩,
   ⟨.partCfg, by decide⟩,
   ⟨0, 1, gM, by decide, F.tileStatus_pc, by decide, by decide⟩,
   ⟨0, 1, fset F.partSec_confidential 1 1 gM, by decide, by decide, F.tileVflags_flags, by decide⟩,
   ⟨0, 1, fset F.partSec_confidential 1 1 gM, by decide, by decide, F.tileErr_cause, by decide, by decide⟩,
   ⟨0, 1, gM, by decide, by decide, .tileErr, by decide⟩,
   ⟨0, 1, fset F.partSec_confidential 1 1 gM, by decide, by decide, F.kvwBytes_count, by decide⟩,
   ⟨0, 1, fset F.partSec_confidential 1 1 gM, by decide, by decide, F.kvwFaults_count, by decide⟩⟩

/-- Witnesses: the hypotheses of each clause of ConfidentialPacketsAreNotTraced are met together. -/
theorem test_witness_ConfidentialPacketsAreNotTraced :
    (∃ p : NetPkt, ∃ s : State, (p.hubu = false) ∧ (confidential s p.part = true))
    ∧ (∃ a : NetArr, ∃ s : State, (a.pkt.hubu = false) ∧ (a.pkt.part < 256) ∧ (confidential s a.pkt.part = true) ∧ ∃ r : RegName,
        ∃ i : Nat, (i < 65536) ∧ (r ≠ .perfCnt))
    ∧ (∃ ty : Nat, ∃ p : NetPkt, ∃ h : NetHop, ∃ s : State, (p.hubu = true) ∧ (h.field < 9) ∧ (h.node < 98)
        ∧ let i := h.field * 98 + h.node; (prbMatches s ty h.inPort p (rget s .prbFiltB i).toNat (rget s .prbAddrB i).toNat = true))
    ∧ (∃ ty : Nat, ∃ p : NetPkt, ∃ crowded : Bool, ∃ h : NetHop, ∃ s : State, (p.hubu = true) ∧ (h.field < 9) ∧ (h.node < 98)
        ∧ let i := h.field * 98 + h.node; (prbMatches s ty h.inPort p (rget s .prbFiltA i).toNat (rget s .prbAddrA i).toNat = true) ∧ (fon s F.prbFiltA_trace i = true) ∧ (fon s F.trcCtrl_arm h.field = true) ∧ (fon s F.trcCtrl_full h.field = false) ∧ (crowded = false)) :=
  ⟨⟨{ dst := 0, src := 16, part := 1 }, fset F.partSec_confidential 1 1 {}, by decide⟩,
   ⟨{ pkt := { dst := 0, src := 16, part := 1 } }, fset F.partSec_confidential 1 1 {}, by decide, by decide, (by decide),
       .partCfg, 0, by decide⟩,
   ⟨1, { dst := 0, src := 16, hubu := true }, { field := 0, node := 0, inPort := 0 }, fset F.prbFiltB_enable 0 1 {}, by decide,
       by decide, (by decide), by decide⟩,
   ⟨1, { dst := 0, src := 16, hubu := true }, false, { field := 0, node := 0, inPort := 0 },
       fset F.trcCtrl_arm 0 1 (fset F.prbFiltA_trace 0 1 (fset F.prbFiltA_enable 0 1 {})), by decide, by decide, (by decide),
       by decide⟩⟩

/-- The state after a command, where it gives one. -/
def after (i : Instr) (s : State) : State :=
  match exec i s with
  | .next t => t
  | .fault _ => s
  | .refused _ => s
/-- Some 32-bit elements in a T register. -/
def tReg (k : Nat) (vs : List Nat) : Mem := Mem.writeN [] (k * 4096) (vs.flatMap (leBytes 4))
/-- Tile 0 with X registers, T registers and tile-store bytes. -/
def tSet (x : Map Word) (t : Mem) (st : Mem) (w : List Nat) : State :=
  { tileSet 0 { x := x, t := t, written := w } tS with store := st }

/-! ### Ill-formed commands are refused (one for each check of WellFormed.lean) -/

/-- A tile, bay, field, site, module or partition that no hub has. -/
theorem test_wf_refuses_units :
    (Instr.nop { tile := 4608, w := 0 }).wf = false ∧ (Instr.barrierRelease 576 0).wf = false
    ∧ (Instr.vcoreAdjust 9 true).wf = false ∧ (Instr.mtnPwrgdHigh 12).wf = false
    ∧ (Instr.moduleSbinitDone 0 8).wf = false ∧ (Instr.tickRelease 256).wf = false := by decide

/-- A host port, lane group, router, coherent range or memory controller that no hub has. -/
theorem test_wf_refuses_ports :
    (Instr.l1Entry 4).wf = false ∧ (Instr.lossOfSignal 36).wf = false ∧ (Instr.prbFilterEnable false 882 0).wf = false
    ∧ (Instr.cohRangeFlushDone 16).wf = false ∧ (Instr.rowRepair 36).wf = false := by decide

/-- Packets beyond R230 and R313, a destination that no hub has, and a SEQ beyond 12 bits. -/
theorem test_wf_refuses_packets :
    (Instr.rdshr { pkt := { dst := 0, src := 16, lines := 9 } } 0).wf = false
    ∧ (Instr.rdshr { pkt := { dst := 9, src := 16, lines := 1 } } 0).wf = false
    ∧ (Instr.idoonWr ⟨36, 0, true, false, true, { ty := 3, dst := 0, src := 1 }, []⟩).wf = false
    ∧ (Instr.idoonWr ⟨0, 4096, true, false, true, { ty := 3, dst := 0, src := 1 }, []⟩).wf = false := by decide

/-! ### What single commands do, against the spec's numbers -/

/-- The table gives no row bits (log entry 5). -/
theorem test_no_word_spells_a_command : decodeTableWord 64 0 = none ∧ State.reset.withFetchWord 64 1 = State.reset := by decide

/-- XSRA keeps the sign: −16 shifted right by 4 is −1 (R116). -/
theorem test_xsra_keeps_sign :
    xget (after (.xsra (tO (1 <<< 43 + 2 <<< 38 + 1 <<< 32 + 4))) (tX [(2, BitVec.ofInt 64 (-16))])) 0 1 = BitVec.ofInt 64 (-1) := by
  decide

/-- SLI sign-extends its immediate (R75). -/
theorem test_sli_sign_extends : xget (after (.sli (tO (1 <<< 43 + 0xFFFFFFFE))) tS) 0 1 = BitVec.ofInt 64 (-2) := by decide

/-- LOOP leaves X at 0 and goes on with the next instruction (R75). -/
theorem test_loop_ends :
    xget (after (.loopTo (tO (1 <<< 43 + 0xFFFFFFFF))) (tX [(1, 1)])) 0 1 = 0
    ∧ fget (after (.loopTo (tO (1 <<< 43 + 0xFFFFFFFF))) (tX [(1, 1)])) F.tileStatus_pc 0 = 1 := by decide

/-- WAITC of counter 5 is a program error, cause 0x8: the tile stops (R92, R105). -/
theorem test_waitc_reserved_counter_stops : fon (after (.waitc (tO (5 <<< 32))) tS) F.tileStatus_stopped 0 = true := by decide

/-- SIG to the tile's own counter 3 adds its increment (R94). -/
theorem test_sig_adds :
    Map.get (tileGet (after (.sig (tO (1 <<< 43 + 3 <<< 32 + 7))) (tX [(1, 0)])) 0).sync 0 3 = 7 := by decide

/-- The softmax row of R128: M = 3.0; scores 3.0, 2.0, 1.5, −∞ and NaN. -/
theorem test_vexpq_softmax_row :
    telems (tileGet (after (.vexpq (tO (2 <<< 43 + 1 <<< 38 + 9 <<< 33 + 4)))
      (tSet [(9, 0x40400000)] (tReg 1 [0x40400000, 0x40000000, 0x3FC00000, 0xFF800000, 0x7FC00000]) [] [])) 0) 2 4 5
    = [16777216, 8388608, 5931642, 0, 0] := by decide

/-- Step 2 of the token list of R130: the indices of P1's bits, then zeros, and their number. -/
theorem test_vcompi_token_list :
    let t := tileGet (after (.vcompi (tO (2 <<< 43 + 8 <<< 33 + 10 <<< 28 + 2 <<< 25 + 1 <<< 22 + 1 <<< 21 + 15)))
      (tileSet 0 { p := [(1, 0b1100001001001)] } tS)) 0
    telems t 2 4 16 = [0, 3, 6, 11, 12, 0, 0, 0, 0, 0, 0, 0, 0, 0, 0, 0] ∧ Map.get t.x 0 10 = 5 := by decide

/-- VADDS of I8: 100 + 100 saturates at 127, −100 + −100 at −128 (R121). -/
theorem test_vadds_saturates :
    telems (tileGet (after (.vadds (tO (3 <<< 43 + 1 <<< 38 + 2 <<< 33 + 4 <<< 25 + 1)))
      (tSet [] (Mem.writeN (Mem.writeN [] 4096 [100, 156]) 8192 [100, 156]) [] [])) 0) 3 1 2 = [127, 128] := by decide

/-- MMA of one MXFP4 product, 6.0 × 0.5, under the datum −2: 3.0 is 12 × 2^−2 (R33, R38, R41). -/
theorem test_mma_one_product :
    accGet (tileGet (after (.mma (tO (1 <<< 35 + 2 <<< 30 + 3 <<< 25 + 1 <<< 24 + 1 <<< 22 + 0x3FE <<< 12)))
      (tSet [(1, 0x400 <<< 20), (2, 0x800 + 0xC00 <<< 20), (3, 1 + 1 <<< 17 + 1 <<< 23)] []
        [(0, 7), (0x400, 127), (0x800, 1), (0xC00, 127)] [0, 16, 32, 48])) 0) 0 0 = 12 := by decide

/-- Alignment rounds to nearest, ties to even, against the floor (R41): 3 and −3 by one bit, and −1 by three. -/
theorem test_align_ties_to_even :
    alignTo 3 0 1 = (2, true) ∧ alignTo (-3) 0 1 = (-2, true) ∧ alignTo (-1) 0 3 = (0, true) ∧ alignTo 4 0 2 = (1, false) := by
  decide

/-- THERM_WARN, standing at a WARN of 100 °C in eighths, clears at 98 °C (R613, R619). -/
theorem test_thermal_warning_clears :
    fon (after (.thermalSample (List.replicate 594 784)) (fset F.pwrStatus_thermWarn 0 1 (fset F.pwrStatus_mainOn 0 1 {})))
        F.pwrStatus_thermWarn 0 = false := by
  decide +kernel

/-- A 1 written to MT_ERR.VALID clears it, and the read-only MODULE keeps its value (R11, R395). -/
theorem test_write_one_clears :
    let t := after (.registerWrite ⟨.mgmt, 0x11, 0, 0x20, [0xFF, 0xFF]⟩) (fset F.mtErr_module 0 5 (fset F.mtErr_valid 0 1 {}))
    fget t F.mtErr_valid 0 = 0 ∧ fget t F.mtErr_module 0 = 5 := by decide

/-- A packet whose link CRC fails is not taken: the SEQ expected stays (R228). -/
theorem test_idoon_crc_failure : (idnGet (after (.idoonWr { tA 3 with lcrcOk := false }) tI) 0).rxSeq = 0 := by decide

/-- A packet taken in order counts its blocks of 32 bytes, header included (R230, R269). -/
theorem test_idoon_bytes_counted :
    fget (after (.idoonWr { tA 3 with pkt := { (tA 3).pkt with data := List.replicate 64 1 } }) tI) F.idnRxbytes_count 0 = 96 := by
  decide

/-- A site's power good in POWER brings it to RESET, and the 10 ms timer to FAULT with cause 0x1 (R377, R391). -/
theorem test_site_power :
    fget (after (.mtnPwrgdHigh 0) (tT 2 1 1)) F.mtStatus_state 0 = 3
    ∧ fget (after (.sitePowerTimeout 0) (tT 2 1 1)) F.mtStatus_state 0 = 0xA
    ∧ fget (after (.sitePowerTimeout 0) (tT 2 1 1)) F.mtStatus_cause 0 = 1 := by decide

/-- An event that a transition table does not list for the state leaves the state unchanged (R15). -/
theorem test_unlisted_event : after (.mtnPwrgdHigh 0) (tT 9 1 5) = tT 9 1 5 := by decide

/-- The first error record after reset has SEQ 0 in slot 0, and PIDX moves to 1 (R574, R578, R579). -/
theorem test_first_error_record :
    let t := logErr { code := 0x0805, cls := 0 } (fset F.pwrStatus_mainOn 0 1 {})
    (Map.get? t.errq 0).map (fun r => (r.seq, r.code)) = some (0, 0x0805) ∧ fget t F.errqPidx_index 0 = 1 := by decide

/-- Bits [63:56] and [55:48] name the instruction: 0x01 0x02 is BRNZ, and major opcode 0xFF is reserved (R73, R75). -/
theorem test_tile_words :
    decodeTile 3 0x0102000000000005 = .brnz { tile := 3, w := 5 }
    ∧ decodeTile 3 0xFF07000000000005 = .nop { tile := 3, w := 5, reserved := some 0xFF07 } := ⟨rfl, rfl⟩

/-- A packet goes along its row, then along its column: from bay (0, 0) of field 0 to bay (2, 1) (R316). -/
theorem test_row_then_column :
    (route {} 0 0xA0 0).map (fun l => l.map fun h => (h.field, h.node,
        h.inPort)) = some [(0, 0, 4), (0, 1, 3), (0, 2, 3), (0, 10, 0)] := by
  decide

/-- A packet from field 0 to field 1 crosses by both facing edge routers, over the crossing its parity names (R316, R317). -/
theorem test_seam_crossing :
    (route {} 0x70 1 0x40).map (fun l => (l.map (fun h => (h.field, h.node, h.inPort)), l.filterMap (·.cross)))
      = some ([(0, 7, 4), (0, 72, 3), (1, 88, 5), (1, 0, 3)], [0]) := by
  decide

/-- The capability directory begins with its MAGIC, FORMAT 1 (R408). -/
theorem test_directory_magic : bar0Read {} .hub 0 6 = [0x44, 0x43, 0x58, 0x44, 1, 0] := by decide

/-- 450 is above the largest finite E4M3 value and rounds down to it: it saturates all the same (R56 step 4). -/
theorem test_saturates_before_rounding : (mxFmt 3).map (fun f => mxEncodeElem 3 f 127 (.fin false 225 1)) = some (0x7E, true,
    false) := by
  decide

/-- A byte write beside byte 0 of TRC_CTRL arms nothing: the buffer keeps its place (R14, R348). -/
theorem test_narrow_write_does_not_arm :
    fget (after (.registerWrite ⟨.mgmt, 0x10, 0, 0xD4001, [0]⟩) (fset F.trcCtrl_wrptr 0 5 (fset F.trcCtrl_arm 0 1 {})))
      F.trcCtrl_wrptr 0 = 5 := by decide

end Sys2Proof.Machine
end

section
/-! Reset and the step: what a register reads right after reset, and what one step does with the queue of commands. -/
namespace Sys2Proof.Machine

/-- The state after reset is the empty one with the two registers that bring-up step 1 has already written (log entry 36). -/
theorem reset_eq_rset : State.reset = rset (rset {} .bootStatus 0 0x10) .secStatus 0 0x81 := rfl

/-- With no register listed, each reads its reset value. -/
theorem rget_of_regs_nil {s : State} (h : s.regs = []) (r : RegName) (i : Nat) : rget s r i = regReset r i := by
  simp [rget, h, Map.get, Map.get?]

/-- Right after reset a register other than the two that bring-up has written reads its table's reset value. -/
theorem rget_reset {r : RegName} {i : Nat} (hi : i < 65536) (h : ¬ (i = 0 ∧ (r = .bootStatus ∨ r = .secStatus))) :
    rget State.reset r i = regReset r i := by
  have hsec : ¬ (r = .secStatus ∧ i = 0) := fun e => h ⟨e.2, .inr e.1⟩
  have hboot : ¬ (r = .bootStatus ∧ i = 0) := fun e => h ⟨e.2, .inl e.1⟩
  rw [reset_eq_rset, rget_rset_other _ _ _ _ _ _ hsec (by decide) hi, rget_rset_other _ _ _ _ _ _ hboot (by decide) hi,
    rget_of_regs_nil rfl]

/-- Only PART_BAYS of partition 0 differs from the value its table gives (R535). -/
theorem regReset_of_ne_partBays {r : RegName} (h : r ≠ .partBays) (i : Nat) : regReset r i = BitVec.ofNat 64 r.resetVal := by
  simp [regReset, h]

theorem regReset_partBays_zero {k : Nat} (h : k < 9) : regReset .partBays k = BitVec.allOnes 64 := by
  simp [regReset, h]

/-- No partition is enabled right after reset (R215). -/
theorem partCfg_enable_reset {p : Nat} (hp : p < 256) : fon State.reset F.partCfg_enable p = false := by
  have hr : rget State.reset .partCfg p = BitVec.ofNat 64 RegName.partCfg.resetVal := by
    rw [rget_reset (by omega) (by simp), regReset_of_ne_partBays (by decide)]
  have hf : fget State.reset F.partCfg_enable p = 0 := by
    unfold fget
    rw [show F.partCfg_enable.reg = .partCfg from rfl, hr]
    decide
  simp [fon, hf]

theorem partBays_reset {k : Nat} (hk : k < 9) : rget State.reset .partBays k = BitVec.allOnes 64 := by
  rw [rget_reset (by omega) (by simp), regReset_partBays_zero hk]

/-- Settles O45: the reset state lists two registers, and everything else stands at its default. -/
theorem resetHoldsTheStatedValues : Obligations.ResetHoldsTheStatedValues := by
  unfold Obligations.ResetHoldsTheStatedValues
  refine ⟨fun r i hi h => rget_reset hi h, ?_, ?_, fun p hp => partCfg_enable_reset hp,
    fun k hk => partBays_reset hk, by decide, rfl, rfl, rfl, rfl, rfl, rfl⟩
  · rw [reset_eq_rset, rget_rset_reg _ _ _ _ _ (by decide), rget_rset_same]
  · rw [reset_eq_rset, rget_rset_same]

theorem step_of_pending_cons {c : Instr} {rest : List Instr} {s : State} (h : s.pending = c :: rest) :
    step s = exec c { s with pending := rest } := by
  simp [step, h]

theorem step_of_pending_nil {s : State} (h : s.pending = []) : step s = .next s := by
  simp [step, h]

/-- Settles O44, by the two cases of the queue. -/
theorem aStepRunsTheFrontCommand : Obligations.AStepRunsTheFrontCommand := by
  unfold Obligations.AStepRunsTheFrontCommand
  exact ⟨fun _ _ _ h => step_of_pending_cons h, fun _ h => step_of_pending_nil h⟩

end Sys2Proof.Machine
end

section
/-! Plain writes and views of registers (R11, R104, R520): what each access code leaves in a field, that nothing else
changes, and what a read shows to the hub's own units and to the operator. -/
namespace Sys2Proof.Machine

/-! ### Bit fields -/

theorem bitsAt_lt (n lo w : Nat) : bitsAt n lo w < 2 ^ w := Nat.mod_lt _ (Nat.two_pow_pos w)

/-- Taking from a number those of its bits that a mask has leaves the bits that the mask has not. -/
theorem testBit_sub_and (a b k : Nat) : (a - (a &&& b)).testBit k = (a.testBit k && !b.testBit k) := by
  have hle : a &&& b ≤ a := Nat.and_le_left
  have hbit : (a &&& b) % 2 = 1 ↔ a % 2 = 1 ∧ b % 2 = 1 := Nat.and_mod_two_eq_one
  induction k generalizing a b with
  | zero =>
    simp only [Nat.testBit_zero, ← decide_not, ← Bool.decide_and]
    exact decide_eq_decide.2 (by omega)
  | succ k ih =>
    have hhalf : (a - (a &&& b)) / 2 = a / 2 - (a / 2 &&& b / 2) := by
      rw [← Nat.and_div_two]
      omega
    simp only [Nat.testBit_succ, hhalf]
    exact ih _ _ Nat.and_le_left Nat.and_mod_two_eq_one

/-! ### The layout of a register -/

/-- Two fields share no bit. -/
def Fld.Apart (f g : Fld) : Prop := f.lo + f.w ≤ g.lo ∨ g.lo + g.w ≤ f.lo

theorem Fld.Apart.symm {f g : Fld} (h : f.Apart g) : g.Apart f := Or.symm h

/-- By the register tables, every field belongs to the register that lists it and lies in its 64 bits. -/
theorem fields_placed (r : RegName) : ∀ f ∈ r.fields, f.reg = r ∧ f.lo + f.w ≤ 64 := by
  cases r <;> decide

/-- By the register tables, each field ends below the next. -/
theorem fields_ordered (r : RegName) : r.fields.Pairwise fun f g => f.lo + f.w ≤ g.lo := by
  cases r <;> decide

theorem fields_pairwise_apart (r : RegName) : r.fields.Pairwise Fld.Apart := (fields_ordered r).imp Or.inl

/-- Two different fields of a list that share no bits pairwise share none, in whichever order the list holds them. -/
theorem apart_of_mem {l : List Fld} (hp : l.Pairwise Fld.Apart) {f g : Fld} (hf : f ∈ l) (hg : g ∈ l) (h : f ≠ g) : f.Apart g := by
  induction l with
  | nil => exact absurd hf List.not_mem_nil
  | cons k l ih =>
    obtain ⟨hk, hl⟩ := List.pairwise_cons.1 hp
    obtain rfl | hfl := List.mem_cons.1 hf
    · obtain rfl | hgl := List.mem_cons.1 hg
      · exact absurd rfl h
      · exact hk g hgl
    · obtain rfl | hgl := List.mem_cons.1 hg
      · exact (hk f hfl).symm
      · exact ih hl hfl hgl

/-- Two different fields of a register share no bit. -/
theorem fields_apart {r : RegName} {f g : Fld} (hf : f ∈ r.fields) (hg : g ∈ r.fields) (h : f ≠ g) : f.Apart g :=
  apart_of_mem (fields_pairwise_apart r) hf hg h

/-! ### One field -/

/-- What a write of `x` leaves in a field that held `old`, by its access code (R11); of an RWO field this is the first write. -/
def Acc.written : Acc → Nat → Nat → Nat
  | .rw, _, x => x
  | .rwo, _, x => x
  | .w1c, old, x => old - (old &&& x)
  | .w1s, old, x => old ||| x
  | .ro, old, _ => old
  | .wo, old, _ => old

theorem Acc.written_lt (c : Acc) {old x w : Nat} (ho : old < 2 ^ w) (hx : x < 2 ^ w) : c.written old x < 2 ^ w := by
  cases c with
  | rw | rwo => exact hx
  | w1c => exact Nat.lt_of_le_of_lt (Nat.sub_le _ _) ho
  | w1s => exact Nat.or_lt_two_pow ho hx
  | ro | wo => exact ho

/-- A field below bit 64 reads back a value that fits it. -/
theorem fget_fset_of_lt {s : State} {f : Fld} {i x : Nat} (hf : f.lo + f.w ≤ 64) (hx : x < 2 ^ f.w) : fget (fset f i x s) f i = x := by
  rw [fget_fset_same s f i x hf, Nat.mod_eq_of_lt hx]

/-- A write of a field either leaves every register, or sets that field and no other. -/
theorem writeField_regs (i v : Nat) (s : State) (f : Fld) :
    (writeField i v s f).regs = s.regs ∨ ∃ x, (writeField i v s f).regs = (fset f i x s).regs := by
  unfold writeField
  cases f.acc with
  | rw | w1c | w1s => exact .inr ⟨_, rfl⟩
  | ro | wo => exact .inl rfl
  | rwo =>
    dsimp only
    split
    · exact .inl rfl
    · exact .inr ⟨_, rfl⟩

/-- A write of a field leaves every other register, and this one at every other index. -/
theorem rget_writeField_other {i v : Nat} {s : State} {f : Fld} {q : RegName} {j : Nat} (h : ¬ (q = f.reg ∧ j = i)) (hi : i < 65536)
    (hj : j < 65536) : rget (writeField i v s f) q j = rget s q j := by
  obtain he | ⟨x, he⟩ := writeField_regs i v s f
  · exact rget_congr he q j
  · rw [rget_congr he q j]
    exact rget_rset_other s f.reg q i j _ h hi hj

/-- A write of a field leaves the fields of its register that share no bit with it. -/
theorem fget_writeField_apart {i v : Nat} {s : State} {f g : Fld} (hr : g.reg = f.reg) (hg : g.lo + g.w ≤ 64) (h : g.Apart f) :
    fget (writeField i v s f) g i = fget s g i := by
  obtain he | ⟨x, he⟩ := writeField_regs i v s f
  · exact fget_congr (rget_congr he _ _)
  · rw [fget_congr (rget_congr he _ _)]
    exact fget_fset_field s f g i x hr h hg

/-- A write gives a field what its access code says. -/
theorem fget_writeField {i v : Nat} {s : State} {f : Fld} (hf : f.lo + f.w ≤ 64) (hacc : f.acc ≠ .rwo) :
    fget (writeField i v s f) f i = f.acc.written (fget s f i) (bitsAt v f.lo f.w) := by
  have hw := f.acc.written_lt (bitsAt_lt (rget s f.reg i).toNat f.lo f.w) (bitsAt_lt v f.lo f.w)
  unfold writeField
  revert hacc hw
  cases f.acc with
  | rw | w1c | w1s => exact fun _ hw => fget_fset_of_lt hf hw
  | ro | wo => exact fun _ _ => rfl
  | rwo => exact fun h => absurd rfl h

section FirstWrite
variable {i v : Nat} {s : State} {f : Fld} (hacc : f.acc = .rwo)
include hacc

/-- The first write of an RWO field sets it and notes that it has been written. -/
theorem writeField_rwo_first (h : s.rwo.contains (regKey f.reg i * 64 + f.lo) = false) :
    writeField i v s f = fset f i (bitsAt v f.lo f.w) { s with rwo := (regKey f.reg i * 64 + f.lo) :: s.rwo } := by
  simp only [writeField, hacc, h, Bool.false_eq_true, if_false]

/-- A later write of an RWO field does nothing. -/
theorem writeField_rwo_again (h : s.rwo.contains (regKey f.reg i * 64 + f.lo) = true) : writeField i v s f = s := by
  simp only [writeField, hacc, h, if_true]

end FirstWrite

/-! ### A whole register -/

/-- Writes of fields that share no bit with a field leave it. -/
theorem fget_foldl_writeField_apart {i v : Nat} {f : Fld} {l : List Fld} (hf : f.lo + f.w ≤ 64)
    (h : ∀ g ∈ l, g.reg = f.reg ∧ f.Apart g) (s : State) : fget (l.foldl (writeField i v) s) f i = fget s f i := by
  induction l generalizing s with
  | nil => rfl
  | cons g l ih =>
    obtain ⟨hr, ha⟩ := h g (by simp)
    rw [List.foldl_cons, ih (fun g hg => h g (by simp [hg])), fget_writeField_apart hr.symm hf ha]

/-- Writing the fields of a list that share no bits gives each what its access code says. -/
theorem fget_foldl_writeField {r : RegName} {i v : Nat} {f : Fld} {l : List Fld} (hr : ∀ g ∈ l, g.reg = r ∧ g.lo + g.w ≤ 64)
    (hp : l.Pairwise Fld.Apart) (hf : f ∈ l) (hacc : f.acc ≠ .rwo) (s : State) :
    fget (l.foldl (writeField i v) s) f i = f.acc.written (fget s f i) (bitsAt v f.lo f.w) := by
  induction l generalizing s with
  | nil => simp at hf
  | cons g l ih =>
    obtain ⟨hg, hl⟩ := List.pairwise_cons.1 hp
    obtain ⟨hfr, hf64⟩ := hr f hf
    have hgr := (hr g (by simp)).1
    rw [List.foldl_cons]
    obtain rfl | hfl := List.mem_cons.1 hf
    · rw [fget_foldl_writeField_apart hf64 (fun k hk => ⟨(hr k (by simp [hk])).1.trans hfr.symm, hg k hk⟩),
        fget_writeField hf64 hacc]
    · rw [ih (fun k hk => hr k (by simp [hk])) hl hfl, fget_writeField_apart (hfr.trans hgr.symm) hf64 (hg f hfl).symm]

/-- A plain write gives each field of the register what its access code says. -/
theorem fget_plainWrite {r : RegName} {f : Fld} (hf : f ∈ r.fields) (hacc : f.acc ≠ .rwo) (i : Nat) (v : Word) (s : State) :
    fget (plainWrite r i v s) f i = f.acc.written (fget s f i) (bitsAt v.toNat f.lo f.w) :=
  fget_foldl_writeField (fields_placed r) (fields_pairwise_apart r) hf hacc s

/-- A plain write leaves every other register, and this one at every other index. -/
theorem rget_plainWrite_other {r q : RegName} {i j : Nat} (h : ¬ (q = r ∧ j = i)) (hi : i < 65536) (hj : j < 65536) (v : Word)
    (s : State) : rget (plainWrite r i v s) q j = rget s q j := by
  have key : ∀ (l : List Fld), (∀ f ∈ l, f.reg = r) → ∀ s, rget (l.foldl (writeField i v.toNat) s) q j = rget s q j := by
    intro l
    induction l with
    | nil => exact fun _ _ => rfl
    | cons f l ih =>
      intro hl s
      rw [List.foldl_cons, ih (fun g hg => hl g (by simp [hg])), rget_writeField_other (by rwa [hl f (by simp)]) hi hj]
  exact key _ (fun f hf => (fields_placed r f hf).1) s

/-! ### Views -/

/-- A register's value with the bits of some fields zero. -/
def blanked (fs : List Fld) (n : Nat) : Nat := fs.foldl (fun n f => putBits n f.lo f.w 0) n

theorem bitsAt_blanked_apart {fs : List Fld} {f : Fld} (h : ∀ g ∈ fs, f.Apart g) (n : Nat) :
    bitsAt (blanked fs n) f.lo f.w = bitsAt n f.lo f.w := by
  induction fs generalizing n with
  | nil => rfl
  | cons g fs ih =>
    have hg : bitsAt (putBits n g.lo g.w 0) f.lo f.w = bitsAt n f.lo f.w := bitsAt_putBits_other _ _ _ _ _ _ (h g (by simp))
    exact (ih (fun k hk => h k (by simp [hk])) _).trans hg

theorem bitsAt_blanked_mem {fs : List Fld} (hp : fs.Pairwise Fld.Apart) {f : Fld} (hf : f ∈ fs) (n : Nat) :
    bitsAt (blanked fs n) f.lo f.w = 0 := by
  induction fs generalizing n with
  | nil => simp at hf
  | cons g fs ih =>
    obtain ⟨hg, hfs⟩ := List.pairwise_cons.1 hp
    obtain rfl | hf := List.mem_cons.1 hf
    · refine (bitsAt_blanked_apart hg _).trans ?_
      rw [bitsAt_putBits, Nat.zero_mod]
    · exact ih hfs hf _

/-- The hub's own units read a register's value. -/
theorem regView_hub (s : State) (r : RegName) (i : Nat) : regView s .hub r i = regValue s r i := by
  unfold regView
  generalize secretFields s r i = q
  obtain ⟨_ | p, fs⟩ := q <;> simp

section Operator
variable {s : State} {r : RegName} {i p : Nat} {fs : List Fld} (h : secretFields s r i = (some p, fs))
include h

/-- The operator reads all there is of a unit whose partition is not confidential (R520). -/
theorem regView_operator_open (hc : confidential s p = false) : regView s .operator r i = regView s .hub r i := by
  simp [regView, h, hc]

/-- The operator reads a confidential partition's unit with the secret fields blanked (R520). -/
theorem regView_operator_confidential (hc : confidential s p = true) : regView s .operator r i = blanked fs (regView s .hub r i) := by
  simp [regView, h, hc, blanked]

/-- Each secret field of a confidential partition's unit reads zero to the operator (R520). -/
theorem secret_field_reads_zero (hp : fs.Pairwise Fld.Apart) (hc : confidential s p = true) {f : Fld} (hf : f ∈ fs) :
    bitsAt (regView s .operator r i) f.lo f.w = 0 := by
  rw [regView_operator_confidential h hc, bitsAt_blanked_mem hp hf]

/-- The other fields of such a unit read to the operator as to the hub. -/
theorem other_field_reads_same (hc : confidential s p = true) {f : Fld} (hf : ∀ g ∈ fs, f.Apart g) :
    bitsAt (regView s .operator r i) f.lo f.w = bitsAt (regView s .hub r i) f.lo f.w := by
  rw [regView_operator_confidential h hc, bitsAt_blanked_apart hf]

end Operator

theorem regValue_of_ne {r : RegName} (h : r ≠ .tileStatus) (s : State) (i : Nat) : regValue s r i = (rget s r i).toNat := by
  simp [regValue, h]

/-- TILE_STATUS is its register with the tick counter as TICK, while the tile's partition has a tick in progress (R104). -/
theorem regValue_tileStatus {s : State} {i p : Nat} (h : partOfBay s (bayOf i) = some p) :
    regValue s .tileStatus i = putBits (rget s .tileStatus i).toNat F.tileStatus_tick.lo F.tileStatus_tick.w
      (if (partGet s p).live then fget s F.tickCounter_count 0 else 0) := by
  simp [regValue, h]

/-- A field of a register other than TILE_STATUS reads to the hub as it stands. -/
theorem bitsAt_regView_hub {r : RegName} (hr : r ≠ .tileStatus) {f : Fld} (hf : f ∈ r.fields) (s : State) (i : Nat) :
    bitsAt (regView s .hub r i) f.lo f.w = fget s f i := by
  rw [regView_hub, regValue_of_ne hr, fget, (fields_placed r f hf).1]

section Tile
variable {s : State} {i p : Nat} (h : partOfBay s (bayOf i) = some p)
include h

theorem secretFields_tileStatus : secretFields s .tileStatus i = (some p, [F.tileStatus_pc]) := by simp [secretFields, h]
theorem secretFields_tileErr : secretFields s .tileErr i = (some p, [F.tileErr_pc]) := by simp [secretFields, h]
theorem secretFields_tileVflags : secretFields s .tileVflags i = (some p, RegName.tileVflags.fields) := by simp [secretFields, h]

theorem tileStatus_tick_view : bitsAt (regView s .hub .tileStatus i) F.tileStatus_tick.lo F.tileStatus_tick.w
    = if (partGet s p).live then fget s F.tickCounter_count 0 % 2 ^ F.tileStatus_tick.w else 0 := by
  rw [regView_hub, regValue_tileStatus h, bitsAt_putBits]
  split
  · rfl
  · exact Nat.zero_mod _

theorem tileStatus_view_other {f : Fld} (hf : f ∈ RegName.tileStatus.fields) (hn : f ≠ F.tileStatus_tick) :
    bitsAt (regView s .hub .tileStatus i) f.lo f.w = fget s f i := by
  have ha : f.Apart F.tileStatus_tick := fields_apart hf (by decide) hn
  rw [regView_hub, regValue_tileStatus h, bitsAt_putBits_other _ _ _ _ _ _ ha, fget, (fields_placed _ f hf).1]

theorem tileErr_view_other (hc : confidential s p = true) {f : Fld} (hf : f ∈ RegName.tileErr.fields) (hn : f ≠ F.tileErr_pc) :
    bitsAt (regView s .operator .tileErr i) f.lo f.w = fget s f i := by
  have ha : f.Apart F.tileErr_pc := fields_apart hf (by decide) hn
  rw [other_field_reads_same (secretFields_tileErr h) hc (by simpa using ha), bitsAt_regView_hub (by decide) hf]

theorem tile_view_open (hc : confidential s p = false) :
    ∀ r ∈ [RegName.tileStatus, .tileErr, .tileVflags], regView s .operator r i = regView s .hub r i := by
  simp only [List.forall_mem_cons]
  exact ⟨regView_operator_open (secretFields_tileStatus h) hc, regView_operator_open (secretFields_tileErr h) hc,
    regView_operator_open (secretFields_tileVflags h) hc, by simp⟩

end Tile

section Walker
variable {s : State} {b p : Nat} (h : partOfBay s b = some p)
include h

theorem secretFields_kvwErr : secretFields s .kvwErr b = (some p, [F.kvwErr_entry]) := by simp [secretFields, h]
theorem secretFields_kvwBytes : secretFields s .kvwBytes b = (some p, RegName.kvwBytes.fields) := by simp [secretFields, h]
theorem secretFields_kvwFaults : secretFields s .kvwFaults b = (some p, RegName.kvwFaults.fields) := by simp [secretFields, h]

end Walker

/-! ### The claim -/

/-- A plain write: each access code by its clause, and the frame. -/
theorem plainWrite_by_code {r : RegName} {i : Nat} (v : Word) (s : State) {f : Fld} (hf : f ∈ r.fields) :
    (f.acc = .rw → fget (plainWrite r i v s) f i = bitsAt v.toNat f.lo f.w)
    ∧ (f.acc = .w1c → ∀ b, b < f.w → (fget (plainWrite r i v s) f i).testBit b
        = ((fget s f i).testBit b && !(bitsAt v.toNat f.lo f.w).testBit b))
    ∧ (f.acc = .w1s → ∀ b, b < f.w → (fget (plainWrite r i v s) f i).testBit b
        = ((fget s f i).testBit b || (bitsAt v.toNat f.lo f.w).testBit b))
    ∧ (f.acc = .ro ∨ f.acc = .wo → fget (plainWrite r i v s) f i = fget s f i) := by
  have key : f.acc ≠ .rwo → _ := fun hacc => fget_plainWrite hf hacc i v s
  refine ⟨fun h => ?_, fun h b _ => ?_, fun h b _ => ?_, fun h => ?_⟩
  · rw [key (by simp [h]), h, Acc.written]
  · rw [key (by simp [h]), h, Acc.written, testBit_sub_and]
  · rw [key (by simp [h]), h, Acc.written, Nat.testBit_or]
  · obtain h | h := h <;> rw [key (by simp [h]), h, Acc.written]

/-- An RWO field takes its first write after reset, and keeps it against a second. -/
theorem rwo_takes_first_write {i v w : Nat} {s : State} {f : Fld} (hacc : f.acc = .rwo) (hf : f.lo + f.w ≤ 64)
    (h : s.rwo.contains (regKey f.reg i * 64 + f.lo) = false) :
    fget (writeField i v s f) f i = bitsAt v f.lo f.w ∧ fget (writeField i w (writeField i v s f) f) f i = bitsAt v f.lo f.w := by
  have hfirst : fget (writeField i v s f) f i = bitsAt v f.lo f.w := by
    rw [writeField_rwo_first hacc h]
    exact fget_fset_of_lt hf (bitsAt_lt v f.lo f.w)
  have hnoted : (writeField i v s f).rwo.contains (regKey f.reg i * 64 + f.lo) = true := by
    rw [writeField_rwo_first hacc h]
    simp [fset, rset]
  exact ⟨hfirst, by rw [writeField_rwo_again hacc hnoted, hfirst]⟩

/-- Settles O59: by the access code of each field, then by what R520 hides of each register. -/
theorem plainWritesFollowTheAccessCodes : Obligations.PlainWritesFollowTheAccessCodes := by
  unfold Obligations.PlainWritesFollowTheAccessCodes
  refine ⟨fun r i v s hi => ⟨fun f hf => plainWrite_by_code v s hf, fun q j hj h => rget_plainWrite_other h hi hj v s⟩,
    fun i v w s f hacc hf h => rwo_takes_first_write hacc hf h,
    fun r i s h => by rw [regView_hub, regValue_of_ne h], fun i p s h => ?_, fun b p s h hc => ?_⟩
  · refine ⟨tileStatus_tick_view h, fun f hf hn => tileStatus_view_other h hf hn, fun hc => ⟨?_, ?_, ?_, ?_⟩, tile_view_open h⟩
    · exact secret_field_reads_zero (secretFields_tileStatus h) (List.pairwise_singleton _ _) hc (by simp)
    · exact secret_field_reads_zero (secretFields_tileErr h) (List.pairwise_singleton _ _) hc (by simp)
    · exact fun f hf => secret_field_reads_zero (secretFields_tileVflags h) (fields_pairwise_apart _) hc hf
    · exact fun f hf hn => tileErr_view_other h hc hf hn
  · refine ⟨?_, fun f hf => ?_, fun f hf => ?_⟩
    · exact secret_field_reads_zero (secretFields_kvwErr h) (List.pairwise_singleton _ _) hc (by simp)
    · exact secret_field_reads_zero (secretFields_kvwBytes h) (fields_pairwise_apart _) hc hf
    · exact secret_field_reads_zero (secretFields_kvwFaults h) (fields_pairwise_apart _) hc hf

end Sys2Proof.Machine
end

section
/-! The commands of the host's registers (R14, R402, R410, R411, R416, R422, R428, R437, R440, R441, R447), one rule for each. -/
namespace Sys2Proof.Machine

/-! ### Loss of the host link, hot-plug assist -/

theorem exec_hostLinkLost {s : State} (hen : fget s F.hostpHubStatus_enabled 0 ≠ 0)
    (hdown : (List.range 4).any (dlActive s) = false) (hready : fget s F.bootStatus_hubState 0 = 1) :
    exec .hostLinkLost s = .next (lossBegin true (fset F.hostpHubStatus_downMs 0 100 s)) := by
  change execHostLinkLost s = _
  simp [execHostLinkLost, hen, hdown, hready]

theorem exec_hpaButtonPress {s : State} (h : fon s F.hostpHotplug_assistEn 0 = true) :
    exec .hpaButtonPress s = .next (wake (msixRaise 0 0 0 (fset F.hostpHotplug_btnEvent 0 1 s))) := by
  change execHpaButtonPress s = _
  simp [execHpaButtonPress, h]

/-- The indicator fields of HOSTP_HOTPLUG take what a write gives them. -/
def hotplugLit (v : Word) (s : State) : State :=
  fset F.hostpHotplug_pwrInd 0 (bitsAt v.toNat 4 2) (fset F.hostpHotplug_attnInd 0 (bitsAt v.toNat 2 2) s)

/-- The indicators then show on the board's pins. -/
def hotplugShown (t : State) : State :=
  emit .pin 0x09 [fget t F.hostpHotplug_attnInd 0, fget t F.hostpHotplug_pwrInd 0] [] t

section Hotplug
variable {v : Word} (hbtn : bitOn v.toNat 1 = false)
include hbtn

/-- A write of HOSTP_HOTPLUG that keeps BTN_EVENT sets the indicators, wakes where WAKE_REQ is 1, and then removes where REMOVE is 1
and the assist is on (R440). -/
theorem writeHotplug_keeping_btnEvent (s : State) :
    writeHotplug v s =
      let u := hotplugShown (hotplugLit v s)
      let w := if bitOn v.toNat 9 then wake u else u
      if bitOn v.toNat 6 && fon w F.hostpHotplug_assistEn 0 then hotRemove w else w := by
  simp only [writeHotplug, hbtn, Bool.false_eq_true, if_false]
  rfl

theorem exec_hostpHotplugRemove {s : State} (hrem : bitOn v.toNat 6 = true) (hwake : bitOn v.toNat 9 = false)
    (hen : fon (hotplugShown (hotplugLit v s)) F.hostpHotplug_assistEn 0 = true) :
    exec (.hostpHotplugRemove v) s = .next (hotRemove (hotplugShown (hotplugLit v s))) := by
  change execHostpHotplugRemove v s = _
  simp [execHostpHotplugRemove, writeHotplug_keeping_btnEvent hbtn, hrem, hwake, hen]

theorem exec_hostpHotplugWakeReq {s : State} (hwake : bitOn v.toNat 9 = true) (hrem : bitOn v.toNat 6 = false) :
    exec (.hostpHotplugWakeReq v) s = .next (wake (hotplugShown (hotplugLit v s))) := by
  change execHostpHotplugWakeReq v s = _
  simp [execHostpHotplugWakeReq, writeHotplug_keeping_btnEvent hbtn, hrem, hwake]

end Hotplug

/-! ### ATS invalidation -/

/-- An invalidation joins those that wait, and marks the cached translations it meets (R416). -/
def invTaken (i : Inval) (s : State) : State :=
  { s with
    invs := s.invs ++ [i]
    atc := s.atc.map fun e => if e.port = i.port ∧ e.part = i.part ∧ invMeets i e.page e.log2 then { e with marked := true } else e }

/-- An invalidation leaves, with the translations it marked (R416). -/
def invEnded (i : Inval) (port : Nat) (s : State) : State :=
  { s with
    invs := s.invs.erase i
    atc := s.atc.filter fun e => !(e.port == port && e.part == i.part && e.marked && invMeets i e.page e.log2) }

theorem exec_atsInvalidateRequest {port fn page log2 itag : Nat} {s : State} (hup : portUp s port = true) (hport : port < 4)
    (hlog : 12 ≤ log2) (hroom : (s.invs.filter (·.port == port)).length < 32)
    (hpins : s.pins.any (fun n => n.part == fn && invMeets ⟨port, itag, fn, page, log2, s.edges⟩ (n.host / 65536) 16) = false) :
    let t := invTaken ⟨port, itag, fn, page, log2, s.edges⟩ s
    exec (.atsInvalidateRequest port fn page log2 itag) s
      = .next (fset F.hostpAts_invPending port (t.invs.filter (·.port == port)).length t) := by
  have hserved : ¬ ((!portUp s port) = true ∨ port ≥ 4 ∨ log2 < 12 ∨ (s.invs.filter (·.port == port)).length ≥ 32) := by
    simp [hup, Nat.not_lt.2 hlog, hport, hroom]
  change execAtsInvalidateRequest port fn page log2 itag s = _
  unfold execAtsInvalidateRequest
  rw [if_neg hserved]
  simp only [hpins, Bool.false_eq_true, if_false]
  rfl

theorem exec_atsInvalidateDrained {port itag : Nat} {i : Inval} {s : State}
    (hfind : s.invs.find? (fun i => i.port == port && i.itag == itag) = some i) (hdrained : invDrained s i = true) :
    let t := invEnded i port s
    exec (.atsInvalidateDrained port itag) s = .next (emit .host 0x03 [port, i.part, itag] [] (fbump F.hostpInvCount_count port 1
      (fset F.hostpAts_invPending port (t.invs.filter (·.port == port)).length (setAts port t)))) := by
  change execAtsInvalidateDrained port itag s = _
  simp only [execAtsInvalidateDrained, hfind, hdrained, Bool.not_true, Bool.false_eq_true, if_false]
  rfl

/-! ### Bias flips -/

/-- A write of HOSTP_BIAS_FLIP takes its bits [16:0] (R441). -/
def biasAsked (v : Word) (s : State) : State :=
  rset s .hostpBiasFlip 0 (BitVec.ofNat 64 (putBits (rget s .hostpBiasFlip 0).toNat 0 17 v.toNat))

/-- A flip that is not refused: to the device at once, to the host once the slices have let the page's lines go (R422). -/
def biasBegun (v : Word) (s : State) : State :=
  if bitOn v.toNat 16 then setBias (bitsAt v.toNat 0 4) (bitsAt v.toNat 4 12) 1 s
  else
    let t := fset F.hostpBiasFlip_busy 0 1 { s with bias := some (bitsAt v.toNat 0 4, bitsAt v.toNat 4 12) }
    flipCheck ((usedSlices t).foldl (fun t i => cohRun i t) t)

section BiasFlip
variable {v : Word} {s : State} (hstart : bitOn v.toNat 17 = true) (hidle : fon s F.hostpBiasFlip_busy 0 = false)
include hstart hidle

/-- A write that starts a flip takes its bits, and then refuses the flip or begins it (R441). -/
theorem exec_hostpBiasFlipStart :
    exec (.hostpBiasFlipStart v) s = .next (
      if (!hostShared (biasAsked v s) (bitsAt v.toNat 0 4)) = true
          ∨ bitsAt v.toNat 4 12 ≥ rangePages (biasAsked v s) (bitsAt v.toNat 0 4) then
        fset F.hostpBiasFlip_refused 0 1 (biasAsked v s)
      else biasBegun v (fset F.hostpBiasFlip_refused 0 0 (biasAsked v s))) := by
  change execHostpBiasFlipStart v s = _
  simp only [execHostpBiasFlipStart, writeBiasFlip, hstart, hidle, if_true, Bool.false_eq_true, if_false, Bool.not_true]
  rfl

/-- A flip towards the device is done with the write (R422). -/
theorem exec_hostpBiasFlipStart_to_device (hto : bitOn v.toNat 16 = true)
    (hshared : hostShared (biasAsked v s) (bitsAt v.toNat 0 4) = true)
    (hpage : bitsAt v.toNat 4 12 < rangePages (biasAsked v s) (bitsAt v.toNat 0 4)) :
    exec (.hostpBiasFlipStart v) s
      = .next (setBias (bitsAt v.toNat 0 4) (bitsAt v.toNat 4 12) 1 (fset F.hostpBiasFlip_refused 0 0 (biasAsked v s))) := by
  have haccepted : ¬ ((!hostShared (biasAsked v s) (bitsAt v.toNat 0 4)) = true
      ∨ bitsAt v.toNat 4 12 ≥ rangePages (biasAsked v s) (bitsAt v.toNat 0 4)) := by
    rintro (h | h)
    · rw [hshared] at h
      exact Bool.false_ne_true h
    · exact Nat.not_lt.2 h hpage
  rw [exec_hostpBiasFlipStart hstart hidle, if_neg haccepted, biasBegun, if_pos hto]

/-- A flip in a range that no host agent shares is refused (R441). -/
theorem exec_hostpBiasFlipStart_refused (hshared : hostShared (biasAsked v s) (bitsAt v.toNat 0 4) = false) :
    exec (.hostpBiasFlipStart v) s = .next (fset F.hostpBiasFlip_refused 0 1 (biasAsked v s)) := by
  rw [exec_hostpBiasFlipStart hstart hidle, if_pos (.inl (by rw [hshared, Bool.not_false]))]

end BiasFlip

/-! ### BAR4 decoders -/

/-- A write of a decoder's first word takes SIZE_LOG2 and BASE, and disables the decoder (R447). -/
def bar4Placed (i : Nat) (v : Word) (s : State) : State :=
  rset s .hostfBar4 i (BitVec.ofNat 64 (placed 8 6 (bitsAt v.toNat 8 6) + placed 16 24 (bitsAt v.toNat 16 24)))

/-- Does a decoder break a rule of R411 and R447: its size is out of bounds, its partition is confidential, or its target is not
whole in the partition's memory. -/
def bar4Denied (s : State) (f i : Nat) : Prop :=
  fget s F.hostfBar4_sizeLog2 i < 16 ∨ 40 < fget s F.hostfBar4_sizeLog2 i ∨ confidential s f = true
    ∨ (!inPart s f (fget s F.hostfBar4Dpa_dpa i * 65536) (2 ^ fget s F.hostfBar4_sizeLog2 i)) = true

section Bar4
variable {f k : Nat} {v : Word} {s : State} (hf : f < 256) (hk : k < 4) (hen : bitOn v.toNat 0 = true) (hopen : partLocked s f = false)
include hf hk hen hopen

theorem exec_hostfBar4Enable_accepted (h : ¬ bar4Denied (bar4Placed (f * 4 + k) v s) f (f * 4 + k)) :
    exec (.hostfBar4Enable f k v) s = .next (fset F.hostfBar4_enable (f * 4 + k) 1 (bar4Placed (f * 4 + k) v s)) := by
  change execHostfBar4Enable f k v s = _
  simp only [execHostfBar4Enable, writeBar4, hf, hk, hen, hopen, and_self, if_true, Bool.false_eq_true, if_false, Bool.not_true]
  exact congrArg _ (if_neg h)

theorem exec_hostfBar4Enable_refused (h : bar4Denied (bar4Placed (f * 4 + k) v s) f (f * 4 + k)) :
    exec (.hostfBar4Enable f k v) s = .next (logRefused 0x0811 (some f) (bar4Placed (f * 4 + k) v s)) := by
  change execHostfBar4Enable f k v s = _
  simp only [execHostfBar4Enable, writeBar4, hf, hk, hen, hopen, and_self, if_true, Bool.false_eq_true, if_false, Bool.not_true]
  exact congrArg _ (if_pos h)

end Bar4

/-- A decoder of a size R447 gives, with its whole target in an open partition's memory, breaks no rule. -/
theorem not_bar4Denied {s : State} {f i : Nat} (hlo : 16 ≤ fget s F.hostfBar4_sizeLog2 i) (hhi : fget s F.hostfBar4_sizeLog2 i ≤ 40)
    (hc : confidential s f = false)
    (hin : inPart s f (fget s F.hostfBar4Dpa_dpa i * 65536) (2 ^ fget s F.hostfBar4_sizeLog2 i) = true) : ¬ bar4Denied s f i := by
  rintro (h | h | h | h)
  · exact Nat.not_lt.2 hlo h
  · exact Nat.not_lt.2 hhi h
  · exact Bool.false_ne_true (hc.symm.trans h)
  · rw [hin] at h
    exact Bool.false_ne_true h

/-! ### Register writes by a host or the management controller -/

theorem exec_registerWrite_mgmt {w : RegWr} (h : w.path = .mgmt) (s : State) :
    exec (.registerWrite w) s = .next (writeWindow none w.win w.inst w.off w.bytes s) := by
  change execRegisterWrite w s = _
  simp [execRegisterWrite, h]

/-- A port in DL_Active that is not contained counts a host's request and serves it, where RUN asks for no stream of the function
or the request came over it (R431, R515). -/
theorem hostRequest_served {port fn n : Nat} {ide : Bool} {s : State} (hact : dlActive s port = true)
    (hcont : fon s F.hostpPortStatus_contained port = false) (hfn : fn < 256)
    (hide : fget (fwrap F.hostpRxbytes_count F.hostpRxbytes_ovf port n (linkWake port s)) F.partSec_tdisp fn ≠ 2 ∨ ide = true)
    (g : State → State) :
    hostRequest port fn n ide g s = g (fwrap F.hostpRxbytes_count F.hostpRxbytes_ovf port n (linkWake port s)) := by
  have harrives : ¬ ((!dlActive s port) = true ∨ fon s F.hostpPortStatus_contained port = true ∨ fn ≥ 256) := by
    simp [hact, hcont, hfn]
  have hallowed : ¬ (fget (fwrap F.hostpRxbytes_count F.hostpRxbytes_ovf port n (linkWake port s)) F.partSec_tdisp fn = 2
      ∧ (!ide) = true) := by
    rintro ⟨hrun, hplain⟩
    obtain h | h := hide
    · exact h hrun
    · simp [h] at hplain
  unfold hostRequest
  rw [if_neg harrives]
  exact if_neg hallowed

theorem exec_registerWrite_pf {w : RegWr} {port : Nat} {ide : Bool} {s : State} (hpath : w.path = .pf port ide)
    (hact : dlActive s port = true) (hcont : fon s F.hostpPortStatus_contained port = false)
    (hide : fget (fwrap F.hostpRxbytes_count F.hostpRxbytes_ovf port w.bytes.length (linkWake port s)) F.partSec_tdisp 0 ≠ 2
      ∨ ide = true) :
    let t := fwrap F.hostpRxbytes_count F.hostpRxbytes_ovf port w.bytes.length (linkWake port s)
    exec (.registerWrite w) s
      = .next (if hubReady t = true ∨ w.win = 4 then writeWindow (some port) w.win w.inst w.off w.bytes t else barDrop t) := by
  change execRegisterWrite w s = _
  simp only [execRegisterWrite, hpath]
  rw [hostRequest_served hact hcont (by decide) hide]

/-! ### The claim -/

/-- Settles O36, by the rule of each command. -/
theorem hostRegisterCommandsComplete : Obligations.HostRegisterCommandsComplete := by
  unfold Obligations.HostRegisterCommandsComplete
  refine ⟨fun s => exec_hostLinkLost, fun s => exec_hpaButtonPress, fun v s hbtn => ⟨?_, ?_⟩, ?_, ?_, ?_, ?_, fun w s => ⟨?_, ?_⟩⟩
  · exact exec_hostpHotplugRemove hbtn
  · exact exec_hostpHotplugWakeReq hbtn
  · exact fun port fn page log2 itag s => exec_atsInvalidateRequest
  · exact fun port itag i s => exec_atsInvalidateDrained
  · intro v s hstart hto hidle
    exact ⟨exec_hostpBiasFlipStart_to_device hstart hidle hto, exec_hostpBiasFlipStart_refused hstart hidle⟩
  · intro f k v s hf hk hen hopen i t n hlo hhi
    exact ⟨fun hc hin => exec_hostfBar4Enable_accepted hf hk hen hopen (not_bar4Denied hlo hhi hc hin),
      fun hin => exec_hostfBar4Enable_refused hf hk hen hopen (.inr (.inr (.inr (congrArg Bool.not hin))))⟩
  · exact fun h => exec_registerWrite_mgmt h s
  · exact fun port ide => exec_registerWrite_pf

end Sys2Proof.Machine
end

section
/-! Canonical memory: every command keeps it, so every step does, and reset has it (R23, R62). -/
namespace Sys2Proof.Machine

/-! ### Every step -/

/-- The kept lemma of the meaning that `exec` gives each command. Two arms name their operand: left to the unifier, it unfolds
the meaning's split on a number. -/
theorem exec_kept {q : List Instr} {s : State} (i : Instr) (hs : Kept q s) : OnNext (Kept q) (exec i s) :=
  match i with
  | .nop _ => execNop_kept hs
  | .endTick _ => execEndTick_kept hs
  | .br _ => execBr_kept hs
  | .brz _ => execBrz_kept hs
  | .brnz _ => execBrnz_kept hs
  | .loopTo _ => execLoopTo_kept hs
  | .sli _ => execSli_kept hs
  | .slih _ => execSlih_kept hs
  | .sld _ => execSld_kept hs
  | .sst _ => execSst_kept hs
  | .waitc _ => execWaitc_kept hs
  | .waitSatisfied _ => execWaitSatisfied_kept hs
  | .bsync _ => execBsync_kept hs
  | .barrierRelease _ _ => execBarrierRelease_kept hs
  | .sig _ => execSig_kept hs
  | .waits _ => execWaits_kept hs
  | .mma _ => execMma_kept hs
  | .mmb _ => execMmb_kept hs
  | .mscan _ => execMscan_kept hs
  | .moutRecords _ => execMoutRecords_kept hs
  | .moutFp32 _ => execMoutFp32_kept hs
  | .moutBf16 _ => execMoutBf16_kept hs
  | .moutMx _ => execMoutMx_kept hs
  | .matrixComplete _ => execMatrixComplete_kept hs
  | .tld _ => execTld_kept hs
  | .tldComplete _ _ => execTldComplete_kept hs
  | .tst _ => execTst_kept hs
  | .tstAck _ => execTstAck_kept hs
  | .tstS _ => execTstS_kept hs
  | .tileTranslationFill _ _ => execTileTranslationFill_kept hs
  | .patrolScrub _ _ _ => execPatrolScrub_kept hs
  | .xadd _ => execXadd_kept hs
  | .xsub _ => execXsub_kept hs
  | .xmul _ => execXmul_kept hs
  | .xand _ => execXand_kept hs
  | .xor _ => execXor_kept hs
  | .xxor _ => execXxor_kept hs
  | .xshl _ => execXshl_kept hs
  | .xshr _ => execXshr_kept hs
  | .xsra _ => execXsra_kept hs
  | .xslt _ => execXslt_kept hs
  | .xsltu _ => execXsltu_kept hs
  | .xseq _ => execXseq_kept hs
  | .xmin _ => execXmin_kept hs
  | .xmax _ => execXmax_kept hs
  | .xminu _ => execXminu_kept hs
  | .xmaxu _ => execXmaxu_kept hs
  | .vld _ => execVld_kept hs
  | .vst _ => execVst_kept hs
  | .vlds _ => execVlds_kept hs
  | .vsts _ => execVsts_kept hs
  | .vstmx _ => execVstmx_kept hs
  | .vldmx _ => execVldmx_kept hs
  | .vectorStoreComplete _ => execVectorStoreComplete_kept hs
  | .vfadd _ => execVfadd_kept hs
  | .vfsub _ => execVfsub_kept hs
  | .vfmul _ => execVfmul_kept hs
  | .vfmin _ => execVfmin_kept hs
  | .vfmax _ => execVfmax_kept hs
  | .vfabs _ => execVfabs_kept hs
  | .vfneg _ => execVfneg_kept hs
  | .vfscale _ => execVfscale_kept hs
  | .vfma _ => execVfma_kept hs
  | .vfms _ => execVfms_kept hs
  | .vfnma _ => execVfnma_kept hs
  | .vadd _ => execVadd_kept hs
  | .vsub _ => execVsub_kept hs
  | .vmul _ => execVmul_kept hs
  | .vmin _ => execVmin_kept hs
  | .vmax _ => execVmax_kept hs
  | .vadds _ => execVadds_kept hs
  | .vsubs _ => execVsubs_kept hs
  | .vand _ => execVand_kept hs
  | .vor _ => execVor_kept hs
  | .vxor _ => execVxor_kept hs
  | .vnot _ => execVnot_kept hs
  | .vshl _ => execVshl_kept hs
  | .vshr _ => execVshr_kept hs
  | .vsra _ => execVsra_kept hs
  | .vcmpeq _ => execVcmpeq_kept hs
  | .vcmpne _ => execVcmpne_kept hs
  | .vcmplt _ => execVcmplt_kept hs
  | .vcmple _ => execVcmple_kept hs
  | .vcmpgt _ => execVcmpgt_kept hs
  | .vcmpge _ => execVcmpge_kept hs
  | .vcmpspc _ => execVcmpspc_kept hs
  | .pand _ => execPand_kept hs
  | .por _ => execPor_kept hs
  | .pxor _ => execPxor_kept hs
  | .pnot _ => execPnot_kept hs
  | .pset _ => execPset_kept hs
  | .pcnt _ => execPcnt_kept hs
  | .pfirst _ => execPfirst_kept hs
  | .vmov _ => execVmov_kept hs
  | .vbcast _ => execVbcast_kept hs
  | .viota _ => execViota_kept hs
  | .vsel _ => execVsel_kept hs
  | .vext _ => execVext_kept hs
  | .vins _ => execVins_kept hs
  | .vperm _ => execVperm_kept hs
  | .vrdfl _ => execVrdfl_kept hs
  | .vcomp _ => execVcomp_kept hs
  | .vexpd _ => execVexpd_kept hs
  | .vcompi _ => execVcompi_kept hs
  | .vrsumf _ => execVrsumf_kept hs
  | .vrmaxf _ => execVrmaxf_kept hs
  | .vrminf _ => execVrminf_kept hs
  | .vrsumi _ => execVrsumi_kept hs
  | .vrmaxi _ => execVrmaxi_kept hs
  | .vrmini _ => execVrmini_kept hs
  | .vramaxf _ => execVramaxf_kept hs
  | .vrrmaxf _ => execVrrmaxf_kept hs
  | .vrrsumf _ => execVrrsumf_kept hs
  | .vrramaxf _ => execVrramaxf_kept hs
  | .vexp2 _ => execVexp2_kept hs
  | .vlog2 _ => execVlog2_kept hs
  | .vrcp _ => execVrcp_kept hs
  | .vrsqrt _ => execVrsqrt_kept hs
  | .vtanh _ => execVtanh_kept hs
  | .vsigm _ => execVsigm_kept hs
  | .vcvt _ => execVcvt_kept hs
  | .vradd _ => execVradd_kept hs
  | .vrcvt _ => execVrcvt_kept hs
  | .vrmk _ => execVrmk_kept hs
  | .vexpq _ => execVexpq_kept hs
  | .gather _ => execGather_kept hs
  | .append _ _ => execAppend_kept hs
  | .mask _ => execMask_kept hs
  | .kvDeliveryComplete _ => execKvDeliveryComplete_kept hs
  | .doorbell _ _ _ _ _ _ => execDoorbell_kept hs
  | .commandFetch _ => execCommandFetch_kept hs
  | .tickEdgeEmit => execTickEdgeEmit_kept hs
  | .edge _ _ _ => execEdge_kept hs
  | .tickEdgeApply => execTickEdgeApply_kept hs
  | .report _ _ => execReport_kept hs
  | .reportTimeout => execReportTimeout_kept hs
  | .decision _ _ => execDecision_kept hs
  | .tickRelease _ => execTickRelease_kept hs
  | .drainLayerDone _ => execDrainLayerDone_kept hs
  | .commitDrainEnd _ => execCommitDrainEnd_kept hs
  | .egressWrite _ => execEgressWrite_kept hs
  | .fenceWriteApply _ => execFenceWriteApply_kept hs
  | .hostStoreAck _ => execHostStoreAck_kept hs
  | .kvPageCopyDone _ _ => execKvPageCopyDone_kept hs
  | .tickCtrlWrite _ => execTickCtrlWrite_kept hs
  | .tickPeriodSetWrite _ => execTickPeriodSetWrite_kept hs
  | .partCfgEnable _ _ => execPartCfgEnable_kept hs
  | .partCfgDisable _ _ => execPartCfgDisable_kept hs
  | .partIdoonWrite _ _ => execPartIdoonWrite_kept hs
  | .gctlTileQueryWrite _ => execGctlTileQueryWrite_kept hs
  | .tileQueryResolved => execTileQueryResolved_kept hs
  | .domCtrlLeave _ => execDomCtrlLeave_kept hs
  | .domCtrlJoin _ => execDomCtrlJoin_kept hs
  | .domCtrlHandover _ => execDomCtrlHandover_kept hs
  | .lsCfgWrite _ => execLsCfgWrite_kept hs
  | .idnCtrlRetrain _ _ => execIdnCtrlRetrain_kept hs
  | .idnCtrlRelease _ _ => execIdnCtrlRelease_kept hs
  | .idnCtrlDisable _ _ => execIdnCtrlDisable_kept hs
  | .memClearStart _ => execMemClearStart_kept hs
  | .cohRangeDisable _ _ => execCohRangeDisable_kept hs
  | .hostpBiasFlipStart _ => execHostpBiasFlipStart_kept hs
  | .hostpHotplugRemove _ => execHostpHotplugRemove_kept hs
  | .hostpHotplugWakeReq _ => execHostpHotplugWakeReq_kept hs
  | .hostpPortRelease _ _ => execHostpPortRelease_kept hs
  | .hostpPortRetrain _ => execHostpPortRetrain_kept hs
  | .hostfBar4Enable _ _ _ => execHostfBar4Enable_kept hs
  | .mtCtrlReset _ => execMtCtrlReset_kept hs
  | .mtCtrlRelease _ => execMtCtrlRelease_kept hs
  | .mtCtrlQuiesce _ => execMtCtrlQuiesce_kept hs
  | .mtCtrlResume _ => execMtCtrlResume_kept hs
  | .mtAssignWrite _ _ => execMtAssignWrite_kept hs
  | .objAdminEnable _ _ => execObjAdminEnable_kept hs
  | .defMapoutQueue _ => execDefMapoutQueue_kept hs
  | .errqCidxWrite _ => execErrqCidxWrite_kept hs
  | .perfSelWrite _ _ => execPerfSelWrite_kept hs
  | .perfCtrlSnap _ => execPerfCtrlSnap_kept hs
  | .trcCtrlArm _ _ => execTrcCtrlArm_kept hs
  | .prbFilterEnable _ _ _ => execPrbFilterEnable_kept hs
  | .tpWrite _ _ => execTpWrite_kept hs
  | .tpLinkRetrain => execTpLinkRetrain_kept hs
  | .partBaysWrite _ _ _ => execPartBaysWrite_kept hs
  | .partMemWrite _ _ _ => execPartMemWrite_kept hs
  | .registerWrite _ => execRegisterWrite_kept hs
  | .ctxCreate _ => execCtxCreate_kept hs
  | .ctxDestroy _ => execCtxDestroy_kept hs
  | .ctxTeardownEnd _ => execCtxTeardownEnd_kept hs
  | .ctxQuery _ => execCtxQuery_kept hs
  | .ctxResume _ => execCtxResume_kept hs
  | .faultReply _ => execFaultReply_kept hs
  | .queueCreate _ => execQueueCreate_kept hs
  | .queueDestroy _ => execQueueDestroy_kept hs
  | .queueQuery _ => execQueueQuery_kept hs
  | .objTable _ => execObjTable_kept hs
  | .objCreate _ => execObjCreate_kept hs
  | .objRelease _ => execObjRelease_kept hs
  | .objQuery _ => execObjQuery_kept hs
  | .fenceCreate _ => execFenceCreate_kept hs
  | .fenceDestroy _ => execFenceDestroy_kept hs
  | .fenceQuery _ => execFenceQuery_kept hs
  | .memCopy _ => execMemCopy_kept hs
  | .memFill _ => execMemFill_kept hs
  | .moverComplete _ _ => execMoverComplete_kept hs
  | .invalidate _ => execInvalidate_kept hs
  | .invalidateDrained _ => execInvalidateDrained_kept hs
  | .pinHost _ => execPinHost_kept hs
  | .unpinHost _ => execUnpinHost_kept hs
  | .memClear _ => execMemClear_kept hs
  | .tenantClearDone => execTenantClearDone_kept hs
  | .retiredPages _ => execRetiredPages_kept hs
  | .partTick _ => execPartTick_kept hs
  | .progLoad _ _ => execProgLoad_kept hs
  | .sessSet _ => execSessSet_kept hs
  | .sessReserve _ => execSessReserve_kept hs
  | .sessReset _ => execSessReset_kept hs
  | .sessQuery _ => execSessQuery_kept hs
  | .kvMap _ _ => execKvMap_kept hs
  | .kvUnmap _ => execKvUnmap_kept hs
  | .kvPrefetch _ _ => execKvPrefetch_kept hs
  | .kvAdvise _ _ => execKvAdvise_kept hs
  | .fenceSignal _ => execFenceSignal_kept hs
  | .fenceWait _ => execFenceWait_kept hs
  | .fenceWaitTimeout _ => execFenceWaitTimeout_kept hs
  | .domJoin _ => execDomJoin_kept hs
  | .domLeave _ => execDomLeave_kept hs
  | .domHandover _ => execDomHandover_kept hs
  | .domQuery _ => execDomQuery_kept hs
  | .lsConfig _ => execLsConfig_kept hs
  | .tickPeriod _ => execTickPeriod_kept hs
  | .spdm _ _ _ => execSpdm_kept hs
  | .licenceInstall _ _ => execLicenceInstall_kept hs
  | .configInstall _ _ => execConfigInstall_kept hs
  | .ownerEnrol _ _ => execOwnerEnrol_kept hs
  | .debugAuth _ _ => execDebugAuth_kept hs
  | .lifecycleSet _ => execLifecycleSet_kept hs
  | .partSecure _ => execPartSecure_kept hs
  | .partSecureClear _ => execPartSecureClear_kept hs
  | .attestReport _ _ => execAttestReport_kept hs
  | .fwImage _ => execFwImage_kept hs
  | .fwCommit _ => execFwCommit_kept hs
  | .fwCommitReset => execFwCommitReset_kept hs
  | .resetPartition _ => execResetPartition_kept hs
  | .resetField _ => execResetField_kept hs
  | .resetHub _ => execResetHub_kept hs
  | .resetStandby _ => execResetStandby_kept hs
  | .resetDeferredTimeout => execResetDeferredTimeout_kept hs
  | .netInterfaceReady _ => execNetInterfaceReady_kept hs
  | .sensorRead _ => execSensorRead_kept hs
  | .errqRead _ => execErrqRead_kept hs
  | .ledgerAccept _ _ => execLedgerAccept_kept hs
  | .wake _ => execWake_kept hs
  | .strict _ => execStrict_kept hs
  | .perturbSet _ => execPerturbSet_kept hs
  | .perturbClear _ => execPerturbClear_kept hs
  | .katRun _ => execKatRun_kept hs
  | .traceRead _ => execTraceRead_kept hs
  | .idleBlock _ _ => execIdleBlock_kept hs
  | .ack _ _ _ => execAck_kept hs
  | .nak _ _ _ => execNak_kept hs
  | .credit _ _ _ _ => execCredit_kept hs
  | .tsync _ _ _ _ _ _ => execTsync_kept hs
  | .train _ _ _ _ _ _ _ => execTrain_kept hs
  | .ackTimer _ => execAckTimer_kept hs
  | .idoonRdReq _ => execIdoonRdReq_kept hs
  | .idoonRdRsp _ => execIdoonRdRsp_kept hs
  | .idoonWr _ => execIdoonWr_kept hs
  | .idoonWrAck _ => execIdoonWrAck_kept hs
  | .idoonSig _ => execIdoonSig_kept hs
  | .idoonErrRsp _ => execIdoonErrRsp_kept hs
  | .membership _ _ => execMembership_kept hs
  | .hello _ _ => execHello_kept hs
  | .helloTimer => execHelloTimer_kept hs
  | .form _ _ => execForm_kept hs
  | .formAck _ _ => execFormAck_kept hs
  | .formTimeout => execFormTimeout_kept hs
  | .join _ _ => execJoin_kept hs
  | .handover _ _ _ => execHandover_kept hs
  | .lsBdt _ => execLsBdt_kept hs
  | .lsSig _ => execLsSig_kept hs
  | .edgeMissed => execEdgeMissed_kept hs
  | .masterLoss _ _ => execMasterLoss_kept hs
  | .peerPatternSeen _ _ _ => execPeerPatternSeen_kept hs
  | .detectTimeout _ => execDetectTimeout_kept hs
  | .trainRetryWait _ => execTrainRetryWait_kept hs
  | .equalisationEnd _ _ => execEqualisationEnd_kept hs
  | .equaliseTimeout _ => execEqualiseTimeout_kept hs
  | .idoonLaneTestDone _ _ => execIdoonLaneTestDone_kept hs
  | .codewordLock _ _ => execCodewordLock_kept hs
  | .lockTimeout _ => execLockTimeout_kept hs
  | .measureDone _ => execMeasureDone_kept hs
  | .laneFault _ _ => execLaneFault_kept hs
  | .lossOfSignal _ => execLossOfSignal_kept hs
  | .qretrainDone _ => execQretrainDone_kept hs
  | .qretrainTimeout _ => execQretrainTimeout_kept hs
  | .rd _ => execRd_kept hs
  | .rdRsp _ => execRdRsp_kept hs
  | .wr _ => execWr_kept hs
  | .wrAck _ => execWrAck_kept hs
  | .netSig _ => execNetSig_kept hs
  | .errRsp _ => execErrRsp_kept hs
  | .ctrl _ => execCtrl_kept hs
  | .requestTimeout _ _ => execRequestTimeout_kept hs
  | .targetDeadline _ _ => execTargetDeadline_kept hs
  | .netCreditReturn _ _ _ _ _ _ => execNetCreditReturn_kept hs
  | .scarfQuickRetrain _ _ _ => execScarfQuickRetrain_kept hs
  | .scarfRetrainDone _ _ _ _ => execScarfRetrainDone_kept hs
  | .rdcur _ _ => execRdcur_kept hs
  | .rdshr _ _ => execRdshr_kept hs
  | .rdown _ _ => execRdown_kept hs
  | .wrinv _ _ => execWrinv_kept hs
  | .wrhint _ _ => execWrhint_kept hs
  | .evict _ => execEvict_kept hs
  | .wbdata _ => execWbdata_kept hs
  | .snpinv _ => execSnpinv_kept hs
  | .snpshr _ => execSnpshr_kept hs
  | .push _ _ => execPush_kept hs
  | .dataS _ => execDataS_kept hs
  | .dataE _ => execDataE_kept hs
  | .gntE _ => execGntE_kept hs
  | .snprsp _ => execSnprsp_kept hs
  | .cmpack _ => execCmpack_kept hs
  | .wback _ => execWback_kept hs
  | .pushrsp _ _ => execPushrsp_kept hs
  | .snoopHoldEnd _ _ => execSnoopHoldEnd_kept hs
  | .snoopTimeout _ _ => execSnoopTimeout_kept hs
  | .cohRangeFlushDone _ => execCohRangeFlushDone_kept hs
  | .sluiceWindow => execSluiceWindow_kept hs
  | .sluiceAgePromote _ => execSluiceAgePromote_kept hs
  | .memoryRead _ _ _ _ _ => execMemoryRead_kept hs
  | .memoryWrite _ _ _ _ => execMemoryWrite_kept hs
  | .wcEvictTimeout _ _ => execWcEvictTimeout_kept hs
  | .correctedWriteback _ => execCorrectedWriteback_kept hs
  | .memcRetrain _ => execMemcRetrain_kept hs
  | .memcRetrainDone _ _ => execMemcRetrainDone_kept hs
  | .scrubRead _ _ => execScrubRead_kept hs
  | .rowRepair _ => execRowRepair_kept hs
  | .mtnPwrgdHigh _ => execMtnPwrgdHigh_kept hs
  | .sitePowerTimeout _ => execSitePowerTimeout_kept hs
  | .siteResetTimer _ => execSiteResetTimer_kept hs
  | .sidebandReady _ _ => execSidebandReady_kept hs
  | .siteBootTimeout _ => execSiteBootTimeout_kept hs
  | .descReadReply _ _ _ _ => execDescReadReply_kept hs
  | .spdmReply _ _ _ _ => execSpdmReply_kept hs
  | .attestationEnd _ _ _ _ => execAttestationEnd_kept hs
  | .assignReply _ _ _ => execAssignReply_kept hs
  | .moduleSbinitDone _ _ => execModuleSbinitDone_kept hs
  | .moduleLaneTestDone _ _ _ _ => execModuleLaneTestDone_kept hs
  | .moduleMbtrainDone _ _ => execModuleMbtrainDone_kept hs
  | .moduleLinkinitDone _ _ => execModuleLinkinitDone_kept hs
  | .widthReply _ _ _ _ => execWidthReply_kept hs
  | .moduleTrainTimeout _ _ => execModuleTrainTimeout_kept hs
  | .moduleRetryLimit _ _ _ => execModuleRetryLimit_kept hs
  | .phyretrainDone _ _ _ _ => execPhyretrainDone_kept hs
  | .phyretrainTimeout _ _ => execPhyretrainTimeout_kept hs
  | .throttleReply _ _ _ => execThrottleReply_kept hs
  | .throttleDeadline _ => execThrottleDeadline_kept hs
  | .quiesced _ _ _ => execQuiesced_kept hs
  | .resumeReply _ _ _ => execResumeReply_kept hs
  | .cleared _ _ _ => execCleared_kept hs
  | .shutdownReply _ _ _ => execShutdownReply_kept hs
  | .siteMessageTimeout _ _ => execSiteMessageTimeout_kept hs
  | .telemetry _ _ _ => execTelemetry_kept hs
  | .telemetryTimeout _ => execTelemetryTimeout_kept hs
  | .event _ _ => execEvent_kept hs
  | .fatal _ _ => execFatal_kept hs
  | .thermAlert _ => execThermAlert_kept hs
  | .rawPacket _ _ _ _ _ _ _ => execRawPacket_kept hs
  | .rawCredit _ _ _ _ => execRawCredit_kept hs
  | .cxlIoRequest _ _ _ _ _ _ _ => execCxlIoRequest_kept hs
  | .rdcurr _ _ _ _ => execRdcurr_kept hs
  | .rdshared _ _ _ _ => execRdshared_kept hs
  | .rdownD2h _ _ _ _ _ => execRdownD2h_kept hs
  | .cleanevict _ _ _ => execCleanevict_kept hs
  | .dirtyevict _ _ _ _ => execDirtyevict_kept hs
  | .itomwr _ _ _ _ _ => execItomwr_kept hs
  | .cxlSnoopResponse _ _ _ _ => execCxlSnoopResponse_kept hs
  | .goFlitAck _ _ => execGoFlitAck_kept hs
  | .configRequest _ _ _ _ _ _ _ => execConfigRequest_kept hs
  | .bar4Access _ _ _ _ _ _ _ _ => execBar4Access_kept hs
  | .memrd _ _ _ _ _ => execMemrd_kept hs
  | .meminv _ _ _ _ => execMeminv_kept hs
  | .memwr _ _ _ _ _ => execMemwr_kept hs
  | .memwrptl _ _ _ _ _ _ => execMemwrptl_kept hs
  | .birsp _ _ _ => execBirsp_kept hs
  | .hostSnoop _ _ _ => execHostSnoop_kept hs
  | .atsTranslationCompletion _ _ _ _ _ => execAtsTranslationCompletion_kept hs
  | .atsInvalidateRequest _ _ _ _ _ => execAtsInvalidateRequest_kept hs
  | .atsInvalidateDrained _ _ => execAtsInvalidateDrained_kept hs
  | .hubReadCompletion _ _ _ _ => execHubReadCompletion_kept hs
  | .completionTimeout _ _ => execCompletionTimeout_kept hs
  | .dlActiveLoss _ _ => execDlActiveLoss_kept hs
  | .dlActiveUp _ _ _ _ _ => execDlActiveUp_kept hs
  | .l0sEntry _ => execL0sEntry_kept hs
  | .l1Entry _ => execL1Entry_kept hs
  | .l1EarlyExit _ => execL1EarlyExit_kept hs
  | .perstDeassert _ => execPerstDeassert_kept hs
  | .fundamentalReset _ _ => execFundamentalReset_kept hs
  | .functionLevelReset _ _ => execFunctionLevelReset_kept hs
  | .d3hotEntry _ _ => execD3hotEntry_kept hs
  | .d0Return _ _ => execD0Return_kept hs
  | .d3coldEntry => execD3coldEntry_kept hs
  | .hpaButtonPress => execHpaButtonPress_kept hs
  | .hostLinkLost => execHostLinkLost_kept hs
  | .irqCoalesceTimer _ => execIrqCoalesceTimer_kept hs
  | .getVersion _ _ _ => execGetVersion_kept hs
  | .getCapabilities _ _ _ => execGetCapabilities_kept hs
  | .negotiateAlgorithms _ _ _ => execNegotiateAlgorithms_kept hs
  | .getDigests _ _ _ => execGetDigests_kept hs
  | .getCertificate _ _ _ => execGetCertificate_kept hs
  | .challenge _ _ _ => execChallenge_kept hs
  | .getMeasurements _ _ _ => execGetMeasurements_kept hs
  | .keyExchange _ _ _ => execKeyExchange_kept hs
  | .finish _ _ _ => execFinish_kept hs
  | .heartbeat _ _ _ => execHeartbeat_kept hs
  | .keyUpdate _ _ _ => execKeyUpdate_kept hs
  | .endSession _ _ _ => execEndSession_kept hs
  | .measureObject _ _ _ _ _ _ _ => execMeasureObject_kept hs
  | .ideKm _ _ _ => execIdeKm_kept hs
  | .lockInterfaceRequest _ => execLockInterfaceRequest_kept hs
  | .startInterfaceRequest _ => execStartInterfaceRequest_kept hs
  | .stopInterfaceRequest _ => execStopInterfaceRequest_kept hs
  | .nonceExpiry => execNonceExpiry_kept hs
  | .debugAuthExpiry => execDebugAuthExpiry_kept hs
  | .stbyPwrgdRise _ => execStbyPwrgdRise_kept hs
  | .stbyPwrgdFall => execStbyPwrgdFall_kept hs
  | .bringupStepComplete _ => execBringupStepComplete_kept hs
  | .mainPwrgdRise _ => execMainPwrgdRise_kept hs
  | .mainPwrgdFall => execMainPwrgdFall_kept hs
  | .mainFailRestart => execMainFailRestart_kept hs
  | .sysRstN => execSysRstN_kept hs
  | .repairRoundEnd _ => execRepairRoundEnd_kept hs
  | .entdaa _ => execEntdaa_kept hs
  | .setEndpointId _ => execSetEndpointId_kept hs
  | .getEndpointId => execGetEndpointId_kept hs
  | .getMctpVersionSupport _ => execGetMctpVersionSupport_kept hs
  | .getMessageTypeSupport => execGetMessageTypeSupport_kept hs
  | .getVendorDefinedMessageSupport _ => execGetVendorDefinedMessageSupport_kept hs
  | .grisetMctpRequest _ _ => execGrisetMctpRequest_kept hs
  | .gettid => execGettid_kept hs
  | .getpldmversion _ => execGetpldmversion_kept hs
  | .getpldmtypes => execGetpldmtypes_kept hs
  | .getpldmcommands _ => execGetpldmcommands_kept hs
  | .getpdrrepositoryinfo => execGetpdrrepositoryinfo_kept hs
  | .getpdr handle => execGetpdr_kept (handle := handle) hs
  | .getsensorreading sensor => execGetsensorreading_kept (sensor := sensor) hs
  | .getstatesensorreadings => execGetstatesensorreadings_kept hs
  | .seteventreceiver _ => execSeteventreceiver_kept hs
  | .errorLogAppend => execErrorLogAppend_kept hs
  | .thermalSample _ => execThermalSample_kept hs
  | .vcoreAdjust _ _ => execVcoreAdjust_kept hs
  | .vcoreSettled _ => execVcoreSettled_kept hs
  | .sysRstNRelease => execSysRstNRelease_kept hs
  | .otpProgramDone _ => execOtpProgramDone_kept hs
  | .flashWriteDone _ => execFlashWriteDone_kept hs
  | .cxlMemResponse _ _ _ _ _ => execCxlMemResponse_kept hs

/-- The front command runs on the state with the queue's rest, whose memory is the same. -/
theorem step_keeps_memOk {s t : State} (hs : s.memOk) (h : step s = .next t) : t.memOk := by
  cases hq : s.pending with
  | nil =>
    rw [step_of_pending_nil hq] at h
    cases h
    exact hs
  | cons i rest =>
    rw [step_of_pending_cons hq] at h
    have hrest : Kept rest { s with pending := rest } := ⟨rfl, hs⟩
    obtain ⟨-, hmem⟩ := exec_kept i hrest t h
    exact hmem

/-- Settles O47, by the two cases of the queue and the kept lemma of every command. -/
theorem everyStepKeepsMemoryCanonical : Obligations.EveryStepKeepsMemoryCanonical := by
  unfold Obligations.EveryStepKeepsMemoryCanonical
  exact fun s t => step_keeps_memOk

/-! ### Reset -/

theorem reset_memOk : State.reset.memOk := ⟨rfl, rfl⟩

/-- No slice holds a copy after reset, and device memory lists no byte. -/
theorem memRead_reset (a : Nat) : memRead State.reset a 1 = [0] := memRead_one _ _

/-- The tile stores list no byte after reset, so a byte reads zero whether or not its image is resident. -/
theorem storeByte_reset (t a : Nat) : storeByte State.reset t a = 0 := ite_self _

/-- Settles O46: neither memory lists a byte after reset. -/
theorem resetMemoryIsCanonical : Obligations.ResetMemoryIsCanonical := by
  unfold Obligations.ResetMemoryIsCanonical
  exact ⟨reset_memOk, memRead_reset, storeByte_reset⟩

end Sys2Proof.Machine
end

section
/-! Requests of other hubs over Idoon, the answers and signals they bring, and the sluice's window and ageing (R94, R146, R231, R232,
R329, R330, R350, R577). -/
namespace Sys2Proof.Machine

/-! ### Requests of other hubs and their answers -/

/-! Each rule is `idnAccept_taken`, after the checks of its own packet type. -/

section Arrives
variable {a : IdnArr} {s : State} (h : Taken a s) (hd : a.pkt.dst = hubId s)
include h hd

theorem idnRequest_taken {ty : Nat} {write : Bool} (hty : a.pkt.ty = ty)
    (hroom : homesFull s a.pkt.addr (if write then a.pkt.data.length else a.pkt.rlen * 32) = false) :
    idnRequest ty write a s = .next (hubServe write a.pkt (linkTaken a s)) := by
  unfold idnRequest
  rw [if_neg (by simp [hty, hroom]), idnAccept_taken h _ hd]

theorem idnAnswer_taken {ty : Nat} {ofKind : IdnReq → Bool} {status : IdnPkt → Nat} {r : IdnReq} (hty : a.pkt.ty = ty)
    (hr : (linkTaken a s).idnReqs.find? (fun r => r.tag == a.pkt.tag && r.dst == a.pkt.src && ofKind r) = some r) :
    idnAnswer ty ofKind status a s = .next (answerTo r.write (some r.part) r.cls (status a.pkt) a.pkt.data
      { linkTaken a s with idnReqs := (linkTaken a s).idnReqs.erase r } r.who) := by
  unfold idnAnswer
  rw [if_neg (by simp [hty]), idnAccept_taken h _ hd]
  simp only [hr]

theorem exec_idoonErrRsp_answer {r : IdnReq} (hty : a.pkt.ty = 0x07) (htag : a.pkt.tag ≠ sigTag)
    (hr : (linkTaken a s).idnReqs.find? (fun r => r.tag == a.pkt.tag && r.dst == a.pkt.src && true) = some r) :
    exec (.idoonErrRsp a) s = .next (answerTo r.write (some r.part) r.cls a.pkt.rlen a.pkt.data
      { linkTaken a s with idnReqs := (linkTaken a s).idnReqs.erase r } r.who) := by
  change execIdoonErrRsp a s = _
  unfold execIdoonErrRsp
  rw [if_neg fun e => htag e.2]
  exact idnAnswer_taken h hd hty hr

theorem exec_idoonErrRsp_signal (hty : a.pkt.ty = 0x07) (htag : a.pkt.tag = sigTag) :
    exec (.idoonErrRsp a) s = .next (sigRefused a.pkt (linkTaken a s)) := by
  change execIdoonErrRsp a s = _
  unfold execIdoonErrRsp
  rw [if_pos ⟨hty, htag⟩, idnAccept_taken h _ hd]

theorem exec_idoonSig (hty : a.pkt.ty = 0x05) : exec (.idoonSig a) s = .next (sigRemote a.pkt (linkTaken a s)) := by
  change execIdoonSig a s = _
  unfold execIdoonSig
  rw [if_neg (by simp [hty]), idnAccept_taken h _ hd]

end Arrives

/-! ### The sluice -/

theorem exec_sluiceAgePromote_idoon {k i : Nat} {p : IdnPkt} {s : State} (hp : (idnGet s k).waiting[i]? = some p)
    (hyoung : (idnGet s k).aged.contains p = false) :
    exec (.sluiceAgePromote (.idoon k i)) s = .next (idnMod k (fun q => { q with aged := q.aged ++ [p] }) s) := by
  change execSluiceAgePromote (.idoon k i) s = _
  simp only [execSluiceAgePromote, hp]
  unfold idnMod
  simp only [hyoung, Bool.false_eq_true, if_false]

/-! ### The claim -/

/-- Settles O26: a packet that passes the checks of the link is handed to its meaning, and the sluice acts as its rows say. -/
theorem idoonAccessAndSluiceCommandsComplete : Obligations.IdoonAccessAndSluiceCommandsComplete := by
  unfold Obligations.IdoonAccessAndSluiceCommandsComplete
  refine ⟨fun a s h hd => ⟨?_, ?_, ?_, ?_, ?_, ?_, ?_⟩, fun s => rfl, fun k i src tag p s => ⟨?_, rfl, rfl⟩⟩
  · exact fun hty hroom => idnRequest_taken h hd hty hroom
  · exact fun hty hroom => idnRequest_taken h hd hty hroom
  · exact fun r hty hr => idnAnswer_taken h hd hty hr
  · exact fun r hty hr => idnAnswer_taken h hd hty hr
  · exact fun r => exec_idoonErrRsp_answer h hd
  · exact exec_idoonErrRsp_signal h hd
  · exact exec_idoonSig h hd
  · exact exec_sluiceAgePromote_idoon

end Sys2Proof.Machine
end

section
/-! The clear between tenants, and the commands that give out bays, memory and tiles (R29, R292, R300, R304, R498, R499, R535, R536,
R570). -/
namespace Sys2Proof.Machine

/-! ### Clears -/

theorem exec_memClear_begins {id : Nat} {c : Cmd} {s : State} (h : Starts 0x0206 id c s)
    (hidle : fon s F.memStatus_clearing 0 = false) :
    exec (.memClear id) s
      = .next (sweep (setStep id (.clear (bitsAt c.pkt.w1 0 8)) (clearBegin (bitsAt c.pkt.w1 0 8) s))) :=
  startOp_wait h (by simp [hidle])

/-- A write of MEM_CLEAR with START = 1 names the partition, and then begins its clear or, while one runs, is refused. -/
theorem exec_memClearStart {v : Word} {s : State} (hstart : v.getLsbD 8 = true) :
    exec (.memClearStart v) s =
      let p := bitsAt v.toNat 0 8
      let t := fset F.memClear_partition 0 p s
      .next (if fon t F.memStatus_clearing 0 = true then logErr { code := 0x0C0A, cls := clsRefused, part := some p } t
        else clearBegin p t) := by
  change execMemClearStart v s = _
  simp only [execMemClearStart, writeMemClear, hstart, if_true, Bool.not_true, Bool.false_eq_true, if_false]

/-- The clear of a partition that stays as confidential as it is: its digests start again, the clear ends, and the commands that
wait for it complete. -/
theorem clearOne_of_secure {p : Nat} {s : State} (h : s.unsecure.contains p = false) :
    clearOne p s = ((digestsClear p s).cmds.filter fun c => c.step == .clear p).foldl (fun s c => finish c 0 0 0 [] s)
      (clearEnd p (digestsClear p s)) := by
  have hkeep : (digestsClear p s).unsecure.contains p = false := h
  unfold clearOne
  simp only [hkeep, Bool.false_eq_true, if_false]

theorem exec_tenantClearDone {s : State} (hrun : fon s F.memStatus_clearing 0 = true) (hone : s.clearAll = false)
    (hready : clearReady s (fget s F.memStatus_clearPart 0) = true) :
    exec .tenantClearDone s = .next (clearOne (fget s F.memStatus_clearPart 0) s) := by
  change execTenantClearDone s = _
  simp [execTenantClearDone, hrun, hone, hready]

/-! ### Retired pages, mapping-out, the tile query -/

theorem exec_retiredPages {id x va : Nat} {c : Cmd} {s : State} (h : Starts 0x0207 id c s)
    (hdest : orefRange s (ctxGet s c.pkt.ctx).part c.pkt.w1 0 = .ok (x, va)) :
    let l := (s.ledger.pages.drop c.pkt.w2).take (orefRoom s (ctxGet s c.pkt.ctx).part c.pkt.w1 / 8)
    vaWritable s x va (8 * l.length) = true →
    exec (.retiredPages id) s = .next (finish c 0 l.length s.ledger.pages.length [] (vaWrite x va (l.flatMap pageEntry) s)) := by
  intro l hfits
  exact startOp_done h (by simp only [hdest, l, hfits]; rfl)

theorem exec_defMapoutQueue {v : Word} {t : Nat} {s : State} (hqueue : bitOn v.toNat 20 = true)
    (htile : localTile (bitsAt v.toNat 0 19) = some t) :
    let u := fset F.defMapout_wholeBay 0 (bitsAt v.toNat 19 1) (fset F.defMapout_tile 0 (bitsAt v.toNat 0 19) s)
    hubOfTile (bitsAt v.toNat 0 19) = hubId u → bayLost u (fieldOf t) (bayOf t % 64) = false → u.mapouts.length < 64 →
    exec (.defMapoutQueue v) s = .next (queueMapout t (bitOn v.toNat 19) u) := by
  intro u hhub hbay hroom
  change execDefMapoutQueue v s = _
  have hgood : ¬ (hubOfTile (bitsAt v.toNat 0 19) ≠ hubId u ∨ bayLost u (fieldOf t) (bayOf t % 64) = true
      ∨ u.mapouts.length ≥ 64) := by
    simp [hhub, hbay, hroom]
  simp only [execDefMapoutQueue, writeDefMapout, hqueue, htile, if_true, Bool.not_true, Bool.false_eq_true, if_false]
  exact congrArg _ (if_neg hgood)

theorem exec_tileQueryResolved {s : State} (h : fon s F.gctlTileWhere_pending 0 = true) :
    exec .tileQueryResolved s = .next (rset s .gctlTileWhere 0 (BitVec.ofNat 64 (tileWhere s))) :=
  congrArg _ (if_pos h)

/-! ### Bays and memory of a partition -/

/-- A field's value, taken from the same place, is placed whole. -/
theorem placed_bitsAt (n lo w : Nat) : placed lo w (bitsAt n lo w) = bitsAt n lo w * 2 ^ lo := by
  unfold placed
  rw [Nat.mod_eq_of_lt (bitsAt_lt n lo w)]

section Bays
variable {p f : Nat} {v : Word} {s : State} (hp : p < 256) (hf : f < 9)
include hp hf

theorem exec_partBaysWrite : exec (.partBaysWrite p f v) s = .next (writePartBays p f v s) :=
  congrArg _ (if_pos ⟨hp, hf⟩)

theorem exec_partBaysWrite_accepted (h : baysRefused s p f v = false) :
    exec (.partBaysWrite p f v) s = .next
      (((List.range 64).filter fun b => (rget s .partBays (p * 9 + f)).getLsbD b && !v.getLsbD b).foldl
        (fun s b => bayLeave p (f * 64 + b) s) (rset s .partBays (p * 9 + f) v)) := by
  rw [exec_partBaysWrite hp hf]
  unfold writePartBays
  simp only [h, Bool.false_eq_true, if_false]

theorem exec_partBaysWrite_refused (h : baysRefused s p f v = true) :
    exec (.partBaysWrite p f v) s = .next (logRefused 0x0B02 (some p) s) := by
  rw [exec_partBaysWrite hp hf]
  exact congrArg _ (if_pos h)

end Bays

section Ranges
variable {p k : Nat} {v : Word} {s : State} (hp : p < 256) (hk : k < 8)
include hp hk

theorem exec_partMemWrite : exec (.partMemWrite p k v) s = .next (writePartMem p k v s) :=
  congrArg _ (if_pos ⟨hp, hk⟩)

theorem exec_partMemWrite_accepted (h : memRefused s p k v = false) :
    exec (.partMemWrite p k v) s = .next (rset s .partMem (p * 8 + k)
      (BitVec.ofNat 64 (bitsAt v.toNat 0 2 + bitsAt v.toNat 8 28 * 2 ^ 8))) := by
  rw [exec_partMemWrite hp hk]
  unfold writePartMem
  rw [placed_bitsAt, if_neg (by simp [h])]

theorem exec_partMemWrite_refused (h : memRefused s p k v = true) :
    exec (.partMemWrite p k v) s = .next (logRefused 0x0B02 (some p) s) := by
  rw [exec_partMemWrite hp hk]
  exact congrArg _ (if_pos h)

end Ranges

/-! ### The claim -/

/-- Settles O31, by the rule of each command. -/
theorem clearAndResourceCommandsComplete : Obligations.ClearAndResourceCommandsComplete := by
  unfold Obligations.ClearAndResourceCommandsComplete
  refine ⟨fun id c s => exec_memClear_begins, fun v s hstart => ⟨fun hidle => ?_, fun hruns => ?_⟩,
    fun s hrun hone hready hsecure => ?_, fun id x va c s => exec_retiredPages, fun v t s => exec_defMapoutQueue, fun v s => rfl,
    fun s => exec_tileQueryResolved, fun p f v s hp hf => ?_, fun p k v s hp hk => ?_⟩
  · rw [exec_memClearStart hstart]
    exact congrArg _ (if_neg (by simp [hidle]))
  · rw [exec_memClearStart hstart]
    exact congrArg _ (if_pos hruns)
  · rw [exec_tenantClearDone hrun hone hready, clearOne_of_secure hsecure]
  · exact ⟨exec_partBaysWrite_accepted hp hf, exec_partBaysWrite_refused hp hf⟩
  · exact ⟨exec_partMemWrite_accepted hp hk, exec_partMemWrite_refused hp hk⟩

end Sys2Proof.Machine
end

section
/-! The vector engine's moves, compressions and records (R50 to R53, R116, R129 to R133, R137): what each answers on a tile that
issues it undisturbed. -/
namespace Sys2Proof.Machine

@[simp] theorem rget_vResult (o : TileOp) (f : FmtV) (bytes : Nat) (rs : List FRes) (s : State) :
    rget (vResult o f bytes rs s) .tileStatus o.tile = rget s .tileStatus o.tile :=
  rget_raiseFlags _ _ _

/-! ### Selection, permutation, single elements and flags (R116) -/

section Moves
variable {o : TileOp} {s : State} {t : EType} (h : Issues o .vector s)
include h

theorem exec_vrdfl (hfields : vfieldsOk (fmtV o.w) { c := true } = true) (hety : (fmtV o.w).ety = 0)
    (hplain : vplainOk (fmtV o.w) = true) (hcnt : (fmtV o.w).cnt = 0) :
    exec (.vrdfl o) s
      = .next (pcNext o.tile (xset o.tile (fmtV o.w).c (BitVec.ofNat 64 (fget s F.tileVflags_flags o.tile)) s)) :=
  issued_ok h (need_bind (by simp [hfields, hety, hplain, hcnt]) rfl) rfl

variable (ht : etypeOf (fmtV o.w).ety = some t)
include ht

theorem exec_vsel (hfields : vfieldsOk (fmtV o.w) { d := true, a := true, b := true, sb := true } = true)
    (hpen : (fmtV o.w).pen = true) (hzm : (fmtV o.w).zm = false)
    (hspans : spansOk false [spanOf (fmtV o.w).d (fmtV o.w).n t.bytes]
      (spanOf (fmtV o.w).a (fmtV o.w).n t.bytes :: bSpan (fmtV o.w) t.bytes) = true) :
    exec (.vsel o) s = .next (pcNext o.tile (tileSet o.tile (tputs (fmtV o.w).d t.bytes
      (List.zipWith (fun a p => some (if a then p.1 else p.2)) (actives (tileGet s o.tile) (fmtV o.w))
        (List.zip (telems (tileGet s o.tile) (fmtV o.w).a t.bytes (fmtV o.w).n)
          (bElems (tileGet s o.tile) (fmtV o.w) t.bytes))) (tileGet s o.tile)) s)) :=
  issued_ok h (need_bind (by simp [hfields, hpen, hzm]) <| etype_bind ht rfl <| need_bind hspans rfl) rfl

theorem exec_vperm (hfields : vfieldsOk (fmtV o.w) { d := true, a := true, b := true, sb := true } = true)
    (hspans : spansOk true [spanOf (fmtV o.w).d (fmtV o.w).n t.bytes]
      (spanOf (fmtV o.w).a (fmtV o.w).n t.bytes :: bSpan (fmtV o.w) t.bytes) = true) :
    exec (.vperm o) s = .next (pcNext o.tile (vResult o (fmtV o.w) t.bytes
      ((bElems (tileGet s o.tile) (fmtV o.w) t.bytes).map fun i => FRes.plain
        (if i ≤ (fmtV o.w).cnt then (telems (tileGet s o.tile) (fmtV o.w).a t.bytes (fmtV o.w).n).getD i 0 else 0)) s)) :=
  issued_ok h (need_bind hfields <| etype_bind ht rfl <| need_bind hspans rfl) (by simp)

section Element
variable (hplain : vplainOk (fmtV o.w) = true) (hcnt : (fmtV o.w).cnt = 0)
  (hindex : tx (tileGet s o.tile) (fmtV o.w).b < 4096 / t.bytes)
include hplain hcnt hindex

theorem exec_vext (hfields : vfieldsOk (fmtV o.w) { a := true, b := true, c := true } = true) :
    exec (.vext o) s = .next (pcNext o.tile (tileSet o.tile (txSet (fmtV o.w).c
      (let v := ofLe (Mem.readN (tileGet s o.tile).t
         ((fmtV o.w).a * 4096 + tx (tileGet s o.tile) (fmtV o.w).b * t.bytes) t.bytes)
       if t.isFloat then v else wrapTo 64 (sval t v)) (tileGet s o.tile)) s)) :=
  issued_ok h (need_bind (by simp [hfields, hplain, hcnt]) <| etype_bind ht rfl <| need_bind (decide_eq_true hindex) rfl) rfl

theorem exec_vins (hfields : vfieldsOk (fmtV o.w) { d := true, b := true, c := true } = true) :
    exec (.vins o) s = .next (pcNext o.tile (tileSet o.tile
      { tileGet s o.tile with
        t := Mem.writeN (tileGet s o.tile).t ((fmtV o.w).d * 4096 + tx (tileGet s o.tile) (fmtV o.w).b * t.bytes)
          (leBytes t.bytes (tx (tileGet s o.tile) (fmtV o.w).c)) } s)) :=
  issued_ok h (need_bind (by simp [hfields, hplain, hcnt]) <| etype_bind ht rfl <| need_bind (decide_eq_true hindex) rfl) rfl

end Element

end Moves

/-! ### Compressions and the expansion (R129, R130) -/

/-- How many elements before element `e` are active: the place of the element that an expansion reads for it. -/
def activeBefore (act : List Bool) (e : Nat) : Nat := ((act.take e).filter id).length

/-- What an expansion writes: at each active index the next unread element of the source (R130). -/
def expanded (zm : Bool) (src : List Nat) (act : List Bool) : List (Option Nat) :=
  act.zipIdx.map fun p => if p.1 then some (src.getD (activeBefore act p.2) 0) else if zm then some 0 else none

/-- One element of an expansion: what is written so far, and how many elements have been read. -/
def expandStep (zm : Bool) (src : List Nat) (q : List (Option Nat) × Nat) (a : Bool) : List (Option Nat) × Nat :=
  if a then (q.1 ++ [some (src.getD q.2 0)], q.2 + 1) else (q.1 ++ [if zm then some 0 else none], q.2)

theorem activeBefore_append {act : List Bool} {e : Nat} (he : e ≤ act.length) (l : List Bool) :
    activeBefore (act ++ l) e = activeBefore act e := by
  rw [activeBefore, List.take_append_of_le_length he, activeBefore]

theorem activeBefore_length (act : List Bool) : activeBefore act act.length = (act.filter id).length := by
  rw [activeBefore, List.take_length]

/-- One more index leaves what is written below it. -/
theorem expanded_concat (zm : Bool) (src : List Nat) (act : List Bool) (a : Bool) :
    expanded zm src (act ++ [a]) = expanded zm src act
      ++ [if a then some (src.getD (act.filter id).length 0) else if zm then some 0 else none] := by
  have hbelow : ∀ p ∈ act.zipIdx, activeBefore (act ++ [a]) p.2 = activeBefore act p.2 := fun p hp =>
    activeBefore_append (Nat.le_of_lt (by simpa using (List.mem_zipIdx hp).2.1)) [a]
  have hlast : activeBefore (act ++ [a]) act.length = (act.filter id).length := by
    rw [activeBefore_append (Nat.le_refl _), activeBefore_length]
  unfold expanded
  rw [List.zipIdx_append, List.map_append, List.map_congr_left fun p hp => by rw [hbelow p hp]]
  simp [hlast]

/-- The step of an expansion at the index after those done. -/
theorem expandStep_expanded (zm : Bool) (src : List Nat) (act : List Bool) (a : Bool) :
    expandStep zm src (expanded zm src act, (act.filter id).length) a
      = (expanded zm src (act ++ [a]), ((act ++ [a]).filter id).length) := by
  rw [expanded_concat, List.filter_append, List.length_append]
  cases a <;> rfl

/-- Going on from the indices done completes the expansion and the count of the active ones. -/
theorem foldl_expandStep_from (zm : Bool) (src : List Nat) (act done : List Bool) :
    act.foldl (expandStep zm src) (expanded zm src done, (done.filter id).length)
      = (expanded zm src (done ++ act), ((done ++ act).filter id).length) := by
  induction act generalizing done with
  | nil => rw [List.append_nil, List.foldl_nil]
  | cons a act ih => rw [List.foldl_cons, expandStep_expanded, ih, List.append_assoc, List.singleton_append]

theorem foldl_expandStep (zm : Bool) (src : List Nat) (act : List Bool) :
    act.foldl (expandStep zm src) ([], 0) = (expanded zm src act, (act.filter id).length) :=
  foldl_expandStep_from zm src act []

section Compressions
variable {o : TileOp} {s : State} {t : EType} (h : Issues o .vector s) (ht : etypeOf (fmtV o.w).ety = some t)
  (hpen : (fmtV o.w).pen = true)
include h ht hpen

theorem exec_vcompi (htype : t = .i32 ∨ t = .i16) (hspans : spansOk true [spanOf (fmtV o.w).d (fmtV o.w).n t.bytes] [] = true)
    (hfields : vfieldsOk (fmtV o.w) { d := true, b := true, c := true } = true) :
    let els := ((actives (tileGet s o.tile) (fmtV o.w)).zipIdx.filterMap fun p =>
      if p.1 then some ((tx (tileGet s o.tile) (fmtV o.w).b + p.2) % 2 ^ t.bits) else none)
    exec (.vcompi o) s = .next (pcNext o.tile (tileSet o.tile (txSet (fmtV o.w).c els.length
      (tputs (fmtV o.w).d t.bytes ((padTo (fmtV o.w).n 0 els).map some) (tileGet s o.tile))) s)) :=
  issued_ok h (need_bind (by simp [hfields, hpen]) <| etype_bind ht (by simpa using htype) <| need_bind hspans rfl) rfl

variable (hspans : spansOk true [spanOf (fmtV o.w).d (fmtV o.w).n t.bytes] [spanOf (fmtV o.w).a (fmtV o.w).n t.bytes] = true)
  (hfields : vfieldsOk (fmtV o.w) { d := true, a := true, c := true } = true)
include hspans hfields

theorem exec_vcomp :
    let els := (activeElems (tileGet s o.tile) (fmtV o.w) t.bytes).map (·.2)
    exec (.vcomp o) s = .next (pcNext o.tile (tileSet o.tile (txSet (fmtV o.w).c els.length
      (tputs (fmtV o.w).d t.bytes ((padTo (fmtV o.w).n 0 els).map some) (tileGet s o.tile))) s)) :=
  issued_ok h (need_bind (by simp [hfields, hpen]) <| etype_bind ht rfl <| need_bind hspans rfl) rfl

theorem exec_vexpd :
    exec (.vexpd o) s = .next (pcNext o.tile (tileSet o.tile
      (txSet (fmtV o.w).c ((actives (tileGet s o.tile) (fmtV o.w)).filter id).length (tputs (fmtV o.w).d t.bytes
        (expanded (fmtV o.w).zm (telems (tileGet s o.tile) (fmtV o.w).a t.bytes (fmtV o.w).n)
          (actives (tileGet s o.tile) (fmtV o.w))) (tileGet s o.tile))) s)) := by
  have hfold := foldl_expandStep (fmtV o.w).zm (telems (tileGet s o.tile) (fmtV o.w).a t.bytes (fmtV o.w).n)
    (actives (tileGet s o.tile) (fmtV o.w))
  refine issued_ok h (need_bind (by simp [hfields, hpen]) <| etype_bind ht rfl <| need_bind hspans ?_) rfl
  unfold expandStep at hfold
  simp only [hfold]
  rfl

end Compressions

/-! ### Records (R50 to R53, R131, R137) -/

section Records
variable {o : TileOp} {s : State} {t : EType} (h : Issues o .vector s) (hrecords : recordsOk (fmtV o.w) = true)
include h hrecords

/-- Additions of records whose residues all agree and whose datums are equal in pairs (R51, R53, R131). -/
theorem exec_vradd (hfields : vfieldsOk (fmtV o.w) { d := true, a := true, b := true } = true) (hety : (fmtV o.w).ety = 0)
    (hplain : vplainOk (fmtV o.w) = true)
    (hspans : spansOk false [spanOf (fmtV o.w).d (fmtV o.w).n 16]
      [spanOf (fmtV o.w).a (fmtV o.w).n 16, spanOf (fmtV o.w).b (fmtV o.w).n 16] = true)
    {ps : List (DRec × DRec)} (hps : ps = List.zip ((telems (tileGet s o.tile) (fmtV o.w).a 16 (fmtV o.w).n).map DRec.unpack)
      ((telems (tileGet s o.tile) (fmtV o.w).b 16 (fmtV o.w).n).map DRec.unpack))
    (hgood : ∀ p ∈ ps, p.1.residueOk = true ∧ p.2.residueOk = true ∧ p.1.datum = p.2.datum) :
    let rs := ps.map fun p => p.1.add p.2
    let t' := addResidues o.tile (((ps.zip rs).map fun q => [q.1.1.residue, q.1.2.residue, q.2.residue]).flatten)
      (tileSet o.tile (tputs (fmtV o.w).d 16 (rs.map fun r => some r.pack) (tileGet s o.tile)) s)
    exec (.vradd o) s = .next (pcNext o.tile (if rs.any (·.sat) then raiseFlags o.tile rsatFlag t' else t')) := by
  have hresidues : (ps.any fun p => !p.1.residueOk || !p.2.residueOk) = false := by
    simp only [List.any_eq_false]
    exact fun p hp => by simp [(hgood p hp).1, (hgood p hp).2.1]
  have hdatums : (ps.find? fun p => p.1.datum != p.2.datum) = none :=
    List.find?_eq_none.2 fun p hp => by simp [(hgood p hp).2.2]
  subst hps
  refine issued_ok h (need_bind (by simp [hfields, hety, hplain, hrecords]) <| need_bind hspans ?_) ?_
  · simp only [hresidues, hdatums, Bool.false_eq_true, if_false]
    rfl
  · split <;> simp

/-- Conversions of records whose residues all agree (R137). -/
theorem exec_vrcvt (ht : etypeOf (fmtV o.w).ety = some t) (hfields : vfieldsOk (fmtV o.w) { d := true, a := true } = true)
    (hfloat : t.isFloat = true)
    (hspans : spansOk false [spanOf (fmtV o.w).d (fmtV o.w).n t.bytes] [spanOf (fmtV o.w).a (fmtV o.w).n 16] = true)
    {rs : List DRec} (hrs : rs = (telems (tileGet s o.tile) (fmtV o.w).a 16 (fmtV o.w).n).map DRec.unpack)
    (hgood : ∀ r ∈ rs, r.residueOk = true) :
    exec (.vrcvt o) s = .next (pcNext o.tile (addResidues o.tile (rs.map (·.residue))
      (vResult o (fmtV o.w) t.bytes (rs.map fun r => roundV t.fmt (datumVal r.value r.datum)) s))) := by
  have hresidues : (rs.any fun r => !r.residueOk) = false := by
    simp only [List.any_eq_false]
    exact fun r hr => by simp [hgood r hr]
  subst hrs
  refine issued_ok h (need_bind (by simp [hfields, hrecords]) <| etype_bind ht hfloat <| need_bind hspans ?_) (by simp)
  simp only [hresidues, Bool.false_eq_true, if_false]
  rfl

theorem exec_vrmk (ht : etypeOf (fmtV o.w).ety = some .i32)
    (hfields : vfieldsOk (fmtV o.w) { d := true, a := true, b := true } = true)
    (hspans : spansOk false [spanOf (fmtV o.w).d (fmtV o.w).n 16] [spanOf (fmtV o.w).a (fmtV o.w).n 4] = true) :
    exec (.vrmk o) s = .next (pcNext o.tile (addResidues o.tile
      (((List.zip (actives (tileGet s o.tile) (fmtV o.w)) (telems (tileGet s o.tile) (fmtV o.w).a 4 (fmtV o.w).n)).filter (·.1)).map
        fun e => mod7 (sval .i32 e.2))
      (vResult o (fmtV o.w) 16 ((telems (tileGet s o.tile) (fmtV o.w).a 4 (fmtV o.w).n).map fun v =>
        FRes.plain (DRec.pack ⟨sval .i32 v, tx (tileGet s o.tile) (fmtV o.w).b % 1024, false, false, false, mod7 (sval .i32 v)⟩)) s))) :=
  issued_ok h (need_bind (by simp [hfields, hrecords]) <| etype_bind ht rfl <| need_bind hspans rfl) (by simp)

end Records

/-! ### The claim -/

/-- Settles O6, by the rule of each instruction. -/
theorem vectorMovesAndRecordsComplete : Obligations.VectorMovesAndRecordsComplete := by
  unfold Obligations.VectorMovesAndRecordsComplete
  intro o s t h ht f τ
  refine ⟨exec_vsel h ht, exec_vperm h ht, fun hfields hplain hcnt hindex => exec_vext h ht hplain hcnt hindex hfields,
    fun hfields hplain hcnt hindex => exec_vins h ht hplain hcnt hindex hfields, exec_vrdfl h,
    fun hpen hspans hfields => ⟨exec_vcomp h ht hpen hspans hfields, exec_vexpd h ht hpen hspans hfields⟩,
    fun hpen => exec_vcompi h ht hpen, ?_, ?_, ?_⟩
  · exact fun hfields hety hplain hrecords hspans hgood => exec_vradd h hrecords hfields hety hplain hspans rfl hgood
  · exact fun hfields hrecords hfloat hspans hgood => exec_vrcvt h hrecords ht hfields hfloat hspans rfl hgood
  · rintro hfields hrecords rfl hspans
    exact exec_vrmk h hrecords ht hfields hspans

end Sys2Proof.Machine
end

section
/-! The matrix unit's instructions (R37 to R59, R77 to R83): what each answers on a tile that issues it undisturbed. -/
namespace Sys2Proof.Machine

/-! ### Steps that the bodies share -/

@[simp] theorem rget_matQueued (t : Nat) (ws : List Owed) (τ : Tile) (s : State) (r : RegName) (i : Nat) :
    rget (matQueued t ws τ s) r i = rget s r i := rfl

/-- An instruction that enters the matrix queue leaves TILE_STATUS to the move to the next word. -/
theorem issued_matQueued {o : TileOp} {u : TUnit} {body : State → Except TErr State} {s : State} {ws : List Owed} {τ : Tile}
    (h : Issues o u s) (hb : body s = .ok (matQueued o.tile ws τ s)) :
    issued o u body s = .next (pcNext o.tile (matQueued o.tile ws τ s)) :=
  issued_ok h hb (rget_matQueued _ _ _ _ _ _)

/-- Rows whose parity agrees may be used (R59). -/
theorem needRows_ok {m : Nat} {τ : Tile} (h : ∀ r < m, rowParOk τ r = true) : needRows m τ = .ok () :=
  if_pos (List.all_eq_true.2 fun r hr => h r (List.mem_range.1 hr))

theorem sumsOk_iff {n : Nat} {τ : Tile} {r : Nat} : sumsOk n τ r = true ↔ ∀ c < n, accResGet τ r c = mod7 (accGet τ r c) := by
  simp [sumsOk]

/-- The rows that a product works on: started with the datums it reads where START is set, as they stand where not (R40, R80). -/
def productRows (o : TileOp) (m : Nat) (d : Nat → Int) (τ : Tile) : Tile :=
  if (fmtM o.w).start then startRows m (fmtM o.w).dmode d τ else τ

/-- The step of a product's body that gives it its rows. -/
theorem productRows_bind {o : TileOp} {m : Nat} {datums : Except TErr (Nat → Int)} {d : Nat → Int} {τ : Tile}
    {k : Tile → Except TErr State} {r : Except TErr State} (h : (fmtM o.w).start = true → datums = .ok d)
    (hk : k (productRows o m d τ) = r) :
    (if (fmtM o.w).start = true then datums >>= fun d => pure (startRows m (fmtM o.w).dmode d τ) >>= k else pure τ >>= k) = r := by
  unfold productRows at hk
  split at hk
  next hstart => rw [if_pos hstart]; exact ok_bind (h hstart) hk
  next hstart => rw [if_neg hstart]; exact hk

section NoUpset
variable {o : TileOp} (h : o.upset = none)
include h

theorem strikeRow_of_no_upset (τ : Tile) : strikeRow o τ = τ := by simp [strikeRow, h]
theorem strikeSum_of_no_upset (m n : Nat) (τ : Tile) : strikeSum o m n τ = τ := by simp [strikeSum, h]
theorem readErr_of_no_upset (r : Nat) : readErr o r = fun _ => 0 := by
  funext c
  simp [readErr, h]

end NoUpset

/-! ### Products and scans -/

section Products
variable {o : TileOp} {s : State} {sh : Shape} {a b : Bases} {ca cb : List BlockCol} {d : Nat → Int}

/-- MMA on operands that it accepts and rows of good parity (R38 to R46, R77 to R80). -/
theorem exec_mma {ma mb : MxFmt} (h : Issues o .product s) (hma : mxFmt (fmtM o.w).fmtA = some ma)
    (hmb : mxFmt (fmtM o.w).fmtB = some mb) (hmode : dmodeOk (fmtM o.w) false = true)
    (hops : matrixOperands s o true = .ok (sh, a, b))
    (hfa : panelFits a sh.nb sh.m (mxBlockBytes (fmtM o.w).fmtA) true = true)
    (hfb : panelFits b sh.nb sh.n (mxBlockBytes (fmtM o.w).fmtB) true = true)
    (hca : readPanel s o.tile a sh.nb sh.m (mxBlockBytes (fmtM o.w).fmtA) true = .ok ca)
    (hcb : readPanel s o.tile b sh.nb sh.n (mxBlockBytes (fmtM o.w).fmtB) true = .ok cb)
    (hd : (fmtM o.w).start = true → startDatums s o (scanDatum ma mb sh.n (List.zip ca cb)) = .ok d)
    (hpar : ∀ r < sh.m, rowParOk (productRows o sh.m d (tileGet s o.tile)) r = true) :
    exec (.mma o) s = .next (pcNext o.tile (matQueued o.tile []
      ((List.zip ca cb).zipIdx.foldl
        (fun τ p => mxColumn (fmtM o.w).fmtA (fmtM o.w).fmtB ma mb (lenAt sh p.2) sh.m sh.n p.1.1 p.1.2 τ)
        (productRows o sh.m d (tileGet s o.tile))) s)) := by
  refine issued_matQueued h ?_
  simp only [hma, hmb, strikeRow_of_no_upset h.noUpset, strikeSum_of_no_upset h.noUpset]
  exact need_bind hmode <| ok_bind hops <| need_bind (by rw [hfa, hfb]; rfl) <| ok_bind hca <| ok_bind hcb <| productRows_bind hd <|
    ok_bind (needRows_ok hpar) rfl

/-- MMB alike: each product of two BF16 elements is a contribution of its own (R44, R47). -/
theorem exec_mmb (h : Issues o .product s) (hfmtA : (fmtM o.w).fmtA = 8) (hfmtB : (fmtM o.w).fmtB = 8)
    (hmode : dmodeOk (fmtM o.w) true = true) (hops : matrixOperands s o false = .ok (sh, a, b))
    (hfa : panelFits a sh.nb sh.m 64 false = true) (hfb : panelFits b sh.nb sh.n 64 false = true)
    (hca : readPanel s o.tile a sh.nb sh.m 64 false = .ok ca) (hcb : readPanel s o.tile b sh.nb sh.n 64 false = .ok cb)
    (hd : (fmtM o.w).start = true → startDatums s o (fun _ => 0) = .ok d)
    (hpar : ∀ r < sh.m, rowParOk (productRows o sh.m d (tileGet s o.tile)) r = true) :
    exec (.mmb o) s = .next (pcNext o.tile (matQueued o.tile []
      ((List.zip ca cb).zipIdx.foldl (fun τ p => bfColumn (lenAt sh p.2) sh.m sh.n p.1.1 p.1.2 τ)
        (productRows o sh.m d (tileGet s o.tile))) s)) := by
  refine issued_matQueued h ?_
  simp only [strikeRow_of_no_upset h.noUpset, strikeSum_of_no_upset h.noUpset]
  exact need_bind (by rw [hfmtA, hfmtB, hmode]; rfl) <| ok_bind hops <| need_bind (by rw [hfa, hfb]; rfl) <|
    ok_bind hca <| ok_bind hcb <| productRows_bind hd <|
    ok_bind (needRows_ok hpar) rfl

/-- MSCAN changes no row: it enters the queue owing its datum vector (R46, R48). -/
theorem exec_mscan {ma mb : MxFmt} (h : Issues o .scan s) (hma : mxFmt (fmtM o.w).fmtA = some ma)
    (hmb : mxFmt (fmtM o.w).fmtB = some mb) (hzero : (fmtM o.w).zero = 0)
    (hstart : (fmtM o.w).start = true → (fmtM o.w).dmode ≠ 0) (hops : matrixOperands s o true = .ok (sh, a, b))
    (halign : xnat s o.tile (fmtM o.w).xv % 2 ^ 20 % 64 = 0)
    (hdst : scratchOk s o.tile (xnat s o.tile (fmtM o.w).xv % 2 ^ 20) 64 = true)
    (hca : readScales s o.tile a sh.nb sh.m = .ok ca) (hcb : readScales s o.tile b sh.nb sh.n = .ok cb) :
    exec (.mscan o) s = .next (pcNext o.tile (matQueued o.tile [⟨xnat s o.tile (fmtM o.w).xv % 2 ^ 20,
      datumVectorBytes fun r => if r < sh.m then scanDatum ma mb sh.n (List.zip ca cb) r else -512⟩] (tileGet s o.tile) s)) := by
  refine issued_matQueued h ?_
  simp only [hma, hmb]
  have hmode : ((fmtM o.w).zero == 0 && !((fmtM o.w).start && (fmtM o.w).dmode == 0)) = true := by
    cases hs : (fmtM o.w).start with
    | false => simp [hzero]
    | true => simp [hzero, hstart hs]
  exact need_bind hmode <| ok_bind hops <| need_bind (by rw [halign, hdst]; rfl) <| ok_bind hca <| ok_bind hcb rfl

end Products

/-! ### The read-outs -/

/-- The four functions of MOUT: the instruction, its function and the bytes of an element (R81); an MX row's are its block's. -/
def moutFunctions : List ((TileOp → Instr) × Nat × Nat) :=
  [(.moutRecords, 0, 16), (.moutFp32, 1, 4), (.moutBf16, 2, 2), (.moutMx, 3, 0)]

/-- The read-out of one row: what it owes and the residues it adds join those of the rows before it (R42, R58, R81, R260). -/
def moutStep (fn code n : Nat) (b : Bases) (st : Nat) (q : List Owed × Tile) (r : Nat) : List Owed × Tile :=
  let rd := readRow r n q.2
  let fl := flagsGet rd.2 r
  let out := moutRow fn code rd.1 (Map.get rd.2.datum 0 r) fl
  (q.1 ++ [⟨b.e + r * moutStride fn code, out.1⟩] ++ (if fn = 3 then [⟨b.s + r, leBytes 1 out.2⟩] else [])
      ++ [⟨st + r, leBytes 1 fl.toNat⟩],
    { rd.2 with residues := rd.2.residues ++ (rd.1.map mod7).map (BitVec.ofNat 8) })

/-- Where no upset strikes, the rows are read out one after the other as they stand. -/
theorem moutRows_of_no_upset {o : TileOp} (h : o.upset = none) (fn : Nat) (sh : Shape) (b : Bases) (st : Nat) (τ : Tile) :
    moutRows fn o sh b st τ = (List.range sh.m).foldl (moutStep fn (fmtO o.w).fmtOut sh.n b st) ([], τ) := by
  unfold moutRows
  simp only [readErr_of_no_upset h]
  rfl

/-- The four functions share one body. -/
theorem exec_of_mem_moutFunctions {row : (TileOp → Instr) × Nat × Nat} (hrow : row ∈ moutFunctions) (o : TileOp) (s : State) :
    exec (row.1 o) s = issued o (.readout (row.2.1 != 0)) (mout row.2.1 o) s := by
  simp only [moutFunctions, List.mem_cons, List.not_mem_nil, or_false] at hrow
  obtain rfl | rfl | rfl | rfl := hrow <;> rfl

/-- A read-out whose rows agree with their parity and whose sums agree with their running residues (R59, R81). -/
theorem mout_ok {o : TileOp} {s : State} {sh : Shape} {b : Bases} {row : (TileOp → Instr) × Nat × Nat}
    (hrow : row ∈ moutFunctions) (hup : o.upset = none) (hzero : (fmtO o.w).zero = 0)
    (hfmt : if row.2.1 = 3 then (fmtO o.w).fmtOut ≤ 5 else (fmtO o.w).fmtOut = 0)
    (hsh : shapeOf (xnat s o.tile (fmtO o.w).xsh) false = some sh)
    (hb : basesOf (xnat s o.tile (fmtO o.w).xdst) (row.2.1 == 3) = some b)
    (hdst : scratchOk s o.tile b.e ((sh.m - 1) * moutStride row.2.1 (fmtO o.w).fmtOut
      + (if row.2.1 = 3 then moutStride row.2.1 (fmtO o.w).fmtOut else sh.n * row.2.2)) = true)
    (hst : scratchOk s o.tile (xnat s o.tile (fmtO o.w).xst % 2 ^ 20) sh.m = true)
    (hscale : row.2.1 = 3 → scratchOk s o.tile b.s sh.m = true)
    (hrows : ∀ r < sh.m, rowParOk (tileGet s o.tile) r = true
      ∧ ∀ c < sh.n, accResGet (tileGet s o.tile) r c = mod7 (accGet (tileGet s o.tile) r c)) :
    let rows := moutRows row.2.1 o sh b (xnat s o.tile (fmtO o.w).xst % 2 ^ 20) (tileGet s o.tile)
    mout row.2.1 o s = .ok (matQueued o.tile rows.1 rows.2 s) := by
  have hsums : (List.range sh.m).all (sumsOk sh.n (tileGet s o.tile)) = true :=
    List.all_eq_true.2 fun r hr => sumsOk_iff.2 (hrows r (List.mem_range.1 hr)).2
  unfold mout
  simp only [strikeRow_of_no_upset hup, hsh, hb, hsums, Bool.not_true, Bool.false_eq_true, if_false]
  refine need_bind ?_ <| need_bind ?_ <| ok_bind (needRows_ok fun r hr => (hrows r hr).1) rfl
  · split at hfmt <;> simp [*]
  · simp only [moutFunctions, List.mem_cons, List.not_mem_nil, or_false] at hrow
    obtain rfl | rfl | rfl | rfl := hrow <;> simpa using And.intro (And.intro hdst hst) hscale

/-- The oldest of the queue writes what it owes, and MAT rises (R83, R92). -/
theorem exec_matrixComplete {tile : Nat} {ws : List Owed} {rest : List (List Owed)} {s : State}
    (h : (tileGet s tile).matQ = ws :: rest) :
    exec (.matrixComplete tile) s = .next (tileRest tile (doneBump tile 0 1
      (payOwed tile ws (tileMod tile (fun τ => { τ with matQ := rest }) s)))) := by
  change execMatrixComplete tile s = _
  simp only [execMatrixComplete, h]

/-! ### The claim -/

/-- Settles O9, by the rule of each instruction. -/
theorem matrixInstructionsComplete : Obligations.MatrixInstructionsComplete := by
  unfold Obligations.MatrixInstructionsComplete
  refine ⟨fun o s sh a b => ⟨fun h => ⟨?_, ?_⟩, ?_⟩, ?_, fun tile ws rest s h => exec_matrixComplete h⟩
  · exact fun ma mb ca cb d => exec_mma h
  · exact fun ca cb d => exec_mmb h
  · exact fun ma mb ca cb => exec_mscan
  · intro o s sh b f τ row hrow h hzero hfmt hsh hb step st hdst hst hscale hrows rows
    have hbody := mout_ok hrow h.noUpset hzero hfmt hsh hb hdst hst hscale hrows
    rw [moutRows_of_no_upset h.noUpset] at hbody
    exact (exec_of_mem_moutFunctions hrow o s).trans (issued_matQueued h hbody)

end Sys2Proof.Machine
end

section
/-! The sequencer's instructions (R71, R73 to R75, R92 to R95): what each answers on a tile that issues it undisturbed, and which
instruction a word names. -/
namespace Sys2Proof.Machine

/-! ### TILE_STATUS where an instruction issues -/

/-- A tile that can issue is one of the hub's. -/
theorem tile_lt_of_canIssue {s : State} {t : Nat} {u : TUnit} (h : canIssue s t u = true) : t < 65536 := by
  simp only [canIssue, Bool.and_eq_true, decide_eq_true_eq] at h
  obtain ⟨⟨⟨⟨⟨ht, _⟩, _⟩, _⟩, _⟩, _⟩ := h
  exact Nat.lt_trans ht (by decide)

/-- A tile that issues neither waits nor has stopped or ended. -/
theorem Issues.status {o : TileOp} {u : TUnit} {s : State} (h : Issues o u s) :
    fon s F.tileStatus_waiting o.tile = false ∧ fon s F.tileStatus_stopped o.tile = false
      ∧ fon s F.tileStatus_ended o.tile = false := by
  have hc := h.can
  simp only [canIssue, Bool.and_eq_true, Bool.not_eq_true'] at hc
  obtain ⟨⟨⟨⟨⟨_, _⟩, hw⟩, he⟩, hs⟩, _⟩ := hc
  exact ⟨hw, hs, he⟩

/-- A one-bit field that is set to 1 is on. -/
theorem fon_fset_one {f : Fld} (hw : f.w = 1) (hf : f.lo + f.w ≤ 64) (i : Nat) (s : State) : fon (fset f i 1 s) f i = true := by
  simp [fon, fget_fset_of_lt hf (show 1 < 2 ^ f.w by rw [hw]; decide)]

/-- A branch moves the program counter alone. -/
theorem fon_branchBy {f : Fld} (hr : f.reg = .tileStatus) (hw : f.lo + f.w ≤ F.tileStatus_pc.lo) (t : Nat) (d : Int) (s : State) :
    fon (branchBy t d s) f t = fon s f t := by
  unfold fon branchBy
  rw [fget_fset_field s F.tileStatus_pc f t _ hr (.inl hw) (Nat.le_trans hw (by decide))]

/-- An instruction that branches after a change of the tile alone goes on from its target. -/
theorem issued_branch {o : TileOp} {u : TUnit} {body : State → Except TErr State} {s t : State} {d : Int} (h : Issues o u s)
    (hb : body s = .ok (branchBy o.tile d t)) (hr : rget t .tileStatus o.tile = rget s .tileStatus o.tile) :
    issued o u body s = .next (pcNext o.tile (branchBy o.tile d t)) := by
  obtain ⟨hw, hs, he⟩ := h.status
  have hkeep : ∀ f : Fld, f.reg = .tileStatus → f.lo + f.w ≤ F.tileStatus_pc.lo →
      fon (branchBy o.tile d t) f o.tile = fon s f o.tile :=
    fun f hf hlo => (fon_branchBy hf hlo _ _ _).trans (fon_congr (by rw [hf]; exact hr))
  exact issued_next h hb ((hkeep _ rfl (by decide)).trans hw) ((hkeep _ rfl (by decide)).trans hs)
    ((hkeep _ rfl (by decide)).trans he)

/-- An instruction that makes its tile wait does not move on. -/
theorem issued_waits {o : TileOp} {u : TUnit} {body : State → Except TErr State} {s t : State} (h : Issues o u s)
    (hb : body s = .ok (fset F.tileStatus_waiting o.tile 1 t)) :
    issued o u body s = .next (fset F.tileStatus_waiting o.tile 1 t) :=
  issued_holds h hb (.inl (fon_fset_one rfl (by decide) _ _))

/-! ### Control flow and scalar access (R63, R71, R75) -/

/-- Ending a tick leaves its mark, whether or not the tile comes to rest at once (R71, R104). -/
theorem fon_ended_tileRest (t : Nat) (s : State) :
    fon (tileRest t s) F.tileStatus_ended t = fon s F.tileStatus_ended t := by
  unfold tileRest
  split
  · unfold fon
    rw [fget_fset_field s F.tileStatus_running F.tileStatus_ended t 0 rfl (by decide) (by decide)]
  · rfl

section Control
variable {o : TileOp} {s : State} (h : Issues o .seq s)
include h

theorem exec_nop : exec (.nop o) s = .next (pcNext o.tile s) := issued_ok h rfl rfl

theorem exec_endTick : exec (.endTick o) s = .next (tileRest o.tile (fset F.tileStatus_ended o.tile 1 s)) :=
  issued_holds h rfl (.inr (.inr ((fon_ended_tileRest _ _).trans (fon_fset_one rfl (by decide) _ _))))

theorem exec_br : exec (.br o) s = .next (pcNext o.tile (branchBy o.tile (fmtC o.w).simm s)) := issued_branch h rfl rfl

theorem exec_brz_taken (hx : xget s o.tile (fmtC o.w).xa = 0) :
    exec (.brz o) s = .next (pcNext o.tile (branchBy o.tile (fmtC o.w).simm s)) :=
  issued_branch h (congrArg Except.ok (if_pos hx)) rfl

theorem exec_brz_passed (hx : xget s o.tile (fmtC o.w).xa ≠ 0) : exec (.brz o) s = .next (pcNext o.tile s) :=
  issued_ok h (congrArg Except.ok (if_neg hx)) rfl

theorem exec_brnz_passed (hx : xget s o.tile (fmtC o.w).xa = 0) : exec (.brnz o) s = .next (pcNext o.tile s) :=
  issued_ok h (congrArg Except.ok (if_pos hx)) rfl

theorem exec_brnz_taken (hx : xget s o.tile (fmtC o.w).xa ≠ 0) :
    exec (.brnz o) s = .next (pcNext o.tile (branchBy o.tile (fmtC o.w).simm s)) :=
  issued_branch h (congrArg Except.ok (if_neg hx)) rfl

theorem exec_loopTo_done (hx : xget s o.tile (fmtC o.w).xa = 1) :
    exec (.loopTo o) s = .next (pcNext o.tile (xset o.tile (fmtC o.w).xa (xget s o.tile (fmtC o.w).xa - 1) s)) :=
  issued_ok h (congrArg Except.ok (if_pos (by rw [hx]; rfl))) rfl

theorem exec_loopTo_again (hx : xget s o.tile (fmtC o.w).xa ≠ 1) :
    exec (.loopTo o) s = .next (pcNext o.tile (branchBy o.tile (fmtC o.w).simm
      (xset o.tile (fmtC o.w).xa (xget s o.tile (fmtC o.w).xa - 1) s))) :=
  issued_branch h (congrArg Except.ok (if_neg fun hzero => hx (by bv_omega))) rfl

theorem exec_sli :
    exec (.sli o) s = .next (pcNext o.tile (xset o.tile (fmtC o.w).xa (BitVec.ofInt 64 (fmtC o.w).simm) s)) :=
  issued_ok h rfl rfl

theorem exec_slih :
    exec (.slih o) s = .next (pcNext o.tile (xset o.tile (fmtC o.w).xa
      (BitVec.ofNat 64 ((fmtC o.w).imm * 2 ^ 32 + (xget s o.tile (fmtC o.w).xa).toNat % 2 ^ 32)) s)) :=
  issued_ok h rfl rfl

section Scalar
variable (halign : scalarAddr s o % 8 = 0)
include halign

theorem exec_sld {bs : List Byte} (hread : loadBytes s o.tile (scalarAddr s o) 8 = .ok bs) :
    exec (.sld o) s = .next (pcNext o.tile (xset o.tile (fmtC o.w).xa (BitVec.ofNat 64 (ofLe bs)) s)) :=
  issued_ok h (need_bind (beq_iff_eq.2 halign) <| ok_bind hread rfl) rfl

theorem exec_sst (hscratch : scratchOk s o.tile (scalarAddr s o) 8 = true) :
    exec (.sst o) s = .next (pcNext o.tile
      (storeWrite o.tile (scalarAddr s o) (leBytes 8 (xget s o.tile (fmtC o.w).xa).toNat) s)) :=
  issued_ok h (need_bind (by rw [halign, hscratch]; rfl) rfl) (rget_storeWrite ..)

end Scalar

/-! ### Waits, barriers and signals (R92 to R95) -/

theorem exec_waitc_passed (hsub : (fmtC o.w).sub % 8 ≤ 4) (hdone : (fmtC o.w).imm ≤ doneGet s o.tile ((fmtC o.w).sub % 8)) :
    exec (.waitc o) s = .next (pcNext o.tile s) :=
  issued_ok h (need_bind (decide_eq_true hsub) (congrArg Except.ok (waitFor_holds (decide_eq_true hdone)))) rfl

theorem exec_waitc_stalls (hsub : (fmtC o.w).sub % 8 ≤ 4) (hdone : doneGet s o.tile ((fmtC o.w).sub % 8) < (fmtC o.w).imm) :
    exec (.waitc o) s = .next (fset F.tileStatus_waiting o.tile 1
      (tileMod o.tile (fun τ => { τ with wait := .counter ((fmtC o.w).sub % 8) (fmtC o.w).imm }) s)) :=
  issued_waits h (need_bind (decide_eq_true hsub)
    (congrArg Except.ok (waitFor_stalls (decide_eq_false (Nat.not_le.2 hdone)))))

theorem exec_waits_passed (hsync : (fmtC o.w).imm ≤ syncGet s o.tile ((fmtC o.w).sub % 16)) :
    exec (.waits o) s = .next (pcNext o.tile s) :=
  issued_ok h (congrArg Except.ok (waitFor_holds (decide_eq_true hsync))) rfl

theorem exec_waits_stalls (hsync : syncGet s o.tile ((fmtC o.w).sub % 16) < (fmtC o.w).imm) :
    exec (.waits o) s = .next (fset F.tileStatus_waiting o.tile 1
      (tileMod o.tile (fun τ => { τ with wait := .sync ((fmtC o.w).sub % 16) (fmtC o.w).imm }) s)) :=
  issued_waits h (congrArg Except.ok (waitFor_stalls (decide_eq_false (Nat.not_le.2 hsync))))

/-- An arrival at a barrier of whose mask the tile is, and at which it has not arrived (R93). -/
theorem exec_bsync {bar : Barrier} (hbar : bar = Map.get (bayGet s (bayOf o.tile)).bars {} ((fmtC o.w).sub % 16))
    (hmember : bitOn ((fmtC o.w).imm % 256) (o.tile % 8) = true)
    (hmask : bar.arrived = 0 ∨ bar.mask = (fmtC o.w).imm % 256) (hnew : bitOn bar.arrived (o.tile % 8) = false) :
    exec (.bsync o) s = .next (fset F.tileStatus_waiting o.tile 1 (tileMod o.tile
      (fun τ => { τ with wait := .barrier ((fmtC o.w).sub % 16) })
      (baySet (bayOf o.tile) { bayGet s (bayOf o.tile) with bars := (Map.set (bayGet s (bayOf o.tile)).bars ((fmtC o.w).sub % 16)
        ({ bar with mask := (fmtC o.w).imm % 256, arrived := bar.arrived + 2 ^ (o.tile % 8) })) } s))) := by
  subst hbar
  exact issued_waits h (need_bind hmember <| need_bind (by simpa using hmask) <| need_bind (by rw [hnew]; rfl) rfl)

end Control

section Signals
variable {s : State} {target ctr inc t : Nat} (hhub : hubOfTile target = hubId s) (htile : localTile target = some t)
  (hreset : s.netReset.contains (bayOf t) = false) (hroom : syncGet s t ctr + inc < 2 ^ 32)
include htile hreset hroom

theorem signalOverflows_of_room : signalOverflows s target ctr inc = false := by
  simp only [signalOverflows, htile, hreset, Bool.not_false, Bool.true_and, decide_eq_false_iff_not]
  omega

/-- A signal to one of the 13 counters that the walker does not use, on this hub, with room in the counter (R94). -/
theorem signalLocal_ok (fromG : Nat) (hctr : ctr < 13) :
    signalLocal fromG target ctr inc s = .ok (syncSet t ctr (syncGet s t ctr + inc) s) := by
  unfold signalLocal
  simp only [htile, hreset]
  rw [if_neg Bool.false_ne_true, if_neg (by omega), if_neg (by omega)]

include hhub in
theorem signalDone_local (k : Nat) (hctr : ctr < 13) :
    signalDone k target ctr inc s = .ok (syncSet t ctr (syncGet s t ctr + inc) s) := by
  have hnow : signalNow k target ctr inc s = .ok (syncSet t ctr (syncGet s t ctr + inc) s) := by
    unfold signalNow
    exact (if_pos hhub).trans (signalLocal_ok htile hreset hroom _ hctr)
  simp [signalDone, hnow, signalOverflows_of_room htile hreset hroom]

end Signals

/-- A signal that waits for no earlier store or window write (R94, R95). -/
theorem exec_sig {o : TileOp} {s : State} {t : Nat} (h : Issues o .seq s) (hinc : (fmtC o.w).imm % 65536 ≠ 0)
    (htarget : xnat s o.tile (fmtC o.w).xa < 2 ^ 19) (hstores : openStores (tileGet s o.tile) = 0)
    (hwrites : openWrites s o.tile = []) (hhub : hubOfTile (xnat s o.tile (fmtC o.w).xa) = hubId s)
    (htile : localTile (xnat s o.tile (fmtC o.w).xa) = some t) (hreset : s.netReset.contains (bayOf t) = false)
    (hctr : (fmtC o.w).sub % 16 < 13) (hroom : syncGet s t ((fmtC o.w).sub % 16) + (fmtC o.w).imm % 65536 < 2 ^ 32) :
    exec (.sig o) s = .next (pcNext o.tile
      (syncSet t ((fmtC o.w).sub % 16) (syncGet s t ((fmtC o.w).sub % 16) + (fmtC o.w).imm % 65536) s)) := by
  refine issued_ok h (need_bind (by rw [decide_eq_true htarget, bne_iff_ne.2 hinc]; rfl) ?_) (rget_tileMod ..)
  exact (if_pos ⟨hstores, hwrites⟩).trans (signalDone_local hhub htile hreset hroom _ hctr)

/-- A stalled tile goes on once its counter has reached the value it waits for (R69). -/
theorem exec_waitSatisfied {tile : Nat} {s : State} (hwaiting : fon s F.tileStatus_waiting tile = true)
    (hcond : (tileGet s tile).wait ≠ .none) (hok : waitOk s tile (tileGet s tile).wait = true) :
    exec (.waitSatisfied tile) s = .next (pcNext tile (fset F.tileStatus_waiting tile 0
      (tileMod tile (fun τ => { τ with wait := .none }) s))) :=
  congrArg _ (if_pos (by simp [hwaiting, hcond, hok]))

/-- One tile of a barrier's mask goes on, where it waits there (R93). -/
def barrierStep (bay b : Nat) (s : State) (k : Nat) : State :=
  if (tileGet s (bay * 8 + k)).wait = .barrier b then
    pcNext (bay * 8 + k) (fset F.tileStatus_waiting (bay * 8 + k) 0
      (tileMod (bay * 8 + k) (fun τ => { τ with wait := .none }) s))
  else s

/-- A barrier at which every tile of its mask has arrived (R93). -/
theorem exec_barrierRelease {bay b : Nat} {s : State} {bar : Barrier} (hbar : bar = Map.get (bayGet s bay).bars {} b)
    (hbay : bay < numBays) (hany : bar.arrived ≠ 0) (hall : bar.arrived = bar.mask) :
    exec (.barrierRelease bay b) s = .next ((bitList 8 bar.mask).foldl (barrierStep bay b)
      (baySet bay { bayGet s bay with bars := Map.set (bayGet s bay).bars b ⟨0, 0, bar.generation + 1⟩ } s)) := by
  subst hbar
  refine congrArg _ (if_neg ?_)
  rintro (hnone | hsome | hout)
  · exact hany hnone
  · exact hsome hall
  · exact absurd hbay (Nat.not_lt.2 hout)

/-! ### The word at the program counter (R73, R74) -/

/-- Bits [63:48] of the words that name a row's instruction (R73). -/
def TileRow.key (r : TileRow) : Nat := r.major * 256 + r.fn

/-- No two rows of the tables share their bits. -/
theorem tileRows_keys_nodup : (tileRows.map TileRow.key).Nodup := by decide +kernel

/-- In a list whose members differ in a key, a search for a member's key finds that member. -/
theorem find?_key_of_nodup {α : Type} {key : α → Nat} {l : List α} (h : (l.map key).Nodup) {x : α} (hx : x ∈ l) :
    l.find? (fun y => key y == key x) = some x := by
  induction l with
  | nil => cases hx
  | cons y l ih =>
    rw [List.map_cons, List.nodup_cons] at h
    obtain ⟨hy, hl⟩ := h
    rcases List.mem_cons.1 hx with rfl | hx
    · exact List.find?_cons_of_pos (by simp)
    · have hne : key y ≠ key x := fun e => hy (e ▸ List.mem_map_of_mem hx)
      rw [List.find?_cons_of_neg (by simpa using hne)]
      exact ih hl hx

/-- A word names the instruction of the row whose bits it holds. -/
theorem decodeTile_of_mem {r : TileRow} (hr : r ∈ tileRows) (tile : Nat) {w : BitVec 64}
    (hw : w.toNat / 2 ^ 48 = r.major * 256 + r.fn) : decodeTile tile w = r.op { tile := tile, w := w.setWidth 48 } := by
  have hfind : tileRows.find? (fun q => q.major * 256 + q.fn == r.major * 256 + r.fn) = some r :=
    find?_key_of_nodup tileRows_keys_nodup hr
  simp only [decodeTile, hw, hfind]

/-- A word that holds no row's bits goes as NOP with those bits marked reserved. -/
theorem decodeTile_of_not_mem (tile : Nat) {w : BitVec 64} (hw : ∀ r ∈ tileRows, w.toNat / 2 ^ 48 ≠ r.major * 256 + r.fn) :
    decodeTile tile w
      = .nop { tile := tile, w := w.setWidth 48, reserved := some (BitVec.ofNat 16 (w.toNat / 2 ^ 48)) } := by
  have hfind : tileRows.find? (fun r => r.major * 256 + r.fn == w.toNat / 2 ^ 48) = none :=
    List.find?_eq_none.2 fun r hr => by simpa using fun e => hw r hr e.symm
  simp only [decodeTile, hfind]

/-- An instruction whose word names none stops its tile with a program error (R74). -/
theorem issued_reserved {o : TileOp} {u : TUnit} {body : State → Except TErr State} {s : State} (hcan : canIssue s o.tile u = true)
    (hinj : injectedUpset s o.tile u = none) (hup : o.upset = none) (hres : o.reserved.isSome = true)
    (hcode : (tileGet s o.tile).badLines.contains (fetchLine s o.tile) = false) :
    issued o u body s = .next (tileStop o.tile .prog s) := by
  have hstop : preStop o u false none s = some .prog := by
    simp only [preStop, hcode, Option.bind_none, hres]
    rfl
  simp [issued, issue, hcan, hinj, hup, correctedCount, hstop]

/-! ### The claim -/

/-- Settles O8, by the rule of each instruction. -/
theorem sequencerInstructionsComplete : Obligations.SequencerInstructionsComplete := by
  unfold Obligations.SequencerInstructionsComplete
  refine ⟨fun o s h => ⟨exec_nop h, exec_endTick h, exec_br h, fun hx => ⟨exec_brz_taken h hx, exec_brnz_passed h hx⟩,
      fun hx => ⟨exec_brz_passed h hx, exec_brnz_taken h hx⟩, ⟨exec_loopTo_done h, exec_loopTo_again h⟩, exec_sli h, exec_slih h,
      fun halign => ⟨fun bs => exec_sld h halign, exec_sst h halign⟩,
      fun hsub => ⟨exec_waitc_passed h hsub, exec_waitc_stalls h hsub⟩, exec_waits_passed h, exec_waits_stalls h,
      exec_bsync h rfl, fun t => exec_sig h⟩,
    fun tile s => exec_waitSatisfied, fun bay b s hbay => exec_barrierRelease rfl hbay,
    fun tile w => ⟨fun r hr => decodeTile_of_mem hr tile, fun s hw hcan hinj hcode => ?_⟩⟩
  rw [decodeTile_of_not_mem tile hw]
  exact issued_reserved hcan hinj rfl rfl hcode

end Sys2Proof.Machine
end

section
/-! The vector engine's loads and stores (R64, R72, R76, R108, R110, R112 to R114, R117, R123): what each answers on a tile that issues
it undisturbed, and what a store's completion writes. -/
namespace Sys2Proof.Machine

@[simp] theorem rget_vecQueued (t : Nat) (ws : List Owed) (s : State) (r : RegName) (i : Nat) :
    rget (vecQueued t ws s) r i = rget s r i := rfl

/-! ### Contiguous and strided accesses (R113, R114, R117) -/

/-- What a store makes of each element of its register: an active one goes out, an inactive one is left out, or is zero under ZM
(R110). -/
def storedElems (τ : Tile) (f : FmtV) (bytes : Nat) : List (Option Nat) :=
  predicated f (actives τ f) ((telems τ f.d bytes f.n).map FRes.plain)

/-- What a store of elements owes the tile store, where `place` gives each element's address. -/
def owedElems (place : Nat → Nat) (bytes : Nat) (vs : List (Option Nat)) (n : Nat) : List Owed :=
  (List.zip vs (List.range n)).filterMap fun p => p.1.map fun v => ⟨place p.2, leBytes bytes v⟩

/-- The address of an element: rows of 128 bytes at a stride, or one after the other (R116). -/
def vPlace (strided : Bool) (a st bytes e : Nat) : Nat :=
  if strided then a + e * bytes / 128 * st + e * bytes % 128 else a + e * bytes

section Access
variable {o : TileOp} {s : State} {u : EType} {strided : Bool} (hu : etypeOf (fmtV o.w).ety = some u)
  (hfields : vfieldsOk (fmtV o.w) { d := true, a := true, b := strided } = true)
  (ha : xnat s o.tile (fmtV o.w).a % 64 = 0) (hst : strided = true → xnat s o.tile (fmtV o.w).b % 64 = 0)

include ha hst in
/-- The alignment that a load or a store of the vector engine asks for (R114). -/
theorem aligned_of_strided :
    (xnat s o.tile (fmtV o.w).a % 64 == 0 && (if strided then xnat s o.tile (fmtV o.w).b else 0) % 64 == 0) = true := by
  cases strided with
  | false => simp [ha]
  | true => simp [ha, hst rfl]

include hu hfields ha hst

theorem vload_ok (hspans : spansOk false [spanOf (fmtV o.w).d (fmtV o.w).n u.bytes] [] = true) {parts : List (List Byte)}
    (hparts : (vPieces strided (xnat s o.tile (fmtV o.w).a) (if strided then xnat s o.tile (fmtV o.w).b else 0)
      ((fmtV o.w).n * u.bytes)).mapM (fun p => vecRead s o.tile p.1 p.2.2) = .ok parts) :
    vload strided o s = .ok (vResult o (fmtV o.w) u.bytes
      ((chunks u.bytes (fmtV o.w).n parts.flatten).map fun b => FRes.plain (ofLe b)) s) :=
  need_bind hfields <| etype_bind hu rfl <| need_bind hspans <| need_bind (aligned_of_strided ha hst) <| ok_bind hparts rfl

theorem vstore_ok (hspans : spansOk false [] [spanOf (fmtV o.w).d (fmtV o.w).n u.bytes] = true)
    (hscratch : ∀ p ∈ vPieces strided (xnat s o.tile (fmtV o.w).a) (if strided then xnat s o.tile (fmtV o.w).b else 0)
      ((fmtV o.w).n * u.bytes), scratchOk s o.tile p.1 p.2.2 = true) :
    vstore strided o s = .ok (vecQueued o.tile (owedElems (vPlace strided (xnat s o.tile (fmtV o.w).a)
      (xnat s o.tile (fmtV o.w).b) u.bytes) u.bytes (storedElems (tileGet s o.tile) (fmtV o.w) u.bytes) (fmtV o.w).n) s) :=
  need_bind hfields <| etype_bind hu rfl <| need_bind hspans <| need_bind (aligned_of_strided ha hst) <|
    need_bind (List.all_eq_true.2 hscratch) (by cases strided <;> rfl)

end Access

/-- VLD and VLDS share one body. -/
theorem exec_of_mem_vloads {row : (TileOp → Instr) × Bool} (hrow : row ∈ [(Instr.vld, false), (Instr.vlds, true)]) (o : TileOp)
    (s : State) : exec (row.1 o) s = issued o .vector (vload row.2 o) s := by
  simp only [List.mem_cons, List.not_mem_nil, or_false] at hrow
  obtain rfl | rfl := hrow <;> rfl

/-- VST and VSTS share one body. -/
theorem exec_of_mem_vstores {row : (TileOp → Instr) × Bool} (hrow : row ∈ [(Instr.vst, false), (Instr.vsts, true)]) (o : TileOp)
    (s : State) : exec (row.1 o) s = issued o .vecStore (vstore row.2 o) s := by
  simp only [List.mem_cons, List.not_mem_nil, or_false] at hrow
  obtain rfl | rfl := hrow <;> rfl

/-! ### Microscaled blocks (R76, R117, R123) -/

section Blocks
variable {o : TileOp} {s : State} {b : Bases} (hb : basesOf (xnat s o.tile (fmtV o.w).a) true = some b)
  (hety : (fmtV o.w).ety = 0) (haux : (fmtV o.w).aux ≤ 5)
  (hfields : vfieldsOk (fmtV o.w) { d := true, a := true, aux := true } = true)

include hb in
theorem mxBases_ok : mxBases s o = .ok b := by simp only [mxBases, hb]

include hety haux hfields in
theorem mxFields_ok :
    (vfieldsOk (fmtV o.w) { d := true, a := true, aux := true } && (fmtV o.w).ety == 0 && decide ((fmtV o.w).aux ≤ 5)) = true := by
  rw [hfields, hety, decide_eq_true haux]
  rfl

include hb hety haux hfields

theorem exec_vldmx (h : Issues o .vector s) (hspans : spansOk false [spanOf (fmtV o.w).d (fmtV o.w).n 4] [] = true)
    {es ss : List Byte} (hes : vecRead s o.tile b.e (((fmtV o.w).n + 31) / 32 * mxBlockBytes (fmtV o.w).aux) = .ok es)
    (hss : vecRead s o.tile b.s (((fmtV o.w).n + 31) / 32) = .ok ss) :
    exec (.vldmx o) s = .next (pcNext o.tile (vResult o (fmtV o.w) 4 ((List.range (fmtV o.w).n).map fun e =>
      mxToF32 (fmtV o.w).aux (ss.getD (e / 32) 0).toNat (mxElemBits (fmtV o.w).aux
        (((chunks (mxBlockBytes (fmtV o.w).aux) (((fmtV o.w).n + 31) / 32) es).map ofLe).getD (e / 32) 0) (e % 32))) s)) :=
  issued_ok h (need_bind (mxFields_ok hety haux hfields) <| need_bind hspans <| ok_bind (mxBases_ok hb) <|
    ok_bind hes <| ok_bind hss rfl) (rget_vResult ..)

theorem exec_vstmx (h : Issues o .vecStore s) (hspans : spansOk false [] [spanOf (fmtV o.w).d (fmtV o.w).n 4] = true)
    (helems : scratchOk s o.tile b.e (((fmtV o.w).n + 31) / 32 * mxBlockBytes (fmtV o.w).aux) = true)
    (hscales : scratchOk s o.tile b.s (((fmtV o.w).n + 31) / 32) = true) :
    let blocks := (chunks 32 (((fmtV o.w).n + 31) / 32) (List.zipWith (fun a v => if a then decodeF fp32 v else FVal.fin false 0 0)
      (actives (tileGet s o.tile) (fmtV o.w)) (telems (tileGet s o.tile) (fmtV o.w).d 4 (fmtV o.w).n))).map
        (mxBlock (fmtV o.w).aux)
    exec (.vstmx o) s = .next (pcNext o.tile (vecQueued o.tile
      (blocks.zipIdx.flatMap fun p => [⟨b.e + p.2 * mxBlockBytes (fmtV o.w).aux, leBytes (mxBlockBytes (fmtV o.w).aux) p.1.block⟩,
        ⟨b.s + p.2, leBytes 1 p.1.scale⟩])
      (raiseFlags o.tile (bit01 (blocks.any (·.special)) + 2 * bit01 (blocks.any (·.sat))) s))) :=
  issued_ok h (need_bind (mxFields_ok hety haux hfields) <| need_bind hspans <| ok_bind (mxBases_ok hb) <|
    need_bind (by rw [helems, hscales]; rfl) rfl) (by rw [rget_vecQueued, rget_raiseFlags])

end Blocks

/-- Settles O7, by the rule of each instruction. That a store's bytes are captured as it issues and owed until its completion is log
entry 89; that a microscaled store owes each block's elements before its scale is log entry 15. -/
theorem vectorMemoryOperationsComplete : Obligations.VectorMemoryOperationsComplete := by
  unfold Obligations.VectorMemoryOperationsComplete
  refine fun o s t ht => ⟨?_, ?_, fun b hb hety haux hfields =>
    ⟨fun h hspans es ss => exec_vldmx hb hety haux hfields h hspans, exec_vstmx hb hety haux hfields⟩⟩
  · intro row hrow h hfields hspans ha hst parts hparts
    rw [exec_of_mem_vloads hrow]
    exact issued_ok h (vload_ok ht hfields ha hst hspans hparts) (rget_vResult ..)
  · intro row hrow h hfields hspans ha hst hscratch
    rw [exec_of_mem_vstores hrow]
    exact issued_ok h (vstore_ok ht hfields ha hst hspans hscratch) rfl

end Sys2Proof.Machine
end

section
/-! What the completion of a vector store writes, and what it leaves (R64, R72, R108, R110, R112 to R114). -/
namespace Sys2Proof.Machine

/-! ### What a write of the tile store may touch -/

/-- Of the whole state only the tile stores changed and, of the tiles, which lines are written and which are bad. -/
structure OnlyStore (s t : State) : Prop where
  rest : t = { s with store := t.store, tiles := t.tiles }
  tile : ∀ j, tileGet t j = { tileGet s j with written := (tileGet t j).written, badLines := (tileGet t j).badLines }

namespace OnlyStore
variable {s t u : State}

theorem refl (s : State) : OnlyStore s s := ⟨rfl, fun _ => rfl⟩

theorem trans (h : OnlyStore s t) (k : OnlyStore t u) : OnlyStore s u where
  rest := by
    have e := k.rest
    rw [h.rest] at e
    exact e
  tile := fun j => by
    have e := k.tile j
    rw [h.tile j] at e
    exact e

theorem mem (h : OnlyStore s t) : t.mem = s.mem := by rw [h.rest]

theorem foldl {α : Type} {g : State → α → State} (hg : ∀ s x, OnlyStore s (g s x)) (l : List α) (s : State) :
    OnlyStore s (l.foldl g s) := by
  induction l generalizing s with
  | nil => exact refl s
  | cons x l ih => exact (hg s x).trans (ih _)

end OnlyStore

/-- Setting the lines of a tile that are written and those that are bad touches nothing else of it. -/
theorem tileSet_lines_only (k : Nat) (written badLines : List Nat) (m : Mem) (s : State) :
    OnlyStore s (tileSet k { tileGet s k with written := written, badLines := badLines } { s with store := m }) where
  rest := rfl
  tile := fun j => by
    by_cases hj : j = k
    · subst hj
      rw [tileGet_tileSet]
    · rw [tileGet_tileSet_other _ _ _ _ hj]
      rfl

theorem openLine_only (k : Nat) (s : State) (l : Nat) : OnlyStore s (openLine k s l) := by
  unfold openLine
  extract_lets τ τ'
  split
  · exact tileSet_lines_only ..
  · exact tileSet_lines_only k τ.written _ s.store s

theorem storeWrite_only (k a : Nat) (bs : List Byte) (s : State) : OnlyStore s (storeWrite k a bs s) :=
  (OnlyStore.foldl (openLine_only k) _ s).trans ⟨rfl, fun _ => rfl⟩

theorem payOwed_only (k : Nat) (ws : List Owed) (s : State) : OnlyStore s (payOwed k ws s) :=
  OnlyStore.foldl (g := fun s (w : Owed) => storeWrite k w.addr w.bytes s) (fun s w => storeWrite_only k w.addr w.bytes s) ws s

/-- The size of a resident region is the same in states that hold the same store. -/
theorem residentBytes_of_store {s t : State} (hstore : t.store = s.store) (j : Nat) : residentBytes t j = residentBytes s j := by
  unfold residentBytes
  rw [hstore]

/-- A byte of the tile store reads the same in states that hold the same store and the same written lines. -/
theorem storeByte_congr {s t : State} (hstore : t.store = s.store)
    (hwritten : ∀ j, (tileGet t j).written = (tileGet s j).written) (j a : Nat) : storeByte t j a = storeByte s j a := by
  unfold storeByte
  rw [residentBytes_of_store hstore, hwritten, hstore]

/-! ### Defaults of a list's places -/

theorem getD_of_length_le {α : Type} {l : List α} {i : Nat} (h : l.length ≤ i) (d : α) : l.getD i d = d := by
  rw [List.getD_eq_getElem?_getD, List.getElem?_eq_none h, Option.getD_none]

/-- The default does not matter where the place is filled. -/
theorem getD_of_lt_length {α : Type} {l : List α} {i : Nat} (h : i < l.length) (d d' : α) : l.getD i d = l.getD i d' := by
  rw [List.getD_eq_getElem?_getD, List.getD_eq_getElem?_getD, List.getElem?_eq_getElem h, Option.getD_some, Option.getD_some]

/-! ### What paying the writes owed leaves to a reader -/

theorem owedByte_cons (w : Owed) (ws : List Owed) (a : Nat) (b : Byte) :
    owedByte (w :: ws) a b = owedByte ws a (if w.addr ≤ a then w.bytes.getD (a - w.addr) b else b) := rfl

/-- Writes that do not cover an address owe it nothing. -/
theorem owedByte_of_not_covered {ws : List Owed} {a : Nat} (h : ∀ w ∈ ws, a < w.addr ∨ w.addr + w.bytes.length ≤ a) (b : Byte) :
    owedByte ws a b = b := by
  induction ws generalizing b with
  | nil => rfl
  | cons w ws ih =>
    have hstep : (if w.addr ≤ a then w.bytes.getD (a - w.addr) b else b) = b := by
      split
      · have := h w List.mem_cons_self
        exact getD_of_length_le (by omega) b
      · rfl
    rw [owedByte_cons, hstep]
    exact ih (fun w hw => h w (List.mem_cons_of_mem _ hw)) b

/-- Once what is owed within the scratch region is paid, every byte of the tile reads as a later read of the same unit saw it before
(R72, R113); the other tiles' bytes are left. -/
theorem storeByte_payOwed {k : Nat} {ws : List Owed} {s : State} (hwf : Mem.wf s.store = true) (hres : 0 < residentBytes s k)
    (hfit : ∀ w ∈ ws, residentBytes s k ≤ w.addr ∧ w.addr + w.bytes.length ≤ storeBytes) (j : Nat) {c : Nat} (hc : c < storeBytes) :
    storeByte (payOwed k ws s) j c = if j = k then owedByte ws c (storeByte s j c) else storeByte s j c := by
  induction ws generalizing s with
  | nil => exact (ite_self _).symm
  | cons w ws ih =>
    obtain ⟨hlo, hhi⟩ := hfit w List.mem_cons_self
    obtain ⟨hwf', hres', hbyte⟩ := storeWrite_spec k w.addr w.bytes s hwf hres hlo hhi
    refine (ih (s := storeWrite k w.addr w.bytes s) hwf' (by rw [hres']; exact hres)
      fun w hw => by rw [hres']; exact hfit w (List.mem_cons_of_mem _ hw)).trans ?_
    rw [hbyte j c hc, owedByte_cons]
    by_cases hj : j = k
    · rw [if_pos hj, if_pos hj]
      refine congrArg (owedByte ws c) ?_
      by_cases hin : w.addr ≤ c ∧ c < w.addr + w.bytes.length
      · rw [if_pos ⟨hj, hin⟩, if_pos hin.1]
        exact getD_of_lt_length (by omega) _ _
      · rw [if_neg fun h => hin h.2]
        split
        · exact (getD_of_length_le (by omega) _).symm
        · rfl
    · rw [if_neg hj, if_neg hj, if_neg fun h => hj h.1]

/-! ### Elements one after the other -/

/-- What is owed for elements from element `k` upward, one after the other from address `a`. -/
def owedFrom (a bytes k : Nat) (vs : List (Option Nat)) : List Owed :=
  (vs.zipIdx k).filterMap fun p => p.1.map fun v => ⟨a + p.2 * bytes, leBytes bytes v⟩

theorem owedElems_contiguous (a st bytes : Nat) (vs : List (Option Nat)) :
    owedElems (vPlace false a st bytes) bytes vs vs.length = owedFrom a bytes 0 vs := by
  rw [owedElems, owedFrom, List.zipIdx_eq_zip_range', List.range_eq_range']
  rfl

theorem owedFrom_none (a bytes k : Nat) (vs : List (Option Nat)) :
    owedFrom a bytes k (none :: vs) = owedFrom a bytes (k + 1) vs := rfl

theorem owedFrom_some (a bytes k v : Nat) (vs : List (Option Nat)) :
    owedFrom a bytes k (some v :: vs) = ⟨a + k * bytes, leBytes bytes v⟩ :: owedFrom a bytes (k + 1) vs := rfl

/-- Each write owed lies within its elements. -/
theorem mem_owedFrom {a bytes k : Nat} {vs : List (Option Nat)} {w : Owed} (h : w ∈ owedFrom a bytes k vs) :
    w.bytes.length = bytes ∧ a + k * bytes ≤ w.addr ∧ w.addr + bytes ≤ a + (k + vs.length) * bytes := by
  obtain ⟨⟨v, i⟩, hp, hw⟩ := List.mem_filterMap.1 h
  obtain ⟨x, rfl, rfl⟩ := Option.map_eq_some_iff.1 hw
  obtain ⟨hlo, hhi, _⟩ := List.mem_zipIdx hp
  have h1 : k * bytes ≤ i * bytes := Nat.mul_le_mul_right _ hlo
  have h2 : (i + 1) * bytes ≤ (k + vs.length) * bytes := Nat.mul_le_mul_right _ hhi
  rw [Nat.succ_mul] at h2
  exact ⟨leBytes_length _ _, by simp only; omega, by simp only; omega⟩

/-- What an element's byte is owed: the byte of its value, or nothing where it is left out. -/
theorem owedByte_owedFrom {a bytes k : Nat} {vs : List (Option Nat)} {i b : Nat} (hi : i < vs.length) (hb : b < bytes) (x : Byte) :
    owedByte (owedFrom a bytes k vs) (a + (k + i) * bytes + b) x
      = match vs.getD i none with
        | none => x
        | some v => (leBytes bytes v).getD b 0 := by
  induction vs generalizing k i x with
  | nil => cases hi
  | cons v vs ih =>
    have hnext : (k + 1) * bytes = k * bytes + bytes := Nat.succ_mul _ _
    cases i with
    | zero =>
      rw [Nat.add_zero]
      have hrest : ∀ y, owedByte (owedFrom a bytes (k + 1) vs) (a + k * bytes + b) y = y :=
        owedByte_of_not_covered fun w hw => .inl (by have := (mem_owedFrom hw).2.1; omega)
      cases v with
      | none =>
        rw [owedFrom_none]
        exact hrest x
      | some v =>
        have hlen := leBytes_length bytes v
        rw [owedFrom_some, owedByte_cons, hrest, if_pos (Nat.le_add_right _ _), Nat.add_sub_cancel_left, List.getD_cons_zero]
        exact getD_of_lt_length (show b < (leBytes bytes v).length by omega) x 0
    | succ i =>
      have hi' : i < vs.length := by simpa using hi
      rw [show k + (i + 1) = k + 1 + i by omega, List.getD_cons_succ]
      cases v with
      | none =>
        rw [owedFrom_none]
        exact ih hi' x
      | some v =>
        have hpast : k * bytes + bytes ≤ (k + 1 + i) * bytes := by rw [← hnext]; exact Nat.mul_le_mul_right _ (by omega)
        have hlen := leBytes_length bytes v
        have hhead : (if a + k * bytes ≤ a + (k + 1 + i) * bytes + b then
            (leBytes bytes v).getD (a + (k + 1 + i) * bytes + b - (a + k * bytes)) x else x) = x := by
          rw [if_pos (by omega)]
          exact getD_of_length_le (by omega) x
        rw [owedFrom_some, owedByte_cons, hhead]
        exact ih hi' x

/-! ### VST (R110, R112 to R114) -/

theorem readN_getD {m : Mem} {a n b : Nat} (hb : b < n) : (Mem.readN m a n).getD b 0 = Mem.read m (a + b) := by
  induction n generalizing a b with
  | zero => cases hb
  | succ n ih =>
    cases b with
    | zero => rfl
    | succ b =>
      rw [Mem.readN, List.getD_cons_succ, ih (by omega), show a + 1 + b = a + (b + 1) by omega]

/-- The bytes of the number that bytes spell are those bytes. -/
theorem leBytes_ofLe (l : List Byte) : leBytes l.length (ofLe l) = l := by
  induction l with
  | nil => rfl
  | cons x l ih =>
    have hx := x.isLt
    have hhead : BitVec.ofNat 8 (x.toNat + 256 * ofLe l) = x := BitVec.eq_of_toNat_eq (by simp; omega)
    have htail : (x.toNat + 256 * ofLe l) / 256 = ofLe l := by omega
    rw [List.length_cons, ofLe, leBytes, hhead, htail, ih]

theorem readN_length (m : Mem) (a n : Nat) : (Mem.readN m a n).length = n := by
  induction n generalizing a with
  | zero => rfl
  | succ n ih => simp [Mem.readN, ih]

/-- Storing an element that was read from registers stores the bytes read. -/
theorem leBytes_ofLe_readN_getD (m : Mem) (a : Nat) {n b : Nat} (hb : b < n) :
    (leBytes n (ofLe (Mem.readN m a n))).getD b 0 = Mem.read m (a + b) := by
  have hbytes := leBytes_ofLe (Mem.readN m a n)
  rw [readN_length] at hbytes
  rw [hbytes, readN_getD hb]

theorem storedElems_length (τ : Tile) (f : FmtV) (bytes : Nat) : (storedElems τ f bytes).length = f.n := by
  have hact := actives_length τ f
  rw [storedElems, predicated_length f (by rw [List.length_map, telems_length, hact]), hact]

/-- What a store makes of element `e`. -/
theorem storedElems_getD (τ : Tile) {f : FmtV} (bytes : Nat) {e : Nat} (he : e < f.n) :
    (storedElems τ f bytes).getD e none
      = if (actives τ f).getD e false then some (ofLe (Mem.readN τ.t (f.d * 4096 + e * bytes) bytes))
        else if f.zm then some 0 else none := by
  simp [storedElems, predicated, telems, actives, FRes.plain, List.getD_eq_getElem?_getD, he]

theorem leBytes_zero_getD (n b : Nat) : (leBytes n 0).getD b 0 = 0 := by
  induction n generalizing b with
  | zero => rfl
  | succ n ih =>
    cases b with
    | zero => rfl
    | succ b => exact ih b

/-- A store that does not stop its tile lies in the scratch region, and enters the queue with its elements. -/
theorem vstore_contiguous_inv {o : TileOp} {s t : State} {u : EType} (hu : etypeOf (fmtV o.w).ety = some u)
    (h : vstore false o s = .ok t) :
    scratchOk s o.tile (xnat s o.tile (fmtV o.w).a) ((fmtV o.w).n * u.bytes) = true
    ∧ t = vecQueued o.tile (owedFrom (xnat s o.tile (fmtV o.w).a) u.bytes 0 (storedElems (tileGet s o.tile) (fmtV o.w) u.bytes)) s := by
  obtain ⟨_, h⟩ := need_ok h
  obtain ⟨u', hu', _, h⟩ := etypeIn_ok h
  obtain rfl : u = u' := Option.some.inj (hu.symm.trans hu')
  obtain ⟨_, h⟩ := need_ok h
  obtain ⟨_, h⟩ := need_ok h
  obtain ⟨hscratch, h⟩ := need_ok h
  have howed := owedElems_contiguous (xnat s o.tile (fmtV o.w).a) 0 u.bytes (storedElems (tileGet s o.tile) (fmtV o.w) u.bytes)
  rw [storedElems_length] at howed
  refine ⟨List.all_eq_true.1 hscratch _ List.mem_cons_self, ?_⟩
  rw [← howed]
  exact (Except.ok.inj h).symm

/-- VST on a tile that issues it stops the tile, or only queues what it owes and moves on. -/
theorem exec_vst_inv {o : TileOp} {s t : State} {u : EType} (h : Issues o .vecStore s) (hu : etypeOf (fmtV o.w).ety = some u)
    (ht : exec (.vst o) s = .next t) :
    (∃ e, t = tileStop o.tile e s)
    ∨ scratchOk s o.tile (xnat s o.tile (fmtV o.w).a) ((fmtV o.w).n * u.bytes) = true
      ∧ t = pcNext o.tile (vecQueued o.tile
          (owedFrom (xnat s o.tile (fmtV o.w).a) u.bytes 0 (storedElems (tileGet s o.tile) (fmtV o.w) u.bytes)) s) := by
  change issued o .vecStore (vstore false o) s = .next t at ht
  cases hbody : vstore false o s with
  | error e =>
    rw [issued_error h hbody] at ht
    cases ht
    exact .inl ⟨e, rfl⟩
  | ok t' =>
    obtain ⟨hscratch, rfl⟩ := vstore_contiguous_inv hu hbody
    rw [issued_ok h hbody rfl] at ht
    cases ht
    exact .inr ⟨hscratch, rfl⟩

/-! ### VECTOR_STORE_COMPLETE (R72, R92, R113) -/

/-- The oldest vector store writes what it owes, and VEC rises. -/
theorem exec_vectorStoreComplete {tile : Nat} {ws : List Owed} {rest : List (List Owed)} {s : State}
    (h : (tileGet s tile).vecQ = ws :: rest) :
    exec (.vectorStoreComplete tile) s = .next (tileRest tile (doneBump tile 4 1
      (payOwed tile ws (tileMod tile (fun τ => { τ with vecQ := rest }) s)))) := by
  change execVectorStoreComplete tile s = _
  simp only [execVectorStoreComplete, h]

/-- Coming to rest changes registers alone. -/
theorem tileRest_regs_only (t : Nat) (s : State) : tileRest t s = { s with regs := (tileRest t s).regs } := by
  unfold tileRest
  split <;> rfl

@[simp] theorem tileGet_tileRest (t j : Nat) (s : State) : tileGet (tileRest t s) j = tileGet s j := by
  rw [tileRest_regs_only]
  rfl

/-- Raising a completion counter leaves the rest of every tile. -/
theorem tileGet_doneBump (t k n j : Nat) (s : State) :
    tileGet (doneBump t k n s) j = { tileGet s j with done := (tileGet (doneBump t k n s) j).done } := by
  unfold doneBump tileMod
  by_cases hj : j = t
  · subst hj
    rw [tileGet_tileSet]
  · rw [tileGet_tileSet_other _ _ _ _ hj]

/-- Setting a tile's queue of vector stores leaves the rest of every tile. -/
theorem tileGet_vecSet (t j : Nat) (q : List (List Owed)) (s : State) :
    tileGet (tileSet t { tileGet s t with vecQ := q } s) j
      = { tileGet s j with vecQ := if j = t then q else (tileGet s j).vecQ } := by
  by_cases hj : j = t
  · subst hj
    rw [tileGet_tileSet, if_pos rfl]
  · rw [tileGet_tileSet_other _ _ _ _ hj, if_neg hj]

/-- What a completion leaves: memory, and every part of a tile but its counters, its queue of vector stores and its lines; the
bytes of the store are those that paying what is owed gives. -/
theorem vectorStoreComplete_leaves {tile : Nat} {ws : List Owed} {rest : List (List Owed)} {s w : State}
    (hw : w = tileRest tile (doneBump tile 4 1 (payOwed tile ws (tileMod tile (fun τ => { τ with vecQ := rest }) s)))) :
    w.mem = s.mem ∧ (tileGet w tile).vecQ = rest ∧ (tileGet w tile).x = (tileGet s tile).x
    ∧ (tileGet w tile).t = (tileGet s tile).t ∧ (tileGet w tile).p = (tileGet s tile).p
    ∧ ∀ j a, storeByte w j a = storeByte (payOwed tile ws (tileMod tile (fun τ => { τ with vecQ := rest }) s)) j a := by
  have hpay := payOwed_only tile ws (tileMod tile (fun τ => { τ with vecQ := rest }) s)
  have htile : tileGet w tile = { tileGet s tile with
      vecQ := rest, done := (tileGet w tile).done, written := (tileGet w tile).written, badLines := (tileGet w tile).badLines } := by
    rw [hw, tileGet_tileRest, tileGet_doneBump, hpay.tile, tileMod, tileGet_vecSet, if_pos rfl]
  refine ⟨?_, by rw [htile], by rw [htile], by rw [htile], by rw [htile], storeByte_congr ?_ fun j => ?_⟩
  · rw [hw, tileRest_regs_only]
    exact hpay.mem
  · rw [hw, tileRest_regs_only]
    rfl
  · rw [hw, tileGet_tileRest, tileGet_doneBump]

/-- A completion writes the elements that the store owes, and no other byte (R64, R110, R113, R114). -/
theorem storeByte_after_owedFrom {k a bytes : Nat} {vs : List (Option Nat)} {s : State} (hwf : Mem.wf s.store = true)
    (hres : 0 < residentBytes s k) (hscratch : scratchOk s k a (vs.length * bytes) = true) :
    (∀ j c, c < storeBytes → ¬ (j = k ∧ a ≤ c ∧ c < a + vs.length * bytes) →
      storeByte (payOwed k (owedFrom a bytes 0 vs) s) j c = storeByte s j c)
    ∧ (∀ e b, e < vs.length → b < bytes → storeByte (payOwed k (owedFrom a bytes 0 vs) s) k (a + e * bytes + b)
        = match vs.getD e none with
          | none => storeByte s k (a + e * bytes + b)
          | some v => (leBytes bytes v).getD b 0) := by
  simp only [scratchOk, Bool.and_eq_true, decide_eq_true_eq] at hscratch
  obtain ⟨hlo, hhi⟩ := hscratch
  have hin : ∀ w ∈ owedFrom a bytes 0 vs, w.bytes.length = bytes ∧ a ≤ w.addr ∧ w.addr + bytes ≤ a + vs.length * bytes := by
    intro w hw
    have := mem_owedFrom hw
    rw [Nat.zero_mul, Nat.add_zero, Nat.zero_add] at this
    exact this
  have hfit : ∀ w ∈ owedFrom a bytes 0 vs, residentBytes s k ≤ w.addr ∧ w.addr + w.bytes.length ≤ storeBytes := by
    intro w hw
    obtain ⟨hlen, ha, hb⟩ := hin w hw
    exact ⟨Nat.le_trans hlo ha, by omega⟩
  refine ⟨fun j c hc hout => ?_, fun e b he hb => ?_⟩
  · rw [storeByte_payOwed hwf hres hfit j hc]
    split
    next hj =>
      refine owedByte_of_not_covered (fun w hw => ?_) _
      obtain ⟨hlen, ha, hb⟩ := hin w hw
      have hnot : ¬ (a ≤ c ∧ c < a + vs.length * bytes) := fun hcov => hout ⟨hj, hcov⟩
      omega
    next => rfl
  · have hlast : (e + 1) * bytes ≤ vs.length * bytes := Nat.mul_le_mul_right _ he
    rw [Nat.succ_mul] at hlast
    have helem := owedByte_owedFrom (a := a) (k := 0) he hb (storeByte s k (a + e * bytes + b))
    rw [Nat.zero_add] at helem
    rw [storeByte_payOwed hwf hres hfit k (by omega), if_pos rfl, helem]

/-- VST leaves memory, the tile stores, every register but TILE_STATUS of its tile, and every part of the tile but its queue of
vector stores. -/
theorem vst_leaves {k : Nat} {ws : List Owed} {s t : State} (hk : k < 65536) (ht : t = pcNext k (vecQueued k ws s)) :
    t.mem = s.mem ∧ (∀ a n, memRead t a n = memRead s a n)
    ∧ (∀ (r : RegName) (i : Nat), i < 65536 → ¬ (i = k ∧ r = .tileStatus) → rget t r i = rget s r i)
    ∧ (tileGet t k).x = (tileGet s k).x ∧ (tileGet t k).t = (tileGet s k).t ∧ (tileGet t k).p = (tileGet s k).p
    ∧ (∀ j a, storeByte t j a = storeByte s j a) ∧ (tileGet t k).vecQ = (tileGet s k).vecQ ++ [ws] := by
  have htile : ∀ j, tileGet t j
      = { tileGet s j with vecQ := if j = k then (tileGet s k).vecQ ++ [ws] else (tileGet s j).vecQ } := by
    intro j
    rw [ht, tileGet_pcNext]
    exact tileGet_vecSet k j _ s
  refine ⟨by rw [ht]; rfl, SameMem.memRead_eq (by rw [ht]; exact ⟨rfl, rfl⟩), fun r i hi hr => ?_, by rw [htile], by rw [htile],
    by rw [htile], storeByte_congr (by rw [ht]; rfl) fun j => by rw [htile], by rw [htile, if_pos rfl]⟩
  rw [ht]
  exact rget_fset_other _ F.tileStatus_pc r k i _ (fun e => hr ⟨e.2, e.1⟩) hk hi

/-- A byte of an element after the completion: what the register held, zero, or what the tile store held (R110). -/
theorem storedElems_byte (τ : Tile) (f : FmtV) (bytes : Nat) {e b : Nat} (he : e < f.n) (hb : b < bytes) (x : Byte) :
    (match (storedElems τ f bytes).getD e none with
      | none => x
      | some v => (leBytes bytes v).getD b 0)
      = if (actives τ f).getD e false then Mem.read τ.t (f.d * 4096 + e * bytes + b) else if f.zm then 0 else x := by
  rw [storedElems_getD τ bytes he]
  by_cases hact : (actives τ f).getD e false = true
  · rw [if_pos hact, if_pos hact]
    exact leBytes_ofLe_readN_getD _ _ hb
  · rw [if_neg hact, if_neg hact]
    by_cases hzm : f.zm = true
    · rw [if_pos hzm, if_pos hzm]
      exact leBytes_zero_getD _ _
    · rw [if_neg hzm, if_neg hzm]

/-- Settles O51: VST only queues what it owes, and the completion writes the elements owed. -/
theorem vectorStoreWritesItsElementsOnly : Obligations.VectorStoreWritesItsElementsOnly := by
  unfold Obligations.VectorStoreWritesItsElementsOnly
  intro o s t u h hu ht
  refine (exec_vst_inv h hu ht).imp_right ?_
  rintro ⟨hscratch, ht⟩
  obtain ⟨hmem, hread, hregs, hx, htr, hp, hbyte, hq⟩ := vst_leaves (tile_lt_of_canIssue h.can) ht
  refine ⟨hmem, hread, hregs, hx, htr, hp, hbyte, _, hq, fun rest v hvq hwf hpos hsame => ?_⟩
  obtain ⟨hmem', hq', hx', htr', hp', hpaid⟩ := vectorStoreComplete_leaves (tile := o.tile) (rest := rest) (s := v) rfl
  obtain ⟨hout, hin⟩ := storeByte_after_owedFrom (k := o.tile) (a := xnat s o.tile (fmtV o.w).a) (bytes := u.bytes)
    (vs := storedElems (tileGet s o.tile) (fmtV o.w) u.bytes) (s := tileMod o.tile (fun τ => { τ with vecQ := rest }) v) hwf hpos
    (by rw [storedElems_length]; unfold scratchOk at hscratch ⊢; rw [← hscratch, ← hsame]; rfl)
  have hbefore : ∀ j a, storeByte (tileMod o.tile (fun τ => { τ with vecQ := rest }) v) j a = storeByte v j a :=
    storeByte_congr rfl fun j => by rw [tileMod, tileGet_vecSet]
  simp only [storedElems_length] at hout hin
  refine ⟨_, exec_vectorStoreComplete hvq, hmem', hq', hx', htr', hp', fun j a ha hnot => ?_, fun e b he hb => ?_⟩
  · rw [hpaid, hout j a ha hnot, hbefore]
  · rw [hpaid, hin e b he hb, hbefore]
    exact storedElems_byte _ _ _ he hb _

end Sys2Proof.Machine
end

section
/-! Tensor transfers and the tile's own events (R72, R86 to R92, R95, R100): what each answers. -/
namespace Sys2Proof.Machine

/-! ### What a write of device memory leaves of the tiles (R279 to R289)

A write of device memory counts, queues and records at its controllers, and changes no tile. -/

theorem tiles_ite {c : Prop} [Decidable c] {s t u : State} (ht : t.tiles = s.tiles) (hu : u.tiles = s.tiles) :
    (if c then t else u).tiles = s.tiles :=
  on_ite (P := fun v : State => v.tiles = s.tiles) ht hu

theorem tiles_foldl {α : Type} {g : State → α → State} (hg : ∀ s x, (g s x).tiles = s.tiles) (l : List α) (s : State) :
    (l.foldl g s).tiles = s.tiles := by
  induction l generalizing s with
  | nil => rfl
  | cons x l ih => exact (ih _).trans (hg s x)

theorem tiles_fwrap (f o : Fld) (i k : Nat) (s : State) : (fwrap f o i k s).tiles = s.tiles := by
  unfold fwrap
  extract_lets n t
  split <;> rfl

theorem tiles_slcMem (a cls n : Nat) (s : State) : (slcMem a cls n s).tiles = s.tiles := by
  unfold slcMem slcServe
  extract_lets k total t t'
  split <;> rfl

theorem tiles_memcRecord (c k cls a : Nat) (p : Option Nat) (i : Bool) (s : State) : (memcRecord c k cls a p i s).tiles = s.tiles :=
  (logErr_only ..).tiles

theorem tiles_memcErr (c k a : Nat) (s : State) : (memcErr c k a s).tiles = s.tiles := by
  unfold memcErr firstErr
  split
  · rfl
  · exact tiles_foldl (g := fun s (p : Fld × Nat) => fset p.1 (ctlReg c) p.2 s) (fun _ _ => rfl) _ s

theorem tiles_ledgerWrite (s : State) : (ledgerWrite s).tiles = s.tiles := by
  unfold ledgerWrite
  split <;> rfl

theorem tiles_reportPage (q : Nat) (s : State) : (reportPage q s).tiles = s.tiles :=
  (tiles_memcRecord ..).trans (tiles_memcErr ..)

theorem tiles_retirePage (q : Nat) (s : State) : (retirePage q s).tiles = s.tiles := by
  unfold retirePage
  extract_lets page i l t x l' t'
  have ht' : t'.tiles = s.tiles := tiles_ite rfl rfl
  exact tiles_ite (tiles_ite rfl (tiles_ledgerWrite _))
    (tiles_ite rfl (tiles_ite (tiles_reportPage ..) ((tiles_ledgerWrite _).trans ht')))

theorem tiles_queueRepair (q : Nat) (s : State) : (queueRepair q s).tiles = s.tiles := by
  unfold queueRepair
  extract_lets c
  exact tiles_ite rfl (tiles_ite (tiles_retirePage ..) rfl)

theorem tiles_loseSector (q : Nat) (s : State) : (loseSector q s).tiles = s.tiles := by
  unfold loseSector
  extract_lets c
  exact tiles_ite rfl (tiles_ite ((tiles_retirePage ..).trans ((tiles_memcRecord ..).trans (tiles_memcErr ..))) rfl)

theorem tiles_spoil (p : Nat) (r : SpoilSrc) (i : Bool) (s : State) : (spoil p r i s).tiles = s.tiles := by
  unfold spoil
  split <;> rfl

theorem tiles_memUncorrectable (a k : Nat) (p : Option Nat) (i : Bool) (s : State) :
    (memUncorrectable a k p i s).tiles = s.tiles := by
  unfold memUncorrectable
  extract_lets c t live t' v
  have ht' : t'.tiles = s.tiles := (tiles_memcRecord ..).trans (tiles_memcErr ..)
  have hv : v.tiles = s.tiles := tiles_ite ht' ((tiles_queueRepair ..).trans ht')
  cases p with
  | none => exact hv
  | some q => exact tiles_ite ((tiles_spoil ..).trans hv) hv

theorem tiles_interfaceTries (q n : Nat) (s : State) : (interfaceTries q n s).2.tiles = s.tiles := by
  unfold interfaceTries
  extract_lets c h t
  have ht : t.tiles = s.tiles := tiles_ite rfl rfl
  exact on_ite (P := fun x : Bool × State => x.2.tiles = s.tiles) ht ht

theorem tiles_refreshReport (c : Nat) (u : MemUpset) (s : State) : (refreshReport c u s).tiles = s.tiles := by
  unfold refreshReport
  split <;> rfl

theorem tiles_partWrite (q : Nat) (u : MemUpset) (s : State) : (partWrite q u s).tiles = s.tiles := by
  unfold partWrite
  extract_lets c
  have h := (tiles_interfaceTries q u.writeErrors _).trans (tiles_refreshReport c u s)
  revert h
  generalize interfaceTries q u.writeErrors (refreshReport c u s) = r
  obtain ⟨stop, t⟩ := r
  intro h
  exact tiles_ite ((tiles_loseSector ..).trans ((tiles_memUncorrectable ..).trans h))
    ((emit_tiles ..).trans ((tiles_fwrap ..).trans h))

theorem tiles_wcWrite (q o n : Nat) (u : MemUpset) (s : State) : (wcWrite q o n u s).tiles = s.tiles := by
  unfold wcWrite
  extract_lets c l rest t old bytes l'
  split
  · exact tiles_partWrite ..
  · split
    · exact tiles_partWrite ..
    · split
      · rfl
      · clear_value l'
        cases l'
        · rfl
        · exact (tiles_fwrap ..).trans ((tiles_partWrite ..).trans (tiles_fwrap ..))

theorem tiles_devWriteSector (a : Nat) (bs : List Byte) (cls : Nat) (u : MemUpset) (s : State) :
    (devWriteSector a bs cls u s).tiles = s.tiles := by
  unfold devWriteSector
  extract_lets put
  have hput : ∀ v : State, (put v).tiles = v.tiles := fun v => (tiles_wcWrite ..).trans (tiles_slcMem a cls bs.length v)
  exact tiles_ite rfl (tiles_ite (tiles_ite (hput _) rfl) (hput s))

theorem tiles_devWrite (cls fuel a : Nat) (bs : List Byte) (s : State) : (devWrite cls fuel a bs s).tiles = s.tiles := by
  induction fuel generalizing a bs s with
  | zero => rfl
  | succ fuel ih =>
    unfold devWrite
    exact tiles_ite rfl ((ih ..).trans (tiles_devWriteSector ..))

/-- Writing a store's bytes leaves every tile. -/
theorem tiles_storePieces (t : Nat) (x : Xfer) (s : State) : (storePieces t x s).tiles = s.tiles :=
  tiles_foldl (fun _ _ => tiles_devWrite ..) _ s

/-! ### TILE_STATUS after the operations of a transfer -/

theorem rget_perfCount {r : RegName} (hr : r ≠ .perfCnt) (ev field part n : Nat) {i : Nat} (hi : i < 65536) (s : State) :
    rget (perfCount ev field part n s) r i = rget s r i :=
  (perfCount_only ev field part n s).reads r i (by simpa using hr) hi

theorem rget_stageAllLogged {r : RegName} (hr : r ∉ errRegs) (t p : Nat) (es : List Staged) {i : Nat} (hi : i < 65536) (s : State) :
    rget (stageAllLogged t p es s) r i = rget s r i := by
  unfold stageAllLogged
  extract_lets was u
  split
  · exact (logErr_only ..).reads r i hr hi
  · rfl

theorem rget_retireStores (t : Nat) (s : State) (r : RegName) (i : Nat) : rget (retireStores t s) r i = rget s r i := by
  unfold retireStores
  extract_lets τ n
  split <;> rfl

/-- Filling the missing translations of a transfer counts the walks, and changes no other register (R87). -/
theorem rget_fillAll {r : RegName} (hr : r ≠ .perfCnt) {t c : Nat} {store : Bool} {pages : List Nat} {x z : Xfer} {s u : State}
    (h : fillAll t c store pages x s = .ok (z, u)) {i : Nat} (hi : i < 65536) : rget u r i = rget s r i := by
  induction pages generalizing x s with
  | nil =>
    cases h
    rfl
  | cons page pages ih =>
    unfold fillAll at h
    split at h
    · exact ih h
    · obtain ⟨tr, _, h⟩ := bind_ok h
      exact (ih h).trans (rget_perfCount hr _ _ _ _ hi s)

/-! ### Transfers enter their queues (R86 to R90) -/

section Transfers
variable {o : TileOp} {s : State} {x : Xfer}

theorem exec_tld (h : Issues o .load s) (hops : tensorOperands s o true = .ok x) :
    exec (.tld o) s
      = .next (pcNext o.tile (tileMod o.tile (fun τ => { τ with ldQ := τ.ldQ ++ [x.start τ false] }) s)) :=
  issued_ok h (ok_bind hops rfl) rfl

variable {bs : List Byte} (h : Issues o .store s) (hops : tensorOperands s o false = .ok x)
  (hread : loadBytes s o.tile x.ts x.bytes = .ok bs)
include h hops hread

theorem exec_tst {y : Xfer} (hy : y = Xfer.start (tileGet s o.tile) true { x with data := bs }) (hdevice : y.touchesHost = false) :
    exec (.tst o) s = .next (pcNext o.tile (tileMod o.tile (fun τ => { τ with stQ := τ.stQ ++ [y] }) s)) := by
  subst hy
  exact issued_ok h (ok_bind hops <| ok_bind hread <| need_bind (by rw [hdevice]; rfl) rfl) rfl

/-- A staged store fills its translations, hands its pieces to staging, and is accepted at once (R90). -/
theorem exec_tstS {y z : Xfer} {t : State} (hy : y = Xfer.start (tileGet s o.tile) true { x with data := bs })
    (hfill : fillAll o.tile (tileGet s o.tile).ctx true y.todo y s = .ok (z, t)) :
    let u := stageAllLogged o.tile (partOfTile t o.tile) (stagePieces o.tile (tileGet s o.tile).ctx z) t
    exec (.tstS o) s = .next (pcNext o.tile (retireStores o.tile (tileMod o.tile
      (fun τ => { τ with stQ := τ.stQ ++ [{ z with done := true, data := [] }] })
      (perfCount 7 (fieldOf o.tile) (partOfTile u o.tile) z.bytes u)))) := by
  intro u
  have hi := tile_lt_of_canIssue h.can
  subst hy
  refine issued_ok h (ok_bind hops <| ok_bind hread <| ok_bind hfill rfl) ?_
  rw [rget_retireStores, rget_tileMod, rget_perfCount (by decide) _ _ _ _ hi, rget_stageAllLogged (by decide) _ _ _ hi,
    rget_fillAll (by decide) hfill hi]

end Transfers

/-- A walk that finds a mapping gives the oldest load its page, and every other page that the mapping covers (R87). -/
theorem exec_tileTranslationFill_load {tile page : Nat} {rest : List Nat} {x : Xfer} {tr : Trans} {s : State}
    (hfind : (tileGet s tile).ldQ.find? (fun x => !x.todo.isEmpty) = some x) (htodo : x.todo = page :: rest)
    (hwalk : tileWalk s (tileGet s tile).ctx page false = .ok tr) :
    exec (.tileTranslationFill tile false) s = .next (tileMod tile (fun τ => { cacheAdd tr τ with
      ldQ := fillFirst (fun x => { x with trans := x.trans ++ [tr], todo := rest.filter fun k => !tr.covers k }) (cacheAdd tr τ).ldQ })
      (perfCount 8 (fieldOf tile) (partOfTile s tile) 1 s)) := by
  change execTileTranslationFill tile false s = _
  simp only [execTileTranslationFill, Bool.false_eq_true, if_false, hfind, htodo, hwalk, Bool.false_and]

/-! ### Completions (R72, R88, R89, R92, R95) -/

/-- The oldest load, with every translation and no channel that holds it, is in the tile store. -/
theorem exec_tldComplete {tile : Nat} {host : List Byte} {x : Xfer} {rest : List Xfer} {parts : List (Nat × List Byte)} {s t : State}
    (hq : (tileGet s tile).ldQ = x :: rest) (htodo : x.todo = []) (hheld : x.held s = false)
    (hhost : x.touchesHost = true → waitCause s (partOfTile s tile) = false)
    (hgather : gatherLoad (partOfTile s tile) (tileClass s tile) x x.pieces host s = (some parts, t)) :
    let u := parts.foldl (fun s q => storeWrite tile (x.ts + q.1) q.2 s) t
    exec (.tldComplete tile host) s = .next (tileRest tile (doneBump tile 1 1 (tileMod tile (fun τ => { τ with ldQ := rest })
      (perfCount 6 (fieldOf tile) (partOfTile u tile) x.bytes u)))) := by
  have hlink : (x.touchesHost && waitCause s (partOfTile s tile)) = false := by
    cases hx : x.touchesHost with
    | false => rfl
    | true => exact hhost hx
  change execTldComplete tile host s = _
  simp only [execTldComplete, hq, htodo, hheld, hlink, hgather, List.isEmpty_nil, Bool.not_true, Bool.or_self, Bool.false_eq_true,
    if_false]

/-- The stores before the oldest one that awaits its acknowledgement are skipped by a search for it. -/
theorem find?_pending_store {before after : List Xfer} {x : Xfer} (hbefore : ∀ y ∈ before, y.done = true) (hdone : x.done = false)
    (hrefused : x.refused = false) :
    (before ++ x :: after).find? (fun x => !x.done && !x.refused) = some x := by
  rw [List.find?_append, List.find?_eq_none.2 fun y hy => by simp [hbefore y hy], Option.none_or]
  exact List.find?_cons_of_pos (by simp [hdone, hrefused])

/-- And by a change of it. -/
theorem storeMod_pending {before after : List Xfer} {x : Xfer} (f : Xfer → Xfer) (hbefore : ∀ y ∈ before, y.done = true)
    (hdone : x.done = false) (hrefused : x.refused = false) :
    storeMod f (before ++ x :: after) = before ++ f x :: after := by
  induction before with
  | nil => simp [storeMod, hdone, hrefused]
  | cons y before ih =>
    rw [List.cons_append, storeMod, hbefore y List.mem_cons_self, Bool.true_or, if_pos rfl,
      ih fun z hz => hbefore z (List.mem_cons_of_mem _ hz), List.cons_append]

/-- Retiring completed stores leaves the signals that wait. -/
theorem sigQ_retireStores (t : Nat) (s : State) : (tileGet (retireStores t s) t).sigQ = (tileGet s t).sigQ := by
  unfold retireStores
  extract_lets τ n
  split
  · rfl
  · rw [tileGet_doneBump, tileGet_tileSet]

/-- The oldest direct store that is not acknowledged, all of which its destination takes, on a tile with no signal waiting. -/
theorem exec_tstAck {tile : Nat} {x : Xfer} {before after : List Xfer} {s : State}
    (hq : (tileGet s tile).stQ = before ++ x :: after) (hbefore : ∀ y ∈ before, y.done = true) (hdone : x.done = false)
    (hrefused : x.refused = false) (htodo : x.todo = []) (hheld : x.held s = false) (hsig : (tileGet s tile).sigQ = [])
    (htaken : ∀ e ∈ stagePieces tile (tileGet s tile).ctx x, writeRefused s e.addr e.data.length = false) :
    let t := tileMod tile (fun τ => { τ with stQ := before ++ { x with done := true, data := [] } :: after, sigQ := [] })
      (storePieces tile x s)
    exec (.tstAck tile) s
      = .next (tileRest tile (perfCount 7 (fieldOf tile) (partOfTile t tile) x.bytes (retireStores tile t))) := by
  intro t
  have hnone : ((stagePieces tile (tileGet s tile).ctx x).any fun e => writeRefused s e.addr e.data.length) = false :=
    List.any_eq_false.2 fun e he => by rw [htaken e he]; exact Bool.false_ne_true
  have hfind := find?_pending_store (after := after) hbefore hdone hrefused
  have htile : tileGet (storePieces tile x s) tile = tileGet s tile := by
    unfold tileGet
    rw [tiles_storePieces]
  have hmod : tileMod tile (fun τ => { τ with
      stQ := storeMod (fun x => { x with done := true, data := [] }) τ.stQ
      sigQ := τ.sigQ.map fun g => { g with stores := g.stores - 1 } }) (storePieces tile x s) = t := by
    unfold t tileMod
    dsimp only
    rw [htile, hq, hsig, storeMod_pending _ hbefore hdone hrefused, List.map_nil]
  have hno : (tileGet (perfCount 7 (fieldOf tile) (partOfTile t tile) x.bytes (retireStores tile t)) tile).sigQ = [] := by
    have htiles := (perfCount_only 7 (fieldOf tile) (partOfTile t tile) x.bytes (retireStores tile t)).tiles
    unfold tileGet
    rw [htiles]
    refine (sigQ_retireStores tile t).trans ?_
    exact congrArg Tile.sigQ (tileGet_tileSet ..)
  change execTstAck tile s = _
  simp only [execTstAck, hq, hfind, htodo, hheld, hnone, List.isEmpty_nil, Bool.not_true, Bool.or_self, Bool.false_eq_true, if_false,
    hmod, hno, List.length_nil, drainSignals]

/-! ### The claim -/

/-- Settles O10, by the rule of each instruction and event. The moments at which bytes move are those of log entry 13. -/
theorem tensorInstructionsComplete : Obligations.TensorInstructionsComplete := by
  unfold Obligations.TensorInstructionsComplete
  refine ⟨fun o s x => ⟨exec_tld, fun bs h hops hread => ⟨exec_tst h hops hread rfl, fun z t hfill =>
      ⟨_, rfl, exec_tstS h hops hread rfl hfill⟩⟩⟩,
    fun tile page rest x tr s => exec_tileTranslationFill_load,
    fun tile host x rest parts s t => exec_tldComplete,
    fun tile x before after s => exec_tstAck,
    fun tile ws rest s => exec_vectorStoreComplete, fun tile line s htile hline => ?_⟩
  have hin : ¬ (numTiles ≤ tile ∨ residentBytes s tile ≤ line * 64) := by
    rintro (hout | hpast)
    · exact absurd htile (Nat.not_lt.2 hout)
    · exact absurd hline (Nat.not_lt.2 hpast)
  exact ⟨congrArg _ (if_neg hin), congrArg _ (if_neg hin)⟩

end Sys2Proof.Machine
end

section
/-! The vector engine's operations (R108 to R111, R115 to R128, R621): which body each instruction of the tables runs, and what each
answers on a tile that issues it undisturbed. -/
namespace Sys2Proof.Machine

/-! ### The body that the instructions of a table share -/

theorem boolWord_beq (a b : Word) : boolWord (a == b) = if a = b then 1 else 0 := by
  simp [boolWord]

theorem exec_of_mem_scalarRows {row : (TileOp → Instr) × (Word → Word → Word)} (hrow : row ∈ scalarRows) (o : TileOp) (s : State) :
    exec (row.1 o) s = issued o .vector (scalarOp o row.2) s := by
  simp only [scalarRows, ← boolWord_beq, List.mem_cons, List.not_mem_nil, or_false] at hrow
  obtain rfl | rfl | rfl | rfl | rfl | rfl | rfl | rfl | rfl | rfl | rfl | rfl | rfl | rfl | rfl | rfl := hrow <;> rfl

theorem exec_of_mem_floatRows {row : (TileOp → Instr) × (EType → Nat → Nat → FRes)} (hrow : row ∈ floatRows) (o : TileOp)
    (s : State) : exec (row.1 o) s = issued o .vector (vBinary o floatType EType.bytes row.2) s := by
  simp only [floatRows, List.mem_cons, List.not_mem_nil, or_false] at hrow
  obtain rfl | rfl | rfl | rfl | rfl := hrow <;> rfl

theorem exec_of_mem_intRows {row : (TileOp → Instr) × (EType → Nat → Nat → FRes)} (hrow : row ∈ intRows) (o : TileOp)
    (s : State) : exec (row.1 o) s = issued o .vector (vBinary o intType EType.bytes row.2) s := by
  simp only [intRows, List.mem_cons, List.not_mem_nil, or_false] at hrow
  obtain rfl | rfl | rfl | rfl | rfl | rfl | rfl | rfl | rfl | rfl := hrow <;> rfl

theorem exec_of_mem_bitRows {row : (TileOp → Instr) × (Nat → Nat → Nat)} (hrow : row ∈ bitRows) (o : TileOp) (s : State) :
    exec (row.1 o) s = issued o .vector (vBinary o anyType EType.bytes fun _ a b => FRes.plain (row.2 a b)) s := by
  simp only [bitRows, List.mem_cons, List.not_mem_nil, or_false] at hrow
  obtain rfl | rfl | rfl := hrow <;> rfl

theorem exec_of_mem_unaryRows {row : (TileOp → Instr) × (EType → Bool) × (EType → Nat → FRes)} (hrow : row ∈ unaryRows)
    (o : TileOp) (s : State) : exec (row.1 o) s = issued o .vector (vUnary o row.2.1 row.2.2) s := by
  simp only [unaryRows, List.mem_cons, List.not_mem_nil, or_false] at hrow
  obtain rfl | rfl | rfl | rfl | rfl | rfl | rfl | rfl | rfl | rfl := hrow <;> rfl

theorem exec_of_mem_fusedRows {row : (TileOp → Instr) × (EType → Nat → Nat → Nat → FRes)} (hrow : row ∈ fusedRows) (o : TileOp)
    (s : State) : exec (row.1 o) s = issued o .vector (vTernary o floatType row.2) s := by
  simp only [fusedRows, List.mem_cons, List.not_mem_nil, or_false] at hrow
  obtain rfl | rfl | rfl := hrow <;> rfl

theorem exec_of_mem_compareRows {row : (TileOp → Instr) × (EType → Nat → Nat → Bool)} (hrow : row ∈ compareRows) (o : TileOp)
    (s : State) : exec (row.1 o) s = issued o .vector (vCompare o row.2) s := by
  simp only [compareRows, List.mem_cons, List.not_mem_nil, or_false] at hrow
  obtain rfl | rfl | rfl | rfl | rfl | rfl := hrow <;> rfl

theorem exec_of_mem_predRows {row : (TileOp → Instr) × (Bool → Bool → Bool)} (hrow : row ∈ predRows) (o : TileOp) (s : State) :
    exec (row.1 o) s = issued o .vector (predOp o true row.2) s := by
  simp only [predRows, List.mem_cons, List.not_mem_nil, or_false] at hrow
  obtain rfl | rfl | rfl := hrow <;> rfl

theorem exec_of_mem_fillRows {row : (TileOp → Instr) × (EType → Bool) × (EType → Nat → Nat → Nat)} (hrow : row ∈ fillRows)
    (o : TileOp) (s : State) : exec (row.1 o) s = issued o .vector (vFill o row.2.1 row.2.2) s := by
  simp only [fillRows, List.mem_cons, List.not_mem_nil, or_false] at hrow
  obtain rfl | rfl := hrow <;> rfl

theorem exec_of_mem_reduceRows {row : (TileOp → Instr) × (EType → Bool) × (EType → FmtV → Tile → Nat × Nat)}
    (hrow : row ∈ reduceRows) (o : TileOp) (s : State) :
    exec (row.1 o) s = issued o .vector (vReduce o row.2.1 row.2.2) s := by
  simp only [reduceRows, List.mem_cons, List.not_mem_nil, or_false] at hrow
  obtain rfl | rfl | rfl | rfl | rfl | rfl | rfl := hrow <;> rfl

theorem exec_of_mem_rowRows {row : (TileOp → Instr) × (List (Bool × Nat) → Nat × Nat)} (hrow : row ∈ rowRows) (o : TileOp)
    (s : State) : exec (row.1 o) s = issued o .vector (vRows o row.2) s := by
  simp only [rowRows, List.mem_cons, List.not_mem_nil, or_false] at hrow
  obtain rfl | rfl | rfl := hrow <;> rfl

/-! ### Scalar operations (R116, R121) -/

theorem scalarOp_eq {o : TileOp} (hfields : vxOk (fmtVX o.w) = true) (fn : Word → Word → Word) (s : State) :
    scalarOp o fn s = .ok (xset o.tile (fmtVX o.w).xd (fn (xget s o.tile (fmtVX o.w).xa) (scalarSrc s o)) s) :=
  need_bind hfields rfl

/-- Settles O1: the scalar operations share one body, whose field rules are met. -/
theorem scalarOperationsGiveTheirResult : Obligations.ScalarOperationsGiveTheirResult := by
  unfold Obligations.ScalarOperationsGiveTheirResult
  intro row hrow o s h hfields
  rw [exec_of_mem_scalarRows hrow]
  exact issued_ok h (scalarOp_eq hfields row.2 s) (rget_xset ..)

/-! ### Element-wise operations (R108 to R110, R115 to R128) -/

/-- An instruction whose body answers a vector result completes with it. -/
theorem issued_vResult {o : TileOp} {body : State → Except TErr State} {f : FmtV} {bytes : Nat} {rs : List FRes} {s : State}
    (h : Issues o .vector s) (hb : body s = .ok (vResult o f bytes rs s)) :
    issued o .vector body s = .next (pcNext o.tile (vResult o f bytes rs s)) :=
  issued_ok h hb (rget_vResult ..)

section Elementwise
variable {o : TileOp} {s : State} {t : EType} {ok : EType → Bool} (ht : etypeOf (fmtV o.w).ety = some t) (hok : ok t = true)
include ht hok

theorem vUnary_eq (fn : EType → Nat → FRes) (hfields : vfieldsOk (fmtV o.w) { d := true, a := true } = true)
    (hspans : spansOk false [spanOf (fmtV o.w).d (fmtV o.w).n t.bytes] [spanOf (fmtV o.w).a (fmtV o.w).n t.bytes] = true) :
    vUnary o ok fn s = .ok (vResult o (fmtV o.w) t.bytes
      ((telems (tileGet s o.tile) (fmtV o.w).a t.bytes (fmtV o.w).n).map (fn t)) s) :=
  need_bind hfields <| etype_bind ht hok <| need_bind hspans rfl

theorem vBinary_eq {bb : EType → Nat} (fn : EType → Nat → Nat → FRes)
    (hfields : vfieldsOk (fmtV o.w) { d := true, a := true, b := true, sb := true } = true)
    (hspans : spansOk false [spanOf (fmtV o.w).d (fmtV o.w).n t.bytes]
      (spanOf (fmtV o.w).a (fmtV o.w).n t.bytes :: bSpan (fmtV o.w) (bb t)) = true) :
    vBinary o ok bb fn s = .ok (vResult o (fmtV o.w) t.bytes
      (List.zipWith (fn t) (telems (tileGet s o.tile) (fmtV o.w).a t.bytes (fmtV o.w).n)
        (bElems (tileGet s o.tile) (fmtV o.w) (bb t))) s) :=
  need_bind hfields <| etype_bind ht hok <| need_bind hspans rfl

theorem vTernary_eq (fn : EType → Nat → Nat → Nat → FRes)
    (hfields : vfieldsOk (fmtV o.w) { d := true, a := true, b := true, c := true, sb := true } = true)
    (hspans : spansOk false [spanOf (fmtV o.w).d (fmtV o.w).n t.bytes]
      ([spanOf (fmtV o.w).a (fmtV o.w).n t.bytes, spanOf (fmtV o.w).c (fmtV o.w).n t.bytes] ++ bSpan (fmtV o.w) t.bytes) = true) :
    vTernary o ok fn s = .ok (vResult o (fmtV o.w) t.bytes
      (List.zipWith (fun p c => fn t p.1 p.2 c)
        (List.zip (telems (tileGet s o.tile) (fmtV o.w).a t.bytes (fmtV o.w).n) (bElems (tileGet s o.tile) (fmtV o.w) t.bytes))
        (telems (tileGet s o.tile) (fmtV o.w).c t.bytes (fmtV o.w).n)) s) :=
  need_bind hfields <| etype_bind ht hok <| need_bind hspans rfl

theorem vFill_eq (fn : EType → Nat → Nat → Nat) (hfields : vfieldsOk (fmtV o.w) { d := true, b := true } = true)
    (hspans : spansOk false [spanOf (fmtV o.w).d (fmtV o.w).n t.bytes] [] = true) :
    vFill o ok fn s = .ok (vResult o (fmtV o.w) t.bytes
      ((List.range (fmtV o.w).n).map fun e => FRes.plain (fn t (tx (tileGet s o.tile) (fmtV o.w).b) e)) s) :=
  need_bind hfields <| etype_bind ht hok <| need_bind hspans rfl

end Elementwise

theorem intType_of_not_isFloat {t : EType} (h : t.isFloat = false) : intType t = true := by
  simp [intType, h]

/-- Settles O2, by the body of the two-source instructions. That VFSCALE under SB takes 32 bits of X register B for BF16 too is log
entry 91. -/
theorem twoSourceVectorOperationsComplete : Obligations.TwoSourceVectorOperationsComplete := by
  unfold Obligations.TwoSourceVectorOperationsComplete
  refine fun o s t h hfields ht => ⟨fun hspans => ⟨?_, ?_, ?_⟩, fun hspans hfloat => ?_⟩
  · intro row hrow hfloat
    rw [exec_of_mem_floatRows hrow]
    exact issued_vResult h (vBinary_eq ht hfloat row.2 hfields hspans)
  · intro row hrow hint
    rw [exec_of_mem_intRows hrow]
    exact issued_vResult h (vBinary_eq ht (intType_of_not_isFloat hint) row.2 hfields hspans)
  · intro row hrow
    rw [exec_of_mem_bitRows hrow]
    exact issued_vResult h (vBinary_eq ht rfl _ hfields hspans)
  · exact issued_vResult h (vBinary_eq (bb := fun _ => 4) ht hfloat fscale hfields hspans)

section Conversions
variable {o : TileOp} {s : State} (h : Issues o .vector s)
include h

theorem exec_vcvt {t u : EType} (ht : etypeOf (fmtV o.w).ety = some t) (hu : etypeOf (fmtV o.w).aux = some u)
    (hfields : vfieldsOk (fmtV o.w) { d := true, a := true, aux := true } = true)
    (hspans : spansOk false [spanOf (fmtV o.w).d (fmtV o.w).n t.bytes] [spanOf (fmtV o.w).a (fmtV o.w).n u.bytes] = true) :
    exec (.vcvt o) s = .next (pcNext o.tile (vResult o (fmtV o.w) t.bytes
      ((telems (tileGet s o.tile) (fmtV o.w).a u.bytes (fmtV o.w).n).map (convertElem u t)) s)) := by
  refine issued_vResult h (need_bind hfields <| etype_bind ht rfl ?_)
  simp only [hu]
  exact need_bind hspans rfl

theorem exec_vexpq (hety : (fmtV o.w).ety = 0) (hfields : vfieldsOk (fmtV o.w) { d := true, a := true, b := true } = true)
    (hspans : spansOk false [spanOf (fmtV o.w).d (fmtV o.w).n 4] [spanOf (fmtV o.w).a (fmtV o.w).n 4] = true) :
    exec (.vexpq o) s = .next (pcNext o.tile (vResult o (fmtV o.w) 4
      ((telems (tileGet s o.tile) (fmtV o.w).a 4 (fmtV o.w).n).map fun a =>
        expqV (decodeF fp32 a) (decodeF fp32 (tx (tileGet s o.tile) (fmtV o.w).b % 2 ^ 32))) s)) :=
  issued_vResult h (need_bind (by simp [hfields, hety]) <| need_bind hspans rfl)

end Conversions

/-- Code 0 is the only one of FP32 (R108). -/
theorem etypeOf_eq_f32_iff {k : Nat} : etypeOf k = some .f32 ↔ k = 0 := by
  constructor
  · intro h
    unfold etypeOf at h
    split at h
    · rfl
    all_goals exact absurd h (by decide)
  · rintro rfl
    rfl

/-- Settles O3, by the bodies of the one-source and three-source instructions and the rules of VCVT and VEXPQ. -/
theorem oneAndThreeSourceVectorOperationsComplete : Obligations.OneAndThreeSourceVectorOperationsComplete := by
  unfold Obligations.OneAndThreeSourceVectorOperationsComplete
  refine fun o s t h ht => ⟨?_, fun u => exec_vcvt h ht, ?_, ?_, ?_⟩
  · intro row hrow hok hfields hspans
    rw [exec_of_mem_unaryRows hrow]
    exact issued_vResult h (vUnary_eq ht hok row.2.2 hfields hspans)
  · rintro rfl
    exact exec_vexpq h (etypeOf_eq_f32_iff.1 ht)
  · intro row hrow hfloat hfields hspans
    rw [exec_of_mem_fusedRows hrow]
    exact issued_vResult h (vTernary_eq ht hfloat row.2 hfields hspans)
  · intro row hrow hok hfields hspans
    rw [exec_of_mem_fillRows hrow]
    exact issued_vResult h (vFill_eq ht hok row.2.2 hfields hspans)

/-! ### Compares and predicates (R110, R111, R116, R120) -/

/-- What becomes of each bit of a predicate: an active element's truth value, and for an inactive one nothing, or false under ZM. -/
def predicatedBits (τ : Tile) (f : FmtV) (bs : List Bool) : List (Option Bool) :=
  List.zipWith (fun a b => if a then some b else if f.zm then some false else none) (actives τ f) bs

/-- The truth values that a compare has found. -/
def compareBits (fn : EType → Nat → Nat → Bool) (u : EType) (f : FmtV) (τ : Tile) : List Bool :=
  List.zipWith (fn u) (telems τ f.a u.bytes f.n) (bElems τ f u.bytes)

/-- An instruction whose body only writes the tile completes with it. -/
theorem issued_tileSet {o : TileOp} {body : State → Except TErr State} {τ : Tile} {s : State} (h : Issues o .vector s)
    (hb : body s = .ok (tileSet o.tile τ s)) : issued o .vector body s = .next (pcNext o.tile (tileSet o.tile τ s)) :=
  issued_ok h hb (rget_tileSet ..)

theorem vCompare_eq {o : TileOp} {s : State} {t : EType} (ht : etypeOf (fmtV o.w).ety = some t) (hd : (fmtV o.w).d < 8)
    (fn : EType → Nat → Nat → Bool) (hfields : vfieldsOk (fmtV o.w) { d := true, a := true, b := true, sb := true } = true)
    (hspans : spansOk false [] (spanOf (fmtV o.w).a (fmtV o.w).n t.bytes :: bSpan (fmtV o.w) t.bytes) = true) :
    vCompare o fn s = .ok (tileSet o.tile (pputs (fmtV o.w).d (predicatedBits (tileGet s o.tile) (fmtV o.w)
      (compareBits fn t (fmtV o.w) (tileGet s o.tile))) (tileGet s o.tile)) s) :=
  need_bind (by simp [hfields, hd]) <| etype_bind ht rfl <| need_bind hspans rfl

section Predicates
variable {o : TileOp} {s : State} (h : Issues o .vector s)
include h

theorem exec_vcmpspc {t : EType} (ht : etypeOf (fmtV o.w).ety = some t) (hd : (fmtV o.w).d < 8)
    (hfields : vfieldsOk (fmtV o.w) { d := true, a := true } = true) (hfloat : t.isFloat = true)
    (hspans : spansOk false [] [spanOf (fmtV o.w).a (fmtV o.w).n t.bytes] = true) :
    exec (.vcmpspc o) s = .next (pcNext o.tile (tileSet o.tile (pputs (fmtV o.w).d
      (List.zipWith (fun a v => if a then some (decodeF t.fmt v).isSpecial else if (fmtV o.w).zm then some false else none)
        (actives (tileGet s o.tile) (fmtV o.w)) (telems (tileGet s o.tile) (fmtV o.w).a t.bytes (fmtV o.w).n))
      (tileGet s o.tile)) s)) :=
  issued_tileSet h (need_bind (by simp [hfields, hd]) <| etype_bind ht hfloat <| need_bind hspans rfl)

theorem exec_of_mem_predRows_next {row : (TileOp → Instr) × (Bool → Bool → Bool)} (hrow : row ∈ predRows)
    (hzero : (fmtVP o.w).zero = 0) (hxr : (fmtVP o.w).xr = 0) :
    exec (row.1 o) s = .next (pcNext o.tile (tileSet o.tile (pputs (fmtVP o.w).pd
      ((List.range ((fmtVP o.w).cnt + 1)).map fun e =>
        some (row.2 (pbit (tileGet s o.tile) (fmtVP o.w).pa e) (pbit (tileGet s o.tile) (fmtVP o.w).pb e)))
      (tileGet s o.tile)) s)) := by
  rw [exec_of_mem_predRows hrow]
  exact issued_tileSet h (need_bind (by simp [hzero, hxr]) rfl)

theorem exec_pnot (hzero : (fmtVP o.w).zero = 0) (hxr : (fmtVP o.w).xr = 0) (hpb : (fmtVP o.w).pb = 0) :
    exec (.pnot o) s = .next (pcNext o.tile (tileSet o.tile (pputs (fmtVP o.w).pd
      ((List.range ((fmtVP o.w).cnt + 1)).map fun e => some (!pbit (tileGet s o.tile) (fmtVP o.w).pa e))
      (tileGet s o.tile)) s)) :=
  issued_tileSet h (need_bind (by simp [hzero, hxr, hpb]) rfl)

theorem exec_pset (hzero : (fmtVP o.w).zero = 0) (hpa : (fmtVP o.w).pa = 0) (hpb : (fmtVP o.w).pb = 0) :
    exec (.pset o) s = .next (pcNext o.tile (tileSet o.tile (pputs (fmtVP o.w).pd
      ((List.range ((fmtVP o.w).cnt + 1)).map fun e => some (decide (e < tx (tileGet s o.tile) (fmtVP o.w).xr)))
      (tileGet s o.tile)) s)) :=
  issued_tileSet h (need_bind (by simp [hzero, hpa, hpb]) rfl)

section Counts
variable (hzero : (fmtVP o.w).zero = 0) (hpd : (fmtVP o.w).pd = 0) (hpb : (fmtVP o.w).pb = 0)
include hzero hpd hpb

theorem exec_pcnt :
    exec (.pcnt o) s = .next (pcNext o.tile (tileSet o.tile (txSet (fmtVP o.w).xr
      (predBits (tileGet s o.tile) (fmtVP o.w)).length (tileGet s o.tile)) s)) :=
  issued_tileSet h (need_bind (by simp [hzero, hpd, hpb]) rfl)

theorem exec_pfirst :
    exec (.pfirst o) s = .next (pcNext o.tile (tileSet o.tile (txSet (fmtVP o.w).xr
      ((predBits (tileGet s o.tile) (fmtVP o.w)).headD ((fmtVP o.w).cnt + 1)) (tileGet s o.tile)) s)) :=
  issued_tileSet h (need_bind (by simp [hzero, hpd, hpb]) rfl)

end Counts
end Predicates

/-- Settles O4, by the body of the compares and the rule of each other instruction. -/
theorem comparesAndPredicatesComplete : Obligations.ComparesAndPredicatesComplete := by
  unfold Obligations.ComparesAndPredicatesComplete
  refine fun o s h => ⟨fun t ht hd => ⟨?_, exec_vcmpspc h ht hd⟩, fun hzero => ⟨
    fun row hrow => exec_of_mem_predRows_next h hrow hzero, exec_pnot h hzero, exec_pset h hzero, fun hpd hpb => ⟨exec_pcnt h hzero hpd hpb, exec_pfirst h hzero hpd hpb⟩⟩⟩
  intro row hrow hfields hspans
  rw [exec_of_mem_compareRows hrow]
  exact issued_tileSet h (vCompare_eq ht hd row.2 hfields hspans)

/-! ### Reductions (R126, R127, R621) -/

theorem vReduce_eq {o : TileOp} {s : State} {t : EType} {ok : EType → Bool} (ht : etypeOf (fmtV o.w).ety = some t) (hok : ok t = true)
    (fn : EType → FmtV → Tile → Nat × Nat) (hfields : vfieldsOk (fmtV o.w) { a := true, c := true } = true)
    (hspans : spansOk false [] [spanOf (fmtV o.w).a (fmtV o.w).n t.bytes] = true) :
    vReduce o ok fn s = .ok (raiseFlags o.tile (fn t (fmtV o.w) (tileGet s o.tile)).2
      (tileSet o.tile (txSet (fmtV o.w).c (fn t (fmtV o.w) (tileGet s o.tile)).1 (tileGet s o.tile)) s)) :=
  need_bind hfields <| etype_bind ht hok <| need_bind hspans rfl

theorem vRows_eq {o : TileOp} {s : State} (fn : List (Bool × Nat) → Nat × Nat) (hety : (fmtV o.w).ety = 0)
    (hfields : vfieldsOk (fmtV o.w) { d := true, a := true } = true) (hrows : (fmtV o.w).n % 32 = 0)
    (hspans : spansOk false [spanOf (fmtV o.w).d ((fmtV o.w).n / 32) 4] [spanOf (fmtV o.w).a (fmtV o.w).n 4] = true) :
    let rs := (chunks 32 ((fmtV o.w).n / 32) (List.zip (actives (tileGet s o.tile) (fmtV o.w))
      (telems (tileGet s o.tile) (fmtV o.w).a 4 (fmtV o.w).n))).map fn
    vRows o fn s = .ok (raiseFlags o.tile (rs.foldl (fun a r => orFlags a r.2) 0)
      (tileSet o.tile (tputs (fmtV o.w).d 4 (rs.map fun r => some r.1) (tileGet s o.tile)) s)) :=
  need_bind (by simp [hfields, hety, hrows]) <| need_bind hspans rfl

/-- Settles O5, by the body of the full reductions and that of the row reductions. That −0 is below +0 where VRAMAXF and VRRAMAXF
look for a maximal element is log entry 91. -/
theorem reductionsComplete : Obligations.ReductionsComplete := by
  unfold Obligations.ReductionsComplete
  refine fun o s h => ⟨?_, ?_⟩
  · intro row hrow t ht hok hfields hspans
    rw [exec_of_mem_reduceRows hrow]
    exact issued_ok h (vReduce_eq ht hok row.2.2 hfields hspans) (by rw [rget_raiseFlags, rget_tileSet])
  · intro row hrow hety hfields hrows hspans rs
    rw [exec_of_mem_rowRows hrow]
    exact issued_ok h (vRows_eq row.2 hety hfields hrows hspans) (by rw [rget_raiseFlags, rget_tileSet])

end Sys2Proof.Machine
end

section
/-! What a vector result leaves alone (R109, R110): every element-wise instruction and every load of the vector engine that does not
stop its tile answers a vector result of as many elements as CNT states. -/
namespace Sys2Proof.Machine

/-! ### How many elements a load has read (R113, R114, R123) -/

/-- As many pieces of `k` as the list holds. -/
theorem chunks_length {α : Type} {k : Nat} (hk : 0 < k) (n : Nat) {l : List α} (hl : l.length = n * k) :
    (chunks k n l).length = n := by
  induction n generalizing l with
  | zero => rfl
  | succ n ih =>
    rw [Nat.succ_mul] at hl
    have hne : l.isEmpty = false := List.isEmpty_eq_false_iff.2 fun he => by simp [he] at hl; omega
    have hrest : (l.drop k).length = n * k := by rw [List.length_drop, hl, Nat.add_sub_cancel]
    simp only [chunks, hne, Bool.false_eq_true, if_false, List.length_cons, ih hrest]

theorem loadBytes_length {s : State} {t a n : Nat} {owed : List (List Owed)} {bs : List Byte}
    (h : loadBytes s t a n owed = .ok bs) : bs.length = n := by
  unfold loadBytes at h
  split at h
  · cases h
  · split at h
    · cases h
    · cases h
      simp [storeRead]

theorem vecRead_length {s : State} {t a n : Nat} {bs : List Byte} (h : vecRead s t a n = .ok bs) : bs.length = n :=
  loadBytes_length h

/-- Reads that all succeed give together as many bytes as each asks for. -/
theorem length_flatten_of_mapM_ok {α β ε : Type} {g : α → Except ε (List β)} {len : α → Nat}
    (hg : ∀ a bs, g a = .ok bs → bs.length = len a) {l : List α} {parts : List (List β)} (h : l.mapM g = .ok parts) :
    parts.flatten.length = (l.map len).sum := by
  induction l generalizing parts with
  | nil =>
    cases h
    rfl
  | cons a l ih =>
    rw [List.mapM_cons] at h
    cases ha : g a with
    | error e =>
      rw [ha] at h
      cases h
    | ok bs =>
      cases hl : l.mapM g with
      | error e =>
        rw [ha, hl] at h
        cases h
      | ok rest =>
        rw [ha, hl] at h
        cases h
        rw [List.flatten_cons, List.length_append, hg a bs ha, ih hl, List.map_cons, List.sum_cons]

/-- Rows of 128 bytes, the last cut short, hold the bytes up to their number. -/
theorem sum_rows (nb k : Nat) : ((List.range k).map fun r => min 128 (nb - r * 128)).sum = min nb (k * 128) := by
  induction k with
  | zero => simp
  | succ k ih =>
    rw [List.range_succ, List.map_append, List.sum_append, ih]
    simp only [List.map_cons, List.map_nil, List.sum_cons, List.sum_nil]
    omega

/-- The pieces of an access hold its bytes. -/
theorem sum_vPieces (strided : Bool) (a st nb : Nat) : ((vPieces strided a st nb).map fun p => p.2.2).sum = nb := by
  cases strided with
  | false => simp [vPieces]
  | true =>
    have hrows := sum_rows nb ((nb + 127) / 128)
    simp only [vPieces, if_true, List.map_map, Function.comp_def]
    omega

theorem EType.bytes_pos (u : EType) : 0 < u.bytes := by
  cases u <;> decide

/-! ### What each shape of instruction answers, where it answers -/

theorem vFill_ok {o : TileOp} {ok : EType → Bool} {fn : EType → Nat → Nat → Nat} {s t : State} (h : vFill o ok fn s = .ok t) :
    IsResult o s t := by
  obtain ⟨_, h⟩ := need_ok h
  obtain ⟨u, hu, _, h⟩ := etypeIn_ok h
  obtain ⟨_, h⟩ := need_ok h
  cases h
  exact ⟨u, _, hu, by rw [List.length_map, List.length_range], rfl⟩

/-- A load that does not stop its tile answers the elements it has read. -/
theorem vload_isResult {strided : Bool} {o : TileOp} {s t : State} (h : vload strided o s = .ok t) : IsResult o s t := by
  obtain ⟨_, h⟩ := need_ok h
  obtain ⟨u, hu, _, h⟩ := etypeIn_ok h
  obtain ⟨_, h⟩ := need_ok h
  obtain ⟨_, h⟩ := need_ok h
  obtain ⟨parts, hparts, h⟩ := bind_ok h
  cases h
  have hbytes : parts.flatten.length = (fmtV o.w).n * u.bytes :=
    (length_flatten_of_mapM_ok (fun p bs => vecRead_length) hparts).trans (sum_vPieces ..)
  exact ⟨u, _, hu, by rw [List.length_map, chunks_length u.bytes_pos _ hbytes], rfl⟩

/-- The instructions whose result goes to the elements of D, one by one. -/
def resultInstrs : List (TileOp → Instr) :=
  floatRows.map (·.1) ++ intRows.map (·.1) ++ bitRows.map (·.1) ++ unaryRows.map (·.1) ++ fusedRows.map (·.1)
    ++ fillRows.map (·.1) ++ [.vfscale, .vcvt, .vexpq, .vld, .vlds, .vldmx]

section Issued
variable {o : TileOp} {s t : State} (h : Issues o .vector s)
include h

theorem exec_vcvt_result (ht : exec (.vcvt o) s = .next t) :
    (∃ e, t = tileStop o.tile e s) ∨ ∃ t', IsResult o s t' ∧ t = pcNext o.tile t' := by
  refine issued_result h (fun t' hb => ?_) ht
  obtain ⟨_, hb⟩ := need_ok hb
  obtain ⟨u, hu, _, hb⟩ := etypeIn_ok hb
  split at hb
  · cases hb
  · obtain ⟨_, hb⟩ := need_ok hb
    cases hb
    exact ⟨u, _, hu, by rw [List.length_map, telems_length], rfl⟩

theorem exec_vexpq_result (ht : exec (.vexpq o) s = .next t) :
    (∃ e, t = tileStop o.tile e s) ∨ ∃ t', IsResult o s t' ∧ t = pcNext o.tile t' := by
  refine issued_result h (fun t' hb => ?_) ht
  obtain ⟨hfields, hb⟩ := need_ok hb
  obtain ⟨_, hb⟩ := need_ok hb
  cases hb
  have hety : (fmtV o.w).ety = 0 := beq_iff_eq.1 (Bool.and_eq_true_iff.1 hfields).2
  exact ⟨.f32, _, etypeOf_eq_f32_iff.2 hety, by rw [List.length_map, telems_length], rfl⟩

theorem exec_vldmx_result (ht : exec (.vldmx o) s = .next t) :
    (∃ e, t = tileStop o.tile e s) ∨ ∃ t', IsResult o s t' ∧ t = pcNext o.tile t' := by
  refine issued_result h (fun t' hb => ?_) ht
  obtain ⟨hfields, hb⟩ := need_ok hb
  obtain ⟨_, hb⟩ := need_ok hb
  obtain ⟨_, _, hb⟩ := bind_ok hb
  obtain ⟨_, _, hb⟩ := bind_ok hb
  obtain ⟨_, _, hb⟩ := bind_ok hb
  cases hb
  have hety : (fmtV o.w).ety = 0 := beq_iff_eq.1 (Bool.and_eq_true_iff.1 (Bool.and_eq_true_iff.1 hfields).1).2
  exact ⟨.f32, _, etypeOf_eq_f32_iff.2 hety, by rw [List.length_map, List.length_range], rfl⟩

/-- Each instruction of that list stops its tile, or answers a vector result and moves on. -/
theorem exec_of_mem_resultInstrs {i : TileOp → Instr} (hi : i ∈ resultInstrs) (ht : exec (i o) s = .next t) :
    (∃ e, t = tileStop o.tile e s) ∨ ∃ t', IsResult o s t' ∧ t = pcNext o.tile t' := by
  simp only [resultInstrs, List.mem_append, or_assoc, List.mem_map] at hi
  obtain ⟨row, hrow, rfl⟩ | ⟨row, hrow, rfl⟩ | ⟨row, hrow, rfl⟩ | ⟨row, hrow, rfl⟩ | ⟨row, hrow, rfl⟩ | ⟨row, hrow, rfl⟩ | hi :=
    hi
  · rw [exec_of_mem_floatRows hrow] at ht
    exact issued_result h (fun _ => vBinary_ok) ht
  · rw [exec_of_mem_intRows hrow] at ht
    exact issued_result h (fun _ => vBinary_ok) ht
  · rw [exec_of_mem_bitRows hrow] at ht
    exact issued_result h (fun _ => vBinary_ok) ht
  · rw [exec_of_mem_unaryRows hrow] at ht
    exact issued_result h (fun _ => vUnary_ok) ht
  · rw [exec_of_mem_fusedRows hrow] at ht
    exact issued_result h (fun _ => vTernary_ok) ht
  · rw [exec_of_mem_fillRows hrow] at ht
    exact issued_result h (fun _ => vFill_ok) ht
  · simp only [List.mem_cons, List.not_mem_nil, or_false] at hi
    obtain rfl | rfl | rfl | rfl | rfl | rfl := hi
    · exact issued_result h (fun _ => vBinary_ok) ht
    · exact exec_vcvt_result h ht
    · exact exec_vexpq_result h ht
    · exact issued_result h (fun _ => vload_isResult) ht
    · exact issued_result h (fun _ => vload_isResult) ht
    · exact exec_vldmx_result h ht

end Issued

/-! ### The claim -/

/-- The number of a tile that issues fits a register's index. -/
theorem Issues.tile_lt {o : TileOp} {u : TUnit} {s : State} (h : Issues o u s) : o.tile < 65536 := by
  have hcan := h.can
  simp only [canIssue, Bool.and_eq_true] at hcan
  obtain ⟨⟨⟨⟨⟨hlt, _⟩, _⟩, _⟩, _⟩, _⟩ := hcan
  exact Nat.lt_trans (of_decide_eq_true hlt) (by decide)

/-- Settles O49: each instruction answers a vector result, and `vResult_spec` says what a vector result leaves. -/
theorem vectorResultsLeaveTheRestAlone : Obligations.VectorResultsLeaveTheRestAlone := by
  unfold Obligations.VectorResultsLeaveTheRestAlone
  intro i hi o s t h hwf ht
  obtain hstop | ⟨_, ⟨u, rs, hu, hlen, rfl⟩, rfl⟩ := exec_of_mem_resultInstrs h hi ht
  · exact .inl hstop
  · obtain ⟨honly, htile, hwf', houtside, hinactive⟩ := vResult_spec o (fmtV o.w) u.bytes rs s h.tile_lt hlen hwf
    exact .inr ⟨u, hu, honly.trans (pcNext_only _ _ h.tile_lt), htile, hwf', houtside, hinactive⟩

end Sys2Proof.Machine
end

section
/-! What an instruction that writes a predicate leaves alone, and which truth value each bit takes (R110, R111). -/
namespace Sys2Proof.Machine

/-! ### Writing a predicate (R111) -/

/-- Of the whole state only predicate `d` of tile `k`, in it only the bits below `n`, and the tile's program counter changed. -/
def OnlyPredicate (k d n : Nat) (s t : State) : Prop :=
  OnlyTile k s t ∧ tileGet t k = { tileGet s k with p := (tileGet t k).p } ∧ rget t .tileVflags k = rget s .tileVflags k
    ∧ (∀ j, j ≠ d → pget (tileGet t k) j = pget (tileGet s k) j)
    ∧ (∀ e, n ≤ e → pbit (tileGet t k) d e = pbit (tileGet s k) d e)

/-- A predicate has 8,192 bits. -/
theorem pbit_of_width_le (τ : Tile) (d : Nat) {e : Nat} (he : 8192 ≤ e) : pbit τ d e = false := BitVec.getLsbD_of_ge _ _ he

/-- The bits above those written are kept. -/
theorem pbit_pputs_above (d : Nat) {vs : List (Option Bool)} {e : Nat} (he : vs.length ≤ e) (τ : Tile) :
    pbit (pputs d vs τ) d e = pbit τ d e := by
  by_cases hw : e < 8192
  · rw [pbit_pputs d e vs τ hw, if_neg (Nat.not_lt.2 he)]
  · rw [pbit_of_width_le _ _ (Nat.not_lt.1 hw), pbit_of_width_le _ _ (Nat.not_lt.1 hw)]

theorem pget_pputs_other {d j : Nat} (h : j ≠ d) (vs : List (Option Bool)) (τ : Tile) : pget (pputs d vs τ) j = pget τ j :=
  Map.get_set_other _ _ _ _ _ h

/-- The state after an instruction wrote bits of predicate `d` and moved on. -/
def predicateWritten (k d : Nat) (vs : List (Option Bool)) (s : State) : State :=
  pcNext k (tileSet k (pputs d vs (tileGet s k)) s)

@[simp] theorem tileGet_predicateWritten (k d : Nat) (vs : List (Option Bool)) (s : State) :
    tileGet (predicateWritten k d vs s) k = pputs d vs (tileGet s k) := by
  rw [predicateWritten, tileGet_pcNext, tileGet_tileSet]

theorem predicateWritten_only {k : Nat} (hk : k < 65536) (d : Nat) {n : Nat} {vs : List (Option Bool)} (hn : vs.length = n) (s : State) :
    OnlyPredicate k d n s (predicateWritten k d vs s) := by
  subst hn
  refine ⟨(tileSet_only ..).trans (pcNext_only _ _ hk), ?_, ?_, ?_, ?_⟩
  · rw [tileGet_predicateWritten]
    rfl
  · exact rget_rset_reg _ _ _ _ _ (by decide)
  · intro j hj
    rw [tileGet_predicateWritten, pget_pputs_other hj]
  · intro e he
    rw [tileGet_predicateWritten, pbit_pputs_above d he]

/-- CNT has 13 bits, so that an instruction of format V covers at most the bits a predicate has (R109, R115). -/
theorem fmtV_n_le (w : BitVec 48) : (fmtV w).n ≤ 8192 := bitsAt_lt w.toNat 0 13

theorem fmtVP_cnt_lt (w : BitVec 48) : (fmtVP w).cnt < 8192 := bitsAt_lt w.toNat 0 13

/-! ### The bits written -/

theorem predicatedBits_length {τ : Tile} {f : FmtV} {bs : List Bool} (h : bs.length = f.n) :
    (predicatedBits τ f bs).length = f.n := by
  rw [predicatedBits, List.length_zipWith, actives_length, h, Nat.min_self]

/-- The place of a list combined from two is the combination of theirs. -/
theorem getD_zipWith {α β γ : Type} (f : α → β → γ) {l : List α} {m : List β} {e : Nat} (hl : e < l.length) (hm : e < m.length)
    (a : α) (b : β) (c : γ) : (List.zipWith f l m).getD e c = f (l.getD e a) (m.getD e b) := by
  simp only [List.getD_eq_getElem?_getD, List.getElem?_zipWith, List.getElem?_eq_getElem hl, List.getElem?_eq_getElem hm,
    Option.getD_some]

/-- What an instruction makes of the bit of element `e` of a predicate. -/
theorem pbit_predicatedBits {τ : Tile} {f : FmtV} {bs : List Bool} (hbs : bs.length = f.n) {e : Nat} (he : e < f.n)
    (hw : f.n ≤ 8192) (d : Nat) :
    pbit (pputs d (predicatedBits τ f bs) τ) d e
      = if (actives τ f).getD e false then bs.getD e false else if f.zm then false else pbit τ d e := by
  have hact : e < (actives τ f).length := by rw [actives_length]; exact he
  have hbit : e < bs.length := by rw [hbs]; exact he
  rw [pbit_pputs d e _ τ (Nat.lt_of_lt_of_le he hw), predicatedBits_length hbs, if_pos he, predicatedBits,
    getD_zipWith _ hact hbit false false]
  split
  · rfl
  · split <;> rfl

/-- Where every bit is written, bit `e` takes the value given for it. -/
theorem pbit_pputs_range {n e : Nat} (he : e < n) (hn : n ≤ 8192) (d : Nat) (g : Nat → Bool) (τ : Tile) :
    pbit (pputs d ((List.range n).map fun e => some (g e)) τ) d e = g e := by
  rw [pbit_pputs d e _ τ (Nat.lt_of_lt_of_le he hn), List.length_map, List.length_range, if_pos he]
  simp [List.getD_eq_getElem?_getD, he]

/-! ### What the instructions write, where they do not stop the tile -/

theorem compareBits_length (fn : EType → Nat → Nat → Bool) (u : EType) (f : FmtV) (τ : Tile) :
    (compareBits fn u f τ).length = f.n := by
  rw [compareBits, List.length_zipWith, telems_length, bElems_length, Nat.min_self]

theorem compareBits_getD (fn : EType → Nat → Nat → Bool) (u : EType) {f : FmtV} (τ : Tile) {e : Nat} (he : e < f.n) :
    (compareBits fn u f τ).getD e false = fn u ((telems τ f.a u.bytes f.n).getD e 0) ((bElems τ f u.bytes).getD e 0) :=
  getD_zipWith _ (by rw [telems_length]; exact he) (by rw [bElems_length]; exact he) 0 0 false

/-- An instruction whose body only writes predicate `d`, or fails: the tile stops, or the bits stand and it moves on. -/
theorem issued_predicate {o : TileOp} {body : State → Except TErr State} {s t : State} {d : Nat} {Q : List (Option Bool) → Prop}
    (h : Issues o .vector s)
    (hb : ∀ t', body s = .ok t' → ∃ vs, Q vs ∧ t' = tileSet o.tile (pputs d vs (tileGet s o.tile)) s)
    (ht : issued o .vector body s = .next t) :
    (∃ e, t = tileStop o.tile e s) ∨ ∃ vs, Q vs ∧ t = predicateWritten o.tile d vs s := by
  cases hbody : body s with
  | error e =>
    rw [issued_error h hbody] at ht
    cases ht
    exact .inl ⟨e, rfl⟩
  | ok t' =>
    obtain ⟨vs, hvs, rfl⟩ := hb t' hbody
    rw [issued_tileSet h hbody] at ht
    cases ht
    exact .inr ⟨vs, hvs, rfl⟩

section Written
variable {o : TileOp} {s t : State} (h : Issues o .vector s)
include h

/-- A compare writes the bits of the elements it has compared, of the type that ETY names. -/
theorem exec_compare_inv {row : (TileOp → Instr) × (EType → Nat → Nat → Bool)} (hrow : row ∈ compareRows)
    (ht : exec (row.1 o) s = .next t) :
    (∃ e, t = tileStop o.tile e s)
    ∨ ∃ vs, (∃ u, etypeOf (fmtV o.w).ety = some u
          ∧ vs = predicatedBits (tileGet s o.tile) (fmtV o.w) (compareBits row.2 u (fmtV o.w) (tileGet s o.tile)))
        ∧ t = predicateWritten o.tile (fmtV o.w).d vs s := by
  rw [exec_of_mem_compareRows hrow] at ht
  refine issued_predicate h (fun t' hb => ?_) ht
  obtain ⟨_, hb⟩ := need_ok hb
  obtain ⟨u, hu, _, hb⟩ := etypeIn_ok hb
  obtain ⟨_, hb⟩ := need_ok hb
  cases hb
  exact ⟨_, ⟨u, hu, rfl⟩, rfl⟩

theorem exec_vcmpspc_inv (ht : exec (.vcmpspc o) s = .next t) :
    (∃ e, t = tileStop o.tile e s) ∨ ∃ vs, vs.length = (fmtV o.w).n ∧ t = predicateWritten o.tile (fmtV o.w).d vs s := by
  refine issued_predicate h (fun t' hb => ?_) ht
  obtain ⟨_, hb⟩ := need_ok hb
  obtain ⟨u, _, _, hb⟩ := etypeIn_ok hb
  obtain ⟨_, hb⟩ := need_ok hb
  cases hb
  exact ⟨_, by rw [List.length_zipWith, actives_length, telems_length, Nat.min_self], rfl⟩

theorem exec_pnot_pset_inv {i : TileOp → Instr} (hi : i ∈ [Instr.pnot, .pset]) (ht : exec (i o) s = .next t) :
    (∃ e, t = tileStop o.tile e s)
    ∨ ∃ vs, vs.length = (fmtVP o.w).cnt + 1 ∧ t = predicateWritten o.tile (fmtVP o.w).pd vs s := by
  simp only [List.mem_cons, List.not_mem_nil, or_false] at hi
  obtain rfl | rfl := hi
  all_goals
    refine issued_predicate h (fun t' hb => ?_) ht
    obtain ⟨_, hb⟩ := need_ok hb
    cases hb
    exact ⟨_, by rw [List.length_map, List.length_range], rfl⟩

/-- PAND, POR and PXOR write the operation on each pair of bits. -/
theorem exec_pred_inv {row : (TileOp → Instr) × (Bool → Bool → Bool)} (hrow : row ∈ predRows) (ht : exec (row.1 o) s = .next t) :
    (∃ e, t = tileStop o.tile e s)
    ∨ ∃ vs, vs = ((List.range ((fmtVP o.w).cnt + 1)).map fun e =>
          some (row.2 (pbit (tileGet s o.tile) (fmtVP o.w).pa e) (pbit (tileGet s o.tile) (fmtVP o.w).pb e)))
        ∧ t = predicateWritten o.tile (fmtVP o.w).pd vs s := by
  rw [exec_of_mem_predRows hrow] at ht
  refine issued_predicate h (fun t' hb => ?_) ht
  obtain ⟨_, hb⟩ := need_ok hb
  cases hb
  exact ⟨_, rfl, rfl⟩

end Written

/-! ### The claim -/

/-- Settles O50: each instruction that does not stop its tile writes as many bits as CNT states, and moves on. -/
theorem predicateWritesStopAtTheCount : Obligations.PredicateWritesStopAtTheCount := by
  unfold Obligations.PredicateWritesStopAtTheCount
  refine fun o s t h => ⟨fun row hrow ht => ?_, fun ht => ?_, fun row hrow ht => ?_, fun row hrow ht => ?_⟩
  · obtain hstop | ⟨_, ⟨u, hu, rfl⟩, rfl⟩ := exec_compare_inv h hrow ht
    · exact .inl hstop
    · have hlen := compareBits_length row.2 u (fmtV o.w) (tileGet s o.tile)
      refine .inr ⟨predicateWritten_only h.tile_lt _ (predicatedBits_length hlen) s, fun u' hu' e he => ?_⟩
      obtain rfl : u = u' := Option.some.inj (hu.symm.trans hu')
      rw [tileGet_predicateWritten, pbit_predicatedBits hlen he (fmtV_n_le o.w), compareBits_getD row.2 u _ he]
  · exact (exec_vcmpspc_inv h ht).imp_right fun ⟨_, hlen, hwritten⟩ => hwritten ▸ predicateWritten_only h.tile_lt _ hlen s
  · obtain hstop | ⟨_, rfl, rfl⟩ := exec_pred_inv h hrow ht
    · exact .inl hstop
    · refine .inr ⟨predicateWritten_only h.tile_lt _ (by rw [List.length_map, List.length_range]) s, fun e he => ?_⟩
      rw [tileGet_predicateWritten, pbit_pputs_range (Nat.lt_succ_of_le he) (fmtVP_cnt_lt o.w)]
  · exact (exec_pnot_pset_inv h hrow ht).imp_right fun ⟨_, hlen, hwritten⟩ => hwritten ▸ predicateWritten_only h.tile_lt _ hlen s

end Sys2Proof.Machine
end

section
/-! NaNs and signed zeros in the vector engine's minima, maxima, compares, absolute values and negations (R120). -/
namespace Sys2Proof.Machine

/-! ### Elements of a result (R110) -/

/-- Bytes spell a number below the power of 256 that their number states. -/
theorem ofLe_lt (l : List Byte) : ofLe l < 256 ^ l.length := by
  induction l with
  | nil => exact Nat.one_pos
  | cons b l ih =>
    have hb := b.isLt
    rw [ofLe, List.length_cons, Nat.pow_succ]
    omega

theorem telems_getD (τ : Tile) (r bytes : Nat) {n e : Nat} (he : e < n) :
    (telems τ r bytes n).getD e 0 = ofLe (Mem.readN τ.t (r * 4096 + e * bytes) bytes) := by
  simp [telems, List.getD_eq_getElem?_getD, he]

theorem telems_getD_lt (τ : Tile) (r bytes : Nat) {n e : Nat} (he : e < n) : (telems τ r bytes n).getD e 0 < 256 ^ bytes := by
  have hlt := ofLe_lt (Mem.readN τ.t (r * 4096 + e * bytes) bytes)
  rwa [readN_length, ← telems_getD τ r bytes he] at hlt

/-- An active element of a result holds the bits computed for it. -/
theorem telems_vResult_active {o : TileOp} {f : FmtV} {bytes : Nat} {rs : List FRes} {s : State} (hwf : Mem.wf (tileGet s o.tile).t = true)
    (hlen : rs.length = f.n) {e : Nat} (he : e < f.n) (hact : (actives (tileGet s o.tile) f).getD e false = true) (d : FRes) :
    (telems (tileGet (vResult o f bytes rs s) o.tile) f.d bytes f.n).getD e 0 = (rs.getD e d).bits % 256 ^ bytes := by
  have hactives : (actives (tileGet s o.tile) f).length = f.n := actives_length _ _
  have htile : tileGet (vResult o f bytes rs s) o.tile
      = tputs f.d bytes (predicated f (actives (tileGet s o.tile) f) rs) (tileGet s o.tile) := by
    simp [vResult]
  have hpred : (predicated f (actives (tileGet s o.tile) f) rs).getD e none = some (rs.getD e d).bits := by
    rw [predicated, getD_zipWith _ (by rw [hactives]; exact he) (by rw [hlen]; exact he) false d, hact]
    rfl
  have hplen : e < (predicated f (actives (tileGet s o.tile) f) rs).length := by
    rw [predicated_length f (hlen.trans hactives.symm), hactives]
    exact he
  rw [htile, telems_tputs _ _ _ _ hwf e hplen he, hpred]

/-! ### The encodings (R36, R118) -/

/-- An encoding of +0 or of −0. -/
def IsZero (u : EType) (x : Nat) : Prop := x = 0 ∨ x = u.fmt.signBit

theorem eq_f32_or_eq_b16 {u : EType} (h : u.isFloat = true) : u = .f32 ∨ u = .b16 := by
  cases u with
  | f32 => exact .inl rfl
  | b16 => exact .inr rfl
  | i32 | i16 | i8 => cases h

/-- The sign bit is the top bit of an element. -/
theorem two_mul_signBit {u : EType} (h : u.isFloat = true) : 2 * u.fmt.signBit = 256 ^ u.bytes := by
  obtain rfl | rfl := eq_f32_or_eq_b16 h <;> rfl

theorem nanBits_lt {u : EType} (h : u.isFloat = true) : u.fmt.nanBits < 256 ^ u.bytes := by
  obtain rfl | rfl := eq_f32_or_eq_b16 h <;> decide

theorem FVal.isNan_iff {x : FVal} : x.isNan = true ↔ x = .nan := by
  cases x <;> simp [FVal.isNan]

/-- A NaN is not below anything, nor anything below it. -/
theorem FVal.ltNum_of_nan {x y : FVal} (h : (x.isNan || y.isNan) = true) : FVal.ltNum x y = false := by
  obtain hx | hy := Bool.or_eq_true_iff.1 h
  · rw [FVal.isNan_iff.1 hx]
    rfl
  · rw [FVal.isNan_iff.1 hy]
    cases x with
    | fin n m e => cases m <;> rfl
    | nan | inf n => rfl

theorem FVal.eqNum_of_nan {x y : FVal} (h : (x.isNan || y.isNan) = true) : FVal.eqNum x y = false := by
  obtain hx | hy := Bool.or_eq_true_iff.1 h
  · simp [FVal.eqNum, hx]
  · simp [FVal.eqNum, hy]

/-- A zero has no significand, whatever its sign. -/
theorem decodeF_of_isZero {u : EType} (hu : u.isFloat = true) {x : Nat} (h : IsZero u x) :
    ∃ n e, decodeF u.fmt x = .fin n 0 e := by
  obtain rfl | rfl := eq_f32_or_eq_b16 hu <;> obtain rfl | rfl := h <;> exact ⟨_, _, rfl⟩

/-! ### Minima and maxima (R120) -/

/-- A function of two encodings that answers the canonical NaN where either is a NaN, and `z` of two zeros of unequal sign. -/
def PicksOfZeros (u : EType) (fn : EType → Nat → Nat → Nat) (z : Nat) : Prop :=
  ∀ a b, ((decodeF u.fmt a).isNan || (decodeF u.fmt b).isNan → fn u a b = u.fmt.nanBits)
    ∧ (IsZero u a → IsZero u b → a ≠ b → fn u a b = z)

/-- Two zeros that differ have unequal signs. -/
theorem isZero_ne {u : EType} {a b : Nat} (ha : IsZero u a) (hb : IsZero u b) (h : a ≠ b) :
    a = 0 ∧ b = u.fmt.signBit ∨ a = u.fmt.signBit ∧ b = 0 := by
  unfold IsZero at ha hb
  omega

section Picks
variable {u : EType} (hu : u.isFloat = true)
include hu

theorem fminBits_picks : PicksOfZeros u (fun t => fminBits t.fmt) u.fmt.signBit := by
  refine fun a b => ⟨fun hnan => if_pos hnan, fun ha hb hne => ?_⟩
  obtain rfl | rfl := eq_f32_or_eq_b16 hu <;> obtain ⟨rfl, rfl⟩ | ⟨rfl, rfl⟩ := isZero_ne ha hb hne <;> rfl

theorem fmaxBits_picks : PicksOfZeros u (fun t => fmaxBits t.fmt) 0 := by
  refine fun a b => ⟨fun hnan => if_pos hnan, fun ha hb hne => ?_⟩
  obtain rfl | rfl := eq_f32_or_eq_b16 hu <;> obtain ⟨rfl, rfl⟩ | ⟨rfl, rfl⟩ := isZero_ne ha hb hne <;> rfl

/-- VFMIN and VFMAX apply such a function to each pair of elements. -/
theorem exec_of_mem_minmax {i : (TileOp → Instr) × Nat} (hi : i ∈ [(Instr.vfmin, u.fmt.signBit), (.vfmax, 0)]) :
    ∃ fn, PicksOfZeros u fn i.2 ∧ ∀ o s,
      exec (i.1 o) s = issued o .vector (vBinary o floatType EType.bytes fun t a b => FRes.plain (fn t a b)) s := by
  simp only [List.mem_cons, List.not_mem_nil, or_false] at hi
  obtain rfl | rfl := hi
  · exact ⟨_, fminBits_picks hu, fun _ _ => rfl⟩
  · exact ⟨_, fmaxBits_picks hu, fun _ _ => rfl⟩

/-- The zero that each of them picks is an encoding of the type. -/
theorem zeroPick_lt {i : (TileOp → Instr) × Nat} (hi : i ∈ [(Instr.vfmin, u.fmt.signBit), (.vfmax, 0)]) :
    i.2 < 256 ^ u.bytes := by
  have hsign := two_mul_signBit hu
  have hpos : 0 < u.fmt.signBit := Nat.two_pow_pos _
  simp only [List.mem_cons, List.not_mem_nil, or_false] at hi
  obtain rfl | rfl := hi <;> simp only <;> omega

end Picks

/-! ### Compares (R120) -/

/-- What a compare answers where an operand is a NaN, and what of two zeros of any sign. -/
def Answers (u : EType) (fn : EType → Nat → Nat → Bool) (onNan onZeros : Bool) : Prop :=
  ∀ a b, ((decodeF u.fmt a).isNan || (decodeF u.fmt b).isNan → fn u a b = onNan)
    ∧ (IsZero u a → IsZero u b → fn u a b = onZeros)

namespace Answers
variable {u : EType} {fn fn' : EType → Nat → Nat → Bool} {n z n' z' : Bool}

theorem not (h : Answers u fn n z) : Answers u (fun t a b => !fn t a b) (!n) (!z) := fun a b =>
  ⟨fun hnan => congrArg _ ((h a b).1 hnan), fun ha hb => congrArg _ ((h a b).2 ha hb)⟩

theorem or (h : Answers u fn n z) (h' : Answers u fn' n' z') : Answers u (fun t a b => fn t a b || fn' t a b) (n || n') (z || z') :=
  fun a b => ⟨fun hnan => by simp only [(h a b).1 hnan, (h' a b).1 hnan],
    fun ha hb => by simp only [(h a b).2 ha hb, (h' a b).2 ha hb]⟩

theorem swap (h : Answers u fn n z) : Answers u (fun t a b => fn t b a) n z := fun a b =>
  ⟨fun hnan => (h b a).1 (Bool.or_comm _ _ ▸ hnan), fun ha hb => (h b a).2 hb ha⟩

theorem vlt (hu : u.isFloat = true) : Answers u vlt false false := by
  refine fun a b => ⟨fun hnan => ?_, fun ha hb => ?_⟩
  · rw [Machine.vlt, if_pos hu, FVal.ltNum_of_nan hnan]
  · obtain ⟨n, e, ha⟩ := decodeF_of_isZero hu ha
    obtain ⟨k, g, hb⟩ := decodeF_of_isZero hu hb
    rw [Machine.vlt, if_pos hu, ha, hb]
    rfl

theorem veq (hu : u.isFloat = true) : Answers u veq false true := by
  refine fun a b => ⟨fun hnan => ?_, fun ha hb => ?_⟩
  · rw [Machine.veq, if_pos hu, FVal.eqNum_of_nan hnan]
  · obtain ⟨n, e, ha⟩ := decodeF_of_isZero hu ha
    obtain ⟨k, g, hb⟩ := decodeF_of_isZero hu hb
    rw [Machine.veq, if_pos hu, ha, hb]
    rfl

end Answers

/-- The compares, with what each answers of a NaN and of two zeros. -/
def compareAnswers : List ((TileOp → Instr) × Bool × Bool) :=
  [(.vcmpeq, false, true), (.vcmpne, true, false), (.vcmplt, false, false), (.vcmple, false, true), (.vcmpgt, false, false),
   (.vcmpge, false, true)]

theorem exec_of_mem_compareAnswers {u : EType} (hu : u.isFloat = true) {i : (TileOp → Instr) × Bool × Bool}
    (hi : i ∈ compareAnswers) :
    ∃ fn, Answers u fn i.2.1 i.2.2 ∧ ∀ o s, exec (i.1 o) s = issued o .vector (vCompare o fn) s := by
  have heq := Answers.veq hu
  have hlt := Answers.vlt hu
  simp only [compareAnswers, List.mem_cons, List.not_mem_nil, or_false] at hi
  obtain rfl | rfl | rfl | rfl | rfl | rfl := hi
  · exact ⟨_, heq, fun _ _ => rfl⟩
  · exact ⟨_, heq.not, fun _ _ => rfl⟩
  · exact ⟨_, hlt, fun _ _ => rfl⟩
  · exact ⟨_, hlt.or heq, fun _ _ => rfl⟩
  · exact ⟨_, hlt.swap, fun _ _ => rfl⟩
  · exact ⟨_, hlt.swap.or heq, fun _ _ => rfl⟩

/-! ### Signs (R120) -/

/-- A function that leaves every bit of an encoding but its sign, which becomes `sign` of the old one. -/
def SetsSign (u : EType) (fn : EType → Nat → Nat) (sign : Nat → Nat) : Prop :=
  ∀ a, a < 256 ^ u.bytes → fn u a < 256 ^ u.bytes ∧ fn u a % u.fmt.signBit = a % u.fmt.signBit
    ∧ fn u a / u.fmt.signBit = sign (a / u.fmt.signBit)

section Signs
variable {u : EType} (hu : u.isFloat = true)
include hu

theorem abs_setsSign : SetsSign u (fun t a => a % t.fmt.signBit) fun _ => 0 := by
  intro a _
  have hlt : a % u.fmt.signBit < u.fmt.signBit := Nat.mod_lt _ (Nat.two_pow_pos _)
  have hfits : a % u.fmt.signBit < 256 ^ u.bytes := by
    rw [← two_mul_signBit hu]
    omega
  exact ⟨hfits, Nat.mod_mod _ _, Nat.div_eq_of_lt hlt⟩

theorem neg_setsSign : SetsSign u (fun t a => (a + t.fmt.signBit) % (2 * t.fmt.signBit)) fun n => 1 - n := by
  intro a ha
  rw [← two_mul_signBit hu] at ha ⊢
  refine ⟨Nat.mod_lt _ (Nat.mul_pos Nat.two_pos (Nat.two_pow_pos _)), ?_⟩
  obtain rfl | rfl := eq_f32_or_eq_b16 hu <;> simp only [EType.fmt, FFmt.signBit, fp32, bf16] at ha ⊢ <;> omega

/-- VFABS and VFNEG apply such a function to each element. -/
theorem exec_of_mem_signs {i : (TileOp → Instr) × Bool} (hi : i ∈ [(Instr.vfabs, false), (.vfneg, true)]) :
    ∃ fn, SetsSign u fn (fun n => if i.2 then 1 - n else 0) ∧ ∀ o s,
      exec (i.1 o) s = issued o .vector (vUnary o floatType fun t a => FRes.plain (fn t a)) s := by
  simp only [List.mem_cons, List.not_mem_nil, or_false] at hi
  obtain rfl | rfl := hi
  · exact ⟨_, abs_setsSign hu, fun _ _ => rfl⟩
  · exact ⟨_, neg_setsSign hu, fun _ _ => rfl⟩

end Signs

/-! ### The claim -/

theorem getD_map_of_lt {α β : Type} (f : α → β) {l : List α} {e : Nat} (h : e < l.length) (a : α) (b : β) :
    (l.map f).getD e b = f (l.getD e a) := by
  simp only [List.getD_eq_getElem?_getD, List.getElem?_map, List.getElem?_eq_getElem h, Option.map_some, Option.getD_some]

section Claim
variable {o : TileOp} {s : State} {u : EType} (h : Issues o .vector s) (hwf : Mem.wf (tileGet s o.tile).t = true)
  (hety : etypeOf (fmtV o.w).ety = some u) (hu : u.isFloat = true)

section Binary
variable (hfields : vfieldsOk (fmtV o.w) { d := true, a := true, b := true, sb := true } = true)

include h hwf hety hu hfields in
/-- An active element of a two-source result is the function of the elements of the sources. -/
theorem exec_vBinary_elem {i : TileOp → Instr} {fn : EType → Nat → Nat → Nat}
    (hi : exec (i o) s = issued o .vector (vBinary o floatType EType.bytes fun t a b => FRes.plain (fn t a b)) s)
    (hspans : spansOk false [spanOf (fmtV o.w).d (fmtV o.w).n u.bytes]
      (spanOf (fmtV o.w).a (fmtV o.w).n u.bytes :: bSpan (fmtV o.w) u.bytes) = true) :
    ∃ t, exec (i o) s = .next t ∧ ∀ e, e < (fmtV o.w).n → (actives (tileGet s o.tile) (fmtV o.w)).getD e false = true →
      (telems (tileGet t o.tile) (fmtV o.w).d u.bytes (fmtV o.w).n).getD e 0
        = fn u ((telems (tileGet s o.tile) (fmtV o.w).a u.bytes (fmtV o.w).n).getD e 0)
            ((bElems (tileGet s o.tile) (fmtV o.w) u.bytes).getD e 0) % 256 ^ u.bytes := by
  refine ⟨_, hi.trans (issued_vResult h (vBinary_eq hety hu _ hfields hspans)), fun e he hact => ?_⟩
  rw [tileGet_pcNext, telems_vResult_active hwf (by simp [telems_length, bElems_length]) he hact (FRes.plain 0),
    getD_zipWith _ (by rw [telems_length]; exact he) (by rw [bElems_length]; exact he) 0 0]
  rfl

include h hety hfields in
/-- The bit of an active element is the comparison of the elements of the sources. -/
theorem exec_vCompare_bit {i : TileOp → Instr} {fn : EType → Nat → Nat → Bool}
    (hi : exec (i o) s = issued o .vector (vCompare o fn) s) (hd : (fmtV o.w).d < 8)
    (hspans : spansOk false [] (spanOf (fmtV o.w).a (fmtV o.w).n u.bytes :: bSpan (fmtV o.w) u.bytes) = true) :
    ∃ t, exec (i o) s = .next t ∧ ∀ e, e < (fmtV o.w).n → (actives (tileGet s o.tile) (fmtV o.w)).getD e false = true →
      pbit (tileGet t o.tile) (fmtV o.w).d e
        = fn u ((telems (tileGet s o.tile) (fmtV o.w).a u.bytes (fmtV o.w).n).getD e 0)
            ((bElems (tileGet s o.tile) (fmtV o.w) u.bytes).getD e 0) := by
  refine ⟨_, hi.trans (issued_tileSet h (vCompare_eq hety hd fn hfields hspans)), fun e he hact => ?_⟩
  rw [tileGet_pcNext, tileGet_tileSet, pbit_predicatedBits (compareBits_length fn u _ _) he (fmtV_n_le o.w), if_pos hact]
  exact compareBits_getD fn u _ he

end Binary

include h hwf hety hu in
/-- An active element of a one-source result is the function of the element of the source. -/
theorem exec_vUnary_elem {i : TileOp → Instr} {fn : EType → Nat → Nat}
    (hi : exec (i o) s = issued o .vector (vUnary o floatType fun t a => FRes.plain (fn t a)) s)
    (hfields : vfieldsOk (fmtV o.w) { d := true, a := true } = true)
    (hspans : spansOk false [spanOf (fmtV o.w).d (fmtV o.w).n u.bytes] [spanOf (fmtV o.w).a (fmtV o.w).n u.bytes] = true) :
    ∃ t, exec (i o) s = .next t ∧ ∀ e, e < (fmtV o.w).n → (actives (tileGet s o.tile) (fmtV o.w)).getD e false = true →
      (telems (tileGet t o.tile) (fmtV o.w).d u.bytes (fmtV o.w).n).getD e 0
        = fn u ((telems (tileGet s o.tile) (fmtV o.w).a u.bytes (fmtV o.w).n).getD e 0) % 256 ^ u.bytes := by
  refine ⟨_, hi.trans (issued_vResult h (vUnary_eq hety hu _ hfields hspans)), fun e he hact => ?_⟩
  rw [tileGet_pcNext, telems_vResult_active hwf (by rw [List.length_map, telems_length]) he hact (FRes.plain 0),
    getD_map_of_lt _ (by rw [telems_length]; exact he) 0]
  rfl

end Claim

/-- Settles O56, by what the functions of each instruction make of NaNs, zeros and signs. -/
theorem nansAndZerosCompareAsStated : Obligations.NansAndZerosCompareAsStated := by
  unfold Obligations.NansAndZerosCompareAsStated
  refine fun o s u h hwf hety hu =>
    ⟨fun hfields => ⟨fun hspans i hi => ?_, fun hd hspans i hi => ?_⟩, fun hfields hspans i hi => ?_⟩
  · obtain ⟨fn, hpicks, hi'⟩ := exec_of_mem_minmax hu hi
    obtain ⟨t, ht, helem⟩ := exec_vBinary_elem h hwf hety hu hfields (hi' o s) hspans
    refine ⟨t, ht, fun e he hact => ⟨fun hnan => ?_, fun ha hb hne => ?_⟩⟩
    · rw [helem e he hact, (hpicks _ _).1 hnan, Nat.mod_eq_of_lt (nanBits_lt hu)]
    · rw [helem e he hact, (hpicks _ _).2 ha hb hne, Nat.mod_eq_of_lt (zeroPick_lt hu hi)]
  · obtain ⟨fn, hanswers, hi'⟩ := exec_of_mem_compareAnswers hu hi
    obtain ⟨t, ht, hbit⟩ := exec_vCompare_bit h hety hfields (hi' o s) hd hspans
    refine ⟨t, ht, fun e he hact => ⟨fun hnan => ?_, fun ha hb => ?_⟩⟩
    · rw [hbit e he hact, (hanswers _ _).1 hnan]
    · rw [hbit e he hact, (hanswers _ _).2 ha hb]
  · obtain ⟨fn, hsets, hi'⟩ := exec_of_mem_signs hu hi
    obtain ⟨t, ht, helem⟩ := exec_vUnary_elem h hwf hety hu (hi' o s) hfields hspans
    refine ⟨t, ht, fun e he hact => ?_⟩
    obtain ⟨hlt, hrest, hsign⟩ := hsets _ (telems_getD_lt (tileGet s o.tile) (fmtV o.w).a u.bytes he)
    rw [helem e he hact, Nat.mod_eq_of_lt hlt]
    exact ⟨hrest, hsign⟩

end Sys2Proof.Machine
end

section
/-! The KV walker's requests (R146 to R152, R157 to R161, R168, R169): what each answers where nothing disturbs the walker's reads. -/
namespace Sys2Proof.Machine

/-! ### A request is taken (R146, R149, R598) -/

/-- The slot of a request that no injection and no failed line strikes is read with nothing met. -/
theorem slotMeets_undisturbed {tile : Nat} {s : State} (hinj : injectHit s 2 (globalTile s tile) (tickOf s (partOfTile s tile)) = false)
    (hslot : slotBad s tile = false) : slotMeets tile none s = (none, s) := by
  have hlines : (linesOf (ringSlot (tileGet s tile).ring (tileGet s tile).requests) 32).any (tileGet s tile).badLines.contains = false :=
    hslot
  simp only [slotMeets, storeMeets, hinj, correctedCount, hlines, Bool.false_eq_true, if_false, reduceCtorEq]

/-- The deliveries that a gather owes, one for each page that its tokens touch (R150, R152). -/
def gatherOwes (τ : Tile) (tile root tpp : Nat) (r : WalkReq) : List Delivery :=
  let p0 := r.first / tpp
  let p1 := (r.first + r.count - 1) / tpp
  (List.range (p1 - p0 + 1)).map fun i =>
    let lo := max r.first ((p0 + i) * tpp)
    let hi := min (r.first + r.count) ((p0 + i + 1) * tpp)
    { tile := tile, req := τ.requests, slot := τ.deliveries + i, page := p0 + i, layout := r.layout, plane := r.plane
      layer := r.layer, first := lo % tpp, count := hi - lo, ctx := τ.ctx, entry := r.entry, root := root
      last := p0 + i == p1 }

theorem gatherOwes_length (τ : Tile) (tile root tpp : Nat) (r : WalkReq) :
    (gatherOwes τ tile root tpp r).length = (r.first + r.count - 1) / tpp - r.first / tpp + 1 := by
  simp [gatherOwes]

theorem mem_gatherOwes {τ : Tile} {tile root tpp : Nat} {r : WalkReq} {d : Delivery} (h : d ∈ gatherOwes τ tile root tpp r) :
    d.tile = tile ∧ d.root = root ∧ d.plane = r.plane ∧ d.layer = r.layer := by
  obtain ⟨i, -, rfl⟩ := List.mem_map.1 h
  exact ⟨rfl, rfl, rfl, rfl⟩

/-- A gather's deliveries are owed and counted, and its tile has a request in hand (R150, R174). -/
def gatherTaken (tile : Nat) (ds : List Delivery) (s : State) : State :=
  let t := tileMod tile (fun τ => { τ with deliveries := τ.deliveries + ds.length })
    (bayMod (bayOf tile) (fun b => { b with owed := b.owed ++ ds }) s)
  reqTaken tile (fset F.kvwStatus_active (bayOf tile) (fget t F.kvwStatus_active (bayOf tile) ||| 2 ^ (tile % 8)) t)

theorem bayGet_gatherTaken (tile : Nat) (ds : List Delivery) (s : State) :
    (bayGet (gatherTaken tile ds s) (bayOf tile)).owed = (bayGet s (bayOf tile)).owed ++ ds :=
  congrArg Bay.owed (bayGet_baySet ..)

theorem tileGet_gatherTaken (tile : Nat) (ds : List Delivery) (s : State) :
    tileGet (gatherTaken tile ds s) tile = { tileGet s tile with
      deliveries := (tileGet s tile).deliveries + ds.length, requests := (tileGet s tile).requests + 1
      sync := (tileGet (gatherTaken tile ds s) tile).sync } := by
  unfold gatherTaken reqTaken syncSet tileMod
  simp only [tileGet_tileSet]
  have hkeep : ∀ (f : Fld) (i v : Nat) (u : State), tileGet (fset f i v u) tile = tileGet u tile := fun _ _ _ _ => rfl
  simp only [hkeep, tileGet_tileSet]
  rfl

/-- The records that an append hands to staging, each encoded and placed in the page of its position (R157 to R159). -/
def appendStages (s : State) (tile root : Nat) (k : KvLayout) (r : WalkReq) : Except KvErr (List Staged) :=
  (List.range r.count).mapM fun i => do
    let a ← kvPage s (kvCache s tile) (partOfTile s tile) root k r.layer r.plane ((r.first + i) / k.tpp r.plane)
    return { kind := .append r.layer, tile := tile, ctx := (tileGet s tile).ctx, va := 0
             addr := a + (r.first + i) % k.tpp r.plane * k.recBytes r.plane
             data := appendRecord k r.plane r.scale
               (storeRead s tile (r.addr + i * appendSrcBytes k r.plane) (appendSrcBytes k r.plane)) }

section Request
variable {tile : Nat} {s : State} {r : WalkReq} {b : List Byte} {k : KvLayout}
  (hinj : injectHit s 2 (globalTile s tile) (tickOf s (partOfTile s tile)) = false)
  (hreq : nextReq s tile = some r) (hslot : slotBad s tile = false)
  (hentry : r.entry < entryCount s (partOfTile s tile)) (hbatch : batchEntry s (partOfTile s tile) r.entry = .ok b)
include hinj hreq hslot hentry hbatch

section Session
variable (hlayer : layerHeld s (partOfTile s tile) r.layer = false)
  (hk : kvLayout s (kvCache s tile) (partOfTile s tile) (recAt b 32 8) = .ok k) (hplane : r.plane < k.planes) (hlayers : r.layer < k.layers)
include hlayer hk hplane hlayers

/-- A gather with a sound form, within its session's context, owes its deliveries (R149 to R152). -/
theorem exec_gather (hop : r.op = 1)
    (hlayout : r.layout ≤ 2) (hone : 1 ≤ r.count) (hcount : r.count ≤ 1048576) (hscale : r.scale = 0) (haddr : r.addr = 0)
    (hzero : r.zero = 0) (hpanel : r.layout = 0 ∨ 32 ≤ k.tpp r.plane) (hend : r.first + r.count ≤ recAt b 8 4) :
    exec (.gather ⟨tile, none⟩) s
      = .next (gatherTaken tile (gatherOwes (tileGet s tile) tile (recAt b 32 8) (k.tpp r.plane) r) s) := by
  have hturn : ¬ (r.op = 2 ∨ r.op = 3 ∨ layerHeld s (partOfTile s tile) r.layer = true) := by simp [hop, hlayer]
  have hform : ¬ (r.op ≠ 1 ∨ r.layout > 2 ∨ r.count < 1 ∨ r.count > 1048576 ∨ r.scale ≠ 0 ∨ r.addr ≠ 0 ∨ r.zero ≠ 0
      ∨ r.entry ≥ entryCount s (partOfTile s tile)) := by omega
  have hfits : ¬ (r.plane ≥ k.planes ∨ r.layer ≥ k.layers ∨ (r.layout ≠ 0 ∧ k.tpp r.plane < 32)) := by omega
  change execGather ⟨tile, none⟩ s = _
  simp only [execGather, hreq, hslot, slotMeets_undisturbed hinj hslot, hbatch, hk, Bool.false_eq_true, if_false, if_neg hturn,
    if_neg hform, if_neg hfits, if_neg (Nat.not_lt.2 hend)]
  rfl

/-- An append with a sound form, at the end of its session's context, whose pages are found, hands its records to staging (R157 to
R159). -/
theorem exec_append {es : List Staged} (hop : r.op = 2) (hlayout : r.layout = 0) (hone : 1 ≤ r.count) (hcount : r.count ≤ 8192)
    (hscale : r.scale ≠ 255) (hzero : r.zero = 0) (haddr : r.addr < 2 ^ 20) (haligned : r.addr % 64 = 0)
    (hregion : regionOk s tile r.addr (r.count * appendSrcBytes k r.plane) = true) (hfirst : recAt b 8 4 ≤ r.first)
    (hend : r.first + r.count ≤ recAt b 8 4 + recAt b 12 4)
    (hlines : walkBad s tile r.addr (r.count * appendSrcBytes k r.plane) = false)
    (hes : appendStages s tile (recAt b 32 8) k r = .ok es) :
    exec (.append ⟨tile, none⟩ false) s = .next (reqTaken tile (kvwCount tile (r.count * k.recBytes r.plane)
      (stageAllLogged tile (partOfTile s tile) es s))) := by
  have hturn : ¬ (r.op ≠ 2 ∨ layerHeld s (partOfTile s tile) r.layer = true) := by simp [hop, hlayer]
  have hform : ¬ (r.layout ≠ 0 ∨ r.count < 1 ∨ r.count > 8192 ∨ r.scale = 255 ∨ r.zero ≠ 0 ∨ r.addr ≥ 2 ^ 20 ∨ r.addr % 64 ≠ 0
      ∨ r.entry ≥ entryCount s (partOfTile s tile)) := by omega
  have hfits : ¬ (r.plane ≥ k.planes ∨ r.layer ≥ k.layers
      ∨ (!regionOk s tile r.addr (r.count * appendSrcBytes k r.plane)) = true) := by
    rw [hregion]
    simp only [Bool.not_true, Bool.false_eq_true, or_false]
    omega
  have hrange : ¬ (r.first < recAt b 8 4 ∨ r.first + r.count > recAt b 8 4 + recAt b 12 4) := by omega
  unfold appendStages at hes
  change execAppend ⟨tile, none⟩ false s = _
  simp only [execAppend, hreq, hslot, slotMeets_undisturbed hinj hslot, hbatch, hk, hlines, hes, Bool.false_eq_true, if_false,
    if_neg hturn, if_neg hform, if_neg hfits, if_neg hrange]

end Session

/-- A mask with a sound form, of a draft tree, stores its 64 rows (R168, R169). -/
theorem exec_mask (hop : r.op = 3) (hlayout : r.layout = 0) (hplane : r.plane = 0) (hlayer : r.layer = 0) (hfirst : r.first = 0)
    (hone : 1 ≤ r.count) (hcount : r.count ≤ 64) (hscale : r.scale = 0) (hzero : r.zero = 0) (haddr : r.addr < 2 ^ 20)
    (haligned : r.addr % 64 = 0) (hregion : regionOk s tile r.addr 512 = true)
    (hparents : parentsOk (((b.drop 64).take r.count).map (·.toNat)) = true) :
    exec (.mask ⟨tile, none⟩) s = .next (reqTaken tile (storeWrite tile r.addr
      ((padTo 64 0 (maskRows (((b.drop 64).take r.count).map (·.toNat)))).flatMap (leBytes 8)) s)) := by
  have hform : ¬ (r.layout ≠ 0 ∨ r.plane ≠ 0 ∨ r.layer ≠ 0 ∨ r.first ≠ 0 ∨ r.count < 1 ∨ r.count > 64 ∨ r.scale ≠ 0 ∨ r.zero ≠ 0
      ∨ r.addr ≥ 2 ^ 20 ∨ r.addr % 64 ≠ 0 ∨ r.entry ≥ entryCount s (partOfTile s tile)
      ∨ (!regionOk s tile r.addr 512) = true) := by
    rw [hregion]
    simp only [Bool.not_true, Bool.false_eq_true, or_false]
    omega
  change execMask ⟨tile, none⟩ s = _
  simp only [execMask, hreq, hslot, slotMeets_undisturbed hinj hslot, hbatch, hop, hparents, Bool.not_true, Bool.false_eq_true,
    if_false, if_neg hform, ne_eq, not_true_eq_false]

end Request

/-! ### A delivery lands (R150 to R152) -/

theorem tiles_countReads (a n cls : Nat) (s : State) : (countReads a n cls s).tiles = s.tiles :=
  tiles_foldl (fun _ _ => (tiles_slcMem ..).trans (tiles_fwrap ..)) _ s

theorem tiles_kvNote (b cls : Nat) (qs : List Nat) (s : State) : (kvNote b cls qs s).tiles = s.tiles :=
  tiles_foldl (fun _ _ => tiles_ite rfl ((baySet_tiles ..).trans (tiles_countReads ..))) qs s

theorem tiles_kvwCount (t n : Nat) (s : State) : (kvwCount t n s).tiles = s.tiles :=
  (perfCount_only ..).tiles.trans (tiles_fwrap ..)

theorem tiles_kvwIdle (t : Nat) (s : State) : (kvwIdle t s).tiles = s.tiles := rfl

theorem landPage_only (t base page : Nat) (k : KvLayout) (d : Delivery) (s : State) : OnlyStore s (landPage s t base page k d) :=
  OnlyStore.foldl (fun _ _ => OnlyStore.foldl (fun _ _ => storeWrite_only ..) _ _) _ s

theorem doneGet_of_tiles {s t : State} (h : t.tiles = s.tiles) (j n : Nat) : doneGet t j n = doneGet s j n := by
  unfold doneGet tileGet
  rw [h]

theorem OnlyStore.doneGet {s t : State} (h : OnlyStore s t) (j n : Nat) : doneGet t j n = doneGet s j n := by
  unfold Machine.doneGet
  rw [h.tile j]

/-- Raising a completion counter adds to it, modulo 2^32 (R92). -/
theorem doneGet_doneBump (t k n : Nat) (s : State) : doneGet (doneBump t k n s) t k = (doneGet s t k + n) % 2 ^ 32 := by
  unfold doneGet doneBump tileMod
  rw [tileGet_tileSet, Map.get_set_same, BitVec.toNat_add, BitVec.toNat_ofNat, Nat.add_mod_mod]

/-- What a landed delivery leaves: the sectors read are cached and counted, its records stand in their slot, and it is owed no longer
(R151, R152, R154, R174, R176). -/
def delivered (tile a : Nat) (k : KvLayout) (d : Delivery) (s : State) : State :=
  let p := partOfTile s tile
  let cls := kvWalkClass s p d.entry
  let t := countReads (a + d.first * k.recBytes d.plane) (d.count * k.recBytes d.plane) cls
    (kvNote (bayOf tile) cls (kvSectors s (kvCache s tile) p d.root k d.layer d.plane d.page) s)
  let u := bayMod (bayOf tile) (fun b => { b with owed := b.owed.erase d })
    (kvwCount tile (d.count * k.recBytes d.plane) (landPage t tile (landSlot (tileGet s tile).ring d.slot) a k d))
  if ((bayGet s (bayOf tile)).owed.erase d).any (fun d => d.tile == tile) then u else kvwIdle tile u

theorem doneGet_delivered (tile a : Nat) (k : KvLayout) (d : Delivery) (s : State) (j n : Nat) :
    doneGet (delivered tile a k d s) j n = doneGet s j n := by
  unfold delivered
  extract_lets p cls t u
  have ht : doneGet t j n = doneGet s j n := doneGet_of_tiles ((tiles_countReads ..).trans (tiles_kvNote ..)) j n
  have hu : doneGet u j n = doneGet t j n := (doneGet_of_tiles (tiles_kvwCount ..) j n).trans ((landPage_only ..).doneGet j n)
  exact (doneGet_of_tiles (tiles_ite rfl (tiles_kvwIdle ..)) j n).trans (hu.trans ht)

/-- The oldest delivery owed to a tile, with a slot free and its page found, lands, and KV rises (R150). -/
theorem exec_kvDeliveryComplete {tile a : Nat} {d : Delivery} {k : KvLayout} {s : State}
    (howed : (bayGet s (bayOf tile)).owed.find? (fun d => d.tile == tile) = some d)
    (hfree : d.slot < syncGet s tile 15 + landSlots (tileGet s tile).ring)
    (hk : kvLayout s (kvCache s tile) (partOfTile s tile) d.root = .ok k)
    (ha : kvPage s (kvCache s tile) (partOfTile s tile) d.root k d.layer d.plane d.page = .ok a)
    (hread : firstLost s (a + d.first * k.recBytes d.plane) (d.count * k.recBytes d.plane) = none) :
    exec (.kvDeliveryComplete tile) s = .next (doneBump tile 3 1 (delivered tile a k d s)) := by
  change execKvDeliveryComplete tile s = _
  simp only [execKvDeliveryComplete, howed, if_neg (Nat.not_le.2 hfree), hk, ha, bind, Except.bind, hread]
  rfl

/-! ### The claim -/

/-- Settles O11, by the rule of each request and of a delivery. -/
theorem walkerRequestsComplete : Obligations.WalkerRequestsComplete := by
  unfold Obligations.WalkerRequestsComplete
  intro tile s hinj p
  refine ⟨fun r b k hreq hslot hlayer hop hlayout hone hcount hscale haddr hzero hentry hbatch hk hplane hlayers hpanel hend => ?_,
    fun d k a howed hfree hk ha hread => ?_,
    fun r b k es hreq hslot hlayer hop hlayout hone hcount hscale hzero haddr haligned hentry hbatch hk hplane hlayers hregion hfirst
      hend hlines hes =>
      exec_append hinj hreq hslot hentry hbatch hlayer hk hplane hlayers hop hlayout hone hcount hscale hzero haddr haligned hregion
        hfirst hend hlines hes,
    fun r b hreq hslot hop hlayout hplane hlayer hfirst hone hcount hscale hzero haddr haligned hentry hregion hbatch hparents =>
      exec_mask hinj hreq hslot hentry hbatch hop hlayout hplane hlayer hfirst hone hcount hscale hzero haddr haligned hregion hparents⟩
  · refine ⟨_, _, exec_gather hinj hreq hslot hentry hbatch hlayer hk hplane hlayers hop hlayout hone hcount hscale haddr hzero hpanel
      hend, gatherOwes_length .., bayGet_gatherTaken .., fun d => mem_gatherOwes, ?_, ?_⟩
    · rw [tileGet_gatherTaken]
    · rw [tileGet_gatherTaken]
  · refine ⟨_, exec_kvDeliveryComplete howed hfree hk ha hread, ?_⟩
    rw [doneGet_doneBump, doneGet_delivered]

end Sys2Proof.Machine
end

section
/-! Tick and session commands (R142, R162, R186, R188, R449, R474, R476, R506, R511): what each answers once it has passed the checks
of every command. -/
namespace Sys2Proof.Machine

/-! ### Edge-applied commands (R474) -/

/-- A field of a field is a field of the whole. -/
theorem bitsAt_bitsAt (n : Nat) {lo w w' : Nat} (h : lo + w' ≤ w) : bitsAt (bitsAt n 0 w) lo w' = bitsAt n lo w' := by
  refine Nat.eq_of_testBit_eq fun i => ?_
  simp only [bitsAt, Nat.testBit_mod_two_pow, Nat.testBit_div_two_pow, Nat.add_zero]
  by_cases hi : i < w'
  · simp [show i + lo < w by omega]
  · simp [hi]

section Edge
variable {op id : Nat} {c d : Cmd} {s t : State} {f : Cmd → State → Done × State}

/-- A start that ends as an edge-applied command waits where an apply is to come. -/
theorem startOp_edge_waits (h : Starts op id c s) (hf : f c s = edgeStart d t) (hw : willApply t (edgePart t d) = true) :
    (Host.Outcome.next (startOp op f id s) : Result) = .next (sweep (setStep id .edge t)) :=
  startOp_wait h (hf.trans (edgeStart_waits hw))

/-- And is applied at once where none is. -/
theorem startOp_edge_applied {u : State} {k m n : Nat} {e : List Byte} (h : Starts op id c s) (hf : f c s = edgeStart d t)
    (hw : willApply t (edgePart t d) = false) (ha : edgeApply d t = (.done k m n e, u)) :
    (Host.Outcome.next (startOp op f id s) : Result) = .next (finish c k m n e u) :=
  startOp_done h (hf.trans ((edgeStart_applies hw).trans ha))

end Edge

/-! ### What SESS_SET writes (R188, R476, R511) -/

/-- The record that SESS_SET gives a session of a context. -/
def sessNew (k : Packet) (ctx : Nat) : Sess where
  mode := 0
  prefillCls := bitsAt k.w2 0 3
  decodeCls := bitsAt k.w2 3 3
  urgency := bitsAt k.w2 6 2
  maxDrafts := bitsAt k.w2 8 8
  nextDrafts := 0
  c := bitsAt k.w4 0 32
  reserve := bitsAt k.w4 32 32
  remaining := 0
  lastToken := bitsAt k.w5 0 32
  outRing := bitsAt k.w2 16 20
  ctx := ctx
  age := 0
  kvRoot := k.w3
  nextVA := 0

/-- The provenance chain of a queue starts, where its partition has a table. -/
def chainStarted (q p : Nat) (r : TickRec) (s : State) : State := match provAt s p q r with
  | some a => devStore (a + 72) (leBytes 8 0) (devStore a (padTo 64 0 (provStart q p)) s)
  | none => s

theorem chainStarted_of_none {q p : Nat} {r : TickRec} {s : State} (h : provAt s p q r = none) : chainStarted q p r s = s := by
  unfold chainStarted
  rw [h]

theorem chainStarted_of_some {q p a : Nat} {r : TickRec} {s : State} (h : provAt s p q r = some a) :
    chainStarted q p r s = devStore (a + 72) (leBytes 8 0) (devStore a (padTo 64 0 (provStart q p)) s) := by
  unfold chainStarted
  rw [h]

/-! ### The queue that a session command names -/

section Session
variable {s : State} {c : Cmd} {q p : Nat} {r : TickRec} (hq : sessQueue s c = .ok (q, p, r))
include hq

theorem sessQueue_ok : q = bitsAt c.pkt.w1 0 20 ∧ p = (ctxGet s (queueGet s (bitsAt c.pkt.w1 0 20)).ctx).part := by
  unfold sessQueue at hq
  extract_lets q' d p' w at hq
  split at hq
  · cases hq
  · split at hq
    · cases hq
    · split at hq
      · split at hq
        · simp only [Except.ok.injEq, Prod.mk.injEq] at hq
          obtain ⟨hq, hp, -⟩ := hq
          exact ⟨hq.symm, hp.symm⟩
        · cases hq
      · cases hq

theorem edgePart_session (hresume : c.pkt.opcode ≠ 0x0104) (hload : c.pkt.opcode ≠ 0x0302) : edgePart s c = p := by
  obtain ⟨-, rfl⟩ := sessQueue_ok hq
  unfold edgePart
  split
  · contradiction
  · contradiction
  · rfl

theorem onSession_ok (h : Cmd → State → Done × State) : onSession h c s = h c s := by
  unfold onSession
  rw [hq]

/-! ### What each command does as it is applied -/

theorem applySessSet_idle (hidle : (sessGet s r q).mode = 0) :
    applySessSet c s = (.st 0, chainStarted q p r (sessPut r q (sessNew c.pkt (queueGet s q).ctx) s)) := by
  have hfield : ∀ {lo w : Nat}, lo + w ≤ 8 → bitsAt (bitsAt c.pkt.w2 0 8) lo w = bitsAt c.pkt.w2 lo w := bitsAt_bitsAt _
  simp only [applySessSet, hq, hidle, ne_eq, not_true_eq_false, if_false]
  rw [hfield (by decide), hfield (by decide), hfield (by decide)]
  rfl

theorem applySessReserve_fits
    (h : (sessGet s r q).c + (if (sessGet s r q).mode = 1 then min (sessGet s r q).remaining 8192 else 1 + (sessGet s r q).maxDrafts)
      ≤ bitsAt c.pkt.w2 0 32) :
    applySessReserve c s = (.st 0, sessPut r q { sessGet s r q with reserve := bitsAt c.pkt.w2 0 32 } s) := by
  simp only [applySessReserve, hq, if_neg (Nat.not_lt.2 h)]

theorem applySessReset_rests (h : (sessGet s r q).mode = 0 ∨ (sessGet s r q).mode = 3) :
    let t := sessPut r q { sessGet s r q with mode := 0 } s
    applySessReset c s
      = (.st 0, if bitOn c.pkt.w2 0 = true then queueMod q (fun d => { d with cidx := d.pidx }) t else t) := by
  have hrests : ¬ ((sessGet s r q).mode ≠ 0 ∧ (sessGet s r q).mode ≠ 3) := by omega
  simp only [applySessReset, hq, if_neg hrests]

/-- What KV_MAP and KV_UNMAP need of the session's layout (R143, R476), and where their entries stand. -/
theorem applyKvMap_writes {unmap : Bool} {k : KvLayout} {addrs : List Nat} (hk : kvLayout s [] p (sessGet s r q).kvRoot = .ok k)
    (hplane : (kvCmdOf c.pkt).plane < k.planes) (hlayers : (kvCmdOf c.pkt).hi < k.layers)
    (hend : (kvCmdOf c.pkt).first + (kvCmdOf c.pkt).count ≤ if (kvCmdOf c.pkt).spine then k.spineLen else k.spineLen * 64)
    (hreserve : unmap = true → (sessGet s r q).reserve
      ≤ (kvCmdOf c.pkt).first * (k.tpp (kvCmdOf c.pkt).plane * (if (kvCmdOf c.pkt).spine then 64 else 1)))
    (haddrs : kvCmdAddrs s p (sessGet s r q).kvRoot k (kvCmdOf c.pkt) = .ok addrs) :
    applyKvMap unmap c s = (.st 0, addrs.zipIdx.foldl (fun s a =>
      devStore a.1 (if unmap then leBytes 8 0 else (c.payload.drop (8 * a.2)).take 8) s) s) := by
  have hfits : ¬ ((kvCmdOf c.pkt).plane ≥ k.planes ∨ (kvCmdOf c.pkt).hi ≥ k.layers
      ∨ (kvCmdOf c.pkt).first + (kvCmdOf c.pkt).count > (if (kvCmdOf c.pkt).spine then k.spineLen else k.spineLen * 64)
      ∨ (unmap = true ∧ (kvCmdOf c.pkt).first * (k.tpp (kvCmdOf c.pkt).plane * (if (kvCmdOf c.pkt).spine then 64 else 1))
        < (sessGet s r q).reserve)) := by
    rintro (h | h | h | ⟨hu, h⟩)
    · exact absurd hplane (Nat.not_lt.2 h)
    · exact absurd hlayers (Nat.not_lt.2 h)
    · exact absurd hend (Nat.not_le.2 h)
    · exact absurd (hreserve hu) (Nat.not_le.2 h)
  simp only [applyKvMap, hq, hk, haddrs, if_neg hfits]

end Session
/-! ### A command that reads a list or an image as it starts (R474, R476)

The bytes are kept with the command, and nothing that its meaning looks at changes. -/

theorem edgeRead_ok {s : State} {c : Cmd} {w n x va : Nat} {host bs : List Byte}
    (horef : orefRange s (ctxGet s c.pkt.ctx).part w n = .ok (x, va)) (hread : vaRead s x (piecesOf va n) host = .ok bs) :
    edgeRead c w n host s = edgeStart { c with payload := bs } (setPayload c.id bs s) := by
  simp only [edgeRead, horef, hread]

section Payload
variable (id : Nat) (bs : List Byte) (s : State)

theorem sessQueue_setPayload (c : Cmd) : sessQueue (setPayload id bs s) { c with payload := bs } = sessQueue s c := rfl

theorem kvLayout_setPayload (m : KvCache) (p root : Nat) : kvLayout (setPayload id bs s) m p root = kvLayout s m p root := rfl

theorem kvCmdAddrs_setPayload (p root : Nat) (k : KvLayout) (v : KvCmd) :
    kvCmdAddrs (setPayload id bs s) p root k v = kvCmdAddrs s p root k v := rfl

theorem edgePart_setPayload (c : Cmd) : edgePart (setPayload id bs s) { c with payload := bs } = edgePart s c := rfl

end Payload

/-! ### The commands -/

theorem exec_partTick {id : Nat} {c : Cmd} {r : TickRec} {s : State} (h : Starts 0x0301 id c s)
    (hoff : (partGet s (bitsAt c.pkt.w1 0 8)).enabled = false) (hlock : fget s F.partSec_tdisp (bitsAt c.pkt.w1 0 8) ≠ 1)
    (hrun : fget s F.partSec_tdisp (bitsAt c.pkt.w1 0 8) ≠ 2) (hread : lostSector s c.pkt.w2 64 = false)
    (hr : tickRecOf (memRead s c.pkt.w2 64) = some r) (hin : tickRecIn s (bitsAt c.pkt.w1 0 8) r = true) :
    exec (.partTick id) s
      = .next (finish c 0 0 0 [] (partMod (bitsAt c.pkt.w1 0 8) (fun w => { w with offered := some r }) s)) := by
  have htdisp : [1, 2].contains (fget s F.partSec_tdisp (bitsAt c.pkt.w1 0 8)) = false := by simp [hlock, hrun]
  exact startOp_done h (by simp only [doPartTick, hoff, htdisp, hread, hr, hin, Bool.false_eq_true, if_false, if_true]; rfl)

section Resume
variable {id : Nat} {c : Cmd} {s : State} (h : Starts 0x0104 id c s) (hctx : (ctxGet s (bitsAt c.pkt.w1 0 16)).state ≠ .free)
include h

theorem edgePart_resume : edgePart s c = (ctxGet s (bitsAt c.pkt.w1 0 16)).part := by
  simp only [edgePart, h.opcode]

include hctx

theorem exec_ctxResume_waits (hw : willApply s (ctxGet s (bitsAt c.pkt.w1 0 16)).part = true) :
    exec (.ctxResume id) s = .next (sweep (setStep id .edge s)) :=
  startOp_edge_waits h (if_neg hctx) (by rw [edgePart_resume h]; exact hw)

theorem exec_ctxResume_applied (hw : willApply s (ctxGet s (bitsAt c.pkt.w1 0 16)).part = false)
    (hfaulted : (ctxGet s (bitsAt c.pkt.w1 0 16)).state = .faulted) :
    exec (.ctxResume id) s
      = .next (finish c 0 0 0 [] (ctxMod (bitsAt c.pkt.w1 0 16) (fun k => { k with state := .active }) s)) :=
  startOp_edge_applied h (if_neg hctx) (by rw [edgePart_resume h]; exact hw)
    (by simp only [edgeApply, h.opcode, applyResume, hfaulted, if_true]; rfl)

end Resume

/-- A command on the KV tables that names some entries is not refused as it starts. -/
theorem kvCmd_named {v : KvCmd} (hlo : v.lo ≤ v.hi) (hcount : v.count ≠ 0) (e g : Done × State) :
    (if v.lo > v.hi ∨ v.count = 0 then e else g) = g :=
  if_neg fun h => h.elim (fun h => absurd hlo (Nat.not_le.2 h)) hcount

section Commands
variable {id q p op : Nat} {c : Cmd} {r : TickRec} {s : State} (hq : sessQueue s c = .ok (q, p, r))
include hq

/-- A command on a session waits for the apply of the session's partition. -/
theorem willApply_session (h : Starts op id c s) (hop : op ≠ 0x0104 ∧ op ≠ 0x0302) : willApply s (edgePart s c) = willApply s p := by
  rw [edgePart_session hq (h.opcode ▸ hop.1) (h.opcode ▸ hop.2)]

section Start
variable {f : Cmd → State → Done × State} (h : Starts op id c s) (hop : op ≠ 0x0104 ∧ op ≠ 0x0302) (hf : f c s = edgeStart c s)
include h hop hf

theorem startOp_session_waits (hw : willApply s p = true) :
    (Host.Outcome.next (startOp op f id s) : Result) = .next (sweep (setStep id .edge s)) :=
  startOp_edge_waits h hf ((willApply_session hq h hop).trans hw)

theorem startOp_session_applied {u : State} (hw : willApply s p = false) (ha : edgeApply c s = (.st 0, u)) :
    (Host.Outcome.next (startOp op f id s) : Result) = .next (finish c 0 0 0 [] u) :=
  startOp_edge_applied h hf ((willApply_session hq h hop).trans hw) ha

end Start

theorem sessSet_start (hdrafts : bitsAt c.pkt.w2 8 8 ≤ 64) :
    onSession (fun c s => if bitsAt c.pkt.w2 8 8 > 64 then (.st 0x02, s) else edgeStart c s) c s = edgeStart c s :=
  (onSession_ok hq _).trans (if_neg (Nat.not_lt.2 hdrafts))

theorem exec_sessSet_applied (h : Starts 0x0303 id c s) (hdrafts : bitsAt c.pkt.w2 8 8 ≤ 64) (hw : willApply s p = false)
    (hidle : (sessGet s r q).mode = 0) :
    exec (.sessSet id) s
      = .next (finish c 0 0 0 [] (chainStarted q p r (sessPut r q (sessNew c.pkt (queueGet s q).ctx) s))) :=
  startOp_session_applied hq h (by decide) (sessSet_start hq hdrafts) hw (by simp only [edgeApply, h.opcode, applySessSet_idle hq hidle])

theorem exec_sessReserve_applied (h : Starts 0x0304 id c s) (hw : willApply s p = false)
    (hfits : (sessGet s r q).c
      + (if (sessGet s r q).mode = 1 then min (sessGet s r q).remaining 8192 else 1 + (sessGet s r q).maxDrafts)
      ≤ bitsAt c.pkt.w2 0 32) :
    exec (.sessReserve id) s
      = .next (finish c 0 0 0 [] (sessPut r q { sessGet s r q with reserve := bitsAt c.pkt.w2 0 32 } s)) :=
  startOp_session_applied hq h (by decide) (onSession_ok hq _) hw (by simp only [edgeApply, h.opcode, applySessReserve_fits hq hfits])

theorem exec_sessReset_applied (h : Starts 0x0305 id c s) (hw : willApply s p = false)
    (hrests : (sessGet s r q).mode = 0 ∨ (sessGet s r q).mode = 3) :
    let t := sessPut r q { sessGet s r q with mode := 0 } s
    exec (.sessReset id) s = .next (finish c 0 0 0 []
      (if bitOn c.pkt.w2 0 = true then queueMod q (fun d => { d with cidx := d.pidx }) t else t)) :=
  startOp_session_applied hq h (by decide) (onSession_ok hq _) hw (by simp only [edgeApply, h.opcode, applySessReset_rests hq hrests])

theorem exec_sessQuery (h : Starts 0x0306 id c s) :
    exec (.sessQuery id) s = .next (finish c 0 (memNat s (sessAt r q) 8) (memNat s (sessAt r q + 8) 8) [] s) :=
  startOp_done h (by simp only [doSessQuery, hq])

theorem kvUnmap_start (hlo : (kvCmdOf c.pkt).lo ≤ (kvCmdOf c.pkt).hi) (hcount : (kvCmdOf c.pkt).count ≠ 0) :
    onSession (fun c s =>
      let v := kvCmdOf c.pkt
      if v.lo > v.hi ∨ v.count = 0 then (.st 0x02, s) else edgeStart c s) c s = edgeStart c s :=
  (onSession_ok hq _).trans (kvCmd_named hlo hcount ..)

theorem kvMap_start {x va : Nat} {host bs : List Byte} (hlo : (kvCmdOf c.pkt).lo ≤ (kvCmdOf c.pkt).hi)
    (hcount : (kvCmdOf c.pkt).count ≠ 0)
    (horef : orefRange s (ctxGet s c.pkt.ctx).part c.pkt.w3 ((kvCmdOf c.pkt).entries * 8) = .ok (x, va))
    (hread : vaRead s x (piecesOf va ((kvCmdOf c.pkt).entries * 8)) host = .ok bs) :
    onSession (doKvMap host) c s = edgeStart { c with payload := bs } (setPayload c.id bs s) :=
  (onSession_ok hq _).trans ((kvCmd_named hlo hcount ..).trans (edgeRead_ok horef hread))

end Commands

theorem edgePart_progLoad {c : Cmd} (h : c.pkt.opcode = 0x0302) (id : Nat) (img : List Byte) (s : State) :
    edgePart (setPayload id img s) { c with payload := img } = (ctxGet s c.pkt.ctx).part := by
  rw [edgePart_setPayload]
  simp only [edgePart, h]

/-- A program load with a sound form, for bays of its partition, reads its image whole (R476). -/
theorem progLoad_start {x va x' va' : Nat} {c : Cmd} {host hd img : List Byte} {s : State}
    (hfield : bitsAt c.pkt.w2 0 4 ≤ 8) (hbays : bitsAt c.pkt.w2 4 6 ≤ bitsAt c.pkt.w2 10 6) (hlow : bitsAt c.pkt.w3 4 4 = 0)
    (hhigh : bitsAt c.pkt.w3 23 41 = 0) (hown : (progBays c.pkt).all (fun b => partOfBay s b == some (ctxGet s c.pkt.ctx).part) = true)
    (horef : orefRange s (ctxGet s c.pkt.ctx).part c.pkt.w1 64 = .ok (x, va)) (hhead : vaRead s x (piecesOf va 64) host = .ok hd)
    (hone : 1 ≤ recAt hd 2 2) (hsize : recAt hd 2 2 ≤ 16)
    (horef' : orefRange s (ctxGet s c.pkt.ctx).part c.pkt.w1 (recAt hd 2 2 * 65536) = .ok (x', va'))
    (hread : vaRead s x' (piecesOf va' (recAt hd 2 2 * 65536)) host = .ok img) :
    doProgLoad host c s = edgeStart { c with payload := img } (setPayload c.id img s) := by
  have hform : ¬ (bitsAt c.pkt.w2 0 4 > 8 ∨ bitsAt c.pkt.w2 4 6 > bitsAt c.pkt.w2 10 6 ∨ bitsAt c.pkt.w3 4 4 ≠ 0
      ∨ bitsAt c.pkt.w3 23 41 ≠ 0) := by omega
  have hothers : (progBays c.pkt).any (fun b => partOfBay s b != some (ctxGet s c.pkt.ctx).part) = false := by
    rw [List.any_eq_not_all_not]
    simpa [bne] using hown
  have hlen : ¬ (recAt hd 2 2 < 1 ∨ 16 < recAt hd 2 2) := by omega
  rw [← edgeRead_ok horef' hread]
  simp only [doProgLoad, hothers, horef, hhead, if_neg hform, if_neg hlen, Bool.false_eq_true, if_false]

/-! ### The claim -/

/-- Settles O16, by the rule of each command. That SESS_SET clears what the command does not name is log entry 22, and that a list or
an image is read as its command starts is log entry 21. -/
theorem tickAndSessionCommandsComplete : Obligations.TickAndSessionCommandsComplete := by
  unfold Obligations.TickAndSessionCommandsComplete
  refine ⟨fun id c r s => exec_partTick, fun id c s h hctx => ⟨exec_ctxResume_waits h hctx, exec_ctxResume_applied h hctx⟩,
    fun id q p c r s hq => ⟨?_, fun h hdrafts hw hidle =>
        ⟨_, exec_sessSet_applied hq h hdrafts hw hidle, chainStarted_of_none, fun a => chainStarted_of_some⟩,
      exec_sessReserve_applied hq, exec_sessReset_applied hq, exec_sessQuery hq, ?_, ?_⟩, ?_⟩
  · rintro op (rfl | rfl | rfl) h hdrafts hw
    · exact startOp_session_waits hq h (by decide) (sessSet_start hq (hdrafts rfl)) hw
    · exact startOp_session_waits hq h (by decide) (onSession_ok hq _) hw
    · exact startOp_session_waits hq h (by decide) (onSession_ok hq _) hw
  · intro k addrs v root h hlo hcount
    have hstart := kvUnmap_start hq hlo hcount
    refine ⟨startOp_session_waits hq h (by decide) hstart, fun hw hk hplane hlayers hend hreserve haddrs =>
      startOp_session_applied hq h (by decide) hstart hw ?_⟩
    simp only [edgeApply, h.opcode]
    exact applyKvMap_writes (unmap := true) hq hk hplane hlayers hend (fun _ => hreserve) haddrs
  · intro k x va host bs addrs v root h hlo hcount horef hread
    have hstart := kvMap_start hq hlo hcount horef hread
    rw [h.id_eq] at hstart
    refine ⟨fun hw => startOp_edge_waits h hstart ((willApply_session hq h (by decide)).trans hw),
      fun hw hk hplane hlayers hend haddrs => startOp_edge_applied h hstart ((willApply_session hq h (by decide)).trans hw) ?_⟩
    simp only [edgeApply, h.opcode]
    exact applyKvMap_writes (unmap := false) ((sessQueue_setPayload id bs s c).trans hq) ((kvLayout_setPayload ..).trans hk) hplane
      hlayers hend (fun hu => nomatch hu) ((kvCmdAddrs_setPayload ..).trans haddrs)
  · intro id x va x' va' c host hd img s h p hfield hbays hlow hhigh hown horef hhead hone hsize horef' hread
    have hstart := progLoad_start hfield hbays hlow hhigh hown horef hhead hone hsize horef' hread
    rw [h.id_eq] at hstart
    have hpart := edgePart_progLoad h.opcode id img s
    refine ⟨fun hw => startOp_edge_waits h hstart (hpart ▸ hw), fun hw => ⟨_, _, _, startOp_edge_applied h hstart (hpart ▸ hw) ?_, rfl⟩⟩
    simp only [edgeApply, h.opcode]
    rfl

end Sys2Proof.Machine
end

section
/-! Page moves (R164 to R167, R476): how a move starts, what the completion of a page's copy does, and why the claim about both fails of
a partition number that the hub does not have. -/
namespace Sys2Proof.Machine

/-! ### What counting a read leaves (R278, R309, R329) -/

/-- Of the whole state only the counters of the controllers and of the sluice changed. -/
structure OnlyCounts (s t : State) : Prop where
  rest : ∃ regs slcCount, t = { s with regs := regs, slcCount := slcCount }
  reads : ∀ r i, r ∉ [RegName.memcRdbytes, .slcBytes, .slcOvf] → i < 65536 → rget t r i = rget s r i

namespace OnlyCounts
variable {s t u : State}

theorem trans (h : OnlyCounts s t) (k : OnlyCounts t u) : OnlyCounts s u := by
  obtain ⟨⟨a, b, rfl⟩, hr⟩ := h
  obtain ⟨⟨a', b', rfl⟩, kr⟩ := k
  exact ⟨⟨a', b', rfl⟩, fun r i hn hi => (kr r i hn hi).trans (hr r i hn hi)⟩

theorem rset {r : RegName} (hr : r ∈ [RegName.memcRdbytes, .slcBytes, .slcOvf]) {i : Nat} (hi : i < 65536) (v : Word) (s : State) :
    OnlyCounts s (rset s r i v) :=
  ⟨⟨_, s.slcCount, rfl⟩, fun r' j hn hj => rget_rset_other s r r' i j v (fun e => hn (e.1 ▸ hr)) hi hj⟩

theorem foldl {α : Type} {g : State → α → State} (hg : ∀ s x, OnlyCounts s (g s x)) (l : List α) (s : State) :
    OnlyCounts s (l.foldl g s) := by
  induction l generalizing s with
  | nil => exact ⟨⟨s.regs, s.slcCount, rfl⟩, fun _ _ _ _ => rfl⟩
  | cons x l ih => exact (hg s x).trans (ih _)

theorem parts (h : OnlyCounts s t) : t.parts = s.parts := by
  obtain ⟨⟨_, _, rfl⟩, _⟩ := h
  rfl

theorem cmds (h : OnlyCounts s t) : t.cmds = s.cmds := by
  obtain ⟨⟨_, _, rfl⟩, _⟩ := h
  rfl

theorem inTick (h : OnlyCounts s t) (p : Nat) : inTick t p = inTick s p := by
  unfold Machine.inTick partGet
  rw [h.parts]

/-- Whether a partition will reach an apply stays as it was, for the partition numbers that PART_STATUS has room for. -/
theorem willApply (h : OnlyCounts s t) {p : Nat} (hp : p < 65536) : willApply t p = willApply s p := by
  unfold Machine.willApply partGet
  rw [h.parts, fon_congr (h.reads _ p (by decide) hp)]

end OnlyCounts

theorem ctlReg_lt (c : Nat) : ctlReg c < 65536 := by
  have hget : ∀ (l : List Nat) (i : Nat), (∀ x ∈ l, x < 200) → l.getD i 0 < 200 := fun l i h => by
    rw [List.getD_eq_getElem?_getD]
    cases hx : l[i]? with
    | none => exact Nat.zero_lt_succ _
    | some x => exact h x (List.mem_of_getElem? hx)
  unfold ctlReg
  split
  · exact Nat.lt_trans (hget _ c (by decide)) (by decide)
  · have := hget [0, 19, 38, 57, 95, 114, 133, 152] ((c - 12) / 3) (by decide)
    omega

theorem countRead_counts (c : Nat) (s : State) : OnlyCounts s (countRead c s) := by
  unfold countRead fwrap
  extract_lets n t
  have ht : OnlyCounts s t := .rset (by decide) (ctlReg_lt c) _ s
  exact on_ite (P := OnlyCounts s) (ht.trans (.rset (by decide) (ctlReg_lt c) _ t)) ht

theorem slcMem_counts (a cls n : Nat) (s : State) : OnlyCounts s (slcMem a cls n s) := by
  unfold slcMem slcServe
  extract_lets k total t u
  have hcls : cls % 8 < 65536 := by omega
  have ht : OnlyCounts s t := ⟨⟨s.regs, _, rfl⟩, fun _ _ _ _ => rfl⟩
  have hu : OnlyCounts s u := ht.trans (.rset (by decide) hcls _ t)
  exact on_ite (P := OnlyCounts s) (hu.trans (.rset (by decide) (by decide) _ u)) hu

theorem countReads_counts (a n cls : Nat) (s : State) : OnlyCounts s (countReads a n cls s) :=
  .foldl (fun _ _ => (countRead_counts ..).trans (slcMem_counts ..)) _ s

/-! ### A move starts, and ends with its last page (R164, R167) -/

theorem kvMoveEnd_of_pages_left {pages : List KvPage} (h : pages.all (fun g => decide (3 ≤ g.stage)) = false) (c : Cmd) (s : State) :
    kvMoveEnd c pages s = none :=
  if_neg (Bool.eq_false_iff.1 h)

theorem kvMoveSet_of_pages_left {pages : List KvPage} (h : pages.all (fun g => decide (3 ≤ g.stage)) = false) (c : Cmd) (cold : Bool)
    (s : State) : kvMoveSet c cold pages s = setStep c.id (.kvMove cold pages) s := by
  unfold kvMoveSet
  rw [kvMoveEnd_of_pages_left h]

/-- A move whose list gives its pages, some of which are still to be copied, waits for their copies. -/
theorem doKvMove_waits {q p x va : Nat} {c : Cmd} {r : TickRec} {k : KvLayout} {host list : List Byte} {pages : List KvPage} {s : State}
    (hq : sessQueue s c = .ok (q, p, r)) (hk : kvLayout s [] p (sessGet s r q).kvRoot = .ok k)
    (hlayers : bitsAt c.pkt.w1 20 8 ≤ bitsAt c.pkt.w1 28 8) (hhi : bitsAt c.pkt.w1 28 8 < k.layers)
    (hplanes : bitsAt c.pkt.w1 36 4 < 2 ^ k.planes) (hend : bitsAt c.pkt.w2 0 32 + bitsAt c.pkt.w2 32 32 ≤ 2 ^ k.maxLog2)
    (horef : orefRange s (ctxGet s c.pkt.ctx).part c.pkt.w3 (8 * (kvMoveNames k c.pkt).length) = .ok (x, va))
    (hread : vaRead s x (piecesOf va (8 * (kvMoveNames k c.pkt).length)) host = .ok list)
    (hpages : kvMoveAll s p (sessGet s r q).kvRoot k (c.pkt.opcode == 0x0313 && !bitOn c.pkt.w4 3) list (kvMoveNames k c.pkt).zipIdx
      = .ok pages)
    (hleft : pages.all (fun g => decide (3 ≤ g.stage)) = false) :
    doKvMove host c s = (.wait (.kvMove (c.pkt.opcode == 0x0313 && !bitOn c.pkt.w4 3) pages), s) := by
  have hform : ¬ (bitsAt c.pkt.w1 20 8 > bitsAt c.pkt.w1 28 8 ∨ bitsAt c.pkt.w1 28 8 ≥ k.layers ∨ 2 ^ k.planes ≤ bitsAt c.pkt.w1 36 4
      ∨ bitsAt c.pkt.w2 0 32 + bitsAt c.pkt.w2 32 32 > 2 ^ k.maxLog2) := by
    rintro (h | h | h | h)
    · exact absurd hlayers (Nat.not_le.2 h)
    · exact absurd hhi (Nat.not_lt.2 h)
    · exact absurd hplanes (Nat.not_lt.2 h)
    · exact absurd hend (Nat.not_le.2 h)
  simp only [doKvMove, hq, hk, horef, hread, hpages, kvMoveEnd_of_pages_left hleft, if_neg hform]

/-! ### A page is copied (R164 to R166) -/

section Copy
variable {id idx : Nat} {c : Cmd} {cold : Bool} {pages : List KvPage} {g : KvPage} {s : State} (h : s.Holds id c)
  (hstep : c.step = .kvMove cold pages) (hg : pages.find? (fun g => g.idx == idx && g.stage == 0) = some g)
  (hlayer : layerHeld s (edgePart s c) g.layer = false) (hold : memHeld s g.old 65536 = false) (hdest : memHeld s g.dest 65536 = false)
  (hread : firstLost s g.old 65536 = none)
include h hstep hg hlayer hold hdest hread

/-- The completion of a page's copy, decided by whether the partition is in a tick, or will reach an apply, after the read is counted. -/
theorem exec_kvPageCopyDone :
    let p := edgePart s c
    let cls := kvClass s c p
    let t := countReads g.old 65536 cls s
    let copied := devStore g.dest (memRead s g.old 65536) t cls
    exec (.kvPageCopyDone id idx) s = .next
      (if inTick t p then setStep c.id (.kvMove cold (pageStage pages idx 1)) (stageAll p [stagedSwitch c g] copied)
       else if willApply t p then t
       else kvMoveSet c cold (pageStage pages idx 3) (devStore g.entry (switchEntry g.dest) copied)) := by
  intro p cls t copied
  change Host.Outcome.next (onRunning _ id s) = _
  rw [onRunning_holds h]
  simp only [hstep, hg, hlayer, hold, hdest, devRead, hread, Bool.or_self, Bool.false_eq_true, if_false]
  rfl

/-- Of a partition whose number PART_STATUS has room for, the state before the read decides the same. -/
theorem exec_kvPageCopyDone_of_part_lt (hp : edgePart s c < 65536) :
    let p := edgePart s c
    let cls := kvClass s c p
    let copied := devStore g.dest (memRead s g.old 65536) (countReads g.old 65536 cls s) cls
    (inTick s p = true → exec (.kvPageCopyDone id idx) s
      = .next (setStep c.id (.kvMove cold (pageStage pages idx 1)) (stageAll p [stagedSwitch c g] copied)))
    ∧ (inTick s p = false → willApply s p = false → exec (.kvPageCopyDone id idx) s
      = .next (kvMoveSet c cold (pageStage pages idx 3) (devStore g.entry (switchEntry g.dest) copied))) := by
  intro p cls copied
  have hcounts := countReads_counts g.old 65536 cls s
  rw [exec_kvPageCopyDone h hstep hg hlayer hold hdest hread, hcounts.inTick, hcounts.willApply hp]
  exact ⟨fun ht => congrArg _ (if_pos ht),
    fun ht hw => congrArg _ ((if_neg (Bool.eq_false_iff.1 ht)).trans (if_neg (Bool.eq_false_iff.1 hw)))⟩

end Copy

/-! ### The claim

The claim asks before the page is read whether the partition will reach an apply, and the model asks it after the read is counted. The
registers of a partition whose number is 65536 or more stand, in the model, where other registers stand, so that counting the bytes of
a read can clear its FAULTED bit. -/

/-- A command's step after it is set. -/
theorem step_of_mem_setStep {id : Nat} {st : CmdStep} {c : Cmd} {s : State} (hc : c ∈ (setStep id st s).cmds) (hid : c.id = id) :
    c.step = st := by
  obtain ⟨d, -, rfl⟩ := List.mem_map.1 hc
  by_cases hd : d.id = id
  · rw [if_pos hd]
  · rw [if_neg hd] at hid
    exact absurd hid hd

/-- The partition number whose PART_STATUS stands where the model has SLC_BYTES of class 0. -/
def strayPart : Nat := (RegName.slcBytes.ctorIdx - RegName.partStatus.ctorIdx) * 65536

/-- A page of a move, to be copied. -/
def strayPage : KvPage := ⟨0x1000000, 0, 0, 0x200000, 0, 0x100000⟩

/-- The pages of the move: that one and another. -/
def strayPages : List KvPage := [strayPage, ⟨0x1000008, 0, 1, 0x210000, 0, 0x110000⟩]

/-- The move of those pages, on session queue 0. -/
def strayMove : Cmd :=
  { id := 0, src := .mgmt, index := 0, pkt := ⟨0x0312, 0, 32, 1, 0, 0, 0, 0, 0, 0, 0, 0⟩, step := .kvMove false strayPages }

/-- Queue 0 is of that partition, which is enabled; class 0 has been served 65536 bytes, which sets the bit that reads as the
partition's FAULTED. -/
def strayState : State where
  regs := [(regKey .slcBytes 0, 0x10000)]
  parts := [(strayPart, { enabled := true })]
  ctxs := [(1, { state := .active, part := strayPart })]
  queues := [(0, { kind := 1, ctx := 1 })]
  cmds := [strayMove]

/-- The state after the read of the page is counted. -/
def strayRead : State := countReads strayPage.old 65536 (kvClass strayState strayMove strayPart) strayState

theorem edgePart_stray : edgePart strayState strayMove = strayPart := rfl

theorem find_strayPage : strayPages.find? (fun g => g.idx == 0 && g.stage == 0) = some strayPage := rfl

theorem stray_outside_tick : inTick strayState strayPart = false := by decide +kernel

theorem stray_faulted_before_read : willApply strayState strayPart = false := by decide +kernel

theorem stray_not_faulted_after_read : willApply strayRead strayPart = true := by decide +kernel

/-- The model counts the read, and leaves the page to be copied. -/
theorem exec_stray : exec (.kvPageCopyDone 0 0) strayState = .next strayRead := by
  have hrule := exec_kvPageCopyDone (id := 0) (s := strayState) (c := strayMove) (cold := false) rfl rfl find_strayPage rfl rfl rfl rfl
  have htick : inTick strayRead strayPart = false := ((countReads_counts ..).inTick _).trans stray_outside_tick
  rw [edgePart_stray] at hrule
  exact hrule.trans (congrArg _ ((if_neg (Bool.eq_false_iff.1 htick)).trans (if_pos stray_not_faulted_after_read)))

/-- Refutes O17: the partition of `strayState` is faulted before the page is read and, by the count of the read, no longer after it, so
the model leaves the page to be copied where the claim has it switched. Of a partition number below 65536, as every partition of the
hub has one, `exec_kvPageCopyDone_of_part_lt` gives what the claim says, and `doKvMove_waits` is its other clause. -/
theorem not_pageMoveCommandsComplete : ¬ Obligations.PageMoveCommandsComplete := by
  unfold Obligations.PageMoveCommandsComplete
  rintro ⟨-, hcopied⟩
  have hclaim := (hcopied 0 0 strayMove false strayPages strayPage strayState rfl rfl find_strayPage rfl rfl rfl rfl).2
    stray_outside_tick stray_faulted_before_read
  rw [exec_stray, kvMoveSet_of_pages_left rfl] at hclaim
  have hkept : strayMove ∈ strayRead.cmds := by
    rw [strayRead, (countReads_counts ..).cmds]
    exact List.mem_singleton_self _
  rw [Host.Outcome.next.inj hclaim] at hkept
  have hstep : CmdStep.kvMove false strayPages = .kvMove false (pageStage strayPages 0 3) := step_of_mem_setStep hkept rfl
  exact absurd hstep (by decide)

end Sys2Proof.Machine
end

section
/-! Writes of the tick's registers (R181 to R183, R215, R218, R476, R510, R622): RUN, the period, PART_CFG and the port mask of a partition. -/
namespace Sys2Proof.Machine

/-! ### The period (R181, R183) -/

theorem bitsAt_low (n w : Nat) : bitsAt n 0 w = n % 2 ^ w := by
  rw [bitsAt, Nat.pow_zero, Nat.div_one]

theorem isMember_congr {s t : State} (h : rget t .domStatus 0 = rget s .domStatus 0) : isMember t = isMember s := fon_congr h

theorem isMaster_congr {s t : State} (hstatus : rget t .domStatus 0 = rget s .domStatus 0)
    (hub : rget t .gctlHubIdent 0 = rget s .gctlHubIdent 0) : isMaster t = isMaster s := by
  unfold isMaster masterId hubId
  rw [isMember_congr hstatus, fget_congr (f := F.domStatus_masterId) hstatus, fget_congr (f := F.gctlHubIdent_hubId) hub]

/-- The master's write of TICK_PERIOD_SET, with the period and the tick that it asks for. -/
def periodAsked (v : Word) (s : State) : State :=
  fset F.tickPeriodSet_atTick 0 (bitsAt v.toNat 32 32) (fset F.tickPeriodSet_periodNs 0 (bitsAt v.toNat 0 30) s)

theorem isMaster_periodAsked (v : Word) (s : State) : isMaster (periodAsked v s) = isMaster s := by
  refine isMaster_congr ?_ ?_
  · exact (rget_rset_reg _ _ _ _ _ (by decide)).trans (rget_rset_reg _ _ _ _ _ (by decide))
  · exact (rget_rset_reg _ _ _ _ _ (by decide)).trans (rget_rset_reg _ _ _ _ _ (by decide))

section Period
variable {v : Word} {s : State} (h : isMaster s = true)
include h

/-- What the master's write leaves: the request is accepted for a tick at least four ahead and a period of 100 µs to 1 s. -/
theorem writeTickPeriod_master :
    let ns := bitsAt v.toNat 0 30
    let low := bitsAt v.toNat 32 32
    let t := periodAsked v s
    let ok := decide (fget t F.tickCounter_count 0 + 4 ≤ atTickOf t low) && decide (100000 ≤ ns ∧ ns ≤ 1000000000)
    writeTickPeriod v s = fset F.tickPeriodSet_accepted 0 (bit01 ok)
      (if ok then domMod (fun d => { d with period := some (ns, atTickOf t low % 2 ^ 32) }) t else t) := by
  intro ns low t ok
  have hask : askPeriod ns low t
      = (ok, if ok then domMod (fun d => { d with period := some (ns, atTickOf t low % 2 ^ 32) }) t else t) := by
    have hcond : (isMaster t && decide (fget t F.tickCounter_count 0 + 4 ≤ atTickOf t low)
        && decide (100000 ≤ ns ∧ ns ≤ 1000000000)) = ok := by
      rw [isMaster_periodAsked, h, Bool.true_and]
    unfold askPeriod
    dsimp only
    rw [hcond]
    cases ok <;> rfl
  unfold writeTickPeriod
  rw [if_neg (by simp [h])]
  change fset F.tickPeriodSet_accepted 0 (bit01 (askPeriod ns low t).1) (askPeriod ns low t).2 = _
  rw [hask]

/-- TICK_PERIOD writes the register, and answers with what the register then reads. -/
theorem exec_tickPeriod {id : Nat} {c : Cmd} (hc : Starts 0x0406 id c s) (hw : c.pkt.w1 = v.toNat) :
    exec (.tickPeriod id) s
      = .next (finish c 0 (rget (writeTickPeriod v s) .tickPeriodSet 0).toNat 0 [] (writeTickPeriod v s)) := by
  have hv : BitVec.ofNat 64 c.pkt.w1 = v := by rw [hw, BitVec.ofNat_toNat, BitVec.setWidth_eq]
  exact startOp_done hc (by rw [h, hv]; rfl)

end Period

/-! ### PART_CFG and PART_IDOON (R215, R218, R622) -/

/-- PART_CFG's fields beside ENABLE, as a write gives them. -/
def cfgFields (p : Nat) (v : Word) (s : State) : State :=
  fset F.partCfg_recoverLog2 p (bitsAt v.toNat 8 4) (fset F.partCfg_ceiling p (bitsAt v.toNat 1 6) s)

theorem fget_cfgFields_ceiling (p : Nat) (v : Word) (s : State) :
    fget (cfgFields p v s) F.partCfg_ceiling p = bitsAt v.toNat 1 6 := by
  unfold cfgFields
  rw [fget_fset_field _ F.partCfg_recoverLog2 F.partCfg_ceiling _ _ rfl (by decide) (by decide)]
  exact fget_fset_of_lt (by decide) (bitsAt_lt ..)

theorem fget_cfgFields_recoverLog2 (p : Nat) (v : Word) (s : State) :
    fget (cfgFields p v s) F.partCfg_recoverLog2 p = bitsAt v.toNat 8 4 :=
  fget_fset_of_lt (by decide) (bitsAt_lt ..)

theorem fget_cfgFields_enable (p : Nat) (v : Word) (s : State) :
    fget (cfgFields p v s) F.partCfg_enable p = fget s F.partCfg_enable p := by
  unfold cfgFields
  rw [fget_fset_field _ F.partCfg_recoverLog2 F.partCfg_enable _ _ rfl (by decide) (by decide),
    fget_fset_field _ F.partCfg_ceiling F.partCfg_enable _ _ rfl (by decide) (by decide)]

section Cfg
variable {p : Nat} {v : Word} {s : State} (hp : p < 256)
include hp

theorem exec_partCfgEnable (hv : v.getLsbD 0 = true) : exec (.partCfgEnable p v) s = .next (enableReq p (cfgFields p v s)) :=
  congrArg _ ((if_pos ⟨hp, hv⟩).trans (if_pos hv))

theorem exec_partCfgDisable (hv : v.getLsbD 0 = false) : exec (.partCfgDisable p v) s = .next (disableReq p (cfgFields p v s)) :=
  congrArg _ ((if_pos ⟨hp, by rw [hv]; rfl⟩).trans (if_neg (Bool.eq_false_iff.1 hv)))

theorem exec_partIdoonWrite : exec (.partIdoonWrite p v) s = .next (writePartIdoon p v s) := congrArg _ (if_pos hp)

end Cfg

section Enable
variable {p : Nat} {s : State}

/-- A partition that may not be enabled is left as it is, with a record (R301, R622). -/
theorem enableReq_refused (h : mayEnable s p = false) :
    enableReq p s = logErr { code := 0x0914, cls := clsRefused, part := some p } s :=
  if_pos (by simp [h])

/-- One that is disabled, or is to be at the next edge, takes the offered record (R186, R215). -/
theorem enableReq_takes (h : mayEnable s p = true) (hoff : (partGet s p).enabled = true → (partGet s p).stopping = true) :
    enableReq p s = fset F.partCfg_enable p 1 (partSet p { partGet s p with taken := (partGet s p).offered, enabling := true } s) := by
  have hon : ((partGet s p).enabled && !(partGet s p).stopping) = false := by
    cases he : (partGet s p).enabled with
    | false => rfl
    | true => simp [hoff he]
  exact (if_neg (by simp [h])).trans (if_neg (by simp [hon]))

/-- One that is enabled, and to stay so, keeps its record (R186). -/
theorem enableReq_enabled (h : mayEnable s p = true) (hon : (partGet s p).enabled = true) (hstay : (partGet s p).stopping = false) :
    enableReq p s = s :=
  (if_neg (by simp [h])).trans (if_pos (by simp [hon, hstay]))

theorem mayEnable_of_no_record (h : (partGet s p).offered = none) : mayEnable s p = false := by
  unfold mayEnable
  rw [h]

end Enable

/-! ### The claims -/

/-- Settles O20, by what each write does. That a refused enable still gives CEILING and RECOVER_LOG2 their values, and that a write of 1
while a disable is pending enables again, are the model's readings (log entry 31). -/
theorem tickRegisterWritesComplete : Obligations.TickRegisterWritesComplete := by
  unfold Obligations.TickRegisterWritesComplete
  refine ⟨fun v s => ?_, fun v s h => ?_, fun p v s hp => ?_⟩
  · exact congrArg (fun n => Host.Outcome.next (fset F.tickCtrl_run 0 n s)) (bitsAt_low v.toNat 1)
  · rw [← bitsAt_low]
    refine ⟨congrArg Host.Outcome.next (writeTickPeriod_master h), fun id c hc hw => ?_⟩
    rw [exec_tickPeriod h hc hw, writeTickPeriod_master h]
    rfl
  · refine ⟨fun hv h hoff => ?_, fun hv h hon hstay => ?_, fun hv h => ?_, fun hv => ?_, fun hoff => ?_, fun hon => ?_⟩
    · rw [exec_partCfgEnable hp hv]
      exact congrArg _ (enableReq_takes h hoff)
    · rw [exec_partCfgEnable hp hv]
      exact congrArg _ (enableReq_enabled h hon hstay)
    · rw [exec_partCfgEnable hp hv]
      exact congrArg _ (enableReq_refused h)
    · rw [exec_partCfgDisable hp hv]
      rfl
    · rw [exec_partIdoonWrite hp]
      rw [← bitsAt_low]
      exact congrArg _ (if_neg (by simp [hoff]))
    · rw [exec_partIdoonWrite hp]
      exact congrArg _ (if_pos hon)

/-- The record of a refused enable leaves every field of PART_CFG. -/
theorem fget_refusedEnable {f : Fld} (hf : f.reg = .partCfg) {p : Nat} (hp : p < 256) (e : ErrIn) (s : State) :
    fget (logErr e s) f p = fget s f p :=
  fget_congr ((logErr_only e s).reads f.reg p (by rw [hf]; decide) (by omega))

/-- Settles O55: the enable is refused for want of a record, and the disable leaves ENABLED to the edge. That CEILING and RECOVER_LOG2
take their values either way, and that a write of 0 cancels an enable that is pending, are the model's readings (log entry 31). -/
theorem enablingNeedsATickRecord : Obligations.EnablingNeedsATickRecord := by
  unfold Obligations.EnablingNeedsATickRecord
  refine ⟨fun p v s hp hv _ hnone => ?_, fun p v s hp hv hon => ?_⟩
  · have hrefused := enableReq_refused (mayEnable_of_no_record (s := cfgFields p v s) hnone)
    refine ⟨_, (exec_partCfgEnable hp hv).trans (congrArg _ hrefused), rfl, ?_, ?_, ?_, ?_⟩
    · unfold partGet
      rw [(logErr_only ..).parts]
      rfl
    · unfold fon
      rw [fget_refusedEnable rfl hp, fget_cfgFields_enable]
    · rw [fget_refusedEnable rfl hp, fget_cfgFields_ceiling]
    · rw [fget_refusedEnable rfl hp, fget_cfgFields_recoverLog2]
  · refine ⟨_, exec_partCfgDisable hp hv, ?_⟩
    have hpart : partGet (disableReq p (cfgFields p v s)) p = { partGet s p with enabling := false, stopping := (partGet s p).enabled } :=
      partGet_partSet ..
    have hoff : fget (disableReq p (cfgFields p v s)) F.partCfg_enable p = 0 := fget_fset_of_lt (by decide) (by decide)
    rw [hpart]
    exact ⟨hon, hon, rfl, by simp [fon, hoff], fun q hq => partGet_partSet_other _ _ _ _ hq⟩

end Sys2Proof.Machine
end

section
/-! The drain of a committed tick (R205, R417, R511): what each of its commands does where its turn has come. -/
namespace Sys2Proof.Machine

section Drain
variable {p : Nat} {d : Drain} {s : State}

theorem exec_drainLayerDone {ds : List Drain} {e : Staged} {es : List Staged} (hd : (partGet s p).drains = d :: ds) (he : d.todo = e :: es) :
    exec (.drainLayerDone p) s = .next (sweep ((d.todo.filter fun g => drainLayer g == drainLayer e).foldl (fun s g => drainItem d g s)
      (drainMod p (fun d => { d with todo := d.todo.filter fun g => drainLayer g != drainLayer e }) s))) := by
  change execDrainLayerDone p s = _
  simp only [execDrainLayerDone, hd, he]

/-- The oldest drain whose layers are applied writes what it has for hosts, and then each ring's producer index (R205 step 4). -/
theorem exec_egressWrite (hd : (partGet s p).drains.find? (fun d => !d.sent && d.todo.isEmpty) = some d)
    (hwait : drainHost s d = true → waitCause s p = false) :
    let t := d.egress.foldl (fun s e => putFor e.ctx true e.addr e.data false s) s
    let u := d.rings.foldl (fun s r => ringPut r.ring r.data s) t
    let v := ((d.rings.map (·.ring)).eraseDups).foldl (fun s q => ringPublish q s) u
    exec (.egressWrite p) s = .next (partMod p (fun w => { w with drains := w.drains.map fun e =>
      if e.tick = d.tick then { e with sent := true, egress := [], rings := [] } else e }) v) := by
  intro t u v
  have hgo : ¬ (drainHost s d && waitCause s p) = true := by
    rw [Bool.and_eq_true]
    rintro ⟨hhost, hheld⟩
    exact Bool.eq_false_iff.1 (hwait hhost) hheld
  change execEgressWrite p s = _
  simp only [execEgressWrite, hd, if_neg hgo]
  rfl

theorem exec_fenceWriteApply (hd : (partGet s p).drains.find? (fun d => d.sent && !d.fenced && d.todo.isEmpty) = some d) :
    exec (.fenceWriteApply p) s = .next (sweep (partMod p (fun w => { w with drains := w.drains.map fun e =>
      if e.tick = d.tick then { e with fenced := true } else e }) (d.fences.foldl (fun s f => fenceRaise f.2.1 f.2.2 s) s))) := by
  change execFenceWriteApply p s = _
  simp only [execFenceWriteApply, hd]

/-- The oldest drain ends with nothing left to do: the chains are extended (R205 step 6, R511) and its staging half is free. -/
theorem exec_commitDrainEnd {ds : List Drain} {r : TickRec} (hd : (partGet s p).drains = d :: ds) (hr : (partGet s p).inForce = some r)
    (htodo : d.todo = []) (hsent : d.sent = true) (hfenced : d.fenced = true) :
    exec (.commitDrainEnd p) s = .next (sweep (partMod p (fun w => { w with drains := ds })
      (d.exts.foldl (fun s e => extendChain p r e s) s))) := by
  have hleft : ¬ (!d.todo.isEmpty || !d.sent || !d.fenced) = true := by simp [htodo, hsent, hfenced]
  change execCommitDrainEnd p s = _
  simp only [execCommitDrainEnd, hd, hr, if_neg hleft]

end Drain

theorem exec_hostStoreAck {port : Nat} {h : HostStore} {s : State} (hh : s.unacked.find? (fun h => h.port == port && h.sent) = some h) :
    exec (.hostStoreAck port) s = .next { s with unacked := s.unacked.erase h } := by
  change execHostStoreAck port s = _
  simp only [execHostStoreAck, hh]

/-- Settles O19, by the rule of each command. That a drain's guards stand for the order of R205's steps is log entry 30. -/
theorem commitDrainCommandsComplete : Obligations.CommitDrainCommandsComplete := by
  unfold Obligations.CommitDrainCommandsComplete
  exact ⟨fun p d ds e es s => exec_drainLayerDone, fun p d s => exec_egressWrite, fun p d s => exec_fenceWriteApply,
    fun p d ds r s => exec_commitDrainEnd, fun port h s => exec_hostStoreAck⟩

end Sys2Proof.Machine
end

section
/-! The edge, reports, the decision and the release of a tick (R177, R178, R202 to R204, R250, R251, R253). -/
namespace Sys2Proof.Machine

/-! ### An edge arrives (R178, R251) -/

theorem OnlyRegs.dom {w : List RegName} {s t : State} (h : OnlyRegs w s t) : t.dom = s.dom := by
  obtain ⟨⟨_, _, _, _, _, _, _, _, _, _, rfl⟩, _⟩ := h
  rfl

/-- The registers that say which edges a hub takes. -/
def edgeRegs : List RegName := [.gctlHubIdent, .domStatus, .tickCtrl, .tickCounter]

section Views
variable {s t : State} (hdom : t.dom = s.dom) (hreads : ∀ r ∈ edgeRegs, rget t r 0 = rget s r 0)
include hdom hreads

theorem joinMsg_congr : joinMsg t = joinMsg s := by
  unfold joinMsg hubId
  rw [isMember_congr (hreads .domStatus (by decide)), fget_congr (f := F.gctlHubIdent_hubId) (hreads .gctlHubIdent (by decide)), hdom]

theorem edgeEpoch_congr : edgeEpoch t = edgeEpoch s := by
  unfold edgeEpoch epochByte
  rw [joinMsg_congr hdom hreads, fget_congr (f := F.domStatus_epoch) (hreads .domStatus (by decide)), hdom]

theorem takesEdges_congr : takesEdges t = takesEdges s := by
  unfold takesEdges
  rw [joinMsg_congr hdom hreads, isMember_congr (hreads .domStatus (by decide)),
    fon_congr (f := F.tickCtrl_run) (hreads .tickCtrl (by decide)), hdom]

theorem edgeNew_congr (b : EdgeBlock) : edgeNew b t = edgeNew b s := by
  unfold edgeNew
  rw [joinMsg_congr hdom hreads, fget_congr (f := F.tickCounter_count) (hreads .tickCounter (by decide)), hdom]

end Views

/-- A block that comes on a port is counted, with its codewords (R225, R269). -/
def blockCounted (port : Nat) (k : BlkArr) (s : State) : State :=
  codewords port k.words (fwrap F.idnRxbytes_count F.idnRxbytes_ovf port 32 s)

theorem blockCounted_only {port : Nat} (hport : port < 65536) (k : BlkArr) (s : State) :
    OnlyRegs [.idnRxbytes, .idnCorr, .idnUncorr] s (blockCounted port k s) :=
  (fwrap_only _ _ _ (by decide) (by decide) hport).trans
    ((fwrap_only _ _ _ (by decide) (by decide) hport).trans (fbump_only _ _ _ (by decide) hport))

theorem port_lt_of_idnActive {s : State} {port : Nat} (h : idnActive s port = true) : port < 65536 := by
  simp only [idnActive, Bool.and_eq_true, decide_eq_true_eq] at h
  omega

section NewEdge
variable {b : EdgeBlock} {s : State}

theorem edgeNew_forming {f : FormMsg} (hf : s.dom.form = some f) (h : b.tick = 0) : edgeNew b s = true := by
  simp [edgeNew, hf, h]

theorem edgeNew_joining {m : MemberMsg} (hf : s.dom.form = none) (hm : joinMsg s = some m) (h : m.edge ≤ b.tick) :
    edgeNew b s = true := by
  simp [edgeNew, hf, hm, h]

theorem edgeNew_later (hf : s.dom.form = none) (hm : joinMsg s = none) (h : fget s F.tickCounter_count 0 < b.tick) :
    edgeNew b s = true := by
  simp [edgeNew, hf, hm, h]

end NewEdge

/-- The first valid copy of a new edge is kept, and passed on below three hops. -/
theorem exec_edge_first {port : Nat} {k : BlkArr} {b : EdgeBlock} {s : State} (hport : idnActive s port = true) (hk : blkOk k = true)
    (hhops : b.hops ≤ 2) (hremain : 0 ≤ b.remain) (hepoch : b.epoch = edgeEpoch s) (htakes : takesEdges s = true)
    (hfirst : s.dom.edge = none) (hnew : edgeNew b s = true) :
    let t := domMod (fun d => { d with edge := some b }) (blockCounted port k s)
    exec (.edge port k b) s = .next (if b.hops = 2 then t
      else sendEdge (some port) (Config.freeWord t.fresh).toNat { b with hops := b.hops + 1 } (tickFresh t)) := by
  intro t
  have honly := blockCounted_only (port_lt_of_idnActive hport) k s
  have hdom := honly.dom
  have hreads : ∀ r ∈ edgeRegs, rget (blockCounted port k s) r 0 = rget s r 0 := fun r hr =>
    honly.reads r 0 (by revert r; decide) (by decide)
  have huse : ¬ (!blkOk k || decide (b.hops > 2) || decide (b.remain < 0) || b.epoch != edgeEpoch (blockCounted port k s)
      || !takesEdges (blockCounted port k s) || (blockCounted port k s).dom.edge.isSome || !edgeNew b (blockCounted port k s)) = true := by
    rw [edgeEpoch_congr hdom hreads, takesEdges_congr hdom hreads, edgeNew_congr hdom hreads, hdom]
    simp [hk, hepoch, htakes, hfirst, hnew]
    omega
  exact congrArg Host.Outcome.next ((if_neg (by simp [hport])).trans (if_neg huse))

/-! ### An edge is applied (R177, R178, R180, R254) -/

theorem exec_tickEdgeEmit {t : Nat} {s : State} (h : nextEdge s = some t) :
    let b : EdgeBlock := { hops := 0, master := hubId s, epoch := edgeEpoch s, tick := t, remain := 8000000,
                           period := (s.dom.period.map (·.1)).getD 0, fromTick := (s.dom.period.map (·.2 % 2 ^ 32)).getD 0 }
    exec .tickEdgeEmit s = .next (repeatDecision (sendEdge none 0 b (domMod (fun d => { d with edge := some b }) s))) := by
  change execTickEdgeEmit s = _
  unfold execTickEdgeEmit
  rw [h]
  cases hp : s.dom.period <;> rfl

/-- A handover that is due at an edge is over with it (R254). -/
theorem handover_filter (o : Option (Nat × Nat)) (tick : Nat) :
    o.filter (fun h => decide (tick < h.2)) = match o with
      | some (h, t) => if t ≤ tick then none else some (h, t)
      | none => none := by
  rcases o with _ | ⟨h, t⟩
  · rfl
  · by_cases ht : t ≤ tick
    · simp [ht]
    · simp [ht, Nat.lt_of_not_le ht]

/-- The edge that a member keeps is applied with the number it carries. -/
theorem exec_tickEdgeApply_member {b : EdgeBlock} {s : State} (hedge : s.dom.edge = some b) (hform : s.dom.form = none)
    (hcount : fget s F.tickCounter_count 0 < tickMax) :
    let t := domMod (fun d => { d with edge := none, edgeNs := (Config.timeNs s.fresh).toNat }) (tickFresh s)
    let u := fset F.tickCounter_count 0 b.tick (dueMembers b.tick t)
    u.failOwed = false → (u.dom.leave = true → b.tick < leaveEdge t) → isMember u = true →
    let new := b.master = hubId u ∧ masterId u ≠ hubId u
    let v := setMasterBit (fset F.domStatus_masterId 0 b.master u)
    exec .tickEdgeApply s = .next (edgeWork b.tick (edgePeriod b (domMod
      (fun d => { d with adopt := d.adopt || decide new
                         unsure := if new then (members v).filter (· != hubId v) else d.unsure
                         handover := d.handover.filter fun h => decide (b.tick < h.2) })
      v))) := by
  intro t u howed hstays hmember new v
  have hrun : (t.dom.form.isNone && fget t F.tickCounter_count 0 == tickMax) = false := by
    have hne : fget t F.tickCounter_count 0 ≠ tickMax := Nat.ne_of_lt hcount
    simp [hne]
  have hstay : ¬ (u.dom.leave && decide (leaveEdge t ≤ b.tick)) = true := by
    rw [Bool.and_eq_true, decide_eq_true_eq]
    rintro ⟨hleave, hdue⟩
    exact absurd (hstays hleave) (Nat.not_lt.2 hdue)
  have htform : t.dom.form = none := hform
  change execTickEdgeApply s = _
  unfold execTickEdgeApply
  rw [hedge]
  dsimp -zeta only
  extract_lets t' ovr w u' new' v' x
  have hw : w = dueMembers b.tick t := by
    unfold w
    rw [htform]
  have hu : u' = u := by
    unfold u'
    rw [if_neg (Bool.eq_false_iff.1 hrun), hw]
  clear_value u'
  subst hu
  rw [if_neg (Bool.eq_false_iff.1 howed), if_neg hstay, if_neg (by simp [hmember])]
  simp only [handover_filter]
  rfl

/-! ### An edge is missed (R204, R253, R262) -/

/-- What a missed edge does to a partition: it awaits the decision of the tick that ended, or falls behind by one. -/
def missedAt (tick : Nat) (s : State) (p : Nat) : State :=
  let w := partGet s p
  if !w.enabled then s
  else if w.undecided then partMod p (fun w => { w with behind := true }) s
  else if fon s F.partStatus_faulted p then s
  else partMod p (fun w => { w with undecided := true, closing := tick, repeated := [], told := 0xFF }) s

/-- The state after a missed edge, before the hub departs if it was the fourth. -/
def edgeMissedOnce (s : State) : State :=
  domMod (fun d => { d with missed := s.dom.missed + 1 })
    ((List.map (·.1) s.parts).foldl (missedAt (fget s F.tickCounter_count 0 + s.dom.missed)) s)

theorem exec_edgeMissed {s : State} (hmember : isMember s = true) (hnone : s.dom.edge = none) (hmaster : isMaster s = false) :
    exec .edgeMissed s = .next (if s.dom.missed + 1 ≥ 4 then sendHello (departNow (edgeMissedOnce s)) else edgeMissedOnce s) :=
  congrArg _ (if_neg (by simp [hmember, hnone, hmaster]))

/-- `t` is `s` but for its partitions' own states, none of which is disabled or decided by the change. -/
structure Awaiting (s t : State) : Prop where
  rest : ∃ parts, t = { s with parts := parts }
  enabled : ∀ p, (partGet t p).enabled = (partGet s p).enabled
  undecided : ∀ p, (partGet s p).undecided = true → (partGet t p).undecided = true

namespace Awaiting
variable {s t u : State}

theorem refl (s : State) : Awaiting s s := ⟨⟨_, rfl⟩, fun _ => rfl, fun _ h => h⟩

theorem trans (h : Awaiting s t) (k : Awaiting t u) : Awaiting s u := by
  obtain ⟨⟨ps, rfl⟩, he, hu⟩ := h
  obtain ⟨⟨qs, rfl⟩, ke, ku⟩ := k
  exact ⟨⟨qs, rfl⟩, fun p => (ke p).trans (he p), fun p hp => ku p (hu p hp)⟩

/-- A change of one partition that neither enables, disables nor decides it. -/
theorem partMod {p : Nat} {f : Part → Part} (he : (f (partGet s p)).enabled = (partGet s p).enabled)
    (hu : (partGet s p).undecided = true → (f (partGet s p)).undecided = true) : Awaiting s (partMod p f s) := by
  refine ⟨⟨_, rfl⟩, fun q => ?_, fun q hq => ?_⟩
  · by_cases h : q = p
    · subst h
      exact (congrArg Part.enabled (partGet_partSet ..)).trans he
    · exact congrArg Part.enabled (partGet_partSet_other _ _ _ _ h)
  · by_cases h : q = p
    · subst h
      exact (congrArg Part.undecided (partGet_partSet ..)).trans (hu hq)
    · exact (congrArg Part.undecided (partGet_partSet_other _ _ _ _ h)).trans hq

theorem regs (h : Awaiting s t) : t.regs = s.regs := by
  obtain ⟨⟨_, rfl⟩, _, _⟩ := h
  rfl
theorem mem (h : Awaiting s t) : t.mem = s.mem := by
  obtain ⟨⟨_, rfl⟩, _, _⟩ := h
  rfl
theorem dom (h : Awaiting s t) : t.dom = s.dom := by
  obtain ⟨⟨_, rfl⟩, _, _⟩ := h
  rfl

end Awaiting

theorem missedAt_awaiting (tick : Nat) (s : State) (p : Nat) : Awaiting s (missedAt tick s p) := by
  unfold missedAt
  exact on_ite (P := Awaiting s) (.refl s) (on_ite (P := Awaiting s) (.partMod rfl id)
    (on_ite (P := Awaiting s) (.refl s) (.partMod rfl fun _ => rfl)))

theorem foldl_missedAt_awaiting (tick : Nat) (ps : List Nat) (s : State) : Awaiting s (ps.foldl (missedAt tick) s) := by
  induction ps generalizing s with
  | nil => exact .refl s
  | cons p ps ih => exact (missedAt_awaiting tick s p).trans (ih _)

/-- An enabled partition that has not faulted awaits a decision then. -/
theorem missedAt_undecided {tick p : Nat} {s : State} (he : (partGet s p).enabled = true) (hf : fon s F.partStatus_faulted p = false) :
    (partGet (missedAt tick s p) p).undecided = true := by
  unfold missedAt
  extract_lets w
  rw [if_neg (by simp [w, he])]
  by_cases hu : w.undecided = true
  · rw [if_pos hu]
    exact (congrArg Part.undecided (partGet_partSet ..)).trans hu
  · rw [if_neg hu, if_neg (by simp [hf])]
    exact congrArg Part.undecided (partGet_partSet ..)

theorem foldl_missedAt_undecided {tick p : Nat} {ps : List Nat} {s : State} (hp : p ∈ ps) (he : (partGet s p).enabled = true)
    (hf : fon s F.partStatus_faulted p = false) : (partGet (ps.foldl (missedAt tick) s) p).undecided = true := by
  induction ps generalizing s with
  | nil => cases hp
  | cons q ps ih =>
    have hq := missedAt_awaiting tick s q
    rcases List.mem_cons.1 hp with rfl | hp
    · exact (foldl_missedAt_awaiting tick ps _).undecided p (missedAt_undecided he hf)
    · exact ih hp ((hq.enabled p).trans he) ((fon_congr (rget_congr hq.regs _ _)).trans hf)

theorem Map.mem_keys_of_get? {α : Type} {m : Map α} {k : Nat} {v : α} (h : Map.get? m k = some v) : k ∈ List.map (·.1) m := by
  induction m with
  | nil => cases h
  | cons e m ih =>
    by_cases hk : e.1 = k
    · exact List.mem_cons.2 (.inl hk.symm)
    · exact List.mem_cons_of_mem _ (ih ((if_neg hk).symm.trans h))

/-- A partition that is enabled is listed: one that is not reads as disabled. -/
theorem mem_parts_of_enabled {s : State} {p : Nat} (h : (partGet s p).enabled = true) : p ∈ List.map (·.1) s.parts := by
  unfold partGet Map.get at h
  cases hg : Map.get? s.parts p with
  | none =>
    rw [hg] at h
    cases h
  | some w => exact Map.mem_keys_of_get? hg

theorem edgeMissedOnce_undecided {s : State} {p : Nat} (he : (partGet s p).enabled = true) :
    (partGet (edgeMissedOnce s) p).undecided = true ∨ fon s F.partStatus_faulted p = true := by
  cases hf : fon s F.partStatus_faulted p with
  | true => exact .inr rfl
  | false => exact .inl (foldl_missedAt_undecided (mem_parts_of_enabled he) he hf)

/-! ### Reports and decisions (R203, R204) -/

section Packets
variable {a : IdnArr} {s : State} (h : Taken a s) (hdst : a.pkt.dst = hubId s)
include h hdst

theorem exec_report (hty : a.pkt.ty = 0x10) (lines : List RepLine) :
    exec (.report a lines) s = .next (takeReport a.pkt.src a.pkt.addr lines (linkTaken a s)) :=
  congrArg _ ((if_neg (not_not_intro hty)).trans (idnAccept_taken h _ hdst))

theorem exec_decision (hty : a.pkt.ty = 0x11) (lines : List DecLine) :
    exec (.decision a lines) s = .next (decisionApply a.pkt.addr lines (linkTaken a s)) :=
  congrArg _ ((if_neg (not_not_intro hty)).trans (idnAccept_taken h _ hdst))

end Packets

/-! ### The release of tile programs (R31, R202, R253) -/

theorem exec_tickRelease {p : Nat} {r : TickRec} {s : State} (hr : (partGet s p).inForce = some r) (hlive : (partGet s p).live = true)
    (hheld : (partGet s p).released = false) (hdecided : (partGet s p).undecided = false) (hmissed : s.dom.missed = 0)
    (hhalf : (partGet s p).drains.any (fun d => d.half == (partGet s p).half) = false)
    (htable : lsSecondary s p = true → (partGet s p).lsReady = true) :
    exec (.tickRelease p) s = .next (releasePart p r s) := by
  have hls : (lsSecondary s p && !(partGet s p).lsReady) = false := by
    cases hsec : lsSecondary s p with
    | false => rfl
    | true => rw [htable hsec]; rfl
  change execTickRelease p s = _
  simp [execTickRelease, hr, hlive, hheld, hdecided, hmissed, hhalf, hls]

/-! ### The claim -/

/-- Settles O18, by the rule of each command. That the master repeats its decision with each edge as a packet is log entry 98, and that
a missed edge leaves the partitions without a report, and the fourth one lets the hub say so as it departs, is log entry 33. -/
theorem edgeReportAndDecisionCommandsComplete : Obligations.EdgeReportAndDecisionCommandsComplete := by
  unfold Obligations.EdgeReportAndDecisionCommandsComplete
  refine ⟨fun t s => exec_tickEdgeEmit, fun port k b s hport hk hhops hremain hepoch htakes hfirst hnew =>
      exec_edge_first hport hk hhops hremain hepoch htakes hfirst ?_, fun b s => exec_tickEdgeApply_member,
    fun s hmember hnone hmaster => ?_, fun a lines s hty h hdst => exec_report h hdst hty lines,
    fun s h => congrArg Host.Outcome.next (if_pos h), fun a lines s hty h hdst => exec_decision h hdst hty lines,
    fun p r s => exec_tickRelease⟩
  · cases hform : s.dom.form with
    | some f =>
      rw [hform] at hnew
      exact edgeNew_forming hform hnew
    | none =>
      cases hjoin : joinMsg s with
      | some m =>
        rw [hform, hjoin] at hnew
        exact edgeNew_joining hform hjoin hnew
      | none =>
        rw [hform, hjoin] at hnew
        exact edgeNew_later hform hjoin hnew
  · have hfold := foldl_missedAt_awaiting (fget s F.tickCounter_count 0 + s.dom.missed) (List.map (·.1) s.parts) s
    have hdom : (edgeMissedOnce s).dom = { s.dom with missed := s.dom.missed + 1 } :=
      congrArg (fun d : Dom => { d with missed := s.dom.missed + 1 }) hfold.dom
    exact ⟨_, exec_edgeMissed hmember hnone hmaster, hdom, hfold.regs, hfold.mem,
      fun p he => (edgeMissedOnce_undecided he).imp_right .inl⟩

end Sys2Proof.Machine
end

section
/-! Reads of lost sectors (R203, R286, R289): what a read of a listed sector answers, counts, records and spoils, and why the claim about
it fails of a tile number that the hub does not have. -/
namespace Sys2Proof.Machine

/-! ### What follows a failed read keeps what it counted and recorded (R286, R290, R306) -/

/-- What a failed read leaves behind in controller `c` is the same: the count, and, where MEMC_ERR holds an error, that error. The
partitions' own states are the same too. -/
structure SameFailure (c : Nat) (s t : State) : Prop where
  count : fget t F.memcUeCount_count (ctlReg c) = fget s F.memcUeCount_count (ctlReg c)
  held : fon s F.memcErr_valid (ctlReg c) = true → fon t F.memcErr_valid (ctlReg c) = true
    ∧ fget t F.memcErr_cause (ctlReg c) = fget s F.memcErr_cause (ctlReg c)
    ∧ fget t F.memcErr_sector (ctlReg c) = fget s F.memcErr_sector (ctlReg c)
  parts : t.parts = s.parts

/-- Putting an error into a first-error register changes that register alone. -/
theorem firstErr_only {w : List RegName} {v m : Fld} {fs : List (Fld × Nat)} {i : Nat} (hv : v.reg ∈ w) (hm : m.reg ∈ w)
    (hfs : ∀ p ∈ fs, p.1.reg ∈ w) (hi : i < 65536) (s : State) : OnlyRegs w s (firstErr v m fs i s) := by
  unfold firstErr
  exact on_ite (P := OnlyRegs w s) (.fset _ _ _ hm hi)
    ((OnlyRegs.foldl (g := fun s (p : Fld × Nat) => fset p.1 i p.2 s) (fun s p hp => .fset i p.2 s (hfs p hp) hi) s).trans
      (.fset _ _ _ hv hi))

theorem memcErr_only (c k a : Nat) (s : State) : OnlyRegs [.memcErr] s (memcErr c k a s) :=
  firstErr_only (by decide) (by decide) (by simp [F.memcErr_cause, F.memcErr_channel, F.memcErr_sector]) (ctlReg_lt c) s

/-- A further error leaves the one that MEMC_ERR holds (R306). -/
theorem memcErr_of_valid {c : Nat} {s : State} (h : fon s F.memcErr_valid (ctlReg c) = true) (k a : Nat) :
    memcErr c k a s = fset F.memcErr_more (ctlReg c) 1 s :=
  if_pos h

/-- The first error since MEMC_ERR was cleared is held: its cause and its sector (R306). -/
theorem memcErr_of_clear {c : Nat} {s : State} (h : fon s F.memcErr_valid (ctlReg c) = false) (k a : Nat) :
    fon (memcErr c k a s) F.memcErr_valid (ctlReg c) = true
    ∧ fget (memcErr c k a s) F.memcErr_cause (ctlReg c) = k % 2 ^ F.memcErr_cause.w
    ∧ fget (memcErr c k a s) F.memcErr_sector (ctlReg c) = a / 512 % 2 ^ F.memcErr_sector.w := by
  have he : memcErr c k a s = fset F.memcErr_valid (ctlReg c) 1 (fset F.memcErr_sector (ctlReg c) (a / 512)
      (fset F.memcErr_channel (ctlReg c) (ctlChannel a) (fset F.memcErr_cause (ctlReg c) k s))) :=
    if_neg (Bool.eq_false_iff.1 h)
  rw [he]
  refine ⟨?_, ?_, ?_⟩
  · unfold fon
    rw [fget_fset_of_lt (by decide) (by decide)]
    rfl
  · rw [fget_fset_field _ F.memcErr_valid F.memcErr_cause _ _ rfl (by decide) (by decide),
      fget_fset_field _ F.memcErr_sector F.memcErr_cause _ _ rfl (by decide) (by decide),
      fget_fset_field _ F.memcErr_channel F.memcErr_cause _ _ rfl (by decide) (by decide), fget_fset_same _ _ _ _ (by decide)]
  · rw [fget_fset_field _ F.memcErr_valid F.memcErr_sector _ _ rfl (by decide) (by decide), fget_fset_same _ _ _ _ (by decide)]

namespace SameFailure
variable {c : Nat} {s t u : State}

theorem refl (c : Nat) (s : State) : SameFailure c s s := ⟨rfl, fun h => ⟨h, rfl, rfl⟩, rfl⟩

theorem trans (h : SameFailure c s t) (k : SameFailure c t u) : SameFailure c s u := by
  refine ⟨k.count.trans h.count, fun hv => ?_, k.parts.trans h.parts⟩
  obtain ⟨hvalid, hcause, hsector⟩ := h.held hv
  obtain ⟨kvalid, kcause, ksector⟩ := k.held hvalid
  exact ⟨kvalid, kcause.trans hcause, ksector.trans hsector⟩

theorem of_reads (hcount : rget t .memcUeCount (ctlReg c) = rget s .memcUeCount (ctlReg c))
    (herr : rget t .memcErr (ctlReg c) = rget s .memcErr (ctlReg c)) (hparts : t.parts = s.parts) : SameFailure c s t :=
  ⟨fget_congr (f := F.memcUeCount_count) hcount,
    fun h => ⟨(fon_congr (f := F.memcErr_valid) herr).trans h, fget_congr (f := F.memcErr_cause) herr,
      fget_congr (f := F.memcErr_sector) herr⟩, hparts⟩

theorem of_only {w : List RegName} (hcount : .memcUeCount ∉ w) (herr : .memcErr ∉ w) (h : OnlyRegs w s t) : SameFailure c s t :=
  .of_reads (h.reads _ _ hcount (ctlReg_lt c)) (h.reads _ _ herr (ctlReg_lt c)) h.parts

theorem of_regs (hregs : t.regs = s.regs) (hparts : t.parts = s.parts) : SameFailure c s t :=
  .of_reads (rget_congr hregs _ _) (rget_congr hregs _ _) hparts

theorem fset {f : Fld} (hcount : .memcUeCount ≠ f.reg) (herr : .memcErr ≠ f.reg) {i : Nat} (hi : i < 65536) (v : Nat) (s : State) :
    SameFailure c s (fset f i v s) :=
  .of_only (w := [f.reg]) (by simp [hcount]) (by simp [herr]) (.fset i v s (by simp) hi)

theorem memcErr (k a : Nat) (s : State) : SameFailure c s (memcErr c k a s) := by
  have honly := memcErr_only c k a s
  refine ⟨fget_congr (honly.reads _ _ (by decide) (ctlReg_lt c)), fun hv => ?_, honly.parts⟩
  rw [memcErr_of_valid hv]
  unfold fon at hv ⊢
  rw [fget_fset_field _ F.memcErr_more F.memcErr_valid _ _ rfl (by decide) (by decide)]
  exact ⟨hv, fget_fset_field _ F.memcErr_more F.memcErr_cause _ _ rfl (by decide) (by decide),
    fget_fset_field _ F.memcErr_more F.memcErr_sector _ _ rfl (by decide) (by decide)⟩

theorem memcRecord (c' k cls a : Nat) (p : Option Nat) (i : Bool) (s : State) : SameFailure c s (memcRecord c' k cls a p i s) :=
  .of_only (by decide) (by decide) (logErr_only ..)

theorem ledgerWrite (s : State) : SameFailure c s (ledgerWrite s) := by
  unfold Machine.ledgerWrite
  exact on_ite (P := SameFailure c s) (.of_regs rfl rfl) (.of_regs rfl rfl)

end SameFailure

section Row
variable (q : Nat) (s : State)

theorem reportPage_sameFailure : SameFailure (ctlOf (q * 512)) s (reportPage q s) := (SameFailure.memcErr ..).trans (.memcRecord ..)

theorem retirePage_sameFailure : SameFailure (ctlOf (q * 512)) s (retirePage q s) := by
  unfold retirePage
  extract_lets page i l t x l' t'
  have ht : SameFailure (ctlOf (q * 512)) s t := .fset (by decide) (by decide) (ctlReg_lt _) _ s
  have ht' : SameFailure (ctlOf (q * 512)) s t' :=
    on_ite (P := SameFailure _ s) (ht.trans (.fset (by decide) (by decide) (by decide) _ t)) ht
  refine on_ite (P := SameFailure _ s) (on_ite (P := SameFailure _ s) (.refl _ s) ?_)
    (on_ite (P := SameFailure _ s) (.refl _ s) (on_ite (P := SameFailure _ s) ?_ ?_))
  · exact SameFailure.trans (t := { s with ledger := l }) (.of_regs rfl rfl) (.ledgerWrite _)
  · have hu : SameFailure (ctlOf (q * 512)) t { t with pagesTold := t.pagesTold ++ [page] } := .of_regs rfl rfl
    exact ((ht.trans hu).trans (.fset (by decide) (by decide) (by decide) _ _)).trans (reportPage_sameFailure ..)
  · have hu : SameFailure (ctlOf (q * 512)) t' { t' with ledger := l', pageReports := t'.pageReports ++ [(page, q)] } := .of_regs rfl rfl
    exact (ht'.trans hu).trans (.ledgerWrite _)

theorem queueRepair_sameFailure : SameFailure (ctlOf (q * 512)) s (queueRepair q s) := by
  unfold queueRepair
  extract_lets c
  have hu : SameFailure (ctlOf (q * 512)) s { s with repairs := s.repairs ++ [(q, s.edges)] } := .of_regs rfl rfl
  exact on_ite (P := SameFailure _ s) (.refl _ s) (on_ite (P := SameFailure _ s) (retirePage_sameFailure q s)
    (hu.trans (.fset (by decide) (by decide) (ctlReg_lt _) _ _)))

end Row

/-! ### An uncorrectable read (R203, R286) -/

/-- An uncorrectable read as its controller counts and holds it. -/
def failureCounted (q k : Nat) (s : State) : State :=
  fbump F.memcUeCount_count (ctlReg (ctlOf (q * 512))) 1 (memcErr (ctlOf (q * 512)) k (q * 512) s)

section Failure
variable (q k : Nat) (s : State)

theorem failureCounted_parts : (failureCounted q k s).parts = s.parts := (memcErr_only ..).parts

theorem fget_failureCounted :
    fget (failureCounted q k s) F.memcUeCount_count (ctlReg (ctlOf (q * 512)))
      = min (fget s F.memcUeCount_count (ctlReg (ctlOf (q * 512))) + 1) (2 ^ F.memcUeCount_count.w - 1) := by
  unfold failureCounted fbump
  rw [(SameFailure.memcErr ..).count]
  exact fget_fset_of_lt (by decide) (Nat.lt_of_le_of_lt (Nat.min_le_right ..) (by decide))

theorem failureCounted_held (h : fon s F.memcErr_valid (ctlReg (ctlOf (q * 512))) = false) :
    fon (failureCounted q k s) F.memcErr_valid (ctlReg (ctlOf (q * 512))) = true
    ∧ fget (failureCounted q k s) F.memcErr_cause (ctlReg (ctlOf (q * 512))) = k % 2 ^ F.memcErr_cause.w
    ∧ fget (failureCounted q k s) F.memcErr_sector (ctlReg (ctlOf (q * 512))) = q % 2 ^ F.memcErr_sector.w := by
  have hother : ∀ g : Fld, g.reg ≠ .memcUeCount → fget (failureCounted q k s) g (ctlReg (ctlOf (q * 512)))
      = fget (memcErr (ctlOf (q * 512)) k (q * 512) s) g (ctlReg (ctlOf (q * 512))) := fun g hg => fget_fset_reg _ _ g _ _ hg
  have hheld := memcErr_of_clear h k (q * 512)
  rw [Nat.mul_div_cancel _ (by decide : 0 < 512)] at hheld
  unfold fon at hheld ⊢
  rw [hother F.memcErr_valid (by decide), hother F.memcErr_cause (by decide), hother F.memcErr_sector (by decide)]
  exact hheld

theorem spoil_regs (p : Nat) (src : SpoilSrc) (i : Bool) (s : State) : (spoil p src i s).regs = s.regs := by
  unfold spoil
  split <;> rfl

/-- Once it is counted and held, an uncorrectable read is recorded, may bring a repair about, and spoils the tick of the partition that
made it. -/
theorem memUncorrectable_follows (p : Option Nat) (i : Bool) :
    ∃ t, SameFailure (ctlOf (q * 512)) (failureCounted q k s) t ∧ (memUncorrectable (q * 512) k p i s).regs = t.regs
      ∧ ∀ r, p = some r → memUncorrectable (q * 512) k p i s = spoil r (.sector q) i t := by
  have hq : q * 512 / 512 = q := Nat.mul_div_cancel _ (by decide)
  unfold memUncorrectable
  rw [hq]
  extract_lets c u live t v
  have ht : SameFailure c u t := .memcRecord ..
  have hv : SameFailure c u v := on_ite (P := SameFailure c u) ht (ht.trans (queueRepair_sameFailure ..))
  refine ⟨v, hv, ?_⟩
  cases p with
  | none => exact ⟨rfl, fun r hr => nomatch hr⟩
  | some r =>
    have hlive : inTick v r = live := by
      unfold inTick partGet
      rw [hv.parts]
      rfl
    have hspoil : (if live = true then spoil r (.sector q) i v else v) = spoil r (.sector q) i v := by
      unfold spoil
      rw [hlive]
      cases live <;> rfl
    refine ⟨?_, fun r' hr => ?_⟩
    · exact on_ite (P := fun x : State => x.regs = v.regs) (spoil_regs ..) rfl
    · cases hr
      exact hspoil

variable {q k s} {p : Option Nat} {i : Bool}

theorem fget_memUncorrectable_count :
    fget (memUncorrectable (q * 512) k p i s) F.memcUeCount_count (ctlReg (ctlOf (q * 512)))
      = min (fget s F.memcUeCount_count (ctlReg (ctlOf (q * 512))) + 1) (2 ^ F.memcUeCount_count.w - 1) := by
  obtain ⟨t, ht, hregs, -⟩ := memUncorrectable_follows q k s p i
  exact (fget_congr (rget_congr hregs _ _)).trans (ht.count.trans (fget_failureCounted q k s))

theorem memUncorrectable_held (h : fon s F.memcErr_valid (ctlReg (ctlOf (q * 512))) = false) :
    fon (memUncorrectable (q * 512) k p i s) F.memcErr_valid (ctlReg (ctlOf (q * 512))) = true
    ∧ fget (memUncorrectable (q * 512) k p i s) F.memcErr_cause (ctlReg (ctlOf (q * 512))) = k % 2 ^ F.memcErr_cause.w
    ∧ fget (memUncorrectable (q * 512) k p i s) F.memcErr_sector (ctlReg (ctlOf (q * 512))) = q % 2 ^ F.memcErr_sector.w := by
  obtain ⟨t, ht, hregs, -⟩ := memUncorrectable_follows q k s p i
  obtain ⟨hvalid, hcause, hsector⟩ := failureCounted_held q k s h
  obtain ⟨tvalid, tcause, tsector⟩ := ht.held hvalid
  exact ⟨(fon_congr (rget_congr hregs _ _)).trans tvalid, (fget_congr (rget_congr hregs _ _)).trans (tcause.trans hcause),
    (fget_congr (rget_congr hregs _ _)).trans (tsector.trans hsector)⟩

/-- The tick of the partition that made the read spoils, with the sector as the source (R203). -/
theorem memUncorrectable_spoils {r : Nat} (h : inTick s r = true) :
    (partGet (memUncorrectable (q * 512) k (some r) i s) r).spoils = (partGet s r).spoils ++ [⟨.sector q, i⟩] := by
  obtain ⟨t, ht, -, hspoil⟩ := memUncorrectable_follows q k s (some r) i
  have hpart : partGet t r = partGet s r := by
    unfold partGet
    rw [ht.parts, failureCounted_parts]
  have htick : inTick t r = true := by
    unfold inTick
    rw [hpart]
    exact h
  rw [hspoil r rfl]
  unfold spoil
  rw [if_pos htick]
  unfold partMod
  rw [partGet_partSet, hpart]

end Failure

/-! ### A read of a lost sector (R286, R289) -/

/-- A read of a listed sector is answered with an error and no data. -/
theorem exec_memoryRead_lost {addr n : Nat} {s : State} (hready : ctlReady s addr = true) (hone : addr % 512 + n ≤ 512)
    (hlost : s.lost.contains (addr / 512) = true) (cls : Nat) (who : MemReq) (u : MemUpset) :
    exec (.memoryRead addr n cls who u) s = .next (emit .net 0x21 [addr] [] (readFailed (addr / 512) 4 who false s)) :=
  congrArg Host.Outcome.next ((if_neg (by simp [hready, hone])).trans (if_pos hlost))

/-- A failed read that is neither the drain's nor a walker's does no more than an uncorrectable read does. -/
theorem readFailed_of_others {who : MemReq} (hdrain : ∀ p j, who ≠ .drain p j) (hwalker : ∀ k e g, who ≠ .walker k e g) (q k : Nat)
    (i : Bool) (s : State) : readFailed q k who i s = memUncorrectable (q * 512) k (MemReq.part s who) i s := by
  cases who with
  | unit p => rfl
  | walker t e g => exact absurd rfl (hwalker t e g)
  | drain p j => exact absurd rfl (hdrain p j)
  | outside => rfl

/-- A walker's failed read gets its own record as well (R161). -/
theorem readFailed_walker (q k t e : Nat) (g i : Bool) (s : State) :
    readFailed q k (.walker t e g) i s = kvwRecord t (if g then 10 else 9) i
      (kvwErr t (if g then 10 else 9) e (memUncorrectable (q * 512) k (some (partOfTile s t)) i s)) :=
  rfl

theorem kvwErr_only {t : Nat} (ht : t < numTiles) (k e : Nat) (s : State) : OnlyRegs [.kvwErr] s (kvwErr t k e s) :=
  firstErr_only (by decide) (by decide) (by simp [F.kvwErr_cause, F.kvwErr_tile, F.kvwErr_entry, F.kvwErr_tick])
    (Nat.lt_of_le_of_lt (Nat.div_le_self ..) (Nat.lt_trans ht (by decide))) s

theorem kvwRecord_only (t k : Nat) (i : Bool) (s : State) : OnlyRegs errRegs s (kvwRecord t k i s) := logErr_only ..

/-- That record leaves what the controller holds, where the walker is one of the hub's. -/
theorem readFailed_sameFailure {who : MemReq} (hdrain : ∀ p j, who ≠ .drain p j)
    (hwalker : ∀ k e g, who = .walker k e g → k < numTiles) (c q k : Nat) (i : Bool) (s : State) :
    SameFailure c (memUncorrectable (q * 512) k (MemReq.part s who) i s) (readFailed q k who i s) := by
  cases who with
  | unit p => exact .refl ..
  | walker t e g =>
    rw [readFailed_walker]
    exact (SameFailure.of_only (by decide) (by decide) (kvwErr_only (hwalker t e g rfl) ..)).trans
      (.of_only (by decide) (by decide) (kvwRecord_only ..))
  | drain p j => exact absurd rfl (hdrain p j)
  | outside => exact .refl ..

/-- What the claim says of a read of a listed sector, for the requesters that the hub has: a walker of one of its tiles, a unit of a
partition, or one from outside. -/
theorem lostSectorNotServed {addr n : Nat} {who : MemReq} {s : State} (hready : ctlReady s addr = true) (hone : addr % 512 + n ≤ 512)
    (hlost : s.lost.contains (addr / 512) = true) (hdrain : ∀ p j, who ≠ .drain p j)
    (hwalker : ∀ k e g, who = .walker k e g → k < numTiles) (cls : Nat) (u : MemUpset) :
    let c := ctlOf (addr / 512 * 512)
    ∃ t, exec (.memoryRead addr n cls who u) s = .next (emit .net 0x21 [addr] [] t)
      ∧ t = readFailed (addr / 512) 4 who false s
      ∧ ((∀ k e g, who ≠ .walker k e g) → t = memUncorrectable (addr / 512 * 512) 4 (MemReq.part s who) false s)
      ∧ fget t F.memcUeCount_count (ctlReg c) = min (fget s F.memcUeCount_count (ctlReg c) + 1) (2 ^ F.memcUeCount_count.w - 1)
      ∧ (fon s F.memcErr_valid (ctlReg c) = false →
          fget t F.memcErr_cause (ctlReg c) = 4 ∧ fget t F.memcErr_sector (ctlReg c) = addr / 512 % 2 ^ F.memcErr_sector.w)
      ∧ (∀ p, who = .unit p → inTick s p = true →
          (partGet t p).spoils = (partGet s p).spoils ++ [⟨.sector (addr / 512), false⟩])
      ∧ ∀ a m, memRead t a m = memRead s a m := by
  intro c
  have hsame := readFailed_sameFailure hdrain hwalker c (addr / 512) 4 false s
  refine ⟨_, exec_memoryRead_lost hready hone hlost cls who u, rfl, fun hothers => readFailed_of_others hdrain hothers .., ?_,
    fun hclear => ?_, ?_, (readFailed_same ..).memRead_eq⟩
  · exact hsame.count.trans fget_memUncorrectable_count
  · obtain ⟨hvalid, hcause, hsector⟩ := memUncorrectable_held (q := addr / 512) (k := 4) (p := MemReq.part s who) (i := false) hclear
    obtain ⟨-, tcause, tsector⟩ := hsame.held hvalid
    exact ⟨tcause.trans hcause, tsector.trans hsector⟩
  · rintro p rfl htick
    exact memUncorrectable_spoils htick

/-! ### The claim

The claim ranges over every tile number that a walker's request may carry. The registers of a bay whose number is 65536 or more stand, in
the model, where other registers stand, so that the walker's KVW_ERR of such a tile can be MEMC_UE_COUNT itself. -/

/-- The tile number whose walker's KVW_ERR stands where the model has MEMC_UE_COUNT of the first controller. -/
def strayTile : Nat := (RegName.memcUeCount.ctorIdx - RegName.kvwErr.ctorIdx) * 65536 * 8

/-- The request of that tile's walker. -/
def strayRequest : MemReq := .walker strayTile 0 false

/-- The first controller is in service, and has lost its first sector. -/
def strayLoss : State where
  regs := [(regKey .memcStatus 0, 1)]
  lost := [0]

theorem strayLoss_ready : ctlReady strayLoss 0 = true := by decide +kernel

theorem strayLoss_counted_before : fget strayLoss F.memcUeCount_count (ctlReg (ctlOf 0)) = 0 := by decide +kernel

/-- The count, raised to 1, reads as a KVW_ERR that holds an error, and so the walker's error sets its MORE. -/
theorem strayLoss_counted_after :
    fget (readFailed 0 4 strayRequest false strayLoss) F.memcUeCount_count (ctlReg (ctlOf 0)) = 3 := by decide +kernel

/-- Refutes O53: the read of `strayRequest` raises MEMC_UE_COUNT from 0 to 3 and not to 1, because the KVW_ERR of a tile that no hub
has is that counter in the model. Of the tiles that a hub has, and of every other requester, `lostSectorNotServed` gives all that the
claim says. -/
theorem not_lostSectorsAreNotServed : ¬ Obligations.LostSectorsAreNotServed := by
  unfold Obligations.LostSectorsAreNotServed
  intro h
  obtain ⟨t, -, rfl, -, hcount, -⟩ := h 0 64 0 strayRequest {} strayLoss strayLoss_ready (by decide) rfl (fun _ _ => nofun)
  have hone : (3 : Nat) = min (0 + 1) (2 ^ F.memcUeCount_count.w - 1) :=
    strayLoss_counted_after.symm.trans (strayLoss_counted_before ▸ hcount)
  exact absurd hone (by decide)

end Sys2Proof.Machine
end

section
/-! The training of an Idoon port (R236 to R240), its control blocks (R227, R228, R235, R239, R252) and the writes of IDN_CTRL (R268): what
each event does where its port is in the state that the event is for. -/
namespace Sys2Proof.Machine

/-! ### From DETECT to ACTIVE (R236 to R239) -/

section Training
variable {k : Nat} {s : State}

theorem exec_peerPatternSeen {lanes : Nat} {fast : Bool} (hstate : idnState s k = 2) (hlanes : 4 ≤ lanes) :
    exec (.peerPatternSeen k lanes fast) s
      = .next (setIdn k 3 (fset F.idnStatus_rate k (bit01 (fast && bitOn (s.cfg.groups.getD k 0) 2)) s)) :=
  congrArg _ (if_neg (by omega))

theorem exec_detectTimeout (hstate : idnState s k = 2) : exec (.detectTimeout k) s = .next (failTraining k 1 s) :=
  congrArg _ (if_neg (not_not_intro hstate))

theorem exec_trainRetryWait (hstate : idnState s k = 1) (hfails : fget s F.idnStatus_fails k ≠ 0)
    (hon : fon s F.idnCtrl_disable k = false) : exec (.trainRetryWait k) s = .next (trainPort k s) :=
  congrArg _ (if_neg (by simp [hstate, hfails, hon]))

theorem exec_equalisationEnd {bad : Nat} (hstate : idnState s k = 3) (hwidth : widthOf bad ≠ 0) :
    exec (.equalisationEnd k bad) s = .next (sendTrain k (widthOf bad) (setIdn k 4 (fset F.idnLanes_bad k bad s))) :=
  congrArg _ (if_neg (by simp [hstate, hwidth]))

theorem exec_equaliseTimeout (hstate : idnState s k = 3) : exec (.equaliseTimeout k) s = .next (failTraining k 1 s) :=
  congrArg _ (if_neg (not_not_intro hstate))

section LaneTest
variable {bad : Nat} (hstate : idnState s k = 4)
  (hmine : widthOf (bad ||| fget s F.idnLanes_bad k) ≠ 0)
  (hboth : widthOf (bad ||| fget s F.idnLanes_bad k ||| (idnGet s k).peerBad) ≠ 0)
  (hpeer : peerOk (sendTrain k (widthOf (bad ||| fget s F.idnLanes_bad k)) (fset F.idnLanes_bad k (bad ||| fget s F.idnLanes_bad k) s))
    (idnGet s k) = true)
include hstate hmine hboth hpeer

/-- Ends that first state different widths equalise once more (R239). -/
theorem exec_idoonLaneTestDone_disagree (hwidth : (idnGet s k).peerWidth ≠ widthOf (bad ||| fget s F.idnLanes_bad k))
    (hfirst : (idnGet s k).agreed = false) :
    let b := bad ||| fget s F.idnLanes_bad k
    exec (.idoonLaneTestDone k bad) s = .next (failTraining k 3 (fset F.idnLanes_bad k 0
      (idnMod k (fun q => { q with agreed := true, heard := false, peerBad := 0 })
        (sendTrain k (widthOf b) (fset F.idnLanes_bad k b s))))) :=
  congrArg _ ((if_neg (not_not_intro hstate)).trans
    ((if_neg (by simp [hmine, hboth, hpeer])).trans (if_pos (by simp [hwidth, hfirst]))))

/-- Ends that state one width, or have equalised once more, take one lane map and one width (R236, R239). -/
theorem exec_idoonLaneTestDone_agree
    (hagreed : (idnGet s k).peerWidth = widthOf (bad ||| fget s F.idnLanes_bad k) ∨ (idnGet s k).agreed = true) :
    let q := idnGet s k
    let b := bad ||| fget s F.idnLanes_bad k
    let both := b ||| q.peerBad
    let t := sendTrain k (widthOf b) (fset F.idnLanes_bad k b s)
    let auth := decide (hubId t < q.peerHub)
    exec (.idoonLaneTestDone k bad) s = .next (setIdn k 5 (setWidth k both
      (min (if q.agreed = true ∧ auth = false then q.peerWidth else widthOf b) (widthOf both))
        (fset F.idnStatus_authority k (bit01 auth)
          (fset F.idnStatus_peerGroup k q.peerGroup (fset F.idnStatus_peerHub k q.peerHub t))))) := by
  intro q b both t auth
  have hsame : ¬ (q.peerWidth ≠ widthOf b ∧ (!q.agreed) = true) := by
    rintro ⟨hwidth, hfirst⟩
    rcases hagreed with h | h
    · exact hwidth h
    · simp [q, h] at hfirst
  have hown : (q.agreed = true ∧ (!auth) = true) = (q.agreed = true ∧ auth = false) := by rw [Bool.not_eq_true']
  simp only [← hown]
  exact congrArg _ ((if_neg (not_not_intro hstate)).trans ((if_neg (by simp [hmine, hboth, hpeer])).trans (if_neg hsame)))

end LaneTest

theorem exec_codewordLock {good : Nat} (hstate : idnState s k = 5) (hgood : 64 ≤ good) :
    exec (.codewordLock k good) s = .next (sendTsync k 0 0 (setIdn k 6 (idnMod k (fun q => { q with samples := 0 }) s))) :=
  congrArg _ (if_neg (by omega))

theorem exec_lockTimeout (hstate : idnState s k = 5) : exec (.lockTimeout k) s = .next (failTraining k 1 s) :=
  congrArg _ (if_neg (not_not_intro hstate))

/-- A measured port is ACTIVE; of its link state only what waits, what the peer is and the width's cap stay (R235). -/
theorem exec_measureDone (hstate : idnState s k = 6) (hsamples : 1024 ≤ (idnGet s k).samples) :
    let q := idnGet s k
    exec (.measureDone k) s = .next (helloRoutes (pump k (fset F.idnStatus_fails k 0 (setIdn k 7
      (idnSet k { waiting := q.waiting, role := q.role, peerHub := q.peerHub, peerGroup := q.peerGroup, cap := q.cap } s))))) :=
  congrArg _ (if_neg (by omega))

end Training

/-! ### Faults and quick retraining (R237, R238, R240) -/

section Faults
variable {k : Nat} {s : State}

theorem exec_laneFault {lane : Nat} (hactive : idnActive s k = true) (hlane : lane < 18) :
    exec (.laneFault k lane) s = .next (quickWidth k (fget s F.idnLanes_bad k ||| 2 ^ lane)
      (setIdn k 8 (idnMod k (fun q => { q with samples := 0 }) s))) :=
  congrArg _ (if_neg (by simp [hactive, hlane]))

theorem exec_lossOfSignal (hactive : idnActive s k = true) : exec (.lossOfSignal k) s = .next (portLost k (setIdn k 1 s)) :=
  congrArg _ (if_neg (by simp [hactive]))

theorem exec_qretrainDone (hstate : idnState s k = 8) (hsamples : 64 ≤ (idnGet s k).samples) (hwidth : fget s F.idnStatus_width k ≠ 0) :
    exec (.qretrainDone k) s = .next (pump k (resend k (idnGet s k).replay (setIdn k 7 s))) :=
  congrArg _ (if_neg (by omega))

theorem exec_qretrainTimeout (hstate : idnState s k = 8) : exec (.qretrainTimeout k) s = .next (portLost k (trainPort k s)) :=
  congrArg _ (if_neg (not_not_intro hstate))

end Faults

/-! ### Control blocks (R227, R228, R235, R239, R252) -/

section Blocks
variable {k : Nat} {b : BlkArr} {s : State} (hlink : hasLink s k = true)
include hlink

theorem onBlock_taken (hb : blkOk b = true) (f : State → State) : onBlock k b f s = f (blockCounted k b s) :=
  (if_neg (by simp [hlink])).trans (if_pos hb)

/-- A block that may not be taken is counted all the same (R227, R269). -/
theorem onBlock_dropped (hb : blkOk b = false) (f : State → State) : onBlock k b f s = blockCounted k b s :=
  (if_neg (by simp [hlink])).trans (if_neg (Bool.eq_false_iff.1 hb))

theorem exec_idleBlock : exec (.idleBlock k b) s = .next (blockCounted k b s) := by
  refine congrArg Host.Outcome.next ?_
  cases hb : blkOk b with
  | true => exact onBlock_taken hlink hb id
  | false => exact onBlock_dropped hlink hb id

section Taken
variable (hb : blkOk b = true)
include hb

theorem exec_ack {seq : Nat} (hactive : idnActive (blockCounted k b s) k = true) :
    exec (.ack k b seq) s = .next (pump k (idnMod k (fun q =>
      { q with replay := replayFrom q ((seq % 4096 + 1) % 4096), naks := 0 }) (blockCounted k b s))) :=
  congrArg _ ((onBlock_taken hlink hb _).trans (if_pos hactive))

/-- A NAK sends the rest of the replay buffer again or, where it is the eighth that names one SEQ, retrains the port (R228). -/
theorem exec_nak {seq : Nat} (hactive : idnActive (blockCounted k b s) k = true) :
    let q := idnGet (blockCounted k b s) k
    let n := if q.nakSeq = seq % 4096 then q.naks + 1 else 1
    let q' : IdnPort := { q with replay := replayFrom q (seq % 4096), nakSeq := seq % 4096, naks := n }
    let u := idnSet k q' (blockCounted k b s)
    exec (.nak k b seq) s = .next (if 8 ≤ n then quickRetrain k u else pump k (resend k q'.replay u)) := by
  intro q n q' u
  have hport : idnGet u k = q' := Map.get_set_same ..
  have hgo : ¬ (!idnActive (blockCounted k b s) k) = true := by simp [hactive]
  rw [← hport]
  refine congrArg Host.Outcome.next ((onBlock_taken hlink hb _).trans ?_)
  exact if_neg hgo

theorem exec_credit {vc blocks : Nat} (hactive : idnActive (blockCounted k b s) k = true) (hvc : vc < 4) :
    exec (.credit k b vc blocks) s = .next (pump k (idnMod k (fun q =>
      { q with used := Map.set q.used vc (Map.get q.used 0 vc - blocks) }) (blockCounted k b s))) :=
  congrArg _ ((onBlock_taken hlink hb _).trans (if_pos ⟨hactive, hvc⟩))

theorem exec_tsync {departure echoed hold now : Nat}
    (hstate : idnState (blockCounted k b s) k = 6 ∨ idnState (blockCounted k b s) k = 8) :
    let u := sendTsync k departure now (blockCounted k b s)
    exec (.tsync k b departure echoed hold now) s = .next (if echoed = 0 then u
      else fset F.idnStatus_latPs k ((now - echoed - hold) / 2) (idnMod k (fun q => { q with samples := q.samples + 1 }) u)) :=
  congrArg _ ((onBlock_taken hlink hb _).trans (if_pos hstate))

/-- What the peer states is kept. In QRETRAIN the end without the authority takes the result that the other states, and the one with
it takes the other's bad lanes into account (R239). -/
theorem exec_train {role hub group lanes width : Nat} (hactive : idnActive (blockCounted k b s) k = false) :
    let u := idnMod k (fun q => { q with
      role := role, peerHub := hub % 64, peerGroup := group, peerWidth := width, peerBad := lanes % 2 ^ 18, heard := true })
      (blockCounted k b s)
    let bad := fget u F.idnLanes_bad k ||| lanes % 2 ^ 18
    exec (.train k b role hub group lanes width) s = .next (if idnState u k ≠ 8 then u
      else if fon u F.idnStatus_authority k = false then setWidth k (lanes % 2 ^ 18) width u
      else if bad = fget u F.idnLanes_bad k then u else quickWidth k bad u) := by
  intro u bad
  refine congrArg Host.Outcome.next ((onBlock_taken hlink hb _).trans ((if_neg (by simp [hactive])).trans ?_))
  change (if idnState u k ≠ 8 then u
    else if fon u F.idnStatus_authority k = true then (if bad = fget u F.idnLanes_bad k then u else quickWidth k bad u)
    else setWidth k (lanes % 2 ^ 18) width u) = _
  cases fon u F.idnStatus_authority k <;> rfl

end Taken

end Blocks

theorem exec_ackTimer {k : Nat} {s : State} (hactive : idnActive s k = true) (howed : (idnGet s k).ackOwed = true) :
    exec (.ackTimer k) s = .next (sendBlock k 0x01 [((idnGet s k).rxSeq + 4095) % 4096]
      (idnSet k { idnGet s k with ackOwed := false } s)) :=
  congrArg _ (if_neg (by simp [hactive, howed]))

/-! ### IDN_CTRL (R236, R237, R268) -/

/-- The low bits of a word are those of its remainder. -/
theorem getLsbD_of_toNat_mod {n m i : Nat} {v : Word} (h : v.toNat % 2 ^ n = m) (hi : i < n) : v.getLsbD i = m.testBit i := by
  rw [← h, Nat.testBit_mod_two_pow, BitVec.testBit_toNat, decide_eq_true hi, Bool.true_and]

section Control
variable {k : Nat} {v : Word} {s : State} (hk : k < 36)
include hk

theorem exec_idnCtrlRetrain (hv : v.toNat % 2 ^ 2 = 1) :
    exec (.idnCtrlRetrain k v) s = .next (retrainPort k (fset F.idnCtrl_disable k (bitsAt v.toNat 2 1) s)) := by
  have hretrain : v.getLsbD 0 = true := getLsbD_of_toNat_mod hv (by decide)
  have hrelease : v.getLsbD 1 = false := getLsbD_of_toNat_mod hv (by decide)
  exact congrArg _ ((if_pos ⟨hk, hretrain⟩).trans
    ((if_pos hretrain).trans (congrArg (retrainPort k) (if_neg (Bool.eq_false_iff.1 hrelease)))))

theorem exec_idnCtrlRelease (hv : v.toNat % 2 ^ 2 = 2) :
    exec (.idnCtrlRelease k v) s = .next (releasePort k (fset F.idnCtrl_disable k (bitsAt v.toNat 2 1) s)) := by
  have hretrain : v.getLsbD 0 = false := getLsbD_of_toNat_mod hv (by decide)
  have hrelease : v.getLsbD 1 = true := getLsbD_of_toNat_mod hv (by decide)
  exact congrArg _ ((if_pos ⟨hk, hrelease⟩).trans ((if_neg (Bool.eq_false_iff.1 hretrain)).trans (if_pos hrelease)))

theorem exec_idnCtrlDisable (hv : v.toNat % 2 ^ 3 = 4) :
    exec (.idnCtrlDisable k v) s = .next (fset F.idnCtrl_disable k (bitsAt v.toNat 2 1) s) := by
  have hretrain : v.getLsbD 0 = false := getLsbD_of_toNat_mod hv (by decide)
  have hrelease : v.getLsbD 1 = false := getLsbD_of_toNat_mod hv (by decide)
  exact congrArg _ ((if_pos ⟨hk, getLsbD_of_toNat_mod hv (by decide)⟩).trans
    ((if_neg (Bool.eq_false_iff.1 hretrain)).trans (if_neg (Bool.eq_false_iff.1 hrelease))))

end Control

/-! ### The claims -/

/-- Settles O23, by the rule of each event. That the lane map leaves out the lanes that either end found bad, and that it caps the width
which the authority states, is the model's choice (log entry 99). -/
theorem portTrainingEventsComplete : Obligations.PortTrainingEventsComplete := by
  unfold Obligations.PortTrainingEventsComplete
  intro k s
  refine ⟨fun lanes fast => exec_peerPatternSeen, exec_detectTimeout, exec_trainRetryWait, fun bad => exec_equalisationEnd,
    exec_equaliseTimeout, fun bad hstate => ?_, fun good => exec_codewordLock, exec_lockTimeout, exec_measureDone,
    fun lane => exec_laneFault, exec_lossOfSignal, exec_qretrainDone, exec_qretrainTimeout⟩
  exact fun hmine hboth hpeer => ⟨exec_idoonLaneTestDone_disagree hstate hmine hboth hpeer,
    exec_idoonLaneTestDone_agree hstate hmine hboth hpeer⟩

/-- Settles O24, by the rule of each block and write. That a TSYNC which echoes 0 gives no sample is the model's choice (log entry 99). -/
theorem portBlocksAndControlComplete : Obligations.PortBlocksAndControlComplete := by
  unfold Obligations.PortBlocksAndControlComplete
  exact ⟨fun k b s hlink hb => ⟨exec_idleBlock hlink, fun seq => exec_ack hlink hb, fun seq => exec_nak hlink hb,
      fun vc blocks => exec_credit hlink hb, fun departure echoed hold now => exec_tsync hlink hb,
      fun role hub group lanes width => exec_train hlink hb⟩,
    fun k b s hlink _ => exec_idleBlock hlink, fun k s => exec_ackTimer,
    fun k v s hk => ⟨exec_idnCtrlRetrain hk, exec_idnCtrlRelease hk, exec_idnCtrlDisable hk⟩⟩

end Sys2Proof.Machine
end

section
/-! The domain of hubs (R243 to R266): its packets as they arrive, formation and membership, and the commands of the domain and of
lock-step. -/
namespace Sys2Proof.Machine

/-! ### What taking a packet leaves of the domain (R228, R232) -/

section TakenViews
variable {a : IdnArr} {s : State} (h : Taken a s)
include h

theorem linkTaken_dom : (linkTaken a s).dom = s.dom := by
  have hport : a.port < 65536 := port_lt_of_idnActive h.active
  have hout : OnlyRegs [.idnTxbytes] _ (linkTaken a s) :=
    (fwrap_only _ _ _ (by decide) (by decide) hport).trans (emit_only _ .link 2 _ _ _)
  have hin : OnlyRegs [.idnRxbytes, .idnCorr, .idnUncorr] s
      (codewords a.port a.words (fwrap F.idnRxbytes_count F.idnRxbytes_ovf a.port (32 * pktBlocks a.pkt) s)) :=
    (fwrap_only _ _ _ (by decide) (by decide) hport).trans
      ((fwrap_only _ _ _ (by decide) (by decide) hport).trans (fbump_only _ _ _ (by decide) hport))
  exact hout.dom.trans hin.dom

/-- The registers of the domain read as before. -/
theorem linkTaken_reads {r : RegName} (hr : r ∉ [.idnTxbytes, .idnRxbytes, .idnCorr, .idnUncorr]) :
    rget (linkTaken a s) r 0 = rget s r 0 := by
  simp only [List.mem_cons, List.not_mem_nil, or_false, not_or] at hr
  obtain ⟨hsent, hcame, hcorr, huncorr⟩ := hr
  exact rget_linkTaken hsent hcame hcorr huncorr (port_lt_of_idnActive h.active) (by decide)

theorem hubId_linkTaken : hubId (linkTaken a s) = hubId s := fget_congr (linkTaken_reads h (by decide))

theorem isMember_linkTaken : isMember (linkTaken a s) = isMember s := isMember_congr (linkTaken_reads h (by decide))

theorem isMaster_linkTaken : isMaster (linkTaken a s) = isMaster s :=
  isMaster_congr (linkTaken_reads h (by decide)) (linkTaken_reads h (by decide))

/-- A flood is taken whatever its target. -/
theorem Taken.addressed (d : Nat) : Taken { a with pkt := { a.pkt with dst := d } } s :=
  ⟨h.active, h.clean, h.correctable, h.crc, h.inOrder, h.endToEnd, h.sound, h.epoch⟩

theorem idnAccept_addressed (f : IdnPkt → State → State) :
    idnAccept { a with pkt := { a.pkt with dst := hubId s } } f s = f { a.pkt with dst := hubId s } (linkTaken a s) :=
  idnAccept_taken (h.addressed (hubId s)) f rfl

/-- A packet of the type that its meaning is for is handed to it. -/
theorem accept_of_type (hdst : a.pkt.dst = hubId s) {ty : Nat} (hty : a.pkt.ty = ty) (f : IdnPkt → State → State) :
    (if a.pkt.ty ≠ ty then s else idnAccept a f s) = f a.pkt (linkTaken a s) :=
  (if_neg (not_not_intro hty)).trans (idnAccept_taken h f hdst)

end TakenViews

/-- Where a flood goes on to does not rest on the target it came with. -/
theorem passOn_addressed (a : IdnArr) (d : Nat) (s : State) : passOn { a with pkt := { a.pkt with dst := d } } s = passOn a s := rfl

/-! ### HELLO (R245, R246) -/

/-- A round in which no hub has gone unheard too long: each hub heard of is one round older. -/
def helloRound (s : State) : State :=
  domMod (fun d => { d with silent := Map.map d.silent fun _ n => n + 1, stable := d.stable + 1 }) s

/-- The hubs that have not been heard of for three rounds, of those of a table. -/
def unheard (ages : Map Nat) : List Nat := (ages.filter fun e => decide (e.2 > 3)).map (·.1)

theorem unheard_of_recent {m : Map Nat} (h : ∀ e ∈ m, e.2 < 3) : unheard (Map.map m fun _ n => n + 1) = [] := by
  unfold unheard Map.map
  rw [List.map_eq_nil_iff, List.filter_eq_nil_iff]
  intro e he
  obtain ⟨x, hx, rfl⟩ := List.mem_map.1 he
  have hage : x.2 < 3 := h x hx
  simp only [decide_eq_true_eq]
  omega

theorem Map.keep_all {α : Type} (m : Map α) : Map.keep m (fun _ => true) = m := List.filter_eq_self.2 fun _ _ => rfl

theorem exec_helloTimer {s : State} (hrecent : ∀ e ∈ (sendHello s).dom.silent, e.2 < 3) (hform : (sendHello s).dom.form = none) :
    let u := tryForm (helloRoutes (helloRound (sendHello s)))
    exec .helloTimer s = .next (domMod (fun d => { d with dups := [] })
      (if !isMember u && fon u F.domStatus_forming 0 && u.dom.form.isNone && (joinMsg u).isNone then sendJoin u else u)) := by
  intro u
  change execHelloTimer s = _
  unfold execHelloTimer
  extract_lets t ages dead v w u' x
  have hdead : dead = [] := unheard_of_recent hrecent
  clear_value dead
  subst hdead
  have hv : v = helloRound t := by
    unfold v helloRound
    simp [domMod, Map.keep_all, ages]
  have hw : w = v := by
    have hnone : v.dom.form = none := by
      rw [hv]
      exact hform
    unfold w
    rw [hnone]
  have hu : u' = u := by
    unfold u'
    rw [hw, hv]
  unfold x
  rw [hu]

section Hello
variable {a : IdnArr} {h : HelloMsg} {s : State} (ht : Taken a s) (hhub : h.hub ≠ hubId s)
include ht hhub

/-- A HELLO of another hub is kept, and goes on where it is new in its round. -/
theorem exec_hello (hty : a.pkt.ty = 0x18) :
    let t := takeHello h (linkTaken a s)
    exec (.hello a h) s = .next (if Map.get? s.dom.silent h.hub = some 0 ∧ Map.get? s.dom.hellos h.hub = some h then t
      else passOn { a with pkt := { a.pkt with dst := hubId s } } t) := by
  intro t
  refine congrArg Host.Outcome.next ((if_neg (not_not_intro hty)).trans ((idnAccept_addressed ht _).trans ?_))
  refine (if_neg (by rwa [hubId_linkTaken ht])).trans ?_
  by_cases hold : Map.get? s.dom.silent h.hub = some 0 ∧ Map.get? s.dom.hellos h.hub = some h
  · rw [if_pos hold]
    exact if_neg (by simp [hold])
  · have hnews : (!(Map.get? s.dom.silent h.hub == some 0 && Map.get? s.dom.hellos h.hub == some h) && h.hub != hubId s) = true := by
      rw [Bool.and_eq_true, Bool.not_eq_true', Bool.eq_false_iff, Ne, Bool.and_eq_true, beq_iff_eq, beq_iff_eq, bne_iff_ne]
      exact ⟨hold, hhub⟩
    rw [if_neg hold]
    exact if_pos hnews

theorem exec_join_master (hty : a.pkt.ty = 0x1B) (hmaster : isMaster s = true) :
    exec (.join a h) s = .next (takeJoin h (linkTaken a s)) :=
  congrArg _ ((if_neg (by simp [hty, hhub])).trans ((if_pos hmaster).trans (idnAccept_addressed ht _)))

theorem exec_join_other (hty : a.pkt.ty = 0x1B) (hmaster : isMaster s = false) :
    exec (.join a h) s = .next (passOn a (linkTaken a s)) :=
  congrArg _ ((if_neg (by simp [hty, hhub])).trans ((if_neg (Bool.eq_false_iff.1 hmaster)).trans (idnAccept_addressed ht _)))

end Hello

/-! ### Formation (R246 to R249) -/

section Formation
variable {a : IdnArr} {f : FormMsg} {s : State} (h : Taken a s) (hdst : a.pkt.dst = hubId s)
include h hdst

section Form
variable (hty : a.pkt.ty = 0x19) (hmember : isMember s = false) (hnamed : f.members.contains (hubId s) = true)
include hty hmember hnamed

/-- A hub that is no member weighs a FORM that names it. -/
theorem exec_form_weighs :
    exec (.form a f) s = .next (match formCause (linkTaken a s) f.members f.adj true with
      | some c => domRefuse c (linkTaken a s)
      | none => sendDomain 0x1A f.master [f.epoch] (takeForm f (linkTaken a s))) := by
  refine congrArg Host.Outcome.next ((accept_of_type h hdst hty _).trans ?_)
  exact if_neg (by rw [isMember_linkTaken h, hubId_linkTaken h, hmember, hnamed]; decide)

theorem exec_form_acknowledges (hcause : formCause (linkTaken a s) f.members f.adj true = none) :
    exec (.form a f) s = .next (sendDomain 0x1A f.master [f.epoch] (takeForm f (linkTaken a s))) := by
  rw [exec_form_weighs h hdst hty hmember hnamed, hcause]

theorem exec_form_refuses {cause : Nat} (hcause : formCause (linkTaken a s) f.members f.adj true = some cause) :
    exec (.form a f) s = .next (domRefuse cause (linkTaken a s)) := by
  rw [exec_form_weighs h hdst hty hmember hnamed, hcause]

end Form

theorem exec_formAck (hty : a.pkt.ty = 0x1A) {epoch : Nat} (hform : s.dom.form = some f) (hepoch : f.epoch = epoch)
    (hnew : s.dom.acks.contains a.pkt.src = false) :
    exec (.formAck a epoch) s = .next (domMod (fun d => { d with acks := a.pkt.src :: d.acks }) (linkTaken a s)) := by
  refine congrArg Host.Outcome.next ((accept_of_type h hdst hty _).trans ?_)
  rw [linkTaken_dom h, hform]
  exact if_pos ⟨hepoch, by rw [hnew]; rfl⟩

end Formation

/-- Expected hubs are still absent: fewer form the domain where that is allowed, and otherwise it is refused (R248). -/
theorem exec_formTimeout {s : State} (hmember : isMember s = false) (hform : s.dom.form = none) (hgone : s.dom.gone = false)
    (hrun : fon s F.tickCtrl_run 0 = true) (hforming : fon s F.domStatus_forming 0 = false)
    (habsent : (expectedHubs s).all (runningHubs s).contains = false) :
    exec .formTimeout s = .next (
      if s.cfg.partialOk = true then tryForm (domMod (fun d => { d with timedOut := true }) s) else domRefuse 4 s) :=
  congrArg _ (if_neg (by rw [hmember, hform, hgone, hrun, hforming, habsent]; decide))

/-! ### Membership, handover and the loss of the master (R254, R255, R262, R263) -/

section Membership
variable {a : IdnArr} {m : MemberMsg} {s : State} (h : Taken a s) (hdst : a.pkt.dst = hubId s)
include h hdst

section Arrives
variable (hty : a.pkt.ty = 0x12)
include hty

/-- A member keeps a newer membership for its edge. -/
theorem exec_membership_member (hmember : isMember s = true) (hnewer : fget s F.domStatus_epoch 0 < m.epoch) :
    exec (.membership a m) s = .next (domMod (fun d => { d with changes := putChange m d.changes }) (linkTaken a s)) := by
  have hepoch : fget (linkTaken a s) F.domStatus_epoch 0 = fget s F.domStatus_epoch 0 := fget_congr (linkTaken_reads h (by decide))
  refine congrArg Host.Outcome.next ((accept_of_type h hdst hty _).trans ?_)
  exact (if_pos ((isMember_linkTaken h).trans hmember)).trans (if_pos (by rwa [hepoch]))

section Joining
variable (hmember : isMember s = false) (hforming : fon s F.domStatus_forming 0 = true) (hform : s.dom.form = none)
  (hnamed : m.members.contains (hubId s) = true)
include hmember hforming hform hnamed

/-- A hub that asked to join weighs the membership that takes it in. -/
theorem exec_membership_weighs :
    exec (.membership a m) s = .next (match formCause (linkTaken a s) m.members m.adj false with
      | some c => domRefuse c (linkTaken a s)
      | none => domMod (fun d => { d with adj := m.adj })
          (domMod (fun d => { d with changes := putChange m d.changes }) (linkTaken a s))) := by
  have hasked : fon (linkTaken a s) F.domStatus_forming 0 = true := (fon_congr (linkTaken_reads h (by decide))).trans hforming
  refine congrArg Host.Outcome.next ((accept_of_type h hdst hty _).trans ?_)
  refine (if_neg (by rw [isMember_linkTaken h, hmember]; decide)).trans ((if_neg ?_).trans (if_pos ?_))
  · rw [hasked, linkTaken_dom h, hform]
    decide
  · rwa [hubId_linkTaken h]

theorem exec_membership_refuses {cause : Nat} (hcause : formCause (linkTaken a s) m.members m.adj false = some cause) :
    exec (.membership a m) s = .next (domRefuse cause (linkTaken a s)) := by
  rw [exec_membership_weighs h hdst hty hmember hforming hform hnamed, hcause]

theorem exec_membership_joins (hcause : formCause (linkTaken a s) m.members m.adj false = none) :
    exec (.membership a m) s = .next (domMod (fun d => { d with adj := m.adj })
      (domMod (fun d => { d with changes := putChange m d.changes }) (linkTaken a s))) := by
  rw [exec_membership_weighs h hdst hty hmember hforming hform hnamed, hcause]

end Joining

end Arrives

/-- The named successor keeps its first tick and who holds the partitions (R254). -/
theorem exec_handover (hty : a.pkt.ty = 0x1C) (hmember : isMember s = true) (tick : Nat) (held : List (Nat × Nat)) :
    exec (.handover a (hubId s) ⟨tick, held⟩) s = .next (domMod (fun d => { d with
      handover := some (hubId s, tick), holders := held.foldl (fun m e => Map.set m e.1 (bitList 64 e.2)) d.holders }) (linkTaken a s)) := by
  refine congrArg Host.Outcome.next ((accept_of_type h hdst hty _).trans ?_)
  exact if_pos ⟨(isMember_linkTaken h).trans hmember, (hubId_linkTaken h).symm⟩

end Membership

/-- The lowest-numbered reachable member takes the lost master's place, and drops it (R255). -/
theorem exec_masterLoss {s : State} (top : Nat) (held : List Nat) (hmember : isMember s = true) (hmaster : isMaster s = false)
    (hmissed : 2 ≤ s.dom.missed)
    (hfirst : ((members s).filter fun h => h != masterId s && (h == hubId s || (nextHop s h).isSome)).head? = some (hubId s)) :
    let t := max top (fget s F.tickCounter_count 0) + 1
    exec (.masterLoss top held) s = .next (dropFrom t [masterId s] (domMod (fun d => { d with
      handover := some (hubId s, t), lostParts := d.lostParts ++ held.filter (!d.lostParts.contains ·) }) s)) :=
  congrArg _ (if_neg (by rw [hmember, hmaster, hfirst]; simp; omega))

/-- With no change under way, hubs are dropped by one announcement, that of the members now without them (R247, R262). -/
theorem dropFrom_of_no_changes {s : State} (h : s.dom.changes = []) (edge : Nat) (hubs : List Nat) :
    dropFrom edge hubs s = announce { memberLess ⟨0, members s, s.dom.adj, edge⟩ hubs with
      epoch := fget s F.domStatus_epoch 0 + 1 } s := by
  unfold dropFrom memberAt
  rw [h]
  simp [memberLess]

/-- Settles O21, by the rule of each command. That a HELLO goes on only where it is new is log entry 29; that a joining hub repeats its
JOIN with each HELLO, and that MASTER_LOSS is told which counters the survivors hold and which partitions the old master held, is log
entry 33. -/
theorem formationAndMembershipCommandsComplete : Obligations.FormationAndMembershipCommandsComplete := by
  unfold Obligations.FormationAndMembershipCommandsComplete
  exact ⟨fun s => exec_helloTimer,
    fun a h s hty ht hhub => exec_hello ht hhub hty,
    fun a f s hty h hdst hmember hnamed => ⟨exec_form_acknowledges h hdst hty hmember hnamed,
      fun cause => exec_form_refuses h hdst hty hmember hnamed⟩,
    fun a f epoch s hty h hdst => exec_formAck h hdst hty,
    fun s => exec_formTimeout,
    fun a h s hty ht hhub => ⟨exec_join_master ht hhub hty, exec_join_other ht hhub hty⟩,
    fun a m s hty h hdst => exec_membership_member h hdst hty,
    fun a m s hty h hdst hmember hforming hform hnamed =>
      ⟨fun cause => exec_membership_refuses h hdst hty hmember hforming hform hnamed,
        exec_membership_joins h hdst hty hmember hforming hform hnamed⟩,
    fun a tick held s hty h hdst hmember => exec_handover h hdst hty hmember tick held,
    fun top held s hmember hmaster hmissed hfirst => ⟨exec_masterLoss top held hmember hmaster hmissed hfirst,
      fun hnone => dropFrom_of_no_changes (by exact hnone) ..⟩⟩

/-! ### DOM_CTRL and the commands of the domain (R254, R262, R263, R265, R476) -/

section DomCtrl
variable {v : Word} {s : State}

theorem exec_domCtrlLeave (hv : v.toNat % 2 ^ 3 = 1) :
    exec (.domCtrlLeave v) s = .next (leaveDomain (fset F.domCtrl_handoverTo 0 (bitsAt v.toNat 8 6) s)) := by
  have hleave : v.getLsbD 0 = true := getLsbD_of_toNat_mod hv (by decide)
  have hjoin : v.getLsbD 1 = false := getLsbD_of_toNat_mod hv (by decide)
  have hhand : v.getLsbD 2 = false := getLsbD_of_toNat_mod hv (by decide)
  exact congrArg _ ((if_pos hleave).trans ((if_pos hleave).trans (congrArg leaveDomain
    ((if_neg (Bool.eq_false_iff.1 hjoin)).trans (if_neg (Bool.eq_false_iff.1 hhand))))))

theorem exec_domCtrlJoin (hv : v.toNat % 2 ^ 3 = 2) :
    exec (.domCtrlJoin v) s = .next (joinDomain (fset F.domCtrl_handoverTo 0 (bitsAt v.toNat 8 6) s)) := by
  have hleave : v.getLsbD 0 = false := getLsbD_of_toNat_mod hv (by decide)
  have hjoin : v.getLsbD 1 = true := getLsbD_of_toNat_mod hv (by decide)
  have hhand : v.getLsbD 2 = false := getLsbD_of_toNat_mod hv (by decide)
  exact congrArg _ ((if_pos hjoin).trans ((if_neg (Bool.eq_false_iff.1 hleave)).trans ((if_pos hjoin).trans
    (congrArg joinDomain (if_neg (Bool.eq_false_iff.1 hhand))))))

theorem exec_domCtrlHandover (hv : v.toNat % 2 ^ 3 = 4) :
    exec (.domCtrlHandover v) s
      = .next (handOver (some (bitsAt v.toNat 8 6)) (fset F.domCtrl_handoverTo 0 (bitsAt v.toNat 8 6) s)) := by
  have hleave : v.getLsbD 0 = false := getLsbD_of_toNat_mod hv (by decide)
  have hjoin : v.getLsbD 1 = false := getLsbD_of_toNat_mod hv (by decide)
  have hhand : v.getLsbD 2 = true := getLsbD_of_toNat_mod hv (by decide)
  have hto : fget (fset F.domCtrl_handoverTo 0 (bitsAt v.toNat 8 6) s) F.domCtrl_handoverTo 0 = bitsAt v.toNat 8 6 :=
    fget_fset_of_lt (by decide) (bitsAt_lt ..)
  refine congrArg Host.Outcome.next ((if_pos hhand).trans ((if_neg (Bool.eq_false_iff.1 hleave)).trans
    ((if_neg (Bool.eq_false_iff.1 hjoin)).trans ((if_pos hhand).trans ?_))))
  rw [hto]

end DomCtrl

section DomCommands
variable {id : Nat} {c : Cmd} {s : State}

theorem exec_domJoin (h : Starts 0x0401 id c s) (hmember : isMember s = false) (hform : s.dom.form = none) :
    exec (.domJoin id) s = .next (finish c 0 0 0 [] (joinDomain s)) :=
  startOp_done h (if_neg (by rw [hmember, hform]; decide))

theorem exec_domLeave (h : Starts 0x0402 id c s) (hmember : isMember s = true) :
    exec (.domLeave id) s = .next (finish c 0 0 0 [] (leaveDomain s)) :=
  startOp_done h (if_pos hmember)

theorem exec_domHandover (h : Starts 0x0403 id c s) (hmaster : isMaster s = true) :
    exec (.domHandover id) s = .next (finish c 0 0 0 [] (handOver (some (bitsAt c.pkt.w1 0 6)) s)) :=
  startOp_done h (if_pos hmaster)

theorem exec_domQuery (h : Starts 0x0404 id c s) :
    exec (.domQuery id) s = .next (finish c 0 (rget s .domStatus 0).toNat (rget s .domMembers 0).toNat [] s) :=
  startOp_done h rfl

end DomCommands

/-! ### Lock-step (R259 to R261, R266) -/

/-- A field that takes the value it has changes nothing. -/
theorem putBits_bitsAt (n lo w : Nat) : putBits n lo w (bitsAt n lo w) = n := by
  have hfield : bitsAt n lo w * 2 ^ lo ≤ n := Nat.le_trans (Nat.mul_le_mul_right _ (Nat.mod_le ..)) (Nat.div_mul_le_self ..)
  rw [putBits, Nat.mod_eq_of_lt (bitsAt_lt ..), Nat.sub_add_cancel hfield]

/-- With the licence every field of LS_CFG takes its value (R266). -/
theorem writeLsCfg_licensed {s : State} (h : lsLicensed s = true) (v : Word) :
    writeLsCfg v s = rset s .lsCfg 0 (BitVec.ofNat 64 (v.toNat % 2 ^ 16)) := by
  have henable : bitsAt v.toNat 0 1 = bitsAt (v.toNat % 2 ^ 16) 0 1 := by
    rw [← bitsAt_low v.toNat 16, bitsAt_bitsAt _ (by decide)]
  unfold writeLsCfg
  rw [if_pos h, henable]
  exact congrArg (fun n => rset s .lsCfg 0 (BitVec.ofNat 64 n)) (putBits_bitsAt ..)

theorem exec_lsConfig {id : Nat} {c : Cmd} {s : State} (h : Starts 0x0405 id c s) (hlicensed : lsLicensed s = true) :
    exec (.lsConfig id) s = .next (finish c 0 0 0 [] (rset s .lsCfg 0 (BitVec.ofNat 64 (c.pkt.w1 % 2 ^ 16)))) := by
  have hword : (BitVec.ofNat 64 c.pkt.w1).toNat % 2 ^ 16 = c.pkt.w1 % 2 ^ 16 := by
    rw [BitVec.toNat_ofNat, Nat.mod_mod_of_dvd _ (Nat.pow_dvd_pow 2 (by decide))]
  rw [← hword, ← writeLsCfg_licensed hlicensed]
  exact startOp_done h (if_pos hlicensed)

section Pieces
variable {a : IdnArr} {s : State} (h : Taken a s) (hdst : a.pkt.dst = hubId s)
include h hdst

section Table
variable (hty : a.pkt.ty = 0x20)
include hty

/-- A piece of the table is stored by the secondary, which takes the table once it is whole (R259). -/
theorem exec_lsBdt_piece {r : TickRec} (hr : (partGet (linkTaken a s) a.pkt.part).inForce = some r)
    (hsecond : lsSecondary (linkTaken a s) a.pkt.part = true) (hlive : (partGet (linkTaken a s) a.pkt.part).live = true)
    (hready : (partGet (linkTaken a s) a.pkt.part).lsReady = false) :
    let t := linkTaken a s
    let p := a.pkt.part
    let w := partGet t p
    let got := if w.lsGot.contains a.pkt.addr then w.lsGot else a.pkt.addr :: w.lsGot
    let u := partSet p { w with lsGot := got } (devStore (r.bdtPA + a.pkt.addr) a.pkt.data t)
    let whole := got.contains 0 && (got.length == (64 + 128 * memNat u (r.bdtPA + 12) 4 + 511) / 512)
    exec (.lsBdt a) s = .next (if whole = true then lsTakeTable p r u else u) := by
  intro t p w got u whole
  refine congrArg Host.Outcome.next ((accept_of_type h hdst hty _).trans ?_)
  refine (if_pos (by rw [hsecond, hlive, hready]; decide)).trans ?_
  unfold lsPiece
  extract_lets w'
  split
  · next hnone => cases hr.symm.trans hnone
  · next r' hr' =>
    obtain rfl : r = r' := Option.some.inj (hr.symm.trans hr')
    rfl

/-- A piece that comes before this hub's own decision is kept for the next tick (R259). -/
theorem exec_lsBdt_early {hub : Nat} (henabled : (partGet (linkTaken a s) a.pkt.part).enabled = true)
    (hlive : (partGet (linkTaken a s) a.pkt.part).live = false) (hlock : lockOf (linkTaken a s) a.pkt.part = some (false, hub)) :
    exec (.lsBdt a) s = .next (partMod a.pkt.part (fun w => { w with lsEarly := w.lsEarly ++ [(a.pkt.addr, a.pkt.data)] })
      (linkTaken a s)) := by
  refine congrArg Host.Outcome.next ((accept_of_type h hdst hty _).trans ?_)
  exact (if_neg (by simp [hlive])).trans (if_pos (by rw [henabled, hlock]; rfl))

end Table

/-- A piece of the partner's signatures is put at its place, and the tick is settled once all are there (R261). -/
theorem exec_lsSig (hty : a.pkt.ty = 0x21) (hlock : (partGet (linkTaken a s) a.pkt.part).lock.isSome = true)
    (hnew : (partGet (linkTaken a s) a.pkt.part).sigGot.contains a.pkt.addr = false) :
    let t := linkTaken a s
    let p := a.pkt.part
    let old := padTo 2560 0 (partGet t p).lsPeer
    exec (.lsSig a) s = .next (lsSettle (partMod p (fun w => { w with
      sigGot := a.pkt.addr :: w.sigGot
      lsPeer := old.take a.pkt.addr ++ a.pkt.data ++ old.drop (a.pkt.addr + a.pkt.data.length) }) t)) := by
  intro t p old
  refine congrArg Host.Outcome.next ((accept_of_type h hdst hty _).trans ?_)
  exact if_neg (by rw [hnew, Bool.or_false, Option.isNone_iff_eq_none]; exact Option.isSome_iff_ne_none.1 hlock)

end Pieces

/-- Settles O22, by the rule of each command. That the pieces of the signatures lie by byte offset in 2,560 bytes is log entry 34. -/
theorem domainControlAndLockStepCommandsComplete : Obligations.DomainControlAndLockStepCommandsComplete := by
  unfold Obligations.DomainControlAndLockStepCommandsComplete
  exact ⟨fun v s => ⟨exec_domCtrlLeave, exec_domCtrlJoin, exec_domCtrlHandover⟩,
    fun id c s => ⟨exec_domJoin, exec_domLeave, exec_domHandover, exec_domQuery, exec_lsConfig⟩,
    fun v s hlicensed => congrArg Host.Outcome.next (writeLsCfg_licensed hlicensed v),
    fun a r s hty h hdst => exec_lsBdt_piece h hdst hty,
    fun a hub s hty h hdst => exec_lsBdt_early h hdst hty,
    fun a s hty h hdst => exec_lsSig h hdst hty⟩

end Sys2Proof.Machine
end

section
/-! The commands of the memory controllers (R278 to R281, R285, R287, R288, R291): a sector is read, written, put out of the
write-combining buffer, written back and scrubbed, a channel retrains, and a row gets a spare. -/
namespace Sys2Proof.Machine

/-! ### Reading a sector (R278, R283, R285) -/

section Fetch
variable {q tick : Nat} {u : MemUpset} {s : State} (herrors : u.errors ≤ 8)
  (hclean : memInjected (sectorRead q u s) (ctlOf (q * 512)) tick = none)
include herrors hclean

theorem fetchSector_good (hgood : decodeRead q u = .good) : fetchSector q tick u s = (.good, false, sectorRead q u s) := by
  rw [fetchSector_within herrors hclean, hgood]

/-- A correction of at most four symbols that is not the sixteenth of its row in a day only counts and asks for the write-back. -/
theorem fetchSector_corrected {v : State} (hcorrected : decodeRead q u = .corrected) (hfew : worstSymbols q u < 5) :
    let t := sectorRead q u s
    noteCorrected q (fbump F.memcCeCount_count (ctlReg (ctlOf (q * 512))) 1
      { t with wback := if t.wback.contains q then t.wback else t.wback ++ [q] }) = (false, v) →
    fetchSector q tick u s = (.corrected, false, v) := by
  intro t hnote
  rw [fetchSector_within herrors hclean, hcorrected]
  dsimp only
  rw [hnote]
  simp [Nat.not_le.2 hfew]

end Fetch

/-- The tick in which a request reads: its partition's, or the hub's (R179). -/
def readTick (s : State) (who : MemReq) : Nat := match MemReq.part s who with
  | some p => tickOf s p
  | none => fget s F.tickCounter_count 0

/-- What a requester gets of `n` bytes at `addr` once their sector is fetched: the bytes, or an error (R278, R286). -/
def readAnswer (addr n : Nat) (who : MemReq) (f : ReadOut × Bool × State) : State := match f.1 with
  | .bad k => emit .net 0x21 [addr] [] (readFailed (addr / 512) k who f.2.1 f.2.2)
  | _ => emit .net 0x20 [addr] (memRead f.2.2 addr n) f.2.2

theorem exec_memoryRead_fetches {addr n : Nat} {s : State} (hready : ctlReady s addr = true) (hone : addr % 512 + n ≤ 512)
    (hkept : s.lost.contains (addr / 512) = false) (cls : Nat) (who : MemReq) (u : MemUpset) :
    exec (.memoryRead addr n cls who u) s = .next (readAnswer addr n who
      (fetchSector (addr / 512) (readTick s who) u (slcMem addr (memClass s cls who) n s))) :=
  congrArg Host.Outcome.next ((if_neg (by simp [hready, hone])).trans (if_neg (Bool.eq_false_iff.1 hkept)))

/-- A fetched sector whose data the code gives is delivered, as memory holds it. -/
theorem exec_memoryRead_delivered {addr n cls : Nat} {who : MemReq} {u : MemUpset} {s t : State} {r : ReadOut} {injected : Bool}
    (hready : ctlReady s addr = true) (hone : addr % 512 + n ≤ 512) (hkept : s.lost.contains (addr / 512) = false)
    (hfetch : fetchSector (addr / 512) (readTick s who) u (slcMem addr (memClass s cls who) n s) = (r, injected, t))
    (hdata : ∀ k, r ≠ .bad k) :
    exec (.memoryRead addr n cls who u) s = .next (emit .net 0x20 [addr] (memRead s addr n) t) := by
  have hsame := (slcMem_same addr (memClass s cls who) n s).trans (fetchSector_same (addr / 512) (readTick s who) u _)
  rw [hfetch] at hsame
  rw [exec_memoryRead_fetches hready hone hkept, hfetch, ← hsame.memRead_eq]
  cases r with
  | bad k => exact absurd rfl (hdata k)
  | good => rfl
  | corrected => rfl

/-- A patrol read that decodes without an error only counts (R288). -/
theorem exec_scrubRead_good {q : Nat} {u : MemUpset} {s : State} (hready : ctlReady s (q * 512) = true)
    (hkept : s.lost.contains q = false) (herrors : u.errors ≤ 8) (hgood : decodeRead q u = .good)
    (hclean : memInjected (sectorRead q u s) (ctlOf (q * 512)) (fget s F.tickCounter_count 0) = none) :
    exec (.scrubRead q u) s = .next (sectorRead q u s) := by
  refine congrArg Host.Outcome.next ((if_neg (by rw [hready, hkept]; decide)).trans ?_)
  rw [fetchSector_good herrors hclean hgood]

/-! ### Writing a sector (R279 to R281, R284, R289) -/

/-- A sector is on the list of lost ones no longer (R289). -/
def delisted (a : Nat) (s : State) : State :=
  if s.lost.contains (a / 512) = true then setLost (ctlOf a) { s with lost := s.lost.filter (· != a / 512) } else s

/-- The state in which a buffer has room for a write of `n` bytes of a sector: where it had none, its least recently written entry has
left (R280). -/
def withRoom (addr n : Nat) (u : MemUpset) (s : State) : State := match wcVictim s (addr / 512) n with
  | some v => rmwSector v u (wcSet (ctlOf addr) ((wcGet s (ctlOf addr)).drop 1) s)
  | none => s

theorem withRoom_of_no_victim {addr n : Nat} {u : MemUpset} {s : State} (h : wcVictim s (addr / 512) n = none) :
    withRoom addr n u s = s := by
  unfold withRoom
  rw [h]

/-- A piece within a sector passes the buffer, unless it is a part of a lost sector; a whole sector is lost no longer. -/
theorem devWriteSector_taken {a cls : Nat} {bs : List Byte} {u : MemUpset} {s : State} (hbytes : bs.isEmpty = false)
    (hwhole : s.lost.contains (a / 512) = true → a % 512 = 0 ∧ bs.length = 512) :
    devWriteSector a bs cls u s
      = wcWrite (a / 512) (a % 512) bs.length u (memWrite a bs (slcMem a cls bs.length (delisted a s))) := by
  refine (if_neg (by simp [hbytes])).trans ?_
  unfold delisted
  cases hlost : s.lost.contains (a / 512) with
  | true => exact if_pos (hwhole hlost)
  | false => rfl

section Write
variable {addr cls : Nat} {who : MemReq} {data : List Byte} {u : MemUpset} {s : State} (hready : ctlReady s addr = true)
  (hbytes : data.isEmpty = false) (hone : addr % 512 + data.length ≤ 512)
include hready hbytes hone

/-- A write of part of a lost sector is refused (R289). -/
theorem exec_memoryWrite_refused (hlost : s.lost.contains (addr / 512) = true) (hpart : data.length < 512) :
    exec (.memoryWrite addr ⟨cls, who⟩ data u) s = .next (emit .net 0x23 [addr] [] s) :=
  congrArg Host.Outcome.next ((if_neg (by simp [hready, hbytes, hone])).trans (if_pos ⟨hlost, hpart⟩))

/-- Any other write is acknowledged, once its buffer has room for it. -/
theorem exec_memoryWrite_accepted (hwhole : s.lost.contains (addr / 512) = true → 512 ≤ data.length) :
    exec (.memoryWrite addr ⟨cls, who⟩ data u) s
      = .next (emit .net 0x22 [addr] [] (devWriteSector addr data (memClass s cls who) u (withRoom addr data.length u s))) :=
  congrArg Host.Outcome.next ((if_neg (by simp [hready, hbytes, hone])).trans
    (if_neg fun h => absurd h.2 (Nat.not_lt.2 (hwhole h.1))))

/-- A write that its buffer has room for is taken as it is. -/
theorem exec_memoryWrite_taken (hwhole : s.lost.contains (addr / 512) = true → addr % 512 = 0 ∧ data.length = 512)
    (hroom : wcVictim s (addr / 512) data.length = none) :
    exec (.memoryWrite addr ⟨cls, who⟩ data u) s = .next (emit .net 0x22 [addr] [] (wcWrite (addr / 512) (addr % 512) data.length u
      (memWrite addr data (slcMem addr (memClass s cls who) data.length (delisted addr s))))) := by
  rw [exec_memoryWrite_accepted hready hbytes hone fun h => Nat.le_of_eq (hwhole h).2.symm, withRoom_of_no_victim hroom,
    devWriteSector_taken hbytes hwhole]

end Write

/-- Where no more than eight errors in a row show at the interface, a sector reaches its part as its data and check bytes. -/
theorem partWrite_within {q : Nat} {u : MemUpset} (h : u.writeErrors ≤ 8) (s : State) :
    let t := (interfaceTries q u.writeErrors (refreshReport (ctlOf (q * 512)) u s)).2
    partWrite q u s = emit .part 0 [ctlOf (q * 512), q] (storedSector t q) (countWrite (ctlOf (q * 512)) t) := by
  intro t
  unfold partWrite
  dsimp only [t]
  rw [interfaceTries_within h] <;> rfl

theorem refreshReport_of_none {u : MemUpset} (h : u.refreshX2 = none) (c : Nat) (s : State) : refreshReport c u s = s := by
  unfold refreshReport
  rw [h]

theorem partWrite_of_no_errors {q : Nat} {u : MemUpset} (herrors : u.writeErrors = 0) (hrefresh : u.refreshX2 = none) (s : State) :
    partWrite q u s = emit .part 0 [ctlOf (q * 512), q] (storedSector s q) (countWrite (ctlOf (q * 512)) s) := by
  rw [partWrite_within (herrors ▸ Nat.zero_le 8), herrors, refreshReport_of_none hrefresh]
  rfl

/-- An entry that leaves the buffer incomplete is read and written: a read-modify-write (R280). -/
theorem rmwSector_good {q : Nat} {u : MemUpset} {s : State} (herrors : u.errors ≤ 8) (hgood : decodeRead q u = .good)
    (hclean : memInjected (sectorRead q u s) (ctlOf (q * 512)) (fget s F.tickCounter_count 0) = none) :
    rmwSector q u s = fwrap F.memcRmw_count F.memcRmw_ovf (ctlReg (ctlOf (q * 512))) 1 (partWrite q u (sectorRead q u s)) := by
  unfold rmwSector
  rw [fetchSector_good herrors hclean hgood] <;> rfl

theorem exec_wcEvictTimeout {ctl : Nat} {e : WcEntry} {rest : List WcEntry} {s : State} (holdest : wcGet s ctl = e :: rest)
    (hready : ctlReady s (e.sector * 512) = true) (u : MemUpset) :
    exec (.wcEvictTimeout ctl u) s = .next (rmwSector e.sector u (wcSet ctl rest s)) := by
  change execWcEvictTimeout ctl u s = _
  unfold execWcEvictTimeout
  rw [holdest]
  exact congrArg Host.Outcome.next (if_pos hready)

theorem exec_correctedWriteback {q : Nat} {s : State} (hasked : s.wback.contains q = true) (hready : ctlReady s (q * 512) = true)
    (u : MemUpset) :
    exec (.correctedWriteback ⟨q, u⟩) s = .next (partWrite q u { s with wback := s.wback.filter (· != q) }) :=
  congrArg Host.Outcome.next (if_pos (by rw [hasked, hready]; rfl))

/-! ### Retraining (R287) -/

/-- A channel retrains at an edge after the one in which its access escalated, or at once where the hub is no member. -/
theorem exec_memcRetrain {ctl chan : Nat} {e : Nat × Nat × Nat} {s : State}
    (hasked : s.retrains.find? (fun e => e.1 == ctl && e.2.1 == chan) = some e) (hedge : e.2.2 < s.edges ∨ isMember s = false) :
    exec (.memcRetrain ⟨ctl, chan⟩) s = .next (fset F.memcStatus_state (ctlReg ctl) 2
      { s with retrains := s.retrains.erase e, training := s.training ++ [(ctl, chan)] }) := by
  change execMemcRetrain ⟨ctl, chan⟩ s = _
  unfold execMemcRetrain
  rw [hasked]
  exact congrArg Host.Outcome.next (if_pos (by simpa using hedge))

/-- A channel that has trained serves again, and its controller is trained once no other channel of it retrains. -/
def channelTrained (ctl chan : Nat) (s : State) : State :=
  let t : State := { s with training := s.training.erase (ctl, chan) }
  if t.training.any (·.1 == ctl) = true then t else fset F.memcStatus_state (ctlReg ctl) 1 t

section Trained
variable {ctl chan rate : Nat} {s : State} (htrains : s.training.contains (ctl, chan) = true) (hrate : rate ≠ 0)
include htrains hrate

theorem exec_memcRetrainDone_as_fast (hfast : fget s F.memcStatus_rate (ctlReg ctl) ≤ rate) :
    exec (.memcRetrainDone ⟨ctl, chan⟩ rate) s = .next (channelTrained ctl chan s) :=
  congrArg Host.Outcome.next ((if_neg (by simpa using htrains)).trans ((if_neg hrate).trans (if_pos hfast)))

/-- At a lower rate the stack, or the whole fen tier, runs at that rate, and the loss is recorded. -/
theorem exec_memcRetrainDone_slower (hslow : rate < fget s F.memcStatus_rate (ctlReg ctl)) :
    exec (.memcRetrainDone ⟨ctl, chan⟩ rate) s = .next (logErr
      { code := 0x0310, cls := clsDegraded, source := ctlNode ctl, detail := ctl }
      (setMinMem ((rateGroup ctl).foldl (fun s c => fset F.memcStatus_rate (ctlReg c) rate s) (channelTrained ctl chan s)))) :=
  congrArg Host.Outcome.next ((if_neg (by simpa using htrains)).trans ((if_neg hrate).trans (if_neg (Nat.not_le.2 hslow))))

end Trained

/-! ### Row repair (R290, R291) -/

/-- A row that fails for the first time gets a spare of its bank, where one is free and the controller's table has room. -/
theorem repairRow_first {q k : Nat} {s : State} (hfirst : (rowsOf s (ctlOf (q * 512))).find? (fun e => e.isRow q) = none)
    (hspare : freeSpare s (ctlOf (q * 512)) (rowOf q).1 (rowOf q).2.1 = some k)
    (hroom : (rowsOf s (ctlOf (q * 512))).length < repairTableSize (ctlOf (q * 512))) :
    repairRow q s = setRepair (ctlOf (q * 512)) (ledgerWrite { s with ledger := { s.ledger with
      rows := (s.ledger.rows.filter fun x => !x.isRow q)
        ++ [⟨ctlOf (q * 512), 1, 1, (rowOf q).1, (rowOf q).2.1, (rowOf q).2.2, k, 0xFFFF⟩] } }) := by
  unfold repairRow
  dsimp only
  rw [hfirst, hspare]
  exact if_neg (Nat.not_le.2 hroom)

/-- A queued repair starts at an edge after the one of its queuing, or at once where the hub is no member, and no controller starts two
at one edge. -/
theorem exec_rowRepair_starts {ctl : Nat} {q : Nat × Nat} {s : State}
    (hqueued : s.repairs.find? (fun q => ctlOf (q.1 * 512) == ctl) = some q) (hedge : Map.get? s.repairedAt ctl ≠ some s.edges)
    (hlater : q.2 < s.edges ∨ isMember s = false) :
    exec (.rowRepair ctl) s = .next (repairRow q.1 (setQueued ctl
      { s with repairs := s.repairs.erase q, repairedAt := Map.set s.repairedAt ctl s.edges })) := by
  change execRowRepair ctl s = _
  unfold execRowRepair
  rw [hqueued]
  refine congrArg Host.Outcome.next (if_neg ?_)
  rintro (h | ⟨hsame, hmember⟩)
  · exact hedge h
  · rcases hlater with h | h
    · exact absurd h (Nat.not_lt.2 hsame)
    · exact absurd hmember (by simp [h])

/-! ### The claim -/

/-- Settles O30, by the rule of each command. -/
theorem memoryControllerCommandsComplete : Obligations.MemoryControllerCommandsComplete := by
  unfold Obligations.MemoryControllerCommandsComplete
  refine ⟨?read, ?write, fun q u s herrors hrefresh => partWrite_of_no_errors herrors hrefresh s, ?evict,
    fun q u s hasked hready => exec_correctedWriteback hasked hready u,
    fun q u s hready hkept herrors hgood => exec_scrubRead_good hready hkept herrors hgood, fun ctl chan e s => exec_memcRetrain,
    fun ctl chan rate s htrains hrate => ⟨exec_memcRetrainDone_as_fast htrains hrate, exec_memcRetrainDone_slower htrains hrate⟩,
    ?repair⟩
  case read =>
    intro addr n cls who u s hready hone hkept herrors q c tick t hclean
    refine ⟨fun hgood => ?_, fun v hcorrected hfew hnote => ?_⟩
    · exact exec_memoryRead_delivered hready hone hkept (fetchSector_good herrors hclean hgood) nofun
    · exact exec_memoryRead_delivered hready hone hkept (fetchSector_corrected herrors hclean hcorrected hfew hnote) nofun
  case write =>
    intro addr cls who data u s hready hbytes hone q k full back hroom hfull
    exact exec_memoryWrite_taken hready hbytes hone (fun h => of_decide_eq_true (hfull h)) hroom
  case evict =>
    intro ctl e rest u s holdest hready herrors hgood c t hclean
    rw [exec_wcEvictTimeout holdest hready, rmwSector_good herrors hgood hclean]
  case repair =>
    intro ctl k q s hqueued hedge hlater r t hfirst hspare hroom
    have hctl : ctlOf (q.1 * 512) = ctl := by simpa using List.find?_some hqueued
    subst hctl
    rw [exec_rowRepair_starts hqueued hedge hlater, repairRow_first hfirst hspare hroom]

end Sys2Proof.Machine
end

section
/-! What a write of memory does to the bytes a reader sees and to the lost sectors (R279 to R281, R284, R289, R334): it stores its own
bytes only, wherever the room for it comes from, and a whole sector that reaches its part is lost no longer. -/
namespace Sys2Proof.Machine

/-! ### Which sectors are lost (R284, R289) -/

theorem delisted_same (a : Nat) (s : State) : SameMem s (delisted a s) := by
  unfold delisted
  exact on_ite (P := SameMem s) ⟨rfl, rfl⟩ (.refl s)

/-- Whether it was on it or not, the sector is not on the list, and every other one stays. -/
theorem delisted_lost (a : Nat) (s : State) : (delisted a s).lost = s.lost.filter (· != a / 512) := by
  unfold delisted
  split
  · rfl
  · next habsent =>
    refine (List.filter_eq_self.2 fun q hq => bne_iff_ne.2 ?_).symm
    rintro rfl
    exact habsent (List.contains_iff_mem.2 hq)

theorem slcMem_lost (a cls n : Nat) (s : State) : (slcMem a cls n s).lost = s.lost := by
  obtain ⟨⟨_, _, h⟩, _⟩ := slcMem_counts a cls n s
  rw [h]

theorem fwrap_lost (f o : Fld) (i k : Nat) (s : State) : (fwrap f o i k s).lost = s.lost :=
  on_ite (P := fun t : State => t.lost = s.lost) rfl rfl

theorem refreshReport_lost (c : Nat) (u : MemUpset) (s : State) : (refreshReport c u s).lost = s.lost := by
  unfold refreshReport
  split <;> rfl

theorem interfaceTries_lost (q n : Nat) (s : State) : (interfaceTries q n s).2.lost = s.lost := by
  unfold interfaceTries
  extract_lets c ch t
  have ht : t.lost = s.lost := on_ite (P := fun v : State => v.lost = s.lost) rfl rfl
  exact on_ite (P := fun x : Bool × State => x.2.lost = s.lost) ht ht

/-- A sector that reaches its part loses none (R284). -/
theorem partWrite_lost {q : Nat} {u : MemUpset} (h : u.writeErrors ≤ 8) (s : State) : (partWrite q u s).lost = s.lost := by
  rw [partWrite_within h, emit_lost]
  exact (fwrap_lost ..).trans ((interfaceTries_lost ..).trans (refreshReport_lost ..))

/-- A whole sector takes the place of its entry and goes to its part (R280). -/
theorem wcWrite_whole {q off n : Nat} (h : 512 ≤ n) (u : MemUpset) (s : State) :
    wcWrite q off n u s = partWrite q u (wcSet (ctlOf (q * 512)) ((wcGet s (ctlOf (q * 512))).filter (·.sector != q))
      { s with wback := s.wback.filter (· != q) }) :=
  if_pos h

/-- A whole sector needs no room in its buffer. -/
theorem wcVictim_of_whole {n : Nat} (h : 512 ≤ n) (s : State) (q : Nat) : wcVictim s q n = none :=
  if_neg fun hfull => absurd hfull.1 (Nat.not_lt.2 h)

/-! ### The bytes of a write (R281, R334) -/

/-- A piece within a sector that is taken reads as written, and every other byte as before. -/
theorem memRead_taken {s : State} (hw : Mem.wf s.mem = true) (a cls : Nat) (bs : List Byte) (u : MemUpset) (c : Nat) :
    memRead (wcWrite (a / 512) (a % 512) bs.length u (memWrite a bs (slcMem a cls bs.length (delisted a s)))) c 1
      = if a ≤ c ∧ c < a + bs.length then [bs.getD (c - a) 0] else memRead s c 1 := by
  have hsame : SameMem s (slcMem a cls bs.length (delisted a s)) := (delisted_same ..).trans (slcMem_same ..)
  rw [(wcWrite_same ..).memRead_eq, memRead_memWrite _ _ _ _ (hsame.mem.symm ▸ hw), hsame.memRead_eq]

/-- A piece within a sector is left, where it is empty or a part of a lost sector, or taken. -/
theorem devWriteSector_left_or_taken (a cls : Nat) (bs : List Byte) (u : MemUpset) (s : State) :
    devWriteSector a bs cls u s = s ∨ devWriteSector a bs cls u s
      = wcWrite (a / 512) (a % 512) bs.length u (memWrite a bs (slcMem a cls bs.length (delisted a s))) := by
  by_cases hbytes : bs.isEmpty = true
  · exact .inl (if_pos hbytes)
  by_cases hpart : s.lost.contains (a / 512) = true ∧ ¬ (a % 512 = 0 ∧ bs.length = 512)
  · exact .inl ((if_neg hbytes).trans ((if_pos hpart.1).trans (if_neg hpart.2)))
  · exact .inr (devWriteSector_taken (Bool.eq_false_iff.2 hbytes) fun hlost => Decidable.not_not.1 fun h => hpart ⟨hlost, h⟩)

theorem withRoom_same (addr n : Nat) (u : MemUpset) (s : State) : SameMem s (withRoom addr n u s) := by
  unfold withRoom
  split
  · exact (wcSet_same ..).trans (rmwSector_same ..)
  · exact .refl s

/-- A write changes nothing, answers that it is refused, or passes the buffer once there is room, and is acknowledged. -/
theorem exec_memoryWrite_cases (addr cls : Nat) (who : MemReq) (data : List Byte) (u : MemUpset) (s : State) :
    let run := exec (.memoryWrite addr ⟨cls, who⟩ data u) s
    run = .next s ∨ run = .next (emit .net 0x23 [addr] [] s) ∨ run
      = .next (emit .net 0x22 [addr] [] (devWriteSector addr data (memClass s cls who) u (withRoom addr data.length u s))) := by
  intro run
  by_cases hidle : !ctlReady s addr ∨ data.isEmpty ∨ addr % 512 + data.length > 512
  · exact .inl (congrArg Host.Outcome.next (if_pos hidle))
  by_cases hpart : s.lost.contains (addr / 512) ∧ data.length < 512
  · exact .inr (.inl (congrArg Host.Outcome.next ((if_neg hidle).trans (if_pos hpart))))
  · exact .inr (.inr (congrArg Host.Outcome.next ((if_neg hidle).trans (if_neg hpart))))

/-- Whatever a write's accesses meet, and wherever its room comes from, no byte changes but those it carries. -/
theorem memRead_memoryWrite_outside {addr cls : Nat} {who : MemReq} {data : List Byte} {u : MemUpset} {s t : State}
    (hw : Mem.wf s.mem = true) (ht : exec (.memoryWrite addr ⟨cls, who⟩ data u) s = .next t) {a : Nat}
    (ha : ¬ (addr ≤ a ∧ a < addr + data.length)) : memRead t a 1 = memRead s a 1 := by
  rcases exec_memoryWrite_cases addr cls who data u s with h | h | h <;> obtain rfl := Host.Outcome.next.inj (ht.symm.trans h)
  · rfl
  · exact (emit_same ..).memRead_eq a 1
  · have hroom := withRoom_same addr data.length u s
    rw [(emit_same ..).memRead_eq]
    rcases devWriteSector_left_or_taken addr (memClass s cls who) data u (withRoom addr data.length u s) with h' | h' <;> rw [h']
    · exact hroom.memRead_eq a 1
    · rw [memRead_taken (hroom.mem.symm ▸ hw), if_neg ha, hroom.memRead_eq]

/-! ### The claim -/

/-- Settles O52: of the bytes, `memRead_memoryWrite_outside` and `memRead_taken` say all, and of the lost sectors `partWrite_lost` and
`delisted_lost`. -/
theorem memoryWriteStoresItsBytesOnly : Obligations.MemoryWriteStoresItsBytesOnly := by
  unfold Obligations.MemoryWriteStoresItsBytesOnly
  intro addr cls who data u s t hw ht
  refine ⟨fun a => memRead_memoryWrite_outside hw ht, fun hready hbytes hone => ⟨fun hlost hpart => ?refused,
    fun hkept hroom k hk => ?part, fun hlen => ?whole⟩⟩
  case refused => exact Host.Outcome.next.inj (ht.symm.trans (exec_memoryWrite_refused hready hbytes hone hlost hpart))
  case part =>
    obtain rfl := Host.Outcome.next.inj (ht.symm.trans
      (exec_memoryWrite_taken hready hbytes hone (fun h => absurd h (Bool.eq_false_iff.1 hkept)) hroom))
    rw [(emit_same ..).memRead_eq, memRead_taken hw, if_pos (by omega), Nat.add_sub_cancel_left]
  case whole =>
    have hall : 512 ≤ data.length := Nat.le_of_eq hlen.symm
    obtain rfl := Host.Outcome.next.inj (ht.symm.trans
      (exec_memoryWrite_taken hready hbytes hone (fun _ => ⟨by omega, hlen⟩) (wcVictim_of_whole hall ..)))
    refine ⟨fun hreached => ?_, fun k hk => ?_⟩
    · rw [emit_lost, wcWrite_whole hall, partWrite_lost hreached]
      exact (slcMem_lost ..).trans (delisted_lost ..)
    · rw [(emit_same ..).memRead_eq, memRead_taken hw, if_pos (by omega), Nat.add_sub_cancel_left]

end Sys2Proof.Machine
end

section
/-! The end of a clear (R289, R299, R300, R499): what it zeroes, forgets and marks, and that nothing which follows it changes that. -/
namespace Sys2Proof.Machine

/-! ### Tables and memory -/

theorem Map.get?_keep_of_dropped {α : Type} {f : Nat → Bool} {k : Nat} (h : f k = false) (m : Map α) :
    Map.get? (Map.keep m f) k = none := by
  induction m with
  | nil => rfl
  | cons e m ih =>
    obtain ⟨j, v⟩ := e
    cases hj : f j with
    | false =>
      have hdrop : Map.keep ((j, v) :: m) f = Map.keep m f := List.filter_cons_of_neg (by simp [hj])
      rw [hdrop, ih]
    | true =>
      have hkeep : Map.keep ((j, v) :: m) f = (j, v) :: Map.keep m f := List.filter_cons_of_pos hj
      have hne : j ≠ k := fun e => by simp [← e, hj] at h
      rw [hkeep, Map.get?, if_neg hne, ih]

/-- Does an address lie in one of some ranges. -/
def inRanges (rs : List (Nat × Nat)) (a : Nat) : Bool := rs.any fun r => decide (r.1 ≤ a ∧ a < r.2)

/-- Once some ranges are cleared, their bytes read zero, and every other byte as before. -/
theorem Mem.read_clears (rs : List (Nat × Nat)) {m : Mem} (h : Mem.wf m = true) (a : Nat) :
    Mem.read (rs.foldl (fun m r => Mem.clear m r.1 (r.2 - r.1)) m) a = if inRanges rs a then 0 else Mem.read m a := by
  induction rs generalizing m with
  | nil => rfl
  | cons r rs ih =>
    rw [List.foldl_cons, ih (Mem.wf_clear _ _ h), Mem.read_clear _ _ _ h]
    have hcons : inRanges (r :: rs) a = (decide (r.1 ≤ a ∧ a < r.2) || inRanges rs a) := rfl
    have hend : (r.1 ≤ a ∧ a < r.1 + (r.2 - r.1)) ↔ (r.1 ≤ a ∧ a < r.2) := by omega
    simp only [hcons, hend]
    by_cases hr : r.1 ≤ a ∧ a < r.2 <;> cases inRanges rs a <;> simp [hr, Mem.blank]

/-! ### What a clear counts and reports -/

/-- Device memory, the tile stores, the lost sectors, the keys and the clears asked for are the same, and so is every register but
those of `w`. -/
structure SameContents (w : List RegName) (s t : State) : Prop where
  mem : t.mem = s.mem
  store : t.store = s.store
  lost : t.lost = s.lost
  fenKeys : t.fenKeys = s.fenKeys
  keyMap : t.keyMap = s.keyMap
  clearQ : t.clearQ = s.clearQ
  reads : ∀ r i, r ∉ w → i < 65536 → rget t r i = rget s r i

namespace SameContents
variable {w : List RegName} {s t u : State}

theorem of_regs (hregs : t.regs = s.regs) (hmem : t.mem = s.mem) (hstore : t.store = s.store) (hlost : t.lost = s.lost)
    (hkeys : t.fenKeys = s.fenKeys) (hmap : t.keyMap = s.keyMap) (hq : t.clearQ = s.clearQ) : SameContents w s t :=
  ⟨hmem, hstore, hlost, hkeys, hmap, hq, fun r i _ _ => rget_congr hregs r i⟩

theorem refl (w : List RegName) (s : State) : SameContents w s s := .of_regs rfl rfl rfl rfl rfl rfl rfl

theorem trans (h : SameContents w s t) (k : SameContents w t u) : SameContents w s u :=
  ⟨k.mem.trans h.mem, k.store.trans h.store, k.lost.trans h.lost, k.fenKeys.trans h.fenKeys, k.keyMap.trans h.keyMap,
    k.clearQ.trans h.clearQ, fun r i hr hi => (k.reads r i hr hi).trans (h.reads r i hr hi)⟩

theorem of_only (h : OnlyRegs w s t) : SameContents w s t := by
  have hreads := h.reads
  obtain ⟨⟨_, _, _, _, _, _, _, _, _, _, rfl⟩, _⟩ := h
  exact ⟨rfl, rfl, rfl, rfl, rfl, rfl, hreads⟩

theorem fset {f : Fld} {i : Nat} (v : Nat) (s : State) (hf : f.reg ∈ w) (hi : i < 65536) : SameContents w s (fset f i v s) :=
  .of_only (.fset i v s hf hi)

theorem mono {w' : List RegName} (h : SameContents w s t) (hw : w ⊆ w') : SameContents w' s t :=
  ⟨h.mem, h.store, h.lost, h.fenKeys, h.keyMap, h.clearQ, fun r i hr => h.reads r i fun hr' => hr (hw hr')⟩

theorem foldl {α : Type} {g : State → α → State} (hg : ∀ s x, SameContents w s (g s x)) (l : List α) (s : State) :
    SameContents w s (l.foldl g s) :=
  on_foldl (P := SameContents w s) (.refl w s) fun t x h => h.trans (hg t x)

end SameContents

/-- The registers that zeroing some sectors counts in: bytes written, the classes' bytes, lost sectors. -/
def zeroingRegs : List RegName := [.memcWrbytes, .slcBytes, .slcOvf, .memcRepair]

theorem slcServe_sameContents (kind res n : Nat) {cls : Nat} (hcls : cls < 65536) (s : State) :
    SameContents zeroingRegs s (slcServe kind res cls n s) := by
  unfold slcServe
  extract_lets k total t u
  have ht : SameContents zeroingRegs s t := .of_regs rfl rfl rfl rfl rfl rfl rfl
  have hu : SameContents zeroingRegs s u := ht.trans (.fset _ t (by decide) hcls)
  exact on_ite (P := SameContents zeroingRegs s) (hu.trans (.of_only (.rset u 0 _ (by decide) (by decide)))) hu

theorem clearRanges_sameContents (rs : List (Nat × Nat)) (s : State) : SameContents zeroingRegs s (clearRanges rs s) := by
  unfold clearRanges
  extract_lets t
  have ht : SameContents zeroingRegs s t := .foldl (fun s c => by
    extract_lets n
    exact on_ite (P := SameContents zeroingRegs s) (.refl _ s)
      (.trans (.of_only (fwrap_only _ _ s (by decide) (by decide) (ctlReg_lt c))) (slcServe_sameContents _ _ _ (by decide) _))) _ s
  exact ht.trans (.foldl (fun s r => .of_only (emit_only ..)) rs t)

theorem setLost_sameContents (c : Nat) (s : State) : SameContents zeroingRegs s (setLost c s) := .fset _ s (by decide) (ctlReg_lt c)

/-- The registers that the end of the clears after the loss of a host link may change: presence and power of the slot, HUB_STATE and
what follows it (R429, R437). -/
def lossRegs : List RegName := [.hostpHotplug, .hostpHubStatus, .bootStatus, .objCtrl]

theorem setHubState_sameContents (v : Nat) (s : State) : SameContents lossRegs s (setHubState v s) := by
  unfold setHubState
  extract_lets t
  have ht : SameContents lossRegs s t := ((SameContents.fset _ s (by decide) (by decide)).trans
    (.fset _ _ (by decide) (by decide))).trans (.fset _ _ (by decide) (by decide))
  exact on_ite (P := SameContents lossRegs s) ht (ht.trans (.of_only (emit_only ..)))

theorem removalStep_sameContents (s : State) : SameContents lossRegs s (removalStep s) := by
  unfold removalStep
  extract_lets t
  have ht : SameContents lossRegs s t := on_ite (P := SameContents lossRegs s)
    ((SameContents.fset _ s (by decide) (by decide)).trans (.of_only (emit_only ..))) (.refl _ s)
  have hu : SameContents lossRegs t { t with removing := false } := .of_regs rfl rfl rfl rfl rfl rfl rfl
  refine on_ite (P := SameContents lossRegs s) (.refl _ s) (on_ite (P := SameContents lossRegs s) ht ?_)
  exact (((ht.trans hu).trans (.fset _ _ (by decide) (by decide))).trans (.fset _ _ (by decide) (by decide))).trans
    (.of_only (emit_only ..))

theorem lossDone_sameContents (s : State) : SameContents lossRegs s (lossDone s) := by
  unfold lossDone
  extract_lets t
  have ht : SameContents lossRegs s t := removalStep_sameContents s
  exact on_ite (P := SameContents lossRegs s)
    ((ht.trans (.fset _ t (by decide) (by decide))).trans (setHubState_sameContents ..)) ht

/-! ### The end of a clear -/

/-- The state with some ranges zero, no sector of them lost, and a partition's keys gone. -/
def zeroed (rs : List (Nat × Nat)) (p : Nat) (s : State) : State :=
  { s with
    mem := rs.foldl (fun m r => Mem.clear m r.1 (r.2 - r.1)) s.mem
    lost := s.lost.filter fun q => !inRanges rs (q * 512)
    fenKeys := Map.keep s.fenKeys (fun k => k % 256 != p)
    keyMap := List.filter (fun e => e.2.1 != p) s.keyMap }

theorem SameContents.zeroed {w : List RegName} {s t : State} (h : SameContents w s t) (rs : List (Nat × Nat)) (p : Nat) :
    SameContents w (zeroed rs p s) (zeroed rs p t) := by
  refine ⟨?_, h.store, ?_, ?_, ?_, h.clearQ, h.reads⟩
  · exact congrArg (rs.foldl fun m r => Mem.clear m r.1 (r.2 - r.1)) h.mem
  · exact congrArg (List.filter fun q => !inRanges rs (q * 512)) h.lost
  · exact congrArg (Map.keep · fun k => k % 256 != p) h.fenKeys
  · exact congrArg (List.filter fun e => e.2.1 != p) h.keyMap

/-- A partition's ranges are zeroed by their controllers: the bytes are counted, and MEMC_REPAIR.LOST follows. -/
def rangesZeroed (p : Nat) (s : State) : State :=
  (List.range 36).foldl (fun s c => setLost c s) (zeroed (rangesOf s p) p (clearRanges (rangesOf s p) s))

theorem rangesZeroed_sameContents (p : Nat) (s : State) :
    SameContents zeroingRegs (zeroed (rangesOf s p) p s) (rangesZeroed p s) :=
  ((clearRanges_sameContents (rangesOf s p) s).zeroed (rangesOf s p) p).trans (.foldl (fun s c => setLost_sameContents c s) _ _)

/-- The registers say that a partition is clean: no clear runs, MEM_DIRTY is clear, CLEAN is set. -/
def markedClean (p : Nat) (s : State) : State := fset F.partSec_clean p 1 (setDirty p 0 (fset F.memStatus_clearing 0 0 s))

/-- A bit of a register set to 0 reads 0. -/
theorem getLsbD_putBits_zero (n i : Nat) : (BitVec.ofNat 64 (putBits n i 1 0)).getLsbD i = false := by
  have hzero := bitsAt_putBits n i 1 0
  generalize putBits n i 1 0 = m at hzero ⊢
  unfold bitsAt at hzero
  rw [BitVec.getLsbD_ofNat, Nat.testBit_eq_decide_div_mod_eq, show m / 2 ^ i % 2 = 0 from hzero]
  exact Bool.and_false _

section Marked
variable {p : Nat} (hp : p < 256) (s : State)

include hp

theorem markedClean_sameContents : SameContents [.memStatus, .memDirty, .partSec] s (markedClean p s) :=
  ((SameContents.fset _ s (by decide) (by decide)).trans (.of_only (.rset _ _ _ (by decide) (by omega)))).trans
    (.fset _ _ (by decide) (by omega))

theorem markedClean_dirty : (rget (markedClean p s) .memDirty (p / 64)).getLsbD (p % 64) = false := by
  unfold markedClean setDirty
  rw [(OnlyRegs.fset (w := [.partSec]) p 1 _ (by decide) (by omega)).reads _ _ (by decide) (by omega), rget_rset_same]
  exact getLsbD_putBits_zero ..

theorem markedClean_clearing : fon (markedClean p s) F.memStatus_clearing 0 = false := by
  unfold markedClean setDirty
  rw [fon_congr ((OnlyRegs.fset (w := [.partSec]) p 1 _ (by decide) (by omega)).reads _ _ (by decide) (by decide)),
    fon_congr ((OnlyRegs.rset (w := [.memDirty]) _ _ _ (by decide) (by omega)).reads _ _ (by decide) (by decide))]
  unfold fon
  rw [fget_fset_same _ _ _ _ (by decide)]
  rfl

omit hp in
theorem markedClean_clean : fon (markedClean p s) F.partSec_clean p = true := by
  unfold markedClean fon
  rw [fget_fset_same _ _ _ _ (by decide)]
  rfl

end Marked

section Ended
variable {p : Nat} (hp : p < 256) {s : State} (hlast : s.clearQ = [])
include hp hlast

/-- With no other clear asked for, a clear ends with its ranges zeroed and the partition marked clean. -/
theorem clearEnd_last : clearEnd p s = lossDone (markedClean p (rangesZeroed p s)) := by
  have hq : (markedClean p (rangesZeroed p s)).clearQ = [] :=
    (markedClean_sameContents hp _).clearQ.trans ((rangesZeroed_sameContents p s).clearQ.trans hlast)
  unfold clearEnd
  extract_lets rs t inside u v w
  split
  · next q qs hmore => exact absurd (hmore.symm.trans hq) (List.cons_ne_nil q qs)
  · rfl

/-- Of the contents, the end of a clear leaves what `zeroed` says. -/
theorem clearEnd_sameContents :
    SameContents (zeroingRegs ++ [.memStatus, .memDirty, .partSec] ++ lossRegs) (zeroed (rangesOf s p) p s)
      (clearEnd p s) := by
  rw [clearEnd_last hp hlast]
  exact ((rangesZeroed_sameContents p s).mono (by decide)).trans
    (((markedClean_sameContents hp _).mono (by decide)).trans ((lossDone_sameContents _).mono (by decide)))

/-- Nothing that follows changes how the partition is marked. -/
theorem clearEnd_reads {r : RegName} {i : Nat} (hr : r ∉ lossRegs) (hi : i < 65536) :
    rget (clearEnd p s) r i = rget (markedClean p (rangesZeroed p s)) r i := by
  rw [clearEnd_last hp hlast]
  exact (lossDone_sameContents _).reads r i hr hi

end Ended

/-! ### The claim -/

/-- Settles O57: the contents are those of `zeroed`, and the registers those of `markedClean`. -/
theorem aClearZeroesThePartitionsRanges : Obligations.AClearZeroesThePartitionsRanges := by
  unfold Obligations.AClearZeroesThePartitionsRanges
  intro p s hp hw hlast inside t
  have h := clearEnd_sameContents hp hlast
  have hreads {r : RegName} {i : Nat} := clearEnd_reads (r := r) (i := i) hp hlast
  refine ⟨fun a => ?_, h.store, fun q => ?_, fun k hk => ?_, fun e he => ?_, ?_, ?_, ?_⟩
  · exact (congrArg (Mem.read · a) h.mem).trans (Mem.read_clears _ hw a)
  · rw [h.lost, Bool.eq_iff_iff]
    simp [zeroed, inside, inRanges]
  · rw [h.fenKeys]
    exact Map.get?_keep_of_dropped (f := fun k => k % 256 != p) (by simp [hk]) s.fenKeys
  · rw [h.keyMap] at he
    simpa using (List.mem_filter.1 he).2
  · rw [hreads (by decide) (by omega)]
    exact markedClean_dirty hp _
  · exact (fon_congr (hreads (by decide) (by omega))).trans (markedClean_clean _)
  · exact (fon_congr (hreads (by decide) (by decide))).trans (markedClean_clearing hp _)

end Sys2Proof.Machine
end


section
/-! The hub network (R314 to R326, R343, R347 to R349): packets that reach their destination, the timers of a request, credits, bays
that leave reset, scarf crossings, and the writes of the trace and filter registers. -/
namespace Sys2Proof.Machine

/-! ### Packets that reach their destination (R314, R319, R320) -/

section Arrives
variable {a : NetArr} {way : List NetHop} {s : State}

theorem netRequest_reaches {ty : Nat} {write : Bool} (hroom : homesFull s a.pkt.addr (a.pkt.lines * 64) = false)
    (h : Reaches ty (netClassed s a) way (netOpen (netClassed s a).pkt write s)) :
    netRequest ty write a s = .next (netServe write (netClassed s a).pkt
      (journeyed ty (netClassed s a) way (netOpen (netClassed s a).pkt write s))) :=
  congrArg _ ((if_neg (Bool.eq_false_iff.1 hroom)).trans (netArrive_reaches h _))

theorem exec_rdRsp (h : Reaches 0x02 a way s) :
    exec (.rdRsp a) s = .next (netClose a.pkt.dst a.pkt.tag (journeyed 0x02 a way s)) :=
  congrArg _ (netArrive_reaches h _)

theorem exec_wrAck (h : Reaches 0x04 a way s) :
    exec (.wrAck a) s = .next (netDone a.pkt.dst a.pkt.tag (journeyed 0x04 a way s)) :=
  congrArg _ (netArrive_reaches h _)

theorem exec_errRsp {r : NetReq} (h : Reaches 0x07 a way s)
    (hr : netWaits (journeyed 0x07 a way s) a.pkt.dst a.pkt.tag = some r) :
    exec (.errRsp a) s = .next (netFail r a.pkt.status (journeyed 0x07 a way s)) := by
  refine congrArg Host.Outcome.next ((netArrive_reaches h _).trans ?_)
  simp only [hr]

theorem exec_netSig (h : Reaches 0x05 a way s) :
    let t := journeyed 0x05 a way s
    exec (.netSig a) s = .next (sigArrive (nodeGlobal t a.pkt.src) (nodeTile a.pkt.src) a.pkt.data t) :=
  congrArg _ (netArrive_reaches h _)

theorem exec_ctrl (h : Reaches 0x50 a way s) : exec (.ctrl a) s = .next (journeyed 0x50 a way s) :=
  congrArg _ (netArrive_reaches h _)

end Arrives

/-! ### Scarf crossings (R321 to R323) -/

section Crossing
variable {field c : Nat} {s : State} (hf : field < 9) (hc : c < 32)
include hf hc

theorem exec_scarfQuickRetrain {n : Nat} (hup : fget s F.scarfStatus_state (field * 32 + c) = 0) :
    exec (.scarfQuickRetrain field c n) s = .next (fbump F.scarfStatus_retrains (field * 32 + c) 1
      (fset F.scarfStatus_state (field * 32 + c) 1 (fbump F.scarfCeCount_count (field * 32 + c) n s))) := by
  have hstill : fget (fbump F.scarfCeCount_count (field * 32 + c) n s) F.scarfStatus_state (field * 32 + c) = 0 :=
    (fget_fset_reg _ _ _ _ _ (by decide)).trans hup
  exact congrArg _ ((if_neg (by omega)).trans (if_pos hstill))

section Retrained
variable (hdown : fget s F.scarfStatus_state (field * 32 + c) = 1)
include hdown

theorem exec_scarfRetrainDone_spare {back : Bool} (hspare : Map.get s.bridgeSpares 0 ((field * 32 + c) * 2 + bit01 back) < 32) :
    let i := field * 32 + c
    let k := i * 2 + bit01 back
    exec (.scarfRetrainDone field ⟨c, back⟩ true []) s = .next (fset F.scarfStatus_state i 0
      (fbump F.scarfStatus_sparesUsed i 1 { s with bridgeSpares := Map.set s.bridgeSpares k (Map.get s.bridgeSpares 0 k + 1) })) :=
  congrArg _ ((if_neg (by simp only; omega)).trans (if_pos ⟨rfl, hspare⟩))

/-- A retrain that fails, or finds no spare left, disables the crossing (R322). -/
theorem exec_scarfRetrainDone_disables {back ok : Bool}
    (hnone : ¬ (ok = true ∧ Map.get s.bridgeSpares 0 ((field * 32 + c) * 2 + bit01 back) < 32)) :
    exec (.scarfRetrainDone field ⟨c, back⟩ ok []) s = .next (scarfDisable field c s) :=
  congrArg _ ((if_neg (by simp only; omega)).trans (if_neg hnone))

end Retrained

end Crossing

/-! ### Traces and filters (R343, R347, R348) -/

theorem bitOn_zero (n : Nat) : bitOn n 0 = decide (n % 2 = 1) := by
  simp only [bitOn, bitsAt_low, Nat.pow_one, beq_eq_decide]

theorem exec_trcCtrlArm (field : Nat) (v : Word) (s : State) :
    let t := fset F.trcCtrl_wrap field (v.toNat / 2 % 2) (fset F.trcCtrl_arm field (v.toNat % 2) s)
    exec (.trcCtrlArm field v) s
      = .next (if v.toNat % 2 = 1 then fset F.trcCtrl_full field 0 (fset F.trcCtrl_wrptr field 0 t) else t) := by
  change execTrcCtrlArm field v s = _
  simp only [execTrcCtrlArm, writeTrcCtrl, bitOn_zero, bitsAt_low, decide_eq_true_eq]
  rfl

/-- A write of a filter's register with ENABLE set takes ENABLE from 0 to 1. -/
theorem enable_rises {f : Fld} {r : RegName} (hr : f.reg = r) (hlo : f.lo = 0) (hw : f.w = 1) {s : State} {i : Nat} {v : Word}
    (hoff : fon s f i = false) (hv : v.toNat % 2 = 1) : ¬ (!(bitOn v.toNat 0 && !(rget s r i).getLsbD 0)) = true := by
  have hbit : bitOn (rget s r i).toNat 0 = false := by rw [← hoff, fon, fget, hr, hlo, hw, bitOn]
  rw [bitOn_zero, decide_eq_false_iff_not] at hbit
  have hclear : (rget s r i).getLsbD 0 = false := getLsbD_of_toNat_mod (n := 1) (m := 0) (by omega) (by decide)
  rw [bitOn_zero, hv, hclear]
  decide

section Filters
variable {i : Nat} {v : Word} {s : State} (hi : i < 882) (hv : v.toNat % 2 = 1)
include hi hv

theorem exec_prbFilterEnable_A (hoff : fon s F.prbFiltA_enable i = false) :
    exec (.prbFilterEnable false i v) s = .next (fset F.prbFlitsA_count i 0 (fset F.prbPktsA_count i 0
      (rset s .prbFiltA i (BitVec.ofNat 64 (v.toNat % 2 ^ 40))))) := by
  rw [← bitsAt_low]
  exact congrArg _ ((if_pos hi).trans (if_neg (enable_rises (r := .prbFiltA) rfl rfl rfl hoff hv)))

theorem exec_prbFilterEnable_B (hoff : fon s F.prbFiltB_enable i = false) :
    exec (.prbFilterEnable true i v) s = .next (fset F.prbFlitsB_count i 0 (fset F.prbPktsB_count i 0
      (rset s .prbFiltB i (BitVec.ofNat 64 (v.toNat % 2 ^ 40))))) := by
  rw [← bitsAt_low]
  exact congrArg _ ((if_pos hi).trans (if_neg (enable_rises (r := .prbFiltB) rfl rfl rfl hoff hv)))

end Filters

/-! ### The claim -/

/-- Settles O25: a packet that reaches its destination is handed to its meaning (`netArrive_reaches`), and the other commands do what
their rows say. -/
theorem hubNetworkCommandsComplete : Obligations.HubNetworkCommandsComplete := by
  unfold Obligations.HubNetworkCommandsComplete
  refine ⟨fun a way s => ⟨fun hroom => ⟨netRequest_reaches hroom, netRequest_reaches hroom⟩, exec_rdRsp, exec_wrAck,
      fun r => exec_errRsp, exec_netSig, exec_ctrl⟩,
    fun src tag r s hr => ⟨?timeout, ?deadline⟩,
    fun field node port vc flits crossing s hmoves => congrArg _ (if_neg hmoves),
    fun bay s hreset => congrArg _ (if_pos hreset),
    fun field c s hf hc => ⟨fun n => exec_scarfQuickRetrain hf hc, fun back hdown => ⟨exec_scarfRetrainDone_spare hf hc hdown,
      fun hnone => exec_scarfRetrainDone_disables hf hc hdown (by simp only [true_and]; omega),
      exec_scarfRetrainDone_disables hf hc hdown (by simp)⟩⟩,
    exec_trcCtrlArm,
    fun i v s hi => ⟨exec_prbFilterEnable_A hi, exec_prbFilterEnable_B hi⟩⟩
  case timeout =>
    change execRequestTimeout src tag s = _
    unfold execRequestTimeout
    generalize netWaits s src tag = w at hr
    subst hr
    rfl
  case deadline =>
    intro hwaits hkept
    change execTargetDeadline src tag s = _
    unfold execTargetDeadline
    generalize netWaits s src tag = w at hr
    subst hr
    exact congrArg _ (if_neg (by simp [hwaits, hkept]))

end Sys2Proof.Machine
end

section
/-! The directory protocol (R333 to R342, R353, R386 to R388, R421): requests, answers and acknowledgements at their home, the flush of
a range, and the messages that reach an agent. -/
namespace Sys2Proof.Machine

/-! ### At the home (R337 to R341) -/

section Home
variable {a : NetArr} {way : List NetHop} {s : State}

/-- A request packet that reaches a home which can take it, or has to refuse it, is handed to the home. -/
theorem cohArrive_reaches {ty upset : Nat}
    (hroom : (sliceGet s (homeOf ((netClassed s a).pkt.addr / 64))).queue.length < 64
      ∨ sliceStopped s (homeOf ((netClassed s a).pkt.addr / 64)) = true)
    (h : Reaches ty (netClassed s a) way (netOpen (netClassed s a).pkt (decide (ty = 0x33 ∨ ty = 0x34)) s)) :
    cohArrive ty a upset s = .next (cohRequest (cohReqOf ty (netClassed s a).pkt upset)
      (journeyed ty (netClassed s a) way (netOpen (netClassed s a).pkt (decide (ty = 0x33 ∨ ty = 0x34)) s))) := by
  have hopen : ¬ ((sliceGet s (homeOf ((netClassed s a).pkt.addr / 64))).queue.length ≥ 64
      ∧ (!sliceStopped s (homeOf ((netClassed s a).pkt.addr / 64))) = true) := by
    rintro ⟨hfull, hruns⟩
    rcases hroom with h | h
    · omega
    · simp [h] at hruns
  exact congrArg _ ((if_neg hopen).trans (netArrive_reaches h _))

theorem exec_snprsp (h : Reaches 0x3F a way s) : exec (.snprsp a) s
    = .next (snoopAnswered (homeOf (a.pkt.addr / 64)) (a.pkt.addr / 64) a.pkt.agent a.pkt.data (journeyed 0x3F a way s)) :=
  congrArg _ (netArrive_reaches h _)

theorem exec_cmpack (h : Reaches 0x40 a way s) :
    exec (.cmpack a) s = .next (cmpAck (a.pkt.addr / 64) a.pkt.agent (journeyed 0x40 a way s)) :=
  congrArg _ (netArrive_reaches h _)

theorem exec_pushrsp {ok : Bool} (h : Reaches 0x42 a way s) :
    exec (.pushrsp a ok) s = .next (pushAnswered (a.pkt.addr / 64) a.pkt.agent ok (journeyed 0x42 a way s)) :=
  congrArg _ (netArrive_reaches h _)

end Home

/-! ### The flush of a range (R353) -/

/-- The word that COH_RANGE_DISABLE writes has ENABLE clear. -/
theorem bitOn_zero_of_disable (v : Word) : bitOn (v &&& 0xFFFFFFFFFFFFFFFE).toNat 0 = false := by
  have hbit : (v &&& 0xFFFFFFFFFFFFFFFE).getLsbD 0 = false := by
    rw [BitVec.getLsbD_and, show (0xFFFFFFFFFFFFFFFE : Word).getLsbD 0 = false from rfl, Bool.and_false]
  rw [bitOn_zero, ← Nat.testBit_zero, BitVec.testBit_toNat, hbit]

theorem exec_cohRangeDisable {i : Nat} {v : Word} {s : State} (hi : i < 16) (hon : fon s F.cohRange_enable i = true)
    (hfree : rangeFrozen s i (v &&& 0xFFFFFFFFFFFFFFFE) = false) :
    let t := fset F.cohRange_flushing i 1 (fset F.cohRange_enable i 0 s)
    exec (.cohRangeDisable i v) s = .next ((usedSlices t).foldl (fun s j => cohRun j s) t) := by
  intro t
  refine congrArg Host.Outcome.next ((if_pos hi).trans ?_)
  unfold writeCohRange
  simp only [hfree, hon, bitOn_zero_of_disable, Bool.not_true, Bool.false_and, Bool.false_eq_true, if_false, if_true]
  rfl

/-- A flush ends where no agent holds a line of the range and none is busy. -/
theorem exec_cohRangeFlushDone {i : Nat} {s : State} (hi : i < 16) (hflush : fon s F.cohRange_flushing i = true)
    (htaken : (usedSlices s).all (fun j => (sliceGet s j).dir.all (fun e => !rangeHolds s i e.line)
      && (sliceGet s j).txns.all (fun t => !rangeHolds s i t.line)) = true) :
    exec (.cohRangeFlushDone i) s = .next (fset F.cohRange_flushing i 0 ((usedSlices s).foldl (fun t j =>
      sliceMod j (fun v => { v with lines := v.lines.filter fun l => !rangeHolds s i l.line })
        (((sliceGet t j).lines.filter fun l => rangeHolds s i l.line && l.dirty).foldl
          (fun t l => devStore (l.line * 64) l.data t) t)) s)) := by
  have hnone : ¬ ((usedSlices s).any (fun j => (sliceGet s j).dir.any (fun e => rangeHolds s i e.line)
      || (sliceGet s j).txns.any (fun t => rangeHolds s i t.line)) = true) := by
    rw [Bool.not_eq_true, ← Bool.not_eq_true', List.not_any_eq_all_not, ← htaken]
    simp only [Bool.not_or, List.not_any_eq_all_not]
  have hgoes : ¬ (i ≥ 16 ∨ (!fon s F.cohRange_flushing i) = true) := by
    simp [hflush, hi]
  exact congrArg _ ((if_neg hgoes).trans (if_neg hnone))

/-! ### Messages that reach an agent (R337 to R341) -/

section Agent
variable {a : NetArr} {way : List NetHop} {s : State}

theorem exec_snpinv (h : Reaches 0x38 a way s) :
    exec (.snpinv a) s = .next (snoopReach true a.pkt.agent (a.pkt.addr / 64) (journeyed 0x38 a way s)) :=
  congrArg _ (netArrive_reaches h _)

theorem exec_snpshr (h : Reaches 0x39 a way s) :
    exec (.snpshr a) s = .next (snoopReach false a.pkt.agent (a.pkt.addr / 64) (journeyed 0x39 a way s)) :=
  congrArg _ (netArrive_reaches h _)

theorem exec_dataS (h : Reaches 0x3C a way s) : exec (.dataS a) s = .next (grantReach 0x3C a.pkt (journeyed 0x3C a way s)) :=
  congrArg _ (netArrive_reaches h _)

theorem exec_dataE (h : Reaches 0x3D a way s) : exec (.dataE a) s = .next (grantReach 0x3D a.pkt (journeyed 0x3D a way s)) :=
  congrArg _ (netArrive_reaches h _)

theorem exec_gntE (h : Reaches 0x3E a way s) : exec (.gntE a) s = .next (grantReach 0x3E a.pkt (journeyed 0x3E a way s)) :=
  congrArg _ (netArrive_reaches h _)

section Push
variable (h : Reaches 0x3A a way s)
include h

theorem exec_push_accepted (hcc : a.pkt.agent = 0) :
    exec (.push a true) s = .next (ccSend 0x42 (a.pkt.addr / 64) [1] [] { journeyed 0x3A a way s with
      ccLines := Map.set (journeyed 0x3A a way s).ccLines (a.pkt.addr / 64) (false, a.pkt.data) }) :=
  congrArg _ ((netArrive_reaches h _).trans (if_pos hcc))

theorem exec_push_declined (hcc : a.pkt.agent = 0) :
    exec (.push a false) s = .next (ccSend 0x42 (a.pkt.addr / 64) [0] [] (journeyed 0x3A a way s)) :=
  congrArg _ ((netArrive_reaches h _).trans (if_pos hcc))

/-- A tenon and a host decline every offered line (R387; log entry 59). -/
theorem exec_push_other {ok : Bool} (hother : a.pkt.agent ≠ 0) :
    exec (.push a ok) s = .next (pushAnswered (a.pkt.addr / 64) a.pkt.agent false (journeyed 0x3A a way s)) :=
  congrArg _ ((netArrive_reaches h _).trans (if_neg hother))

end Push

section Receipt
variable (h : Reaches 0x41 a way s)
include h

theorem exec_wback_cc (hcc : a.pkt.agent = 0) :
    exec (.wback a) s = .next { netClose a.pkt.dst a.pkt.tag (journeyed 0x41 a way s) with
      ccLines := Map.erase (journeyed 0x41 a way s).ccLines (a.pkt.addr / 64) } :=
  congrArg _ ((netArrive_reaches h _).trans (if_pos hcc))

theorem exec_wback_tenon (hlo : 1 ≤ a.pkt.agent) (hhi : a.pkt.agent ≤ 12) :
    exec (.wback a) s = .next (emit .cxl 0x41 [a.pkt.agent - 1, a.pkt.tag, a.pkt.addr / 64 * 64] []
      (netClose (siteSrc (a.pkt.agent - 1)) a.pkt.tag (journeyed 0x41 a way s))) :=
  congrArg _ ((netArrive_reaches h _).trans ((if_neg (by omega)).trans (if_pos hhi)))

end Receipt

end Agent

/-! ### Holds, acknowledgements and timeouts (R339, R387, R388) -/

section Waits
variable {agent line : Nat} {s : State}

theorem exec_snoopHoldEnd (hheld : s.cohHold.contains (agent, line) = true) :
    exec (.snoopHoldEnd agent line) s = .next ((s.cohWait.filter fun h => h.agent == agent && h.line == line).foldl
      (fun s h => ccSnoop h.inval line s) { s with
        cohHold := s.cohHold.filter (· != (agent, line))
        cohWait := s.cohWait.filter fun h => !(h.agent == agent && h.line == line) }) :=
  congrArg _ (if_neg (by simpa using hheld))

theorem exec_goFlitAck (howed : s.ackOwed.contains (agent, line) = true) :
    exec (.goFlitAck agent line) s
      = .next (cmpAck line agent { s with ackOwed := s.ackOwed.filter (· != (agent, line)) }) :=
  congrArg _ (if_pos howed)

/-- A tenon that never answers leaves the entry of the line, which loses what the tenon could have modified, and has failed. -/
theorem exec_snoopTimeout_tenon
    (hwaits : (sliceGet s (homeOf line)).txns.any (fun t => t.line == line && t.waiting.contains agent) = true)
    (hlo : 1 ≤ agent) (hhi : agent ≤ 12) :
    let i := homeOf line
    let t := sliceErr i 5 clsDegraded line none false s
    let t' := if ((sliceGet s i).entry line).owner = some agent then
      loseSector (line / 8) (sliceMod i (fun w => { w with lines := w.lines.filter (·.line != line) }) t) else t
    exec (.snoopTimeout line agent) s = .next (siteAgentFailed (agent - 1) (sliceMod i (fun w => w.forget line agent)
      (snoopAnswered i line agent [] (sliceMod i (fun w => { w with
        txns := w.txns.map fun x => if x.line == line then { x with inval := true } else x }) t')))) := by
  intro i t t'
  have hlost : (if (((sliceGet s i).entry line).owner == some agent) = true then
      loseSector (line / 8) (sliceMod i (fun w => { w with lines := w.lines.filter (·.line != line) }) t) else t) = t' :=
    if_congr beq_iff_eq rfl rfl
  rw [← hlost]
  exact congrArg _ ((if_neg (by rw [hwaits]; decide)).trans ((if_neg (by omega)).trans (if_pos hhi)))

end Waits

/-! ### The claims -/

/-- Settles O27: a packet that reaches the home is handed to it, and a range's flush begins and ends as R353 says. -/
theorem homeCommandsComplete : Obligations.HomeCommandsComplete := by
  unfold Obligations.HomeCommandsComplete
  refine ⟨fun a way upset s hroom => ?_, fun a way ok s => ⟨exec_snprsp, exec_cmpack, exec_pushrsp⟩,
    fun i v s => exec_cohRangeDisable, fun i s => exec_cohRangeFlushDone⟩
  exact ⟨cohArrive_reaches hroom, cohArrive_reaches hroom, cohArrive_reaches hroom, cohArrive_reaches hroom,
    cohArrive_reaches hroom, cohArrive_reaches hroom, cohArrive_reaches hroom⟩

/-- Settles O28, by the rule of each message and event. That every push to an agent other than the control complex is declined is the
model's choice (log entry 59). -/
theorem agentSideCommandsComplete : Obligations.AgentSideCommandsComplete := by
  unfold Obligations.AgentSideCommandsComplete
  exact ⟨fun a way s => ⟨exec_snpinv, exec_snpshr, exec_push_accepted, exec_push_declined, fun ok h => exec_push_other h, exec_dataS,
      exec_dataE, exec_gntE, exec_wback_cc, exec_wback_tenon⟩,
    fun agent line s => ⟨exec_snoopHoldEnd, exec_goFlitAck, exec_snoopTimeout_tenon⟩⟩

end Sys2Proof.Machine
end

section
/-! Probes and traces (R343 to R345, R587): what a router's filters count of a packet, which packets a trace buffer takes, and that
the packets of a confidential partition leave neither. -/
namespace Sys2Proof.Machine

/-! ### Counters that wrap (R587) -/

/-- A counter and its sticky flag lie in one register, the flag above the counter. -/
structure Fld.FlaggedBy (f o : Fld) : Prop where
  within : o.lo ≤ 63
  sameReg : f.reg = o.reg
  below : f.lo + f.w ≤ o.lo

/-- A counter that wraps counts modulo its range. -/
theorem fget_fwrap {f o : Fld} (h : f.FlaggedBy o) (i k : Nat) (s : State) :
    fget (fwrap f o i k s) f i = (fget s f i + k) % 2 ^ f.w := by
  have hplaced : f.lo + f.w ≤ 64 := by have := h.within; have := h.below; omega
  have hcount : fget (fset f i ((fget s f i + k) % 2 ^ f.w) s) f i = (fget s f i + k) % 2 ^ f.w := by
    rw [fget_fset_same _ _ _ _ hplaced, Nat.mod_mod]
  unfold fwrap
  extract_lets n t
  split
  · exact (fget_fset_field _ _ _ _ _ h.sameReg (.inl h.below) hplaced).trans hcount
  · exact hcount

theorem perfCountHub_only (ev field n : Nat) (s : State) : OnlyRegs [.perfCnt] s (perfCountHub ev field n s) := by
  unfold perfCountHub
  split
  · exact OnlyRegs.refl _ s
  · refine OnlyRegs.foldl (fun s i hi => ?_) s
    split
    · exact fwrap_only _ _ _ (by decide) (by decide) (by have := List.mem_range.1 hi; omega)
    · exact OnlyRegs.refl _ s

/-! ### Confidential packets (R345) -/

/-- No filter matches a packet of a confidential partition. -/
theorem prbMatches_confidential {s : State} {p : NetPkt} (hown : p.hubu = false) (hc : confidential s p.part = true)
    (ty inPort filt addr : Nat) : prbMatches s ty inPort p filt addr = false := by
  simp [prbMatches, hown, hc]

theorem confidential_congr {s t : State} {q : Nat} (h : rget t .partSec q = rget s .partSec q) :
    confidential t q = confidential s q := fon_congr h

theorem OnlyRegs.traces {w : List RegName} {s t : State} (h : OnlyRegs w s t) : t.traces = s.traces := by
  obtain ⟨⟨_, _, _, _, _, _, _, _, _, _, rfl⟩, _⟩ := h
  rfl

/-- A router that a confidential partition's packet leaves counts it among its performance events and nowhere else. -/
theorem leaveRouter_confidential {ty : Nat} {s : State} {p : NetPkt} (hown : p.hubu = false) (hpart : p.part < 256)
    (hc : confidential s p.part = true) (crowded : Bool) (h : NetHop) : OnlyRegs [.perfCnt] s (leaveRouter ty p crowded s h) := by
  have hcount : leaveRouter.perfCountNet h.field p s = perfCount 0x0B h.field p.part (netFlits p) s := if_neg (by simp [hown])
  have honly : OnlyRegs [.perfCnt] s (perfCount 0x0B h.field p.part (netFlits p) s) := perfCount_only ..
  have hsecret := (confidential_congr (honly.reads .partSec p.part (by decide) (by omega))).trans hc
  unfold leaveRouter
  simp only [hcount, prbMatches_confidential hown hsecret, Bool.false_and, Bool.false_eq_true, if_false]
  exact honly

theorem leaveRouters_confidential {ty : Nat} {a : NetArr} {s : State} (hown : a.pkt.hubu = false) (hpart : a.pkt.part < 256)
    (hc : confidential s a.pkt.part = true) (way : List NetHop) : OnlyRegs [.perfCnt] s (leaveRouters ty a way s) :=
  on_foldl (P := OnlyRegs [.perfCnt] s) (OnlyRegs.refl _ s) fun _ e h => h.trans
    (leaveRouter_confidential hown hpart ((confidential_congr (h.reads .partSec _ (by decide) (by omega))).trans hc) _ e.1)

/-- Spending credits changes no register and no trace (R325). -/
theorem spendCredits_views (vc : Nat) (p : NetPkt) (way : List NetHop) (s : State) :
    (spendCredits vc p way s).regs = s.regs ∧ (spendCredits vc p way s).traces = s.traces := by
  unfold spendCredits
  exact on_foldl (P := fun t : State => t.regs = s.regs ∧ t.traces = s.traces) ⟨rfl, rfl⟩ fun _ _ h => h

theorem journeyed_confidential {ty : Nat} {a : NetArr} {s : State} (hown : a.pkt.hubu = false) (hpart : a.pkt.part < 256)
    (hc : confidential s a.pkt.part = true) (way : List NetHop) :
    (journeyed ty a way s).traces = s.traces
      ∧ ∀ (r : RegName) (i : Nat), i < 65536 → r ≠ .perfCnt → rget (journeyed ty a way s) r i = rget s r i := by
  have honly := leaveRouters_confidential (ty := ty) hown hpart hc way
  obtain ⟨hregs, htraces⟩ := spendCredits_views ((netVc ty).getD 0) a.pkt way (leaveRouters ty a way s)
  exact ⟨htraces.trans honly.traces,
    fun r i hi hr => (rget_congr hregs r i).trans (honly.reads r i (by simpa using hr) hi)⟩

/-! ### Filters and their counters (R343) -/

/-- The counters of one of a router's two filters: packets and flits, each with its flag. -/
structure ProbeCounters where
  pkts : Fld
  pktsOvf : Fld
  flits : Fld
  flitsOvf : Fld

namespace ProbeCounters

/-- The counters stand in two registers, each with its own flag. -/
structure WellPlaced (c : ProbeCounters) : Prop where
  pkts : c.pkts.FlaggedBy c.pktsOvf
  flits : c.flits.FlaggedBy c.flitsOvf
  apart : c.pkts.reg ≠ c.flits.reg

/-- A packet counted at router `i`, where the filter takes it. -/
def count (c : ProbeCounters) (hit : Bool) (i : Nat) (p : NetPkt) (s : State) : State :=
  if hit then fwrap c.flits c.flitsOvf i (netFlits p) (fwrap c.pkts c.pktsOvf i 1 s) else s

variable {c : ProbeCounters} (hc : c.WellPlaced) {i : Nat} (hi : i < 65536)
include hc hi

theorem WellPlaced.count_only (hit : Bool) (p : NetPkt) (s : State) : OnlyRegs [c.pkts.reg, c.flits.reg] s (c.count hit i p s) := by
  refine on_ite (P := OnlyRegs _ s) ?_ (OnlyRegs.refl _ s)
  exact (fwrap_only i 1 s (by simp) (by simp [hc.pkts.sameReg]) hi).trans
    (fwrap_only i _ _ (by simp) (by simp [hc.flits.sameReg]) hi)

/-- A packet's counts add to what the counters held before other registers changed, and stand while others change. -/
theorem WellPlaced.count_hit {p : NetPkt} {w w' : List RegName} {s u t : State} (hbefore : OnlyRegs w s u)
    (hafter : OnlyRegs w' (c.count true i p u) t) (hw : c.pkts.reg ∉ w ++ w' ∧ c.flits.reg ∉ w ++ w') :
    fget t c.pkts i = (fget s c.pkts i + 1) % 2 ^ c.pkts.w
      ∧ fget t c.flits i = (fget s c.flits i + netFlits p) % 2 ^ c.flits.w := by
  simp only [List.mem_append, not_or] at hw
  obtain ⟨⟨hpktsBefore, hpktsAfter⟩, hflitsBefore, hflitsAfter⟩ := hw
  have hfirst : OnlyRegs [c.pkts.reg] u (fwrap c.pkts c.pktsOvf i 1 u) :=
    fwrap_only i 1 u (by simp) (by simp [hc.pkts.sameReg]) hi
  have hsecond (v : State) : OnlyRegs [c.flits.reg] v (fwrap c.flits c.flitsOvf i (netFlits p) v) :=
    fwrap_only i _ v (by simp) (by simp [hc.flits.sameReg]) hi
  constructor
  · calc fget t c.pkts i
      _ = fget (fwrap c.pkts c.pktsOvf i 1 u) c.pkts i :=
        (fget_congr (hafter.reads _ i hpktsAfter hi)).trans (fget_congr ((hsecond _).reads _ i (by simpa using hc.apart) hi))
      _ = (fget u c.pkts i + 1) % 2 ^ c.pkts.w := fget_fwrap hc.pkts i 1 u
      _ = _ := by rw [fget_congr (hbefore.reads _ i hpktsBefore hi)]
  · calc fget t c.flits i
      _ = (fget (fwrap c.pkts c.pktsOvf i 1 u) c.flits i + netFlits p) % 2 ^ c.flits.w :=
        (fget_congr (hafter.reads _ i hflitsAfter hi)).trans (fget_fwrap hc.flits i _ _)
      _ = _ := by rw [fget_congr (hfirst.reads _ i (by simpa using hc.apart.symm) hi),
          fget_congr (hbefore.reads _ i hflitsBefore hi)]

end ProbeCounters

/-- The counters of filter A. -/
def probeA : ProbeCounters := ⟨F.prbPktsA_count, F.prbPktsA_ovf, F.prbFlitsA_count, F.prbFlitsA_ovf⟩
/-- Those of filter B. -/
def probeB : ProbeCounters := ⟨F.prbPktsB_count, F.prbPktsB_ovf, F.prbFlitsB_count, F.prbFlitsB_ovf⟩

theorem probeA_wellPlaced : probeA.WellPlaced := ⟨⟨by decide, rfl, by decide⟩, ⟨by decide, rfl, by decide⟩, by decide⟩
theorem probeB_wellPlaced : probeB.WellPlaced := ⟨⟨by decide, rfl, by decide⟩, ⟨by decide, rfl, by decide⟩, by decide⟩

/-- A router's number among the hub's routers, by which its registers are found. -/
def NetHop.router (h : NetHop) : Nat := h.field * 98 + h.node

/-- Does filter A of the router take a packet that leaves it. -/
def takenByA (s : State) (ty : Nat) (h : NetHop) (p : NetPkt) : Bool :=
  prbMatches s ty h.inPort p (rget s .prbFiltA h.router).toNat (rget s .prbAddrA h.router).toNat
/-- Does filter B. -/
def takenByB (s : State) (ty : Nat) (h : NetHop) (p : NetPkt) : Bool :=
  prbMatches s ty h.inPort p (rget s .prbFiltB h.router).toNat (rget s .prbAddrB h.router).toNat

/-- A hub-level packet counted as it leaves a router: as a performance event, then by both filters. -/
def hubCounted (ty : Nat) (p : NetPkt) (h : NetHop) (s : State) : State :=
  probeB.count (takenByB s ty h p) h.router p (probeA.count (takenByA s ty h p) h.router p
    (perfCountHub 0x0B h.field (netFlits p) s))

/-- Whether a filter takes a hub-level packet depends on the packet and the filter alone, not on any partition's mode. -/
theorem prbMatches_hub {p : NetPkt} (hhub : p.hubu = true) (s t : State) (ty inPort filt addr : Nat) :
    prbMatches t ty inPort p filt addr = prbMatches s ty inPort p filt addr := by
  simp [prbMatches, hhub]

/-! ### The trace buffer (R344) -/

theorem traceRecord_reads {ty : Nat} {crowded : Bool} {h : NetHop} (hf : h.field < 9) (p : NetPkt) (s : State) {r : RegName} {j : Nat}
    (hr : r ≠ .trcCtrl) (hj : j < 65536) : rget (traceRecord ty crowded h p s) r j = rget s r j := by
  have hfset (g : Fld) (v : Nat) (u : State) (hg : g.reg = .trcCtrl) : rget (fset g h.field v u) r j = rget u r j :=
    rget_rset_other _ _ _ _ _ _ (fun e => hr (e.1.trans hg)) (by omega) hj
  unfold traceRecord
  extract_lets f w cycles record u v
  have hu : rget u r j = rget s r j := rfl
  have hv : rget v r j = rget s r j := (hfset _ _ _ rfl).trans hu
  have hkept {c : Prop} [Decidable c] {x y : State} (hx : rget x r j = rget s r j) (hy : rget y r j = rget s r j) :
      rget (if c then x else y) r j = rget s r j := on_ite (P := fun t => rget t r j = rget s r j) hx hy
  exact hkept rfl (hkept (hfset _ _ _ rfl) (hkept ((hfset _ _ _ rfl).trans hv) hv))

/-- The record of a packet stands at the write pointer, which moves on. -/
def recorded (ty : Nat) (h : NetHop) (p : NetPkt) (s : State) : State :=
  let w := fget s F.trcCtrl_wrptr h.field
  let cycles := leBytes 8 (Config.freeWord s.fresh).toNat
  let record := netHeader p ty ++ leBytes 2 (h.field + h.node * 16) ++ leBytes 1 h.inPort ++ leBytes 1 0 ++ cycles
  fset F.trcCtrl_wrptr h.field ((w + 1) % 2048) (tickFresh { s with traces := Map.set s.traces (h.field * 2048 + w) record })

theorem recorded_traces (ty : Nat) (h : NetHop) (p : NetPkt) (s : State) :
    (Map.get? (recorded ty h p s).traces (h.field * 2048 + fget s F.trcCtrl_wrptr h.field)).isSome = true := by
  unfold recorded
  rw [fset_traces, tickFresh_traces, Map.get?_set_same]
  rfl

theorem recorded_wrptr (ty : Nat) (h : NetHop) (p : NetPkt) (s : State) :
    fget (recorded ty h p s) F.trcCtrl_wrptr h.field = (fget s F.trcCtrl_wrptr h.field + 1) % 2048 :=
  (fget_fset_same _ _ _ _ (by decide)).trans (Nat.mod_mod ..)

/-- An armed buffer that is not full takes a packet that is not the fifth of its cycle; the last place makes it full. -/
theorem traceRecord_of_room {ty : Nat} {h : NetHop} {p : NetPkt} {s : State} (harm : fon s F.trcCtrl_arm h.field = true)
    (hroom : fon s F.trcCtrl_full h.field = false) :
    traceRecord ty false h p s = if fget s F.trcCtrl_wrptr h.field = 2047
      then fset F.trcCtrl_full h.field 1 (recorded ty h p s) else recorded ty h p s :=
  (if_neg (by simp [harm, hroom])).trans (if_neg Bool.false_ne_true)

theorem traceRecord_recorded {ty : Nat} {h : NetHop} {p : NetPkt} {s : State} (harm : fon s F.trcCtrl_arm h.field = true)
    (hroom : fon s F.trcCtrl_full h.field = false) :
    (Map.get? (traceRecord ty false h p s).traces (h.field * 2048 + fget s F.trcCtrl_wrptr h.field)).isSome = true
      ∧ fget (traceRecord ty false h p s) F.trcCtrl_wrptr h.field = (fget s F.trcCtrl_wrptr h.field + 1) % 2048 := by
  have hstands := recorded_traces ty h p s
  have hnext := recorded_wrptr ty h p s
  rw [traceRecord_of_room harm hroom]
  split
  · rw [fset_traces, fget_fset_field _ F.trcCtrl_full F.trcCtrl_wrptr _ _ rfl (.inr (by decide)) (by decide)]
    exact ⟨hstands, hnext⟩
  · exact ⟨hstands, hnext⟩

/-! ### Hub-level packets (R345) -/

theorem NetHop.router_lt {h : NetHop} (hfield : h.field < 9) (hnode : h.node < 98) : h.router < 65536 := by
  unfold NetHop.router
  omega

/-- The registers in which a router counts a packet. -/
def countRegs : List RegName := [.perfCnt, .prbPktsA, .prbFlitsA, .prbPktsB, .prbFlitsB]

theorem OnlyRegs.mono {w w' : List RegName} {s t : State} (h : OnlyRegs w s t) (hw : w ⊆ w') : OnlyRegs w' s t :=
  ⟨h.rest, fun r i hr => h.reads r i fun hrw => hr (hw hrw)⟩

section Hub
variable {ty : Nat} {p : NetPkt} {h : NetHop} (s : State) (hi : h.router < 65536)
include hi

theorem hubCounted_only : OnlyRegs countRegs s (hubCounted ty p h s) :=
  (((perfCountHub_only ..).mono (by decide)).trans ((probeA_wellPlaced.count_only hi ..).mono (by decide))).trans
    ((probeB_wellPlaced.count_only hi ..).mono (by decide))

theorem hubCounted_countsA (hhit : takenByA s ty h p = true) :
    fget (hubCounted ty p h s) F.prbPktsA_count h.router = (fget s F.prbPktsA_count h.router + 1) % 2 ^ F.prbPktsA_count.w
      ∧ fget (hubCounted ty p h s) F.prbFlitsA_count h.router
        = (fget s F.prbFlitsA_count h.router + netFlits p) % 2 ^ F.prbFlitsA_count.w := by
  unfold hubCounted
  rw [hhit]
  exact probeA_wellPlaced.count_hit hi (perfCountHub_only ..) (probeB_wellPlaced.count_only hi ..) (by decide)

theorem hubCounted_countsB (hhit : takenByB s ty h p = true) :
    fget (hubCounted ty p h s) F.prbPktsB_count h.router = (fget s F.prbPktsB_count h.router + 1) % 2 ^ F.prbPktsB_count.w
      ∧ fget (hubCounted ty p h s) F.prbFlitsB_count h.router
        = (fget s F.prbFlitsB_count h.router + netFlits p) % 2 ^ F.prbFlitsB_count.w := by
  have hbefore : OnlyRegs [.perfCnt, .prbPktsA, .prbFlitsA] s
      (probeA.count (takenByA s ty h p) h.router p (perfCountHub 0x0B h.field (netFlits p) s)) :=
    ((perfCountHub_only ..).mono (by decide)).trans ((probeA_wellPlaced.count_only hi ..).mono (by decide))
  unfold hubCounted
  rw [hhit]
  exact probeB_wellPlaced.count_hit hi hbefore (OnlyRegs.refl [] _) (by decide)

section Leaves
variable (hhub : p.hubu = true)
include hhub

/-- A hub-level packet is counted, and goes to the trace buffer where filter A takes it and asks for that. -/
theorem leaveRouter_hub (crowded : Bool) :
    leaveRouter ty p crowded s h = if takenByA s ty h p && fon s F.prbFiltA_trace h.router
      then traceRecord ty crowded h p (hubCounted ty p h s) else hubCounted ty p h s := by
  have hreads := (perfCountHub_only 0x0B h.field (netFlits p) s).reads
  unfold leaveRouter
  extract_lets i u a b v w
  have hu : u = perfCountHub 0x0B h.field (netFlits p) s := if_pos hhub
  have ha : a = takenByA s ty h p := (prbMatches_hub hhub s ..).trans (by
    rw [hu, hreads .prbFiltA i (by decide) hi, hreads .prbAddrA i (by decide) hi]; rfl)
  have hb : b = takenByB s ty h p := (prbMatches_hub hhub s ..).trans (by
    rw [hu, hreads .prbFiltB i (by decide) hi, hreads .prbAddrB i (by decide) hi]; rfl)
  have hw : w = hubCounted ty p h s := by
    unfold hubCounted
    rw [← hu, ← ha, ← hb]
    rfl
  rw [hw, ha, fon_congr ((hubCounted_only s hi).reads F.prbFiltA_trace.reg i (by decide) hi)]
  rfl

theorem leaveRouter_hub_fields (hfield : h.field < 9) (crowded : Bool) {f : Fld} (hf : f.reg ≠ .trcCtrl) :
    fget (leaveRouter ty p crowded s h) f h.router = fget (hubCounted ty p h s) f h.router := by
  rw [leaveRouter_hub s hi hhub]
  exact on_ite (P := fun t => fget t f h.router = fget (hubCounted ty p h s) f h.router)
    (fget_congr (traceRecord_reads hfield p _ hf hi)) rfl

/-- A hub-level packet that filter A takes and would trace is recorded, where the buffer is armed and has room. -/
theorem leaveRouter_hub_traced (hfield : h.field < 9) (hhit : takenByA s ty h p = true) (htrace : fon s F.prbFiltA_trace h.router = true)
    (harm : fon s F.trcCtrl_arm h.field = true) (hroom : fon s F.trcCtrl_full h.field = false) :
    let t := leaveRouter ty p false s h
    (Map.get? t.traces (h.field * 2048 + fget s F.trcCtrl_wrptr h.field)).isSome = true
      ∧ fget t F.trcCtrl_wrptr h.field = (fget s F.trcCtrl_wrptr h.field + 1) % 2048 := by
  have hsame : rget (hubCounted ty p h s) .trcCtrl h.field = rget s .trcCtrl h.field :=
    (hubCounted_only s hi).reads _ _ (by decide) (by omega)
  have hptr : fget (hubCounted ty p h s) F.trcCtrl_wrptr h.field = fget s F.trcCtrl_wrptr h.field := fget_congr hsame
  rw [leaveRouter_hub s hi hhub, hhit, htrace, ← hptr]
  exact traceRecord_recorded ((fon_congr (f := F.trcCtrl_arm) hsame).trans harm)
    ((fon_congr (f := F.trcCtrl_full) hsame).trans hroom)

end Leaves

end Hub

/-! ### The claim -/

/-- Settles O60: no filter matches a confidential packet (`prbMatches_confidential`), so its journey writes performance counters alone;
whether one matches a hub-level packet does not look at any partition. -/
theorem confidentialPacketsAreNotTraced : Obligations.ConfidentialPacketsAreNotTraced := by
  unfold Obligations.ConfidentialPacketsAreNotTraced
  refine ⟨fun ty inPort filt addr p s hown hc => prbMatches_confidential hown hc ty inPort filt addr,
    fun ty a s hown hpart hc way => journeyed_confidential hown hpart hc way, fun ty p crowded h s hhub hfield hnode => ?_⟩
  have hi : h.router < 65536 := NetHop.router_lt hfield hnode
  have hfields {f : Fld} (hf : f.reg ≠ .trcCtrl) := leaveRouter_hub_fields (ty := ty) s hi hhub hfield crowded hf
  refine ⟨fun hhit => ?_, fun hhit => ?_⟩
  · obtain ⟨hpkts, hflits⟩ := hubCounted_countsB s hi hhit
    exact ⟨(hfields (by decide)).trans hpkts, (hfields (by decide)).trans hflits⟩
  · obtain ⟨hpkts, hflits⟩ := hubCounted_countsA s hi hhit
    refine ⟨(hfields (by decide)).trans hpkts, (hfields (by decide)).trans hflits, fun htrace harm hroom hfew => ?_⟩
    subst hfew
    exact leaveRouter_hub_traced s hi hhub hfield hhit htrace harm hroom

end Sys2Proof.Machine
end

section
/-! The mortise sites: power, reset, the sideband, training and a tenon's own reports (R359 to R361, R363, R367, R377 to R380, R391). What
each event does in the state that R377 and R378 give it. -/
namespace Sys2Proof.Machine

/-- READY is STATE 9 of a site that exists (R391). -/
theorem siteReady_of_state {site : Nat} {s : State} (hsite : site < 12) (hst : siteState s site = 9) : siteReady s site = true := by
  simp [siteReady, hsite, hst]

theorem siteReady_of_state_ne {site : Nat} {s : State} (hst : siteState s site ≠ 9) : siteReady s site = false := by
  simp [siteReady, hst]

/-- Only MT_STATUS tells the state of a site. -/
theorem siteState_rset {r : RegName} (s : State) (hr : .mtStatus ≠ r) (site : Nat) (v : Word) :
    siteState (rset s r site v) site = siteState s site :=
  fget_congr (rget_rset_reg s r .mtStatus site v hr)

/-! ### Power, reset and the sideband (R359, R367, R377) -/

section Power
variable {site : Nat} {s : State} (hsite : site < 12)
include hsite

theorem exec_mtnPwrgdHigh (hst : siteState s site = 2) : exec (.mtnPwrgdHigh site) s = .next (siteReset site s) :=
  congrArg _ (if_pos ⟨hsite, hst⟩)

theorem exec_sitePowerTimeout (hst : siteState s site = 2) : exec (.sitePowerTimeout site) s = .next (siteFault site 1 s) :=
  congrArg _ (if_pos ⟨hsite, hst⟩)

theorem exec_siteResetTimer (hst : siteState s site = 3) :
    exec (.siteResetTimer site) s = .next (sitePins site 1 1 1 (fset F.mtStatus_state site 4 s)) :=
  congrArg _ (if_pos ⟨hsite, hst⟩)

theorem exec_sidebandReady {ms : Nat} (hst : siteState s site = 4) (hms : ms ≤ 500) :
    exec (.sidebandReady site ms) s = .next (siteSend site 0x01 (leBytes 8 0)
      (siteMod site (fun v => { v with bootMs := ms, chunks := [] }) (fset F.mtStatus_state site 5 s))) :=
  congrArg _ (if_pos ⟨hsite, hst, hms⟩)

theorem exec_siteBootTimeout (hst : siteState s site = 4) : exec (.siteBootTimeout site) s = .next (siteFault site 2 s) :=
  congrArg _ (if_pos ⟨hsite, hst⟩)

/-- A tenon is attested where its signature verifies under a root that the trust list holds (R367). -/
theorem exec_attestationEnd {signed : Bool} {root measured : List Byte} (hst : siteState s site = 6) :
    exec (.attestationEnd site signed root measured) s = .next (toAssign site (fset F.mtStatus_attested site
      (if signed = true ∧ s.cfg.trust.contains root = true then 1 else 0)
      (siteMod site (fun v => { v with msgs := v.msgs.filter (·.op != 9), measured := measured }) s))) := by
  have hok : bit01 (signed && s.cfg.trust.contains root) = if signed = true ∧ s.cfg.trust.contains root = true then 1 else 0 :=
    if_congr (Bool.and_eq_true_iff) rfl rfl
  rw [← hok]
  exact congrArg Host.Outcome.next (if_pos ⟨hsite, hst⟩)

theorem exec_telemetryTimeout (hst : siteState s site = 9) : exec (.telemetryTimeout site) s = .next (siteFault site 8 s) :=
  congrArg _ (if_pos (siteReady_of_state hsite hst))

/-- THERM_ALERT faults a site in every powered state (log entry 63). -/
theorem exec_thermAlert (hlo : 2 ≤ siteState s site) (hhi : siteState s site ≤ 9) :
    exec (.thermAlert site) s = .next (siteFault site 9 s) :=
  congrArg _ (if_pos ⟨hsite, hlo, hhi⟩)

end Power

/-! ### What a tenon reports (R361, R363) -/

section Reports
variable {site : Nat} {s : State} (hup : sideUp s site = true)
include hup

theorem exec_event (code : Nat) : exec (.event site code) s = .next (rset s .mtEvent site (BitVec.ofNat 64 code)) :=
  congrArg _ (if_pos hup)

theorem exec_fatal (code : Nat) : exec (.fatal site code) s = .next (siteFault site 0xB (emit .site 0x42 [site, code] [] s)) :=
  congrArg _ (if_pos hup)

theorem exec_throttleDeadline (hthrottled : (siteGet s site).throttled = true) :
    let t := siteMod site (fun v => { v with throttled := false }) s
    exec (.throttleDeadline site) s
      = .next (if fget t F.mtTelem_powerMw site > sitePowerMw t site then siteFault site 4 t else t) :=
  congrArg _ (if_pos ⟨hup, hthrottled⟩)

/-- A report of a tenon within its temperature limit asks it to throttle where it exceeds its power and no cap is in force (R361). -/
theorem exec_telemetry {mw temp : Nat} :
    let t := fset F.mtTelem_temp site (temp % 4096) (fset F.mtTelem_powerMw site mw s)
    fon t F.mtStatus_descValid site = true → sx 16 temp < (descByte t site 1 36 * 8 : Nat) →
    exec (.telemetry site mw temp) s = .next (if mw > sitePowerMw t site ∧ (!(siteGet t site).throttled) = true
      then siteSend site 0x04 (leBytes 8 (descByte t site 2 30)) t else t) :=
  fun hvalid hcool => congrArg _ ((if_neg (by simp [hup])).trans ((if_neg (by rw [hvalid]; decide)).trans
    (if_neg (Int.not_le.2 hcool))))

end Reports

/-! ### Training (R377 to R380) -/

section Training
variable {site module : Nat} {s : State} (hsite : site < 12) (hmodule : module < 8) (hused : modProto s site module ≠ 0)
include hsite hmodule hused

theorem exec_moduleSbinitDone (hst : modState s site module = 1) :
    exec (.moduleSbinitDone site module) s = .next (setModule site module 2 s) :=
  onModule_in hsite hmodule hused hst _

section LaneTest
variable {good repaired : Nat} (hst : modState s site module = 2)
include hst

theorem exec_moduleLaneTestDone_trains (hwidth : laneWidth (siteCap s site 3) good ≠ 0) :
    exec (.moduleLaneTestDone site module good repaired) s = .next (fset F.mtModule_repaired (site * 8 + module) repaired
      (fset F.mtModule_width (site * 8 + module) (laneWidth (siteCap s site 3) good) (setModule site module 3 s))) := by
  change execModuleLaneTestDone site module good repaired s = _
  rw [execModuleLaneTestDone, onModule_in hsite hmodule hused hst]
  exact congrArg _ (if_neg hwidth)

/-- A module left without a width goes DOWN (R379). -/
theorem exec_moduleLaneTestDone_down (hwidth : laneWidth (siteCap s site 3) good = 0) :
    exec (.moduleLaneTestDone site module good repaired) s = .next (trainCheck site (moduleDown site module s)) := by
  change execModuleLaneTestDone site module good repaired s = _
  rw [execModuleLaneTestDone, onModule_in hsite hmodule hused hst]
  exact congrArg _ (if_pos hwidth)

end LaneTest

theorem exec_moduleMbtrainDone (hst : modState s site module = 3) :
    exec (.moduleMbtrainDone site module) s = .next (setModule site module 4 s) :=
  onModule_in hsite hmodule hused hst _

/-- A CXL module is granted no raw credits (R376). -/
theorem exec_moduleLinkinitDone_cxl (hst : modState s site module = 4) (hcxl : modProto s site module = 1) :
    exec (.moduleLinkinitDone site module) s = .next (trainCheck site (setModule site module 5
      (siteMod site (fun v => { v with used := Map.keep v.used fun k => decide (k / 2 ≠ module) }) s))) := by
  change execModuleLinkinitDone site module s = _
  rw [execModuleLinkinitDone, onModule_in hsite hmodule hused hst]
  refine congrArg (fun t => Host.Outcome.next (trainCheck site (setModule site module 5 t))) (if_neg fun hraw => ?_)
  exact absurd (hcxl.symm.trans hraw) (by decide)

theorem exec_moduleTrainTimeout (hlo : 1 ≤ modState s site module) (hhi : modState s site module ≤ 4) :
    exec (.moduleTrainTimeout site module) s = .next (trainCheck site (moduleDown site module s)) :=
  congrArg _ (if_pos ⟨hsite, hmodule, hused, hlo, hhi⟩)

theorem exec_moduleRetryLimit (retries : Nat) (hst : modState s site module = 5) :
    exec (.moduleRetryLimit site module retries) s = .next (if retries > 256
      then setModule site module 6 (fbump F.mtRetryCount_count site retries s) else fbump F.mtRetryCount_count site retries s) := by
  change execModuleRetryLimit site module retries s = _
  rw [execModuleRetryLimit, onModule_in hsite hmodule hused hst]

section Phyretrain
variable (hst : modState s site module = 6)
include hst

/-- The lanes that a retrain leaves may narrow a module, and never widen it (R379). -/
theorem exec_phyretrainDone {good repaired : Nat} :
    let i := site * 8 + module
    let old := fget s F.mtModule_width i
    let w := min (laneWidth (siteCap s site 3) good) old
    let t := fset F.mtModule_repaired i repaired (fset F.mtModule_width i w (setModule site module 5 s))
    exec (.phyretrainDone site module good repaired) s
      = .next (if w = 0 then moduleLost site module s else siteRun site (if w = old then t else widthChanged site t)) := by
  change execPhyretrainDone site module good repaired s = _
  rw [execPhyretrainDone, onModule_in hsite hmodule hused hst]

theorem exec_phyretrainTimeout : exec (.phyretrainTimeout site module) s = .next (moduleLost site module s) :=
  onModule_in hsite hmodule hused hst _

end Phyretrain

end Training

/-! ### The claim -/

/-- Settles O32, by the rule of each event. That FATAL acts whenever the sideband is up, and THERM_ALERT in every powered state, is the
model's reading (log entry 63). -/
theorem sitePowerAndTrainingEventsComplete : Obligations.SitePowerAndTrainingEventsComplete := by
  unfold Obligations.SitePowerAndTrainingEventsComplete
  refine ⟨fun site s hsite => ?power, fun site s hup => ?reports, fun site module s hsite hmodule hused => ?training⟩
  case power =>
    exact ⟨exec_mtnPwrgdHigh hsite, exec_sitePowerTimeout hsite, exec_siteResetTimer hsite, fun ms => exec_sidebandReady hsite,
      exec_siteBootTimeout hsite, fun signed root measured => exec_attestationEnd hsite, exec_telemetryTimeout hsite,
      exec_thermAlert hsite⟩
  case reports =>
    refine ⟨exec_event hup, exec_fatal hup, ?_, exec_throttleDeadline hup⟩
    intro mw temp t hvalid hcool
    refine ⟨fun hpower => ?_, fun hpower hfree => ?_⟩
    · exact (exec_telemetry hup hvalid hcool).trans (congrArg _ (if_neg fun h => Nat.not_lt.2 hpower h.1))
    · exact (exec_telemetry hup hvalid hcool).trans (congrArg _ (if_pos ⟨hpower, congrArg Bool.not hfree⟩))
  case training =>
    refine ⟨exec_moduleSbinitDone hsite hmodule hused, fun good repaired hst => ⟨?_, ?_⟩, exec_moduleMbtrainDone hsite hmodule hused,
      exec_moduleLinkinitDone_cxl hsite hmodule hused, exec_moduleTrainTimeout hsite hmodule hused,
      exec_moduleRetryLimit hsite hmodule hused, fun good repaired hst => ⟨fun hw => ?_, fun hw => ?_⟩,
      exec_phyretrainTimeout hsite hmodule hused⟩
    · exact exec_moduleLaneTestDone_trains hsite hmodule hused hst
    · exact exec_moduleLaneTestDone_down hsite hmodule hused hst
    · exact (exec_phyretrainDone hsite hmodule hused hst).trans (congrArg _ (if_pos hw))
    · exact (exec_phyretrainDone hsite hmodule hused hst).trans (congrArg _ (if_neg hw))

end Sys2Proof.Machine
end

section
/-! Site messages and the control registers of a site (R360, R363, R364, R377, R389, R390, R392, R393): what the reply to an outstanding
request does, what is sent again, and what the writes of MT_CTRL and MT_ASSIGN do. -/
namespace Sys2Proof.Machine

/-! ### Replies (R363) -/

section Replies
variable {site tag : Nat} {m : SiteMsg} {s : State}

/-- A chunk of the descriptor asks for the next, and the fourth has the descriptor checked (R366). -/
theorem exec_descReadReply {bytes : List Byte} (h : Awaits site 0x01 tag m s) :
    let a := answered site 0x01 tag s
    let l := (siteGet a site).chunks ++ [padTo 64 0 bytes]
    let t := siteSet site { siteGet a site with chunks := l } a
    siteState t site = 5 → exec (.descReadReply site tag 0 bytes) s
      = .next (if l.length < 4 then siteSend site 0x01 (leBytes 8 l.length) t else descRead site l.flatten t) :=
  fun hst => congrArg _ ((siteReply_awaits h _).trans (if_neg (not_not.2 hst)))

/-- The fragment that a reply of the tenon asks for is sent without a payload (log entry 62). -/
theorem exec_spdmReply {bytes : List Byte} (h : Awaits site 0x09 tag m s) :
    let t := siteMod site (fun v => { v with spdm := v.spdm ++ [bytes] }) (answered site 0x09 tag s)
    siteState t site = 6 → exec (.spdmReply site tag 0 bytes) s = .next (siteSend site 0x09 [] t) :=
  fun hst => congrArg _ ((siteReply_awaits h _).trans (if_pos hst))

theorem exec_assignReply (h : Awaits site 0x02 tag m s) (hst : siteState (answered site 0x02 tag s) site = 7) :
    exec (.assignReply site tag 0) s = .next (siteTrain site (answered site 0x02 tag s)) :=
  congrArg _ ((siteReply_awaits h _).trans (if_pos hst))

section Width
variable {widths : List Nat} (h : Awaits site 0x03 tag m s)
include h

/-- Widths that both ends agree on, and that the modules still have, make the site READY (R380). -/
theorem exec_widthReply_ready :
    let t := answered site 0x03 tag s
    ((List.range 8).all fun k => recAt m.payload k 1 == widths.getD k 0) = true →
    ((List.range 8).all fun k => recAt m.payload k 1 == [0, 16, 32, 64].getD (fget t F.mtModule_width (site * 8 + k)) 0) = true →
    siteState t site = 8 → exec (.widthReply site tag 0 widths) s = .next (enterReady site t) :=
  fun hsame hnow hst => congrArg _ ((siteReply_awaits h _).trans ((if_neg (by rw [hsame]; decide)).trans
    ((if_neg (by rw [hnow]; decide)).trans (if_pos hst))))

theorem exec_widthReply_differs (hdiffers : ((List.range 8).all fun k => recAt m.payload k 1 == widths.getD k 0) = false) :
    exec (.widthReply site tag 0 widths) s = .next (trainFailed site 6 (answered site 0x03 tag s)) :=
  congrArg _ ((siteReply_awaits h _).trans (if_pos (by rw [hdiffers]; decide)))

end Width

theorem exec_throttleReply (h : Awaits site 0x04 tag m s) :
    exec (.throttleReply site tag 0) s = .next (fset F.mtTelem_capW site (recAt m.payload 0 2)
      (siteMod site (fun v => { v with throttled := true }) (answered site 0x04 tag s))) :=
  congrArg _ (siteReply_awaits h _)

theorem exec_quiesced (h : Awaits site 0x06 tag m s) :
    let t := fset F.mtStatus_quiesced site 1 (answered site 0x06 tag s)
    exec (.quiesced site tag 0) s = .next (if (siteGet t site).down.isSome = true then siteSend site 0x0A [] t else t) :=
  congrArg _ (siteReply_awaits h _)

theorem exec_resumeReply (h : Awaits site 0x07 tag m s) :
    exec (.resumeReply site tag 0) s = .next (fset F.mtStatus_quiesced site 0 (answered site 0x07 tag s)) :=
  congrArg _ (siteReply_awaits h _)

/-- A cleared tenon is no longer dirty, and an assignment that waited for the clear is made (R389, R390). -/
theorem exec_cleared (h : Awaits site 0x08 tag m s) :
    let a := answered site 0x08 tag s
    let t := fset F.mtStatus_dirty site 0 (siteSet site { siteGet a site with owed := none, tenant := none } a)
    ∀ owed, (siteGet a site).owed = owed → exec (.cleared site tag 0) s
      = .next (match owed with | some w => sendAssign site (rset t .mtAssign site w) | none => t) := by
  intro a t owed howed
  subst howed
  exact congrArg _ (siteReply_awaits h _)

theorem exec_shutdownReply {d : SiteDown} (h : Awaits site 0x0A tag m s)
    (hdown : (siteGet (answered site 0x0A tag s) site).down = some d) :
    exec (.shutdownReply site tag 0) s = .next (siteDownEnd site d (answered site 0x0A tag s)) := by
  refine congrArg Host.Outcome.next ((siteReply_awaits h _).trans ?_)
  simp only [hdown]

end Replies

/-- A request without a reply is sent once more under its TAG (R364). -/
theorem exec_siteMessageTimeout_again {site op : Nat} {m : SiteMsg} {s : State} (hup : sideUp s site = true)
    (hmsg : (siteGet s site).msgs.find? (·.op == op) = some m) (hdown : (siteGet s site).down = none) (hfirst : m.again = false) :
    exec (.siteMessageTimeout site op) s = .next (emit .site op [site, m.tag] m.payload (siteMod site
      (fun v => { v with msgs := v.msgs.map fun x => if x.op == op then { x with again := true } else x }) s)) := by
  refine congrArg Host.Outcome.next ((if_neg (by simp [hup])).trans ?_)
  simp only [hmsg, hdown]
  exact if_neg (by simp [hfirst])

/-! ### MT_CTRL (R360, R377, R392) -/

theorem bitOn_eq_testBit (n i : Nat) : bitOn n i = n.testBit i := by
  simp only [bitOn, bitsAt, Nat.pow_one, beq_eq_decide, Nat.testBit_eq_decide_div_mod_eq]

section Action
variable {e b : Nat} (hb : 1 ≤ b) (hb' : b ≤ 4)
include hb hb'

/-- A word that sets one action bit of MT_CTRL beside ENABLE has that action bit and no other. -/
theorem bitOn_action (he : e < 2) {k : Nat} (hk : 1 ≤ k) (hk' : k ≤ 4) :
    bitOn (BitVec.ofNat 64 (e + 2 ^ b)).toNat k = decide (b = k) := by
  have heb : e < 2 ^ b := Nat.lt_of_lt_of_le he (Nat.le_self_pow (by omega) 2)
  have hek : e < 2 ^ k := Nat.lt_of_lt_of_le he (Nat.le_self_pow (by omega) 2)
  have hor : e + 2 ^ b = 2 ^ b ||| e := by
    rw [Nat.add_comm, ← Nat.mul_one (2 ^ b), Nat.two_pow_add_eq_or_of_lt heb]
  rw [bitOn_eq_testBit, BitVec.toNat_ofNat, Nat.testBit_mod_two_pow, hor, Nat.testBit_or, Nat.testBit_two_pow,
    Nat.testBit_lt_two_pow hek, Bool.or_false, decide_eq_true (by omega : k < 64), Bool.true_and]

/-- And it keeps ENABLE. -/
theorem bitsAt_enable_action (he : e < 2) : bitsAt (BitVec.ofNat 64 (e + 2 ^ b)).toNat 0 1 = e := by
  obtain ⟨c, rfl⟩ : ∃ c, b = c + 1 := ⟨b - 1, by omega⟩
  rw [bitsAt_low, BitVec.toNat_ofNat, Nat.mod_mod_of_dvd _ (by decide), Nat.pow_one, Nat.pow_succ, Nat.add_mul_mod_self_right,
    Nat.mod_eq_of_lt he]

/-- A write of MT_CTRL that sets one action bit and keeps ENABLE carries out that action; QUIESCE and RESUME only in READY (R392). -/
theorem ctrlAction_eq {site : Nat} (hsite : site < 12) (s : State) :
    let t := fset F.mtCtrl_enable site (fget s F.mtCtrl_enable site) s
    let u := if b = 1 then ctrlReset site t else t
    let v := if b = 2 then ctrlRelease site u else u
    let w := if b = 3 ∧ siteReady v site = true then siteSend site 0x06 [] v else v
    ctrlAction site b s = .next (if b = 4 ∧ siteReady w site = true then siteSend site 0x07 [] w else w) := by
  have he : fget s F.mtCtrl_enable site < 2 := bitsAt_lt _ _ 1
  have hbit {k : Nat} (hk : 1 ≤ k) (hk' : k ≤ 4) := bitOn_action hb hb' he hk hk'
  refine congrArg Host.Outcome.next ((if_pos hsite).trans ?_)
  unfold writeMtCtrl
  simp only [bitsAt_enable_action hb hb' he, hbit (k := 1) (by decide) (by decide), hbit (k := 2) (by decide) (by decide),
    hbit (k := 3) (by decide) (by decide), hbit (k := 4) (by decide) (by decide), decide_eq_true_eq, Bool.and_eq_true]

end Action

section Control
variable {site : Nat} {s : State} (hsite : site < 12)
include hsite

theorem exec_mtCtrlReset :
    exec (.mtCtrlReset site) s = .next (ctrlReset site (fset F.mtCtrl_enable site (fget s F.mtCtrl_enable site) s)) :=
  ctrlAction_eq (b := 1) (by decide) (by decide) hsite s

theorem exec_mtCtrlRelease :
    exec (.mtCtrlRelease site) s = .next (ctrlRelease site (fset F.mtCtrl_enable site (fget s F.mtCtrl_enable site) s)) :=
  ctrlAction_eq (b := 2) (by decide) (by decide) hsite s

theorem exec_mtCtrlQuiesce :
    let t := fset F.mtCtrl_enable site (fget s F.mtCtrl_enable site) s
    siteState t site = 9 → exec (.mtCtrlQuiesce site) s = .next (siteSend site 0x06 [] t) :=
  fun hst => (ctrlAction_eq (b := 3) (by decide) (by decide) hsite s).trans
    (congrArg _ ((if_neg fun h => absurd h.1 (by decide)).trans (if_pos ⟨rfl, siteReady_of_state hsite hst⟩)))

theorem exec_mtCtrlResume :
    let t := fset F.mtCtrl_enable site (fget s F.mtCtrl_enable site) s
    siteState t site = 9 → exec (.mtCtrlResume site) s = .next (siteSend site 0x07 [] t) :=
  fun hst => (ctrlAction_eq (b := 4) (by decide) (by decide) hsite s).trans
    (congrArg _ (if_pos ⟨rfl, siteReady_of_state hsite hst⟩))

/-! ### MT_ASSIGN (R389, R390, R393) -/

section Assign
variable {v : Word}

theorem exec_mtAssignWrite_refused (hrefused : assignRefused s site (BitVec.ofNat 64 (bitsAt v.toNat 0 12)) = true) :
    exec (.mtAssignWrite site v) s = .next (logRefused 0x0B02 none s) :=
  congrArg _ ((if_pos hsite).trans (if_pos hrefused))

/-- A site that no tenant has used, out of READY, takes the assignment at once. -/
theorem exec_mtAssignWrite_made (hopen : assignRefused s site (BitVec.ofNat 64 (bitsAt v.toNat 0 12)) = false)
    (hfresh : (siteGet s site).tenant = none) (hst : siteState s site ≠ 9) :
    exec (.mtAssignWrite site v) s = .next (rset s .mtAssign site (BitVec.ofNat 64 (bitsAt v.toNat 0 12))) := by
  have hstill : siteState (rset s .mtAssign site (BitVec.ofNat 64 (bitsAt v.toNat 0 12))) site ≠ 9 := by
    rwa [siteState_rset _ (by decide)]
  refine congrArg Host.Outcome.next ((if_pos hsite).trans ((if_neg (by rw [hopen]; decide)).trans ?_))
  simp only [hfresh, Bool.and_false, siteReady_of_state_ne hstill, Bool.false_eq_true, if_false]

end Assign

end Control

/-! ### The claim -/

/-- Settles O33: a reply to an outstanding request is handed to its meaning (`siteReply_awaits`), a write of MT_CTRL carries out its one
action (`ctrlAction_eq`), and MT_ASSIGN takes or refuses the assignment. That a refusal other than that of R516 is recorded as 0x0B02 is log
entry 64, and how messages cross one another is log entry 63. -/
theorem siteMessagesAndControlComplete : Obligations.SiteMessagesAndControlComplete := by
  unfold Obligations.SiteMessagesAndControlComplete
  refine ⟨fun site tag m s => ?messages, fun site s hsite => ?control⟩
  case messages =>
    exact ⟨fun bytes => exec_descReadReply, fun bytes => exec_spdmReply, exec_assignReply,
      fun widths h => ⟨exec_widthReply_ready h, exec_widthReply_differs h⟩, exec_throttleReply, exec_quiesced, exec_resumeReply,
      fun h => ⟨exec_cleared h none, fun w => exec_cleared h (some w)⟩, fun d => exec_shutdownReply,
      fun op => exec_siteMessageTimeout_again⟩
  case control =>
    exact ⟨exec_mtCtrlReset hsite, exec_mtCtrlRelease hsite, exec_mtCtrlQuiesce hsite, exec_mtCtrlResume hsite,
      fun v => ⟨exec_mtAssignWrite_refused hsite, exec_mtAssignWrite_made hsite⟩⟩

end Sys2Proof.Machine
end

section
/-! The coherent links of tenons and hosts, and their accesses (R370 to R376, R386, R410 to R412, R421, R424): what a message or request
that its link brings becomes at the home, in memory, in configuration space, or at the hub's own request. -/
namespace Sys2Proof.Machine

theorem siteReady_lt {site : Nat} {s : State} (h : siteReady s site = true) : site < 12 :=
  of_decide_eq_true (Bool.and_eq_true_iff.1 h).1

theorem siteReady_of_cxlUp {site cap : Nat} {s : State} (h : cxlUp s site cap = true) : siteReady s site = true :=
  (Bool.and_eq_true_iff.1 (Bool.and_eq_true_iff.1 h).1).1

/-! ### What counting the bytes of a link leaves -/

theorem siteGet_fwrap (f o : Fld) (i k : Nat) (s : State) (site : Nat) : siteGet (fwrap f o i k s) site = siteGet s site := by
  unfold fwrap
  extract_lets n t
  exact on_ite (P := fun u => siteGet u site = siteGet s site) rfl rfl

/-- A partition's classes are those of its sluice register (R328, R352). -/
theorem classFor_congr {s t : State} {p : Nat} (h : rget t .partSluice p = rget s .partSluice p) (cls : Nat) :
    classFor t p cls = classFor s p cls := by
  unfold classFor
  rw [fget_congr (f := F.partSluice_allowed) h]

/-- The class of a tenon's request is the same once the bytes of its link are counted. -/
theorem classFor_siteRx {site p : Nat} (hsite : site < 12) (hp : p < 256) (n : Nat) (s : State) :
    let t := fwrap F.mtRxbytes_count F.mtRxbytes_ovf site n s
    classFor t p (fget t F.mtAssign_class site) = classFor s p (fget s F.mtAssign_class site) := by
  intro t
  rw [classFor_congr (rget_fwrap_other (by decide) (by decide) (by omega) (by omega)),
    fget_congr (f := F.mtAssign_class) (rget_fwrap_other (by decide) (by decide) (by omega) (by omega))]

/-! ### A tenon's CXL.cache (R386) -/

/-- The request that a D2H message of a tenon with a partition brings to the home. -/
def tenonLineReq (s : State) (site tag addr p ty : Nat) (data : List Byte) (upset : Nat) : CohReq :=
  lineReq ty (1 + site) (siteSrc site) tag (addr / 64) (classFor s p (fget s F.mtAssign_class site)) (some p) data upset (.cxl site tag)

/-- A D2H message is counted and goes to its home; one whose answer the tenon awaits is open at the site until then. -/
theorem d2h_served {site tag addr p : Nat} {s : State} (hup : cxlUp s site 1 = true) (hp : p < 256)
    (hroom : (sliceGet s (homeOf (addr / 64))).queue.length < 64) (hserves : (siteGet s site).serves = some p) (ty : Nat) (data : List Byte) (noData : Bool) (upset : Nat) :
    let t := fwrap F.mtRxbytes_count F.mtRxbytes_ovf site data.length s
    d2h ty site tag addr data noData upset s = cohRequest (tenonLineReq s site tag addr p ty data upset)
      (if ty = 0x30 ∨ ty = 0x33 then t else askOpen (siteSrc site) tag (some p) addr false noData t) := by
  intro t
  have hclass := classFor_siteRx (siteReady_lt (siteReady_of_cxlUp hup)) hp data.length s
  have hpart : (siteGet t site).serves = some p := by rw [siteGet_fwrap, hserves]
  have htaken : ¬ ((!cxlUp s site 1) = true ∨ (sliceGet s (homeOf (addr / 64))).queue.length ≥ 64) := by
    simp [hup, hroom]
  unfold d2h
  rw [if_neg htaken]
  simp only [t, hpart, Option.isNone_some, Bool.false_eq_true, if_false, hclass]
  rfl

/-- The answer of a tenon to a snoop goes to the home. -/
theorem exec_cxlSnoopResponse {site line : Nat} {data : List Byte} {s : State} (hready : siteReady s site = true) :
    exec (.cxlSnoopResponse site line data false) s = .next (snoopAnswered (homeOf line) line (1 + site) data
      (fwrap F.mtRxbytes_count F.mtRxbytes_ovf site data.length s)) :=
  congrArg _ ((if_neg (by simp [hready])).trans (if_neg (by simp)))

/-! ### A host's CXL.mem and CXL.cache (R412, R421, R424) -/

section HostMem
variable {port addr a : Nat} {s : State} (hact : dlActive s port = true) (hcont : fon s F.hostpPortStatus_contained port = false)
include hact hcont

/-- A CXL.mem request that a decoder holds reaches the home of its line, with the page set to SHARED bias. -/
theorem hostMem_served (hcxl : bitOn (fget s F.hostpPortStatus_cxl port) 2 = true) (hdecode : hdmDecode s port addr = some a)
    (hroom : (sliceGet s (homeOf (a / 64))).queue.length < 64) (tag n : Nat) (f : Nat → State → State) :
    hostMem port tag addr n f s
      = f (a / 64) (biasShare (a / 64) (fwrap F.hostpRxbytes_count F.hostpRxbytes_ovf port n (linkWake port s))) := by
  unfold hostMem
  rw [if_neg (by simp [hact, hcont, hcxl]), hdecode]
  exact if_neg (by omega)

theorem exec_birsp {line : Nat} {data : List Byte} :
    exec (.birsp port line data) s = .next (snoopAnswered (homeOf line) line (13 + port) data
      (fwrap F.hostpRxbytes_count F.hostpRxbytes_ovf port data.length s)) :=
  congrArg _ (if_neg (by simp [hact, hcont]))

/-- The control complex answers a host's snoop of host memory for the line it may hold. -/
theorem exec_hostSnoop {inval : Bool} (hcache : bitOn (fget s F.hostpPortStatus_cxl port) 1 = true) :
    let r := ccTake inval (hostLine addr) s
    exec (.hostSnoop port addr inval) s = .next (emit .host 0x3F
      [port, addr, bit01 (Map.get? s.ccLines (hostLine addr)).isSome] r.1
      (fwrap F.hostpTxbytes_count F.hostpTxbytes_ovf port r.1.length r.2)) :=
  congrArg _ (if_neg (by simp [hact, hcont, hcache]))

end HostMem

/-! ### The claim of the coherent links -/

/-- Settles O29: a tenon's message becomes the home's (`d2h_served`), and so does a host's request that its decoders hold
(`hostMem_served`). That the site logic and the ports hand what their links bring to the home in one step is the model's choice (log entry
60). -/
theorem tenonAndHostCoherenceCommandsComplete : Obligations.TenonAndHostCoherenceCommandsComplete := by
  unfold Obligations.TenonAndHostCoherenceCommandsComplete
  refine ⟨?tenon, fun n line data s => exec_cxlSnoopResponse, ?host, fun port addr line inval data s hact hcont =>
    ⟨exec_birsp hact hcont, exec_hostSnoop hact hcont⟩⟩
  case tenon =>
    intro n tag addr upset data noData p s hup hp hroom hserves line cls req t td
    have hserved := d2h_served (tag := tag) hup hp hroom hserves
    exact ⟨congrArg _ (hserved 0x30 [] false upset), congrArg _ (hserved 0x31 [] false upset), congrArg _ (hserved 0x32 [] noData upset),
      congrArg _ (hserved 0x35 [] false 0), congrArg _ (hserved 0x36 data false 0), congrArg _ (hserved 0x33 data false upset)⟩
  case host =>
    intro port tag addr a upset mask data s hact hcont hcxl hdecode hroom line t
    have hserved := hostMem_served hact hcont hcxl hdecode hroom tag
    exact ⟨congrArg _ (hserved 0 _), congrArg _ (hserved 0 _), congrArg _ (hserved 0 _), congrArg _ (hserved 0 _),
      congrArg _ (hserved 64 _), congrArg _ (hserved 64 _)⟩

end Sys2Proof.Machine
end

section
/-! The accesses of tenons and hosts (R370 to R376, R410, R411): a raw packet, a request or a response of a tenon, and a host's accesses to
configuration space and to device memory through BAR4. -/
namespace Sys2Proof.Machine

/-! ### Raw modules (R371 to R376) -/

section Raw
variable {site module : Nat} {p : NetPkt} {s : State} (hready : siteReady s site = true) (hmodule : module < 8)
  (hraw : modProto s site module = 2)
include hready hmodule hraw

/-- A packet of a type that R372 gives tenons, within its credits and on its own channel, is counted, its buffer space returned, and
accepted. -/
theorem exec_rawPacket_accepted {ty : Nat} (hactive : modState s site module = 5) (hroom : homesFull s p.addr (p.lines * 64) = false)
    (hty : ty ∈ [0x01, 0x02, 0x03, 0x04, 0x05, 0x07]) (hlines : p.lines ≤ 8) :
    let u := rawUnits p.data.length
    let t := emit .site 0x160 (if rawVc ty = 1 then [site, module, u, 0] else [site, module, 0, u]) []
      (fwrap F.mtRxbytes_count F.mtRxbytes_ovf site p.data.length s)
    p.dstHub = hubId t →
    exec (.rawPacket site module ty (rawVc ty) true false p) s = .next (rawAccepted site module ty p t) := by
  intro u t hhub
  have htaken : ¬ ((!siteReady s site) = true ∨ module ≥ 8 ∨ modProto s site module ≠ 2 ∨ modState s site module ≠ 5) := by
    simp [hready, hmodule, hraw, hactive]
  have hsound : ¬ ((!([0x01, 0x02, 0x03, 0x04, 0x05, 0x07].contains ty)) = true ∨ p.lines > 8 ∨ rawVc ty ≠ rawVc ty
      ∨ p.dstHub ≠ hubId t) := by
    have hknown := List.contains_iff_mem.2 hty
    simp only [hknown, hhub, Bool.not_true, Bool.false_eq_true, ne_eq, not_true_eq_false, or_false, false_or]
    omega
  exact congrArg Host.Outcome.next ((if_neg htaken).trans ((if_neg (by rw [hroom]; decide)).trans ((if_neg (by decide)).trans
    ((if_neg (by decide)).trans (if_neg hsound)))))

/-- Credits that a tenon returns let waiting requests go out (R376). -/
theorem exec_rawCredit (a b : Nat) : exec (.rawCredit site module a b) s = .next (siteRun site (siteMod site (fun v =>
    let l := Map.set v.used (module * 2) (Map.get v.used 0 (module * 2) - a)
    { v with used := Map.set l (module * 2 + 1) (Map.get l 0 (module * 2 + 1) - b) }) s)) :=
  congrArg _ (if_neg (by simp [hready, hmodule, hraw]))

end Raw

/-! ### The CXL link of a tenon (R370, R374, R375) -/

theorem exec_cxlIoRequest {site tag p addr n : Nat} {write : Bool} {data : List Byte} {upset : Option Upset} {s : State}
    (hup : cxlUp s site 0 = true) (hroom : homesFull s addr n = false) :
    let t := fwrap F.mtRxbytes_count F.mtRxbytes_ovf site data.length s
    (siteGet t site).serves = some p →
    exec (.cxlIoRequest site tag write ⟨addr, n⟩ data false upset) s = .next (tenonServe site 0
      { write := write, a := addr, n := if write = true then data.length else n, data := data, part := some p,
        cls := classFor t p (fget t F.mtAssign_class site), upset := upset, who := .cxl site tag } t) := by
  intro t hserves
  refine congrArg Host.Outcome.next ((if_neg (by simp [hup, hroom])).trans ?_)
  simp only [Bool.false_eq_true, if_false, t, hserves]

/-- A tenon's response ends the request of the hub that it answers. -/
theorem exec_cxlMemResponse {site tag status : Nat} {data : List Byte} {x : SiteAsk} {s : State} (hready : siteReady s site = true) :
    let t := fwrap F.mtRxbytes_count F.mtRxbytes_ovf site data.length s
    (siteGet t site).asks.find? (fun x => x.module == 8 && x.tag == tag && true) = some x →
    exec (.cxlMemResponse site tag status data false) s = .next (answerTo x.write x.part x.cls status data
      (siteMod site (fun v => { v with asks := v.asks.erase x }) t) x.who) := by
  intro t hasked
  have hanswer : siteAnswer site 8 tag none status data t = some (answerTo x.write x.part x.cls status data
      (siteMod site (fun v => { v with asks := v.asks.erase x }) t) x.who) := congrArg (Option.map _) hasked
  refine congrArg Host.Outcome.next ((if_neg (by simp [hready])).trans ?_)
  simp only [Bool.false_eq_true, if_false, t] at hanswer ⊢
  rw [hanswer]

/-! ### Hosts (R410, R411) -/

theorem linkWake_cfgSpace (port : Nat) (s : State) : (linkWake port s).cfgSpace = s.cfgSpace := by
  unfold linkWake
  exact on_ite (P := fun t : State => t.cfgSpace = s.cfgSpace) rfl rfl

section Host
variable {port fn : Nat} {s : State} (hact : dlActive s port = true) (hcont : fon s F.hostpPortStatus_contained port = false)
  (hfn : fn < 256)
include hact hcont hfn

section Config
variable {off tag : Nat}

theorem exec_configRequest_read {n : Nat} (hspan : off + n ≤ 4096) :
    exec (.configRequest port fn off tag false n []) s = .next (emit .host 0x12 [port, tag, 0]
      ((List.range n).map fun k => cfgByte s port fn (off + k)) (linkWake port s)) :=
  congrArg _ ((if_neg (by simp [hact, hcont, hfn, hspan])).trans (if_neg Bool.false_ne_true))

/-- A write of a byte of configuration space sets its writable bits. -/
theorem exec_configRequest_write {b : Byte} (hspan : off < 4096) :
    exec (.configRequest port fn off tag true 1 [b]) s = .next (emit .host 0x14 [port, tag, 0] []
      { linkWake port s with
        cfgSpace := Map.set s.cfgSpace (cfgKey port fn off)
          ((cfgByte s port fn off &&& ~~~Config.cfgMask (cfgKey port fn off)) ||| (b &&& Config.cfgMask (cfgKey port fn off))).toNat }) := by
  have hkept := linkWake_cfgSpace port s
  have hbyte : cfgByte (linkWake port s) port fn off = cfgByte s port fn off := by unfold cfgByte; rw [hkept]
  rw [← hkept, ← hbyte]
  exact congrArg _ ((if_neg (by simp [hact, hcont, hfn]; omega)).trans (if_pos rfl))

end Config

/-- An access through BAR4 that a decoder takes to device memory is served there. -/
theorem exec_bar4Access_mem {off tag n a : Nat} {write ide : Bool} {data : List Byte} (htdisp : fget s F.partSec_tdisp fn ≠ 2) :
    let k := if write = true then data.length else n
    let t := fwrap F.hostpRxbytes_count F.hostpRxbytes_ovf port data.length (linkWake port s)
    bar4Decode s fn off k = some a → homesFull s a k = false →
    fget t F.partSec_tdisp fn ≠ 2 → hubReady t = true → bar4Decode t fn off k = some a → placeOf t a k = .mem →
    exec (.bar4Access port fn off tag write ide n data) s = .next (memServe
      { write := write, a := a, n := k, data := data, part := some fn, cls := hostClass t fn,
        who := if write = true then .posted port else .host port tag } t) := by
  intro k t hdecode hroom htdisp' hhub hdecode' hplace
  change execBar4Access port fn off tag write ide n data s = _
  simp only [k, t] at hdecode hroom hhub hdecode' hplace ⊢
  simp only [execBar4Access, hdecode, hroom, htdisp, Bool.false_eq_true, false_and, if_false]
  rw [hostRequest_served hact hcont hfn (.inl htdisp')]
  simp only [hhub, hdecode', hplace, Bool.not_true, Bool.false_eq_true, if_false]

end Host

/-! ### The claim -/

/-- Settles O34, by the rule of each packet, request and access. That a raw packet's buffer space is returned once it is taken, and its CRC
checked first, is log entry 65. -/
theorem tenonAndHostAccessesComplete : Obligations.TenonAndHostAccessesComplete := by
  unfold Obligations.TenonAndHostAccessesComplete
  refine ⟨fun site module p s hready hmodule hraw => ⟨fun ty => exec_rawPacket_accepted hready hmodule hraw, ?_⟩,
    fun site tag p write addr n data upset s => exec_cxlIoRequest, fun site tag status data x s => exec_cxlMemResponse,
    fun port fn off tag n s hact hcont hfn => ⟨exec_configRequest_read hact hcont hfn,
      fun b => exec_configRequest_write hact hcont hfn⟩,
    fun port fn off tag n a write ide data s hact hcont hfn => exec_bar4Access_mem hact hcont hfn⟩
  exact exec_rawCredit hready hmodule hraw

end Sys2Proof.Machine
end

section
/-! Every command completes (R469, R473): whatever the state, the meaning that `exec` gives a command answers a next state. -/
namespace Sys2Proof.Machine

/-- An ERR_RSP of another hub is taken as the answer to a signal or as that to a request, and either way there is a next state. -/
theorem execIdoonErrRsp_answers (a : IdnArr) (s : State) : ∃ t, execIdoonErrRsp a s = .next t := by
  unfold execIdoonErrRsp
  split
  · exact ⟨_, rfl⟩
  · exact ⟨_, rfl⟩

/-- Every meaning but that of IDOON_ERR_RSP is a next state as it is written; that of IDOON_ERR_RSP is one in both of its branches. -/
theorem exec_answers (i : Instr) (s : State) : ∃ t, exec i s = .next t := by
  cases i with
  | idoonErrRsp a => exact execIdoonErrRsp_answers a s
  | _ => exact ⟨_, rfl⟩

/-- Settles O48: a command answers a next state (`exec_answers`), and every meaning keeps the queue (`exec_kept`). That the machine never
stops is log entry 8, and that a command which its state does not enable completes with no effect is log entry 7. -/
theorem everyCommandCompletesAndLeavesTheQueue : Obligations.EveryCommandCompletesAndLeavesTheQueue := by
  unfold Obligations.EveryCommandCompletesAndLeavesTheQueue
  intro c s hs
  obtain ⟨t, ht⟩ := exec_answers c s
  obtain ⟨hqueue, -⟩ := exec_kept c ⟨rfl, hs⟩ t ht
  exact ⟨t, ht, hqueue⟩

end Sys2Proof.Machine
end

section
/-! Contexts, queues, objects and fences (R449, R456 to R468, R476, R488): what each command answers once it has passed the checks of every
command. -/
namespace Sys2Proof.Machine

section Contexts
variable {id : Nat} {c : Cmd} {s : State}

theorem exec_ctxCreate (h : Starts 0x0101 id c s)
    (hvec : bitsAt c.pkt.w1 24 11 < if bitsAt c.pkt.w1 16 8 = 0 then 2048 else 64) (hroot : c.pkt.w2 % 4096 = 0)
    (hfq : c.pkt.w3 % 2048 = 0) (hfree : (ctxGet s (bitsAt c.pkt.w1 0 16)).state = .free)
    (hrootIn : inPart s (bitsAt c.pkt.w1 16 8) c.pkt.w2 4096 = true)
    (hfqIn : inPart s (bitsAt c.pkt.w1 16 8) c.pkt.w3 2048 = true) :
    exec (.ctxCreate id) s = .next (finish c 0 0 0 []
      (ctxSet (bitsAt c.pkt.w1 0 16) { state := .active, part := bitsAt c.pkt.w1 16 8, root := c.pkt.w2, faultQ := c.pkt.w3,
                                       vector := bitsAt c.pkt.w1 24 11 } s)) := by
  have hvector : vectorOk (bitsAt c.pkt.w1 16 8) (bitsAt c.pkt.w1 24 11) = true := decide_eq_true hvec
  exact startOp_done h (by simp [doCtxCreate, hvector, hroot, hfq, hfree, hrootIn, hfqIn, Done.st])

theorem exec_ctxDestroy (h : Starts 0x0102 id c s) (hx : bitsAt c.pkt.w1 0 16 ≠ 0)
    (halive : (ctxGet s (bitsAt c.pkt.w1 0 16)).state = .active ∨ (ctxGet s (bitsAt c.pkt.w1 0 16)).state = .faulted) :
    exec (.ctxDestroy id) s = .next (sweep (setStep id (.teardown (bitsAt c.pkt.w1 0 16))
      (teardownStart (bitsAt c.pkt.w1 0 16) false s))) := by
  refine startOp_wait h ?_
  obtain halive | halive := halive <;> simp [doCtxDestroy, hx, halive]

theorem exec_ctxQuery_free (h : Starts 0x0103 id c s) (hfree : (ctxGet s (bitsAt c.pkt.w1 0 16)).state = .free) :
    exec (.ctxQuery id) s = .next (finish c 0 0 0 [] s) :=
  startOp_done h (if_pos hfree)

theorem exec_ctxQuery_used (h : Starts 0x0103 id c s) (hused : (ctxGet s (bitsAt c.pkt.w1 0 16)).state ≠ .free) :
    let k := ctxGet s (bitsAt c.pkt.w1 0 16)
    exec (.ctxQuery id) s = .next (finish c 0
      (k.state.code + placed 2 8 k.part + placed 10 8 k.lastReason + placed 32 32 k.lastTick)
      (k.ovfCount + placed 32 1 (bit01 k.ovf) + placed 33 7 (k.awaiting.filter fun r => !r.answered).length) [] s) :=
  startOp_done h (if_neg hused)

end Contexts

section Queues
variable {id : Nat} {c : Cmd} {s : State}

/-- A command that acts for a context which is neither FREE nor DYING meets no refusal for its state. -/
theorem ne_free_ne_dying {k : CtxState} (h : k = .active ∨ k = .faulted) : k ≠ .free ∧ k ≠ .dying := by
  obtain rfl | rfl := h <;> decide

/-! The fields of QUEUE_CREATE's W1 (R461, R476). -/

/-- The queue's number. -/
abbrev newQueue (c : Cmd) : Nat := bitsAt c.pkt.w1 0 20
/-- Its kind: 1 session queue, 2 command queue, 3 and 4 rings. -/
abbrev newKind (c : Cmd) : Nat := bitsAt c.pkt.w1 20 3
/-- The context it is for. -/
abbrev newCtx (c : Cmd) : Nat := bitsAt c.pkt.w1 43 16
/-- The bytes of its entries. -/
abbrev newBytes (c : Cmd) : Nat := 2 ^ bitsAt c.pkt.w1 23 5 * entryBytes (newKind c)
/-- The object that holds them. -/
abbrev newObject (s : State) (c : Cmd) : Nat × Nat := ((ctxGet s c.pkt.ctx).part, orefNum c.pkt.w2)

/-- The descriptor that QUEUE_CREATE enters. -/
def newDesc (s : State) (c : Cmd) (va word : Nat) (host : Bool) : QDesc where
  kind := newKind c
  log2 := bitsAt c.pkt.w1 23 5
  state := 1
  irqEn := bitOn c.pkt.w1 28
  inHost := host
  ctx := newCtx c
  vector := bitsAt c.pkt.w1 29 11
  cplRing := c.pkt.w3
  baseVA := va
  pidxVA := word
  cls := bitsAt c.pkt.w1 40 3
  obj := some (newObject s c)

section Create
variable {va word : Nat} {host : Bool} (hq : 2 ≤ newQueue c) (hx : newCtx c ≠ 0) (hkindLo : 1 ≤ newKind c) (hkindHi : newKind c ≤ 4)
  (hlogLo : 4 ≤ bitsAt c.pkt.w1 23 5) (hlogHi : bitsAt c.pkt.w1 23 5 ≤ 16)
  (halive : (ctxGet s (newCtx c)).state = .active ∨ (ctxGet s (newCtx c)).state = .faulted)
  (hname : mayName s c (newCtx c) = true) (hnew : (queueGet s (newQueue c)).kind = 0)
  (hrange : queueRange s (ctxGet s (newCtx c)).part (newQueue c) = true)
  (hvec : bitsAt c.pkt.w1 29 11 < if (ctxGet s (newCtx c)).part = 0 then 2048 else 64)
  (hring : if newKind c = 2 then cplRingFail s c (newCtx c) c.pkt.w3 = none else c.pkt.w3 = 0)
  (hbase : orefRange s (ctxGet s c.pkt.ctx).part c.pkt.w2 (newBytes c) = .ok (newCtx c, va)) (halign : va % min (newBytes c) 65536 = 0)
  (hword : if 3 ≤ newKind c then orefRange s (ctxGet s c.pkt.ctx).part c.pkt.w4 8 = .ok (newCtx c, word) ∧ word % 8 = 0
      ∧ vaWritable s (newCtx c) word 8 = true
    else c.pkt.w4 = 0 ∧ word = 0)
  (hroom : objFull s (ctxGet s c.pkt.ctx).part (orefNum c.pkt.w2) = false)
  (hpages : queuePages s (newCtx c) va (newBytes c) = some host) (hhost : host = true → 3 ≤ newKind c)

include hring in
/-- A command queue names a completion ring that serves it; any other queue names none. -/
theorem queueRing_sound : (if newKind c = 2 then cplRingFail s c (newCtx c) c.pkt.w3 else none) = none
    ∧ ¬ (newKind c ≠ 2 ∧ c.pkt.w3 ≠ 0) := by
  by_cases hk : newKind c = 2
  · rw [if_pos hk] at hring
    exact ⟨(if_pos hk).trans hring, fun h => h.1 hk⟩
  · rw [if_neg hk] at hring
    exact ⟨if_neg hk, fun h => h.2 hring⟩

include hword in
/-- A ring names a word for its producer index; any other queue names none. -/
theorem queueWord_sound :
    (if newKind c ≥ 3 then orefRange s (ctxGet s c.pkt.ctx).part c.pkt.w4 8 else .ok (newCtx c, 0)) = .ok (newCtx c, word)
    ∧ ¬ (newKind c ≤ 2 ∧ c.pkt.w4 ≠ 0)
    ∧ ¬ (newKind c ≥ 3 ∧ (word % 8 ≠ 0 ∨ (!vaWritable s (newCtx c) word 8) = true)) := by
  by_cases hk : 3 ≤ newKind c
  · rw [if_pos hk] at hword
    obtain ⟨hat, haligned, hwritable⟩ := hword
    exact ⟨(if_pos hk).trans hat, fun h => absurd h.1 (Nat.not_le.2 hk), fun h => by simp [haligned, hwritable] at h⟩
  · rw [if_neg hk] at hword
    obtain ⟨hnone, rfl⟩ := hword
    exact ⟨if_neg hk, fun h => h.2 hnone, fun h => hk h.1⟩

include hq hx hkindLo hkindHi hlogLo hlogHi halive hname hnew hrange hvec hring hbase halign hword hroom hpages hhost

/-- A queue whose form, context, ring, pages and object R460 to R462 and R476 accept enters its table. -/
theorem doQueueCreate_accepts :
    doQueueCreate c s = (.st 0, refTake (newObject s c) (queueSet (newQueue c) (newDesc s c va word host) s)) := by
  obtain ⟨hfree, hdying⟩ := ne_free_ne_dying halive
  obtain ⟨hcpl, hringUse⟩ := queueRing_sound hring
  obtain ⟨hwordAt, hwordUse, hwordOk⟩ := queueWord_sound hword
  have hform : ¬ (newQueue c < 2 ∨ newCtx c = 0 ∨ newKind c = 0 ∨ 4 < newKind c ∨ bitsAt c.pkt.w1 23 5 < 4
      ∨ 16 < bitsAt c.pkt.w1 23 5) := by omega
  have hplaced : ¬ ((!queueRange s (ctxGet s (newCtx c)).part (newQueue c)) = true
      ∨ (!vectorOk (ctxGet s (newCtx c)).part (bitsAt c.pkt.w1 29 11)) = true ∨ newKind c ≠ 2 ∧ c.pkt.w3 ≠ 0
      ∨ newKind c ≤ 2 ∧ c.pkt.w4 ≠ 0) := by
    rintro (h | h | h | h)
    · simp [hrange] at h
    · simp [vectorOk, hvec] at h
    · exact hringUse h
    · exact hwordUse h
  have hmapped : ¬ (newCtx c ≠ newCtx c ∨ newCtx c ≠ newCtx c ∨ va % min (newBytes c) 65536 ≠ 0
      ∨ newKind c ≥ 3 ∧ (word % 8 ≠ 0 ∨ (!vaWritable s (newCtx c) word 8) = true)) := by
    rintro (h | h | h | h)
    · exact h rfl
    · exact h rfl
    · exact h halign
    · exact hwordOk h
  have hside : (host && decide (newKind c ≤ 2)) = false := by
    cases host with
    | false => rfl
    | true => exact decide_eq_false (Nat.not_le.2 (hhost rfl))
  simp only [doQueueCreate, if_neg hform, if_neg hfree, if_neg hdying, if_neg (not_not_intro hnew), if_neg hplaced, if_neg hmapped,
    hname, hcpl, hbase, hwordAt, hpages, hside, hroom, Bool.not_true, Bool.false_eq_true, if_false]
  rfl

theorem exec_queueCreate (h : Starts 0x0110 id c s) : exec (.queueCreate id) s
    = .next (finish c 0 0 0 [] (refTake (newObject s c) (queueSet (newQueue c) (newDesc s c va word host) s))) :=
  startOp_done h (doQueueCreate_accepts hq hx hkindLo hkindHi hlogLo hlogHi halive hname hnew hrange hvec hring hbase halign hword
    hroom hpages hhost)

end Create

theorem exec_queueDestroy (h : Starts 0x0111 id c s) (hq : 2 ≤ bitsAt c.pkt.w1 0 20)
    (hkind : (queueGet s (bitsAt c.pkt.w1 0 20)).kind ≠ 0) (hname : mayName s c (queueGet s (bitsAt c.pkt.w1 0 20)).ctx = true)
    (hring : (queueGet s (bitsAt c.pkt.w1 0 20)).kind = 3
      → s.queues.any (fun e => e.2.kind == 2 && e.2.cplRing == bitsAt c.pkt.w1 0 20) = false) :
    exec (.queueDestroy id) s = .next (sweep (setStep id (.queueEnd (bitsAt c.pkt.w1 0 20))
      (queueMod (bitsAt c.pkt.w1 0 20) (fun d => { d with state := 2 }) s))) := by
  have hunused : ¬ ((queueGet s (bitsAt c.pkt.w1 0 20)).kind = 3
      ∧ s.queues.any (fun e => e.2.kind == 2 && e.2.cplRing == bitsAt c.pkt.w1 0 20) = true) := by
    rintro ⟨hk, hany⟩
    exact Bool.false_ne_true ((hring hk).symm.trans hany)
  refine startOp_wait h ?_
  simp only [doQueueDestroy, if_neg (Nat.not_lt.2 hq), if_neg hkind, if_neg hunused, hname, Bool.not_true, Bool.false_eq_true, if_false]

theorem exec_queueQuery (h : Starts 0x0112 id c s) (hkind : (queueGet s (bitsAt c.pkt.w1 0 20)).kind ≠ 0)
    (hname : mayName s c (queueGet s (bitsAt c.pkt.w1 0 20)).ctx = true) :
    let d := queueGet s (bitsAt c.pkt.w1 0 20)
    exec (.queueQuery id) s = .next (finish c 0 (queueHead d) (d.pidx + d.cidx * 2 ^ 32) [] s) :=
  startOp_done h (by simp only [doQueueQuery, if_neg hkind, hname, Bool.not_true, Bool.false_eq_true, if_false])

end Queues

section Objects
variable {id : Nat} {c : Cmd} {s : State}

theorem exec_objTable (h : Starts 0x0120 id c s) (hlo : 10 ≤ bitsAt c.pkt.w1 8 5) (hhi : bitsAt c.pkt.w1 8 5 ≤ 20)
    (halign : c.pkt.w2 % 65536 = 0) (hoff : (partGet s (bitsAt c.pkt.w1 0 8)).enabled = false)
    (hin : inPart s (bitsAt c.pkt.w1 0 8) c.pkt.w2 (2 ^ bitsAt c.pkt.w1 8 5 * 32) = true) :
    exec (.objTable id) s = .next (finish c 0 0 0 [] (partMod (bitsAt c.pkt.w1 0 8)
      (fun w => { w with table := some (c.pkt.w2, bitsAt c.pkt.w1 8 5) })
      (zeroRange c.pkt.w2 (2 ^ bitsAt c.pkt.w1 8 5 * 32) s))) := by
  have hform : ¬ (bitsAt c.pkt.w1 8 5 < 10 ∨ 20 < bitsAt c.pkt.w1 8 5 ∨ c.pkt.w2 % 65536 ≠ 0) := by omega
  refine startOp_done h ?_
  simp only [doObjTable, if_neg hform, hoff, hin, Bool.not_true, Bool.false_eq_true, if_false]
  rfl

theorem exec_objCreate {e : ObjE} (h : Starts 0x0121 id c s) (hx : bitsAt c.pkt.w1 20 16 ≠ 0) (hbase : c.pkt.w2 % 65536 = 0)
    (hsize : c.pkt.w3 % 65536 = 0) (hlo : 65536 ≤ c.pkt.w3) (hhi : c.pkt.w3 ≤ 2 ^ 40) (hend : c.pkt.w2 + c.pkt.w3 ≤ 2 ^ 57)
    (halive : (ctxGet s (bitsAt c.pkt.w1 20 16)).state = .active ∨ (ctxGet s (bitsAt c.pkt.w1 20 16)).state = .faulted)
    (hname : mayName s c (bitsAt c.pkt.w1 20 16) = true)
    (hnum : objFail s (ctxGet s (bitsAt c.pkt.w1 20 16)).part (bitsAt c.pkt.w1 0 20) = none)
    (hget : objGet s (ctxGet s (bitsAt c.pkt.w1 20 16)).part (bitsAt c.pkt.w1 0 20) = some e) (hfree : e.state = 0) :
    exec (.objCreate id) s = .next (finish c 0 0 0 [] (objPut (ctxGet s (bitsAt c.pkt.w1 20 16)).part (bitsAt c.pkt.w1 0 20)
      { state := 1, href := 1, ctx := bitsAt c.pkt.w1 20 16, dref := 0, base := c.pkt.w2, size := c.pkt.w3 } s)) := by
  obtain ⟨halloc, hdying⟩ := ne_free_ne_dying halive
  have hform : ¬ (bitsAt c.pkt.w1 20 16 = 0 ∨ c.pkt.w2 % 65536 ≠ 0 ∨ c.pkt.w3 % 65536 ≠ 0 ∨ c.pkt.w3 < 65536 ∨ 2 ^ 40 < c.pkt.w3
      ∨ 2 ^ 57 < c.pkt.w2 + c.pkt.w3) := by omega
  refine startOp_done h ?_
  simp only [doObjCreate, if_neg hform, if_neg halloc, if_neg hdying, hname, hnum, hget, hfree, Bool.not_true, Bool.false_eq_true,
    ne_eq, not_true_eq_false, if_false]
  rfl

/-- The object that OBJ_RELEASE and OBJ_QUERY name, in the table of their own context's partition. -/
abbrev ownObject (s : State) (c : Cmd) : Option ObjE := objGet s (ctxGet s c.pkt.ctx).part (bitsAt c.pkt.w1 0 20)

section Named
variable {e : ObjE} (hnum : objFail s (ctxGet s c.pkt.ctx).part (bitsAt c.pkt.w1 0 20) = none) (hget : ownObject s c = some e)
include hnum hget

theorem exec_objRelease (h : Starts 0x0122 id c s) (hlive : e.state = 1) (hown : c.strict = true → e.ctx = c.pkt.ctx) :
    exec (.objRelease id) s = .next (sweep (setStep id (.release (ctxGet s c.pkt.ctx).part (bitsAt c.pkt.w1 0 20)
      (queueMarks s (ctxGet s c.pkt.ctx).part)) s)) := by
  have hallowed : (c.strict && e.ctx != c.pkt.ctx) = false := by
    rw [Bool.and_eq_false_imp]
    intro hstrict
    simp [hown hstrict]
  refine startOp_wait h ?_
  simp only [doObjRelease, hnum, hget, hlive, hallowed, ne_eq, not_true_eq_false, Bool.false_eq_true, if_false]

theorem exec_objQuery (h : Starts 0x0123 id c s) (hown : c.strict = true → e.state ≠ 0 → e.ctx = c.pkt.ctx) :
    exec (.objQuery id) s = .next (finish c 0 (ofLe ((objBytes e).take 8)) e.size [] s) := by
  have hallowed : (c.strict && e.state != 0 && e.ctx != c.pkt.ctx) = false := by
    rw [Bool.and_eq_false_imp]
    intro h
    obtain ⟨hstrict, hused⟩ := Bool.and_eq_true_iff.1 h
    simp [hown hstrict (bne_iff_ne.1 hused)]
  refine startOp_done h ?_
  simp only [doObjQuery, hnum, hget, hallowed, Bool.false_eq_true, if_false]

end Named
end Objects

/-! ### The claim about contexts, queues and objects -/

/-- Settles O12, by the rule of each command. That CTX_QUERY may name another context in strict mode is log entry 42, and that a create
which finds its table full has no resource is log entry 105. -/
theorem contextQueueAndObjectCommandsComplete : Obligations.ContextQueueAndObjectCommandsComplete := by
  unfold Obligations.ContextQueueAndObjectCommandsComplete
  refine ⟨fun id c s h => exec_ctxCreate h, fun id c s h => exec_ctxDestroy h,
    fun id c s h => ⟨exec_ctxQuery_free h, exec_ctxQuery_used h⟩, ?create, fun id c s h => exec_queueDestroy h,
    fun id c s h => exec_queueQuery h, fun id c s h => exec_objTable h, fun id c s e h => exec_objCreate h,
    fun id c s e h hnum hget => exec_objRelease hnum hget h, fun id c s e h hnum hget => exec_objQuery hnum hget h⟩
  case create =>
    intro id c s va word host h w x p tp size hq hx hkindLo hkindHi hlogLo hlogHi halive hname hnew hrange hvec hring hbase halign hword
      hroom hpages hhost
    exact exec_queueCreate hq hx hkindLo hkindHi hlogLo hlogHi halive hname hnew hrange hvec hring hbase halign hword hroom hpages hhost h

end Sys2Proof.Machine
end

section
/-! Fences (R465 to R468, R476): what each fence command answers. -/
namespace Sys2Proof.Machine

section Fences
variable {id : Nat} {c : Cmd} {s : State}

/-- The fence that FENCE_CREATE registers over a word. -/
def newFence (s : State) (c : Cmd) (x va : Nat) (l : Leaf) : Fence where
  addr := l.at va
  host := l.host
  ctx := x
  value := c.pkt.w2
  abandoned := false
  obj := ((ctxGet s c.pkt.ctx).part, orefNum c.pkt.w1)

theorem exec_fenceCreate {x va n : Nat} {l : Leaf} (h : Starts 0x0130 id c s)
    (hword : orefRange s (ctxGet s c.pkt.ctx).part c.pkt.w1 8 = .ok (x, va)) (halign : va % 8 = 0) (hmax : c.pkt.w2 ≤ 2 ^ 63 - 1)
    (hwalk : walk s x va = .ok l) (hx : x ≠ 0) (hwrite : l.write = true) (hpinned : l.pinned = true)
    (hhost : l.host = true → hostPinned s (ctxGet s c.pkt.ctx).part (l.at va) = true)
    (hroom : objFull s (ctxGet s c.pkt.ctx).part (orefNum c.pkt.w1) = false) (hfree : freeFence s = some n) :
    exec (.fenceCreate id) s = .next (finish c 0 n 0 [] (refTake (newFence s c x va l).obj
      (fenceWrite (newFence s c x va l) { s with fences := Map.set s.fences n (newFence s c x va l) }))) := by
  have hform : ¬ (va % 8 ≠ 0 ∨ c.pkt.w2 > fenceMax) := by
    unfold fenceMax
    omega
  have hpage : ¬ (x = 0 ∨ (!l.write) = true ∨ (!l.pinned) = true
      ∨ l.host = true ∧ (!hostPinned s (ctxGet s c.pkt.ctx).part (l.at va)) = true) := by
    rintro (h | h | h | ⟨hl, h⟩)
    · exact hx h
    · simp [hwrite] at h
    · simp [hpinned] at h
    · simp [hhost hl] at h
  refine startOp_done h ?_
  simp only [doFenceCreate, hword, if_neg hform, hwalk, if_neg hpage, hroom, hfree, Bool.false_eq_true, if_false]
  rfl

section Named
variable {f : Fence} (hget : Map.get? s.fences (bitsAt c.pkt.w1 0 18) = some f) (hname : mayName s c f.ctx = true)
include hget hname

/-- A registered fence that the command may name is the one it names. -/
theorem fenceNamed_ok : fenceNamed s c = .ok (bitsAt c.pkt.w1 0 18, f) := by
  simp only [fenceNamed, hget, hname, if_true]

theorem exec_fenceDestroy (h : Starts 0x0131 id c s)
    (hunused : ∀ d ∈ s.cmds, bitsAt d.pkt.w1 0 18 = bitsAt c.pkt.w1 0 18 → ∀ timed, d.step ≠ .fence timed) :
    exec (.fenceDestroy id) s = .next (finish c 0 0 0 []
      (refDrop f.obj { s with fences := Map.erase s.fences (bitsAt c.pkt.w1 0 18) })) := by
  refine startOp_done h ?_
  simp only [doFenceDestroy, fenceNamed_ok hget hname]
  refine if_neg fun hany => ?_
  obtain ⟨d, hd, hwaits⟩ := List.any_eq_true.1 hany
  obtain ⟨hnum, hstep⟩ := Bool.and_eq_true_iff.1 hwaits
  cases hs : d.step with
  | fence timed => exact hunused d hd (beq_iff_eq.1 hnum) timed hs
  | _ => simp [hs] at hstep

theorem exec_fenceQuery (h : Starts 0x0132 id c s) : exec (.fenceQuery id) s = .next (finish c 0 (fenceWord f) f.ctx [] s) :=
  startOp_done h (by simp only [doFenceQuery, fenceNamed_ok hget hname])

section Wait
variable (h : Starts 0x0321 id c s)
include h

/-- A wait for a value the fence has reached is done (R468). -/
theorem exec_fenceWait_reached (hreached : bitsAt c.pkt.w2 0 63 ≤ f.value) :
    exec (.fenceWait id) s = .next (finish c 0 (fenceWord f) 0 [] s) :=
  startOp_done h (by simp only [doFenceWait, fenceNamed_ok hget hname, ge_iff_le, if_pos hreached])

/-- A wait on an abandoned fence that has not reached its value ends as abandoned. -/
theorem exec_fenceWait_abandoned (hbelow : f.value < bitsAt c.pkt.w2 0 63) (habandoned : f.abandoned = true) :
    exec (.fenceWait id) s = .next (finish c 0x10 (fenceWord f) 0 [] s) :=
  startOp_done h (by
    simp only [doFenceWait, fenceNamed_ok hget hname, ge_iff_le, if_neg (Nat.not_le.2 hbelow), habandoned, if_true])

/-- Any other wait goes on, with a timeout where the command gives one. -/
theorem exec_fenceWait_waits (hbelow : f.value < bitsAt c.pkt.w2 0 63) (hlive : f.abandoned = false) :
    exec (.fenceWait id) s = .next (sweep (setStep id (.fence (c.pkt.w3 != 0)) s)) :=
  startOp_wait h (by
    simp only [doFenceWait, fenceNamed_ok hget hname, ge_iff_le, if_neg (Nat.not_le.2 hbelow), hlive, Bool.false_eq_true, if_false])

end Wait
end Named

/-- A signal of a fence that the command may name, or of a number not registered, raises what it finds (R467). -/
theorem doFenceSignal_raises (hname : ∀ f, Map.get? s.fences (bitsAt c.pkt.w1 0 18) = some f → mayName s c f.ctx = true) :
    doFenceSignal c s = (.st 0, fenceRaise (bitsAt c.pkt.w1 0 18) (bitsAt c.pkt.w2 0 63) s) := by
  unfold doFenceSignal
  cases hget : Map.get? s.fences (bitsAt c.pkt.w1 0 18) with
  | none => simp only [fenceNamed, hget]
  | some f => simp only [fenceNamed_ok hget (hname f hget)]

theorem exec_fenceSignal (h : Starts 0x0320 id c s)
    (hname : ∀ f, Map.get? s.fences (bitsAt c.pkt.w1 0 18) = some f → mayName s c f.ctx = true) :
    exec (.fenceSignal id) s = .next (finish c 0 0 0 [] (fenceRaise (bitsAt c.pkt.w1 0 18) (bitsAt c.pkt.w2 0 63) s)) :=
  startOp_done h (doFenceSignal_raises hname)

theorem exec_fenceWaitTimeout {f : Fence} (h : s.Holds id c) (hstep : c.step = .fence true)
    (hget : Map.get? s.fences (bitsAt c.pkt.w1 0 18) = some f) :
    exec (.fenceWaitTimeout id) s = .next (finish c 0x0F (fenceWord f) 0 [] s) := by
  refine congrArg Host.Outcome.next ((onRunning_holds h _).trans ?_)
  simp only [hstep, hget, if_true]

end Fences

/-- Settles O13, by the rule of each command. That a new fence takes the lowest free number is log entry 41. -/
theorem fenceCommandsComplete : Obligations.FenceCommandsComplete := by
  unfold Obligations.FenceCommandsComplete
  exact ⟨fun id c s x va n l h => exec_fenceCreate h, fun id c s f h hget hname => exec_fenceDestroy hget hname h,
    fun id c s f h hget hname => exec_fenceQuery hget hname h, fun id c s h => exec_fenceSignal h,
    fun id c s f h hget hname => ⟨exec_fenceWait_reached hget hname h, exec_fenceWait_abandoned hget hname h,
      exec_fenceWait_waits hget hname h⟩,
    fun id c s f h hstep hget => exec_fenceWaitTimeout h hstep hget⟩

end Sys2Proof.Machine
end

section
/-! Doorbells, command fetch, the end of a teardown, admin queues and coalesced interrupts (R407, R463, R464, R473, R488, R493, R582). -/
namespace Sys2Proof.Machine

/-- A read that touches no lost sector meets none. -/
theorem lostMet_of_sound {s : State} {a n : Nat} (h : lostSector s a n = false) : lostMet a n s = s := by
  have hnone : firstLost s a n = none := by
    unfold lostSector at h
    simpa using h
  simp only [lostMet, hnone]

/-! ### Doorbells (R407, R463) -/

section Doorbell
variable {s : State}

/-- The entry of the doorbell page table that serves a PF page (R407). -/
abbrev bellEntry (s : State) (d : Nat) : Nat := memNat s (fget s F.hostpDbpt_base 0 * 65536 + d * 8) 8

/-- The queue that an offset within a doorbell page selects (R407). -/
abbrev bellQueue (s : State) (d off : Nat) : Nat := bitsAt (bellEntry s d) 17 11 * 512 + off % 4096 / 8

/-- A doorbell that arrives on an open port in its function's stream, at a place that the page table gives to the function, reaches its
queue. -/
theorem exec_doorbell {port fn off d : Nat} {ide : Bool} {v : Word} (hopen : fon s F.hostpPortStatus_contained port = false)
    (hawake : inD3 s port fn = false) (hstream : fget s F.partSec_tdisp fn = 2 → ide = true) (hready : hubReady s = true)
    (hen : fon s F.hostpDbpt_enable 0 = true) (halign : off % 8 = 0) (hpage : doorbellPage s fn (off / 4096) = some d)
    (hsound : lostSector s (fget s F.hostpDbpt_base 0 * 65536 + d * 8) 8 = false) (hvalid : bitOn (bellEntry s d) 0 = true)
    (hfn : bitsAt (bellEntry s d) 28 8 = fn)
    (hctx : strictMode s = true → (queueGet s (bellQueue s d off)).ctx = bitsAt (bellEntry s d) 1 16) :
    exec (.doorbell port fn off 8 ide v) s = .next (doorbellQueue fn (bellQueue s d off) v.toNat s) := by
  have hallowed : ¬ (fget s F.partSec_tdisp fn = 2 ∧ (!ide) = true) := by
    rintro ⟨hrun, hplain⟩
    simp [hstream hrun] at hplain
  have hform : ¬ ((!fon s F.hostpDbpt_enable 0) = true ∨ 8 ≠ 8 ∨ off % 8 ≠ 0) := by simp [hen, halign]
  have hserved : ¬ ((!bitOn (bellEntry s d) 0) = true ∨ bitsAt (bellEntry s d) 28 8 ≠ fn
      ∨ strictMode s = true ∧ (queueGet s (bellQueue s d off)).ctx ≠ bitsAt (bellEntry s d) 1 16) := by
    rintro (h | h | ⟨hs, h⟩)
    · simp [hvalid] at h
    · exact h hfn
    · exact h (hctx hs)
  change execDoorbell port fn off 8 ide v s = _
  unfold execDoorbell
  simp only [hopen, hawake, if_neg hallowed, hready, if_neg hform, hpage, lostMet_of_sound hsound, hsound, if_neg hserved, Bool.or_self,
    Bool.not_true, Bool.false_eq_true, if_false]

section Queue
variable {fn q v : Nat} (hv : v < 2 ^ 32) (hstate : (queueGet s q).state = 1)
  (hctx : (ctxGet s (queueGet s q).ctx).state ≠ .dying)
include hv hstate hctx

theorem doorbell_taken : ¬ (v ≥ 2 ^ 32 ∨ (queueGet s q).state ≠ 1 ∨ (ctxGet s (queueGet s q).ctx).state = .dying) := by
  rintro (h | h | h)
  · exact Nat.not_le.2 hv h
  · exact h hstate
  · exact hctx h

/-- A new producer index within the queue is taken, and a session queue is then ready (R189, R463). -/
theorem doorbellQueue_producer (hkind : (queueGet s q).kind ≤ 2)
    (hahead : diff32 (queueGet s q).pidx (queueGet s q).cidx ≤ diff32 v (queueGet s q).cidx)
    (hroom : diff32 v (queueGet s q).cidx ≤ 2 ^ (queueGet s q).log2) :
    let t := queueMod q (fun d => { d with pidx := v }) s
    doorbellQueue fn q v s
      = if (queueGet s q).kind = 1 ∧ s.ready.contains q = false then { t with ready := q :: t.ready } else t := by
  have hsound : ¬ (diff32 v (queueGet s q).cidx < diff32 (queueGet s q).pidx (queueGet s q).cidx
      ∨ 2 ^ (queueGet s q).log2 < diff32 v (queueGet s q).cidx) := by omega
  simp only [doorbellQueue, if_neg (doorbell_taken hv hstate hctx), if_pos hkind, if_neg hsound, Bool.not_eq_true']
  rfl

/-- A new consumer index that stays behind the producer's is taken (R463). -/
theorem doorbellQueue_consumer (hkind : 3 ≤ (queueGet s q).kind)
    (hbehind : diff32 v (queueGet s q).cidx ≤ diff32 (queueGet s q).pidx (queueGet s q).cidx) :
    doorbellQueue fn q v s = queueMod q (fun d => { d with cidx := v }) s := by
  have hring : ¬ (queueGet s q).kind ≤ 2 := by omega
  simp only [doorbellQueue, if_neg (doorbell_taken hv hstate hctx), if_neg hring, if_neg (Nat.not_lt.2 hbehind)]

end Queue
end Doorbell

/-! ### Fetch, teardown and the timer -/

theorem exec_commandFetch {q a : Nat} {s : State} (hcan : canFetch s q = true)
    (hslot : queueSlot s q (queueGet s q).cidx = some (false, a)) (hsound : lostSector s a 64 = false) :
    exec (.commandFetch q) s = .next (sweep (enterCmd (.queue q) (queueGet s q).cidx (packetIn (memRead s a 64)) [] none
      (queueMod q (fun d => { d with cidx := add32 d.cidx 1 }) (ringReserve (queueGet s q).cplRing 1 s)))) := by
  change execCommandFetch q s = _
  simp only [execCommandFetch, hcan, hslot, hsound, lostMet_of_sound hsound, Bool.not_true, Bool.false_eq_true, if_false]

theorem exec_ctxTeardownEnd {x : Nat} {s : State} (hdying : (ctxGet s x).state = .dying) (hx : x ≠ 0)
    (hidle : contextBusy s x = false) : exec (.ctxTeardownEnd x) s = .next (teardownEnd x s) :=
  congrArg _ (if_pos ⟨hdying, hx, congrArg Bool.not hidle⟩)

theorem exec_irqCoalesceTimer_ring {q : Nat} {s : State} (hwait : (queueGet s q).irqWait = true) :
    let t := queueMod q (fun d => { d with irqWait := false, irqOwed := false }) s
    exec (.irqCoalesceTimer (some q)) s = .next (if (queueGet s q).irqOwed = true then ringIrq q t else t) :=
  congrArg _ (if_neg (by simp [hwait]))

theorem exec_irqCoalesceTimer_errq {s : State} (hwait : s.errIrqWait = true) :
    let t : State := { s with errIrqWait := false, errIrqOwed := false }
    exec (.irqCoalesceTimer none) s = .next (if s.errIrqOwed = true then errIrq t else t) :=
  congrArg _ (if_neg (by simp [hwait]))

/-- Settles O14: a doorbell reaches its queue (`exec_doorbell`) and moves the index of its side, and the other commands do what their rules
say. -/
theorem queueTrafficCommandsComplete : Obligations.QueueTrafficCommandsComplete := by
  unfold Obligations.QueueTrafficCommandsComplete
  refine ⟨?doorbell, fun q a s => exec_commandFetch, fun x s => exec_ctxTeardownEnd, fun q v s hq => congrArg _ (if_pos hq),
    fun q s => exec_irqCoalesceTimer_ring, fun s => exec_irqCoalesceTimer_errq⟩
  case doorbell =>
    intro port fn off d ide v s hopen hawake hstream hready hen halign hpage e q hsound hvalid hfn hctx
    refine ⟨exec_doorbell hopen hawake hstream hready hen halign hpage hsound hvalid hfn hctx, fun hv hstate hlive => ⟨?_, ?_⟩⟩
    · exact doorbellQueue_producer hv hstate hlive
    · exact doorbellQueue_consumer hv hstate hlive

end Sys2Proof.Machine
end

section
/-! Mover transfers, pins, host translations and invalidation (R413 to R416, R474, R476, R478 to R484). -/
namespace Sys2Proof.Machine

section Transfers
variable {id : Nat} {c : Cmd} {m : Move} {s : State}

/-- A transfer whose pages all translate runs (R478). -/
theorem moverTranslate_running (hpages : firstBad s m.pages = none) : moverTranslate c m s = (.running, s) := by
  simp only [moverTranslate, hpages]

theorem doMove_runs (hmove : moveOf s c = .ok m) (hpages : firstBad s m.pages = none) : doMove c s = (.wait .running, s) := by
  simp only [doMove, hmove, moverTranslate_running hpages]

theorem exec_moverComplete {n : Nat} {host : List Byte} {t : State} (h : s.Holds id c) (hstep : c.step = .running)
    (hop : c.pkt.opcode = 0x0201 ∨ c.pkt.opcode = 0x0202) (hmove : moveOf s c = .ok m) (hheld : moveHeld s m = false)
    (hloop : moveLoop c m (m.bytes / 64 + 1) 0 host s = (n, none, t)) :
    exec (.moverComplete id host) s = .next (finish c 0 n 0 []
      (perfCount 0x0A ((Config.freeWord t.fresh).toNat % 9) (ctxGet t c.pkt.ctx).part n (tickFresh t))) := by
  have hruns : ¬ (c.step ≠ .running ∨ c.pkt.opcode ≠ 0x0201 ∧ c.pkt.opcode ≠ 0x0202) := by
    rintro (h | ⟨h1, h2⟩)
    · exact h hstep
    · exact hop.elim h1 h2
  refine congrArg Host.Outcome.next ((onRunning_holds h _).trans ?_)
  simp only [if_neg hruns, hmove, hheld, hloop, Bool.false_eq_true, if_false]

/-! ### Answers to faults (R480, R481) -/

/-- FAULT_REPLY with OVF_CLEAR lets the context record overflows again. -/
def overflowCleared (c : Cmd) (s : State) : State :=
  if bitOn c.pkt.w1 50 then ctxMod (bitsAt c.pkt.w1 0 16) (fun k => { k with ovf := false }) s else s

/-- The state in which the record that FAULT_REPLY names is answered. -/
def faultAnswered (c : Cmd) (s : State) : State := answer (bitsAt c.pkt.w1 0 16) (bitsAt c.pkt.w1 16 32) (overflowCleared c s)

/-- The transfer that waits for the answer of the record that FAULT_REPLY names. -/
def parkedOn (c : Cmd) (s : State) : Option Cmd :=
  s.cmds.find? fun d => d.step == .parked (bitsAt c.pkt.w1 0 16) (bitsAt c.pkt.w1 16 32)

section Reply
variable {r : FaultRec} (hctx : (ctxGet s (bitsAt c.pkt.w1 0 16)).state ≠ .free)
  (hawaits : (ctxGet (overflowCleared c s) (bitsAt c.pkt.w1 0 16)).awaiting.find?
    (fun r => r.seq == bitsAt c.pkt.w1 16 32 && !r.answered) = some r)
include hctx hawaits

/-- A reply whose action fits the record answers it; a parked transfer then goes on where the action is 0 and fails where it is not. -/
theorem doFaultReply_answers (hact : bitsAt c.pkt.w1 48 2 ≠ 3) (hmover : r.mover = true → bitsAt c.pkt.w1 48 2 ≠ 2)
    (hother : r.mover = false → bitsAt c.pkt.w1 48 2 = 2) :
    doFaultReply c s = match parkedOn c (faultAnswered c s) with
      | none => (.st 0, faultAnswered c s)
      | some d => if bitsAt c.pkt.w1 48 2 = 0 then (.st 0, moverRetry d (faultAnswered c s))
        else (.st 0, finish d 0x06 0 0 [] (faultAnswered c s)) := by
  have hfits : ¬ (r.mover = true ∧ bitsAt c.pkt.w1 48 2 = 2 ∨ (!r.mover) = true ∧ bitsAt c.pkt.w1 48 2 ≠ 2) := by
    rintro (⟨hm, h⟩ | ⟨hm, h⟩)
    · exact hmover hm h
    · exact h (hother (Bool.not_eq_true' _ ▸ hm))
  unfold overflowCleared at hawaits
  simp only [doFaultReply, if_neg hctx, if_neg hact, hawaits, if_neg hfits]
  rfl

section Mover
variable {d : Cmd} (h : Starts 0x0105 id c s) (hmover : r.mover = true) (hparked : parkedOn c (faultAnswered c s) = some d)
include h hmover hparked

theorem exec_faultReply_retry (hact : bitsAt c.pkt.w1 48 2 = 0) :
    exec (.faultReply id) s = .next (finish c 0 0 0 [] (moverRetry d (faultAnswered c s))) := by
  refine startOp_done h ?_
  rw [doFaultReply_answers hctx hawaits (by omega) (fun _ => by omega) (fun hm => by simp [hm] at hmover), hparked]
  exact if_pos hact

theorem exec_faultReply_fail (hact : bitsAt c.pkt.w1 48 2 = 1) :
    exec (.faultReply id) s = .next (finish c 0 0 0 [] (finish d 0x06 0 0 [] (faultAnswered c s))) := by
  refine startOp_done h ?_
  rw [doFaultReply_answers hctx hawaits (by omega) (fun _ => by omega) (fun hm => by simp [hm] at hmover), hparked]
  exact if_neg (by omega)

end Mover

theorem exec_faultReply_tile (h : Starts 0x0105 id c s) (hother : r.mover = false) (hact : bitsAt c.pkt.w1 48 2 = 2)
    (hparked : parkedOn c (faultAnswered c s) = none) :
    exec (.faultReply id) s = .next (finish c 0 0 0 [] (faultAnswered c s)) := by
  refine startOp_done h ?_
  rw [doFaultReply_answers hctx hawaits (by omega) (fun hm => by simp [hm] at hother) (fun _ => hact), hparked]
  rfl

end Reply

/-! ### Pins and host translations (R413 to R415) -/

/-- The pins of a range that are not held yet are added. -/
def pagesPinned (x va n : Nat) (s : State) : State :=
  { s with pins := s.pins ++ (pinsOf s x va n).filter fun k => !(s.pins.any fun j => j.ctx == k.ctx && j.page == k.page) }

theorem exec_pinHost {x va : Nat} (h : Starts 0x0204 id c s) (hmove : moveOf s c = .ok m) (hsrc : m.src = some (x, va))
    (hpages : firstBad s m.pages = none)
    (hroom : ((pagesPinned x va m.bytes s).atc.filter fun e =>
      e.port == boundPort s (ctxGet s x).part && atcPinned (pagesPinned x va m.bytes s) e).length ≤ 65536) :
    exec (.pinHost id) s = .next (finish c 0 (pinEntries (pagesPinned x va m.bytes s) x va m.bytes).length 0 []
      (setAts (boundPort s (ctxGet s x).part) (pagesPinned x va m.bytes s))) := by
  refine startOp_done h ?_
  simp only [doPinHost, hmove, moverTranslate_running hpages, hsrc]
  exact if_neg (Nat.not_lt.2 hroom)

theorem exec_unpinHost {x va : Nat} (h : Starts 0x0205 id c s)
    (horef : orefRange s (ctxGet s c.pkt.ctx).part c.pkt.w1 c.pkt.w2 = .ok (x, va)) (hsome : c.pkt.w2 ≠ 0) :
    exec (.unpinHost id) s = .next (finish c 0 0 0 []
      (unpinPages x (fun k => decide (va / 65536 ≤ k ∧ k ≤ (va + c.pkt.w2 - 1) / 65536)) s)) :=
  startOp_done h (by simp only [doUnpinHost, horef, if_neg hsome]; rfl)

theorem atcRoom_cmds (port : Nat) (s : State) : (atcRoom port s).cmds = s.cmds := by
  unfold atcRoom
  split
  · rfl
  · split
    · rfl
    · rfl

/-- A translation that no command waits for joins the cache of its port (R414, R415). -/
theorem exec_atsTranslationCompletion {part page log2 dest : Nat} {write : Bool} (hlo : 12 ≤ log2) (hhi : log2 ≤ 30)
    (hidle : s.cmds.filter (·.step == .ats) = []) :
    let port := boundPort s part
    let r := atcRoom port { s with atc := s.atc.filter fun e => !(e.part == part && e.page == page * 4096 / 2 ^ e.log2) }
    let e : Atc := { port := port, part := part, page := page * 4096 / 2 ^ log2, log2 := log2, dest := dest * 4096 / 2 ^ log2
                     write := write }
    exec (.atsTranslationCompletion part page log2 (some dest) write) s = .next (setAts port { r with atc := r.atc ++ [e] }) := by
  intro port r e
  have hsize : ¬ (log2 < 12 ∨ 30 < log2) := by omega
  have hwaits : (setAts port { r with atc := r.atc ++ [e] }).cmds.filter (·.step == .ats) = [] := by
    have hcmds : (setAts port { r with atc := r.atc ++ [e] }).cmds = s.cmds := atcRoom_cmds port _
    rw [hcmds, hidle]
  change execAtsTranslationCompletion part page log2 (some dest) write s = _
  unfold execAtsTranslationCompletion
  refine congrArg Host.Outcome.next ((if_neg hsize).trans ?_)
  change List.foldl _ _ ((setAts port { r with atc := r.atc ++ [e] }).cmds.filter (·.step == .ats)) = _
  rw [hwaits]
  rfl

/-! ### Invalidation (R484) -/

/-- What INVALIDATE marks and releases for the pages from `first` to `last` of a context. -/
def invalidated (x first last : Nat) (s : State) : State :=
  unpinPages x (fun g => decide (first ≤ g ∧ g ≤ last)) (markStaged x first last (markTiles x first last s))

theorem exec_invalidate (h : Starts 0x0203 id c s) (hx : bitsAt c.pkt.w1 0 16 ≠ 0) (hbase : c.pkt.w2 % 65536 = 0)
    (hsize : c.pkt.w3 % 65536 = 0) (hend : c.pkt.w2 + c.pkt.w3 ≤ 2 ^ 57) (hsome : c.pkt.w3 ≠ 0)
    (hctx : (ctxGet s (bitsAt c.pkt.w1 0 16)).state ≠ .free) (hname : mayName s c (bitsAt c.pkt.w1 0 16) = true) :
    let w := partGet s (ctxGet s (bitsAt c.pkt.w1 0 16)).part
    let t := invalidated (bitsAt c.pkt.w1 0 16) (c.pkt.w2 / 65536) ((c.pkt.w2 + c.pkt.w3) / 65536 - 1) s
    exec (.invalidate id) s = .next (sweep (setStep id
      (.drain t.edges w.workTick (ctxGet s (bitsAt c.pkt.w1 0 16)).part (w.live || w.undecided)) t)) := by
  have hform : ¬ (bitsAt c.pkt.w1 0 16 = 0 ∨ c.pkt.w2 % 65536 ≠ 0 ∨ c.pkt.w3 % 65536 ≠ 0 ∨ c.pkt.w2 + c.pkt.w3 > 2 ^ 57) := by omega
  refine startOp_wait h ?_
  simp only [doInvalidate, if_neg hform, if_neg hctx, hname, if_neg hsome, Bool.not_true, Bool.false_eq_true, if_false]
  rfl

theorem exec_invalidateDrained {e tick p : Nat} {live : Bool} (h : s.Holds id c) (hstep : c.step = .drain e tick p live)
    (hdrained : drained s e tick p live = true) : exec (.invalidateDrained id) s = .next (finish c 0 0 0 [] s) := by
  refine congrArg Host.Outcome.next ((onRunning_holds h _).trans ?_)
  simp only [hstep, hdrained, if_true]

end Transfers

/-- Settles O15, by the rule of each command. That the mover which counts a transfer is a free one is log entry 44. -/
theorem moverAndInvalidationCommandsComplete : Obligations.MoverAndInvalidationCommandsComplete := by
  unfold Obligations.MoverAndInvalidationCommandsComplete
  refine ⟨fun id c m s hmove hpages => ⟨fun h => startOp_wait h (doMove_runs hmove hpages),
      fun h => startOp_wait h (doMove_runs hmove hpages)⟩, fun id n c m host s t => exec_moverComplete, ?reply,
    fun id x va c m s h hmove hsrc hpages => exec_pinHost h hmove hsrc hpages, fun id x va c s => exec_unpinHost,
    fun part page log2 dest write s => exec_atsTranslationCompletion, fun id c s => exec_invalidate,
    fun id e tick p live c s => exec_invalidateDrained⟩
  case reply =>
    intro id c d r s h x seq act t a hctx hawaits
    exact ⟨fun hmover _ hparked => ⟨exec_faultReply_retry hctx hawaits h hmover hparked,
        exec_faultReply_fail hctx hawaits h hmover hparked⟩,
      fun hother hact hparked => exec_faultReply_tile hctx hawaits h hother hact hparked⟩

end Sys2Proof.Machine
end

section
/-! Host links, resets of ports and functions, and power states (R400, R401, R426, R430 to R436, R442, R443): what each event does. -/
namespace Sys2Proof.Machine

section Port
variable {port : Nat} {s : State}

/-! ### A port in DL_Active -/

section Active
variable (hact : dlActive s port = true)
include hact

theorem exec_dlActiveLoss : exec (.dlActiveLoss port false) s = .next (linkDown port 1 s) :=
  congrArg _ ((if_pos hact).trans (if_neg Bool.false_ne_true))

theorem exec_dlActiveLoss_surprise : exec (.dlActiveLoss port true) s = .next (portError port 5 (linkDown port 1 s)) :=
  congrArg _ ((if_pos hact).trans (if_pos rfl))

/-- What a function-level reset leaves of a function's configuration space, vectors, power state and keys (R436). -/
def functionCleared (port fn : Nat) (t : State) : State :=
  { t with
    cfgSpace := Map.keep t.cfgSpace fun k => decide (k / 2 ^ 12 ≠ port * 256 + fn)
    msix := Map.keep t.msix fun k => decide (k / 2 ^ 16 ≠ port * 256 + fn)
    pba := t.pba.filter fun k => decide (k / 2 ^ 12 ≠ port * 256 + fn)
    d3 := t.d3.filter fun k => k != port * 256 + fn
    ide := Map.erase t.ide fn }

omit hact in
theorem functionCleared_confidential (fn q : Nat) (t : State) :
    confidential (functionCleared port fn t) q = confidential t q := confidential_congr rfl

/-- A function that is not confidential is reset with its partition, whose contexts go in silence. -/
theorem exec_functionLevelReset {fn : Nat} (hfn : fn < 256)
    (hplain : confidential (tearSilent (· == fn) (resetPartition fn s)) fn = false) (hvf : fn ≠ 0) :
    exec (.functionLevelReset port fn) s = .next (functionCleared port fn (tearSilent (· == fn) (resetPartition fn s))) := by
  have hserved : ¬ ((!dlActive s port) = true ∨ fn ≥ 256) := by simp [hact, hfn]
  have hkept : confidential (functionCleared port fn (tearSilent (· == fn) (resetPartition fn s))) fn = false :=
    (functionCleared_confidential ..).trans hplain
  change execFunctionLevelReset port fn s = _
  unfold execFunctionLevelReset
  rw [if_neg hserved]
  simp only [if_neg hvf]
  exact congrArg Host.Outcome.next (if_neg (Bool.eq_false_iff.1 hkept))

section Read
variable (hopen : fon s F.hostpPortStatus_contained port = false) (part n : Nat)
include hopen

/-- The bytes of a read count at a port that is not contained. -/
theorem exec_hubReadCompletion : exec (.hubReadCompletion port part n false) s
    = .next (fwrap F.hostpRxbytes_count F.hostpRxbytes_ovf port n (linkWake port s)) :=
  congrArg _ ((if_neg (by simp [hact, hopen])).trans (if_neg Bool.false_ne_true))

/-- A poisoned read also spoils the tick and is a containment cause (R426, R430). -/
theorem exec_hubReadCompletion_poisoned : exec (.hubReadCompletion port part n true) s
    = .next (portError port 3 (spoil part (.link (0x40000 + port)) false
        (fwrap F.hostpRxbytes_count F.hostpRxbytes_ovf port n (linkWake port s)))) :=
  congrArg _ ((if_neg (by simp [hact, hopen])).trans (if_pos rfl))

end Read
end Active

/-! ### A host port -/

section HostPort
variable (hport : isPort s port = true)
include hport

/-- A port that has trained in flit mode. -/
def linkTrained (port rate width cxl : Nat) (s : State) : State :=
  setUp (fset F.hostpPortStatus_cxl port (cxl % 8) (fset F.hostpPortStatus_flit port 1
    (fset F.hostpPortStatus_width port width (fset F.hostpPortStatus_rate port rate (fset F.hostpPortStatus_lstate port 3 s)))))

theorem exec_dlActiveUp (rate width cxl : Nat) (htraining : lstate s port = 2) (hlo : 1 ≤ rate) (hhi : rate ≤ 6)
    (hwidth : width ∈ [4, 8, 16]) :
    let t := linkTrained port rate width cxl s
    exec (.dlActiveUp port rate width true cxl) s
      = .next (sendHeld port (if fget t F.hostpHubStatus_up 0 ≠ 0 then fset F.hostpHubStatus_downMs 0 0 t else t)) := by
  have htrains : isPort s port = true ∧ lstate s port = 2 ∧ 1 ≤ rate ∧ rate ≤ 6 ∧ [4, 8, 16].contains width = true :=
    ⟨hport, htraining, hlo, hhi, List.contains_iff_mem.2 hwidth⟩
  exact congrArg _ (if_pos htrains)

theorem exec_l0sEntry (hlive : lstate s port = 3) (hplain : fon s F.hostpPortStatus_flit port = false) :
    exec (.l0sEntry port) s = .next (fset F.hostpPortStatus_lstate port 4 s) :=
  congrArg _ (if_pos ⟨hport, hlive, congrArg Bool.not hplain⟩)

theorem exec_l1Entry (hlive : lstate s port = 3 ∨ lstate s port = 4) :
    exec (.l1Entry port) s = .next (fset F.hostpPortStatus_lstate port 5 s) :=
  congrArg _ (if_pos ⟨hport, hlive⟩)

theorem exec_l1EarlyExit (hasleep : lstate s port = 5) (hen : fon s F.hostpPortCtrl_l1EarlyExit port = true) :
    exec (.l1EarlyExit port) s = .next (fset F.hostpPortStatus_lstate port 3 s) :=
  congrArg _ ((if_pos ⟨hport, hasleep, hen⟩).trans (if_pos (.inr hasleep)))

theorem exec_completionTimeout (part : Nat) : exec (.completionTimeout port part) s
    = .next (portError port 4 (spoil part (.link (0x40000 + port)) false s)) :=
  congrArg _ (if_pos hport)

theorem exec_hostpPortRelease (via : Option Nat) (hvia : via ≠ some port) :
    exec (.hostpPortRelease port via) s = .next (portRelease port s) :=
  congrArg _ (if_pos ⟨hport, hvia⟩)

theorem exec_hostpPortRetrain : exec (.hostpPortRetrain port) s = .next (portRetrain port s) :=
  congrArg _ (if_pos hport)

/-- Each kind of fundamental reset takes the link down and resets the port's host side; the pin also asserts PERST_N (R436). -/
theorem exec_fundamentalReset :
    exec (.fundamentalReset port 0) s
      = .next (portHostReset port false (linkDown port 1 { s with perst := s.perst.filter (· != port) }))
    ∧ exec (.fundamentalReset port 1) s = .next (portHostReset port false (linkDown port 2 s))
    ∧ exec (.fundamentalReset port 2) s = .next (portHostReset port false (linkDown port 1 s)) := by
  have hasserted : ¬ (!isPort { s with perst := s.perst.filter (· != port) } port) = true := by
    change ¬ (!isPort s port) = true
    simp [hport]
  have hserved : ¬ (!isPort s port) = true := by simp [hport]
  exact ⟨congrArg _ (if_neg hasserted), congrArg _ (if_neg hserved), congrArg _ (if_neg hserved)⟩

theorem exec_d3hotEntry (fn : Nat) (hfn : fn < 256) (hvf : fn ≠ 0) (hawake : s.d3.contains (port * 256 + fn) = false) :
    exec (.d3hotEntry port fn) s
      = .next (markWait (emit .host 0x20 [port, fn] [] { s with d3 := s.d3 ++ [port * 256 + fn] })) := by
  have hserved : ¬ ((!isPort s port) = true ∨ fn ≥ 256) := by simp [hport, hfn]
  change execD3hotEntry port fn s = _
  simp only [execD3hotEntry, if_neg hserved, if_neg hvf, hawake, Bool.false_eq_true, if_false]

theorem exec_d0Return (fn : Nat) (hasleep : s.d3.contains (port * 256 + fn) = true) (hvf : fn ≠ 0) :
    exec (.d0Return port fn) s = .next (sendHeld port { s with d3 := s.d3.filter (· != port * 256 + fn) }) := by
  have hserved : ¬ ((!isPort s port) = true ∨ (!s.d3.contains (port * 256 + fn)) = true) := by
    rw [hport, hasleep]
    simp
  change execD0Return port fn s = _
  simp only [execD0Return, if_neg hserved, if_neg hvf]

end HostPort

/-! ### PERST_N and D3cold (R434, R435, R546) -/

section Perst
variable (hslot : port < 4) (hheld : s.perst.contains port = false)
include hslot hheld

/-- A port that comes out of fundamental reset ends a wake request, and trains once bring-up step 4 has ended. -/
theorem exec_perstDeassert :
    let t := emit .pin 0x06 [0] [] { s with perst := s.perst ++ [port], wakeLow := false }
    exec (.perstDeassert port) s = .next (if lstate t port = 1 ∧ fget t F.bootStatus_step 0 > 4 then
      fset F.hostpPortStatus_lstate port 2 t else t) := by
  change execPerstDeassert port s = _
  simp only [execPerstDeassert, if_neg (Nat.not_le.2 hslot), hheld, Bool.false_eq_true, if_false]

end Perst

/-- D3cold: main power goes, and the configuration, the identity and the flash stay as the start before left them (R434). -/
theorem exec_d3coldEntry (hasleep : allD3 s = true) (hmain : fon s F.pwrStatus_mainOn 0 = true) :
    ∃ t, exec .d3coldEntry s = .next t ∧ t.cold = true ∧ t.cfg = s.cfg ∧ t.ident = s.ident ∧ t.flash = s.flash
      ∧ t.mem = (powerOn false s).mem := by
  have hserved : ¬ ((!allD3 s) = true ∨ (!fon s F.pwrStatus_mainOn 0) = true) := by simp [hasleep, hmain]
  exact ⟨_, congrArg Host.Outcome.next (if_neg hserved), rfl, rfl, rfl, rfl, rfl⟩

end Port

/-- Settles O35, by the rule of each event. That a function-level reset tears its contexts down in silence is log entry 67, and that the
records and the identity outlast D3cold is log entry 70. -/
theorem hostLinkAndPowerEventsComplete : Obligations.HostLinkAndPowerEventsComplete := by
  unfold Obligations.HostLinkAndPowerEventsComplete
  refine ⟨fun port s hact => ⟨exec_dlActiveLoss hact, exec_dlActiveLoss_surprise hact,
      fun fn hfn hplain hvf => exec_functionLevelReset hact hfn hplain hvf,
      fun hopen part n => ⟨exec_hubReadCompletion hact hopen part n, exec_hubReadCompletion_poisoned hact hopen part n⟩⟩,
    fun port s hport => ⟨exec_dlActiveUp hport, exec_l0sEntry hport, exec_l1Entry hport, exec_l1EarlyExit hport,
      exec_completionTimeout hport, exec_hostpPortRelease hport, exec_hostpPortRetrain hport, exec_fundamentalReset hport,
      exec_d3hotEntry hport, exec_d0Return hport⟩, ?perst, fun s => exec_d3coldEntry⟩
  case perst =>
    intro port s hslot hheld t
    exact ⟨fun hdown hstep => (exec_perstDeassert hslot hheld).trans (congrArg _ (if_pos ⟨hdown, hstep⟩)),
      fun hup => (exec_perstDeassert hslot hheld).trans (congrArg _ (if_neg fun h => hup h.1))⟩

end Sys2Proof.Machine
end

section
/-! The error queue and its log, sensors, counters, perturbation and traces (R435, R476, R486, R554, R564, R566, R573, R581, R583, R589 to
R597): what each command answers. -/
namespace Sys2Proof.Machine

/-! ### The error queue (R573, R579, R581, R583) -/

section ErrorQueue
variable {s : State}

/-- A write of CIDX that stays behind PIDX frees the records before it. -/
theorem exec_errqCidxWrite {v : Word} (h : diff32 (bitsAt v.toNat 0 32) (fget s F.errqCidx_index 0)
      ≤ diff32 (fget s F.errqPidx_index 0) (fget s F.errqCidx_index 0)) :
    exec (.errqCidxWrite v) s = .next (errFreed (fset F.errqCidx_index 0 (bitsAt v.toNat 0 32) s)) :=
  congrArg _ (if_pos h)

/-- The flash log with one more record, the oldest leaving where it is full (R581). -/
def logWith (r : ErrRec) (s : State) : List ErrRec := (s.flash.log ++ [r]).drop ((s.flash.log ++ [r]).length - logRoom)

theorem exec_errorLogAppend {r : ErrRec} (hsome : fget s F.errqLidx_index 0 ≠ fget s F.errqPidx_index 0)
    (hok : fon s F.errqStatus_logOk 0 = true) (hget : Map.get? s.errq (fget s F.errqLidx_index 0 % 4096) = some r)
    (hseq : r.seq = fget s F.errqLidx_index 0) :
    let t : State := { s with flash := { s.flash with log := logWith r s } }
    let u := ((logWith r s).length - 1) / 64
    exec .errorLogAppend s = .next (errFreed (fset F.errqLidx_index 0 (add32 (fget s F.errqLidx_index 0) 1)
      (emit .part 2 [u] (userUnit t u) t))) := by
  have hserved : ¬ (fget s F.errqLidx_index 0 = fget s F.errqPidx_index 0 ∨ (!fon s F.errqStatus_logOk 0) = true) := by
    simp [hsome, hok]
  change execErrorLogAppend s = _
  simp only [execErrorLogAppend, if_neg hserved, hget, if_pos hseq]
  rfl

section Read
variable {id : Nat} {c : Cmd} (h : Starts 0x0605 id c s) (hmain : mainOn s = true) (hsrc : c.src = .mgmt)

/-- The records that ERRQ_READ copies to the management controller (R583). -/
def mgmtRecords (c : Cmd) (s : State) : List ErrRec :=
  (errFrom s (errIdx s s.errMgmt)).take (min (bitsAt c.pkt.w1 0 13) (dataRoom c / 64))

include h hmain hsrc

theorem exec_errqRead_none (hnone : mgmtRecords c s = []) :
    exec (.errqRead id) s = .next (finish c 0 0 0 [] { s with errMgmt := errIdx s s.errMgmt }) := by
  unfold mgmtRecords at hnone
  exact startOp_done h (by simp [hmain, hsrc, hnone])

/-- The management controller's own index moves past the last record copied. -/
theorem exec_errqRead_some (r : ErrRec) (hlast : (mgmtRecords c s).getLast? = some r) :
    exec (.errqRead id) s = .next (finish c 0 (mgmtRecords c s).length 0 ((mgmtRecords c s).flatMap errBytes)
      { s with errMgmt := add32 r.seq 1 }) := by
  unfold mgmtRecords at hlast ⊢
  exact startOp_done h (by simp only [hmain, hsrc, hlast, Bool.not_true, Bool.false_eq_true, if_false, beq_self_eq_true, if_true])

end Read
end ErrorQueue

/-! ### Sensors, the ledger, WAKE and STRICT (R435, R486, R564, R566) -/

section Commands
variable {id : Nat} {c : Cmd} {s : State}

/-- The hottest temperature and core voltages are sensors of the main side (R564). -/
theorem sensorSide_main : sensorSide 0x300 = some false ∧ sensorSide 0x310 = some false := by decide

theorem exec_sensorRead (h : Starts 0x0604 id c s) (hmain : mainOn s = true)
    (hside : sensorSide (bitsAt c.pkt.w1 0 16) = some false) :
    exec (.sensorRead id) s = .next (finish c 0 (sensorValue s (bitsAt c.pkt.w1 0 16)).1 0 []
      (sensorValue s (bitsAt c.pkt.w1 0 16)).2) :=
  startOp_done h (by simp only [hside, hmain]; rfl)

theorem exec_sensorRead_hottest (h : Starts 0x0604 id c s) (hmain : mainOn s = true) (hnum : bitsAt c.pkt.w1 0 16 = 0x300) :
    exec (.sensorRead id) s = .next (finish c 0 (fget s F.pwrStatus_hotTemp 0) 0 [] s) := by
  rw [exec_sensorRead h hmain (hnum ▸ sensorSide_main.1), hnum]
  rfl

theorem exec_sensorRead_outside (h : Starts 0x0604 id c s) (hmain : mainOn s = true) (hnum : bitsAt c.pkt.w1 0 16 = 0x310) :
    exec (.sensorRead id) s = .next (finish c 0 (Config.sensor 0x310 s.fresh % 2 ^ 64) 0 [] (tickFresh s)) := by
  rw [exec_sensorRead h hmain (hnum ▸ sensorSide_main.2), hnum]
  rfl

/-- An empty ledger of sequence number 1 stands in both copies (R566). -/
def ledgerEmptied (s : State) : State :=
  { s with ledger := { seq := 1 }, ledgerA := some (ledgerCopy { seq := 1 }), ledgerB := some (ledgerCopy { seq := 1 })
           ledgerBusy := none, ledgerDirty := false }

theorem exec_ledgerAccept {host b : List Byte} (h : Starts 0x0606 id c s) (hdata : dataIn s c host = .ok b) (hmain : mainOn s = true)
    (hstate : fget s F.bootStatus_hubState 0 ≠ 2) (hwait : fon s F.bootStatus_ledgerWait 0 = true)
    (htoken : tokenOk s 0x44584C41 b = true) (hcaps : recAt b 80 4 = 0) :
    exec (.ledgerAccept id host) s = .next (finish c 0 0 0 []
      (fset F.memStatus_ledgerOk 0 1 (fset F.bootStatus_ledgerWait 0 0 (ledgerEmptied s)))) := by
  have hready : ¬ ((!mainOn s) = true ∨ fget s F.bootStatus_hubState 0 = 2) := by simp [hmain, hstate]
  have hsigned : ¬ ((!tokenOk s 0x44584C41 b) = true ∨ recAt b 80 4 ≠ 0) := by simp [htoken, hcaps]
  refine startOp_done h ?_
  simp only [hdata, if_neg hready, hwait, if_neg hsigned, Bool.not_true, Bool.false_eq_true, if_false]
  rfl

/-! ### Perturbation, known-answer tests and traces (R344, R348, R554, R591 to R597) -/

theorem exec_perturbSet (h : Starts 0x0701 id c s) (halign : c.pkt.w1 % 8 = 0) (hreg : c.pkt.w1 / 8 ≤ 5)
    (hplain : confidential s (ctxGet s c.pkt.ctx).part = false)
    (hallowed : tpRefused s (c.pkt.w1 / 8) (BitVec.ofNat 64 c.pkt.w2).toNat = false) :
    exec (.perturbSet id) s = .next (finish c 0 0 0 [] (writeTp (c.pkt.w1 / 8) (BitVec.ofNat 64 c.pkt.w2) s)) := by
  have hform : ¬ (c.pkt.w1 % 8 ≠ 0 ∨ c.pkt.w1 / 8 > 5) := by omega
  refine startOp_done h ?_
  simp only [if_neg hform, hplain, hallowed, Bool.false_eq_true, false_and, or_self, if_false]
  rfl

theorem exec_katRun (h : Starts 0x0703 id c s) (hallowed : testRefused s c = false) :
    exec (.katRun id) s = .next (finish c 0 (Config.freeWord s.fresh).toNat 0 [] (tickFresh s)) :=
  startOp_done h (by simp only [hallowed, Bool.false_eq_true, if_false])

theorem exec_traceRead (h : Starts 0x0704 id c s) (hallowed : testRefused s c = false) (hfield : bitsAt c.pkt.w1 0 4 ≤ 8) :
    let l := (traceOf s (bitsAt c.pkt.w1 0 4)).take (dataRoom c / 32)
    exec (.traceRead id) s = .next (finish c 0 l.length 0 l.flatten s) :=
  startOp_done h (by simp only [hallowed, if_neg (Nat.not_lt.2 hfield), Bool.false_eq_true, if_false])

end Commands

section Registers
variable {s : State}

theorem exec_perfCtrlSnap {v : Word} (hsnap : bitOn v.toNat 1 = true) :
    let t := fset F.perfCtrl_freeze 0 (bitsAt v.toNat 0 1) s
    exec (.perfCtrlSnap v) s = .next (if isMember t = true then { t with snapOwed := true } else perfSnapshot t) :=
  congrArg _ ((if_pos hsnap).trans (if_neg (by simp [hsnap])))

section Perturb
variable {k : Nat} {v : Word} (hk : k < 6)
include hk

theorem exec_tpWrite_refused (hrefused : tpRefused s k v.toNat = true) :
    exec (.tpWrite k v) s = .next (logErr { code := 0x0B06, cls := clsRefused } (fset F.tpStatus_refused 0 1 s)) :=
  congrArg _ ((if_pos hk).trans (if_pos hrefused))

section Taken
variable (htaken : tpRefused s k v.toNat = false) (hplain : k ≠ 3)
include htaken hplain

/-- A write of a register other than TP_LINK asks for no retraining; in a domain it waits for the edge (R592). -/
theorem exec_tpWrite_member (hmember : isMember s = true) : exec (.tpWrite k v) s
    = .next { s with tpOwed := s.tpOwed.filter (·.1 != k) ++ [(k, BitVec.ofNat 64 (bitsAt v.toNat 0 (tpMask k)))] } := by
  have hkeeps : ¬ (k = 3 ∧ bitOn v.toNat 28 = true) := fun h => hplain h.1
  change execTpWrite k v s = _
  simp only [execTpWrite, if_pos hk, writeTp, htaken, if_neg hkeeps, hmember, Bool.false_eq_true, if_false, if_true]

/-- Outside a domain it acts at once. -/
theorem exec_tpWrite_alone {r : RegName} (halone : isMember s = false) (hr : tpRegs[k]? = some r) :
    exec (.tpWrite k v) s = .next (tpActive (rset s r 0 (BitVec.ofNat 64 (bitsAt v.toNat 0 (tpMask k))))) := by
  have hkeeps : ¬ (k = 3 ∧ bitOn v.toNat 28 = true) := fun h => hplain h.1
  change execTpWrite k v s = _
  simp only [execTpWrite, if_pos hk, writeTp, htaken, if_neg hkeeps, halone, hr, Bool.false_eq_true, if_false]

end Taken
end Perturb

section Retrain
variable {target at_ : Nat} (hdue : isMember s = false ∨ at_ < s.edges)
include hdue

theorem retrain_due : ¬ (isMember s = true ∧ s.edges ≤ at_) := by
  rintro ⟨hmember, hedge⟩
  obtain h | h := hdue
  · exact Bool.false_ne_true (h.symm.trans hmember)
  · exact Nat.not_le.2 h hedge

theorem exec_tpLinkRetrain_module (howed : s.retrainOwed = some (1, target, at_)) (htarget : target < 96)
    (hactive : fget s F.mtModule_state target = 5) :
    exec .tpLinkRetrain s = .next (fset F.mtModule_state target 6 { s with retrainOwed := none }) := by
  change execTpLinkRetrain s = _
  simp only [execTpLinkRetrain, howed, if_neg (retrain_due hdue)]
  exact congrArg _ (if_pos ⟨htarget, hactive⟩)

theorem exec_tpLinkRetrain_crossing (howed : s.retrainOwed = some (2, target, at_)) :
    exec .tpLinkRetrain s = .next (emit .link 0x50 [target] [] { s with retrainOwed := none }) := by
  change execTpLinkRetrain s = _
  simp only [execTpLinkRetrain, howed, if_neg (retrain_due hdue)]

end Retrain
end Registers

/-- Settles O42, by the rule of each command. That the flash log's data unit of a record is its place in the log is log entry 104; the free
values that KAT_RUN and a sensor answer are those of log entries 76 and 92. -/
theorem errorCounterAndTestCommandsComplete : Obligations.ErrorCounterAndTestCommandsComplete := by
  unfold Obligations.ErrorCounterAndTestCommandsComplete
  refine ⟨fun v s => exec_errqCidxWrite, fun r s => exec_errorLogAppend,
    fun id c s h hmain hsrc => ⟨exec_errqRead_none h hmain hsrc, exec_errqRead_some h hmain hsrc⟩,
    fun id c s h hmain => ⟨exec_sensorRead_hottest h hmain, exec_sensorRead_outside h hmain⟩,
    fun id c host b s => exec_ledgerAccept, ?commands, fun i v s hi => congrArg _ (if_pos hi), fun v s => exec_perfCtrlSnap,
    fun k v s hk => ⟨exec_tpWrite_refused hk, exec_tpWrite_member hk, fun r htaken hplain => exec_tpWrite_alone hk htaken hplain⟩,
    fun target at_ s hdue => ⟨exec_tpLinkRetrain_module hdue, exec_tpLinkRetrain_crossing hdue⟩⟩
  case commands =>
    exact fun id c s => ⟨fun h => startOp_done h rfl, fun h => startOp_done h rfl, fun h => startOp_done h rfl, exec_perturbSet,
      exec_katRun, exec_traceRead⟩

end Sys2Proof.Machine
end

section
/-! SPDM, the measurement of objects and the attestation report (R502 to R509): what each request is answered. -/
namespace Sys2Proof.Machine

/-! ### Requests on an open channel (R502) -/

/-- What a request is answered: the response goes out, and joins the transcript of the connection with the request. -/
def spdmSaid (ch : Nat) (msg r : List Byte) (k : Spdm) (t : State) : State :=
  emit .spdm (recAt r 1 1) [ch] r { t with spdm := Map.set t.spdm ch { k with transcript := k.transcript ++ msg ++ r } }

/-- A connection that is set and then takes an answer in holds the later value. -/
theorem spdmSay_set (ch : Nat) (msg r : List Byte) (k : Spdm) (t : State) :
    spdmSay ch msg r { t with spdm := Map.set t.spdm ch k }
      = (r, { t with spdm := Map.set t.spdm ch { k with transcript := k.transcript ++ msg ++ r } }) := by
  simp only [spdmSay, spdmMod, spdmGet, Map.get_set_same, Map.set_set]

section Spdm
variable {ch : Nat} {part : Option Nat} {msg : List Byte} {s : State}

section Arrives
variable {code : Nat} {r : List Byte} {t : State} (hopen : spdmOpen s ch = true) (hcode : recAt msg 1 1 = code)
include hopen hcode

/-- A request whose answer leaves the connection where it was, but for the transcript. -/
theorem spdmArrives_keeps (hanswer : spdmAnswer ch part msg s = spdmSay ch msg r t) :
    spdmArrives code ch part msg s = .next (spdmSaid ch msg r (spdmGet t ch) t) := by
  refine congrArg Host.Outcome.next ((if_pos ⟨hopen, hcode⟩).trans ?_)
  rw [hanswer]
  rfl

/-- A request whose answer moves the connection on. -/
theorem spdmArrives_moves {f : Spdm → Spdm} (hanswer : spdmAnswer ch part msg s = spdmSay ch msg r (spdmMod ch f t)) :
    spdmArrives code ch part msg s = .next (spdmSaid ch msg r (f (spdmGet t ch)) t) := by
  refine congrArg Host.Outcome.next ((if_pos ⟨hopen, hcode⟩).trans ?_)
  rw [hanswer, spdmMod, spdmSay_set]
  rfl

end Arrives

/-! ### The answers (R502 to R505) -/

section Answer
variable (hlen : msg.length ≤ 4096)
include hlen

/-- GET_VERSION starts the connection again. -/
theorem spdmAnswer_version (hversion : recAt msg 0 1 = 0x10) (hcode : recAt msg 1 1 = 0x84) :
    spdmAnswer ch part msg s
      = spdmSay ch msg [0x10, 0x04, 0, 0, 0, 1, 0, 0x13] (spdmMod ch (fun _ => { stage := 1 }) s) := by
  simp [spdmAnswer, Nat.not_lt.2 hlen, hcode, hversion, spdmMod]

variable (hversion : recAt msg 0 1 = 0x13)
include hversion

theorem spdmAnswer_capabilities (hcode : recAt msg 1 1 = 0xE1) (hstage : (spdmGet s ch).stage = 1) :
    spdmAnswer ch part msg s
      = spdmSay ch msg (spdmMsg 0x61 0 0 (Config.spdmBody 0x61)) (spdmMod ch (fun k => { k with stage := 2 }) s) := by
  simp [spdmAnswer, Nat.not_lt.2 hlen, hversion, hcode, hstage]

theorem spdmAnswer_algorithms (hcode : recAt msg 1 1 = 0xE3) (hstage : (spdmGet s ch).stage = 2) (hcurve : Config.spdmCurve msg ≠ 0) :
    spdmAnswer ch part msg s = spdmSay ch msg (spdmMsg 0x63 0 0 (Config.spdmBody 0x63))
      (spdmMod ch (fun k => { k with stage := 3, curve := Config.spdmCurve msg }) s) := by
  simp [spdmAnswer, Nat.not_lt.2 hlen, hversion, hcode, hstage, hcurve]

section Attests
variable (hstage : (spdmGet s ch).stage = 3) (hattest : canAttest s = true)
include hstage hattest

/-- The digest of the certificate chain. -/
def chainDigest (s : State) : List Byte := padTo 64 0 (Config.sha512 (Config.certificate s.ident))

theorem spdmAnswer_digests (hcode : recAt msg 1 1 = 0x81) :
    spdmAnswer ch part msg s = spdmSay ch msg (spdmMsg 0x01 0 1 (chainDigest s)) s := by
  simp [spdmAnswer, Nat.not_lt.2 hlen, hversion, hcode, hstage, hattest, chainDigest]

theorem spdmAnswer_certificate (hcode : recAt msg 1 1 = 0x82) (hslot : recAt msg 2 1 = 0)
    (hoff : recAt msg 4 2 < (Config.certificate s.ident).length) :
    let chain := Config.certificate s.ident
    let piece := (chain.drop (recAt msg 4 2)).take (min (recAt msg 6 2) 4088)
    spdmAnswer ch part msg s = spdmSay ch msg (spdmMsg 0x02 0 0 (leBytes 2 piece.length
      ++ leBytes 2 (chain.length - recAt msg 4 2 - piece.length) ++ piece)) s := by
  simp [spdmAnswer, Nat.not_lt.2 hlen, hversion, hcode, hstage, hattest, hslot, Nat.not_le.2 hoff]

/-- A fresh nonce of 32 bytes. -/
def freshNonce (s : State) : List Byte := padTo 32 0 (Config.random s.fresh)

/-- A response signed over the transcript, the request and itself. -/
def spdmSigned (s : State) (ch : Nat) (msg m : List Byte) : List Byte := m ++ aliasSign s ((spdmGet s ch).transcript ++ msg ++ m)

/-- The digest of all measurements (R505). -/
def measureDigest (s : State) (p : Nat) : List Byte :=
  padTo 64 0 (Config.sha512 (measureIdx.flatMap fun i => padTo 64 0 (measure s p i)))

theorem spdmAnswer_challenge (hcode : recAt msg 1 1 = 0x83) (hslot : recAt msg 2 1 = 0) :
    spdmAnswer ch part msg s = spdmSay ch msg (spdmSigned s ch msg (spdmMsg 0x03 0 1
      (chainDigest s ++ freshNonce s ++ measureDigest s (spdmPart ch part)))) (tickFresh s) := by
  simp [spdmAnswer, Nat.not_lt.2 hlen, hversion, hcode, hstage, hattest, hslot, -List.append_assoc]
  rfl

theorem spdmAnswer_measurements (hcode : recAt msg 1 1 = 0xE0) :
    spdmAnswer ch part msg s = spdmSay ch msg (measurementsAnswer (spdmPart ch part) msg s) s := by
  simp [spdmAnswer, Nat.not_lt.2 hlen, hversion, hcode, hstage, hattest]

theorem spdmAnswer_keyExchange (hcode : recAt msg 1 1 = 0xE4) (hnone : (spdmGet s ch).session = none) :
    spdmAnswer ch part msg s
      = spdmSay ch msg (spdmSigned s ch msg (spdmMsg 0x64 0 0 (leBytes 2 ((s.fresh + 1) % 65536) ++ freshNonce s)))
        (spdmMod ch (fun k => { k with session := some ((s.fresh + 1) % 65536), secured := false, updates := 0 }) (tickFresh s)) := by
  simp [spdmAnswer, Nat.not_lt.2 hlen, hversion, hcode, hstage, hattest, hnone, -List.append_assoc]
  rfl

theorem spdmAnswer_finish (hcode : recAt msg 1 1 = 0xE5) (hsome : (spdmGet s ch).session.isSome = true)
    (hopen : (spdmGet s ch).secured = false) (hproof : Config.spdmProof (spdmGet s ch).transcript msg = true) :
    spdmAnswer ch part msg s = spdmSay ch msg (spdmMsg 0x65 0 0 []) (spdmMod ch (fun k => { k with secured := true }) s) := by
  simp [spdmAnswer, Nat.not_lt.2 hlen, hversion, hcode, hstage, hattest, Option.isSome_iff_ne_none.1 hsome, hopen, hproof]

section Secured
variable (hsecured : (spdmGet s ch).secured = true)
include hsecured

theorem spdmAnswer_heartbeat (hcode : recAt msg 1 1 = 0xE8) :
    spdmAnswer ch part msg s = spdmSay ch msg (spdmMsg 0x68 0 0 []) s := by
  simp [spdmAnswer, Nat.not_lt.2 hlen, hversion, hcode, hstage, hattest, hsecured]

theorem spdmAnswer_keyUpdate (hcode : recAt msg 1 1 = 0xE9) :
    spdmAnswer ch part msg s = spdmSay ch msg (spdmMsg 0x69 (recAt msg 2 1) (recAt msg 3 1) [])
      (spdmMod ch (fun k => { k with updates := k.updates + 1 }) s) := by
  simp [spdmAnswer, Nat.not_lt.2 hlen, hversion, hcode, hstage, hattest, hsecured]

theorem spdmAnswer_endSession (hcode : recAt msg 1 1 = 0xEC) :
    spdmAnswer ch part msg s = spdmSay ch msg (spdmMsg 0x6C 0 0 [])
      (spdmMod ch (fun k => { k with session := none, secured := false }) s) := by
  simp [spdmAnswer, Nat.not_lt.2 hlen, hversion, hcode, hstage, hattest, hsecured]

end Secured
end Attests
end Answer
end Spdm

/-! ### Measuring an object, SPDM as a command, and the report (R507 to R509) -/

/-- A range of a live object of the context that the request names is measured, and its digest extends WEIGHTS. -/
theorem measureObject_measures {p ctx obj off len : Nat} {host bs : List Byte} {e : ObjE} {s : State} (halign : off % 64 = 0)
    (hsome : len ≠ 0) (hctx : (ctxGet s ctx).state ≠ .free) (hpart : (ctxGet s ctx).part = p) (hget : objGet s p obj = some e)
    (hlive : e.state = 1) (hown : e.ctx = ctx) (hend : off + len ≤ e.size)
    (hread : vaRead s ctx (piecesOf (e.base + off) len) host = .ok bs) :
    let d := padTo 64 0 (rangeDigest bs)
    measureObject p ctx obj off len host s = (some d, partMod p
      (fun w => { w with weights := Config.sha512 (padTo 64 0 w.weights ++ d) }) (countVaReads ctx 7 (piecesOf (e.base + off) len) s)) := by
  have hform : ¬ (off % 64 ≠ 0 ∨ len = 0 ∨ (ctxGet s ctx).state = .free ∨ (ctxGet s ctx).part ≠ p) := by
    rintro (h | h | h | h)
    · exact h halign
    · exact hsome h
    · exact hctx h
    · exact h hpart
  have hrange : ¬ (e.state ≠ 1 ∨ e.ctx ≠ ctx ∨ off + len > e.size) := by omega
  simp only [measureObject, if_neg hform, hget, if_neg hrange, hread]

theorem exec_measureObject {ch ctx obj off len : Nat} {part : Option Nat} {host d : List Byte} {s t : State}
    (hopen : spdmOpen s ch = true) (hsecured : (spdmGet s ch).secured = true)
    (hmeasure : measureObject (spdmPart ch part) ctx obj off len host s = (some d, t)) :
    exec (.measureObject ch part ctx obj off len host) s = .next (emit .spdm 0x7E [ch] (vendorSay d) t) := by
  have hanswer : measureAnswer ch part ctx obj off len host s = (vendorSay d, t) := by
    simp only [measureAnswer, hsecured, hmeasure, Bool.not_true, Bool.false_eq_true, if_false]
  refine congrArg Host.Outcome.next ((if_pos hopen).trans ?_)
  rw [hanswer]
  rfl

/-- The channel that SPDM as a command stands for: the security controller's, or the host's own (R502). -/
abbrev cmdChannel (c : Cmd) : Nat := if c.src == .mgmt then 256 else 257

section Commands
variable {id : Nat} {c : Cmd} {s : State}

theorem exec_spdm {part : Option Nat} {host msg : List Byte} (h : Starts 0x0501 id c s) (hdata : dataIn s c host = .ok msg)
    (hplain : recAt msg 1 1 ≠ 0xFE) (hroom : (spdmAnswer (cmdChannel c) part msg s).1.length ≤ dataRoom c) :
    exec (.spdm id part host) s = .next (finish c 0 (spdmAnswer (cmdChannel c) part msg s).1.length 0
      (spdmAnswer (cmdChannel c) part msg s).1 (spdmAnswer (cmdChannel c) part msg s).2) :=
  startOp_done h (by simp only [hdata, if_neg hplain, if_neg (Nat.not_lt.2 hroom)])

theorem exec_spdm_version {part : Option Nat} {host msg : List Byte} (h : Starts 0x0501 id c s) (hdata : dataIn s c host = .ok msg)
    (hversion : recAt msg 0 1 = 0x10) (hcode : recAt msg 1 1 = 0x84) (hlen : msg.length ≤ 4096) (hroom : 8 ≤ dataRoom c) :
    exec (.spdm id part host) s = .next (finish c 0 8 0 [0x10, 0x04, 0, 0, 0, 1, 0, 0x13] { s with
      spdm := Map.set s.spdm (cmdChannel c) { stage := 1, transcript := msg ++ [0x10, 0x04, 0, 0, 0, 1, 0, 0x13] } }) := by
  have hanswer := spdmAnswer_version (ch := cmdChannel c) (part := part) (s := s) hlen hversion hcode
  rw [spdmMod, spdmSay_set] at hanswer
  rw [exec_spdm h hdata (by omega) (by rw [hanswer]; exact hroom), hanswer]
  rfl

theorem exec_attestReport {x va : Nat} {host nonce : List Byte} (h : Starts 0x0508 id c s)
    (horef : orefRange s (ctxGet s c.pkt.ctx).part c.pkt.w1 64 = .ok (x, va))
    (hread : vaRead s x (piecesOf va 64) host = .ok nonce) (hattest : canAttest s = true) (hroom : 1924 ≤ dataRoom c) :
    exec (.attestReport id host) s = .next (finish c 0 1924 0 (attestReport s (ctxGet s c.pkt.ctx).part nonce) s) :=
  startOp_done h (by
    simp only [horef, hread, hattest, if_neg (Nat.not_lt.2 hroom), Bool.not_true, Bool.false_eq_true, if_false])

end Commands

/-! ### The claim -/

/-- Settles O37: a request in its order is answered as `spdmAnswer` has it, and `spdmArrives` carries the answer out. That GET_VERSION
restarts the connection and that the transcript holds every message since is log entry 72; the codes and layouts are log entry 3's. -/
theorem spdmRequestsComplete : Obligations.SpdmRequestsComplete := by
  unfold Obligations.SpdmRequestsComplete
  refine ⟨?requests, ?object, fun id c part host msg s h hdata => ⟨exec_spdm h hdata, exec_spdm_version h hdata⟩,
    fun id x va c host nonce s => exec_attestReport⟩
  case requests =>
    intro ch part msg s hopen hlen k code say chain digest nonce signed
    refine ⟨fun hversion hcode => spdmArrives_moves hopen hcode (spdmAnswer_version hlen hversion hcode), fun hversion => ⟨?_, ?_, ?_⟩⟩
    · exact fun hcode hstage => spdmArrives_moves hopen hcode (spdmAnswer_capabilities hlen hversion hcode hstage)
    · exact fun hcode hstage hcurve => spdmArrives_moves hopen hcode (spdmAnswer_algorithms hlen hversion hcode hstage hcurve)
    · intro hstage hattest
      refine ⟨fun hcode => ?_, fun hcode hslot hoff => ?_, fun hcode hslot => ?_, fun hcode => ?_, fun hcode hnone => ?_,
        fun hcode hsome hplain hproof => ?_, fun hsecured => ⟨fun hcode => ?_, fun hcode => ?_, fun hcode => ?_⟩⟩
      · exact spdmArrives_keeps hopen hcode (spdmAnswer_digests hlen hversion hstage hattest hcode)
      · exact spdmArrives_keeps hopen hcode (spdmAnswer_certificate hlen hversion hstage hattest hcode hslot hoff)
      · exact spdmArrives_keeps hopen hcode (spdmAnswer_challenge hlen hversion hstage hattest hcode hslot)
      · exact spdmArrives_keeps hopen hcode (spdmAnswer_measurements hlen hversion hstage hattest hcode)
      · exact spdmArrives_moves hopen hcode (spdmAnswer_keyExchange hlen hversion hstage hattest hcode hnone)
      · exact spdmArrives_moves hopen hcode (spdmAnswer_finish hlen hversion hstage hattest hcode hsome hplain hproof)
      · exact spdmArrives_keeps hopen hcode (spdmAnswer_heartbeat hlen hversion hstage hattest hsecured hcode)
      · exact spdmArrives_moves hopen hcode (spdmAnswer_keyUpdate hlen hversion hstage hattest hsecured hcode)
      · exact spdmArrives_moves hopen hcode (spdmAnswer_endSession hlen hversion hstage hattest hsecured hcode)
  case object =>
    intro ch ctx obj off len part host bs e s hopen hsecured p halign hsome hctx hpart hget hlive hown hend hread d
    exact exec_measureObject hopen hsecured (measureObject_measures halign hsome hctx hpart hget hlive hown hend hread)

end Sys2Proof.Machine
end

section
/-! IDE keys, confidential mode and the interface's TDISP states (R294, R512 to R514, R518): what each command does. -/
namespace Sys2Proof.Machine

/-! ### IDE keys (R518) -/

section Session
variable {fn : Nat} {s : State} (hfn : fn < 256) (hopen : spdmOpen s fn = true) (hsecured : (spdmGet s fn).secured = true)
include hfn hopen hsecured

/-- The stream that a sub-stream number of IDE_KM stands for: the function's own, or its port's link stream (R518). -/
abbrev ideStream (s : State) (fn sub : Nat) : Nat := if sub < 6 then fn else 256 + boundPort s fn

section Keys
variable {sub : Nat} (hsub : sub < 12)
include hsub

theorem exec_ideKm_program : exec (.ideKm fn 0 sub) s = .next (emit .spdm 0x7E [fn] (vendorSay [0, BitVec.ofNat 8 sub])
    (ideSet (ideStream s fn sub) (putBits (Map.get s.ide 0 (ideStream s fn sub)) (sub % 6) 1 1) s)) := by
  have harrives : ¬ (fn ≥ 256 ∨ (!spdmOpen s fn) = true) := by simp [hfn, hopen]
  have hform : ¬ (sub ≥ 12 ∨ 0 > 2 ∨ 0 = 1 ∧ (!bitOn (Map.get s.ide 0 (ideStream s fn sub)) (sub % 6)) = true) := by
    simp [hsub]
  exact congrArg Host.Outcome.next ((if_neg harrives).trans ((if_neg (by simp [hsecured])).trans (if_neg hform)))

/-- A sub-stream that has its key starts. -/
theorem exec_ideKm_go (hkey : bitOn (Map.get s.ide 0 (ideStream s fn sub)) (sub % 6) = true) :
    exec (.ideKm fn 1 sub) s = .next (emit .spdm 0x7E [fn] (vendorSay [1, BitVec.ofNat 8 sub])
      (ideSet (ideStream s fn sub) (putBits (Map.get s.ide 0 (ideStream s fn sub)) (6 + sub % 6) 1 1) s)) := by
  have harrives : ¬ (fn ≥ 256 ∨ (!spdmOpen s fn) = true) := by simp [hfn, hopen]
  have hform : ¬ (sub ≥ 12 ∨ 1 > 2 ∨ 1 = 1 ∧ (!bitOn (Map.get s.ide 0 (ideStream s fn sub)) (sub % 6)) = true) := by
    simp [hsub, hkey]
  exact congrArg Host.Outcome.next ((if_neg harrives).trans ((if_neg (by simp [hsecured])).trans (if_neg hform)))

end Keys

/-! ### The interface (R514) -/

/-- A TDISP request of a secured session is answered with whether it is accepted. -/
theorem tdispMsg_answers (f : State → Bool × State) :
    tdispMsg fn f s = .next (emit .spdm 0x7E [fn, bit01 (f s).1] (vendorSay [BitVec.ofNat 8 (bit01 (f s).1)]) (f s).2) := by
  have harrives : ¬ (fn ≥ 256 ∨ (!spdmOpen s fn) = true) := by simp [hfn, hopen]
  simp only [tdispMsg, if_neg harrives, hsecured, Bool.not_true, Bool.false_eq_true, if_false]

/-- An accepted request. -/
theorem tdispMsg_accepts {f : State → Bool × State} {t : State} (hf : f s = (true, t)) :
    tdispMsg fn f s = .next (emit .spdm 0x7E [fn, 1] (vendorSay [1]) t) := by
  rw [tdispMsg_answers hfn hopen hsecured, hf]
  rfl

variable (hconf : confidential s fn = true)
include hconf

theorem exec_lockInterfaceRequest (hstate : fget s F.partSec_tdisp fn = 0) (hsound : secureFail s fn = none) :
    exec (.lockInterfaceRequest fn) s = .next (emit .spdm 0x7E [fn, 1] (vendorSay [1])
      (partMod fn (fun w => { w with locked20 := resourceDigest (setTdisp fn 1 s) fn }) (setTdisp fn 1 s))) := by
  change execLockInterfaceRequest fn s = _
  exact tdispMsg_accepts hfn hopen hsecured (if_neg (by simp [hconf, hstate, hsound]))

theorem exec_startInterfaceRequest (hstate : fget s F.partSec_tdisp fn = 1) (hide : ideSecure s fn = true) :
    exec (.startInterfaceRequest fn) s = .next (emit .spdm 0x7E [fn, 1] (vendorSay [1]) (setTdisp fn 2 s)) := by
  change execStartInterfaceRequest fn s = _
  exact tdispMsg_accepts hfn hopen hsecured (if_neg (by simp [hconf, hstate, hide]))

theorem exec_stopInterfaceRequest (hlocked : partLocked s fn = true) : exec (.stopInterfaceRequest fn) s
    = .next (emit .spdm 0x7E [fn, 1] (vendorSay [1]) (tdispEnd fn false (setTdisp fn 0 s))) := by
  change execStopInterfaceRequest fn s = _
  exact tdispMsg_accepts hfn hopen hsecured ((if_neg (by simp [hconf])).trans (if_pos hlocked))

end Session

/-! ### Confidential mode (R512, R513) -/

section Secure
variable {id : Nat} {c : Cmd} {s : State} (h : Starts 0x0507 id c s)
include h

theorem exec_partSecure (hset : bitOn c.pkt.w1 8 = true) (hsound : secureFail s (bitsAt c.pkt.w1 0 8) = none)
    (hstate : fget s F.partSec_tdisp (bitsAt c.pkt.w1 0 8) = 0) :
    exec (.partSecure id) s = .next (finish c 0 0 0 [] (placeKeys (bitsAt c.pkt.w1 0 8)
      (fset F.partSec_admitUnattested (bitsAt c.pkt.w1 0 8) (bitsAt c.pkt.w1 9 1)
        (fset F.partSec_confidential (bitsAt c.pkt.w1 0 8) 1 s)))) := by
  refine congrArg Host.Outcome.next ((startCmd_starts h hset _).trans ?_)
  simp only [hsound, hstate, ne_eq, not_true_eq_false, if_false]
  rfl

/-- A partition stops being confidential with the clear that this asks for (R513). -/
theorem exec_partSecureClear (hclear : bitOn c.pkt.w1 8 = false) (hconf : confidential s (bitsAt c.pkt.w1 0 8) = true)
    (hstate : fget s F.partSec_tdisp (bitsAt c.pkt.w1 0 8) = 0) (hoff : (partGet s (bitsAt c.pkt.w1 0 8)).enabled = false) :
    exec (.partSecureClear id) s = .next (finish c 0 0 0 [] (clearAsk (bitsAt c.pkt.w1 0 8) { s with
      unsecure := if s.unsecure.contains (bitsAt c.pkt.w1 0 8) then s.unsecure else s.unsecure ++ [bitsAt c.pkt.w1 0 8] })) := by
  refine congrArg Host.Outcome.next ((startCmd_starts h (congrArg Bool.not hclear) _).trans ?_)
  simp only [hconf, hstate, hoff, ne_eq, not_true_eq_false, Bool.not_true, Bool.false_eq_true, or_self, if_false]
  rfl

end Secure

/-- Settles O38, by the rule of each command. That a partition's keys are placed as it becomes confidential is log entry 84, and the
sub-numbers of IDE_KM are log entry 106's. -/
theorem interfaceSecurityCommandsComplete : Obligations.InterfaceSecurityCommandsComplete := by
  unfold Obligations.InterfaceSecurityCommandsComplete
  exact ⟨fun fn s hfn hopen hsecured => ⟨fun sub hsub => ⟨exec_ideKm_program hfn hopen hsecured hsub, exec_ideKm_go hfn hopen hsecured hsub⟩,
      exec_lockInterfaceRequest hfn hopen hsecured, exec_startInterfaceRequest hfn hopen hsecured,
      exec_stopInterfaceRequest hfn hopen hsecured⟩,
    fun id c s h => ⟨exec_partSecure h, exec_partSecureClear h⟩⟩

end Sys2Proof.Machine
end

section
/-! Licences, configuration, owners, debug authorisation and life-cycle (R524, R525, R527 to R532, R538, R543, R544, R553): how each command
starts, and how its write ends. -/
namespace Sys2Proof.Machine

section Commands
variable {id : Nat} {c : Cmd} {host b : List Byte} {s : State} (hdata : dataIn s c host = .ok b)
include hdata

/-! ### Licences and configuration records (R527, R530, R544) -/

theorem exec_licenceInstall_flash (h : Starts 0x0502 id c s) (hsigned : licenceOk s b = true) (hepoch : recAt b 6 1 ≤ s.otp.epoch) :
    exec (.licenceInstall id host) s
      = .next (sweep (setStep id .flash { s with flashJobs := s.flashJobs ++ [.licence b id] })) :=
  startOp_wait h (by
    simp only [hdata, hsigned, if_neg (Nat.not_lt.2 hepoch), h.id_eq, Bool.not_true, Bool.false_eq_true, if_false])

/-- A licence of a later epoch spends thermometer bits first. -/
theorem exec_licenceInstall_otp (h : Starts 0x0502 id c s) (hsigned : licenceOk s b = true) (hepoch : s.otp.epoch < recAt b 6 1) :
    exec (.licenceInstall id host) s
      = .next (sweep (setStep id .otp { s with otpJobs := s.otpJobs ++ [.epoch (recAt b 6 1) b id] })) :=
  startOp_wait h (by
    simp only [hdata, hsigned, gt_iff_lt, if_pos hepoch, h.id_eq, Bool.not_true, Bool.false_eq_true, if_false])

theorem exec_configInstall (h : Starts 0x0503 id c s) (hsigned : configOk s b = true) : exec (.configInstall id host) s
    = .next (sweep (setStep id .flash { s with flashJobs := s.flashJobs ++ [.config b id] })) :=
  startOp_wait h (by simp only [hdata, hsigned, h.id_eq, if_true])

/-! ### Owners (R528, R531) -/

theorem exec_ownerEnrol_nonce (h : Starts 0x0504 id c s) (hempty : b = []) :
    exec (.ownerEnrol id host) s = .next (finish c 0 0 0 (nonceBytes s) s) :=
  startOp_done h (by simp only [hdata, hempty, List.isEmpty_nil, if_true])

theorem exec_ownerEnrol (h : Starts 0x0504 id c s) (hsome : b ≠ []) (hroom : ownersUsed s < 16)
    (hsigned : enrolOk s (ownersUsed s + 1) b = true) : exec (.ownerEnrol id host) s
      = .next (sweep (setStep id .otp (newNonce { s with otpJobs := s.otpJobs
        ++ [.owner (ownersUsed s + 1) (padTo 64 0 (Config.sha512 ((b.drop 80).take 133))) id] }))) :=
  startOp_wait h (by
    simp only [hdata, List.isEmpty_iff, hsome, ge_iff_le, if_neg (Nat.not_le.2 hroom), hsigned, h.id_eq, Bool.not_true,
      Bool.false_eq_true, if_false])

/-! ### Debug authorisation (R531, R532) -/

theorem exec_debugAuth_nonce (h : Starts 0x0505 id c s) (hempty : b = []) :
    exec (.debugAuth id host) s = .next (finish c 0 0 0 (nonceBytes s) s) :=
  startOp_done h (by simp only [hdata, hempty, List.isEmpty_nil, if_true])

/-- A token for the test group alone starts an authorisation, whatever partitions are enabled. -/
theorem exec_debugAuth (h : Starts 0x0505 id c s) (hsome : b ≠ []) (htoken : tokenOk s 0x44584442 b = true) (hcaps : recAt b 80 4 = 2)
    (hlife : 0 < recAt b 84 4) (hday : recAt b 84 4 ≤ 86400) (hstate : fget s F.secStatus_lcState 0 ≠ 4) :
    exec (.debugAuth id host) s = .next (finish c 0 0 0 [] (newNonce (rset s .secDebug 0
      (BitVec.ofNat 64 (5 + bit01 (recAt b 6 1 != 0) * 32 + recAt b 84 4 * 2 ^ 32))))) := by
  obtain ⟨hinside, htest, hraw⟩ : bitOn 2 0 = false ∧ bitOn 2 1 = true ∧ bitOn 2 3 = false := by decide
  refine startOp_done h ?_
  simp [hdata, hsome, htoken, hcaps, hinside, htest, hraw, hstate, Nat.ne_of_gt hlife, Nat.not_lt.2 hday]
  rfl

end Commands

/-! ### Life-cycle, nonces and the end of an authorisation (R519, R524, R525, R531, R592) -/

theorem exec_lifecycleSet {id : Nat} {c : Cmd} {s : State} (h : Starts 0x0506 id c s) (htarget : bitsAt c.pkt.w1 0 2 ≠ 0)
    (hcheck : lifeCheck s (bitsAt c.pkt.w1 0 2) = none) :
    let row := if fget s F.secStatus_lcState 0 = 4 then lifeLead s else fget s F.secStatus_lcState 0
    exec (.lifecycleSet id) s
      = .next (sweep (setStep id .otp { s with otpJobs := s.otpJobs ++ [.life row (bitsAt c.pkt.w1 0 2) id] })) :=
  startOp_wait h (by simp only [if_neg htarget, hcheck, h.id_eq])

section Expiry
variable {s : State} (hactive : fon s F.secDebug_active 0 = true)
include hactive

/-- The end of an authorisation leaves SEC_DEBUG at zero; whether the hub is a member does not change. -/
theorem exec_debugAuthExpiry : exec .debugAuthExpiry s = .next (if isMember s = true then { rset s .secDebug 0 0 with tpClear := true }
    else logErr { code := 0x0E01, cls := clsInfo } (tpClearAll (rset s .secDebug 0 0))) := by
  have hmember : isMember (rset s .secDebug 0 0) = isMember s := isMember_congr (rget_rset_reg _ _ _ _ _ (by decide))
  rw [← hmember]
  exact congrArg _ (if_pos hactive)

end Expiry

/-! ### The ends of writes to OTP and flash (R294, R544, R553) -/

section Writes
variable {row value : Nat} {rest : List OtpJob} {s : State}

/-- The first phase of a defect row programs its value without the commit bits. -/
theorem exec_otpProgramDone_defect (hjob : s.otpJobs = .defect row value false :: rest) :
    exec (.otpProgramDone true) s = .next (sweep { s with
      otp := { s.otp with rows := Map.set s.otp.rows row (value % 2 ^ 56) }
      otpJobs := .defect row value true :: rest }) := by
  change execOtpProgramDone true s = _
  simp only [execOtpProgramDone, hjob]
  rfl

/-- The second commits it. -/
theorem exec_otpProgramDone_commit (hjob : s.otpJobs = .defect row value true :: rest) :
    exec (.otpProgramDone true) s = .next (sweep (setDefStatus (fset F.defMapout_result 0 1
      { s with otp := { s.otp with rows := Map.set s.otp.rows row value }, otpJobs := rest }))) := by
  change execOtpProgramDone true s = _
  simp only [execOtpProgramDone, hjob]
  rfl

variable {b : List Byte} {id : Nat}

theorem exec_flashWriteDone_config (hjob : s.flashJobs.find? (fun j => j.area == 1) = some (.config b id)) :
    exec (.flashWriteDone 1) s = .next (endCmd id 0
      { s with flashJobs := s.flashJobs.erase (.config b id), flash := { s.flash with config := b } }) := by
  change execFlashWriteDone 1 s = _
  simp only [execFlashWriteDone, hjob]
  rfl

theorem exec_flashWriteDone_licence (hjob : s.flashJobs.find? (fun j => j.area == 2) = some (.licence b id)) :
    exec (.flashWriteDone 2) s = .next (endCmd id 0 (fset F.secStatus_licPending 0 1
      { s with flashJobs := s.flashJobs.erase (.licence b id), flash := { s.flash with licence := b } })) := by
  change execFlashWriteDone 2 s = _
  simp only [execFlashWriteDone, hjob]
  rfl

end Writes

/-- Settles O39, by the rule of each command and of each write's end. -/
theorem lifecycleCommandsComplete : Obligations.LifecycleCommandsComplete := by
  unfold Obligations.LifecycleCommandsComplete
  refine ⟨fun id c host b s hdata => ⟨exec_licenceInstall_flash hdata, exec_licenceInstall_otp hdata, exec_configInstall hdata,
      exec_ownerEnrol_nonce hdata, exec_ownerEnrol hdata, exec_debugAuth_nonce hdata, exec_debugAuth hdata⟩,
    fun id c s => exec_lifecycleSet, fun s => rfl, fun s hactive => ⟨fun hmember => ?_, fun halone => ?_⟩,
    fun row value rest s => ⟨exec_otpProgramDone_defect, exec_otpProgramDone_commit⟩,
    fun b id s => ⟨exec_flashWriteDone_config, exec_flashWriteDone_licence, rfl⟩⟩
  · exact (exec_debugAuthExpiry hactive).trans (congrArg _ (if_pos hmember))
  · exact (exec_debugAuthExpiry hactive).trans (congrArg _ (if_neg (Bool.eq_false_iff.1 halone)))

end Sys2Proof.Machine
end

section
/-! Which writes of PART_BAYS and PART_MEM are refused (R498, R499, R516), and what a refusal leaves of both registers. -/
namespace Sys2Proof.Machine

section Bays
variable {p f : Nat} {v : Word} {s : State}

/-- An enabled partition's bays stay. -/
theorem baysRefused_of_enabled (h : (partGet s p).enabled = true) : baysRefused s p f v = true := by
  simp [baysRefused, h]

/-- So do those of a locked interface. -/
theorem baysRefused_of_locked (h : partLocked s p = true) : baysRefused s p f v = true := by
  simp [baysRefused, h]

/-- A bay of another partition is not given. -/
theorem baysRefused_of_other {b q : Nat} (hb : b < 64) (hbit : v.getLsbD b = true) (hq : partOfBay s (f * 64 + b) = some q)
    (hne : q ≠ p) : baysRefused s p f v = true := by
  refine Bool.or_eq_true_iff.2 (.inr (List.any_eq_true.2 ⟨b, List.mem_range.2 hb, ?_⟩))
  simp [hbit, hq, hne]

end Bays

section Memory
variable {p k : Nat} {v : Word} {s : State}

theorem memRefused_of_enabled (h : (partGet s p).enabled = true) : memRefused s p k v = true := by
  simp [memRefused, h]

theorem memRefused_of_locked (h : partLocked s p = true) : memRefused s p k v = true := by
  simp [memRefused, h]

/-- A range that meets one of another partition is not given. -/
theorem memRefused_of_other {q : Nat} {r o : Nat × Nat} (hr : memWord v = some r) (hq : q < 256) (hne : q ≠ p)
    (ho : o ∈ rangesOf s q) (hmeet : r.1 < o.2 ∧ o.1 < r.2) : memRefused s p k v = true := by
  have hother : ((List.range 256).any fun q => q != p && (rangesOf s q).any (rangesMeet r)) = true := by
    refine List.any_eq_true.2 ⟨q, List.mem_range.2 hq, Bool.and_eq_true_iff.2 ⟨bne_iff_ne.2 hne, ?_⟩⟩
    exact List.any_eq_true.2 ⟨o, ho, decide_eq_true hmeet⟩
  simp only [memRefused, hr, hother, Bool.or_true, Bool.true_or]

/-- A range does not leave a partition that is not clean. -/
theorem memRefused_of_unclean {o : Nat × Nat} (hv : memWord v = none) (ho : memRange s p k = some o)
    (hclean : fon s F.partSec_clean p = false) : memRefused s p k v = true := by
  simp [memRefused, hv, ho, hclean]

end Memory

/-- A refusal's record leaves every register outside the error queue's. -/
theorem rget_logRefused {code : Nat} {part : Option Nat} {r : RegName} {i : Nat} (s : State) (hr : r ∉ errRegs) (hi : i < 65536) :
    rget (logRefused code part s) r i = rget s r i :=
  (logErr_only _ s).reads r i hr hi

/-- Settles O54: each ground refuses the whole write, and a refusal touches the error queue's registers alone (`logErr_only`). That a refusal
on the grounds of R499 too leaves record 0x0B02 is log entry 85. -/
theorem resourcesBelongToOnePartition : Obligations.ResourcesBelongToOnePartition := by
  unfold Obligations.ResourcesBelongToOnePartition
  refine ⟨fun p f v s hp hf h => exec_partBaysWrite_refused hp hf ?bays, fun p k v s hp hk h => exec_partMemWrite_refused hp hk ?memory,
    fun p s i hi => ⟨rget_logRefused s (by decide) hi, rget_logRefused s (by decide) hi⟩⟩
  case bays =>
    obtain hon | hlocked | ⟨b, q, hb, hbit, hq, hne⟩ := h
    · exact baysRefused_of_enabled hon
    · exact baysRefused_of_locked hlocked
    · exact baysRefused_of_other hb hbit hq hne
  case memory =>
    obtain hon | hlocked | ⟨r, q, o, hr, hq, hne, ho, hmeet⟩ | ⟨o, hv, ho, hclean⟩ := h
    · exact memRefused_of_enabled hon
    · exact memRefused_of_locked hlocked
    · exact memRefused_of_other hr hq hne ho hmeet
    · exact memRefused_of_unclean hv ho hclean

end Sys2Proof.Machine
end

section
/-! Error records and the slots they take (R573, R574, R578, R579). -/
namespace Sys2Proof.Machine

section Record
variable {e : ErrIn} {s : State}

/-- Outside a tick, and for a source that no unit gives, the limit of R574 does not apply. -/
theorem logErr_enters (h : (∀ p, e.part = some p → inTick s p = false) ∨ e.source = 0xFFFF) : logErr e s = errEnter e s := by
  unfold logErr
  extract_lets during t
  have hlimit : (during && e.source != 0xFFFF) = false := by
    obtain h | h := h
    · have hduring : during = false := by
        unfold during
        split
        · exact h _ ‹_›
        · rfl
      simp [hduring]
    · simp [h]
  have ht : t = s := if_neg (by simp [hlimit])
  rw [ht, if_neg (by simp [hlimit])]

/-- A 32-bit index is one that its register holds. -/
theorem add32_mod (a k : Nat) : add32 a k % 2 ^ 32 = add32 a k := Nat.mod_mod _ _

/-! ### A record that finds room (R578) -/

theorem msixRaise_errq (port fn vec : Nat) (s : State) : (msixRaise port fn vec s).errq = s.errq := by
  unfold msixRaise
  extract_lets k
  split
  · rfl
  · rfl

theorem errIrq_errq (s : State) : (errIrq s).errq = s.errq := by
  unfold errIrq
  split
  · rfl
  · exact msixRaise_errq _ _ _ _

/-- Telling of a record leaves the queue as it is. -/
theorem errNotify_errq (cls : Nat) (s : State) : (errNotify cls s).errq = s.errq := by
  unfold errNotify
  extract_lets t
  have ht : t.errq = s.errq := by
    unfold t
    split
    · exact errIrq_errq s
    · rfl
  split
  · exact ht
  · exact ht

/-- And every register. -/
theorem fget_errNotify (cls : Nat) (f : Fld) (s : State) : fget (errNotify cls s) f 0 = fget s f 0 :=
  fget_congr ((errNotify_only [] cls s).reads _ _ List.not_mem_nil (by decide))

theorem errPlace_errq (r : ErrRec) (s : State) : (errPlace r s).errq = Map.set s.errq (r.seq % 4096) r := rfl

theorem errPlace_pidx (r : ErrRec) (s : State) : fget (errPlace r s) F.errqPidx_index 0 = add32 r.seq 1 := by
  unfold errPlace setHeld
  rw [fget_fset_reg _ _ _ _ _ (by decide), fget_fset_same _ _ _ _ (by decide)]
  exact add32_mod _ _

theorem errPlace_dropped (r : ErrRec) (s : State) : fget (errPlace r s) F.errqDropped_count 0 = fget s F.errqDropped_count 0 := by
  unfold errPlace setHeld
  rw [fget_fset_reg _ _ _ _ _ (by decide), fget_fset_reg _ _ _ _ _ (by decide)]
  rfl

theorem errEnter_places (hroom : errHeld s < 4096) (hnone : s.errLost = 0) :
    errEnter e s = errNotify e.cls (errPlace (errRecord s e) s) := by
  simp only [errEnter, ge_iff_le, if_neg (Nat.not_le.2 hroom), hnone, if_true]

/-! ### A record that finds the queue full (R579) -/

theorem errEnter_drops (hfull : 4096 ≤ errHeld s) : errEnter e s = errDrop s := if_pos hfull

theorem errDrop_errq (s : State) : (errDrop s).errq = s.errq := rfl

theorem errDrop_pidx (s : State) : fget (errDrop s) F.errqPidx_index 0 = add32 (fget s F.errqPidx_index 0) 1 := by
  unfold errDrop fbump
  rw [fget_fset_reg _ _ _ _ _ (by decide), fget_fset_reg _ _ _ _ _ (by decide), fget_fset_same _ _ _ _ (by decide)]
  exact add32_mod _ _

theorem errDrop_ovf (s : State) : fon (errDrop s) F.errqStatus_ovf 0 = true := by
  unfold errDrop fbump fon
  rw [fget_fset_reg _ _ _ _ _ (by decide), fget_fset_same _ _ _ _ (by decide)]
  rfl

theorem errDrop_dropped (s : State) : fget (errDrop s) F.errqDropped_count 0
    = min (fget s F.errqDropped_count 0 + 1) (2 ^ F.errqDropped_count.w - 1) := by
  unfold errDrop fbump
  rw [fget_fset_same _ _ _ _ (by decide), fget_fset_reg _ _ _ _ _ (by decide), fget_fset_reg _ _ _ _ _ (by decide)]
  exact Nat.mod_eq_of_lt (Nat.lt_of_le_of_lt (Nat.min_le_right _ _) (by decide))

end Record

/-- A write of CIDX past PIDX is ignored (R579). -/
theorem exec_errqCidxWrite_ignored {v : Word} {s : State} (h : diff32 (fget s F.errqPidx_index 0) (fget s F.errqCidx_index 0)
    < diff32 (bitsAt v.toNat 0 32) (fget s F.errqCidx_index 0)) : exec (.errqCidxWrite v) s = .next s :=
  congrArg _ (if_neg (Nat.not_le.2 h))

/-- Settles O58: a record is placed (`errPlace`) or dropped (`errDrop`), and telling of it changes neither the queue nor a register. That a
record of no unit's source enters inside a tick whatever came before is log entry 27. -/
theorem errorRecordsTakeTheNextSlot : Obligations.ErrorRecordsTakeTheNextSlot := by
  unfold Obligations.ErrorRecordsTakeTheNextSlot
  refine ⟨fun e s h => ?_, fun v s => exec_errqCidxWrite_ignored⟩
  rw [logErr_enters h]
  refine ⟨fun hroom hnone => ?placed, fun hfull => ?dropped⟩
  case placed =>
    rw [errEnter_places hroom hnone, errNotify_errq, fget_errNotify, fget_errNotify, errPlace_errq, errPlace_pidx, errPlace_dropped]
    exact ⟨Map.get?_set_same _ _ _, rfl, fun k hk => Map.get?_set_other _ _ _ _ hk, rfl, rfl⟩
  case dropped =>
    rw [errEnter_drops hfull]
    exact ⟨errDrop_errq s, errDrop_pidx s, errDrop_ovf s, errDrop_dropped s⟩

end Sys2Proof.Machine
end

section
/-! Bring-up (R538 to R555): how each step begun ends, and how the rounds of firmware distribution go on or end. -/
namespace Sys2Proof.Machine

section Steps
variable {e : BootEnv} {s : State}

theorem exec_bringupStepComplete : exec (.bringupStepComplete e) s = execBringupStepComplete e s := rfl

/-- Steps 1 to 4, which run in RECOVERY too but for the last (R545). -/
theorem firstSteps_end (hgo : bootHeld s = false) :
    (bootStep s = 1 → exec (.bringupStepComplete e) s = .next (bootNext (fset F.errqStatus_logOk 0 1 s)))
    ∧ (bootStep s = 2 → exec (.bringupStepComplete e) s = .next (bootNext (stepImage (fset F.errqStatus_logOk 0 1 s))))
    ∧ (bootStep s = 3 → exec (.bringupStepComplete e) s = .next (emit .pin 0x01 [1] [] (bootNext (stepConfig s))))
    ∧ (bootStep s = 4 → mainOn s = true → s.rounds ≠ 6 → fget s F.bootStatus_hubState 0 = 0 →
      exec (.bringupStepComplete e) s = .next (bootNext (stepMain s))) := by
  rw [exec_bringupStepComplete, execBringupStepComplete]
  refine ⟨fun hstep => ?_, fun hstep => ?_, fun hstep => ?_, fun hstep hmain hrounds hstate => ?_⟩
  · simp [hgo, hstep]
  · simp [hgo, hstep]
  · simp [hgo, hstep]
  · simp [hgo, hstep, hmain, hrounds, hstate]

section Initialising
variable (hgo : bootHeld s = false) (hstate : fget s F.bootStatus_hubState 0 = 0)
include hgo hstate

/-- Steps 5 to 7: defects, crossings and firmware (R545, R548, R549). -/
theorem unitSteps_end :
    (bootStep s = 5 → exec (.bringupStepComplete e) s = .next (bootNext (stepDefects e.targets s)))
    ∧ (bootStep s = 6 → exec (.bringupStepComplete e) s = .next (fwBroadcast
        { bootNext (e.crossings.foldl (fun s c => scarfDisable c.1 c.2 s) s) with rounds := 0, fwMissing := [] }))
    ∧ (bootStep s = 7 → e.segBad = false → s.rounds = 5 → exec (.bringupStepComplete e) s = .next (bootNext (stepLoaded s)))
    ∧ (bootStep s = 7 → e.segBad = true → exec (.bringupStepComplete e) s = .next (enterRecovery (some 0x0C02) s)) := by
  rw [exec_bringupStepComplete, execBringupStepComplete]
  refine ⟨fun hstep => ?_, fun hstep => ?_, fun hstep hsound hrounds => ?_, fun hstep hbad => ?_⟩
  · simp [hgo, hstep, hstate]
  · simp [hgo, hstep, hstate]
  · simp [hgo, hstep, hstate, hsound, hrounds]
  · simp [hgo, hstep, hstate, hbad]

/-- Steps 8 to 11: memory, sites, known answers and READY (R545, R555). -/
theorem lastSteps_end :
    (bootStep s = 8 → fget (stepMemory e s) F.bootStatus_hubState 0 = 0 →
      exec (.bringupStepComplete e) s = .next (bootNext (stepSites e.present (stepMemory e s))))
    ∧ (bootStep s = 9 → exec (.bringupStepComplete e) s = .next (bootNext s))
    ∧ (bootStep s = 10 → fget (stepKnown e s) F.bootStatus_hubState 0 = 0 →
      exec (.bringupStepComplete e) s = .next (bootNext (stepKnown e s)))
    ∧ (bootStep s = 11 → fon s F.memStatus_clearing 0 = false → fon s F.memStatus_ledgerOk 0 = true →
      exec (.bringupStepComplete e) s = .next (stepReady e.mem s)) := by
  rw [exec_bringupStepComplete, execBringupStepComplete]
  refine ⟨fun hstep hsound => ?_, fun hstep => ?_, fun hstep hsound => ?_, fun hstep hcleared hledger => ?_⟩
  · simp [hgo, hstep, hstate, hsound]
  · simp [hgo, hstep, hstate]
  · simp [hgo, hstep, hstate, hsound]
  · simp [hgo, hstep, hstate, hcleared, hledger]

end Initialising
end Steps

/-! ### Rounds of firmware distribution (R549) -/

section Rounds
variable {reports : List ((Nat × Nat × Nat × Bool) × Nat)} {s : State}

/-- The reports of units that still lack a part. -/
def lacking (reports : List ((Nat × Nat × Nat × Bool) × Nat)) (s : State) : List ((Nat × Nat × Nat × Bool) × Nat) :=
  reports.filter fun r => fwLacks s r.1 r.2 != 0

/-- What each of them lacks is remembered. -/
def lacksNoted (reports : List ((Nat × Nat × Nat × Bool) × Nat)) (s : State) : State :=
  { s with fwMissing := (lacking reports s).foldl (fun m r => Map.set m (fwUnit r.1) (fwLacks s r.1 r.2)) [] }

variable (hgo : bootHeld s = false) (hstep : bootStep s = 7) (hstate : fget s F.bootStatus_hubState 0 = 0) (hrounds : s.rounds < 5)
include hgo hstep hstate hrounds

/-- A round that a unit lacks a part after sends it the parts, and after the fourth gives its place to a spare. -/
theorem exec_repairRoundEnd : exec (.repairRoundEnd reports) s = .next (
    if (lacking reports s).isEmpty = true then { lacksNoted reports s with rounds := 5 }
    else if s.rounds < 4 then
      { (lacking reports s).foldl (fun s r => fwUnicast r.1 (fwLacks s r.1 r.2) s) (lacksNoted reports s) with rounds := s.rounds + 1 }
    else { (lacking reports s).foldl (fun s r => fwSpare r.1 s) (lacksNoted reports s) with rounds := 1, fwMissing := [] }) := by
  have hdue : ¬ (bootStep s ≠ 7 ∨ fget s F.bootStatus_hubState 0 ≠ 0 ∨ bootHeld s = true ∨ s.rounds ≥ 5) := by
    rintro (h | h | h | h)
    · exact h hstep
    · exact h hstate
    · exact Bool.false_ne_true (hgo.symm.trans h)
    · exact Nat.not_le.2 hrounds h
  exact congrArg _ (if_neg hdue)

theorem exec_repairRoundEnd_done (hnone : lacking reports s = []) :
    exec (.repairRoundEnd reports) s = .next { lacksNoted reports s with rounds := 5 } := by
  rw [exec_repairRoundEnd hgo hstep hstate hrounds, if_pos (List.isEmpty_iff.2 hnone)]

theorem exec_repairRoundEnd_again (hsome : lacking reports s ≠ []) (hmore : s.rounds < 4) :
    exec (.repairRoundEnd reports) s = .next { (lacking reports s).foldl (fun s r => fwUnicast r.1 (fwLacks s r.1 r.2) s)
      (lacksNoted reports s) with rounds := s.rounds + 1 } := by
  rw [exec_repairRoundEnd hgo hstep hstate hrounds, if_neg (mt List.isEmpty_iff.1 hsome), if_pos hmore]

theorem exec_repairRoundEnd_spares (hsome : lacking reports s ≠ []) (hlast : s.rounds = 4) :
    exec (.repairRoundEnd reports) s = .next { (lacking reports s).foldl (fun s r => fwSpare r.1 s) (lacksNoted reports s) with
      rounds := 1, fwMissing := [] } := by
  rw [exec_repairRoundEnd hgo hstep hstate hrounds, if_neg (mt List.isEmpty_iff.1 hsome), if_neg (by omega)]

end Rounds

/-- Settles O40, step by step and round by round. That LOG_OK is set at the ends of steps 1 and 2 is log entry 74. -/
theorem bringUpStepsComplete : Obligations.BringUpStepsComplete := by
  unfold Obligations.BringUpStepsComplete
  refine ⟨fun e s hgo => ?steps, fun reports s hgo hstep hstate hrounds => ⟨exec_repairRoundEnd_done hgo hstep hstate hrounds,
    exec_repairRoundEnd_again hgo hstep hstate hrounds, exec_repairRoundEnd_spares hgo hstep hstate hrounds⟩⟩
  case steps =>
    obtain ⟨h1, h2, h3, h4⟩ := firstSteps_end (e := e) hgo
    refine ⟨h1, h2, h3, h4, fun hstate => ?_⟩
    obtain ⟨h5, h6, h7, hbad⟩ := unitSteps_end (e := e) hgo hstate
    exact ⟨h5, h6, h7, hbad, lastSteps_end hgo hstate⟩

end Sys2Proof.Machine
end

section
/-! Power, resets, firmware in recovery, temperature and core voltage (R542, R556, R557, R605 to R614, R620): what each event and command
does. -/
namespace Sys2Proof.Machine

/-! ### Power good and the reset pin (R606 to R610) -/

section Power
variable {s : State}

theorem exec_stbyPwrgdFall (hon : bootStep s ≠ 0) : exec .stbyPwrgdFall s = .next (fset F.pwrStatus_strapStby 0 0
    (fset F.bootStatus_step 0 0 { powerOn true s with flash := (cutJobs s).flash, perst := [] })) :=
  congrArg _ (if_neg hon)

theorem exec_mainPwrgdRise {strap : Nat} (hstep : bootStep s = 4) (hoff : mainOn s = false) (hpin : s.rstLow = false)
    (htrip : s.tripped = false) (hfail : s.failRestart = false) : exec (.mainPwrgdRise strap) s
      = .next (fset F.gctlHubIdent_hubId 0 strap (fset F.pwrStatus_mainOn 0 1 { s with cold := false })) :=
  congrArg _ (if_neg (by simp [hstep, hoff, hpin, htrip, hfail]))

theorem exec_mainPwrgdFall (hstep : 4 ≤ bootStep s) (hcold : s.cold = false) (htrip : s.tripped = false) (hmain : mainOn s = true) :
    exec .mainPwrgdFall s = .next (fset F.pwrStatus_mainFail 0 1 { mainDown s with failRestart := true }) :=
  congrArg _ (if_neg (by simp [Nat.not_lt.2 hstep, hcold, htrip, hmain]))

theorem exec_mainFailRestart (hfail : s.failRestart = true) :
    exec .mainFailRestart s = .next { powerOn false s with failRestart := false, tripped := s.tripped } :=
  congrArg _ (if_pos hfail)

theorem exec_sysRstN (hon : bootStep s ≠ 0) : exec .sysRstN s = .next { powerOn false s with rstLow := true, tripped := false } :=
  congrArg _ (if_neg hon)

/-- A hub that is no member takes the reset it owes, of the scope asked for (R557). -/
theorem exec_resetDeferredTimeout {scope : Nat} (halone : isMember s = false) (howed : s.resetOwed = some scope) :
    exec .resetDeferredTimeout s = .next (powerOn (decide (scope = 3)) s) := by
  refine congrArg Host.Outcome.next ((if_neg (Bool.eq_false_iff.1 halone)).trans ?_)
  simp only [resetDue, howed]

theorem exec_fwCommitReset (howed : s.fwOwed = true) : exec .fwCommitReset s = .next { powerOn false s with tripped := s.tripped } :=
  congrArg _ (if_pos howed)

end Power

/-! ### RESET (R556, R557) -/

section Reset
variable {id : Nat} {c : Cmd} {s : State} (h : Starts 0x0603 id c s)
include h

/-- A RESET of a scope whose start leaves it waiting. -/
theorem resetCmd_waits {scope : Nat} {f : Nat → State → Done × State} {w : CmdStep} {t : State} (hscope : bitsAt c.pkt.w1 0 2 = scope)
    (hf : f (bitsAt c.pkt.w1 2 8) s = (.wait w, t)) : resetCmd scope f id s = .next (sweep (setStep id w t)) := by
  refine congrArg Host.Outcome.next ((startCmd_starts (sel := fun p => bitsAt p.w1 0 2 == scope) h (beq_iff_eq.2 hscope) _).trans ?_)
  rw [hf, ← h.id_eq]
  rfl

theorem exec_resetPartition (hscope : bitsAt c.pkt.w1 0 2 = 0) : exec (.resetPartition id) s
    = .next (sweep (setStep id (.reset (baysOfPart s (bitsAt c.pkt.w1 2 8)) []) (resetPartition (bitsAt c.pkt.w1 2 8) s))) := by
  change execResetPartition id s = _
  exact resetCmd_waits h hscope rfl

/-- The partitions with a bay in a field. -/
def partsOfField (s : State) (n : Nat) : List Nat := (List.range 256).filter fun p => rget s .partBays (p * 9 + n) != 0

/-- The bays that the reset of a field reaches: those of its partitions, and its own. -/
def fieldBays (s : State) (n : Nat) : List Nat :=
  ((partsOfField s n).flatMap (baysOfPart s) ++ (List.range 64).map (· + n * 64)).eraseDups

theorem exec_resetField (hscope : bitsAt c.pkt.w1 0 2 = 1) (hfield : bitsAt c.pkt.w1 2 8 ≤ 8) :
    let n := bitsAt c.pkt.w1 2 8
    let t := resetBays (fieldBays s n) ((partsOfField s n).foldl (fun s p => resetPartState p s) s)
    exec (.resetField id) s = .next (sweep (setStep id (.reset (fieldBays s n) (slicesOfField n))
      ((slicesOfField n).foldl (fun s i => sliceStop i s) t))) := by
  change execResetField id s = _
  exact resetCmd_waits h hscope (if_neg (Nat.not_lt.2 hfield))

/-- A RESET of hub or standby scope completes, and the hub then departs; the reset is owed (R557). -/
theorem resetWide_owes {scope : Nat} (hscope : bitsAt c.pkt.w1 0 2 = scope) (hnone : s.resetOwed = none) :
    let t := finish c 0 0 0 [] { s with resetOwed := some scope }
    resetWide scope id s = .next (if t.resetOwed = none then t else leaveDomain t) := by
  intro t
  have hstart : startCmd 0x0603 (fun p => bitsAt p.w1 0 2 == scope) (fun _ s => (.st 0, { s with resetOwed := some scope })) id s = t :=
    startCmd_starts (sel := fun p => bitsAt p.w1 0 2 == scope) h (beq_iff_eq.2 hscope) _
  simp only [resetWide, hstart, hnone]

end Reset

/-! ### Firmware in recovery (R539, R540, R542) -/

section Firmware
variable {id : Nat} {c : Cmd} {s : State}

/-- The first piece of an image erases the area that it goes to. -/
theorem exec_fwImage {b : List Byte} (h : Starts 0x0601 id c s) (hdata : dataIn s c [] = .ok b)
    (hrecovery : fget s F.bootStatus_hubState 0 = 2) (hfirst : c.pkt.w1 = 0) (hlen : b.length ≤ 2 ^ 26) :
    exec (.fwImage id) s = .next (sweep (setStep id .flash { s with
      flashJobs := s.flashJobs ++ [.image 0 b id]
      flash := { s.flash with image := [] }
      imgNext := none })) := by
  have horder : ¬ (fget s F.bootStatus_hubState 0 ≠ 2 ∨ 0 ≠ 0 ∧ s.imgNext ≠ some 0) := by simp [hrecovery]
  have hfits : ¬ 0 + b.length > 2 ^ 26 := by omega
  refine startOp_wait h ?_
  simp only [hdata, hfirst, if_neg horder, if_neg hfits, h.id_eq, if_true]

theorem exec_fwCommit {v : Nat} (h : Starts 0x0602 id c s) (hrecovery : fget s F.bootStatus_hubState 0 = 2)
    (himage : imageVersion s.flash.image = some v) (hversion : s.cfg.minFw ≤ v) :
    exec (.fwCommit id) s = .next (finish c 0 0 0 [] (fset F.bootCtrl_recoveryNext 0 0 { s with fwOwed := true })) :=
  startOp_done h (by simp only [hrecovery, himage, if_neg (Nat.not_lt.2 hversion), ne_eq, not_true_eq_false, if_false]; rfl)

end Firmware

/-! ### Temperature and core voltage (R605, R612 to R614, R620) -/

section Thermal
variable {temps : List Int} {s : State}

/-- PWR_STATUS shows the hottest sensor. -/
def hottestShown (temps : List Int) (s : State) : State :=
  fset F.pwrStatus_hotBay 0 (hottest temps).1 (fset F.pwrStatus_hotTemp 0 (min (hottest temps).2.toNat 4095) s)

/-- The same where the temperature is well below the warning. -/
def thermalCool (temps : List Int) (s : State) : State := fset F.pwrStatus_thermWarn 0 0 (hottestShown temps s)

/-- The sensors at the trip threshold. -/
def hotSensors (temps : List Int) (u : State) : List Nat := (List.range 594).filter fun i => decide (temps.getD i 0 ≥ tripAt u)

section Cool
variable (hmain : mainOn s = true) (hall : temps.length = 594)
  (hcool : (hottest temps).2 + 16 ≤ fget (hottestShown temps s) F.thermCtrl_warn 0)
include hmain hall hcool

/-- A cool sample trips where a sensor is at the threshold a second time, and is otherwise kept. -/
theorem execThermalSample_cool : execThermalSample temps s
    = .next (if (hotSensors temps (thermalCool temps s)).any (thermalCool temps s).hot.contains = true then
        fset F.pwrStatus_thermTrip 0 1 { mainDown (emit .pin 0x02 [1] [] (thermalCool temps s)) with tripped := true }
      else { thermalCool temps s with temps := temps, hot := hotSensors temps (thermalCool temps s) }) := by
  have hserved : ¬ ((!mainOn s) = true ∨ temps.length ≠ 594) := by simp [hmain, hall]
  have hbelow : ¬ (hottest temps).2 ≥ fget (hottestShown temps s) F.thermCtrl_warn 0 := by omega
  unfold hottestShown at hbelow hcool
  simp only [execThermalSample, if_neg hserved, if_neg hbelow, if_pos hcool]
  rfl

theorem exec_thermalSample_kept (hnone : (hotSensors temps (thermalCool temps s)).any (thermalCool temps s).hot.contains = false) :
    exec (.thermalSample temps) s
      = .next { thermalCool temps s with temps := temps, hot := hotSensors temps (thermalCool temps s) } :=
  (execThermalSample_cool hmain hall hcool).trans (congrArg _ (if_neg (Bool.eq_false_iff.1 hnone)))

theorem exec_thermalSample_trips (hagain : (hotSensors temps (thermalCool temps s)).any (thermalCool temps s).hot.contains = true) :
    exec (.thermalSample temps) s
      = .next (fset F.pwrStatus_thermTrip 0 1 { mainDown (emit .pin 0x02 [1] [] (thermalCool temps s)) with tripped := true }) :=
  (execThermalSample_cool hmain hall hcool).trans (congrArg _ (if_pos hagain))

end Cool

theorem exec_vcoreAdjust {field : Nat} {up : Bool} (hfield : field ≤ 8) (hmain : mainOn s = true)
    (hsettled : fon s F.vcoreTarget_settling field = false) :
    let now := fget s F.vcoreTarget_targetMv field
    let mv := if up = true then now + 5 else now - 5
    coreOk mv = true → exec (.vcoreAdjust field up) s = .next (commandCore field mv s) := by
  intro now mv hok
  have hallowed : ¬ (field > 8 ∨ (!mainOn s) = true ∨ (!coreOk mv) = true ∨ fon s F.vcoreTarget_settling field = true) := by
    simp [Nat.not_lt.2 hfield, hmain, hok, hsettled]
  exact congrArg _ (if_neg hallowed)

end Thermal

/-- Settles O41, by the rule of each event and command. That a RESET of hub or standby scope completes before the hub departs, and that a trip
outlasts the resets of FW_COMMIT and of a main-power failure, are log entry 75. -/
theorem powerResetAndThermalCommandsComplete : Obligations.PowerResetAndThermalCommandsComplete := by
  unfold Obligations.PowerResetAndThermalCommandsComplete
  refine ⟨fun strap s => rfl, fun s => exec_stbyPwrgdFall, fun strap s => exec_mainPwrgdRise, fun s => exec_mainPwrgdFall,
    fun s => exec_mainFailRestart, fun s => exec_sysRstN, fun s => rfl,
    fun id c s h => ⟨exec_resetPartition h, exec_resetField h, resetWide_owes h, resetWide_owes h⟩,
    fun s halone => ⟨exec_resetDeferredTimeout halone, exec_resetDeferredTimeout halone⟩, fun id c b s => exec_fwImage,
    fun id v c s => exec_fwCommit, fun s => exec_fwCommitReset,
    ?thermal,
    fun field up s => exec_vcoreAdjust, fun field s hfield => congrArg _ (if_neg (Nat.not_lt.2 hfield))⟩
  case thermal =>
    intro temps s hmain hall h t hcool u hot
    have hu : u = thermalCool temps s := rfl
    have hhot : hot = hotSensors temps (thermalCool temps s) := rfl
    rw [hhot, hu]
    exact ⟨exec_thermalSample_kept hmain hall hcool, exec_thermalSample_trips hmain hall hcool⟩

end Sys2Proof.Machine
end

section
/-! The management port (R560 to R563): what each request answers, and what O43 rests on. O43 itself is not settled. Its clause on ENTDAA
gives a provisioned identifier without the MIPI manufacturer identifier, which the model places at bit 33 (R560) and takes from the
site data file as an opaque number. So O43 says of that number that its low 15 bits are zero, and no more. -/
namespace Sys2Proof.Machine

section Address
variable {da : Nat} {s : State}

/-- The address that ENTDAA gives stands in MGMT_STATUS. -/
def mgmtAddressed (da : Nat) (s : State) : State := fset F.mgmtStatus_daValid 0 1 (fset F.mgmtStatus_da 0 da s)

theorem exec_entdaa (hon : bootStep s ≠ 0) :
    exec (.entdaa da) s = .next (emit .mgmt 0x20 [provisioned s, da % 128] [] (mgmtAddressed da s)) :=
  congrArg _ (if_neg hon)

/-- An address leaves the strap alone. -/
theorem strapStby_mgmtAddressed : fget (mgmtAddressed da s) F.pwrStatus_strapStby 0 = fget s F.pwrStatus_strapStby 0 := by
  unfold mgmtAddressed
  rw [fget_fset_reg _ _ _ _ _ (by decide), fget_fset_reg _ _ _ _ _ (by decide)]

theorem provisioned_eq_iff :
    provisioned s = 0xD0C1 * 65536 + fget s F.pwrStatus_strapStby 0 ↔ Config.mipiId % 2 ^ 15 = 0 := by
  unfold provisioned
  omega

/-- ENTDAA answers with the part number and the strap alone exactly where the manufacturer identifier is zero. -/
theorem exec_entdaa_iff (hon : bootStep s ≠ 0) :
    exec (.entdaa da) s = .next (emit .mgmt 0x20
      [0xD0C1 * 65536 + fget (mgmtAddressed da s) F.pwrStatus_strapStby 0, da % 128] [] (mgmtAddressed da s))
    ↔ Config.mipiId % 2 ^ 15 = 0 := by
  rw [exec_entdaa hon, strapStby_mgmtAddressed, ← provisioned_eq_iff (s := s)]
  simp [emit]

theorem bootStep_reset_ne_zero : bootStep State.reset ≠ 0 := by
  obtain ⟨-, hboot, -⟩ := resetHoldsTheStatedValues
  unfold bootStep fget
  rw [show F.bootStatus_step.reg = .bootStatus from rfl, hboot]
  decide

end Address

section Requests
variable {s : State} (haddr : fon s F.mgmtStatus_daValid 0 = true)
include haddr

theorem mctp_addressed (f : State → State) : mctp f s = .next (f s) := congrArg _ (if_pos haddr)

theorem exec_setEndpointId {e : Nat} (hzero : e % 256 ≠ 0) (hall : e % 256 ≠ 255) :
    exec (.setEndpointId e) s = .next (emit .mgmt 0x101 [0, e % 256] [] (fset F.mgmtStatus_eid 0 (e % 256) s)) := by
  change execSetEndpointId e s = _
  exact (mctp_addressed haddr _).trans (congrArg _ (if_neg (not_or.2 ⟨hzero, hall⟩)))

section Griset
variable {tag : Nat} {bytes : List Byte} (htype : recAt bytes 0 1 = 0x7E) (hvendor : recAt bytes 1 2 = Config.vendorId)
  (hset : recAt bytes 3 1 = 1) (hmin : 68 ≤ bytes.length) (hmax : bytes.length ≤ 4164)
include htype hvendor hset hmin hmax

theorem exec_grisetMctpRequest_queued (hroom : fget s F.mgmtStatus_queued 0 < 8) : exec (.grisetMctpRequest tag bytes) s
    = .next (sweep (enterCmd .mgmt tag (packetIn ((bytes.drop 4).take 64)) (bytes.drop 68) none
        (fset F.mgmtStatus_queued 0 (fget s F.mgmtStatus_queued 0 + 1) s))) := by
  change execGrisetMctpRequest tag bytes s = _
  refine (mctp_addressed haddr _).trans (congrArg _ ((if_neg ?_).trans (if_neg (Nat.not_le.2 hroom))))
  simp [htype, hvendor, hset, Nat.not_lt.2 hmin, Nat.not_lt.2 hmax]

theorem exec_grisetMctpRequest_dropped (hfull : 8 ≤ fget s F.mgmtStatus_queued 0) :
    exec (.grisetMctpRequest tag bytes) s = .next (fbump F.mgmtStatus_drops 0 1 s) := by
  change execGrisetMctpRequest tag bytes s = _
  refine (mctp_addressed haddr _).trans (congrArg _ ((if_neg ?_).trans (if_pos hfull)))
  simp [htype, hvendor, hset, Nat.not_lt.2 hmin, Nat.not_lt.2 hmax]

end Griset

/-- The record after the last sensor's is record 0. -/
theorem exec_getpdr_sensor {h n : Nat} (hh : h ≠ 0) (hn : sensorNums[h - 1]? = some n) : exec (.getpdr h) s
    = .next (emit .pldm 0x1251 [0, if h < sensorNums.length then h + 1 else 0, n] [] s) := by
  change execGetpdr h s = _
  refine (mctp_addressed haddr _).trans ?_
  simp only [if_neg hh, hn]

theorem exec_getsensorreading_hottest (hmain : mainOn s = true) :
    exec (.getsensorreading 0x300) s = .next (emit .pldm 0x1211 [0, 0, fget s F.pwrStatus_hotTemp 0] [] s) := by
  change execGetsensorreading 0x300 s = _
  refine (mctp_addressed haddr _).trans ?_
  simp [sensorSide, sensorValue, hmain]

theorem exec_getsensorreading_off (hmain : mainOn s = false) :
    exec (.getsensorreading 0x300) s = .next (emit .pldm 0x1211 [0, 2] [] s) := by
  change execGetsensorreading 0x300 s = _
  refine (mctp_addressed haddr _).trans ?_
  simp [sensorSide, hmain]

theorem exec_seteventreceiver (e : Nat) :
    exec (.seteventreceiver e) s = .next (emit .pldm 0x1204 [0] [] { s with pldmTo := some (e % 256) }) := by
  change execSeteventreceiver e s = _
  exact mctp_addressed haddr _

end Requests

/-- What O43 comes to: every clause but that on ENTDAA holds, and that one holds exactly where the manufacturer identifier of the
site data file is zero in its 15 bits (R560). -/
theorem managementPortRequestsComplete_iff : Obligations.ManagementPortRequestsComplete ↔ Config.mipiId % 2 ^ 15 = 0 := by
  unfold Obligations.ManagementPortRequestsComplete
  refine ⟨fun ⟨hentdaa, _⟩ => (exec_entdaa_iff bootStep_reset_ne_zero).1 (hentdaa 0 State.reset bootStep_reset_ne_zero),
    fun hmipi => ⟨fun da s hon => (exec_entdaa_iff hon).2 hmipi, fun s haddr => ?requests⟩⟩
  case requests =>
    exact ⟨fun e => exec_setEndpointId haddr, mctp_addressed haddr _, fun ty => mctp_addressed haddr _, mctp_addressed haddr _,
      fun sel => mctp_addressed haddr _,
      fun tag bytes htype hvendor hset hmin hmax => ⟨exec_grisetMctpRequest_queued haddr htype hvendor hset hmin hmax,
        exec_grisetMctpRequest_dropped haddr htype hvendor hset hmin hmax⟩,
      mctp_addressed haddr _, fun ty => mctp_addressed haddr _, mctp_addressed haddr _,
      ⟨mctp_addressed haddr _, mctp_addressed haddr _⟩, mctp_addressed haddr _,
      ⟨mctp_addressed haddr _, fun h n => exec_getpdr_sensor haddr⟩, exec_getsensorreading_hottest haddr,
      exec_getsensorreading_off haddr, mctp_addressed haddr _, exec_seteventreceiver haddr⟩

end Sys2Proof.Machine
end
